-- ==== Sys2Proof/Word.lean ====
section
/-! DEFINITION. The plain word types of the Cranan 9600 and the sorted map that holds sparse state.

A `Map` lists only what exists, keys in rising order; `Map.set` keeps the order, so that equal contents are
equal data. -/

namespace Sys2Proof

/-- A scalar register or control register value. -/
abbrev Word := BitVec 64

/-- One byte. -/
abbrev Byte := BitVec 8

/-- A finite map from numbers, sparse, keys rising. -/
abbrev Map (α : Type) := List (Nat × α)

namespace Map

/-- The value listed at `k`. -/
def find? {α : Type} (m : Map α) (k : Nat) : Option α :=
  match m with
  | [] => none
  | (k', v) :: r => if k' = k then some v else find? r k

/-- The map with `v` listed at `k`. -/
def set {α : Type} (m : Map α) (k : Nat) (v : α) : Map α :=
  match m with
  | [] => [(k, v)]
  | (k', v') :: r =>
    if k < k' then (k, v) :: (k', v') :: r
    else if k' = k then (k, v) :: r
    else (k', v') :: set r k v

/-- The map with nothing listed at `k`. -/
def erase {α : Type} (m : Map α) (k : Nat) : Map α :=
  match m with
  | [] => []
  | (k', v') :: r => if k' = k then erase r k else (k', v') :: erase r k

/-- The value at `k`, or `d` where nothing is listed. -/
def getD {α : Type} (m : Map α) (k : Nat) (d : α) : α := (find? m k).getD d

/-- The keys, rising. -/
def keys {α : Type} (m : Map α) : List Nat := m.map Prod.fst

/-- The values, by rising key. -/
def vals {α : Type} (m : Map α) : List α := m.map Prod.snd

end Map

end Sys2Proof
end

