-- ==== Sys2Proof/Config.lean ====
section
/-! DEFINITION. What an implementation fixes and what the spec leaves open, as constants without a body: nothing
can be proved about their values. A fresh value is such a constant applied to the counter `State.ticket`. -/

namespace Sys2Proof.Config

/-- Which of several due moves runs first (01 R21, 03 R85: the spec gives no order). (DESIGN CHOICE, log 3) -/
opaque order : Nat → Nat
/-- How many cycles an unordered leg takes beyond the first (03 R83: the device does not fix it). -/
opaque delay : Nat → Nat
/-- A choice between two outcomes that the spec both allows. -/
opaque flag : Nat → Bool
/-- A byte of a poisoned read whose home die is lost, by the read and its address (20 R480 gives it no value). -/
opaque lostByte : Nat → Nat → BitVec 8
/-- A double-bit error that strikes a core's store at the end of a cycle (02 R54), or of a queue (20 R479): the core, the store (0 scratchpad,
1 tiles, 2 ACS, else a queue's head entry) and the unit, for a queue job × 8 + queue; none where nothing is struck. (DESIGN CHOICE, log 105) -/
opaque upset : Nat → Option (Nat × Nat × Nat)
/-- Which free frame F2 takes, as an index (20 R464 step 1, R467, 21 R494). -/
opaque frame : Nat → Nat
/-- The GiB of HBM that F2 keeps for page tables and its own use (23 R524 gives its size, not its place). -/
opaque ownGib : Nat
/-- The line of that GiB in which F2 keeps a table entry, of stage 2 or of stage 1, by its key (`tableKey`). -/
opaque tableLine : Bool → Nat → Nat
/-- Where F2 places the stage-1 root table of a context (20 R457, R462). -/
opaque s1root : Nat → Word
/-- The 1588 grandmaster's time when F4 steps `PTPT` (21 R489 stage 6). -/
opaque grandmaster : Nat → Word
/-- Whether a cycle of the clock is slewed by a nanosecond while F4 has some to slew (08 R235). -/
opaque slew : Nat → Bool
/-- The old or the new bytes of code that the running kernel rewrites (06 R526). -/
opaque staleCode : Nat → Bool
/-- The 800GbE port that F4 chooses for a session (22 R497). -/
opaque sessionPort : Nat → Nat
/-- The REFILL that F6 lowers to in a throttle (21 R495). -/
opaque throttleRefill : Nat → Nat → Nat

/-- The fused SHA-256 of the image signing key (21 R489 stage 1). -/
opaque keyHash : List Byte
/-- The fused security version. -/
opaque fusedSvn : BitVec 32
/-- The fused serial. -/
opaque serial : Word
/-- Whether the fuse check of stage 1 succeeds. -/
opaque fuseCheck : Bool
/-- Whether training in stages 4 and 5 succeeds, and the other unnamed checks of a stage. -/
opaque stageCheck : Nat → Bool
/-- The image of firmware core `n` in the serial NOR flash (21 R489 stages 2 and 3), header and body. (DESIGN CHOICE, log 62) -/
opaque image : Nat → List Byte
/-- The firmware version of core `n` (19 R453 `VERSION`). -/
opaque fwVersion : Nat → Word
/-- The identity public key, x then y (21 R491). -/
opaque identityPub : List Byte
/-- The beacon public key of the boot numbered by its argument (22 R512). -/
opaque beaconPub : Nat → List Byte
/-- An ECDSA P-256 signature (r, s) of a digest with the identity key (`false`) or the beacon key (`true`); the nonce is drawn
anew for each, so the last argument is a ticket. -/
opaque ecdsaSign : Bool → List Byte → Nat → List Byte
/-- Weatum's DER certificate of the identity key (21 R491). -/
opaque certificate : List Byte
/-- Sensor readings that `TELEMETRY` returns in groups 0 and 1 (21 R496). -/
opaque reading : Nat → Nat → Nat → Word
/-- The router addresses the operator configured for the beacon (22 R511). -/
opaque beaconRouters : List Word
/-- Whether F7 has enabled the pair of partitions between this package and another (09 R271, 19 R434): the other package, its
partition, and the own partition. -/
opaque pairEnabled : Nat → Nat → Nat → Bool
/-- Which of a die's two HBM controllers serves a line (23 R518 numbers 16 controllers and gives no map). -/
opaque hbmOf : Nat → Nat

/-- The size that F1 gave a collective group of a context, by CTXID and number; one outside 2 to 512 is no group (09 R265 names no command
that creates one). -/
opaque groupSize : Nat → Nat → Nat
/-- The die of a member of such a group, by CTXID, number and rank. -/
opaque rankDie : Nat → Nat → Nat → Nat

end Sys2Proof.Config
end

