-- ==== Sys2Proof/Syntax.lean ====
section
/-! DEFINITION. The instructions and events of the Cranan 9600, one constructor of `Instr` for each row of
spec/opcode_table.json, with the operand bundles they carry.

A command's immediate operand is the value after extension (06 R179), so a value that an `EXT` prefix supplies
(06 R180) and one that IMM32 holds are the same operand. The operands of event rows stand in `State.args`: the place
where the event happens and what arrives from outside the device. -/

namespace Sys2Proof

/-- One of the 32 scalar registers of a stream (01 R15). -/
abbrev SReg := Fin 32
/-- One of the 32 handles of a job (02 R69). -/
abbrev HReg := Fin 32
/-- One of the 32 predicates of a job (07 R199). -/
abbrev PReg := Fin 32
/-- One of the 16 generators of a stream (10 R280). -/
abbrev GReg := Fin 16
/-- One of the 8 branch registers of a stream (07 R206). -/
abbrev BReg := Fin 8
/-- One of the 8 queues of a job (07 R213). -/
abbrev QReg := Fin 8
/-- A tile number of the window, as a command can name it (06 R179). -/
abbrev Tile := Fin 48
/-- A sampler register (12 R343). -/
abbrev KReg := Fin 16

/-- A stream's letter; the order is that of 06 R172. -/
inductive Letter where
  | a | m | v | x
  deriving DecidableEq, Repr

/-- A stream: the record number of its job and its letter. -/
structure Ref where
  job : Nat
  letter : Letter
  deriving DecidableEq, Repr

/-- Guard, wait and signal fields of a command word (06 R176). `sig` holds SSEM and SINC (increment − 1). -/
structure Ctl where
  neg : Bool
  pred : Fin 16
  wait : Option (BitVec 8 × BitVec 7)
  sig : Option (BitVec 8 × BitVec 3)
  deriving DecidableEq, Repr

/-- The unconditional command with no sync fields. -/
def Ctl.plain : Ctl := ⟨false, 0, none, none⟩

/-- Semaphore index operand (07 R188, SUB[1]). -/
inductive SemIdx where
  | imm (i : BitVec 8)
  | reg (r : SReg)
  deriving DecidableEq, Repr

/-- Semaphore amount operand (07 R188, SUB[0]). -/
inductive SemAmt where
  | imm (v : BitVec 24)
  | reg (r : SReg)
  deriving DecidableEq, Repr

/-- Scopes of ordering promises (03 R82), in the coding of `FENCE` (09 R258). -/
inductive Scope where
  | stream | job | core | die | package | fabric
  deriving DecidableEq, Repr

/-- Scopes of `BAR` other than `LAUNCH` (07 R188). -/
inductive BarScope where
  | core | die | package
  deriving DecidableEq, Repr

/-- Condition codes of `CMP` (07 R203). -/
inductive Cc where
  | eq | ne | lt | le | gt | ge | ltu | leu | gtu | geu
  deriving DecidableEq, Repr

/-- Condition codes of `FCMP` and `VCMP` (07 R203). -/
inductive Fcc where
  | eq | ne | lt | le | gt | ge | ord | uno
  deriving DecidableEq, Repr

/-- The source of a control-register write (08 R228): a register, or a 20-bit immediate. -/
inductive CsrSrc where
  | reg (r : SReg)
  | imm (v : BitVec 20)
  deriving DecidableEq, Repr

/-- An input of an element-wise vector command (10 R289): a generator, or a scalar with its format code. -/
inductive VArg where
  | gen (g : GReg)
  | scalar (s : SReg) (fmt : Fin 10)
  deriving DecidableEq, Repr

/-- Micro-operations of `VCHAIN` (10 R295), in code order 1 to 18. -/
inductive MicroOp where
  | add | sub | rsub | mul | min | max | fmaz | mov | abs | neg | exp | log | rcp | rsq | tanh | sigm | gelu | silu
  deriving DecidableEq, Repr

/-- What a micro-operation selects (10 R294). -/
inductive MicroSel where
  | x | y | z | k | acc
  deriving DecidableEq, Repr

/-! ### Operand bundles of commands -/

/-- A command with no operand. -/
structure Op0 where
  c : Ctl
  deriving DecidableEq, Repr
/-- `RDV n`, and `BAR.LAUNCH n`. -/
structure OpN where
  c : Ctl
  n : Fin 16
  deriving DecidableEq, Repr
/-- `SEMADD`, `SEMWAIT`, `SEMBASE`. -/
structure OpSem where
  c : Ctl
  i : SemIdx
  v : SemAmt
  deriving DecidableEq, Repr
/-- `SEMBASE.SNAP`. -/
structure OpSemI where
  c : Ctl
  i : SemIdx
  deriving DecidableEq, Repr
/-- `SEMRD`. -/
structure OpSemD where
  c : Ctl
  d : SReg
  i : SemIdx
  deriving DecidableEq, Repr
/-- `BAR.scope n, sA`. -/
structure OpBar where
  c : Ctl
  scope : BarScope
  n : Fin 16
  cnt : SReg
  deriving DecidableEq, Repr
/-- `TRAP`, `BKPT`. -/
structure OpTrap where
  c : Ctl
  code : BitVec 16
  deriving DecidableEq, Repr
/-- `PSETI`. -/
structure OpPset where
  c : Ctl
  p : PReg
  v : Bool
  deriving DecidableEq, Repr
/-- Predicate destination and source. -/
structure OpPP where
  c : Ctl
  d : PReg
  a : PReg
  deriving DecidableEq, Repr
/-- Predicate destination, register source. -/
structure OpPS where
  c : Ctl
  d : PReg
  a : SReg
  deriving DecidableEq, Repr
/-- Register destination, predicate source. -/
structure OpSP where
  c : Ctl
  d : SReg
  a : PReg
  deriving DecidableEq, Repr
/-- Predicate destination and two predicate sources. -/
structure OpPPP where
  c : Ctl
  d : PReg
  a : PReg
  b : PReg
  deriving DecidableEq, Repr
/-- `PUNRES`. -/
structure OpP where
  c : Ctl
  d : PReg
  deriving DecidableEq, Repr
/-- `CMP.cc` on registers. -/
structure OpCmp where
  c : Ctl
  cc : Cc
  d : PReg
  a : SReg
  b : SReg
  deriving DecidableEq, Repr
/-- `CMP.cc` with an immediate. -/
structure OpCmpI where
  c : Ctl
  cc : Cc
  d : PReg
  a : SReg
  imm : BitVec 27
  deriving DecidableEq, Repr
/-- `FCMP.cc`. -/
structure OpFcmp where
  c : Ctl
  cc : Fcc
  d : PReg
  a : SReg
  b : SReg
  deriving DecidableEq, Repr
/-- `VANY`, `VALL`. -/
structure OpVote where
  c : Ctl
  d : PReg
  a : SReg
  n : SReg
  off : BitVec 27
  deriving DecidableEq, Repr
/-- `PTB`. -/
structure OpPtb where
  c : Ctl
  b : BReg
  off : BitVec 32
  deriving DecidableEq, Repr
/-- `PTBR`. -/
structure OpPtbr where
  c : Ctl
  b : BReg
  a : SReg
  off : BitVec 32
  deriving DecidableEq, Repr
/-- `BR`. -/
structure OpBr where
  c : Ctl
  b : BReg
  neg : Bool
  p : PReg
  deriving DecidableEq, Repr
/-- `CALL`. -/
structure OpB where
  c : Ctl
  b : BReg
  deriving DecidableEq, Repr
/-- `LOOP`; `stop` is END16. -/
structure OpLoop where
  c : Ctl
  cnt : BitVec 16
  stop : BitVec 16
  deriving DecidableEq, Repr
/-- `LOOPR`. -/
structure OpLoopr where
  c : Ctl
  a : SReg
  stop : BitVec 16
  deriving DecidableEq, Repr
/-- `QPUSH`. -/
structure OpQS where
  c : Ctl
  q : QReg
  a : SReg
  deriving DecidableEq, Repr
/-- `QPOP`, `QPEEK`, `QLEN`. -/
structure OpSQ where
  c : Ctl
  d : SReg
  q : QReg
  deriving DecidableEq, Repr
/-- `QPUSHP`. -/
structure OpQP where
  c : Ctl
  q : QReg
  p : PReg
  deriving DecidableEq, Repr
/-- `QPOPP`. -/
structure OpPQ where
  c : Ctl
  p : PReg
  q : QReg
  deriving DecidableEq, Repr
/-- Destination and two register sources. -/
structure Op3 where
  c : Ctl
  d : SReg
  a : SReg
  b : SReg
  deriving DecidableEq, Repr
/-- Destination and one register source. -/
structure Op2 where
  c : Ctl
  d : SReg
  a : SReg
  deriving DecidableEq, Repr
/-- Destination only (`RDCYC`, `RDPTP`). -/
structure Op1 where
  c : Ctl
  d : SReg
  deriving DecidableEq, Repr
/-- Destination and three register sources (`FFMA`). -/
structure Op4 where
  c : Ctl
  d : SReg
  a : SReg
  b : SReg
  e : SReg
  deriving DecidableEq, Repr
/-- Destination, register and 64-bit immediate. -/
structure OpI where
  c : Ctl
  d : SReg
  a : SReg
  imm : Word
  deriving DecidableEq, Repr
/-- Shift by an immediate. -/
structure OpSh where
  c : Ctl
  d : SReg
  a : SReg
  n : Fin 64
  deriving DecidableEq, Repr
/-- `MOVI`. -/
structure OpMovi where
  c : Ctl
  d : SReg
  imm : Word
  deriving DecidableEq, Repr
/-- `MOVHI`. -/
structure OpMovhi where
  c : Ctl
  d : SReg
  imm : BitVec 32
  deriving DecidableEq, Repr
/-- `SEL`. -/
structure OpSel where
  c : Ctl
  d : SReg
  p : PReg
  a : SReg
  b : SReg
  deriving DecidableEq, Repr
/-- `BFX`, `BFI`. -/
structure OpBf where
  c : Ctl
  d : SReg
  a : SReg
  pos : BitVec 6
  len : BitVec 7
  deriving DecidableEq, Repr
/-- `LEA`. -/
structure OpLea where
  c : Ctl
  d : SReg
  a : SReg
  b : SReg
  sh : Fin 5
  off : BitVec 27
  deriving DecidableEq, Repr
/-- `FCVT.from.to`. -/
structure OpFcvt where
  c : Ctl
  d : SReg
  a : SReg
  src : Fin 10
  dst : Fin 10
  deriving DecidableEq, Repr
/-- `FCLASS.fmt`, formats 1 to 7. -/
structure OpFclass where
  c : Ctl
  d : SReg
  a : SReg
  fmt : Fin 8
  deriving DecidableEq, Repr
/-- `CSRR`. -/
structure OpCsrr where
  c : Ctl
  d : SReg
  n : BitVec 12
  deriving DecidableEq, Repr
/-- `CSRW`, `CSRS`, `CSRC`. -/
structure OpCsrw where
  c : Ctl
  d : SReg
  n : BitVec 12
  src : CsrSrc
  deriving DecidableEq, Repr
/-- A `CSRW` of `SPECDEPTH`. -/
structure OpCsrS where
  c : Ctl
  d : SReg
  src : CsrSrc
  deriving DecidableEq, Repr
/-- A `CSRW` of `TCFG`n. -/
structure OpTcfg where
  c : Ctl
  d : SReg
  n : Tile
  src : CsrSrc
  deriving DecidableEq, Repr
/-- `LDS.sz`; the size is 2^sz bytes. -/
structure OpLds where
  c : Ctl
  d : SReg
  a : SReg
  sz : Fin 5
  sx : Bool
  off : Word
  deriving DecidableEq, Repr
/-- `STS.sz`. -/
structure OpSts where
  c : Ctl
  d : SReg
  a : SReg
  sz : Fin 5
  off : Word
  deriving DecidableEq, Repr
/-- `LDG.sz`. -/
structure OpLdg where
  c : Ctl
  d : SReg
  h : HReg
  o : SReg
  sz : Fin 5
  sx : Bool
  deriving DecidableEq, Repr
/-- `STG.sz`. -/
structure OpStg where
  c : Ctl
  d : SReg
  h : HReg
  o : SReg
  sz : Fin 5
  deriving DecidableEq, Repr
/-- `XLAT`. -/
structure OpXlat where
  c : Ctl
  h : HReg
  a : SReg
  deriving DecidableEq, Repr
/-- `HTEST` into a register. -/
structure OpSH where
  c : Ctl
  d : SReg
  h : HReg
  deriving DecidableEq, Repr
/-- `HTEST` into a predicate. -/
structure OpPH where
  c : Ctl
  d : PReg
  h : HReg
  deriving DecidableEq, Repr
/-- `HREL`. -/
structure OpH where
  c : Ctl
  h : HReg
  deriving DecidableEq, Repr
/-- `PROBE`. -/
structure OpProbe where
  c : Ctl
  h : HReg
  a : SReg
  n : SReg
  deriving DecidableEq, Repr
/-- `COPY.G2S`, and `COPY.S2G` (where `aw` is none). -/
structure OpCopy where
  c : Ctl
  s : SReg
  h : HReg
  o : SReg
  n : SReg
  aw : Option (BitVec 19)
  deriving DecidableEq, Repr
/-- `COPY.S2G`. -/
structure OpCopyOut where
  c : Ctl
  s : SReg
  h : HReg
  o : SReg
  n : SReg
  deriving DecidableEq, Repr
/-- `COPY.S2S`. -/
structure OpCopyS where
  c : Ctl
  d : SReg
  s : SReg
  n : SReg
  aw : Option (BitVec 19)
  deriving DecidableEq, Repr
/-- `COPY2.G2S`; `h2` is hE. -/
structure OpCopy2 where
  c : Ctl
  s : SReg
  h : HReg
  o : SReg
  n : SReg
  h2 : HReg
  aw : Option (BitVec 19)
  deriving DecidableEq, Repr
/-- `COPY2.S2G`. -/
structure OpCopy2Out where
  c : Ctl
  s : SReg
  h : HReg
  o : SReg
  n : SReg
  h2 : HReg
  deriving DecidableEq, Repr
/-- `COPYX`, destination format 0 BF16, 1 T8, 2 E4M3. -/
structure OpCopyx where
  c : Ctl
  s : SReg
  h : HReg
  o : SReg
  g : GReg
  hs : HReg
  so : SReg
  fmt : Fin 3
  deriving DecidableEq, Repr
/-- `COPYC`, element format 0 to 4. -/
structure OpCopyc where
  c : Ctl
  s : SReg
  h : HReg
  o : SReg
  g : GReg
  hs : HReg
  so : SReg
  fmt : Fin 5
  deriving DecidableEq, Repr
/-- `GATHER`, `SCATTER`; `cnt` is count − 1, `rb` is rowbytes − 1. -/
structure OpGather where
  c : Ctl
  s : SReg
  h : HReg
  o : SReg
  ix : SReg
  cnt : BitVec 14
  rb : BitVec 13
  deriving DecidableEq, Repr
/-- `ACSCP.OUT`; `ncol` is the column count − 1. -/
structure OpAcsOut where
  c : Ctl
  a : SReg
  row : SReg
  n : SReg
  fmt : Fin 9
  col : BitVec 8
  ncol : BitVec 8
  deriving DecidableEq, Repr
/-- `ACSCP.IN`; `i32` is format 8, else format 7. -/
structure OpAcsIn where
  c : Ctl
  a : SReg
  row : SReg
  n : SReg
  i32 : Bool
  col : BitVec 8
  ncol : BitVec 8
  deriving DecidableEq, Repr
/-- `AWINIT`, `AWWAIT`. -/
structure OpAw where
  c : Ctl
  a : SReg
  v : SReg
  off : BitVec 27
  deriving DecidableEq, Repr
/-- `AWRD`. -/
structure OpAwrd where
  c : Ctl
  d : SReg
  a : SReg
  off : BitVec 27
  deriving DecidableEq, Repr
/-- `FENCE.dir scope`. -/
structure OpFence where
  c : Ctl
  scope : Scope
  deriving DecidableEq, Repr
/-- `SACC.fmt`, format 0 F32, 1 BF16, 2 I32; counts − 1. -/
structure OpSacc where
  c : Ctl
  d : SReg
  ix : SReg
  v : SReg
  fmt : Fin 3
  cnt : BitVec 15
  rl : BitVec 12
  deriving DecidableEq, Repr
/-- `SACCG.fmt`. -/
structure OpSaccg where
  c : Ctl
  h : HReg
  o : SReg
  ix : SReg
  v : SReg
  fmt : Fin 3
  cnt : BitVec 15
  rl : BitVec 12
  deriving DecidableEq, Repr
/-- `COLL`. -/
structure OpColl where
  c : Ctl
  a : SReg
  off : BitVec 27
  deriving DecidableEq, Repr
/-- `COLLST`. -/
structure OpCollst where
  c : Ctl
  d : SReg
  a : SReg
  off : BitVec 27
  deriving DecidableEq, Repr
/-- `FMSEND`. -/
structure OpFmsend where
  c : Ctl
  p : SReg
  b : SReg
  n : SReg
  slot : SReg
  deriving DecidableEq, Repr
/-- `FMRECV.BIND`. -/
structure OpFmBind where
  c : Ctl
  f : Fin 8
  a : SReg
  d : SReg
  deriving DecidableEq, Repr
/-- `FMRECV.POP`, `FMRECV.FLT`. -/
structure OpFmPop where
  c : Ctl
  d : SReg
  f : Fin 8
  deriving DecidableEq, Repr
/-- `WAKE`. -/
structure OpWake where
  c : Ctl
  a : SReg
  v : SReg
  deriving DecidableEq, Repr
/-- `MTOPK`. -/
structure OpMtopk where
  c : Ctl
  s : SReg
  h : HReg
  o : SReg
  d : SReg
  deriving DecidableEq, Repr
/-- `GCFG.LD`, `GCFG.ST`, `GBASE`, `GCOUNT`, `GSTRIDE`, `GFMT`. -/
structure OpG where
  c : Ctl
  g : GReg
  a : SReg
  imm : Word
  deriving DecidableEq, Repr
/-- `GCFG.MOV`. -/
structure OpGG where
  c : Ctl
  g : GReg
  a : GReg
  deriving DecidableEq, Repr
/-- Element-wise vector command of one source. -/
structure OpV1 where
  c : Ctl
  d : GReg
  x : VArg
  deriving DecidableEq, Repr
/-- Element-wise vector command of two sources. -/
structure OpV2 where
  c : Ctl
  d : GReg
  x : VArg
  y : VArg
  deriving DecidableEq, Repr
/-- Element-wise vector command of three sources. -/
structure OpV3 where
  c : Ctl
  d : GReg
  x : VArg
  y : VArg
  z : VArg
  deriving DecidableEq, Repr
/-- `VCMP.cc`. -/
structure OpVcmp where
  c : Ctl
  cc : Fcc
  d : GReg
  x : VArg
  y : VArg
  deriving DecidableEq, Repr
/-- `VSEL`. -/
structure OpVsel where
  c : Ctl
  d : GReg
  m : GReg
  y : VArg
  z : VArg
  deriving DecidableEq, Repr
/-- `VFILL`. -/
structure OpVfill where
  c : Ctl
  d : GReg
  s : SReg
  deriving DecidableEq, Repr
/-- `VCHAIN`: inputs Y and Z are `none` when no micro-operation uses them. -/
structure OpVchain where
  c : Ctl
  d : GReg
  x : GReg
  y : Option GReg
  z : Option GReg
  k : SReg
  kf : Fin 10
  ops : List (MicroOp × MicroSel)
  deriving DecidableEq, Repr
/-- Reductions and scans. -/
structure OpVred where
  c : Ctl
  d : GReg
  a : GReg
  row : Bool
  deriving DecidableEq, Repr
/-- `VTOPK`; `k` is k − 1. -/
structure OpVtopk where
  c : Ctl
  d : GReg
  ix : GReg
  a : GReg
  row : Bool
  k : BitVec 6
  deriving DecidableEq, Repr
/-- `VZIP`; `e` and `f` are the third and fourth sources. -/
structure OpVzip where
  c : Ctl
  d : GReg
  a : GReg
  b : GReg
  e : Option GReg
  f : Option GReg
  deriving DecidableEq, Repr
/-- `VUNZIP`: destinations `d`, `b`, `e`, `f`, source `a`. -/
structure OpVunzip where
  c : Ctl
  d : GReg
  a : GReg
  b : GReg
  e : Option GReg
  f : Option GReg
  deriving DecidableEq, Repr
/-- `VTRANS`, `VBCAST`. -/
structure OpVG2 where
  c : Ctl
  d : GReg
  a : GReg
  deriving DecidableEq, Repr
/-- `VPERM`, `VEXPAND`. -/
structure OpVG3 where
  c : Ctl
  d : GReg
  a : GReg
  b : GReg
  deriving DecidableEq, Repr
/-- `VCOMPACT`. -/
structure OpVcompact where
  c : Ctl
  d : GReg
  a : GReg
  m : GReg
  n : SReg
  deriving DecidableEq, Repr
/-- `LEASE`; block count 1 to 32. -/
structure OpLease where
  c : Ctl
  blocks : BitVec 6
  deriving DecidableEq, Repr
/-- `TLD`, `TST`; `n` is the row count − 1. -/
structure OpTld where
  c : Ctl
  t : Tile
  row : BitVec 8
  n : BitVec 8
  a : SReg
  st : SReg
  deriving DecidableEq, Repr
/-- `TZERO`. -/
structure OpTzero where
  c : Ctl
  t : Tile
  row : BitVec 8
  n : BitVec 8
  deriving DecidableEq, Repr
/-- `MLOADW`. -/
structure OpT where
  c : Ctl
  t : Tile
  deriving DecidableEq, Repr
/-- `MROWS`. -/
structure OpMrows where
  c : Ctl
  row : BitVec 11
  t : Tile
  a : SReg
  n : BitVec 8
  set : Bool
  deriving DecidableEq, Repr
/-- `MMA`. -/
structure OpMma where
  c : Ctl
  row : BitVec 11
  t : Tile
  w : Tile
  n : BitVec 8
  set : Bool
  deriving DecidableEq, Repr
/-- `ACSZERO`. -/
structure OpAcsz where
  c : Ctl
  row : BitVec 11
  n : BitVec 8
  deriving DecidableEq, Repr
/-- `BSMM`. -/
structure OpBsmm where
  c : Ctl
  row : BitVec 11
  t : Tile
  w : Tile
  a : SReg
  m : SReg
  set : Bool
  deriving DecidableEq, Repr
/-- `TASK`. -/
structure OpTask where
  c : Ctl
  slot : Fin 8
  a : SReg
  b : SReg
  p : SReg
  hash : Word
  deriving DecidableEq, Repr
/-- `TASKWAIT`. -/
structure OpSlot where
  c : Ctl
  slot : Fin 8
  deriving DecidableEq, Repr
/-- `TASKST`. -/
structure OpTaskst where
  c : Ctl
  d : SReg
  slot : Fin 8
  deriving DecidableEq, Repr
/-- `LAUNCH`. -/
structure OpLaunch where
  c : Ctl
  d : SReg
  p : PReg
  r : SReg
  q : SReg
  desc : BitVec 48
  deriving DecidableEq, Repr
/-- `LAUNCHP`. -/
structure OpLaunchp where
  c : Ctl
  d : SReg
  r : SReg
  q : SReg
  deriving DecidableEq, Repr

/-- Who stores to a wake register (19 R433, R434): a host store through a VF's BAR 0 of the given width in bytes, a
job's `WAKE` or a launch's wake target (already permitted), F4 as a producer, or a peer's package and partition. -/
inductive WakeSrc where
  | host (vf width : Nat)
  | inside
  | peer (pkg part : Nat)
  deriving DecidableEq, Repr

/-- A Klota request as F0 hands it to the owning core (19 R451): the sending function (`none` is PF 0), CMD, TAG, TARGETVF, the
payload, and what the host's memory holds at the bus address the payload names (for commands whose bytes F0 fetches by bulk
transfer). -/
structure KReq where
  fn : Option Nat
  cmd : Nat
  tag : BitVec 32
  target : Nat
  payload : List Byte
  bulk : List Byte
  deriving DecidableEq, Repr

/-- A quantity that F6 watches (21 R495) with its place: compute-die junction, HBM stack, module power, inlet, core
supply. -/
inductive Sensor where
  | junction (die : Nat)
  | stack (n : Nat)
  | power
  | inlet
  | supply
  deriving DecidableEq, Repr

/-- The operands of an event row: the place where it happens (`a`, `b`, `c` are numbers, in the order that the row's comment
names them; `ref` a stream) and what arrives from outside. -/
structure Args where
  a : Nat := 0
  b : Nat := 0
  c : Nat := 0
  ref : Ref := ⟨0, .a⟩
  fn : Option Nat := none
  word : Word := 0
  src : WakeSrc := .inside
  q : Sensor := .power
  req : KReq := ⟨none, 0, 0, 0, [], []⟩
  data : List Byte := []
  flag : Bool := false
  slots : List (List Byte × List Byte) := []
  deriving DecidableEq, Repr

/-- The rows of the opcode table: commands, sampler words, events. Command rows run for the stream `State.cur`, sampler words for
the lane `State.lane`; event rows take their operands from `State.args`, as the comment beside each says. -/
inductive Instr where
  -- ## commands
  -- stream control and synchronisation (06 R184, 07 R188)
  | nop (o : Op0)
  | ext (v : Word)
  | notify (o : Op0)
  | rdv (o : OpN)
  | semadd (o : OpSem)
  | semwait (o : OpSem)
  | sembase (o : OpSem)
  | sembaseSnap (o : OpSemI)
  | semrd (o : OpSemD)
  | semrdRel (o : OpSemD)
  | bar (o : OpBar)
  | barLaunch (o : OpN)
  | safept (o : Op0)
  | irrev (o : Op0)
  | trap (o : OpTrap)
  | bkpt (o : OpTrap)
  -- predicates and control flow
  | pseti (o : OpPset)
  | pmovPp (o : OpPP)
  | pmovPs (o : OpPS)
  | pmovSp (o : OpSP)
  | pand (o : OpPPP)
  | por (o : OpPPP)
  | pxor (o : OpPPP)
  | pnot (o : OpPP)
  | punres (o : OpP)
  | cmp (o : OpCmp)
  | cmpImm (o : OpCmpI)
  | fcmp (o : OpFcmp)
  | vany (o : OpVote)
  | vall (o : OpVote)
  | ptb (o : OpPtb)
  | ptbr (o : OpPtbr)
  | br (o : OpBr)
  | call (o : OpB)
  | ret (o : Op0)
  | loop (o : OpLoop)
  | loopr (o : OpLoopr)
  | lexit (o : Op0)
  -- queues
  | qpush (o : OpQS)
  | qpop (o : OpSQ)
  | qpeek (o : OpSQ)
  | qpushp (o : OpQP)
  | qpopp (o : OpPQ)
  | qlen (o : OpSQ)
  -- scalar integer and address
  | add (o : Op3)
  | addi (o : OpI)
  | sub (o : Op3)
  | mul (o : Op3)
  | mulh (o : Op3)
  | mulhu (o : Op3)
  | div (o : Op3)
  | divu (o : Op3)
  | rem (o : Op3)
  | remu (o : Op3)
  | and (o : Op3)
  | andi (o : OpI)
  | or (o : Op3)
  | ori (o : OpI)
  | xor (o : Op3)
  | xori (o : OpI)
  | shl (o : Op3)
  | shli (o : OpSh)
  | shr (o : Op3)
  | shri (o : OpSh)
  | sra (o : Op3)
  | srai (o : OpSh)
  | min (o : Op3)
  | max (o : Op3)
  | minu (o : Op3)
  | maxu (o : Op3)
  | clz (o : Op2)
  | ctz (o : Op2)
  | popc (o : Op2)
  | sel (o : OpSel)
  | movi (o : OpMovi)
  | movhi (o : OpMovhi)
  | mov (o : Op2)
  | abs (o : Op2)
  | bfx (o : OpBf)
  | bfxS (o : OpBf)
  | bfi (o : OpBf)
  | lea (o : OpLea)
  -- scalar floating point
  | fadd (o : Op3)
  | fsub (o : Op3)
  | fmul (o : Op3)
  | ffma (o : Op4)
  | fdiv (o : Op3)
  | fsqrt (o : Op2)
  | fmin (o : Op3)
  | fmax (o : Op3)
  | fabs (o : Op2)
  | fneg (o : Op2)
  | fcvt (o : OpFcvt)
  | fclass (o : OpFclass)
  -- control registers and time
  | csrr (o : OpCsrr)
  | csrw (o : OpCsrw)
  | csrs (o : OpCsrw)
  | csrc (o : OpCsrw)
  | rdcyc (o : Op1)
  | rdptp (o : Op1)
  | specdepthWrite (o : OpCsrS)
  | tcfgWrite (o : OpTcfg)
  -- scalar memory
  | lds (o : OpLds)
  | sts (o : OpSts)
  | ldg (o : OpLdg)
  | stg (o : OpStg)
  -- translation
  | xlat (o : OpXlat)
  | htestS (o : OpSH)
  | htestP (o : OpPH)
  | hrel (o : OpH)
  | probe (o : OpProbe)
  -- copy and gather
  | copyG2s (o : OpCopy)
  | copyS2g (o : OpCopyOut)
  | copyS2s (o : OpCopyS)
  | copy2G2s (o : OpCopy2)
  | copy2S2g (o : OpCopy2Out)
  | copyx (o : OpCopyx)
  | copyc (o : OpCopyc)
  | gather (o : OpGather)
  | scatter (o : OpGather)
  | acscpOut (o : OpAcsOut)
  | acscpIn (o : OpAcsIn)
  -- arrival words and fences
  | awinit (o : OpAw)
  | awwait (o : OpAw)
  | awrd (o : OpAwrd)
  | awrdClr (o : OpAwrd)
  | fenceRel (o : OpFence)
  | fenceAcq (o : OpFence)
  -- scatter-accumulate
  | sacc (o : OpSacc)
  | saccg (o : OpSaccg)
  -- collectives, fabric, memory-side selection
  | coll (o : OpColl)
  | collst (o : OpCollst)
  | fmsend (o : OpFmsend)
  | fmrecvBind (o : OpFmBind)
  | fmrecvPop (o : OpFmPop)
  | fmrecvFlt (o : OpFmPop)
  | wake (o : OpWake)
  | mtopk (o : OpMtopk)
  -- generator configuration
  | gcfgLd (o : OpG)
  | gcfgSt (o : OpG)
  | gcfgMov (o : OpGG)
  | gbase (o : OpG)
  | gcount (o : OpG)
  | gcountRow (o : OpG)
  | gstride (o : OpG)
  | gfmt (o : OpG)
  -- vector element-wise
  | vadd (o : OpV2)
  | vsub (o : OpV2)
  | vmul (o : OpV2)
  | vfma (o : OpV3)
  | vmin (o : OpV2)
  | vmax (o : OpV2)
  | vabs (o : OpV1)
  | vneg (o : OpV1)
  | vexp (o : OpV1)
  | vlog (o : OpV1)
  | vrcp (o : OpV1)
  | vrsq (o : OpV1)
  | vtanh (o : OpV1)
  | vsigm (o : OpV1)
  | vgelu (o : OpV1)
  | vsilu (o : OpV1)
  | vcvt (o : OpV1)
  | vcmp (o : OpVcmp)
  | vsel (o : OpVsel)
  | vand (o : OpV2)
  | vor (o : OpV2)
  | vxor (o : OpV2)
  | vshl (o : OpV2)
  | vshr (o : OpV2)
  | vshrA (o : OpV2)
  | vclamp (o : OpV3)
  | vmov (o : OpV1)
  | vfill (o : OpVfill)
  -- vector chain, reductions and scans, rearrangement
  | vchain (o : OpVchain)
  | vrsum (o : OpVred)
  | vrmax (o : OpVred)
  | vrmin (o : OpVred)
  | vargmax (o : OpVred)
  | vscan (o : OpVred)
  | vtopk (o : OpVtopk)
  | vlse (o : OpVred)
  | vzip (o : OpVzip)
  | vunzip (o : OpVunzip)
  | vperm (o : OpVG3)
  | vtrans (o : OpVG2)
  | vbcast (o : OpVG2)
  | vcompact (o : OpVcompact)
  | vexpand (o : OpVG3)
  -- matrix
  | lease (o : OpLease)
  | unlease (o : Op0)
  | unleaseAcs (o : Op0)
  | tld (o : OpTld)
  | tst (o : OpTld)
  | tzero (o : OpTzero)
  | mloadw (o : OpT)
  | mrows (o : OpMrows)
  | mma (o : OpMma)
  | acszero (o : OpAcsz)
  | bsmm (o : OpBsmm)
  -- shared passes and launch
  | task (o : OpTask)
  | taskwait (o : OpSlot)
  | taskst (o : OpTaskst)
  | launch (o : OpLaunch)
  | launchp (o : OpLaunchp)
  -- ## sampler words
  -- sampler words (12 R343 to R349)
  | sld (d a : KReg)
  | sldm (d a : KReg)
  | sscale (a : KReg)
  | spen (a : KReg)
  | smask
  | stopk (a : KReg)
  | stopp (a : KReg)
  | sminp (a : KReg)
  | ssoft
  | sdraw (d : KReg)
  | spick (d a : KReg)
  | sratio (d a : KReg)
  | sresid (a : KReg)
  | snorm
  | semit (a : KReg)
  | semitD (a b : KReg)
  | saccept (d a : KReg)
  | sroll (a : KReg)
  | sadd (d a b : KReg)
  | saddF (d a b : KReg)
  | ssub (d a b : KReg)
  | ssubF (d a b : KReg)
  | smul (d a b : KReg)
  | smulF (d a b : KReg)
  | scmp (cc : Fin 8) (d a b : KReg)
  | sjmp (off : BitVec 22)
  | sjz (a : KReg) (off : BitVec 22)
  | sjnz (a : KReg) (off : BitVec 22)
  | smovi (d : KReg) (imm : BitVec 21)
  | smoviH (d : KReg) (imm : BitVec 21)
  | srngSeed (d : KReg)
  | srngSetseed (a : KReg)
  | srngCtr (d : KReg)
  | srngSetctr (a : KReg)
  | swait (d a b : KReg)
  | send
  -- ## events
  -- stream control and synchronisation (06 R184, 07 R188)
  | trapEntry  -- ref
  -- translation
  | xlatHandleWrite  -- a: flight
  | walkComplete  -- a: core, b: slot
  | walkResultExpiry  -- a: core, b: slot
  -- copy and gather
  | copyPieceLanding  -- a: flight, b: piece
  -- collectives, fabric, memory-side selection
  | collectiveComplete  -- a: group
  | collectiveDeadline  -- a: group
  | fabricMessageArrival  -- a: message
  | fabricAckReceived  -- a: job, word: destination, b: number
  | fabricNackReceived  -- a: job, word: destination, b: number
  | fmBackoffExpiry  -- a: job, word: destination
  -- matrix
  | arrayRowUpdate  -- a: core
  | acsAllotmentGrant  -- a: core
  | arrayArbitration  -- a: core
  | leaseTermEnd  -- a: core
  | budgetRefill
  -- shared passes and launch
  | poolRequestHandled  -- a: die, b: one more than the flight whose reply returns, or 0
  -- decoding, sections, placement
  | unassignedOpcode  -- a: opcode
  | sectionEnter  -- ref
  | sectionRetire  -- ref
  | codeFetch  -- ref
  | jobPlacement  -- a: die
  | placementWaitLimit  -- a: die, b: job
  | jobComplete  -- a: job
  | wakeTargetStore  -- a: launch
  | jobPark  -- a: job
  | preemptRequest  -- a: job
  | jobPreempted  -- a: job
  | jobResume  -- a: job
  | preemptOverrun  -- ref
  -- global accesses
  | globalAccessPerformed  -- a: access
  | globalReadReply  -- a: access
  | combineLineDrain  -- a: core, b: line, c: context
  | saccgUpdate  -- a: flight, b: update
  -- Trowel
  | taskDeadline  -- a: core, b: entry
  | passForm  -- a: core
  | weightBufferRead  -- a: core
  | passArrayTerm  -- a: core
  | epilogueChunk  -- a: core
  | scatterCheck  -- a: core
  | taskRowPerformed  -- a: core, b: entry
  | passBackPosition  -- a: core
  -- Undercoat
  | speculationStart  -- a: die, b: queue
  | spoilArrival  -- a: die, b: speculation
  | claimAttempt  -- a: launch
  | watchFenceArrival  -- a: die, b: speculation, c: slice
  | watchFenceAck  -- a: die, b: speculation, c: slice
  | shadowLinesPerformed  -- a: die, b: speculation
  | speculationHorizon  -- a: die, b: speculation
  -- sampler events
  | samplerLaneGrant  -- a: die
  | maskHeaderPoll  -- a: die, b: context
  | swaitTimeout  -- a: die, b: context
  | reshardDone  -- a: die, b: context, flag: a copy stands
  -- host interface, reset and boot
  | wakeRegisterStore  -- src, a: queue, word: value
  | apertureAccess  -- a: VF, b: aperture offset, c: length, flag: a write, data: its bytes
  | reqtailWrite  -- fn, word: REQTAIL, slots: request slots with the host bytes they name
  | rspheadWrite  -- fn, word: RSPHEAD
  | klotaResponse  -- fn
  | vfFlr  -- a: VF
  | pfFlr
  | powerOn
  | bootStage
  -- queues, pool and launches
  | ringRead  -- a: die
  | poolGrant  -- a: die
  | recordLanded  -- a: launch
  | launchStart  -- a: launch
  | prologueRun  -- a: launch
  | prologueRepeat  -- a: launch
  -- Klota commands
  | version  -- req
  | resync  -- req
  | partSet  -- req
  | partEntryInForce  -- a: partition
  | vfAssign  -- req
  | uccfgSet  -- req
  | shapeSet  -- req
  | pkgSet  -- req
  | queueCreate  -- req
  | queueDestroy  -- req
  | queueQuery  -- req
  | poolCap  -- req
  | mapStage1  -- req
  | mapStage2  -- req
  | mapContextDesc  -- req
  | mapS2Root  -- req
  | unmapStage1  -- req
  | unmapStage2  -- req
  | pinUnpin  -- req
  | pinPin  -- req
  | pinBacking  -- req
  | saveresume  -- req
  | ctxReset  -- req
  | shelfLoad  -- req
  | attest  -- req
  | samplerProg  -- req
  | samplerBind  -- req
  | samplerUnbind  -- req
  | vocabLoadImage  -- req
  | vocabLoadService  -- req
  | vocabLoadRing  -- req
  | vocabLoadGrammar  -- req
  | telemetry  -- req
  | budgetSet  -- req
  -- firmware mailbox messages: the oldest message of the named type in the mailbox
  | msgKlotaForward  -- a: receiver
  | msgKlotaResponse  -- a: sender
  | msgContextError
  | msgDecision
  | msgProbeFault
  | msgFaultServed
  | msgTaskParked
  | msgSaveBlocked
  | msgBudgetChange
  | msgPartitionChanged
  -- translation faults, migration, saving, recovery
  | faultService  -- a: fault, data: page bytes from the host
  | probeFaultTimeout  -- a: fault
  | accSample
  | migrationLineCopy  -- a: migration
  | migrationSwitch  -- a: migration
  | migrationForward  -- a: access
  | saveLineFault  -- a: job
  | saveComplete  -- a: job
  | saveBlockTimeout  -- a: job
  | preemptStall  -- a: job
  | contextFrozenDrained  -- a: context
  | captureBeforeReset  -- a: context
  | dieLost  -- a: die
  | hbmUncorrectable  -- a: physical address
  | linkCrcReplay  -- a: link, b: channel
  -- power
  | thermalThrottle  -- q, a: reading
  | thermalShutdown  -- q, a: reading
  | idleDieGate  -- a: die
  -- bandwidth
  | cacheWindowClear
  | sliceRequestAccept  -- a: slice
  | hbmRequestArrival  -- a: controller, b: access
  | hbmServiceStart  -- a: controller
  | routerGrant  -- a: output
  | injectionRefill  -- a: die
  | portInjection  -- a: core
  -- serving
  | envelopeArrival  -- a: session, data: the message
  | tokenise  -- a: engine
  | detokeniseToken  -- a: engine
  | finalFrameAccepted  -- a: request
  | sessionClose  -- a: session
  | packetAuthFail  -- a: session
  | weightBeacon
  | throttleRelease  -- q, a: reading
  | sessionOpen  -- a: session, data: key
  | ptptDiscipline  -- word: the time
  | peerWrite  -- a: port, b: physical address, data: bytes
  deriving DecidableEq, Repr

end Sys2Proof
end

