-- ==== Sys2Proof/Machine/Forms.lean ====
section
/-! DEFINITION. What the engines of a core do, as plain data: the operations of vector commands (10 R289, R297, R300), and the work that a
command does on the on-core stores after its issue (03 R96, R97). -/

namespace Sys2Proof.Machine

/-- Transcendental functions (04 R146). -/
inductive TransOp where
  | exp | log | rcp | rsq | tanh | sigm | gelu | silu
  deriving DecidableEq, Repr

/-- Element-wise operations (10 R289). -/
inductive ElemOp where
  | add | sub | mul | fma | min | max | abs | neg | fn (f : TransOp) | cvt | cmp (cc : Fcc) | sel | and | or | xor | shl | shr | sra
  | clamp | mov | fill
  deriving DecidableEq, Repr

/-- Reductions and scans (10 R297). -/
inductive RedOp where
  | sum | max | min | argmax | scan | topk (k : Nat) | lse
  deriving DecidableEq, Repr

/-- Rearrangements (10 R300). -/
inductive MoveOp where
  | zip | unzip | perm | trans | bcast | compact | expand
  deriving DecidableEq, Repr

/-- What a vector command does; of a chain, its micro-operations and whether it has Y and Z. -/
inductive VecKind where
  | elem (op : ElemOp)
  | chain (ops : List (MicroOp × MicroSel)) (y z : Bool)
  | red (op : RedOp) (row : Bool)
  | move (op : MoveOp)
  deriving DecidableEq, Repr

/-- A vector command as its word names it. -/
structure VecForm where
  dests : List GReg
  srcs : List VArg
  kind : VecKind
  deriving DecidableEq, Repr

/-- A source with its value: a walk, or a scalar with its format code. -/
inductive VIn where
  | gen (g : BitVec 128)
  | lit (v : Word) (fmt : Nat)
  deriving DecidableEq, Repr

/-- The on-core stores. -/
inductive Space where
  | scratch | tiles | acs
  deriving DecidableEq, Repr

/-- The captured operands of a `COPYC` (09 R254): element format, source format, count, row length, geometry, source address, address
of the elements and of each block's scale, the home dies that the two handles override, the page kind (0 `UN`, 1 `RC`, 2 `SO`), and
the `FMODE`. -/
structure Compress where
  fmt : Nat
  src : Nat
  n : Nat
  row : Nat
  geom : Nat
  a : Nat
  pa : Nat
  scales : List Nat
  home : Option Nat
  shome : Option Nat
  kind : Nat
  mode : BitVec 3
  deriving DecidableEq, Repr

/-- What a command does on the on-core stores between its issue and its completion point, with the operands of its issue (06 R177). `a` is an
address in the core's store; rows are the addresses of a row's first byte or element. -/
inductive DataOp where
  /-- `LDS`: a register, or a pair, from scratch -/
  | load (d : SReg) (sz : Fin 5) (sx : Bool) (a : Nat)
  /-- `GCFG.LD` -/
  | loadGen (d : GReg) (a : Nat)
  /-- `STS`, `GCFG.ST` -/
  | store (a : Nat) (v : List Byte)
  /-- `AWINIT` on the arrival word at window offset `w` -/
  | awInit (w a : Nat) (v : List Byte)
  /-- `AWRD`, and with `clr` `AWRD.CLR`, on the arrival word at window offset `w` -/
  | awRead (d : SReg) (w a : Nat) (clr : Bool)
  /-- `VANY` and `VALL` over `n` lanes -/
  | vote (p : PReg) (a n : Nat) (all : Bool)
  /-- a vector command in a window of `limit` bytes from `base` -/
  | vec (k : VecKind) (ds : List (BitVec 128)) (xs : List VIn) (base limit : Nat) (mode : BitVec 3) (out : Option SReg)
  /-- `ACSCP.OUT`: `n` elements from each row, packed from `a` -/
  | acsOut (mode : BitVec 3) (fmt n : Nat) (rows : List Nat) (a : Nat)
  /-- `ACSCP.IN` -/
  | acsIn (n : Nat) (rows : List Nat) (a : Nat)
  /-- `TLD`: scratch address and tile address of each row -/
  | tileLoad (fmt len : Nat) (rows : List (Nat × Nat))
  /-- `TST`: scratch address and tile address of each row -/
  | tileStore (len : Nat) (rows : List (Nat × Nat))
  /-- `TZERO` -/
  | tileZero (a n : Nat)
  /-- `ACSZERO`: the first element of each row -/
  | acsZero (rows : List Nat)
  /-- `SACC`: destination and value address of every update, in order -/
  | sacc (fmt : Fin 3) (mode : BitVec 3) (us : List (Nat × Nat))
  /-- lines that leave for a combine buffer or an undercoat store: home die, address, length, and scratch address of the source (`COPY.S2G`,
  `COPY2.S2G`, `SCATTER`) -/
  | out (ls : List (Nat × Nat × Nat × Nat))
  /-- bytes that a combine buffer takes: home die, address, bytes, poison (`STG`) -/
  | accept (ls : List (Nat × Nat × List Byte × Bool))
  /-- `COPYC` -/
  | compress (c : Compress)
  deriving DecidableEq, Repr

/-- Whether what it writes leaves for a combine buffer or an undercoat store. -/
def DataOp.leaves (op : DataOp) : Bool :=
  match op with
  | .out _ | .accept _ | .compress _ => true
  | _ => false

/-- When the completion point of such a command comes: after so many cycles, or when the unit that it takes turns at is done with
it: the vector unit of the core (10 R287) or its scatter unit (09 R263). -/
inductive Pace where
  | after (n : Nat)
  | vector (steps : Nat)
  | scatter (n : Nat)
  deriving DecidableEq, Repr

end Sys2Proof.Machine
end

