-- ==== Sys2Proof/Machine/State.lean ====
section
/-! DEFINITION. The state of the machine as plain data: everything the spec names, and the model's own bookkeeping
(`now`, `ticket`, `agenda`, `cur`, `lane`, `args`, `nextId`, `outbox`), with the state right after reset. -/

namespace Sys2Proof.Machine

/-- Why a step stops for good. (DEDUCED, log 22) -/
inductive Fault where
  /-- Raised by an event that carries a physical address from outside (`PEER_WRITE`, `HBM_UNCORRECTABLE`) when the
  address lies beyond the 2^40 bytes of the package (00 R1, 02 R48). Safe: the model stops where the spec has no such address. -/
  | noSuchAddress (pa : Nat)
  deriving DecidableEq, Repr

/-- Why a step has no meaning. -/
inductive Refusal where
  /-- Raised by an arm of `exec` that has no meaning yet. Safe: the model stops. -/
  | notModelled (mnemonic : String)
  deriving DecidableEq, Repr

/-- Page kinds (03 R91 to R93), in the coding of 02 R69. -/
inductive PageKind where
  | un | rc | so
  deriving DecidableEq, Repr

/-! ### Streams -/

/-- A handle register (02 R69). -/
structure Handle where
  valid : Bool
  size : BitVec 2
  kind : BitVec 2
  rd : Bool
  wr : Bool
  shelf : Bool
  burst : Bool
  hovr : Bool
  hdie : BitVec 3
  miss : BitVec 8
  vpn : BitVec 32
  pbase : BitVec 40
  deriving DecidableEq, Repr

/-- The invalid handle with miss code `NONE` (02 R70). -/
def Handle.none : Handle := ⟨false, 0, 0, false, false, false, false, false, 0, 0, 0, 0⟩

/-- One loop entry (07 R210). -/
structure LoopEntry where
  start : Word
  stop : Word
  count : BitVec 32
  level : BitVec 8
  deriving DecidableEq, Repr

/-- The three transfers (07 R206). -/
inductive TransferKind where
  | br | call | ret
  deriving DecidableEq, Repr

/-- A transfer whose delay slots are running (07 R206): its target when it is taken, its kind, the slots still to run,
and the cycles it costs (07 R207). -/
structure Transfer where
  target : Option Word
  kind : TransferKind
  slots : Nat
  bubble : Nat
  deriving DecidableEq, Repr

/-- Trap causes (07 R195), codes 1 to 5. -/
inductive Cause where
  | stackBound | loopDepth | trap | bkpt | arith
  deriving DecidableEq, Repr

/-- A raised trap that the stream has not entered yet (07 R197), with the cycle it was raised in. The resume address is the
stream's `pc` at entry: 07 R196 gives no cause another one. -/
structure PendingTrap where
  cause : Cause
  info : BitVec 32
  since : Nat
  deriving DecidableEq, Repr

/-- A section being entered (06 R174): header address, first command to execute, and for a fall-through the number of
the section before it. Where `base` is that of the section the stream is in, the landing is a transfer within it, unless the stream is at the
start or the resumption of its job (`start`), where it fetches the header of that section (01 R17, R40). -/
structure Entering where
  base : Word
  first : Word
  fall : Option (BitVec 12)
  start : Bool
  deriving DecidableEq, Repr

/-- The section a stream is in. -/
structure Section where
  base : Word
  hdr : BitVec 64
  deriving DecidableEq, Repr

/-- What a register interlock names (03 R85). -/
inductive Reg where
  | s (n : SReg)
  | b (n : BReg)
  | g (n : GReg)
  | h (n : HReg)
  | p (n : PReg)
  deriving DecidableEq, Repr

/-- A register's value that a command short of its completion point still owes. -/
inductive Owed where
  | s (n : SReg) (v : Word)
  | g (n : GReg) (v : BitVec 128)
  | p (n : PReg) (v : Option Bool)
  deriving DecidableEq, Repr

/-- A waiting `PROBE` (09 R249): the first address of its range not yet found resident and the last, its fault at F2 where one is, and the
cycle of the drain or of the last walk's end, whichever is later. -/
structure Probing where
  next : Nat
  last : Nat
  fault : Option Nat
  since : Nat
  deriving DecidableEq, Repr

/-- One engine stream of a job. -/
structure Stream where
  pc : Word
  entering : Option Entering
  sect : Option Section
  entered : Nat
  visit : Nat
  left : List (Nat × BitVec 12)
  retired : Option (BitVec 12)
  ext : Option Word
  s : Vector Word 32
  b : Vector Word 8
  g : Vector (BitVec 128) 16
  loops : List LoopEntry
  callLevel : BitVec 8
  sbase : Word
  slimit : Word
  tvec : Word
  tret : Word
  tcause : Word
  slot : Option Transfer
  traps : List PendingTrap
  rdv : Option (Fin 16)
  arrived : Option Nat
  probing : Option Probing
  checked : Bool
  ended : Bool
  issued : Nat
  btime : Vector Nat 8
  readyAt : Nat
  gap : Nat
  stopped : Bool
  paused : Bool
  /-- the arrival word that an `AWWAIT` at the queue head waits on, what it compares GEN with, and whether an update has met it (09 R259) -/
  awaits : Option (Nat × BitVec 32 × Bool)
  /-- whether the command at the queue head has passed its wait and its guard, which are not looked at again (06 R177) -/
  begun : Bool
  /-- whether the command at the queue head has cleared ACTIVE: loop rules apply again from the next cycle (07 R197) -/
  thaw : Bool
  deriving DecidableEq, Repr

/-- A stream at job start with the given entry and s1 to s7 already in `s` (01 R15, R16). -/
def Stream.start (entry : Word) (s : Vector Word 32) (sbase slimit : Word) : Stream where
  pc := entry + 8
  entering := some ⟨entry, entry + 8, none, true⟩
  sect := none
  entered := 0
  visit := 0
  left := []
  retired := none
  ext := none
  s := s
  b := Vector.replicate 8 0
  g := Vector.replicate 16 0
  loops := []
  callLevel := 0
  sbase := sbase
  slimit := slimit
  tvec := 0
  tret := 0
  tcause := 0
  slot := none
  traps := []
  rdv := none
  arrived := none
  probing := none
  checked := false
  ended := false
  issued := 0
  btime := Vector.replicate 8 0
  readyAt := 0
  gap := 0
  stopped := false
  paused := false
  awaits := none
  begun := false
  thaw := false

/-! ### Errors -/

/-- A context error record (20 R475), without its fixed zeros. -/
structure ErrRec where
  code : Nat
  reason : Nat
  stream : Nat
  trap : Nat
  more : Nat
  jobid : Word
  launch : Word
  word : Word
  opc : Nat
  num : Nat
  ha : Nat
  hb : Nat
  vaddr : Word
  paddr : Word
  time : Word
  deriving DecidableEq, Repr

/-! ### Jobs -/

/-- Where a job is; one that resumes holds its new control core while its state is restored (01 R40). -/
inductive JStatus where
  | created | running | parked | preempted | resuming | done
  deriving DecidableEq, Repr

/-- A task slot (11 R324, R325): state code, ROWSOK, ROWSPK. -/
structure TaskSlot where
  state : Fin 6
  ok : Nat
  parked : Nat
  deriving DecidableEq, Repr

/-- A message held in a queue-mode port: slot and length. -/
structure PortMsg where
  slot : Nat
  len : Nat
  deriving DecidableEq, Repr

/-- A fabric port (09 R272, R273, 07 R214): the descriptor (SLOTS 0 is unbound), the ring's window offset, messages held in
arrival order, the slot last popped, the next slot, the fault list, and the next expected number of each sender. -/
structure Port where
  desc : Word
  ring : Nat
  held : List PortMsg
  popped : Option Nat
  next : Nat
  faults : List Word
  expect : Map (BitVec 16)
  deriving DecidableEq, Repr

/-- An unacknowledged message in a replay window (07 R215). -/
structure SentMsg where
  num : BitVec 16
  src : Nat
  len : Nat
  slot : Nat
  flight : Nat
  deriving DecidableEq, Repr

/-- The sending side of one destination queue (07 R215): next number, window, consecutive negative acknowledgements, and the end
of a running back-off. -/
structure Sender where
  dest : Word
  next : BitVec 16
  window : List SentMsg
  nacks : Nat
  backoff : Option Nat
  resend : Option (BitVec 16)
  deriving DecidableEq, Repr

/-- The stationary weights of a job (11 R309, R310): the tile and its configuration. -/
structure Weights where
  tile : Nat
  cfg : Word
  deriving DecidableEq, Repr

/-- The array commands: `MLOADW`, `MROWS`, `MMA`, `BSMM`. -/
inductive ArrKind where
  | load | rows | both | sparse
  deriving DecidableEq, Repr

/-- A part of an array command (11 R320): its weights, first activation row, row count, and first destination row. -/
structure ArrPart where
  weights : Weights
  first : Nat
  count : Nat
  dest : Nat
  deriving DecidableEq, Repr

/-- An array command in a job's array queue (11 R303): its flight, kind, activation tile and its configuration, `.SET`, its `FMODE`, the parts
still to run, and of the head part whether it has begun, whether its weights are loaded, whether its rows are charged, and the next row
to enter; and whether the command has been counted in a term. -/
structure ArrCmd where
  flight : Nat
  kind : ArrKind
  tile : Nat
  cfg : Word
  set : Bool
  mode : BitVec 3
  parts : List ArrPart
  begun : Bool
  loaded : Bool
  paid : Bool
  row : Nat
  counted : Bool
  deriving DecidableEq, Repr

/-- A save in progress (20 R468 to R471): reason, offset of the next line, blocks met, and the cycle the running block began. -/
structure Save where
  reason : Nat
  off : Nat
  blocks : Nat
  since : Option Nat
  deriving DecidableEq, Repr

/-- What takes effect at the end of a cycle: signals (06 R177), `WBASE` writes (07 R191), predicate writes (07 R199; `none` makes
the predicate unresolved), queue entries and freed places (07 R213), flags set in the cycle (04 R131), the
values that control registers written in the cycle had at its start (08 R231), and whether a `PROBE` has completed in it (09 R249). -/
structure Late where
  sigs : List (BitVec 8 × BitVec 32)
  wbs : List (BitVec 8 × BitVec 32)
  preds : List (Letter × PReg × Option Bool)
  pushes : List (QReg × Word)
  pops : List QReg
  flags : BitVec 5
  csrs : Map Word
  probe : Bool
  deriving DecidableEq, Repr

def Late.none : Late := ⟨[], [], [], [], [], 0, [], false⟩

/-- A line of a control core's code buffer (06 R526): its virtual line number and bytes. -/
structure CodeLine where
  line : Nat
  bytes : List Byte
  deriving DecidableEq, Repr

/-- A job (01 R15) from its creation to its completion. -/
structure Job where
  launch : Nat
  part : Nat
  ctx : Nat
  vf : Nat
  jobNo : Nat
  pkg : Nat
  s7 : Word
  die : Nat
  core : Nat
  cc : Nat
  scrBase : Nat
  scrSize : Nat
  tileBase : Nat
  tileCount : Nat
  status : JStatus
  ready : Bool
  leftAt : Nat
  waiting : Option Nat
  spec : Option Nat
  frozen : Bool
  error : Option ErrRec
  errAt : Nat
  preempt : Option Nat
  parking : Bool
  save : Option Save
  saveArea : Option Nat
  prio : Nat
  gapMax : Nat
  cycBase : Nat
  cycSince : Nat
  a : Stream
  m : Stream
  v : Stream
  x : Stream
  pval : BitVec 32
  pres : BitVec 32
  sems : Vector (BitVec 32) 256
  wbase : Vector (BitVec 32) 256
  queues : Vector (List Word) 8
  handles : Vector Handle 32
  fstat : BitVec 5
  fen : BitVec 5
  fmode : BitVec 3
  fmbackoff : Word
  tcfg : Vector Word 48
  specSel : BitVec 10
  lease : Bool
  acs : List Nat
  acsHeld : Bool
  /-- blocks of an allotment to be granted again on resume (02 R66) -/
  acsKeep : Nat
  weights : Option Weights
  ran : Option Weights
  arrayQ : List ArrCmd
  slots : Vector TaskSlot 8
  ports : Vector Port 8
  senders : List Sender
  awErr : List Nat
  prologue : Bool
  executed : Nat
  late : Late
  code : List CodeLine
  deriving DecidableEq, Repr

/-! ### Work in flight -/

/-- What a global access does at its home. -/
inductive AccOp where
  | read
  | write (data : List Byte)
  | add (fmt : Fin 3) (fmode : BitVec 3) (v : BitVec 32)
  deriving DecidableEq, Repr

/-- How far a global access has got: at the port, on its way to the slice, accepted by the slice, performed. -/
inductive Stage where
  | port | sent | slice | performed
  deriving DecidableEq, Repr

/-- A global access (03 R83). `flight` and `piece` say whose it is; `line` is the line that it named at issue, by which the core's own buffer knows
it; `lines` are the line requests not yet injected; `src` is the scratch
address of a copy's bytes, which are read when the line is injected (03 R97). -/
structure Access where
  flight : Nat
  piece : Nat
  ref : Ref
  core : Nat
  part : Nat
  ctx : Nat
  spec : Option Nat
  op : AccOp
  pa : Nat
  line : Nat
  len : Nat
  src : Option Nat
  poison : Bool
  kind : PageKind
  die : Nat
  slice : Nat
  lines : Nat
  engine : Nat
  stage : Stage
  value : List Byte
  vpoison : Bool
  forwarded : Bool
  deriving DecidableEq, Repr

/-- A piece of a copy (09 R251): a scratch window offset, a source window offset for `S2S`, and its length. `bytes` are
the bytes to land once they are known. -/
structure Piece where
  dst : Nat
  src : Nat
  len : Nat
  bytes : Option (List Byte × Bool)
  deriving DecidableEq, Repr

/-- A whole-tensor read that a landing converts (09 R254, R278). -/
inductive Convert where
  | copyx (dst : Nat) (fmt : Fin 3) (n rowLen : Nat) (efmt geom fmode : Nat)
  | mtopk (dst : Nat) (fmt mode k rows len fmode : Nat)
  deriving DecidableEq, Repr

/-- A pool request (11 R331): the queue, the record's bytes and its window offset, and whether it is `LAUNCHP`. -/
structure PoolReq where
  queue : Nat
  record : List Byte
  off : Nat
  park : Bool
  deriving DecidableEq, Repr

/-- The scheduler's answer to a pool request (11 R328): the launch identifier, `FULL`, or `LAUNCH_PERM`. -/
inductive PoolAnswer where
  | accepted (w : Word)
  | full
  | perm
  deriving DecidableEq, Repr

/-- Bytes of an on-core store: listed cells are non-zero bytes of units whose fresh bit is clear; `used` are those units, `poison` the
units with a poison mark (02 R53, 20 R477), and `err` those whose cells hold a double-bit error (02 R54); the marks of the ACS are by element. -/
structure Store where
  cells : List Host.Cell
  used : List Nat
  poison : List Nat
  err : List Nat
  deriving DecidableEq, Repr

def Store.empty : Store := ⟨[], [], [], []⟩

/-- What a command has read of the on-core stores so far. -/
structure View where
  scratch : Store
  tiles : Store
  acs : Store
  deriving DecidableEq, Repr

def View.empty : View := ⟨.empty, .empty, .empty⟩

/-- One write that a command still has to make: bytes of an on-core store with their poison; an update of a scatter-accumulate (04 R144);
a line read from scratch and taken by the combine buffer or the undercoat store; or bytes so taken. -/
inductive Put where
  | bytes (sp : Space) (a : Nat) (v : List Byte) (bad : Bool)
  | add (fmt : Fin 3) (mode : BitVec 3) (a : Nat) (v : Nat) (bad : Bool)
  | line (die pa n src : Nat)
  | accept (die pa : Nat) (v : List Byte) (bad : Bool)
  deriving DecidableEq, Repr

/-- The work of a command between its issue and its completion point (03 R96, R97): the chunks that it still has to read, none before its
first step; what it has read; the writes still to make, in groups that take effect together, none before everything is read; the
units whose marks its last write clears; and the registers that it owes. -/
structure DataWork where
  op : DataOp
  need : Option (List (Space × Nat))
  seen : View
  outs : Option (List (List Put))
  clears : List (Space × Nat)
  owed : List Owed
  deriving DecidableEq, Repr

/-- What a command that has issued is still doing. -/
inductive Work where
  | handle (h : HReg) (v : Handle)
  | load (d : SReg) (sz : Fin 5) (sx : Bool) (h : HReg) (va : Word)
  | writes (todo : Nat)
  | land (aw : Option Nat) (pieces : Map Piece)
  | convert (c : Convert) (pieces : Map Piece) (els scales : Nat)
  | fence (acq : Bool) (scope : Scope) (at_ : Nat)
  | collective (key : Nat) (so : Bool) (pieces : Map Piece)
  | message (dest : Word) (num : BitVec 16)
  | wake (q : Nat) (v : BitVec 32) (ok : Bool)
  | pool (r : PoolReq) (d : SReg) (p : Option PReg) (answer : Option PoolAnswer)
  | array
  | task (slot : Fin 8) (entry : Nat)
  | late (vs : List Owed)
  | data (d : DataWork)
  deriving DecidableEq, Repr

/-- A command that has issued and is short of its completion point (06 R182): its stream, the visit of its section, its signal field, the
registers it owes, the tiles it names, its copy engine, its flags so far, and its word, opcode and section number for an error record. -/
structure Flight where
  ref : Ref
  visit : Nat
  sig : Option (BitVec 8 × BitVec 3)
  owes : List Reg
  tiles : List Nat
  engine : Option Nat
  flags : BitVec 5
  word : Word
  opc : Nat
  num : Nat
  work : Work
  deriving DecidableEq, Repr

/-! ### Cores -/

/-- A combine-buffer line (03 R93): first write cycle, byte mask, bytes, and the launches that wrote it. -/
structure CombLine where
  line : Nat
  ctx : Nat
  since : Nat
  mask : BitVec 128
  data : Vector Byte 128
  poison : Bool
  launches : List Nat
  die : Nat
  draining : Bool
  deriving DecidableEq, Repr

/-- A `UN` read copy (03 R93). -/
structure ReadCopy where
  line : Nat
  ctx : Nat
  data : Vector Byte 128
  deriving DecidableEq, Repr

/-- A background walk (09 R246): the context and page walked, and the result with the cycle it was kept. -/
structure Walk where
  ctx : Nat
  vf : Nat
  vpn : Nat
  spec : Bool
  result : Option (Handle × Nat)
  deriving DecidableEq, Repr

/-- An epilogue that the loader is entering (19 R446): its hash, the jobs for which it was placed, the cycle in which it is entered, and its
words. -/
structure EpiLoad where
  hash : Word
  jobs : List Nat
  due : Nat
  words : List (BitVec 96)
  deriving DecidableEq, Repr

/-- A holder of the matrix array. -/
inductive Holder where
  | cc (n : Nat)
  | trowel
  deriving DecidableEq, Repr

/-- A requester of the array: since when, and how often passed over (11 R308). -/
structure ArrReq where
  who : Holder
  since : Nat
  passed : Nat
  deriving DecidableEq, Repr

/-- What the array has under way: a weight load or an activation row of a job's command, or of a Trowel pass. -/
inductive ArrItem where
  | load (flight : Option Nat)
  | row (job flight tile : Nat) (cfg : Word) (src dest : Nat) (set last : Bool) (mode : BitVec 3)
  | passLoad
  | passRow (i : Nat)
  deriving DecidableEq, Repr

/-- An item, the cycle in which it enters the array, the cycle in which its effect is written (11 R317), and its weight load. -/
structure ArrRow where
  entry : Nat
  due : Nat
  load : Nat
  item : ArrItem
  deriving DecidableEq, Repr

/-- A weight load of the array: the job, none for the Trowel; the tile and its configuration; and the bytes read. -/
structure ArrLoad where
  who : Option Nat
  w : Weights
  bytes : List Byte
  /-- columns that a poisoned byte of the weights contributes to (11 R319) -/
  bad : List Nat
  deriving DecidableEq, Repr

/-- The matrix array and its arbiter: the holder, its grant, the commands granted in the term and whether the 64th has completed, the end of a
running weight load, the cycle from which the next item can enter, the weight loads in use, the current one and the number of the next,
the last grantee, the requesters, the items under way, and the cycles in which the array has been busy (21 R496). -/
structure ArrayState where
  holder : Option Holder
  since : Nat
  term : List Nat
  full : Bool
  loading : Nat
  free : Nat
  loads : Map ArrLoad
  cur : Option Nat
  next : Nat
  last : Option Holder
  reqs : List ArrReq
  rows : List ArrRow
  busy : Nat
  deriving DecidableEq, Repr

/-- An owner-table and pool entry (13 R356, R357, R375). -/
structure PoolEntry where
  state : Fin 6
  job : Nat
  vf : Nat
  part : Nat
  ctx : Nat
  cc : Nat
  slot : Fin 8
  mdom : Nat
  jobNo : Nat
  flight : Nat
  rows : Nat
  shape : Nat
  wid : Nat
  hash : Word
  addr : Nat
  dests : Nat
  issue : Nat
  deadline : Nat
  fmode : BitVec 3
  flags : BitVec 5
  cause : Nat
  performed : Nat
  issued : Nat
  deriving DecidableEq, Repr

/-- A task of a pass: pool entry, rows, and the flight that tells it from a later task of the same entry. -/
structure PassTask where
  entry : Nat
  rows : Nat
  flight : Nat
  deriving DecidableEq, Repr

/-- A Trowel pass (13 R361 to R376): its number, its tasks in stack order, shape-class word, WID and code hash, ACS blocks; whether its weights are in the
buffer, loaded, its rows charged; rows that have entered the array and rows written, with what those under way read as they entered; whether its
term has ended; chunks copied into their epilogue buffers; chunks whose epilogue is done, with the destination rows they gave; and the tasks
that are through the scatter. -/
structure Pass where
  no : BitVec 32
  tasks : List PassTask
  shape : Word
  wid : Nat
  hash : Word
  blocks : List Nat
  weights : Bool
  loaded : Bool
  paid : Bool
  row : Nat
  written : Nat
  inputs : Map (List Byte × Bool)
  ran : Bool
  copied : Nat
  chunks : Nat
  outs : List (List Byte)
  scattered : Nat
  deriving DecidableEq, Repr

/-- A chunk in its epilogue buffer (13 R368): its pass, first stacked row and rows, the words of the epilogue still to run, and the buffer and
generators as they stand. -/
structure Chunk where
  pass : BitVec 32
  first : Nat
  rows : Nat
  words : List (BitVec 96)
  buf : Store
  g : Vector (BitVec 128) 16
  deriving DecidableEq, Repr

/-- Where a parked row is held (13 R372): the park buffer, a physical ACS row, or still the epilogue buffer. -/
inductive ParkAt where
  | buffer
  | acs (row : Nat)
  | epilogue
  deriving DecidableEq, Repr

/-- A parked row (13 R371): entry, row, cause, pass, descriptor, destination bytes, and where it is held. -/
structure ParkRow where
  entry : Nat
  row : Nat
  cause : Nat
  pass : BitVec 32
  desc : Word
  bytes : List Byte
  held : ParkAt
  deriving DecidableEq, Repr

/-- The Trowel of a core (13): its pool, its weight buffer, its two pass positions, the chunks copied and not yet done, oldest first, and
the cycle in which the scatter can act again. -/
structure Trowel where
  pool : Map PoolEntry
  buffer : Option (Nat × List Byte)
  front : Option Pass
  back : Option Pass
  chunks : List Chunk
  scatterAt : Nat
  parked : List ParkRow
  passNo : BitVec 32
  passes : Nat
  parkedTasks : Nat
  deriving DecidableEq, Repr

/-- Who waits for ACS blocks (02 R64): a job, the front pass, or a task's parked rows. -/
inductive AcsWho where
  | job (j : Nat)
  | pass
  | park (entry : Nat)
  deriving DecidableEq, Repr

/-- A line of an epilogue table (19 R446): code hash, section words, and whether entered, with the last naming. -/
structure Epilogue where
  hash : Word
  words : List (BitVec 96)
  named : Nat
  deriving DecidableEq, Repr

/-- A command at the vector unit (10 R287): its flight, none for one of a Trowel epilogue; its control core, 4 for the Trowel; its steps still
to take; and whether it is speculative. -/
structure VecReq where
  flight : Option Nat
  cc : Nat
  steps : Nat
  spec : Bool
  deriving DecidableEq, Repr

/-- The vector unit: its commands, oldest first, and the control core served last. -/
structure VecUnit where
  reqs : List VecReq
  last : Nat
  deriving DecidableEq, Repr

/-- A stream that waits for a copy engine (01 R8): the stream, the command count at which it waits, since when, and the last cycle in
which it asked. -/
structure EngineWait where
  ref : Ref
  issued : Nat
  since : Nat
  seen : Nat
  deriving DecidableEq, Repr

/-- One core (00 R1): scratchpad, tiles, accumulator store and the shared units. -/
structure Core where
  scratch : Store
  tiles : Store
  acs : Store
  /-- queues of jobs, as job × 8 + queue, whose head entry fails its parity twice (20 R479) -/
  queueErr : List Nat
  acsOwner : Map AcsWho
  acsWait : List (AcsWho × Nat)
  acsLast : Map Nat
  scrLast : Map Nat
  tileLast : Map Nat
  array : ArrayState
  vec : VecUnit
  /-- `SACC` commands at the scatter unit with their cycles, oldest first (09 R263) -/
  scatter : List (Nat × Nat)
  engineWait : List EngineWait
  engineLast : Nat
  refill : Nat
  left : Nat
  /-- units left and refill at the start of the cycle (08 R233) -/
  leftWas : Nat
  refillWas : Nat
  limit : Nat
  walks : Map Walk
  xlat : List (Nat × Nat × Handle)
  combine : List CombLine
  copies : List ReadCopy
  epilogues : List Epilogue
  loading : List EpiLoad
  trowel : Trowel
  bucket : Nat
  credit : Nat
  lastInject : Option Nat
  deriving DecidableEq, Repr

/-- A core after boot: every unit fresh, the budget refill 8,192 (08 R233). -/
def Core.init : Core where
  scratch := .empty
  tiles := .empty
  acs := .empty
  queueErr := []
  acsOwner := []
  acsWait := []
  acsLast := []
  scrLast := []
  tileLast := []
  array := ⟨none, 0, [], false, 0, 0, [], none, 0, none, [], [], 0⟩
  vec := ⟨[], 4⟩
  scatter := []
  engineWait := []
  engineLast := 3
  refill := 8192
  left := 8192
  leftWas := 8192
  refillWas := 8192
  limit := 8192
  walks := []
  xlat := []
  combine := []
  copies := []
  epilogues := []
  loading := []
  trowel := ⟨[], none, none, none, [], 0, [], 0, 0, 0⟩
  bucket := 0
  credit := 0
  lastInject := none

/-! ### Sampler -/

/-- States of a sampler context (12 R335). -/
inductive SState where
  | idle | waiting | ready | running | maskwait | awaitReshard | stopped
  deriving DecidableEq, Repr

/-- A sampler configuration block (12 R334). -/
structure SCfg where
  vf : Nat
  prog : Nat
  s : Nat
  ks : Nat
  dmax : Nat
  grammar : Bool
  seed : Word
  maskbase : Word
  vaddr : Word
  param : Vector Word 8
  tport : Word
  dport : Word
  detok : Nat
  deriving DecidableEq, Repr

/-- A draft list of the draft store with its drafted token and probability (12 R338). -/
structure Draft where
  tok : BitVec 32
  q : BitVec 32
  list : List (BitVec 32 × BitVec 32)
  deriving DecidableEq, Repr

/-- A sequence context of a sampler (12 R334 to R337). -/
structure SCtx where
  state : SState
  cfg : SCfg
  readyAt : Nat
  step : Word
  phase : Nat
  depth : Nat
  /-- depths recorded as pending, oldest first, with the cycle of each -/
  pend : List (Nat × Nat)
  iter : Nat
  k : Vector Word 16
  seed : Word
  ctr : Word
  pc : Nat
  w : List (BitVec 32 × BitVec 32)
  prob : Bool
  excl : List (BitVec 32)
  marked : Bool
  out : List (BitVec 32)
  count : Nat
  pass : BitVec 8
  acc : Nat
  accDone : Bool
  drafted : Option (BitVec 32)
  /-- the group and the shard that are missing, where a `SHORT` delivery has come while the step runs -/
  short : Option (Nat × Nat)
  delivered : List Nat
  cand : Map (List (BitVec 32 × BitVec 32))
  drafts : Vector Draft 8
  recent : List (BitVec 32)
  wait : Option (KReg × Nat × Nat)
  stop : Option (Nat × Nat × Word)
  /-- a cycle in which PEND or DEPTH has changed, with both as at its start (08 R229) -/
  was : Option (Nat × Nat × Nat)
  deriving DecidableEq, Repr

/-- The sampler processor of a die (12 R333). Listed program words and table entries are those loaded. (DESIGN CHOICE, log 74) -/
structure Sampler where
  words : Map (BitVec 32)
  table : Map Nat
  ctxs : Map SCtx
  lanes : List Nat
  msgNo : Map (BitVec 16)
  deriving DecidableEq, Repr

/-! ### Dies -/

/-- A shadow line (14 R384): byte mask and bytes. -/
structure Shadow where
  mask : BitVec 128
  data : Vector Byte 128
  poison : Bool
  die : Nat
  deriving DecidableEq, Repr

/-- State of a speculative launch. -/
inductive SpecState where
  | running | claiming | draining
  deriving DecidableEq, Repr

/-- A speculative launch of a die (14 R382 to R392). -/
structure Spec where
  launch : Nat
  queue : Nat
  seq : BitVec 32
  started : Nat
  state : SpecState
  attempt : Nat
  acks : List Nat
  ranges : List (Nat × Nat)
  shadow : Map Shadow
  deriving DecidableEq, Repr

/-- A cached line of a slice (23 R516). -/
structure CacheLine where
  set : Nat
  way : Nat
  line : Nat
  part : Nat
  used : Nat
  dirty : Bool
  deriving DecidableEq, Repr

/-- A home slice (14 R387, 23 R516, R517): requests waiting, oldest first, the window counted and its accepted counts, watch filter,
overflow bits, and cached lines. -/
structure Slice where
  waiting : List Nat
  window : Nat
  counts : Map Nat
  watch : List (Nat × Nat)
  overflow : List Nat
  lines : List CacheLine
  deriving DecidableEq, Repr

def Slice.init : Slice := ⟨[], 0, [], [], [], []⟩

/-- A compute die: its scheduler's pool and scanner, Undercoat, sampler and slices. -/
structure Die where
  /-- pool requests with the cycle of their arrival (11 R331) -/
  requests : List (Nat × Nat)
  /-- whether the pool's next grant is a ring read's where both kinds wait (19 R443) -/
  turn : Bool
  /-- the first cycle in which the pool can grant again -/
  poolNext : Nat
  caps : Map Nat
  start : Nat
  rot : Nat
  reserved : List Nat
  /-- jobs that have waited 65,536 cycles for a core (01 R30) -/
  blocking : List Nat
  prologue : Option Nat
  prologueQ : List Nat
  uccfg : Word
  specs : Map Spec
  speculated : List (Nat × BitVec 32)
  counters : Map Word
  partCounters : Map Word
  sampler : Sampler
  slices : Map Slice
  idleSince : Nat
  gated : Bool
  lost : Bool
  /-- the window whose injection refill has been made (23 R521) -/
  window : Nat
  deriving DecidableEq, Repr

def Die.init : Die where
  requests := []
  turn := false
  poolNext := 0
  caps := []
  start := 0
  rot := 0
  reserved := []
  blocking := []
  prologue := none
  prologueQ := []
  uccfg := 0
  specs := []
  speculated := []
  counters := []
  partCounters := []
  sampler := ⟨[], [], [], [], []⟩
  slices := []
  idleSince := 0
  gated := false
  lost := false
  window := 0

/-! ### Queues and launches -/

/-- A queue table entry (19 R431). -/
structure Queue where
  w0 : Word
  base : Nat
  wseq : BitVec 32
  rseq : BitVec 32
  lastStart : BitVec 32
  stale : Nat
  hold : Bool
  overrun : Bool
  pending : Bool
  deriving DecidableEq, Repr

/-- A history entry (14 R377) with the kernel's ARGCLASS, and whether a cut stands just before it (R395). -/
structure Hist where
  seq : BitVec 32
  desc : Word
  args : List Word
  trips : List Nat
  part : Nat
  predictable : Bool
  argclass : Nat
  nargs : Nat
  cut : Bool
  deriving DecidableEq, Repr

/-- A kernel descriptor's fields (18 R419). -/
structure KDesc where
  entry : Vector Word 4
  kinds : Vector Nat 4
  bounds : Vector Nat 4
  scratch : Nat
  tiles : Nat
  spec : Bool
  nargs : Nat
  sbase : Nat
  slimit : Nat
  argclass : Nat
  epin : Nat
  epilist : Word
  deriving DecidableEq, Repr

/-- How far a launch has got (19 R440). -/
inductive LState where
  | reading | pending | starting | prologue | claiming | placing | running | finishing
  deriving DecidableEq, Repr

/-- A launch from its pool entry to its completion word. -/
structure Launch where
  queue : Nat
  seq : BitVec 32
  die : Nat
  ctx : Nat
  vf : Nat
  part : Nat
  record : List Byte
  state : LState
  held : Bool
  /-- the cycle in which its pool entry was freed -/
  freed : Option Nat
  desc : Option KDesc
  trips : Vector Nat 4
  args : List Byte
  jobs : Nat
  created : Nat
  placed : Nat
  completed : Nat
  spec : Option Nat
  repeats : Nat
  again : Bool
  started : Bool
  status : Option (Nat × Nat)
  deriving DecidableEq, Repr

/-! ### Contexts, partitions, translation -/

/-- Context states (20 R456). -/
inductive CState where
  | empty | active | stopped | saveBlocked | frozen | dumping
  deriving DecidableEq, Repr

/-- A context: its descriptor (20 R457; `desc` false while only stage-1 tables exist) and state. -/
structure Ctx where
  desc : Bool
  s1root : Word
  savepool : Word
  savesize : Nat
  dump : Word
  dumpsize : Nat
  parkpolicy : BitVec 8
  state : CState
  vf : Nat
  saves : List (Nat × Nat)
  errors : List ErrRec
  cause : Nat
  frozenAt : Word
  resetBy : List KReq
  deriving DecidableEq, Repr

/-- A virtual function (21 R488, 19 R429): assignment, aperture, backing store, stage-2 root, error counts. -/
structure Vf where
  part : Option Nat
  aperture : Nat
  apbase : Word
  backing : Option (Word × Nat)
  s2root : Word
  apErrors : Nat
  qErrors : Nat
  deriving DecidableEq, Repr

def Vf.init : Vf := ⟨none, 0, 0, none, 0, 0, 0⟩

/-- A weight-identity entry (21 R493). -/
structure Wid where
  valid : Bool
  shape : Nat
  paddr : Nat
  len : Nat
  digest : List Byte
  load : Nat
  deriving DecidableEq, Repr

/-- A `PROBE` fault at F2 (20 R467). -/
structure PFault where
  job : Nat
  core : Nat
  ctx : Nat
  vf : Nat
  vpn : Nat
  miss : Nat
  since : Nat
  state : Fin 3
  deriving DecidableEq, Repr

/-- A page in migration (20 R464): the stage-2 leaf that maps it, old and new frame, length, and lines copied. -/
structure Migration where
  vf : Nat
  ipa : Nat
  old : Nat
  new : Nat
  len : Nat
  copied : Nat
  deriving DecidableEq, Repr

/-! ### Collectives, messages, mailboxes -/

/-- One participant's arrival at a collective instance (09 R265 to R267), with its `FMODE` at issue, its source range, whether its contribution has been
read, and the kind of its destination's page. -/
structure Part where
  rank : Nat
  flight : Nat
  job : Nat
  op : Nat
  count : Nat
  root : Nat
  dst : Nat
  hdie : Option Nat
  dstoff : Word
  deadline : Word
  status : Nat
  mode : BitVec 3
  src : Nat
  len : Nat
  loaded : Bool
  kind : PageKind
  data : List Byte
  bad : Bool
  flags : BitVec 5
  deriving DecidableEq, Repr

/-- A collective group (09 R265) with its current instance; `ending` is the instance's STATUS once its result is being written,
and `moved` are the ranks that F3 has mapped onto another die (12 R340). -/
structure Coll where
  size : Nat
  inst : Nat
  parts : List Part
  ending : Option Nat
  moved : Map Nat
  deriving DecidableEq, Repr

/-- A barrier round in progress (07 R192): what names the instance, the count, the arrivals, and the cycle at which a completed round
releases. -/
structure Barrier where
  scope : Nat
  place : Nat
  owner : Nat
  n : Nat
  count : Nat
  arrivals : List Ref
  release : Option Nat
  deriving DecidableEq, Repr

/-- A fabric message in transit (07 R214, 09 R271). `sender` names the sending job or unit. -/
structure Fmsg where
  sender : Nat
  dest : Word
  num : BitVec 16
  slot : Nat
  data : List Byte
  poison : Bool
  deriving DecidableEq, Repr

/-- A mailbox message (19 R448). The payload keeps the bytes the receiver reads; `req` refers to a Klota request. -/
structure Msg where
  type : Nat
  src : Fin 8
  dst : Fin 8
  payload : List Nat
  err : Option ErrRec
  req : Option KReq
  deriving DecidableEq, Repr

/-- The Klota mailbox of a function (19 R450): its counts, DEVSTAT bit 1 of a VF's, the response slots, and the responses that wait for a
free slot. -/
structure Klota where
  reqTail : BitVec 32
  reqHead : BitVec 32
  rspTail : BitVec 32
  rspHead : BitVec 32
  fatal : Bool
  rsps : Map (List Byte)
  waiting : List (List Byte)
  deriving DecidableEq, Repr

def Klota.init : Klota := ⟨0, 0, 0, 0, false, [], []⟩

/-! ### Bandwidth -/

/-- A request at an HBM controller (23 R518). -/
structure HbmReq where
  id : Nat
  part : Nat
  lines : Nat
  start : Nat
  spec : Bool
  deriving DecidableEq, Repr

/-- An HBM controller (23 R518). -/
structure Hbm where
  v : Nat
  f : Map Nat
  waiting : List HbmReq
  deriving DecidableEq, Repr

def Hbm.init : Hbm := ⟨0, [], []⟩

/-- A flit at a router output: input port, partition charged, and the cycle since which it is at its input's head (23 R520). -/
structure Flit where
  id : Nat
  input : Nat
  part : Nat
  since : Nat
  deriving DecidableEq, Repr

/-- A router output (23 R520): flits of VC0 to VC5, channel being served and its quantum, grants since VC5. -/
structure Router where
  vc : Vector (List Flit) 6
  turn : Nat
  quantum : Nat
  since5 : Nat
  deriving DecidableEq, Repr

/-! ### Serving -/

/-- A session of the network engine (22 R497). -/
structure Session where
  port : Nat
  key : List Byte
  authFails : Nat
  deriving DecidableEq, Repr

/-- A request in progress (22 R501 to R510). -/
structure Request where
  session : Nat
  reqid : Word
  service : Nat
  ring : Nat
  vocab : Nat
  die : Nat
  ctx : Nat
  maxtok : Nat
  stops : List (List Byte)
  text : List Byte
  prompt : Nat
  region : Option (Nat × Nat × Nat)
  detok : Nat
  pend : List Byte
  rel : List Byte
  gen : Nat
  fseq : BitVec 32
  finished : Bool
  deriving DecidableEq, Repr

/-- What reaches a detokeniser engine: a token of a request, told whether it is its step's last, or the end of a request by a stop. -/
inductive DetokItem where
  | tok (request : Nat) (t : BitVec 32) (last : Bool)
  | stop (request : Nat) (code : Nat)
  deriving DecidableEq, Repr

/-- What left the device, in order; a bulk transfer with the function whose requester ID it carries (21 R491). -/
inductive Out where
  | msix (fn : Option Nat) (vector : Nat)
  | frame (session dscp : Nat) (bytes : List Byte)
  | beacon (router : Word) (bytes : List Byte)
  | bulk (fn : Option Nat) (addr : Word) (bytes : List Byte)
  | backing (vf : Nat) (ipa : Nat) (bytes : List Byte)
  | backRead (vf : Nat) (ipa len : Nat)
  | peerMsg (m : Fmsg)
  | peerWake (pkg q : Nat) (v : BitVec 32)
  | apRead (vf : Nat) (bytes : List Byte)
  | peerAck (sender : Nat) (dest : Word) (num : BitVec 16) (nack : Bool)
  deriving DecidableEq, Repr

/-! ### The machine -/

/-- A step of a Trowel's own: pass `no` asks for its ACS blocks (13 R362), or its row `i` enters the array (R364); the chunk at hand comes to its
next epilogue command, or to that command's end (R369). -/
inductive TrowelAct where
  | blocks (no : BitVec 32)
  | entry (no : BitVec 32) (i : Nat)
  | next
  | command
  deriving DecidableEq, Repr

/-- What the agenda can hold: a stream's next command, a sampler lane's next word, an event, the completion point of a command of fixed
latency (17 R405), a step of a command's work on the on-core stores (03 R97), a step of a core's vector unit (10 R287), or one of
its Trowel, the state of a new job as the context engine sets it (01 R17), or the completion word of a launch (01 R27). -/
inductive Move where
  | stream (r : Ref)
  | lane (die ctx : Nat)
  | event (i : Instr) (g : Args)
  | finish (flight : Nat)
  | effect (flight : Nat)
  | vecStep (core : Nat)
  | trowel (core : Nat) (x : TrowelAct)
  | begin (job : Nat)
  | word (launch : Nat)
  deriving DecidableEq, Repr

/-- A move and the cycle from which it is due. -/
structure Entry where
  due : Nat
  move : Move
  deriving DecidableEq, Repr

/-- The whole machine. -/
structure State where
  -- the model's own
  now : Nat
  ticket : Nat
  agenda : List Entry
  cur : Ref
  lane : Nat × Nat
  args : Args
  nextId : Nat
  outbox : List Out
  -- jobs and their work
  jobs : Map Job
  flights : Map Flight
  accesses : Map Access
  cores : Map Core
  dies : Map Die
  -- global memory
  mem : List Host.Cell
  memPoison : List Nat
  -- package registers
  boots : Nat
  boot : Nat
  ready : Bool
  fatal : Bool
  supply : Bool
  ptpt : Word
  etherUp : Bool
  /-- nanoseconds by which F4 is still to slew `PTPT` (08 R235) -/
  slew : Int
  pkg : Nat
  -- queues, launches, contexts
  queues : Map Queue
  history : Map (List Hist)
  launches : Map Launch
  ctxs : Map Ctx
  s1 : Map Word
  s2 : Map Word
  vfs : Map Vf
  parts : Map (List Byte)
  staged : Map (List Byte × KReq)
  shapes : Map Word
  wids : Map Wid
  -- barriers, collectives, messages
  barriers : List Barrier
  colls : Map Coll
  fmsgs : Map Fmsg
  mail : List Msg
  klota : Map Klota
  -- faults and recovery
  errors : List ErrRec
  faults : Map PFault
  ages : Map Nat
  migrations : Map Migration
  retiredFrames : List Nat
  -- power and bandwidth
  sensors : List Sensor
  hbm : Map Hbm
  routers : Map Router
  -- serving
  services : Map (List Byte)
  vocabs : Map (List Byte)
  rings : Map (List Byte)
  grammars : List (List Byte)
  sessions : Map Session
  requests : Map Request
  tokQ : Map (List Nat)
  detokQ : Map (List DetokItem)
  beacons : Word
  deriving DecidableEq, Repr

/-- The machine right after reset: nothing listed, the boot ROM's first stage about to run (21 R489).
(DESIGN CHOICE, log 5; DESIGN CHOICE, log 8) -/
def State.reset : State where
  now := 0
  ticket := 0
  agenda := [⟨0, .event .bootStage {}⟩]
  cur := ⟨0, .a⟩
  lane := (0, 0)
  args := {}
  nextId := 0
  outbox := []
  jobs := []
  flights := []
  accesses := []
  cores := []
  dies := []
  mem := []
  memPoison := []
  boots := 0
  boot := 0
  ready := false
  fatal := false
  supply := true
  ptpt := 0
  etherUp := false
  slew := 0
  pkg := 0
  queues := []
  history := []
  launches := []
  ctxs := []
  s1 := []
  s2 := []
  vfs := []
  parts := []
  staged := []
  shapes := []
  wids := []
  barriers := []
  colls := []
  fmsgs := []
  mail := []
  klota := []
  errors := []
  faults := []
  ages := []
  migrations := []
  retiredFrames := []
  sensors := []
  hbm := []
  routers := []
  services := []
  vocabs := []
  rings := []
  grammars := []
  sessions := []
  requests := []
  tokQ := []
  detokQ := []
  beacons := 0

end Sys2Proof.Machine
end

