-- ==== Sys2Proof/Machine/Bytes.lean ====
section
/-! DEFINITION. Bytes and the stores that hold them: numbers as little-endian bytes (02 R49), global memory in its canonical form,
and the on-core stores with fresh bits (02 R53, R65) and poison marks (20 R477). -/

namespace Sys2Proof.Machine

/-- The low `n` bytes of a number, least significant first. -/
def bytesOf (n w : Nat) : List Byte :=
  match n with
  | 0 => []
  | n + 1 => BitVec.ofNat 8 w :: bytesOf n (w / 256)

/-- The number that bytes spell, least significant first. -/
def natOf (l : List Byte) : Nat :=
  match l with
  | [] => 0
  | b :: r => b.toNat + 256 * natOf r

/-- `n` bytes of a list from position `i`, zeros beyond its end. -/
def sliceOf (l : List Byte) (i n : Nat) : List Byte :=
  let r := (l.drop i).take n
  r ++ List.replicate (n - r.length) 0

/-- The number in `n` bytes of a list from position `i`. -/
def fieldOf (l : List Byte) (i n : Nat) : Nat := natOf ((l.drop i).take n)

/-- `l` with the bytes from position `i` replaced by `v`. -/
def patchOf (l : List Byte) (i : Nat) (v : List Byte) : List Byte := sliceOf l 0 i ++ v ++ l.drop (i + v.length)

/-! ### Canonical cell lists -/

/-- Addresses strictly rising and no zero byte listed; `lo` is below every address. -/
def Memory.wfFrom (lo : Nat) (m : List Host.Cell) : Bool :=
  match m with
  | [] => true
  | (a, b) :: r => lo ≤ a && b ≠ 0 && Memory.wfFrom (a + 1) r

/-- The canonical form of a cell list: what is not listed reads as 0 (21 R489 stage 4 leaves memory zeroed). -/
def Memory.wf (m : List Host.Cell) : Bool := Memory.wfFrom 0 m

/-- The byte at an address. (DESIGN CHOICE, log 7) -/
def Memory.get (m : List Host.Cell) (a : Nat) : Byte :=
  match m with
  | [] => 0
  | (k, b) :: r => if k = a then b else if a < k then 0 else Memory.get r a

/-- The cells with byte `b` at address `a`; a zero byte is not listed. -/
def Memory.put (m : List Host.Cell) (a : Nat) (b : Byte) : List Host.Cell :=
  match m with
  | [] => if b = 0 then [] else [(a, b)]
  | (k, c) :: r =>
    if a < k then (if b = 0 then (k, c) :: r else (a, b) :: (k, c) :: r)
    else if k = a then (if b = 0 then r else (a, b) :: r)
    else (k, c) :: Memory.put r a b

/-- `n` bytes from address `a`. -/
def Memory.read (m : List Host.Cell) (a n : Nat) : List Byte :=
  match n with
  | 0 => []
  | n + 1 => Memory.get m a :: Memory.read m (a + 1) n

/-- The cells with the bytes `v` from address `a`. -/
def Memory.write (m : List Host.Cell) (a : Nat) (v : List Byte) : List Host.Cell :=
  match v with
  | [] => m
  | b :: r => Memory.write (Memory.put m a b) (a + 1) r

/-! ### Sets of numbers, rising -/

def NatSet.insert (s : List Nat) (k : Nat) : List Nat :=
  match s with
  | [] => [k]
  | h :: t => if k < h then k :: h :: t else if h = k then h :: t else h :: NatSet.insert t k

def NatSet.erase (s : List Nat) (k : Nat) : List Nat := s.filter (fun x => x ≠ k)

/-- Units of `u` bytes that the `n` bytes from `a` touch. -/
def unitsOf (u a n : Nat) : List Nat :=
  if n = 0 then [] else (List.range ((a + n - 1) / u - a / u + 1)).map (fun i => a / u + i)

/-! ### On-core stores; `u` is the size of a unit: 64-byte granule, 256-byte tile line, 768-byte ACS row -/

/-- A byte: zero while its unit's fresh bit is set (02 R53). -/
def Store.get (u : Nat) (s : Store) (a : Nat) : Byte := if a / u ∈ s.used then Memory.get s.cells a else 0

def Store.read (u : Nat) (s : Store) (a n : Nat) : List Byte :=
  match n with
  | 0 => []
  | n + 1 => Store.get u s a :: Store.read u s (a + 1) n

/-- Clears the fresh bit of a unit: every byte of it becomes zero (the write that follows covers its own). -/
def Store.touch (u : Nat) (s : Store) (k : Nat) : Store :=
  if k ∈ s.used then s
  else { s with cells := Memory.write s.cells (k * u) (List.replicate u 0), used := NatSet.insert s.used k }

/-- Writes a byte, first clearing the fresh bit of its unit. -/
def Store.put (u : Nat) (s : Store) (a : Nat) (b : Byte) : Store :=
  let t := Store.touch u s (a / u)
  { t with cells := Memory.put t.cells a b }

def Store.putAll (u : Nat) (s : Store) (a : Nat) (v : List Byte) : Store :=
  match v with
  | [] => s
  | b :: r => Store.putAll u (Store.put u s a b) (a + 1) r

/-- Whether the `n` bytes from `a` cover unit `k` whole. -/
def covers (u a n k : Nat) : Bool := a ≤ k * u && (k + 1) * u ≤ a + n

/-- Poison marks after a write of `n` bytes at `a` (20 R477). -/
def marksAfter (u a n : Nat) (bad : Bool) (p : List Nat) : List Nat :=
  if bad then (unitsOf u a n).foldl NatSet.insert p
  else p.filter (fun k => !covers u a n k)

/-- Writes bytes, poisoned when `bad` holds; a unit written whole has lost its double-bit error too. -/
def Store.write (u : Nat) (s : Store) (a : Nat) (v : List Byte) (bad : Bool) : Store :=
  let t := Store.putAll u s a v
  { t with poison := marksAfter u a v.length bad t.poison, err := t.err.filter (fun k => !covers u a v.length k) }

/-- Whether a unit that the range touches carries a poison mark. -/
def Store.bad (u : Nat) (s : Store) (a n : Nat) : Bool := (unitsOf u a n).any (fun k => k ∈ s.poison)

/-- Whether a read of the range meets poison: a mark, or a double-bit error (02 R54). -/
def Store.foul (u : Nat) (s : Store) (a n : Nat) : Bool := (unitsOf u a n).any (fun k => k ∈ s.poison || k ∈ s.err)

/-- Sets the fresh bits of `n` units from unit `k` and clears their marks. -/
def Store.refresh (s : Store) (k n : Nat) : Store :=
  { s with
    used := s.used.filter (fun x => !(k ≤ x && x < k + n))
    poison := s.poison.filter (fun x => !(k ≤ x && x < k + n))
    err := s.err.filter (fun x => !(k ≤ x && x < k + n)) }

/-! ### The three stores of a core -/

/-- Bytes of a unit with a fresh bit: a granule, a tile line, an ACS row (02 R53, R65). -/
def Space.unit (sp : Space) : Nat :=
  match sp with
  | .scratch => 64
  | .tiles => 256
  | .acs => 768

/-- Bytes of a unit with a poison mark: a granule, a tile line, an ACS element (11 R319). -/
def Space.mark (sp : Space) : Nat :=
  match sp with
  | .scratch => 64
  | .tiles => 256
  | .acs => 4

/-- Bytes that are read or written together: an aligned 16-byte chunk (03 R96, R97), or an ACS element (09 R256). -/
def Space.chunk (sp : Space) : Nat :=
  match sp with
  | .scratch => 16
  | .tiles => 16
  | .acs => 4

def Core.store (x : Core) (sp : Space) : Store :=
  match sp with
  | .scratch => x.scratch
  | .tiles => x.tiles
  | .acs => x.acs

def Core.setStore (x : Core) (sp : Space) (st : Store) : Core :=
  match sp with
  | .scratch => { x with scratch := st }
  | .tiles => { x with tiles := st }
  | .acs => { x with acs := st }

def View.store (v : View) (sp : Space) : Store :=
  match sp with
  | .scratch => v.scratch
  | .tiles => v.tiles
  | .acs => v.acs

def View.setStore (v : View) (sp : Space) (st : Store) : View :=
  match sp with
  | .scratch => { v with scratch := st }
  | .tiles => { v with tiles := st }
  | .acs => { v with acs := st }

/-- Marks a unit whose double-bit error a read has found (02 R54, 20 R477). -/
def Store.found (s : Store) (m : Nat) : Store := { s with poison := NatSet.insert s.poison m }

/-- Chunk `c` of a store added to what a command has read. An error that this command is the first to find is an error to it, and a mark to
the commands after it (10 R286). -/
def Core.capture (x : Core) (v : View) (sp : Space) (c : Nat) : Core × View :=
  let st := x.store sp
  let w := v.store sp
  let a := c * sp.chunk
  let m := a / sp.mark
  let hit := w.err.contains m || (st.err.contains m && !st.poison.contains m)
  let w1 : Store := {
    cells := Memory.write w.cells a (Store.read sp.unit st a sp.chunk), used := NatSet.insert w.used (a / sp.unit)
    poison := if st.poison.contains m && !hit then NatSet.insert w.poison m else w.poison
    err := if hit then NatSet.insert w.err m else w.err }
  (if hit then x.setStore sp (st.found m) else x, v.setStore sp w1)

/-! ### Global memory -/

/-- Poison of the 128-byte lines that a range touches. -/
def State.memBad (s : State) (a n : Nat) : Bool := (unitsOf 128 a n).any (fun k => k ∈ s.memPoison)

/-- Bytes of global memory. -/
def State.memRead (s : State) (a n : Nat) : List Byte := Memory.read s.mem a n

/-- A number in global memory. -/
def State.memNat (s : State) (a n : Nat) : Nat := natOf (s.memRead a n)

/-- A write performed at its home (03 R83), with the marks of 20 R477. -/
def State.memWrite (s : State) (a : Nat) (v : List Byte) (bad : Bool) : State :=
  { s with mem := Memory.write s.mem a v, memPoison := marksAfter 128 a v.length bad s.memPoison }

/-- The parts of a range by 128-byte line: address and length. -/
def linesOf (a n : Nat) : List (Nat × Nat) :=
  (unitsOf 128 a n).map (fun k => let lo := max a (k * 128); (lo, min (a + n) ((k + 1) * 128) - lo))

/-- Whether the line of a physical address has been copied from the old frame of a migration (20 R464). -/
def Migration.moved (m : Migration) (pa : Nat) : Bool := m.old ≤ pa && pa < m.old + m.len && (pa - m.old) / 128 < m.copied

/-- Where an access that reaches the old home of a copied line is forwarded (20 R465); any other address stands. -/
def State.fwd (s : State) (pa : Nat) : Nat :=
  match s.migrations.vals.find? (fun m => m.moved pa) with
  | none => pa
  | some m => m.new + (pa - m.old)

/-- Bytes as their homes give them. -/
def State.homeRead (s : State) (a n : Nat) : List Byte :=
  if s.migrations.isEmpty then s.memRead a n else ((linesOf a n).map (fun l => s.memRead (s.fwd l.1) l.2)).flatten

/-- Poison of a range at its homes. -/
def State.homeBad (s : State) (a n : Nat) : Bool :=
  if s.migrations.isEmpty then s.memBad a n else (linesOf a n).any (fun l => s.memBad (s.fwd l.1) l.2)

/-- Writes at homes, line by line. -/
def State.homeWriteLines (s : State) (ls : List (Nat × Nat)) (v : List Byte) (bad : Bool) : State :=
  match ls with
  | [] => s
  | (a, n) :: r => State.homeWriteLines (s.memWrite (s.fwd a) (v.take n) bad) r (v.drop n) bad

def State.homeWrite (s : State) (a : Nat) (v : List Byte) (bad : Bool) : State :=
  if s.migrations.isEmpty then s.memWrite a v bad else s.homeWriteLines (linesOf a v.length) v bad

end Sys2Proof.Machine
end

