-- ==== Sys2Proof/Machine/Walk.lean ====
section
/-! DEFINITION. Two-stage translation (20 R458 to R461). Table entries stand in the maps `State.s1` and `State.s2`, keyed by
context or VF, level and address prefix: where F2 places its tables is not given. -/

namespace Sys2Proof.Machine

/-- Shift of the index of a level; also of a leaf's page at that level (20 R458). -/
def levelShift (l : Nat) : Nat :=
  match l with
  | 0 => 39
  | 1 => 30
  | 2 => 21
  | _ => 16

/-- Key of the entry that translates address `a` at level `l` for the context or VF `id`. (DESIGN CHOICE, log 16) -/
def tableKey (id l a : Nat) : Nat := id * 2 ^ 40 + l * 2 ^ 36 + a / 2 ^ levelShift l

/-- Field of an entry. -/
def entField (w : Word) (lo n : Nat) : Nat := w.toNat / 2 ^ lo % 2 ^ n

def entType (w : Word) : Nat := entField w 0 2

/-- OADDR as an address. -/
def entAddr (w : Word) : Nat := entField w 16 24 * 65536

/-- Page size in bytes of a handle's SIZE code (02 R69). -/
def pageBytes (sz : Nat) : Nat :=
  match sz with
  | 0 => 65536
  | 1 => 2097152
  | _ => 1073741824

/-- SIZE code of a leaf at a level. -/
def levelSize (l : Nat) : Nat := 3 - l

/-- Miss codes of 02 R70. -/
def missNone : BitVec 8 := 0
def missWalking : BitVec 8 := 1
def missWalkBusy : BitVec 8 := 2
def missNotPresent : BitVec 8 := 3
def missNoMapping : BitVec 8 := 4
def missStage2 : BitVec 8 := 5
def missRevoked : BitVec 8 := 6

/-- A leaf found by a walk: the entry, its level, its key. -/
structure Leaf where
  ent : Word
  level : Nat
  key : Nat
  deriving DecidableEq, Repr

/-- A table entry with a bit outside [39:8] and TYPE (20 R459, R461). -/
def tableBad (w : Word) : Bool := entField w 2 6 ≠ 0 || entField w 40 24 ≠ 0

/-- Stage 2 from level `l` on: a leaf, or a miss that is always `STAGE2` (20 R461). -/
def walk2From (t : Map Word) (vf ipa l fuel : Nat) : Option Leaf :=
  match fuel with
  | 0 => none
  | fuel + 1 =>
    let k := tableKey vf l ipa
    let w := t.getD k 0
    if entType w = 1 then
      if l = 3 || tableBad w then none else walk2From t vf ipa (l + 1) fuel
    else if entType w = 2 then
      if entField w 2 14 ≠ 0 || entField w 40 11 ≠ 0 || entField w 55 9 ≠ 0 || entAddr w % 2 ^ levelShift l ≠ 0 then none
      else some ⟨w, l, k⟩
    else none

/-- The stage-2 leaf of an intermediate physical address. -/
def walk2 (t : Map Word) (vf ipa : Nat) : Option Leaf := walk2From t vf ipa 1 3

/-- Stage 1 from level `l` on: a leaf, or a miss code. -/
def walk1From (t : Map Word) (ctx va l fuel : Nat) : Except (BitVec 8) Leaf :=
  match fuel with
  | 0 => .error missNoMapping
  | fuel + 1 =>
    let k := tableKey ctx l va
    let w := t.getD k 0
    if entType w = 0 then .error missNoMapping
    else if entType w = 1 then
      if l = 3 || tableBad w then .error missNoMapping else walk1From t ctx va (l + 1) fuel
    else if l = 0 || entField w 2 14 ≠ 0 || entField w 40 12 ≠ 0 || entField w 53 2 ≠ 0 || entField w 62 2 = 3
        || entAddr w % 2 ^ levelShift l ≠ 0 then .error missNoMapping
    else if entType w = 3 then .error missNotPresent
    else .ok ⟨w, l, k⟩

/-- The stage-1 leaf of a virtual address. -/
def walk1 (t : Map Word) (ctx va : Nat) : Except (BitVec 8) Leaf := walk1From t ctx va 0 4

/-- Keys of the entries that a walk from level `l` on reads. -/
def keysFrom (t : Map Word) (id a l fuel : Nat) : List Nat :=
  match fuel with
  | 0 => []
  | fuel + 1 =>
    let k := tableKey id l a
    k :: (if entType (t.getD k 0) = 1 then keysFrom t id a (l + 1) fuel else [])

/-- Physical line of a table entry. (DESIGN CHOICE, log 16) -/
def tableLine (stage2 : Bool) (key : Nat) : Nat := Config.ownGib % 1024 * 2 ^ 23 + Config.tableLine stage2 key % 2 ^ 23

/-- Physical lines that the walk of a virtual address reads, in its order. -/
def State.walkLines (s : State) (ctx vf va : Nat) : List Nat :=
  (keysFrom s.s1 ctx va 0 4).map (tableLine false) ++
    (match walk1 s.s1 ctx va with
     | .error _ => []
     | .ok l1 => (keysFrom s.s2 vf (entAddr l1.ent + va % 2 ^ levelShift l1.level) 1 3).map (tableLine true))

/-- The first of them that is poisoned (20 R461). -/
def State.badTable (s : State) (ctx vf va : Nat) : Option Nat :=
  if 2 ^ 48 ≤ va then none else (s.walkLines ctx vf va).find? (fun n => s.memPoison.contains n)

/-- A miss as a handle (02 R69, 09 R246). -/
def Handle.missing (va : Nat) (code : BitVec 8) : Handle :=
  { Handle.none with miss := code, vpn := BitVec.ofNat 32 (va / 65536) }

/-- The handle of a pair of leaves (20 R461). -/
def Handle.ofLeaves (va : Nat) (l1 l2 : Leaf) : Handle :=
  let lv := max l1.level l2.level
  let off1 := va % 2 ^ levelShift l1.level
  let ipa := entAddr l1.ent + off1
  let pa := entAddr l2.ent + ipa % 2 ^ levelShift l2.level
  { valid := true
    size := BitVec.ofNat 2 (levelSize lv)
    kind := BitVec.ofNat 2 (entField l1.ent 62 2)
    rd := entField l2.ent 54 1 = 1
    wr := entField l2.ent 53 1 = 1 && entField l1.ent 61 1 = 0 && entField l1.ent 60 1 = 0
    shelf := entField l1.ent 60 1 = 1
    burst := entField l1.ent 59 1 = 1
    hovr := entField l1.ent 58 1 = 1
    hdie := BitVec.ofNat 3 (entField l1.ent 55 3)
    miss := missNone
    vpn := BitVec.ofNat 32 (va / 2 ^ levelShift lv * 2 ^ levelShift lv / 65536)
    pbase := BitVec.ofNat 40 (pa / 2 ^ levelShift lv * 2 ^ levelShift lv) }

/-- A walk of virtual address `va` for context `ctx` whose stage 2 is that of `vf`: the handle value, and the keys of the leaves
it translated through (stage 1, stage 2). Bits [63:48] not zero give `NO_MAPPING` (02 R70), and so does a poisoned table read (20 R461). -/
def State.walk (s : State) (ctx vf va : Nat) : Handle × Option (Nat × Nat) :=
  if va ≥ 2 ^ 48 then (Handle.missing (va % 2 ^ 48) missNoMapping, none)
  else if (s.badTable ctx vf va).isSome then (Handle.missing va missNoMapping, none)
  else match walk1 s.s1 ctx va with
    | .error m => (Handle.missing va m, none)
    | .ok l1 =>
      match walk2 s.s2 vf (entAddr l1.ent + va % 2 ^ levelShift l1.level) with
      | none => (Handle.missing va missStage2, none)
      | some l2 => (Handle.ofLeaves va l1 l2, some (l1.key, l2.key))

/-- Bit 52 of an entry set (20 R459, R460). -/
def setAcc (w : Word) : Word := w ||| 0x0010000000000000

/-- The tables with the ACC bits of a translation set, which a walk for a speculative job leaves unchanged. -/
def State.markAcc (s : State) (ks : Option (Nat × Nat)) (spec : Bool) : State :=
  match ks with
  | none => s
  | some (k1, k2) =>
    if spec then s
    else { s with s1 := s.s1.set k1 (setAcc (s.s1.getD k1 0)), s2 := s.s2.set k2 (setAcc (s.s2.getD k2 0)) }

/-- VF of a context's descriptor. -/
def State.vfOf (s : State) (ctx : Nat) : Nat := ((s.ctxs.find? ctx).map (·.vf)).getD 0

/-- The ACC bits of the pages of a virtual range that an agent of the package translates. -/
def State.markVa (s : State) (ctx va n : Nat) : State :=
  (List.range ((va % 65536 + n + 65535) / 65536)).foldl
    (fun (s : State) i => s.markAcc (s.walk ctx (s.vfOf ctx) ((va / 65536 + i) * 65536)).2 false) s

/-- Physical address of a virtual address for an access in direction `write`, with the page's handle. -/
def State.physOf (s : State) (ctx va : Nat) (write : Bool) : Option (Nat × Handle) :=
  let h := (s.walk ctx (s.vfOf ctx) va).1
  if h.valid && (if write then h.wr else h.rd) then
    some (h.pbase.toNat + va % pageBytes h.size.toNat, h)
  else none

/-- The physical pieces of a virtual range, split at 64 KiB pages; `none` where a page does not translate. -/
def State.physRange (s : State) (ctx : Nat) (write : Bool) (fuel va n : Nat) : Option (List (Nat × Nat)) :=
  match fuel with
  | 0 => if n = 0 then some [] else none
  | fuel + 1 =>
    if n = 0 then some [] else
    let k := min n (65536 - va % 65536)
    match s.physOf ctx va write with
    | none => none
    | some (pa, _) => (State.physRange s ctx write fuel (va + k) (n - k)).map (fun r => (pa, k) :: r)

/-- Bytes at a virtual address, read by an agent of the package (firmware, the die scheduler, the sampler). -/
def State.vaRead (s : State) (ctx va n : Nat) : Option (List Byte) :=
  (s.physRange ctx false (n / 65536 + 2) va n).map
    (fun ps => ps.foldl (fun acc p => acc ++ s.homeRead p.1 p.2) [])

/-- Whether a virtual range carries poison. -/
def State.vaBad (s : State) (ctx va n : Nat) : Bool :=
  ((s.physRange ctx false (n / 65536 + 2) va n).getD []).any (fun p => s.homeBad p.1 p.2)

end Sys2Proof.Machine
end

