-- ==== Sys2Proof/WellFormed.lean ====
section
/-! DEFINITION. Which instructions have an encoding: the operand limits that the types of the operand bundles do not
already carry (06 R179, R180, 07 R199 to R209, 08 R222 to R239, 09 R250 to R261, 10 R289 to R300, 11 R305, R327).

`encodeCommand` of Decode.lean tells the rows that are command words of a stream, `encodeSampler` those that are sampler words; the
others are events and have no encoding. -/

namespace Sys2Proof

/-- Control registers that 08 R230 assigns. -/
def csrAssigned (n : Nat) : Bool :=
  n = 0x000 || n = 0x001 || n = 0x002 || n = 0x008 || n = 0x009 || n = 0x010 || n = 0x011 || n = 0x012 || n = 0x018 ||
    (0x020 ≤ n && n ≤ 0x025) || n = 0x028 || (0x040 ≤ n && n ≤ 0x06F)

/-- Control registers that can only be read (08 R230). -/
def csrReadOnly (n : Nat) : Bool := 0x020 ≤ n && n ≤ 0x025

/-- Registers that `CSRW` writes and that have no row of their own (`SPECDEPTH` and `TCFG`n have). -/
def csrPlain (n : Nat) : Bool := csrAssigned n && !csrReadOnly n && n ≠ 0x028 && n < 0x040

/-- Registers that `CSRS` and `CSRC` may name (08 R230). -/
def csrSettable (n : Nat) : Bool := csrAssigned n && !csrReadOnly n && n ≠ 0x028

/-- Pos and length of `BFX` and `BFI` (08 R222). -/
def OpBf.ok (o : OpBf) : Bool := 1 ≤ o.len.toNat && o.pos.toNat + o.len.toNat ≤ 64

/-- Whether a vector operand is a scalar. -/
def VArg.isScalar (x : VArg) : Bool :=
  match x with
  | .gen _ => false
  | .scalar _ _ => true

/-- At most one operand is a scalar (10 R289). -/
def OpV2.ok (o : OpV2) : Bool := !(o.x.isScalar && o.y.isScalar)
def OpV3.ok (o : OpV3) : Bool := !((o.x.isScalar && (o.y.isScalar || o.z.isScalar)) || (o.y.isScalar && o.z.isScalar))
def OpVcmp.ok (o : OpVcmp) : Bool := !(o.x.isScalar && o.y.isScalar)
def OpVsel.ok (o : OpVsel) : Bool := !(o.y.isScalar && o.z.isScalar)

/-- One to eight micro-operations; Y is named when one selects it, Z when one uses it (10 R294). -/
def OpVchain.ok (o : OpVchain) : Bool :=
  (1 ≤ o.ops.length && o.ops.length ≤ 8) && (o.y.isSome == o.ops.any (fun m => m.2 == .y)) &&
    (o.z.isSome == o.ops.any (fun m => m.2 == .z || m.1 == .fmaz))

/-- A load or store of 16 bytes names an even register; only a load of 1, 2 or 4 bytes is sign-extended (08 R238). -/
def sizeOk (d : SReg) (sz : Fin 5) (sx : Bool) : Bool := (sz.val < 4 || d.val % 2 = 0) && (!sx || sz.val < 3)

/-- Counts of `SACC` and `SACCG` (09 R261), both less 1. -/
def saccOk (cnt rl : Nat) : Bool := (cnt + 1) * (rl + 1) ≤ 262144

/-- `RDV` and `NOTIFY` carry the unconditional guard (01 R23). -/
def Ctl.unguarded (c : Ctl) : Bool := !c.neg && c.pred = 0

/-- The operand limits of a command; every sampler word and every event meets them. -/
def Instr.wf (i : Instr) : Bool :=
  match i with
  | .notify o => o.c.unguarded
  | .rdv o => o.c.unguarded
  | .pseti o => o.p ≠ 0
  | .pmovPp o => o.d ≠ 0
  | .pmovPs o => o.d ≠ 0
  | .pand o => o.d ≠ 0
  | .por o => o.d ≠ 0
  | .pxor o => o.d ≠ 0
  | .pnot o => o.d ≠ 0
  | .punres o => o.d ≠ 0
  | .cmp o => o.d ≠ 0
  | .cmpImm o => o.d ≠ 0
  | .fcmp o => o.d ≠ 0
  | .vany o => o.d ≠ 0
  | .vall o => o.d ≠ 0
  | .ptb o => o.off.toNat % 4 = 0
  | .ptbr o => o.off.toNat % 4 = 0
  | .loop o => 3 ≤ o.stop.toNat
  | .loopr o => 3 ≤ o.stop.toNat
  | .qpopp o => o.p ≠ 0
  | .bfx o => o.ok
  | .bfxS o => o.ok
  | .bfi o => o.ok
  | .fclass o => 1 ≤ o.fmt.val
  | .csrr o => csrAssigned o.n.toNat
  | .csrw o => csrPlain o.n.toNat
  | .csrs o => csrSettable o.n.toNat
  | .csrc o => csrSettable o.n.toNat
  | .lds o => sizeOk o.d o.sz o.sx
  | .sts o => sizeOk o.d o.sz false
  | .ldg o => sizeOk o.d o.sz o.sx
  | .stg o => sizeOk o.d o.sz false
  | .htestP o => o.d ≠ 0
  | .acscpOut o => o.col.toNat + o.ncol.toNat + 1 ≤ 192
  | .acscpIn o => o.col.toNat + o.ncol.toNat + 1 ≤ 192
  | .awrd o => o.d.val % 2 = 0
  | .awrdClr o => o.d.val % 2 = 0
  | .sacc o => saccOk o.cnt.toNat o.rl.toNat
  | .saccg o => saccOk o.cnt.toNat o.rl.toNat
  | .vadd o => o.ok
  | .vsub o => o.ok
  | .vmul o => o.ok
  | .vfma o => o.ok
  | .vmin o => o.ok
  | .vmax o => o.ok
  | .vcmp o => o.ok
  | .vsel o => o.ok
  | .vand o => o.ok
  | .vor o => o.ok
  | .vxor o => o.ok
  | .vshl o => o.ok
  | .vshr o => o.ok
  | .vshrA o => o.ok
  | .vclamp o => o.ok
  | .vchain o => o.ok
  | .vzip o => o.e.isSome || o.f.isNone
  | .vunzip o => o.e.isSome || o.f.isNone
  | .lease o => 1 ≤ o.blocks.toNat && o.blocks.toNat ≤ 32
  | .launch o => o.p ≠ 0
  | _ => true

end Sys2Proof
end

