-- ==== Sys2Proof/Machine/Ops.lean ====
section
/-! DEFINITION. The named operations over the state: jobs and streams, registers, the agenda, signals and flags, errors and traps,
work in flight, and the steps that every command passes through (06 R177). -/

namespace Sys2Proof.Machine

/-- What `exec` and `step` answer. -/
abbrev Result := Host.Outcome State Fault Refusal

/-! ### Free values and the agenda -/

/-- The state with the next ticket for a free value. -/
def State.draw (s : State) : State := { s with ticket := s.ticket + 1 }

/-- Puts a move on the agenda, due `d` cycles from now. -/
def State.sched (s : State) (d : Nat) (m : Move) : State := { s with agenda := s.agenda ++ [⟨s.now + d, m⟩] }

/-- Puts an event on the agenda, due `d` cycles from now. -/
def State.post (s : State) (d : Nat) (i : Instr) (g : Args) : State :=
  { s with agenda := s.agenda ++ [⟨s.now + d, .event i g⟩] }

/-- Puts an event on the agenda after a time that the device does not fix (03 R83). (DESIGN CHOICE, log 4) -/
def State.later (s : State) (i : Instr) (g : Args) : State :=
  (s.post (1 + Config.delay s.ticket) i g).draw

/-- Puts a stream's next command on the agenda. -/
def State.poll (s : State) (r : Ref) : State :=
  { s with agenda := s.agenda ++ [⟨s.now + 1, .stream r⟩] }

/-- Takes every agenda entry that satisfies `p` off the agenda. -/
def State.unpost (s : State) (p : Move → Bool) : State :=
  { s with agenda := s.agenda.filter (fun e => !p e.move) }

/-! ### Jobs and streams -/

/-- What a stream number that names nothing reads as. -/
def Stream.blank : Stream := { Stream.start 0 (Vector.replicate 32 0) 0 0 with ended := true }

/-- A task slot at job start (11 R325). -/
def TaskSlot.empty : TaskSlot := ⟨0, 0, 0⟩

/-- A port at job start (09 R272). -/
def Port.unbound : Port := ⟨0, 0, [], none, 0, [], []⟩

/-- `FMBACKOFF` at reset (07 R216). -/
def fmbackoffReset : Word := 0x0000000040000100

/-- `TCFG`n at reset (02 R59). -/
def tcfgReset : Word := 0x0000000000FF7F00

/-- A job with nothing set. (DESIGN CHOICE, log 9; DESIGN CHOICE, log 10) -/
def Job.blank : Job where
  launch := 0
  part := 0
  ctx := 0
  vf := 0
  jobNo := 0
  pkg := 0
  s7 := 0
  die := 0
  core := 0
  cc := 0
  scrBase := 0
  scrSize := 0
  tileBase := 0
  tileCount := 0
  status := .done
  ready := false
  leftAt := 0
  waiting := none
  spec := none
  frozen := false
  error := none
  errAt := 0
  preempt := none
  parking := false
  save := none
  saveArea := none
  prio := 0
  gapMax := 0
  cycBase := 0
  cycSince := 0
  a := Stream.blank
  m := Stream.blank
  v := Stream.blank
  x := Stream.blank
  pval := 1
  pres := 0xFFFFFFFF
  sems := Vector.replicate 256 0
  wbase := Vector.replicate 256 0
  queues := Vector.replicate 8 []
  handles := Vector.replicate 32 Handle.none
  fstat := 0
  fen := 0
  fmode := 0
  fmbackoff := fmbackoffReset
  tcfg := Vector.replicate 48 tcfgReset
  specSel := 0
  lease := false
  acs := []
  acsHeld := false
  acsKeep := 0
  weights := none
  ran := none
  arrayQ := []
  slots := Vector.replicate 8 TaskSlot.empty
  ports := Vector.replicate 8 Port.unbound
  senders := []
  awErr := []
  prologue := false
  executed := 0
  late := Late.none
  code := []

def Job.stream (j : Job) (l : Letter) : Stream :=
  match l with
  | .a => j.a
  | .m => j.m
  | .v => j.v
  | .x => j.x

def Job.setStream (j : Job) (l : Letter) (t : Stream) : Job :=
  match l with
  | .a => { j with a := t }
  | .m => { j with m := t }
  | .v => { j with v := t }
  | .x => { j with x := t }

/-- Stream number of a letter (20 R475). -/
def letterNum (l : Letter) : Nat :=
  match l with
  | .a => 0
  | .m => 1
  | .v => 2
  | .x => 3

def letters : List Letter := [.a, .m, .v, .x]

/-- The job with record number `k`. -/
def State.jobOf (s : State) (k : Nat) : Job := s.jobs.getD k Job.blank

/-- The job of the running stream. -/
def State.job (s : State) : Job := s.jobOf s.cur.job

/-- A stream. -/
def State.strOf (s : State) (r : Ref) : Stream := (s.jobOf r.job).stream r.letter

/-- The running stream. -/
def State.st (s : State) : Stream := s.strOf s.cur

/-- Changes a job; a number that names none changes nothing. -/
def State.modJob (s : State) (k : Nat) (f : Job → Job) : State :=
  match s.jobs.find? k with
  | none => s
  | some j => { s with jobs := s.jobs.set k (f j) }

/-- Changes a stream. -/
def State.modRef (s : State) (r : Ref) (f : Stream → Stream) : State :=
  s.modJob r.job (fun j => j.setStream r.letter (f (j.stream r.letter)))

/-- Changes the running stream. -/
def State.modSt (s : State) (f : Stream → Stream) : State := s.modRef s.cur f

/-- A job's partition of its context: CTXID bits [11:8] (20 R457). -/
def ctxPart (ctx : Nat) : Nat := ctx / 256 % 16

/-- `JOBID` (08 R232). -/
def Job.jobid (j : Job) : Word :=
  BitVec.ofNat 64 (j.pkg % 4096 * 2 ^ 40 + j.vf % 256 * 2 ^ 32 + j.part % 16 * 2 ^ 28 + j.ctx % 256 * 2 ^ 20 + j.jobNo % 2 ^ 20)

/-- `SCRW` (02 R50). -/
def Job.scrw (j : Job) : Word := BitVec.ofNat 64 (j.scrSize * 65536 + j.scrBase)

/-- `JOBTW` (02 R58). -/
def Job.jobtw (j : Job) : Word := BitVec.ofNat 64 (j.tileCount * 256 + j.tileBase)

/-- Number of a core in the package. -/
def coreKey (die core : Nat) : Nat := die * 16 + core

def Job.coreKey (j : Job) : Nat := Machine.coreKey j.die j.core

/-- A core; one that nothing has touched is as at boot. -/
def State.coreOf (s : State) (k : Nat) : Core := s.cores.getD k Core.init

def State.modCore (s : State) (k : Nat) (f : Core → Core) : State := { s with cores := s.cores.set k (f (s.coreOf k)) }

/-- A die; one that nothing has touched is as at boot. -/
def State.dieOf (s : State) (d : Nat) : Die := s.dies.getD d Die.init

def State.modDie (s : State) (d : Nat) (f : Die → Die) : State := { s with dies := s.dies.set d (f (s.dieOf d)) }

/-- The core of the running job. -/
def State.core (s : State) : Core := s.coreOf s.job.coreKey

def State.modLaunch (s : State) (k : Nat) (f : Launch → Launch) : State :=
  match s.launches.find? k with
  | none => s
  | some l => { s with launches := s.launches.set k (f l) }

def State.modCtx (s : State) (k : Nat) (f : Ctx → Ctx) : State :=
  match s.ctxs.find? k with
  | none => s
  | some c => { s with ctxs := s.ctxs.set k (f c) }

/-- A fresh record number. -/
def State.newId (s : State) : State := { s with nextId := s.nextId + 1 }

/-- Whether a job stands on a control core. -/
def Job.onCore (j : Job) : Bool := j.status == .running

/-! ### Registers -/

/-- `sget` of 06 R186: s0 reads zero. -/
def Stream.sget (t : Stream) (n : SReg) : Word := if n = 0 then 0 else t.s[n]

/-- `sput` of 06 R186: a write to s0 has no effect. -/
def Stream.sput (t : Stream) (n : SReg) (v : Word) : Stream := if n = 0 then t else { t with s := t.s.set n v }

def Stream.bput (t : Stream) (n : BReg) (v : Word) : Stream := { t with b := t.b.set n v }
def Stream.gput (t : Stream) (n : GReg) (v : BitVec 128) : Stream := { t with g := t.g.set n v }

def State.sget (s : State) (n : SReg) : Word := s.st.sget n
def State.sput (s : State) (n : SReg) (v : Word) : State := s.modSt (fun t => t.sput n v)
def State.bget (s : State) (n : BReg) : Word := s.st.b[n]
def State.bput (s : State) (n : BReg) (v : Word) : State := s.modSt (fun t => t.bput n v)
def State.gget (s : State) (n : GReg) : BitVec 128 := s.st.g[n]
def State.gput (s : State) (n : GReg) (v : BitVec 128) : State := s.modSt (fun t => t.gput n v)
def State.hget (s : State) (n : HReg) : Handle := s.job.handles[n]
def State.hput (s : State) (k : Nat) (n : HReg) (v : Handle) : State :=
  s.modJob k (fun j => { j with handles := j.handles.set n v })

/-- Value of a predicate; p0 is true (07 R199). -/
def Job.pred (j : Job) (p : PReg) : Bool := p = 0 || j.pval.getLsbD p

/-- Whether a predicate is resolved; p0 always is. -/
def Job.resolved (j : Job) (p : PReg) : Bool := p = 0 || j.pres.getLsbD p

/-- A predicate write by a stream, seen from the next cycle on (07 R199); `none` makes the predicate unresolved. -/
def State.pput (s : State) (r : Ref) (p : PReg) (v : Option Bool) : State :=
  s.modJob r.job (fun j => { j with late := { j.late with preds := j.late.preds ++ [(r.letter, p, v)] } })

/-! ### What takes effect at the end of a cycle -/

/-- A signal, seen by waits from the next cycle on (06 R177). -/
def State.signal (s : State) (k : Nat) (i : BitVec 8) (n : BitVec 32) : State :=
  s.modJob k (fun j => { j with late := { j.late with sigs := j.late.sigs ++ [(i, n)] } })

/-- The word with bit `n` set to `v`. -/
def setBit (w : BitVec 32) (n : Nat) (v : Bool) : BitVec 32 :=
  if v then w ||| (1#32 <<< n) else w &&& ~~~(1#32 <<< n)

def Job.applyPred (j : Job) (p : PReg) (v : Option Bool) : Job :=
  match v with
  | none => { j with pres := setBit j.pres p false }
  | some b => { j with pval := setBit j.pval p b, pres := setBit j.pres p true }

def Job.applySig (j : Job) (i : BitVec 8) (n : BitVec 32) : Job :=
  { j with sems := j.sems.set i.toNat (j.sems[i.toNat] + n) }

def Job.applyWb (j : Job) (i : BitVec 8) (n : BitVec 32) : Job := { j with wbase := j.wbase.set i.toNat n }

def Job.applyPush (j : Job) (q : QReg) (v : Word) : Job := { j with queues := j.queues.set q (j.queues[q] ++ [v]) }

/-- The predicate writes of a cycle in the order of the streams that made them (07 R199); those of one stream stand in time order. -/
def Late.predsInOrder (l : Late) : List (PReg × Option Bool) :=
  (letters.map (fun r => (l.preds.filter (fun e => e.1 = r)).map (·.2))).flatten

/-- The job at the start of the next cycle. -/
def Job.settle (j : Job) : Job :=
  let j1 := j.late.sigs.foldl (fun j e => j.applySig e.1 e.2) j
  let j2 := j.late.wbs.foldl (fun j e => j.applyWb e.1 e.2) j1
  let j3 := j.late.predsInOrder.foldl (fun j e => j.applyPred e.1 e.2) j2
  let j4 := j.late.pushes.foldl (fun j e => j.applyPush e.1 e.2) j3
  { j4 with fstat := j4.fstat ||| j.late.flags, late := Late.none }

/-- `PTPT` with `d` nanoseconds added (08 R235). -/
def ptptAdd (d : Nat) (p : Word) : Word :=
  let ns := p.toNat % 2 ^ 32 + d
  let sec := p.toNat / 2 ^ 32
  if ns < 1000000000 then BitVec.ofNat 64 (sec * 2 ^ 32 + ns)
  else BitVec.ofNat 64 ((sec + 1) % 2 ^ 32 * 2 ^ 32 + (ns - 1000000000))

/-- Nanoseconds of one cycle of 2.4 GHz (20 R471: 24,000,000 cycles are 10 ms), one more or less where F4 slews the time, and what then remains to
slew. (DEDUCED, log 67) -/
def slewNext (now : Nat) (w : Int) : Nat × Int :=
  let d := 5 * (now + 1) / 12 - 5 * now / 12
  if 0 < w && Config.slew now then (d + 1, w - 1)
  else if w < 0 && d ≠ 0 && Config.slew now then (d - 1, w + 1)
  else (d, w)

/-- A core at the start of the next cycle: its refill and the units left are what `PWRU` reads (08 R233). -/
def Core.settle (x : Core) : Core := { x with leftWas := x.left, refillWas := x.refill }

/-- PEND and DEPTH of a sampler context (08 R237). -/
def SCtx.depthsNow (c : SCtx) : Nat × Nat := ((c.pend.getLast?.map (·.1)).getD c.depth, c.depth)

/-- The context with what `SPECDEPTH` has read in cycle `now` before anything changed it. -/
def SCtx.keepDepths (c : SCtx) (now : Nat) : SCtx :=
  if (c.was.map (·.1)) = some now then c else { c with was := some (now, c.depthsNow) }

/-- A double-bit error in a unit of one of a core's stores (02 R54): 0 scratchpad, 1 tiles, 2 the ACS; else the head entry of a queue, which then
fails its parity twice (20 R479). -/
def Core.strike (x : Core) (sp unit : Nat) : Core :=
  match sp with
  | 0 => { x with scratch := { x.scratch with err := NatSet.insert x.scratch.err unit } }
  | 1 => { x with tiles := { x.tiles with err := NatSet.insert x.tiles.err unit } }
  | 2 => { x with acs := { x.acs with err := NatSet.insert x.acs.err unit } }
  | _ => { x with queueErr := NatSet.insert x.queueErr unit }

/-- Whether there is a thing to strike: of a queue, an entry of a job on that core. -/
def State.strikes (s : State) (core sp unit : Nat) : Bool :=
  sp < 3 || ((s.jobs.find? (unit / 8)).map (fun j => j.coreKey = core && !(j.queues.toList.getD (unit % 8) []).isEmpty)).getD false

/-- The double-bit error, if any, that strikes the package in a cycle; it comes from outside, and nothing is known of it. -/
def State.upset (s : State) : State :=
  match Config.upset s.now with
  | none => s
  | some (core, sp, unit) => if s.strikes core sp unit then s.modCore core (fun x => x.strike sp unit) else s

/-- Cause code (07 R195). -/
def Cause.code (c : Cause) : Nat :=
  match c with
  | .stackBound => 1
  | .loopDepth => 2
  | .trap => 3
  | .bkpt => 4
  | .arith => 5

/-- Cause of a trap raised in the job in cycle `now` (06 R182). -/
def Job.trapIn (j : Job) (now : Nat) : Nat :=
  (((letters.map (fun l => (j.stream l).traps)).flatten.find? (fun p => p.since = now)).map (·.cause.code)).getD 0

/-- The job with the trap of cycle `now` in the record of a context error of that cycle (06 R182). -/
def Job.noteTrap (j : Job) (now : Nat) : Job :=
  if j.errAt = now then { j with error := j.error.map (fun e => if e.trap = 0 then { e with trap := j.trapIn now } else e) } else j

/-- F3 is told of the record as it stands at the end of its cycle. -/
def State.noteMail (s : State) (m : Msg) : Msg :=
  match m.err with
  | none => m
  | some e =>
    match s.jobs.find? (m.payload.headD 0) with
    | none => m
    | some j => if m.type = 0x0201 && j.errAt = s.now then { m with err := some ((j.noteTrap s.now).error.getD e) } else m

/-- The clock moves on one cycle. -/
def State.tick (s : State) : State :=
  let s1 := { s with
    now := s.now + 1, ptpt := ptptAdd (slewNext s.now s.slew).1 s.ptpt, slew := (slewNext s.now s.slew).2
    jobs := s.jobs.map (fun (e : Nat × Job) => (e.1, (e.2.noteTrap s.now).settle)), mail := s.mail.map s.noteMail
    cores := s.cores.map (fun (e : Nat × Core) => (e.1, e.2.settle)) }
  s1.upset

/-! ### Traps -/

/-- Raises a trap in a stream (07 R197): it is entered before the stream's next command. An `ARITH` joins one that is
pending. -/
def Stream.raise (t : Stream) (now : Nat) (cause : Cause) (info : BitVec 32) : Stream :=
  if cause = .arith && t.traps.any (fun p => p.cause == .arith) then
    { t with traps := t.traps.map (fun p => if p.cause == .arith then { p with info := p.info ||| info } else p) }
  else { t with traps := t.traps ++ [⟨cause, info, now⟩] }

/-- Sets flags in a job's `FSTAT` for a command of stream `r`, seen from the next cycle on (04 R131, 08 R229), with the trap `ARITH` when
one is enabled (04 R132). -/
def State.setFlags (s : State) (r : Ref) (fl : BitVec 5) : State :=
  if fl = 0 then s else
  let en := fl &&& (s.jobOf r.job).fen
  let s1 := s.modJob r.job (fun j =>
    { j with late := { j.late with flags := j.late.flags ||| fl } })
  if en = 0 then s1 else s1.modRef r (fun t => t.raise s.now .arith (en.setWidth 32))

/-- `done(c)` of 06 R177 for a command of stream `r` with the given signal field and flags. -/
def State.complete (s : State) (r : Ref) (sig : Option (BitVec 8 × BitVec 3)) (fl : BitVec 5) : State :=
  let s1 := match sig with
    | none => s
    | some (i, n) => s.signal r.job i (BitVec.ofNat 32 (n.toNat + 1))
  s1.setFlags r fl

/-! ### Context errors -/

/-- What a context error record holds beyond its place (20 R475). -/
structure Err where
  code : Nat
  reason : Nat := 0
  ha : Nat := 255
  hb : Nat := 255
  vaddr : Word := 0
  paddr : Word := 0
  trap : Nat := 0
  deriving DecidableEq, Repr

/-- Codes of 20 R474. -/
def errIllegal (reason : Nat) : Err := { code := 1, reason := reason }

/-- The section NUM of a stream. -/
def Stream.num (t : Stream) : Nat := ((t.sect.map (fun x => (x.hdr.extractLsb' 44 12).toNat)).getD 0)

/-- The record of an error of stream `r` at the command at `word`. -/
def State.errRec (s : State) (r : Ref) (e : Err) (word : Word) (opc : Nat) : ErrRec :=
  let j := s.jobOf r.job
  { code := e.code, reason := e.reason, stream := (letterNum r.letter)
    trap := if e.trap = 0 then j.trapIn s.now else e.trap
    more := 0, jobid := j.jobid, launch := j.s7, word := word, opc := opc, num := (j.stream r.letter).num
    ha := e.ha, hb := e.hb, vaddr := e.vaddr, paddr := e.paddr, time := s.ptpt }

/-- A message from one firmware core to another (19 R448), and its receipt as an event. (DESIGN CHOICE, log 60) -/
def State.send (s : State) (m : Msg) (i : Instr) (g : Args) : State :=
  ({ s with mail := s.mail ++ [m] }).later i g

/-- One more error of the same cycle in a record (06 R182): the first stream in the order of letters stands. -/
def ErrRec.merge (old new : ErrRec) : ErrRec :=
  if new.stream < old.stream then { new with more := min 255 (old.more + 1) }
  else { old with more := min 255 (old.more + 1) }

/-- Puts a record on a job: a context error of a real job (06 R182), told to F3 (19 R449 message 0x0201); one of a prologue only ends it (15
R398). -/
def State.putError (s : State) (k : Nat) (e : ErrRec) : State :=
  let j := s.jobOf k
  if j.prologue then
    (s.modJob k (fun j => { j with error := some e, errAt := s.now })).post 0 .prologueRun { a := j.launch }
  else
  match j.error with
  | none =>
    (s.modJob k (fun j => { j with error := some e, errAt := s.now })).send ⟨0x0201, 1, 3, [k], some e, none⟩ .msgContextError {}
  | some old =>
    if j.errAt = s.now then
      let m := old.merge e
      { s.modJob k (fun j => { j with error := some m }) with
        mail := s.mail.map (fun x => if x.type = 0x0201 && x.payload = [k] then { x with err := some m } else x) }
    else s

/-- A context error of stream `r` at a command: the record of a real job, a pause of a speculative one (06 R183). (DEDUCED, log 26) -/
def State.raise (s : State) (r : Ref) (e : Err) (word : Word) (opc : Nat) : State :=
  if (s.jobOf r.job).spec.isSome then s.modRef r (fun t => { t with paused := true })
  else (s.modRef r (fun t => { t with paused := true })).putError r.job (s.errRec r e word opc)

/-! ### Work in flight -/

/-- The flights of a stream, oldest first. -/
def State.flightsOf (s : State) (r : Ref) : List (Nat × Flight) := s.flights.filter (fun f => f.2.ref = r)

/-- Whether a stream has a command short of its completion point. -/
def State.busy (s : State) (r : Ref) : Bool := s.flights.any (fun f => f.2.ref = r)

/-- Whether a job has one. -/
def State.jobBusy (s : State) (k : Nat) : Bool := s.flights.any (fun f => f.2.ref.job = k)

/-- Handles that `XLAT`s of job `k` under way give. -/
def State.handlesComing (s : State) (k : Nat) : List Handle :=
  s.flights.filterMap (fun f =>
    match f.2.work with
    | .handle _ v => if f.2.ref.job = k then some v else none
    | _ => none)

/-- Whether an earlier command of the stream owes a write to a register (03 R85). -/
def State.owes (s : State) (r : Ref) (g : Reg) : Bool := s.flights.any (fun f => f.2.ref = r && f.2.owes.contains g)

def State.modFlight (s : State) (k : Nat) (f : Flight → Flight) : State :=
  match s.flights.find? k with
  | none => s
  | some x => { s with flights := s.flights.set k (f x) }

/-- Whether a stream left a section whose retirement can now be due. -/
def State.checkRetire (s : State) (r : Ref) : State :=
  if (s.strOf r).left.isEmpty then s else s.post 1 .sectionRetire { ref := r }

/-- A flight reaches its completion point with the given further flags. -/
def State.finish (s : State) (k : Nat) (fl : BitVec 5) : State :=
  match s.flights.find? k with
  | none => s
  | some f => (({ s with flights := s.flights.erase k }).complete f.ref f.sig (f.flags ||| fl)).checkRetire f.ref

/-- A flight ends without its completion point: its command took a context error. -/
def State.dropFlight (s : State) (k : Nat) : State := { s with flights := s.flights.erase k }

/-! ### Sequencing (07 R206 to R211) -/

/-- Commands in a section (06 R172 LEN). -/
def Section.len (x : Section) : Nat := let n := (x.hdr.extractLsb' 56 8).toNat; if n = 0 then 256 else n

/-- The section's own NUM. -/
def Section.num (x : Section) : BitVec 12 := x.hdr.extractLsb' 44 12

/-- First address after the section's last word. -/
def Section.stop (x : Section) : Nat := x.base.toNat + 8 + 12 * x.len

/-- Header address of the next section: the next multiple of 16 (06 R171). -/
def Section.after (x : Section) : Nat := (x.stop + 15) / 16 * 16

/-- Whether an address lies in the section, its header with it (06 R171). -/
def Section.holds (x : Section) (a : Nat) : Bool := x.base.toNat ≤ a && a < x.stop

/-- Address of the command the stream stands at: that of its `EXT` where one was read (06 R180). -/
def Stream.cmdStart (t : Stream) : Word := if t.ext.isSome then t.pc - 12 else t.pc

/-- Bytes of a command: 24 with an `EXT` or a second word. -/
def Stream.cmdLen (t : Stream) (two : Bool) : Nat := if t.ext.isSome || two then 24 else 12

/-- The innermost loop entry of the current call level (07 R211). -/
def Stream.top (t : Stream) : Option LoopEntry :=
  match t.loops with
  | [] => none
  | e :: _ => if e.level = t.callLevel then some e else none

/-- Whether a trap handler runs (07 R195 ACTIVE). -/
def Stream.inTrap (t : Stream) : Bool := t.tcause.getLsbD 63

/-- Whether the loop stack is frozen: while a handler runs, and in the cycle of the write that clears ACTIVE (07 R197). -/
def Stream.frozen (t : Stream) : Bool := t.inTrap || t.thaw

/-- The innermost entry popped. -/
def Stream.pop (t : Stream) : Stream := { t with loops := t.loops.tail }

/-- The loop part of 07 R211 for a command at `a` whose successor in address order is `t.pc`. -/
def Stream.loopBack (t : Stream) (a : Word) (fuel : Nat) : Stream :=
  match fuel with
  | 0 => t
  | fuel + 1 =>
    match t.top with
    | none => t
    | some e =>
      if a = e.stop then
        if e.count - 1 ≠ 0 then { t with pc := e.start, loops := { e with count := e.count - 1 } :: t.loops.tail }
        else Stream.loopBack t.pop a fuel
      else t

/-- Entries that a taken `BR` to `target` leaves (07 R211). -/
def Stream.leave (t : Stream) (target : Word) (fuel : Nat) : Stream :=
  match fuel with
  | 0 => t
  | fuel + 1 =>
    match t.top with
    | none => t
    | some e =>
      if e.start.toNat ≤ target.toNat && target.toNat ≤ e.stop.toNat then t
      else Stream.leave t.pop target fuel

/-- The stream leaves its section for the one whose first command to run is at `first` (06 R174). -/
def Stream.leaveSection (t : Stream) (base first : Word) (fall : Option (BitVec 12)) : Stream :=
  match t.sect with
  | none => { t with pc := first, entering := some ⟨base, first, fall, false⟩ }
  | some x => { t with pc := first, entering := some ⟨base, first, fall, false⟩, left := t.left ++ [(t.visit, x.num)], sect := none }

/-- The stream lands at `target` by a taken transfer (06 R175). -/
def Stream.land (t : Stream) (target : Word) : Stream :=
  match t.sect with
  | none => t.leaveSection (target - 8) target none
  | some x =>
    if x.holds target.toNat then { t with pc := target, entering := some ⟨x.base, target, none, false⟩ }
    else t.leaveSection (target - 8) target none

/-- The stream goes on at `t.pc` in address order, into the next section where this one ends, of which it has issued `n` commands (06 R174, 17
R415). -/
def Stream.settlePc (t : Stream) (now n : Nat) : Stream :=
  match t.sect with
  | none => t
  | some x =>
    if t.pc.toNat < x.stop then t
    else
      { t.leaveSection (BitVec.ofNat 64 x.after) (BitVec.ofNat 64 (x.after + 8)) (some x.num) with
        readyAt := now + 1 + (4 - n) }

/-- A `RET`'s part of 07 R208: the level falls by 1, but not below 0, and every entry above the new level is popped, which a frozen
loop stack (07 R197) does not do. -/
def Stream.return (t : Stream) : Stream :=
  let l := if t.callLevel = 0 then 0 else t.callLevel - 1
  { t with callLevel := l, loops := if t.frozen then t.loops else t.loops.dropWhile (fun e => l.toNat < e.level.toNat) }

/-- The transfer point of a taken transfer (07 R206, R208, R211), where the call level changes too. (DEDUCED, log 94) -/
def Stream.takeTransfer (t : Stream) (x : Transfer) (target : Word) (now : Nat) : Stream :=
  let t1 := match x.kind with
    | .br => if t.frozen then t else t.leave target 5
    | .call => { t with callLevel := t.callLevel + 1 }
    | .ret => t.return
  { t1.land target with readyAt := now + 1 + x.bubble }

/-- Whether a loop body ends at the command at `a` while slots are pending: those of the transfer that the command is itself, or more than
one of an earlier one's (07 R211). -/
def Stream.slotEnds (t : Stream) (a : Word) (jump : Bool) : Bool :=
  !t.frozen && (t.top.map (fun e => decide (e.stop = a))).getD false && (jump || (t.slot.map (fun x => decide (1 < x.slots))).getD false)

/-- Plain sequencing after a command at `a`, with the loop part where the stack is not frozen. -/
def Stream.fallOn (t : Stream) (now : Nat) (a : Word) : Stream :=
  (if t.frozen then t else t.loopBack a 5).settlePc now (t.issued + 1 - t.entered)

/-- Sequencing after a command at `a` of `len` bytes (07 R211); `new` is the transfer that the command itself prepared. The
second component tells that a loop body ended with slots pending (`LOOP_SLOT`). -/
def Stream.advance (t : Stream) (now : Nat) (a : Word) (len : Nat) (new : Option Transfer) : Stream × Bool :=
  let t0 := { t with pc := a + BitVec.ofNat 64 len, ext := none }
  match new with
  | some x => ({ t0 with slot := some x }, t.slotEnds a true)
  | none =>
    match t0.slot with
    | some x =>
      if 1 < x.slots then ({ t0 with slot := some { x with slots := x.slots - 1 } }, t.slotEnds a false)
      else
        let t1 := { t0 with slot := none }
        match x.target with
        | some g => (t1.takeTransfer x g now, false)
        | none => (t1.fallOn now a, false)
    | none => (t0.fallOn now a, false)

/-! ### The steps of every command (06 R177) -/

/-- What a command needs beside its body: its opcode, whether it has a second word, the registers it reads or writes under the
interlock (17 R407), its predicate sources, its fixed latency (17 R405) and the registers it writes, whether a speculative job pauses at it (14 R389), whether it is a
pre-emption point, and whether it writes (`gw`) or accesses (`ga`) global memory or raises a signal of its own (`gw`). -/
structure Use where
  opc : Nat
  two : Bool := false
  regs : List Reg := []
  preds : List PReg := []
  irrev : Bool := false
  safept : Bool := false
  gw : Bool := false
  ga : Bool := false
  lat : Nat := 0
  dst : List Reg := []
  deriving DecidableEq, Repr

/-- A new flight of the running stream; its number is `s.nextId`. -/
def State.fly (s : State) (c : Ctl) (u : Use) (w : Work) (owes : List Reg) (tiles : List Nat := []) (engine : Option Nat := none) :
    State :=
  let t := s.st
  let f : Flight := ⟨s.cur, t.visit, c.sig, owes, tiles, engine, 0, t.cmdStart, u.opc, t.num, w⟩
  { s.newId with flights := s.flights.set s.nextId f }

/-- A context error of a flight: its command ends without its completion point (06 R182). A speculative job's flight stays, and its stream
pauses (06 R183). -/
def State.flightError (s : State) (k : Nat) (e : Err) : State :=
  match s.flights.find? k with
  | none => s
  | some f =>
    if (s.jobOf f.ref.job).spec.isSome then s.modRef f.ref (fun t => { t with paused := true })
    else
      let r := { s.errRec f.ref e f.word f.opc with num := f.num }
      ((s.dropFlight k).modRef f.ref (fun t => { t with paused := true })).putError f.ref.job r

/-- What a body answers: completed after the latency of its class, completed after a latency of its own, issued as a flight, a transfer prepared, still waiting (with what the wait changed), stopped at a
pre-emption point, a context error, a trap raised before any effect, an end of the stream, or a pause. `wait` is a wait under 01 R20, `busy`
one that 01 R38 counts; after either the command's wait and guard are not looked at again, as they are after `stop`; `data` issues a command that works on the on-core stores until its completion point (03 R96, R97). -/
inductive Act where
  | done (s : State) (fl : BitVec 5)
  | slow (s : State) (fl : BitVec 5) (n : Nat) (tiles : List Nat) (engine : Option Nat)
  | fly (s : State)
  | jump (s : State) (x : Transfer)
  | skip (s : State) (pc : Word)
  | wait (s : State)
  | busy (s : State)
  | data (s : State) (op : DataOp) (p : Pace) (tiles : List Nat) (engine : Option Nat)
  | err (e : Err)
  | trap (cause : Cause) (info : BitVec 32)
  | stop (s : State)
  deriving DecidableEq, Repr

/-- How far a command gets before its body. -/
inductive Gate where
  | dead | hold | stall | off | go
  deriving DecidableEq, Repr

/-- Whether a stream may issue at all in this cycle. -/
def Job.issues (j : Job) (l : Letter) (now : Nat) : Bool :=
  let t := j.stream l
  j.onCore && !j.frozen && !j.parking && (j.error.isNone || j.errAt = now) && !t.ended && !t.stopped && !t.paused && t.entering.isNone

/-- 01 R19: whether a dependence `d` on a stream whose last retired section is `e` is met. -/
def depMet (d : BitVec 12) (e : Option (BitVec 12)) : Bool :=
  if d = 0xFFF then true else
  match e with
  | none => false
  | some e => (e - d).toNat < 2048

/-- The dependences of the section that stream `l` is in: DEP1 to DEP3 name the other streams in letter order (06 R172). -/
def Job.depsMet (j : Job) (l : Letter) : Bool :=
  match (j.stream l).sect with
  | none => true
  | some x =>
    let ds := [x.hdr.extractLsb' 32 12, x.hdr.extractLsb' 20 12, x.hdr.extractLsb' 8 12]
    let es := (letters.filter (fun k => k ≠ l)).map (fun k => (j.stream k).retired)
    (List.zip ds es).all (fun p => depMet p.1 p.2)

/-- 06 R177: whether a wait on a semaphore with threshold `d` is satisfied. -/
def Job.waitMet (j : Job) (i : BitVec 8) (d : BitVec 32) : Bool :=
  (d.toInt ≤ (j.sems[i.toNat] - j.wbase[i.toNat]).toInt : Bool)

def Job.ctlWait (j : Job) (c : Ctl) : Bool :=
  match c.wait with
  | none => true
  | some (i, d) => j.waitMet i (d.setWidth 32)

/-- The guard predicate as a predicate number (06 R176). -/
def guardOf (c : Ctl) : PReg := Fin.castLE (by omega) c.pred

/-- The guard's value. -/
def Job.guardTrue (j : Job) (c : Ctl) : Bool := j.pred (guardOf c) != c.neg

/-- Whether the guard is resolved and no earlier command of the stream owes it (06 R177, 03 R85). -/
def State.guardKnown (s : State) (c : Ctl) : Bool := s.job.resolved (guardOf c) && !s.owes s.cur (.p (guardOf c))

/-- Predicate sources resolved, none owed (07 R199). -/
def State.predsKnown (s : State) (u : Use) : Bool := u.preds.all (fun p => s.job.resolved p && !s.owes s.cur (.p p))

/-- The register interlock (17 R407). -/
def State.regsFree (s : State) (u : Use) : Bool := u.regs.all (fun g => !s.owes s.cur g)

/-- Whether a pending fence of the stream holds back a command: a release fence a global write or a signal, an acquire fence a global access
(03 R95). -/
def State.fenced (s : State) (r : Ref) (write access : Bool) : Bool :=
  s.flights.any (fun f => f.2.ref = r &&
    match f.2.work with
    | .fence acq _ _ => if acq then access else write
    | _ => false)

/-- Whether a `PROBE` of another stream holds this one, the cycle of its completion included (09 R249). -/
def Job.probed (j : Job) (l : Letter) : Bool := j.late.probe || letters.any (fun k => k ≠ l && (j.stream k).probing.isSome)

/-- The steps of 06 R177 before the body; a command that has passed its wait and its guard does not come to them again. A `SAFEPT` with its guard
true passes on to its body whatever its wait and its section's dependences, because the pre-emption point does (07 R190). -/
def State.gate (s : State) (c : Ctl) (u : Use) : Gate :=
  let j := s.job
  let t := s.st
  if !j.issues s.cur.letter s.now then .dead
  else if j.probed s.cur.letter || s.now < t.readyAt then .stall
  else if u.safept && s.guardKnown c && j.guardTrue c then .go
  else if !t.begun && t.issued = t.entered && !j.depsMet s.cur.letter then .hold
  else if !t.begun && (!j.ctlWait c || !s.guardKnown c) then .hold
  else if !t.begun && !j.guardTrue c then (if s.fenced s.cur c.sig.isSome false then .stall else .off)
  else if !s.predsKnown u then .hold
  else if !s.regsFree u || s.fenced s.cur (u.gw || c.sig.isSome) (u.ga || u.gw) then .stall
  else .go

/-- Whether a command has passed its wait and its guard (06 R177). -/
def State.entered (s : State) (c : Ctl) (u : Use) : Bool :=
  let j := s.job
  let t := s.st
  j.issues s.cur.letter s.now && !j.probed s.cur.letter && t.readyAt ≤ s.now && !u.safept &&
    (t.begun || ((t.issued ≠ t.entered || j.depsMet s.cur.letter) && j.ctlWait c && s.guardKnown c && j.guardTrue c))

/-- The command at the queue head has passed its wait and its guard. -/
def State.begin (s : State) : State := s.modSt (fun t => { t with begun := true })

/-- A command that has to wait, before its body. -/
def State.await (s : State) (c : Ctl) (u : Use) : State := if s.entered c u then s.begin else s

/-- One more cycle since the stream's last pre-emption point (01 R38). -/
def State.count (s : State) : State := s.modSt (fun t => { t with gap := t.gap + 1 })

/-- The stream goes on after the command it stands at, with a loop error where 07 R211 gives one. A command that a false guard discards counts
as issued in the d of 07 R207. (DEDUCED, log 95) -/
def State.onward (s : State) (u : Use) (new : Option Transfer) : State :=
  let t := s.st
  let a := t.cmdStart
  let p := t.advance s.now a (t.cmdLen u.two) new
  let s1 := (s.modSt (fun _ => { p.1 with issued := t.issued + 1, gap := t.gap + 1, awaits := none, begun := false, thaw := false })).modJob s.cur.job
    (fun j => { j with executed := j.executed + 1 })
  let s2 := s1.checkRetire s.cur
  if p.2 then s2.raise s.cur { code := 20 } a u.opc else s2

/-- A command's own error (06 R182): the record names the command's first word. -/
def State.fail (s : State) (u : Use) (e : Err) : State := s.raise s.cur e s.st.cmdStart u.opc

/-- A trap raised before any effect; in a delay slot a `STACK_BOUND` is the context error `SLOT_TRAP` (07 R196). (DEDUCED, log 23) -/
def State.trapNow (s : State) (u : Use) (cause : Cause) (info : BitVec 32) : State :=
  if s.st.slot.isSome then s.fail u { code := 17 }
  else s.modSt (fun t => { (t.raise s.now cause info) with pc := t.cmdStart, ext := none })

/-! ### Latencies (17 R404, R405) -/

/-- The value that a register has in a stream: what a command owes it. -/
def State.owedOf (s : State) (r : Ref) (g : Reg) : Option Owed :=
  match g with
  | .s n => some (.s n ((s.strOf r).sget n))
  | .g n => some (.g n (s.strOf r).g[n])
  | .p n => some (.p n (((s.jobOf r.job).late.preds.reverse.find? (fun e => e.1 = r.letter && e.2.1 = n)).bind (·.2.2)))
  | _ => none

/-- A register as it was before a command wrote it. -/
def State.unwrite (t : State) (r : Ref) (s : State) (g : Reg) : State :=
  match g with
  | .s n => t.modRef r (fun x => { x with s := x.s.set n (s.strOf r).s[n] })
  | .g n => t.modRef r (fun x => { x with g := x.g.set n (s.strOf r).g[n] })
  | .p _ => t.modJob r.job (fun j => { j with late := { j.late with preds := (s.jobOf r.job).late.preds } })
  | _ => t

/-- An owed value reaches its register. (DEDUCED, log 12) -/
def State.payOwed (s : State) (r : Ref) (o : Owed) : State :=
  match o with
  | .s n v => s.modRef r (fun t => t.sput n v)
  | .g n v => s.modRef r (fun t => t.gput n v)
  | .p n v => s.pput r n v

/-- A command whose effects are in `t` and whose completion point lies `n` cycles after its issue: its registers, its flags and its signal
wait for that point (17 R404). -/
def State.slowDone (s : State) (c : Ctl) (u : Use) (t : State) (fl : BitVec 5) (n : Nat) (tiles : List Nat) (engine : Option Nat) : State :=
  if n = 0 then (t.complete s.cur c.sig fl).onward u none
  else
    let back := u.dst.foldl (fun x g => x.unwrite s.cur s g) t
    let s1 := back.fly c u (.late (u.dst.filterMap (fun g => t.owedOf s.cur g))) u.dst tiles engine
    let s2 := s1.modFlight t.nextId (fun f => { f with flags := fl })
    State.onward { s2 with agenda := s2.agenda ++ [⟨s.now + n, .finish t.nextId⟩] } u none

/-- The next step of a command's work on the on-core stores comes after a time that nothing fixes, and at its completion point at the latest
(03 R97). (DESIGN CHOICE, log 11) -/
def State.effectLater (s : State) (k : Nat) : State :=
  (s.sched (Config.delay s.ticket) (.effect k)).draw

/-- Puts a command in line for the vector unit of its core (10 R287). -/
def State.joinVector (s : State) (core : Nat) (q : VecReq) : State :=
  let s1 := s.modCore core (fun x => { x with vec := { x.vec with reqs := x.vec.reqs ++ [q] } })
  if (s.coreOf core).vec.reqs.isEmpty then s1.sched 1 (.vecStep core) else s1

/-- Puts a `SACC` in line for the scatter unit of its core (09 R263), which starts with one that finds it idle. -/
def State.joinScatter (s : State) (core k n : Nat) : State :=
  let s1 := s.modCore core (fun x => { x with scatter := x.scatter ++ [(k, n)] })
  if (s.coreOf core).scatter.isEmpty then s1.sched n (.finish k) else s1

/-- When the completion point of flight `k` comes. -/
def State.pace (s : State) (k : Nat) (p : Pace) : State :=
  let j := s.job
  match p with
  | .after n => s.sched n (.finish k)
  | .vector n => s.joinVector j.coreKey ⟨some k, j.cc, n, j.spec.isSome⟩
  | .scatter n => s.joinScatter j.coreKey k n

/-- A command that works on the on-core stores issues: its operands stand in `op`, and it owes its registers. -/
def State.dataOut (s : State) (c : Ctl) (u : Use) (op : DataOp) (p : Pace) (tiles : List Nat) (engine : Option Nat) : State :=
  ((((s.fly c u (.data ⟨op, none, .empty, none, [], []⟩) u.dst tiles engine).effectLater s.nextId).pace s.nextId p).onward u none)

/-- The completion point of a command of fixed latency. -/
def State.finishLate (s : State) (k : Nat) : State :=
  match s.flights.find? k with
  | none => s
  | some f =>
    match f.work with
    | .late vs => (vs.foldl (fun s o => s.payOwed f.ref o) s).finish k 0
    | _ => s

/-- The state after a body's answer. -/
def State.act (s : State) (c : Ctl) (u : Use) (a : Act) : State :=
  match a with
  | .done t fl => s.slowDone c u t fl u.lat [] none
  | .slow t fl n tiles e => s.slowDone c u t fl n tiles e
  | .fly t => t.onward u none
  | .jump t x => (t.complete s.cur c.sig 0).onward u (some x)
  | .skip t pc =>
    ((t.complete s.cur c.sig 0).onward u none).modSt (fun t => { t with pc := pc }.settlePc s.now (t.issued - t.entered))
  | .wait t => t.begin
  | .busy t => t.begin.count
  | .data t op p tiles e => t.dataOut c u op p tiles e
  | .err e => s.fail u e
  | .trap cause info => s.trapNow u cause info
  | .stop t => t

/-- Whether a speculative job pauses at the command (14 R389). -/
def State.pauses (s : State) (u : Use) : Bool := u.irrev && s.job.spec.isSome

/-- Whether a speculative job pauses before a command that ends a loop body with slots pending, as at any other command that would raise an
error (06 R183). -/
def State.pausesAt (s : State) (a : Act) : Bool :=
  let ends (jump : Bool) : Bool := s.job.spec.isSome && s.st.slotEnds s.st.cmdStart jump
  match a with
  | .done _ _ | .slow _ _ _ _ _ | .fly _ | .data _ _ _ _ _ => ends false
  | .jump _ _ => ends true
  | _ => false

/-- The stream of a speculative job pauses. -/
def State.pause (s : State) : State := s.modSt (fun t => { t with paused := true })

/-- The next state of a command with body `f`. -/
def State.run (s : State) (c : Ctl) (u : Use) (f : State → Act) : State :=
  match s.gate c u with
  | .dead => s
  | .hold => s.await c u
  | .stall => (s.await c u).count
  | .off => if s.pausesAt (.done s 0) then s.pause else (s.complete s.cur c.sig 0).onward u none
  | .go => if s.pauses u then s.begin.pause else if s.pausesAt (f s) then s.pause else s.act c u (f s)

/-- The meaning of a command of the running stream. -/
def command (c : Ctl) (u : Use) (f : State → Act) (s : State) : Result := .next (s.run c u f)

end Sys2Proof.Machine
end

