-- ==== Sys2Proof/Machine/Context.lean ====
section
/-! DEFINITION. Contexts (20 R456, R472): their error records, and the freeze that a context error brings. -/

namespace Sys2Proof.Machine

/-- Puts an event on the agenda unless the same one is there, due no later. -/
def State.ensure (s : State) (d : Nat) (i : Instr) (g : Args) : State :=
  if s.agenda.any (fun e => decide (e.due ≤ s.now + d) && e.move == .event i g) then s else s.post d i g

/-- Puts an event on the agenda unless the same one is there. -/
def State.ensureOne (s : State) (d : Nat) (i : Instr) (g : Args) : State :=
  if s.agenda.any (fun e => e.move == .event i g) then s else s.post d i g

/-- State code of a context (20 R456, R457). -/
def CState.code (c : CState) : Nat :=
  match c with
  | .empty => 0
  | .active => 1
  | .stopped => 2
  | .saveBlocked => 3
  | .frozen => 4
  | .dumping => 5

def Ctx.blank : Ctx := ⟨false, 0, 0, 0, 0, 0, 0, .empty, 0, [], [], 0, 0, []⟩

def State.ctxOf (s : State) (k : Nat) : Ctx := s.ctxs.getD k Ctx.blank

/-- Jobs of a context that are not done. -/
def State.jobsOf (s : State) (ctx : Nat) : List (Nat × Job) := s.jobs.filter (fun e => e.2.ctx = ctx && e.2.status ≠ .done)

/-- An `ACTIVE` context is `EMPTY` again once it has no job and no launch; a speculative one leaves no trace in it (20 R456, 14 R110).
(DEDUCED, log 49) -/
def State.restCtx (s : State) (ctx : Nat) : State :=
  if (s.ctxOf ctx).state = .active && (s.jobsOf ctx).all (fun e => e.2.spec.isSome) &&
      !s.launches.any (fun e => e.2.ctx = ctx && (e.2.spec.isNone || e.2.state = .claiming)) then
    s.modCtx ctx (fun c => { c with state := .empty })
  else s

/-- Causes of a freeze that are not context errors (20 R482). -/
def causeReset : Nat := 0xFFFF
def causeSave : Nat := 0xFFFE

/-- Freezes a context (20 R472): no stream of its jobs issues, and once what has issued is complete the fault dump is written. A context
that is frozen or being dumped keeps its first cause. -/
def State.freeze (s : State) (ctx cause : Nat) : State :=
  let c := s.ctxOf ctx
  let halt (j : Job) : Job := if j.ctx = ctx then { j with frozen := true } else j
  if c.state = .frozen || c.state = .dumping then s
  else
    let s1 := s.modCtx ctx (fun c => { c with state := .frozen, cause := cause, frozenAt := s.ptpt })
    { s1 with jobs := s1.jobs.map (fun (e : Nat × Job) => (e.1, halt e.2)) }.ensure 1 .contextFrozenDrained { a := ctx }

/-- Adds an error record to a context; a dump holds the oldest 32. -/
def State.addError (s : State) (ctx : Nat) (e : ErrRec) : State := s.modCtx ctx (fun c => { c with errors := c.errors ++ [e] })

/-- A record that no stream raised: STREAM 0xFF (20 R475). -/
def State.recOf (s : State) (k : Nat) (code : Nat) : ErrRec :=
  let j := s.jobOf k
  { code := code, reason := 0, stream := 0xFF, trap := 0, more := 0, jobid := j.jobid, launch := j.s7, word := 0, opc := 0, num := 0
    ha := 255, hb := 255, vaddr := 0, paddr := 0, time := s.ptpt }

/-- Freezes a context for an error that no stream raised. -/
def State.freezeFor (s : State) (k ctx code : Nat) : State := (s.addError ctx (s.recOf k code)).freeze ctx code

/-! ### Mailboxes (19 R448) -/

/-- The receipt of a message: the oldest one that satisfies `p`, unless an earlier one of the same sender and receiver is still there; the
receipt `i` is then tried again in the next cycle. -/
def State.receiveMail (s : State) (p : Msg → Bool) (i : Instr) (f : State → Msg → State) : State :=
  match s.mail.find? p with
  | none => s
  | some m =>
    if s.mail.find? (fun x => x.src = m.src && x.dst = m.dst) = some m then f { s with mail := s.mail.erase m } m else s.post 1 i s.args

end Sys2Proof.Machine
end

