-- ==== Sys2Proof/Machine/Access.lean ====
section
/-! DEFINITION. Global accesses: the home of a line (23 R514), writes performed at their homes with the spoils they send (14 R387), the
`UN` combine buffers (03 R93), the undercoat store and read sets of speculative launches (14 R384 to R387), and the accesses of commands
from their issue on (03 R82, R83, R92). -/

namespace Sys2Proof.Machine

/-! ### Homes and partitions -/

/-- Field of a number. -/
def natBits (a lo n : Nat) : Nat := a / 2 ^ lo % 2 ^ n

/-- Home die of a physical address without an override (23 R514). -/
def homeDie (pa : Nat) : Nat := natBits pa 12 3 ^^^ natBits pa 17 3 ^^^ natBits pa 24 3 ^^^ natBits pa 31 3

/-- Home slice within the die. -/
def homeSlice (pa : Nat) : Nat := natBits pa 7 5 ^^^ natBits pa 16 5 ^^^ natBits pa 25 5 ^^^ natBits pa 34 5

/-- Set within the slice. -/
def homeSet (pa : Nat) : Nat := natBits pa 12 28 % 1536

/-- Number of a slice in the package. -/
def sliceKey (die slice : Nat) : Nat := die * 32 + slice

/-- Home die of an access through a handle (02 R69 HOVR, HDIE). -/
def Handle.home (h : Handle) (pa : Nat) : Nat := if h.hovr then h.hdie.toNat else homeDie pa

/-- Kind of a handle's page. -/
def Handle.pkind (h : Handle) : PageKind := if h.kind = 0 then .un else if h.kind = 1 then .rc else .so

/-- The stronger of two kinds (03 R94). -/
def PageKind.stronger (a b : PageKind) : PageKind :=
  match a, b with
  | .so, _ => .so
  | _, .so => .so
  | .rc, _ => .rc
  | _, .rc => .rc
  | .un, .un => .un

/-- Bytes of a partition's entry (21 R486). -/
def State.partEntry (s : State) (p : Nat) : List Byte := s.parts.getD p []

def State.partField (s : State) (p off n : Nat) : Nat := fieldOf (s.partEntry p) off n

def State.sliceAt (s : State) (k : Nat) : Slice := (s.dieOf (k / 32)).slices.getD (k % 32) Slice.init

def State.modSlice (s : State) (k : Nat) (f : Slice → Slice) : State :=
  s.modDie (k / 32) (fun d => { d with slices := d.slices.set (k % 32) (f (d.slices.getD (k % 32) Slice.init)) })

/-! ### Writes at their homes -/

/-- Speculations that a write to granules `g0` to `g1` spoils at a slice (14 R387). -/
def Slice.spoils (x : Slice) (g0 g1 : Nat) : List Nat :=
  ((x.watch.filter (fun w => g0 ≤ w.2 && w.2 ≤ g1)).map Prod.fst ++ x.overflow).foldl NatSet.insert []

/-- Sends the spoils of a write of `n` bytes at `pa`, performed at slice `k`. -/
def State.spoil (s : State) (k pa n : Nat) : State :=
  ((s.sliceAt k).spoils (pa / 4096) ((pa + n - 1) / 4096)).foldl
    (fun s i => s.later .spoilArrival { a := i / 8, b := i % 8, c := k, word := BitVec.ofNat 64 s.ticket }) s

/-- Where an access to `pa` with home die `die` is performed: home die and address, those of the new frame for a line that a migration has
copied (20 R465). -/
def State.homeAt (s : State) (die pa : Nat) : Nat × Nat :=
  let a := s.fwd pa
  (if a ≠ pa && die = homeDie pa then homeDie a else die, a)

/-- A write performed at its home (03 R83). `die` is the home die. -/
def State.perform (s : State) (die pa : Nat) (v : List Byte) (bad : Bool) : State :=
  let h := s.homeAt die pa
  (s.homeWrite pa v bad).spoil (sliceKey h.1 (homeSlice h.2)) h.2 v.length

/-- The masked bytes of a line over what stands there. -/
def mergeBytes (mask : BitVec 128) (data : Vector Byte 128) (old : List Byte) : List Byte :=
  (List.range 128).map (fun i => if mask.getLsbD i then data.toList.getD i 0 else old.getD i 0)

/-- The masked bytes of a line performed at its home: only those bytes are written, and the line's mark follows 20 R477. -/
def State.performLine (s : State) (die line : Nat) (mask : BitVec 128) (data : Vector Byte 128) (bad : Bool) : State :=
  let h := s.homeAt die (line * 128)
  let a := h.2
  let v := mergeBytes mask data (s.memRead a 128)
  let s1 := { s with mem := Memory.write s.mem a v
                     memPoison := if bad then NatSet.insert s.memPoison (a / 128)
                       else if mask = BitVec.allOnes 128 then NatSet.erase s.memPoison (a / 128) else s.memPoison }
  s1.spoil (sliceKey h.1 (homeSlice a)) a 128

/-- The parts of a virtual range, split at lines, that may be written: home die, address, length; none where a page does not
translate or may not be written. -/
def State.vaParts (s : State) (ctx fuel va n : Nat) : Option (List (Nat × Nat × Nat)) :=
  match fuel with
  | 0 => if n = 0 then some [] else none
  | fuel + 1 =>
    if n = 0 then some [] else
    let k := min n (128 - va % 128)
    match s.physOf ctx va true with
    | none => none
    | some (pa, h) => (State.vaParts s ctx fuel (va + k) (n - k)).map (fun r => (h.home pa, pa, k) :: r)

def State.writeParts (s : State) (ps : List (Nat × Nat × Nat)) (v : List Byte) (bad : Bool) : State :=
  match ps with
  | [] => s
  | (die, pa, k) :: r => State.writeParts (s.perform die pa (v.take k) bad) r (v.drop k) bad

/-- Bytes written at a virtual address by an agent of the package, performed at their homes; none where that is not allowed. -/
def State.vaWrite (s : State) (ctx va : Nat) (v : List Byte) : Option State :=
  (s.vaParts ctx (v.length / 128 + 2) va v.length).map (fun ps => (s.markVa ctx va v.length).writeParts ps v false)

/-! ### `UN` combine buffers (03 R93) -/

/-- The line's bytes with `v` put from position `i`. -/
def putBytes (data : Vector Byte 128) (i : Nat) (v : List Byte) : Vector Byte 128 :=
  match v with
  | [] => data
  | b :: r => putBytes (data.setIfInBounds i b) (i + 1) r

/-- The mask with `n` bytes from position `i` set. -/
def putMask (mask : BitVec 128) (i n : Nat) : BitVec 128 := mask ||| (BitVec.ofNat 128 (2 ^ n - 1) <<< i)

/-- A buffered line drains: its bytes are performed at its home and the line leaves the buffer. One whose home is on a lost die is dropped,
and its context frozen (20 R480). -/
def State.drainLine (s : State) (core line ctx : Nat) : State :=
  match (s.coreOf core).combine.find? (fun c => c.line = line && c.ctx = ctx) with
  | none => s
  | some c =>
    let s1 := if (s.dieOf c.die).lost then s.freezeFor ((((s.jobsOf ctx).head?).map (·.1)).getD 0) ctx 53
      else s.performLine c.die line c.mask c.data c.poison
    s1.modCore core (fun x => { x with combine := x.combine.filter (fun d => !(d.line = line && d.ctx = ctx)) })

/-- A `UN` write accepted into the core's combine buffer; a full buffer first drains its oldest line. `v` lies in one line. (DEDUCED, log 20) -/
def State.combineWrite (s : State) (core ctx launch die pa : Nat) (v : List Byte) (bad : Bool) : State :=
  let x := s.coreOf core
  let line := pa / 128
  let i := pa % 128
  let drop (x : Core) := { x with copies := x.copies.filter (fun c => !(c.line = line)) }
  match x.combine.find? (fun c => c.line = line && c.ctx = ctx) with
  | some _ =>
    s.modCore core (fun x => drop { x with combine := x.combine.map (fun c =>
      if c.line = line && c.ctx = ctx then
        { c with mask := putMask c.mask i v.length, data := putBytes c.data i v, poison := c.poison || bad
                 launches := NatSet.insert c.launches launch }
      else c) })
  | none =>
    let s1 := if x.combine.length < 64 then s else
      match x.combine with
      | [] => s
      | c :: _ => s.drainLine core c.line c.ctx
    (s1.modCore core (fun x => drop { x with combine := x.combine ++
        [⟨line, ctx, s.now, putMask 0 i v.length, putBytes (Vector.replicate 128 0) i v, bad, [launch], die, false⟩] })).post 4096
      .combineLineDrain { a := core, b := line, c := ctx }

/-- Bytes read from home as the core's buffer shows them to its own context: its buffered bytes stand over them. -/
def State.overlay (s : State) (core ctx pa : Nat) (v : List Byte) : List Byte :=
  (List.range v.length).map (fun i =>
    match (s.coreOf core).combine.find? (fun c => c.line = (pa + i) / 128 && c.ctx = ctx) with
    | none => v.getD i 0
    | some c => if c.mask.getLsbD ((pa + i) % 128) then c.data.toList.getD ((pa + i) % 128) 0 else v.getD i 0)

/-- Whether the buffer holds every byte of a read. -/
def State.buffered (s : State) (core ctx pa n : Nat) : Bool :=
  (List.range n).all (fun i =>
    (s.coreOf core).combine.any (fun c => c.line = (pa + i) / 128 && c.ctx = ctx && c.mask.getLsbD ((pa + i) % 128)))

/-- Poison of the buffered line that a read touches. -/
def State.bufferBad (s : State) (core ctx pa : Nat) : Bool :=
  (s.coreOf core).combine.any (fun c => c.line = pa / 128 && c.ctx = ctx && c.poison)

/-- Starts the drain of every line of a context at a core (03 R93: a release fence, parking, pre-emption). -/
def State.drainCtx (s : State) (core ctx : Nat) : State :=
  ((s.coreOf core).combine.filter (fun c => c.ctx = ctx && !c.draining)).foldl
    (fun s c => (s.modCore core (fun x => { x with combine := x.combine.map (fun d =>
        if d.line = c.line && d.ctx = ctx then { d with draining := true } else d) })).later
      .combineLineDrain { a := core, b := c.line, c := ctx }) s

/-- A core's buffered bytes of a range drain now. -/
def State.drainRange (s : State) (core ctx a n : Nat) : State :=
  (unitsOf 128 a n).foldl (fun s l => s.drainLine core l ctx) s

/-- A write of a core to its home finds the core's own older bytes of the line there, and no read copy older than itself at the core (03 R89,
R93). -/
def State.clearWay (s : State) (core ctx line : Nat) : State :=
  (s.drainLine core line ctx).modCore core (fun x => { x with copies := x.copies.filter (fun c => c.line ≠ line) })

/-- The context's read copies at a core go: a `FENCE.acq` at die scope or wider (03 R95), and every acquire whose writes may lie on `UN` pages. -/
def State.dropCopies (s : State) (core ctx : Nat) : State :=
  s.modCore core (fun x => { x with copies := x.copies.filter (fun c => c.ctx ≠ ctx) })

/-! ### Speculative launches (14 R384 to R387) -/

/-- The record of speculation number `n`. -/
def State.specOf (s : State) (n : Nat) : Option Spec := (s.dieOf (n / 8)).specs.find? (n % 8)

def State.modSpec (s : State) (n : Nat) (f : Spec → Spec) : State :=
  s.modDie (n / 8) (fun d =>
    match d.specs.find? (n % 8) with
    | none => d
    | some x => { d with specs := d.specs.set (n % 8) (f x) })

/-- Undercoat ways of a die: values 5 to 7 are treated as 4 (14 R383). -/
def ucWays (cfg : Word) : Nat := min 4 (cfg.toNat % 8)

/-- `UCCFG`.MAXSPEC. -/
def ucMaxspec (cfg : Word) : Nat := natBits cfg.toNat 4 4

/-- Counts in an Undercoat counter of a die and of a partition (14 R396). -/
def State.ucCount (s : State) (die part idx n : Nat) : State :=
  s.modDie die (fun d => { d with
    counters := d.counters.set idx (d.counters.getD idx 0 + BitVec.ofNat 64 n)
    partCounters := d.partCounters.set (part * 16 + idx) (d.partCounters.getD (part * 16 + idx) 0 + BitVec.ofNat 64 n) })

/-- The shadow bytes of a speculation over bytes read at `pa`. -/
def Spec.overlay (x : Spec) (pa : Nat) (v : List Byte) : List Byte :=
  (List.range v.length).map (fun i =>
    match x.shadow.find? ((pa + i) / 128) with
    | none => v.getD i 0
    | some l => if l.mask.getLsbD ((pa + i) % 128) then l.data.toList.getD ((pa + i) % 128) 0 else v.getD i 0)

/-- Whether every byte of a read lies in the speculation's shadow. -/
def Spec.shadowed (x : Spec) (pa n : Nat) : Bool :=
  (List.range n).all (fun i =>
    match x.shadow.find? ((pa + i) / 128) with
    | none => false
    | some l => l.mask.getLsbD ((pa + i) % 128))

/-- Records granules `g0` to `g1` in a read set (14 R386); none where a 65th range would be needed. -/
def recordRange (rs : List (Nat × Nat)) (full : Nat) (g0 g1 : Nat) : Option (List (Nat × Nat)) :=
  match rs with
  | [] => if full < 64 then some [(g0, g1 - g0 + 1)] else none
  | (f, c) :: r =>
    let lo := min f g0
    let hi := max (f + c - 1) g1
    if f ≤ g1 + 1 && g0 ≤ f + c && hi - lo + 1 ≤ 65536 then some ((lo, hi - lo + 1) :: r)
    else (recordRange r full g0 g1).map (fun q => (f, c) :: q)

/-- A speculative read about to be made: recorded unless its bytes are all shadow bytes; none where the job must pause. -/
def State.specRead (s : State) (n pa len : Nat) : Option State :=
  match s.specOf n with
  | none => none
  | some x =>
    if x.shadowed pa len then some s
    else (recordRange x.ranges x.ranges.length (pa / 4096) ((pa + len - 1) / 4096)).map
      (fun rs => s.modSpec n (fun x => { x with ranges := rs }))

/-- Shadow lines of a partition on a die (23 R523). -/
def State.shadowCount (s : State) (die part : Nat) : Nat :=
  ((s.dieOf die).specs.vals.map (fun x =>
    if ((s.launches.find? x.launch).map (·.part)) = some part then x.shadow.length else 0)).sum

/-- Shadow lines of a die in one set of one slice. -/
def State.shadowWays (s : State) (die line : Nat) : Nat :=
  ((s.dieOf die).specs.vals.map (fun x => (x.shadow.filter (fun e =>
    homeSlice (e.1 * 128) = homeSlice (line * 128) && homeSet (e.1 * 128) = homeSet (line * 128))).length)).sum

/-- A speculative write of bytes within one line (14 R385): merged into its shadow line, or a new one; none where the job must
pause. -/
def State.specWrite (s : State) (n part home pa : Nat) (v : List Byte) (bad : Bool) : Option State :=
  match s.specOf n with
  | none => none
  | some x =>
    let line := pa / 128
    let i := pa % 128
    match x.shadow.find? line with
    | some l =>
      let l' := { l with mask := putMask l.mask i v.length, data := putBytes l.data i v, poison := l.poison || bad }
      some (s.modSpec n (fun x => { x with shadow := x.shadow.set line l' }))
    | none =>
      let d := s.dieOf (n / 8)
      if s.partField part 32 4 ≤ s.shadowCount (n / 8) part || ucWays d.uccfg ≤ s.shadowWays (n / 8) line then none
      else
        let l : Shadow := ⟨putMask 0 i v.length, putBytes (Vector.replicate 128 0) i v, bad, home⟩
        some (s.modSpec n (fun x => { x with shadow := x.shadow.set line l }))

/-! ### Accesses of commands -/

/-- A real access enters the queue of its core's memory port, which accepts it (03 R95). (DESIGN CHOICE, log 17) -/
def State.request (s : State) (flight piece : Nat) (j : Job) (ref : Ref) (op : AccOp) (kind : PageKind) (die pa len : Nat)
    (src : Option Nat) (bad : Bool) (engine : Nat) : State :=
  let a : Access := {
    flight := flight, piece := piece, ref := ref, core := j.coreKey, part := j.part, ctx := j.ctx, spec := j.spec
    op := op, pa := pa, line := pa / 128, len := len, src := src, poison := bad, kind := kind, die := die, slice := homeSlice pa
    lines := (unitsOf 128 pa len).length, engine := engine, stage := .port, value := [], vpoison := false, forwarded := false }
  ({ s.newId with accesses := s.accesses.set s.nextId a }).ensure 1 .portInjection { a := j.coreKey }

/-- Accesses of a flight not yet performed. -/
def State.openAccesses (s : State) (flight : Nat) : List (Nat × Access) :=
  s.accesses.filter (fun a => a.2.flight = flight && a.2.stage ≠ .performed)

/-- Whether a command still sends bytes to the combine buffer or to the undercoat store, which has not taken them all (03 R95). -/
def Work.leaving (w : Work) : Bool :=
  match w with
  | .data d => d.op.leaves && d.outs != some []
  | _ => false

/-- Whether every global access of the stream's commands issued before flight number `b` has been accepted at the core's port (03 R95); the accesses
that are sent on to their homes are so from their issue. -/
def State.acceptedBefore (s : State) (r : Ref) (b : Nat) : Bool :=
  !(s.flights.any (fun f => f.1 < b && f.2.ref = r && f.2.work.leaving))

/-- Whether every global access of the stream's commands issued before flight number `b` is performed (03 R95). -/
def State.performedBefore (s : State) (r : Ref) (b : Nat) : Bool :=
  !(s.flights.any (fun f => f.1 < b && f.2.ref = r &&
      match f.2.work with
      | .collective .. => true
      | _ => false)) &&
  !(s.accesses.any (fun a => a.2.flight < b && a.2.ref = r && a.2.stage ≠ .performed))

/-- Whether an access reads at its home; an update does. -/
def AccOp.reads (o : AccOp) : Bool :=
  match o with
  | .write _ => false
  | _ => true

/-- Whether every global read among them is performed. -/
def State.readBefore (s : State) (r : Ref) (b : Nat) : Bool :=
  !(s.accesses.any (fun a => a.2.flight < b && a.2.ref = r && a.2.op.reads && a.2.stage ≠ .performed))

/-- Whether every `FMSEND` of the job issued before flight number `b` has been acknowledged. -/
def State.ackedBefore (s : State) (k b : Nat) : Bool :=
  !(s.flights.any (fun f => f.1 < b && f.2.ref.job = k &&
      match f.2.work with
      | .message .. => true
      | _ => false))

/-- Whether the context has no line at the core first written by cycle `t`. -/
def State.drained (s : State) (core ctx t : Nat) : Bool :=
  !((s.coreOf core).combine.any (fun c => c.ctx = ctx && c.since ≤ t))

/-- Numeric order of scopes (03 R82). -/
def scopeRank (x : Scope) : Nat :=
  match x with
  | .stream => 0
  | .job => 1
  | .core => 2
  | .die => 3
  | .package => 4
  | .fabric => 5

/-- The completion conditions of a `FENCE.rel` at scope `x` for the stream `r` of a job, standing before flight number `b`, issued in
cycle `t` (03 R95). Narrow scopes wait for acceptance; what a speculative job's undercoat store holds counts as performed (09 R260). -/
def State.released (s : State) (r : Ref) (x : Scope) (b t : Nat) : Bool :=
  let j := s.jobOf r.job
  s.acceptedBefore r b &&
    (scopeRank x < 3 ||
      (s.performedBefore r b && (j.spec.isSome || s.drained j.coreKey j.ctx t) && (scopeRank x < 5 || s.ackedBefore r.job b)))

/-- The conditions of a `FENCE.acq` (03 R95). -/
def State.acquired (s : State) (r : Ref) (x : Scope) (b : Nat) : Bool := scopeRank x < 3 || s.readBefore r b

/-- What a fence sets off when it issues: drains for a release, the end of read copies for an acquire, at die scope or wider. -/
def State.fenceStart (s : State) (r : Ref) (acq : Bool) (x : Scope) : State :=
  let j := s.jobOf r.job
  if scopeRank x < 3 then s
  else if acq then s.dropCopies j.coreKey j.ctx
  else s.drainCtx j.coreKey j.ctx

/-- Completes every fence whose conditions now hold, oldest first. -/
def State.checkFences (s : State) : State :=
  s.flights.foldl (fun s f =>
    match f.2.work with
    | .fence acq x t =>
      if (if acq then s.acquired f.2.ref x f.1 else s.released f.2.ref x f.1 t) then
        (if acq then s.fenceStart f.2.ref true x else s).finish f.1 0
      else s
    | _ => s) s

/-- A line drains when something has asked for it, or 4,096 cycles after its first write (03 R93); an event left over from an earlier stay of
the line in the buffer does nothing. -/
def execCombineLineDrain (s : State) : Result :=
  let g := s.args
  .next (if (s.coreOf g.a).combine.any (fun c => c.line = g.b && c.ctx = g.c && (c.draining || c.since + 4096 ≤ s.now)) then
      (s.drainLine g.a g.b g.c).checkFences
    else s)

end Sys2Proof.Machine
end

