-- ==== Sys2Proof/Machine/Numeric.lean ====
section
/-! DEFINITION. Number formats and exact arithmetic (04 R118 to R136).

A decoded value is an exact dyadic number `± mant · 2^exp` (zero keeps its sign), an infinity, a NaN with the format and the
bits it came from, or `NV`. Quotients and roots keep 80 significant bits with a sticky last bit, which rounds like the
exact value. Flags are the five bits of `FSTAT` (04 R130). -/

namespace Sys2Proof.Machine

/-- Exact values and the special ones. -/
inductive Num where
  | fin (neg : Bool) (mant : Nat) (exp : Int)
  | inf (neg : Bool)
  | nan (fmt : Nat) (bits : Nat)
  | nv
  deriving DecidableEq, Repr

/-- `FSTAT` flags (04 R130). -/
abbrev Flags := BitVec 5

def Flags.none : Flags := 0
def Flags.iv : Flags := 1
def Flags.dz : Flags := 2
def Flags.of : Flags := 4
def Flags.uf : Flags := 8
def Flags.iof : Flags := 16

/-- Format codes of 02 R60 with 9 for INT64 (08 R226). -/
structure FloatFmt where
  ebits : Nat
  fbits : Nat
  bias : Nat
  width : Nat
  hasInf : Bool
  deriving DecidableEq, Repr

/-- Parameters of the IEEE-style formats (04 R118); other codes give FP32's. -/
def floatFmt (fmt : Nat) : FloatFmt :=
  match fmt with
  | 1 => ⟨4, 3, 7, 8, false⟩
  | 2 => ⟨5, 2, 15, 8, true⟩
  | 5 => ⟨8, 7, 127, 16, true⟩
  | 6 => ⟨5, 10, 15, 16, true⟩
  | _ => ⟨8, 23, 127, 32, true⟩

/-- Element width in bytes (02 R60; INT64 8). -/
def fmtBytes (fmt : Nat) : Nat :=
  match fmt with
  | 0 | 1 | 2 | 3 | 4 => 1
  | 5 | 6 => 2
  | 7 | 8 => 4
  | _ => 8

/-- Bits of the value itself (a T6 code has 6). -/
def fmtBits (fmt : Nat) : Nat := if fmt = 4 then 6 else 8 * fmtBytes fmt

def isIntFmt (fmt : Nat) : Bool := fmt = 0 || fmt = 8 || fmt = 9
def isTaper (fmt : Nat) : Bool := fmt = 3 || fmt = 4

/-- An integer as an exact value. -/
def Num.ofInt (i : Int) : Num := .fin (i < 0) i.natAbs 0

/-- A natural number read as a two's complement integer of `w` bits. -/
def toSigned (w n : Nat) : Int :=
  let m := n % 2 ^ w
  if m < 2 ^ (w - 1) then (m : Int) else (m : Int) - (2 ^ w : Nat)

/-- An integer as `w` bits of two's complement. -/
def ofSigned (w : Nat) (i : Int) : Nat := (i % ((2 ^ w : Nat) : Int)).toNat

/-- Length of the run of equal bits at the top of an `nb`-bit field (04 R120). -/
def topRun (mag nb : Nat) : Nat :=
  let b := mag.testBit (nb - 1)
  ((List.range nb).takeWhile (fun i => mag.testBit (nb - 1 - i) == b)).length

/-- `decode_t` of 04 R120. -/
def decodeT (w c : Nat) : Num :=
  let s := c.testBit (w - 1)
  let nb := w - 1
  let mag := c % 2 ^ nb
  if mag = 0 then (if s then .nv else .fin false 0 0)
  else
    let run := topRun mag nb
    let k : Int := if mag.testBit (nb - 1) then (run : Int) - 1 else - (run : Int)
    let left := if run = nb then 0 else nb - run - 1
    let e : Int := if 1 ≤ left ∧ mag.testBit (left - 1) then 1 else 0
    let fl := left - 1
    .fin s (2 ^ fl + mag % 2 ^ fl) (2 * k + e - fl)

/-- The exact value of a code of an IEEE-style format. -/
def decodeF (fmt : Nat) (bits : Nat) : Num :=
  let f := floatFmt fmt
  let neg := bits.testBit (f.width - 1)
  let ex := bits / 2 ^ f.fbits % 2 ^ f.ebits
  let fr := bits % 2 ^ f.fbits
  let top := 2 ^ f.ebits - 1
  if ex = top ∧ f.hasInf then (if fr = 0 then .inf neg else .nan fmt (bits % 2 ^ f.width))
  else if ex = top ∧ fr = 2 ^ f.fbits - 1 then .nan fmt (bits % 2 ^ f.width)
  else if ex = 0 then .fin neg fr (1 - (f.bias : Int) - f.fbits)
  else .fin neg (2 ^ f.fbits + fr) ((ex : Int) - f.bias - f.fbits)

/-- Whether a code is a subnormal of its IEEE-style format. -/
def isSubnormal (fmt bits : Nat) : Bool :=
  let f := floatFmt fmt
  bits / 2 ^ f.fbits % 2 ^ f.ebits = 0 && bits % 2 ^ f.fbits ≠ 0

/-- `FMODE` bits (04 R129): SAT, FTZH, FTZB. -/
abbrev Fmode := BitVec 3
def Fmode.sat (m : Fmode) : Bool := m.getLsbD 0
def Fmode.flushes (m : Fmode) (fmt : Nat) : Bool := (fmt = 6 && m.getLsbD 1) || (fmt = 5 && m.getLsbD 2)

/-- The value of an operand as it is fetched (04 R127: flushed when `FMODE` says so). -/
def fetchNum (m : Fmode) (fmt bits : Nat) : Num :=
  if isIntFmt fmt then .ofInt (toSigned (fmtBits fmt) bits)
  else if fmt = 3 then decodeT 8 bits
  else if fmt = 4 then decodeT 6 (bits % 64)
  else if m.flushes fmt && isSubnormal fmt bits then .fin (bits.testBit ((floatFmt fmt).width - 1)) 0 0
  else decodeF fmt bits

/-- `mant · 2^exp` scaled to exponent `e`, which is at most `exp`. -/
def alignTo (mant : Nat) (exp e : Int) : Nat := mant * 2 ^ (exp - e).toNat

/-- Order of `a · 2^ea` and `b · 2^eb`. -/
def cmpMag (a : Nat) (ea : Int) (b : Nat) (eb : Int) : Ordering :=
  let e := Min.min ea eb
  compare (alignTo a ea e) (alignTo b eb e)

/-- `round_rne` of 04 R124 on a magnitude: significand bits `p`, least normal exponent `emin`. -/
def roundMag (mant : Nat) (exp : Int) (p : Nat) (emin : Int) : Nat × Int :=
  if mant = 0 then (0, exp)
  else
    let e := Max.max ((Nat.log2 mant : Int) + exp) emin
    let q := e - p + 1
    if q ≤ exp then (alignTo mant exp q, q)
    else
      let sh := (q - exp).toNat
      let m := mant / 2 ^ sh
      let r := mant % 2 ^ sh
      let half := 2 ^ (sh - 1)
      (if r > half ∨ (r = half ∧ m % 2 = 1) then m + 1 else m, q)

/-- The code of a magnitude that is exactly representable (or overflows to `none`). -/
def packMag (f : FloatFmt) (mant : Nat) (exp : Int) : Option Nat :=
  let emin : Int := 1 - (f.bias : Int)
  if mant = 0 then some 0
  else
    let l := Nat.log2 mant
    let e := (l : Int) + exp
    if e < emin then some (alignTo mant exp (emin - f.fbits))
    else
      let frac := (if l ≤ f.fbits then mant * 2 ^ (f.fbits - l) else mant / 2 ^ (l - f.fbits)) - 2 ^ f.fbits
      let ex := (e + f.bias).toNat
      let code := ex * 2 ^ f.fbits + frac
      let lim := if f.hasInf then (2 ^ f.ebits - 1) * 2 ^ f.fbits else 2 ^ (f.ebits + f.fbits) - 1
      if code < lim then some code else none

def signBit (w : Nat) (neg : Bool) : Nat := if neg then 2 ^ (w - 1) else 0

/-- Canonical NaN of an IEEE-style format without its sign (04 R119). -/
def canonNan (fmt : Nat) : Nat :=
  match fmt with
  | 1 => 0x7F
  | 2 => 0x7E
  | 5 => 0x7FC0
  | 6 => 0x7E00
  | _ => 0x7FC00000

def infCode (fmt : Nat) : Nat :=
  match fmt with
  | 2 => 0x7C
  | 5 => 0x7F80
  | 6 => 0x7C00
  | _ => 0x7F800000

/-- Sign of a NaN's bits; `NV` has sign 0 (04 R125). -/
def Num.nanSign (x : Num) : Bool :=
  match x with
  | .nan fmt bits => bits.testBit ((floatFmt fmt).width - 1)
  | _ => false

/-- A NaN made quiet (04 R125, R126). -/
def quietBits (fmt bits : Nat) : Nat := bits ||| 2 ^ ((floatFmt fmt).fbits - 1)

/-- `encode_t` of 04 R123 on a finite value or infinity. -/
def encodeT (w : Nat) (x : Num) : Nat × Flags :=
  match x with
  | .nan _ _ | .nv => (2 ^ (w - 1), 0)
  | .inf neg => (signBit w neg + (2 ^ (w - 1) - 1), Flags.of)
  | .fin neg mant exp =>
    if mant = 0 then (0, 0)
    else
      let top := 2 ^ (w - 1) - 1
      let val := fun (m : Nat) =>
        match decodeT w m with
        | .fin _ a e => (a, e)
        | _ => (0, 0)
      let t := val top
      match cmpMag mant exp t.1 t.2 with
      | .gt => (signBit w neg + top, Flags.of)
      | .eq => (signBit w neg + top, 0)
      | .lt =>
        let lo := ((List.range top).filter (fun m => (cmpMag (val m).1 (val m).2 mant exp).isLE)).length - 1
        let hi := lo + 1
        -- twice the value against lo + hi
        let l := val lo
        let h := val hi
        let e := Min.min (Min.min l.2 h.2) exp
        let m :=
          match compare (2 * alignTo mant exp e) (alignTo l.1 l.2 e + alignTo h.1 h.2 e) with
          | .lt => lo
          | .gt => hi
          | .eq => if lo % 2 = 0 then lo else hi
        if m = 0 then (0, Flags.uf) else (signBit w neg + m, 0)

/-- Round to an integer, ties to even (04 R128). -/
def roundInt (neg : Bool) (mant : Nat) (exp : Int) : Int :=
  let n : Nat :=
    if 0 ≤ exp then mant * 2 ^ exp.toNat
    else
      let sh := (-exp).toNat
      let m := mant / 2 ^ sh
      let r := mant % 2 ^ sh
      let half := 2 ^ (sh - 1)
      if r > half ∨ (r = half ∧ m % 2 = 1) then m + 1 else m
  if neg then - (n : Int) else n

/-- An integer saturated to `w` bits, with `IV` when it saturates (04 R128). -/
def satInt (w : Nat) (i : Int) : Nat × Flags :=
  let hi : Int := ((2 ^ (w - 1) : Nat) : Int) - 1
  let lo : Int := - ((2 ^ (w - 1) : Nat) : Int)
  if i > hi then (ofSigned w hi, Flags.iv)
  else if i < lo then (ofSigned w lo, Flags.iv)
  else (ofSigned w i, 0)

/-- Conversion to an integer format (04 R128). -/
def convertInt (x : Num) (fmt : Nat) : Nat × Flags :=
  let w := fmtBits fmt
  match x with
  | .nan _ _ | .nv => (0, Flags.iv)
  | .inf neg => satInt w (if neg then - ((2 ^ w : Nat) : Int) else ((2 ^ w : Nat) : Int))
  | .fin neg mant exp => satInt w (roundInt neg mant exp)

/-- Overflow result of an IEEE-style format (04 R125). -/
def overflowCode (m : Fmode) (fmt : Nat) (neg : Bool) : Nat :=
  let f := floatFmt fmt
  signBit f.width neg +
    (if fmt = 1 then (if m.sat then 0x7E else 0x7F)
     else if fmt = 2 then (if m.sat then 0x7B else 0x7C)
     else infCode fmt)

/-- Conversion of a finite value to an IEEE-style format (04 R125, R127). -/
def convertFin (m : Fmode) (fmt : Nat) (neg : Bool) (mant : Nat) (exp : Int) : Nat × Flags :=
  let f := floatFmt fmt
  let emin : Int := 1 - (f.bias : Int)
  let y := roundMag mant exp (f.fbits + 1) emin
  match packMag f y.1 y.2 with
  | none => (overflowCode m fmt neg, Flags.of)
  | some code =>
    let tiny := code < 2 ^ f.fbits
    if tiny && code ≠ 0 && m.flushes fmt then (signBit f.width neg, Flags.uf)
    else
      let inexact := cmpMag y.1 y.2 mant exp ≠ .eq
      (signBit f.width neg + code, if tiny && inexact then Flags.uf else 0)

/-- `convert` of 04 R125 and R128 to any format code. -/
def convertNum (m : Fmode) (x : Num) (fmt : Nat) : Nat × Flags :=
  if isIntFmt fmt then convertInt x fmt
  else if fmt = 3 then encodeT 8 x
  else if fmt = 4 then encodeT 6 x
  else
    match x with
    | .nan f bits =>
      if f = fmt then (quietBits fmt bits, 0)
      else (signBit (floatFmt fmt).width x.nanSign + canonNan fmt, 0)
    | .nv => (canonNan fmt, 0)
    | .inf neg =>
      if fmt = 1 then (signBit 8 neg + (if m.sat then 0x7E else 0x7F), Flags.of)
      else (signBit (floatFmt fmt).width neg + infCode fmt, 0)
    | .fin neg mant exp => convertFin m fmt neg mant exp

/-- The largest-precision value that a code of `fmt` has, read without flushing. -/
def codeNum (fmt bits : Nat) : Num := fetchNum 0 fmt bits

/-! ### Exact operations (08 R224, 10 R291) -/

def Num.isNan (x : Num) : Bool :=
  match x with
  | .nan _ _ => true
  | .nv => true
  | _ => false

def Num.isZero (x : Num) : Bool :=
  match x with
  | .fin _ m _ => m = 0
  | _ => false

def Num.isNeg (x : Num) : Bool :=
  match x with
  | .fin n _ _ => n
  | .inf n => n
  | .nan _ _ => x.nanSign
  | .nv => false

/-- An invalid result: the canonical NaN of the result format with sign 0 (04 R126). A NaN of FP32 converts to any format's
canonical NaN. -/
def Num.invalid : Num := .nan 7 0x7FC00000

def Num.neg (x : Num) : Num :=
  match x with
  | .fin n m e => .fin (!n) m e
  | .inf n => .inf (!n)
  | .nan f b => .nan f b
  | .nv => .nv

def Num.abs (x : Num) : Num :=
  match x with
  | .fin _ m e => .fin false m e
  | .inf _ => .inf false
  | .nan f b => .nan f b
  | .nv => .nv

/-- Sum of two finite values; an exact zero of opposite signs is +0. -/
def addFin (n1 : Bool) (m1 : Nat) (e1 : Int) (n2 : Bool) (m2 : Nat) (e2 : Int) : Num :=
  let e := Min.min e1 e2
  let a := alignTo m1 e1 e
  let b := alignTo m2 e2 e
  if n1 = n2 then .fin n1 (a + b) e
  else if a = b then .fin false 0 e
  else if a > b then .fin n1 (a - b) e
  else .fin n2 (b - a) e

def Num.add (x y : Num) : Num × Flags :=
  if x.isNan then (x, 0)
  else if y.isNan then (y, 0)
  else
    match x, y with
    | .inf a, .inf b => if a = b then (.inf a, 0) else (.invalid, Flags.iv)
    | .inf a, _ => (.inf a, 0)
    | _, .inf b => (.inf b, 0)
    | .fin n1 m1 e1, .fin n2 m2 e2 => (addFin n1 m1 e1 n2 m2 e2, 0)
    | _, _ => (x, 0)

def Num.sub (x y : Num) : Num × Flags := Num.add x y.neg

def Num.mul (x y : Num) : Num × Flags :=
  if x.isNan then (x, 0)
  else if y.isNan then (y, 0)
  else
    match x, y with
    | .inf a, .inf b => (.inf (a != b), 0)
    | .inf a, .fin n m _ => if m = 0 then (.invalid, Flags.iv) else (.inf (a != n), 0)
    | .fin n m _, .inf b => if m = 0 then (.invalid, Flags.iv) else (.inf (n != b), 0)
    | .fin n1 m1 e1, .fin n2 m2 e2 => (.fin (n1 != n2) (m1 * m2) (e1 + e2), 0)
    | _, _ => (x, 0)

/-- `x × y + z` with one rounding to come (08 R224): a NaN operand is taken in the order b, c, d. -/
def Num.fma (x y z : Num) : Num × Flags :=
  if x.isNan then (x, 0)
  else if y.isNan then (y, 0)
  else if z.isNan then (z, 0)
  else
    let p := Num.mul x y
    if p.1.isNan then p else Num.add p.1 z

/-- `x / y`, to 80 significant bits with a sticky bit. -/
def divFin (neg : Bool) (m1 : Nat) (e1 : Int) (m2 : Nat) (e2 : Int) : Num :=
  if m1 = 0 then .fin neg 0 0
  else
    let k := 80 + Nat.log2 m2
    let n := m1 * 2 ^ k
    let q := n / m2
    let sticky := if n % m2 = 0 then 0 else 1
    .fin neg (2 * q + sticky) (e1 - e2 - k - 1)

def Num.div (x y : Num) : Num × Flags :=
  if x.isNan then (x, 0)
  else if y.isNan then (y, 0)
  else
    match x, y with
    | .inf _, .inf _ => (.invalid, Flags.iv)
    | .inf a, .fin n _ _ => (.inf (a != n), 0)
    | .fin n _ _, .inf b => (.fin (n != b) 0 0, 0)
    | .fin n1 m1 e1, .fin n2 m2 e2 =>
      if m2 = 0 then (if m1 = 0 then (.invalid, Flags.iv) else (.inf (n1 != n2), Flags.dz))
      else (divFin (n1 != n2) m1 e1 m2 e2, 0)
    | _, _ => (x, 0)

/-- Integer square root, bit by bit from bit `k` down. -/
def isqrtLoop (n : Nat) (k : Nat) (acc : Nat) : Nat :=
  match k with
  | 0 => acc
  | k + 1 =>
    let t := acc + 2 ^ k
    if t * t ≤ n then isqrtLoop n k t else isqrtLoop n k acc

def isqrt (n : Nat) : Nat := isqrtLoop n (Nat.log2 n / 2 + 1) 0

def Num.sqrt (x : Num) : Num × Flags :=
  if x.isNan then (x, 0)
  else
    match x with
    | .inf false => (.inf false, 0)
    | .inf true => (.invalid, Flags.iv)
    | .fin neg m e =>
      if m = 0 then (.fin neg 0 e, 0)
      else if neg then (.invalid, Flags.iv)
      else
        -- an even exponent, at least 160 bits of significand
        let up : Nat := 160 + (if e % 2 = 0 then 0 else 1)
        let n := m * 2 ^ up
        let r := isqrt n
        let sticky := if r * r = n then 0 else 1
        (.fin false (2 * r + sticky) ((e - up) / 2 - 1), 0)
    | _ => (x, 0)

/-- Order of two values that are not NaN, with −0 below +0 when `signed` holds (08 R225) and equal to it otherwise
(07 R203). -/
def Num.cmp (signed : Bool) (x y : Num) : Ordering :=
  let key := fun (v : Num) =>
    match v with
    | .inf true => (0 : Nat)
    | .inf false => 2
    | _ => 1
  match x, y with
  | .fin n1 m1 e1, .fin n2 m2 e2 =>
    let c :=
      if m1 = 0 ∧ m2 = 0 then .eq
      else if m1 = 0 then (if n2 then .gt else .lt)
      else if m2 = 0 then (if n1 then .lt else .gt)
      else
        match n1, n2 with
        | true, false => .lt
        | false, true => .gt
        | false, false => cmpMag m1 e1 m2 e2
        | true, true => cmpMag m2 e2 m1 e1
    if c = .eq ∧ signed ∧ m1 = 0 ∧ m2 = 0 then
      match n1, n2 with
      | true, false => .lt
      | false, true => .gt
      | _, _ => .eq
    else c
  | _, _ => compare (key x) (key y)

/-- `FMIN` (08 R225): the smaller, b when equal. -/
def Num.min (x y : Num) : Num :=
  if x.isNan then x else if y.isNan then y else if Num.cmp true y x = .lt then y else x

/-- `FMAX` (08 R225). -/
def Num.max (x y : Num) : Num :=
  if x.isNan then x else if y.isNan then y else if Num.cmp true y x = .gt then y else x

/-! ### FP32 operations on codes -/

/-- An exact result rounded to FP32 (04 R125), and its flags. -/
def toF32 (r : Num × Flags) : Nat × Flags :=
  let c := convertNum 0 r.1 7
  (c.1, r.2 ||| c.2)

def f32 (bits : Nat) : Num := decodeF 7 bits

def f32Add (a b : Nat) : Nat × Flags := toF32 (Num.add (f32 a) (f32 b))
def f32Sub (a b : Nat) : Nat × Flags := toF32 (Num.sub (f32 a) (f32 b))
def f32Mul (a b : Nat) : Nat × Flags := toF32 (Num.mul (f32 a) (f32 b))
def f32Fma (a b c : Nat) : Nat × Flags := toF32 (Num.fma (f32 a) (f32 b) (f32 c))
def f32Div (a b : Nat) : Nat × Flags := toF32 (Num.div (f32 a) (f32 b))

/-- `FCLASS` (08 R227): the class bit of a code of formats 1 to 7. -/
def classOf (fmt bits : Nat) : Nat :=
  match (if isTaper fmt then decodeT (fmtBits fmt) (bits % 2 ^ fmtBits fmt) else decodeF fmt bits) with
  | .inf true => 0
  | .inf false => 7
  | .nan _ _ => 8
  | .nv => 9
  | .fin neg m _ =>
    if m = 0 then (if neg then 3 else 4)
    else if !isTaper fmt && isSubnormal fmt bits then (if neg then 2 else 5)
    else (if neg then 1 else 6)

/-- Whether a code of an IEEE-style format is a normal number. -/
def isNormalF32 (bits : Nat) : Bool :=
  match f32 bits with
  | .fin _ m _ => m ≠ 0 && !isSubnormal 7 bits
  | _ => false

end Sys2Proof.Machine
end

