-- ==== Sys2Proof/Machine/Flags.lean ====
section
/-! DEFINITION. Conditions and flag arithmetic of commands: the condition codes of 07 R203 and the flags that several
results raise together (04 R131). -/

namespace Sys2Proof.Machine

/-- Integer condition codes (07 R203). -/
def ccHolds (c : Cc) (a b : Word) : Bool :=
  match c with
  | .eq => a == b
  | .ne => a != b
  | .lt => a.slt b
  | .le => a.sle b
  | .gt => b.slt a
  | .ge => b.sle a
  | .ltu => a.ult b
  | .leu => a.ule b
  | .gtu => b.ult a
  | .geu => b.ule a

/-- Whether two values are ordered and how: none where either is NaN or `NV`. Zeros are equal. -/
def numOrder (x y : Num) : Option Ordering :=
  if x.isNan || y.isNan then none else some (Num.cmp false x y)

/-- Floating condition codes (07 R203). -/
def fccHolds (c : Fcc) (o : Option Ordering) : Bool :=
  match c, o with
  | .eq, some .eq => true
  | .ne, none => true
  | .ne, some .lt => true
  | .ne, some .gt => true
  | .lt, some .lt => true
  | .le, some .lt => true
  | .le, some .eq => true
  | .gt, some .gt => true
  | .ge, some .gt => true
  | .ge, some .eq => true
  | .ord, some _ => true
  | .uno, none => true
  | _, _ => false

/-- The flags of a list of results: each is set once (04 R131). -/
def flagsOf (l : List Flags) : Flags := l.foldl (· ||| ·) 0

end Sys2Proof.Machine
end

