-- ==== Sys2Proof/Machine/Operands.lean ====
section
/-! DEFINITION. The operand forms of commands (06 R179, R186, 02 R51, R56, R58, R73): scratchpad, tile, accumulator and global operands
with their checks, and the values that commands take from registers or immediates. -/

namespace Sys2Proof.Machine

/-- Why an operand fails: a context error, or the trap `STACK_BOUND`. -/
inductive Bad where
  | err (e : Err)
  | trap (cause : Cause) (info : BitVec 32)
  deriving DecidableEq, Repr

/-- What an operand check gives. -/
abbrev Check (α : Type) := Except Bad α

/-- A body after an operand check. -/
def Check.andThen {α : Type} (x : Check α) (f : α → Act) : Act :=
  match x with
  | .error (.err e) => .err e
  | .error (.trap c i) => .trap c i
  | .ok v => f v

/-- A context error by its code alone (20 R474). -/
def Act.code (n : Nat) : Act := .err { code := n }

/-! ### Semaphore and control-register operands -/

/-- `semidx` (07 R191). -/
def State.semIdx (s : State) (i : SemIdx) : Check (BitVec 8) :=
  match i with
  | .imm i => .ok i
  | .reg r => if 255 < (s.sget r).toNat then .error (.err { code := 21 }) else .ok ((s.sget r).setWidth 8)

/-- `semarg` (07 R191). -/
def State.semAmt (s : State) (v : SemAmt) : BitVec 32 :=
  match v with
  | .imm v => v.setWidth 32
  | .reg r => (s.sget r).setWidth 32

/-- Registers that the operands name. -/
def SemIdx_regs (i : SemIdx) : List Reg :=
  match i with
  | .imm _ => []
  | .reg r => [.s r]

def SemAmt_regs (v : SemAmt) : List Reg :=
  match v with
  | .imm _ => []
  | .reg r => [.s r]

/-- The value of a control-register write (08 R229). -/
def State.csrSrc (s : State) (x : CsrSrc) : Word :=
  match x with
  | .reg r => s.sget r
  | .imm v => v.setWidth 64

def CsrSrc_regs (x : CsrSrc) : List Reg :=
  match x with
  | .reg r => [.s r]
  | .imm _ => []

/-! ### Scratchpad -/

/-- Units: 64-byte granules, 256-byte tile lines, 768-byte ACS rows. -/
def granule : Nat := 64
def tileLine : Nat := 256
def acsRow : Nat := 768

/-- `chk_scr` of 06 R186 at a window offset already formed: the stack check for s30, alignment, the window (of a prologue, its 64 bytes: 15
R398). -/
def State.chkScr (s : State) (b : SReg) (a n esz : Nat) : Check Nat :=
  let j := s.job
  let t := s.st
  if b = 30 && (a < t.sbase.toNat || t.slimit.toNat < a + n) then .error (.trap .stackBound (BitVec.ofNat 32 a))
  else if a % esz ≠ 0 then .error (.err { code := 3 })
  else if (if j.prologue then 64 else j.scrSize * 65536) < a + n then .error (.err { code := 2 })
  else .ok a

/-- `chk_scr(b, off, n, esz)` for a base register and an offset. -/
def State.scrOperand (s : State) (b : SReg) (off : Word) (n esz : Nat) : Check Nat := s.chkScr b (s.sget b + off).toNat n esz

/-- Core scratch address of a window offset (02 R51). -/
def Job.scrAddr (j : Job) (a : Nat) : Nat := j.scrBase * 65536 + a

/-- Bytes of a job's scratch window. -/
def State.scrRead (s : State) (j : Job) (a n : Nat) : List Byte := Store.read granule (s.coreOf j.coreKey).scratch (j.scrAddr a) n

def State.scrNat (s : State) (j : Job) (a n : Nat) : Nat := natOf (s.scrRead j a n)

/-- Whether a read of a range meets poison: a mark, or a double-bit error (02 R54). -/
def State.scrBad (s : State) (j : Job) (a n : Nat) : Bool := Store.foul granule (s.coreOf j.coreKey).scratch (j.scrAddr a) n

/-- A write to a job's scratch window. -/
def State.scrWrite (s : State) (j : Job) (a : Nat) (v : List Byte) (bad : Bool) : State :=
  s.modCore j.coreKey (fun x => { x with scratch := Store.write granule x.scratch (j.scrAddr a) v bad })

/-- Whether two ranges share a byte. -/
def overlap (a n b m : Nat) : Bool := 0 < n && 0 < m && a < b + m && b < a + n

/-! ### Tiles and accumulator rows -/

/-- `chk_tile` (02 R58). -/
def State.chkTile (s : State) (t : Nat) : Check Nat :=
  if s.job.tileCount ≤ t then .error (.err { code := 4 }) else .ok t

/-- Byte address of a window's tile in the core's tile store. -/
def Job.tileAddr (j : Job) (t : Nat) : Nat := (j.tileBase + t) * 32768

def State.tileRead (s : State) (j : Job) (t off n : Nat) : List Byte :=
  Store.read tileLine (s.coreOf j.coreKey).tiles (j.tileAddr t + off) n

def State.tileBad (s : State) (j : Job) (t off n : Nat) : Bool :=
  Store.foul tileLine (s.coreOf j.coreKey).tiles (j.tileAddr t + off) n

def State.tileWrite (s : State) (j : Job) (t off : Nat) (v : List Byte) (bad : Bool) : State :=
  s.modCore j.coreKey (fun x => { x with tiles := Store.write tileLine x.tiles (j.tileAddr t + off) v bad })

/-- Rows, columns and format of a `TCFG` value (02 R59, R60). -/
def tcfgRows (w : Word) : Nat := natBits w.toNat 8 8 + 1
def tcfgCols (w : Word) : Nat := natBits w.toNat 16 8 + 1
def tcfgFmt (w : Word) : Nat := natBits w.toNat 0 4

/-- A T6 element is held with bits [7:6] zero (02 R61). -/
def tileByte (fmt : Nat) (b : Byte) : Byte := if fmt = 4 then b &&& 0x3F else b

/-- `TCFG` of a tile of the window. -/
def Job.tcfgOf (j : Job) (t : Nat) : Word := j.tcfg.toList.getD t tcfgReset

/-- Whether the job has an array command short of its completion point. -/
def State.arrayPending (s : State) (k : Nat) : Bool :=
  s.flights.any (fun f => f.2.ref.job = k && f.2.work == .array)

/-- Whether a command that changes tile `t` or its configuration must wait: the tile holds the job's stationary weights and an array
command is short of its completion point (11 R310). -/
def State.weightsHeld (s : State) (t : Nat) : Bool :=
  (s.job.weights.map (·.tile)) = some t && s.arrayPending s.cur.job

/-- The stationary weights become void where tile `t` holds them, and no later command runs on their last load (11 R310). -/
def State.voidWeights (s : State) (t : Nat) : State :=
  s.modJob s.cur.job (fun j => if (j.weights.map (·.tile)) = some t then { j with weights := none, ran := none } else j)

/-- Physical row of a relative accumulator row (02 R64). -/
def acsPhys (acs : List Nat) (r : Nat) : Nat := (acs.getD (r / 64) 0) * 64 + r % 64

/-- Rows of a job's allotment. -/
def Job.acsRows (j : Job) : Nat := 64 * j.acs.length

/-- Words of physical row `p` from column `col`. -/
def Core.acsRead (x : Core) (p col n : Nat) : List (BitVec 32) :=
  (List.range n).map (fun i => BitVec.ofNat 32 (natOf (Store.read acsRow x.acs (p * acsRow + (col + i) * 4) 4)))

/-- Poison marks of the ACS stand on elements, numbered by row and column (11 R319). -/
def acsElems (p col n : Nat) : List Nat := (List.range n).map (fun i => p * 192 + col + i)

/-- Whether an element of a physical row from column `col` is poisoned, or read with a double-bit error. -/
def Core.acsBad (x : Core) (p col n : Nat) : Bool := (acsElems p col n).any (fun e => e ∈ x.acs.poison || e ∈ x.acs.err)

/-- Words written to a physical row with their poison; a fresh row's other columns become 0 (02 R65). -/
def Core.acsWrite (x : Core) (p col : Nat) (v : List (BitVec 32)) (bad : Bool) : Core :=
  let t := Store.putAll acsRow x.acs (p * acsRow + col * 4) ((v.map (fun w => bytesOf 4 w.toNat)).flatten)
  let es := acsElems p col v.length
  { x with acs := { t with
      poison := if bad then es.foldl NatSet.insert t.poison else t.poison.filter (fun e => !es.contains e)
      err := t.err.filter (fun e => !es.contains e) } }

/-- Sets the fresh bits of a block's 64 rows and clears their marks (02 R65). -/
def Core.acsRefresh (x : Core) (block : Nat) : Core :=
  { x with acs := { x.acs with
      used := x.acs.used.filter (fun r => r / 64 ≠ block)
      poison := x.acs.poison.filter (fun e => e / 192 / 64 ≠ block)
      err := x.acs.err.filter (fun e => e / 192 / 64 ≠ block) } }

/-! ### Global operands -/

/-- Virtual address of an offset in a handle's page. -/
def Handle.vaddr (h : Handle) (off : Nat) : Word := BitVec.ofNat 64 ((h.vpn.toNat * 65536 + off) % 2 ^ 48)

/-- `chk_glob` (02 R73, 06 R186); `h2` is the second handle that the error names, 255 for none. -/
def Handle.check (h : Handle) (no no2 off n : Nat) (write : Bool) : Check Nat :=
  if !h.valid then .error (.err { code := 8, ha := no, hb := no2 })
  else if pageBytes h.size.toNat < off + n then .error (.err { code := 9, ha := no, hb := no2, vaddr := h.vaddr off })
  else if (if write then !h.wr else !h.rd) then .error (.err { code := 10, ha := no, hb := no2, vaddr := h.vaddr off })
  else .ok (h.pbase.toNat + off)

/-- A global operand of the running job. -/
def State.globOperand (s : State) (h : HReg) (off n : Nat) (write : Bool) : Check Nat := (s.hget h).check h 255 off n write

/-! ### Reads and writes of commands -/

/-- Bytes that a read gets without going to its home: wholly buffered or copied `UN` bytes of a real job (03 R93), or bytes that
are all shadow bytes of a speculative one (14 R386). -/
def State.quickRead (s : State) (j : Job) (kind : PageKind) (pa n : Nat) : Option (List Byte × Bool) :=
  match j.spec with
  | some k =>
    match s.specOf k with
    | none => none
    | some x =>
      if x.shadowed pa n then
        some (x.overlay pa (s.memRead pa n), ((x.shadow.find? (pa / 128)).map (·.poison)).getD false)
      else none
  | none =>
    if kind = .un then
      if s.buffered j.coreKey j.ctx pa n then
        some (s.overlay j.coreKey j.ctx pa (s.memRead pa n), s.bufferBad j.coreKey j.ctx pa)
      else
        match (s.coreOf j.coreKey).copies.find? (fun c => c.line = pa / 128 && c.ctx = j.ctx) with
        | none => none
        | some c =>
          if Config.flag s.ticket then
            some (s.overlay j.coreKey j.ctx pa ((c.data.toList.drop (pa % 128)).take n), false)
          else none
    else none

/-- The running stream pauses, with a count in Undercoat counter `idx` (14 R396). -/
def State.pauseCount (s : State) (idx : Nat) : State :=
  (s.modSt (fun t => { t with paused := true })).ucCount s.job.die s.job.part idx 1

/-- The read set takes each line of a read that is not quick (14 R386); none where the job must pause. A real job records nothing. -/
def State.recordReads (s : State) (j : Job) (ls : List (Nat × Nat)) : Option State :=
  match j.spec with
  | none => some s
  | some k => ls.foldl (fun o l => o.bind (fun s => s.specRead k l.1 l.2)) (some s)

/-- Writes of a speculative job by line (14 R385); none where it must pause: every line is held or none is. -/
def State.shadowWrites (s : State) (k part : Nat) (die : Nat → Nat) (ls : List (Nat × List Byte × Bool)) : Option State :=
  ls.foldl (fun o l => o.bind (fun s => s.specWrite k part (die l.1) l.1 l.2.1 l.2.2)) (some s)

/-- Bytes of a scratch or register source split at the lines of a global range. -/
def splitBytes (ls : List (Nat × Nat)) (v : List Byte) : List (Nat × List Byte) :=
  match ls with
  | [] => []
  | (a, n) :: r => (a, v.take n) :: splitBytes r (v.drop n)

/-- Latency of `n` lines accepted into the combine buffer: 6 cycles for a store, and a copy engine's lines one by one before it (17 R405,
R406). -/
def acceptLat (n : Nat) (engine : Option Nat) : Nat :=
  if n = 0 then 0 else if engine.isSome then n + 7 else 6

/-- What a command writes to global memory: an address within one line, the bytes or the scratch address from which they are read later
(03 R97), their number, and whether they are poisoned. -/
structure OutPart where
  pa : Nat
  n : Nat
  src : Option Nat
  v : List Byte
  bad : Bool
  deriving DecidableEq, Repr

/-- The work of lines that a combine buffer or an undercoat store takes. -/
def outWork (die : Nat → Nat) (ls : List OutPart) : DataOp :=
  if ls.all (fun l => l.src.isSome) then .out (ls.map (fun l => (die l.pa, l.pa, l.n, l.src.getD 0)))
  else .accept (ls.map (fun l => (die l.pa, l.pa, l.v, l.bad)))

/-- Global writes of the running stream's command at issue (03 R88, R93, 14 R385). Shadow lines are taken at once, with the bytes of that
moment; they and the lines of a `UN` page are then accepted one by one up to the completion point. The others are a flight of as
many accesses. -/
def State.writeOut (s : State) (c : Ctl) (u : Use) (kind : PageKind) (die : Nat → Nat) (ls : List OutPart) (engine : Option Nat) : Act :=
  let j := s.job
  if ls.isEmpty then .done s 0
  else
    match j.spec with
    | some k =>
      if kind = .so then .stop (s.modSt (fun t => { t with paused := true }))
      else
        match s.shadowWrites k j.part die (ls.map (fun l => (l.pa, l.v, l.bad))) with
        | none => .stop (s.pauseCount 7)
        | some s1 => .data s1 (outWork die ls) (.after (acceptLat ls.length engine)) [] engine
    | none =>
      if kind = .un then .data s (outWork die ls) (.after (acceptLat ls.length engine)) [] engine
      else
        let k := s.nextId
        .fly (ls.foldl (fun s l => s.request k 0 j s.cur (.write l.v) kind (die l.pa) l.pa l.n l.src l.bad (engine.getD 6))
          (s.fly c u (.writes ls.length) [] [] engine))

end Sys2Proof.Machine
end

