-- ==== Sys2Proof/Machine/ScalarMem.lean ====
section
/-! DEFINITION. Scalar memory (08 R238 to R242). -/

namespace Sys2Proof.Machine

/-- Bytes of a size code. -/
def szBytes (sz : Fin 5) : Nat := 2 ^ sz.val

/-- The odd register of a pair. -/
def pairReg (d : SReg) : SReg := d + 1

/-- Registers that a data operand names (08 R238). -/
def dataRegs (d : SReg) (sz : Fin 5) : List Reg := if sz = 4 then [.s d, .s (pairReg d)] else [.s d]

/-- A loaded value of `n` < 16 bytes extended to 64 bits. -/
def extend (sx : Bool) (n v : Nat) : Word :=
  if sx then BitVec.ofInt 64 (toSigned (8 * n) v) else BitVec.ofNat 64 v

/-- `write_data` of 08 R240 for a stream. -/
def Stream.writeData (t : Stream) (d : SReg) (sz : Fin 5) (sx : Bool) (v : Nat) : Stream :=
  if sz = 4 then (t.sput d (BitVec.ofNat 64 v)).sput (pairReg d) (BitVec.ofNat 64 (v / 2 ^ 64))
  else t.sput d (extend sx (szBytes sz) v)

/-- `data` of 08 R240. -/
def State.storeData (s : State) (d : SReg) (sz : Fin 5) : List Byte :=
  if sz = 4 then bytesOf 8 (s.sget d).toNat ++ bytesOf 8 (s.sget (pairReg d)).toNat
  else bytesOf (szBytes sz) (s.sget d).toNat

/-- `LDS` (08 R240): its bytes are read between its issue and its completion point (03 R87, R97). -/
def ldsBody (o : OpLds) (s : State) : Act :=
  let n := szBytes o.sz
  (s.scrOperand o.a o.off n n).andThen (fun a => .data s (.load o.d o.sz o.sx (s.job.scrAddr a)) (.after 3) [] none)

def execLds (o : OpLds) (s : State) : Result :=
  command o.c { opc := 0x0B0, regs := .s o.a :: dataRegs o.d o.sz, dst := dataRegs o.d o.sz } (ldsBody o) s

/-- `STS` (08 R240): its bytes are written between its issue and its completion point (03 R87). -/
def stsBody (o : OpSts) (s : State) : Act :=
  let n := szBytes o.sz
  (s.scrOperand o.a o.off n n).andThen (fun a => .data s (.store (s.job.scrAddr a) (s.storeData o.d o.sz)) (.after 2) [] none)

def execSts (o : OpSts) (s : State) : Result :=
  command o.c { opc := 0x0B1, regs := .s o.a :: dataRegs o.d o.sz } (stsBody o) s

/-- A global element's address: `chk_glob`, then alignment (08 R240). -/
def State.globElement (s : State) (h : HReg) (off n : Nat) (write : Bool) : Check Nat :=
  match s.globOperand h off n write with
  | .error b => .error b
  | .ok pa => if pa % n ≠ 0 then .error (.err { code := 3, ha := h, vaddr := (s.hget h).vaddr off }) else .ok pa

/-- `LDG` (08 R240 to R242): bytes at hand at once, else a flight that owes the register. -/
def ldgBody (o : OpLdg) (u : Use) (s : State) : Act :=
  let n := szBytes o.sz
  let h := s.hget o.h
  let off := (s.sget o.o).toNat
  (s.globElement o.h off n false).andThen (fun pa =>
    match s.quickRead s.job h.pkind pa n with
    | some (v, bad) =>
      if bad then .err { code := 11, ha := o.h, vaddr := h.vaddr off, paddr := BitVec.ofNat 64 (pa / 128 * 128) }
      else .slow (s.modSt (fun t => t.writeData o.d o.sz o.sx (natOf v))) 0 6 [] none
    | none =>
      match s.recordReads s.job [(pa, n)] with
      | none => .stop (s.pauseCount 8)
      | some s1 =>
        .fly ((s1.fly o.c u (.load o.d o.sz o.sx o.h (h.vaddr off)) (dataRegs o.d o.sz)).request s1.nextId 0 s.job s.cur .read h.pkind (h.home pa) pa n
          none false 6))

def ldgUse (o : OpLdg) : Use := { opc := 0x0B2, regs := [.h o.h, .s o.o] ++ dataRegs o.d o.sz, ga := true, dst := dataRegs o.d o.sz }

def execLdg (o : OpLdg) (s : State) : Result := command o.c (ldgUse o) (ldgBody o (ldgUse o)) s

/-- `STG` (08 R240 to R242). -/
def stgBody (o : OpStg) (u : Use) (s : State) : Act :=
  let h := s.hget o.h
  (s.globElement o.h (s.sget o.o).toNat (szBytes o.sz) true).andThen (fun pa =>
    s.writeOut o.c u h.pkind h.home [⟨pa, szBytes o.sz, none, s.storeData o.d o.sz, false⟩] none)

def stgUse (o : OpStg) : Use := { opc := 0x0B3, regs := [.h o.h, .s o.o] ++ dataRegs o.d o.sz, gw := true }

def execStg (o : OpStg) (s : State) : Result := command o.c (stgUse o) (stgBody o (stgUse o)) s

end Sys2Proof.Machine
end

