-- ==== Sys2Proof/Machine/Memory.lean ====
section
/-! DEFINITION. A global access from its core's port to its home and back (03 R83): injection (23 R521), the router before the home
slice (23 R520), the slice's acceptance and cache (23 R516, R517), the HBM controller (23 R518), the access performed, and its
reply. -/

namespace Sys2Proof.Machine

/-! ### Partitions of cores (21 R485) -/

/-- Whether a partition's entry is valid. -/
def State.partValid (s : State) (p : Nat) : Bool := s.partField p 2 1 % 2 = 1

/-- Whether a partition holds a granule. -/
def State.holdsGranule (s : State) (p g : Nat) : Bool := s.partValid p && (s.partField p 0 2).testBit g

/-- The partition of a core. -/
def State.partAt (s : State) (core : Nat) : Option Nat :=
  let g := core / 16 * 2 + core % 16 / 8
  (List.range 16).find? (fun p => s.holdsGranule p g)

/-! ### Injection buckets (23 R521, R522) -/

/-- INJ of a partition. -/
def State.inj (s : State) (p : Nat) : Nat := s.partField p 22 2

/-- Partition entries due to come into force now stand for the refill (23 R522). -/
def State.dueParts (s : State) : State :=
  { s with parts := s.staged.foldl (fun m e =>
      if s.agenda.any (fun x => x.due ≤ s.now && x.move == .event .partEntryInForce { a := e.1 }) then m.set e.1 e.2.1 else m) s.parts }

/-- Whether a core's port holds a real line request not yet injected. -/
def State.portBusy (s : State) (core : Nat) : Bool :=
  s.accesses.any (fun a => a.2.core = core && a.2.spec.isNone && a.2.stage == .port)

/-- The refill of a die's metered ports at the first cycle of window `w`. -/
def State.refillPorts (s0 : State) (die w : Nat) : State :=
  let s := s0.dueParts
  let ports := ((List.range 16).map (fun c => coreKey die c)).filterMap (fun c =>
    match s.partAt c with
    | none => none
    | some p => if s.inj p = 1024 then none else some (c, s.inj p))
  let excess (c i : Nat) := ((s.coreOf c).bucket + 2 * i) - min ((s.coreOf c).bucket + 2 * i) (2 * i)
  let spills (c : Nat) : Bool := ((s.coreOf c).lastInject.map (fun x => decide (w ≤ x + 64))).getD false
  let pool := (ports.map (fun p => if spills p.1 then excess p.1 p.2 else 0)).sum
  let busy := ports.filter (fun p => (s.coreOf p.1).bucket = 0 && s.portBusy p.1)
  let total := (busy.map (·.2)).sum
  let s1 := ports.foldl (fun t p => t.modCore p.1 (fun x =>
    { x with bucket := min (x.bucket + 2 * p.2) (2 * p.2)
             credit := if busy.contains p then pool * p.2 / total else 0 })) s0
  s1.modDie die (fun d => { d with window := w })

/-- The refill of the running window, unless it has been made: it comes before any injection of its first cycle. -/
def State.refillDue (s : State) (die : Nat) : State :=
  if (s.dieOf die).window < s.now / 1024 then s.refillPorts die (s.now / 1024) else s

/-- The refill of a window, which the die makes at its first cycle. -/
def execInjectionRefill (s : State) : Result :=
  .next ((s.refillDue s.args.a).post (1024 - s.now % 1024) .injectionRefill { a := s.args.a })

/-- The line requests that a port can present: the oldest of each copy and other engine, by ascending engine number, then those of the
scalar paths (engine 6). -/
def State.presented (s : State) (core : Nat) (spec : Bool) : List (Nat × Access) :=
  let q := s.accesses.filter (fun a => a.2.core = core && a.2.spec.isSome = spec && a.2.stage == .port)
  ((List.range 6).filterMap (fun e => q.find? (fun a => a.2.engine = e))) ++ q.filter (fun a => a.2.engine = 6)

/-- The bytes of a copy or of an update as they leave: read from scratch when its line is injected (03 R97). -/
def State.loadOut (s : State) (a : Access) : Access :=
  match a.src with
  | none => a
  | some p =>
    let st := (s.coreOf a.core).scratch
    let v := Store.read granule st p a.len
    { a with
      src := none
      op := match a.op with
        | .write _ => .write v
        | .add f m _ => .add f m (BitVec.ofNat 32 (natOf v))
        | .read => .read
      poison := a.poison || Store.foul granule st p a.len }

/-- One line of an access is injected; with its last line, it is on its way to its home. -/
def State.injectLine (s : State) (core id : Nat) : State :=
  match s.accesses.find? id with
  | none => s
  | some a =>
    let s1 := s.modCore core (fun x => { x with lastInject := some (s.now / 1024) })
    if 1 < a.lines then { s1 with accesses := s1.accesses.set id { a with lines := a.lines - 1 } }
    else
      ({ s1 with accesses := s1.accesses.set id { s.loadOut a with lines := 0, stage := .sent } }).later .routerGrant
        { a := sliceKey a.die a.slice, b := id + 1 }

/-- Tokens a port has: none counted for an unmetered one. -/
def State.tokens (s : State) (core : Nat) : Option Nat :=
  match s.partAt core with
  | none => none
  | some p => if s.inj p = 1024 then none else some ((s.coreOf core).bucket + (s.coreOf core).credit)

/-- Takes `n` tokens, from the bucket first. -/
def Core.pay (x : Core) (n : Nat) : Core := { x with bucket := x.bucket - n, credit := x.credit - (n - x.bucket) }

/-- Requests of a core that are under way: it may have 2,048 (00 R1, 09 R251). -/
def State.outstanding (s : State) (core : Nat) : Nat :=
  (s.accesses.filter (fun a => a.2.core = core && a.2.stage ≠ .port)).length

/-- A port's injections of one cycle. -/
def execPortInjection (s : State) : Result :=
  let core := s.args.a
  let s0 := s.refillDue (core / 16)
  let room := match s0.tokens core with
    | none => 2
    | some n => min 2 n
  let free := min 2 (2048 - s0.outstanding core)
  let real := ((s0.presented core false).take (min room free)).map (·.1)
  let spec := ((s0.presented core true).take (free - real.length)).map (·.1)
  let s1 := if (s0.tokens core).isSome then s0.modCore core (fun x => x.pay real.length) else s0
  let s2 := (real ++ spec).foldl (fun t i => t.injectLine core i) s1
  .next (if s2.accesses.any (fun a => a.2.core = core && a.2.stage == .port) then s2.ensure 1 .portInjection { a := core } else s2)

/-! ### The router before a home slice (23 R520) -/

def Router.init : Router := ⟨Vector.replicate 6 [], 0, 0, 0⟩

def Router.chan (x : Router) (c : Nat) : List Flit := x.vc.toList.getD c []

/-- The channels of the weighted round-robin, in its order. -/
def rrChannels : List Nat := [0, 2, 3, 4, 5]

/-- Flits at the head of their input. -/
def heads (l : List Flit) : List Flit :=
  l.filter (fun f => ((l.find? (fun g => g.input = f.input)).map (·.id)) = some f.id)

def Flit.age (f : Flit) (now : Nat) : Nat := min 255 (now - f.since)

/-- The winning head of a channel: greatest age, then lowest input. -/
def winner (now : Nat) (l : List Flit) : Option Flit :=
  (heads l).foldl (fun b f =>
    match b with
    | none => some f
    | some g => if g.age now < f.age now || (g.age now = f.age now && f.input < g.input) then some f else b) none

/-- The weight of a channel for the partition of a flit. -/
def State.vcWeight (s : State) (vc : Nat) (f : Flit) : Nat := max 1 (s.partField f.part (24 + vc) 1)

/-- Whether the round-robin may serve a channel: one with a flit, and VC5 after every other (01 R45). -/
def Router.serves (x : Router) (c : Nat) : Bool := !(x.chan c).isEmpty && (c ≠ 5 || [0, 2, 3, 4].all (fun d => (x.chan d).isEmpty))

/-- The place in the round-robin to serve, with its quantum. (DEDUCED, log 104) -/
def State.rrPick (s : State) (x : Router) : Option (Nat × Nat) :=
  if 0 < x.quantum && x.serves (rrChannels.getD x.turn 0) then some (x.turn, x.quantum)
  else
    match ((List.range 5).map (fun i => (x.turn + 1 + i) % 5)).find? (fun i => x.serves (rrChannels.getD i 0)) with
    | none => none
    | some i =>
      match winner s.now (x.chan (rrChannels.getD i 0)) with
      | none => none
      | some f => some (i, s.vcWeight (rrChannels.getD i 0) f)

/-- A router output with a flit taken from a channel; the next flit of its input stands at the head from now on. -/
def Router.take (x : Router) (c : Nat) (f : Flit) (now : Nat) : Router :=
  let rest := (x.chan c).filter (fun g => g.id ≠ f.id)
  let next := (rest.find? (fun g => g.input = f.input)).map (·.id)
  { x with
    vc := x.vc.setIfInBounds c (rest.map (fun g => if some g.id = next then { g with since := now } else g))
    since5 := if c = 5 then 0 else x.since5 + 1 }

/-- One grant: the flit, and the output after it. (DEDUCED, log 85) -/
def State.grant (s : State) (x : Router) : Option (Flit × Router) :=
  let give (c : Nat) (y : Router) := (winner s.now (x.chan c)).map (fun f => (f, y.take c f s.now))
  if !(x.chan 5).isEmpty && 63 ≤ x.since5 then give 5 x
  else if !(x.chan 1).isEmpty then give 1 x
  else
    match s.rrPick x with
    | none => none
    | some (i, q) => give (rrChannels.getD i 0) { x with turn := i, quantum := q - 1 }

/-- Virtual channel of an access (23 R519). -/
def Access.vc (a : Access) : Nat := if a.spec.isSome then 5 else if a.forwarded then 2 else 0

/-- A flit arrives at the output. -/
def State.flitIn (s : State) (o id : Nat) : State :=
  match s.accesses.find? id with
  | none => s
  | some a =>
    let x := s.routers.getD o Router.init
    { s with routers := s.routers.set o { x with
        vc := x.vc.setIfInBounds a.vc (x.chan a.vc ++ [⟨id, a.core, a.part, s.now⟩]) } }

/-- A grant of the output, and before it the arrival of a flit where `b` names one. -/
def execRouterGrant (s : State) : Result :=
  let o := s.args.a
  let s1 := if s.args.b = 0 then s else s.flitIn o (s.args.b - 1)
  .next (if s.args.b ≠ 0 then s1.ensure 1 .routerGrant { a := o }
    else
      match s1.grant (s1.routers.getD o Router.init) with
      | none => s1
      | some (f, y) =>
        let s2 := { s1 with routers := s1.routers.set o y }
        let s3 := (s2.modSlice o (fun x => { x with waiting := x.waiting ++ [f.id] })).ensure 1 .sliceRequestAccept { a := o }
        if y.vc.toList.all (·.isEmpty) then s3 else s3.ensure 1 .routerGrant { a := o })

/-! ### The home slice (23 R516, R517) -/

def CacheLine.hit (c : CacheLine) (line : Nat) : Bool := c.line = line

/-- Ways a partition may allocate in at a slice. -/
def State.waysOf (s : State) (k part : Nat) : List Nat :=
  (List.range (16 - ucWays (s.dieOf (k / 32)).uccfg)).filter (fun w => (s.partField part (12 + 2 * (k % 32 / 8)) 2).testBit w)

/-- The way a miss takes: an invalid one, lowest first, else the least recently used; none where no way is allowed. -/
def Slice.victim (x : Slice) (set : Nat) (ways : List Nat) : Option Nat :=
  match ways.find? (fun w => !x.lines.any (fun c => c.set = set && c.way = w)) with
  | some w => some w
  | none =>
    ((x.lines.filter (fun c => c.set = set && ways.contains c.way)).foldl (fun (b : Option CacheLine) c =>
      match b with
      | none => some c
      | some d => if c.used < d.used then some c else b) none).map (·.way)

/-- A lookup of a line: whether it hit, and the slice after it. -/
def Slice.lookup (x : Slice) (line part now : Nat) (write : Bool) (ways : List Nat) : Bool × Slice :=
  if x.lines.any (fun c => c.hit line) then
    (true, { x with lines := x.lines.map (fun c => if c.hit line then { c with used := now, dirty := c.dirty || write } else c) })
  else
    let set := homeSet (line * 128)
    match x.victim set ways with
    | none => (false, x)
    | some w =>
      (false, { x with lines := x.lines.filter (fun c => !(c.set = set && c.way = w)) ++ [⟨set, w, line, part, now, write⟩] })

def AccOp.writes (o : AccOp) : Bool :=
  match o with
  | .read => false
  | .write _ => true
  | .add _ _ _ => true

/-- The slice with the counts of the running window. -/
def Slice.inWindow (x : Slice) (w : Nat) : Slice := if x.window = w then x else { x with window := w, counts := [] }

def execCacheWindowClear (s : State) : Result :=
  let w := s.now / 1024
  let clear (d : Die) : Die := { d with slices := d.slices.map (fun (e : Nat × Slice) => (e.1, e.2.inWindow w)) }
  let s1 := { s with dies := s.dies.map (fun (e : Nat × Die) => (e.1, clear e.2)) }
  .next (s1.post (1024 - s.now % 1024) .cacheWindowClear {})

/-- The request that a slice accepts: of the real ones the oldest of a partition within its CBW, else the oldest; a speculative one only
where no real one waits. -/
def State.acceptable (s : State) (x : Slice) : Option (Nat × Access) :=
  let ws := x.waiting.filterMap (fun i => (s.accesses.find? i).map (fun a => (i, a)))
  let real := ws.filter (fun a => a.2.spec.isNone)
  match real.find? (fun a => x.counts.getD a.2.part 0 < s.partField a.2.part 20 2) with
  | some a => some a
  | none =>
    match real with
    | a :: _ => some a
    | [] => ws.head?

/-- HBM controller of an access (23 R518: two for each die). (DESIGN CHOICE, log 68) -/
def Access.controller (a : Access) : Nat := a.die * 2 + Config.hbmOf (a.pa / 128) % 2

def execSliceRequestAccept (s : State) : Result :=
  let k := s.args.a
  let x := (s.sliceAt k).inWindow (s.now / 1024)
  .next (match s.acceptable x with
    | none => s.modSlice k (fun _ => { x with waiting := [] })
    | some (i, a) =>
      let l := x.lookup (a.pa / 128) a.part s.now a.op.writes (s.waysOf k a.part)
      let y := { l.2 with
        waiting := x.waiting.filter (fun n => n ≠ i)
        counts := if a.spec.isSome then x.counts else x.counts.set a.part (x.counts.getD a.part 0 + 1) }
      let s1 := { s.modSlice k (fun _ => y) with accesses := s.accesses.set i { a with stage := .slice } }
      let s2 := if l.1 then s1.later .globalAccessPerformed { a := i }
        else s1.later .hbmRequestArrival { a := a.controller, b := i }
      if y.waiting.isEmpty then s2 else s2.ensure 1 .sliceRequestAccept { a := k })

/-! ### HBM controllers (23 R518) -/

/-- What a line costs a partition: floor(65,280 / MCW). -/
def State.lineCost (s : State) (p : Nat) : Nat := 65280 / max 1 (s.partField p 30 1)

def execHbmRequestArrival (s : State) : Result :=
  let m := s.args.a
  .next (match s.accesses.find? s.args.b with
    | none => s
    | some a =>
      let h := s.hbm.getD m Hbm.init
      let start := max h.v (h.f.getD a.part 0)
      let n := (unitsOf 128 a.pa a.len).length
      let h1 : Hbm :=
        if a.spec.isSome then { h with waiting := h.waiting ++ [⟨s.args.b, a.part, n, 0, true⟩] }
        else { h with f := h.f.set a.part (start + n * s.lineCost a.part), waiting := h.waiting ++ [⟨s.args.b, a.part, n, start, false⟩] }
      { s with hbm := s.hbm.set m h1 }.ensureOne 1 .hbmServiceStart { a := m })

/-- The request served next: smallest tag, then lowest partition, then earliest; a speculative one only where no real one waits. -/
def Hbm.next (h : Hbm) : Option HbmReq :=
  match h.waiting.filter (fun r => !r.spec) with
  | [] => h.waiting.head?
  | r :: l => some (l.foldl (fun b x => if x.start < b.start || (x.start = b.start && x.part < b.part) then x else b) r)

def execHbmServiceStart (s : State) : Result :=
  let m := s.args.a
  let h := s.hbm.getD m Hbm.init
  .next (match h.next with
    | none => s
    | some r =>
      let w := h.waiting.filter (fun x => x.id ≠ r.id)
      let h1 : Hbm := { h with v := if r.spec then h.v else r.start, waiting := w }
      let h2 : Hbm := if w.any (fun x => !x.spec) then h1 else { h1 with v := 0, f := [] }
      let s1 := { s with hbm := s.hbm.set m h2 }.later .globalAccessPerformed { a := r.id }
      if w.isEmpty then s1 else s1.later .hbmServiceStart { a := m })

/-! ### The access performed (03 R83, R84, R92) -/

/-- One update of scatter-accumulate (04 R144): formats 0 FP32, 1 BF16, 2 INT32. (DEDUCED, log 36) -/
def saccAdd (fmt : Fin 3) (m : Fmode) (v u : Nat) : Nat × Flags :=
  if fmt = 2 then
    let x := toSigned 32 v + toSigned 32 u
    (ofSigned 32 x, if x < -(2 ^ 31) || 2 ^ 31 - 1 < x then Flags.iof else 0)
  else
    let f := if fmt = 0 then 7 else 5
    let r := Num.add (fetchNum m f v) (fetchNum m f u)
    let c := convertNum m r.1 f
    (c.1, r.2 ||| c.2)

/-- Bytes of an element of scatter-accumulate. -/
def saccBytes (fmt : Fin 3) : Nat := if fmt = 1 then 2 else 4

def State.setAccess (s : State) (i : Nat) (a : Access) : State := { s with accesses := s.accesses.set i a }

/-- A granule in a slice's watch filter of 256 entries, or the overflow bit (14 R387). -/
def Slice.watchOne (x : Slice) (spec g : Nat) : Slice :=
  if x.watch.contains (spec, g) then x
  else if x.watch.length < 256 then { x with watch := x.watch ++ [(spec, g)] }
  else { x with overflow := NatSet.insert x.overflow spec }

/-- The address that an access named within the line it named at issue: that of the core's own buffer. -/
def Access.own (a : Access) : Nat := a.line * 128 + a.pa % 128

/-- Whether the core's buffer holds poisoned bytes of an access's line for its context. -/
def State.ownBad (s : State) (a : Access) : Bool := s.bufferBad a.core a.ctx a.own

/-- A `UN` read leaves a copy of its line at the core, the core's buffered bytes of its context among it, unless the line is poisoned (03 R89, R93).
(DESIGN CHOICE, log 19) -/
def State.keepCopy (s : State) (a : Access) : State :=
  if a.kind == .un && a.spec.isNone && !s.memBad (a.pa / 128 * 128) 128 && !s.ownBad a then
    let v := s.overlay a.core a.ctx (a.line * 128) (s.memRead (a.pa / 128 * 128) 128)
    let c : ReadCopy := ⟨a.line, a.ctx, putBytes (Vector.replicate 128 0) 0 v⟩
    s.modCore a.core (fun x => { x with copies := x.copies.filter (fun d => !(d.line = c.line && d.ctx = c.ctx)) ++ [c] })
  else s

/-- What a read returns, and its poison: a real job's buffered bytes or a speculative one's shadow bytes stand over the home's. That holds for a
stronger kind too, which a `COPY2` can give to a read of a `UN` page (03 R94). -/
def State.readValue (s : State) (a : Access) : List Byte × Bool :=
  let v := s.memRead a.pa a.len
  let bad := s.memBad a.pa a.len
  match a.spec with
  | some n =>
    match s.specOf n with
    | none => (v, bad)
    | some x => (x.overlay a.own v, bad || ((x.shadow.find? a.line).map (·.poison)).getD false)
  | none => (s.overlay a.core a.ctx a.own v, bad || s.ownBad a)

/-- A write or update to a home on a lost die is dropped, and its writer's context frozen (20 R480). -/
def State.lostWrite (s : State) (a : Access) : State := s.freezeFor a.ref.job a.ctx 53

/-- The access takes effect at its home; a write or an update comes after the older bytes of its line that its core's buffer holds (03 R93, R104, R106).
(DEDUCED, log 51) -/
def State.takeEffect (s : State) (i : Nat) (a : Access) : State :=
  let lost := (s.dieOf a.die).lost
  let done := { a with stage := Stage.performed }
  match a.op with
  | .read =>
    let v := if lost then ((List.range a.len).map (fun n => Config.lostByte s.ticket (a.pa + n)), true) else s.readValue a
    let s1 := (if lost then s else s.keepCopy a).setAccess i { done with value := v.1, vpoison := v.2 }
    let s2 := match a.spec with
      | none => s1
      | some n => s1.modSlice (sliceKey a.die a.slice) (fun x => x.watchOne n (a.pa / 4096))
    s2.later .globalReadReply { a := i }
  | .write v =>
    ((if lost then s.lostWrite a else (s.clearWay a.core a.ctx a.line).perform a.die a.pa v a.poison).setAccess i done).later
      .globalAccessPerformed { a := i }
  | .add fmt m u =>
    let n := saccBytes fmt
    let s0 := s.clearWay a.core a.ctx a.line
    let r := saccAdd fmt m (natOf (s0.memRead a.pa n)) u.toNat
    let s1 := if lost then s.lostWrite a
      else (s0.perform a.die a.pa (bytesOf n r.1) (a.poison || s0.memBad a.pa n)).modFlight a.flight
        (fun f => { f with flags := f.flags ||| r.2 })
    (s1.setAccess i done).later .saccgUpdate { a := a.flight, b := i }

/-- Whether an older access of the core to the same line has not been performed: the port keeps their order (03 R82), but for an `SO` access of a later
command of the same stream, which comes after in program order (R92); `own` tells whether those of the same command count. -/
def State.lineBehind (s : State) (i : Nat) (a : Access) (own : Bool) : Bool :=
  s.accesses.any (fun e => e.1 < i && e.2.core = a.core && e.2.line = a.line && e.2.spec.isSome = a.spec.isSome &&
    e.2.stage != .performed && (own || e.2.flight ≠ a.flight) && !(a.kind == .so && e.2.kind == .so && e.2.ref = a.ref && a.flight < e.2.flight))

/-- Whether an earlier `COLL` of the stream still has `SO` accesses to come. -/
def State.soColl (s : State) (a : Access) : Bool :=
  s.flights.any (fun f => f.1 < a.flight && f.2.ref = a.ref &&
    match f.2.work with
    | .collective _ so _ => so
    | _ => false)

/-- Whether an `SO` access may take its place (03 R92, R94): every access of its command has been accepted and none stands behind another of its line,
and no earlier `SO` access of its stream is open. (DEDUCED, log 18) -/
def State.soReady (s : State) (a : Access) : Bool :=
  s.accesses.all (fun e => e.2.flight ≠ a.flight || e.2.stage == .performed || (e.2.stage == .slice && !s.lineBehind e.1 e.2 false)) &&
    !s.accesses.any (fun e => e.2.kind == .so && e.2.ref = a.ref && e.2.flight < a.flight && e.2.stage != .performed) && !s.soColl a

/-- An access at the home where it is performed now. -/
def State.rehome (s : State) (a : Access) : Access :=
  let h := s.homeAt a.die a.pa
  { a with pa := h.2, die := h.1, slice := homeSlice h.2 }

/-- Every access of an `SO` command takes effect, in order: one place in the total order. -/
def State.performSo (s : State) (flight : Nat) : State :=
  s.accesses.foldl (fun t e =>
    match t.accesses.find? e.1 with
    | none => t
    | some a => if a.flight = flight && a.stage != .performed then t.takeEffect e.1 (t.rehome a) else t) s

/-- What a flight is still doing. -/
def State.workOf (s : State) (k : Nat) : Option Work :=
  match s.flights.find? k with
  | none => none
  | some f => some f.work

/-- The rows of a task that are performed at their homes, as its slot counts them (11 R325). -/
def State.rowsDone (s : State) (core e : Nat) : State :=
  match (s.coreOf core).trowel.pool.find? e with
  | none => s
  | some x =>
    let open_ := ((s.accesses.filter (fun a => a.2.flight = x.flight)).map (fun a => a.2.piece)).eraseDups.length
    s.modJob x.job (fun j => { j with slots := j.slots.set x.slot { j.slots[x.slot] with ok := x.issued - open_ } })

/-- The acknowledgement of a write: one fewer for its command. -/
def State.ackWrite (s : State) (i : Nat) (a : Access) : State :=
  let s1 := { s with accesses := s.accesses.erase i }
  match s.workOf a.flight with
  | some (.writes n) => if n ≤ 1 then s1.finish a.flight 0 else s1.modFlight a.flight (fun f => { f with work := .writes (n - 1) })
  | some (.task _ e) =>
    let s2 := s1.rowsDone a.core e
    if s2.accesses.any (fun b => b.2.flight = a.flight) then s2 else s2.post 0 .taskRowPerformed { a := a.core, b := e }
  | some (.collective key _ _) => s1.ensure 0 .collectiveComplete { a := key }
  | _ => s1

/-- A global access at its home: it waits for its order, is forwarded, or takes effect; a write comes here a second time with its
acknowledgement. -/
def State.access (s : State) (i : Nat) : State :=
  match s.accesses.find? i with
  | none => s
  | some a =>
    if a.stage == .performed then (if a.op.writes then s.ackWrite i a else s)
    else if s.lineBehind i a true then s.post 1 .globalAccessPerformed { a := i }
    else if a.kind == .so then
      if s.soReady a then (s.performSo a.flight).checkFences else s.post 1 .globalAccessPerformed { a := i }
    else if s.fwd a.pa ≠ a.pa then (s.setAccess i { a with forwarded := true }).later .migrationForward { a := i }
    else (s.takeEffect i a).checkFences

def execGlobalAccessPerformed (s : State) : Result := .next (s.access s.args.a)

/-- A forwarded access reaches the new home, where it is performed (20 R465). -/
def execMigrationForward (s : State) : Result :=
  let i := s.args.a
  .next (match s.accesses.find? i with
    | none => s
    | some a =>
      if a.stage == .performed then s else (s.setAccess i (s.rehome a)).access i)

/-! ### Replies -/

/-- The bytes of a piece arrive; a copy's lands later, a collective's joins its contribution. -/
def State.pieceIn (s : State) (a : Access) : State :=
  let fill (ps : Map Piece) := match ps.find? a.piece with
    | none => ps
    | some p => ps.set a.piece { p with bytes := some (a.value, a.vpoison) }
  let s1 := s.modFlight a.flight (fun f => { f with
    work := match f.work with
      | .land aw ps => .land aw (fill ps)
      | .convert c ps els scales => .convert c (fill ps) els scales
      | .collective key so ps => .collective key so (fill ps)
      | w => w })
  match s.workOf a.flight with
  | some (.collective key _ _) => s1.ensure 0 .collectiveComplete { a := key }
  | _ => s1.later .copyPieceLanding { a := a.flight, b := a.piece }

/-- A read's value returns (08 R240): the register of an `LDG` is written, or the piece of a copy is at hand. A poisoned value is the
context error `POISON_USE` of a real job and pauses a speculative one, whose reply then waits. -/
def State.reply (s : State) (i : Nat) : State :=
  match s.accesses.find? i with
  | none => s
  | some a =>
    let s1 := { s with accesses := s.accesses.erase i }
    match s.workOf a.flight with
    | some (.load d sz sx h va) =>
      if a.vpoison then
        let e : Err := { code := 11, ha := h, vaddr := va, paddr := BitVec.ofNat 64 (a.pa / 128 * 128) }
        if (s.jobOf a.ref.job).spec.isSome then (s.flightError a.flight e).later .globalReadReply { a := i }
        else s1.flightError a.flight e
      else (s1.modRef a.ref (fun t => t.writeData d sz sx (natOf a.value))).finish a.flight 0
    | some _ => s1.pieceIn a
    | none => s1

def execGlobalReadReply (s : State) : Result := .next (s.reply s.args.a)

end Sys2Proof.Machine
end

