-- ==== Sys2Proof/Machine/Arrival.lean ====
section
/-! DEFINITION. Arrival words (02 R77 to R79, 09 R258, R259) and fences (03 R95, 09 R260). -/

namespace Sys2Proof.Machine

/-- An arrival word's fields (02 R77). -/
structure AWord where
  target : Nat
  count : Nat
  gen : Nat
  errs : Nat
  flags : Nat
  deriving DecidableEq, Repr

def AWord.ofBytes (l : List Byte) : AWord := ⟨fieldOf l 0 4, fieldOf l 4 4, fieldOf l 8 4, fieldOf l 12 2, fieldOf l 14 2⟩

def AWord.bytes (w : AWord) : List Byte :=
  bytesOf 4 w.target ++ bytesOf 4 w.count ++ bytesOf 4 w.gen ++ bytesOf 2 w.errs ++ bytesOf 2 w.flags

/-- One landing of `n` bytes (02 R78); the second component is the internal error mark of the current generation. -/
def AWord.land (w : AWord) (err : Bool) (n : Nat) (faulted : Bool) : AWord × Bool :=
  let errs := if faulted then min (w.errs + 1) 65535 else w.errs
  let err := err || faulted
  if w.target = 0 then ({ w with errs := errs, count := min (w.count + n) 0xFFFFFFFF }, err)
  else if w.target ≤ w.count + n then
    ({ w with errs := errs, count := w.count + n - w.target, gen := (w.gen + 1) % 2 ^ 32
              flags := w.flags / 4 * 4 + (if err then 1 else 0) + (if w.target < w.count + n then 2 else 0) }, false)
  else ({ w with errs := errs, count := w.count + n }, err)

/-- Whether an `AWWAIT` that compares with `v` goes on at a word of generation `gen` (09 R259). -/
def awGo (gen : Nat) (v : BitVec 32) : Bool := 0 < (BitVec.ofNat 32 gen - v).toInt

/-- A stream that waits on an arrival word has seen an update of it. -/
def Stream.awSee (t : Stream) (a n : Nat) (gen : Nat → Nat) : Stream :=
  match t.awaits with
  | some (w, v, false) => if overlap a n w 16 && awGo (gen w) v then { t with awaits := some (w, v, true) } else t
  | _ => t

/-- The waits on arrival words of job `k` are evaluated after an update of the `n` bytes at window offset `a` (09 R259). -/
def State.awSeen (s : State) (k a n : Nat) : State :=
  let gen (w : Nat) : Nat := (AWord.ofBytes (s.scrRead (s.jobOf k) w 16)).gen
  s.modJob k (fun j => { j with
    a := j.a.awSee a n gen, m := j.m.awSee a n gen, v := j.v.awSee a n gen, x := j.x.awSee a n gen })

/-- A landing counted on the arrival word at window offset `a` of job `k`. -/
def State.landOn (s : State) (k a n : Nat) (faulted : Bool) : State :=
  let j := s.jobOf k
  let r := (AWord.ofBytes (s.scrRead j a 16)).land (j.awErr.contains a) n faulted
  ((s.scrWrite j a r.1.bytes false).modJob k (fun j => { j with
    awErr := if r.2 then NatSet.insert j.awErr a else NatSet.erase j.awErr a })).awSeen k a 16

/-- Window offset of the arrival word that a command names. -/
def awOffset (awo : BitVec 19) : Nat := 16 * awo.toNat

/-- `AWINIT` (09 R259). -/
def execAwinit (o : OpAw) (s : State) : Result :=
  command o.c { opc := 0x0D0, regs := [.s o.a, .s o.v] }
    (fun s => (s.scrOperand o.a (o.off.signExtend 64) 16 16).andThen (fun a =>
      let v := (s.sget o.v).toNat
      let w : AWord := ⟨v % 2 ^ 32, 0, v / 2 ^ 32, 0, 0⟩
      .data s (.awInit a (s.job.scrAddr a) w.bytes) (.after 2) [] none)) s

/-- `AWWAIT` (09 R259): until s32(GEN − sB[31:0]) > 0, now or after an update of the word while it waits. -/
def awwaitBody (o : OpAw) (s : State) : Act :=
  (s.scrOperand o.a (o.off.signExtend 64) 16 16).andThen (fun a =>
    let v := (s.sget o.v).setWidth 32
    if awGo (AWord.ofBytes (s.scrRead s.job a 16)).gen v || s.st.awaits == some (a, v, true) then
      .done s 0
    else .wait (s.modSt (fun t => { t with awaits := some (a, v, false) })))

def execAwwait (o : OpAw) (s : State) : Result :=
  command o.c { opc := 0x0D1, regs := [.s o.a, .s o.v] } (awwaitBody o) s

/-- `AWRD` and `AWRD.CLR` (09 R259): sA and sA + 1 take the word; `.CLR` clears ERRS and FLAGS in the same update. -/
def awrdBody (o : OpAwrd) (clr : Bool) (s : State) : Act :=
  (s.scrOperand o.a (o.off.signExtend 64) 16 16).andThen (fun a =>
    .data s (.awRead o.d a (s.job.scrAddr a) clr) (.after 3) [] none)

def execAwrd (o : OpAwrd) (s : State) : Result :=
  command o.c { opc := 0x0D2, regs := [.s o.d, .s (pairReg o.d), .s o.a], dst := dataRegs o.d 4 } (awrdBody o false) s

def execAwrdClr (o : OpAwrd) (s : State) : Result :=
  command o.c { opc := 0x0D2, regs := [.s o.d, .s (pairReg o.d), .s o.a], dst := dataRegs o.d 4 } (awrdBody o true) s

/-- A fence issues as a flight that holds back what 03 R95 names, and completes when its conditions hold; where they hold at once it
completes at issue. -/
def fenceBody (o : OpFence) (u : Use) (acq : Bool) (s : State) : Act :=
  let ready := if acq then s.acquired s.cur o.scope s.nextId else s.released s.cur o.scope s.nextId s.now
  let s1 := s.fenceStart s.cur acq o.scope
  if ready then .done s1 0 else .fly (s1.fly o.c u (.fence acq o.scope s.now) [])

/-- `FENCE.rel scope`. -/
def execFenceRel (o : OpFence) (s : State) : Result := command o.c { opc := 0x0D3 } (fenceBody o { opc := 0x0D3 } false) s

/-- `FENCE.acq scope`. -/
def execFenceAcq (o : OpFence) (s : State) : Result := command o.c { opc := 0x0D3 } (fenceBody o { opc := 0x0D3 } true) s

end Sys2Proof.Machine
end

