-- ==== Sys2Proof/Machine/Pred.lean ====
section
/-! DEFINITION. Predicates and conditions (07 R199 to R204). -/

namespace Sys2Proof.Machine

/-- A predicate result. -/
def predDone (p : PReg) (v : Bool) (s : State) : Act := .done (s.pput s.cur p (some v)) 0

/-- `PSETI` (07 R202). -/
def execPseti (o : OpPset) (s : State) : Result := command o.c { opc := 0x020, regs := [.p o.p] } (predDone o.p o.v) s

/-- `PMOV pA, pB`. -/
def execPmovPp (o : OpPP) (s : State) : Result :=
  command o.c { opc := 0x021, regs := [.p o.d], preds := [o.a] } (fun s => predDone o.d (s.job.pred o.a) s) s

/-- `PMOV pA, sB`. -/
def execPmovPs (o : OpPS) (s : State) : Result :=
  command o.c { opc := 0x021, regs := [.p o.d, .s o.a] } (fun s => predDone o.d (s.sget o.a != 0) s) s

/-- `PMOV sA, pB`. -/
def execPmovSp (o : OpSP) (s : State) : Result :=
  command o.c { opc := 0x021, regs := [.s o.d], preds := [o.a] }
    (fun s => .done (s.sput o.d (if s.job.pred o.a then 1 else 0)) 0) s

/-- `PAND`. -/
def execPand (o : OpPPP) (s : State) : Result :=
  command o.c { opc := 0x022, regs := [.p o.d], preds := [o.a, o.b] }
    (fun s => predDone o.d (s.job.pred o.a && s.job.pred o.b) s) s

/-- `POR`. -/
def execPor (o : OpPPP) (s : State) : Result :=
  command o.c { opc := 0x023, regs := [.p o.d], preds := [o.a, o.b] }
    (fun s => predDone o.d (s.job.pred o.a || s.job.pred o.b) s) s

/-- `PXOR`. -/
def execPxor (o : OpPPP) (s : State) : Result :=
  command o.c { opc := 0x024, regs := [.p o.d], preds := [o.a, o.b] }
    (fun s => predDone o.d (s.job.pred o.a != s.job.pred o.b) s) s

/-- `PNOT`. -/
def execPnot (o : OpPP) (s : State) : Result :=
  command o.c { opc := 0x025, regs := [.p o.d], preds := [o.a] } (fun s => predDone o.d (!s.job.pred o.a) s) s

/-- `PUNRES`: unresolved, the value kept. -/
def execPunres (o : OpP) (s : State) : Result :=
  command o.c { opc := 0x026, regs := [.p o.d] } (fun s => .done (s.pput s.cur o.d none) 0) s

/-- `CMP.cc pA, sB, sC`. -/
def execCmp (o : OpCmp) (s : State) : Result :=
  command o.c { opc := 0x027, regs := [.p o.d, .s o.a, .s o.b] }
    (fun s => predDone o.d (ccHolds o.cc (s.sget o.a) (s.sget o.b)) s) s

/-- `CMP.cc pA, sB, imm`. -/
def execCmpImm (o : OpCmpI) (s : State) : Result :=
  command o.c { opc := 0x027, regs := [.p o.d, .s o.a] }
    (fun s => predDone o.d (ccHolds o.cc (s.sget o.a) (o.imm.signExtend 64)) s) s

/-- The low 32 bits of a register as an FP32 code. -/
def lowF32 (w : Word) : Nat := w.toNat % 2 ^ 32

/-- `FCMP.cc` on the FP32 values of the low halves. -/
def execFcmp (o : OpFcmp) (s : State) : Result :=
  command o.c { opc := 0x028, regs := [.p o.d, .s o.a, .s o.b] }
    (fun s => predDone o.d (fccHolds o.cc (numOrder (f32 (lowF32 (s.sget o.a))) (f32 (lowF32 (s.sget o.b))))) s) s

/-- Lane `i` of a bitmap. -/
def laneBit (v : List Byte) (i : Nat) : Bool := (v.getD (i / 8) 0).getLsbD (i % 8)

/-- The vote over the lanes of a bitmap. -/
def voteOf (v : List Byte) (n : Nat) (all : Bool) : Bool :=
  let lanes := (List.range n).map (laneBit v)
  if all then lanes.all id else lanes.any id

/-- `VANY` and `VALL` (07 R204): the predicate is written 2 + ceil(n / 2,048) cycles after issue. A poisoned byte of the bitmap is `POISON_USE` (20 R477). -/
def voteBody (o : OpVote) (all : Bool) (s : State) : Act :=
  let n := (s.sget o.n).toNat
  if 65535 < n then Act.code 23
  else if n = 0 then .slow (s.pput s.cur o.d (some all)) 0 2 [] none
  else (s.scrOperand o.a (o.off.signExtend 64) ((n + 7) / 8) 1).andThen (fun a =>
    .data s (.vote o.d (s.job.scrAddr a) n all) (.after (2 + (n + 2047) / 2048)) [] none)

def execVany (o : OpVote) (s : State) : Result :=
  command o.c { opc := 0x029, regs := [.p o.d, .s o.a, .s o.n], dst := [.p o.d] } (voteBody o false) s

def execVall (o : OpVote) (s : State) : Result :=
  command o.c { opc := 0x02A, regs := [.p o.d, .s o.a, .s o.n], dst := [.p o.d] } (voteBody o true) s

end Sys2Proof.Machine
end

