-- ==== Sys2Proof/Machine/Float.lean ====
section
/-! DEFINITION. Scalar floating point (08 R223 to R227). -/

namespace Sys2Proof.Machine

/-- A code zero-extended to a register. -/
def codeWord (n : Nat) : Word := BitVec.ofNat 64 n

/-- Two FP32 sources: sA ← f(b, c), with its flags. -/
def fp3 (opc lat : Nat) (f : Nat → Nat → Nat × Flags) (o : Op3) (s : State) : Result :=
  command o.c { opc := opc, regs := [.s o.d, .s o.a, .s o.b], lat := lat, dst := [.s o.d] }
    (fun s =>
      let r := f (lowF32 (s.sget o.a)) (lowF32 (s.sget o.b))
      .done (s.sput o.d (codeWord r.1)) r.2) s

/-- One FP32 source. -/
def fp2 (opc lat : Nat) (f : Nat → Nat × Flags) (o : Op2) (s : State) : Result :=
  command o.c { opc := opc, regs := [.s o.d, .s o.a], lat := lat, dst := [.s o.d] }
    (fun s =>
      let r := f (lowF32 (s.sget o.a))
      .done (s.sput o.d (codeWord r.1)) r.2) s

def execFadd (o : Op3) (s : State) : Result := fp3 0x090 3 f32Add o s
def execFsub (o : Op3) (s : State) : Result := fp3 0x091 3 f32Sub o s
def execFmul (o : Op3) (s : State) : Result := fp3 0x092 3 f32Mul o s

/-- `FFMA`: b × c + d, rounded once. -/
def execFfma (o : Op4) (s : State) : Result :=
  command o.c { opc := 0x093, regs := [.s o.d, .s o.a, .s o.b, .s o.e], lat := 3, dst := [.s o.d] }
    (fun s =>
      let r := f32Fma (lowF32 (s.sget o.a)) (lowF32 (s.sget o.b)) (lowF32 (s.sget o.e))
      .done (s.sput o.d (codeWord r.1)) r.2) s

def execFdiv (o : Op3) (s : State) : Result := fp3 0x094 12 f32Div o s
def execFsqrt (o : Op2) (s : State) : Result := fp2 0x095 14 (fun b => toF32 (Num.sqrt (f32 b))) o s

/-- `FMIN`: no flag (08 R225). -/
def execFmin (o : Op3) (s : State) : Result := fp3 0x096 0 (fun b c => ((toF32 (Num.min (f32 b) (f32 c), 0)).1, 0)) o s

/-- `FMAX`. -/
def execFmax (o : Op3) (s : State) : Result := fp3 0x097 0 (fun b c => ((toF32 (Num.max (f32 b) (f32 c), 0)).1, 0)) o s

/-- `FABS` clears bit 31, NaN payloads included. -/
def execFabs (o : Op2) (s : State) : Result := fp2 0x098 0 (fun b => (b % 2 ^ 31, 0)) o s

/-- `FNEG` inverts bit 31. -/
def execFneg (o : Op2) (s : State) : Result := fp2 0x099 0 (fun b => (b ^^^ 2 ^ 31, 0)) o s

/-- The source value of a conversion (08 R226): an integer exactly, any other format with its flushing. -/
def cvtSource (m : Fmode) (fmt bits : Nat) : Num :=
  if isIntFmt fmt then Num.ofInt (toSigned (fmtBits fmt) (bits % 2 ^ fmtBits fmt)) else fetchNum m fmt (bits % 2 ^ fmtBits fmt)

/-- Converts a code from one format to another (08 R226): the code written, and flags. -/
def cvtCode (m : Fmode) (src dst bits : Nat) : Nat × Flags :=
  let x := cvtSource m src bits
  if isIntFmt dst then convertInt x dst else convertNum m x dst

/-- A code as a register holds it: INT8 and INT32 are sign-extended. -/
def codeToReg (fmt code : Nat) : Word :=
  if isIntFmt fmt then BitVec.ofInt 64 (toSigned (fmtBits fmt) code) else BitVec.ofNat 64 code

/-- `FCVT.from.to`. -/
def execFcvt (o : OpFcvt) (s : State) : Result :=
  command o.c { opc := 0x09A, regs := [.s o.d, .s o.a], lat := 1, dst := [.s o.d] }
    (fun s =>
      let r := cvtCode s.job.fmode o.src o.dst (s.sget o.a).toNat
      .done (s.sput o.d (codeToReg o.dst r.1)) r.2) s

/-- `FCLASS.fmt`: one bit set (08 R227). -/
def execFclass (o : OpFclass) (s : State) : Result :=
  command o.c { opc := 0x09B, regs := [.s o.d, .s o.a] }
    (fun s => .done (s.sput o.d (BitVec.ofNat 64 (2 ^ classOf o.fmt ((s.sget o.a).toNat % 2 ^ fmtBits o.fmt)))) 0) s

end Sys2Proof.Machine
end

