-- ==== Sys2Proof/Machine/Gen.lean ====
section
/-! DEFINITION. Generators (10 R280 to R283): their fields, the walk of their elements, and the instructions that configure them. -/

namespace Sys2Proof.Machine

/-- A generator value. -/
abbrev GenWord := BitVec 128

def genBase (g : GenWord) : Nat := (g.extractLsb' 0 24).toNat
def genRstr (g : GenWord) : Int := (g.extractLsb' 32 24).toInt
def genCount (g : GenWord) : Nat := (g.extractLsb' 64 16).toNat
def genRowlen (g : GenWord) : Nat := (g.extractLsb' 80 16).toNat
def genFmt (g : GenWord) : Nat := (g.extractLsb' 100 4).toNat
def genGeom (g : GenWord) : Nat := (g.extractLsb' 104 3).toNat
def genSstr (g : GenWord) : Nat := (g.extractLsb' 112 16).toNat

/-- Elements per row: COUNT where ROWLEN is 0 (10 R281). -/
def genRow (g : GenWord) : Nat := if genRowlen g = 0 then genCount g else genRowlen g

/-- Rows of a walk. -/
def genRows (g : GenWord) : Nat := if genRow g = 0 then 0 else (genCount g + genRow g - 1) / genRow g

/-- Format code of a mask: one bit per element. -/
def fmtMask : Nat := 9

/-- `walk` of 10 R281: byte address of element `n`; of a mask, of the byte that holds its bit. -/
def genWalk (g : GenWord) (n : Nat) : Int :=
  if genFmt g = fmtMask then genBase g + n / 8
  else
    let row := n / genRow g
    let col := n % genRow g
    (genBase g : Int) + row * genRstr g + col * fmtBytes (genFmt g)

/-- The generator with `n` bits at `lo` replaced. -/
def setField (g : GenWord) (lo n v : Nat) : GenWord :=
  (g &&& ~~~(BitVec.ofNat 128 (2 ^ n - 1) <<< lo)) ||| (BitVec.ofNat 128 (v % 2 ^ n) <<< lo)

/-- Bits that 10 R280 reserves. -/
def genReserved : GenWord := BitVec.ofNat 128 (0x1F * 2 ^ 107 + 0xF * 2 ^ 96 + 0xFF * 2 ^ 56 + 0xFF * 2 ^ 24)

/-- Every other bit. -/
def genMask : GenWord := ~~~genReserved

/-- The checks of `GFMT` on a whole value (10 R283). -/
def genOk (g : GenWord) : Bool := g &&& genReserved = 0 && genFmt g ≤ 9 && genGeom g ≤ 5 && genSstr g % 2 = 0

def useG (opc : Nat) (o : OpG) : Use := { opc := opc, regs := [.g o.g, .s o.a] }

/-- `GCFG.LD`: 16 scratch bytes, checked for poison and then for their fields when they are read (10 R283, 03 R97). -/
def execGcfgLd (o : OpG) (s : State) : Result :=
  command o.c { useG 0x0F0 o with dst := [.g o.g] }
    (fun s => (s.scrOperand o.a o.imm 16 16).andThen (fun a => .data s (.loadGen o.g (s.job.scrAddr a)) (.after 3) [] none)) s

/-- `GCFG.ST`. -/
def execGcfgSt (o : OpG) (s : State) : Result :=
  command o.c (useG 0x0F0 o)
    (fun s => (s.scrOperand o.a o.imm 16 16).andThen (fun a =>
      .data s (.store (s.job.scrAddr a) (bytesOf 16 (s.gget o.g).toNat)) (.after 2) [] none)) s

/-- `GCFG.MOV`. -/
def execGcfgMov (o : OpGG) (s : State) : Result :=
  command o.c { opc := 0x0F0, regs := [.g o.g, .g o.a] } (fun s => .done (s.gput o.g (s.gget o.a)) 0) s

/-- A generator with a field of `n` bits set; none for a value that is not below 2^n (10 R283). -/
def genField (lo n v : Nat) (g : GenWord) : Option GenWord := if 2 ^ n ≤ v then none else some (setField g lo n v)

/-- `GSTRIDE`: a signed 24-bit row stride. -/
def genStride (v : Word) (g : GenWord) : Option GenWord :=
  if v.toInt < -(2 ^ 23) || 2 ^ 23 ≤ v.toInt then none else some (setField g 32 24 v.toNat)

/-- `GFMT`: SSTR, GEOM and FMT. -/
def genFormat (w : Word) (g : GenWord) : Option GenWord :=
  let v := w.toNat
  if 2 ^ 32 ≤ v || natBits v 7 9 ≠ 0 || 9 < natBits v 0 4 || 5 < natBits v 4 3 || natBits v 16 1 = 1 then none
  else some (setField (setField (setField g 100 4 v) 104 3 (natBits v 4 3)) 112 16 (natBits v 16 16))

/-- A generator set to what `f` gives, or `GEN_RANGE`. -/
def genSet (opc : Nat) (f : State → GenWord → Option GenWord) (o : OpG) (s : State) : Result :=
  command o.c (useG opc o)
    (fun s =>
      match f s (s.gget o.g) with
      | none => Act.code 31
      | some g => .done (s.gput o.g g) 0) s

def execGbase (o : OpG) (s : State) : Result := genSet 0x0F1 (fun s => genField 0 24 (s.sget o.a + o.imm).toNat) o s
def execGcount (o : OpG) (s : State) : Result := genSet 0x0F2 (fun s => genField 64 16 (s.sget o.a + o.imm).toNat) o s
def execGcountRow (o : OpG) (s : State) : Result := genSet 0x0F2 (fun s => genField 80 16 (s.sget o.a + o.imm).toNat) o s
def execGstride (o : OpG) (s : State) : Result := genSet 0x0F3 (fun s => genStride (s.sget o.a + o.imm)) o s

/-- `GFMT` takes its fields from sB or'd with the immediate. -/
def execGfmt (o : OpG) (s : State) : Result := genSet 0x0F4 (fun s => genFormat (s.sget o.a ||| o.imm)) o s

end Sys2Proof.Machine
end

