-- ==== Sys2Proof/Machine/Transc.lean ====
section
/-! DEFINITION. The transcendental functions of 04 R146 to R150 on FP32 codes.

A function answers its FP32 code, and the flags of its special cases and of the operation whose value it returns; the
operations before that one set no flag (04 R146). The tables are the FP32 roundings of the exact expressions of
R147. -/

namespace Sys2Proof.Machine.Transc

/-- 64 / ln 2 -/
def inv64 : Nat := 0x42B8AA3B
/-- ln 2 / 64 -/
def l1 : Nat := 0x3C317218
/-- (ln 2 / 64) − L1 -/
def l2 : Nat := 0xAE02E308
/-- 1/6 -/
def c6 : Nat := 0x3E2AAAAB
/-- 1/3 -/
def c3 : Nat := 0x3EAAAAAB
/-- 1/5 -/
def c5 : Nat := 0x3E4CCCCD
/-- ln 2 -/
def ln2h : Nat := 0x3F317218
/-- ln 2 − LN2H -/
def ln2l : Nat := 0xB102E308
/-- −1/3 -/
def t3 : Nat := 0xBEAAAAAB
/-- 2/15 -/
def t5 : Nat := 0x3E088889
/-- −17/315 -/
def t7 : Nat := 0xBD5D0DD1
/-- sqrt(2/π) -/
def s1 : Nat := 0x3F4C422A
/-- 0.044715 × sqrt(2/π) -/
def s2 : Nat := 0x3D122279

/-- 2^(j/64) -/
def e2 : List Nat :=
  [0x3F800000, 0x3F8164D2, 0x3F82CD87, 0x3F843A29, 0x3F85AAC3, 0x3F871F62, 0x3F88980F, 0x3F8A14D5,
   0x3F8B95C2, 0x3F8D1ADF, 0x3F8EA43A, 0x3F9031DC, 0x3F91C3D3, 0x3F935A2B, 0x3F94F4F0, 0x3F96942D,
   0x3F9837F0, 0x3F99E046, 0x3F9B8D3A, 0x3F9D3EDA, 0x3F9EF532, 0x3FA0B051, 0x3FA27043, 0x3FA43516,
   0x3FA5FED7, 0x3FA7CD94, 0x3FA9A15B, 0x3FAB7A3A, 0x3FAD583F, 0x3FAF3B79, 0x3FB123F6, 0x3FB311C4] ++
  [0x3FB504F3, 0x3FB6FD92, 0x3FB8FBAF, 0x3FBAFF5B, 0x3FBD08A4, 0x3FBF179A, 0x3FC12C4D, 0x3FC346CD,
   0x3FC5672A, 0x3FC78D75, 0x3FC9B9BE, 0x3FCBEC15, 0x3FCE248C, 0x3FD06334, 0x3FD2A81E, 0x3FD4F35B,
   0x3FD744FD, 0x3FD99D16, 0x3FDBFBB8, 0x3FDE60F5, 0x3FE0CCDF, 0x3FE33F89, 0x3FE5B907, 0x3FE8396A,
   0x3FEAC0C7, 0x3FED4F30, 0x3FEFE4BA, 0x3FF28177, 0x3FF5257D, 0x3FF7D0DF, 0x3FFA83B3, 0x3FFD3E0C]
/-- 1 / cj -/
def rc : List Nat :=
  [0x3FA72F05, 0x3FA3D70A, 0x3FA0A0A1, 0x3F9D89D9, 0x3F9A90E8, 0x3F97B426, 0x3F94F209, 0x3F924925,
   0x3F8FB824, 0x3F8D3DCB, 0x3F8AD8F3, 0x3F888889, 0x3F864B8A, 0x3F842108, 0x3F820821, 0x3F800000,
   0x3F800000, 0x3F7C0FC1, 0x3F783E10, 0x3F74898D, 0x3F70F0F1, 0x3F6D7304, 0x3F6A0EA1, 0x3F66C2B4,
   0x3F638E39, 0x3F607038, 0x3F5D67C9, 0x3F5A740E, 0x3F579436, 0x3F54C77B, 0x3F520D21, 0x3F4F6475] ++
  [0x3F4CCCCD, 0x3F4A4588, 0x3F47CE0C, 0x3F4565C8, 0x3F430C31, 0x3F40C0C1, 0x3F3E82FA, 0x3F3C5264,
   0x3F3A2E8C, 0x3F381703, 0x3F360B61, 0x3F340B41, 0x3F321643, 0x3F302C0B, 0x3F2E4C41, 0x3F2C7692]
/-- −ln(RC[j]) -/
def lg : List Nat :=
  [0xBE88BC73, 0xBE7CC8E2, 0xBE6881C2, 0xBE549F6C, 0xBE411E0C, 0xBE2DFA04, 0xBE1B2FE3, 0xBE08BC77,
   0xBDED393C, 0xBDC99AF2, 0xBDA6988B, 0xBD842CCD, 0xBD44A542, 0xBD020AE4, 0xBC8102D2, 0x00000000,
   0x00000000, 0x3C7E0545, 0x3CFC14C8, 0x3D3BA2CE, 0x3D785185, 0x3D9A0EBA, 0x3DB78694, 0x3DD4936C,
   0x3DF1383A, 0x3E06BBF4, 0x3E14AA96, 0x3E22695A, 0x3E2FF983, 0x3E3D5C48, 0x3E4A92D4, 0x3E579E49] ++
  [0x3E647FBD, 0x3E71383B, 0x3E7DC8C6, 0x3E851928, 0x3E8B3AE5, 0x3E914A0F, 0x3E974716, 0x3E9D3263,
   0x3EA30C5D, 0x3EA8D56C, 0x3EAE8DED, 0x3EB43640, 0x3EB9CEBF, 0x3EBF57C2, 0x3EC4D19D, 0x3ECA3C9F]
/-- 1 / (1 + (i + 0.5)/128) -/
def rt : List Nat :=
  [0x3F7F00FF, 0x3F7D08E5, 0x3F7B1885, 0x3F792FB2, 0x3F774E40, 0x3F757404, 0x3F73A0D5, 0x3F71D48C,
   0x3F700F01, 0x3F6E500F, 0x3F6C9791, 0x3F6AE564, 0x3F693965, 0x3F679373, 0x3F65F36D, 0x3F645933,
   0x3F62C4A7, 0x3F6135AA, 0x3F5FAC1F, 0x3F5E27EB, 0x3F5CA8F1, 0x3F5B2F17, 0x3F59BA42, 0x3F584A5A,
   0x3F56DF44, 0x3F5578E9, 0x3F541733, 0x3F52BA08, 0x3F516154, 0x3F500D01, 0x3F4EBCF9, 0x3F4D7127] ++
  [0x3F4C2978, 0x3F4AE5D8, 0x3F49A634, 0x3F486A79, 0x3F473294, 0x3F45FE74, 0x3F44CE08, 0x3F43A13E,
   0x3F427806, 0x3F415250, 0x3F40300C, 0x3F3F112B, 0x3F3DF59D, 0x3F3CDD53, 0x3F3BC841, 0x3F3AB656,
   0x3F39A786, 0x3F389BC3, 0x3F379301, 0x3F368D31, 0x3F358A48, 0x3F348A3A, 0x3F338CFA, 0x3F32927C,
   0x3F319AB6, 0x3F30A59B, 0x3F2FB322, 0x3F2EC33E, 0x3F2DD5E6, 0x3F2CEB10, 0x3F2C02B0, 0x3F2B1CBE] ++
  [0x3F2A392F, 0x3F2957FB, 0x3F287917, 0x3F279C7B, 0x3F26C21E, 0x3F25E9F7, 0x3F2513FD, 0x3F244029,
   0x3F236E72, 0x3F229ECF, 0x3F21D13A, 0x3F2105A9, 0x3F203C17, 0x3F1F747A, 0x3F1EAECD, 0x3F1DEB07,
   0x3F1D2922, 0x3F1C6917, 0x3F1BAADF, 0x3F1AEE73, 0x3F1A33CD, 0x3F197AE7, 0x3F18C3BB, 0x3F180E41,
   0x3F175A75, 0x3F16A850, 0x3F15F7CC, 0x3F1548E5, 0x3F149B93, 0x3F13EFD2, 0x3F13459C, 0x3F129CEC] ++
  [0x3F11F5BD, 0x3F115009, 0x3F10ABCC, 0x3F100901, 0x3F0F67A2, 0x3F0EC7AB, 0x3F0E2918, 0x3F0D8BE3,
   0x3F0CF009, 0x3F0C5584, 0x3F0BBC51, 0x3F0B246B, 0x3F0A8DCD, 0x3F09F874, 0x3F09645C, 0x3F08D181,
   0x3F083FDE, 0x3F07AF70, 0x3F072033, 0x3F069223, 0x3F06053C, 0x3F05797C, 0x3F04EEDD, 0x3F04655E,
   0x3F03DCF9, 0x3F0355AD, 0x3F02CF75, 0x3F024A4E, 0x3F01C636, 0x3F014328, 0x3F00C122, 0x3F004020]
/-- 1 / sqrt(1 + (i + 0.5)/32) -/
def st : List Nat :=
  [0x3F7E05EC, 0x3F7A33F9, 0x3F768CDC, 0x3F730D8A, 0x3F6FB345, 0x3F6C7B90, 0x3F69642A, 0x3F666B02,
   0x3F638E39, 0x3F60CC16, 0x3F5E2305, 0x3F5B9193, 0x3F59166B, 0x3F56B051, 0x3F545E22, 0x3F521ED0,
   0x3F4FF162, 0x3F4DD4ED, 0x3F4BC89B, 0x3F49CBA2, 0x3F47DD45, 0x3F45FCD6, 0x3F4429AF, 0x3F426337,
   0x3F40A8DE, 0x3F3EFA1C, 0x3F3D5671, 0x3F3BBD67, 0x3F3A2E8C, 0x3F38A975, 0x3F372DBF, 0x3F35BB09] ++
  [0x3F3450FC, 0x3F32EF41, 0x3F319589, 0x3F304387, 0x3F2EF8F2, 0x3F2DB587, 0x3F2C7904, 0x3F2B432A,
   0x3F2A13C0, 0x3F28EA8C, 0x3F27C759, 0x3F26A9F4, 0x3F25922C, 0x3F247FD3, 0x3F2372BD, 0x3F226ABE,
   0x3F2167AF, 0x3F206968, 0x3F1F6FC4, 0x3F1E7AA0, 0x3F1D89D9, 0x3F1C9D4E, 0x3F1BB4E1, 0x3F1AD073,
   0x3F19EFE6, 0x3F191320, 0x3F183A05, 0x3F17647C, 0x3F16926C, 0x3F15C3BC, 0x3F14F857, 0x3F143026] ++
  [0x3F136B13, 0x3F12A90B, 0x3F11E9F9, 0x3F112DCA, 0x3F10746D, 0x3F0FBDCE, 0x3F0F09DD, 0x3F0E5889,
   0x3F0DA9C2, 0x3F0CFD79, 0x3F0C539F, 0x3F0BAC25, 0x3F0B06FD, 0x3F0A641A, 0x3F09C36D, 0x3F0924EC,
   0x3F088889, 0x3F07EE37, 0x3F0755ED, 0x3F06BF9E, 0x3F062B40, 0x3F0598C7, 0x3F05082A, 0x3F04795F,
   0x3F03EC5C, 0x3F036117, 0x3F02D788, 0x3F024FA6, 0x3F01C967, 0x3F0144C4, 0x3F00C1B4, 0x3F004030]

/-- Entry `i` of a table. -/
def at' (t : List Nat) (i : Nat) : Nat := t.getD i 0

def one : Nat := 0x3F800000
def half : Nat := 0x3F000000
def two : Nat := 0x40000000

/-! Operations whose flags are dropped. -/
def add (a b : Nat) : Nat := (f32Add a b).1
def sub (a b : Nat) : Nat := (f32Sub a b).1
def mul (a b : Nat) : Nat := (f32Mul a b).1
def fma (a b c : Nat) : Nat := (f32Fma a b c).1
def neg (a : Nat) : Nat := a ^^^ 0x80000000
def mag (a : Nat) : Nat := a % 2 ^ 31
def isNeg (a : Nat) : Bool := a.testBit 31
/-- The magnitude of `a` with the sign of `x`. -/
def copysign (a x : Nat) : Nat := mag a + (if isNeg x then 2 ^ 31 else 0)
def isNan (a : Nat) : Bool := (f32 a).isNan
def quiet (a : Nat) : Nat × Flags := (quietBits 7 a, 0)
def nan : Nat := 0x7FC00000
def inf : Nat := 0x7F800000

/-- Whether the value of `a` is below that of `b` (neither is NaN). -/
def lt (a b : Nat) : Bool := Num.cmp false (f32 a) (f32 b) == .lt

/-- `scale(v, n)`: `v × 2^n` rounded to FP32. -/
def scale (v : Nat) (n : Int) : Nat × Flags :=
  match f32 v with
  | .fin s m e => convertNum 0 (.fin s m (e + n)) 7
  | x => convertNum 0 x 7

/-- An integer as FP32. -/
def ofInt (i : Int) : Nat := (convertNum 0 (Num.ofInt i) 7).1

/-- `rint` of an FP32 value. -/
def rint (x : Nat) : Int :=
  match f32 x with
  | .fin s m e => roundInt s m e
  | _ => 0

/-- `normalise(x)`: the FP32 code of m in [1, 2) and the exponent e. -/
def normalise (x : Nat) : Nat × Int :=
  match f32 x with
  | .fin _ m e =>
    let l := Nat.log2 m
    ((convertNum 0 (.fin false m (-(l : Int))) 7).1, e + l)
  | _ => (one, 0)

/-- The largest integer not above an FP32 value that is not negative. -/
def floorNat (x : Nat) : Nat :=
  match f32 x with
  | .fin _ m e => if 0 ≤ e then m * 2 ^ e.toNat else m / 2 ^ (-e).toNat
  | _ => 0

/-- `vexp` (04 R148). -/
def vexp (x : Nat) : Nat × Flags :=
  if isNan x then quiet x
  else
    let x := if lt 0x42B20000 x then 0x42B20000 else x
    let x := if lt x 0xC2D00000 then 0xC2D00000 else x
    let k := rint (mul x inv64)
    let n := k / 64
    let j := (k - 64 * n).toNat
    let mk := ofInt (-k)
    let r := fma mk l1 x
    let r := fma mk l2 r
    let u := fma r c6 half
    let u := mul u r
    let u := fma u r r
    scale (fma (at' e2 j) u (at' e2 j)) n

/-- `vlog` (04 R148). -/
def vlog (x : Nat) : Nat × Flags :=
  if isNan x then quiet x
  else if mag x = 0 then (0xFF800000, Flags.dz)
  else if isNeg x then (nan, Flags.iv)
  else if x = inf then (inf, 0)
  else
    let me := normalise x
    let big := !lt me.1 0x3FC00000
    let m := if big then mul me.1 half else me.1
    let e := ofInt (if big then me.2 + 1 else me.2)
    let j := floorNat (mul (sub m 0x3F400000) 0x42800000)
    let r := fma m (at' rc j) (neg one)
    let q := fma r c5 0xBE800000
    let q := fma q r c3
    let q := fma q r 0xBF000000
    let q := mul q r
    let q := fma q r r
    let y := fma e ln2l (at' lg j)
    let y := add y q
    f32Fma e ln2h y

/-- `vrcp` (04 R149). -/
def vrcp (x : Nat) : Nat × Flags :=
  if isNan x then quiet x
  else if mag x = 0 then (copysign inf x, Flags.dz)
  else if mag x = inf then (copysign 0 x, 0)
  else
    let me := normalise x
    let m := me.1
    let y := at' rt (floorNat (mul (sub m one) 0x43000000))
    let d := fma (neg m) y one
    let y := fma y d y
    let d := fma (neg m) y one
    let y := fma y d y
    let r := scale y (-me.2)
    (copysign r.1 x, r.2)

/-- One refinement step of `vrsq`. -/
def rsqStep (m y : Nat) : Nat :=
  let h := mul y y
  let d := fma (neg m) h one
  fma (mul y half) d y

/-- `vrsq` (04 R149). -/
def vrsq (x : Nat) : Nat × Flags :=
  if isNan x then quiet x
  else if mag x = 0 then (copysign inf x, Flags.dz)
  else if isNeg x then (nan, Flags.iv)
  else if x = inf then (0, 0)
  else
    let me := normalise x
    let odd := me.2 % 2 = 1
    let m := if odd then mul me.1 two else me.1
    let e := if odd then me.2 - 1 else me.2
    let y := at' st (floorNat (mul (sub m one) 0x42000000))
    scale (rsqStep m (rsqStep m y)) (-(e / 2))

/-- `vtanh` (04 R150). -/
def vtanh (x : Nat) : Nat × Flags :=
  if isNan x then quiet x
  else
    let a := mag x
    if lt a 0x39800000 then (x, 0)
    else if !lt a 0x41200000 then (copysign one x, 0)
    else if lt a 0x3E000000 then
      let z := mul a a
      let p := fma z t7 t5
      let p := fma p z t3
      let p := mul p z
      let r := f32Fma p a a
      (copysign r.1 x, r.2)
    else
      let t := (vexp (mul 0xC0000000 a)).1
      let r := f32Mul (sub one t) (vrcp (add one t)).1
      (copysign r.1 x, r.2)

/-- `vsigm` (04 R150). -/
def vsigm (x : Nat) : Nat × Flags :=
  if isNan x then quiet x
  else if lt x 0xC2A00000 then vexp x
  else vrcp (add one (vexp (neg x)).1)

/-- `vsilu` (04 R150). -/
def vsilu (x : Nat) : Nat × Flags :=
  if x = 0xFF800000 then (0x80000000, 0) else f32Mul x (vsigm x).1

/-- `vgelu` (04 R150). -/
def vgelu (x : Nat) : Nat × Flags :=
  if x = 0xFF800000 then (0x80000000, 0)
  else
    let z := mul x (fma s2 (mul x x) s1)
    f32Mul x (vsigm (mul two z)).1

end Sys2Proof.Machine.Transc
end

