-- ==== Sys2Proof/Machine/Copy.lean ====
section
/-! DEFINITION. Copies, gathers and accumulator copies (09 R250 to R257), scaled blocks (04 R134 to R136, 09 R254), memory-side top-k
(09 R277, R278), and the landing of a copy's pieces. -/

namespace Sys2Proof.Machine

/-! ### Engines and pieces -/

/-- Whether copy engine `e` of a core serves a command. -/
def State.engineBusy (s : State) (core e : Nat) : Bool :=
  s.flights.any (fun f => f.2.engine = some e && (s.jobOf f.2.ref.job).coreKey = core)

/-- The idle copy engines of the running job's core, the lowest-numbered first (09 R251). -/
def State.idleEngines (s : State) : List Nat := (List.range 4).filter (fun e => !s.engineBusy s.job.coreKey e)

/-- Whether a stream still asks for an engine with the command at which it last asked. -/
def State.asks (s : State) (w : EngineWait) : Bool := s.now ≤ w.seen + 1 && (s.strOf w.ref).issued = w.issued

/-- The running stream's own request for a copy engine. -/
def State.engineAsk (s : State) : EngineWait :=
  match s.core.engineWait.find? (fun w => w.ref = s.cur && w.issued = s.st.issued && s.asks w) with
  | some w => { w with seen := s.now }
  | none => ⟨s.cur, s.st.issued, s.now, s.now⟩

/-- The requests of the other streams of the core. -/
def State.engineOthers (s : State) : List EngineWait := s.core.engineWait.filter (fun w => w.ref ≠ s.cur && s.asks w)

/-- Rank of a request: real jobs first (01 R45), then the control cores in turn after the one granted last, then the oldest of a control core (01 R8). -/
def State.engineRank (s : State) (w : EngineWait) : List Nat :=
  let j := s.jobOf w.ref.job
  [(if j.spec.isSome then 1 else 0), (j.cc + 3 - s.core.engineLast) % 4, w.since, letterNum w.ref.letter]

/-- Lexicographic order. -/
def rankBefore (a b : List Nat) : Bool :=
  match a, b with
  | x :: p, y :: q => x < y || (x = y && rankBefore p q)
  | _, _ => false

/-- The copy engine that the running stream is granted: the lowest idle one, unless as many requests as there are idle engines come first. -/
def State.engineGrant (s : State) : Option Nat :=
  let ahead := s.engineOthers.filter (fun w => rankBefore (s.engineRank w) (s.engineRank s.engineAsk))
  if ahead.length < s.idleEngines.length then s.idleEngines.head? else none

/-- The running stream's request stands among the others. -/
def State.engineAsked (s : State) : State :=
  s.modCore s.job.coreKey (fun x => { x with engineWait := s.engineOthers ++ [s.engineAsk] })

/-- The running stream's request is granted, and the round-robin goes on from its control core. -/
def State.engineTaken (s : State) : State :=
  s.modCore s.job.coreKey (fun x => { x with engineWait := s.engineOthers, engineLast := s.job.cc })

/-- A body that needs a copy engine: it waits at the queue head until it is granted one (01 R8, 09 R251). (DESIGN CHOICE, log 89) -/
def withEngine (s : State) (f : State → Nat → Act) : Act :=
  match s.engineGrant with
  | none => .busy s.engineAsked
  | some e => f s.engineTaken e

/-- A piece still to be read: its place in the flight's buffer, and its address and length. -/
structure ReadPart where
  dst : Nat
  pa : Nat
  len : Nat
  deriving DecidableEq, Repr

/-- The pieces of a global range by line, for a buffer position `dst` (09 R251). -/
def readParts (dst pa n : Nat) : List ReadPart := (linesOf pa n).map (fun l => ⟨dst + (l.1 - pa), l.1, l.2⟩)

/-- Adds the pieces of a flight: those whose bytes are at hand with their bytes, which land by the latency of the core's own buffer (17 R405, R406),
the others as accesses to their homes (03 R93, 14 R386). -/
def State.startReads (s : State) (k : Nat) (j : Job) (kind : PageKind) (die : Nat → Nat) (engine : Nat) (i : Nat) (ps : List ReadPart) :
    Map Piece × State :=
  match ps with
  | [] => ([], s)
  | p :: r =>
    match s.quickRead j kind p.pa p.len with
    | some b =>
      let t := State.startReads (s.post (8 + i) .copyPieceLanding { a := k, b := i }) k j kind die engine (i + 1) r
      ((i, ⟨p.dst, 0, p.len, some b⟩) :: t.1, t.2)
    | none =>
      let t := State.startReads (s.request k i j s.cur .read kind (die p.pa) p.pa p.len none false engine) k j kind die engine (i + 1) r
      ((i, ⟨p.dst, 0, p.len, none⟩) :: t.1, t.2)

/-- Issues a command that reads global pieces and does `w` with them; a speculative job first records them and pauses where it must. -/
def State.readIn (s : State) (c : Ctl) (u : Use) (kind : PageKind) (die : Nat → Nat) (engine : Option Nat) (ps : List ReadPart)
    (w : Map Piece → Work) : Act :=
  let need := (ps.filter (fun p => (s.quickRead s.job kind p.pa p.len).isNone)).map (fun p => (p.pa, p.len))
  match s.recordReads s.job need with
  | none => .stop (s.pauseCount 8)
  | some s1 =>
    let k := s1.nextId
    let r := (s1.fly c u (w []) [] [] engine).startReads k s.job kind die (engine.getD 6) 0 ps
    .fly (r.2.modFlight k (fun f => { f with work := w r.1 }))

/-! ### `COPY`, `COPY2` -/

/-- The arrival word of a copy: its window offset, checked, and apart from the destination (09 R252). -/
def State.copyAw (s : State) (aw : Option (BitVec 19)) (d n : Nat) : Check (Option Nat) :=
  match aw with
  | none => .ok none
  | some x =>
    match s.chkScr 0 (awOffset x) 16 16 with
    | .error b => .error b
    | .ok w => if overlap w 16 d n then .error (.err { code := 29 }) else .ok (some w)

/-- Length check of a copy: none to do for 0 (09 R252). -/
def copyLen (n : Nat) (s : State) (f : Act) : Act :=
  if 16777216 < n then Act.code 28 else if n = 0 then .done s 0 else f

/-- `COPY.G2S`. -/
def copyG2sBody (o : OpCopy) (u : Use) (s : State) : Act :=
  let n := (s.sget o.n).toNat
  let h := s.hget o.h
  copyLen n s ((s.scrOperand o.s 0 n 1).andThen fun d =>
    (s.globOperand o.h (s.sget o.o).toNat n false).andThen fun pa =>
    (s.copyAw o.aw d n).andThen fun aw =>
    withEngine s fun s e => s.readIn o.c u h.pkind h.home (some e) (readParts d pa n) (.land aw))

def copyG2sUse (o : OpCopy) : Use := { opc := 0x0C0, regs := [.s o.s, .h o.h, .s o.o, .s o.n], ga := true }

def execCopyG2s (o : OpCopy) (s : State) : Result := command o.c (copyG2sUse o) (copyG2sBody o (copyG2sUse o)) s

/-- Scratch bytes to global lines: of each part its address, and where its bytes are read when it leaves; beside it the bytes of this
moment. -/
def State.outParts (s : State) (src pa n : Nat) : List OutPart :=
  (linesOf pa n).map (fun l =>
    let a := src + (l.1 - pa)
    ⟨l.1, l.2, some (s.job.scrAddr a), s.scrRead s.job a l.2, s.scrBad s.job a l.2⟩)

/-- `COPY.S2G`. -/
def copyS2gBody (o : OpCopyOut) (u : Use) (s : State) : Act :=
  let n := (s.sget o.n).toNat
  let h := s.hget o.h
  copyLen n s ((s.scrOperand o.s 0 n 1).andThen fun a =>
    (s.globOperand o.h (s.sget o.o).toNat n true).andThen fun pa =>
    withEngine s fun s e => s.writeOut o.c u h.pkind h.home (s.outParts a pa n) (some e))

def copyS2gUse (o : OpCopyOut) : Use := { opc := 0x0C0, regs := [.s o.s, .h o.h, .s o.o, .s o.n], gw := true }

def execCopyS2g (o : OpCopyOut) (s : State) : Result := command o.c (copyS2gUse o) (copyS2gBody o (copyS2gUse o)) s

/-- The 64-byte destination granules of a copy within scratchpad (09 R251). -/
def granuleParts (d src n : Nat) : Map Piece :=
  ((unitsOf 64 d n).map (fun k => let lo := max d (k * 64); (lo, min (d + n) ((k + 1) * 64) - lo))).zipIdx.map
    (fun p => (p.2, ⟨p.1.1, src + (p.1.1 - d), p.1.2, none⟩))

/-- Latency of a copy within scratchpad (17 R405). -/
def s2sLat (n : Nat) : Nat := 2 + (n + 127) / 128

/-- The landings of a copy within scratchpad: one at its latency, the others in any order before it. -/
def State.s2sLandings (s : State) (k n : Nat) (is : List Nat) : State :=
  match is with
  | [] => s
  | [i] => s.post (s2sLat n) .copyPieceLanding { a := k, b := i }
  | i :: r => State.s2sLandings ((s.post (1 + Config.delay s.ticket % s2sLat n) .copyPieceLanding { a := k, b := i }).draw) k n r

/-- `COPY.S2S`: each piece reads its source when it lands (03 R97). (DEDUCED, log 37) -/
def copyS2sBody (o : OpCopyS) (u : Use) (s : State) : Act :=
  let n := (s.sget o.n).toNat
  copyLen n s ((s.scrOperand o.d 0 n 1).andThen fun d =>
    (s.scrOperand o.s 0 n 1).andThen fun a =>
    if overlap d n a n then Act.code 29
    else (s.copyAw o.aw d n).andThen fun aw =>
    withEngine s fun s e =>
      let ps := granuleParts d a n
      .fly ((s.fly o.c u (.land aw ps) [] [] (some e)).s2sLandings s.nextId n ps.keys))

def copyS2sUse (o : OpCopyS) : Use := { opc := 0x0C0, regs := [.s o.d, .s o.s, .s o.n] }

def execCopyS2s (o : OpCopyS) (s : State) : Result := command o.c (copyS2sUse o) (copyS2sBody o (copyS2sUse o)) s

/-- The two parts of a `COPY2` (09 R253): address of the first, its length, address of the second. -/
def State.twoPages (s : State) (h1 h2 : HReg) (off n : Nat) (write : Bool) : Check (Nat × Nat × Nat) :=
  let a := s.hget h1
  let l1 := min n (pageBytes a.size.toNat - off)
  match a.check h1 h2 off (max 1 l1) write with
  | .error b => .error b
  | .ok p1 =>
    match (s.hget h2).check h1 h2 0 (n - l1) write with
    | .error b => .error b
    | .ok p2 => .ok (p1, l1, p2)

/-- Home of an address of either page. -/
def twoHome (h1 h2 : Handle) (p1 l1 pa : Nat) : Nat := if p1 ≤ pa && pa < p1 + l1 then h1.home pa else h2.home pa

/-- `COPY2.G2S`. -/
def copy2G2sBody (o : OpCopy2) (u : Use) (s : State) : Act :=
  let n := (s.sget o.n).toNat
  let h1 := s.hget o.h
  let h2 := s.hget o.h2
  copyLen n s ((s.scrOperand o.s 0 n 1).andThen fun d =>
    (s.twoPages o.h o.h2 (s.sget o.o).toNat n false).andThen fun p =>
    (s.copyAw o.aw d n).andThen fun aw =>
    withEngine s fun s e =>
      s.readIn o.c u (h1.pkind.stronger h2.pkind) (twoHome h1 h2 p.1 p.2.1) (some e)
        (readParts d p.1 p.2.1 ++ readParts (d + p.2.1) p.2.2 (n - p.2.1)) (.land aw))

def copy2G2sUse (o : OpCopy2) : Use :=
  { opc := 0x0C1, two := true, regs := [.s o.s, .h o.h, .s o.o, .s o.n, .h o.h2], ga := true }

def execCopy2G2s (o : OpCopy2) (s : State) : Result := command o.c (copy2G2sUse o) (copy2G2sBody o (copy2G2sUse o)) s

/-- `COPY2.S2G`. -/
def copy2S2gBody (o : OpCopy2Out) (u : Use) (s : State) : Act :=
  let n := (s.sget o.n).toNat
  let h1 := s.hget o.h
  let h2 := s.hget o.h2
  copyLen n s ((s.scrOperand o.s 0 n 1).andThen fun a =>
    (s.twoPages o.h o.h2 (s.sget o.o).toNat n true).andThen fun p =>
    withEngine s fun s e =>
      s.writeOut o.c u (h1.pkind.stronger h2.pkind) (twoHome h1 h2 p.1 p.2.1)
        (s.outParts a p.1 p.2.1 ++ s.outParts (a + p.2.1) p.2.2 (n - p.2.1)) (some e))

def copy2S2gUse (o : OpCopy2Out) : Use :=
  { opc := 0x0C1, two := true, regs := [.s o.s, .h o.h, .s o.o, .s o.n, .h o.h2], gw := true }

def execCopy2S2g (o : OpCopy2Out) (s : State) : Result := command o.c (copy2S2gUse o) (copy2S2gBody o (copy2S2gUse o)) s

/-! ### `GATHER`, `SCATTER` (09 R255) -/

/-- The index that skips its row. -/
def idxSkip : Nat := 0xFFFFFFFF

/-- The index list at a window offset. -/
def State.indexList (s : State) (a n : Nat) : List Nat := (List.range n).map (fun i => s.scrNat s.job (a + 4 * i) 4)

/-- Global rows of an index list: row number and byte offset in the page. -/
def rowOffsets (idx : List Nat) (off rb : Nat) : List (Nat × Nat) :=
  (idx.zipIdx.filter (fun p => p.1 ≠ idxSkip)).map (fun p => (p.2, off + p.1 * rb))

/-- The first check of a handle (02 R73), which looks at nothing else. -/
def Handle.checkValid (h : Handle) (no no2 : Nat) : Check Unit :=
  if h.valid then .ok () else .error (.err { code := 8, ha := no, hb := no2 })

/-- The checks of a handle that many rows use, in the order of 02 R73. -/
def Handle.checkRows (h : Handle) (no : Nat) (rows : List Nat) (n : Nat) (write : Bool) : Check Nat :=
  match h.checkValid no 255 with
  | .error b => .error b
  | .ok _ =>
    match rows.find? (fun o => pageBytes h.size.toNat < o + n) with
    | some o => .error (.err { code := 9, ha := no, vaddr := h.vaddr o })
    | .none => h.check no 255 (rows.headD 0) 0 write

/-- The operands of a gather or scatter, checked in operand order (09 R244, R255): scratch rows, handle, index list, and then the global rows that
the list names. (DEDUCED, log 90) -/
def State.gatherOperands (s : State) (o : OpGather) (write : Bool) : Check (Nat × List (Nat × Nat)) :=
  let cnt := o.cnt.toNat + 1
  let rb := o.rb.toNat + 1
  match s.scrOperand o.s 0 (cnt * rb) 1, (s.hget o.h).checkValid o.h 255, s.scrOperand o.ix 0 (4 * cnt) 4 with
  | .error b, _, _ => .error b
  | .ok _, .error b, _ => .error b
  | .ok _, .ok _, .error b => .error b
  | .ok d, .ok _, .ok x =>
      if overlap x (4 * cnt) d (cnt * rb) then .error (.err { code := 29 })
      else if s.scrBad s.job x (4 * cnt) then .error (.err { code := 11 })
      else
        let rows := rowOffsets (s.indexList x cnt) (s.sget o.o).toNat rb
        match (s.hget o.h).checkRows o.h (rows.map (·.2)) rb write with
        | .error b => .error b
        | .ok _ => .ok (d, rows)

def gatherUse (opc : Nat) (o : OpGather) (w : Bool) : Use :=
  { opc := opc, regs := [.s o.s, .h o.h, .s o.o, .s o.ix], ga := true, gw := w }

/-- `GATHER`. -/
def gatherBody (o : OpGather) (u : Use) (s : State) : Act :=
  let h := s.hget o.h
  let rb := o.rb.toNat + 1
  (s.gatherOperands o false).andThen fun p =>
    withEngine s fun s e =>
      if p.2.isEmpty then .done s 0
      else s.readIn o.c u h.pkind h.home (some e)
        ((p.2.map (fun r => readParts (p.1 + r.1 * rb) (h.pbase.toNat + r.2) rb)).flatten) (.land none)

def execGather (o : OpGather) (s : State) : Result :=
  command o.c (gatherUse 0x0C4 o false) (gatherBody o (gatherUse 0x0C4 o false)) s

/-- `SCATTER`: rows in list order. -/
def scatterBody (o : OpGather) (u : Use) (s : State) : Act :=
  let h := s.hget o.h
  let rb := o.rb.toNat + 1
  (s.gatherOperands o true).andThen fun p =>
    withEngine s fun s e =>
      s.writeOut o.c u h.pkind h.home
        ((p.2.map (fun r => s.outParts (p.1 + r.1 * rb) (h.pbase.toNat + r.2) rb)).flatten) (some e)

def execScatter (o : OpGather) (s : State) : Result :=
  command o.c (gatherUse 0x0C5 o true) (scatterBody o (gatherUse 0x0C5 o true)) s

/-! ### `ACSCP` (09 R256) -/

/-- Operands of an accumulator copy: the scratch address, of any alignment (02 R80, 09 R256); `rows` = 0 is for the caller. -/
def State.acscpOperands (s : State) (a : SReg) (row rows n width : Nat) : Check Nat :=
  match s.scrOperand a 0 (rows * n * width) 1 with
  | .error b => .error b
  | .ok p => if !s.job.acsHeld || 2048 < rows || s.job.acsRows < row + rows then .error (.err { code := 7 }) else .ok p

/-- The code of an accumulator word in an output format, and flags. -/
def acsOut (m : Fmode) (fmt : Nat) (w : BitVec 32) : Nat × Flags :=
  if fmt = 7 || fmt = 8 then (w.toNat, 0)
  else if fmt = 0 then cvtCode m 8 0 w.toNat
  else cvtCode m 7 fmt w.toNat

/-- Latency of an accumulator copy (17 R405). -/
def acscpLat (rows n : Nat) : Nat := 2 + (rows * n * 4 + 127) / 128

/-- The first elements, from column `col`, of relative rows `r` on. -/
def Job.acsFirst (j : Job) (r rows col : Nat) : List Nat := (List.range rows).map (fun i => acsPhys j.acs (r + i) * 192 + col)

def acscpUse (a row n : SReg) : Use := { opc := 0x0C6, regs := [.s a, .s row, .s n] }

/-- `ACSCP.OUT`. -/
def acscpOutBody (o : OpAcsOut) (s : State) : Act :=
  let rows := (s.sget o.n).toNat
  let n := o.ncol.toNat + 1
  let r := (s.sget o.row).toNat
  if rows = 0 then .done s 0
  else (s.acscpOperands o.a r rows n (fmtBytes o.fmt)).andThen fun a =>
    withEngine s fun s e =>
      .data s (.acsOut s.job.fmode o.fmt n (s.job.acsFirst r rows o.col.toNat) (s.job.scrAddr a)) (.after (acscpLat rows n)) [] (some e)

def execAcscpOut (o : OpAcsOut) (s : State) : Result := command o.c (acscpUse o.a o.row o.n) (acscpOutBody o) s

/-- `ACSCP.IN`. -/
def acscpInBody (o : OpAcsIn) (s : State) : Act :=
  let rows := (s.sget o.n).toNat
  let n := o.ncol.toNat + 1
  let r := (s.sget o.row).toNat
  if rows = 0 then .done s 0
  else (s.acscpOperands o.a r rows n 4).andThen fun a =>
    withEngine s fun s e =>
      .data s (.acsIn n (s.job.acsFirst r rows o.col.toNat) (s.job.scrAddr a)) (.after (acscpLat rows n)) [] (some e)

def execAcscpIn (o : OpAcsIn) (s : State) : Result := command o.c (acscpUse o.a o.row o.n) (acscpInBody o) s

/-! ### Scaled blocks (04 R134 to R136, 09 R254) -/

/-- Block of element `i` of a tensor with rows of `c` elements; none where the geometry breaks 04 R134. -/
def blockShape (geom n c : Nat) : Option (Nat → Nat) :=
  let one (b : Nat) := if c % b = 0 then some (fun i => i / c * (c / b) + i % c / b) else none
  let two (q : Nat) := if c % q = 0 && n / c % q = 0 then some (fun i => i / c / q * (c / q) + i % c / q) else none
  if c = 0 || n % c ≠ 0 then none
  else
    match geom with
    | 1 => one 16
    | 2 => one 32
    | 3 => one 64
    | 4 => two 8
    | 5 => two 16
    | _ => none

/-- One element of `COPYX` (04 R135): value × scale, rounded once; scales are never flushed. -/
def expand (m : Fmode) (efmt dfmt code scale : Nat) : Nat × Flags :=
  let p := Num.mul (fetchNum m efmt code) (decodeF 5 scale)
  let c := convertNum m p.1 dfmt
  (c.1, p.2 ||| c.2)

/-- Destination format of `COPYX`: 0 BF16, 1 T8, 2 E4M3. -/
def copyxFmt (f : Fin 3) : Nat := if f = 0 then 5 else if f = 1 then 3 else 1

/-- Largest magnitude of an element format (04 R136). -/
def blockMax (fmt : Nat) : Nat :=
  match fmt with
  | 0 => 127
  | 1 => 448
  | 2 => 57344
  | 3 => 4096
  | _ => 256

/-- The code of an element in a block that holds a NaN or an infinity. -/
def blockNan (fmt : Nat) : Nat :=
  match fmt with
  | 0 => 0
  | 1 => 0x7F
  | 2 => 0x7E
  | 3 => 0x80
  | _ => 0x20

/-- mant × 2^exp / d rounded to BF16 toward positive infinity (04 R136 step 2). -/
def bf16Up (mant : Nat) (exp : Int) (d : Nat) : Nat :=
  -- the exponent of the last place: 2^(k − 7) with k the exponent of the quotient, but at least that of a subnormal
  let l : Int := (Nat.log2 mant : Int) + exp - Nat.log2 d
  let lt : Bool :=
    -- quotient < 2^l
    if 0 ≤ exp - l then mant * 2 ^ (exp - l).toNat < d else mant < d * 2 ^ (l - exp).toNat
  let k := if lt then l - 1 else l
  let e := max k (-126) - 7
  let q := exp - e
  let num := if 0 ≤ q then mant * 2 ^ q.toNat else mant
  let den := if 0 ≤ q then d else d * 2 ^ (-q).toNat
  (convertFin 0 5 false ((num + den - 1) / den) e).1

/-- x / scale as an exact value: a quotient long enough that one rounding sees every bit (04 R136 step 3). -/
def quotient (x sc : Num) : Num :=
  match x, sc with
  | .fin n m e, .fin _ d f =>
    let q := m * 2 ^ 300 / d
    let r := m * 2 ^ 300 % d
    .fin n (2 * q + (if r = 0 then 0 else 1)) (e - f - 301)
  | _, _ => x

def Num.isFinite (x : Num) : Bool :=
  match x with
  | .fin _ _ _ => true
  | _ => false

def Num.mag (x : Num) : Nat × Int :=
  match x with
  | .fin _ m e => (m, e)
  | _ => (0, 0)

/-- The larger magnitude. -/
def maxMag (a b : Nat × Int) : Nat × Int :=
  if a.1 = 0 then b else if b.1 = 0 then a else if cmpMag a.1 a.2 b.1 b.2 = .lt then b else a

/-- A block compressed (04 R136): its scale, its elements and flags. -/
def compress (fmt : Nat) (xs : List Num) : Nat × List Nat × Flags :=
  if xs.any (fun x => !x.isFinite) then (0x7FC0, xs.map (fun _ => blockNan fmt), Flags.iv)
  else
    let am := (xs.map Num.mag).foldl maxMag (0, 0)
    if am.1 = 0 then (0, xs.map (fun _ => 0), 0)
    else
      let sc := bf16Up am.1 am.2 (blockMax fmt)
      let cs := xs.map (fun x => convertNum 0 (if x.isZero then x else quotient x (decodeF 5 sc)) fmt)
      (sc, cs.map (·.1), flagsOf (cs.map (·.2)))

/-- Scale addresses of a tensor's blocks in the page of the scale handle. -/
def scaleOffsets (nb so stride : Nat) : List Nat := (List.range nb).map (fun b => so + b * stride)

/-- Blocks of a tensor of `n` elements. -/
def blockCount (f : Nat → Nat) (n : Nat) : Nat := ((List.range n).map f).foldl max 0 + 1

/-- The operands that `COPYX` and `COPYC` share, checked: count, blocks, scratch, elements, scales (09 R254). -/
structure Scaled where
  n : Nat
  blocks : Nat
  a : Nat
  pa : Nat
  scales : List Nat

/-- The shared checks in operand order (09 R244): scratch, element handle, generator, scale handle. `width` is that of a scratch element and `ok`
tells whether the generator's format may be used. -/
def State.scaledOperands (s : State) (sreg : SReg) (h : HReg) (o : SReg) (w : GenWord) (hs : HReg) (so : SReg) (width : Nat) (ok write : Bool) :
    Check Scaled :=
  let n := genCount w
  match s.scrOperand sreg 0 (n * width) 1 with
  | .error b => .error b
  | .ok a =>
    match (s.hget h).check h hs (s.sget o).toNat n write with
    | .error b => .error b
    | .ok pa =>
      if !ok then .error (.err { code := 30 })
      else
        match blockShape (genGeom w) n (genRow w) with
        | none => .error (.err { code := 26 })
        | some f =>
          let nb := blockCount f n
          let offs := scaleOffsets nb (s.sget so).toNat (genSstr w)
          let hh := s.hget hs
          if !hh.valid then .error (.err { code := 8, ha := h, hb := hs })
          else if offs.any (fun x => pageBytes hh.size.toNat < x + 2) then .error (.err { code := 9, ha := h, hb := hs })
          else if (if write then !hh.wr else !hh.rd) then .error (.err { code := 10, ha := h, hb := hs })
          else .ok ⟨n, nb, a, pa, offs.map (fun x => hh.pbase.toNat + x)⟩

def copyxUse (o : OpCopyx) : Use :=
  { opc := 0x0C2, regs := [.s o.s, .h o.h, .s o.o, .g o.g, .h o.hs, .s o.so], ga := true }

/-- `COPYX` (04 R135, 09 R254): elements and scales are read as pieces of one buffer, scales after the elements. A COUNT of 0 moves nothing.
(DESIGN CHOICE, log 91) -/
def copyxBody (o : OpCopyx) (u : Use) (s : State) : Act :=
  let w := s.gget o.g
  let d := copyxFmt o.fmt
  let he := s.hget o.h
  let hs := s.hget o.hs
  if genCount w = 0 then .done s 0
  else (s.scaledOperands o.s o.h o.o w o.hs o.so (fmtBytes d) (genFmt w ≤ 4) false).andThen fun x =>
    withEngine s fun s e =>
      s.readIn o.c u (he.pkind.stronger hs.pkind) (fun pa => if x.pa ≤ pa && pa < x.pa + x.n then he.home pa else hs.home pa) (some e)
        (readParts 0 x.pa x.n ++ (x.scales.zipIdx.map (fun p => readParts (x.n + 2 * p.2) p.1 2)).flatten)
        (fun ps => .convert (.copyx x.a o.fmt x.n (genRow w) (genFmt w) (genGeom w) s.job.fmode.toNat) ps x.n (2 * x.blocks))

def execCopyx (o : OpCopyx) (s : State) : Result := command o.c (copyxUse o) (copyxBody o (copyxUse o)) s

def copycUse (o : OpCopyc) : Use :=
  { opc := 0x0C3, regs := [.s o.s, .h o.h, .s o.o, .g o.g, .h o.hs, .s o.so], gw := true }

/-- Elements of a block, in element order. -/
def blockElems (f : Nat → Nat) (n b : Nat) : List Nat := (List.range n).filter (fun i => f i = b)

/-- The home die that a handle overrides (02 R69). -/
def Handle.override (h : Handle) : Option Nat := if h.hovr then some h.hdie.toNat else .none

/-- Page kinds as numbers. -/
def PageKind.num (k : PageKind) : Nat :=
  match k with
  | .un => 0
  | .rc => 1
  | .so => 2

def pageKindOf (n : Nat) : PageKind :=
  match n with
  | 0 => .un
  | 1 => .rc
  | _ => .so

/-- What a `COPYC` writes (04 R136), from the code and the poison of each source element: elements by 128-byte line, then each block's
scale, and the flags. -/
def compressLines (c : Compress) (code : Nat → Nat) (bad : Nat → Bool) : List (Nat × List Byte × Bool) × Flags :=
  match blockShape c.geom c.n c.row with
  | none => ([], 0)
  | some f =>
    let bs := (List.range (blockCount f c.n)).map (fun b =>
      let es := blockElems f c.n b
      (es, compress c.fmt (es.map (fun i => fetchNum c.mode c.src (code i))), es.any bad))
    let els : List (Nat × Nat × Bool) := (bs.map (fun b => (List.zip b.1 b.2.1.2.1).map (fun p => (p.1, p.2, b.2.2)))).flatten
    let el (i : Nat) : Nat × Bool := ((els.find? (fun e => e.1 = i)).map (·.2)).getD (0, false)
    let out := (linesOf c.pa c.n).map (fun l =>
      let is := (List.range l.2).map (fun k => el (l.1 - c.pa + k))
      (l.1, is.map (fun e => BitVec.ofNat 8 e.1), is.any (·.2)))
    let scs := (List.zip c.scales bs).map (fun p =>
      (linesOf p.1 2).map (fun l => (l.1, ((bytesOf 2 p.2.2.1.1).drop (l.1 - p.1)).take l.2, p.2.2.2)))
    (out ++ scs.flatten, flagsOf (bs.map (fun b => b.2.1.2.2)))

/-- Home die of an address that a `COPYC` writes. -/
def Compress.die (c : Compress) (pa : Nat) : Nat :=
  (if c.pa ≤ pa && pa < c.pa + c.n then c.home else c.shome).getD (homeDie pa)

/-- Latency up to the completion point of a `COPYC` whose lines are all taken by the core's own buffer or the undercoat store. -/
def Compress.lat (c : Compress) : Nat := acceptLat ((linesOf c.pa c.n).length + c.scales.length) (some 0)

/-- `COPYC` (04 R136, 09 R254): its values are read up to its completion point (03 R97). A COUNT of 0 moves nothing. A speculative job's shadow lines
are taken at issue. (DESIGN CHOICE, log 91) -/
def copycBody (o : OpCopyc) (s : State) : Act :=
  let w := s.gget o.g
  let sf := genFmt w
  let he := s.hget o.h
  let hs := s.hget o.hs
  let kind := he.pkind.stronger hs.pkind
  if genCount w = 0 then .done s 0
  else (s.scaledOperands o.s o.h o.o w o.hs o.so (fmtBytes sf) (5 ≤ sf && sf ≤ 7) true).andThen fun x =>
    withEngine s fun s e =>
      let c : Compress :=
        ⟨o.fmt, sf, x.n, genRow w, genGeom w, s.job.scrAddr x.a, x.pa, x.scales, he.override, hs.override, kind.num, s.job.fmode⟩
      let lines := (compressLines c (fun i => s.scrNat s.job (x.a + i * fmtBytes sf) (fmtBytes sf)) (fun _ => false)).1
      match s.job.spec with
      | none => .data s (.compress c) (.after c.lat) [] (some e)
      | some k =>
        if kind = .so then .stop (s.modSt (fun t => { t with paused := true }))
        else
          match s.shadowWrites k s.job.part c.die lines with
          | none => .stop (s.pauseCount 7)
          | some s1 => .data s1 (.compress c) (.after c.lat) [] (some e)

def execCopyc (o : OpCopyc) (s : State) : Result := command o.c (copycUse o) (copycBody o) s

/-! ### Memory-side top-k (09 R277, R278) -/

/-- Rank of a value: NaN lowest, −0 below +0 (09 R278). -/
def ranksAbove (x y : Num) : Bool :=
  if x.isNan then false else if y.isNan then true else Num.cmp true x y = .gt

/-- The first `k` of the candidates seen so far, best first; equals keep their order. -/
def rankInsert (l : List (Nat × Num)) (e : Nat × Num) : List (Nat × Num) :=
  match l with
  | [] => [e]
  | h :: t => if ranksAbove e.2 h.2 then e :: h :: t else h :: rankInsert t e

def topOf (k : Nat) (xs : List Num) : List (Nat × Num) :=
  (xs.zipIdx.map (fun p => (p.2, p.1))).foldl (fun l e => (rankInsert l e).take k) []

/-- The FP32 code of a value. -/
def toCode (x : Num) : Nat := (convertNum 0 x 7).1

/-- A sum in order, each addition rounded to FP32. -/
def sumF32 (l : List Nat) : Nat := l.foldl (fun a x => (f32Add a x).1) 0

/-- The weights of the selected values, and whether the fallback was taken. -/
def topWeights (mode k : Nat) (sel : List Num) : List Nat × Bool :=
  let xs := sel.map toCode
  match mode with
  | 0 => (xs, false)
  | 1 =>
    let s := sumF32 xs
    if isNormalF32 s then (xs.map (fun x => (f32Div x s).1), false)
    else (xs.map (fun _ => (toF32 (Num.div (.fin false 1 0) (.fin false k 0))).1), true)
  | _ =>
    let es := xs.map (fun x => (Transc.vexp (f32Sub x (xs.headD 0)).1).1)
    let s := sumF32 es
    (es.map (fun x => (f32Div x s).1), false)

/-- Bytes between records: ceil((8 + 8k) / 16) × 16. -/
def topStride (k : Nat) : Nat := (8 + 8 * k + 15) / 16 * 16

/-- The record of row `r`. -/
def topRecord (r mode k : Nat) (xs : List Num) : List Byte :=
  let sel := topOf k xs
  let w := topWeights mode k (sel.map (·.2))
  let fl := (if w.2 then 1 else 0) + (if sel.any (fun e => e.2.isNan) then 2 else 0)
  bytesOf 4 r ++ bytesOf 2 sel.length ++ bytesOf 2 fl ++
    ((List.zip sel w.1).map (fun p => bytesOf 4 p.1.1 ++ bytesOf 4 p.2)).flatten ++
    (List.replicate (k - sel.length) (bytesOf 4 0xFFFFFFFF ++ bytesOf 4 0)).flatten

/-- `MTOPK`: its checks in operand order (09 R244): scratch, handle with its range and placement, descriptor. -/
def mtopkBody (o : OpMtopk) (u : Use) (s : State) : Act :=
  let d := (s.sget o.d).toNat
  let len := natBits d 0 16
  let rows := natBits d 16 16
  let k := natBits d 32 6 + 1
  let mode := natBits d 38 2
  let fmt := natBits d 40 4
  let h := s.hget o.h
  let n := rows * len * fmtBytes fmt
  (s.scrOperand o.s 0 ((rows - 1) * topStride k + 8 + 8 * k) 1).andThen fun a =>
    (s.globOperand o.h (s.sget o.o).toNat n false).andThen fun pa =>
    if !h.hovr then .err { code := 38, ha := o.h, vaddr := h.vaddr (s.sget o.o).toNat }
    else if 2 ^ 44 ≤ d || len = 0 || rows = 0 || mode = 3 || fmt < 5 || 7 < fmt then Act.code 37
    else
      s.readIn o.c u h.pkind h.home none (readParts 0 pa n)
        (fun ps => .convert (.mtopk a fmt mode k rows len s.job.fmode.toNat) ps n 0)

def mtopkUse (o : OpMtopk) : Use := { opc := 0x0E5, regs := [.s o.s, .h o.h, .s o.o, .s o.d], ga := true }

def execMtopk (o : OpMtopk) (s : State) : Result := command o.c (mtopkUse o) (mtopkBody o (mtopkUse o)) s

/-! ### Landings -/

/-- Bytes of a buffer made of pieces, with the poison of each byte. -/
def bufferOf (ps : Map Piece) (n : Nat) : List (Byte × Bool) :=
  (ps.vals.foldl (fun (l : List (Byte × Bool)) p =>
    match p.bytes with
    | none => l
    | some (v, bad) => l.take p.dst ++ v.map (fun b => (b, bad)) ++ l.drop (p.dst + v.length)) (List.replicate n (0, false)))

/-- Elements written to scratch one after the other, each with its own poison. -/
def State.putElems (s : State) (j : Job) (a width : Nat) (es : List (Nat × Bool)) : State :=
  (es.zipIdx.foldl (fun s e => s.scrWrite j (a + e.2 * width) (bytesOf width e.1.1) e.1.2) s)

/-- What a converted read writes, with its flags. -/
def State.convertLand (s : State) (j : Job) (c : Convert) (ps : Map Piece) (els scales : Nat) : State × Flags :=
  let buf := bufferOf ps (els + scales)
  match c with
  | .copyx dst fmt n row efmt geom fm =>
    match blockShape geom n row with
    | none => (s, 0)
    | some f =>
      let d := copyxFmt fmt
      let es := (List.range n).map (fun i =>
        let sc := (buf.drop (els + 2 * f i)).take 2
        let x := buf.getD i (0, false)
        let r := expand (BitVec.ofNat 3 fm) efmt d x.1.toNat (natOf (sc.map (·.1)))
        (r.1, x.2 || sc.any (·.2), r.2))
      (s.putElems j dst (fmtBytes d) (es.map (fun e => (e.1, e.2.1))), flagsOf (es.map (·.2.2)))
  | .mtopk dst fmt mode k rows len fm =>
    let w := fmtBytes fmt
    ((List.range rows).foldl (fun s r =>
      let row := (buf.drop (r * len * w)).take (len * w)
      let xs := (List.range len).map (fun i => fetchNum (BitVec.ofNat 3 fm) fmt (natOf (((row.drop (i * w)).take w).map (·.1))))
      s.scrWrite j (dst + r * topStride k) (topRecord r mode k xs) (row.any (·.2))) s, 0)

/-- A piece lands in scratchpad (09 R251, R257): its bytes are written, then its arrival word counts them; the last landing is the copy's
completion point. -/
def State.landPiece (s : State) (k i : Nat) : State :=
  match s.flights.find? k with
  | none => s
  | some f =>
    let j := s.jobOf f.ref.job
    match f.work with
    | .land aw ps =>
      match ps.find? i with
      | none => s
      | some p =>
        let b := p.bytes.getD (s.scrRead j p.src p.len, s.scrBad j p.src p.len)
        let s1 := s.scrWrite j p.dst b.1 b.2
        let s2 := match aw with
          | none => s1
          | some a => s1.landOn f.ref.job a p.len false
        let rest := ps.erase i
        if rest.isEmpty then s2.finish k 0 else s2.modFlight k (fun f => { f with work := .land aw rest })
    | .convert c ps els scales =>
      if ps.vals.all (·.bytes.isSome) then
        let r := s.convertLand j c ps els scales
        r.1.finish k r.2
      else s
    | _ => s

def execCopyPieceLanding (s : State) : Result := .next (s.landPiece s.args.a s.args.b)

end Sys2Proof.Machine
end

