-- ==== Sys2Proof/Machine/VecRun.lean ====
section
/-! DEFINITION. What a vector command computes (04 R142 to R145, 10 R281, R285 to R301): the walks of its generators, the checks before any
element is written, and the elements it writes. A vector command of a job works in the job's scratch window; one of a
Trowel epilogue in the epilogue buffer (13 R368), where every element has the `FMODE` of its row's owner. -/

namespace Sys2Proof.Machine

/-! ### Places of work -/

/-- Where a vector command works: the bytes, the store address of offset 0, the bytes that its walks may reach, and the
`FMODE` of an element by its offset. -/
structure VecEnv where
  store : Store
  base : Nat
  limit : Nat
  mode : Nat → Fmode

/-- What a vector command leaves: bytes by offset, with whether a double-bit error contributes to them; flags by the offset of the element
written; offsets of poisoned source elements; and the count that `VCOMPACT` gives. -/
structure VecOut where
  writes : List (Nat × List Byte × Bool)
  flags : List (Nat × Flags)
  bad : List Nat
  count : Option Nat
  deriving DecidableEq, Repr

def VecOut.nothing : VecOut := ⟨[], [], [], none⟩

/-! ### Walks (10 R281, R285 steps 3 and 4) -/

/-- Bytes per element, 1 for a mask. -/
def genBytes (g : GenWord) : Nat := if genFmt g = fmtMask then 1 else fmtBytes (genFmt g)

/-- Bits per element. -/
def genBits (g : GenWord) : Nat := if genFmt g = fmtMask then 1 else 8 * fmtBytes (genFmt g)

/-- Start and length in bytes of each row of a walk. -/
def genSpans (g : GenWord) : List (Int × Nat) :=
  if genCount g = 0 then []
  else if genFmt g = fmtMask then [((genBase g : Int), (genCount g + 7) / 8)]
  else (List.range (genRows g)).map (fun (r : Nat) =>
    ((genBase g : Int) + (r : Int) * genRstr g, min (genRow g) (genCount g - r * genRow g) * genBytes g))

/-- Whether two spans share a byte. -/
def spanMeets (p q : Int × Nat) : Bool := decide (p.1 < q.1 + q.2) && decide (q.1 < p.1 + p.2)

def spansMeet (a b : List (Int × Nat)) : Bool := a.any (fun p => b.any (spanMeets p))

/-- Whether two spans of one walk share a byte. -/
def spansSelf (a : List (Int × Nat)) : Bool :=
  match a with
  | [] => false
  | p :: r => r.any (spanMeets p) || spansSelf r

/-- The check of one walk: `MISALIGNED`, `SCRATCH_RANGE`, and for a destination `VEC_OVERLAP`. -/
def walkCode (limit : Nat) (dest : Bool) (g : GenWord) : Option Nat :=
  let ps := genSpans g
  if ps.any (fun p => decide (p.1 % genBytes g ≠ 0)) then some 3
  else if ps.any (fun p => decide (p.1 < 0) || decide ((limit : Int) < p.1 + p.2)) then some 2
  else if dest && spansSelf ps then some 41
  else none

/-- Whether a destination coincides exactly with a source (10 R285 step 4). -/
def coincides (d g : GenWord) : Bool :=
  genBase d = genBase g && genRstr d = genRstr g && genRowlen d = genRowlen g && genBits d = genBits g

/-- Whether a destination may coincide with a source. -/
def VecKind.inPlace (k : VecKind) : Bool :=
  match k with
  | .elem _ => true
  | .chain _ _ _ => true
  | .red .scan _ => true
  | .red _ _ => false
  | .move _ => false

/-- Whether a destination meets another destination, or a source that it may not meet. -/
def destsMeet (k : VecKind) (srcs : List GenWord) (ds : List GenWord) : Bool :=
  match ds with
  | [] => false
  | d :: r =>
    r.any (fun e => spansMeet (genSpans d) (genSpans e)) ||
      srcs.any (fun g => !(k.inPlace && coincides d g) && spansMeet (genSpans d) (genSpans g)) || destsMeet k srcs r

/-! ### Formats and counts (10 R285 steps 1 and 2) -/

def VIn.gens (l : List VIn) : List GenWord :=
  l.filterMap (fun x =>
    match x with
    | .gen g => some g
    | .lit _ _ => none)

/-- A source of formats 0 to 8 (10 R292); a scalar's format code is checked like a walk's (10 R285 step 1). -/
def VIn.numeric (x : VIn) : Bool :=
  match x with
  | .gen g => genFmt g ≤ 8
  | .lit _ f => f ≤ 8

def VIn.fmt (x : VIn) : Nat :=
  match x with
  | .gen g => genFmt g
  | .lit _ f => f

/-- A walk as wide as the destination. A raw scalar takes the destination's width (10 R290). -/
def VIn.wide (x : VIn) (bits : Nat) : Bool :=
  match x with
  | .gen g => genBits g = bits
  | .lit _ _ => true

/-- A shift count's format (10 R292). -/
def VIn.countFmt (x : VIn) : Bool :=
  match x with
  | .gen g => genFmt g = 0 || genFmt g = 8
  | .lit _ f => f = 0 || f = 8 || f = 9

def floatingFmt (f : Nat) : Bool := 1 ≤ f && f ≤ 7

/-- Formats of an element-wise command (10 R292). -/
def ElemOp.formatsOk (op : ElemOp) (d : GenWord) (xs : List VIn) : Bool :=
  match op with
  | .fn _ => genFmt d ≤ 8 && xs.all (fun x => floatingFmt x.fmt)
  | .cmp _ => (genFmt d = fmtMask || genFmt d = 0) && xs.all VIn.numeric
  | .sel => genFmt d ≠ fmtMask && (xs.map VIn.fmt).headD 0 = fmtMask && (xs.drop 1).all (fun x => x.wide (genBits d))
  | .and | .or | .xor | .mov => xs.all (fun x => x.wide (genBits d))
  | .shl | .shr | .sra =>
    genFmt d ≠ fmtMask && (xs.take 1).all (fun x => x.wide (genBits d)) && (xs.drop 1).all VIn.countFmt
  | .fill => true
  | .add | .sub | .mul | .fma | .min | .max | .abs | .neg | .cvt | .clamp => genFmt d ≤ 8 && xs.all VIn.numeric

/-- Formats of a reduction (10 R299): `d2` is the index destination of `VTOPK`. -/
def RedOp.formatsOk (op : RedOp) (d : GenWord) (d2 : Option GenWord) (g : GenWord) : Bool :=
  genFmt d ≤ 8 && genFmt g ≤ 8 &&
    match op with
    | .argmax => genFmt d = 8
    | .topk _ => (d2.map genFmt).getD 0 = 8
    | .lse => floatingFmt (genFmt g)
    | .sum | .max | .min | .scan => true

/-- Formats of a rearrangement (10 R300, R301). -/
def MoveOp.formatsOk (op : MoveOp) (ds gs : List GenWord) : Bool :=
  let w := genBits (ds.headD 0)
  let data := ds ++ (match op with
    | .perm | .compact | .expand => gs.take 1
    | .zip | .unzip | .trans | .bcast => gs)
  data.all (fun g => genFmt g ≠ fmtMask && genBits g = w) &&
    match op with
    | .perm => (gs.drop 1).all (fun g => genFmt g = 8)
    | .compact | .expand => (gs.drop 1).all (fun g => genFmt g = fmtMask)
    | .zip | .unzip | .trans | .bcast => true

def VecKind.formatsOk (k : VecKind) (ds : List GenWord) (xs : List VIn) : Bool :=
  (ds ++ VIn.gens xs).all (fun g => genFmt g ≠ fmtMask || genRowlen g = 0) &&
    match k with
    | .elem op => op.formatsOk (ds.headD 0) xs
    | .chain _ _ _ => genFmt (ds.headD 0) ≤ 8 && xs.all VIn.numeric
    | .red op _ => op.formatsOk (ds.headD 0) (ds.drop 1).head? ((VIn.gens xs).headD 0)
    | .move op => op.formatsOk ds (VIn.gens xs)

/-- Results of a reduction: one for the whole walk, or one for each row. -/
def redGroups (row : Bool) (g : GenWord) : Nat := if row then genRows g else 1

def VecKind.countsOk (k : VecKind) (ds : List GenWord) (gs : List GenWord) : Bool :=
  let d := genCount (ds.headD 0)
  let g := gs.headD 0
  let n := genCount g
  match k with
  | .elem _ | .chain _ _ _ => gs.all (fun x => genCount x = d)
  | .red .scan _ => d = n
  | .red (.topk k) row => ds.all (fun x => genCount x = redGroups row g * k)
  | .red _ row => d = redGroups row g
  | .move .zip => gs.all (fun x => genCount x = n) && d = gs.length * n
  | .move .unzip => ds.all (fun x => genCount x = d) && n = ds.length * d
  | .move .perm => (gs.drop 1).all (fun x => genCount x = d)
  | .move .trans => n ≠ 0 && n % genRow g = 0 && d = n && genRow (ds.headD 0) = n / genRow g
  | .move .bcast => n ≠ 0 && d % n = 0
  | .move .compact => (gs.drop 1).all (fun x => genCount x = n)
  | .move .expand => (gs.drop 1).all (fun x => genCount x = d)

/-! ### Elements -/

/-- Offset of an element whose walk has passed its check. -/
def genAt (g : GenWord) (n : Nat) : Nat := (genWalk g n).toNat

/-- The bits of an element. -/
def VecEnv.bits (e : VecEnv) (g : GenWord) (n : Nat) : Nat :=
  if genFmt g = fmtMask then natOf (Store.read granule e.store (e.base + genAt g n) 1) / 2 ^ (n % 8) % 2
  else natOf (Store.read granule e.store (e.base + genAt g n) (genBytes g))

/-- The value of a source's element `n` (10 R290); `m` is the mode for a scalar. -/
def VecEnv.val (e : VecEnv) (m : Fmode) (x : VIn) (n : Nat) : Num :=
  match x with
  | .gen g => cvtSource (e.mode (genAt g n)) (genFmt g) (e.bits g n)
  | .lit v f => cvtSource m f v.toNat

/-- The raw bits of a source's element, `w` of a scalar. -/
def VecEnv.raw (e : VecEnv) (w : Nat) (x : VIn) (n : Nat) : Nat :=
  match x with
  | .gen g => e.bits g n
  | .lit v _ => v.toNat % 2 ^ w

/-- A function of an FP32 code (04 R148 to R150). -/
def TransOp.eval (f : TransOp) (x : Nat) : Nat × Flags :=
  match f with
  | .exp => Transc.vexp x
  | .log => Transc.vlog x
  | .rcp => Transc.vrcp x
  | .rsq => Transc.vrsq x
  | .tanh => Transc.vtanh x
  | .sigm => Transc.vsigm x
  | .gelu => Transc.vgelu x
  | .silu => Transc.vsilu x

/-- Exact results (10 R291); of a function, its FP32 result. -/
def ElemOp.exact (op : ElemOp) (x y z : Num) : Num × Flags :=
  match op with
  | .add => Num.add x y
  | .sub => Num.sub x y
  | .mul => Num.mul x y
  | .fma => Num.fma x y z
  | .min => (Num.min x y, 0)
  | .max => (Num.max x y, 0)
  | .abs => (x.abs, 0)
  | .neg => (x.neg, 0)
  | .clamp => (Num.min (Num.max x y) z, 0)
  | .fn f => let r := f.eval (toCode x); (f32 r.1, r.2)
  | .cvt | .cmp _ | .sel | .and | .or | .xor | .shl | .shr | .sra | .mov | .fill => (x, 0)

/-- Results on raw bits of width `w` (10 R292); none for an operation on values. -/
def ElemOp.raw (op : ElemOp) (w x y z : Nat) : Option Nat :=
  match op with
  | .sel => some (if x % 2 = 1 then y else z)
  | .and => some (x &&& y)
  | .or => some (x ||| y)
  | .xor => some (x ^^^ y)
  | .shl => some (if w ≤ y then 0 else x * 2 ^ y % 2 ^ w)
  | .shr => some (if w ≤ y then 0 else x / 2 ^ y)
  | .sra => some (ofSigned w (toSigned w x / ((2 ^ Nat.min y w : Nat) : Int)))
  | .mov | .fill => some x
  | .add | .sub | .mul | .fma | .min | .max | .abs | .neg | .fn _ | .cvt | .cmp _ | .clamp => none

/-- Element `n` of an element-wise command: its code and flags. -/
def VecEnv.elem (e : VecEnv) (op : ElemOp) (d : GenWord) (xs : List VIn) (n : Nat) : Nat × Flags :=
  let m := e.mode (genAt d n)
  let w := genBits d
  let r (i : Nat) : Nat := ((xs[i]?).map (fun x => e.raw w x n)).getD 0
  let v (i : Nat) : Num := ((xs[i]?).map (fun x => e.val m x n)).getD .nv
  match op.raw w (r 0) (r 1) (r 2) with
  | some x => (x, 0)
  | none =>
    match op with
    | .cmp cc => (if fccHolds cc (numOrder (v 0) (v 1)) then 1 else 0, 0)
    | _ =>
      let q := op.exact (v 0) (v 1) (v 2)
      let c := convertNum m q.1 (genFmt d)
      (c.1, q.2 ||| c.2)

/-! ### Chains (10 R295, R296) -/

/-- One micro-operation on FP32 codes: each result is rounded once to FP32. -/
def microEval (op : MicroOp) (acc s z : Nat) : Nat × Flags :=
  match op with
  | .add => f32Add acc s
  | .sub => f32Sub acc s
  | .rsub => f32Sub s acc
  | .mul => f32Mul acc s
  | .min => toF32 (Num.min (f32 acc) (f32 s), 0)
  | .max => toF32 (Num.max (f32 acc) (f32 s), 0)
  | .fmaz => f32Fma acc s z
  | .mov => toF32 (f32 s, 0)
  | .abs => toF32 ((f32 s).abs, 0)
  | .neg => toF32 ((f32 s).neg, 0)
  | .exp => Transc.vexp s
  | .log => Transc.vlog s
  | .rcp => Transc.vrcp s
  | .rsq => Transc.vrsq s
  | .tanh => Transc.vtanh s
  | .sigm => Transc.vsigm s
  | .gelu => Transc.vgelu s
  | .silu => Transc.vsilu s

/-- The micro-operations in turn on `x`, `y`, `z`, `k` and the running value. -/
def runChain (x y z k : Nat) (ops : List (MicroOp × MicroSel)) (acc : Nat) (fl : Flags) : Nat × Flags :=
  match ops with
  | [] => (acc, fl)
  | (op, sel) :: r =>
    let s := match sel with
      | .x => x
      | .y => y
      | .z => z
      | .k => k
      | .acc => acc
    let t := microEval op acc s z
    runChain x y z k r t.1 (fl ||| t.2)

/-- Element `n` of a chain: its sources are X, then Y and Z where it has them, then K. -/
def VecEnv.chainElem (e : VecEnv) (ops : List (MicroOp × MicroSel)) (hasY hasZ : Bool) (d : GenWord) (xs : List VIn) (n : Nat) :
    Nat × Flags :=
  let m := e.mode (genAt d n)
  let f (i : Nat) : Nat := toCode (((xs[i]?).map (fun x => e.val m x n)).getD .nv)
  let iy := 1
  let iz := if hasY then 2 else 1
  let ik := iz + (if hasZ then 1 else 0)
  let t := runChain (f 0) (f iy) (f iz) (f ik) ops (f 0) 0
  let c := convertNum m (f32 t.1) (genFmt d)
  (c.1, t.2 ||| c.2)

/-! ### Sums (04 R142, R143, R145) -/

/-- One level of a balanced tree: adjacent pairs added, a single last one passed up. -/
def pairUp (l : List Nat) : List Nat × Flags :=
  match l with
  | a :: b :: r =>
    let s := f32Add a b
    let t := pairUp r
    (s.1 :: t.1, s.2 ||| t.2)
  | _ => (l, 0)

/-- The sum of a row by levels. -/
def treeSum (fuel : Nat) (l : List Nat) : Nat × Flags :=
  match fuel, l with
  | _, [x] => (x, 0)
  | 0, _ => (l.headD 0, 0)
  | fuel + 1, _ =>
    let t := pairUp l
    let r := treeSum fuel t.1
    (r.1, t.2 ||| r.2)

/-- A list in parts of `n`. -/
def chunksOf {α : Type} (n : Nat) (fuel : Nat) (l : List α) : List (List α) :=
  match fuel with
  | 0 => []
  | fuel + 1 => if l.isEmpty then [] else l.take n :: chunksOf n fuel (l.drop n)

/-- The sum of FP32 codes in rows of `per` (04 R142); +0 where there are none. -/
def fixedSum (per : Nat) (l : List Nat) : Nat × Flags :=
  match (chunksOf per l.length l).map (treeSum 9) with
  | [] => (0, 0)
  | r :: rs => rs.foldl (fun t x => let y := f32Add t.1 x.1; (y.1, t.2 ||| x.2 ||| y.2)) r

/-- `VLSE` over values whose largest is `m` (04 R145), with the flags of every step. (DEDUCED, log 38) -/
def logSumExp (m : Num) (vs : List Num) : Num × Flags :=
  let es := vs.map (fun x => let d := toF32 (Num.sub x m); let y := Transc.vexp d.1; (y.1, d.2 ||| y.2))
  let s := fixedSum 64 (es.map Prod.fst)
  let l := Transc.vlog s.1
  let r := Num.add m (f32 l.1)
  (r.1, flagsOf (es.map Prod.snd) ||| s.2 ||| l.2 ||| r.2)

/-- Running sums: exact for integers, rounded to FP32 at each addition otherwise (04 R143). -/
def scanFrom (int : Bool) (acc : Num) (l : List Num) : List (Num × Flags) :=
  match l with
  | [] => []
  | x :: r =>
    if int then let y := Num.add acc x; y :: scanFrom int y.1 r
    else let y := toF32 (Num.add acc x); (f32 y.1, y.2) :: scanFrom int (f32 y.1) r

/-- The running sums of a walk; the first element too is converted to FP32 (04 R143). -/
def scanAll (int : Bool) (l : List Num) : List (Num × Flags) :=
  match l with
  | [] => []
  | x :: r =>
    if int then (x, 0) :: scanFrom int x r
    else let y := toF32 (x, 0); (f32 y.1, y.2) :: scanFrom int (f32 y.1) r

/-! ### Reductions (10 R298, R299) -/

/-- Identity of an empty reduction. -/
def RedOp.identity (op : RedOp) (fmt : Nat) : Num :=
  let big : Int := ((2 ^ (fmtBits fmt - 1) : Nat) : Int)
  match op with
  | .sum | .scan | .topk _ => .fin false 0 0
  | .max => if isIntFmt fmt then Num.ofInt (-big) else .inf true
  | .min => if isIntFmt fmt then Num.ofInt (big - 1) else .inf false
  | .lse => .inf true
  | .argmax => Num.ofInt (-1)

/-- The results of a reduction over values of format `fmt`, before their conversion. -/
def RedOp.results (op : RedOp) (fmt : Nat) (vs : List Num) : List (Num × Flags) :=
  match vs with
  | [] => [(op.identity fmt, 0)]
  | v :: r =>
    match op with
    | .sum =>
      if isIntFmt fmt then [(r.foldl (fun a x => (Num.add a x).1) v, 0)]
      else let t := fixedSum (256 / fmtBytes fmt) (vs.map toCode); [(f32 t.1, t.2)]
    | .max => [(r.foldl Num.max v, 0)]
    | .min => [(r.foldl Num.min v, 0)]
    | .argmax => [(Num.ofInt (((topOf 1 vs).map (fun p => (p.1 : Int))).headD 0), 0)]
    | .scan => scanAll (isIntFmt fmt) vs
    | .topk k => (topOf k vs).map (fun p => (p.2, 0))
    | .lse =>
      let m := r.foldl Num.max v
      if m.isNan || m == .inf true then [(m, 0)] else [logSumExp m vs]

/-- The values of elements of a source walk. -/
def VecEnv.vals (e : VecEnv) (g : GenWord) (is : List Nat) : List Num := is.map (fun i => e.val 0 (.gen g) i)

/-- Elements of each reduced range: the whole walk, or each row. -/
def redRanges (row : Bool) (g : GenWord) : List (List Nat) :=
  if row then
    (List.range (genRows g)).map (fun r =>
      (List.range (min (genRow g) (genCount g - r * genRow g))).map (fun i => r * genRow g + i))
  else [List.range (genCount g)]

/-! ### Codes written -/

/-- Codes for the elements of one destination from element `n` on; none keeps the element. -/
abbrev Codes := List (Option (Nat × Flags))

/-- Values converted for consecutive elements of a destination (10 R299). -/
def VecEnv.convertAll (e : VecEnv) (d : GenWord) (rs : List (Num × Flags)) : Codes :=
  rs.zipIdx.map (fun p =>
    let c := convertNum (e.mode (genAt d p.2)) p.1.1 (genFmt d)
    some (c.1, p.1.2 ||| c.2))

/-- `VTOPK`'s values of one range, with zero bits in surplus places; `at_` is the first destination element. -/
def VecEnv.topkCodes (e : VecEnv) (d : GenWord) (at_ k : Nat) (vs : List Num) : Codes :=
  let t := topOf k vs
  (t.zipIdx.map (fun p =>
    let c := convertNum (e.mode (genAt d (at_ + p.2))) p.1.2 (genFmt d)
    some (c.1, c.2))) ++ List.replicate (k - t.length) (some (0, 0))

/-- `VTOPK`'s indices of one range. -/
def topkIndices (k : Nat) (vs : List Num) : Codes :=
  let t := topOf k vs
  (t.map (fun p => some (p.1, 0))) ++ List.replicate (k - t.length) (some (0xFFFFFFFF, 0))

/-- Codes of a reduction for each destination. -/
def VecEnv.redCodes (e : VecEnv) (op : RedOp) (row : Bool) (ds : List GenWord) (g : GenWord) : List Codes :=
  let groups := (redRanges row g).map (e.vals g)
  match op with
  | .topk k =>
    [(groups.zipIdx.map (fun p => e.topkCodes (ds.headD 0) (p.2 * k) k p.1)).flatten,
     (groups.map (topkIndices k)).flatten]
  | _ => [e.convertAll (ds.headD 0) ((groups.map (op.results (genFmt g))).flatten)]

/-- Set bits of a mask, ascending. -/
def VecEnv.maskOn (e : VecEnv) (g : GenWord) : List Nat := (List.range (genCount g)).filter (fun n => e.bits g n = 1)

/-- The bits of source element `n`, unchanged. -/
def VecEnv.copied (e : VecEnv) (g : GenWord) (n : Nat) : Option (Nat × Flags) := some (e.bits g n, 0)

/-- Codes of a rearrangement for each destination (10 R301). -/
def VecEnv.moveCodes (e : VecEnv) (op : MoveOp) (ds gs : List GenWord) : List Codes :=
  let g := gs.headD 0
  let g2 := (gs.drop 1).headD 0
  let d := genCount (ds.headD 0)
  match op with
  | .zip => [(List.range d).map (fun j => e.copied (gs.getD (j % gs.length) 0) (j / gs.length))]
  | .unzip => (List.range ds.length).map (fun i => (List.range d).map (fun j => e.copied g (j * ds.length + i)))
  | .perm => [(List.range d).map (fun j => if e.bits g2 j = idxSkip then some (0, 0) else e.copied g (e.bits g2 j))]
  | .trans =>
    let r := genCount g / genRow g
    [(List.range d).map (fun j => e.copied g (j % r * genRow g + j / r))]
  | .bcast => [(List.range d).map (fun j => e.copied g (j % genCount g))]
  | .compact => [((e.maskOn g2).take d).map (e.copied g)]
  | .expand =>
    let on := e.maskOn g2
    [(List.range d).map (fun j => ((on.zipIdx.find? (fun p => p.1 = j)).map (fun p => e.copied g p.2)).getD none)]

/-- Codes for each destination. -/
def VecEnv.codes (e : VecEnv) (k : VecKind) (ds : List GenWord) (xs : List VIn) : List Codes :=
  let d := ds.headD 0
  match k with
  | .elem op => [(List.range (genCount d)).map (fun n => some (e.elem op d xs n))]
  | .chain ops y z => [(List.range (genCount d)).map (fun n => some (e.chainElem ops y z d xs n))]
  | .red op row => e.redCodes op row ds ((VIn.gens xs).headD 0)
  | .move op => e.moveCodes op ds (VIn.gens xs)

/-! ### What contributes to what (10 R286) -/

/-- The source elements that contribute to element `n` of destination `i`. -/
def VecEnv.deps (e : VecEnv) (k : VecKind) (ds gs : List GenWord) (i n : Nat) : List (GenWord × Nat) :=
  let g := gs.headD 0
  let g2 := (gs.drop 1).headD 0
  let of (g : GenWord) (is : List Nat) : List (GenWord × Nat) := is.map (fun j => (g, j))
  match k with
  | .elem _ | .chain _ _ _ => gs.map (fun g => (g, n))
  | .red .scan _ => of g (List.range (n + 1))
  | .red (.topk c) row => of g ((redRanges row g).getD (n / max 1 c) [])
  | .red _ row => of g ((redRanges row g).getD n [])
  | .move .zip => [(gs.getD (n % gs.length) 0, n / gs.length)]
  | .move .unzip => [(g, n * ds.length + i)]
  | .move .perm => [(g, e.bits g2 n), (g2, n)]
  | .move .trans => let r := genCount g / genRow g; [(g, n % r * genRow g + n / r)]
  | .move .bcast => [(g, n % genCount g)]
  | .move .compact => of g (((e.maskOn g2).drop n).take 1) ++ of g2 (List.range (genCount g2))
  | .move .expand => of g ((((e.maskOn g2).zipIdx.find? (fun p => p.1 = n)).map (·.2)).toList) ++ of g2 (List.range (genCount g2))

/-- Whether a double-bit error lies in an element's bytes. -/
def VecEnv.struck (e : VecEnv) (g : GenWord) (n : Nat) : Bool :=
  n < genCount g && (unitsOf granule (e.base + genAt g n) (genBytes g)).any (fun k => k ∈ e.store.err)

/-- Whether a double-bit error contributes to element `n` of destination `i`. -/
def VecEnv.spoiled (e : VecEnv) (k : VecKind) (ds gs : List GenWord) (i n : Nat) : Bool :=
  !e.store.err.isEmpty && (e.deps k ds gs i n).any (fun p => e.struck p.1 p.2)

/-- Whole bytes of a mask destination: bits beyond the walk are 0 (10 R292). -/
def maskBytes (l : Codes) : List Byte :=
  (chunksOf 8 l.length l).map (fun c =>
    BitVec.ofNat 8 ((c.zipIdx.map (fun p => (p.1.getD (0, 0)).1 % 2 * 2 ^ p.2)).sum))

/-- Bytes that the codes of one destination write; `bad` tells of an element whether a double-bit error contributes to it. -/
def codeWrites (d : GenWord) (bad : Nat → Bool) (l : Codes) : List (Nat × List Byte × Bool) :=
  if genFmt d = fmtMask then
    (maskBytes l).zipIdx.map (fun p => (genBase d + p.2, [p.1], (List.range 8).any (fun i => 8 * p.2 + i < l.length && bad (8 * p.2 + i))))
  else l.zipIdx.filterMap (fun p => p.1.map (fun c => (genAt d p.2, bytesOf (genBytes d) c.1, bad p.2)))

/-- Flags by the offset of the element written. -/
def codeFlags (d : GenWord) (l : Codes) : List (Nat × Flags) :=
  l.zipIdx.filterMap (fun p => p.1.bind (fun c => if c.2 = 0 then none else some (genAt d p.2, c.2)))

/-! ### The command -/

/-- Whether a byte range of the place of work carries a poison mark. -/
def VecEnv.marked (e : VecEnv) (a n : Nat) : Bool := Store.bad granule e.store (e.base + a) n

/-- Offsets of the poisoned elements of a walk. -/
def VecEnv.badOf (e : VecEnv) (g : GenWord) : List Nat :=
  if (genSpans g).any (fun p => e.marked p.1.toNat p.2) then
    ((List.range (genCount g)).map (genAt g)).filter (fun a => e.marked a (genBytes g))
  else []

/-- The content checks of step 5 that are not poison: `VPERM`'s index list, and the set bits of `VEXPAND`'s mask. -/
def VecEnv.contentCode (e : VecEnv) (k : VecKind) (gs : List GenWord) : Option Nat :=
  let g := gs.headD 0
  let g2 := (gs.drop 1).headD 0
  match k with
  | .move .perm =>
    if (List.range (genCount g2)).any (fun j => e.bits g2 j ≠ idxSkip && genCount g ≤ e.bits g2 j) then some 42 else none
  | .move .expand => if genCount g < (e.maskOn g2).length then some 40 else none
  | _ => none

/-- The number of set mask bits, for `VCOMPACT`. -/
def VecEnv.countOf (e : VecEnv) (k : VecKind) (gs : List GenWord) : Option Nat :=
  match k with
  | .move .compact => some (e.maskOn ((gs.drop 1).headD 0)).length
  | _ => none

/-- The first failing check of steps 1 to 4 of 10 R285, by its error code; they look at no byte of the store. -/
def VecEnv.check (e : VecEnv) (k : VecKind) (ds : List GenWord) (xs : List VIn) : Option Nat :=
  let gs := VIn.gens xs
  if !k.formatsOk ds xs then some 39
  else if !k.countsOk ds gs then some 40
  else
    match (ds.filterMap (walkCode e.limit true) ++ gs.filterMap (walkCode e.limit false)).head? with
    | some c => some c
    | none => if destsMeet k gs ds then some 41 else none

/-- A vector command that writes no element: every destination's COUNT is 0 (10 R285). -/
def vecEmpty (ds : List GenWord) : Bool := ds.all (fun d => genCount d = 0)

/-- What a command that has passed steps 1 to 4 does with the contents of its sources (10 R285 step 5). -/
def VecEnv.make (e : VecEnv) (k : VecKind) (ds : List GenWord) (xs : List VIn) : Except Nat VecOut :=
  let gs := VIn.gens xs
  match e.contentCode k gs with
  | some c => .error c
  | none =>
    let cs := (List.zip ds (e.codes k ds xs)).zipIdx
    .ok ⟨(cs.map (fun p => codeWrites p.1.1 (e.spoiled k ds gs p.2) p.1.2)).flatten, (cs.map (fun p => codeFlags p.1.1 p.1.2)).flatten,
      (gs.map e.badOf).flatten, e.countOf k gs⟩

/-- What a vector command does (10 R285): an error code, or its effects. Where every destination's COUNT is 0 nothing is checked. -/
def VecEnv.run (e : VecEnv) (k : VecKind) (ds : List GenWord) (xs : List VIn) : Except Nat VecOut :=
  if vecEmpty ds then .ok .nothing
  else
    match e.check k ds xs with
    | some c => .error c
    | none => e.make k ds xs

/-- Whether the bytes written cover a 64-byte granule of the store whole. -/
def granuleCovered (base : Nat) (ws : List (Nat × List Byte × Bool)) (k : Nat) : Bool :=
  (List.range granule).all (fun i =>
    ws.any (fun w => decide (base + w.1 ≤ k * granule + i) && decide (k * granule + i < base + w.1 + w.2.1.length)))

/-- The bytes of one engine write put into a store: a granule that they cover whole loses its mark (20 R477). -/
def Store.writeAll (x : Store) (base : Nat) (ws : List (Nat × List Byte × Bool)) : Store :=
  let t := ws.foldl (fun x w => Store.putAll granule x (base + w.1) w.2.1) x
  { t with poison := t.poison.filter (fun k => !granuleCovered base ws k) }

end Sys2Proof.Machine
end

