-- ==== Sys2Proof/Machine/Data.lean ====
section
/-! DEFINITION. What a command does on the on-core stores after its issue (03 R96, R97, 17 R408): it reads its sources chunk by chunk, makes its
results from what it has read, and writes them chunk by chunk, each at a time that nothing fixes, and all by its completion point. -/

namespace Sys2Proof.Machine

/-! ### What is read -/

/-- The chunks that `n` bytes of a store touch. -/
def chunksIn (sp : Space) (a n : Nat) : List (Space × Nat) := (unitsOf sp.chunk a n).map (fun c => (sp, c))

/-- The chunks that a command reads. -/
def DataOp.need (op : DataOp) : List (Space × Nat) :=
  match op with
  | .load _ sz _ a => chunksIn .scratch a (szBytes sz)
  | .loadGen _ a => chunksIn .scratch a 16
  | .vote _ a n _ => chunksIn .scratch a ((n + 7) / 8)
  | .vec _ _ xs base _ _ _ =>
    ((VIn.gens xs).map (fun g => ((genSpans g).map (fun p => chunksIn .scratch (base + p.1.toNat) p.2)).flatten)).flatten
  | .acsOut _ _ n rows _ => (rows.map (fun r => chunksIn .acs (r * 4) (n * 4))).flatten
  | .acsIn n rows a => chunksIn .scratch a (rows.length * n * 4)
  | .tileLoad _ len rows => (rows.map (fun r => chunksIn .scratch r.1 len)).flatten
  | .tileStore len rows => (rows.map (fun r => chunksIn .tiles r.2 len)).flatten
  | .sacc fmt _ us => (us.map (fun u => chunksIn .scratch u.2 (saccBytes fmt))).flatten
  | .compress c => chunksIn .scratch c.a (c.n * fmtBytes c.src)
  | .store _ _ | .awInit _ _ _ | .awRead _ _ _ _ | .tileZero _ _ | .acsZero _ | .out _ | .accept _ => []

/-! ### What is made of it -/

/-- What a command makes of what it has read: its writes, the registers it owes, its flags. -/
structure Made where
  puts : List Put
  owed : List Owed
  flags : BitVec 5
  deriving DecidableEq, Repr

/-- Scratch bytes as a command has read them. -/
def View.bytes (v : View) (a n : Nat) : List Byte := Store.read granule v.scratch a n

/-- Whether what a command has read there is poisoned. -/
def View.foul (v : View) (a n : Nat) : Bool := Store.foul granule v.scratch a n

/-- A value that a load owes: a register, or a pair (08 R240). -/
def loadOwed (d : SReg) (sz : Fin 5) (sx : Bool) (x : Nat) : List Owed :=
  if sz = 4 then [.s d (BitVec.ofNat 64 x), .s (pairReg d) (BitVec.ofNat 64 (x / 2 ^ 64))] else [.s d (extend sx (szBytes sz) x)]

/-- The rows of an `ACSCP.OUT`: each element converted, with its own poison (09 R256, R257). -/
def acsOutPuts (v : View) (m : Fmode) (fmt n : Nat) (rows : List Nat) (a : Nat) : List Put × Flags :=
  let w := fmtBytes fmt
  let es := (rows.map (fun r => (List.range n).map (fun i => r + i))).flatten.zipIdx.map (fun p =>
    let c := acsOut m fmt (BitVec.ofNat 32 (natOf (Store.read acsRow v.acs (p.1 * 4) 4)))
    (Put.bytes .scratch (a + p.2 * w) (bytesOf w c.1) (v.acs.poison.contains p.1 || v.acs.err.contains p.1), c.2))
  (es.map Prod.fst, flagsOf (es.map Prod.snd))

/-- The rows of an `ACSCP.IN`. -/
def acsInPuts (v : View) (n : Nat) (rows : List Nat) (a : Nat) : List Put :=
  (rows.map (fun r => (List.range n).map (fun i => r + i))).flatten.zipIdx.map (fun p =>
    Put.bytes .acs (p.1 * 4) (v.bytes (a + p.2 * 4) 4) (v.foul (a + p.2 * 4) 4))

/-- What a command makes of what it has read; an error code where a poisoned or a bad source stops it. -/
def DataOp.made (op : DataOp) (v : View) : Except Nat Made :=
  match op with
  | .load d sz sx a => if v.foul a (szBytes sz) then .error 11 else .ok ⟨[], loadOwed d sz sx (natOf (v.bytes a (szBytes sz))), 0⟩
  | .loadGen d a =>
    let g := BitVec.ofNat 128 (natOf (v.bytes a 16))
    if v.foul a 16 then .error 11 else if genOk g then .ok ⟨[], [.g d g], 0⟩ else .error 31
  | .vote p a n all =>
    if v.foul a ((n + 7) / 8) then .error 11 else .ok ⟨[], [.p p (some (voteOf (v.bytes a ((n + 7) / 8)) n all))], 0⟩
  | .store a x => .ok ⟨[.bytes .scratch a x false], [], 0⟩
  | .vec k ds xs base limit mode dest =>
    match VecEnv.make ⟨v.scratch, base, limit, fun _ => mode⟩ k ds xs with
    | .error c => .error c
    | .ok r =>
      if !r.bad.isEmpty then .error 11
      else
        .ok ⟨r.writes.map (fun w => .bytes .scratch (base + w.1) w.2.1 w.2.2),
          (match dest, r.count with
            | some d, some n => [.s d (BitVec.ofNat 64 n)]
            | _, _ => []),
          flagsOf (r.flags.map Prod.snd)⟩
  | .acsOut m fmt n rows a => let r := acsOutPuts v m fmt n rows a; .ok ⟨r.1, [], r.2⟩
  | .acsIn n rows a => .ok ⟨acsInPuts v n rows a, [], 0⟩
  | .tileLoad fmt len rows =>
    if rows.any (fun r => v.foul r.1 len) then .error 11
    else .ok ⟨rows.map (fun r => .bytes .tiles r.2 ((v.bytes r.1 len).map (tileByte fmt)) false), [], 0⟩
  | .tileStore len rows =>
    .ok ⟨rows.map (fun r => .bytes .scratch r.1 (Store.read tileLine v.tiles r.2 len) (Store.foul tileLine v.tiles r.2 len)), [], 0⟩
  | .tileZero a n => .ok ⟨[.bytes .tiles a (List.replicate n 0) false], [], 0⟩
  | .acsZero rows => .ok ⟨rows.map (fun r => .bytes .acs (r * 4) (List.replicate acsRow 0) false), [], 0⟩
  | .sacc fmt m us =>
    .ok ⟨us.map (fun u => .add fmt m u.1 (natOf (v.bytes u.2 (saccBytes fmt))) (v.foul u.2 (saccBytes fmt))), [], 0⟩
  | .out ls => .ok ⟨ls.map (fun l => .line l.1 l.2.1 l.2.2.1 l.2.2.2), [], 0⟩
  | .accept ls => .ok ⟨ls.map (fun l => .accept l.1 l.2.1 l.2.2.1 l.2.2.2), [], 0⟩
  | .compress c =>
    let w := fmtBytes c.src
    let r := compressLines c (fun i => natOf (v.bytes (c.a + i * w) w)) (fun i => v.foul (c.a + i * w) w)
    .ok ⟨r.1.map (fun l => .accept (c.die l.1) l.1 l.2.1 l.2.2), [], r.2⟩
  | .awInit _ _ _ | .awRead _ _ _ _ => .ok ⟨[], [], 0⟩

/-! ### How it is written -/

/-- A write cut at the chunks of its store, with the number of each; any other stands whole. -/
def Put.cut (p : Put) : List (Nat × Put) :=
  match p with
  | .bytes sp a v bad =>
    (unitsOf sp.chunk a v.length).map (fun c =>
      let lo := max a (c * sp.chunk)
      let hi := min (a + v.length) ((c + 1) * sp.chunk)
      (c, .bytes sp lo ((v.drop (lo - a)).take (hi - lo)) bad))
  | _ => [(0, p)]

/-- The writes of a command in groups that take effect together: those to one chunk (03 R96). -/
def groupPuts (ps : List Put) : List (List Put) :=
  ((ps.map Put.cut).flatten.foldl (fun (m : Map (List Put)) e => m.set e.1 ((m.getD e.1 []) ++ [e.2])) []).vals

/-- Whether the order of a command's writes is fixed: the updates of a `SACC` (09 R263), the lines that a buffer takes. -/
def DataOp.ordered (op : DataOp) : Bool :=
  match op with
  | .sacc _ _ _ | .out _ | .accept _ | .compress _ => true
  | _ => false

def DataOp.groups (op : DataOp) (ps : List Put) : List (List Put) := if op.ordered then ps.map (fun p => [p]) else groupPuts ps

/-- Bytes of the scratchpad or the tiles that a write leaves unpoisoned. -/
def Put.clean (p : Put) : List (Space × Nat × Nat) :=
  match p with
  | .bytes sp a v false => [(sp, a, v.length)]
  | _ => []

/-- Units that a command's writes cover whole with unpoisoned bytes: their marks go with its last write (20 R477). -/
def clearsOf (ps : List Put) : List (Space × Nat) :=
  let rs := (ps.map Put.clean).flatten
  let whole (sp : Space) (k : Nat) : Bool :=
    (List.range sp.mark).all (fun i => rs.any (fun r => r.1 = sp && r.2.1 ≤ k * sp.mark + i && k * sp.mark + i < r.2.1 + r.2.2))
  ((rs.map (fun r => (unitsOf r.1.mark r.2.1 r.2.2).map (fun k => (r.1, k)))).flatten.eraseDups).filter (fun u => whole u.1 u.2)

/-- The marks and errors of units cleared. -/
def Core.clearMarks (x : Core) (us : List (Space × Nat)) : Core :=
  us.foldl (fun x u =>
    let st := x.store u.1
    x.setStore u.1 { st with poison := NatSet.erase st.poison u.2, err := NatSet.erase st.err u.2 }) x

/-- Bytes put into a store; poisoned bytes set the marks of their units. -/
def Core.putBytes (x : Core) (sp : Space) (a : Nat) (v : List Byte) (bad : Bool) : Core :=
  let st := Store.putAll sp.unit (x.store sp) a v
  x.setStore sp (if bad then { st with poison := (unitsOf sp.mark a v.length).foldl NatSet.insert st.poison } else st)

/-- A line taken by the undercoat store of a speculative job, or by the combine buffer of a real one (03 R93, 14 R385). -/
def State.takeLine (s : State) (j : Job) (die pa : Nat) (v : List Byte) (bad : Bool) : State :=
  match j.spec with
  | some n => (s.specWrite n j.part die pa v bad).getD s
  | none => s.combineWrite j.coreKey j.ctx j.launch die pa v bad

/-- One write of flight `k` of job `n` made. -/
def State.makePut (s : State) (k n : Nat) (p : Put) : State :=
  let j := s.jobOf n
  match p with
  | .bytes sp a v bad =>
    let s1 := s.modCore j.coreKey (fun x => x.putBytes sp a v bad)
    if sp = .scratch then s1.awSeen n (a - j.scrAddr 0) v.length else s1
  | .add fmt m a v bad =>
    let w := saccBytes fmt
    let st := (s.coreOf j.coreKey).scratch
    let r := saccAdd fmt m (natOf (Store.read granule st a w)) v
    ((s.modCore j.coreKey (fun x => { x with scratch := Store.write granule x.scratch a (bytesOf w r.1) (bad || Store.foul granule st a w) })).awSeen n
      (a - j.scrAddr 0) w).modFlight k (fun f => { f with flags := f.flags ||| r.2 })
  | .line die pa len src =>
    let st := (s.coreOf j.coreKey).scratch
    s.takeLine j die pa (Store.read granule st src len) (Store.foul granule st src len)
  | .accept die pa v bad => s.takeLine j die pa v bad

/-- An arrival-word command's one update (09 R259); what it owes. -/
def State.awUpdate (s : State) (n : Nat) (op : DataOp) : Except Nat (State × List Owed) :=
  let j := s.jobOf n
  let st := (s.coreOf j.coreKey).scratch
  let put (a : Nat) (v : List Byte) : State := s.modCore j.coreKey (fun x => { x with scratch := Store.write granule x.scratch a v false })
  match op with
  | .awInit w a v => .ok (((put a v).modJob n (fun j => { j with awErr := NatSet.erase j.awErr w })).awSeen n w 16, [])
  | .awRead d w a clr =>
    if Store.foul granule st a 16 then .error 11
    else .ok (if clr then (put (a + 12) (bytesOf 4 0)).awSeen n w 16 else s, loadOwed d 4 false (natOf (Store.read granule st a 16)))
  | _ => .ok (s, [])

/-! ### One step of it -/

/-- A flight's work on the on-core stores. -/
def State.dataOf (s : State) (k : Nat) : Option (Flight × DataWork) :=
  match s.flights.find? k with
  | none => none
  | some f =>
    match f.work with
    | .data d => some (f, d)
    | _ => none

def State.setData (s : State) (k : Nat) (d : DataWork) : State := s.modFlight k (fun f => { f with work := .data d })

/-- Whether a command's one step both reads and writes. -/
def DataOp.single (op : DataOp) : Bool :=
  match op with
  | .awInit _ _ _ | .awRead _ _ _ _ => true
  | _ => false

/-- One chunk read. -/
def State.readChunk (s : State) (k : Nat) (f : Flight) (d : DataWork) (rest : List (Space × Nat)) (u : Space × Nat) : State :=
  let core := (s.jobOf f.ref.job).coreKey
  let r := (s.coreOf core).capture d.seen u.1 u.2
  (s.modCore core (fun _ => r.1)).setData k { d with need := some rest, seen := r.2 }

/-- Requests to the homes, for a `COPYC` whose lines go there: the flight waits for their acknowledgements. -/
def State.sendLines (s : State) (k : Nat) (f : Flight) (c : Compress) (m : Made) : State :=
  let ls := m.puts.filterMap (fun p =>
    match p with
    | .accept die pa v bad => some (die, pa, v, bad)
    | _ => none)
  let s1 := s.modFlight k (fun f => { f with work := .writes ls.length, flags := m.flags })
  ls.foldl (fun s l => s.request k 0 (s.jobOf f.ref.job) f.ref (.write l.2.2.1) (pageKindOf c.kind) l.1 l.2.1 l.2.2.1.length none l.2.2.2
    (f.engine.getD 6)) s1

/-- The results made of what has been read. -/
def State.makeData (s : State) (k : Nat) (f : Flight) (d : DataWork) : State :=
  if d.op.single then
    match s.awUpdate f.ref.job d.op with
    | .error c => s.flightError k { code := c }
    | .ok (t, o) => t.setData k { d with outs := some [], owed := o }
  else
    match d.op.made d.seen with
    | .error c => s.flightError k { code := c }
    | .ok m =>
      match d.op with
      | .compress c =>
        if c.kind ≠ 0 && (s.jobOf f.ref.job).spec.isNone then s.sendLines k f c m
        else (s.setData k { d with outs := some (d.op.groups m.puts) }).modFlight k (fun f => { f with flags := m.flags })
      | _ =>
        (s.setData k { d with outs := some (d.op.groups m.puts), clears := clearsOf m.puts, owed := m.owed }).modFlight k
          (fun f => { f with flags := m.flags })

/-- Whether a `SACC`'s turn at the scatter unit has come (09 R263). -/
def State.scatterTurn (s : State) (k : Nat) (f : Flight) (op : DataOp) : Bool :=
  match op with
  | .sacc _ _ _ => ((s.coreOf (s.jobOf f.ref.job).coreKey).scatter.head?.map Prod.fst) = some k
  | _ => true

/-- One group of writes made; with the last one the marks of what was written whole go. -/
def State.makeGroup (s : State) (k : Nat) (f : Flight) (d : DataWork) (g : List Put) (rest : List (List Put)) : State :=
  let s1 := (g.foldl (fun s p => s.makePut k f.ref.job p) s).setData k { d with outs := some rest }
  if rest.isEmpty then s1.modCore (s.jobOf f.ref.job).coreKey (fun x => x.clearMarks d.clears) else s1

/-- One step of a command's work on the on-core stores: the chunks to read, one of them read, the results made, one group of writes. Which
chunk or group comes first is free. -/
def State.dataStep (s : State) (k : Nat) : State :=
  match s.dataOf k with
  | none => s
  | some (f, d) =>
    match d.need with
    | none => s.setData k { d with need := some d.op.need }
    | some (c :: r) =>
      let i := Config.order s.ticket % (r.length + 1)
      (s.readChunk k f d ((c :: r).eraseIdx i) ((c :: r).getD i c)).draw
    | some [] =>
      match d.outs with
      | none => s.makeData k f d
      | some [] => s
      | some (g :: r) =>
        if !s.scatterTurn k f d.op then s
        else
          let i := if d.op.ordered then 0 else Config.order s.ticket % (r.length + 1)
          (s.makeGroup k f d ((g :: r).getD i g) ((g :: r).eraseIdx i)).draw

/-- Whether a command's work is done. -/
def DataWork.over (d : DataWork) : Bool := d.outs == some []

/-- A step at a time that nothing fixes, and the next one later. -/
def State.effect (s : State) (k : Nat) : State :=
  match s.dataOf k with
  | none => s
  | some (_, d) => if d.over then s else if d.op.leaves then ((s.dataStep k).effectLater k).checkFences else (s.dataStep k).effectLater k

/-! ### The completion point -/

/-- `n` steps of a command's work. -/
def State.dataSteps (s : State) (k n : Nat) : State :=
  match n with
  | 0 => s
  | n + 1 => State.dataSteps (s.dataStep k) k n

/-- Steps that a command's work still has to take. -/
def State.dataLeft (s : State) (k : Nat) : Nat :=
  match s.dataOf k with
  | none => 0
  | some (_, d) =>
    match d.need with
    | none => 1
    | some l => l.length + (match d.outs with
      | none => 1
      | some g => g.length)

/-- All that is left of a command's work: the chunks to read are named, read, and made results of, and these are written. -/
def State.dataAll (s : State) (k : Nat) : State :=
  let s1 := s.dataSteps k (s.dataLeft k)
  let s2 := s1.dataSteps k (s1.dataLeft k)
  s2.dataSteps k (s2.dataLeft k)

/-- The next `SACC` starts at the scatter unit where `k` was the one it worked on (09 R263). -/
def State.nextScatter (s : State) (core k : Nat) : State :=
  match (s.coreOf core).scatter with
  | (h, _) :: r =>
    if h ≠ k then s
    else
      let s1 := s.modCore core (fun x => { x with scatter := r })
      match r with
      | [] => s1
      | (n, t) :: _ => s1.sched t (.finish n)
  | [] => s

/-- The core at whose scatter unit a command is. -/
def State.scatterCore (s : State) (k : Nat) : Option Nat :=
  (List.find? (fun e : Nat × Core => (e.2.scatter.head?.map Prod.fst) = some k) s.cores).map (·.1)

/-- The completion point of a command that works on the on-core stores: its work is done, and it writes the registers that it owes. One that
poison stops in a speculative job tries again once the job is real (06 R183). -/
def State.finishData (s : State) (k : Nat) : State :=
  let s1 := s.dataAll k
  let s2 := match s1.dataOf k with
    | none => s1
    | some (f, d) =>
      if d.over then (d.owed.foldl (fun s o => s.payOwed f.ref o) s1).finish k 0
      else s1.sched 1 (.finish k)
  match s.scatterCore k with
  | none => s2
  | some c => if (s2.dataOf k).isSome then s2 else s2.nextScatter c k

/-- A completion point. -/
def State.finishMove (s : State) (k : Nat) : State :=
  match s.dataOf k with
  | none =>
    (match s.scatterCore k with
    | none => s.finishLate k
    | some c => (s.finishLate k).nextScatter c k)
  | some (_, d) => if d.op.leaves then (s.finishData k).checkFences else s.finishData k

/-! ### The vector unit (10 R287) -/

/-- The command that takes the unit's next step: of the real ones where there is one (01 R45), of the first control core after the one served last
(the Trowel is the fifth), and of that one's the oldest (01 R8). -/
def VecUnit.pick (x : VecUnit) : Option VecReq :=
  let real := x.reqs.filter (fun r => !r.spec)
  let rs := if real.isEmpty then x.reqs else real
  ((List.range 5).map (fun i => (x.last + 1 + i) % 5)).findSome? (fun c => rs.find? (fun r => r.cc = c))

/-- The unit after a step of `q`: which leaves with its last one. -/
def VecUnit.step (x : VecUnit) (q : VecReq) : VecUnit :=
  { reqs := if q.steps ≤ 1 then x.reqs.erase q else x.reqs.replace q { q with steps := q.steps - 1 }, last := q.cc }

/-- A cycle of a core's vector unit: 5 cycles after the last step of a command comes its completion point. -/
def State.vecCycle (s : State) (core : Nat) : State :=
  match (s.coreOf core).vec.pick with
  | none => s
  | some q =>
    let s1 := s.modCore core (fun x => { x with vec := x.vec.step q })
    let s2 := match q.flight with
      | some k => if q.steps ≤ 1 then s1.sched 5 (.finish k) else s1
      | none => if q.steps ≤ 1 then s1.sched 5 (.trowel core .command) else s1
    if (s2.coreOf core).vec.reqs.isEmpty then s2 else s2.sched 1 (.vecStep core)

end Sys2Proof.Machine
end

