-- ==== Sys2Proof/Machine/Csr.lean ====
section
/-! DEFINITION. Control registers and time (08 R228 to R237). -/

namespace Sys2Proof.Machine

/-- `PWRU` of a core, as at the start of the cycle (08 R233). -/
def Core.pwru (x : Core) : Word := BitVec.ofNat 64 (x.refillWas % 65536 * 65536 + x.leftWas % 65536)

/-- `CYC`: cycles on a control core since job start, those of a restore with them (08 R234, 01 R40). -/
def Job.cyc (j : Job) (now : Nat) : Word := BitVec.ofNat 64 (j.cycBase + (if j.onCore || j.status = .resuming then now - j.cycSince else 0))

/-- PEND and DEPTH of a sampler context as at the start of cycle `now`. -/
def SCtx.depths (c : SCtx) (now : Nat) : Nat × Nat :=
  match c.was with
  | some (t, p, d) => if t = now then (p, d) else c.depthsNow
  | none => c.depthsNow

/-- `SPECDEPTH` as the job reads it: the fields of the context it selected last (08 R237). -/
def State.specDepth (s : State) (j : Job) : Word :=
  match (s.dieOf j.die).sampler.ctxs.find? j.specSel.toNat with
  | none => BitVec.ofNat 64 (j.specSel.toNat * 65536)
  | some c => BitVec.ofNat 64 (j.specSel.toNat * 65536 + (c.depths s.now).1 % 16 * 256 + (c.depths s.now).2 % 16)

/-- A control register as it stands now. -/
def State.csrNow (s : State) (n : Nat) : Word :=
  let j := s.job
  let t := s.st
  if n = 0x000 then j.fstat.setWidth 64
  else if n = 0x001 then j.fen.setWidth 64
  else if n = 0x002 then j.fmode.setWidth 64
  else if n = 0x008 then t.sbase
  else if n = 0x009 then t.slimit
  else if n = 0x010 then t.tvec
  else if n = 0x011 then t.tret
  else if n = 0x012 then t.tcause
  else if n = 0x018 then j.fmbackoff
  else if n = 0x020 then j.scrw
  else if n = 0x021 then j.jobtw
  else if n = 0x022 then j.jobid
  else if n = 0x023 then (s.coreOf j.coreKey).pwru
  else if n = 0x024 then j.cyc s.now
  else if n = 0x025 then s.ptpt
  else if n = 0x028 then s.specDepth j
  else j.tcfgOf (n - 0x040)

/-- A control register as at the start of the cycle: one of the job that another stream wrote in this cycle reads as before that write (08
R229, R231). -/
def State.csrOld (s : State) (n : Nat) : Word := (s.job.late.csrs.find? n).getD (s.csrNow n)

/-- Whether register `n` is a `TCFG` beyond the tile window (08 R230). -/
def State.csrBeyond (s : State) (n : Nat) : Bool := 0x040 ≤ n && s.job.tileCount ≤ n - 0x040

/-- Bits [63:0] of a value without the reserved bits of register `n` (08 R229). -/
def csrMask (n : Nat) : Word :=
  if n = 0x000 || n = 0x001 then 0x1F
  else if n = 0x002 then 0x7
  else if n = 0x008 || n = 0x009 then 0xFFFFFF
  else if n = 0x010 || n = 0x011 then 0xFFFFFFFFFFFF
  else if n = 0x012 then 0x800000FFFFFFFFFF
  else if n = 0x018 then 0xFFFFFFFF
  else 0xFFFF0F ||| 0xFF0000 ||| 0xFF00

/-- A write check of 02 R59: no reserved format, and a shape of at most 32,768 bytes. -/
def tcfgOk (w : Word) : Bool := tcfgFmt w ≤ 8 && tcfgRows w * tcfgCols w * fmtBytes (tcfgFmt w) ≤ 32768

/-- The register written, its value at the start of the cycle kept for this cycle's readers. -/
def State.csrSet (s : State) (n : Nat) (v : Word) : State :=
  let w := v &&& csrMask n
  if n = 0x008 then s.modSt (fun t => { t with sbase := w })
  else if n = 0x009 then s.modSt (fun t => { t with slimit := w })
  else if n = 0x010 then s.modSt (fun t => { t with tvec := w })
  else if n = 0x011 then s.modSt (fun t => { t with tret := w })
  else if n = 0x012 then s.modSt (fun t => { t with tcause := w, thaw := t.thaw || (t.inTrap && !w.getLsbD 63) })
  else
    let old := s.csrOld n
    let keep (j : Job) : Job := { j with late := { j.late with csrs := j.late.csrs.set n old } }
    if n = 0x000 then s.modJob s.cur.job (fun j => keep { j with fstat := w.setWidth 5 })
    else if n = 0x001 then s.modJob s.cur.job (fun j => keep { j with fen := w.setWidth 5 })
    else if n = 0x002 then s.modJob s.cur.job (fun j => keep { j with fmode := w.setWidth 3 })
    else if n = 0x018 then s.modJob s.cur.job (fun j => keep { j with fmbackoff := w })
    else s.modJob s.cur.job (fun j => keep { j with tcfg := j.tcfg.setIfInBounds (n - 0x040) w })

/-- `CSRR` (08 R229). A read of `PTPT` pauses a speculative job (08 R236). -/
def execCsrr (o : OpCsrr) (s : State) : Result :=
  command o.c { opc := 0x0A0, regs := [.s o.d], irrev := o.n = 0x025, lat := if o.n = 0x025 then 4 else 0, dst := [.s o.d] }
    (fun s => if s.csrBeyond o.n.toNat then Act.code 4 else .done (s.sput o.d (s.csrOld o.n.toNat)) 0) s

/-- Whether an issued command of the job names tile `t` and is short of its completion point (02 R62). -/
def State.tileBusy (s : State) (t : Nat) : Bool := s.flights.any (fun f => f.2.ref.job = s.cur.job && f.2.tiles.contains t)

/-- A control-register write: `f` forms the new value from the register and the operand. A `TCFG` is checked for its tile (02 R58), its
value (02 R59), and written only when no issued command that names the tile is short of its completion point (02 R62); that of the
stationary weights' tile waits for the array commands and voids the weights (11 R310). -/
def csrBody (n : Nat) (src : CsrSrc) (d : SReg) (f : Word → Word → Word) (s : State) : Act :=
  let old := s.csrOld n
  let v := f (s.csrNow n) (s.csrSrc src)
  if s.csrBeyond n then Act.code 4
  else if 0x040 ≤ n && s.weightsHeld (n - 0x040) then .wait s
  else if 0x040 ≤ n && s.tileBusy (n - 0x040) then .busy s
  else if 0x040 ≤ n && !tcfgOk (v &&& csrMask n) then Act.code 5
  else .done ((if 0x040 ≤ n then (s.csrSet n v).voidWeights (n - 0x040) else s.csrSet n v).sput d old) 0

/-- Set bits; clear bits. -/
def csrOr (a b : Word) : Word := a ||| b
def csrClear (a b : Word) : Word := a &&& ~~~b
def csrNew (_ b : Word) : Word := b

/-- `CSRW` (08 R229). -/
def execCsrw (o : OpCsrw) (s : State) : Result :=
  command o.c { opc := 0x0A1, regs := .s o.d :: CsrSrc_regs o.src } (csrBody o.n.toNat o.src o.d csrNew) s

/-- `CSRS`. -/
def execCsrs (o : OpCsrw) (s : State) : Result :=
  command o.c { opc := 0x0A2, regs := .s o.d :: CsrSrc_regs o.src } (csrBody o.n.toNat o.src o.d csrOr) s

/-- `CSRC`. -/
def execCsrc (o : OpCsrw) (s : State) : Result :=
  command o.c { opc := 0x0A3, regs := .s o.d :: CsrSrc_regs o.src } (csrBody o.n.toNat o.src o.d csrClear) s

/-- `RDCYC` is `CSRR` of `CYC`. -/
def execRdcyc (o : Op1) (s : State) : Result :=
  command o.c { opc := 0x0A4, regs := [.s o.d] } (fun s => .done (s.sput o.d (s.job.cyc s.now)) 0) s

/-- `RDPTP` is `CSRR` of `PTPT`; it pauses a speculative job (08 R236). -/
def execRdptp (o : Op1) (s : State) : Result :=
  command o.c { opc := 0x0A5, regs := [.s o.d], irrev := true, lat := 4, dst := [.s o.d] } (fun s => .done (s.sput o.d s.ptpt) 0) s

/-- A depth recorded as pending in a sampler context (12 R353). -/
def State.pendDepth (s : State) (die q d : Nat) : State :=
  s.modDie die (fun x =>
    match x.sampler.ctxs.find? q with
    | none => x
    | some c => { x with sampler := { x.sampler with ctxs := x.sampler.ctxs.set q { c.keepDepths s.now with pend := c.pend ++ [(d, s.now)] } } })

/-- A `CSRW` of `SPECDEPTH` (08 R237, 12 R353). A context that is not bound is owned by no VF. -/
def specdepthBody (o : OpCsrS) (s : State) : Act :=
  let v := s.csrSrc o.src
  let seq := natBits v.toNat 16 10
  let d := natBits v.toNat 0 4
  match (s.dieOf s.job.die).sampler.ctxs.find? seq with
  | none => if 8 < d then Act.code 24 else Act.code 25
  | some c =>
    if 8 < d then Act.code 24
    else if c.state = .idle then Act.code 25
    else if c.cfg.vf ≠ s.job.vf then Act.code 25
    else if c.cfg.dmax < d then Act.code 24
    else
      let old := s.csrOld 0x028
      .done (((s.pendDepth s.job.die seq d).modJob s.cur.job (fun j =>
        { j with specSel := BitVec.ofNat 10 seq, late := { j.late with csrs := j.late.csrs.set 0x028 old } })).sput o.d old) 0

def execSpecdepthWrite (o : OpCsrS) (s : State) : Result :=
  command o.c { opc := 0x0A1, regs := .s o.d :: CsrSrc_regs o.src, irrev := true } (specdepthBody o) s

/-- A `CSRW` of `TCFG`n (02 R59, R62). -/
def execTcfgWrite (o : OpTcfg) (s : State) : Result :=
  command o.c { opc := 0x0A1, regs := .s o.d :: CsrSrc_regs o.src } (csrBody (0x040 + o.n) o.src o.d csrNew) s

end Sys2Proof.Machine
end

