-- ==== Sys2Proof/Machine/Fabric.lean ====
section
/-! DEFINITION. Fabric messages and wakes (07 R214 to R216, 09 R270 to R276), and the wake registers of the queues (19 R433,
R434). -/

namespace Sys2Proof.Machine

/-! ### Port addresses (09 R271) -/

def faSeq8 (d : Word) : Nat := natBits d.toNat 56 8
def faPkg (d : Word) : Nat := natBits d.toNat 44 12
def faPart (d : Word) : Nat := natBits d.toNat 40 4
def faQueue (d : Word) : Nat := natBits d.toNat 28 12
def faJob (d : Word) : Nat := natBits d.toNat 8 20
def faPort (d : Word) : Nat := natBits d.toNat 0 3

/-- The job that a port address names: not completed, of the launch given by queue and low sequence bits. -/
def State.portJob (s : State) (d : Word) : Option Nat :=
  (List.find? (fun e : Nat × Job => e.2.status ≠ .done && e.2.part = faPart d && e.2.jobNo = faJob d &&
    natBits e.2.s7.toNat 32 12 = faQueue d && e.2.s7.toNat % 256 = faSeq8 d) s.jobs).map (·.1)

def Job.port (j : Job) (f : Nat) : Port := j.ports.toList.getD f Port.unbound

def Job.setPort (j : Job) (f : Nat) (p : Port) : Job := { j with ports := j.ports.setIfInBounds f p }

/-! ### Port descriptors (09 R272) -/

def Port.slots (p : Port) : Nat := natBits p.desc.toNat 0 8
def Port.slotBytes (p : Port) : Nat := 16 * natBits p.desc.toNat 8 12
def Port.buffer (p : Port) : Bool := p.desc.getLsbD 20
def Port.aw (p : Port) : Option Nat := if p.desc.getLsbD 51 then some (16 * natBits p.desc.toNat 32 19) else none
def Port.bound (p : Port) : Bool := p.slots ≠ 0

/-- Whether a slot holds an unpopped message or is the slot last popped. -/
def Port.taken (p : Port) (i : Nat) : Bool := p.popped = some i || p.held.any (fun m => m.slot = i)

/-- The next free slot from `next` on, around the ring (09 R273). -/
def Port.freeSlot (p : Port) : Option Nat :=
  ((List.range p.slots).map (fun i => (p.next + i) % p.slots)).find? (fun i => !p.taken i)

/-- A fault list entry (09 R275). -/
def faultEntry (num : BitVec 16) (cause slot : Nat) : Word :=
  BitVec.ofNat 64 (2 ^ 63 + num.toNat * 2 ^ 32 + cause * 256 + slot)

def Port.fault (p : Port) (num : BitVec 16) (cause slot : Nat) : Port :=
  if p.faults.length < 32 then { p with faults := p.faults ++ [faultEntry num cause slot] } else p

/-! ### Receiving (07 R214, 09 R273) -/

/-- What a receiver answers: an acknowledgement, a negative one, nothing, or a rejection of the address. -/
inductive Reply where
  | ack | nack | silent | reject
  deriving DecidableEq, Repr

/-- Counts a landing of a message on the port's arrival word. -/
def State.portLand (s : State) (k : Nat) (p : Port) (n : Nat) (faulted : Bool) : State :=
  match p.aw with
  | none => s
  | some a => s.landOn k a n faulted

/-- One accepted message at port `f` of job `k`. -/
def State.acceptMsg (s : State) (k f : Nat) (num : BitVec 16) (slot : Nat) (data : List Byte) (bad : Bool) : State :=
  let j := s.jobOf k
  let p := j.port f
  let n := data.length
  let shown := if p.buffer then slot else 0xFF
  let put (p : Port) (i : Nat) : State :=
    ((s.modJob k (fun j => j.setPort f p)).scrWrite j (p.ring + i * p.slotBytes) data false).portLand k p n false
  let fail (c : Nat) : State := (s.modJob k (fun j => j.setPort f (p.fault num c shown))).portLand k p n true
  if bad then fail 1
  else if p.slotBytes < n then fail 2
  else if p.buffer then (if p.slots ≤ slot then fail 3 else put p slot)
  else
    match p.freeSlot with
    | none => s
    | some i => put { p with held := p.held ++ [⟨i, n⟩], next := (i + 1) % p.slots } i

/-- A message at its receiver: `sender` is its key. (DEDUCED, log 32) -/
def State.receive (s : State) (sender : Nat) (dest : Word) (num : BitVec 16) (slot : Nat) (data : List Byte) (bad : Bool) :
    State × Reply :=
  match s.portJob dest with
  | none => (s, .reject)
  | some k =>
    let j := s.jobOf k
    let f := faPort dest
    let p := j.port f
    let e := p.expect.getD sender 0
    if !p.bound || !j.onCore then (s, .nack)
    else if num = e then
      if !p.buffer && p.freeSlot.isNone then (s, .nack)
      else
        ((s.modJob k (fun j => j.setPort f { p with expect := p.expect.set sender (num + 1) })).acceptMsg k f num slot data bad, .ack)
    else if (e - num).toNat ≤ 32 then (s, .ack)
    else (s, .silent)

/-! ### Sending (07 R215, 09 R274) -/

/-- Key of a sending job; sampler contexts, tokenisers and peers have keys of their own. -/
def jobKey (k : Nat) : Nat := 4 * k
def samplerKey (die ctx : Nat) : Nat := 4 * (die * 1024 + ctx) + 1
def tokeniserKey (request : Nat) : Nat := 4 * request + 2
def peerKey (pkg n : Nat) : Nat := 4 * (n * 4096 + pkg) + 3

/-- The sending side of a destination. -/
def Job.sender (j : Job) (d : Word) : Sender := (j.senders.find? (fun x => x.dest = d)).getD ⟨d, 0, [], 0, none, none⟩

def Job.setSender (j : Job) (x : Sender) : Job :=
  if j.senders.any (fun y => y.dest = x.dest) then { j with senders := j.senders.map (fun y => if y.dest = x.dest then x else y) }
  else { j with senders := j.senders ++ [x] }

/-- A message enters the fabric: to the receiver of this package, or out of the device to another. -/
def State.transmit (s : State) (m : Fmsg) : State :=
  if faPkg m.dest = s.pkg then
    let k := s.nextId
    ({ s.newId with fmsgs := s.fmsgs.set k m }).later .fabricMessageArrival { a := k }
  else { s with outbox := s.outbox ++ [.peerMsg m] }

/-- Sends one message of a job's window, its payload read now (09 R274). -/
def State.sendNow (s : State) (k : Nat) (d : Word) (m : SentMsg) : State :=
  let j := s.jobOf k
  s.transmit ⟨jobKey k, d, m.num, m.slot, s.scrRead j m.src m.len, s.scrBad j m.src m.len⟩

/-- Whether an address is rejected at issue (09 R271). -/
def State.destBad (s : State) (j : Job) (d : Word) : Bool :=
  if faPkg d = j.pkg then faPart d ≠ j.part || (s.portJob d).isNone else !Config.pairEnabled (faPkg d) (faPart d) j.part

/-- `FMSEND`: length, payload, destination (whose reserved bits name nothing, 00 R5), then a place in the replay window. (DEDUCED, log 34) -/
def fmsendBody (o : OpFmsend) (u : Use) (s : State) : Act :=
  let n := (s.sget o.n).toNat
  let d := s.sget o.p &&& ~~~0xF8#64
  if n = 0 || 4096 < n then Act.code 35
  else (s.scrOperand o.b 0 n 1).andThen fun a =>
    let j := s.job
    let x := j.sender d
    if s.destBad j d then Act.code 33
    else if 32 ≤ x.window.length || (x.window.isEmpty && 64 ≤ (j.senders.filter (fun y => !y.window.isEmpty)).length) then .wait s
    else
      let m : SentMsg := ⟨x.next, a, n, natBits (s.sget o.slot).toNat 0 8, s.nextId⟩
      let s1 := (s.fly o.c u (.message d x.next) []).modJob s.cur.job
        (fun j => j.setSender { x with next := x.next + 1, window := x.window ++ [m] })
      .fly (if x.backoff.isSome then s1 else s1.sendNow s.cur.job d m)

def fmsendUse (o : OpFmsend) : Use := { opc := 0x0E2, regs := [.s o.p, .s o.b, .s o.n, .s o.slot], irrev := true }

def execFmsend (o : OpFmsend) (s : State) : Result := command o.c (fmsendUse o) (fmsendBody o (fmsendUse o)) s

/-- The reply to a job's message goes back to it. -/
def State.replyTo (s : State) (sender : Nat) (dest : Word) (num : BitVec 16) (r : Reply) : State :=
  let g : Args := { a := sender / 4, word := dest, b := num.toNat }
  match r with
  | .ack => s.later .fabricAckReceived g
  | .nack => s.later .fabricNackReceived g
  | .reject => s.later .fabricNackReceived { g with flag := true }
  | .silent => s

/-- A message of this package arrives. Order holds within a virtual channel (20 R479), so it does not pass an older one of its sender and
destination. A unit that is not a job keeps its message until it is accepted. -/
def State.arrive (s : State) (k : Nat) : State :=
  match s.fmsgs.find? k with
  | none => s
  | some m =>
    if s.fmsgs.any (fun e => e.1 < k && e.2.sender = m.sender && e.2.dest = m.dest) then s.post 1 .fabricMessageArrival { a := k }
    else
      let t := s.receive m.sender m.dest m.num m.slot m.data m.poison
      if m.sender % 4 = 0 then ({ t.1 with fmsgs := t.1.fmsgs.erase k }).replyTo m.sender m.dest m.num t.2
      else if t.2 = .nack then t.1.later .fabricMessageArrival { a := k }
      else { t.1 with fmsgs := t.1.fmsgs.erase k }

/-- A message from another package arrives: accepted only for an enabled pair of partitions (09 R271). -/
def State.arrivePeer (s : State) (pkg part : Nat) (g : Args) : State :=
  if !Config.pairEnabled pkg part (faPart g.word) || faPkg g.word ≠ s.pkg then s
  else
    let t := s.receive (peerKey pkg g.a) g.word (BitVec.ofNat 16 g.b) g.c g.data g.flag
    match t.2 with
    | .ack => { t.1 with outbox := t.1.outbox ++ [.peerAck g.a g.word (BitVec.ofNat 16 g.b) false] }
    | .nack => { t.1 with outbox := t.1.outbox ++ [.peerAck g.a g.word (BitVec.ofNat 16 g.b) true] }
    | _ => t.1

def execFabricMessageArrival (s : State) : Result :=
  .next (match s.args.src with
    | .peer pkg part => s.arrivePeer pkg part s.args
    | _ => s.arrive s.args.a)

/-- Whether an acknowledgement of an earlier number of the same window is still on its way (20 R479). -/
def State.ackBehind (s : State) (g : Args) : Bool :=
  s.agenda.any (fun e =>
    match e.move with
    | .event .fabricAckReceived h =>
      h.a = g.a && h.word = g.word && h.b ≠ g.b && (BitVec.ofNat 16 g.b - BitVec.ofNat 16 h.b).toNat < 2 ^ 15
    | _ => false)

/-- An acknowledgement frees its message and every earlier one (07 R215); each is the completion point of its `FMSEND`. Any one, of a message
that has left the window too, resets k. -/
def State.acked (s : State) (k : Nat) (d : Word) (num : BitVec 16) : State :=
  let x := (s.jobOf k).sender d
  if !(x.window.any (fun m => m.num = num)) then
    (if x.nacks = 0 then s else s.modJob k (fun j => j.setSender { x with nacks := 0 }))
  else
    let gone := x.window.takeWhile (fun m => m.num ≠ num) ++ x.window.filter (fun m => m.num = num)
    let s1 := s.modJob k (fun j => j.setSender { x with window := x.window.drop gone.length, nacks := 0 })
    (gone.foldl (fun s m => s.finish m.flight 0) s1).checkFences

def execFabricAckReceived (s : State) : Result :=
  let g := s.args
  .next (if s.ackBehind g then s.post 1 .fabricAckReceived g else s.acked g.a g.word (BitVec.ofNat 16 g.b))

/-- Back-off of the k-th consecutive negative acknowledgement (07 R215). (DEDUCED, log 33) -/
def backoffTime (w : Word) (k : Nat) : Nat :=
  let base := natBits w.toNat 0 16
  let cap := natBits w.toNat 16 16
  min (base * 2 ^ (k - 1)) (max base cap)

/-- A negative acknowledgement stops sending to the queue for the back-off time. A later one that comes while a back-off runs keeps the
earliest number to resend. -/
def State.nacked (s : State) (k : Nat) (d : Word) (num : BitVec 16) : State :=
  let j := s.jobOf k
  let x := j.sender d
  if !(x.window.any (fun m => m.num = num)) then s
  else
    let n := x.nacks + 1
    let stop := s.now + backoffTime j.fmbackoff n
    let keep := match x.resend with
      | none => num
      | some old => if (num - old).toNat < 2 ^ 15 then old else num
    (s.modJob k (fun j => j.setSender
      { x with nacks := n, backoff := some (max stop (x.backoff.getD 0)), resend := some keep })).post
        (max stop (x.backoff.getD 0) - s.now) .fmBackoffExpiry { a := k, word := d }

/-- A rejected address: `FM_DEST` when the reply returns (09 R271). -/
def State.rejected (s : State) (k : Nat) (d : Word) (num : BitVec 16) : State :=
  match (((s.jobOf k).sender d).window.find? (fun m => m.num = num)) with
  | none => s
  | some m => s.flightError m.flight { code := 33 }

def execFabricNackReceived (s : State) : Result :=
  let g := s.args
  let n := BitVec.ofNat 16 g.b
  .next (if s.ackBehind g then s.post 1 .fabricNackReceived g
    else if g.flag then s.rejected g.a g.word n else s.nacked g.a g.word n)

/-- The end of a back-off: the number, where no acknowledgement has freed it, and every later unacknowledged message are sent again, in
order. -/
def State.resend (s : State) (k : Nat) (d : Word) : State :=
  let x := (s.jobOf k).sender d
  match x.backoff, x.resend with
  | some t, some n =>
    if s.now < t then s
    else
      (x.window.filter (fun m => decide ((m.num - n).toNat < 2 ^ 15))).foldl (fun s m => s.sendNow k d m)
        (s.modJob k (fun j => j.setSender { x with backoff := none, resend := none }))
  | _, _ => s

def execFmBackoffExpiry (s : State) : Result := .next (s.resend s.args.a s.args.word)

/-! ### `FMRECV` (09 R272, R275) -/

/-- Whether a port descriptor has only defined values: SLOTS 0 to 64, SLOTSZ 1 to 256. -/
def portDescOk (d : Word) : Bool :=
  natBits d.toNat 0 8 ≤ 64 && (natBits d.toNat 0 8 = 0 || (1 ≤ natBits d.toNat 8 12 && natBits d.toNat 8 12 ≤ 256))

/-- A descriptor without its reserved bits (00 R5). -/
def portMask : Word := 0x000FFFFF001FFFFF

/-- The arrival word of a descriptor must lie in the window. -/
def State.awCheck (s : State) (p : Port) : Check Nat :=
  match p.aw with
  | none => .ok 0
  | some w => s.chkScr 0 w 16 16

/-- `FMRECV.BIND`. -/
def fmBindBody (o : OpFmBind) (s : State) : Act :=
  let d := s.sget o.d &&& portMask
  let p : Port := { Port.unbound with desc := d }
  let old := s.job.ports[o.f]
  if !portDescOk d then Act.code 34
  else (s.scrOperand o.a 0 (p.slots * p.slotBytes) 16).andThen fun a =>
    (s.awCheck p).andThen fun _ =>
    if !old.held.isEmpty then Act.code 34
    else .done (s.modJob s.cur.job (fun j => j.setPort o.f { p with ring := a, expect := old.expect })) 0

def execFmrecvBind (o : OpFmBind) (s : State) : Result :=
  command o.c { opc := 0x0E3, regs := [.s o.a, .s o.d], irrev := true } (fmBindBody o) s

/-- `FMRECV.POP`: frees the slot of the port's previous `POP` and answers the oldest message's slot and length. -/
def fmPopBody (o : OpFmPop) (s : State) : Act :=
  let p := s.job.ports[o.f]
  if p.bound && p.buffer then Act.code 34
  else
    match p.bound, p.held with
    | true, m :: rest =>
      .done ((s.modJob s.cur.job (fun j => j.setPort o.f { p with held := rest, popped := some m.slot })).sput o.d
        (BitVec.ofNat 64 (m.len * 2 ^ 32 + (p.ring + m.slot * p.slotBytes)))) 0
    | _, _ => .wait s

def execFmrecvPop (o : OpFmPop) (s : State) : Result := command o.c { opc := 0x0E3, regs := [.s o.d] } (fmPopBody o) s

/-- `FMRECV.FLT`. -/
def fmFltBody (o : OpFmPop) (s : State) : Act :=
  let p := s.job.ports[o.f]
  .done ((s.modJob s.cur.job (fun j => j.setPort o.f { p with faults := p.faults.tail })).sput o.d (p.faults.headD 0)) 0

def execFmrecvFlt (o : OpFmPop) (s : State) : Result := command o.c { opc := 0x0E3, regs := [.s o.d] } (fmFltBody o) s

/-! ### Wakes (09 R276, 19 R433, R434) -/

/-- A table entry that nothing has written. -/
def Queue.blank : Queue := ⟨0, 0, 0, 0, 0, 0, false, false, false⟩

def State.queueOf (s : State) (q : Nat) : Queue := s.queues.getD q Queue.blank

def State.modQueue (s : State) (q : Nat) (f : Queue → Queue) : State := { s with queues := s.queues.set q (f (s.queueOf q)) }

/-- Fields of W0 (19 R431). -/
def Queue.valid (e : Queue) : Bool := e.w0.getLsbD 63
def Queue.direct (e : Queue) : Bool := e.w0.getLsbD 62
def Queue.kwake (e : Queue) : Bool := e.w0.getLsbD 61
def Queue.klaunch (e : Queue) : Bool := e.w0.getLsbD 60
def Queue.part (e : Queue) : Nat := natBits e.w0.toNat 56 4
def Queue.vf (e : Queue) : Nat := natBits e.w0.toNat 48 8
def Queue.ctxNo (e : Queue) : Nat := natBits e.w0.toNat 40 8
def Queue.size (e : Queue) : Nat := 2 ^ natBits e.w0.toNat 32 5
def Queue.die (e : Queue) : Nat := natBits e.w0.toNat 27 3
/-- CTXID of the queue's context. -/
def Queue.ctx (e : Queue) : Nat := e.part * 256 + e.ctxNo

def Queue.stalled (e : Queue) : Queue := { e with stale := min (e.stale + 1) 65535 }

/-- `wake` of 19 R433. -/
def Queue.wake (e : Queue) (v : BitVec 32) : Queue :=
  if !e.valid || e.direct || (v - e.wseq).toInt ≤ 0 then e.stalled
  else if e.size < (v - e.rseq).toNat then { e with overrun := true }
  else { e with wseq := v, pending := true }

/-- Whether jobs of partition `p` may ring the queue (19 R431 KWAKE). -/
def Queue.rings (e : Queue) (p : Nat) : Bool := e.valid && e.kwake && e.part = p

/-- A store handled by the queue's scheduler, whose scanner then runs. -/
def State.wake (s : State) (q : Nat) (v : BitVec 32) : State :=
  (s.modQueue q (fun e => e.wake v)).ensure 1 .poolGrant { a := (s.queueOf q).die }

/-- One more queue error of a VF (19 R434). -/
def State.queueError (s : State) (vf : Nat) : State :=
  let x := s.vfs.getD vf Vf.init
  { s with vfs := s.vfs.set vf { x with qErrors := x.qErrors + 1 } }

/-- The end of a `WAKE`: its flight and the permission that the reply brings. -/
def State.wakeReply (s : State) (k : Nat) (ok : Bool) : State :=
  if ok then s.finish k 0 else s.flightError k { code := 36 }

/-- A store to a wake register. From inside, `b` is one more than the partition whose permission counts, or 0; `c` one more than the flight
of a `WAKE`, or 0; `flag` tells that the register is another package's. -/
def execWakeRegisterStore (s : State) : Result :=
  let g := s.args
  let q := g.a
  let v : BitVec 32 := g.word.setWidth 32
  let e := s.queueOf q
  .next (match g.src with
    | .host vf width => if !e.valid || e.vf ≠ vf || width < 8 then s.queueError vf else s.wake q v
    | .peer pkg part => if Config.pairEnabled pkg part e.part then s.wake q v else s.queueError e.vf
    | .inside =>
      if g.flag then
        let s1 := { s with outbox := s.outbox ++ [.peerWake (natBits g.word.toNat 32 12) q v] }
        if g.c = 0 then s1 else (s1.wakeReply (g.c - 1) (Config.flag s.ticket)).draw
      else if g.b = 0 || e.rings (g.b - 1) then
        let s1 := s.wake q v
        if g.c = 0 then s1 else s1.wakeReply (g.c - 1) true
      else if g.c = 0 then (if e.valid then s.modQueue q Queue.stalled else s)
      else s.wakeReply (g.c - 1) false)

/-- `WAKE`: 12 cycles to a queue of its own die, else a time that the device does not fix. (DEDUCED, log 35) -/
def wakeBody (o : OpWake) (u : Use) (s : State) : Act :=
  let a := (s.sget o.a).toNat
  let q := natBits a 0 12
  let pkg := natBits a 44 12
  let j := s.job
  let scope : Scope := if pkg = j.pkg then .package else .fabric
  if a ≠ pkg * 2 ^ 44 + q then Act.code 36
  else if !s.released s.cur scope s.nextId s.now then .busy (s.fenceStart s.cur false scope)
  else
    let s1 := s.fly o.c u (.wake q ((s.sget o.v).setWidth 32) true) []
    let g : Args := { a := q, b := j.part + 1, c := s.nextId + 1, word := (s.sget o.v).setWidth 32 |>.setWidth 64 }
    if pkg ≠ j.pkg then
      .fly (s1.later .wakeRegisterStore { g with word := BitVec.ofNat 64 (pkg * 2 ^ 32) ||| g.word, flag := true })
    else if (s.queueOf q).die = j.die then .fly (s1.post 12 .wakeRegisterStore g)
    else .fly (s1.later .wakeRegisterStore g)

def wakeUse (o : OpWake) : Use := { opc := 0x0E4, regs := [.s o.a, .s o.v], irrev := true }

def execWake (o : OpWake) (s : State) : Result := command o.c (wakeUse o) (wakeBody o (wakeUse o)) s

end Sys2Proof.Machine
end

