-- ==== Sys2Proof/Machine/Array.lean ====
section
/-! DEFINITION. The matrix array (04 R137 to R141, 11 R303 to R312): what a row adds to the accumulator store, the power budget, the array's
requesters and terms, and the allotments of the accumulator store (02 R63 to R67). -/

namespace Sys2Proof.Machine

/-! ### Row arithmetic -/

/-- The three paths of 04 R137. -/
inductive MacPath where
  | fp8 | int | fp16
  deriving DecidableEq, Repr

def small8 (f : Nat) : Bool := 1 ≤ f && f ≤ 4

/-- The path of a pair of weight and activation formats; none for a pair that 04 R137 does not list. (DEDUCED, log 43) -/
def macPath (w a : Nat) : Option MacPath :=
  if small8 w && small8 a then some .fp8
  else if w = 0 && a = 0 then some .int
  else if (w = 5 || w = 6) && a = w then some .fp16
  else none

/-- Cycles between two rows that enter the array (11 R317). -/
def MacPath.rate (p : MacPath) : Nat := if p = .fp16 then 4 else 1

/-- The sum of one group of products on the 8-bit path, as an FP32 code (04 R139): a NaN operand comes before an invalid product. (DEDUCED, log
101) -/
def groupSum (a w : List Num) : Nat × Flags :=
  if a.any Num.isNan || w.any Num.isNan then (canonNan 7, 0)
  else
    let ps := (List.zip a w).map (fun p => (Num.mul p.1 p.2).1)
    let up := ps.any (fun p => p == .inf false)
    let down := ps.any (fun p => p == .inf true)
    if ps.any Num.isNan || (up && down) then (canonNan 7, Flags.iv)
    else if up then (infCode 7, 0)
    else if down then (infCode 7 + 2 ^ 31, 0)
    else (toCode (ps.foldl (fun x p => (Num.add x p).1) (.fin false 0 0)), 0)

/-- FP32 additions in order. -/
def addAll (acc : Nat) (gs : List (Nat × Flags)) : Nat × Flags :=
  gs.foldl (fun t g => let r := f32Add t.1 g.1; (r.1, t.2 ||| g.2 ||| r.2)) (acc, 0)

/-- An element updated on the 8-bit path: four groups of 64. -/
def macFp8 (acc : Nat) (a w : List Num) : Nat × Flags :=
  addAll acc ((List.range 4).map (fun g => groupSum ((a.drop (64 * g)).take 64) ((w.drop (64 * g)).take 64)))

/-- An element updated on the integer path (04 R140). -/
def macInt (acc : Nat) (a w : List Int) : Nat × Flags :=
  let t := toSigned 32 acc + ((List.zip a w).map (fun p => p.1 * p.2)).sum
  (ofSigned 32 t, if t < -(2 ^ 31) || 2 ^ 31 ≤ t then Flags.iof else 0)

/-- An element updated on the 16-bit path: sixteen groups of 16 (04 R141); a position that is not used adds +0. (DEDUCED, log 39) -/
def macFp16 (acc : Nat) (a w : List Num) : Nat × Flags :=
  let ps := (List.zip a w).map (fun p => toF32 (Num.mul p.1 p.2))
  let all := ps.map Prod.fst ++ List.replicate (256 - ps.length) 0
  let gs := (List.range 16).map (fun g => treeSum 5 ((all.drop (16 * g)).take 16))
  let r := addAll acc gs
  (r.1, r.2 ||| flagsOf (ps.map Prod.snd))

/-- One element: its old code, the row's codes, and the weights' column. -/
def macElem (p : MacPath) (wf af : Nat) (mw ma : Fmode) (acc : Nat) (a w : List Nat) : Nat × Flags :=
  match p with
  | .fp8 => macFp8 acc (a.map (fetchNum ma af)) (w.map (fetchNum mw wf))
  | .int => macInt acc (a.map (toSigned 8)) (w.map (toSigned 8))
  | .fp16 => macFp16 acc (a.map (fetchNum ma af)) (w.map (fetchNum mw wf))

/-- The codes that bytes spell, `n` bytes each. -/
def codesOf (n : Nat) (l : List Byte) : List Nat := (chunksOf n l.length l).map natOf

/-- A row of the array: the updated codes of columns 0 to N − 1 from their old codes (zeros under `.SET`), and flags. -/
def macRow (p : MacPath) (wcfg : Word) (weights : List Byte) (af : Nat) (mw ma : Fmode) (old : List Nat) (row : List Byte) :
    List Nat × Flags :=
  let wf := tcfgFmt wcfg
  let n := tcfgCols wcfg
  let a := codesOf (fmtBytes af) row
  let ws := codesOf (fmtBytes wf) weights
  let rs := (List.range n).map (fun j =>
    macElem p wf af mw ma (old.getD j 0) a ((List.range a.length).map (fun k => ws.getD (k * n + j) 0)))
  (rs.map Prod.fst, flagsOf (rs.map Prod.snd))

/-! ### The power budget (11 R311, R312) -/

/-- Set bits of a byte. -/
def popByte (b : Byte) : Nat := ((List.range 8).filter (fun i => b.getLsbD i)).length

/-- Bits in which two rows differ. -/
def rowToggles (a b : List Byte) : Nat := ((List.zip a b).map (fun p => popByte (p.1 ^^^ p.2))).sum

def allToggles (rows : List (List Byte)) : Nat :=
  match rows with
  | a :: b :: r => rowToggles a b + allToggles (b :: r)
  | _ => 0

/-- The toggle estimate of `n` source rows, of which `rows` are the first, at most 8. -/
def toggleEstimate (rows : List (List Byte)) : Nat :=
  let p := rows.length - 1
  if p = 0 then 15 else min 15 (16 * allToggles rows / (p * (8 * (rows.headD []).length)))

/-- Bytes of a tile row under a configuration. -/
def rowBytes (cfg : Word) : Nat := tcfgCols cfg * fmtBytes (tcfgFmt cfg)

/-- Rows of a tile, `n` from row `i`. -/
def State.tileRows (s : State) (j : Job) (t : Nat) (cfg : Word) (i n : Nat) : List (List Byte) :=
  (List.range n).map (fun k => s.tileRead j t ((i + k) * rowBytes cfg) (rowBytes cfg))

/-- Estimate of a weight load. -/
def State.loadEstimate (s : State) (j : Job) (w : Weights) : Nat :=
  toggleEstimate (s.tileRows j w.tile w.cfg 0 (min 8 (tcfgRows w.cfg)))

/-- Estimate of a part's rows. -/
def State.partEstimate (s : State) (j : Job) (c : ArrCmd) (p : ArrPart) : Nat :=
  toggleEstimate (s.tileRows j c.tile c.cfg p.first (min 8 p.count))

/-- Whether a command's head part is still to be charged for a weight load. -/
def ArrCmd.wantsLoad (c : ArrCmd) (j : Job) (p : ArrPart) : Bool :=
  !c.loaded && (match c.kind with
    | .load => true
    | .both => true
    | .sparse => j.ran ≠ some p.weights
    | .rows => false)

/-- Estimate of what a command charges next. -/
def State.cmdEstimate (s : State) (j : Job) (c : ArrCmd) : Nat :=
  match c.parts with
  | [] => 0
  | p :: _ => if c.wantsLoad j p then s.loadEstimate j p.weights else s.partEstimate j c p

/-- A charge taken from the core's budget at the start of a part; none where it must wait. -/
def State.pay (s : State) (core charge : Nat) (spec : Bool) : Option State :=
  let x := s.coreOf core
  let c := min charge x.refill
  let rest := if spec then min x.refill (15 * (1024 - s.now % 1024)) else 0
  if c + rest ≤ x.left then some (s.modCore core (fun x => { x with left := x.left - c })) else none

/-! ### The array's requesters (11 R307, R308) -/

/-- The job on a control core. -/
def State.onCc (s : State) (core cc : Nat) : Option (Nat × Job) :=
  List.find? (fun e : Nat × Job => e.2.onCore && e.2.coreKey = core && e.2.cc = cc) s.jobs

/-- Whether every stream of a job stands at a pre-emption point or has ended (01 R36, R37). -/
def Job.allStopped (j : Job) : Bool := letters.all (fun l => (j.stream l).stopped || (j.stream l).ended)

/-- Whether the job on a control core requests the array: an active lease and a command in its queue. -/
def State.ccWants (s : State) (core cc : Nat) : Bool :=
  match s.onCc core cc with
  | none => false
  | some e => e.2.lease && !e.2.arrayQ.isEmpty && e.2.save.isNone && !(e.2.preempt.isSome && e.2.allStopped)

/-- Whether the front pass waits for the array: its blocks granted and its weights in the buffer (13 R362). -/
def Trowel.wants (t : Trowel) : Bool :=
  match t.front with
  | none => false
  | some p => !p.blocks.isEmpty && p.weights && !p.ran

/-- Everyone who requests the array. -/
def State.arrayWants (s : State) (core : Nat) : List Holder :=
  ((List.range 4).filter (s.ccWants core)).map Holder.cc ++ (if (s.coreOf core).trowel.wants then [.trowel] else [])

/-- Whether a holder is a speculative job. -/
def State.holderSpec (s : State) (core : Nat) (h : Holder) : Bool :=
  match h with
  | .trowel => false
  | .cc n => ((s.onCc core n).map (fun e => e.2.spec.isSome)).getD false

/-- The requests as they stand: those that go on keep their age. -/
def State.arrayReqs (s : State) (core : Nat) : List ArrReq :=
  let x := (s.coreOf core).array
  ((s.arrayWants core).filter (fun h => x.holder ≠ some h)).map (fun h =>
    (x.reqs.find? (fun r => r.who = h)).getD ⟨h, s.now, 0⟩)

def State.modArray (s : State) (core : Nat) (f : ArrayState → ArrayState) : State :=
  s.modCore core (fun x => { x with array := f x.array })

/-- Whether a job's lease or the Trowel's pass ends the term at the next boundary: the 64th command completed, 8,192 cycles, an empty queue
while another requests, a real request against a speculative holder, the pass's end (11 R307). -/
def State.termOver (s : State) (core : Nat) : Bool :=
  let x := (s.coreOf core).array
  let others := (s.arrayReqs core).map (·.who)
  match x.holder with
  | none => false
  | some .trowel => !(s.coreOf core).trowel.wants
  | some (.cc n) =>
    x.full || x.since + 8192 ≤ s.now || (!s.ccWants core n && !others.isEmpty) ||
      (s.holderSpec core (.cc n) && others.any (fun h => !s.holderSpec core h))

/-- The event of the array's next boundary for its holder. -/
def boundaryOf (h : Holder) : Instr :=
  match h with
  | .trowel => .passArrayTerm
  | .cc _ => .leaseTermEnd

/-- Takes note of who requests the array: a free array is arbitrated, a held one comes to a boundary. -/
def State.askArray (s : State) (core : Nat) : State :=
  let rs := s.arrayReqs core
  let s1 := s.modArray core (fun x => { x with reqs := rs })
  match (s.coreOf core).array.holder with
  | none => if rs.isEmpty then s1 else s1.ensure 1 .arrayArbitration { a := core }
  | some h => s1.ensure 1 (boundaryOf h) { a := core }

/-! ### Allotments (02 R63 to R67) -/

/-- Physical blocks that nobody holds. -/
def Core.freeBlocks (x : Core) : List Nat := (List.range 32).filter (fun b => (x.acsOwner.find? b).isNone)

/-- Whether a waiting request is a speculative job's. -/
def State.waitSpec (s : State) (w : AcsWho × Nat) : Bool :=
  match w.1 with
  | .job k => (s.jobOf k).spec.isSome
  | _ => false

/-- The request that comes first: the oldest real one, and a speculative one only where no real one waits. -/
def State.acsHead (s : State) (core : Nat) : Option (AcsWho × Nat) :=
  let ws := (s.coreOf core).acsWait
  match ws.find? (fun w => !s.waitSpec w) with
  | some w => some w
  | none => ws.head?

/-- Blocks taken for a requester of context `ctx`: a block last held by another context becomes fresh (02 R65); the Trowel's blocks count as held
by no context. -/
def Core.takeBlocks (x : Core) (who : AcsWho) (ctx : Option Nat) (bs : List Nat) : Core :=
  bs.foldl (fun x b =>
    let y := if ctx.isSome && x.acsLast.find? b = ctx then x else x.acsRefresh b
    { y with acsOwner := y.acsOwner.set b who
             acsLast := match ctx with
               | none => y.acsLast.erase b
               | some c => y.acsLast.set b c }) x

/-- The Trowel of a core looks whether a pass is due, where it pools tasks: a pass limit may have changed (13 R360). -/
def State.lookPass (s : State) (core : Nat) : State :=
  if (s.coreOf core).trowel.pool.isEmpty then s else s.ensure 1 .passForm { a := core }

/-- Blocks given back, with a look at who waits. -/
def State.freeAcs (s : State) (core : Nat) (bs : List Nat) : State :=
  if bs.isEmpty then s
  else ((s.modCore core (fun x => { x with acsOwner := bs.foldl (fun m b => m.erase b) x.acsOwner })).ensure 1 .acsAllotmentGrant
    { a := core }).lookPass core

/-- A request joins the core's queue (02 R64); one that waits already stays. -/
def State.wantAcs (s : State) (core : Nat) (who : AcsWho) (n : Nat) : State :=
  if (s.coreOf core).acsWait.any (fun w => w.1 = who) then s
  else (s.modCore core (fun x => { x with acsWait := x.acsWait ++ [(who, n)] })).ensure 0 .acsAllotmentGrant { a := core }

/-- A request withdrawn. -/
def State.dropAcsWait (s : State) (core : Nat) (who : AcsWho) : State :=
  s.modCore core (fun x => { x with acsWait := x.acsWait.filter (fun w => w.1 ≠ who) })

/-- A job's allotment released. -/
def State.releaseAcs (s : State) (k : Nat) : State :=
  let j := s.jobOf k
  ((s.modJob k (fun j => { j with acs := [], acsHeld := false })).dropAcsWait j.coreKey (.job k)).freeAcs j.coreKey j.acs

/-! ### Terms -/

/-- The items of the current holder that have not entered yet go back to their command or pass: the array stops at a boundary (11 R304). -/
def State.cutRows (s : State) (core : Nat) : State :=
  let x := (s.coreOf core).array
  let out := x.rows.filter (fun r => s.now ≤ r.entry)
  let s1 := s.modArray core (fun x =>
    { x with rows := x.rows.filter (fun r => r.entry < s.now), free := s.now, busy := x.busy - (x.free - s.now) })
  out.foldl (fun s r =>
    match r.item with
    | .row k f _ _ _ _ _ _ _ =>
      s.modJob k (fun j => { j with arrayQ := j.arrayQ.map (fun c => if c.flight = f then { c with row := c.row - 1 } else c) })
    | .passRow _ =>
      s.modCore core (fun x => { x with trowel := { x.trowel with front := x.trowel.front.map (fun p => { p with row := p.row - 1 }) } })
    | _ => s) s1

/-- The term ends: the array is free and is arbitrated in the same cycle. -/
def State.endTerm (s : State) (core : Nat) : State :=
  let s1 := (s.cutRows core).modArray core (fun x => { x with last := x.holder, holder := none, full := false, term := [] })
  let rs := s1.arrayReqs core
  let s2 := s1.modArray core (fun x => { x with reqs := rs })
  if rs.isEmpty then s2 else s2.ensure 0 .arrayArbitration { a := core }

/-- A job gives up its lease: it leaves the array if it holds it (11 R306), and its weights are void. -/
def State.releaseLease (s : State) (k : Nat) : State :=
  let j := s.jobOf k
  let s1 := s.modJob k (fun j => { j with lease := false, weights := none, ran := none })
  if (s.coreOf j.coreKey).array.holder = some (.cc j.cc) && j.onCore then s1.endTerm j.coreKey
  else s1.modArray j.coreKey (fun x => { x with reqs := x.reqs.filter (fun r => r.who ≠ .cc j.cc || !j.onCore) })

/-! ### Items under way -/

/-- Puts items into the array, in order of their effects, with the event of the first. -/
def State.enterRows (s : State) (core : Nat) (rs : List ArrRow) : State :=
  match rs with
  | [] => s
  | r :: _ =>
    let s1 := s.modArray core (fun x => { x with rows := x.rows ++ rs })
    match (s.coreOf core).array.rows with
    | [] => s1.ensure (r.due - s.now) .arrayRowUpdate { a := core }
    | _ :: _ => s1

/-- A weight load begins: `k` cycles from `start`, and its number. -/
def State.beginLoad (s : State) (core : Nat) (start k : Nat) (who : Option Nat) (w : Weights) (item : ArrItem) : State :=
  let n := (s.coreOf core).array.next
  let used (x : ArrayState) : List Nat := x.rows.map (·.load) ++ x.cur.toList
  let s1 := s.modArray core (fun x => { x with
    loads := Map.set (List.filter (fun e : Nat × ArrLoad => (used x).contains e.1) x.loads) n ⟨who, w, [], []⟩
    cur := some n, next := n + 1, loading := start + k, free := start + k, busy := x.busy + k })
  s1.enterRows core [⟨start, start + k - 1, n, item⟩]

/-- The end of a weight load: its bytes are in the array. -/
def State.loadDone (s : State) (core n : Nat) (bytes : List Byte) (bad : List Nat) : State :=
  s.modArray core (fun x =>
    match x.loads.find? n with
    | none => x
    | some l => { x with loads := x.loads.set n { l with bytes := bytes, bad := bad } })

/-- Words of an accumulator row written with the marks of a row update (11 R319): a poisoned operand poisons the elements that it contributes to,
the columns `bad`, and without `.SET` an element keeps its own poison. -/
def Core.acsUpdate (x : Core) (p : Nat) (v : List Nat) (bad : List Nat) (set : Bool) : Core :=
  let kept := if set then [] else (acsElems p 0 v.length).filter (fun e => e ∈ x.acs.poison || e ∈ x.acs.err)
  let y := x.acsWrite p 0 (v.map (BitVec.ofNat 32)) false
  { y with acs := { y.acs with poison := (kept ++ (bad.filter (fun c => c < v.length)).map (fun c => p * 192 + c)).foldl NatSet.insert y.acs.poison } }

/-- Columns that a poisoned byte of a tile of weights contributes to; element (k, j) stands at (k × N + j) × width (02 R61). -/
def State.badColumns (s : State) (j : Job) (w : Weights) : List Nat :=
  let n := tcfgCols w.cfg
  let b := fmtBytes (tcfgFmt w.cfg)
  if s.tileBad j w.tile 0 (tcfgRows w.cfg * rowBytes w.cfg) then
    (List.range n).filter (fun c => (List.range (tcfgRows w.cfg)).any (fun k => s.tileBad j w.tile ((k * n + c) * b) b))
  else []

/-- The old codes of a row's first `n` elements, zeros under `.SET`. -/
def Core.acsOld (x : Core) (p n : Nat) (set : Bool) : List Nat :=
  if set then List.replicate n 0 else (x.acsRead p 0 n).map BitVec.toNat

/-- A command's completion point in the array: the 64th of a term ends it. -/
def State.arrayDone (s : State) (core flight : Nat) : State :=
  let s1 := s.finish flight 0
  if (s1.coreOf core).array.term[63]? = some flight then
    (s1.modArray core (fun x => { x with full := true })).ensure 0 .leaseTermEnd { a := core }
  else s1

/-- An activation row of a job's command takes effect. -/
def State.jobRow (s : State) (core load k f tile : Nat) (cfg : Word) (src dest : Nat) (set last : Bool) (m : Fmode) : State :=
  match s.jobs.find? k, s.flights.find? f, (s.coreOf core).array.loads.find? load with
  | some j, some _, some l =>
    match macPath (tcfgFmt l.w.cfg) (tcfgFmt cfg) with
    | none => s
    | some p =>
      let n := tcfgCols l.w.cfg
      let row := s.tileRead j tile (src * rowBytes cfg) (rowBytes cfg)
      let bad := if s.tileBad j tile (src * rowBytes cfg) (rowBytes cfg) then List.range n else l.bad
      let phys := acsPhys j.acs dest
      let r := macRow p l.w.cfg l.bytes (tcfgFmt cfg) m m ((s.coreOf core).acsOld phys n set) row
      let s1 := (s.modCore core (fun x => x.acsUpdate phys r.1 bad set)).modFlight f (fun y => { y with flags := y.flags ||| r.2 })
      if last then s1.arrayDone core f else s1
  | _, _, _ => s

end Sys2Proof.Machine
end

