-- ==== Sys2Proof/Machine/Discard.lean ====
section
/-! DEFINITION. The end of a job on its core (01 R26, R45), and the discard of a speculative launch (14 R394, R395). -/

namespace Sys2Proof.Machine

/-- Takes accesses out of everything that holds their numbers: ports, routers, slices and controllers. -/
def State.purge (s : State) (p : Access → Bool) : State :=
  let ids := (List.filter (fun e : Nat × Access => p e.2) s.accesses).map (·.1)
  let keep (i : Nat) : Bool := !ids.contains i
  let slice (x : Slice) : Slice := { x with waiting := x.waiting.filter keep }
  let router (r : Router) : Router := { r with vc := r.vc.map (fun l => l.filter (fun f => keep f.id)) }
  if ids.isEmpty then s
  else
    { s with
      accesses := List.filter (fun e : Nat × Access => !p e.2) s.accesses
      dies := s.dies.map (fun (e : Nat × Die) => (e.1, { e.2 with slices := e.2.slices.map (fun (x : Nat × Slice) => (x.1, slice x.2)) }))
      hbm := s.hbm.map (fun (e : Nat × Hbm) => (e.1, { e.2 with waiting := e.2.waiting.filter (fun r => keep r.id) }))
      routers := s.routers.map (fun (e : Nat × Router) => (e.1, router e.2)) }

/-- Whether a move is one of a job's streams. -/
def Move.isOf (m : Move) (k : Nat) : Bool :=
  match m with
  | .stream r => r.job = k
  | .lane _ _ => false
  | .event _ _ => false
  | .finish _ => false
  | .effect _ => false
  | .vecStep _ => false
  | .trowel _ _ => false
  | .begin n => n = k
  | .word _ => false

/-- A job leaves its core: its lease and allotment are released, and no move of its streams is left. -/
def State.leaveCore (s : State) (k : Nat) : State := ((s.releaseLease k).releaseAcs k).unpost (fun m => m.isOf k)

/-- A job's save area given back. -/
def State.freeSave (s : State) (k : Nat) : State :=
  let j := s.jobOf k
  match j.saveArea with
  | none => s
  | some va => (s.modCtx j.ctx (fun c => { c with saves := c.saves.filter (fun e => c.savepool.toNat + e.1 ≠ va) })).modJob k
      (fun j => { j with saveArea := none })

/-- Where no job stands on a die any more, its clocks are gated after 1 ms (21 R495). -/
def State.noteIdle (s : State) (die : Nat) : State :=
  if s.jobs.any (fun e => e.2.die = die && (e.2.status = .running || e.2.status = .resuming)) then s
  else (s.modDie die (fun d => { d with idleSince := s.now })).ensure 2400000 .idleDieGate { a := die }

/-- A job is gone, with everything it has under way. -/
def State.dropJob (s : State) (k : Nat) : State :=
  let s1 := ((s.freeSave k).leaveCore k).purge (fun a => a.ref.job = k)
  let s2 : State := { s1 with
    jobs := s1.jobs.erase k
    flights := List.filter (fun e : Nat × Flight => e.2.ref.job ≠ k) s1.flights
    barriers := (s1.barriers.map (fun b => { b with arrivals := b.arrivals.filter (fun r => r.job ≠ k) })).filter
      (fun b => !b.arrivals.isEmpty) }
  s2.noteIdle (s.jobOf k).die

/-- Jobs of a launch. -/
def State.jobsOfLaunch (s : State) (l : Nat) : List (Nat × Job) := List.filter (fun e : Nat × Job => e.2.launch = l) s.jobs

/-- Whether a move is an event of speculation `i` of a die. -/
def Move.ofSpec (m : Move) (die i : Nat) : Bool :=
  match m with
  | .event .spoilArrival g => g.a = die && g.b = i
  | .event .watchFenceArrival g => g.a = die && g.b = i
  | .event .watchFenceAck g => g.a = die && g.b = i
  | .event .shadowLinesPerformed g => g.a = die && g.b = i
  | .event .speculationHorizon g => g.a = die && g.b = i
  | _ => false

/-- Watch entries and overflow bits of a speculation go (14 R395); what it still had under way is dropped. -/
def State.dropWatch (s : State) (n : Nat) : State :=
  let slice (x : Slice) : Slice := { x with watch := x.watch.filter (fun w => w.1 ≠ n), overflow := NatSet.erase x.overflow n }
  { s with dies := s.dies.map (fun (e : Nat × Die) =>
      (e.1, { e.2 with slices := e.2.slices.map (fun (x : Nat × Slice) => (x.1, slice x.2)) })) }

/-- Has a die's scheduler look for jobs to place. -/
def State.askPlace (s : State) (die : Nat) : State := s.ensure 1 .jobPlacement { a := die }

/-- A speculative launch is discarded, counted in Undercoat counter `idx` (14 R394 to R396); a real launch that waits for its claim starts
as if no speculation had been. -/
def State.discard (s : State) (n idx : Nat) : State :=
  match s.specOf n with
  | none => s
  | some x =>
    let die := n / 8
    let part := ((s.launches.find? x.launch).map (·.part)).getD 0
    let wait (l : Launch) : Launch := if l.state = .claiming && l.spec = some n then { l with state := .placing, spec := none } else l
    let s1 := (s.jobsOfLaunch x.launch).foldl (fun s e => s.dropJob e.1) s
    let s2 := (s1.dropWatch n).modDie die (fun d => { d with specs := d.specs.erase (n % 8) })
    let s3 := { s2.unpost (fun m => m.ofSpec die (n % 8)) with
      launches := (s2.launches.erase x.launch).map (fun (e : Nat × Launch) => (e.1, wait e.2)) }
    (s3.ucCount die part idx 1).askPlace die

/-- Indices of Undercoat counters (14 R396). -/
def ucStarted : Nat := 0
def ucClaimed : Nat := 1
def ucMismatch : Nat := 2
def ucSpoil : Nat := 3
def ucDisplaced : Nat := 4
def ucHorizon : Nat := 5
def ucOther : Nat := 6
def ucShadowLines : Nat := 9
def ucClaimCycles : Nat := 10

/-- Discards the launch of a speculative job. -/
def State.discardJob (s : State) (k idx : Nat) : State :=
  match (s.jobOf k).spec with
  | none => s
  | some n => s.discard n idx

/-- A discard on a field mismatch cuts the history before the record (14 R395). -/
def State.cutHistory (s : State) (q : Nat) (seq : BitVec 32) : State :=
  { s with history := s.history.set q ((s.history.getD q []).map (fun h => if h.seq = seq then { h with cut := true } else h)) }

end Sys2Proof.Machine
end

