-- ==== Sys2Proof/Decode.lean ====
section
/-! DEFINITION. Decoding of command words (06 R176 to R181, with the encoding tables of chapters 07 to 11) and of sampler words
(12 R343, R344), and the encoder.

A word is read as a number. `Fields` holds the operand field of any format class; `Row` is a line of the opcode map
(06 R184): class, streams, which bits are in use, and the instruction that the fields spell. A failing check answers
the reason number of 06 R181. Checks that need the rest of the section (8, and the parts of 5 and 9 that look at
neighbouring words) are `Machine/Stream.lean`'s. -/

namespace Sys2Proof

/-- Operand classes of 06 R178 other than `E`. -/
inductive Cls where
  | n | k | i | s | b | l | t
  deriving DecidableEq, Repr

/-- The operand field, bits [52:0]. `n`: COUNT16 of `L`, N8 of `T`; `sub` also holds SUB3 of `S` and PNEG of `B`; `fc` also holds SZ of `S`,
PSEL of `B` and TA of `T`; `fd` also holds BT of `B` and TB of `T`; `imm` is IMM27, IMM32, OFF24, OFF32, END16 or ROW11, and
`st` START16; `rsv` holds the bits that the class itself reserves. `v` is the immediate in force: VAL64 when `x` says that
an `EXT` precedes, else `imm`; `w` is the second word's VAL64, and `lone` says that there is none. -/
structure Fields where
  fa : Nat := 0
  fb : Nat := 0
  fc : Nat := 0
  fd : Nat := 0
  sub : Nat := 0
  imm : Nat := 0
  n : Nat := 0
  st : Nat := 0
  rsv : Nat := 0
  x : Bool := false
  v : Nat := 0
  w : Nat := 0
  lone : Bool := false
  deriving DecidableEq, Repr

/-- Bits `[lo+len-1 : lo]` of a number. -/
def bitsAt (w lo len : Nat) : Nat := w / 2 ^ lo % 2 ^ len

/-- The operand field of a class (06 R178). -/
def unpack (c : Cls) (w : Nat) : Fields :=
  match c with
  | .n => { rsv := bitsAt w 0 53 }
  | .k => { fa := bitsAt w 48 5, fb := bitsAt w 43 5, fc := bitsAt w 38 5, fd := bitsAt w 33 5, sub := bitsAt w 27 6,
            imm := bitsAt w 0 27, v := bitsAt w 0 27 }
  | .i => { fa := bitsAt w 48 5, fb := bitsAt w 43 5, sub := bitsAt w 37 6, rsv := bitsAt w 32 5,
            imm := bitsAt w 0 32, v := bitsAt w 0 32 }
  | .s => { fa := bitsAt w 48 5, fb := bitsAt w 43 5, fc := bitsAt w 40 3, sub := bitsAt w 37 3, rsv := bitsAt w 24 13,
            imm := bitsAt w 0 24, v := bitsAt w 0 24 }
  | .b => { fd := bitsAt w 50 3, sub := bitsAt w 49 1, fc := bitsAt w 44 5, fb := bitsAt w 39 5, rsv := bitsAt w 32 7,
            imm := bitsAt w 0 32, v := bitsAt w 0 32 }
  | .l => { fa := bitsAt w 48 5, n := bitsAt w 32 16, st := bitsAt w 16 16, imm := bitsAt w 0 16, v := bitsAt w 0 16 }
  | .t => { fc := bitsAt w 47 6, fd := bitsAt w 41 6, imm := bitsAt w 30 11, v := bitsAt w 30 11, n := bitsAt w 22 8,
            sub := bitsAt w 16 6, fa := bitsAt w 11 5, fb := bitsAt w 6 5, rsv := bitsAt w 0 6 }

/-- The bits of a class's fields, reserved bits 0. -/
def pack (c : Cls) (f : Fields) : Nat :=
  match c with
  | .n => 0
  | .k => f.fa * 2 ^ 48 + f.fb * 2 ^ 43 + f.fc * 2 ^ 38 + f.fd * 2 ^ 33 + f.sub * 2 ^ 27 + f.imm
  | .i => f.fa * 2 ^ 48 + f.fb * 2 ^ 43 + f.sub * 2 ^ 37 + f.imm
  | .s => f.fa * 2 ^ 48 + f.fb * 2 ^ 43 + f.fc * 2 ^ 40 + f.sub * 2 ^ 37 + f.imm
  | .b => f.fd * 2 ^ 50 + f.sub * 2 ^ 49 + f.fc * 2 ^ 44 + f.fb * 2 ^ 39 + f.imm
  | .l => f.fa * 2 ^ 48 + f.n * 2 ^ 32 + f.st * 2 ^ 16 + f.imm
  | .t => f.fc * 2 ^ 47 + f.fd * 2 ^ 41 + f.imm * 2 ^ 30 + f.n * 2 ^ 22 + f.sub * 2 ^ 16 + f.fa * 2 ^ 11 + f.fb * 2 ^ 6

/-- Whether no bit outside `m` is 1 in any field that the word itself holds. -/
def Fields.within (f m : Fields) : Bool :=
  (f.fa ||| m.fa) == m.fa && (f.fb ||| m.fb) == m.fb && (f.fc ||| m.fc) == m.fc && (f.fd ||| m.fd) == m.fd &&
    (f.sub ||| m.sub) == m.sub && (f.imm ||| m.imm) == m.imm && (f.n ||| m.n) == m.n && (f.st ||| m.st) == m.st &&
    f.rsv == 0

/-- An immediate of `b` bits, or the 64 bits that replace it, as a 64-bit value (06 R179, R186 `imm`). -/
def Fields.sx (f : Fields) (b : Nat) : Word :=
  if f.x then BitVec.ofNat 64 f.v else (BitVec.ofNat b f.imm).signExtend 64

/-- The same, zero-extended. -/
def Fields.zx (f : Fields) : Word := BitVec.ofNat 64 f.v

/-! ### Registers and codes -/

def sreg (n : Nat) : SReg := Fin.ofNat 32 n
def hreg (n : Nat) : HReg := Fin.ofNat 32 n
def preg (n : Nat) : PReg := Fin.ofNat 32 n
def breg (n : Nat) : BReg := Fin.ofNat 8 n

/-- A number below `k`, or none (06 R179: a value beyond the named file is illegal). -/
def below (k n : Nat) : Option (Fin k) := if h : n < k then some ⟨n, h⟩ else none

def greg (n : Nat) : Option GReg := below 16 n
def qreg (n : Nat) : Option QReg := below 8 n
def tile (n : Nat) : Option Tile := below 48 n

/-- A predicate destination: not p0 (07 R199). -/
def pdst (n : Nat) : Option PReg := if preg n = 0 then none else some (preg n)

def ccOf (n : Nat) : Option Cc :=
  match n with
  | 0 => some .eq | 1 => some .ne | 2 => some .lt | 3 => some .le | 4 => some .gt | 5 => some .ge
  | 6 => some .ltu | 7 => some .leu | 8 => some .gtu | 9 => some .geu | _ => none

def Cc.code (c : Cc) : Nat :=
  match c with
  | .eq => 0 | .ne => 1 | .lt => 2 | .le => 3 | .gt => 4 | .ge => 5 | .ltu => 6 | .leu => 7 | .gtu => 8 | .geu => 9

def fccOf (n : Nat) : Option Fcc :=
  match n with
  | 0 => some .eq | 1 => some .ne | 2 => some .lt | 3 => some .le | 4 => some .gt | 5 => some .ge
  | 6 => some .ord | 7 => some .uno | _ => none

def Fcc.code (c : Fcc) : Nat :=
  match c with
  | .eq => 0 | .ne => 1 | .lt => 2 | .le => 3 | .gt => 4 | .ge => 5 | .ord => 6 | .uno => 7

def scopeOf (n : Nat) : Option Scope :=
  match n with
  | 0 => some .stream | 1 => some .job | 2 => some .core | 3 => some .die | 4 => some .package | 5 => some .fabric
  | _ => none

def Scope.code (s : Scope) : Nat :=
  match s with
  | .stream => 0 | .job => 1 | .core => 2 | .die => 3 | .package => 4 | .fabric => 5

def barScopeOf (n : Nat) : Option BarScope :=
  match n with
  | 0 => some .core | 1 => some .die | 2 => some .package | _ => none

def BarScope.code (s : BarScope) : Nat :=
  match s with
  | .core => 0 | .die => 1 | .package => 2

def microOf (n : Nat) : Option MicroOp :=
  match n with
  | 1 => some .add | 2 => some .sub | 3 => some .rsub | 4 => some .mul | 5 => some .min | 6 => some .max
  | 7 => some .fmaz | 8 => some .mov | 9 => some .abs | 10 => some .neg | 11 => some .exp | 12 => some .log
  | 13 => some .rcp | 14 => some .rsq | 15 => some .tanh | 16 => some .sigm | 17 => some .gelu | 18 => some .silu
  | _ => none

def MicroOp.code (m : MicroOp) : Nat :=
  match m with
  | .add => 1 | .sub => 2 | .rsub => 3 | .mul => 4 | .min => 5 | .max => 6 | .fmaz => 7 | .mov => 8 | .abs => 9
  | .neg => 10 | .exp => 11 | .log => 12 | .rcp => 13 | .rsq => 14 | .tanh => 15 | .sigm => 16 | .gelu => 17 | .silu => 18

def selOf (n : Nat) : Option MicroSel :=
  match n with
  | 0 => some .x | 1 => some .y | 2 => some .z | 3 => some .k | 4 => some .acc | _ => none

def MicroSel.code (m : MicroSel) : Nat :=
  match m with
  | .x => 0 | .y => 1 | .z => 2 | .k => 3 | .acc => 4

/-- The first `n` bytes of a number, least significant first, as micro-operations (10 R294). -/
def microsOf (n w : Nat) : Option (List (MicroOp × MicroSel)) :=
  match n with
  | 0 => some []
  | n + 1 =>
    match microOf (w % 256 / 8), selOf (w % 8), microsOf n (w / 256) with
    | some o, some s, some r => some ((o, s) :: r)
    | _, _, _ => none

def microCode (l : List (MicroOp × MicroSel)) : Nat :=
  match l with
  | [] => 0
  | (o, s) :: r => o.code * 8 + s.code + 256 * microCode r

/-! ### The opcode map -/

/-- A line of the opcode map. `used` gives the bits that the description uses; `late` says that a bit of the second word is
reserved and 1; `build` answers none where an operand is illegal (reason 5). -/
structure Row where
  cls : Cls
  on : List Letter
  two : Bool := false
  bare : Bool := false
  used : Fields → Fields
  late : Fields → Bool := fun _ => false
  build : Ctl → Fields → Option Instr

/-- Streams of 06 R18's table. -/
def onAll : List Letter := [.a, .m, .v, .x]
def onAX : List Letter := [.a, .x]
def onAV : List Letter := [.a, .v]
def onA : List Letter := [.a]
def onM : List Letter := [.m]
def onV : List Letter := [.v]
def onX : List Letter := [.x]

/-- Masks by which registers are used. -/
def uA : Fields := { fa := 31 }
def uAB : Fields := { fa := 31, fb := 31 }
def uABC : Fields := { fa := 31, fb := 31, fc := 31 }
def uABCD : Fields := { fa := 31, fb := 31, fc := 31, fd := 31 }

/-- A command without operands. -/
def rowN (f : Op0 → Instr) : Row := { cls := .n, on := onAll, used := fun _ => {}, build := fun c _ => some (f ⟨c⟩) }

/-- Class `K`, destination and two sources. -/
def row3 (g : Op3 → Instr) : Row :=
  { cls := .k, on := onAll, used := fun _ => uABC, build := fun c f => some (g ⟨c, sreg f.fa, sreg f.fb, sreg f.fc⟩) }

/-- Class `K`, destination and one source. -/
def row2 (g : Op2 → Instr) : Row :=
  { cls := .k, on := onAll, used := fun _ => uAB, build := fun c f => some (g ⟨c, sreg f.fa, sreg f.fb⟩) }

/-- Class `K`, destination only. -/
def row1 (g : Op1 → Instr) : Row :=
  { cls := .k, on := onAll, used := fun _ => uA, build := fun c f => some (g ⟨c, sreg f.fa⟩) }

/-- Class `I`, destination, source and immediate. -/
def rowI (g : OpI → Instr) : Row :=
  { cls := .i, on := onAll, used := fun _ => { uAB with imm := 2 ^ 32 - 1 },
    build := fun c f => some (g ⟨c, sreg f.fa, sreg f.fb, f.sx 32⟩) }

/-- Class `I`, shift by an immediate (08 R221). -/
def rowSh (g : OpSh → Instr) : Row :=
  { cls := .i, on := onAll, used := fun _ => { uAB with imm := 2 ^ 32 - 1 },
    build := fun c f => (below 64 f.v).map (fun n => g ⟨c, sreg f.fa, sreg f.fb, n⟩) }

/-- `TRAP`, `BKPT`. -/
def rowTrap (g : OpTrap → Instr) : Row :=
  { cls := .i, on := onAll, used := fun _ => { imm := 2 ^ 32 - 1 },
    build := fun c f => if f.v < 2 ^ 16 then some (g ⟨c, BitVec.ofNat 16 f.v⟩) else none }

/-- The semaphore index (07 R188, SUB[1]). -/
def Fields.semIdx (f : Fields) : SemIdx := if f.sub.testBit 1 then .reg (sreg f.fb) else .imm (BitVec.ofNat 8 f.v)
/-- The semaphore amount (SUB[0]). -/
def Fields.semAmt (f : Fields) : SemAmt := if f.sub.testBit 0 then .reg (sreg f.fa) else .imm (BitVec.ofNat 24 (f.v / 256))

/-- Bits that the semaphore rows use: index byte, amount bits, registers; `amt` says whether the form has an amount. -/
def semUsed (amt : Bool) (f : Fields) : Fields :=
  { fa := if amt && f.sub.testBit 0 then 31 else 0, fb := if f.sub.testBit 1 then 31 else 0, sub := 63,
    imm := (if f.sub.testBit 1 then 0 else 255) + (if amt && !f.sub.testBit 0 then 2 ^ 32 - 256 else 0) }

/-- The value is within the immediate bits that the form uses (06 R180 for a value that `EXT` supplies). -/
def Fields.fits (f m : Fields) : Bool := (f.v ||| m.imm) == m.imm

def rowSem (g : OpSem → Instr) : Row :=
  { cls := .i, on := onAll, used := semUsed true,
    build := fun c f =>
      if f.sub < 4 && f.fits (semUsed true f) then some (g ⟨c, f.semIdx, f.semAmt⟩) else none }

/-- `SEMBASE` with its `.SNAP` form. -/
def rowSembase : Row :=
  { cls := .i, on := onAll, used := fun f => semUsed (!f.sub.testBit 2) f,
    build := fun c f =>
      if f.sub < 4 && f.fits (semUsed true f) then some (.sembase ⟨c, f.semIdx, f.semAmt⟩)
      else if (f.sub = 4 || f.sub = 6) && f.fits (semUsed false f) then some (.sembaseSnap ⟨c, f.semIdx⟩)
      else none }

def rowSemrd : Row :=
  { cls := .i, on := onAll, used := fun f => { semUsed false f with fa := 31 },
    build := fun c f =>
      if !f.fits (semUsed false f) then none
      else if f.sub = 0 || f.sub = 2 then some (.semrd ⟨c, sreg f.fa, f.semIdx⟩)
      else if f.sub = 4 || f.sub = 6 then some (.semrdRel ⟨c, sreg f.fa, f.semIdx⟩)
      else none }

def rowRdv : Row :=
  { cls := .i, on := onAll, bare := true, used := fun _ => { imm := 2 ^ 32 - 1 },
    build := fun c f => (below 16 f.v).map (fun n => .rdv ⟨c, n⟩) }

def rowBar : Row :=
  { cls := .i, on := onAll, used := fun f => { fa := if f.sub = 3 then 0 else 31, sub := 63, imm := 2 ^ 32 - 1 },
    build := fun c f =>
      match below 16 f.v with
      | none => none
      | some n =>
        if f.sub = 3 then some (.barLaunch ⟨c, n⟩)
        else (barScopeOf f.sub).map (fun s => .bar ⟨c, s, n, sreg f.fa⟩) }

/-- Stream control and synchronisation, 0x001 to 0x00D (`EXT` is `decodeExt`'s). -/
def rowsControl : List (Nat × Row) :=
  [(0x001, rowN .nop), (0x003, { rowN .notify with bare := true }), (0x004, rowRdv), (0x005, rowSem .semadd),
   (0x006, rowSem .semwait), (0x007, rowSembase), (0x008, rowSemrd), (0x009, rowBar), (0x00A, rowN .safept),
   (0x00B, rowN .irrev), (0x00C, rowTrap .trap), (0x00D, rowTrap .bkpt)]

def rowPset : Row :=
  { cls := .i, on := onAll, used := fun _ => { fa := 31, imm := 2 ^ 32 - 1 },
    build := fun c f =>
      match pdst f.fa with
      | none => none
      | some p => if f.v < 2 then some (.pseti ⟨c, p, f.v == 1⟩) else none }

def rowPmov : Row :=
  { cls := .k, on := onAll, used := fun _ => { uAB with sub := 63 },
    build := fun c f =>
      if f.sub = 0 then (pdst f.fa).map (fun p => .pmovPp ⟨c, p, preg f.fb⟩)
      else if f.sub = 1 then (pdst f.fa).map (fun p => .pmovPs ⟨c, p, sreg f.fb⟩)
      else if f.sub = 2 then some (.pmovSp ⟨c, sreg f.fa, preg f.fb⟩)
      else none }

def rowPPP (g : OpPPP → Instr) : Row :=
  { cls := .k, on := onAll, used := fun _ => uABC,
    build := fun c f => (pdst f.fa).map (fun p => g ⟨c, p, preg f.fb, preg f.fc⟩) }

def rowCmp : Row :=
  { cls := .k, on := onAll,
    used := fun f => { fa := 31, fb := 31, fc := if f.sub < 32 then 31 else 0, sub := 63,
                       imm := if f.sub < 32 then 0 else 2 ^ 27 - 1 },
    build := fun c f =>
      match pdst f.fa with
      | none => none
      | some p =>
        if f.sub < 32 then (ccOf f.sub).map (fun cc => .cmp ⟨c, cc, p, sreg f.fb, sreg f.fc⟩)
        else (ccOf (f.sub - 32)).map (fun cc => .cmpImm ⟨c, cc, p, sreg f.fb, BitVec.ofNat 27 f.imm⟩) }

def rowFcmp : Row :=
  { cls := .k, on := onAll, used := fun _ => { uABC with sub := 63 },
    build := fun c f =>
      match pdst f.fa, fccOf f.sub with
      | some p, some cc => some (.fcmp ⟨c, cc, p, sreg f.fb, sreg f.fc⟩)
      | _, _ => none }

def rowVote (g : OpVote → Instr) : Row :=
  { cls := .k, on := onAll, used := fun _ => { uABC with imm := 2 ^ 27 - 1 },
    build := fun c f => (pdst f.fa).map (fun p => g ⟨c, p, sreg f.fb, sreg f.fc, BitVec.ofNat 27 f.imm⟩) }

/-- Predicates and control flow, 0x020 to 0x032. -/
def rowsPred : List (Nat × Row) :=
  [(0x020, rowPset), (0x021, rowPmov), (0x022, rowPPP .pand), (0x023, rowPPP .por), (0x024, rowPPP .pxor),
   (0x025, { cls := .k, on := onAll, used := fun _ => uAB,
             build := fun c f => (pdst f.fa).map (fun p => .pnot ⟨c, p, preg f.fb⟩) }),
   (0x026, { cls := .k, on := onAll, used := fun _ => uA, build := fun c f => (pdst f.fa).map (fun p => .punres ⟨c, p⟩) }),
   (0x027, rowCmp), (0x028, rowFcmp), (0x029, rowVote .vany), (0x02A, rowVote .vall),
   (0x02B, { cls := .b, on := onAll, used := fun _ => { fd := 7, imm := 2 ^ 32 - 1 },
             build := fun c f => if f.imm % 4 = 0 then some (.ptb ⟨c, breg f.fd, BitVec.ofNat 32 f.imm⟩) else none }),
   (0x02C, { cls := .b, on := onAll, used := fun _ => { fd := 7, fb := 31, imm := 2 ^ 32 - 1 },
             build := fun c f =>
               if f.imm % 4 = 0 then some (.ptbr ⟨c, breg f.fd, sreg f.fb, BitVec.ofNat 32 f.imm⟩) else none }),
   (0x02D, { cls := .b, on := onAll, used := fun _ => { fd := 7, fc := 31, sub := 1 },
             build := fun c f => some (.br ⟨c, breg f.fd, f.sub == 1, preg f.fc⟩) }),
   (0x02E, { cls := .b, on := onAll, used := fun _ => { fd := 7 }, build := fun c f => some (.call ⟨c, breg f.fd⟩) }),
   (0x02F, rowN .ret),
   (0x030, { cls := .l, on := onAll, used := fun _ => { n := 2 ^ 16 - 1, st := 2 ^ 16 - 1, imm := 2 ^ 16 - 1 },
             build := fun c f =>
               if f.st = 3 && 3 ≤ f.imm then some (.loop ⟨c, BitVec.ofNat 16 f.n, BitVec.ofNat 16 f.imm⟩) else none }),
   (0x031, { cls := .l, on := onAll, used := fun _ => { fa := 31, st := 2 ^ 16 - 1, imm := 2 ^ 16 - 1 },
             build := fun c f =>
               if f.st = 3 && 3 ≤ f.imm then some (.loopr ⟨c, sreg f.fa, BitVec.ofNat 16 f.imm⟩) else none }),
   (0x032, rowN .lexit)]

/-- Queues, 0x040 to 0x045. -/
def rowsQueue : List (Nat × Row) :=
  [(0x040, { cls := .k, on := onAll, used := fun _ => uAB,
             build := fun c f => (qreg f.fa).map (fun q => .qpush ⟨c, q, sreg f.fb⟩) }),
   (0x041, { cls := .k, on := onAll, used := fun _ => uAB,
             build := fun c f => (qreg f.fb).map (fun q => .qpop ⟨c, sreg f.fa, q⟩) }),
   (0x042, { cls := .k, on := onAll, used := fun _ => uAB,
             build := fun c f => (qreg f.fb).map (fun q => .qpeek ⟨c, sreg f.fa, q⟩) }),
   (0x043, { cls := .k, on := onAll, used := fun _ => uAB,
             build := fun c f => (qreg f.fa).map (fun q => .qpushp ⟨c, q, preg f.fb⟩) }),
   (0x044, { cls := .k, on := onAll, used := fun _ => uAB,
             build := fun c f =>
               match pdst f.fa, qreg f.fb with
               | some p, some q => some (.qpopp ⟨c, p, q⟩)
               | _, _ => none }),
   (0x045, { cls := .k, on := onAll, used := fun _ => uAB,
             build := fun c f => (qreg f.fb).map (fun q => .qlen ⟨c, sreg f.fa, q⟩) })]

def bfOf (c : Ctl) (f : Fields) : Option OpBf :=
  let o : OpBf := ⟨c, sreg f.fa, sreg f.fb, BitVec.ofNat 6 (f.imm / 128), BitVec.ofNat 7 f.imm⟩
  if o.ok then some o else none

/-- Scalar integer and address, 0x050 to 0x060. -/
def rowsInt1 : List (Nat × Row) :=
  [(0x050, row3 .add), (0x051, rowI .addi), (0x052, row3 .sub), (0x053, row3 .mul), (0x054, row3 .mulh),
   (0x055, row3 .mulhu), (0x056, row3 .div), (0x057, row3 .divu), (0x058, row3 .rem), (0x059, row3 .remu),
   (0x05A, row3 .and), (0x05B, rowI .andi), (0x05C, row3 .or), (0x05D, rowI .ori), (0x05E, row3 .xor),
   (0x05F, rowI .xori), (0x060, row3 .shl)]

/-- Scalar integer and address, 0x061 to 0x074. -/
def rowsInt2 : List (Nat × Row) :=
  [(0x061, rowSh .shli), (0x062, row3 .shr), (0x063, rowSh .shri), (0x064, row3 .sra), (0x065, rowSh .srai),
   (0x066, row3 .min), (0x067, row3 .max), (0x068, row3 .minu), (0x069, row3 .maxu), (0x06A, row2 .clz),
   (0x06B, row2 .ctz), (0x06C, row2 .popc),
   (0x06D, { cls := .k, on := onAll, used := fun _ => uABCD,
             build := fun c f => some (.sel ⟨c, sreg f.fa, preg f.fd, sreg f.fb, sreg f.fc⟩) }),
   (0x06E, { cls := .i, on := onAll, used := fun _ => { fa := 31, imm := 2 ^ 32 - 1 },
             build := fun c f => some (.movi ⟨c, sreg f.fa, f.sx 32⟩) }),
   (0x06F, { cls := .i, on := onAll, used := fun _ => { fa := 31, imm := 2 ^ 32 - 1 },
             build := fun c f => if f.v < 2 ^ 32 then some (.movhi ⟨c, sreg f.fa, BitVec.ofNat 32 f.v⟩) else none }),
   (0x070, row2 .mov), (0x071, row2 .abs),
   (0x072, { cls := .k, on := onAll, used := fun _ => { uAB with sub := 63, imm := 2 ^ 13 - 1 },
             build := fun c f =>
               if f.sub = 0 then (bfOf c f).map .bfx else if f.sub = 1 then (bfOf c f).map .bfxS else none }),
   (0x073, { cls := .k, on := onAll, used := fun _ => { uAB with imm := 2 ^ 13 - 1 },
             build := fun c f => (bfOf c f).map .bfi }),
   (0x074, { cls := .k, on := onAll, used := fun _ => { uABC with sub := 63, imm := 2 ^ 27 - 1 },
             build := fun c f =>
               (below 5 f.sub).map (fun sh => .lea ⟨c, sreg f.fa, sreg f.fb, sreg f.fc, sh, BitVec.ofNat 27 f.imm⟩) })]

/-- Scalar floating point, 0x090 to 0x09B. -/
def rowsFloat : List (Nat × Row) :=
  [(0x090, row3 .fadd), (0x091, row3 .fsub), (0x092, row3 .fmul),
   (0x093, { cls := .k, on := onAll, used := fun _ => uABCD,
             build := fun c f => some (.ffma ⟨c, sreg f.fa, sreg f.fb, sreg f.fc, sreg f.fd⟩) }),
   (0x094, row3 .fdiv), (0x095, row2 .fsqrt), (0x096, row3 .fmin), (0x097, row3 .fmax), (0x098, row2 .fabs),
   (0x099, row2 .fneg),
   (0x09A, { cls := .k, on := onAll, used := fun _ => { uAB with imm := 255 },
             build := fun c f =>
               match below 10 (f.imm / 16), below 10 (f.imm % 16) with
               | some a, some b => some (.fcvt ⟨c, sreg f.fa, sreg f.fb, a, b⟩)
               | _, _ => none }),
   (0x09B, { cls := .k, on := onAll, used := fun _ => { uAB with imm := 15 },
             build := fun c f =>
               match below 8 f.imm with
               | some a => if a = 0 then none else some (.fclass ⟨c, sreg f.fa, sreg f.fb, a⟩)
               | none => none })]

/-- The source of a control-register write (08 R228). -/
def Fields.csrSrc (f : Fields) : CsrSrc := if f.sub = 1 then .imm (BitVec.ofNat 20 (f.v / 4096)) else .reg (sreg f.fb)

def csrUsed (f : Fields) : Fields :=
  { fa := 31, fb := if f.sub = 1 then 0 else 31, sub := 63, imm := if f.sub = 1 then 2 ^ 32 - 1 else 4095 }

def rowCsr (settable : Nat → Bool) (g : Ctl → Fields → BitVec 12 → Instr) : Row :=
  { cls := .i, on := onAll, used := csrUsed,
    build := fun c f =>
      if f.sub < 2 && f.fits (csrUsed f) && settable (f.v % 4096) then some (g c f (BitVec.ofNat 12 f.v)) else none }

/-- A `CSRW` by the register it names: `SPECDEPTH`, a `TCFG`n, or another. -/
def csrwOf (c : Ctl) (f : Fields) (n : BitVec 12) : Instr :=
  if n = 0x028 then .specdepthWrite ⟨c, sreg f.fa, f.csrSrc⟩
  else if 0x040 ≤ n.toNat then .tcfgWrite ⟨c, sreg f.fa, Fin.ofNat 48 (n.toNat - 0x040), f.csrSrc⟩
  else .csrw ⟨c, sreg f.fa, n, f.csrSrc⟩

/-- Control registers and time, 0x0A0 to 0x0A5. -/
def rowsCsr : List (Nat × Row) :=
  [(0x0A0, { cls := .i, on := onAll, used := fun _ => { fa := 31, sub := 63, imm := 4095 },
             build := fun c f =>
               if f.sub = 0 && f.v < 4096 && csrAssigned f.v then some (.csrr ⟨c, sreg f.fa, BitVec.ofNat 12 f.v⟩)
               else none }),
   (0x0A1, rowCsr (fun n => csrAssigned n && !csrReadOnly n) csrwOf),
   (0x0A2, rowCsr csrSettable (fun c f n => .csrs ⟨c, sreg f.fa, n, f.csrSrc⟩)),
   (0x0A3, rowCsr csrSettable (fun c f n => .csrc ⟨c, sreg f.fa, n, f.csrSrc⟩)),
   (0x0A4, row1 .rdcyc), (0x0A5, row1 .rdptp)]

/-- Scalar memory, 0x0B0 to 0x0B3. -/
def rowsMem : List (Nat × Row) :=
  [(0x0B0, { cls := .s, on := onAll, used := fun _ => { uAB with fc := 7, sub := 7, imm := 2 ^ 24 - 1 },
             build := fun c f =>
               match below 5 f.fc with
               | none => none
               | some sz =>
                 if f.sub < 2 && sizeOk (sreg f.fa) sz (f.sub == 1)
                 then some (.lds ⟨c, sreg f.fa, sreg f.fb, sz, f.sub == 1, f.sx 24⟩) else none }),
   (0x0B1, { cls := .s, on := onAll, used := fun _ => { uAB with fc := 7, sub := 7, imm := 2 ^ 24 - 1 },
             build := fun c f =>
               match below 5 f.fc with
               | none => none
               | some sz =>
                 if f.sub = 0 && sizeOk (sreg f.fa) sz false then some (.sts ⟨c, sreg f.fa, sreg f.fb, sz, f.sx 24⟩)
                 else none }),
   (0x0B2, { cls := .k, on := onAX, used := fun _ => { uABC with sub := 15 },
             build := fun c f =>
               match below 5 (f.sub % 8) with
               | none => none
               | some sz =>
                 if sizeOk (sreg f.fa) sz (f.sub.testBit 3)
                 then some (.ldg ⟨c, sreg f.fa, hreg f.fb, sreg f.fc, sz, f.sub.testBit 3⟩) else none }),
   (0x0B3, { cls := .k, on := onAX, used := fun _ => { uABC with sub := 15 },
             build := fun c f =>
               match below 5 f.sub with
               | none => none
               | some sz =>
                 if sizeOk (sreg f.fa) sz false then some (.stg ⟨c, sreg f.fa, hreg f.fb, sreg f.fc, sz⟩) else none })]

/-- Translation, 0x0B8 to 0x0BB. -/
def rowsXlat : List (Nat × Row) :=
  [(0x0B8, { cls := .k, on := onA, used := fun _ => uAB, build := fun c f => some (.xlat ⟨c, hreg f.fa, sreg f.fb⟩) }),
   (0x0B9, { cls := .k, on := onA, used := fun _ => { uAB with sub := 63 },
             build := fun c f =>
               if f.sub = 0 then some (.htestS ⟨c, sreg f.fa, hreg f.fb⟩)
               else if f.sub = 1 then (pdst f.fa).map (fun p => .htestP ⟨c, p, hreg f.fb⟩)
               else none }),
   (0x0BA, { cls := .k, on := onA, used := fun _ => uA, build := fun c f => some (.hrel ⟨c, hreg f.fa⟩) }),
   (0x0BB, { cls := .k, on := onA, used := fun _ => uABC,
             build := fun c f => some (.probe ⟨c, hreg f.fa, sreg f.fb, sreg f.fc⟩) })]

/-- The arrival word that a copy names (09 R250), or none; illegal where AWO is not 0 and none is named. -/
def Fields.awo (f : Fields) : Option (BitVec 19) := if f.sub.testBit 2 then some (BitVec.ofNat 19 f.imm) else none
def Fields.awOk (f : Fields) : Bool := f.sub.testBit 2 || f.imm = 0

/-- Copy and gather, 0x0C0 to 0x0C6. -/
def rowsCopy : List (Nat × Row) :=
  [(0x0C0, { cls := .k, on := onA,
             used := fun f => { fa := 31, fb := if f.sub % 4 = 2 then 0 else 31, fc := 31, fd := 31, sub := 7, imm := 2 ^ 19 - 1 },
             build := fun c f =>
               if !f.awOk then none
               else if f.sub % 4 = 0 then some (.copyG2s ⟨c, sreg f.fa, hreg f.fb, sreg f.fc, sreg f.fd, f.awo⟩)
               else if f.sub = 1 then some (.copyS2g ⟨c, sreg f.fa, hreg f.fb, sreg f.fc, sreg f.fd⟩)
               else if f.sub % 4 = 2 then some (.copyS2s ⟨c, sreg f.fa, sreg f.fc, sreg f.fd, f.awo⟩)
               else none }),
   (0x0C1, { cls := .k, on := onA, two := true, used := fun _ => { uABCD with sub := 7, imm := 2 ^ 19 - 1 },
             late := fun f => 32 ≤ f.w,
             build := fun c f =>
               if !f.awOk then none
               else if f.sub % 4 = 0 then
                 some (.copy2G2s ⟨c, sreg f.fa, hreg f.fb, sreg f.fc, sreg f.fd, hreg f.w, f.awo⟩)
               else if f.sub = 1 then some (.copy2S2g ⟨c, sreg f.fa, hreg f.fb, sreg f.fc, sreg f.fd, hreg f.w⟩)
               else none }),
   (0x0C2, { cls := .k, on := onA, used := fun _ => { uABCD with sub := 3, imm := 2 ^ 27 - 2 ^ 17 },
             build := fun c f =>
               match greg f.fd, below 3 f.sub with
               | some g, some t =>
                 some (.copyx ⟨c, sreg f.fa, hreg f.fb, sreg f.fc, g, hreg (f.imm / 2 ^ 22), sreg (f.imm / 2 ^ 17), t⟩)
               | _, _ => none }),
   (0x0C3, { cls := .k, on := onA, used := fun _ => { uABCD with sub := 7, imm := 2 ^ 27 - 2 ^ 17 },
             build := fun c f =>
               match greg f.fd, below 5 f.sub with
               | some g, some t =>
                 some (.copyc ⟨c, sreg f.fa, hreg f.fb, sreg f.fc, g, hreg (f.imm / 2 ^ 22), sreg (f.imm / 2 ^ 17), t⟩)
               | _, _ => none }),
   (0x0C4, { cls := .k, on := onA, used := fun _ => { uABCD with imm := 2 ^ 27 - 1 },
             build := fun c f =>
               some (.gather ⟨c, sreg f.fa, hreg f.fb, sreg f.fc, sreg f.fd, BitVec.ofNat 14 (f.imm / 2 ^ 13),
                 BitVec.ofNat 13 f.imm⟩) }),
   (0x0C5, { cls := .k, on := onA, used := fun _ => { uABCD with imm := 2 ^ 27 - 1 },
             build := fun c f =>
               some (.scatter ⟨c, sreg f.fa, hreg f.fb, sreg f.fc, sreg f.fd, BitVec.ofNat 14 (f.imm / 2 ^ 13),
                 BitVec.ofNat 13 f.imm⟩) }),
   (0x0C6, { cls := .k, on := onA, used := fun _ => { uABC with sub := 31, imm := 2 ^ 16 - 1 },
             build := fun c f =>
               if 192 < f.imm / 256 + f.imm % 256 + 1 then none
               else if f.sub % 2 = 0 then
                 (below 9 (f.sub / 2)).map (fun t => .acscpOut ⟨c, sreg f.fa, sreg f.fb, sreg f.fc, t,
                   BitVec.ofNat 8 (f.imm / 256), BitVec.ofNat 8 f.imm⟩)
               else if f.sub / 2 = 7 || f.sub / 2 = 8 then
                 some (.acscpIn ⟨c, sreg f.fa, sreg f.fb, sreg f.fc, f.sub / 2 == 8, BitVec.ofNat 8 (f.imm / 256),
                   BitVec.ofNat 8 f.imm⟩)
               else none })]

def rowAw (g : OpAw → Instr) : Row :=
  { cls := .k, on := onAll, used := fun _ => { uAB with imm := 2 ^ 27 - 1 },
    build := fun c f => some (g ⟨c, sreg f.fa, sreg f.fb, BitVec.ofNat 27 f.imm⟩) }

/-- Arrival words and fences, 0x0D0 to 0x0D3. -/
def rowsArrival : List (Nat × Row) :=
  [(0x0D0, rowAw .awinit), (0x0D1, rowAw .awwait),
   (0x0D2, { cls := .k, on := onAll, used := fun _ => { uAB with sub := 63, imm := 2 ^ 27 - 1 },
             build := fun c f =>
               if f.fa % 2 = 1 then none
               else if f.sub = 0 then some (.awrd ⟨c, sreg f.fa, sreg f.fb, BitVec.ofNat 27 f.imm⟩)
               else if f.sub = 1 then some (.awrdClr ⟨c, sreg f.fa, sreg f.fb, BitVec.ofNat 27 f.imm⟩)
               else none }),
   (0x0D3, { cls := .k, on := onAX, used := fun _ => { sub := 15 },
             build := fun c f =>
               (scopeOf (f.sub / 2)).map (fun s => if f.sub % 2 = 0 then .fenceRel ⟨c, s⟩ else .fenceAcq ⟨c, s⟩) })]

/-- Scatter-accumulate, 0x0D8 and 0x0D9. -/
def rowsSacc : List (Nat × Row) :=
  [(0x0D8, { cls := .k, on := onA, used := fun _ => { uABC with sub := 3, imm := 2 ^ 27 - 1 },
             build := fun c f =>
               match below 3 f.sub with
               | none => none
               | some t =>
                 if saccOk (f.imm / 4096) (f.imm % 4096)
                 then some (.sacc ⟨c, sreg f.fa, sreg f.fb, sreg f.fc, t, BitVec.ofNat 15 (f.imm / 4096), BitVec.ofNat 12 f.imm⟩)
                 else none }),
   (0x0D9, { cls := .k, on := onA, used := fun _ => { uABCD with sub := 3, imm := 2 ^ 27 - 1 },
             build := fun c f =>
               match below 3 f.sub with
               | none => none
               | some t =>
                 if saccOk (f.imm / 4096) (f.imm % 4096)
                 then some (.saccg ⟨c, hreg f.fa, sreg f.fb, sreg f.fc, sreg f.fd, t, BitVec.ofNat 15 (f.imm / 4096),
                   BitVec.ofNat 12 f.imm⟩)
                 else none })]

/-- Collectives, fabric, memory-side selection, 0x0E0 to 0x0E5. -/
def rowsFabric : List (Nat × Row) :=
  [(0x0E0, { cls := .k, on := onA, used := fun _ => { fa := 31, imm := 2 ^ 27 - 1 },
             build := fun c f => some (.coll ⟨c, sreg f.fa, BitVec.ofNat 27 f.imm⟩) }),
   (0x0E1, { cls := .k, on := onA, used := fun _ => { uAB with imm := 2 ^ 27 - 1 },
             build := fun c f => some (.collst ⟨c, sreg f.fb, sreg f.fa, BitVec.ofNat 27 f.imm⟩) }),
   (0x0E2, { cls := .k, on := onX, used := fun _ => uABCD,
             build := fun c f => some (.fmsend ⟨c, sreg f.fa, sreg f.fb, sreg f.fc, sreg f.fd⟩) }),
   (0x0E3, { cls := .k, on := onX, used := fun f => { fa := 31, fb := if f.sub = 0 then 31 else 0, sub := 63, imm := 2 ^ 27 - 1 },
             build := fun c f =>
               match below 8 f.imm with
               | none => none
               | some p =>
                 if f.sub = 0 then some (.fmrecvBind ⟨c, p, sreg f.fa, sreg f.fb⟩)
                 else if f.sub = 1 then some (.fmrecvPop ⟨c, sreg f.fa, p⟩)
                 else if f.sub = 2 then some (.fmrecvFlt ⟨c, sreg f.fa, p⟩)
                 else none }),
   (0x0E4, { cls := .k, on := onX, used := fun _ => uAB, build := fun c f => some (.wake ⟨c, sreg f.fa, sreg f.fb⟩) }),
   (0x0E5, { cls := .k, on := onA, used := fun _ => uABCD,
             build := fun c f => some (.mtopk ⟨c, sreg f.fa, hreg f.fb, sreg f.fc, sreg f.fd⟩) })]

/-- `GBASE`, `GCOUNT`, `GSTRIDE`: a signed immediate. -/
def gOf (c : Ctl) (f : Fields) (imm : Word) : Option OpG := (greg f.fa).map (fun g => ⟨c, g, sreg f.fb, imm⟩)

def uG : Fields := { fa := 31, fb := 31, sub := 63, imm := 2 ^ 32 - 1 }

/-- Generator configuration, 0x0F0 to 0x0F4. -/
def rowsGen : List (Nat × Row) :=
  [(0x0F0, { cls := .i, on := onAV, used := fun f => if f.sub = 2 then { uG with imm := 0 } else uG,
             build := fun c f =>
               if f.sub = 0 then (gOf c f (f.sx 32)).map .gcfgLd
               else if f.sub = 1 then (gOf c f (f.sx 32)).map .gcfgSt
               else if f.sub = 2 then
                 (match greg f.fa, greg f.fb with
                  | some g, some a => if f.v = 0 then some (.gcfgMov ⟨c, g, a⟩) else none
                  | _, _ => none)
               else none }),
   (0x0F1, { cls := .i, on := onAV, used := fun _ => uG,
             build := fun c f => if f.sub = 0 then (gOf c f (f.sx 32)).map .gbase else none }),
   (0x0F2, { cls := .i, on := onAV, used := fun _ => uG,
             build := fun c f =>
               if f.sub = 0 then (gOf c f (f.sx 32)).map .gcount
               else if f.sub = 1 then (gOf c f (f.sx 32)).map .gcountRow
               else none }),
   (0x0F3, { cls := .i, on := onAV, used := fun _ => uG,
             build := fun c f => if f.sub = 0 then (gOf c f (f.sx 32)).map .gstride else none }),
   (0x0F4, { cls := .i, on := onAV, used := fun _ => { uG with imm := 0xFFFF007F },
             build := fun c f => if f.sub = 0 then (gOf c f (f.sx 32)).map .gfmt else none })]

/-! #### Vector commands (10 R284 to R300) -/

/-- SCAL, the source that is a scalar: 1 FB, 2 FC, 3 FD (10 R289). -/
def Fields.scal (f : Fields) : Nat := f.sub / 16

/-- The source in field `n` that stands at place `i`. -/
def Fields.varg (f : Fields) (i n : Nat) : Option VArg :=
  if f.scal = i then (below 10 f.imm).map (fun t => .scalar (sreg n) t) else (greg n).map .gen

/-- Bits of an element-wise command with `k` sources whose OPT bits are `opt`. -/
def vUsed (k opt : Nat) (f : Fields) : Fields :=
  { fa := 31, fb := 31, fc := if 2 ≤ k then 31 else 0, fd := if 3 ≤ k then 31 else 0, sub := 48 + opt,
    imm := if f.scal = 0 then 0 else 15 }

def v1Of (c : Ctl) (f : Fields) : Option OpV1 :=
  match greg f.fa, f.varg 1 f.fb with
  | some d, some x => if f.scal < 2 then some ⟨c, d, x⟩ else none
  | _, _ => none

def v2Of (c : Ctl) (f : Fields) : Option OpV2 :=
  match greg f.fa, f.varg 1 f.fb, f.varg 2 f.fc with
  | some d, some x, some y => if f.scal < 3 then some ⟨c, d, x, y⟩ else none
  | _, _, _ => none

def v3Of (c : Ctl) (f : Fields) : Option OpV3 :=
  match greg f.fa, f.varg 1 f.fb, f.varg 2 f.fc, f.varg 3 f.fd with
  | some d, some x, some y, some z => some ⟨c, d, x, y, z⟩
  | _, _, _, _ => none

def rowV1 (g : OpV1 → Instr) : Row :=
  { cls := .k, on := onV, used := vUsed 1 0, build := fun c f => (v1Of c f).map g }
def rowV2 (g : OpV2 → Instr) : Row :=
  { cls := .k, on := onV, used := vUsed 2 0, build := fun c f => (v2Of c f).map g }
def rowV3 (g : OpV3 → Instr) : Row :=
  { cls := .k, on := onV, used := vUsed 3 0, build := fun c f => (v3Of c f).map g }

def rowVcmp : Row :=
  { cls := .k, on := onV, used := vUsed 2 15,
    build := fun c f =>
      match v2Of c f, fccOf (f.sub % 16) with
      | some o, some cc => some (.vcmp ⟨c, cc, o.d, o.x, o.y⟩)
      | _, _ => none }

def rowVsel : Row :=
  { cls := .k, on := onV, used := vUsed 3 0,
    build := fun c f =>
      match greg f.fa, greg f.fb, f.varg 2 f.fc, f.varg 3 f.fd with
      | some d, some m, some y, some z => if f.scal = 1 then none else some (.vsel ⟨c, d, m, y, z⟩)
      | _, _, _, _ => none }

def rowVshr : Row :=
  { cls := .k, on := onV, used := vUsed 2 15,
    build := fun c f =>
      if f.sub % 16 = 0 then (v2Of c f).map .vshr else if f.sub % 16 = 1 then (v2Of c f).map .vshrA else none }

/-- `VFILL`: its operand is an s register and SCAL is 0. -/
def rowVfill : Row :=
  { cls := .k, on := onV, used := vUsed 1 0,
    build := fun c f => if f.scal = 0 then (greg f.fa).map (fun d => .vfill ⟨c, d, sreg f.fb⟩) else none }

/-- Vector element-wise, 0x100 to 0x10F. -/
def rowsVec1 : List (Nat × Row) :=
  [(0x100, rowV2 .vadd), (0x101, rowV2 .vsub), (0x102, rowV2 .vmul), (0x103, rowV3 .vfma), (0x104, rowV2 .vmin),
   (0x105, rowV2 .vmax), (0x106, rowV1 .vabs), (0x107, rowV1 .vneg), (0x108, rowV1 .vexp), (0x109, rowV1 .vlog),
   (0x10A, rowV1 .vrcp), (0x10B, rowV1 .vrsq), (0x10C, rowV1 .vtanh), (0x10D, rowV1 .vsigm), (0x10E, rowV1 .vgelu),
   (0x10F, rowV1 .vsilu)]

/-- The micro-operations of `VCHAIN` and which of Y and Z they use (10 R294). -/
def Fields.chain (f : Fields) : Option (List (MicroOp × MicroSel)) := microsOf (f.sub % 8 + 1) f.w

/-- Whether a byte of the second word selects Y, or uses Z. -/
def usesY (n w : Nat) : Bool :=
  match n with
  | 0 => false
  | n + 1 => w % 8 == 1 || usesY n (w / 256)

def usesZ (n w : Nat) : Bool :=
  match n with
  | 0 => false
  | n + 1 => w % 8 == 2 || w % 256 / 8 == 7 || usesZ n (w / 256)

def rowVchain : Row :=
  { cls := .k, on := onV, two := true,
    used := fun f =>
      { fa := 31, fb := 31, fc := if f.lone || usesY (f.sub % 8 + 1) f.w then 31 else 0,
        fd := if f.lone || usesZ (f.sub % 8 + 1) f.w then 31 else 0, sub := 7, imm := 511 },
    late := fun f => f.w / 256 ^ (f.sub % 8 + 1) != 0,
    build := fun c f =>
      match greg f.fa, greg f.fb, below 10 (f.imm / 32), f.chain with
      | some d, some x, some kf, some ops =>
        let y := if usesY (f.sub % 8 + 1) f.w then (greg f.fc).map some else some none
        let z := if usesZ (f.sub % 8 + 1) f.w then (greg f.fd).map some else some none
        (match y, z with
         | some y, some z => some (.vchain ⟨c, d, x, y, z, sreg f.imm, kf, ops⟩)
         | _, _ => none)
      | _, _, _, _ => none }

/-- Vector element-wise, 0x110 to 0x11A, and `VCHAIN`. -/
def rowsVec2 : List (Nat × Row) :=
  [(0x110, rowV1 .vcvt), (0x111, rowVcmp), (0x112, rowVsel), (0x113, rowV2 .vand), (0x114, rowV2 .vor),
   (0x115, rowV2 .vxor), (0x116, rowV2 .vshl), (0x117, rowVshr), (0x118, rowV3 .vclamp), (0x119, rowV1 .vmov),
   (0x11A, rowVfill), (0x140, rowVchain)]

def rowRed (g : OpVred → Instr) : Row :=
  { cls := .k, on := onV, used := fun _ => { uAB with sub := 1 },
    build := fun c f =>
      match greg f.fa, greg f.fb with
      | some d, some a => some (g ⟨c, d, a, f.sub == 1⟩)
      | _, _ => none }

def rowVtopk : Row :=
  { cls := .k, on := onV, used := fun _ => { uABC with sub := 1, imm := 63 },
    build := fun c f =>
      match greg f.fa, greg f.fb, greg f.fc with
      | some d, some a, some ix => some (.vtopk ⟨c, d, ix, a, f.sub == 1, BitVec.ofNat 6 f.imm⟩)
      | _, _, _ => none }

/-- The optional third and fourth generators of `VZIP` and `VUNZIP` (10 R300). -/
def Fields.zipE (f : Fields) : Option (Option GReg) := if 1 ≤ f.sub then (greg f.fd).map some else some none
def Fields.zipF (f : Fields) : Option (Option GReg) := if f.sub = 2 then (greg f.imm).map some else some none

def zipUsed (f : Fields) : Fields :=
  { uABC with fd := if f.sub = 0 then 0 else 31, sub := 3, imm := if 2 ≤ f.sub then 31 else 0 }

def rowZip (g : Ctl → GReg → GReg → GReg → Option GReg → Option GReg → Instr) : Row :=
  { cls := .k, on := onV, used := zipUsed,
    build := fun c f =>
      match greg f.fa, greg f.fb, greg f.fc, f.zipE, f.zipF with
      | some a, some b, some d, some x, some y => if f.sub = 3 then none else some (g c a b d x y)
      | _, _, _, _, _ => none }

def rowG3 (g : OpVG3 → Instr) : Row :=
  { cls := .k, on := onV, used := fun _ => uABC,
    build := fun c f =>
      match greg f.fa, greg f.fb, greg f.fc with
      | some d, some a, some b => some (g ⟨c, d, a, b⟩)
      | _, _, _ => none }

def rowG2 (g : OpVG2 → Instr) : Row :=
  { cls := .k, on := onV, used := fun _ => uAB,
    build := fun c f =>
      match greg f.fa, greg f.fb with
      | some d, some a => some (g ⟨c, d, a⟩)
      | _, _ => none }

/-- Reductions, scans and rearrangement, 0x148 to 0x156. -/
def rowsRed : List (Nat × Row) :=
  [(0x148, rowRed .vrsum), (0x149, rowRed .vrmax), (0x14A, rowRed .vrmin), (0x14B, rowRed .vargmax),
   (0x14C, rowRed .vscan), (0x14D, rowVtopk), (0x14E, rowRed .vlse),
   (0x150, rowZip (fun c a b d x y => .vzip ⟨c, a, b, d, x, y⟩)),
   (0x151, rowZip (fun c a b d x y => .vunzip ⟨c, a, b, d, x, y⟩)),
   (0x152, rowG3 .vperm), (0x153, rowG2 .vtrans), (0x154, rowG2 .vbcast),
   (0x155, { cls := .k, on := onV, used := fun _ => uABCD,
             build := fun c f =>
               match greg f.fa, greg f.fb, greg f.fc with
               | some d, some a, some m => some (.vcompact ⟨c, d, a, m, sreg f.fd⟩)
               | _, _, _ => none }),
   (0x156, rowG3 .vexpand)]

/-! #### Matrix, shared passes, launch (11 R305, R313, R322, R327) -/

def rowTld (g : OpTld → Instr) : Row :=
  { cls := .t, on := onM, used := fun _ => { fa := 31, fb := 31, fc := 63, imm := 2047, n := 255 },
    build := fun c f =>
      match tile f.fc with
      | none => none
      | some t =>
        if f.imm < 256 then some (g ⟨c, t, BitVec.ofNat 8 f.imm, BitVec.ofNat 8 f.n, sreg f.fa, sreg f.fb⟩) else none }

/-- Matrix, 0x160 to 0x169. -/
def rowsMatrix : List (Nat × Row) :=
  [(0x160, { cls := .i, on := onM, used := fun _ => { imm := 63 },
             build := fun c f => if 1 ≤ f.v && f.v ≤ 32 then some (.lease ⟨c, BitVec.ofNat 6 f.v⟩) else none }),
   (0x161, { cls := .i, on := onM, used := fun _ => { sub := 63 },
             build := fun c f =>
               if f.v ≠ 0 then none else if f.sub = 0 then some (.unlease ⟨c⟩)
               else if f.sub = 1 then some (.unleaseAcs ⟨c⟩) else none }),
   (0x162, rowTld .tld), (0x163, rowTld .tst),
   (0x164, { cls := .t, on := onM, used := fun _ => { fc := 63, imm := 2047, n := 255 },
             build := fun c f =>
               match tile f.fc with
               | none => none
               | some t =>
                 if f.imm < 256 then some (.tzero ⟨c, t, BitVec.ofNat 8 f.imm, BitVec.ofNat 8 f.n⟩) else none }),
   (0x165, { cls := .t, on := onM, used := fun _ => { fc := 63 },
             build := fun c f => (tile f.fc).map (fun t => .mloadw ⟨c, t⟩) }),
   (0x166, { cls := .t, on := onM, used := fun _ => { fa := 31, fc := 63, imm := 2047, n := 255, sub := 1 },
             build := fun c f =>
               (tile f.fc).map (fun t => .mrows ⟨c, BitVec.ofNat 11 f.imm, t, sreg f.fa, BitVec.ofNat 8 f.n, f.sub == 1⟩) }),
   (0x167, { cls := .t, on := onM, used := fun _ => { fc := 63, fd := 63, imm := 2047, n := 255, sub := 1 },
             build := fun c f =>
               match tile f.fc, tile f.fd with
               | some t, some w => some (.mma ⟨c, BitVec.ofNat 11 f.imm, t, w, BitVec.ofNat 8 f.n, f.sub == 1⟩)
               | _, _ => none }),
   (0x168, { cls := .t, on := onM, used := fun _ => { imm := 2047, n := 255 },
             build := fun c f => some (.acszero ⟨c, BitVec.ofNat 11 f.imm, BitVec.ofNat 8 f.n⟩) }),
   (0x169, { cls := .t, on := onM, used := fun _ => { fa := 31, fb := 31, fc := 63, fd := 63, imm := 2047, sub := 1 },
             build := fun c f =>
               match tile f.fc, tile f.fd with
               | some t, some w => some (.bsmm ⟨c, BitVec.ofNat 11 f.imm, t, w, sreg f.fa, sreg f.fb, f.sub == 1⟩)
               | _, _ => none })]

/-- Shared passes and launch, 0x170 to 0x179. -/
def rowsTask : List (Nat × Row) :=
  [(0x170, { cls := .k, on := onM, two := true, used := fun _ => { uABC with sub := 7 },
             build := fun c f =>
               some (.task ⟨c, Fin.ofNat 8 f.sub, sreg f.fa, sreg f.fb, sreg f.fc, BitVec.ofNat 64 f.w⟩) }),
   (0x171, { cls := .k, on := onM, used := fun _ => { sub := 7 },
             build := fun c f => some (.taskwait ⟨c, Fin.ofNat 8 f.sub⟩) }),
   (0x172, { cls := .k, on := onM, used := fun _ => { fa := 31, sub := 7 },
             build := fun c f => some (.taskst ⟨c, sreg f.fa, Fin.ofNat 8 f.sub⟩) }),
   (0x178, { cls := .k, on := onX, two := true, used := fun _ => uABCD,
             late := fun f => 2 ^ 48 ≤ f.w,
             build := fun c f =>
               (pdst f.fc).map (fun p => .launch ⟨c, sreg f.fa, p, sreg f.fb, sreg f.fd, BitVec.ofNat 48 f.w⟩) }),
   (0x179, { cls := .k, on := onX, used := fun _ => { fa := 31, fb := 31, fd := 31 },
             build := fun c f => some (.launchp ⟨c, sreg f.fa, sreg f.fb, sreg f.fd⟩) })]

/-- The line of the opcode map for an opcode; none where 06 R185 leaves it unassigned (and for `EXT`, 0x002). -/
def opRow (opc : Nat) : Option Row :=
  if opc < 0x020 then Map.find? rowsControl opc
  else if opc < 0x040 then Map.find? rowsPred opc
  else if opc < 0x050 then Map.find? rowsQueue opc
  else if opc < 0x061 then Map.find? rowsInt1 opc
  else if opc < 0x090 then Map.find? rowsInt2 opc
  else if opc < 0x0A0 then Map.find? rowsFloat opc
  else if opc < 0x0B0 then Map.find? rowsCsr opc
  else if opc < 0x0B8 then Map.find? rowsMem opc
  else if opc < 0x0C0 then Map.find? rowsXlat opc
  else if opc < 0x0D0 then Map.find? rowsCopy opc
  else if opc < 0x0D8 then Map.find? rowsArrival opc
  else if opc < 0x0E0 then Map.find? rowsSacc opc
  else if opc < 0x0F0 then Map.find? rowsFabric opc
  else if opc < 0x100 then Map.find? rowsGen opc
  else if opc < 0x110 then Map.find? rowsVec1 opc
  else if opc < 0x148 then Map.find? rowsVec2 opc
  else if opc < 0x160 then Map.find? rowsRed opc
  else if opc < 0x170 then Map.find? rowsMatrix opc
  else Map.find? rowsTask opc

/-- The opcode of `EXT` and of every second word (06 R180). -/
def opcExt : Nat := 0x002

/-! ### Command words -/

/-- Guard, wait and signal of a word (06 R176). -/
def ctlOf (w : Nat) : Ctl where
  neg := bitsAt w 85 1 == 1
  pred := Fin.ofNat 16 (bitsAt w 81 4)
  wait := if bitsAt w 80 1 = 1 then some (BitVec.ofNat 8 (bitsAt w 72 8), BitVec.ofNat 7 (bitsAt w 65 7)) else none
  sig := if bitsAt w 64 1 = 1 then some (BitVec.ofNat 8 (bitsAt w 56 8), BitVec.ofNat 3 (bitsAt w 53 3)) else none

/-- A reserved bit of the sync fields is 1 (06 R176). -/
def ctlReserved (w : Nat) : Bool :=
  (bitsAt w 80 1 == 0 && bitsAt w 65 15 != 0) || (bitsAt w 64 1 == 0 && bitsAt w 53 11 != 0)

/-- The word's control bits, above the operand field. -/
def packCtl (c : Ctl) : Nat :=
  (if c.neg then 2 ^ 85 else 0) + c.pred.val * 2 ^ 81 +
    (match c.wait with
     | none => 0
     | some (i, d) => 2 ^ 80 + i.toNat * 2 ^ 72 + d.toNat * 2 ^ 65) +
    (match c.sig with
     | none => 0
     | some (i, n) => 2 ^ 64 + i.toNat * 2 ^ 56 + n.toNat * 2 ^ 53)

/-- VAL64 of a second word; none where the word is missing or is not one. -/
def secondOf (w2 : Option Nat) : Option Nat :=
  match w2 with
  | none => none
  | some w => if bitsAt w 86 10 = opcExt then some w else none

/-- The fields of a word of class `c`, with the value of an `EXT` prefix and of a second word. -/
def fieldsOf (c : Cls) (ext second : Option Nat) (w : Nat) : Fields :=
  let f := unpack c w
  { f with x := ext.isSome, v := ext.getD f.imm, w := (second.getD 0) % 2 ^ 64, lone := second.isNone }

/-- One command word in a stream of letter `l`: `ext` is VAL64 of the `EXT` before it, `w2` the word after it in its section. The
error is the reason of 06 R181, in that rule's order 1, 2, 3, 4, 6, 5. -/
def decodeWord (l : Letter) (ext : Option Nat) (w : Nat) (w2 : Option Nat) : Except Nat Instr :=
  match opRow (bitsAt w 86 10) with
  | none => .error 1
  | some r =>
    if l ∉ r.on then .error 2
    else
      let second := if r.two then secondOf w2 else none
      let f := fieldsOf r.cls ext second w
      let c := ctlOf w
      if ctlReserved w || !f.within (r.used f) || (second.isSome && r.late f) ||
          bitsAt (second.getD 0) 64 22 ≠ 0 || (ext.isSome && (r.cls = .i || r.cls = .s) && f.imm ≠ 0) then .error 3
      else if r.bare && !c.unguarded then .error 4
      else if (r.two && second.isNone) || (ext.isSome && (!(r.cls = .i || r.cls = .s) || r.two)) then .error 6
      else
        match r.build c f with
        | none => .error 5
        | some i => .ok i

/-- An `EXT` word `e` with the word after it in its section: the pair decodes as one command, and its faults are the pair's
(06 R180). -/
def decodeExt (l : Letter) (e : Nat) (w2 : Option Nat) : Except Nat Instr :=
  let bad := bitsAt e 64 22 ≠ 0
  match w2 with
  | none => .error (if bad then 3 else 6)
  | some w =>
    if bitsAt w 86 10 = opcExt then .error (if bad || bitsAt w 64 22 ≠ 0 then 3 else 6)
    else
      match decodeWord l (some (e % 2 ^ 64)) w none with
      | .error 1 => .error 1
      | .error 2 => .error 2
      | .error n => .error (if bad then 3 else n)
      | .ok _ => if bad then .error 3 else .ok (.ext (BitVec.ofNat 64 e))

/-- The command at a queue head: `ext` is set when the word before it was its `EXT`, already decoded. -/
def decodeCommand (l : Letter) (ext : Option Word) (w : Nat) (w2 : Option Nat) : Except Nat Instr :=
  match ext with
  | some v => decodeWord l (some v.toNat) w none
  | none => if bitsAt w 86 10 = opcExt then decodeExt l w w2 else decodeWord l none w w2

/-- Whether a word is the first of two, by its opcode alone. -/
def isTwoWord (w : Nat) : Bool :=
  match opRow (bitsAt w 86 10) with
  | none => false
  | some r => r.two

/-! ### Sampler words (12 R343, R344) -/

def sampReg (w lo : Nat) : KReg := Fin.ofNat 16 (bitsAt w lo 4)

/-- The fields that a sampler instruction uses: D, A, B as bits 4, 2, 1. -/
def sampUses (w m : Nat) : Bool :=
  (m.testBit 2 || bitsAt w 22 4 == 0) && (m.testBit 1 || bitsAt w 18 4 == 0) && (m.testBit 0 || bitsAt w 14 4 == 0) &&
    bitsAt w 0 10 == 0

/-- Format `R` with D, A, B as used by `m` and SUB `s`. -/
def sampR (w m s : Nat) (i : Instr) : Option Instr := if sampUses w m && bitsAt w 10 4 == s then some i else none

/-- The instruction of a sampler word; none is `SAMPLER_ILLEGAL`. -/
def decodeSampler (w : Nat) : Option Instr :=
  let d := sampReg w 22
  let a := sampReg w 18
  let b := sampReg w 14
  let sub := bitsAt w 10 4
  let off := BitVec.ofNat 22 w
  match bitsAt w 26 6 with
  | 0x01 => sampR w 6 0 (.sld d a)
  | 0x02 => sampR w 6 0 (.sldm d a)
  | 0x03 => sampR w 2 0 (.sscale a)
  | 0x04 => sampR w 2 0 (.spen a)
  | 0x05 => sampR w 0 0 .smask
  | 0x06 => sampR w 2 0 (.stopk a)
  | 0x07 => sampR w 2 0 (.stopp a)
  | 0x08 => sampR w 2 0 (.sminp a)
  | 0x09 => sampR w 0 0 .ssoft
  | 0x0A => sampR w 4 0 (.sdraw d)
  | 0x0B => sampR w 6 0 (.spick d a)
  | 0x0C => sampR w 6 0 (.sratio d a)
  | 0x0D => sampR w 2 0 (.sresid a)
  | 0x0E => sampR w 0 0 .snorm
  | 0x0F => if sub = 0 then sampR w 2 0 (.semit a) else sampR w 3 1 (.semitD a b)
  | 0x10 => sampR w 6 0 (.saccept d a)
  | 0x11 => sampR w 2 0 (.sroll a)
  | 0x12 => if sub = 0 then sampR w 7 0 (.sadd d a b) else sampR w 7 1 (.saddF d a b)
  | 0x13 => if sub = 0 then sampR w 7 0 (.ssub d a b) else sampR w 7 1 (.ssubF d a b)
  | 0x14 => if sub = 0 then sampR w 7 0 (.smul d a b) else sampR w 7 1 (.smulF d a b)
  | 0x15 => if sub < 8 then sampR w 7 sub (.scmp (Fin.ofNat 8 sub) d a b) else none
  | 0x16 => if bitsAt w 22 4 = 0 then some (.sjmp off) else none
  | 0x17 => some (.sjz d off)
  | 0x18 => some (.sjnz d off)
  | 0x19 => if bitsAt w 21 1 = 0 then some (.smovi d (BitVec.ofNat 21 w)) else some (.smoviH d (BitVec.ofNat 21 w))
  | 0x1A =>
    if sub = 0 then sampR w 4 0 (.srngSeed d)
    else if sub = 1 then sampR w 2 1 (.srngSetseed a)
    else if sub = 2 then sampR w 4 2 (.srngCtr d)
    else sampR w 2 3 (.srngSetctr a)
  | 0x1B => sampR w 7 0 (.swait d a b)
  | 0x1C => sampR w 0 0 .send
  | _ => none

/-- A row of the opcode table by its first `nbits` bits: 32 a sampler word; 96 or 192 a command word of a stream that
allows it, with the `EXT` or second word. -/
def decodeTableWord (nbits w : Nat) : Option Instr :=
  if nbits ≤ 32 then decodeSampler w
  else
    let w1 := w % 2 ^ 96
    let w2 := if nbits ≤ 96 then none else some (w / 2 ^ 96)
    let on : List Letter :=
      match opRow (bitsAt w1 86 10) with
      | some r => r.on
      | none => onAll
    match on with
    | [] => none
    | l :: _ => (decodeCommand l none w1 w2).toOption

/-! ### Encoder -/

/-- An encoded command: opcode, class, sync fields, operand fields, VAL64 of a prefix, VAL64 of a second word. -/
structure Enc where
  opc : Nat
  cls : Cls
  c : Ctl
  f : Fields := {}
  ext : Option Nat := none
  second : Option Nat := none
  deriving DecidableEq, Repr

/-- The words of an encoded command, in address order (06 R176, R180). -/
def Enc.words (e : Enc) : List Nat :=
  (match e.ext with
   | none => []
   | some v => [opcExt * 2 ^ 86 + v]) ++
  [e.opc * 2 ^ 86 + packCtl e.c + pack e.cls e.f] ++
  (match e.second with
   | none => []
   | some v => [opcExt * 2 ^ 86 + v])

/-- A value as a signed immediate of `b` bits: the field, and VAL64 of the prefix that it needs when it does not fit. -/
def immOf (b : Nat) (v : Word) : Nat × Option Nat :=
  if (BitVec.ofNat b v.toNat).signExtend 64 = v then (v.toNat % 2 ^ b, none) else (0, some v.toNat)

def enc0 (opc : Nat) (o : Op0) : Enc := ⟨opc, .n, o.c, {}, none, none⟩
def enc3 (opc : Nat) (o : Op3) : Enc := ⟨opc, .k, o.c, { fa := o.d, fb := o.a, fc := o.b }, none, none⟩
def enc2 (opc : Nat) (o : Op2) : Enc := ⟨opc, .k, o.c, { fa := o.d, fb := o.a }, none, none⟩
def enc1 (opc : Nat) (o : Op1) : Enc := ⟨opc, .k, o.c, { fa := o.d }, none, none⟩
def encI (opc : Nat) (o : OpI) : Enc :=
  ⟨opc, .i, o.c, { fa := o.d, fb := o.a, imm := (immOf 32 o.imm).1 }, (immOf 32 o.imm).2, none⟩
def encSh (opc : Nat) (o : OpSh) : Enc := ⟨opc, .i, o.c, { fa := o.d, fb := o.a, imm := o.n }, none, none⟩
def encTrap (opc : Nat) (o : OpTrap) : Enc := ⟨opc, .i, o.c, { imm := o.code.toNat }, none, none⟩

/-- Fields of a semaphore index: register, IMM32 part, SUB part. -/
def SemIdx.fields (i : SemIdx) : Nat × Nat × Nat :=
  match i with
  | .imm v => (0, v.toNat, 0)
  | .reg r => (r.val, 0, 2)
def SemAmt.fields (v : SemAmt) : Nat × Nat × Nat :=
  match v with
  | .imm v => (0, v.toNat * 256, 0)
  | .reg r => (r.val, 0, 1)

def encSem (opc : Nat) (o : OpSem) : Enc :=
  ⟨opc, .i, o.c, { fa := o.v.fields.1, fb := o.i.fields.1, sub := o.i.fields.2.2 + o.v.fields.2.2,
                   imm := o.i.fields.2.1 + o.v.fields.2.1 }, none, none⟩
def encSemI (opc sub : Nat) (c : Ctl) (fa : Nat) (i : SemIdx) : Enc :=
  ⟨opc, .i, c, { fa := fa, fb := i.fields.1, sub := i.fields.2.2 + sub, imm := i.fields.2.1 }, none, none⟩
def encPPP (opc : Nat) (o : OpPPP) : Enc := ⟨opc, .k, o.c, { fa := o.d, fb := o.a, fc := o.b }, none, none⟩
def encVote (opc : Nat) (o : OpVote) : Enc :=
  ⟨opc, .k, o.c, { fa := o.d, fb := o.a, fc := o.n, imm := o.off.toNat }, none, none⟩
def encSQ (opc : Nat) (o : OpSQ) : Enc := ⟨opc, .k, o.c, { fa := o.d, fb := o.q }, none, none⟩
def encBf (opc sub : Nat) (o : OpBf) : Enc :=
  ⟨opc, .k, o.c, { fa := o.d, fb := o.a, sub := sub, imm := o.pos.toNat * 128 + o.len.toNat }, none, none⟩

/-- Fields of a control-register source: register, IMM32 part, SUB. -/
def CsrSrc.fields (s : CsrSrc) : Nat × Nat × Nat :=
  match s with
  | .reg r => (r.val, 0, 0)
  | .imm v => (0, v.toNat * 4096, 1)

def encCsr (opc : Nat) (c : Ctl) (d : SReg) (n : Nat) (s : CsrSrc) : Enc :=
  ⟨opc, .i, c, { fa := d, fb := s.fields.1, sub := s.fields.2.2, imm := s.fields.2.1 + n }, none, none⟩

/-- SUB[2] and IMM27 of a copy's arrival word. -/
def awFields (aw : Option (BitVec 19)) : Nat × Nat :=
  match aw with
  | none => (0, 0)
  | some v => (4, v.toNat)

def encAw (opc : Nat) (o : OpAw) : Enc := ⟨opc, .k, o.c, { fa := o.a, fb := o.v, imm := o.off.toNat }, none, none⟩
def encGather (opc : Nat) (o : OpGather) : Enc :=
  ⟨opc, .k, o.c, { fa := o.s, fb := o.h, fc := o.o, fd := o.ix, imm := o.cnt.toNat * 2 ^ 13 + o.rb.toNat }, none, none⟩
/-- A `GFMT` immediate that IMM32 gives: a sign-extended 32-bit value with bits [15:7] zero (10 R282, 06 R179). -/
def gfmtShort (v : Word) : Bool := decide ((v.setWidth 32).signExtend 64 = v) && v.toNat / 128 % 512 == 0
def encG (opc sub : Nat) (o : OpG) : Enc :=
  ⟨opc, .i, o.c, { fa := o.g, fb := o.a, sub := sub, imm := (immOf 32 o.imm).1 }, (immOf 32 o.imm).2, none⟩

/-- The register field, SCAL and format of a vector source at place `i`. -/
def VArg.field (x : VArg) : Nat :=
  match x with
  | .gen g => g.val
  | .scalar s _ => s.val
def VArg.scal (x : VArg) (i : Nat) : Nat :=
  match x with
  | .gen _ => 0
  | .scalar _ _ => i * 16
def VArg.fmt (x : VArg) : Nat :=
  match x with
  | .gen _ => 0
  | .scalar _ f => f.val

def encV1 (opc : Nat) (o : OpV1) : Enc :=
  ⟨opc, .k, o.c, { fa := o.d, fb := o.x.field, sub := o.x.scal 1, imm := o.x.fmt }, none, none⟩
def encV2 (opc opt : Nat) (o : OpV2) : Enc :=
  ⟨opc, .k, o.c, { fa := o.d, fb := o.x.field, fc := o.y.field, sub := o.x.scal 1 + o.y.scal 2 + opt,
                   imm := o.x.fmt + o.y.fmt }, none, none⟩
def encV3 (opc : Nat) (o : OpV3) : Enc :=
  ⟨opc, .k, o.c, { fa := o.d, fb := o.x.field, fc := o.y.field, fd := o.z.field,
                   sub := o.x.scal 1 + o.y.scal 2 + o.z.scal 3, imm := o.x.fmt + o.y.fmt + o.z.fmt }, none, none⟩
def encRed (opc : Nat) (o : OpVred) : Enc :=
  ⟨opc, .k, o.c, { fa := o.d, fb := o.a, sub := if o.row then 1 else 0 }, none, none⟩
def optG (g : Option GReg) : Nat :=
  match g with
  | none => 0
  | some g => g.val
def encZip (opc : Nat) (c : Ctl) (a b d : GReg) (e f : Option GReg) : Enc :=
  ⟨opc, .k, c, { fa := a, fb := b, fc := d, fd := optG e, imm := optG f,
                 sub := (if e.isSome then 1 else 0) + (if f.isSome then 1 else 0) }, none, none⟩
def encG3 (opc : Nat) (o : OpVG3) : Enc := ⟨opc, .k, o.c, { fa := o.d, fb := o.a, fc := o.b }, none, none⟩
def encG2 (opc : Nat) (o : OpVG2) : Enc := ⟨opc, .k, o.c, { fa := o.d, fb := o.a }, none, none⟩
def encTld (opc : Nat) (o : OpTld) : Enc :=
  ⟨opc, .t, o.c, { fa := o.a, fb := o.st, fc := o.t, imm := o.row.toNat, n := o.n.toNat }, none, none⟩
def bit (b : Bool) : Nat := if b then 1 else 0

/-- The encoding of a command; none for `EXT` (whose word is part of its pair), sampler words and events. -/
def encodeCommand (i : Instr) : Option Enc :=
  match i with
  | .nop o => some (enc0 0x001 o)
  | .notify o => some (enc0 0x003 o)
  | .rdv o => some ⟨0x004, .i, o.c, { imm := o.n }, none, none⟩
  | .semadd o => some (encSem 0x005 o)
  | .semwait o => some (encSem 0x006 o)
  | .sembase o => some (encSem 0x007 o)
  | .sembaseSnap o => some (encSemI 0x007 4 o.c 0 o.i)
  | .semrd o => some (encSemI 0x008 0 o.c o.d o.i)
  | .semrdRel o => some (encSemI 0x008 4 o.c o.d o.i)
  | .bar o => some ⟨0x009, .i, o.c, { fa := o.cnt, sub := o.scope.code, imm := o.n }, none, none⟩
  | .barLaunch o => some ⟨0x009, .i, o.c, { sub := 3, imm := o.n }, none, none⟩
  | .safept o => some (enc0 0x00A o)
  | .irrev o => some (enc0 0x00B o)
  | .trap o => some (encTrap 0x00C o)
  | .bkpt o => some (encTrap 0x00D o)
  | .pseti o => some ⟨0x020, .i, o.c, { fa := o.p, imm := bit o.v }, none, none⟩
  | .pmovPp o => some ⟨0x021, .k, o.c, { fa := o.d, fb := o.a }, none, none⟩
  | .pmovPs o => some ⟨0x021, .k, o.c, { fa := o.d, fb := o.a, sub := 1 }, none, none⟩
  | .pmovSp o => some ⟨0x021, .k, o.c, { fa := o.d, fb := o.a, sub := 2 }, none, none⟩
  | .pand o => some (encPPP 0x022 o)
  | .por o => some (encPPP 0x023 o)
  | .pxor o => some (encPPP 0x024 o)
  | .pnot o => some ⟨0x025, .k, o.c, { fa := o.d, fb := o.a }, none, none⟩
  | .punres o => some ⟨0x026, .k, o.c, { fa := o.d }, none, none⟩
  | .cmp o => some ⟨0x027, .k, o.c, { fa := o.d, fb := o.a, fc := o.b, sub := o.cc.code }, none, none⟩
  | .cmpImm o => some ⟨0x027, .k, o.c, { fa := o.d, fb := o.a, sub := 32 + o.cc.code, imm := o.imm.toNat }, none, none⟩
  | .fcmp o => some ⟨0x028, .k, o.c, { fa := o.d, fb := o.a, fc := o.b, sub := o.cc.code }, none, none⟩
  | .vany o => some (encVote 0x029 o)
  | .vall o => some (encVote 0x02A o)
  | .ptb o => some ⟨0x02B, .b, o.c, { fd := o.b, imm := o.off.toNat }, none, none⟩
  | .ptbr o => some ⟨0x02C, .b, o.c, { fd := o.b, fb := o.a, imm := o.off.toNat }, none, none⟩
  | .br o => some ⟨0x02D, .b, o.c, { fd := o.b, fc := o.p, sub := bit o.neg }, none, none⟩
  | .call o => some ⟨0x02E, .b, o.c, { fd := o.b }, none, none⟩
  | .ret o => some (enc0 0x02F o)
  | .loop o => some ⟨0x030, .l, o.c, { n := o.cnt.toNat, st := 3, imm := o.stop.toNat }, none, none⟩
  | .loopr o => some ⟨0x031, .l, o.c, { fa := o.a, st := 3, imm := o.stop.toNat }, none, none⟩
  | .lexit o => some (enc0 0x032 o)
  | .qpush o => some ⟨0x040, .k, o.c, { fa := o.q, fb := o.a }, none, none⟩
  | .qpop o => some (encSQ 0x041 o)
  | .qpeek o => some (encSQ 0x042 o)
  | .qpushp o => some ⟨0x043, .k, o.c, { fa := o.q, fb := o.p }, none, none⟩
  | .qpopp o => some ⟨0x044, .k, o.c, { fa := o.p, fb := o.q }, none, none⟩
  | .qlen o => some (encSQ 0x045 o)
  | .add o => some (enc3 0x050 o)
  | .addi o => some (encI 0x051 o)
  | .sub o => some (enc3 0x052 o)
  | .mul o => some (enc3 0x053 o)
  | .mulh o => some (enc3 0x054 o)
  | .mulhu o => some (enc3 0x055 o)
  | .div o => some (enc3 0x056 o)
  | .divu o => some (enc3 0x057 o)
  | .rem o => some (enc3 0x058 o)
  | .remu o => some (enc3 0x059 o)
  | .and o => some (enc3 0x05A o)
  | .andi o => some (encI 0x05B o)
  | .or o => some (enc3 0x05C o)
  | .ori o => some (encI 0x05D o)
  | .xor o => some (enc3 0x05E o)
  | .xori o => some (encI 0x05F o)
  | .shl o => some (enc3 0x060 o)
  | .shli o => some (encSh 0x061 o)
  | .shr o => some (enc3 0x062 o)
  | .shri o => some (encSh 0x063 o)
  | .sra o => some (enc3 0x064 o)
  | .srai o => some (encSh 0x065 o)
  | .min o => some (enc3 0x066 o)
  | .max o => some (enc3 0x067 o)
  | .minu o => some (enc3 0x068 o)
  | .maxu o => some (enc3 0x069 o)
  | .clz o => some (enc2 0x06A o)
  | .ctz o => some (enc2 0x06B o)
  | .popc o => some (enc2 0x06C o)
  | .sel o => some ⟨0x06D, .k, o.c, { fa := o.d, fb := o.a, fc := o.b, fd := o.p }, none, none⟩
  | .movi o => some ⟨0x06E, .i, o.c, { fa := o.d, imm := (immOf 32 o.imm).1 }, (immOf 32 o.imm).2, none⟩
  | .movhi o => some ⟨0x06F, .i, o.c, { fa := o.d, imm := o.imm.toNat }, none, none⟩
  | .mov o => some (enc2 0x070 o)
  | .abs o => some (enc2 0x071 o)
  | .bfx o => some (encBf 0x072 0 o)
  | .bfxS o => some (encBf 0x072 1 o)
  | .bfi o => some (encBf 0x073 0 o)
  | .lea o => some ⟨0x074, .k, o.c, { fa := o.d, fb := o.a, fc := o.b, sub := o.sh, imm := o.off.toNat }, none, none⟩
  | .fadd o => some (enc3 0x090 o)
  | .fsub o => some (enc3 0x091 o)
  | .fmul o => some (enc3 0x092 o)
  | .ffma o => some ⟨0x093, .k, o.c, { fa := o.d, fb := o.a, fc := o.b, fd := o.e }, none, none⟩
  | .fdiv o => some (enc3 0x094 o)
  | .fsqrt o => some (enc2 0x095 o)
  | .fmin o => some (enc3 0x096 o)
  | .fmax o => some (enc3 0x097 o)
  | .fabs o => some (enc2 0x098 o)
  | .fneg o => some (enc2 0x099 o)
  | .fcvt o => some ⟨0x09A, .k, o.c, { fa := o.d, fb := o.a, imm := o.src.val * 16 + o.dst.val }, none, none⟩
  | .fclass o => some ⟨0x09B, .k, o.c, { fa := o.d, fb := o.a, imm := o.fmt }, none, none⟩
  | .csrr o => some ⟨0x0A0, .i, o.c, { fa := o.d, imm := o.n.toNat }, none, none⟩
  | .csrw o => some (encCsr 0x0A1 o.c o.d o.n.toNat o.src)
  | .csrs o => some (encCsr 0x0A2 o.c o.d o.n.toNat o.src)
  | .csrc o => some (encCsr 0x0A3 o.c o.d o.n.toNat o.src)
  | .rdcyc o => some (enc1 0x0A4 o)
  | .rdptp o => some (enc1 0x0A5 o)
  | .specdepthWrite o => some (encCsr 0x0A1 o.c o.d 0x028 o.src)
  | .tcfgWrite o => some (encCsr 0x0A1 o.c o.d (0x040 + o.n.val) o.src)
  | .lds o =>
    some ⟨0x0B0, .s, o.c, { fa := o.d, fb := o.a, fc := o.sz, sub := bit o.sx, imm := (immOf 24 o.off).1 },
      (immOf 24 o.off).2, none⟩
  | .sts o =>
    some ⟨0x0B1, .s, o.c, { fa := o.d, fb := o.a, fc := o.sz, imm := (immOf 24 o.off).1 }, (immOf 24 o.off).2, none⟩
  | .ldg o => some ⟨0x0B2, .k, o.c, { fa := o.d, fb := o.h, fc := o.o, sub := o.sz.val + 8 * bit o.sx }, none, none⟩
  | .stg o => some ⟨0x0B3, .k, o.c, { fa := o.d, fb := o.h, fc := o.o, sub := o.sz }, none, none⟩
  | .xlat o => some ⟨0x0B8, .k, o.c, { fa := o.h, fb := o.a }, none, none⟩
  | .htestS o => some ⟨0x0B9, .k, o.c, { fa := o.d, fb := o.h }, none, none⟩
  | .htestP o => some ⟨0x0B9, .k, o.c, { fa := o.d, fb := o.h, sub := 1 }, none, none⟩
  | .hrel o => some ⟨0x0BA, .k, o.c, { fa := o.h }, none, none⟩
  | .probe o => some ⟨0x0BB, .k, o.c, { fa := o.h, fb := o.a, fc := o.n }, none, none⟩
  | .copyG2s o =>
    some ⟨0x0C0, .k, o.c, { fa := o.s, fb := o.h, fc := o.o, fd := o.n, sub := (awFields o.aw).1, imm := (awFields o.aw).2 },
      none, none⟩
  | .copyS2g o => some ⟨0x0C0, .k, o.c, { fa := o.s, fb := o.h, fc := o.o, fd := o.n, sub := 1 }, none, none⟩
  | .copyS2s o =>
    some ⟨0x0C0, .k, o.c, { fa := o.d, fc := o.s, fd := o.n, sub := 2 + (awFields o.aw).1, imm := (awFields o.aw).2 }, none, none⟩
  | .copy2G2s o =>
    some ⟨0x0C1, .k, o.c, { fa := o.s, fb := o.h, fc := o.o, fd := o.n, sub := (awFields o.aw).1, imm := (awFields o.aw).2 },
      none, some o.h2.val⟩
  | .copy2S2g o =>
    some ⟨0x0C1, .k, o.c, { fa := o.s, fb := o.h, fc := o.o, fd := o.n, sub := 1 }, none, some o.h2.val⟩
  | .copyx o =>
    some ⟨0x0C2, .k, o.c, { fa := o.s, fb := o.h, fc := o.o, fd := o.g, sub := o.fmt, imm := o.hs.val * 2 ^ 22 + o.so.val * 2 ^ 17 },
      none, none⟩
  | .copyc o =>
    some ⟨0x0C3, .k, o.c, { fa := o.s, fb := o.h, fc := o.o, fd := o.g, sub := o.fmt, imm := o.hs.val * 2 ^ 22 + o.so.val * 2 ^ 17 },
      none, none⟩
  | .gather o => some (encGather 0x0C4 o)
  | .scatter o => some (encGather 0x0C5 o)
  | .acscpOut o =>
    some ⟨0x0C6, .k, o.c, { fa := o.a, fb := o.row, fc := o.n, sub := 2 * o.fmt.val, imm := o.col.toNat * 256 + o.ncol.toNat },
      none, none⟩
  | .acscpIn o =>
    some ⟨0x0C6, .k, o.c, { fa := o.a, fb := o.row, fc := o.n, sub := (if o.i32 then 17 else 15),
                            imm := o.col.toNat * 256 + o.ncol.toNat }, none, none⟩
  | .awinit o => some (encAw 0x0D0 o)
  | .awwait o => some (encAw 0x0D1 o)
  | .awrd o => some ⟨0x0D2, .k, o.c, { fa := o.d, fb := o.a, imm := o.off.toNat }, none, none⟩
  | .awrdClr o => some ⟨0x0D2, .k, o.c, { fa := o.d, fb := o.a, sub := 1, imm := o.off.toNat }, none, none⟩
  | .fenceRel o => some ⟨0x0D3, .k, o.c, { sub := 2 * o.scope.code }, none, none⟩
  | .fenceAcq o => some ⟨0x0D3, .k, o.c, { sub := 2 * o.scope.code + 1 }, none, none⟩
  | .sacc o =>
    some ⟨0x0D8, .k, o.c, { fa := o.d, fb := o.ix, fc := o.v, sub := o.fmt, imm := o.cnt.toNat * 4096 + o.rl.toNat }, none, none⟩
  | .saccg o =>
    some ⟨0x0D9, .k, o.c, { fa := o.h, fb := o.o, fc := o.ix, fd := o.v, sub := o.fmt, imm := o.cnt.toNat * 4096 + o.rl.toNat },
      none, none⟩
  | .coll o => some ⟨0x0E0, .k, o.c, { fa := o.a, imm := o.off.toNat }, none, none⟩
  | .collst o => some ⟨0x0E1, .k, o.c, { fa := o.a, fb := o.d, imm := o.off.toNat }, none, none⟩
  | .fmsend o => some ⟨0x0E2, .k, o.c, { fa := o.p, fb := o.b, fc := o.n, fd := o.slot }, none, none⟩
  | .fmrecvBind o => some ⟨0x0E3, .k, o.c, { fa := o.a, fb := o.d, imm := o.f }, none, none⟩
  | .fmrecvPop o => some ⟨0x0E3, .k, o.c, { fa := o.d, sub := 1, imm := o.f }, none, none⟩
  | .fmrecvFlt o => some ⟨0x0E3, .k, o.c, { fa := o.d, sub := 2, imm := o.f }, none, none⟩
  | .wake o => some ⟨0x0E4, .k, o.c, { fa := o.a, fb := o.v }, none, none⟩
  | .mtopk o => some ⟨0x0E5, .k, o.c, { fa := o.s, fb := o.h, fc := o.o, fd := o.d }, none, none⟩
  | .gcfgLd o => some (encG 0x0F0 0 o)
  | .gcfgSt o => some (encG 0x0F0 1 o)
  | .gcfgMov o => some ⟨0x0F0, .i, o.c, { fa := o.g, fb := o.a, sub := 2 }, none, none⟩
  | .gbase o => some (encG 0x0F1 0 o)
  | .gcount o => some (encG 0x0F2 0 o)
  | .gcountRow o => some (encG 0x0F2 1 o)
  | .gstride o => some (encG 0x0F3 0 o)
  | .gfmt o =>
    some ⟨0x0F4, .i, o.c, { fa := o.g, fb := o.a, imm := if gfmtShort o.imm then o.imm.toNat % 2 ^ 32 else 0 },
      if gfmtShort o.imm then none else some o.imm.toNat, none⟩
  | .vadd o => some (encV2 0x100 0 o)
  | .vsub o => some (encV2 0x101 0 o)
  | .vmul o => some (encV2 0x102 0 o)
  | .vfma o => some (encV3 0x103 o)
  | .vmin o => some (encV2 0x104 0 o)
  | .vmax o => some (encV2 0x105 0 o)
  | .vabs o => some (encV1 0x106 o)
  | .vneg o => some (encV1 0x107 o)
  | .vexp o => some (encV1 0x108 o)
  | .vlog o => some (encV1 0x109 o)
  | .vrcp o => some (encV1 0x10A o)
  | .vrsq o => some (encV1 0x10B o)
  | .vtanh o => some (encV1 0x10C o)
  | .vsigm o => some (encV1 0x10D o)
  | .vgelu o => some (encV1 0x10E o)
  | .vsilu o => some (encV1 0x10F o)
  | .vcvt o => some (encV1 0x110 o)
  | .vcmp o => some (encV2 0x111 o.cc.code ⟨o.c, o.d, o.x, o.y⟩)
  | .vsel o => some (encV3 0x112 ⟨o.c, o.d, .gen o.m, o.y, o.z⟩)
  | .vand o => some (encV2 0x113 0 o)
  | .vor o => some (encV2 0x114 0 o)
  | .vxor o => some (encV2 0x115 0 o)
  | .vshl o => some (encV2 0x116 0 o)
  | .vshr o => some (encV2 0x117 0 o)
  | .vshrA o => some (encV2 0x117 1 o)
  | .vclamp o => some (encV3 0x118 o)
  | .vmov o => some (encV1 0x119 o)
  | .vfill o => some ⟨0x11A, .k, o.c, { fa := o.d, fb := o.s }, none, none⟩
  | .vchain o =>
    some ⟨0x140, .k, o.c, { fa := o.d, fb := o.x, fc := optG o.y, fd := optG o.z, sub := o.ops.length - 1,
                            imm := o.k.val + o.kf.val * 32 }, none, some (microCode o.ops)⟩
  | .vrsum o => some (encRed 0x148 o)
  | .vrmax o => some (encRed 0x149 o)
  | .vrmin o => some (encRed 0x14A o)
  | .vargmax o => some (encRed 0x14B o)
  | .vscan o => some (encRed 0x14C o)
  | .vtopk o =>
    some ⟨0x14D, .k, o.c, { fa := o.d, fb := o.a, fc := o.ix, sub := bit o.row, imm := o.k.toNat }, none, none⟩
  | .vlse o => some (encRed 0x14E o)
  | .vzip o => some (encZip 0x150 o.c o.d o.a o.b o.e o.f)
  | .vunzip o => some (encZip 0x151 o.c o.d o.a o.b o.e o.f)
  | .vperm o => some (encG3 0x152 o)
  | .vtrans o => some (encG2 0x153 o)
  | .vbcast o => some (encG2 0x154 o)
  | .vcompact o => some ⟨0x155, .k, o.c, { fa := o.d, fb := o.a, fc := o.m, fd := o.n }, none, none⟩
  | .vexpand o => some (encG3 0x156 o)
  | .lease o => some ⟨0x160, .i, o.c, { imm := o.blocks.toNat }, none, none⟩
  | .unlease o => some ⟨0x161, .i, o.c, {}, none, none⟩
  | .unleaseAcs o => some ⟨0x161, .i, o.c, { sub := 1 }, none, none⟩
  | .tld o => some (encTld 0x162 o)
  | .tst o => some (encTld 0x163 o)
  | .tzero o => some ⟨0x164, .t, o.c, { fc := o.t, imm := o.row.toNat, n := o.n.toNat }, none, none⟩
  | .mloadw o => some ⟨0x165, .t, o.c, { fc := o.t }, none, none⟩
  | .mrows o =>
    some ⟨0x166, .t, o.c, { fa := o.a, fc := o.t, imm := o.row.toNat, n := o.n.toNat, sub := bit o.set }, none, none⟩
  | .mma o =>
    some ⟨0x167, .t, o.c, { fc := o.t, fd := o.w, imm := o.row.toNat, n := o.n.toNat, sub := bit o.set }, none, none⟩
  | .acszero o => some ⟨0x168, .t, o.c, { imm := o.row.toNat, n := o.n.toNat }, none, none⟩
  | .bsmm o =>
    some ⟨0x169, .t, o.c, { fa := o.a, fb := o.m, fc := o.t, fd := o.w, imm := o.row.toNat, sub := bit o.set }, none, none⟩
  | .task o => some ⟨0x170, .k, o.c, { fa := o.a, fb := o.b, fc := o.p, sub := o.slot }, none, some o.hash.toNat⟩
  | .taskwait o => some ⟨0x171, .k, o.c, { sub := o.slot }, none, none⟩
  | .taskst o => some ⟨0x172, .k, o.c, { fa := o.d, sub := o.slot }, none, none⟩
  | .launch o => some ⟨0x178, .k, o.c, { fa := o.d, fb := o.r, fc := o.p, fd := o.q }, none, some o.desc.toNat⟩
  | .launchp o => some ⟨0x179, .k, o.c, { fa := o.d, fb := o.r, fd := o.q }, none, none⟩
  | _ => none

/-- A sampler word of format `R`. -/
def wordR (op : Nat) (d a b : Nat) (sub : Nat) : Nat := op * 2 ^ 26 + d * 2 ^ 22 + a * 2 ^ 18 + b * 2 ^ 14 + sub * 2 ^ 10
/-- A sampler word of format `I` or `J`: `hi` is the 4-bit register field. -/
def wordJ (op hi low : Nat) : Nat := op * 2 ^ 26 + hi * 2 ^ 22 + low

/-- The word of a sampler instruction; none for the other rows. -/
def encodeSampler (i : Instr) : Option Nat :=
  match i with
  | .sld d a => some (wordR 0x01 d a 0 0)
  | .sldm d a => some (wordR 0x02 d a 0 0)
  | .sscale a => some (wordR 0x03 0 a 0 0)
  | .spen a => some (wordR 0x04 0 a 0 0)
  | .smask => some (wordR 0x05 0 0 0 0)
  | .stopk a => some (wordR 0x06 0 a 0 0)
  | .stopp a => some (wordR 0x07 0 a 0 0)
  | .sminp a => some (wordR 0x08 0 a 0 0)
  | .ssoft => some (wordR 0x09 0 0 0 0)
  | .sdraw d => some (wordR 0x0A d 0 0 0)
  | .spick d a => some (wordR 0x0B d a 0 0)
  | .sratio d a => some (wordR 0x0C d a 0 0)
  | .sresid a => some (wordR 0x0D 0 a 0 0)
  | .snorm => some (wordR 0x0E 0 0 0 0)
  | .semit a => some (wordR 0x0F 0 a 0 0)
  | .semitD a b => some (wordR 0x0F 0 a b 1)
  | .saccept d a => some (wordR 0x10 d a 0 0)
  | .sroll a => some (wordR 0x11 0 a 0 0)
  | .sadd d a b => some (wordR 0x12 d a b 0)
  | .saddF d a b => some (wordR 0x12 d a b 1)
  | .ssub d a b => some (wordR 0x13 d a b 0)
  | .ssubF d a b => some (wordR 0x13 d a b 1)
  | .smul d a b => some (wordR 0x14 d a b 0)
  | .smulF d a b => some (wordR 0x14 d a b 1)
  | .scmp cc d a b => some (wordR 0x15 d a b cc)
  | .sjmp off => some (wordJ 0x16 0 off.toNat)
  | .sjz a off => some (wordJ 0x17 a off.toNat)
  | .sjnz a off => some (wordJ 0x18 a off.toNat)
  | .smovi d imm => some (wordJ 0x19 d imm.toNat)
  | .smoviH d imm => some (wordJ 0x19 d (2 ^ 21 + imm.toNat))
  | .srngSeed d => some (wordR 0x1A d 0 0 0)
  | .srngSetseed a => some (wordR 0x1A 0 a 0 1)
  | .srngCtr d => some (wordR 0x1A d 0 0 2)
  | .srngSetctr a => some (wordR 0x1A 0 a 0 3)
  | .swait d a b => some (wordR 0x1B d a b 0)
  | .send => some (wordR 0x1C 0 0 0 0)
  | _ => none

/-- The words of an instruction: 96-bit words of a command, the 32-bit word of a sampler instruction; empty for an event. Of an `EXT` it is its
own word alone, which needs a command behind it (06 R180). -/
def encode (i : Instr) : List Nat :=
  match i with
  | .ext v => [opcExt * 2 ^ 86 + v.toNat]
  | i =>
    match encodeCommand i with
    | some e => e.words
    | none =>
      match encodeSampler i with
      | some w => [w]
      | none => []

/-- The command that a list of words spells in a stream of letter `l`: one word, or two, of which either the first is the `EXT` of the second or the
second belongs to the first (06 R180). -/
def decodeWords (l : Letter) (ws : List Nat) : Except Nat Instr :=
  match ws with
  | [w] => decodeCommand l none w none
  | [w, w2] =>
    if bitsAt w 86 10 = opcExt then decodeCommand l (some (BitVec.ofNat 64 w)) w2 none else decodeCommand l none w (some w2)
  | _ => .error 1

end Sys2Proof
end

