-- ==== Sys2Proof/Machine/Stream.lean ====
section
/-! DEFINITION. How a stream comes to its next command: code fetch (06 R526), section entry and retirement (06 R174, R175, R181), the
checks of a word that depend on its place, and trap entry (07 R197). -/

namespace Sys2Proof.Machine

/-! ### Code -/

/-- Bytes of a code line now in memory, where its page translates and no byte is poisoned (06 R526). -/
def State.codeLine (s : State) (ctx line : Nat) : Option (List Byte) :=
  if line * 128 ≥ 2 ^ 48 then none else
  match s.physOf ctx (line * 128) false with
  | none => none
  | some (pa, _) => if s.homeBad pa 128 then none else some (s.homeRead pa 128)

/-- A line as a control core fetches it: from memory, or from its code buffer while that holds other, older bytes (06 R526: either
is allowed). (DEDUCED, log 14) -/
def State.fetchLine (s : State) (j : Job) (line : Nat) : Option (List Byte) :=
  match j.code.find? (fun c => c.line = line) with
  | none => s.codeLine j.ctx line
  | some c =>
    match s.codeLine j.ctx line with
    | none => some c.bytes
    | some b => some (if Config.staleCode s.ticket then c.bytes else b)

/-- The lines that `n` bytes at `a` touch and that the code buffer does not hold. -/
def Job.codeMisses (j : Job) (a n : Nat) : List Nat := (unitsOf 128 a n).filter (fun l => !j.code.any (fun c => c.line = l))

/-- `n` bytes of code at `a`, least significant first, as a number; none where they cannot be fetched, which an address with bits above
47 cannot be. (DEDUCED, log 98) -/
def State.codeAt (s : State) (j : Job) (a n : Nat) : Option Nat :=
  let ls := (unitsOf 128 a n).map (s.fetchLine j)
  if ls.any (·.isNone) || 2 ^ 48 < a + n then none
  else some (fieldOf ((ls.map (·.getD [])).flatten) (a % 128) n)

/-- The opcode of a word. -/
def opcOf (w : Nat) : Nat := bitsAt w 86 10

/-- Words of the command that starts with word `w`. -/
def wordsOf (w : Nat) : Nat := if opcOf w = opcExt || isTwoWord w then 2 else 1

/-- Whether `target` starts a command, walking from `a` (06 R175); `fuel` bounds the words. -/
def State.startsAt (s : State) (j : Job) (fuel a target : Nat) : Bool :=
  match fuel with
  | 0 => false
  | fuel + 1 =>
    if a = target then true
    else if target < a then false
    else State.startsAt s j fuel (a + 12 * wordsOf ((s.codeAt j a 12).getD 0)) target

/-- Whether `a` is the first word of a command of the section. -/
def State.isStart (s : State) (j : Job) (x : Section) (a : Nat) : Bool :=
  x.holds a && s.startsAt j (x.len + 1) (x.base.toNat + 8) a

/-- A line that a stream's control core has come to need arrives in its code buffer after a time that the device does not fix, or has been fetched
ahead: the stream goes on no earlier. -/
def execCodeFetch (s : State) : Result :=
  let r := s.args.ref
  let j := s.jobOf r.job
  .next (match s.codeLine j.ctx s.args.a with
    | none => s
    | some b =>
      let ks := (s.walk j.ctx j.vf (s.args.a * 128)).2
      ((s.markAcc ks j.spec.isSome).modJob r.job (fun j => { j with code := j.code ++ [⟨s.args.a, b⟩] })).modRef r
        (fun t => { t with readyAt := max t.readyAt (s.now + Config.delay s.ticket) }) |>.draw)

/-! ### Sections -/

/-- Header bits (06 R172). -/
def hdrLast (h : BitVec 64) : Bool := h.getLsbD 2
def hdrRdvEnd (h : BitVec 64) : Bool := h.getLsbD 1
def hdrPrept (h : BitVec 64) : Bool := h.getLsbD 0

/-- Reason 7 of 06 R181. -/
def hdrBad (h : BitVec 64) (fall : Option (BitVec 12)) : Bool :=
  h.extractLsb' 3 5 ≠ 0 || (hdrLast h && hdrRdvEnd h) ||
    (match fall with
     | none => false
     | some n => h.extractLsb' 44 12 ≠ n + 1)

/-- Enters a section (06 R174): the checks 10, 7 and 9 of 06 R181 in that order, then the section is the stream's own; at its
pre-emption point the stream stops when a pre-emption is pending (01 R36). At the start and the resumption of its job, the stream's next command
comes 4 cycles later at the earliest (01 R17, R40); a stream that resumes goes on in its section. (DEDUCED, log 99) -/
def State.enterSection (s : State) (r : Ref) (e : Entering) : State :=
  let j := s.jobOf r.job
  match s.codeAt j e.base.toNat 8 with
  | none => s.raise r (errIllegal 10) e.base 0
  | some w =>
    let h := BitVec.ofNat 64 w
    let seen := if j.spec.isSome then s else s.modRef r (fun t => { t with sect := some ⟨e.base, h⟩ })
    if hdrBad h e.fall then seen.raise r (errIllegal 7) e.base 0
    else if e.base.toNat % 16 ≠ 0 then seen.raise r (errIllegal 9) e.base 0
    else s.modRef r (fun t =>
      let again := e.start && t.sect.isSome
      { t with
        pc := e.first, entering := none, sect := some ⟨e.base, h⟩
        entered := if again then t.entered else t.issued
        visit := if again then t.visit else t.visit + 1
        gap := if hdrPrept h && !again then 0 else t.gap
        readyAt := if e.start then s.now + 4 else t.readyAt
        stopped := hdrPrept h && j.preempt.isSome && (!again || t.issued = t.entered) })

def execSectionEnter (s : State) : Result :=
  let r := s.args.ref
  .next (match (s.strOf r).entering with
    | none => s
    | some e => s.enterSection r e)

/-- Retires, in the order in which the stream left them, the sections whose commands have all reached their completion points (06
R174). -/
def State.retireLeft (s : State) (r : Ref) (fuel : Nat) : State :=
  match fuel with
  | 0 => s
  | fuel + 1 =>
    match (s.strOf r).left with
    | [] => s
    | (v, n) :: rest =>
      if s.flights.any (fun f => f.2.ref = r && f.2.visit = v) then s
      else State.retireLeft (s.modRef r (fun t => { t with left := rest, retired := some n })) r fuel

def execSectionRetire (s : State) : Result :=
  let r := s.args.ref
  .next (s.retireLeft r (s.strOf r).left.length)

/-! ### Words -/

/-- An unassigned opcode is illegal in every stream and under every guard (06 R185). -/
def execUnassignedOpcode (s : State) : Result :=
  let r := s.args.ref
  .next (s.raise r (errIllegal 1) (s.strOf r).cmdStart s.args.a)

/-- `EXT` has no effect of its own: its value is kept for the command after it, which runs in the same cycle (06 R180). -/
def execExt (v : Word) (s : State) : Result := .next (s.modSt (fun t => { t with ext := some v, pc := t.pc + 12 }))

/-- Commands that may not stand in a delay slot (07 R206). -/
def slotBad (i : Instr) : Bool :=
  match i with
  | .br _ | .call _ | .ret _ | .loop _ | .loopr _ | .lexit _ | .rdv _ | .notify _ | .safept _ | .trap _ | .bkpt _ => true
  | _ => false

/-- Whether a command is a transfer. -/
def isTransfer (i : Instr) : Bool :=
  match i with
  | .br _ | .call _ | .ret _ => true
  | _ => false

/-- END16 of a loop instruction. -/
def loopStop (i : Instr) : Option Nat :=
  match i with
  | .loop o => some o.stop.toNat
  | .loopr o => some o.stop.toNat
  | _ => none

/-- Commands of the section from `a` on, up to `fuel`. -/
def State.commandsFrom (s : State) (j : Job) (x : Section) (fuel a : Nat) : Nat :=
  match fuel with
  | 0 => 0
  | fuel + 1 =>
    if x.stop ≤ a then 0 else 1 + State.commandsFrom s j x fuel (a + 12 * wordsOf ((s.codeAt j a 12).getD 0))

/-- The checks of reason 5 that depend on a command's place: slot contents and the slots a transfer has (07 R206), and the body of a loop
(07 R209). `a` is the command's address, `n` the address after it. -/
def State.placeBad (s : State) (j : Job) (t : Stream) (x : Section) (i : Instr) (a n : Nat) : Bool :=
  (t.slot.isSome && slotBad i) || (isTransfer i && s.commandsFrom j x 2 n < 2) ||
    (match loopStop i with
     | none => false
     | some e => a + 4 * e < n || !s.isStart j x (a + 4 * e))

/-- Reason 8 of 06 R181: the last command of a section by 01 R24 and R25, and `NOTIFY` anywhere else. -/
def endBad (x : Section) (i : Instr) (n : Nat) : Bool :=
  let last := n = x.stop
  match i with
  | .notify _ => !(last && hdrLast x.hdr)
  | .rdv _ => last && hdrLast x.hdr
  | _ => last && (hdrLast x.hdr || hdrRdvEnd x.hdr)

/-- What a stream does next: nothing, an instruction with the operands of an event, or a state change of its own (a stop, an illegal word),
after which it goes on in the same cycle where it lands (`land`). -/
inductive Todo where
  | idle
  | run (i : Instr) (g : Args)
  | set (s : State)
  | land (s : State)
  deriving DecidableEq, Repr

/-- Families that a prologue may hold (15 R398, 06 R184). (DEDUCED, log 106) -/
def prologueOk (i : Instr) : Bool :=
  match i with
  | .ext _ | .notify _
  | .pseti _ | .pmovPp _ | .pmovPs _ | .pmovSp _ | .pand _ | .por _ | .pxor _ | .pnot _ | .punres _ | .cmp _ | .cmpImm _ | .fcmp _
  | .vany _ | .vall _ | .ptb _ | .ptbr _ | .br _ | .call _ | .ret _ | .loop _ | .loopr _ | .lexit _
  | .add _ | .addi _ | .sub _ | .mul _ | .mulh _ | .mulhu _ | .div _ | .divu _ | .rem _ | .remu _ | .and _ | .andi _ | .or _ | .ori _
  | .xor _ | .xori _ | .shl _ | .shli _ | .shr _ | .shri _ | .sra _ | .srai _ | .min _ | .max _ | .minu _ | .maxu _ | .clz _ | .ctz _
  | .popc _ | .sel _ | .movi _ | .movhi _ | .mov _ | .abs _ | .bfx _ | .bfxS _ | .bfi _ | .lea _
  | .csrr _ | .csrw _ | .csrs _ | .csrc _ | .specdepthWrite _ | .tcfgWrite _ | .rdcyc _ | .rdptp _
  | .lds _ | .sts _ => true
  | _ => false

/-- The command at the stream's queue head, decoded by 06 R181. -/
def State.headTodo (s : State) (r : Ref) (j : Job) (t : Stream) (x : Section) : Todo :=
  let a := t.pc.toNat
  let start := t.cmdStart
  match s.codeAt j a 12 with
  | none => .set (s.raise r (errIllegal 10) start 0)
  | some w =>
    let two := t.ext.isNone && wordsOf w = 2
    let w2 := if two && a + 24 ≤ x.stop then s.codeAt j (a + 12) 12 else none
    if two && a + 24 ≤ x.stop && w2.isNone then .set (s.raise r (errIllegal 10) start (opcOf w))
    else
      match j.codeMisses a (if two && a + 24 ≤ x.stop then 24 else 12) with
      | l :: _ => .run .codeFetch { ref := r, a := l }
      | [] =>
        if (opRow (opcOf w)).isNone && opcOf w ≠ opcExt then .run .unassignedOpcode { ref := r, a := opcOf w }
        else
          match decodeCommand r.letter t.ext w w2 with
          | .error n => .set (s.raise r (errIllegal n) start (opcOf w))
          | .ok i =>
            let n := a + (if two && opcOf w ≠ opcExt then 24 else 12)
            if opcOf w ≠ opcExt && s.placeBad j t x i start.toNat n then .set (s.raise r (errIllegal 5) start (opcOf w))
            else if opcOf w ≠ opcExt && endBad x i n then .set (s.raise r (errIllegal 8) start (opcOf w))
            else if j.prologue && (!prologueOk i || 4096 ≤ j.executed) then .set (s.raise r (errIllegal 2) start (opcOf w))
            else .run i {}

/-- A stream that stops at the pre-emption point of its section, before the first command of it (01 R36). -/
def Stream.stopHere (t : Stream) : Stream :=
  { t with stopped := true, gap := 0, pc := t.cmdStart, ext := none, begun := false, awaits := none }

/-- A stream's way into a section whose header it does not hold yet. -/
def State.headerTodo (s : State) (r : Ref) (j : Job) (e : Entering) : Todo :=
  match s.codeAt j e.base.toNat 8, j.codeMisses e.base.toNat 8 with
  | some _, l :: _ => .run .codeFetch { ref := r, a := l }
  | _, _ => .run .sectionEnter { ref := r }

/-- A stream's way into a section, or to a place in the one that it is in (06 R174, R175): the header's line is fetched first. -/
def State.enterTodo (s : State) (r : Ref) (j : Job) (t : Stream) (e : Entering) : Todo :=
  match t.sect with
  | some x =>
    if x.base = e.base && !e.start then
      if s.isStart j x e.first.toNat then .land (s.modRef r (fun t => { t with entering := none }))
      else .set (s.raise r (errIllegal 9) e.first 0)
    else s.headerTodo r j e
  | none => s.headerTodo r j e

/-- A stream's next move (01 R36, R38, 06 R174, 07 R197). A stream of a claimed job that is still paused counts its cycles. -/
def State.todo (s : State) (r : Ref) : Todo :=
  let j := s.jobOf r.job
  let t := j.stream r.letter
  let count : Todo := .set (s.modRef r (fun t => { t with gap := t.gap + 1 }))
  if !j.onCore || j.frozen || j.parking || !(j.error.isNone || j.errAt = s.now) || t.ended || t.stopped then .idle
  else if j.preempt.isSome && j.spec.isNone && j.gapMax + 4096 < t.gap then .run .preemptOverrun { ref := r }
  else if t.paused then (if j.spec.isNone && j.error.isNone then count else .idle)
  else if !t.traps.isEmpty && t.slot.isNone && t.entering.isNone then .run .trapEntry { ref := r }
  else if s.now < t.readyAt then count
  else
    match t.entering with
    | some e => s.enterTodo r j t e
    | none =>
      match t.sect with
      | none => .idle
      | some x =>
        if j.preempt.isSome && hdrPrept x.hdr && t.issued = t.entered then .set (s.modRef r Stream.stopHere)
        else s.headTodo r j t x

/-! ### Trap entry -/

/-- The stream enters its handler: the command at its queue head, an `EXT` before it included, is the one to resume at. -/
def Stream.enterTrap (t : Stream) (now : Nat) (p : PendingTrap) (rest : List PendingTrap) : Stream :=
  { ({ t with
      traps := rest, ext := none, begun := false, awaits := none
      tret := t.cmdStart.setWidth 48 |>.setWidth 64
      tcause := (1#64 <<< 63) ||| (BitVec.ofNat 64 p.cause.code <<< 32) ||| p.info.setWidth 64 }.land t.tvec) with
    readyAt := now + 8, gap := t.gap + 1 }

/-- Trap entry (07 R197): without a handler, or in a running one, the context error `TRAP_UNHANDLED`, whose record names the next command; a
speculative job pauses before it (07 R198); else, once every issued command of the stream has reached its completion point, `TRET` and
`TCAUSE` are written and the stream lands at `TVEC`. (DESIGN CHOICE, log 96) -/
def State.takeTrap (s : State) (r : Ref) : State :=
  let t := s.strOf r
  match t.traps with
  | [] => s
  | p :: rest =>
    if (s.jobOf r.job).spec.isSome then s.modRef r (fun t => { t with paused := true })
    else if t.inTrap || t.tvec = 0 then s.raise r { code := 15, trap := p.cause.code } t.cmdStart 0
    else if s.busy r then s.modRef r (fun t => { t with gap := t.gap + 1 })
    else s.modRef r (fun t => t.enterTrap s.now p rest)

def execTrapEntry (s : State) : Result := .next (s.takeTrap s.args.ref)

end Sys2Proof.Machine
end

