-- ==== Sys2Proof/Machine/Vector.lean ====
section
/-! DEFINITION. Vector commands (10 R284 to R301): what each word names, and its meaning in a job. -/

namespace Sys2Proof.Machine

/-- Registers of a source. -/
def vargReg (x : VArg) : Reg :=
  match x with
  | .gen g => .g g
  | .scalar r _ => .s r

def VecForm.use (opc : Nat) (f : VecForm) (two : Bool) (out : Option SReg) : Use :=
  { opc := opc, two := two, regs := f.dests.map Reg.g ++ f.srcs.map vargReg ++ (out.map Reg.s).toList, dst := (out.map Reg.s).toList }

/-- A source as the running stream holds it. -/
def State.vin (s : State) (x : VArg) : VIn :=
  match x with
  | .gen g => .gen (s.gget g)
  | .scalar r f => .lit (s.sget r) f

/-- The running job's scratch window as a place of vector work. -/
def State.vecEnv (s : State) : VecEnv := ⟨s.core.scratch, s.job.scrAddr 0, s.job.scrSize * 65536, fun _ => s.job.fmode⟩

/-- Steps of a walk (10 R287): 256 bytes each, every row on a step of its own. -/
def walkSteps (g : GenWord) : Nat :=
  let bytes (n : Nat) := if genFmt g = fmtMask then (n + 7) / 8 else n * fmtBytes (genFmt g)
  let row := genRow g
  if row = 0 then 0 else genCount g / row * ((bytes row + 255) / 256) + (bytes (genCount g % row) + 255) / 256

/-- Steps of a vector command at the vector unit: those of its longest walk (10 R287). -/
def vecSteps (k : VecKind) (ds : List GenWord) (xs : List VIn) : Nat :=
  let d := ds.headD 0
  let walks := ds ++ xs.filterMap (fun x => match x with
    | .gen g => some g
    | _ => none)
  let longest := (walks.map walkSteps).foldl max 0
  match k with
  | .move .perm => (genCount d + 63) / 64
  | .red (.topk n) _ => longest + n * genRows ((VIn.gens xs).headD 0)
  | _ => longest

/-- The body of a vector command: its checks but those of its sources' contents (10 R285), and then its work at the vector unit (10 R286, R287). One that
writes no element completes at issue and writes nothing. -/
def vecBody (f : VecForm) (out : Option SReg) (s : State) : Act :=
  let ds := f.dests.map s.gget
  let xs := f.srcs.map s.vin
  if vecEmpty ds then .done s 0
  else
    match s.vecEnv.check f.kind ds xs with
    | some c => Act.code c
    | none =>
      .data s (.vec f.kind ds xs s.vecEnv.base s.vecEnv.limit s.job.fmode out) (.vector (vecSteps f.kind ds xs)) [] none

/-- A vector command of the running stream. -/
def vecCommand (c : Ctl) (opc : Nat) (f : VecForm) (s : State) : Result := command c (f.use opc false none) (vecBody f none) s

/-! ### What each word names -/

def formV1 (op : ElemOp) (o : OpV1) : VecForm := ⟨[o.d], [o.x], .elem op⟩
def formV2 (op : ElemOp) (o : OpV2) : VecForm := ⟨[o.d], [o.x, o.y], .elem op⟩
def formV3 (op : ElemOp) (o : OpV3) : VecForm := ⟨[o.d], [o.x, o.y, o.z], .elem op⟩
def formCmp (o : OpVcmp) : VecForm := ⟨[o.d], [o.x, o.y], .elem (.cmp o.cc)⟩
def formSel (o : OpVsel) : VecForm := ⟨[o.d], [.gen o.m, o.y, o.z], .elem .sel⟩
def formFill (o : OpVfill) : VecForm := ⟨[o.d], [.scalar o.s 9], .elem .fill⟩
def formChain (o : OpVchain) : VecForm :=
  ⟨[o.d], [.gen o.x] ++ (o.y.map VArg.gen).toList ++ (o.z.map VArg.gen).toList ++ [.scalar o.k o.kf],
    .chain o.ops o.y.isSome o.z.isSome⟩
def formRed (op : RedOp) (o : OpVred) : VecForm := ⟨[o.d], [.gen o.a], .red op o.row⟩
def formTopk (o : OpVtopk) : VecForm := ⟨[o.d, o.ix], [.gen o.a], .red (.topk (o.k.toNat + 1)) o.row⟩
def formZip (o : OpVzip) : VecForm :=
  ⟨[o.d], ([o.a, o.b] ++ o.e.toList ++ o.f.toList).map VArg.gen, .move .zip⟩
def formUnzip (o : OpVunzip) : VecForm := ⟨[o.d, o.b] ++ o.e.toList ++ o.f.toList, [.gen o.a], .move .unzip⟩
def formG2 (op : MoveOp) (o : OpVG2) : VecForm := ⟨[o.d], [.gen o.a], .move op⟩
def formG3 (op : MoveOp) (o : OpVG3) : VecForm := ⟨[o.d], [.gen o.a, .gen o.b], .move op⟩
def formCompact (o : OpVcompact) : VecForm := ⟨[o.d], [.gen o.a, .gen o.m], .move .compact⟩

/-! ### Element-wise commands (10 R289 to R292) -/

def execVadd (o : OpV2) (s : State) : Result := vecCommand o.c 0x100 (formV2 .add o) s
def execVsub (o : OpV2) (s : State) : Result := vecCommand o.c 0x101 (formV2 .sub o) s
def execVmul (o : OpV2) (s : State) : Result := vecCommand o.c 0x102 (formV2 .mul o) s
def execVfma (o : OpV3) (s : State) : Result := vecCommand o.c 0x103 (formV3 .fma o) s
def execVmin (o : OpV2) (s : State) : Result := vecCommand o.c 0x104 (formV2 .min o) s
def execVmax (o : OpV2) (s : State) : Result := vecCommand o.c 0x105 (formV2 .max o) s
def execVabs (o : OpV1) (s : State) : Result := vecCommand o.c 0x106 (formV1 .abs o) s
def execVneg (o : OpV1) (s : State) : Result := vecCommand o.c 0x107 (formV1 .neg o) s
def execVexp (o : OpV1) (s : State) : Result := vecCommand o.c 0x108 (formV1 (.fn .exp) o) s
def execVlog (o : OpV1) (s : State) : Result := vecCommand o.c 0x109 (formV1 (.fn .log) o) s
def execVrcp (o : OpV1) (s : State) : Result := vecCommand o.c 0x10A (formV1 (.fn .rcp) o) s
def execVrsq (o : OpV1) (s : State) : Result := vecCommand o.c 0x10B (formV1 (.fn .rsq) o) s
def execVtanh (o : OpV1) (s : State) : Result := vecCommand o.c 0x10C (formV1 (.fn .tanh) o) s
def execVsigm (o : OpV1) (s : State) : Result := vecCommand o.c 0x10D (formV1 (.fn .sigm) o) s
def execVgelu (o : OpV1) (s : State) : Result := vecCommand o.c 0x10E (formV1 (.fn .gelu) o) s
def execVsilu (o : OpV1) (s : State) : Result := vecCommand o.c 0x10F (formV1 (.fn .silu) o) s
def execVcvt (o : OpV1) (s : State) : Result := vecCommand o.c 0x110 (formV1 .cvt o) s
def execVcmp (o : OpVcmp) (s : State) : Result := vecCommand o.c 0x111 (formCmp o) s
def execVsel (o : OpVsel) (s : State) : Result := vecCommand o.c 0x112 (formSel o) s
def execVand (o : OpV2) (s : State) : Result := vecCommand o.c 0x113 (formV2 .and o) s
def execVor (o : OpV2) (s : State) : Result := vecCommand o.c 0x114 (formV2 .or o) s
def execVxor (o : OpV2) (s : State) : Result := vecCommand o.c 0x115 (formV2 .xor o) s
def execVshl (o : OpV2) (s : State) : Result := vecCommand o.c 0x116 (formV2 .shl o) s
def execVshr (o : OpV2) (s : State) : Result := vecCommand o.c 0x117 (formV2 .shr o) s
def execVshrA (o : OpV2) (s : State) : Result := vecCommand o.c 0x117 (formV2 .sra o) s
def execVclamp (o : OpV3) (s : State) : Result := vecCommand o.c 0x118 (formV3 .clamp o) s
def execVmov (o : OpV1) (s : State) : Result := vecCommand o.c 0x119 (formV1 .mov o) s
def execVfill (o : OpVfill) (s : State) : Result := vecCommand o.c 0x11A (formFill o) s

/-- `VCHAIN`, a command of two words (10 R294). -/
def execVchain (o : OpVchain) (s : State) : Result :=
  command o.c ((formChain o).use 0x140 true none) (vecBody (formChain o) none) s

/-! ### Reductions and scans (10 R297 to R299) -/

def execVrsum (o : OpVred) (s : State) : Result := vecCommand o.c 0x148 (formRed .sum o) s
def execVrmax (o : OpVred) (s : State) : Result := vecCommand o.c 0x149 (formRed .max o) s
def execVrmin (o : OpVred) (s : State) : Result := vecCommand o.c 0x14A (formRed .min o) s
def execVargmax (o : OpVred) (s : State) : Result := vecCommand o.c 0x14B (formRed .argmax o) s
def execVscan (o : OpVred) (s : State) : Result := vecCommand o.c 0x14C (formRed .scan o) s
def execVtopk (o : OpVtopk) (s : State) : Result := vecCommand o.c 0x14D (formTopk o) s
def execVlse (o : OpVred) (s : State) : Result := vecCommand o.c 0x14E (formRed .lse o) s

/-! ### Rearrangement (10 R300, R301) -/

def execVzip (o : OpVzip) (s : State) : Result := vecCommand o.c 0x150 (formZip o) s
def execVunzip (o : OpVunzip) (s : State) : Result := vecCommand o.c 0x151 (formUnzip o) s
def execVperm (o : OpVG3) (s : State) : Result := vecCommand o.c 0x152 (formG3 .perm o) s
def execVtrans (o : OpVG2) (s : State) : Result := vecCommand o.c 0x153 (formG2 .trans o) s
def execVbcast (o : OpVG2) (s : State) : Result := vecCommand o.c 0x154 (formG2 .bcast o) s

/-- `VCOMPACT` also writes the number of set mask bits to sD. -/
def execVcompact (o : OpVcompact) (s : State) : Result :=
  command o.c ((formCompact o).use 0x155 false (some o.n)) (vecBody (formCompact o) (some o.n)) s

def execVexpand (o : OpVG3) (s : State) : Result := vecCommand o.c 0x156 (formG3 .expand o) s

/-- A vector command by its form, for the epilogues that hold it (13 R367). -/
def vecFormOf (i : Instr) : Option VecForm :=
  match i with
  | .vadd o => some (formV2 .add o)
  | .vsub o => some (formV2 .sub o)
  | .vmul o => some (formV2 .mul o)
  | .vfma o => some (formV3 .fma o)
  | .vmin o => some (formV2 .min o)
  | .vmax o => some (formV2 .max o)
  | .vabs o => some (formV1 .abs o)
  | .vneg o => some (formV1 .neg o)
  | .vexp o => some (formV1 (.fn .exp) o)
  | .vlog o => some (formV1 (.fn .log) o)
  | .vrcp o => some (formV1 (.fn .rcp) o)
  | .vrsq o => some (formV1 (.fn .rsq) o)
  | .vtanh o => some (formV1 (.fn .tanh) o)
  | .vsigm o => some (formV1 (.fn .sigm) o)
  | .vgelu o => some (formV1 (.fn .gelu) o)
  | .vsilu o => some (formV1 (.fn .silu) o)
  | .vcvt o => some (formV1 .cvt o)
  | .vcmp o => some (formCmp o)
  | .vsel o => some (formSel o)
  | .vand o => some (formV2 .and o)
  | .vor o => some (formV2 .or o)
  | .vxor o => some (formV2 .xor o)
  | .vshl o => some (formV2 .shl o)
  | .vshr o => some (formV2 .shr o)
  | .vshrA o => some (formV2 .sra o)
  | .vclamp o => some (formV3 .clamp o)
  | .vmov o => some (formV1 .mov o)
  | .vfill o => some (formFill o)
  | .vchain o => some (formChain o)
  | .vrsum o => some (formRed .sum o)
  | .vrmax o => some (formRed .max o)
  | .vrmin o => some (formRed .min o)
  | .vargmax o => some (formRed .argmax o)
  | .vscan o => some (formRed .scan o)
  | .vtopk o => some (formTopk o)
  | .vlse o => some (formRed .lse o)
  | .vzip o => some (formZip o)
  | .vunzip o => some (formUnzip o)
  | .vperm o => some (formG3 .perm o)
  | .vtrans o => some (formG2 .trans o)
  | .vbcast o => some (formG2 .bcast o)
  | .vcompact o => some (formCompact o)
  | .vexpand o => some (formG3 .expand o)
  | _ => none

end Sys2Proof.Machine
end

