-- ==== Sys2Proof/Machine/Trowel.lean ====
section
/-! DEFINITION. Shared passes (11 R322 to R326, 13 R356 to R376): tasks and their slots, the Trowel's pool and passes, epilogues, the scatter and
parked rows. -/

namespace Sys2Proof.Machine

/-! ### Shape classes, pool, slots -/

/-- The load of a weight identity that the beacon counts (19 R436, 22 R511). -/
def State.countWid (s : State) (i n : Nat) : State :=
  match s.wids.find? i with
  | none => s
  | some w => { s with wids := s.wids.set i { w with load := Nat.min (w.load + n) 0xFFFFFFFF } }

def shapeK (w : Word) : Nat := natBits w.toNat 24 8 + 1
def shapeN (w : Word) : Nat := natBits w.toNat 16 8 + 1
def shapeWfmt (w : Word) : Nat := natBits w.toNat 12 4
def shapeAfmt (w : Word) : Nat := natBits w.toNat 8 4
def shapeOfmt (w : Word) : Nat := natBits w.toNat 4 4

/-- The weights of a shape class as a tile configuration: K rows of N elements. -/
def shapeCfg (w : Word) : Word := BitVec.ofNat 64 ((shapeN w - 1) * 2 ^ 16 + (shapeK w - 1) * 2 ^ 8 + shapeWfmt w)

/-- Bytes of an activation row and of a destination row. -/
def shapeIn (w : Word) : Nat := shapeK w * fmtBytes (shapeAfmt w)
def shapeOut (w : Word) : Nat := shapeN w * fmtBytes (shapeOfmt w)

def State.trow (s : State) (core : Nat) : Trowel := (s.coreOf core).trowel

def State.modTrow (s : State) (core : Nat) (f : Trowel → Trowel) : State := s.modCore core (fun x => { x with trowel := f x.trowel })

def State.modEntry (s : State) (core e : Nat) (f : PoolEntry → PoolEntry) : State :=
  s.modTrow core (fun t =>
    match t.pool.find? e with
    | none => t
    | some p => { t with pool := t.pool.set e (f p) })

def State.setSlot (s : State) (k : Nat) (n : Fin 8) (x : TaskSlot) : State := s.modJob k (fun j => { j with slots := j.slots.set n x })

/-- The lowest-numbered free pool entry (13 R356). -/
def Trowel.freeEntry (t : Trowel) : Option Nat := (List.range 64).find? (fun e => (t.pool.find? e).isNone)

/-- The entry of a task of a pass; none once the task is gone. -/
def Trowel.entryOf (t : Trowel) (p : PassTask) : Option PoolEntry :=
  match t.pool.find? p.entry with
  | none => none
  | some e => if e.flight = p.flight then some e else none

/-- Merge domain and row limit of a partition (21 R486). -/
def State.mdomOf (s : State) (p : Nat) : Nat := s.partField p 3 1 % 16
def State.rowLimit (s : State) (p : Nat) : Nat := let n := s.partField p 36 2; if n = 0 then 2048 else n

/-! ### Epilogue tables (13 R367, 19 R446) -/

/-- The entry that a new epilogue replaces in a full table: the least recently named one that no pooled or running task names. -/
def Core.oldEpilogue (x : Core) : Option Epilogue :=
  (x.epilogues.filter (fun e => !(x.trowel.pool.vals.any (fun p => p.hash = e.hash && (p.state = 1 || p.state = 2))))).foldl
    (fun (o : Option Epilogue) e =>
      match o with
      | none => some e
      | some b => if e.named < b.named then some e else some b) none

/-- An epilogue entered; nothing where it is there already or no entry can be freed. -/
def Core.enterEpilogue (x : Core) (now : Nat) (l : EpiLoad) : Core :=
  if x.epilogues.any (fun e => e.hash = l.hash) then x
  else if x.epilogues.length < 64 then { x with epilogues := x.epilogues ++ [⟨l.hash, l.words, now⟩] }
  else
    match x.oldEpilogue with
    | none => x
    | some o => { x with epilogues := x.epilogues.filter (fun e => e.hash ≠ o.hash) ++ [⟨l.hash, l.words, now⟩] }

/-- What the loader has read by now is in the table. -/
def State.settleEpilogues (s : State) (core : Nat) : State :=
  if (s.coreOf core).loading.isEmpty then s
  else s.modCore core (fun x =>
    (x.loading.filter (fun l => decide (l.due ≤ s.now))).foldl (fun x l => x.enterEpilogue s.now l)
      { x with loading := x.loading.filter (fun l => decide (s.now < l.due)) })

/-- Whether an epilogue is being loaded for a job. -/
def Core.isLoading (x : Core) (job : Nat) (h : Word) : Bool := x.loading.any (fun l => l.hash = h && l.jobs.contains job)

/-- Notes that a task names an epilogue. -/
def State.nameEpilogue (s : State) (core : Nat) (h : Word) : State :=
  s.modCore core (fun x => { x with epilogues := x.epilogues.map (fun e => if e.hash = h then { e with named := s.now } else e) })

/-! ### `TASK`, `TASKWAIT`, `TASKST` (11 R322 to R325) -/

def paramRows (p : Word) : Nat := natBits p.toNat 48 8 + 1
def paramPat (p : Word) : Nat := natBits p.toNat 32 16
def paramShape (p : Word) : Nat := natBits p.toNat 24 8
def paramWid (p : Word) : Nat := natBits p.toNat 0 24

/-- Destination descriptor of row `i` of a list at a window offset. -/
def State.destDesc (s : State) (j : Job) (list i : Nat) : Word := BitVec.ofNat 64 (s.scrNat j (list + 8 * i) 8)

/-- The checks of `TASK`, in order (11 R324): the offsets of the activation rows and of the destination list. -/
def State.taskCheck (s : State) (o : OpTask) : Check (Nat × Nat) :=
  let p := s.sget o.p
  let shape := s.shapes.getD (paramShape p) 0
  let rows := paramRows p
  let w := fmtBytes (shapeAfmt shape)
  let code (n : Nat) : Check (Nat × Nat) := .error (.err { code := n })
  if natBits p.toNat 56 8 ≠ 0 || paramPat p = 0 then code 47
  else if !shape.getLsbD 0 then code 48
  else if ((s.wids.find? (paramWid p)).map (fun x => x.valid && decide (x.shape = paramShape p))).getD false = false then code 49
  else if !(s.core.epilogues.any (fun e => e.hash = o.hash)) then code 50
  else
    match s.scrOperand o.a 0 (rows * shapeIn shape) w with
    | .error b => .error b
    | .ok a =>
      match s.scrOperand o.b 0 (8 * rows) 8 with
      | .error b => .error b
      | .ok d =>
        if overlap a (rows * shapeIn shape) d (8 * rows) then code 47
        else if (List.range rows).any (fun i => natBits (s.destDesc s.job d i).toNat 40 19 ≠ 0) then code 47
        else .ok (a, d)

def taskUse (o : OpTask) : Use := { opc := 0x170, two := true, regs := [.s o.a, .s o.b, .s o.p], irrev := true }

/-- The task takes pool entry `e` (13 R356, R357). -/
def State.enterPool (s : State) (o : OpTask) (u : Use) (e a d : Nat) : State :=
  let j := s.job
  let p := s.sget o.p
  let k := s.nextId
  let x : PoolEntry := {
    state := 1, job := s.cur.job, vf := j.vf, part := j.part, ctx := j.ctx, cc := j.cc, slot := o.slot, mdom := s.mdomOf j.part
    jobNo := j.jobNo, flight := k, rows := paramRows p, shape := paramShape p, wid := paramWid p, hash := o.hash, addr := a, dests := d
    issue := s.now, deadline := s.now + paramPat p, fmode := 0, flags := 0, cause := 0, performed := 0, issued := 0 }
  (((((s.fly o.c u (.task o.slot e) []).nameEpilogue j.coreKey o.hash).setSlot s.cur.job o.slot ⟨1, 0, 0⟩).modTrow j.coreKey
    (fun t => { t with pool := t.pool.set e x })).post (paramPat p) .taskDeadline { a := j.coreKey, b := e }).ensure 1 .passForm
    { a := j.coreKey }

/-- `TASK`: the checks are made when it first passes its slot, and again when it takes its entry. It waits while its epilogue is being loaded
for its kernel (19 R446). -/
def taskBody (o : OpTask) (u : Use) (s0 : State) : Act :=
  let s := s0.settleEpilogues s0.job.coreKey
  let x := s.job.slots[o.slot]
  if 1 ≤ x.state.val && x.state.val ≤ 3 then .wait s
  else if s.core.isLoading s.cur.job o.hash then .wait s
  else
    match s.core.trowel.freeEntry with
    | none =>
      if s.st.checked then .wait s
      else (s.taskCheck o).andThen fun _ => .wait (s.modSt (fun t => { t with checked := true }))
    | some e =>
      (s.taskCheck o).andThen fun p => .fly ((s.enterPool o u e p.1 p.2).modSt (fun t => { t with checked := false }))

def execTask (o : OpTask) (s : State) : Result := command o.c (taskUse o) (taskBody o (taskUse o)) s

/-- The acquire of 03 R105: the read copies of the job's context at its core go, so that no later read finds bytes older than a task's rows. -/
def State.acquireRows (s : State) : State := s.dropCopies s.job.coreKey s.job.ctx

/-- `TASKWAIT` (11 R325). -/
def execTaskwait (o : OpSlot) (s : State) : Result :=
  command o.c { opc := 0x171 }
    (fun s =>
      let x := s.job.slots[o.slot]
      if 1 ≤ x.state.val && x.state.val ≤ 3 then .wait s else .done s.acquireRows 0) s

/-- `TASKST` (11 R325): a read of `DONE` or `FAULTED` is an acquire. -/
def execTaskst (o : OpTaskst) (s : State) : Result :=
  command o.c { opc := 0x172, regs := [.s o.d] }
    (fun s =>
      let x := s.job.slots[o.slot]
      .done ((if 4 ≤ x.state.val then s.acquireRows else s).sput o.d
        (BitVec.ofNat 64 (x.ok * 2 ^ 16 + x.parked % 256 * 2 ^ 8 + x.state.val))) 0) s

/-! ### Parking (13 R370 to R373) -/

/-- The parked rows of a core that stand in the park buffer. -/
def Trowel.parkUsed (t : Trowel) : Nat := (t.parked.filter (fun r => r.held == .buffer)).length

/-- Blocks that hold a parked row. -/
def Trowel.parkBlocks (t : Trowel) : List Nat :=
  (t.parked.filterMap (fun r =>
    match r.held with
    | .acs p => some (p / 64)
    | _ => none)).foldl NatSet.insert []

/-- Blocks that the Trowel keeps for parked rows and that hold none any more go back, fresh (02 R65). -/
def State.freeParked (s : State) (core : Nat) : State :=
  let x := s.coreOf core
  let mine := (List.range 32).filter (fun b =>
    match x.acsOwner.find? b with
    | some (.park _) => !x.trowel.parkBlocks.contains b
    | _ => false)
  (s.modCore core (fun x => mine.foldl (fun x b => { x.acsRefresh b with acsLast := x.acsLast.erase b }) x)).freeAcs core mine

/-- Parks a task with a cause (13 R371): its slot, its rows with their bytes, and the message to F3. `base` is the task's first stacked row
where the pass still holds its blocks. (DEDUCED, log 41) -/
def State.parkTask (s : State) (core : Nat) (t : PassTask) (cause : Nat) (no : BitVec 32) (bytes : List (List Byte))
    (blocks : List Nat) (base : Nat) : State :=
  match (s.trow core).entryOf t with
  | none => s
  | some e =>
    if e.state = 5 then s
    else
      let room := (s.trow core).parkUsed + t.rows ≤ 256
      let held (i : Nat) : ParkAt := if room then .buffer else if blocks.isEmpty then .epilogue else .acs (acsPhys blocks (base + i))
      let row (i : Nat) : ParkRow := ⟨t.entry, i, cause, no, s.destDesc (s.jobOf e.job) e.dests i, bytes.getD i [], held i⟩
      let s1 := (s.modEntry core t.entry (fun e => { e with state := 5, cause := cause })).modTrow core (fun x =>
        { x with parked := x.parked ++ (List.range t.rows).map row, parkedTasks := x.parkedTasks + 1 })
      let s2 := s1.setSlot e.job e.slot ⟨3, 0, t.rows⟩
      let s3 := if !room && blocks.isEmpty then s2.wantAcs core (.park t.entry) ((t.rows + 63) / 64) else s2
      s3.send ⟨0x0401, 1, 3, [core, t.entry, e.flight], none, none⟩ .msgTaskParked {}

/-- Blocks granted to the rows of a parked task. -/
def State.holdParked (s : State) (core e : Nat) (blocks : List Nat) : State :=
  s.modTrow core (fun t => { t with parked := t.parked.map (fun r =>
    if r.entry = e && r.held == .epilogue then { r with held := .acs (acsPhys blocks r.row) } else r) })

/-- An entry is freed with its parked rows. -/
def State.freeEntry (s : State) (core e : Nat) : State :=
  (((s.modTrow core (fun t => { t with pool := t.pool.erase e, parked := t.parked.filter (fun r => r.entry ≠ e) })).dropAcsWait core
    (.park e)).freeParked core |>.ensure 1 .passForm { a := core }).ensure 1 .scatterCheck { a := core }

/-- F3's decision on a parked task (13 R373, 20 R478): bit `cause` of `PARKPOLICY` makes it fatal. -/
def State.decideParked (s : State) (core e flight : Nat) : State :=
  match (s.trow core).pool.find? e with
  | none => s
  | some x =>
    if x.flight ≠ flight || x.state ≠ 5 then s
    else if (s.ctxOf x.ctx).parkpolicy.getLsbD x.cause then
      ((s.freeEntry core e).dropFlight x.flight).freezeFor x.job x.ctx 52
    else
      let s1 := (s.freeEntry core e).setSlot x.job x.slot ⟨5, 0, x.rows⟩
      (s1.modFlight x.flight (fun f => { f with flags := 0 })).finish x.flight 0

/-- The oldest parked-task message reaches F3. -/
def execMsgTaskParked (s : State) : Result :=
  .next (s.receiveMail (fun m => m.type = 0x0401) .msgTaskParked
    (fun s m => s.decideParked (m.payload.getD 0 0) (m.payload.getD 1 0) (m.payload.getD 2 0)))

/-! ### Forming a pass (13 R359 to R362) -/

/-- Pooled entries of a core. -/
def Trowel.pooled (t : Trowel) : List (Nat × PoolEntry) := List.filter (fun e : Nat × PoolEntry => e.2.state = 1) t.pool

/-- Whether two tasks match (13 R359). -/
def PoolEntry.matches (x y : PoolEntry) : Bool := x.hash = y.hash && x.wid = y.wid && x.shape = y.shape && x.mdom = y.mdom

/-- Order of 13 R361 among tasks: deadline, issue cycle, entry. -/
def taskBefore (a b : Nat × PoolEntry) : Bool :=
  decide (a.2.deadline < b.2.deadline) || (a.2.deadline = b.2.deadline &&
    (decide (a.2.issue < b.2.issue) || (a.2.issue = b.2.issue && decide (a.1 < b.1))))

def insertTask (l : List (Nat × PoolEntry)) (e : Nat × PoolEntry) : List (Nat × PoolEntry) :=
  match l with
  | [] => [e]
  | h :: t => if taskBefore e h then e :: h :: t else h :: insertTask t e

/-- The tasks that match an entry, in the order of 13 R361. -/
def Trowel.group (t : Trowel) (x : PoolEntry) : List (Nat × PoolEntry) :=
  (t.pooled.filter (fun e => e.2.matches x)).foldl insertTask []

def groupRows (g : List (Nat × PoolEntry)) : Nat := (g.map (fun e => e.2.rows)).sum

/-- The pass limit of a group (13 R360). -/
def State.passLimit (s : State) (core : Nat) (g : List (Nat × PoolEntry)) : Nat :=
  (g.map (fun e => s.rowLimit e.2.part)).foldl min (min 2048 (64 * (s.coreOf core).freeBlocks.length))

/-- Whether a group forms a pass in this cycle: a deadline reached, or rows at the limit (13 R360). -/
def State.passDue (s : State) (core : Nat) (g : List (Nat × PoolEntry)) : Bool :=
  g.any (fun e => decide (e.2.deadline ≤ s.now)) || (s.passLimit core g ≠ 0 && decide (s.passLimit core g ≤ groupRows g))

/-- Whether a group comes before another: the lower earliest deadline, then the lower lowest entry (13 R360). -/
def groupBefore (a b : List (Nat × PoolEntry)) : Bool :=
  let first (g : List (Nat × PoolEntry)) : Nat := (g.head?.map (fun e => e.2.deadline)).getD 0
  let low (g : List (Nat × PoolEntry)) : Nat := (g.map Prod.fst).foldl min 64
  decide (first a < first b) || (first a = first b && decide (low a < low b))

/-- The task that leads the pass to be formed: the first of the group that comes first among those due. -/
def State.passLead (s : State) (core : Nat) : Option (Nat × PoolEntry) :=
  let t := s.trow core
  (((t.pooled.map (fun e => t.group e.2)).filter (s.passDue core)).foldl (fun (o : Option (List (Nat × PoolEntry))) g =>
    match o with
    | none => some g
    | some b => if groupBefore g b then some g else some b) none).bind List.head?

/-- Tasks taken while their rows fit the limit; the first is always taken (13 R361). -/
def takeTasks (lim n : Nat) (l : List (Nat × PoolEntry)) : List (Nat × PoolEntry) :=
  match l with
  | [] => []
  | e :: r => if n = 0 || n + e.2.rows ≤ lim then e :: takeTasks lim (n + e.2.rows) r else takeTasks lim n r

/-- Rows of a pass. -/
def Pass.rows (p : Pass) : Nat := (p.tasks.map (·.rows)).sum

/-- The pass of these tasks takes the front position; in the next cycle it asks for its blocks (13 R362), and for its weights where the buffer does
not hold them (13 R363). -/
def State.formPass (s : State) (core : Nat) (ts : List (Nat × PoolEntry)) (x : PoolEntry) : State :=
  let t := s.trow core
  let have_ := (t.buffer.map Prod.fst) = some x.wid
  let p : Pass := {
    no := t.passNo, tasks := ts.map (fun e => ⟨e.1, e.2.rows, e.2.flight⟩), shape := s.shapes.getD x.shape 0, wid := x.wid, hash := x.hash
    blocks := [], weights := have_, loaded := false, paid := false, row := 0, written := 0, inputs := [], ran := false, copied := 0, chunks := 0
    outs := [], scattered := 0 }
  let s1 := ts.foldl (fun s e =>
    (s.modEntry core e.1 (fun y => { y with state := 2, fmode := (s.jobOf y.job).fmode })).setSlot e.2.job e.2.slot ⟨2, 0, 0⟩) s
  let s2 := s1.modTrow core (fun t => { t with front := some p, passNo := t.passNo + 1, passes := t.passes + 1 })
  let s3 := s2.sched 1 (.trowel core (.blocks p.no))
  if have_ then s3 else s3.later .weightBufferRead { a := core }

/-- A pass is formed while the front position is free (13 R360, R361, R376). -/
def execPassForm (s : State) : Result :=
  let core := s.args.a
  let t := s.trow core
  .next (if t.front.isSome then s
    else
      match s.passLead core with
      | none => s
      | some e =>
        let g := t.group e.2
        s.formPass core (takeTasks (s.passLimit core g) 0 g) e.2)

/-- A patience deadline (13 R360): the Trowel forms a pass now, or when its front position is free. -/
def execTaskDeadline (s : State) : Result :=
  let g := s.args
  .next (match (s.trow g.a).pool.find? g.b with
    | none => s
    | some e => if e.state = 1 && e.deadline ≤ s.now then s.ensure 0 .passForm { a := g.a } else s)

/-- The tasks of a pass with the stacked row at which each begins. -/
def startsFrom (n : Nat) (ts : List PassTask) : List (PassTask × Nat) :=
  match ts with
  | [] => []
  | t :: r => (t, n) :: startsFrom (n + t.rows) r

def Pass.starts (p : Pass) : List (PassTask × Nat) := startsFrom 0 p.tasks

/-- The task and row index of a stacked row. -/
def Pass.owner (p : Pass) (i : Nat) : Option (PassTask × Nat) :=
  (p.starts.find? (fun t => decide (t.2 ≤ i) && decide (i < t.2 + t.1.rows))).map (fun t => (t.1, i - t.2))

/-- The front pass ends without a run: its blocks and its request go back. -/
def State.dropFront (s : State) (core : Nat) : State :=
  match (s.trow core).front with
  | none => s
  | some p =>
    let keep := (s.trow core).parkBlocks
    let out := p.blocks.filter (fun b => !keep.contains b)
    let s1 := s.modCore core (fun x => out.foldl (fun x b => { x.acsRefresh b with acsLast := x.acsLast.erase b })
      { x with trowel := { x.trowel with front := none }
               acsOwner := x.acsOwner.map (fun (e : Nat × AcsWho) => (e.1, if e.2 == .pass then .park 0 else e.2)) })
    ((s1.freeAcs core out).dropAcsWait core .pass).ensure 1 .passForm { a := core }

/-- The read of a pass's weights into the buffer (13 R363); a poisoned byte parks every task of the pass, and the buffer then holds no
tensor. -/
def execWeightBufferRead (s : State) : Result :=
  let core := s.args.a
  .next (match (s.trow core).front with
    | none => s
    | some p =>
      match s.wids.find? p.wid with
      | none => s
      | some w =>
        let n := shapeK p.shape * shapeN p.shape * fmtBytes (shapeWfmt p.shape)
        if s.homeBad w.paddr n then
          (p.starts.foldl (fun s t => s.parkTask core t.1 7 p.no [] p.blocks t.2)
            (s.modTrow core (fun t => { t with buffer := none }))).dropFront core
        else
          (s.modTrow core (fun t => { t with buffer := some (p.wid, s.homeRead w.paddr n)
                                             front := t.front.map (fun q => { q with weights := true }) })).askArray core)

/-! ### The pass in the array (13 R364 to R366) -/

/-- The activation bytes of a stacked row, and their poison. -/
def State.passInput (s : State) (core : Nat) (p : Pass) (i : Nat) : List Byte × Bool :=
  let n := shapeIn p.shape
  match p.owner i with
  | none => (List.replicate n 0, false)
  | some (t, r) =>
    match (s.trow core).entryOf t with
    | none => (List.replicate n 0, false)
    | some e =>
      let j := s.jobOf e.job
      (s.scrRead j (e.addr + r * n) n, s.scrBad j (e.addr + r * n) n)

/-- Toggle estimate of a pass's weights and of its rows. -/
def Trowel.weightEstimate (t : Trowel) (p : Pass) : Nat :=
  let n := rowBytes (shapeCfg p.shape)
  let b := (t.buffer.map Prod.snd).getD []
  toggleEstimate ((List.range (min 8 (shapeK p.shape))).map (fun k => (b.drop (k * n)).take n))

def State.passEstimate (s : State) (core : Nat) (p : Pass) : Nat :=
  toggleEstimate ((List.range (min 8 p.rows)).map (fun i => (s.passInput core p i).1))

/-- The rate at which a pass's rows enter. -/
def passRate (w : Word) : Nat := ((macPath (shapeWfmt w) (shapeAfmt w)).map MacPath.rate).getD 1

def State.modFront (s : State) (core : Nat) (f : Pass → Pass) : State := s.modTrow core (fun t => { t with front := t.front.map f })

/-- The rows of a pass from row `i`, entering from cycle `t`. -/
def passRowsFrom (load rate t n : Nat) : List ArrRow :=
  (List.range n).map (fun i => ⟨t + i * rate, t + i * rate + 12, load, .passRow i⟩)

/-- A boundary of the pass's term: its weights are loaded, then its rows enter, each part once the budget allows; the term ends when the last row
has entered. -/
def execPassArrayTerm (s : State) : Result :=
  let core := s.args.a
  let x := (s.coreOf core).array
  .next (match x.holder, (s.trow core).front with
    | some .trowel, some p =>
      if s.now < x.free then s.ensure (x.free - s.now) .passArrayTerm { a := core }
      else if !p.loaded then
        match s.pay core (shapeK p.shape * (s.trow core).weightEstimate p) false with
        | none => s
        | some s1 =>
          ((s1.beginLoad core s.now (shapeK p.shape) none ⟨0, shapeCfg p.shape⟩ .passLoad).modFront core
            (fun p => { p with loaded := true })).ensure (shapeK p.shape) .passArrayTerm { a := core }
      else if !p.paid then
        match s.pay core (p.rows * s.passEstimate core p) false with
        | none => s
        | some s1 =>
          let r := passRate p.shape
          let s2 := (s1.enterRows core (passRowsFrom (x.cur.getD 0) r s.now p.rows)).sched 0 (.trowel core (.entry p.no 0))
          ((s2.modArray core (fun x => { x with free := s.now + p.rows * r, busy := x.busy + p.rows * r })).modFront core
            (fun p => { p with paid := true, row := p.rows })).ensure (p.rows * r) .passArrayTerm { a := core }
      else (s.modFront core (fun p => { p with ran := true })).endTerm core
    | some .trowel, none => s.endTerm core
    | _, _ => s)

/-- Row `i` of the front pass enters the array: its activations are read from its owner's window now (13 R364). -/
def State.passEntry (s : State) (core : Nat) (no : BitVec 32) (i : Nat) : State :=
  match (s.trow core).front with
  | none => s
  | some p =>
    if p.no ≠ no || p.rows ≤ i then s
    else
      (s.modFront core (fun q => { q with inputs := q.inputs.set i (s.passInput core p i) })).sched (passRate p.shape)
        (.trowel core (.entry no (i + 1)))

/-- The front pass asks for its blocks. -/
def State.passBlocks (s : State) (core : Nat) (no : BitVec 32) : State :=
  match (s.trow core).front with
  | none => s
  | some p => if p.no ≠ no || !p.blocks.isEmpty then s else s.wantAcs core .pass ((p.rows + 63) / 64)

/-- A stacked row takes effect: under its owner's `FMODE` for the activations and none for the weights; a poisoned row enters as zero and parks its
task (13 R365, R366). -/
def State.passRow (s : State) (core load i : Nat) : State :=
  match (s.trow core).front, (s.coreOf core).array.loads.find? load with
  | some p, some l =>
    let next (s : State) : State :=
      (s.modFront core (fun p => { p with written := p.written + 1, inputs := p.inputs.erase i })).ensure 1 .epilogueChunk { a := core }
    match p.owner i, macPath (shapeWfmt p.shape) (shapeAfmt p.shape) with
    | some (t, _), some m =>
      let e := (s.trow core).entryOf t
      let v := p.inputs.getD i (List.replicate (shapeIn p.shape) 0, false)
      let row := if v.2 then List.replicate v.1.length 0 else v.1
      let mode : Fmode := (e.map (·.fmode)).getD 0
      let r := macRow m l.w.cfg l.bytes (shapeAfmt p.shape) 0 mode (List.replicate (shapeN p.shape) 0) row
      let s1 := (s.countWid p.wid 1).modCore core (fun x => x.acsUpdate (acsPhys p.blocks i) r.1 l.bad true)
      let s2 := s1.modEntry core t.entry (fun e => if e.flight = t.flight then { e with flags := e.flags ||| r.2 } else e)
      let base := i - ((p.owner i).map Prod.snd).getD 0
      next (if v.2 || !l.bad.isEmpty then s2.parkTask core t 5 p.no [] p.blocks base else s2)
    | _, _ => next s
  | _, _ => s

/-! ### Epilogues (13 R367 to R369) -/

/-- The chunk row of an offset in the epilogue buffer: one below 0x3_0000 from the start or from 0x4_0000. -/
def bufRow (o : Nat) : Option Nat :=
  if o < 0x30000 then some (o / 768)
  else if 0x40000 ≤ o && o < 0x70000 then some ((o - 0x40000) / 768)
  else none

/-- The owner of an offset; none acts for the whole chunk (13 R369), as does a row that the chunk does not have. -/
def Pass.bufOwner (p : Pass) (c : Chunk) (o : Nat) : Option PassTask :=
  match bufRow o with
  | none => none
  | some r => if r < c.rows then (p.owner (c.first + r)).map Prod.fst else none

/-- `FMODE` of an element by its offset. -/
def bufMode (t : Trowel) (p : Pass) (c : Chunk) (o : Nat) : Fmode :=
  (((p.bufOwner c o).bind t.entryOf).map (·.fmode)).getD 0

/-- Tasks with a row in a chunk. -/
def Pass.chunkTasks (p : Pass) (c : Chunk) : List PassTask :=
  (p.starts.filter (fun t => decide (t.2 < c.first + c.rows) && decide (c.first < t.2 + t.1.rows))).map Prod.fst

/-- The epilogue buffer as a place of vector work: elements are computed under the `FMODE` of their row's owner. -/
def Chunk.env (c : Chunk) (mode : Nat → Fmode) : VecEnv := ⟨c.buf, 0, 524288, mode⟩

/-- A source of an epilogue command; s0 is the only s register that it can name (13 R367). -/
def Chunk.vin (c : Chunk) (x : VArg) : VIn :=
  match x with
  | .gen g => .gen c.g[g]
  | .scalar _ f => .lit 0 f

/-- The next command of an epilogue with the words after it; an `EXT` gives its value to the command after it (06 R180). None where there is
no command. -/
def epiNext (ws : List (BitVec 96)) (ext : Option Word) : Option (Instr × List (BitVec 96)) :=
  match ws with
  | [] => none
  | w :: r =>
    match decodeCommand .v ext w.toNat none with
    | .ok (.ext v) => epiNext r (some v)
    | .ok i => some (i, r)
    | .error _ =>
      match r with
      | [] => none
      | w2 :: r2 =>
        match decodeCommand .v ext w.toNat (some w2.toNat) with
        | .ok i => some (i, r2)
        | .error _ => none

/-- What an epilogue command does: its effect on the chunk, with its flags and the poisoned elements it reads, both by offset. -/
structure EpiOut where
  chunk : Chunk
  flags : List (Nat × Flags)
  bad : List Nat

/-- One epilogue command; none for a context error (13 R369). -/
def epiStep (mode : Nat → Fmode) (c : Chunk) (i : Instr) : Option EpiOut :=
  let set (o : OpG) (r : Option GenWord) : Option EpiOut := r.map (fun v => ⟨{ c with g := c.g.set o.g v }, [], []⟩)
  match i with
  | .nop _ => some ⟨c, [], []⟩
  | .gbase o => set o (genField 0 24 o.imm.toNat c.g[o.g])
  | .gcount o => set o (genField 64 16 o.imm.toNat c.g[o.g])
  | .gcountRow o => set o (genField 80 16 o.imm.toNat c.g[o.g])
  | .gstride o => set o (genStride o.imm c.g[o.g])
  | .gfmt o => set o (genFormat o.imm c.g[o.g])
  | .gcfgMov o => some ⟨{ c with g := c.g.set o.g c.g[o.a] }, [], []⟩
  | _ =>
    match vecFormOf i with
    | none => none
    | some f =>
      match (c.env mode).run f.kind (f.dests.map (fun d => c.g[d])) (f.srcs.map c.vin) with
      | .error _ => none
      | .ok r => some ⟨{ c with buf := Store.writeAll c.buf 0 r.writes }, r.flags, r.bad⟩

/-- Steps of an epilogue command at the vector unit (10 R287): none for one that makes no walk or that its checks stop. -/
def epiSteps (mode : Nat → Fmode) (c : Chunk) (i : Instr) : Nat :=
  match vecFormOf i with
  | none => 0
  | some f =>
    let ds := f.dests.map (fun d => c.g[d])
    let xs := f.srcs.map c.vin
    if vecEmpty ds || ((c.env mode).check f.kind ds xs).isSome then 0 else vecSteps f.kind ds xs

/-- A generator over the rows of a chunk (13 R368). -/
def chunkGen (base fmt rows n : Nat) : GenWord :=
  BitVec.ofNat 128 (base + 768 * 2 ^ 32 + rows * n * 2 ^ 64 + n * 2 ^ 80 + fmt * 2 ^ 100)

/-- Chunk `k` of a pass: its first stacked row, and its rows. -/
def Pass.chunkFirst (k : Nat) : Nat := 256 * k
def Pass.chunkRows (p : Pass) (k : Nat) : Nat := min 256 (p.rows - 256 * k)

/-- The epilogue buffer and generators at the start of a chunk (13 R368). -/
def Core.chunkStart (x : Core) (p : Pass) (k : Nat) : Chunk :=
  let n := shapeN p.shape
  let rows := p.chunkRows k
  let phys (r : Nat) : Nat := acsPhys p.blocks (Pass.chunkFirst k + r)
  let put (b : Store) (r : Nat) : Store :=
    Store.putAll granule b (r * 768) (((x.acsRead (phys r) 0 n).map (fun w => bytesOf 4 w.toNat)).flatten)
  let marks := ((List.range rows).map (fun r =>
    ((List.range n).filter (fun j => x.acsBad (phys r) j 1)).map (fun j => (r * 768 + j * 4) / granule))).flatten
  let b := (List.range rows).foldl put Store.empty
  let fmt := if macPath (shapeWfmt p.shape) (shapeAfmt p.shape) = some .int then 8 else 7
  { pass := p.no, first := Pass.chunkFirst k, rows := rows
    words := ((x.epilogues.find? (fun e => e.hash = p.hash)).map (·.words)).getD []
    buf := { b with poison := marks.foldl NatSet.insert [] }
    g := ((Vector.replicate 16 0).set 0 (chunkGen 0 fmt rows n)).set 1 (chunkGen 0x40000 (shapeOfmt p.shape) rows n) }

/-- Flags of an element go to its row's owner, or to every owner of the chunk. -/
def State.epiFlags (s : State) (core : Nat) (p : Pass) (c : Chunk) (f : Nat × Flags) : State :=
  let ts := match p.bufOwner c f.1 with
    | some t => [t]
    | none => p.chunkTasks c
  ts.foldl (fun s t => s.modEntry core t.entry (fun e => if e.flight = t.flight then { e with flags := e.flags ||| f.2 } else e)) s

/-- Parks tasks of a pass, with the destination rows known so far. -/
def State.parkAll (s : State) (core : Nat) (p : Pass) (ts : List PassTask) (cause : Nat) : State :=
  ts.foldl (fun s t =>
    match p.starts.find? (fun x => x.1 = t) with
    | none => s
    | some x => s.parkTask core t cause p.no ((p.outs.drop x.2).take t.rows) p.blocks x.2) s

/-- A pass by its number. -/
def Trowel.passOf (t : Trowel) (no : BitVec 32) : Option Pass := (t.front.toList ++ t.back.toList).find? (fun p => p.no = no)

/-- Changes a pass. -/
def State.modPass (s : State) (core : Nat) (no : BitVec 32) (f : Pass → Pass) : State :=
  let g (p : Pass) : Pass := if p.no = no then f p else p
  s.modTrow core (fun t => { t with front := t.front.map g, back := t.back.map g })

/-- The tasks of a pass whose last row lies among the first `n` go from one state to another (13 R375). -/
def State.moveTasks (s : State) (core : Nat) (p : Pass) (n : Nat) (old new : Fin 6) : State :=
  (p.starts.filter (fun t => decide (t.2 + t.1.rows ≤ n))).foldl (fun s t =>
    s.modEntry core t.1.entry (fun e => if e.flight = t.1.flight && e.state = old then { e with state := new } else e)) s

/-- The blocks of a pass go back, fresh; those with parked rows stay with the Trowel (13 R368, R372). -/
def State.releasePass (s : State) (core : Nat) (p : Pass) : State :=
  let keep := (s.trow core).parkBlocks
  let out := p.blocks.filter (fun b => !keep.contains b)
  let s1 := s.modCore core (fun x => p.blocks.foldl (fun x b =>
    if keep.contains b then { x with acsOwner := x.acsOwner.set b (.park 0) }
    else { x.acsRefresh b with acsLast := x.acsLast.erase b }) x)
  s1.freeAcs core out

/-- The next chunk of the front pass is copied into its epilogue buffer once its rows are written (13 R368); its epilogue starts when that of
the chunk before it has ended. The last copy takes the pass to the back position (R376), for which that must be free. -/
def State.copyChunk (s : State) (core : Nat) (p : Pass) : State :=
  let t := s.trow core
  let stop := Pass.chunkFirst p.copied + p.chunkRows p.copied
  let last := p.rows ≤ stop
  if p.rows ≤ Pass.chunkFirst p.copied || p.written < stop || (last && (!p.ran || t.back.isSome)) then s
  else
    let q := { p with copied := p.copied + 1 }
    let s1 := s.modTrow core (fun t => { t with chunks := t.chunks ++ [(s.coreOf core).chunkStart p p.copied] })
    let s2 := State.moveTasks (if t.chunks.isEmpty then s1.sched 0 (.trowel core .next) else s1) core p stop 2 3
    if last then
      ((s2.releasePass core p).modTrow core (fun t => { t with front := none, back := some { q with blocks := [] } })).ensure 1 .passForm
        { a := core }
    else (s2.modFront core (fun _ => q)).ensure 1 .epilogueChunk { a := core }

def execEpilogueChunk (s : State) : Result :=
  .next (match (s.trow s.args.a).front with
    | none => s
    | some p => s.copyChunk s.args.a p)

/-- The back position has become free: a pass whose term has ended moves to it with the copy of its last chunk. -/
def execPassBackPosition (s : State) : Result :=
  .next (match (s.trow s.args.a).front with
    | none => s
    | some p => if (s.trow s.args.a).back.isNone then s.copyChunk s.args.a p else s)

/-- A chunk is done: its destination rows are taken as they stand, none where its epilogue failed; the next chunk starts, and the scatter
looks at its tasks (13 R368, R370). -/
def State.chunkDone (s : State) (core : Nat) (c : Chunk) (rows : List (List Byte)) : State :=
  let s1 := s.modPass core c.pass (fun p => { p with chunks := p.chunks + 1, outs := p.outs ++ rows })
  let s2 := match (s1.trow core).passOf c.pass with
    | none => s1
    | some p => s1.moveTasks core p (c.first + c.rows) 3 4
  let s3 := (s2.modTrow core (fun t => { t with chunks := t.chunks.tail })).ensure 0 .scatterCheck { a := core }
  if (s3.trow core).chunks.isEmpty then s3 else s3.sched 0 (.trowel core .next)

/-- Destination rows of a chunk (13 R368). -/
def Chunk.outRows (c : Chunk) (p : Pass) : List (List Byte) :=
  (List.range c.rows).map (fun r => Store.read granule c.buf (0x40000 + r * 768) (shapeOut p.shape))

/-- A context error ends a chunk: it writes nothing, and its tasks park (13 R369). -/
def State.chunkFails (s : State) (core : Nat) (c : Chunk) (p : Pass) : State :=
  (s.parkAll core p (p.chunkTasks c) 6).chunkDone core c (List.replicate c.rows (List.replicate (shapeOut p.shape) 0))

/-- The chunk at hand comes to its next command: 6 cycles and its steps at the vector unit, where it takes turns as the fifth requester (13 R369).
(DEDUCED, log 41) -/
def State.epiBegin (s : State) (core : Nat) : State :=
  let t := s.trow core
  match t.chunks with
  | [] => s
  | c :: _ =>
    match t.passOf c.pass with
    | none => s.chunkDone core c []
    | some p =>
      if c.words.isEmpty then s.chunkDone core c (c.outRows p)
      else
        match epiNext c.words none with
        | none => s.chunkFails core c p
        | some (i, _) =>
          let n := epiSteps (bufMode t p c) c i
          if n = 0 then s.sched 5 (.trowel core .command) else s.joinVector core ⟨none, 4, n, false⟩

/-- The end of an epilogue command: its effect, its flags and the tasks it parks. -/
def State.epiEnd (s : State) (core : Nat) : State :=
  let t := s.trow core
  match t.chunks with
  | [] => s
  | c :: _ =>
    match t.passOf c.pass, epiNext c.words none with
    | some p, some (i, ws) =>
      match epiStep (bufMode t p c) c i with
      | none => s.chunkFails core c p
      | some e =>
        let s1 := e.flags.foldl (fun (s : State) f => s.epiFlags core p c f)
          (s.modTrow core (fun t => { t with chunks := { e.chunk with words := ws } :: t.chunks.tail }))
        (e.bad.foldl (fun (s : State) o => s.parkAll core p
          (match p.bufOwner c o with
           | some t => [t]
           | none => p.chunkTasks c) 5) s1).sched 1 (.trowel core .next)
    | _, _ => s.sched 1 (.trowel core .next)

/-- A step of a Trowel. -/
def State.trowelStep (s : State) (core : Nat) (x : TrowelAct) : State :=
  match x with
  | .blocks no => s.passBlocks core no
  | .entry no i => s.passEntry core no i
  | .next => s.epiBegin core
  | .command => s.epiEnd core

/-! ### The scatter (13 R370) -/

/-- Handle number and offset of a destination descriptor (11 R323). -/
def descHandle (d : Word) : Nat := natBits d.toNat 59 5
def descOffset (d : Word) : Nat := natBits d.toNat 0 40

/-- The failure cause of a descriptor; 0 where it passes. -/
def Job.descCause (j : Job) (d : Word) (n w : Nat) : Nat :=
  let h := j.handles.toList.getD (descHandle d) Handle.none
  if !h.valid then 1
  else if pageBytes h.size.toNat < descOffset d + n then 2
  else if !h.wr then 3
  else if descOffset d % w ≠ 0 then 4
  else 0

/-- The writes of one destination row through the owner's handle. -/
def State.rowWrites (s : State) (e : PoolEntry) (j : Job) (i : Nat) (bytes : List Byte) : State :=
  let d := s.destDesc j e.dests i
  let h := j.handles.toList.getD (descHandle d) Handle.none
  let pa := h.pbase.toNat + descOffset d
  (splitBytes (linesOf pa bytes.length) bytes).foldl (fun s l =>
    s.request e.flight i j ⟨e.job, .m⟩ (.write l.2) h.pkind (h.home l.1) l.1 l.2.length none false 6) s

/-- The pass whose tasks the scatter works on: that of the back position before that of the front. -/
def Trowel.scattering (t : Trowel) : Option Pass := (t.back.toList ++ t.front.toList).find? (fun p => decide (p.scattered < p.tasks.length))

/-- The back position is free once the last row of the pass's last task is issued or parked and no parked row is left in the epilogue buffer (13 R372, R376). -/
def State.freeBack (s : State) (core : Nat) : State :=
  let t := s.trow core
  match t.back with
  | none => s
  | some p =>
    if p.scattered < p.tasks.length || 256 * p.chunks < p.rows || t.parked.any (fun r => r.pass = p.no && r.held == .epilogue) then s
    else (s.modTrow core (fun t => { t with back := none })).ensure 1 .passBackPosition { a := core }

/-- The first failure cause among the descriptors of a task; 0 where all pass. -/
def State.taskCause (s : State) (e : PoolEntry) (j : Job) (shape : Word) : Nat :=
  (((List.range e.rows).map (fun i => j.descCause (s.destDesc j e.dests i) (shapeOut shape) (fmtBytes (shapeOfmt shape)))).find?
    (fun c => c ≠ 0)).getD 0

/-- The scatter's next cycle on a pass is `d` cycles on; the task at hand is through. -/
def State.scatterOn (s : State) (core : Nat) (no : BitVec 32) (through : Bool) (d : Nat) : State :=
  ((((if through then s.modPass core no (fun p => { p with scattered := p.scattered + 1 }) else s).modTrow core
    (fun t => { t with scatterAt := s.now + d })).ensure d .scatterCheck { a := core })).freeBack core

/-- One cycle of the scatter: a task that has parked is passed over; one whose last chunk is done has all its descriptors checked in the cycle in which its
first row issues, and then issues a row per cycle, or parks (13 R370). (DEDUCED, log 42) -/
def State.scatterNext (s : State) (core : Nat) (p : Pass) : State :=
  let t := s.trow core
  if s.now < t.scatterAt then s.ensure (t.scatterAt - s.now) .scatterCheck { a := core }
  else
    match p.starts[p.scattered]? with
    | none => s
    | some (k, base) =>
      match t.entryOf k with
      | none => s.scatterOn core p.no true 0
      | some e =>
        if e.state = 5 then s.scatterOn core p.no true 0
        else if e.state ≠ 4 then s
        else
          let j := s.jobOf e.job
          let rows := (p.outs.drop base).take k.rows
          let cause := if e.issued = 0 then s.taskCause e j p.shape else 0
          if cause ≠ 0 then (s.parkTask core k cause p.no rows p.blocks base).scatterOn core p.no true 1
          else
            ((s.rowWrites e j e.issued (rows.getD e.issued [])).modEntry core k.entry (fun e => { e with issued := e.issued + 1 })).scatterOn
              core p.no (decide (k.rows ≤ e.issued + 1)) 1

def execScatterCheck (s : State) : Result :=
  .next (match (s.trow s.args.a).scattering with
    | none => s.freeBack s.args.a
    | some p => s.scatterNext s.args.a p)

/-- The last row of a task has been performed at its home: the slot is `DONE`, the flags are set and the signal fires (11 R324, 13 R366). -/
def execTaskRowPerformed (s : State) : Result :=
  let g := s.args
  .next (match (s.trow g.a).pool.find? g.b with
    | none => s
    | some e =>
      if e.state ≠ 4 || e.issued ≠ e.rows || s.accesses.any (fun a => a.2.flight = e.flight) then s
      else ((s.freeEntry g.a g.b).setSlot e.job e.slot ⟨4, e.rows, 0⟩).finish e.flight e.flags)

end Sys2Proof.Machine
end

