-- ==== Sys2Proof/Machine/Matrix.lean ====
section
/-! DEFINITION. Matrix commands (11 R302 to R321): leases, tiles, the accumulator store, array commands, and the array's events. -/

namespace Sys2Proof.Machine

/-! ### Leases and allotments (11 R306, 02 R63 to R67) -/

/-- `LEASE`: it waits for the allotment where none is held. -/
def leaseBody (o : OpLease) (s : State) : Act :=
  let j := s.job
  let n := o.blocks.toNat
  if j.acsHeld then
    if j.acs.length ≠ n then Act.code 6
    else .done ((s.modJob s.cur.job (fun j => { j with lease := true })).askArray j.coreKey) 0
  else .wait (s.wantAcs j.coreKey (.job s.cur.job) n)

def execLease (o : OpLease) (s : State) : Result := command o.c { opc := 0x160 } (leaseBody o) s

/-- `UNLEASE` waits for the job's array commands. -/
def unleaseBody (acs : Bool) (s : State) : Act :=
  if s.arrayPending s.cur.job then .busy s
  else
    let s1 := s.releaseLease s.cur.job
    .done (if acs then s1.releaseAcs s.cur.job else s1) 0

def execUnlease (o : Op0) (s : State) : Result := command o.c { opc := 0x161 } (unleaseBody false) s

def execUnleaseAcs (o : Op0) (s : State) : Result := command o.c { opc := 0x161 } (unleaseBody true) s

/-- Blocks granted to a requester. -/
def State.giveAcs (s : State) (core : Nat) (who : AcsWho) (bs : List Nat) : State :=
  let ctx := match who with
    | .job k => some (s.jobOf k).ctx
    | _ => none
  let s1 := (s.modCore core (fun x => x.takeBlocks who ctx bs)).lookPass core
  match who with
  | .job k => s1.modJob k (fun j => { j with acs := bs, acsHeld := true })
  | .pass => (s1.modFront core (fun p => { p with blocks := bs })).askArray core
  | .park e => (s1.holdParked core e bs).ensure 1 .scatterCheck { a := core }

/-- A speculative job of a core that holds blocks. -/
def State.specBlocks (s : State) (core : Nat) : Option Nat :=
  (List.find? (fun e : Nat × Job => e.2.spec.isSome && e.2.coreKey = core && !e.2.acs.isEmpty) s.jobs).map (·.1)

/-- The first request is granted whole once enough blocks are free; where a real one waits for blocks of a speculative job, its launch
is discarded (02 R67). -/
def execAcsAllotmentGrant (s : State) : Result :=
  let core := s.args.a
  .next (match s.acsHead core with
    | none => s
    | some (who, n) =>
      let bs := (s.coreOf core).freeBlocks
      if n ≤ bs.length then
        ((s.dropAcsWait core who).giveAcs core who (bs.take n)).ensure 1 .acsAllotmentGrant { a := core }
      else if s.waitSpec (who, n) then s
      else
        match s.specBlocks core with
        | none => s
        | some k => s.discardJob k ucDisplaced)

/-! ### Tile commands (11 R314) -/

/-- The checks of a tile command on its rows. -/
def State.tileSpan (s : State) (t : Nat) (row n : Nat) : Check Word :=
  match s.chkTile t with
  | .error b => .error b
  | .ok _ => let w := s.job.tcfgOf t; if tcfgRows w < row + n then .error (.err { code := 45 }) else .ok w

/-- Scratch offsets of the rows of a `TLD` or `TST`; every row is checked before any byte moves. -/
def State.strideRows (s : State) (a : SReg) (st len w : Nat) (is : List Nat) : Check (List Nat) :=
  match is with
  | [] => .ok []
  | i :: r =>
    match s.scrOperand a (BitVec.ofNat 64 (i * st)) len w with
    | .error b => .error b
    | .ok x =>
      match State.strideRows s a st len w r with
      | .error b => .error b
      | .ok xs => .ok (x :: xs)

def tldUse (opc : Nat) (o : OpTld) : Use := { opc := opc, regs := [.s o.a, .s o.st] }

/-- Latency of a tile command (17 R405). -/
def tldLat (n len : Nat) : Nat := 3 + (n * len + 255) / 256

/-- The row length and stride of a `TLD` or `TST`. -/
def tldStride (len : Nat) (st : Word) : Nat := if st = 0 then len else st.toNat

/-- Scratch address and tile address of each row of a `TLD` or `TST`. -/
def State.tileRowsAt (s : State) (o : OpTld) (xs : List Nat) (len : Nat) : List (Nat × Nat) :=
  xs.zipIdx.map (fun p => (s.job.scrAddr p.1, s.job.tileAddr o.t + (o.row.toNat + p.2) * len))

/-- `TLD`: its rows are checked for poison at issue, and again as they are read. -/
def tldBody (o : OpTld) (s : State) : Act :=
  let n := o.n.toNat + 1
  if s.weightsHeld o.t then .wait s
  else (s.tileSpan o.t o.row.toNat n).andThen fun cfg =>
    let len := rowBytes cfg
    (s.strideRows o.a (tldStride len (s.sget o.st)) len (fmtBytes (tcfgFmt cfg)) (List.range n)).andThen fun xs =>
      if xs.any (fun x => s.scrBad s.job x len) then Act.code 11
      else .data (s.voidWeights o.t) (.tileLoad (tcfgFmt cfg) len (s.tileRowsAt o xs len)) (.after (tldLat n len)) [o.t.toNat] none

def execTld (o : OpTld) (s : State) : Result := command o.c (tldUse 0x162 o) (tldBody o) s

/-- `TST`: rows in ascending order, so that the last of two that overlap stands. -/
def tstBody (o : OpTld) (s : State) : Act :=
  let n := o.n.toNat + 1
  (s.tileSpan o.t o.row.toNat n).andThen fun cfg =>
    let len := rowBytes cfg
    (s.strideRows o.a (tldStride len (s.sget o.st)) len (fmtBytes (tcfgFmt cfg)) (List.range n)).andThen fun xs =>
      .data s (.tileStore len (s.tileRowsAt o xs len)) (.after (tldLat n len)) [o.t.toNat] none

def execTst (o : OpTld) (s : State) : Result := command o.c (tldUse 0x163 o) (tstBody o) s

/-- `TZERO`. -/
def tzeroBody (o : OpTzero) (s : State) : Act :=
  let n := o.n.toNat + 1
  if s.weightsHeld o.t then .wait s
  else (s.tileSpan o.t o.row.toNat n).andThen fun cfg =>
    let len := rowBytes cfg
    .data (s.voidWeights o.t) (.tileZero (s.job.tileAddr o.t + o.row.toNat * len) (n * len)) (.after (tldLat n len)) [o.t.toNat] none

def execTzero (o : OpTzero) (s : State) : Result := command o.c { opc := 0x164 } (tzeroBody o) s

/-! ### The accumulator store -/

/-- Whether rows lie in the job's allotment. -/
def Job.acsIn (j : Job) (row n : Nat) : Bool := j.acsHeld && row + n ≤ j.acsRows

/-- `ACSZERO` (11 R315). -/
def acszeroBody (o : OpAcsz) (s : State) : Act :=
  let n := o.n.toNat + 1
  let j := s.job
  if !j.acsIn o.row.toNat n then Act.code 7
  else .data s (.acsZero (j.acsFirst o.row.toNat n 0)) (.after (1 + (n + 3) / 4)) [] none

def execAcszero (o : OpAcsz) (s : State) : Result := command o.c { opc := 0x168 } (acszeroBody o) s

/-! ### Array commands (11 R316 to R321) -/

/-- An array command that has passed its checks enters the job's array queue; `w` are then the job's stationary weights. -/
def State.queueCmd (s : State) (c : Ctl) (u : Use) (kind : ArrKind) (t : Nat) (set : Bool) (parts : List ArrPart) (w : Weights) : State :=
  let j := s.job
  let cmd : ArrCmd := ⟨s.nextId, kind, t, j.tcfgOf t, set, j.fmode, parts, false, false, false, 0, false⟩
  ((s.fly c u .array [] (t :: parts.map (fun p => p.weights.tile))).modJob s.cur.job
    (fun j => { j with arrayQ := j.arrayQ ++ [cmd], weights := some w })).askArray j.coreKey

/-- An array command waits while the queue of 4 is full, and needs an active lease. -/
def withLease (s : State) (f : Act) : Act :=
  if 4 ≤ s.job.arrayQ.length then .wait s else if !s.job.lease then Act.code 43 else f

/-- The checks of a weight tile (11 R316). -/
def State.weightTile (s : State) (t : Nat) : Check Weights :=
  match s.chkTile t with
  | .error b => .error b
  | .ok _ =>
    let w := s.job.tcfgOf t
    if 6 < tcfgFmt w then .error (.err { code := 27 })
    else if 192 < tcfgCols w then .error (.err { code := 45 })
    else .ok ⟨t, w⟩

/-- The checks of activation rows against weights (11 R317). -/
def State.rowCheck (s : State) (t : Nat) (w : Weights) (first n row : Nat) : Check Nat :=
  let a := s.job.tcfgOf t
  if (macPath (tcfgFmt w.cfg) (tcfgFmt a)).isNone then .error (.err { code := 27 })
  else if tcfgCols a ≠ tcfgRows w.cfg || tcfgRows a < first + n then .error (.err { code := 45 })
  else if !s.job.acsIn row n then .error (.err { code := 7 })
  else .ok row

/-- `MLOADW`. -/
def mloadwBody (o : OpT) (u : Use) (s : State) : Act :=
  withLease s ((s.weightTile o.t).andThen fun w => .fly (s.queueCmd o.c u .load o.t false [⟨w, 0, 0, 0⟩] w))

def execMloadw (o : OpT) (s : State) : Result := command o.c { opc := 0x165 } (mloadwBody o { opc := 0x165 }) s

/-- `MROWS`. -/
def mrowsBody (o : OpMrows) (u : Use) (s : State) : Act :=
  let n := o.n.toNat + 1
  let first := (s.sget o.a).toNat
  withLease s ((s.chkTile o.t).andThen fun _ =>
    match s.job.weights with
    | none => Act.code 44
    | some w =>
      (s.rowCheck o.t w first n o.row.toNat).andThen fun r =>
        .fly (s.queueCmd o.c u .rows o.t o.set [⟨w, first, n, r⟩] w))

def mrowsUse (o : OpMrows) : Use := { opc := 0x166, regs := [.s o.a] }

def execMrows (o : OpMrows) (s : State) : Result := command o.c (mrowsUse o) (mrowsBody o (mrowsUse o)) s

/-- `MMA`: both parts' checks are made at issue. -/
def mmaBody (o : OpMma) (u : Use) (s : State) : Act :=
  let n := o.n.toNat + 1
  withLease s ((s.weightTile o.w).andThen fun w =>
    (s.chkTile o.t).andThen fun _ =>
      (s.rowCheck o.t w 0 n o.row.toNat).andThen fun r => .fly (s.queueCmd o.c u .both o.t o.set [⟨w, 0, n, r⟩] w))

def execMma (o : OpMma) (s : State) : Result := command o.c { opc := 0x167 } (mmaBody o { opc := 0x167 }) s

/-- The parts of a `BSMM` from its records, each checked in turn (11 R320, R321). -/
def State.sparseParts (s : State) (o : OpBsmm) (table : Nat) (is : List Nat) : Check (List ArrPart) :=
  match is with
  | [] => .ok []
  | i :: r =>
    let f (off n : Nat) : Nat := s.scrNat s.job (table + 16 * i + off) n
    let count := f 8 2
    if count = 0 || 32 < count || f 10 2 ≠ 0 then .error (.err { code := 46 })
    else
      match s.weightTile (o.w + f 0 4) with
      | .error b => .error b
      | .ok w =>
        match s.rowCheck o.t w (f 4 4) count (o.row.toNat + 32 * f 12 4) with
        | .error b => .error b
        | .ok d =>
          match State.sparseParts s o table r with
          | .error b => .error b
          | .ok ps => .ok (⟨w, f 4 4, count, d⟩ :: ps)

/-- `BSMM`: with no record nothing is checked. (DEDUCED, log 40) -/
def bsmmBody (o : OpBsmm) (u : Use) (s : State) : Act :=
  let m := (s.sget o.m).toNat
  if m = 0 then .done s 0
  else withLease s ((s.chkTile o.t).andThen fun _ =>
    if 65535 < m then Act.code 46
    else (s.scrOperand o.a 0 (16 * m) 16).andThen fun a =>
      (s.sparseParts o a (List.range m)).andThen fun ps =>
        match ps.getLast? with
        | none => .done s 0
        | some p => .fly (s.queueCmd o.c u .sparse o.t o.set ps p.weights))

def bsmmUse (o : OpBsmm) : Use := { opc := 0x169, regs := [.s o.a, .s o.m] }

def execBsmm (o : OpBsmm) (s : State) : Result := command o.c (bsmmUse o) (bsmmBody o (bsmmUse o)) s

/-! ### The array at work -/

def State.modHead (s : State) (k : Nat) (f : ArrCmd → ArrCmd) : State :=
  s.modJob k (fun j => { j with arrayQ := match j.arrayQ with
    | [] => []
    | c :: r => f c :: r })

/-- Whether the head part of a command is through: its weights are loaded, or its last row has entered. -/
def ArrCmd.partOver (c : ArrCmd) : Bool :=
  match c.parts with
  | [] => true
  | p :: _ => if c.kind = .load then c.loaded else c.paid && c.row = p.count

/-- The next part of a command; its part flags start anew. -/
def ArrCmd.nextPart (c : ArrCmd) : ArrCmd :=
  { c with parts := c.parts.tail, begun := false, loaded := false, paid := false, row := 0 }

/-- A head part that is through goes; with its last part the command leaves the queue. -/
def Job.popPart (j : Job) : Job :=
  match j.arrayQ with
  | [] => j
  | c :: r =>
    if c.partOver then { j with arrayQ := if c.parts.length ≤ 1 then r else c.nextPart :: r } else j

/-- The head command is counted in the term in which it starts (11 R307). -/
def State.countCmd (s : State) (core k : Nat) (c : ArrCmd) : State :=
  if c.counted then s
  else (s.modArray core (fun x => { x with term := x.term ++ [c.flight] })).modHead k (fun c => { c with counted := true })

/-- Rows of the head part from its next one on, entering from cycle `t`. -/
def partRows (k : Nat) (c : ArrCmd) (p : ArrPart) (load rate t : Nat) : List ArrRow :=
  (List.range (p.count - c.row)).map (fun i =>
    ⟨t + i * rate, t + i * rate + 12, load,
      .row k c.flight c.tile c.cfg (p.first + c.row + i) (p.dest + c.row + i) c.set (c.parts.length = 1 && c.row + i + 1 = p.count) c.mode⟩)

/-- The next thing the holding job's head command does: a charged weight load, a reload that is not charged (11 R309), or its rows; each
charged part waits for its units, and a speculative one tries again in every cycle, as its second condition eases with the window (11 R312). -/
def State.startPart (s : State) (core k : Nat) (j : Job) (c : ArrCmd) (p : ArrPart) : State :=
  let lead := if c.kind = .sparse && !c.begun then 24 else 0
  let kRows := tcfgRows p.weights.cfg
  let x := (s.coreOf core).array
  let cur := x.cur.bind (fun n => x.loads.find? n)
  let go (s : State) (d : Nat) : State := s.ensure d .leaseTermEnd { a := core }
  let again (s : State) : State := if j.spec.isSome then go s 1 else s
  if c.wantsLoad j p then
    match s.pay core (kRows * s.loadEstimate j p.weights) j.spec.isSome with
    | none => again s
    | some s1 =>
      let s2 := (s1.countCmd core k c).modHead k (fun c => { c with begun := true, loaded := true })
      let s3 := s2.modJob k (fun j => { j with ran := some p.weights })
      go (s3.beginLoad core (s.now + lead) kRows (some k) p.weights (.load (if c.kind = .load then some c.flight else none))) (lead + kRows)
  else if cur.map (fun l => (l.who, l.w)) ≠ some (some k, p.weights) then
    let s1 := (s.modHead k (fun c => { c with begun := true })).modArray core (fun x => { x with since := x.since + kRows })
    let s2 := (s1.modJob k (fun j => { j with ran := some p.weights })).beginLoad core (s.now + lead) kRows (some k) p.weights (.load none)
    go (go s2 (x.since + kRows + 8192 - s.now)) (lead + kRows)
  else
    let paid := if c.paid then some s else s.pay core (p.count * s.partEstimate j c p) j.spec.isSome
    match paid with
    | none => again s
    | some s1 =>
      let rate := ((macPath (tcfgFmt p.weights.cfg) (tcfgFmt c.cfg)).map MacPath.rate).getD 1
      let n := p.count - c.row
      let s2 := ((s1.countCmd core k c).modHead k (fun c => { c with begun := true, paid := true, row := p.count })).enterRows core
        (partRows k c p (x.cur.getD 0) rate (s.now + lead) )
      go (s2.modArray core (fun x => { x with free := s.now + lead + n * rate, busy := x.busy + n * rate })) (lead + n * rate)

/-- A boundary of a job's term: a running weight load is not divided, a term that is over ends, and else the array goes on with the
holder's queue (11 R304, R307). -/
def State.boundary (s : State) (core cc : Nat) : State :=
  let x := (s.coreOf core).array
  if s.now < x.loading then s.ensure (x.loading - s.now) .leaseTermEnd { a := core }
  else
    match s.onCc core cc with
    | none => s.endTerm core
    | some (k, _) =>
      let s1 := if x.free ≤ s.now then s.modJob k Job.popPart else s
      if s1.termOver core then s1.endTerm core
      else if s.now < x.free then s1.ensure (x.free - s.now) .leaseTermEnd { a := core }
      else
        let j := s1.jobOf k
        match j.arrayQ with
        | [] => s1
        | c :: _ =>
          match c.parts with
          | [] => s1
          | p :: _ => s1.startPart core k j c p

def execLeaseTermEnd (s : State) : Result :=
  let core := s.args.a
  .next (match (s.coreOf core).array.holder with
    | some (.cc n) => s.boundary core n
    | _ => s)

/-- What an item does when it takes effect. -/
def State.itemEffect (s : State) (core : Nat) (r : ArrRow) : State :=
  match r.item with
  | .load f =>
    match (s.coreOf core).array.loads.find? r.load with
    | none => s
    | some l =>
      match l.who.bind (fun k => s.jobs.find? k) with
      | none => s
      | some j =>
        let n := tcfgRows l.w.cfg
        let s1 := s.loadDone core r.load ((s.tileRows j l.w.tile l.w.cfg 0 n).flatten) (s.badColumns j l.w)
        match f with
        | none => s1
        | some f => s1.arrayDone core f
  | .row k f t cfg src dest set last m => s.jobRow core r.load k f t cfg src dest set last m
  | .passLoad => s.loadDone core r.load (((s.trow core).buffer.map Prod.snd).getD []) []
  | .passRow i => s.passRow core r.load i

/-- The oldest item under way takes effect: a weight load ends, or a row's update is written 12 cycles after it entered. -/
def execArrayRowUpdate (s : State) : Result :=
  let core := s.args.a
  .next (match (s.coreOf core).array.rows with
    | [] => s
    | r :: rest =>
      if s.now < r.due then s.ensure (r.due - s.now) .arrayRowUpdate { a := core }
      else
        let s1 := (s.modArray core (fun x => { x with rows := rest })).itemEffect core r
        match (s1.coreOf core).array.rows with
        | [] => s1
        | n :: _ => s1.ensure (n.due - s.now) .arrayRowUpdate { a := core })

/-! ### Arbitration (11 R308) -/

/-- Toggle estimate of a requester's next command, over its first rows for the Trowel. -/
def State.askEstimate (s : State) (core : Nat) (h : Holder) : Nat :=
  match h with
  | .trowel => ((s.trow core).front.map (s.passEstimate core)).getD 0
  | .cc n =>
    match s.onCc core n with
    | none => 0
    | some (_, j) => (j.arrayQ.head?.map (s.cmdEstimate j)).getD 0

def Holder.num (h : Holder) : Nat :=
  match h with
  | .cc n => n
  | .trowel => 4

/-- Places after the last grantee in the rotation CC0, CC1, CC2, CC3, Trowel. -/
def rotation (last : Option Holder) (h : Holder) : Nat :=
  match last with
  | none => h.num
  | some l => (h.num + 4 - l.num) % 5

/-- Rank of a requester: real before speculative, then those passed over 4 times by age, then estimate, then rotation; the least wins (11 R308). -/
def State.askRank (s : State) (core : Nat) (r : ArrReq) : List Nat :=
  let x := (s.coreOf core).array
  [(if s.holderSpec core r.who then 1 else 0), (if 4 ≤ r.passed then 0 else 1), (if 4 ≤ r.passed then r.since else 0),
   s.askEstimate core r.who, rotation x.last r.who]

def State.arrayWinner (s : State) (core : Nat) (rs : List ArrReq) : Option ArrReq :=
  rs.foldl (fun (o : Option ArrReq) r =>
    match o with
    | none => some r
    | some b => if rankBefore (s.askRank core r) (s.askRank core b) then some r else some b) none

/-- The free array goes to one requester, and a term opens; the others have been passed over once more. -/
def execArrayArbitration (s : State) : Result :=
  let core := s.args.a
  let x := (s.coreOf core).array
  .next (if x.holder.isSome then s
    else
      match s.arrayWinner core (s.arrayReqs core) with
      | none => s.modArray core (fun x => { x with reqs := [] })
      | some w =>
        let others := ((s.arrayReqs core).filter (fun r => r.who ≠ w.who)).map (fun r => { r with passed := r.passed + 1 })
        let s1 := s.modArray core (fun x => { x with
          holder := some w.who, since := s.now, term := [], full := false, reqs := others, free := max x.free s.now })
        match w.who with
        | .trowel => s1.ensure 0 .passArrayTerm { a := core }
        | .cc _ => (s1.ensure 0 .leaseTermEnd { a := core }).post 8192 .leaseTermEnd { a := core })

/-! ### Budget (11 R312) -/

/-- Every 1,024 cycles each core's budget is full again, and an array that waits for units goes on. -/
def execBudgetRefill (s : State) : Result :=
  let fill (x : Core) : Core := { x with left := x.refill }
  let s1 := { s with cores := s.cores.map (fun (e : Nat × Core) => (e.1, fill e.2)) }
  let go (t : State) (k : Nat) : State :=
    match (t.coreOf k).array.holder with
    | none => t
    | some h => t.ensure 0 (boundaryOf h) { a := k }
  .next ((s1.cores.keys.foldl go s1).post (1024 - s.now % 1024) .budgetRefill {})

end Sys2Proof.Machine
end

