-- ==== Sys2Proof/Machine/Pool.lean ====
section
/-! DEFINITION. Launch records and kernel descriptors (18 R419, R420, 19 R436), the history of a queue and what it predicts (14 R377 to R380), the
pending-launch pool (19 R435, R443 to R445), and `LAUNCH` and `LAUNCHP` (11 R327 to R331). -/

namespace Sys2Proof.Machine

/-! ### Launch records (19 R436) -/

def recDesc (r : List Byte) : Nat := fieldOf r 0 8
def recCompl (r : List Byte) : Nat := fieldOf r 8 8
def recWaket (r : List Byte) : Nat := fieldOf r 16 8
def recProlog (r : List Byte) : Nat := fieldOf r 24 8
def recTrip (r : List Byte) (i : Nat) : Nat := fieldOf r (32 + 2 * i) 2
def recCtrl (r : List Byte) : Nat := fieldOf r 40 8
def recGap (r : List Byte) : Nat := natBits (recCtrl r) 40 24
def recPart (r : List Byte) : Nat := natBits (recCtrl r) 36 4
def recPrio (r : List Byte) : Nat := natBits (recCtrl r) 32 3
def recNospec (r : List Byte) : Bool := (recCtrl r).testBit 31
def recArgptr (r : List Byte) : Bool := (recCtrl r).testBit 30
def recRepeat (r : List Byte) : Nat := natBits (recCtrl r) 16 8
def recArgp (r : List Byte) : Nat := fieldOf r 48 8
def recArgs (r : List Byte) : List Byte := sliceOf r 64 64

/-- The eight argument words of a block. -/
def argWords (b : List Byte) : List Word := (List.range 8).map (fun i => BitVec.ofNat 64 (fieldOf b (8 * i) 8))

/-! ### Kernel descriptors (18 R419, R420) -/

def KDesc.ofBytes (b : List Byte) : KDesc where
  entry := Vector.ofFn (fun (i : Fin 4) => BitVec.ofNat 64 (fieldOf b (8 * i.val) 8))
  kinds := Vector.ofFn (fun (i : Fin 4) => fieldOf b (35 + 4 * i.val) 1)
  bounds := Vector.ofFn (fun (i : Fin 4) => fieldOf b (32 + 4 * i.val) 2)
  scratch := fieldOf b 48 1
  tiles := fieldOf b 49 1
  spec := (fieldOf b 50 1).testBit 0
  nargs := fieldOf b 51 1
  sbase := fieldOf b 52 4
  slimit := fieldOf b 56 4
  argclass := fieldOf b 60 2
  epin := fieldOf b 62 1
  epilist := BitVec.ofNat 64 (fieldOf b 64 8)

/-- Class of argument word `i`: 0 `EXACT`, 1 `STRIDE`, 2 `FREE`; one that is not declared counts as `EXACT` (14 R378). -/
def argClass (argclass nargs i : Nat) : Nat := if i < nargs then natBits argclass (2 * i) 2 else 0

/-- Loop levels in order with no gap, and at most one of kind `D`; a table without a level is one job. (DESIGN CHOICE, log 100) -/
def kindsOk (ks : List Nat) : Bool :=
  ks.all (fun k => decide (k ≤ 3)) && (ks.dropWhile (fun k => k ≠ 0)).all (fun k => k = 0) && (ks.filter (fun k => k = 3)).length ≤ 1

/-- The checks of 18 R420 on a descriptor's bytes. -/
def descOk (b : List Byte) : Bool :=
  let k := KDesc.ofBytes b
  let zero (i n : Nat) : Bool := fieldOf b i n = 0
  (List.range 4).all (fun i => zero (34 + 4 * i) 1 && zero (6 + 8 * i) 2 && decide (fieldOf b (8 * i) 8 % 16 = 0)) &&
    decide (fieldOf b 50 1 ≤ 1) && zero 63 1 && zero 72 56 &&
    decide (1 ≤ k.scratch && k.scratch ≤ 128 && k.tiles ≤ 48) && decide (k.sbase ≤ k.slimit) && decide (k.slimit ≤ k.scratch * 65536) &&
    kindsOk k.kinds.toList && (List.zip k.kinds.toList k.bounds.toList).all (fun p => p.1 = 0 || p.2 ≠ 0) && decide (k.nargs ≤ 8) &&
    (List.range 8).all (fun i => natBits k.argclass (2 * i) 2 ≠ 3) && (k.spec || k.argclass = 0)

/-- A kernel descriptor as the die scheduler reads it in a context; none where it cannot be read or breaks 18 R420. -/
def State.readDesc (s : State) (ctx a : Nat) : Option KDesc :=
  match s.vaRead ctx a 128 with
  | none => none
  | some b => if s.vaBad ctx a 128 || !descOk b then none else some (KDesc.ofBytes b)

/-! ### History and prediction (14 R377 to R380) -/

/-- Whether a record is predictable (14 R378). -/
def predictable (k : Option KDesc) (r : List Byte) : Bool :=
  match k with
  | none => false
  | some k => k.spec && !recNospec r && !recArgptr r && recProlog r = 0 && !k.kinds.toList.contains 3

/-- The history entry of a record. -/
def State.histOf (s : State) (ctx : Nat) (seq : BitVec 32) (r : List Byte) : Hist :=
  let k := s.readDesc ctx (recDesc r)
  { seq := seq, desc := BitVec.ofNat 64 (recDesc r), args := argWords (recArgs r), trips := (List.range 4).map (recTrip r), part := recPart r
    predictable := predictable k r, argclass := (k.map (·.argclass)).getD 0, nargs := (k.map (·.nargs)).getD 0, cut := false }

/-- The entries from the newest back to the last cut. -/
def visible (h : List Hist) : List Hist :=
  match h with
  | [] => []
  | x :: r => if x.cut then [x] else x :: visible r

def Hist.cls (h : Hist) (i : Nat) : Nat := argClass h.argclass h.nargs i

/-- Whether entry `x` confirms against the earlier entry `y`. -/
def Hist.confirms (x y : Hist) : Bool :=
  x.predictable && y.predictable && x.desc = y.desc && x.trips = y.trips && x.part = y.part &&
    (List.range 8).all (fun i => x.cls i ≠ 0 || x.args.getD i 0 = y.args.getD i 0)

/-- The entry of a sequence number. -/
def histAt (h : List Hist) (n : BitVec 32) : Option Hist := h.find? (fun x => x.seq = n)

/-- Entries counted back from that of sequence number `n` that confirm against the one `p` before each. -/
def confirmCount (p : Nat) (h : List Hist) (fuel : Nat) (n : BitVec 32) : Nat :=
  match fuel with
  | 0 => 0
  | fuel + 1 =>
    match histAt h n, histAt h (n - BitVec.ofNat 32 p) with
    | some x, some y => if x.confirms y then confirmCount p h fuel (n - 1) + 1 else 0
    | _, _ => 0

/-- The period of the pattern that ends with sequence number `n` (14 R379). -/
def period (h : List Hist) (n : BitVec 32) : Option Nat := [1, 2, 3, 4].find? (fun p => decide (2 ≤ confirmCount p h h.length n))

/-- Whether entry `u` may give the strides of template `t` (14 R380). -/
def Hist.strideBase (t : Hist) (u : Option Hist) : Bool :=
  match u with
  | none => false
  | some u => u.predictable && u.desc = t.desc

/-- The record made of a template and the entry a period before it (14 R380); completion word and wake target are not predicted. -/
def Hist.record (t : Hist) (u : Option Hist) : List Byte :=
  let word (i : Nat) : Word :=
    let w := t.args.getD i 0
    if t.cls i = 1 then w + (w - ((u.map (fun u => u.args.getD i 0)).getD 0)) else w
  bytesOf 8 t.desc.toNat ++ List.replicate 24 0 ++ ((List.range 4).map (fun i => bytesOf 2 (t.trips.getD i 0))).flatten ++
    bytesOf 8 (t.part * 2 ^ 36) ++ List.replicate 16 0 ++ ((List.range 8).map (fun i => bytesOf 8 (word i).toNat)).flatten

/-- The record that a history predicts for the sequence number after its newest (14 R380), from a template that is predictable (R378). -/
def prediction (h : List Hist) : Option (List Byte) :=
  match h with
  | [] => none
  | x :: _ =>
    match period h x.seq with
    | none => none
    | some p =>
      match histAt h (x.seq + 1 - BitVec.ofNat 32 p) with
      | none => none
      | some t =>
        let u := histAt h (x.seq + 1 - BitVec.ofNat 32 (2 * p))
        let strides := (List.range 8).any (fun i => t.cls i = 1)
        if !t.predictable || (strides && !t.strideBase u) then none else some (t.record u)

/-- A launch enters its queue's history; what it then predicts is tried in the next cycle (14 R380, R381), whatever cuts come (R395). -/
def State.enterHistory (s : State) (q : Nat) (ctx : Nat) (seq : BitVec 32) (r : List Byte) : State :=
  let h := (s.histOf ctx seq r :: s.history.getD q []).take 16
  let s1 := { s with history := s.history.set q h }
  match prediction (visible h) with
  | none => s1
  | some p => s1.post 1 .speculationStart { a := (s.queueOf q).die, b := q, word := (seq + 1).setWidth 64, data := p }

/-! ### Launches of a queue -/

/-- s7 of a launch's jobs (01 R15). -/
def launchId (q : Nat) (seq : BitVec 32) : Word := BitVec.ofNat 64 (q % 4096 * 2 ^ 32 + seq.toNat)

/-- A launch that enters the pool. -/
def State.newLaunch (s : State) (q : Nat) (seq : BitVec 32) (r : List Byte) (st : LState) : Launch :=
  let e := s.queueOf q
  { queue := q, seq := seq, die := e.die, ctx := e.ctx, vf := e.vf, part := e.part, record := r, state := st, held := true, freed := none
    desc := none, trips := Vector.replicate 4 0, args := [], jobs := 0, created := 0, placed := 0, completed := 0, spec := none, repeats := 0
    again := false, started := false, status := none }

/-- Whether a context runs: not frozen and not being dumped (20 R456). -/
def State.ctxRuns (s : State) (ctx : Nat) : Bool := (s.ctxOf ctx).state ≠ .frozen && (s.ctxOf ctx).state ≠ .dumping

/-- Whether every job of a launch has been placed. -/
def Launch.allPlaced (l : Launch) : Bool := l.state = .running || l.state = .finishing

/-- The launch of a queue that may start next (01 R31, 19 R442): the oldest that has not, once its record has landed and every job of those
before it has been placed. -/
def State.startable (s : State) (q : Nat) : Option Nat :=
  let ls := List.filter (fun e : Nat × Launch => e.2.queue = q && (e.2.spec.isNone || e.2.state = .claiming) && !e.2.allPlaced) s.launches
  match ls with
  | [] => none
  | (k, l) :: _ => if l.state = .pending && !(s.queueOf q).hold && s.ctxRuns l.ctx then some k else none

/-- Starts what may start in a queue. -/
def State.tryStart (s : State) (q : Nat) : State :=
  match s.startable q with
  | none => s
  | some k => s.ensure 0 .launchStart { a := k }

/-! ### The pool (19 R443, R444) -/

/-- Whether a launch takes an entry in this cycle; an entry freed in a cycle can be taken from the next on (11 R331). -/
def Launch.holds (l : Launch) (now : Nat) : Bool := l.held || l.freed = some now

/-- Entries held in a die's pool, those reserved among them. -/
def State.poolUsed (s : State) (die : Nat) : Nat :=
  (List.filter (fun e : Nat × Launch => e.2.die = die && e.2.holds s.now) s.launches).length + (s.dieOf die).reserved.length

/-- Entries that a partition holds. -/
def State.poolPart (s : State) (die part : Nat) : Nat :=
  (List.filter (fun e : Nat × Launch => e.2.die = die && e.2.part = part && e.2.holds s.now) s.launches).length +
    ((s.dieOf die).reserved.filter (fun k => (s.jobOf k).part = part)).length

def State.poolCap (s : State) (die part : Nat) : Nat := (s.dieOf die).caps.getD part 1024

/-- Whether the pool has an entry for a launch of a partition. -/
def State.poolRoom (s : State) (die part : Nat) : Bool := s.poolUsed die < 1024 && s.poolPart die part < s.poolCap die part

/-- A pool entry freed (01 R32). -/
def State.freePool (s : State) (k : Nat) : State :=
  match s.launches.find? k with
  | none => s
  | some l => if l.held then (s.modLaunch k (fun l => { l with held := false, freed := some s.now })).ensure 1 .poolGrant { a := l.die } else s

/-- The request of a `LAUNCHP`, with its destination register. -/
def Flight.parkReq (f : Flight) : Option (PoolReq × SReg) :=
  match f.work with
  | .pool r d _ _ => if r.park then some (r, d) else none
  | _ => none

/-- The `LAUNCHP` that a job has under way. -/
def State.parkFlight (s : State) (k : Nat) : Option (Nat × Flight × PoolReq × SReg) :=
  List.findSome? (fun e : Nat × Flight => if e.2.ref.job = k then e.2.parkReq.map (fun p => (e.1, e.2, p)) else none) s.flights

/-- The die whose pool a job's `LAUNCHP` waits for; none where the job waits for none. -/
def State.parkDie (s : State) (k : Nat) : Option Nat := (s.parkFlight k).map (fun p => (s.queueOf p.2.2.1.queue).die)

/-- The parked job that the next free entry of a die's pool is reserved for (01 R34): the oldest of the highest priority, of a partition
below its cap. -/
def State.reserveFor (s : State) (die : Nat) : Option Nat :=
  ((List.filter (fun e : Nat × Job => e.2.status = .parked && !e.2.ready && s.ctxRuns e.2.ctx && s.parkDie e.1 = some die &&
      s.poolPart die e.2.part < s.poolCap die e.2.part) s.jobs).foldl
    (fun (o : Option (Nat × Job)) e =>
      match o with
      | none => some e
      | some b => if b.2.prio < e.2.prio || (b.2.prio = e.2.prio && e.2.leftAt < b.2.leftAt) then some e else some b) none).map (·.1)

/-- The queue that the scanner of a die selects (19 R435): pending, not held, its partition below its cap; a frozen context's queues are not
read (20 R481). -/
def State.scan (s : State) (die : Nat) : Option Nat :=
  let qs := (List.filter (fun e : Nat × Queue => e.2.pending && e.2.valid && e.2.die = die && !e.2.hold && s.ctxRuns e.2.ctx &&
    s.poolPart die e.2.part < s.poolCap die e.2.part) s.queues).map (·.1)
  match qs.find? (fun q => (s.dieOf die).start ≤ q) with
  | some q => some q
  | none => qs.head?

/-- Requests that have arrived, in the order of 11 R331. -/
def State.arrivedRequests (s : State) (die : Nat) : List (Nat × Nat) :=
  let key (r : Nat × Nat) : Nat × Nat :=
    let j := s.jobOf (((s.flights.find? r.2).map (fun f => f.ref.job)).getD 0)
    (r.1, j.coreKey * 4 + j.cc)
  let before (a b : Nat × Nat) : Bool := (key a).1 < (key b).1 || ((key a).1 = (key b).1 && (key a).2 < (key b).2)
  let put (l : List (Nat × Nat)) (x : Nat × Nat) : List (Nat × Nat) := l.takeWhile (fun y => !before x y) ++ x :: l.dropWhile (fun y => !before x y)
  ((s.dieOf die).requests.filter (fun r => decide (r.1 ≤ s.now))).foldl put []

/-- One grant of a die's pool (19 R443): a reservation, else a request or a ring read, which alternate where both wait. A request that
finds no entry is handled too. -/
def State.grantPool (s : State) (die : Nat) : State :=
  let s0 := s.modDie die (fun d => { d with poolNext := s.now + 1 })
  let free := decide (s.poolUsed die < 1024)
  match (if free then s.reserveFor die else none) with
  | some k =>
    (((s0.modDie die (fun d => { d with reserved := d.reserved ++ [k] })).modJob k (fun j => { j with ready := true })).ensure 1 .jobPlacement
      { a := (s.jobOf k).die }).ensure 1 .poolGrant { a := die }
  | none =>
    let ring := free && (s.scan die).isSome
    if !(s.arrivedRequests die).isEmpty && !(ring && (s.dieOf die).turn) then
      ((s0.modDie die (fun d => { d with turn := true })).post 0 .poolRequestHandled { a := die }).ensure 1 .poolGrant { a := die }
    else if ring then ((s0.modDie die (fun d => { d with turn := false })).post 0 .ringRead { a := die }).ensure 1 .poolGrant { a := die }
    else s

def execPoolGrant (s : State) : Result :=
  let die := s.args.a
  .next (if (s.dieOf die).lost then s
    else if s.now < (s.dieOf die).poolNext then s.ensure ((s.dieOf die).poolNext - s.now) .poolGrant { a := die } else s.grantPool die)

/-- The scanner reads one record into a pool entry (19 R432, R435); the record's bytes land later. (DEDUCED, log 46) -/
def execRingRead (s : State) : Result :=
  let die := s.args.a
  .next (match s.scan die with
    | none => s
    | some q =>
      let e := s.queueOf q
      let r := s.homeRead (e.base + 128 * (e.rseq.toNat % e.size)) 128
      let hint := fieldOf r 56 4
      let s := if hint.testBit 31 then s.countWid (hint % 2 ^ 24) 1 else s
      let more := decide (e.rseq + 1 ≠ e.wseq)
      let s1 := (s.modQueue q (fun e => { e with rseq := e.rseq + 1, pending := more })).modDie die (fun d => { d with start := (q + 1) % 4096 })
      let k := s1.nextId
      ({ s1.newId with launches := s1.launches.set k (s.newLaunch q e.rseq r .reading) }.enterHistory q e.ctx e.rseq r).later .recordLanded
        { a := k })

/-- A ring record has landed: its launch may start when its turn comes. -/
def execRecordLanded (s : State) : Result :=
  let k := s.args.a
  .next (match s.launches.find? k with
    | none => s
    | some l => if l.state = .reading then (s.modLaunch k (fun l => { l with state := .pending })).tryStart l.queue else s)

/-! ### `LAUNCH` and `LAUNCHP` (11 R327 to R331) -/

/-- Whether a job of a partition may launch into a queue (19 R445). -/
def Queue.launches (e : Queue) (p : Nat) : Bool := e.valid && e.direct && e.klaunch && e.part = p

/-- A launch into a direct queue takes the next sequence number (19 R445). -/
def State.insertLaunch (s : State) (q : Nat) (r : List Byte) : State × Word :=
  let e := s.queueOf q
  let s1 := s.modQueue q (fun e => { e with wseq := e.wseq + 1, rseq := e.wseq + 1 })
  let k := s1.nextId
  let s2 := { s1.newId with launches := s1.launches.set k (s.newLaunch q e.wseq r .pending) }
  ((s2.enterHistory q e.ctx e.wseq r).tryStart q, launchId q e.wseq)

/-- The die scheduler that handles a request for a queue: the queue's own, or that of the job's die where the queue is not valid.
(DEDUCED, log 45) -/
def State.poolDie (s : State) (j : Job) (q : Nat) : Nat := if (s.queueOf q).valid then (s.queueOf q).die else j.die

/-- A request on its way to a pool: its own die's after one cycle, another's after a time that the device does not fix. -/
def State.toPool (s : State) (k die home : Nat) : State :=
  let d := if die = home then 1 else 1 + Config.delay s.ticket
  ((s.draw.modDie die (fun x => { x with requests := x.requests ++ [(s.now + d, k)] })).post d .poolGrant { a := die })

/-- The operand checks of 11 R328 and the issue. -/
def poolBody (c : Ctl) (u : Use) (d : SReg) (p : Option PReg) (r q : SReg) (desc : Nat) (park : Bool) (s : State) : Act :=
  let j := s.job
  let v := (s.sget q).toNat
  let n := natBits v 0 12
  if v ≠ j.pkg * 2 ^ 44 + n then Act.code 51
  else (s.scrOperand r 0 128 64).andThen fun a =>
    let b := s.scrRead j a 128
    let rec_ := if desc = 0 then b else bytesOf 8 desc ++ b.drop 8
    if recPart rec_ ≠ j.part then Act.code 51
    else if !s.released s.cur .package s.nextId s.now then .busy (s.fenceStart s.cur false .package)
    else
      let k := s.nextId
      .fly ((s.fly c u (.pool ⟨n, rec_, a, park⟩ d p none) [.s d]).toPool k (s.poolDie j n) j.die)

def launchUse (o : OpLaunch) : Use := { opc := 0x178, two := true, regs := [.s o.d, .s o.r, .s o.q], irrev := true }

/-- `LAUNCH`. -/
def execLaunch (o : OpLaunch) (s : State) : Result :=
  command o.c (launchUse o) (poolBody o.c (launchUse o) o.d (some o.p) o.r o.q o.desc.toNat false) s

def launchpUse (o : OpLaunchp) : Use := { opc := 0x179, regs := [.s o.d, .s o.r, .s o.q], irrev := true }

/-- `LAUNCHP`. -/
def execLaunchp (o : OpLaunchp) (s : State) : Result :=
  command o.c (launchpUse o) (poolBody o.c (launchpUse o) o.d none o.r o.q 0 true) s

/-- A pool request's answer, and the launch it places. -/
def State.answerPool (s : State) (die k : Nat) : State :=
  match s.flights.find? k with
  | none => s
  | some f =>
    match f.work with
    | .pool r d p _ =>
      let j := s.jobOf f.ref.job
      let e := s.queueOf r.queue
      let t : State × PoolAnswer :=
        if !e.launches j.part then (s, .perm)
        else if !s.poolRoom die j.part then (s, .full)
        else ((s.insertLaunch r.queue r.record).1, .accepted (s.insertLaunch r.queue r.record).2)
      let s1 := t.1.modFlight k (fun f => { f with work := .pool r d p (some t.2) })
      if die = j.die then s1.post 11 .poolRequestHandled { a := die, b := k + 1 } else s1.later .poolRequestHandled { a := die, b := k + 1 }
    | _ => s

/-- A reply returns (11 R328, R329): results are written, or `LAUNCH_PERM` is raised, or the job of a `LAUNCHP` begins to park. -/
def State.poolReply (s : State) (k : Nat) : State :=
  match s.flights.find? k with
  | none => s
  | some f =>
    match f.work with
    | .pool r d p (some a) =>
      let put (v : Word) (b : Bool) : State :=
        let s1 := s.modRef f.ref (fun t => t.sput d v)
        (match p with
         | none => s1
         | some p => s1.pput f.ref p (some b)).finish k 0
      match a with
      | .accepted w => put w false
      | .perm => s.flightError k { code := 51 }
      | .full =>
        if r.park then (s.modJob f.ref.job (fun j => { j with parking := true })).ensure 1 .jobPark { a := f.ref.job }
        else put (BitVec.ofNat 64 (2 ^ 63)) true
    | _ => s

/-- The oldest request of a die's pool is handled, or a reply returns. -/
def execPoolRequestHandled (s : State) : Result :=
  let g := s.args
  .next (if g.b ≠ 0 then s.poolReply (g.b - 1)
    else
      match s.arrivedRequests g.a with
      | [] => s
      | r :: _ => (s.modDie g.a (fun d => { d with requests := d.requests.filter (fun x => x ≠ r) })).answerPool g.a r.2)

end Sys2Proof.Machine
end

