-- ==== Sys2Proof/Machine/Translate.lean ====
section
/-! DEFINITION. Translation for programs: `XLAT`, `HTEST`, `HREL`, `PROBE` and the walks of a core (09 R246 to R249, 02 R69 to R72). -/

namespace Sys2Proof.Machine

/-- A handle as its 128 bits (02 R69). -/
def Handle.bits (h : Handle) : BitVec 128 :=
  BitVec.ofNat 128 (
    h.valid.toNat * 2 ^ 127 + h.size.toNat * 2 ^ 125 + h.kind.toNat * 2 ^ 123 + h.rd.toNat * 2 ^ 122 + h.wr.toNat * 2 ^ 121 +
    h.shelf.toNat * 2 ^ 120 + h.burst.toNat * 2 ^ 119 + h.hovr.toNat * 2 ^ 118 + h.hdie.toNat * 2 ^ 115 +
    h.miss.toNat * 2 ^ 104 + h.vpn.toNat * 2 ^ 64 + h.pbase.toNat)

/-- A handle from its 128 bits. -/
def Handle.ofBits (w : BitVec 128) : Handle :=
  ⟨w.getLsbD 127, w.extractLsb' 125 2, w.extractLsb' 123 2, w.getLsbD 122, w.getLsbD 121, w.getLsbD 120, w.getLsbD 119, w.getLsbD 118,
    w.extractLsb' 115 3, w.extractLsb' 104 8, w.extractLsb' 64 32, w.extractLsb' 0 40⟩

/-- `HTEST` into a register (09 R247). -/
def Handle.test (h : Handle) : Word :=
  BitVec.ofNat 64 (
    h.valid.toNat * 2 ^ 63 + h.size.toNat * 2 ^ 61 + h.kind.toNat * 2 ^ 59 + h.rd.toNat * 2 ^ 58 + h.wr.toNat * 2 ^ 57 +
    h.shelf.toNat * 2 ^ 56 + h.miss.toNat * 2 ^ 48 + h.vpn.toNat * 65536)

/-- Whether a valid handle's page holds a virtual address. -/
def Handle.covers (h : Handle) (va : Nat) : Bool :=
  h.valid && h.vpn.toNat * 65536 ≤ va && va < h.vpn.toNat * 65536 + pageBytes h.size.toNat

/-- A cached translation of an address. -/
def Core.cached (x : Core) (ctx va : Nat) : Option Handle := (x.xlat.find? (fun e => e.1 = ctx && e.2.2.covers va)).map (·.2.2)

/-- Walks are told apart by the 64 KiB page of the address. -/
def Core.walkOf (x : Core) (ctx va : Nat) : Option (Nat × Walk) :=
  List.find? (fun w => w.2.ctx = ctx && (w.2.vpn = va / 65536 ||
    (match w.2.result with
     | none => false
     | some (h, _) => h.covers va))) x.walks

/-- The walk slot that a new walk takes: an unused one, else the one that finished first; none while all 16 are running. -/
def Core.walkSlot (x : Core) : Option Nat :=
  match (List.range 16).find? (fun i => (x.walks.find? i).isNone) with
  | some i => some i
  | none =>
    (x.walks.filterMap (fun w => w.2.result.map (fun r => (r.2, w.1)))).foldl
      (fun (o : Option (Nat × Nat)) e =>
        match o with
        | none => some e
        | some m => if e.1 < m.1 then some e else some m) none |>.map (·.2)

/-- Starts a walk in a slot. -/
def State.startWalk (s : State) (core slot ctx vf va : Nat) (spec : Bool) : State :=
  (s.modCore core (fun x => { x with walks := x.walks.set slot ⟨ctx, vf, va / 65536, spec, none⟩ })).later
    .walkComplete { a := core, b := slot }

/-- What translating an address through a core's cache and walk slots gives (09 R246), with the state after a walk it starts. (DEDUCED, log 86) -/
def State.translate (s : State) (j : Job) (va : Nat) : Handle × State :=
  let x := s.coreOf j.coreKey
  if 2 ^ 48 ≤ va then (Handle.missing (va % 2 ^ 48) missNoMapping, s)
  else
    match x.cached j.ctx va with
    | some h => (h, s)
    | none =>
      match x.walkOf j.ctx va with
      | some (_, w) =>
        match w.result with
        | some (h, _) => (if h.valid then h else Handle.missing va h.miss, s)
        | none => (Handle.missing va missWalking, s)
      | none =>
        match x.walkSlot with
        | none => (Handle.missing va missWalkBusy, s)
        | some i => (Handle.missing va missWalking, s.startWalk j.coreKey i j.ctx j.vf va j.spec.isSome)

/-- `XLAT` (09 R246): the handle is written exactly 64 cycles after issue. (DEDUCED, log 15) -/
def xlatBody (o : OpXlat) (u : Use) (s : State) : Act :=
  let r := s.translate s.job (s.sget o.a).toNat
  let k := r.2.nextId
  .fly ((r.2.fly o.c u (.handle o.h r.1) [.h o.h]).post 64 .xlatHandleWrite { a := k })

def xlatUse (o : OpXlat) : Use := { opc := 0x0B8, regs := [.h o.h, .s o.a] }

def execXlat (o : OpXlat) (s : State) : Result := command o.c (xlatUse o) (xlatBody o (xlatUse o)) s

/-- The handle write of an `XLAT`, its completion point. -/
def execXlatHandleWrite (s : State) : Result :=
  .next (match s.flights.find? s.args.a with
    | none => s
    | some f =>
      match f.work with
      | .handle h v => (s.hput f.ref.job h v).finish s.args.a 0
      | _ => s)

/-- What F3 records of a walk that read a poisoned table: the table's physical line (20 R461). -/
def State.tableErrs (s : State) (ctx vf va : Nat) : List ErrRec :=
  match s.badTable ctx vf va with
  | none => []
  | some n =>
    [{ code := 0, reason := 0, stream := 0xFF, trap := 0, more := 0, jobid := 0, launch := 0, word := 0, opc := 0, num := 0, ha := 255, hb := 255
       vaddr := BitVec.ofNat 64 va, paddr := BitVec.ofNat 64 (n * 128), time := s.ptpt }]

/-- A walk ends: its result is kept in its slot, and a valid one is cached (09 R246); F3 records a poisoned table line. -/
def execWalkComplete (s : State) : Result :=
  let g := s.args
  .next (match (s.coreOf g.a).walks.find? g.b with
    | none => s
    | some w =>
      if w.result.isSome then s
      else
        let p := s.walk w.ctx w.vf (w.vpn * 65536)
        let s0 := { s with errors := s.errors ++ s.tableErrs w.ctx w.vf (w.vpn * 65536) }
        let s1 := (s0.markAcc p.2 w.spec).modCore g.a (fun x => { x with
          walks := x.walks.set g.b { w with result := some (p.1, s.now) }
          xlat := if p.1.valid then x.xlat ++ [(w.ctx, w.vpn, p.1)] else x.xlat })
        s1.post 65536 .walkResultExpiry { a := g.a, b := g.b })

/-- A kept result ends 65,536 cycles after its walk. -/
def execWalkResultExpiry (s : State) : Result :=
  let g := s.args
  .next (match (s.coreOf g.a).walks.find? g.b with
    | none => s
    | some w =>
      match w.result with
      | none => s
      | some (_, t) =>
        if t + 65536 ≤ s.now then s.modCore g.a (fun x => { x with walks := x.walks.erase g.b }) else s)

/-- `HTEST sA, hB`. -/
def execHtestS (o : OpSH) (s : State) : Result :=
  command o.c { opc := 0x0B9, regs := [.s o.d, .h o.h] } (fun s => .done (s.sput o.d (s.hget o.h).test) 0) s

/-- `HTEST pA, hB`. -/
def execHtestP (o : OpPH) (s : State) : Result :=
  command o.c { opc := 0x0B9, regs := [.p o.d, .h o.h] }
    (fun s => .done (s.pput s.cur o.d (some (s.hget o.h).valid)) 0) s

/-- A handle released: of an invalid one only the miss code changes (09 R248). -/
def Handle.release (h : Handle) : Handle := if h.valid then Handle.none else { h with miss := missNone }

/-- `HREL` (09 R248). -/
def execHrel (o : OpH) (s : State) : Result :=
  command o.c { opc := 0x0BA, regs := [.h o.h] } (fun s => .done (s.hput s.cur.job o.h (s.hget o.h).release) 0) s

/-! ### `PROBE` (09 R249) -/

def State.setProbing (s : State) (p : Option Probing) : State := s.modSt (fun t => { t with probing := p })

/-- The first address from `va` up to `last` that the core's cache does not translate. -/
def Core.firstMiss (x : Core) (ctx last fuel va : Nat) : Nat :=
  match fuel with
  | 0 => va
  | fuel + 1 =>
    if last < va then va
    else
      match x.cached ctx va with
      | none => va
      | some h => Core.firstMiss x ctx last fuel (h.vpn.toNat * 65536 + pageBytes h.size.toNat)

/-- A page of a `PROBE` faulted to F2 (message 0x0301 of 19 R449). -/
def State.faultPage (s : State) (j : Job) (va : Nat) (miss : BitVec 8) : State :=
  let id := s.nextId
  let f : PFault := ⟨s.cur.job, j.coreKey, j.ctx, j.vf, va / 65536, miss.toNat, s.now, 0⟩
  (({ s.newId with faults := s.faults.set id f }).send ⟨0x0301, 1, 2, [id], none, none⟩ .msgProbeFault {}).post 240000000
    .probeFaultTimeout { a := id }

/-- A `PROBE` completes: its handle is written, and the other streams go on in the next cycle. -/
def State.probed (s : State) (h : HReg) (v : Handle) : State :=
  ((s.hput s.cur.job h v).setProbing none).modJob s.cur.job (fun j => { j with late := { j.late with probe := true } })

/-- One cycle of a `PROBE` at its queue head. (DEDUCED, log 25) -/
def probeStep (o : OpProbe) (p : Probing) (s : State) : Act :=
  let j := s.job
  let x := s.coreOf j.coreKey
  let fault (va : Nat) : Act := .err { code := 13, ha := o.h, vaddr := BitVec.ofNat 64 va }
  if s.flights.any (fun f => f.2.ref.job = s.cur.job && f.2.ref.letter ≠ s.cur.letter) then
    .busy (s.setProbing (some { p with since := s.now }))
  else
    match p.fault with
    | some id =>
      match s.faults.find? id with
      | none => .wait (s.setProbing (some { p with fault := none }))
      | some f =>
        if f.state = 2 then fault (p.next / 65536 * 65536)
        else if f.state = 1 then
          .wait ({ s with faults := s.faults.erase id }.setProbing (some { p with fault := none }))
        else .wait s
    | none =>
      let va := x.firstMiss j.ctx p.last ((p.last - p.next) / 65536 + 2) p.next
      if p.last < va then
        if p.since + 64 ≤ s.now then
          .done (s.probed o.h (s.translate j (s.sget o.a).toNat).1) 0
        else .busy (s.setProbing (some { p with next := va }))
      else
        match x.walkOf j.ctx va with
        | none => .busy ((s.translate j va).2.setProbing (some { p with next := va }))
        | some (i, w) =>
          match w.result with
          | none => .busy s
          | some (h, t) =>
            if h.valid then
              .busy ((s.modCore j.coreKey (fun x => { x with xlat := x.xlat ++ [(j.ctx, va / 65536, h)] })).setProbing
                (some { p with next := va, since := max p.since t }))
            else if h.miss = missNoMapping then fault (va / 65536 * 65536)
            else if j.spec.isSome then .stop ((s.setProbing none).modSt (fun t => { t with paused := true }))
            else
              .wait (((s.faultPage j va h.miss).modCore j.coreKey (fun x => { x with walks := x.walks.erase i })).setProbing
                (some { p with next := va, since := max p.since t, fault := some s.nextId }))

def probeBody (o : OpProbe) (s : State) : Act :=
  match s.st.probing with
  | some p => probeStep o p s
  | none =>
    let v := (s.sget o.a).toNat
    let n := (s.sget o.n).toNat
    let last := if n = 0 then v else v + n - 1
    if 2 ^ 32 < n || 2 ^ 48 ≤ last then .err { code := 12, ha := o.h, vaddr := s.sget o.a }
    else .busy (s.setProbing (some ⟨v, last, none, s.now⟩))

def execProbe (o : OpProbe) (s : State) : Result :=
  command o.c { opc := 0x0BB, regs := [.h o.h, .s o.a, .s o.n] } (probeBody o) s

end Sys2Proof.Machine
end

