-- ==== Sys2Proof/Machine/Save.lean ====
section
/-! DEFINITION. Save areas (20 R468 to R471), parking (01 R33 to R35), pre-emption (01 R36 to R40, 07 R194, 20 R473) and resumption. -/

namespace Sys2Proof.Machine

/-! ### Areas (20 R468) -/

/-- Bytes of a save area. (DEDUCED, log 50) -/
def saveSize (tiles units : Nat) : Nat := 0x3000 + 32768 * tiles + 65536 * units + 49152 * 32

/-- The lowest place of `n` bytes in a pool of `size` bytes that holds the areas `l`. -/
def savePlace (l : List (Nat × Nat)) (size n : Nat) : Option Nat :=
  let ok (o : Nat) : Bool := decide (o + n ≤ size) && l.all (fun e => decide (o + n ≤ e.1) || decide (e.1 + e.2 ≤ o))
  ((0 :: l.map (fun e => e.1 + e.2)).filter ok).foldl (fun (b : Option Nat) o =>
    match b with
    | none => some o
    | some p => some (Nat.min p o)) none

/-- A save area reserved for a job in its context's pool; none where there is no room. -/
def State.reserveSave (s : State) (k : Nat) : Option State :=
  let j := s.jobOf k
  let c := s.ctxOf j.ctx
  let n := saveSize j.tileCount j.scrSize
  if j.saveArea.isSome then some s
  else
    match savePlace c.saves c.savesize n with
    | none => none
    | some o => some ((s.modCtx j.ctx (fun c => { c with saves := c.saves ++ [(o, n)] })).modJob k
        (fun j => { j with saveArea := some (c.savepool.toNat + o) }))

/-! ### The image (20 R468, R469) -/

/-- 64-bit values as bytes. -/
def wordBytes (l : List Word) : List Byte := (l.map (fun w => bytesOf 8 w.toNat)).flatten

/-- `n` bytes: the list, then zeros. -/
def padTo (n : Nat) (l : List Byte) : List Byte := sliceOf l 0 n

/-- Where a stream resumes. -/
def Stream.resumeAt (t : Stream) : Word :=
  match t.entering with
  | some e => e.first
  | none => t.cmdStart

/-- An entry of the loop stack: start and end in words from the section's header. -/
def Stream.loopBytes (t : Stream) (e : LoopEntry) : List Byte :=
  let base := (t.sect.map (fun x => x.base.toNat)).getD 0
  bytesOf 2 ((e.start.toNat - base) / 4) ++ bytesOf 2 ((e.stop.toNat - base) / 4) ++ bytesOf 4 e.count.toNat ++ bytesOf 1 e.level.toNat ++
    List.replicate 7 0

/-- A stream's 768 bytes. -/
def Stream.saveBytes (t : Stream) (l : Letter) : List Byte :=
  let gs := if l = .a || l = .v then (t.g.toList.map (fun g => bytesOf 16 g.toNat)).flatten else List.replicate 256 0
  padTo 768 (bytesOf 8 t.resumeAt.toNat ++ wordBytes (t.s.toList.drop 1) ++ wordBytes t.b.toList ++ gs ++
    padTo 64 ((t.loops.map t.loopBytes).flatten) ++ wordBytes [t.sbase, t.slimit, t.tvec, t.tret, t.tcause] ++ bytesOf 1 t.callLevel.toNat)

/-- A task slot as `TASKST` reads it. -/
def TaskSlot.bits (x : TaskSlot) : Nat := x.ok * 2 ^ 16 + x.parked % 256 * 2 ^ 8 + x.state.val

/-- The job's own 256 bytes. -/
def Job.saveOwn (j : Job) : List Byte :=
  padTo 256 (wordBytes [j.fstat.setWidth 64, j.fen.setWidth 64, j.fmode.setWidth 64, j.fmbackoff] ++
    bytesOf 4 j.pval.toNat ++ bytesOf 4 j.pres.toNat ++
    (letters.map (fun l => bytesOf 2 (((j.stream l).rdv.map (fun n => n.val + 1)).getD 0))).flatten ++
    (j.slots.toList.map (fun x => bytesOf 8 x.bits)).flatten ++ (j.ports.toList.map (fun p => bytesOf 8 p.desc.toNat)).flatten ++
    bytesOf 8 j.specSel.toNat)

/-- A queue's 528 bytes. -/
def queueBytes (q : List Word) : List Byte := padTo 528 (bytesOf 8 q.length ++ wordBytes q)

/-- Bytes 0x0100 to 0x2FFF of a save area. -/
def Job.saveImage (j : Job) : List Byte :=
  padTo 0x2F00 ((letters.map (fun l => (j.stream l).saveBytes l)).flatten ++ j.saveOwn ++ padTo 512 (wordBytes j.tcfg.toList) ++
    (j.sems.toList.map (fun w => bytesOf 4 w.toNat)).flatten ++ (j.wbase.toList.map (fun w => bytesOf 4 w.toNat)).flatten ++
    (j.handles.toList.map (fun h => bytesOf 16 h.bits.toNat)).flatten ++ (j.queues.toList.map queueBytes).flatten)

/-- The pending `LAUNCHP` of a job: its word address and its record's window offset. -/
def State.pendingPool (s : State) (k : Nat) : Word × Nat :=
  match s.parkFlight k with
  | some (_, f, r, _) => (f.word, r.off)
  | none => (0, 0)

/-- The header (20 R469). -/
def State.saveHeader (s : State) (k reason : Nat) : List Byte :=
  let j := s.jobOf k
  let p := s.pendingPool k
  let num (l : Letter) : List Byte := bytesOf 2 (j.stream l).num ++ bytesOf 2 (((j.stream l).retired.map (·.toNat)).getD 0xFFFF)
  padTo 256 (bytesOf 4 0x53415645 ++ bytesOf 1 1 ++ bytesOf 1 reason ++ bytesOf 1 (j.acs.length * 2 + j.lease.toNat) ++ bytesOf 1 0 ++
    wordBytes [j.jobid, j.s7, j.cyc s.now] ++ (letters.map num).flatten ++ (if reason = 2 then wordBytes [p.1] ++ bytesOf 8 p.2 else []))

/-- The bytes from 0x0100 on. -/
def State.saveBody (s : State) (k : Nat) : List Byte :=
  let j := s.jobOf k
  let x := s.coreOf j.coreKey
  j.saveImage ++ ((List.range j.tileCount).map (fun t => s.tileRead j t 0 32768)).flatten ++ s.scrRead j 0 (j.scrSize * 65536) ++
    ((List.range j.acsRows).map (fun r => Store.read acsRow x.acs (acsPhys j.acs r * acsRow) acsRow)).flatten

/-- Whether the 128 bytes at offset `o` of the area come from poisoned bytes. -/
def State.saveBad (s : State) (k o : Nat) : Bool :=
  let j := s.jobOf k
  let t := 0x3000 + 32768 * j.tileCount
  let c := t + 65536 * j.scrSize
  if o < 0x3000 then false
  else if o < t then s.tileBad j 0 (o - 0x3000) 128
  else if o < c then s.scrBad j (o - t) 128
  else
    let r := (o - c) / 768
    (s.coreOf j.coreKey).acsBad (acsPhys j.acs r) ((o - c) % 768 / 4) 32

/-- Lines written in ascending order, with the offset of the first that meets a translation fault (20 R471). -/
def State.saveLines (s : State) (ctx va : Nat) (ls : List (Nat × List Byte × Bool)) : State × Option Nat :=
  match ls with
  | [] => (s, none)
  | (o, b, bad) :: r =>
    match s.vaParts ctx 2 (va + o) b.length with
    | none => (s, some o)
    | some ps => State.saveLines (s.writeParts ps b bad) ctx va r

/-- A save goes on from its next line: it ends, or stops at a fault. -/
def State.saveRun (s : State) (k : Nat) : State :=
  let j := s.jobOf k
  match j.save, j.saveArea with
  | some v, some va =>
    let body := s.saveBody k
    let ls := ((chunksOf 128 body.length body).zipIdx).map (fun e => (0x100 + 128 * e.2, e.1, s.saveBad k (0x100 + 128 * e.2)))
    let t := s.saveLines j.ctx va (ls.filter (fun e => v.off ≤ e.1))
    match t.2 with
    | none => (t.1.modJob k (fun j => { j with save := some { v with off := 0x100 + body.length } })).later .saveComplete { a := k }
    | some o => (t.1.modJob k (fun j => { j with save := some { v with off := o } })).later .saveLineFault { a := k }
  | _, _ => s

/-- A save begins. -/
def State.beginSave (s : State) (k reason : Nat) : State :=
  let j := s.jobOf k
  ((s.markVa j.ctx (j.saveArea.getD 0) (saveSize j.tileCount j.scrSize)).modJob k (fun j => { j with save := some ⟨reason, 0x100, 0, none⟩ })).saveRun k

/-- A save stops at a faulting line: the context is `SAVE_BLOCKED` and F7 is told (20 R471). -/
def execSaveLineFault (s : State) : Result :=
  let k := s.args.a
  let j := s.jobOf k
  .next (match j.save with
    | none => s
    | some v =>
      let n := v.blocks + 1
      let s1 := (s.modJob k (fun j => { j with save := some { v with blocks := n, since := some s.now } })).modCtx j.ctx
        (fun c => if c.state = .active || c.state = .stopped then { c with state := .saveBlocked } else c)
      let r := { s.recOf k 0 with vaddr := BitVec.ofNat 64 (j.saveArea.getD 0 + v.off) }
      (s1.send ⟨0x0501, 3, 7, [j.ctx], some r, none⟩ .msgSaveBlocked {}).post (if 5 ≤ n then 0 else 24000000) .saveBlockTimeout
        { a := k, b := n })

/-- A block of 10 ms, or a fifth block: capture before reset with cause 0xFFFE. -/
def execSaveBlockTimeout (s : State) : Result :=
  let g := s.args
  let j := s.jobOf g.a
  .next (match j.save with
    | none => s
    | some v => if v.since.isSome && v.blocks = g.b then s.freeze j.ctx causeSave else s)

/-- `STOPPED` once every job of the context is off the machine with its save complete, `ACTIVE` else (20 R456). -/
def State.settleCtx (s : State) (ctx : Nat) : State :=
  let js := s.jobsOf ctx
  let off := js.all (fun e => e.2.status = .parked || e.2.status = .preempted)
  let blocked := js.any (fun e => (e.2.save.map (fun v => v.since.isSome)).getD false)
  s.modCtx ctx (fun c =>
    if c.state = .active || c.state = .saveBlocked || c.state = .stopped then
      { c with state := if blocked then .saveBlocked else if off && !js.isEmpty then .stopped else .active }
    else c)

/-- A job gives up its core; what it is to get back on resume stands in its record. -/
def State.vacate (s : State) (k : Nat) : State :=
  let j := s.jobOf k
  let s1 := if (s.coreOf j.coreKey).array.holder = some (.cc j.cc) then s.endTerm j.coreKey else s
  let s2 := s1.modJob k (fun j => { j with acs := [], acsHeld := false, acsKeep := j.acs.length })
  ((s2.dropAcsWait j.coreKey (.job k)).freeAcs j.coreKey j.acs).unpost (fun m => m.isOf k)

/-- The header is written last, as a release; the job's core is free (01 R33, 20 R470). -/
def execSaveComplete (s : State) : Result :=
  let k := s.args.a
  let j := s.jobOf k
  .next (match j.save, j.saveArea with
    | some v, some va =>
      match s.vaWrite j.ctx va (s.saveHeader k v.reason) with
      | none => s.post 0 .saveLineFault { a := k }
      | some t =>
        let s1 := (t.vacate k).modJob k (fun j => { j with
          save := none, status := if v.reason = 2 then .parked else .preempted, leftAt := s.now, ready := v.reason = 1, parking := false
          preempt := none, cycBase := j.cycBase + (s.now - j.cycSince) })
        let s2 := (((s1.settleCtx j.ctx).askPlace j.die).noteIdle j.die)
        match s2.parkDie k with
        | none => s2
        | some d => s2.ensure 1 .poolGrant { a := d }
    | _, _ => s)

/-! ### Parking (01 R33) -/

/-- Whether a flight is a `LAUNCHP` that has found the pool full. -/
def Work.parks (w : Work) : Bool :=
  match w with
  | .pool r _ _ (some .full) => r.park
  | _ => false

/-- The job of a `LAUNCHP` that found the pool full: once every other command has reached its completion point, its state is saved. -/
def execJobPark (s : State) : Result :=
  let k := s.args.a
  let j := s.jobOf k
  .next (if !j.parking || !j.onCore || j.save.isSome then s
    else
      let others := s.flights.any (fun f => f.2.ref.job = k && !f.2.work.parks)
      if others || !s.drained j.coreKey j.ctx s.now then
        (if others then s else s.drainCtx j.coreKey j.ctx).post 1 .jobPark { a := k }
      else s.beginSave k 2)

/-! ### Pre-emption (01 R36, R37, 07 R194, 20 R473) -/

/-- Whether a pre-emption request is deferred: the job's context or launch has a barrier round that is not complete (07 R194). -/
def State.deferred (s : State) (j : Job) : Bool :=
  s.barriers.any (fun b => b.release.isNone &&
    ((b.scope = 0 && b.place = j.coreKey && b.owner = j.ctx) || (b.scope = 1 && b.place = j.die && b.owner = j.ctx) ||
      (b.scope = 2 && b.owner = j.ctx) || (b.scope = 3 && b.owner = j.launch)))

/-- F1 requests a job's pre-emption; `b` is one more than the cycle of a request that has been deferred. The stall timer runs from the
request. -/
def State.requestPreempt (s : State) (k b : Nat) : State :=
  let j := s.jobOf k
  let t := if b = 0 then s.now else b - 1
  if !j.onCore || j.spec.isSome || j.prologue || j.save.isSome || j.preempt.isSome then s
  else
    let s1 := if b = 0 then s.post 24000000 .preemptStall { a := k, b := t } else s
    if s.deferred j then s1.ensure 1 .preemptRequest { a := k, b := t + 1 }
    else (s1.modJob k (fun j => { j with preempt := some t })).ensure 1 .jobPreempted { a := k }

def execPreemptRequest (s : State) : Result := .next (s.requestPreempt s.args.a s.args.b)

/-- Whether an item of the array is of a job's command. -/
def ArrItem.ofJob (i : ArrItem) (k : Nat) : Bool :=
  match i with
  | .row j .. => j = k
  | _ => false

/-- Whether every command of a job has reached its completion point, an array command its K-step boundary (01 R37, 11 R304). -/
def State.settled (s : State) (k : Nat) : Bool :=
  let j := s.jobOf k
  let x := (s.coreOf j.coreKey).array
  !(s.flights.any (fun f => f.2.ref.job = k && f.2.work != .array)) && x.holder ≠ some (.cc j.cc) && !x.rows.any (fun r => r.item.ofJob k)

/-- The pre-emption of a job whose streams have all stopped: the array stops at its boundary, the buffers drain, and the state is
saved. -/
def execJobPreempted (s : State) : Result :=
  let k := s.args.a
  let j := s.jobOf k
  let x := (s.coreOf j.coreKey).array
  .next (if j.preempt.isNone || !j.onCore || j.save.isSome || j.frozen then s
    else if !j.allStopped then s.ensure 1 .jobPreempted { a := k }
    else if s.settled k && s.drained j.coreKey j.ctx s.now then s.beginSave k 1
    else
      let s1 := if x.holder = some (.cc j.cc) && x.loading ≤ s.now then s.endTerm j.coreKey else s
      (s1.drainCtx j.coreKey j.ctx).ensure 1 .jobPreempted { a := k })

/-- A stream's count exceeds its gap by more than 4,096 while pre-emption is pending (01 R38). -/
def execPreemptOverrun (s : State) : Result :=
  let r := s.args.ref
  .next (s.raise r { code := 14 } (s.strOf r).cmdStart 0)

/-- A stall timer of 24,000,000 cycles: the job's context is frozen with `PREEMPT_STALL` (20 R473). -/
def execPreemptStall (s : State) : Result :=
  let g := s.args
  let j := s.jobOf g.a
  let waits := j.preempt = some g.b || s.agenda.any (fun e => e.move == .event .preemptRequest { a := g.a, b := g.b + 1 })
  .next (if j.onCore && j.save.isNone && waits then s.freezeFor g.a j.ctx 54 else s)

/-! ### Resumption (01 R34, R40) -/

/-- 64-bit values from bytes. -/
def wordsFrom (b : List Byte) (o n : Nat) : List Word := (List.range n).map (fun i => BitVec.ofNat 64 (fieldOf b (o + 8 * i) 8))

/-- A vector with the values of a list. -/
def vecOf {α : Type} {n : Nat} (d : α) (l : List α) : Vector α n := Vector.ofFn (fun i => l.getD i.val d)

/-- A control register from a save area: its reserved bits read zero (00 R5). -/
def csrFrom (n : Nat) (b : List Byte) (o : Nat) : Word := BitVec.ofNat 64 (fieldOf b o 8) &&& csrMask n

/-- A stream with the registers of its 768 bytes. -/
def Stream.reload (t : Stream) (l : Letter) (b : List Byte) : Stream :=
  { t with
    s := vecOf 0 (0 :: wordsFrom b 8 31)
    b := vecOf 0 (wordsFrom b 256 8)
    g := if l = .a || l = .v then vecOf 0 ((List.range 16).map (fun i => (BitVec.ofNat 128 (fieldOf b (320 + 16 * i) 16)) &&& genMask)) else t.g
    sbase := csrFrom 0x008 b 640
    slimit := csrFrom 0x009 b 648
    tvec := csrFrom 0x010 b 656
    tret := csrFrom 0x011 b 664
    tcause := csrFrom 0x012 b 672 }

/-- A queue from its 528 bytes. -/
def queueFrom (b : List Byte) (o : Nat) : List Word := wordsFrom b (o + 8) (Nat.min 64 (fieldOf b o 8))

/-- A job with the registers of its save area, whose first 0x3000 bytes are `b`. -/
def Job.reload (j : Job) (b : List Byte) : Job :=
  let str (l : Letter) : Stream := (j.stream l).reload l (sliceOf b (0x100 + 768 * letterNum l) 768)
  { j with
    a := str .a
    m := str .m
    v := str .v
    x := str .x
    fstat := BitVec.ofNat 5 (fieldOf b 0xD00 8)
    fen := BitVec.ofNat 5 (fieldOf b 0xD08 8)
    fmode := BitVec.ofNat 3 (fieldOf b 0xD10 8)
    fmbackoff := csrFrom 0x018 b 0xD18
    pval := BitVec.ofNat 32 (fieldOf b 0xD20 4)
    pres := BitVec.ofNat 32 (fieldOf b 0xD24 4)
    tcfg := vecOf tcfgReset ((wordsFrom b 0xE00 48).map (fun w => w &&& csrMask 0x040))
    sems := vecOf 0 ((List.range 256).map (fun i => BitVec.ofNat 32 (fieldOf b (0x1000 + 4 * i) 4)))
    wbase := vecOf 0 ((List.range 256).map (fun i => BitVec.ofNat 32 (fieldOf b (0x1400 + 4 * i) 4)))
    handles := vecOf Handle.none ((List.range 32).map (fun i => Handle.ofBits (BitVec.ofNat 128 (fieldOf b (0x1800 + 16 * i) 16))))
    queues := vecOf [] ((List.range 8).map (fun i => queueFrom b (0x1A00 + 528 * i))) }

/-- Tiles and scratch of a resumed job, line by line with their poison. -/
def State.restoreUnits (s : State) (k : Nat) (b : List Byte) (bad : Nat → Bool) : State :=
  let j := s.jobOf k
  let t := 0x3000 + 32768 * j.tileCount
  let tiles := (List.range (256 * j.tileCount)).map (fun i => 0x3000 + 128 * i)
  let scr := (List.range (512 * j.scrSize)).map (fun i => t + 128 * i)
  let s1 := tiles.foldl (fun s o => s.tileWrite j 0 (o - 0x3000) (sliceOf b o 128) (bad o)) s
  scr.foldl (fun s o => s.scrWrite j (o - t) (sliceOf b o 128) (bad o)) s1

/-- Accumulator rows of a resumed job. -/
def State.restoreAcs (s : State) (k : Nat) (b : List Byte) (bad : Nat → Bool) : State :=
  let j := s.jobOf k
  let c := 0x3000 + 32768 * j.tileCount + 65536 * j.scrSize
  (List.range (6 * j.acsRows)).foldl (fun s i =>
    let o := c + 128 * i
    s.modCore j.coreKey (fun x => x.acsWrite (acsPhys j.acs (i / 6)) (32 * (i % 6))
      ((List.range 32).map (fun w => BitVec.ofNat 32 (fieldOf b (o + 4 * w) 4))) (bad o))) s

/-- Any other `LAUNCHP` of a resumed job that had found the pool full asks again. -/
def State.askPools (s : State) (k : Nat) : State :=
  (List.filter (fun e : Nat × Flight => e.2.ref.job = k && e.2.work.parks) s.flights).foldl (fun (s : State) e =>
    match e.2.work with
    | .pool r d p _ =>
      let j := s.jobOf k
      (s.modFlight e.1 (fun f => { f with work := .pool r d p none })).toPool e.1 (s.poolDie j r.queue) j.die
    | _ => s) s

/-- The `LAUNCHP` of a resumed job inserts its launch into the reserved entry and completes (11 R329). -/
def State.resumePool (s : State) (k : Nat) : State :=
  match s.parkFlight k with
  | none => s
  | some (n, f, r, d) =>
    let j := s.jobOf k
    let die := s.poolDie j r.queue
    let s1 := s.modDie die (fun x => { x with reserved := x.reserved.filter (fun y => y ≠ k) })
    if !(s.queueOf r.queue).launches j.part then (s1.flightError n { code := 51 }).ensure 1 .poolGrant { a := die }
    else
      let t := s1.insertLaunch r.queue r.record
      ((t.1.modRef f.ref (fun t' => t'.sput d t.2)).finish n 0).askPools k

/-- A stream fetches the header of its current section in the next cycle, and goes on 4 cycles after it has (01 R40). -/
def Stream.resumed (t : Stream) (now : Nat) : Stream :=
  { t with
    stopped := false, readyAt := now + 1
    entering := match t.entering, t.sect with
      | some e, _ => some { e with start := true }
      | none, some x => some ⟨x.base, t.pc, none, true⟩
      | none, none => none }

/-- A job on its new core (01 R40): its allotment is granted again (02 R66), its state is restored from a save area that is VALID, and its
streams go on. -/
def execJobResume (s : State) : Result :=
  let k := s.args.a
  let j := s.jobOf k
  let n := saveSize j.tileCount j.scrSize - 49152 * 32 + 49152 * j.acsKeep
  .next (if j.status ≠ .resuming || j.frozen then s
    else if j.acsKeep ≠ 0 && !j.acsHeld then (s.wantAcs j.coreKey (.job k) j.acsKeep).post 1 .jobResume { a := k }
    else
      match j.saveArea with
      | none => s
      | some va =>
        match s.vaRead j.ctx va n with
        | none => s.post 1 .jobResume { a := k }
        | some b =>
          if fieldOf b 4 1 ≠ 1 then s.post 1 .jobResume { a := k }
          else
            match (s.markVa j.ctx va n).vaWrite j.ctx (va + 4) [0] with
            | none => s.post 1 .jobResume { a := k }
            | some t =>
              let bad (o : Nat) : Bool := s.vaBad j.ctx (va + o) 128
              let s1 := (t.restoreUnits k b bad).restoreAcs k b bad
              let s2 := s1.modJob k (fun j =>
                let r := j.reload b
                { r with
                  status := .running, ready := false, parking := false, acsKeep := 0, code := []
                  a := r.a.resumed s.now, m := r.m.resumed s.now, v := r.v.resumed s.now, x := r.x.resumed s.now })
              let s3 := letters.foldl (fun s l => if ((s.jobOf k).stream l).ended then s else s.poll ⟨k, l⟩) (s2.resumePool k)
              if j.lease then s3.askArray j.coreKey else s3)

end Sys2Proof.Machine
end

