-- ==== Sys2Proof/Machine/Revoke.lean ====
section
/-! DEFINITION. What a changed mapping does to the handles that name it (02 R76, 14 R394, 20 R463): holders are stopped at pre-emption points, the
handles are revoked on the machine and in save areas, and speculations are discarded. -/

namespace Sys2Proof.Machine

/-- A changed range: of a context's virtual addresses, or of a VF's intermediate ones. -/
structure Change where
  stage2 : Bool
  id : Nat
  lo : Nat
  len : Nat
  deriving DecidableEq, Repr

/-- The change of a `MAP` or `UNMAP` whose entries are written: `a` and `b` are the range of the old leaves that it touches. -/
def Change.ofArgs (g : Args) : Change := ⟨fieldOf g.req.payload 2 1 = 1, fieldOf g.req.payload 0 2, g.a, g.b⟩

/-- The change that a move is carrying out: the second part of a mapping command or of a migration's switch. -/
def State.changeOf (s : State) (m : Move) : Option Change :=
  match m with
  | .event .mapStage1 g => if g.flag then some (Change.ofArgs g) else none
  | .event .mapStage2 g => if g.flag then some (Change.ofArgs g) else none
  | .event .unmapStage1 g => if g.flag then some (Change.ofArgs g) else none
  | .event .unmapStage2 g => if g.flag then some (Change.ofArgs g) else none
  | .event .migrationSwitch g => if g.flag then (s.migrations.find? g.a).map (fun x => ⟨true, x.vf, x.ipa, x.len⟩) else none
  | _ => none

/-- Whether a valid handle of a context names a page of the range: by its virtual addresses, or by the intermediate ones that stage 1 gives
them. -/
def State.hits (s : State) (c : Change) (ctx vf : Nat) (h : Handle) : Bool :=
  let va := h.vpn.toNat * 65536
  let n := pageBytes h.size.toNat
  h.valid &&
    (if c.stage2 then
      vf = c.id &&
        (match walk1 s.s1 ctx va with
         | .error _ => false
         | .ok l =>
           let ipa := entAddr l.ent + va % 2 ^ levelShift l.level
           overlap ipa n c.lo c.len)
    else ctx = c.id && overlap va n c.lo c.len)

/-- Whether job `k` holds such a handle, or has an `XLAT` under way that gives it one. -/
def State.holds (s : State) (c : Change) (k : Nat) (j : Job) : Bool :=
  (j.handles.toList ++ s.handlesComing k).any (fun h => s.hits c j.ctx j.vf h)

/-- A job that may not resume until a mapping change is done (20 R463 step 2). -/
def State.resumeHeld (s : State) (k : Nat) (j : Job) : Bool :=
  s.agenda.any (fun e =>
    match s.changeOf e.move with
    | none => false
    | some c => s.holds c k j)

/-- Real jobs on a core that hold a handle of the range. -/
def State.holders (s : State) (c : Change) : List Nat :=
  (List.filter (fun e : Nat × Job => (e.2.onCore || e.2.status = .resuming) && e.2.spec.isNone && !e.2.prologue && s.holds c e.1 e.2) s.jobs).map (·.1)

/-- F1 is asked to stop every holder (20 R463 step 2). -/
def State.stopHolders (s : State) (c : Change) : State := (s.holders c).foldl (fun s k => s.requestPreempt k 0) s

/-- A revoked handle (02 R76). -/
def Handle.revoke (h : Handle) : Handle := { h with valid := false, miss := missRevoked }

/-- The handles of the range in a job's save area, revoked there too. -/
def State.revokeSaved (s : State) (c : Change) (j : Job) : State :=
  match j.saveArea with
  | none => s
  | some va =>
    (List.range 32).foldl (fun s i =>
      match j.handles.toList[i]? with
      | none => s
      | some h => if s.hits c j.ctx j.vf h then (s.vaWrite j.ctx (va + 0x1800 + 16 * i) (bytesOf 16 h.revoke.bits.toNat)).getD s else s) s

/-- Every handle of the range is revoked, and every speculation that holds one is discarded (20 R463 steps 3 and 4). -/
def State.revoke (s : State) (c : Change) : State :=
  let js := List.filter (fun e : Nat × Job => s.holds c e.1 e.2) s.jobs
  let s1 := (js.filter (fun e => e.2.spec.isNone && !e.2.onCore)).foldl (fun s e => s.revokeSaved c e.2) s
  let clear (j : Job) : Job :=
    { j with handles := j.handles.map (fun h => if s.hits c j.ctx j.vf h then h.revoke else h) }
  let s2 := js.foldl (fun (t : State) e => if e.2.spec.isSome then t else t.modJob e.1 clear) s1
  js.foldl (fun (t : State) e => if e.2.spec.isSome then t.discardJob e.1 ucOther else t) s2

/-- Cached translations and kept walk results of the range go (20 R462). -/
def State.dropXlat (s : State) (c : Change) : State :=
  let gone (ctx : Nat) (h : Handle) : Bool := s.hits c ctx (s.vfOf ctx) h
  let stale (ctx vpn : Nat) : Bool :=
    if c.stage2 then s.vfOf ctx = c.id else ctx = c.id && overlap (vpn * 65536) 65536 c.lo c.len
  let core (x : Core) : Core :=
    { x with
      xlat := x.xlat.filter (fun e => !gone e.1 e.2.2)
      walks := List.filter (fun e : Nat × Walk => !stale e.2.ctx e.2.vpn) x.walks }
  { s with cores := s.cores.map (fun (e : Nat × Core) => (e.1, core e.2)) }

end Sys2Proof.Machine
end

