-- ==== Sys2Proof/Machine/Sha.lean ====
section
/-! DEFINITION. SHA-256 (FIPS 180-4), which the spec names for code hashes, images, partition digests and weight digests. -/

namespace Sys2Proof.Machine

/-- The greatest number that has its bits above bit `n` as in `x` and whose power `e` is at most `v`. -/
def rootDown (e v n x : Nat) : Nat :=
  match n with
  | 0 => x
  | n + 1 => rootDown e v n (if (x + 2 ^ n) ^ e ≤ v then x + 2 ^ n else x)

/-- The first 32 bits of the fraction of the `e`-th root of a number below 1,000. -/
def rootFraction (e p : Nat) : BitVec 32 := BitVec.ofNat 32 (rootDown e (p * 2 ^ (32 * e)) 37 0)

/-- The primes below 312, of which there are 64. -/
def smallPrimes : List Nat := (List.range 312).filter (fun p => 2 ≤ p && (List.range 18).all (fun d => d < 2 || p ≤ d || p % d ≠ 0))

/-- The round constants: from the cube roots of the first 64 primes. -/
def shaK : List (BitVec 32) := smallPrimes.map (rootFraction 3)

/-- A working value: a to h. -/
structure Sha where
  a : BitVec 32
  b : BitVec 32
  c : BitVec 32
  d : BitVec 32
  e : BitVec 32
  f : BitVec 32
  g : BitVec 32
  h : BitVec 32
  deriving DecidableEq, Repr

/-- The working value before the first block: from the square roots of the first 8 primes. -/
def Sha.start : Sha :=
  let r (p : Nat) : BitVec 32 := rootFraction 2 p
  ⟨r 2, r 3, r 5, r 7, r 11, r 13, r 17, r 19⟩

/-- One round with its constant and its message word. -/
def Sha.round (x : Sha) (k w : BitVec 32) : Sha :=
  let s1 := x.e.rotateRight 6 ^^^ x.e.rotateRight 11 ^^^ x.e.rotateRight 25
  let ch := (x.e &&& x.f) ^^^ (~~~x.e &&& x.g)
  let t1 := x.h + s1 + ch + k + w
  let s0 := x.a.rotateRight 2 ^^^ x.a.rotateRight 13 ^^^ x.a.rotateRight 22
  let maj := (x.a &&& x.b) ^^^ (x.a &&& x.c) ^^^ (x.b &&& x.c)
  ⟨t1 + (s0 + maj), x.a, x.b, x.c, x.d + t1, x.e, x.f, x.g⟩

/-- The message word after the 16 in `w`, newest first. -/
def shaNext (w : List (BitVec 32)) : BitVec 32 :=
  let a := w.getD 14 0
  let b := w.getD 1 0
  let s0 := a.rotateRight 7 ^^^ a.rotateRight 18 ^^^ (a >>> 3)
  let s1 := b.rotateRight 17 ^^^ b.rotateRight 19 ^^^ (b >>> 10)
  w.getD 15 0 + s0 + w.getD 6 0 + s1

/-- The schedule of a block: its 16 words, newest first, and `n` more. -/
def shaSchedule (n : Nat) (w : List (BitVec 32)) : List (BitVec 32) :=
  match n with
  | 0 => w
  | n + 1 => shaSchedule n (shaNext w :: w)

/-- The number that bytes spell, most significant first. -/
def beNat (l : List Byte) : Nat := natOf l.reverse

/-- The `n` bytes of a number, most significant first. -/
def beBytes (n w : Nat) : List Byte := (bytesOf n w).reverse

/-- A block of 64 bytes. -/
def Sha.block (x : Sha) (b : List Byte) : Sha :=
  let w := (List.range 16).map (fun i => BitVec.ofNat 32 (beNat ((b.drop (4 * i)).take 4)))
  let y := (List.zip shaK (shaSchedule 48 w.reverse).reverse).foldl (fun y p => y.round p.1 p.2) x
  ⟨x.a + y.a, x.b + y.b, x.c + y.c, x.d + y.d, x.e + y.e, x.f + y.f, x.g + y.g, x.h + y.h⟩

/-- `n` blocks. -/
def Sha.blocks (n : Nat) (x : Sha) (l : List Byte) : Sha :=
  match n with
  | 0 => x
  | n + 1 => Sha.blocks n (x.block (l.take 64)) (l.drop 64)

/-- The digest, 32 bytes. -/
def sha256 (l : List Byte) : List Byte :=
  let n := l.length
  let m := l ++ [0x80] ++ List.replicate ((119 - n % 64) % 64) 0 ++ beBytes 8 (8 * n)
  let x := Sha.blocks (m.length / 64) Sha.start m
  ([x.a, x.b, x.c, x.d, x.e, x.f, x.g, x.h].map (fun w => beBytes 4 w.toNat)).flatten

end Sys2Proof.Machine
end

