-- ==== Sys2Proof/Machine/Place.lean ====
section
/-! DEFINITION. Launches from their start to their completion (01 R10 to R17, R25 to R32, 15 R398, 19 R436 to R442), the placement of jobs (01 R29,
R30, R44, R45), and the loading of epilogues (19 R446). -/

namespace Sys2Proof.Machine

/-! ### The end of a launch (01 R27, 19 R438) -/

/-- Lines that jobs of a launch wrote drain from every core's buffer. -/
def State.drainLaunch (s : State) (k : Nat) : State :=
  s.cores.foldl (fun (t : State) (e : Nat × Core) =>
    (e.2.combine.filter (fun c => c.launches.contains k)).foldl (fun t c => t.drainLine e.1 c.line c.ctx) t) s

/-- The completion word: one write under `RC` rules. One that does not translate, or lacks WR, is recorded by F3. (DESIGN CHOICE, log 27) -/
def State.writeCompl (s : State) (l : Launch) (status detail : Nat) : State :=
  let a := recCompl l.record
  if a = 0 then s
  else
    match s.vaWrite l.ctx a (bytesOf 8 (l.seq.toNat * 2 ^ 32 + detail % 256 * 2 ^ 16 + status)) with
    | some t => t
    | none =>
      let r : ErrRec := { code := 0, reason := 0, stream := 0xFF, trap := 0, more := 0, jobid := 0, launch := launchId l.queue l.seq, word := 0
                          opc := 0, num := 0, ha := 255, hb := 255, vaddr := BitVec.ofNat 64 a, paddr := 0, time := s.ptpt }
      { s with errors := s.errors ++ [r] }

/-- Clears HOLD where a launch of the queue has held it (19 R442). -/
def State.clearHold (s : State) (l : Launch) : State :=
  if l.again || l.repeats ≠ 0 then (s.modQueue l.queue (fun e => { e with hold := false })).ensure 1 .poolGrant { a := l.die } else s

/-- A launch completes with a status: its entry is freed, what its jobs wrote is performed, and the completion word is written as a release
in the next cycle. A launch with a write that a lost die dropped does not complete `OK` (20 R480). -/
def State.finishLaunch (s : State) (k status detail : Nat) : State :=
  match s.launches.find? k with
  | none => s
  | some l =>
    if l.state = .finishing then s
    else
      let s0 := s.drainLaunch k
      if status = 1 && (s.ctxOf l.ctx).state ≠ .frozen && (s0.ctxOf l.ctx).state = .frozen then s0
      else
      let s1 := (s0.freePool k).modLaunch k (fun l => { l with state := .finishing, status := some (status, detail), again := false })
      ((s1.clearHold l).tryStart l.queue).sched 1 (.word k)

/-- The completion word of a launch is written; the wake follows once that is performed (01 R27). -/
def State.complWord (s : State) (k : Nat) : State :=
  match s.launches.find? k with
  | none => s
  | some l =>
    match l.status with
    | none => s
    | some (status, detail) => (s.writeCompl l status detail).later .wakeTargetStore { a := k }

/-- Every job of a launch has completed: a speculative one waits for its claim, a repeating one runs its prologue again (19 R442). -/
def State.launchDone (s : State) (k : Nat) : State :=
  match s.launches.find? k with
  | none => s
  | some l =>
    if l.spec.isSome then s
    else if l.again then (s.freePool k).post 1 .prologueRepeat { a := k }
    else s.finishLaunch k 1 0

/-- The wake target's store or MSI-X message (19 R437); the launch is over, and its context may be `EMPTY` again. -/
def execWakeTargetStore (s : State) : Result :=
  let k := s.args.a
  .next (match s.launches.find? k with
    | none => s
    | some l =>
      let w := recWaket l.record
      let s1 := State.restCtx { s with launches := s.launches.erase k } l.ctx
      if l.state ≠ .finishing then s
      else if natBits w 62 2 = 1 then
        let pkg := natBits w 44 12
        let g : Args := { a := natBits w 32 12, b := l.part + 1, word := BitVec.ofNat 64 (w % 2 ^ 32) }
        if pkg = s.pkg then s1.later .wakeRegisterStore g
        else s1.later .wakeRegisterStore { g with word := BitVec.ofNat 64 (pkg * 2 ^ 32 + w % 2 ^ 32), flag := true }
      else if natBits w 62 2 = 2 then
        { s1 with outbox := s1.outbox ++ [.msix (if l.vf = 0xFF then none else some l.vf) (w % 64)] }
      else s1)

/-! ### The checks of a record (19 R439) -/

/-- Compute dies of a partition, rising (01 R14). -/
def State.diesOf (s : State) (p : Nat) : List Nat := (List.range 8).filter (fun d => s.holdsGranule p (2 * d) || s.holdsGranule p (2 * d + 1))

/-- DETAIL 1: reserved fields, alignment, wake target. -/
def recBad (vf : Nat) (r : List Byte) : Bool :=
  let w := recWaket r
  let c := recCtrl r
  fieldOf r 60 4 ≠ 0 || recDesc r % 64 ≠ 0 || 2 ^ 48 ≤ recDesc r || c.testBit 35 || natBits c 24 6 ≠ 0 || natBits c 0 16 ≠ 0 ||
    natBits (fieldOf r 56 4) 24 7 ≠ 0 || (if recArgptr r then recArgp r % 64 ≠ 0 else recArgp r ≠ 0) || natBits w 62 2 = 3 ||
    natBits w 56 6 ≠ 0 || (natBits w 62 2 = 2 && (natBits w 6 26 ≠ 0 || (vf ≠ 0xFF && 15 < w % 64)))

/-- The argument block as the launch reads it. -/
def State.readArgs (s : State) (l : Launch) : Option (List Byte) :=
  if recArgptr l.record then
    if s.vaBad l.ctx (recArgp l.record) 64 then none else s.vaRead l.ctx (recArgp l.record) 64
  else some (recArgs l.record)

/-- Checks 1 to 5 in order: the DETAIL of the first that fails, or the descriptor and the arguments. -/
def State.recordCheck (s : State) (l : Launch) : Except Nat (KDesc × List Byte) :=
  if recBad l.vf l.record then .error 1
  else if recGap l.record < 1024 then .error 2
  else if recPart l.record ≠ l.part then .error 3
  else
    match s.readDesc l.ctx (recDesc l.record) with
    | none => .error 4
    | some k =>
      match s.readArgs l with
      | none => .error 5
      | some b => .ok (k, b)

/-- Loop levels with their trip counts. -/
def Launch.levels (l : Launch) : List (Nat × Nat) :=
  match l.desc with
  | none => []
  | some k => List.zip k.kinds.toList l.trips.toList

/-- Jobs of a launch: the product of the spatial trip counts (01 R12). -/
def spatialCount (ls : List (Nat × Nat)) : Nat := ((ls.filter (fun p => p.1 = 2 || p.1 = 3)).map (·.2)).foldl (· * ·) 1

/-- Checks 7 and 8: 0 where both pass. -/
def State.laterCheck (s : State) (l : Launch) : Nat :=
  match l.desc with
  | none => 4
  | some k =>
    let ds := s.diesOf l.part
    if (List.zip l.levels k.bounds.toList).any (fun p => p.1.1 ≠ 0 && p.2 < p.1.2) || 1048576 < spatialCount l.levels then 7
    else if (if k.kinds.toList.contains 3 then ds.isEmpty else !ds.contains l.die) then 8
    else 0

/-! ### The jobs of a launch (01 R12 to R16) -/

/-- s1 to s4 of job `n` and what is left of it: the highest-numbered spatial level varies fastest (01 R13, R15). -/
def spread (ls : List (Nat × Nat)) (n : Nat) : List Nat × Nat :=
  match ls with
  | [] => ([], n)
  | (k, t) :: r =>
    let p := spread r n
    if k = 2 || k = 3 then (p.2 % t :: p.1, p.2 / t) else ((if k = 1 then t else 0) :: p.1, p.2)

/-- s0 to s31 at job start (01 R15). -/
def startRegs (levels : List Nat) (n : Nat) (id : Word) : Vector Word 32 :=
  vecOf 0 (0 :: levels.map (BitVec.ofNat 64) ++ [0, BitVec.ofNat 64 n, id])

/-- Job `n` of a launch, not yet placed. -/
def State.makeJob (s : State) (k : Nat) (l : Launch) (d : KDesc) (n : Nat) : Job :=
  let idx := (spread l.levels n).1
  let dies := s.diesOf l.part
  let die := match ((List.zip d.kinds.toList idx).find? (fun p => p.1 = 3)).map (·.2) with
    | none => l.die
    | some i => dies.getD (i % dies.length) l.die
  let id := launchId l.queue l.seq
  let regs := startRegs idx n id
  let str (i : Fin 4) : Stream := Stream.start d.entry[i] regs (BitVec.ofNat 64 d.sbase) (BitVec.ofNat 64 d.slimit)
  { Job.blank with
    launch := k, part := l.part, ctx := l.ctx, vf := s.vfOf l.ctx, jobNo := n, pkg := s.pkg, s7 := id, die := die, scrSize := d.scratch
    tileCount := d.tiles, status := .created, spec := l.spec, prio := recPrio l.record, gapMax := recGap l.record
    a := str 0, m := str 1, v := str 2, x := str 3 }

/-- A job record added. -/
def State.addJob (s : State) (j : Job) : State :=
  { s.newId with jobs := s.jobs.set s.nextId j }

/-- The jobs of a launch that is to be placed exist, and the schedulers of their dies look for cores; one without jobs is complete. -/
def State.expand (s : State) (k : Nat) : State :=
  match s.launches.find? k with
  | none => s
  | some l =>
    match l.desc with
    | none => s
    | some d =>
      if l.state ≠ .placing || l.created ≠ 0 || (l.jobs = 0 && l.spec.isSome) then s
      else if l.jobs = 0 then (s.modLaunch k (fun l => { l with state := .running })).launchDone k
      else
        let js := (List.range l.jobs).map (s.makeJob k l d)
        let s1 := (js.foldl State.addJob s).modLaunch k (fun l => { l with created := l.jobs })
        js.foldl (fun s j => s.askPlace j.die) s1

/-- A speculation of a sequence on a die. -/
def State.specFor (s : State) (die q : Nat) (seq : BitVec 32) : Option Nat :=
  (List.find? (fun e : Nat × Spec => e.2.queue = q && e.2.seq = seq && e.2.state = .running) (s.dieOf die).specs).map (fun e => die * 8 + e.1)

/-- Steps 4 to 6 of 19 R440. -/
def State.proceed (s : State) (k : Nat) : State :=
  match s.launches.find? k with
  | none => s
  | some l =>
    let e := s.laterCheck l
    if e ≠ 0 then s.finishLaunch k 2 e
    else
      let n := spatialCount l.levels
      let s1 := s.modLaunch k (fun l => { l with jobs := n, created := 0, placed := 0, completed := 0 })
      match s.specFor l.die l.queue l.seq with
      | some i => (s1.modLaunch k (fun l => { l with state := .claiming, spec := some i })).post 0 .claimAttempt { a := k }
      | none => (s1.modLaunch k (fun l => { l with state := .placing })).expand k

/-- A launch that may start reads its descriptor and its arguments; once both have returned, it is checked (19 R440). A context that was
`EMPTY` is `ACTIVE` (20 R456). -/
def execLaunchStart (s : State) : Result :=
  let k := s.args.a
  .next (match s.launches.find? k with
    | none => s
    | some l =>
      if l.state = .pending && s.startable l.queue = some k then
        let s0 := (s.markVa l.ctx (recDesc l.record) 128).markVa l.ctx (recArgp l.record) (if recArgptr l.record then 64 else 0)
        let s1 := s0.modCtx l.ctx (fun c => if c.state = .empty then { c with state := .active } else c)
        (s1.modLaunch k (fun l => { l with state := .starting })).later .launchStart { a := k }
      else if l.state = .starting then
        match s.recordCheck l with
        | .error e => s.finishLaunch k 2 e
        | .ok (d, b) =>
          let s1 := s.modLaunch k (fun l => { l with desc := some d, args := b, trips := Vector.ofFn (fun i => recTrip l.record i.val) })
          if recProlog l.record = 0 then s1.proceed k
          else ((s1.modLaunch k (fun l => { l with state := .prologue })).modDie l.die
            (fun x => { x with prologueQ := x.prologueQ ++ [k] })).post 0 .prologueRun { a := k }
      else s)

/-! ### Prologues (15 R398, 19 R441, R442) -/

/-- A place of its own for a die's scalar unit among the cores. -/
def scalarUnit : Nat := 1000

/-- The prologue's job: its `X` stream alone runs, over 64 bytes of scratch. (DEDUCED, log 48) -/
def State.prologueJob (s : State) (k : Nat) (l : Launch) : Job :=
  let id := launchId l.queue l.seq
  let regs := (startRegs l.trips.toList 0 id)
  { Job.blank with
    launch := k, part := l.part, ctx := l.ctx, vf := s.vfOf l.ctx, pkg := s.pkg, s7 := id, die := l.die, core := scalarUnit, scrSize := 1
    status := .running, prio := recPrio l.record, gapMax := recGap l.record, cycSince := s.now, prologue := true
    x := Stream.start (BitVec.ofNat 64 (recProlog l.record)) regs 0 0 }

/-- The prologue of a launch that stands first in its die's queue begins. -/
def State.startPrologue (s : State) (k : Nat) (l : Launch) : State :=
  let j := s.prologueJob k l
  let n := s.nextId
  let s1 := (s.addJob j).modCore j.coreKey (fun x => { x with scratch := Store.empty })
  ((s1.scrWrite j 0 l.args false).modDie l.die (fun x => { x with prologue := some k, prologueQ := x.prologueQ.drop 1 })).poll ⟨n, .x⟩

/-- The prologue has ended: its job goes, and the next one of the die begins. -/
def State.endPrologue (s : State) (die n : Nat) : State :=
  let s1 := (s.dropJob n).modDie die (fun x => { x with prologue := none })
  match (s1.dieOf die).prologueQ with
  | [] => s1
  | k :: _ => s1.post 0 .prologueRun { a := k }

/-- The exit of a prologue by s8. -/
def State.prologueExit (s : State) (k : Nat) (l : Launch) (j : Job) : State :=
  let v := (j.x.sget 8).toNat
  let go (s : State) : State := (s.modLaunch k (fun l => { l with
    trips := Vector.ofFn (fun i => ((j.x.s.toList.getD (i.val + 1) 0).toNat)), args := s.scrRead j 0 64 })).proceed k
  if v = 0 || (v = 2 && recRepeat l.record ≤ l.repeats) then
    go ((s.clearHold l).modLaunch k (fun l => { l with again := false }))
  else if v = 2 then go ((s.modQueue l.queue (fun e => { e with hold := true })).modLaunch k (fun l => { l with again := true }))
  else if v = 1 then s.finishLaunch k (if l.repeats = 0 then 3 else 1) 0
  else s.finishLaunch k 2 6

/-- A prologue begins, or has ended and its exit is taken; any error ends it, with DETAIL 6. -/
def execPrologueRun (s : State) : Result :=
  let k := s.args.a
  .next (match s.launches.find? k with
    | none => s
    | some l =>
      match (s.dieOf l.die).prologue with
      | none => if !(s.dieOf l.die).lost && l.state = .prologue && (s.dieOf l.die).prologueQ.head? = some k then s.startPrologue k l else s
      | some p =>
        if p ≠ k then s
        else
          match List.find? (fun e : Nat × Job => e.2.prologue && e.2.launch = k) s.jobs with
          | none => s
          | some (n, j) =>
            if j.error.isSome then (s.endPrologue l.die n).finishLaunch k 2 6
            else if j.x.ended then (s.prologueExit k l j).endPrologue l.die n
            else s)

/-- A repeating launch has completed: its prologue runs again, with what the previous run left, once the pool has an entry. -/
def execPrologueRepeat (s : State) : Result :=
  let k := s.args.a
  .next (match s.launches.find? k with
    | none => s
    | some l =>
      if !l.again || l.held || l.completed < l.jobs then s
      else if !s.poolRoom l.die l.part then s.post 1 .prologueRepeat { a := k }
      else ((s.modLaunch k (fun l => { l with
          state := .prologue, held := true, freed := none, again := false, repeats := l.repeats + 1 })).modDie l.die
        (fun x => { x with prologueQ := x.prologueQ ++ [k] })).post 0 .prologueRun { a := k })

/-! ### Epilogues (13 R367, 19 R446) -/

/-- Whether a word may stand in an epilogue (13 R367). -/
def epiWordOk (i : Instr) : Bool :=
  match i with
  | .nop _ | .ext _ | .gbase _ | .gcount _ | .gcountRow _ | .gstride _ | .gfmt _ | .gcfgMov _ => true
  | _ => (vecFormOf i).isSome

/-- Whether a word's guard is p0, not negated, with no wait and no signal. -/
def plainWord (w : Nat) : Bool :=
  let c := ctlOf w
  guardOf c = 0 && !c.neg && c.wait.isNone && c.sig.isNone

/-- The s registers that a command of an epilogue names. -/
def epiRegs (i : Instr) : List SReg :=
  match i with
  | .gbase o | .gcount o | .gcountRow o | .gstride o | .gfmt o => [o.a]
  | .vcompact o => [o.n]
  | _ => ((vecFormOf i).map (fun f => f.srcs.filterMap (fun x =>
      match x with
      | .gen _ => none
      | .scalar r _ => some r))).getD []

/-- Whether a command names no s register but s0. -/
def onlyS0 (i : Instr) : Bool := (epiRegs i).all (fun r => r = 0)

/-- The words of an epilogue, each allowed there. -/
def epiWordsOk (ws : List (BitVec 96)) (ext : Option Word) : Bool :=
  match ws with
  | [] => true
  | w :: r =>
    let one (x : Except Nat Instr) (rest : Bool) : Bool :=
      match x with
      | .error _ => false
      | .ok i => epiWordOk i && onlyS0 i && rest
    if opcOf w.toNat = opcExt then
      match decodeCommand .v ext w.toNat none with
      | .ok (.ext v) => epiWordsOk r (some v)
      | _ => false
    else if wordsOf w.toNat = 2 && ext.isNone then
      match r with
      | [] => false
      | w2 :: r2 => plainWord w.toNat && one (decodeCommand .v ext w.toNat (some w2.toNat)) (epiWordsOk r2 none)
    else plainWord w.toNat && one (decodeCommand .v ext w.toNat none) (epiWordsOk r none)

/-- An epilogue at an address of a context, checked against its code hash and the rules of 13 R367; its words. -/
def State.readEpilogue (s : State) (ctx : Nat) (hash : Word) (a : Nat) : Option (List (BitVec 96)) :=
  match s.vaRead ctx a 8 with
  | none => none
  | some hb =>
    let x : Section := ⟨BitVec.ofNat 64 a, BitVec.ofNat 64 (natOf hb)⟩
    match s.vaRead ctx a (8 + 12 * x.len) with
    | none => none
    | some b =>
      let ws := (List.range x.len).map (fun i => BitVec.ofNat 96 (fieldOf b (8 + 12 * i) 12))
      let plain := x.hdr.toNat % 2 ^ 56 = 0xFFF * 2 ^ 32 + 0xFFF * 2 ^ 20 + 0xFFF * 2 ^ 8
      if s.vaBad ctx a (8 + 12 * x.len) || !plain || fieldOf (sha256 b) 0 8 ≠ hash.toNat || !epiWordsOk ws none then none else some ws

/-- The entries of a descriptor's epilogue list. -/
def State.epiList (s : State) (ctx : Nat) (d : KDesc) : List (Word × Nat) :=
  (List.range d.epin).filterMap (fun i => (s.vaRead ctx (d.epilist.toNat + 16 * i) 16).map (fun b => (BitVec.ofNat 64 (fieldOf b 0 8), fieldOf b 8 8)))

/-- The loader takes up the epilogues of a placed kernel that are not in the core's table (19 R446). (DESIGN CHOICE, log 44) -/
def State.loadEpilogues (s : State) (k : Nat) (d : KDesc) : State :=
  let j := s.jobOf k
  (s.epiList j.ctx d).foldl (fun (s : State) e =>
    let x := s.coreOf j.coreKey
    if x.epilogues.any (fun p => p.hash = e.1) then s
    else if x.loading.any (fun l => l.hash = e.1) then
      s.modCore j.coreKey (fun x => { x with loading := x.loading.map (fun l => if l.hash = e.1 then { l with jobs := l.jobs ++ [k] } else l) })
    else
      match s.readEpilogue j.ctx e.1 e.2 with
      | none => s
      | some ws =>
        (s.modCore j.coreKey (fun x => { x with loading := x.loading ++ [⟨e.1, [k], s.now + 1 + Config.delay s.ticket, ws⟩] })).draw)
    (s.settleEpilogues j.coreKey)

/-! ### Placement (01 R29, R30, R44, R45) -/

/-- Whether a job holds a control core, tiles and scratch; those of a completed job are free in the cycle after (01 R26). -/
def Job.resident (j : Job) (now : Nat) : Bool :=
  !j.prologue && (j.status = .running || j.status = .resuming || (j.status = .done && j.leftAt = now))

/-- Jobs that hold units of a core. -/
def State.residents (s : State) (core : Nat) : List (Nat × Job) :=
  List.filter (fun e : Nat × Job => e.2.coreKey = core && e.2.resident s.now) s.jobs

/-- The lowest run of `n` units below `size` that shares none with the runs of `l`. -/
def fitRun (l : List (Nat × Nat)) (size n : Nat) : Option Nat :=
  (List.range (size + 1 - n)).find? (fun b => decide (b + n ≤ size) && l.all (fun e => e.2 = 0 || n = 0 || decide (b + n ≤ e.1) || decide (e.1 + e.2 ≤ b)))

/-- A place for a job: core, control core, tile base, scratch base, and the speculations it displaces. -/
structure Spot where
  core : Nat
  cc : Nat
  tile : Nat
  scr : Nat
  out : List Nat
  deriving DecidableEq, Repr

/-- A first choice, and a second where speculative holders may be displaced. -/
def orElse (a b : Option Nat) (disp : Bool) : Option Nat :=
  match a with
  | some v => some v
  | none => if disp then b else none

/-- The place that core `c` of die `d` has for a job; free units come before those that speculative jobs hold. -/
def State.spotOn (s : State) (j : Job) (disp : Bool) (c : Nat) : Option Spot :=
  let all := (s.residents (coreKey j.die c)).map (·.2)
  let real := all.filter (fun r => r.spec.isNone)
  let cc (l : List Job) : Option Nat := (List.range 4).find? (fun n => !l.any (fun r => r.cc = n))
  let tiles (l : List Job) : Option Nat := fitRun (l.map (fun r => (r.tileBase, r.tileCount))) 48 j.tileCount
  let scr (l : List Job) : Option Nat := fitRun (l.map (fun r => (r.scrBase, r.scrSize))) 128 j.scrSize
  match orElse (cc all) (cc real) disp, orElse (tiles all) (tiles real) disp, orElse (scr all) (scr real) disp with
  | some n, some t, some u =>
    let hit (r : Job) : Bool :=
      r.cc = n || overlap r.tileBase r.tileCount t j.tileCount || overlap r.scrBase r.scrSize u j.scrSize
    some ⟨c, n, t, u, ((all.filter (fun r => r.spec.isSome && hit r)).filterMap (·.spec)).foldl NatSet.insert []⟩
  | _, _, _ => none

/-- The core that the scheduler takes: the first eligible one from the start position on, without displacement where there is one. -/
def State.spotFor (s : State) (j : Job) : Option Spot :=
  let cs := ((List.range 16).map (fun i => ((s.dieOf j.die).rot + i) % 16)).filter (fun c => s.partAt (coreKey j.die c) = some j.part)
  match cs.findSome? (s.spotOn j false) with
  | some p => some p
  | none => if j.spec.isSome then none else cs.findSome? (s.spotOn j true)

/-- Fresh bits of a job's windows where their previous holder belonged to another context (02 R53), and the new holder. -/
def Core.freshFor (x : Core) (j : Job) : Core :=
  let scr := (List.range j.scrSize).map (fun i => j.scrBase + i)
  let tiles := (List.range j.tileCount).map (fun i => j.tileBase + i)
  let other (m : Map Nat) (u : Nat) : Bool :=
    match m.find? u with
    | none => false
    | some c => c ≠ j.ctx
  let x1 := (scr.filter (other x.scrLast)).foldl (fun (x : Core) u => { x with scratch := Store.refresh x.scratch (u * 1024) 1024 }) x
  let x2 := (tiles.filter (other x.tileLast)).foldl (fun (x : Core) u => { x with tiles := Store.refresh x.tiles (u * 128) 128 }) x1
  { x2 with scrLast := scr.foldl (fun m u => Map.set m u j.ctx) x2.scrLast
            tileLast := tiles.foldl (fun m u => Map.set m u j.ctx) x2.tileLast }

/-- The state of a new job as the context engine has set it (01 R17): its argument block stands in its scratch window, and its streams fetch their
headers from the next cycle on. -/
def State.beginJob (s : State) (k : Nat) : State :=
  match s.jobs.find? k with
  | none => s
  | some j =>
    let b := ((s.launches.find? j.launch).map (·.args)).getD []
    letters.foldl (fun s r => s.poll ⟨k, r⟩) (s.scrWrite j 0 b false)

/-- A new job starts (01 R15, R17): its state is set in the cycles 1 to 6; its epilogues are loaded, and its launch counts it. -/
def State.startJob (s : State) (k : Nat) (l : Launch) : State :=
  let j := s.jobOf k
  let late (t : Stream) : Stream := { t with readyAt := s.now + 7 }
  let s3 := (s.modJob k (fun j => { j with a := late j.a, m := late j.m, v := late j.v, x := late j.x })).sched 6 (.begin k)
  let s4 := (match l.desc with
    | none => s3
    | some d => s3.loadEpilogues k d)
  let s5 := s4.modLaunch j.launch (fun l => { l with
    placed := l.placed + 1, started := true, state := if l.jobs ≤ l.placed + 1 && l.state = .placing then .running else l.state })
  if l.spec.isSome then s5
  else
    let s6 := if l.started then s5
      else (s5.freePool j.launch).modQueue l.queue (fun e => { e with lastStart := l.seq })
    s6.tryStart l.queue

/-- The job takes its place: displaced speculations are discarded in the same cycle, and no copy that its core holds for its context is older than
its launch (11 R330). -/
def State.placeAt (s : State) (k : Nat) (p : Spot) : State :=
  let j0 := s.jobOf k
  let s1 := p.out.foldl (fun s n => s.discard n ucDisplaced) s
  let s2 := s1.modJob k (fun j => { j with
    core := p.core, cc := p.cc, tileBase := p.tile, scrBase := p.scr, waiting := none
    status := if j.status = .created then .running else .resuming, cycSince := s.now, leftAt := s.now })
  let j := s2.jobOf k
  let s3 := ((s2.dropCopies j.coreKey j.ctx).modCore j.coreKey (fun x => x.freshFor j)).modDie j.die (fun d => { d with
    rot := (d.rot + 1) % 16, blocking := d.blocking.filter (fun b => b ≠ k), gated := false })
  if j0.status = .created then
    match s3.launches.find? j.launch with
    | none => s3
    | some l => s3.startJob k l
  else (s3.modCtx j.ctx (fun c => if c.state = .stopped then { c with state := .active } else c)).later .jobResume { a := k }

/-- Whether a job has left its core and is to resume. -/
def Job.away (j : Job) : Bool := j.status = .parked || j.status = .preempted

/-- The priority at which a job that resumes stands before new jobs: the highest of its own and of those that left after it, since these do not go
before it. (DEDUCED, log 47) -/
def Job.resumePrio (j : Job) (l : List (Nat × Job)) : Nat :=
  (l.filter (fun e => e.2.away && e.2.spec.isNone && j.leftAt ≤ e.2.leftAt)).foldl (fun p e => max p e.2.prio) j.prio

/-- Order of placement (01 R30, R44) among the jobs `l` that are ready: real before speculative; jobs that resume by the cycle in which they left,
ahead of new ones of equal or lower priority; new ones by priority, launches by age, and jobs by number. A claimed launch is as old as its
speculation. (DEDUCED, log 47) -/
def Job.placeRank (j : Job) (l : List (Nat × Job)) : List Nat :=
  if j.away then [0, 7 - j.resumePrio l, 0, j.leftAt, j.jobNo] else [(if j.spec.isSome then 1 else 0), 7 - j.prio, 1, j.launch, j.jobNo]

/-- Jobs of a die that are ready to be placed, in order. -/
def State.candidates (s : State) (die : Nat) : List (Nat × Job) :=
  let ok (k : Nat) (j : Job) : Bool :=
    j.die = die && !j.frozen && s.ctxRuns j.ctx && (j.status = .created || (j.away && j.ready && !s.resumeHeld k j))
  let l := List.filter (fun e : Nat × Job => ok e.1 e.2) s.jobs
  let before (x y : Nat × Job) : Bool := rankBefore (x.2.placeRank l) (y.2.placeRank l)
  l.foldl (fun r x => r.takeWhile (fun y => !before x y) ++ x :: r.dropWhile (fun y => !before x y)) []

/-- Whether a speculation's claim is being attempted: its jobs are to be real ones (01 R47), and are placed with a save area. -/
def State.isClaiming (s : State) (n : Nat) : Bool := ((s.specOf n).map (fun x => decide (x.state = .claiming))).getD false

/-- One job of the order is tried; the second component tells that the scheduler goes no further on this die (01 R30). -/
def State.tryPlace (s : State) (die k : Nat) : State × Bool :=
  let j := s.jobOf k
  let stop := (s.dieOf die).blocking.contains k
  if j.status ≠ .created && j.status ≠ .parked && j.status ≠ .preempted then (s, false)
  else
    match s.spotFor j with
    | none =>
      if j.spec.isSome || j.waiting.isSome then (s, stop)
      else ((s.modJob k (fun j => { j with waiting := some s.now })).post 65536 .placementWaitLimit { a := die, b := k }, stop)
    | some p =>
      if (j.spec.map (fun n => !s.isClaiming n)).getD false then (s.placeAt k p, false)
      else
        match s.reserveSave k with
        | none => (s, stop)
        | some t => (t.placeAt k p, false)

def State.placeAll (s : State) (die : Nat) (ks : List Nat) : State :=
  match ks with
  | [] => s
  | k :: r =>
    let t := s.tryPlace die k
    if t.2 then t.1 else State.placeAll t.1 die r

/-- Completed jobs whose units are free now. -/
def State.sweepDone (s : State) : State :=
  { s with jobs := List.filter (fun e : Nat × Job => e.2.status ≠ .done || decide (s.now ≤ e.2.leftAt)) s.jobs }

/-- A die's scheduler places every job that fits, in its order. -/
def execJobPlacement (s : State) : Result :=
  let die := s.args.a
  let s1 := s.launches.foldl (fun (s : State) (e : Nat × Launch) => s.expand e.1) s.sweepDone
  .next (if (s.dieOf die).lost then s else s1.placeAll die ((s1.candidates die).map (·.1)))

/-- A job that has waited 65,536 cycles for a core: no job after it is placed on its die until it has been (01 R30). -/
def execPlacementWaitLimit (s : State) : Result :=
  let g := s.args
  .next (match (s.jobOf g.b).waiting with
    | none => s
    | some t =>
      if t + 65536 ≤ s.now && (s.jobs.find? g.b).isSome then
        s.modDie g.a (fun d => { d with blocking := if d.blocking.contains g.b then d.blocking else d.blocking ++ [g.b] })
      else s)

/-! ### The end of a job (01 R26) -/

/-- The job is complete: its lease and allotment are released, its save area is given back, and its launch counts it. Its units are free in the
next cycle. -/
def execJobComplete (s : State) : Result :=
  let k := s.args.a
  .next (match s.jobs.find? k with
    | none => s
    | some j =>
      if j.status ≠ .running then s
      else
        let s1 := (s.freeSave k).leaveCore k
        let s2 := ((s1.modJob k (fun j => { j with status := .done, leftAt := s.now })).askPlace j.die).noteIdle j.die
        let s3 := s2.modLaunch j.launch (fun l => { l with completed := l.completed + 1 })
        match s3.launches.find? j.launch with
        | none => s3
        | some l => if l.jobs ≤ l.completed then s3.launchDone j.launch else s3)

end Sys2Proof.Machine
end

