-- ==== Sys2Proof/Machine/Sampler.lean ====
section
/-! DEFINITION. The sampler processor (12): contexts and lanes, the working list, the sampler words, masks, and the end of a
step. -/

namespace Sys2Proof.Machine

/-! ### Contexts -/

def SCfg.blank : SCfg := ⟨0, 0, 0, 0, 0, false, 0, 0, 0, Vector.replicate 8 0, 0, 0, 0⟩

/-- A context with no request (12 R335 `IDLE`). -/
def SCtx.blank : SCtx where
  state := .idle
  cfg := SCfg.blank
  readyAt := 0
  step := 0
  phase := 0
  depth := 0
  pend := []
  iter := 0
  k := Vector.replicate 16 0
  seed := 0
  ctr := 0
  pc := 0
  w := []
  prob := false
  excl := []
  marked := false
  out := []
  count := 0
  pass := 0
  acc := 0
  accDone := false
  drafted := none
  short := none
  delivered := []
  cand := []
  drafts := Vector.replicate 8 ⟨0, 0, []⟩
  recent := []
  wait := none
  stop := none
  was := none

def State.sctxOf (s : State) (die ctx : Nat) : SCtx := (s.dieOf die).sampler.ctxs.getD ctx SCtx.blank

def State.modSctx (s : State) (die ctx : Nat) (f : SCtx → SCtx) : State :=
  s.modDie die (fun d => { d with sampler := { d.sampler with
    ctxs := d.sampler.ctxs.set ctx (f (d.sampler.ctxs.getD ctx SCtx.blank)) } })

/-- Whether the current step is the verify step (12 R336). -/
def SCtx.verify (c : SCtx) : Bool := c.depth ≤ c.phase

/-- The positions that the current step needs (12 R336). -/
def SCtx.needed (c : SCtx) : List Nat := if c.verify then List.range (c.depth + 1) else [c.phase]

/-- A waiting context whose needed positions are all delivered becomes ready (12 R335). -/
def State.readyCheck (s : State) (die ctx : Nat) : State :=
  let c := s.sctxOf die ctx
  if c.state = .waiting && c.needed.all (fun p => p ∈ c.delivered) then
    (s.modSctx die ctx (fun c => { c with state := .ready, readyAt := s.now })).ensure 1 .samplerLaneGrant { a := die }
  else s

/-- The lane of a context is free. -/
def State.freeLane (s : State) (die ctx : Nat) : State :=
  ((s.modDie die (fun d => { d with sampler := { d.sampler with lanes := d.sampler.lanes.filter (fun c => c ≠ ctx) } })).unpost
    (fun m =>
      match m with
      | .lane d c => d = die && c = ctx
      | .event .maskHeaderPoll g => g.a = die && g.b = ctx
      | .event .swaitTimeout g => g.a = die && g.b = ctx
      | _ => false)).ensure 1 .samplerLaneGrant { a := die }

/-- What reaches a detokeniser engine. -/
def State.toDetok (s : State) (e : Nat) (l : List DetokItem) : State :=
  if l.isEmpty then s
  else
    l.foldl (fun s _ => s.later .detokeniseToken { a := e }) { s with detokQ := s.detokQ.set e (s.detokQ.getD e [] ++ l) }

/-- The request that a context serves. -/
def State.requestAt (s : State) (die ctx : Nat) : Option (Nat × Request) :=
  List.find? (fun r : Nat × Request => r.2.die = die && r.2.ctx = ctx && !r.2.finished) s.requests

/-- A context stops (12 R354): its code, word index and STEP are kept, and its request ends. -/
def State.stopCtx (s : State) (die ctx code : Nat) : State :=
  let s1 := (s.modSctx die ctx (fun c => { c with state := .stopped, stop := some (code, c.pc, c.step), wait := none })).freeLane die ctx
  match s.requestAt die ctx with
  | none => s1
  | some (k, r) => s1.toDetok r.detok [.stop k code]

/-! ### Lanes (12 R335, R337) -/

/-- The state at the start of a step; `entry` is the program table's word. -/
def SCtx.startStep (c : SCtx) (entry : Nat) : SCtx :=
  { c with
    state := .running
    k := Vector.ofFn (fun i : Fin 16 =>
      if i.val = 0 then 0
      else if i.val ≤ 8 then c.cfg.param.toList.getD (i.val - 1) 0
      else if i.val = 9 then BitVec.ofNat 64 c.phase
      else if i.val = 10 then BitVec.ofNat 64 c.depth
      else c.k[i])
    ctr := c.step * 16
    pc := entry
    w := []
    prob := false
    excl := []
    marked := false
    out := []
    count := 0
    pass := 0
    acc := 0
    accDone := false
    drafted := none }

/-- The ready context that comes first: earliest ready, then lowest number; those that become ready in this cycle come in the next. -/
def Sampler.oldest (x : Sampler) (now : Nat) : Option Nat :=
  ((x.ctxs.filter (fun e => e.2.state = .ready && e.2.readyAt < now)).foldl
    (fun (b : Option (Nat × Nat)) e =>
      match b with
      | none => some (e.1, e.2.readyAt)
      | some p => if e.2.readyAt < p.2 then some (e.1, e.2.readyAt) else b) none).map (·.1)

/-- The next word of a context's lane is due after `n` cycles. -/
def State.laneAt (s : State) (die ctx n : Nat) : State := { s with agenda := s.agenda ++ [⟨s.now + n, .lane die ctx⟩] }

/-- Grants a free lane to the oldest ready context. -/
def execSamplerLaneGrant (s : State) : Result :=
  let die := s.args.a
  let x := (s.dieOf die).sampler
  .next (if 8 ≤ x.lanes.length then s
    else
      match x.oldest s.now with
      | none => s
      | some c =>
        let entry := x.table.getD ((s.sctxOf die c).cfg.prog) 0
        let s1 := (s.modSctx die c (fun y => y.startStep entry)).modDie die (fun d =>
          { d with sampler := { d.sampler with lanes := d.sampler.lanes ++ [c] } })
        (s1.laneAt die c 1).post 0 .samplerLaneGrant { a := die })

/-! ### What a word does -/

/-- The answer of a word: the context and the cycles it took, or a stop. -/
inductive SAct where
  | ok (c : SCtx) (cost : Nat)
  | stop (code : Nat)
  deriving DecidableEq, Repr

/-- Stop codes (12 R354). -/
def codeIllegal : Nat := 64
def codeRange : Nat := 65
def codeState : Nat := 66
def codeSteps : Nat := 67
def codeMem : Nat := 68

/-- The running lane's context. -/
def State.sctx (s : State) : SCtx := s.sctxOf s.lane.1 s.lane.2

/-- The lane's next word is due after `n` cycles. -/
def State.laneNext (s : State) (n : Nat) : State := s.laneAt s.lane.1 s.lane.2 n

/-- Executes a word of the running lane; `f` sees the context with its count and word index already moved on. -/
def State.sword (s : State) (f : SCtx → SAct) : State :=
  let c := s.sctx
  if c.state ≠ .running then s
  else if 65536 ≤ c.count then s.stopCtx s.lane.1 s.lane.2 codeSteps
  else
    match f { c with count := c.count + 1, pc := c.pc + 1 } with
    | .stop code => s.stopCtx s.lane.1 s.lane.2 code
    | .ok c2 n => (s.modSctx s.lane.1 s.lane.2 (fun _ => c2)).laneNext n

def sampler (f : SCtx → SAct) (s : State) : Result := .next (s.sword f)

/-- What a lane does next (12 R344, R345). -/
def State.laneTodo (s : State) (die ctx : Nat) : Todo :=
  let c := s.sctxOf die ctx
  if c.state ≠ .running then .idle
  else if 16384 ≤ c.pc then .set (s.stopCtx die ctx codeRange)
  else
    match decodeSampler ((s.dieOf die).sampler.words.getD c.pc 0).toNat with
    | none => .set (s.stopCtx die ctx codeIllegal)
    | some i => .run i {}

/-! ### Registers and values -/

def SCtx.kget (c : SCtx) (n : KReg) : Word := if n = 0 then 0 else c.k[n]
def SCtx.kput (c : SCtx) (n : KReg) (v : Word) : SCtx := if n = 0 then c else { c with k := c.k.set n v }
/-- FP32 bits of a register. -/
def SCtx.kf (c : SCtx) (n : KReg) : Nat := (c.kget n).toNat % 2 ^ 32
def SCtx.kputf (c : SCtx) (n : KReg) (v : Nat) : SCtx := c.kput n (BitVec.ofNat 64 v)

/-- Cycles of the longer words (12 R355). -/
def SCtx.cost4 (c : SCtx) : Nat := 4 + (c.w.length + 15) / 16
def SCtx.cost8 (c : SCtx) : Nat := 8 + (c.w.length + 3) / 4

/-! ### The working list (12 R341) -/

/-- Whether entry `a` stands before entry `b` in rank order. -/
def ranksBefore (a b : BitVec 32 × BitVec 32) : Bool :=
  let x := f32 a.2.toNat
  let y := f32 b.2.toNat
  if x.isNan then y.isNan && a.1.toNat ≤ b.1.toNat
  else if y.isNan then true
  else
    match Num.cmp true x y with
    | .gt => true
    | .lt => false
    | .eq => a.1.toNat ≤ b.1.toNat

def rankIn (l : List (BitVec 32 × BitVec 32)) (e : BitVec 32 × BitVec 32) : List (BitVec 32 × BitVec 32) :=
  match l with
  | [] => [e]
  | h :: t => if ranksBefore h e then h :: rankIn t e else e :: h :: t

/-- A list in rank order. -/
def rankSort (l : List (BitVec 32 × BitVec 32)) : List (BitVec 32 × BitVec 32) := l.foldl rankIn []

/-- The list with every value changed by `f` and rank order restored. -/
def SCtx.mapValues (c : SCtx) (f : Nat → Nat) : SCtx :=
  { c with w := rankSort (c.w.map (fun e => (e.1, BitVec.ofNat 32 (f e.2.toNat)))) }

def valueOf (e : BitVec 32 × BitVec 32) : Nat := e.2.toNat

/-- The sequential sum of W. -/
def SCtx.sum (c : SCtx) : Nat := sumSeq (c.w.map valueOf)
where
  sumSeq (l : List Nat) : Nat := l.foldl (fun a x => (f32Add a x).1) 0

/-- Tokens of a list. -/
def tokensOf (l : List (BitVec 32 × BitVec 32)) : List (BitVec 32) := l.map Prod.fst

/-- A token's value in a list, or +0. -/
def valueIn (l : List (BitVec 32 × BitVec 32)) (t : BitVec 32) : Nat :=
  ((l.find? (fun e => e.1 = t)).map valueOf).getD 0

/-- Ordered comparisons of FP32 values; false where either is NaN. -/
def geF (a b : Nat) : Bool := fccHolds .ge (numOrder (f32 a) (f32 b))
def gtF (a b : Nat) : Bool := fccHolds .gt (numOrder (f32 a) (f32 b))
def ltF (a b : Nat) : Bool := fccHolds .lt (numOrder (f32 a) (f32 b))
def leF (a b : Nat) : Bool := fccHolds .le (numOrder (f32 a) (f32 b))
def eqF (a b : Nat) : Bool := fccHolds .eq (numOrder (f32 a) (f32 b))

/-- A word that needs the given PROB (12 R346). -/
def needs (c : SCtx) (p : Bool) (a : SAct) : SAct := if c.prob = p then a else .stop codeState

/-! ### Scalar and control words (12 R345) -/

def execSadd (d a b : KReg) (s : State) : Result := sampler (fun c => .ok (c.kput d (c.kget a + c.kget b)) 1) s
def execSsub (d a b : KReg) (s : State) : Result := sampler (fun c => .ok (c.kput d (c.kget a - c.kget b)) 1) s
def execSmul (d a b : KReg) (s : State) : Result := sampler (fun c => .ok (c.kput d (c.kget a * c.kget b)) 1) s
def execSaddF (d a b : KReg) (s : State) : Result := sampler (fun c => .ok (c.kputf d (f32Add (c.kf a) (c.kf b)).1) 1) s
def execSsubF (d a b : KReg) (s : State) : Result := sampler (fun c => .ok (c.kputf d (f32Sub (c.kf a) (c.kf b)).1) 1) s
def execSmulF (d a b : KReg) (s : State) : Result := sampler (fun c => .ok (c.kputf d (f32Mul (c.kf a) (c.kf b)).1) 1) s

/-- Conditions of `SCMP`. -/
def SCtx.scmpHolds (c : SCtx) (cc : Fin 8) (a b : KReg) : Bool :=
  match cc with
  | 0 => c.kget a == c.kget b
  | 1 => c.kget a != c.kget b
  | 2 => (c.kget a).slt (c.kget b)
  | 3 => (c.kget a).sle (c.kget b)
  | 4 => (c.kget a).ult (c.kget b)
  | 5 => eqF (c.kf a) (c.kf b)
  | 6 => ltF (c.kf a) (c.kf b)
  | 7 => leF (c.kf a) (c.kf b)

def execScmp (cc : Fin 8) (d a b : KReg) (s : State) : Result :=
  sampler (fun c => .ok (c.kput d (if c.scmpHolds cc a b then 1 else 0)) 1) s

/-- A jump from the word before `pc` when `t` holds. -/
def SCtx.jump (c : SCtx) (t : Bool) (off : BitVec 22) : SAct :=
  if !t then .ok c 1
  else
    let g : Int := (c.pc : Int) - 1 + off.toInt
    if g < 0 || 16384 ≤ g then .stop codeRange else .ok { c with pc := g.toNat } 1

def execSjmp (off : BitVec 22) (s : State) : Result := sampler (fun c => c.jump true off) s
def execSjz (a : KReg) (off : BitVec 22) (s : State) : Result := sampler (fun c => c.jump (c.kget a == 0) off) s
def execSjnz (a : KReg) (off : BitVec 22) (s : State) : Result := sampler (fun c => c.jump (c.kget a != 0) off) s

def execSmovi (d : KReg) (imm : BitVec 21) (s : State) : Result := sampler (fun c => .ok (c.kput d (imm.signExtend 64)) 1) s
def execSmoviH (d : KReg) (imm : BitVec 21) (s : State) : Result :=
  sampler (fun c => .ok (c.kput d (imm.setWidth 64 <<< 11)) 1) s

def execSrngSeed (d : KReg) (s : State) : Result := sampler (fun c => .ok (c.kput d c.seed) 1) s
def execSrngSetseed (a : KReg) (s : State) : Result := sampler (fun c => .ok { c with seed := c.kget a } 1) s
def execSrngCtr (d : KReg) (s : State) : Result := sampler (fun c => .ok (c.kput d c.ctr) 1) s
def execSrngSetctr (a : KReg) (s : State) : Result := sampler (fun c => .ok { c with ctr := c.kget a } 1) s

def execSroll (a : KReg) (s : State) : Result :=
  sampler (fun c => if 15 < (c.kget a).toNat then .stop codeRange else .ok { c with ctr := c.step * 16 + c.kget a } 1) s

/-- `mix` of 12 R342. -/
def mix (z : Word) : Word :=
  let z1 := (z ^^^ (z >>> 30)) * 0xBF58476D1CE4E5B9
  let z2 := (z1 ^^^ (z1 >>> 27)) * 0x94D049BB133111EB
  z2 ^^^ (z2 >>> 31)

/-- FP32 bits of a draw: bits 63 to 40 of `mix` over 2^24. -/
def drawBits (seed ctr : Word) : Nat :=
  (convertNum 0 (.fin false (mix (seed + ctr * 0x9E3779B97F4A7C15) >>> 40).toNat (-24)) 7).1

def execSdraw (d : KReg) (s : State) : Result :=
  sampler (fun c => .ok ({ c with ctr := c.ctr + 1 }.kputf d (drawBits c.seed c.ctr)) 1) s

/-! ### List words (12 R346) -/

def execSld (d a : KReg) (s : State) : Result :=
  sampler (fun c =>
    let p := (c.kget a).toNat
    if c.depth < p || !(c.needed.contains p) then .stop codeRange
    else
      let w := rankSort (c.cand.getD p [])
      .ok ({ c with w := w, prob := false, excl := [] }.kput d (BitVec.ofNat 64 w.length)) c.cost4) s

/-- `SPEN`: each value less kA times the token's occurrences among the last 64 emitted. (DEDUCED, log 72) -/
def execSpen (a : KReg) (s : State) : Result :=
  sampler (fun c => needs c false (.ok
    { c with w := rankSort (c.w.map (fun e =>
        let n := (c.recent.filter (fun t => t = e.1)).length
        (e.1, BitVec.ofNat 32 (toF32 (Num.sub (f32 e.2.toNat) (Num.mul (f32 (c.kf a)) (Num.ofInt n)).1)).1))) } c.cost4)) s

def execSscale (a : KReg) (s : State) : Result :=
  sampler (fun c =>
    let k := f32 (c.kf a)
    needs c false (if k.isNan || k.isZero || k.isNeg then .stop codeRange
      else .ok (c.mapValues (fun v => (f32Div v (c.kf a)).1)) c.cost4)) s

def execSmask (s : State) : Result :=
  sampler (fun c => .ok (if c.marked then { c with w := c.w.filter (fun e => !c.excl.contains e.1) } else c) c.cost4) s

def execStopk (a : KReg) (s : State) : Result :=
  sampler (fun c => .ok (if c.kget a = 0 then c else { c with w := c.w.take (c.kget a).toNat }) c.cost4) s

/-- `SSOFT`. -/
def SCtx.softmax (c : SCtx) : SCtx :=
  let w := c.w.filter (fun e => !((f32 (valueOf e)).isNan || e.2 = 0xFF800000))
  match w with
  | [] => { c with w := [], prob := true }
  | h :: _ =>
    let es := w.map (fun e => (e.1, (Transc.vexp (f32Sub (valueOf e) (valueOf h)).1).1))
    let t := SCtx.sum.sumSeq (es.map (·.2))
    { c with w := rankSort (es.map (fun e => (e.1, BitVec.ofNat 32 (f32Div e.2 t).1))), prob := true }

def execSsoft (s : State) : Result := sampler (fun c => needs c false (.ok c.softmax c.cost8)) s

/-- Entries that `STOPP` keeps: up to the one at which the running sum reaches the bound. -/
def keepTo (bound acc : Nat) (l : List (BitVec 32 × BitVec 32)) : List (BitVec 32 × BitVec 32) :=
  match l with
  | [] => []
  | e :: r =>
    let a := (f32Add acc (valueOf e)).1
    if geF a bound then [e] else e :: keepTo bound a r

def execStopp (a : KReg) (s : State) : Result :=
  sampler (fun c => needs c true (.ok { c with w := keepTo (c.kf a) 0 c.w } c.cost4)) s

def execSminp (a : KReg) (s : State) : Result :=
  sampler (fun c => needs c true (.ok
    (match c.w with
      | [] => c
      | h :: r =>
        let t := (f32Mul (c.kf a) (valueOf h)).1
        { c with w := h :: r.filter (fun e => !ltF (valueOf e) t) }) c.cost4)) s

/-- `SNORM`. -/
def SCtx.normalise (c : SCtx) : SCtx :=
  let t := c.sum
  if isNormalF32 t then c.mapValues (fun v => (f32Div v t).1)
  else c.mapValues (fun _ => (toF32 (Num.div (.fin false 1 0) (.fin false c.w.length 0))).1)

def execSnorm (s : State) : Result := sampler (fun c => needs c true (.ok c.normalise c.cost4)) s

/-- The token of the first entry at which the running sum passes `t`, else the last entry's. -/
def pickFrom (t acc : Nat) (l : List (BitVec 32 × BitVec 32)) : Option (BitVec 32) :=
  match l with
  | [] => none
  | e :: r =>
    let a := (f32Add acc (valueOf e)).1
    if gtF a t then some e.1
    else
      match pickFrom t a r with
      | none => some e.1
      | some x => some x

/-- `SPICK`. -/
def SCtx.pick (c : SCtx) (u : Nat) : Word :=
  match pickFrom (f32Mul u c.sum).1 0 c.w with
  | none => 0xFFFFFFFFFFFFFFFF
  | some t => t.setWidth 64

def execSpick (d a : KReg) (s : State) : Result :=
  sampler (fun c => needs c true (.ok (c.kput d (c.pick (c.kf a))) c.cost4)) s

/-! ### Masks (12 R347, R348) -/

/-- Address of the mask slot of a position. -/
def SCtx.maskSlot (c : SCtx) (p : Nat) : Nat := (c.cfg.maskbase.toNat + p * 0x20080) % 2 ^ 40

/-- Whether the mask of a position is valid for the iteration; none where its header is poisoned. -/
def State.maskValid (s : State) (c : SCtx) (p : Nat) : Option Bool :=
  let a := c.maskSlot p
  if s.homeBad a 8 then none
  else some (fieldOf (s.homeRead a 8) 0 4 = c.iter % 2 ^ 32 && fieldOf (s.homeRead a 8) 4 4 % 2 = 1)

/-- Whether the bitmap of a position allows a token. -/
def State.maskAllows (s : State) (c : SCtx) (p : Nat) (t : BitVec 32) : Bool :=
  ((s.homeRead (c.maskSlot p + 128 + t.toNat / 8) 1).headD 0).getLsbD (t.toNat % 8)

/-- `SLDM`; reading the header takes a time of its own. -/
def State.loadMask (s : State) (c : SCtx) (d a : KReg) : SAct :=
  let p := (c.kget a).toNat
  let n := 1 + Config.delay s.ticket
  if c.depth < p then .stop codeRange
  else if !c.cfg.grammar then .ok ({ c with marked := true, excl := [] }.kput d 1) 1
  else
    match s.maskValid c p with
    | none => .stop codeMem
    | some false => .ok ({ c with marked := true, excl := tokensOf c.w }.kput d 0) n
    | some true =>
      if c.w.any (fun e => s.homeBad (c.maskSlot p + 128 + e.1.toNat / 8) 1) then .stop codeMem
      else .ok ({ c with marked := true, excl := (tokensOf c.w).filter (fun t => !s.maskAllows c p t) }.kput d 1) n

def execSldm (d a : KReg) (s : State) : Result := sampler (fun c => s.loadMask c d a) s

/-- `SWAIT`: at once, or into `MASKWAIT` with the lane kept. (DEDUCED, log 75) -/
def State.waitMask (s : State) (d a b : KReg) : State :=
  let c := s.sctx
  let p := (c.kget a).toNat
  let n := (c.kget b).toNat
  if c.state ≠ .running then s
  else if c.depth < p || 2 ^ 20 < n then s.sword (fun _ => .stop codeRange)
  else
    match (if c.cfg.grammar then s.maskValid c p else some true) with
    | none => s.sword (fun _ => .stop codeMem)
    | some true => s.sword (fun c => .ok (c.kput d 1) 1)
    | some false =>
      if 65536 ≤ c.count then s.sword (fun _ => .stop codeSteps)
      else
        ((s.modSctx s.lane.1 s.lane.2 (fun c =>
          { c with count := c.count + 1, state := .maskwait, wait := some (d, p, s.now + n) })).post
            (1 + Config.delay s.ticket % 256) .maskHeaderPoll { a := s.lane.1, b := s.lane.2 }).post n .swaitTimeout
              { a := s.lane.1, b := s.lane.2 }

def execSwait (d a b : KReg) (s : State) : Result := .next (s.waitMask d a b)

/-- A waiting context goes on after its `SWAIT` with kD ← v. -/
def State.endWait (s : State) (die ctx : Nat) (d : KReg) (v : Word) : State :=
  ((s.modSctx die ctx (fun c => { c.kput d v with state := .running, pc := c.pc + 1, wait := none })).unpost (fun m =>
    match m with
    | .event .maskHeaderPoll g => g.a = die && g.b = ctx
    | .event .swaitTimeout g => g.a = die && g.b = ctx
    | _ => false)).laneAt die ctx 1

/-- The sampler reads the header of a waiting context's mask. -/
def execMaskHeaderPoll (s : State) : Result :=
  let g := s.args
  let c := s.sctxOf g.a g.b
  .next (match c.state, c.wait with
    | .maskwait, some (d, p, _) =>
      match s.maskValid c p with
      | none => s.stopCtx g.a g.b codeMem
      | some true => s.endWait g.a g.b d 1
      | some false => s.post (1 + Config.delay s.ticket % 256) .maskHeaderPoll { a := g.a, b := g.b }
    | _, _ => s)

def execSwaitTimeout (s : State) : Result :=
  let g := s.args
  let c := s.sctxOf g.a g.b
  .next (match c.state, c.wait with
    | .maskwait, some (d, _, t) => if t ≤ s.now then s.endWait g.a g.b d 0 else s
    | _, _ => s)

/-! ### Drafts, acceptance and emission (12 R349) -/

def execSemit (a : KReg) (s : State) : Result :=
  sampler (fun c =>
    if (c.kget a).getLsbD 63 then .ok c 1
    else if 9 ≤ c.out.length then .stop codeRange
    else .ok { c with out := c.out ++ [(c.kget a).setWidth 32] } 1) s

/-- Draft `j` of the draft store. -/
def SCtx.draft (c : SCtx) (j : Nat) : Draft := c.drafts.toList.getD j ⟨0, 0, []⟩

def execSemitD (a b : KReg) (s : State) : Result :=
  sampler (fun c =>
    let j := (c.kget b).toNat
    let t : BitVec 32 := (c.kget a).setWidth 32
    if c.verify || !c.prob then .stop codeState
    else if c.depth ≤ j then .stop codeRange
    else .ok { c with drafts := c.drafts.setIfInBounds j ⟨t, BitVec.ofNat 32 (valueIn c.w t), c.w.take 32⟩, drafted := some t }
      c.cost8) s

def execSratio (d a : KReg) (s : State) : Result :=
  sampler (fun c =>
    let j := (c.kget a).toNat
    let x := c.draft j
    let p := valueIn c.w x.tok
    needs c true (if c.depth ≤ j then .stop codeRange
      else .ok (c.kputf d (if geF p x.q.toNat then 0x3F800000 else (f32Div p x.q.toNat).1)) 1)) s

/-- `SRESID`. -/
def SCtx.residual (c : SCtx) (j : Nat) : SCtx :=
  let l := (c.draft j).list
  let w := (c.w.map (fun e => (e.1, BitVec.ofNat 32 (f32Sub (valueOf e) (valueIn l e.1)).1))).filter (fun e => gtF (valueOf e) 0)
  if w.isEmpty then c else { c with w := rankSort w }

def execSresid (a : KReg) (s : State) : Result :=
  sampler (fun c =>
    let j := (c.kget a).toNat
    needs c true (if c.depth ≤ j then .stop codeRange else .ok (c.residual j) c.cost8)) s

/-- Consecutive 1 bits from bit 0. -/
def onesFrom (p : Nat) (n : Nat) : Nat :=
  match n with
  | 0 => 0
  | n + 1 => if p % 2 = 1 then 1 + onesFrom (p / 2) n else 0

def execSaccept (d a : KReg) (s : State) : Result :=
  sampler (fun c =>
    let p := (c.kget a).toNat % 256 % 2 ^ c.depth
    let n := onesFrom p c.depth
    let out := (List.range n).map (fun j => (c.draft j).tok) ++ c.out
    if !c.verify || c.accDone then .stop codeState
    else if 9 < out.length then .stop codeRange
    else .ok ({ c with pass := BitVec.ofNat 8 p, acc := n, accDone := true, out := out }.kput d (BitVec.ofNat 64 n)) 1) s

/-! ### The end of a step (12 R352, R353) -/

/-- The tokens that the step sends: OUT, or the drafted token. -/
def SCtx.sends (c : SCtx) : List (BitVec 32) := if c.verify then c.out else c.drafted.toList

/-- FLAGS of the verdict record: bit 0 where a token follows `DEPTH` accepted drafts, bit 1 where none does because no valid mask exists for
position `DEPTH` (12 R351). (DEDUCED, log 73) -/
def SCtx.verdictFlags (c : SCtx) (masked : Bool) : Nat :=
  if !c.verify then 4
  else if c.acc ≠ c.depth then 0
  else if c.acc < c.out.length then 1
  else if masked then 0
  else 2

/-- The verdict record. -/
def SCtx.verdict (c : SCtx) (masked : Bool) : List Byte :=
  let t := c.sends
  bytesOf 8 c.step.toNat ++
    [BitVec.ofNat 8 (if c.verify then c.acc else 0), if c.verify then c.pass else 0,
      BitVec.ofNat 8 (if c.verify then c.depth - c.acc else 0), BitVec.ofNat 8 t.length, BitVec.ofNat 8 (c.verdictFlags masked),
      BitVec.ofNat 8 c.depth] ++ bytesOf 2 0 ++
    ((List.range 9).map (fun i => bytesOf 4 (((t.map BitVec.toNat).getD i 0xFFFFFFFF)))).flatten ++ bytesOf 12 0

/-- The depth of the next iteration: the last one recorded before this cycle (12 R353). -/
def SCtx.nextDepth (c : SCtx) (now : Nat) : Nat × List (Nat × Nat) :=
  (((c.pend.filter (fun p => p.2 < now)).getLast?.map (·.1)).getD c.depth, c.pend.filter (fun p => now ≤ p.2))

/-- The context at the start of its next step. -/
def SCtx.nextStep (c : SCtx) (now : Nat) : SCtx :=
  let c1 := { c.keepDepths now with delivered := c.delivered.filter (fun p => !c.needed.contains p), step := c.step + 1, state := .waiting }
  if c.verify then
    { c1 with phase := 0, iter := c.iter + 1, depth := (c.nextDepth now).1, pend := (c.nextDepth now).2
              recent := let l := c.recent ++ c.out; l.drop (l.length - 64) }
  else { c1 with phase := c.phase + 1 }

/-- A token as a message of the context to a port; a port address of 0 receives nothing. -/
def State.sendToken (s : State) (die ctx : Nat) (port : Word) (t : BitVec 32) : State :=
  if port = 0 then s
  else
    let key := ctx * 2 ^ 64 + port.toNat
    let n := (s.dieOf die).sampler.msgNo.getD key 0
    (s.modDie die (fun d => { d with sampler := { d.sampler with msgNo := d.sampler.msgNo.set key (n + 1) } })).transmit
      ⟨samplerKey die ctx, port, n, 0, bytesOf 4 t.toNat, false⟩

/-- Whether a position may be emitted from: a valid mask, or no grammar (12 R348). -/
def State.masked (s : State) (c : SCtx) (p : Nat) : Bool := !c.cfg.grammar || s.maskValid c p = some true

/-- The discard that a `SHORT` position brings (12 R340). -/
def SCtx.toReshard (c : SCtx) : SCtx := { c with state := .awaitReshard, delivered := [], short := none }

/-- A context waits for F3 to remap shard `k.2` of the group `k.1`, which F3 can do where a copy of it stands (22 R513): the spec does not give
where copies are. -/
def State.toReshard (s : State) (die ctx : Nat) (k : Nat × Nat) : State :=
  (s.modSctx die ctx SCtx.toReshard).later .reshardDone { a := die, b := ctx, c := k.2, word := BitVec.ofNat 64 k.1, flag := Config.flag s.ticket }

/-- Marks a list's last element. -/
def withLast (l : List (BitVec 32)) : List (BitVec 32 × Bool) :=
  match l with
  | [] => []
  | [t] => [(t, true)]
  | t :: r => (t, false) :: withLast r

/-- `SEND`. -/
def State.endStep (s : State) : State :=
  let (die, ctx) := s.lane
  let c := s.sctx
  if c.state ≠ .running then s
  else if 65536 ≤ c.count then s.stopCtx die ctx codeSteps
  else
    let pa := c.cfg.vaddr.toNat % 2 ^ 40
    let s1 := s.perform (homeDie pa) pa (c.verdict (s.masked c c.depth)) false
    let s2 := c.sends.foldl (fun s t => s.sendToken die ctx (if c.verify then c.cfg.tport else c.cfg.dport) t) s1
    let s3 := if c.verify then
        match s.requestAt die ctx with
        | none => s2
        | some (k, _) => s2.toDetok c.cfg.detok ((withLast c.out).map (fun t => .tok k t.1 t.2))
      else s2
    let s4 := (s3.modSctx die ctx (fun c => c.nextStep s.now)).freeLane die ctx
    match c.short with
    | some k => s4.toReshard die ctx k
    | none => s4.readyCheck die ctx

def execSend (s : State) : Result := .next s.endStep

/-! ### Deliveries (12 R339, R340) -/

/-- The candidates of a delivery: padding is not stored. -/
def candPairs (l : List Byte) (n : Nat) : List (BitVec 32 × BitVec 32) :=
  ((List.range n).map (fun i => (BitVec.ofNat 32 (fieldOf l (8 * i) 4), BitVec.ofNat 32 (fieldOf l (8 * i + 4) 4)))).filter
    (fun e => e.1.toNat ≤ 1048575)

/-- A position's entries are written and the position is marked delivered. -/
def State.deliver (s : State) (die ctx p : Nat) (es : List (BitVec 32 × BitVec 32)) : State :=
  (s.modSctx die ctx (fun c => { c with cand := c.cand.set p es, delivered := NatSet.insert c.delivered p })).readyCheck die ctx

/-- A `SHORT` instance of group `key` that lacks `shard`: the step's deliveries go, and F3 is to remap the shard. A step that runs ends first. -/
def State.shortDelivery (s : State) (die ctx key shard : Nat) : State :=
  let c := s.sctxOf die ctx
  match c.state with
  | .waiting | .ready => s.toReshard die ctx (key, shard)
  | .awaitReshard => s.modSctx die ctx SCtx.toReshard
  | .running | .maskwait => s.modSctx die ctx (fun c => { c with short := some (key, shard) })
  | _ => s

/-- A ring entry with the die of a last-stage shard changed: the dies of the last stage stand in STAGES from the last stage's place on. (DESIGN
CHOICE, log 70) -/
def ringRemap (b : List Byte) (shard die : Nat) : List Byte :=
  let i := 8 + 4 * (fieldOf b 1 1 - 1 + shard) + 2
  if i < 136 then b.set i (BitVec.ofNat 8 die) else b

/-- F3 maps a shard onto a surviving die: the member of the group stands there, and the ring's entry names it (12 R340, 22 R513). -/
def State.remapShard (s : State) (die ctx key shard next : Nat) : State :=
  let s1 := match s.colls.find? key with
    | none => s
    | some c => { s with colls := s.colls.set key { c with moved := c.moved.set shard next } }
  match s1.requestAt die ctx with
  | none => s1
  | some (_, r) =>
    match s1.rings.find? r.ring with
    | none => s1
    | some b => { s1 with rings := s1.rings.set r.ring (ringRemap b shard next) }

/-- F3 has finished remapping: the context waits again, with the shard on a surviving die that holds a copy of it; or it stops with `DIE_LOST` (22
R513). (DESIGN CHOICE, log 70) -/
def execReshardDone (s : State) : Result :=
  let g := s.args
  let live := (List.range 8).filter (fun d => !(s.dieOf d).lost)
  .next (if (s.sctxOf g.a g.b).state ≠ .awaitReshard then s
    else if g.flag && !live.isEmpty then
      ((s.remapShard g.a g.b g.word.toNat g.c (live.getD (Config.order s.ticket % live.length) 0)).modSctx g.a g.b
        (fun c => { c with state := .waiting })).draw
    else s.stopCtx g.a g.b 53)

end Sys2Proof.Machine
end

