-- ==== Sys2Proof/Machine/Agenda.lean ====
section
/-! DEFINITION. What the machine does next: which due move comes first, and the instruction that it runs. Beside it, the placing of one
instruction so that the next step runs it. -/

namespace Sys2Proof.Machine

/-- The agenda entries that are due. -/
def State.due (s : State) : List Entry := s.agenda.filter (fun e => e.due ≤ s.now)

/-- Whether a move is the turn of a stream of job `k`. -/
def Move.ofJob (m : Move) (k : Nat) : Option Letter :=
  match m with
  | .stream r => if r.job = k then some r.letter else none
  | _ => none

/-- The core and the engine of a piece that lands. -/
def State.landing (s : State) (m : Move) : Option (Nat × Nat) :=
  match m with
  | .event .copyPieceLanding g => (s.flights.find? g.a).map (fun f => ((s.jobOf f.ref.job).coreKey, f.engine.getD 6))
  | _ => none

/-- Of a job's due streams the first in the order of letters (03 R85, 07 R213: within a cycle, streams act in the order `A`, `M`, `V`,
`X`); of a core's due landings the one with the lowest engine number (02 R78); any other move stands. -/
def State.firstOf (s : State) (due : List Entry) (e : Entry) : Entry :=
  match e.move with
  | .event .copyPieceLanding _ =>
    due.foldl (fun b d =>
      match s.landing d.move, s.landing b.move with
      | some x, some y => if x.1 = y.1 && x.2 < y.2 then d else b
      | _, _ => b) e
  | .stream r =>
    due.foldl (fun b d =>
      match d.move.ofJob r.job, b.move.ofJob r.job with
      | some l, some k => if letterNum l < letterNum k then d else b
      | _, _ => b) e
  | _ => e

/-- Whether a move is a completion point that writes a register, which comes at the end of its cycle (17 R404). -/
def Move.isFinish (m : Move) : Bool :=
  match m with
  | .finish _ => true
  | .event .globalReadReply _ => true
  | .event .xlatHandleWrite _ => true
  | .event .poolRequestHandled g => g.b ≠ 0
  | _ => false

/-- The due move that comes first; the spec gives no order among those of a cycle but the order of a job's streams. (DESIGN CHOICE, log 2) -/
def State.choose (s : State) : Option Entry :=
  match s.due.filter (fun e => !e.move.isFinish) with
  | [] => s.due.head?
  | [e] => some e
  | e :: l => some (s.firstOf (e :: l) ((e :: l).getD (Config.order s.ticket % (l.length + 1)) e))

/-- What a step does: it goes to a state, or runs an instruction in a state. -/
inductive Plan where
  | go (s : State)
  | run (i : Instr) (s : State)
  deriving DecidableEq, Repr

/-- Whether a stream goes on in the cycle of an instruction: an `EXT` (06 R180), the fetch of a line, the entry of a section. -/
def goesOn (i : Instr) : Bool :=
  match i with
  | .ext _ | .codeFetch | .sectionEnter => true
  | _ => false

/-- A stream takes another turn in this cycle. -/
def State.again (s : State) (r : Ref) : State := { s with agenda := s.agenda ++ [⟨s.now, .stream r⟩] }

/-- A stream whose turn it is; its next turn is in the next cycle, or in this one where it goes on. -/
def State.turn (s : State) (r : Ref) : Plan :=
  let j := s.jobOf r.job
  let t := j.stream r.letter
  if !j.onCore || t.ended || t.stopped then .go s
  else
    let s1 := { s with cur := r, args := {} }
    match s1.todo r with
    | .idle => .go (s1.poll r)
    | .set t => .go (t.poll r)
    | .land t => .go (t.again r)
    | .run i g => .run i (if goesOn i then State.again { s1 with args := g } r else State.poll { s1 with args := g } r)

/-- A lane whose turn it is; the word itself says when the next one is due (12 R355). -/
def State.laneTurn (s : State) (die ctx : Nat) : Plan :=
  match s.laneTodo die ctx with
  | .idle => .go s
  | .set t | .land t => .go t
  | .run i g => .run i { s with lane := (die, ctx), args := g }

/-- The plan of a move. (DESIGN CHOICE, log 13) -/
def State.planOf (s : State) (m : Move) : Plan :=
  match m with
  | .stream r => s.turn r
  | .lane die ctx => s.laneTurn die ctx
  | .event i g => .run i { s with args := g }
  | .finish k => .go (s.finishMove k)
  | .effect k => .go (s.effect k)
  | .vecStep core => .go (s.vecCycle core)
  | .trowel core x => .go (s.trowelStep core x)
  | .begin k => .go (s.beginJob k)
  | .word k => .go (s.complWord k)

/-- The machine's next step: the move chosen among those due, or one cycle of the clock. (DESIGN CHOICE, log 1) -/
def State.plan (s : State) : Plan :=
  match s.choose with
  | none => .go s.tick
  | some e => State.planOf { s with agenda := s.agenda.erase e, ticket := s.ticket + 1 } e.move

/-! ### Placing one instruction -/

/-- A section header of `len` words (06 R172) that depends on nothing. -/
def plainHeader (len : Nat) (last : Bool) : Nat := len * 2 ^ 56 + 0xFFF * 2 ^ 32 + 0xFFF * 2 ^ 20 + 0xFFF * 2 ^ 8 + (if last then 4 else 0)

/-- The opcodes of `NOP` and of `NOTIFY`, which must end the last section of its stream. -/
def opcNop : Nat := 0x001
def opcNotify : Nat := 0x003

/-- The first stream that a command word may stand in. -/
def letterOf (w : Nat) : Letter :=
  match opRow (opcOf w) with
  | none => .a
  | some r => r.on.headD .a

/-- A job that stands on a core with one section at virtual address 0 in its code buffer, whose first word or words are `w`, followed
by `NOP`s. -/
def jobWith (w : Nat) (now : Nat) : Job :=
  let l := letterOf (w % 2 ^ 96)
  let only := opcOf (w % 2 ^ 96) = opcNotify
  let h := plainHeader (if only then 1 else 8) only
  let n := if isTwoWord (w % 2 ^ 96) || 2 ^ 96 ≤ w then 24 else 12
  let code := bytesOf 8 h ++ bytesOf n w ++ ((List.replicate 8 (bytesOf 12 (opcNop * 2 ^ 86))).flatten).take (120 - n)
  let t : Stream := { Stream.start 0 (Vector.replicate 32 0) 0 0 with
    pc := 8, entering := none, sect := some ⟨0, BitVec.ofNat 64 h⟩, readyAt := now }
  { Job.blank with
    status := .running, ready := true, ctx := 4096, scrSize := 16, tileCount := 48, code := [⟨0, code⟩] }.setStream l t

/-- The state in which the next step runs the instruction of `nbits` bits `w`: a sampler word in a running lane of die 0, a command at
the queue head of a job of its own whose code buffer holds it. -/
def State.placeWord (s : State) (nbits w : Nat) : State :=
  if nbits ≤ 32 then
    let s1 := s.modSctx 0 0 (fun c => { c with state := .running, pc := 0, count := 0 })
    { s1.modDie 0 (fun d => { d with sampler := { d.sampler with words := d.sampler.words.set 0 (BitVec.ofNat 32 w) } }) with
      agenda := [⟨s.now, .lane 0 0⟩] }
  else
    let k := s.nextId
    { s.newId with jobs := s.jobs.set k (jobWith w s.now), agenda := [⟨s.now, .stream ⟨k, letterOf (w % 2 ^ 96)⟩⟩] }

end Sys2Proof.Machine
end

