-- ==== Sys2Proof/Machine/Branch.lean ====
section
/-! DEFINITION. Branches, calls and hardware loops (07 R205 to R211). -/

namespace Sys2Proof.Machine

/-- A branch register written, with the stream's issue count after this command (07 R207). -/
def State.prepare (s : State) (b : BReg) (v : Word) : State :=
  s.modSt (fun t => { t.bput b v with btime := t.btime.set b (t.issued + 1) })

/-- `PTB` (07 R206). -/
def execPtb (o : OpPtb) (s : State) : Result :=
  command o.c { opc := 0x02B, regs := [.b o.b] }
    (fun s => .done (s.prepare o.b (s.st.cmdStart + o.off.signExtend 64)) 0) s

/-- `PTBR` (07 R206). -/
def execPtbr (o : OpPtbr) (s : State) : Result :=
  command o.c { opc := 0x02C, regs := [.b o.b, .s o.a] }
    (fun s => .done (s.prepare o.b (s.sget o.a + o.off.signExtend 64)) 0) s

/-- Cycles that a taken `BR` or `CALL` through `b` costs (07 R207). -/
def Stream.cost (t : Stream) (b : BReg) : Nat := 4 - (t.issued + 1 - t.btime[b])

/-- `BR` (07 R206): taken when the predicate's value xor PNEG is 1. -/
def execBr (o : OpBr) (s : State) : Result :=
  command o.c { opc := 0x02D, regs := [.b o.b], preds := [o.p] }
    (fun s => .jump s ⟨if s.job.pred o.p != o.neg then some (s.bget o.b) else none, .br, 2, s.st.cost o.b⟩) s

/-- Address of the command after the `n` commands that start at `a`. -/
def State.skipCommands (s : State) (j : Job) (n a : Nat) : Nat :=
  match n with
  | 0 => a
  | n + 1 => State.skipCommands s j n (a + 12 * wordsOf ((s.codeAt j a 12).getD 0))

/-- `CALL` (07 R206, R208). -/
def execCall (o : OpB) (s : State) : Result :=
  command o.c { opc := 0x02E, regs := [.b o.b, .s 31] }
    (fun s =>
      if s.st.callLevel = 255 then Act.code 18
      else
        let back := BitVec.ofNat 64 (s.skipCommands s.job 2 (s.st.pc.toNat + 12))
        .jump (s.sput 31 back) ⟨some (s.bget o.b), .call, 2, s.st.cost o.b⟩) s

/-- `RET` (07 R206, R208). -/
def execRet (o : Op0) (s : State) : Result :=
  command o.c { opc := 0x02F, regs := [.s 31] } (fun s => .jump s ⟨some (s.sget 31), .ret, 2, 2⟩) s

/-- A loop with count `n` and END16 `stop` (07 R210): nothing for 0, which goes on after the command at end; a fifth entry traps; in a running
handler `TRAP_LOOP` (07 R197). -/
def loopBody (n : BitVec 32) (stop : BitVec 16) (s : State) : Act :=
  let t := s.st
  let e := t.pc + 4 * stop.setWidth 64
  if t.inTrap then Act.code 16
  else if n = 0 then .skip s (BitVec.ofNat 64 (s.skipCommands s.job 1 e.toNat))
  else if 4 ≤ t.loops.length then .trap .loopDepth 0
  else .done (s.modSt (fun t => { t with loops := ⟨t.pc + 12, e, n, t.callLevel⟩ :: t.loops })) 0

/-- `LOOP` (07 R209, R210). -/
def execLoop (o : OpLoop) (s : State) : Result := command o.c { opc := 0x030 } (loopBody (o.cnt.setWidth 32) o.stop) s

/-- `LOOPR` (07 R209, R210). -/
def execLoopr (o : OpLoopr) (s : State) : Result :=
  command o.c { opc := 0x031, regs := [.s o.a] }
    (fun s =>
      if !s.st.inTrap && 0xFFFFFFFF < (s.sget o.a).toNat then Act.code 19
      else loopBody ((s.sget o.a).setWidth 32) o.stop s) s

/-- `LEXIT` (07 R210). -/
def execLexit (o : Op0) (s : State) : Result :=
  command o.c { opc := 0x032 }
    (fun s =>
      if s.st.inTrap then Act.code 16
      else .done (if s.st.top.isSome then s.modSt (fun t => t.pop) else s) 0) s

end Sys2Proof.Machine
end

