-- ==== Sys2Proof/Machine/Collective.lean ====
section
/-! DEFINITION. Collectives (09 R265 to R269, 03 R101, R102) and the delivery of candidates (12 R339, R340). -/

namespace Sys2Proof.Machine

/-- Key of a group of a context. -/
def groupKey (ctx group : Nat) : Nat := ctx * 4096 + group

/-- A group with its current instance. (DESIGN CHOICE, log 29) -/
def State.collOf (s : State) (key : Nat) : Coll :=
  s.colls.getD key ⟨Config.groupSize (key / 4096) (key % 4096), 0, [], none, []⟩

/-- Nanoseconds of a time in the layout of `PTPT` (08 R235). -/
def timeNs (t : Word) : Nat := natBits t.toNat 32 32 * 1000000000 + natBits t.toNat 0 32

/-! ### Descriptors -/

/-- A collective descriptor (09 R265). -/
structure CollDesc where
  group : Nat
  rank : Nat
  op : Nat
  count : Nat
  srch : Nat
  dsth : Nat
  root : Nat
  srcoff : Nat
  dstoff : Word
  deadline : Word
  seq : Nat
  zeros : Bool
  deriving DecidableEq, Repr

def CollDesc.ofBytes (l : List Byte) : CollDesc :=
  ⟨fieldOf l 0 2, fieldOf l 2 2, fieldOf l 4 1, fieldOf l 8 4, fieldOf l 12 1, fieldOf l 13 1, fieldOf l 14 2, fieldOf l 16 8,
    BitVec.ofNat 64 (fieldOf l 24 8), BitVec.ofNat 64 (fieldOf l 32 8), fieldOf l 48 8, fieldOf l 5 3 = 0 && fieldOf l 40 8 = 0⟩

/-- Bytes of an element of an op. -/
def collElem (op : Nat) : Nat :=
  match op with
  | 0 => 4
  | 1 => 2
  | 2 => 4
  | 3 => 4
  | 6 => 8
  | _ => 1

/-- The field checks of a descriptor against its group's size; ROOT is a rank whatever the OP. (DEDUCED, log 102) -/
def CollDesc.ok (d : CollDesc) (size : Nat) : Bool :=
  d.zeros && d.group < 4096 && 2 ≤ size && size ≤ 512 && d.rank < size && d.op ≤ 6 && 1 ≤ d.count && d.count ≤ 4194304 &&
    d.srch < 32 && d.dsth < 32 && d.root < size && natBits d.deadline.toNat 0 32 < 1000000000

/-- Fields of `DSTOFF` of a `CAND`: die, sequence context, position (12 R339). -/
def candDie (o : Word) : Nat := natBits o.toNat 37 3
def candCtx (o : Word) : Nat := natBits o.toNat 16 10
def candPos (o : Word) : Nat := natBits o.toNat 0 4

/-- The checks of 12 R339. -/
def State.candOk (s : State) (d : CollDesc) (size vf : Nat) : Bool :=
  let o := d.dstoff
  let c := s.sctxOf (candDie o) (candCtx o)
  d.dsth = 0 && o.toNat = candDie o * 2 ^ 37 + candCtx o * 2 ^ 16 + candPos o && c.state != .idle && c.cfg.vf = vf &&
    size = c.cfg.s && d.count = c.cfg.ks && candPos o ≤ c.cfg.dmax

/-- The handle numbered `n` of the running job. -/
def State.handleNo (s : State) (n : Nat) : Handle := s.job.handles.toList.getD n Handle.none

/-- Source range of a participant, checked: its address and length, or none where it reads no source. -/
def State.collSource (s : State) (d : CollDesc) : Check (Option (Nat × Nat)) :=
  let n := d.count * collElem d.op
  if d.op = 5 && d.rank ≠ d.root then .ok none
  else
    match (s.handleNo d.srch).check d.srch 255 d.srcoff n false with
    | .error b => .error b
    | .ok pa => .ok (some (pa, n))

/-- Destination range of a participant, checked: its address. -/
def State.collDest (s : State) (d : CollDesc) (size : Nat) : Check Nat :=
  if d.op = 6 then .ok 0
  else (s.handleNo d.dsth).check d.dsth 255 d.dstoff.toNat (if d.op = 4 then size * d.count else d.count * collElem d.op) true

/-! ### `COLL` -/

/-- `COLL` commands of a job in flight. -/
def State.collsInFlight (s : State) (k : Nat) : Nat :=
  (s.flights.filter (fun f => f.2.ref.job = k &&
    match f.2.work with
    | .collective .. => true
    | _ => false)).length

/-- A participant joins the current instance. -/
def State.join (s : State) (key : Nat) (p : Part) : State :=
  let c := s.collOf key
  let s1 := { s with colls := s.colls.set key { c with parts := c.parts ++ [p] } }
  let s2 := if p.loaded then s1.later .collectiveComplete { a := key } else s1
  if p.deadline = 0 then s2 else s2.post 1 .collectiveDeadline { a := key }

/-- Requests for the lines of a contribution. -/
def State.readSource (s : State) (k : Nat) (h : Handle) (pa n : Nat) : State :=
  (linesOf pa n).zipIdx.foldl (fun s l =>
    s.request k l.2 s.job s.cur .read h.pkind (h.home l.1.1) l.1.1 l.1.2 none false 6) s

/-- Their pieces. -/
def sourcePieces (pa n : Nat) : Map Piece := (linesOf pa n).zipIdx.map (fun l => (l.2, ⟨l.1.1 - pa, 0, l.1.2, none⟩))

/-- `COLL`: its checks, and then its source is read like any global read, at its page's kind and after its issue (03 R83, R92, 09 R267). -/
def collBody (o : OpColl) (u : Use) (s : State) : Act :=
  (s.scrOperand o.a (o.off.signExtend 64) 64 64).andThen fun a =>
    let d := CollDesc.ofBytes (s.scrRead s.job a 64)
    let key := groupKey s.job.ctx d.group
    let c := s.collOf key
    if s.scrBad s.job a 56 then Act.code 11
    else if !d.ok c.size then Act.code 32
    else if c.inst < d.seq then .wait s
    else if d.seq < c.inst || c.parts.any (fun p => p.rank = d.rank) then Act.code 32
    else if d.op = 6 && !s.candOk d c.size s.job.vf then Act.code 32
    else (s.collSource d).andThen fun src =>
      (s.collDest d c.size).andThen fun dst =>
        if 8 ≤ s.collsInFlight s.cur.job then .busy s
        else
          let r := src.getD (0, 0)
          let hs := s.handleNo d.srch
          let h := s.handleNo d.dsth
          let so := (r.2 ≠ 0 && hs.pkind == .so) || (d.op ≠ 6 && h.pkind == .so)
          let p : Part := {
            rank := d.rank, flight := s.nextId, job := s.cur.job, op := d.op, count := d.count, root := d.root, dst := dst
            hdie := if h.hovr then some h.hdie.toNat else none, dstoff := d.dstoff, deadline := d.deadline, status := a + 56
            mode := s.job.fmode, src := r.1, len := r.2, loaded := r.2 = 0, kind := h.pkind, data := [], bad := false, flags := 0 }
          .fly (((s.fly o.c u (.collective key so (sourcePieces r.1 r.2)) []).readSource s.nextId hs r.1 r.2).join key p)

def collUse (o : OpColl) : Use := { opc := 0x0E0, regs := [.s o.a], irrev := true, gw := true, ga := true }

def execColl (o : OpColl) (s : State) : Result := command o.c (collUse o) (collBody o (collUse o)) s

/-- `COLLST`: a state other than pending is an acquire, so the read copies of the job's context go. -/
def collstBody (o : OpCollst) (s : State) : Act :=
  (s.scrOperand o.a (o.off.signExtend 64) 64 64).andThen fun a =>
    let v := s.scrNat s.job (a + 56) 8
    if s.scrBad s.job (a + 56) 8 then Act.code 11
    else .done ((if v % 256 = 0 then s else s.dropCopies s.job.coreKey s.job.ctx).sput o.d (BitVec.ofNat 64 v)) 0

def execCollst (o : OpCollst) (s : State) : Result := command o.c { opc := 0x0E1, regs := [.s o.d, .s o.a] } (collstBody o) s

/-! ### Results (09 R266) -/

/-- Element `i` of a contribution. -/
def Part.elem (p : Part) (i : Nat) : Nat := fieldOf p.data (i * collElem p.op) (collElem p.op)

/-- One step of a reduction, under a participant's `FMODE` (04 R127). -/
def collFold (op : Nat) (m : Fmode) (a b : Nat) : Nat × Flags :=
  match op with
  | 0 => saccAdd 0 m a b
  | 1 => saccAdd 1 m a b
  | 2 => ((convertNum m (Num.max (f32 a) (f32 b)) 7).1, 0)
  | _ => saccAdd 2 m a b

/-- One element of a reduction in ascending rank. -/
def collReduce (op : Nat) (m : Fmode) (xs : List Nat) : Nat × Flags :=
  match xs with
  | [] => (0, 0)
  | x :: r => r.foldl (fun acc y => let t := collFold op m acc.1 y; (t.1, acc.2 ||| t.2)) (x, 0)

/-- Participants in ascending rank. -/
def Coll.ranked (c : Coll) : List Part := (List.range c.size).filterMap (fun r => c.parts.find? (fun p => p.rank = r))

/-- The bytes of a reduction's result as a participant receives it, computed under its own `FMODE` at issue (04 R129), and its flags. (DEDUCED, log 92) -/
def Coll.reduced (c : Coll) (p : Part) : List Byte × Flags :=
  let es := (List.range p.count).map (fun i => collReduce p.op p.mode (c.ranked.map (fun q => q.elem i)))
  ((es.map (fun e => bytesOf (collElem p.op) e.1)).flatten, flagsOf (es.map (·.2)))

/-- What participant `p` receives: pieces of its destination as offset, bytes and poison; `all` tells that every rank has contributed. -/
def Coll.pieces (c : Coll) (p : Part) (all : Bool) (sum : List Byte) : List (Nat × List Byte × Bool) :=
  if p.op = 4 then c.ranked.map (fun q => (q.rank * p.count, q.data, q.bad))
  else if p.op = 5 then
    match c.parts.find? (fun q => q.rank = p.root) with
    | none => []
    | some q => [(0, q.data, q.bad)]
  else if all && p.op < 4 then [(0, sum, c.parts.any (·.bad))]
  else []

/-- A participant's destination: writes to its homes, at its page's kind, by its core. -/
def State.collWrite (s : State) (p : Part) (ps : List (Nat × List Byte × Bool)) : State :=
  let j := s.jobOf p.job
  ps.foldl (fun s x =>
    (splitBytes (linesOf (p.dst + x.1) x.2.1.length) x.2.1).foldl (fun s l =>
      s.request p.flight 0 j ⟨p.job, .a⟩ (.write l.2) p.kind (p.hdie.getD (homeDie l.1)) l.1 l.2.length none x.2.2 6) s) s

/-- STATUS (09 R268). -/
def collStatus (first missing state : Nat) : Nat := first * 2 ^ 32 + missing * 2 ^ 16 + state

/-- STATUS is written to a participant's descriptor and its `COLL` completes. -/
def State.collEnd (s : State) (p : Part) (status : Nat) : State :=
  (s.scrWrite (s.jobOf p.job) p.status (bytesOf 8 status) false).finish p.flight p.flags

/-- A release and an acquire of every participant for the buffers that the collective names (03 R101): what its core's buffer holds of its source drains, and
its context's read copies go. -/
def State.collOrder (s : State) (p : Part) : State :=
  let j := s.jobOf p.job
  (s.drainRange j.coreKey j.ctx p.src p.len).dropCopies j.coreKey j.ctx

/-- Ends the instance: every participant's STATUS, then the next instance is current. -/
def State.collFinish (s : State) (key : Nat) (status : Nat) : State :=
  let c := s.collOf key
  let s1 := c.parts.foldl State.collOrder s
  let s2 := c.parts.foldl (fun s p => s.collEnd p status) s1
  ({ s2 with colls := s2.colls.set key { c with inst := c.inst + 1, parts := [], ending := none } }).checkFences

/-- Whether a write of the instance's result is still to be acknowledged. -/
def State.collOpen (s : State) (c : Coll) : Bool :=
  s.accesses.any (fun a => a.2.op.writes && c.parts.any (fun p => p.flight = a.2.flight))

/-- The results are on their way, and with the last one performed the instance ends (09 R267). -/
def State.collResult (s : State) (key : Nat) (c : Coll) (all : Bool) (status : Nat) : State :=
  let rs := c.parts.map (fun p => (p, if all && p.op < 4 then c.reduced p else ([], 0)))
  let ps := rs.map (fun r => { r.1 with flags := r.2.2 })
  let s1 := { s with colls := s.colls.set key { c with parts := ps, ending := some status } }
  let s2 := rs.foldl (fun s r => s.collWrite r.1 (c.pieces r.1 all r.2.1)) s1
  if s2.collOpen c then s2 else s2.collFinish key status

/-- Whether the participants agree on OP and COUNT. (DEDUCED, log 30) -/
def Coll.agree (c : Coll) : Bool :=
  match c.parts with
  | [] => true
  | p :: r => r.all (fun q => q.op = p.op && q.count = p.count)

/-- A completed `CAND` delivers its position; one still marked delivered makes it `ERROR` (12 R339). While F3 remaps a shard, the
delivery is discarded (12 R335). -/
def State.candDeliver (s : State) (key : Nat) (p : Part) : State :=
  let c := s.collOf key
  let o := p.dstoff
  let x := s.sctxOf (candDie o) (candCtx o)
  if x.delivered.contains (candPos o) then s.collFinish key (collStatus 0xFFFF 0 3)
  else
    let es := (c.ranked.map (fun q => candPairs q.data q.count)).flatten
    let s1 := s.collFinish key (collStatus 0xFFFF 0 1)
    if x.state == .awaitReshard then s1 else s1.deliver (candDie o) (candCtx o) (candPos o) es

/-- The contributions whose reads have all returned. -/
def State.collLoad (s : State) (key : Nat) : State :=
  let c := s.collOf key
  let load (p : Part) : Part :=
    match s.workOf p.flight with
    | some (.collective _ _ ps) =>
      if !p.loaded && ps.vals.all (·.bytes.isSome) then
        let b := bufferOf ps p.len
        { p with loaded := true, data := b.map Prod.fst, bad := b.any Prod.snd }
      else p
    | _ => p
  { s with colls := s.colls.set key { c with parts := c.parts.map load } }

/-- Whether the member of a rank sits on a lost die. -/
def State.rankLost (s : State) (key : Nat) (c : Coll) (r : Nat) : Bool :=
  (s.dieOf (match c.parts.find? (fun p => p.rank = r) with
    | some p => (s.jobOf p.job).die
    | none => (c.moved.find? r).getD (Config.rankDie (key / 4096) (key % 4096) r))).lost

/-- The instance with the contributions that count: those read from members on dies that answer. -/
def State.collGiven (s : State) (key : Nat) : Coll :=
  let c := s.collOf key
  { c with parts := c.parts.filter (fun p => p.loaded && !s.rankLost key c p.rank) }

/-- Ranks that have not contributed. -/
def Coll.missing (c : Coll) : List Nat := (List.range c.size).filter (fun r => !c.parts.any (fun p => p.rank = r))

/-- The instance completes `SHORT` (09 R268). -/
def State.collShort (s : State) (key : Nat) : State :=
  let c := s.collOf key
  let g := s.collGiven key
  let st := collStatus (g.missing.headD 0xFFFF) g.missing.length 2
  match c.parts with
  | [] => s
  | p :: _ =>
    if !c.agree then s.collFinish key (collStatus 0xFFFF 0 3)
    else if p.op = 6 then (s.collFinish key st).shortDelivery (candDie p.dstoff) (candCtx p.dstoff) key (g.missing.headD 0)
    else
      let rs := c.parts.map (fun p => (p, g.pieces p false []))
      let s1 := { s with colls := s.colls.set key { c with ending := some st } }
      let s2 := rs.foldl (fun s r => s.collWrite r.1 r.2) s1
      if s2.collOpen c then s2 else s2.collFinish key st

/-- A look at an instance: it ends with the last write of its results, completes with the last contribution, and is `SHORT` once every member on a
die that answers has contributed and another sits on a lost die (20 R480). (DEDUCED, log 93) -/
def State.collTry (s0 : State) (key : Nat) : State :=
  let s := s0.collLoad key
  let c := s.collOf key
  match c.ending, c.parts with
  | some st, _ => if s.collOpen c then s else s.collFinish key st
  | none, [] => s
  | none, p :: _ =>
    let left := (s.collGiven key).missing
    if left.isEmpty then
      if !c.agree then s.collFinish key (collStatus 0xFFFF 0 3)
      else if p.op = 6 then s.candDeliver key p
      else s.collResult key c true (collStatus 0xFFFF 0 1)
    else if left.all (s.rankLost key c) then s.collShort key
    else s

def execCollectiveComplete (s : State) : Result := .next (s.collTry s.args.a)

/-- The earliest deadline among the participants that have arrived, in nanoseconds. (DEDUCED, log 31) -/
def Coll.deadline (c : Coll) : Option Nat :=
  ((c.parts.filter (fun p => p.deadline ≠ 0)).map (fun p => timeNs p.deadline)).min?

/-- A look at the deadline: past it the instance is `SHORT`; before it, the next look is when it can have passed, with the time
slewed. -/
def execCollectiveDeadline (s : State) : Result :=
  let key := s.args.a
  let c := s.collOf key
  .next (match c.deadline with
    | none => s
    | some t =>
      if c.ending.isSome || (s.collGiven key).missing.isEmpty then s
      else if t < timeNs s.ptpt then s.collShort key
      else s.ensure (max 1 ((t - timeNs s.ptpt) * 12 / 17)) .collectiveDeadline { a := key })

end Sys2Proof.Machine
end

