-- ==== Sys2Proof/Machine/Control.lean ====
section
/-! DEFINITION. Stream control and synchronisation (07 R188 to R198, 01 R22 to R25). -/

namespace Sys2Proof.Machine

/-- `NOP` carries sync fields alone (07 R189). -/
def execNop (o : Op0) (s : State) : Result := command o.c { opc := 0x001 } (fun s => .done s 0) s

/-- The stream has ended; the fourth end of a job raises its completion in the next cycle (01 R26), and that of a prologue
its exit (15 R398). -/
def State.endStream (s : State) : State :=
  let s1 := s.modSt (fun t => { t with ended := true })
  if letters.all (fun l => (s1.job.stream l).ended) then
    if s.job.prologue then s1.post 1 .prologueRun { a := s.job.launch } else s1.post 1 .jobComplete { a := s.cur.job }
  else s1

/-- `NOTIFY` retires once every earlier command of its stream has reached its completion point (01 R25). -/
def execNotify (o : Op0) (s : State) : Result :=
  command o.c { opc := 0x003 } (fun s => if s.busy s.cur then .busy s else .done s.endStream 0) s

/-- All four streams have arrived at rendezvous `n`. -/
def Job.allArrived (j : Job) (n : Fin 16) : Bool := letters.all (fun l => (j.stream l).rdv == some n)

/-- Sets the release cycle of a complete rendezvous in all four streams (01 R22). -/
def Job.releaseRdv (j : Job) (t : Nat) : Job :=
  let f (x : Stream) := { x with arrived := some t }
  { j with a := f j.a, m := f j.m, v := f j.v, x := f j.x }

/-- `RDV n` (01 R22, R23, 07 R189): the stream arrives when its earlier commands have reached their completion points; 4 cycles after the
last arrival all four streams go on. -/
def rdvBody (n : Fin 16) (s : State) : Act :=
  let t := s.st
  match t.arrived with
  | some k => if k ≤ s.now then .done (s.modSt (fun t => { t with rdv := none, arrived := none })) 0 else .wait s
  | none =>
    if t.rdv.isSome || s.busy s.cur then .wait s
    else
      let s1 := s.modSt (fun t => { t with rdv := some n })
      .wait (if s1.job.allArrived n then s1.modJob s.cur.job (fun j => j.releaseRdv (s.now + 4)) else s1)

def execRdv (o : OpN) (s : State) : Result := command o.c { opc := 0x004 } (rdvBody o.n) s

/-- `SEMADD` (07 R191): a signal. -/
def execSemadd (o : OpSem) (s : State) : Result :=
  command o.c { opc := 0x005, regs := SemIdx_regs o.i ++ SemAmt_regs o.v, gw := true }
    (fun s => (s.semIdx o.i).andThen (fun i => .done (s.signal s.cur.job i (s.semAmt o.v)) 0)) s

/-- `SEMWAIT` (07 R191). -/
def execSemwait (o : OpSem) (s : State) : Result :=
  command o.c { opc := 0x006, regs := SemIdx_regs o.i ++ SemAmt_regs o.v }
    (fun s => (s.semIdx o.i).andThen (fun i => if s.job.waitMet i (s.semAmt o.v) then .done s 0 else .wait s)) s

/-- A `WBASE` write, seen by waits from the next cycle on (07 R191). -/
def State.setBase (s : State) (k : Nat) (i : BitVec 8) (v : BitVec 32) : State :=
  s.modJob k (fun j => { j with late := { j.late with wbs := j.late.wbs ++ [(i, v)] } })

/-- `SEMBASE` (07 R191). -/
def execSembase (o : OpSem) (s : State) : Result :=
  command o.c { opc := 0x007, regs := SemIdx_regs o.i ++ SemAmt_regs o.v }
    (fun s => (s.semIdx o.i).andThen (fun i => .done (s.setBase s.cur.job i (s.semAmt o.v)) 0)) s

/-- `SEMBASE.SNAP` (07 R191). -/
def execSembaseSnap (o : OpSemI) (s : State) : Result :=
  command o.c { opc := 0x007, regs := SemIdx_regs o.i }
    (fun s => (s.semIdx o.i).andThen (fun i => .done (s.setBase s.cur.job i s.job.sems[i.toNat]) 0)) s

/-- `SEMRD` (07 R191). -/
def execSemrd (o : OpSemD) (s : State) : Result :=
  command o.c { opc := 0x008, regs := .s o.d :: SemIdx_regs o.i }
    (fun s => (s.semIdx o.i).andThen (fun i => .done (s.sput o.d (s.job.sems[i.toNat].setWidth 64)) 0)) s

/-- `SEMRD.REL` (07 R191). -/
def execSemrdRel (o : OpSemD) (s : State) : Result :=
  command o.c { opc := 0x008, regs := .s o.d :: SemIdx_regs o.i }
    (fun s => (s.semIdx o.i).andThen (fun i =>
      .done (s.sput o.d ((s.job.sems[i.toNat] - s.job.wbase[i.toNat]).signExtend 64)) 0)) s

/-! ### Barriers (07 R192, R193) -/

/-- What names a barrier instance, the arrivals it needs, its latency and the fence scope of its conditions. (DEDUCED, log 24) -/
structure BarKey where
  scope : Nat
  place : Nat
  owner : Nat
  n : Nat
  need : Nat
  latency : Nat
  fence : Scope
  deriving DecidableEq, Repr

def Barrier.is (b : Barrier) (k : BarKey) : Bool := b.scope = k.scope && b.place = k.place && b.owner = k.owner && b.n = k.n

/-- One more arrival in the open round of an instance; the last one needed sets the release cycle. -/
def arriveAt (bs : List Barrier) (k : BarKey) (r : Ref) (now : Nat) : List Barrier :=
  let close (b : Barrier) : Barrier := if b.arrivals.length = b.count then { b with release := some (now + k.latency) } else b
  match bs with
  | [] => [close ⟨k.scope, k.place, k.owner, k.n, k.need, [r], none⟩]
  | b :: rest =>
    if b.is k && b.release.isNone then close { b with arrivals := b.arrivals ++ [r] } :: rest
    else b :: arriveAt rest k r now

/-- The stream leaves a released round; an empty one goes. -/
def leaveBar (bs : List Barrier) (r : Ref) : List Barrier :=
  (bs.map (fun b => if b.release.isSome then { b with arrivals := b.arrivals.filter (fun x => x ≠ r) } else b)).filter
    (fun b => !(b.release.isSome && b.arrivals.isEmpty))

/-- `BAR` (07 R192, R193): arrival under the conditions of a `FENCE.rel`, and going on under those of a `FENCE.acq`. -/
def barBody (k : BarKey) (s : State) : Act :=
  match s.barriers.find? (fun b => b.arrivals.contains s.cur) with
  | some b =>
    match b.release with
    | none => .wait s
    | some t =>
      if t ≤ s.now then .done ({ s with barriers := leaveBar s.barriers s.cur }.fenceStart s.cur true k.fence) 0 else .wait s
  | none =>
    match s.barriers.find? (fun b => b.is k && b.release.isNone) with
    | some b =>
      if b.count ≠ k.need then Act.code 22
      else if s.busy s.cur || !s.released s.cur k.fence s.nextId s.now then .wait (s.fenceStart s.cur false k.fence)
      else .wait { s with barriers := arriveAt s.barriers k s.cur s.now }
    | none =>
      if s.busy s.cur || !s.released s.cur k.fence s.nextId s.now then .wait (s.fenceStart s.cur false k.fence)
      else .wait { s with barriers := arriveAt s.barriers k s.cur s.now }

/-- The instance of a `BAR` at `CORE`, `DIE` or `PACKAGE` scope, with the greatest count it may name. -/
def State.barKey (s : State) (sc : BarScope) (n need : Nat) : BarKey × Nat :=
  let j := s.job
  match sc with
  | .core => (⟨0, j.coreKey, j.ctx, n, need, 6, .core⟩, 4)
  | .die => (⟨1, j.die, j.ctx, n, need, 30, .die⟩, 64)
  | .package => (⟨2, 0, j.ctx, n, need, 90, .package⟩, 512)

/-- `BAR.scope n, sA`. -/
def execBar (o : OpBar) (s : State) : Result :=
  command o.c { opc := 0x009, regs := [.s o.cnt], irrev := true }
    (fun s =>
      let need := (s.sget o.cnt).toNat
      let k := s.barKey o.scope o.n need
      if need = 0 || k.2 < need then Act.code 22 else barBody k.1 s) s

/-- Jobs of the running job's launch. -/
def State.launchJobs (s : State) : Nat := ((s.launches.find? s.job.launch).map (·.jobs)).getD 1

/-- `BAR.LAUNCH n`, under fabric scope. -/
def execBarLaunch (o : OpN) (s : State) : Result :=
  command o.c { opc := 0x009 }
    (fun s => barBody ⟨3, 0, s.job.launch, o.n, s.launchJobs, 90, .fabric⟩ s) s

/-! ### Pre-emption points, irrevocable points, traps -/

/-- Whether a `SAFEPT` may issue: its section's dependences, its wait, and the fences before it. -/
def State.opens (s : State) (c : Ctl) : Bool :=
  (s.st.issued ≠ s.st.entered || s.job.depsMet s.cur.letter) && s.job.ctlWait c && !s.fenced s.cur c.sig.isSome false

/-- `SAFEPT` (07 R190): at its queue head with its guard true the stream is at its pre-emption point, whatever its wait. -/
def safeptBody (c : Ctl) (s : State) : Act :=
  let s1 := s.modSt (fun t => { t with gap := 0 })
  if s.job.preempt.isSome && s.job.spec.isNone then .stop (s1.modSt (fun t => { t with stopped := true }))
  else if !s.opens c then .stop s1
  else .done s1 0

def execSafept (o : Op0) (s : State) : Result := command o.c { opc := 0x00A, safept := true } (safeptBody o.c) s

/-- `IRREV` has no body in a real job; a speculative one pauses at it (07 R189). -/
def execIrrev (o : Op0) (s : State) : Result := command o.c { opc := 0x00B, irrev := true } (fun s => .done s 0) s

/-- `TRAP code` (07 R198): the trap arises after the completion point, and is entered before the stream's next command. -/
def execTrap (o : OpTrap) (s : State) : Result :=
  command o.c { opc := 0x00C, irrev := true }
    (fun s => .done (s.modSt (fun t => t.raise s.now .trap (o.code.setWidth 32))) 0) s

/-- `BKPT code` (07 R198). -/
def execBkpt (o : OpTrap) (s : State) : Result :=
  command o.c { opc := 0x00D, irrev := true }
    (fun s => .done (s.modSt (fun t => t.raise s.now .bkpt (o.code.setWidth 32))) 0) s

end Sys2Proof.Machine
end

