-- ==== Sys2Proof/Machine/Undercoat.lean ====
section
/-! DEFINITION. Undercoat: the start of a speculative launch (14 R381, R382), its spoils (R387, R388), its claim (R390 to R392), and its
horizon (R394). -/

namespace Sys2Proof.Machine

/-! ### The start -/

/-- The lowest free index of a die's speculations. -/
def State.specSlot (s : State) (die : Nat) : Option Nat := (List.range 8).find? (fun i => ((s.dieOf die).specs.find? i).isNone)

/-- Whether 14 R381 lets a speculation start; a claimed launch is none of the speculative ones here. (DEDUCED, log 69) -/
def State.mayStart (s : State) (die q part : Nat) (seq : BitVec 32) : Bool :=
  let d := s.dieOf die
  ucWays d.uccfg ≠ 0 && ucMaxspec d.uccfg ≠ 0 && s.partField part 32 4 ≠ 0 && (List.filter (fun e : Nat × Spec => e.2.state ≠ .draining) d.specs).length < ucMaxspec d.uccfg &&
    !d.speculated.contains (q, seq) && s.ctxRuns (s.queueOf q).ctx

/-- The launch of a predicted record, as speculation `n`; none where a real launch of that record would fail its checks. -/
def State.predictedLaunch (s : State) (q n : Nat) (seq : BitVec 32) (r : List Byte) : Option Launch :=
  let l := { s.newLaunch q seq r .placing with held := false, spec := some n }
  match s.recordCheck { l with record := r.take 40 ++ bytesOf 8 (recCtrl r + 1024 * 2 ^ 40) ++ r.drop 48 } with
  | .error _ => none
  | .ok (d, b) =>
    let l1 := { l with desc := some d, args := b, trips := Vector.ofFn (fun i => recTrip r i.val) }
    if s.laterCheck l1 ≠ 0 then none else some { l1 with jobs := spatialCount l1.levels }

/-- The launch predicted for a sequence number starts, with index `i` on its die. -/
def State.startSpec (s : State) (die q i : Nat) (seq : BitVec 32) (l : Launch) : State :=
  let k := s.nextId
  let x : Spec := ⟨k, q, seq, s.now, .running, 0, [], [], []⟩
  let s1 := { s.newId with launches := s.launches.set k l }
  let s2 := s1.modDie die (fun d => { d with specs := d.specs.set i x, speculated := d.speculated ++ [(q, seq)] })
  ((s2.ucCount die l.part ucStarted 1).expand k).post 200000 .speculationHorizon { a := die, b := i }

/-- The cycle after the entry that confirmed a pattern: the launch predicted then starts. -/
def execSpeculationStart (s : State) : Result :=
  let g := s.args
  let seq := g.word.setWidth 32
  .next (match s.specSlot g.a with
    | none => s
    | some i =>
      if s.mayStart g.a g.b (recPart g.data) seq then
        match s.predictedLaunch g.b (g.a * 8 + i) seq g.data with
        | none => s
        | some l => s.startSpec g.a g.b i seq l
      else s)

/-! ### Spoils and the horizon -/

/-- The send number of a message on VC4 from slice `c` to die `a`. -/
def Move.vc4 (m : Move) (die slice : Nat) : Option Word :=
  match m with
  | .event .spoilArrival g => if g.a = die && g.c = slice then some g.word else none
  | .event .watchFenceAck g => if g.a = die && g.c = slice then some g.word else none
  | _ => none

/-- Whether a message sent earlier by the same slice to the same die is still on its way (14 R388). -/
def State.behind (s : State) (g : Args) : Bool :=
  s.agenda.any (fun e =>
    match e.move.vc4 g.a g.c with
    | none => false
    | some w => w.toNat < g.word.toNat)

/-- A spoil before the claim point discards the speculation; one for a speculation that no longer exists is dropped. -/
def execSpoilArrival (s : State) : Result :=
  let g := s.args
  .next (if s.behind g then s.post 1 .spoilArrival g
    else
      match s.specOf (g.a * 8 + g.b) with
      | none => s
      | some x => if x.state = .draining then s else s.discard (g.a * 8 + g.b) ucSpoil)

/-- 200,000 cycles without a claim point. -/
def execSpeculationHorizon (s : State) : Result :=
  let g := s.args
  .next (match s.specOf (g.a * 8 + g.b) with
    | none => s
    | some x => if x.state ≠ .draining && x.started + 200000 ≤ s.now then s.discard (g.a * 8 + g.b) ucHorizon else s)

/-! ### The claim -/

/-- Whether a real record matches what was predicted (14 R390). -/
def claimMatches (h : Hist) (l p : Launch) : Bool :=
  recDesc l.record = recDesc p.record && l.trips = p.trips && recPart l.record = recPart p.record && h.predictable &&
    (List.range 8).all (fun i => h.cls i = 2 || (argWords l.args).getD i 0 = (argWords p.args).getD i 0)

/-- Save areas for every job of a launch that holds a core; none where the context's pool has no room for them. -/
def State.reserveAll (s : State) (ks : List Nat) : Option State :=
  match ks with
  | [] => some s
  | k :: r =>
    match s.reserveSave k with
    | none => none
    | some t => State.reserveAll t r

/-- Whether the pool of a context has room for `n` more areas of `size` bytes. -/
def areasFit (l : List (Nat × Nat)) (pool size n : Nat) : Bool :=
  match n with
  | 0 => true
  | n + 1 =>
    match savePlace l pool size with
    | none => false
    | some o => areasFit (l ++ [(o, size)]) pool size n

/-- Save areas for every job of a speculative launch that has been placed (14 R390): those that hold a core keep them, and for those that have
completed there must be room. (DEDUCED, log 97) -/
def State.reserveClaim (s : State) (k : Nat) (p : Launch) : Option State :=
  match s.reserveAll (((s.jobsOfLaunch k).filter (fun e => e.2.status = .running)).map (·.1)) with
  | none => none
  | some t =>
    let c := t.ctxOf p.ctx
    let size := (p.desc.map (fun d => saveSize d.tiles d.scratch)).getD 0
    if areasFit c.saves c.savesize size p.completed then some t else none

/-- A claim attempt: it fails at once on a field or for want of save areas, else every slice is sent a watch fence. -/
def execClaimAttempt (s : State) : Result :=
  let k := s.args.a
  .next (match s.launches.find? k with
    | none => s
    | some l =>
      match l.state, l.spec with
      | .claiming, some n =>
        match s.specOf n with
        | none => s
        | some x =>
          match s.launches.find? x.launch with
          | none => s
          | some p =>
            if !claimMatches (s.histOf l.ctx l.seq l.record) l p then (s.cutHistory l.queue l.seq).discard n ucMismatch
            else
              match s.reserveClaim x.launch p with
              | none => s.discard n ucOther
              | some t =>
                (List.range 256).foldl (fun s c => s.later .watchFenceArrival { a := n / 8, b := n % 8, c := c })
                  (t.modSpec n (fun x => { x with state := .claiming, attempt := s.now, acks := [] }))
      | _, _ => s)

/-- A watch fence reaches a slice: the slice drops what it watches for the speculation and acknowledges, behind the spoils it has
sent. -/
def execWatchFenceArrival (s : State) : Result :=
  let g := s.args
  let n := g.a * 8 + g.b
  .next (if (s.specOf n).isNone then s
    else
      (s.modSlice g.c (fun x => { x with watch := x.watch.filter (fun w => w.1 ≠ n), overflow := NatSet.erase x.overflow n })).later
        .watchFenceAck { g with word := BitVec.ofNat 64 s.ticket })

/-- The `FREE` words of a claimed launch's argument block are those of the record. -/
def freeArgs (d : KDesc) (old new : List Byte) : List Byte :=
  ((List.range 8).map (fun i => sliceOf (if argClass d.argclass d.nargs i = 2 then new else old) (8 * i) 8)).flatten

/-- The `FREE` words put in a placed job's argument block at its scratch window's start. -/
def State.putFree (s : State) (j : Job) (d : KDesc) (b : List Byte) : State :=
  (List.range 8).foldl (fun s i => if argClass d.argclass d.nargs i = 2 then s.scrWrite j (8 * i) (sliceOf b (8 * i) 8) false else s) s

/-- The job of a claimed launch is real from the claim point on (01 R47). -/
def Job.claimed (j : Job) (r : List Byte) : Job :=
  let str (t : Stream) : Stream := { t with gap := 0 }
  { j with spec := none, prio := recPrio r, gapMax := recGap r, a := str j.a, m := str j.m, v := str j.v, x := str j.x }

/-- The claim point (14 R392): the jobs become real, the launch takes over the real record and its pool entry, and the shadow lines go
home. -/
def State.claim (s : State) (n : Nat) (x : Spec) : State :=
  match List.find? (fun e : Nat × Launch => e.2.state = .claiming && e.2.spec = some n) s.launches, s.launches.find? x.launch with
  | some (k, l), some p =>
    match p.desc with
    | none => s
    | some d =>
      let js := s.jobsOfLaunch x.launch
      let s1 := (js.filter (fun e => e.2.status = .running)).foldl (fun (s : State) e => s.putFree e.2 d l.args) s
      let s2 := js.foldl (fun (s : State) e => s.modJob e.1 (fun j => j.claimed l.record)) s1
      let real (a : Access) : Access := if a.spec = some n then { a with spec := none } else a
      let s3 := { s2 with
        accesses := s2.accesses.map (fun (e : Nat × Access) => (e.1, real e.2))
        launches := (s2.launches.erase k).set x.launch { p with
          record := l.record, args := freeArgs d p.args l.args, held := true, spec := none, started := true
          state := if p.jobs ≤ p.placed then .running else .placing } }
      let s4 := ((s3.freePool x.launch).modQueue l.queue (fun e => { e with lastStart := l.seq })).tryStart l.queue
      let s5 := x.shadow.foldl (fun (s : State) e => s.performLine e.2.die e.1 e.2.mask e.2.data e.2.poison) s4
      let die := n / 8
      let s6 := ((s5.ucCount die l.part ucClaimed 1).ucCount die l.part ucShadowLines x.shadow.length).ucCount die l.part ucClaimCycles
        (s.now - x.attempt)
      let s7 := js.foldl (fun (s : State) e => s.askPlace e.2.die) (s6.modSpec n (fun x => { x with state := .draining }))
      s7.later .shadowLinesPerformed { a := die, b := n % 8 }
  | _, _ => s

/-- An acknowledgement; the last of the 256 is the claim point. -/
def execWatchFenceAck (s : State) : Result :=
  let g := s.args
  let n := g.a * 8 + g.b
  .next (if s.behind g then s.post 1 .watchFenceAck g
    else
      match s.specOf n with
      | none => s
      | some x =>
        if x.state ≠ .claiming then s
        else
          let x1 := { x with acks := NatSet.insert x.acks g.c }
          let s1 := s.modSpec n (fun _ => x1)
          if x1.acks.length < 256 then s1 else s1.claim n x1)

/-- Every shadow line of a claimed launch has been performed: its paused jobs go on, and it completes where every job has.
(DESIGN CHOICE, log 21) -/
def execShadowLinesPerformed (s : State) : Result :=
  let g := s.args
  let n := g.a * 8 + g.b
  .next (match s.specOf n with
    | none => s
    | some x =>
      if x.state ≠ .draining then s
      else
        let go (t : Stream) : Stream := { t with paused := false }
        let s1 := (s.jobsOfLaunch x.launch).foldl (fun (s : State) e =>
          s.modJob e.1 (fun j => { j with a := go j.a, m := go j.m, v := go j.v, x := go j.x })) s
        let s2 := ((s1.dropWatch n).modDie g.a (fun d => { d with specs := d.specs.erase g.b })).unpost (fun m => m.ofSpec g.a g.b)
        match s2.launches.find? x.launch with
        | none => s2
        | some l => if l.jobs ≤ l.completed then s2.launchDone x.launch else s2)

end Sys2Proof.Machine
end

