-- ==== Sys2Proof/Machine/Klota.lean ====
section
/-! DEFINITION. Klota (19 R450 to R453): the mailbox registers, the forwarding of requests to the core that owns them, their responses, and
what a VF may send. Beside it `VERSION`, the aperture (19 R429), and writes of peers (03 R99). -/

namespace Sys2Proof.Machine

/-! ### Commands -/

/-- The firmware core that owns a command; `RESYNC` is assembled by F1 first. -/
def cmdCore (c : Nat) : Option (Fin 8) :=
  match c with
  | 0x01 => some 0
  | 0x02 | 0x20 | 0x21 | 0x22 | 0x23 => some 1
  | 0x10 | 0x11 | 0x12 | 0x13 | 0x14 => some 7
  | 0x30 | 0x31 | 0x32 => some 2
  | 0x38 | 0x39 => some 3
  | 0x40 | 0x41 => some 5
  | 0x50 | 0x51 | 0x52 | 0x53 => some 4
  | 0x60 | 0x61 => some 6
  | _ => none

/-- The commands that a VF may send. -/
def cmdVf (c : Nat) : Bool := [0x01, 0x20, 0x21, 0x22, 0x30, 0x31, 0x32, 0x39, 0x41, 0x60].contains c

def reqField (r : KReq) (off n : Nat) : Nat := fieldOf r.payload off n

/-- The event that runs a request; none where its operation byte names nothing. -/
def commandEvent (r : KReq) : Option Instr :=
  let op := reqField r 2 1
  match r.cmd with
  | 0x01 => some .version
  | 0x02 => some .resync
  | 0x10 => some .partSet
  | 0x11 => some .vfAssign
  | 0x12 => some .uccfgSet
  | 0x13 => some .shapeSet
  | 0x14 => some .pkgSet
  | 0x20 => some .queueCreate
  | 0x21 => some .queueDestroy
  | 0x22 => some .queueQuery
  | 0x23 => some .poolCap
  | 0x30 =>
    if op = 0 then some .mapStage1 else if op = 1 then some .mapStage2 else if op = 2 then some .mapContextDesc
    else if op = 3 then some .mapS2Root else none
  | 0x31 => if op = 0 then some .unmapStage1 else if op = 1 then some .unmapStage2 else none
  | 0x32 => if op = 0 then some .pinUnpin else if op = 1 then some .pinPin else if op = 2 then some .pinBacking else none
  | 0x38 => some .saveresume
  | 0x39 => some .ctxReset
  | 0x40 => some .shelfLoad
  | 0x41 => some .attest
  | 0x50 => some .samplerProg
  | 0x51 => some .samplerBind
  | 0x52 => some .samplerUnbind
  | 0x53 =>
    let op := reqField r 0 1
    if op = 0 then some .vocabLoadImage else if op = 1 then some .vocabLoadService else if op = 2 then some .vocabLoadRing
    else if op = 3 then some .vocabLoadGrammar else none
  | 0x60 => some .telemetry
  | 0x61 => some .budgetSet
  | _ => none

/-- Status codes (19 R451). -/
def stOk : Nat := 0
def stUnknown : Nat := 1
def stPermission : Nat := 2
def stInvalid : Nat := 3
def stBusy : Nat := 4
def stNoResource : Nat := 5

/-! ### Mailboxes of functions -/

def fnKey (fn : Option Nat) : Nat := fn.getD 256

/-- Slots of a function's mailbox. -/
def fnSlots (fn : Option Nat) : Nat := if fn.isSome then 8 else 64

def State.klotaOf (s : State) (fn : Option Nat) : Klota := s.klota.getD (fnKey fn) Klota.init

def State.modKlota (s : State) (fn : Option Nat) (f : Klota → Klota) : State :=
  { s with klota := s.klota.set (fnKey fn) (f (s.klotaOf fn)) }

/-- A request slot with the host bytes that it names (19 R451). -/
def reqOfSlot (fn : Option Nat) (b bulk : List Byte) : KReq :=
  ⟨fn, fieldOf b 0 2, BitVec.ofNat 32 (fieldOf b 4 4), fieldOf b 10 2, sliceOf b 16 (Nat.min 240 (fieldOf b 8 2)), bulk⟩

/-- Whether the header of a slot is well formed. -/
def slotOk (b : List Byte) : Bool := fieldOf b 2 2 = 0 && fieldOf b 8 2 ≤ 240 && fieldOf b 12 4 = 0

/-- A response on its way to its function's mailbox (19 R452). -/
def State.answer (s : State) (r : KReq) (status : Nat) (payload : List Byte) : State :=
  let b := bytesOf 4 r.tag.toNat ++ bytesOf 2 status ++ bytesOf 2 payload.length ++ bytesOf 8 0 ++ payload
  (s.modKlota r.fn (fun k => { k with waiting := k.waiting ++ [b] })).ensure 1 .klotaResponse { fn := r.fn }

/-- A core responds to a request: message 0x0102 to F0, which answers; F0's own answers need none. -/
def State.respond (s : State) (r : KReq) (status : Nat) (payload : List Byte) : State :=
  match cmdCore r.cmd with
  | none => s.answer r status payload
  | some c =>
    if c = 0 then s.answer r status payload
    else s.send ⟨0x0102, c, 0, status :: payload.map (·.toNat), none, some r⟩ .msgKlotaResponse { a := c.val }

/-- Whether a request's target is the sender's own (19 R453, 20 R462, 21 R488, R496). -/
def State.ownTarget (s : State) (vf : Nat) (r : KReq) : Bool :=
  let own (ctx : Nat) : Bool := ((s.ctxs.find? ctx).map (fun c => c.desc && c.vf = vf)).getD false
  let queue : Bool := let e := s.queueOf (reqField r 0 2); e.valid && e.vf = vf
  match r.cmd with
  | 0x20 => natBits (reqField r 2 8) 48 8 = vf
  | 0x21 | 0x22 => queue
  | 0x30 | 0x31 => reqField r 2 1 = 0 && own (reqField r 0 2)
  | 0x32 => reqField r 2 1 ≤ 1 && reqField r 0 2 = vf
  | 0x39 => own (reqField r 0 2)
  | 0x60 => reqField r 0 1 = 2 || reqField r 0 1 = 3
  | _ => true

/-- Whether the sender may send a request at all. -/
def State.permits (s : State) (r : KReq) : Bool :=
  match r.fn with
  | none => true
  | some vf =>
    if r.cmd = 0x01 then true
    else cmdVf r.cmd && (r.target = 0xFFFF || r.target = vf) && (s.vfs.getD vf Vf.init).part.isSome && s.ownTarget vf r

/-- F0 takes one request: it refuses it, runs `VERSION` itself, or forwards it to its core (message 0x0101). (DEDUCED, log 54) -/
def State.takeRequest (s : State) (fn : Option Nat) (b bulk : List Byte) : State :=
  let r := reqOfSlot fn b bulk
  let s1 := s.modKlota fn (fun k => { k with reqHead := k.reqHead + 1 })
  match cmdCore r.cmd with
  | none => s1.answer r stUnknown []
  | some c =>
    if !slotOk b then s1.answer r stInvalid []
    else if !s.permits r then s1.answer r stPermission []
    else if c = 0 then s1.post 1 .version { req := r }
    else s1.send ⟨0x0101, 0, c, [], none, some r⟩ .msgKlotaForward { a := c.val }

/-- A store to REQTAIL: F0 takes every request up to it, in slot order. One past the slots is refused and shows in DEVSTAT. (DEDUCED, log 59) -/
def execReqtailWrite (s : State) : Result :=
  let g := s.args
  let k := s.klotaOf g.fn
  let tail : BitVec 32 := g.word.setWidth 32
  let n := (tail - k.reqHead).toNat
  .next (if !s.ready then s
    else if fnSlots g.fn < n then
      if g.fn.isSome then s.modKlota g.fn (fun k => { k with fatal := true }) else { s with fatal := true }
    else
      (List.range n).foldl (fun (s : State) i =>
          let p := g.slots.getD i ([], [])
          s.takeRequest g.fn p.1 p.2)
        (s.modKlota g.fn (fun k => { k with reqTail := tail })))

/-- A response is written where a slot is free, and MSI-X vector 0 of its function raised. -/
def execKlotaResponse (s : State) : Result :=
  let fn := s.args.fn
  let k := s.klotaOf fn
  .next (match k.waiting with
    | [] => s
    | b :: r =>
      if fnSlots fn ≤ (k.rspTail - k.rspHead).toNat then s
      else
        let s1 := s.modKlota fn (fun k => { k with rsps := k.rsps.set (k.rspTail.toNat % fnSlots fn) b, rspTail := k.rspTail + 1, waiting := r })
        let s2 := { s1 with outbox := s1.outbox ++ [.msix fn 0] }
        if r.isEmpty then s2 else s2.ensure 1 .klotaResponse { fn := fn })

/-- A store to RSPHEAD frees slots. -/
def execRspheadWrite (s : State) : Result :=
  let g := s.args
  .next ((s.modKlota g.fn (fun k => { k with rspHead := g.word.setWidth 32 })).ensure 1 .klotaResponse { fn := g.fn })

/-! ### Forwarding -/

/-- The core whose command a move runs. -/
def Move.cmdCore (m : Move) : Option (Fin 8) :=
  match m with
  | .event _ g => if g.req.cmd = 0 then none else Machine.cmdCore g.req.cmd
  | _ => none

/-- Whether a core still runs a command: one core runs its commands in the order in which it receives them (19 R452), and `RESYNC` runs
alongside. -/
def State.coreBusy (s : State) (c : Fin 8) : Bool :=
  s.agenda.any (fun e => e.move.cmdCore = some c &&
    (match e.move with
     | .event .resync _ => false
     | _ => true)) || (c = 7 && !s.staged.isEmpty)

/-- A core receives a command and runs it. (DESIGN CHOICE, log 61) -/
def execMsgKlotaForward (s : State) : Result :=
  let c : Fin 8 := Fin.ofNat 8 s.args.a
  .next (s.receiveMail (fun m => m.type = 0x0101 && m.dst = c) .msgKlotaForward (fun t m =>
    match m.req with
    | none => t
    | some r =>
      if s.coreBusy c && r.cmd ≠ 0x02 then s.post 1 .msgKlotaForward s.args
      else
        match commandEvent r with
        | none => t.respond r stInvalid []
        | some i => t.post 0 i { req := r }))

/-- F0 receives a response. -/
def execMsgKlotaResponse (s : State) : Result :=
  let c : Fin 8 := Fin.ofNat 8 s.args.a
  .next (s.receiveMail (fun m => m.type = 0x0102 && m.src = c) .msgKlotaResponse (fun s m =>
    match m.req with
    | none => s
    | some r => s.answer r (m.payload.headD 0) (m.payload.tail.map (BitVec.ofNat 8))))

/-- `VERSION`: the eight firmware versions. -/
def execVersion (s : State) : Result :=
  .next (s.answer s.args.req stOk ((List.range 8).map (fun i => bytesOf 8 (Config.fwVersion i).toNat)).flatten)

/-! ### The aperture (19 R429) -/

/-- A host access through BAR 4: performed as `RC` at its home; one that the context does not allow drops, or reads as ones, and is
counted. -/
def execApertureAccess (s : State) : Result :=
  let g := s.args
  let v := s.vfs.getD g.a Vf.init
  let va := (v.apbase.toNat + g.b % 2 ^ 32) % 2 ^ 64
  let bad : State := { s with vfs := s.vfs.set g.a { v with apErrors := v.apErrors + 1 } }
  .next (if v.part.isNone then (if g.flag then bad else { bad with outbox := bad.outbox ++ [.apRead g.a (List.replicate g.c 0xFF)] })
    else if g.flag then (s.vaWrite v.aperture va g.data).getD bad
    else
      match s.vaRead v.aperture va g.c with
      | some b =>
        let t := s.markVa v.aperture va g.c
        { t with outbox := t.outbox ++ [.apRead g.a b] }
      | none => { bad with outbox := bad.outbox ++ [.apRead g.a (List.replicate g.c 0xFF)] })

/-- A write of another package over Tsuly Link, performed at its home (03 R99). (DEDUCED, log 88) -/
def execPeerWrite (s : State) : Result :=
  let g := s.args
  if 2 ^ 40 < g.b + g.data.length then .fault (.noSuchAddress g.b)
  else .next (s.writeParts ((linesOf g.b g.data.length).map (fun l => (homeDie l.1, l.1, l.2))) g.data false)

end Sys2Proof.Machine
end

