-- ==== Sys2Proof/Machine/Recover.lean ====
section
/-! DEFINITION. Recovery (20 R472, R476, R480 to R482): context errors reach F3, frozen contexts drain, the fault dump is written before anything
is cleared, and the launches of the context complete. Beside it the loss of a die, and resets that the host asks for. -/

namespace Sys2Proof.Machine

/-! ### Error records (20 R475) -/

def ErrRec.bytes (e : ErrRec) : List Byte :=
  bytesOf 2 e.code ++ bytesOf 1 e.reason ++ bytesOf 1 e.stream ++ bytesOf 1 e.trap ++ bytesOf 1 e.more ++ bytesOf 2 0 ++
    bytesOf 8 e.jobid.toNat ++ bytesOf 8 e.launch.toNat ++ bytesOf 8 e.word.toNat ++ bytesOf 2 e.opc ++ bytesOf 2 e.num ++
    bytesOf 1 e.ha ++ bytesOf 1 e.hb ++ bytesOf 2 0 ++ bytesOf 8 e.vaddr.toNat ++ bytesOf 8 e.paddr.toNat ++ bytesOf 8 e.time.toNat

/-- CTXID of the job that a record names. -/
def ErrRec.ctx (e : ErrRec) : Nat := natBits e.jobid.toNat 28 4 * 256 + natBits e.jobid.toNat 20 8

/-- F3 receives a context error record: the context is frozen with it (20 R472). -/
def execMsgContextError (s : State) : Result :=
  .next (s.receiveMail (fun m => m.type = 0x0201) .msgContextError (fun s m =>
    match m.err with
    | none => s
    | some e => (s.addError e.ctx e).freeze e.ctx e.code))

/-! ### Draining -/

/-- Whether a flight keeps a frozen context from being dumped: not one of a job off the machine or of a speculation, a parked task, or a
`LAUNCHP` that parks. -/
def State.mustDrain (s : State) (ctx : Nat) (f : Flight) : Bool :=
  let j := s.jobOf f.ref.job
  j.ctx = ctx && j.onCore && j.spec.isNone &&
    (match f.work with
     | .task _ e => ((((s.coreOf j.coreKey).trowel.pool.find? e).map (fun p => decide (p.state = 5))).getD false) = false
     | .pool r _ _ _ => !(r.park && j.parking)
     | _ => true)

/-- Whether an error record of the context is on its way to F3. -/
def State.errorsComing (s : State) (ctx : Nat) : Bool :=
  s.mail.any (fun m => m.type = 0x0201 && (m.err.map (fun e => decide (e.ctx = ctx))).getD false)

/-- A frozen context whose commands in flight have all reached their completion points is dumped. -/
def execContextFrozenDrained (s : State) : Result :=
  let ctx := s.args.a
  .next (if (s.ctxOf ctx).state ≠ .frozen then s
    else if s.flights.any (fun f => s.mustDrain ctx f.2) || s.errorsComing ctx then s.post 1 .contextFrozenDrained { a := ctx }
    else (s.modCtx ctx (fun c => { c with state := .dumping })).post 1 .captureBeforeReset { a := ctx })

/-! ### The fault dump (20 R482) -/

/-- Header of a parked row (13 R371). -/
def ParkRow.header (r : ParkRow) : List Byte := bytesOf 8 (r.entry * 2 ^ 56 + r.row * 2 ^ 48 + r.cause * 2 ^ 44 + r.pass.toNat)

/-- Headers of a context's parked rows. -/
def State.parkHeaders (s : State) (ctx : Nat) : List (List Byte) :=
  (s.cores.map (fun (e : Nat × Core) =>
    (e.2.trowel.parked.filter (fun r => ((e.2.trowel.pool.find? r.entry).map (·.ctx)) = some ctx)).map ParkRow.header)).flatten

/-- Jobs that a dump lists: the real jobs of the context that have been placed. (DEDUCED, log 53) -/
def State.dumpJobs (s : State) (ctx : Nat) : List (Nat × Job) :=
  (s.jobsOf ctx).filter (fun e => e.2.spec.isNone && !e.2.prologue && e.2.status ≠ .created)

/-- A job's entry: the first 0x3000 bytes of its save-area layout. -/
def State.dumpJob (s : State) (k : Nat) (j : Job) : List Byte :=
  s.saveHeader k (if j.status = .parked then 2 else if j.status = .preempted then 1 else 0) ++ j.saveImage

/-- The fault dump. -/
def State.dumpBytes (s : State) (ctx : Nat) : List Byte :=
  let c := s.ctxOf ctx
  let js := s.dumpJobs ctx
  let n := Nat.min js.length ((c.dumpsize - 0x1040) / 0x3000)
  let ph := (s.parkHeaders ctx).take 256
  bytesOf 4 0x504D5544 ++ bytesOf 2 1 ++ bytesOf 2 js.length ++ bytesOf 2 ctx ++ bytesOf 2 c.cause ++ bytesOf 2 (Nat.min 32 c.errors.length) ++
    bytesOf 2 ph.length ++ bytesOf 8 c.frozenAt.toNat ++ bytesOf 8 (0x1040 + 0x3000 * n) ++ bytesOf 4 (if n < js.length then 1 else 0) ++
    List.replicate 28 0 ++ padTo 2048 (((c.errors.take 32).map ErrRec.bytes).flatten) ++ padTo 2048 ph.flatten ++
    ((js.take n).map (fun e => s.dumpJob e.1 e.2)).flatten

/-! ### What a capture discards (20 R481 step 3) -/

/-- Speculations, not yet claimed, of launches that satisfy `p`. -/
def State.specsWhere (s : State) (p : Launch → Bool) : List Nat :=
  (s.dies.map (fun (e : Nat × Die) =>
    (List.filter (fun x : Nat × Spec => x.2.state ≠ .draining && ((s.launches.find? x.2.launch).map p).getD false) e.2.specs).map (fun x => e.1 * 8 + x.1))).flatten

def State.discardWhere (s : State) (p : Launch → Bool) : State := (s.specsWhere p).foldl (fun s n => s.discard n ucOther) s

/-- Tasks of a context leave every pool, with their parked rows. -/
def State.dropTasks (s : State) (ctx : Nat) : State :=
  s.cores.foldl (fun (t : State) (c : Nat × Core) =>
    (List.filter (fun e : Nat × PoolEntry => e.2.ctx = ctx) c.2.trowel.pool).foldl (fun (t : State) e => t.freeEntry c.1 e.1) t) s

/-- Prologues of a context end, waiting or running. -/
def State.dropPrologues (s : State) (ctx : Nat) : State :=
  let of (k : Nat) : Bool := ((s.launches.find? k).map (fun l => decide (l.ctx = ctx))).getD false
  s.dies.foldl (fun (t : State) (d : Nat × Die) =>
    let t1 := t.modDie d.1 (fun x => { x with prologueQ := x.prologueQ.filter (fun k => !of k) })
    match d.2.prologue with
    | none => t1
    | some p =>
      if !of p then t1
      else
        match List.find? (fun e : Nat × Job => e.2.prologue && e.2.launch = p) t1.jobs with
        | none => t1
        | some (n, _) => t1.endPrologue d.1 n) s

/-- What a context loses: speculations, tasks, prologues, reservations, save areas, and its jobs with their handles. -/
def State.clearCtx (s : State) (ctx : Nat) : State :=
  let s1 := ((s.discardWhere (fun l => l.ctx = ctx)).dropTasks ctx).dropPrologues ctx
  let js := (List.filter (fun e : Nat × Job => e.2.ctx = ctx) s1.jobs).map (·.1)
  let s2 := js.foldl (fun s k => s.dropJob k) s1
  let unreserve (d : Die) : Die := { d with reserved := d.reserved.filter (fun k => !js.contains k), blocking := d.blocking.filter (fun k => !js.contains k) }
  { s2 with
    dies := s2.dies.map (fun (e : Nat × Die) => (e.1, unreserve e.2))
    faults := List.filter (fun e : Nat × PFault => e.2.ctx ≠ ctx) s2.faults }.modCtx ctx (fun c => { c with saves := [] })

/-- The dump is written; once it is performed, what the context had is discarded, and F3 tells F1 to complete its launches. -/
def execCaptureBeforeReset (s : State) : Result :=
  let ctx := s.args.a
  let c := s.ctxOf ctx
  .next (if c.state ≠ .dumping then s
    else
      let s1 := (s.vaWrite ctx c.dump.toNat (s.dumpBytes ctx)).getD s
      (s1.clearCtx ctx).send ⟨0x0202, 3, 1, [ctx], none, none⟩ .msgDecision {})

/-! ### The launches of a reset context (20 R476) -/

/-- DETAIL of a `FAULTED` completion word. -/
def faultDetail (cause : Nat) : Nat := if cause = causeSave then 254 else if cause = causeReset then 255 else cause

/-- A launch of the context completes: `FAULTED` where a job had been placed, else `RESET`. -/
def State.resetLaunch (s : State) (k cause : Nat) (l : Launch) : State :=
  if l.started then s.finishLaunch k 4 (faultDetail cause) else s.finishLaunch k 5 0

/-- Records that a ring queue has announced and not read complete `RESET` too; RSEQ is WSEQ. -/
def State.resetQueue (s : State) (q : Nat) (e : Queue) : State :=
  let n := if e.direct then 0 else (e.wseq - e.rseq).toNat
  let one (s : State) (i : Nat) : State :=
    let seq := e.rseq + BitVec.ofNat 32 i
    let l := { s.newLaunch q seq (s.homeRead (e.base + 128 * (seq.toNat % e.size)) 128) .pending with held := false }
    let k := s.nextId
    { s.newId with launches := s.launches.set k l }.finishLaunch k 5 0
  ((List.range n).foldl one s).modQueue q (fun e => { e with rseq := e.wseq, pending := false, hold := false })

/-- Every launch of a context completes, and its queues are empty. -/
def State.resetLaunches (s : State) (ctx cause : Nat) : State :=
  let ls := List.filter (fun e : Nat × Launch => e.2.ctx = ctx && e.2.state ≠ .finishing) s.launches
  let s1 := ls.foldl (fun (s : State) e => s.resetLaunch e.1 cause e.2) s
  (List.filter (fun e : Nat × Queue => e.2.valid && e.2.ctx = ctx) s1.queues).foldl (fun (s : State) e => s.resetQueue e.1 e.2) s1

/-- F1 carries out F3's decision; the context is `EMPTY`, and every `CTX_RESET` of it is answered. -/
def execMsgDecision (s : State) : Result :=
  .next (s.receiveMail (fun m => m.type = 0x0202) .msgDecision (fun s m =>
    let ctx := m.payload.headD 0
    let c := s.ctxOf ctx
    let s1 := (s.resetLaunches ctx c.cause).modCtx ctx (fun c => { c with state := .empty, errors := [], cause := 0, resetBy := [] })
    c.resetBy.foldl (fun s r => s.respond r stOk []) s1))

/-! ### Resets (19 R430, 20 R471, R481) -/

/-- `CTX_RESET`: capture before reset with cause 0xFFFF; a context that is being reset answers both. (DEDUCED, log 52) -/
def execCtxReset (s : State) : Result :=
  let r := s.args.req
  let ctx := reqField r 0 2
  .next (if r.payload.length < 2 || !(s.ctxOf ctx).desc then s.respond r stInvalid []
    else (s.modCtx ctx (fun c => { c with resetBy := c.resetBy ++ [r] })).freeze ctx causeReset)

/-- A function-level reset of a VF: every context of it is captured and reset. -/
def execVfFlr (s : State) : Result :=
  .next ((List.filter (fun e : Nat × Ctx => e.2.desc && e.2.vf = s.args.a) s.ctxs).foldl (fun (s : State) e => s.freeze e.1 causeReset) s)

/-- `SAVERESUME`: the save goes on from its faulting line. -/
def execSaveresume (s : State) : Result :=
  let r := s.args.req
  let ctx := reqField r 0 2
  let js := (s.jobsOf ctx).filter (fun e => (e.2.save.map (fun v => v.since.isSome)).getD false)
  let go (s : State) (k : Nat) : State :=
    (s.modJob k (fun j => { j with save := j.save.map (fun v => { v with since := none }) })).saveRun k
  .next (if (s.ctxOf ctx).state ≠ .saveBlocked || js.isEmpty then s.respond r stInvalid []
    else ((js.foldl (fun (s : State) e => go s e.1) s).settleCtx ctx).respond r stOk [])

/-- F7 is told of a blocked save: it stands among the outstanding errors, and the hypervisor's interrupt is raised (20 R471). -/
def execMsgSaveBlocked (s : State) : Result :=
  .next (s.receiveMail (fun m => m.type = 0x0501) .msgSaveBlocked (fun s m =>
    let s1 := match m.err with
      | none => s
      | some e => { s with errors := s.errors ++ [e] }
    { s1 with outbox := s1.outbox ++ [.msix none 1] }))

/-! ### The loss of a die (20 R480, 22 R513) -/

/-- Contexts with a job on a die, or with a write not yet performed at one of its slices. -/
def State.lostCtxs (s : State) (die : Nat) : List Nat :=
  let jobs := (List.filter (fun e : Nat × Job => e.2.die = die && (e.2.status = .running || e.2.status = .resuming)) s.jobs).map (·.2.ctx)
  let writes := (List.filter (fun e : Nat × Access => e.2.die = die && e.2.op.writes && e.2.stage != .performed) s.accesses).map (·.2.ctx)
  let lines := (s.cores.map (fun (e : Nat × Core) => (e.2.combine.filter (fun c => c.die = die)).map (·.ctx))).flatten
  (jobs ++ writes ++ lines).foldl NatSet.insert []

/-- Collectives with an instance under way: those with a participant on a lost die complete `SHORT` (20 R480). -/
def State.openColls (s : State) : List Nat := (List.filter (fun e : Nat × Coll => !e.2.parts.isEmpty) s.colls).map (·.1)

/-- The stages of a ring that stand before its last, as package and die (22 R498). (DEDUCED, log 83) -/
def ringStages (b : List Byte) : List (Nat × Nat) := (List.range (fieldOf b 1 1 - 1)).map (fun i => (fieldOf b (8 + 4 * i) 2, fieldOf b (10 + 4 * i) 1))

/-- Requests of rings with a stage before the last on a die end (22 R513). -/
def State.lostRequests (s : State) (die : Nat) : State :=
  (List.filter (fun e : Nat × Request => !e.2.finished && (ringStages (s.rings.getD e.2.ring [])).contains (s.pkg, die)) s.requests).foldl
    (fun (s : State) e => s.toDetok e.2.detok [.stop e.1 53]) s

/-- F3 declares a die lost. (DEDUCED, log 76) -/
def execDieLost (s : State) : Result :=
  let die := s.args.a
  .next (if (s.dieOf die).lost then s
    else
      let cs := s.lostCtxs die
      let s1 := s.modDie die (fun d => { d with lost := true })
      let first (s : State) (ctx : Nat) : Nat := (((s.jobsOf ctx).find? (fun e => e.2.die = die)).map (·.1)).getD (((s.jobsOf ctx).head?.map (·.1)).getD 0)
      let s2 := cs.foldl (fun s ctx => s.freezeFor (first s ctx) ctx 53) s1
      let s3 := s2.openColls.foldl State.collTry s2
      let live := (List.filter (fun e : Nat × SCtx => e.2.state ≠ .idle && e.2.state ≠ .stopped) (s3.dieOf die).sampler.ctxs).map (·.1)
      (live.foldl (fun s c => s.stopCtx die c 53) s3).lostRequests die)

end Sys2Proof.Machine
end

