-- ==== Sys2Proof/Machine/Pages.lean ====
section
/-! DEFINITION. F2's work on page tables (20 R462, R463): mapping, unmapping and pinning, and the frames that a partition may hold (20 R466, 23
R524). -/

namespace Sys2Proof.Machine

/-! ### Tables as maps -/

def keyLevel (k : Nat) : Nat := k / 2 ^ 36 % 16
def keyId (k : Nat) : Nat := k / 2 ^ 40

/-- First address that an entry translates. -/
def keyAddr (k : Nat) : Nat := k % 2 ^ 36 * 2 ^ levelShift (keyLevel k)

/-- Bytes that an entry of a level covers. -/
def levelBytes (l : Nat) : Nat := 2 ^ levelShift l

/-- Whether an entry is a leaf, resident or not. -/
def entLeaf (w : Word) : Bool := 2 ≤ entType w

/-- The leaf that covers an address, resident or not, looking down from level `l`: its level and entry. -/
def leafFrom (t : Map Word) (id a l fuel : Nat) : Option (Nat × Word) :=
  match fuel with
  | 0 => none
  | fuel + 1 =>
    let w := t.getD (tableKey id l a) 0
    if entLeaf w then some (l, w) else if entType w = 1 then leafFrom t id a (l + 1) fuel else none

/-- The leaf of a stage-1 or stage-2 table; `top` is the stage's first level. -/
def leafAt (t : Map Word) (top id a : Nat) : Option (Nat × Word) := leafFrom t id a top (4 - top)

/-- A table entry; its address is F2's own. -/
def tableEntry : Word := 1

/-- A leaf with OADDR moved on by `n` bytes. -/
def leafMoved (w : Word) (n : Nat) : Word := w + BitVec.ofNat 64 n

/-- A leaf of level `l` replaced by leaves of level `m`, which map the same addresses with the same attributes. -/
def splitLeaf (t : Map Word) (id l m a : Nat) (w : Word) : Map Word :=
  let base := a / levelBytes l * levelBytes l
  let mid := (List.range (m - l)).foldl (fun (t : Map Word) i =>
    (List.range (levelBytes l / levelBytes (l + i))).foldl (fun (t : Map Word) j => Map.set t (tableKey id (l + i) (base + j * levelBytes (l + i))) tableEntry) t) t
  (List.range (levelBytes l / levelBytes m)).foldl (fun (t : Map Word) j =>
    Map.set t (tableKey id m (base + j * levelBytes m)) (leafMoved w (j * levelBytes m))) mid

/-- Larger leaves above an entry of level `m` are split. -/
def splitAbove (t : Map Word) (top id m a : Nat) : Map Word :=
  match leafAt t top id a with
  | none => t
  | some (l, w) => if l < m then splitLeaf t id l m a w else t

/-- Entries below and at level `m` that lie within the page at `a` go. -/
def clearPage (t : Map Word) (id m a : Nat) : Map Word :=
  List.filter (fun e : Nat × Word =>
    !(keyId e.1 = id && decide (m ≤ keyLevel e.1) && decide (a / levelBytes m * levelBytes m ≤ keyAddr e.1 && keyAddr e.1 < a / levelBytes m * levelBytes m + levelBytes m))) t

/-- A leaf written at level `m`. -/
def putLeaf (t : Map Word) (top id m a : Nat) (w : Word) : Map Word :=
  let t1 := clearPage (splitAbove t top id m a) id m a
  let t2 := ((List.range m).filter (fun l => top ≤ l)).foldl (fun (t : Map Word) l => Map.set t (tableKey id l a) tableEntry) t1
  Map.set t2 (tableKey id m a) w

/-- A page of level `m` unmapped. -/
def dropLeaf (t : Map Word) (top id m a : Nat) : Map Word := clearPage (splitAbove t top id m a) id m a

/-- Pages of a range. -/
def pagesOf (lo len n : Nat) : List Nat := (List.range (len / n)).map (fun i => lo + i * n)

/-- Leaves that a range touches, as level, first address and entry. -/
def leavesIn (t : Map Word) (id lo len : Nat) : List (Nat × Nat × Word) :=
  (List.filter (fun e : Nat × Word => entLeaf e.2 && keyId e.1 = id && overlap (keyAddr e.1) (levelBytes (keyLevel e.1)) lo len) t).map
    (fun e => (keyLevel e.1, keyAddr e.1, e.2))

/-- The range grown to the whole of every leaf that it touches. -/
def wholeRange (t : Map Word) (id lo len : Nat) : Nat × Nat :=
  let ls := leavesIn t id lo len
  let a := ls.foldl (fun m e => Nat.min m e.2.1) lo
  let b := ls.foldl (fun m e => Nat.max m (e.2.1 + levelBytes e.1)) (lo + len)
  (a, b - a)

/-! ### Shelf frames and resident frames -/

/-- Physical ranges of the weight shelf (21 R494). -/
def State.shelf (s : State) : List (Nat × Nat) :=
  (List.filter (fun e : Nat × Wid => e.2.valid) s.wids).map (fun e => (e.2.paddr, (e.2.len + 65535) / 65536 * 65536))

def State.onShelf (s : State) (pa n : Nat) : Bool := s.shelf.any (fun r => overlap r.1 r.2 pa n)

/-- Whether a leaf over `n` bytes of intermediate addresses lies on a shelf frame anywhere. -/
def State.overShelf (s : State) (vf ipa n : Nat) : Bool :=
  (leavesIn s.s2 vf ipa n).any (fun l =>
    let lo := max ipa l.2.1
    let hi := min (ipa + n) (l.2.1 + levelBytes l.1)
    s.onShelf (entAddr l.2.2 + (lo - l.2.1)) (hi - lo))

/-- A stage-1 leaf as F2 writes it: RO and SHELF stand exactly where a shelf frame lies beneath it, SHELF nowhere else (02 R75, 20 R459, 21
R494). -/
def State.shelfBits (s : State) (vf ipa n : Nat) (w : Word) : Word :=
  if s.overShelf vf ipa n then w ||| 0x3000000000000000#64 else w &&& ~~~(0x1000000000000000#64)

/-- Stage-1 leaves of a VF's contexts again, after the frames beneath them have changed. -/
def State.shelfAgain (s : State) (vf : Nat) : State :=
  { s with s1 := s.s1.map (fun (e : Nat × Word) =>
      if entLeaf e.2 && ((s.ctxs.find? (keyId e.1)).map (fun c => c.desc && c.vf = vf)).getD false then
        (e.1, s.shelfBits vf (entAddr e.2) (levelBytes (keyLevel e.1)) e.2)
      else e) }

/-- The 64 KiB frames that a resident stage-1 leaf maps. -/
def State.framesOf (s : State) (vf : Nat) (e : Nat × Word) : List Nat :=
  (List.range (levelBytes (keyLevel e.1) / 65536)).filterMap (fun i =>
    let ipa := entAddr e.2 + i * 65536
    (walk2 s.s2 vf ipa).map (fun l => (entAddr l.ent + ipa % levelBytes l.level) / 65536))

/-- Resident frames of a VF, of one class. -/
def State.vfFrames (s : State) (vf : Nat) (burst : Bool) : List Nat :=
  (s.s1.map (fun (e : Nat × Word) =>
    if entType e.2 = 2 && decide (entField e.2 59 1 = 1) == burst && ((s.ctxs.find? (keyId e.1)).map (fun c => c.desc && c.vf = vf)).getD false then
      s.framesOf vf e else [])).flatten

/-- Resident frames of a partition: those of the guaranteed class, and the others (20 R466). -/
def State.resident (s : State) (p : Nat) : List Nat × List Nat :=
  let vs := (List.filter (fun e : Nat × Vf => e.2.part = some p) s.vfs).map (·.1)
  let shelf (f : Nat) : Bool := s.onShelf (f * 65536) 65536
  let set (b : Bool) : List Nat := (((vs.map (fun v => s.vfFrames v b)).flatten).filter (fun f => !shelf f)).foldl NatSet.insert []
  let g := set false
  (g, (set true).filter (fun f => !g.contains f))

/-- Whether a change of tables from `s` to `t` keeps a partition within its frames, or at least raises no count past its limit. -/
def State.framesFit (s t : State) (p : Nat) : Bool :=
  let a := s.resident p
  let b := t.resident p
  let g := s.partField p 4 4
  let all := g + s.partField p 8 4
  (b.1.length ≤ g || b.1.length ≤ a.1.length) && (b.1.length + b.2.length ≤ all || b.1.length + b.2.length ≤ a.1.length + a.2.length)

/-- The partition of a VF. -/
def State.partOfVf (s : State) (vf : Nat) : Option Nat := (s.vfs.getD vf Vf.init).part

def State.fits (s t : State) (vf : Nat) : Bool :=
  match s.partOfVf vf with
  | none => true
  | some p => s.framesFit t p

/-! ### `MAP` and `UNMAP` (20 R462) -/

/-- Level of a page-size code; none for a code that names none. -/
def sizeLevel (c : Nat) : Option Nat := if c = 0 then some 3 else if c = 1 then some 2 else if c = 2 then some 1 else none

/-- F2's root for a context, which exists from the first `MAP` for it on. -/
def State.ensureCtx (s : State) (ctx : Nat) : State :=
  match s.ctxs.find? ctx with
  | some _ => s
  | none => { s with ctxs := s.ctxs.set ctx { Ctx.blank with s1root := Config.s1root ctx } }

/-- A mapping change whose entries are written: where it replaced a leaf it goes on by 20 R463, else it is done. -/
def State.change (s : State) (i : Instr) (r : KReq) (c : Change) (replaced : Bool) (done : State → State) : State :=
  let s1 := s.dropXlat c
  if replaced then (s1.stopHolders c).post 1 i { req := r, flag := true, a := c.lo, b := c.len } else done s1

/-- 20 R463 from step 2 on: it waits for every holder, then revokes. -/
def State.changeOn (s : State) (i : Instr) (g : Args) (c : Change) (done : State → State) : State :=
  if (s.holders c).isEmpty then done (s.revoke c) else (s.stopHolders c).post 1 i g

/-- Whether a mapping payload's range is aligned to pages of a level and lies in both address spaces. -/
def rangeOk (lo tgt len n top : Nat) : Bool :=
  lo % n = 0 && tgt % n = 0 && len % n = 0 && decide (lo + len ≤ top) && decide (tgt + len ≤ 2 ^ 40)

/-- The response of a mapping command. -/
def State.mapDone (r : KReq) (s : State) : State := s.respond r stOk []

/-- `MAP` OP 0. (DEDUCED, log 71) -/
def State.mapOne (s : State) (g : Args) : State :=
  let r := g.req
  let ctx := reqField r 0 2
  if g.flag then s.changeOn .mapStage1 g (Change.ofArgs g) (State.mapDone r)
  else
    let attr := reqField r 32 8
    match sizeLevel (attr % 4) with
    | none => s.respond r stInvalid []
    | some m =>
      let lo := reqField r 8 8
      let tgt := reqField r 16 8
      let len := reqField r 24 8
      if r.payload.length < 40 || 4096 ≤ ctx || !rangeOk lo tgt len (levelBytes m) (2 ^ 48) then s.respond r stInvalid []
      else
        let s0 := s.ensureCtx ctx
        let vf := s0.vfOf ctx
        let leaf (a : Nat) : Word :=
          s0.shelfBits vf (tgt + (a - lo)) (levelBytes m) (BitVec.ofNat 64 (attr / 2 ^ 52 % 2 ^ 12 * 2 ^ 52 + (tgt + (a - lo)) + 2))
        let w := wholeRange s0.s1 ctx lo len
        let t := { s0 with s1 := (pagesOf lo len (levelBytes m)).foldl (fun (t : Map Word) a => putLeaf t 0 ctx m a (leaf a)) s0.s1 }
        if (s0.ctxOf ctx).desc && !s.fits t vf then s.respond r stNoResource []
        else t.change .mapStage1 r ⟨false, ctx, w.1, w.2⟩ (!(leavesIn s0.s1 ctx lo len).isEmpty) (State.mapDone r)

def execMapStage1 (s : State) : Result := .next (s.mapOne s.args)

/-- Faults of a VF's pages that wait for a stage-2 mapping are looked at again (20 R467). -/
def State.lookAgain (s : State) (vf : Nat) : State :=
  (List.filter (fun e : Nat × PFault => e.2.vf = vf && e.2.state = 0 && e.2.miss = missStage2.toNat) s.faults).foldl
    (fun (s : State) e => s.ensure 1 .faultService { a := e.1 }) s

/-- `MAP` OP 1. -/
def State.mapTwo (s : State) (g : Args) : State :=
  let r := g.req
  let vf := reqField r 0 2
  let done (s : State) : State := (s.lookAgain vf).respond r stOk []
  if g.flag then s.changeOn .mapStage2 g (Change.ofArgs g) done
  else
    let attr := reqField r 32 8
    match sizeLevel (attr % 4) with
    | none => s.respond r stInvalid []
    | some m =>
      let lo := reqField r 8 8
      let tgt := reqField r 16 8
      let len := reqField r 24 8
      if r.payload.length < 40 || 191 < vf || !rangeOk lo tgt len (levelBytes m) (2 ^ 40) then s.respond r stInvalid []
      else
        let leaf (a : Nat) : Word := BitVec.ofNat 64 (attr / 2 ^ 52 % 2 ^ 12 * 2 ^ 52 + (tgt + (a - lo)) + 2)
        let w := wholeRange s.s2 vf lo len
        let t := ({ s with s2 := (pagesOf lo len (levelBytes m)).foldl (fun (t : Map Word) a => putLeaf t 1 vf m a (leaf a)) s.s2 }).shelfAgain vf
        if !s.fits t vf then s.respond r stNoResource []
        else t.change .mapStage2 r ⟨true, vf, w.1, w.2⟩ (!(leavesIn s.s2 vf lo len).isEmpty) done

def execMapStage2 (s : State) : Result := .next (s.mapTwo s.args)

/-- The level of the pages that an `UNMAP` removes: the largest of which its range is made. -/
def unmapLevel (lo len : Nat) : Option Nat :=
  if lo % levelBytes 1 = 0 && len % levelBytes 1 = 0 then some 1
  else if lo % levelBytes 2 = 0 && len % levelBytes 2 = 0 then some 2
  else if lo % levelBytes 3 = 0 && len % levelBytes 3 = 0 then some 3
  else none

/-- PIN of a stage-2 leaf. -/
def entPinned (w : Word) : Bool := w.getLsbD 51

/-- Whether a range of a VF's intermediate addresses touches a pinned leaf. -/
def State.pinnedIn (s : State) (vf lo len : Nat) : Bool := (leavesIn s.s2 vf lo len).any (fun e => entPinned e.2.2)

/-- `UNMAP` OP 0. -/
def State.unmapOne (s : State) (g : Args) : State :=
  let r := g.req
  let ctx := reqField r 0 2
  let vf := s.vfOf ctx
  if g.flag then s.changeOn .unmapStage1 g (Change.ofArgs g) (State.mapDone r)
  else
    let lo := reqField r 8 8
    let len := reqField r 24 8
    match unmapLevel lo len with
    | none => s.respond r stInvalid []
    | some m =>
      let ls := leavesIn s.s1 ctx lo len
      if r.payload.length < 32 || 4096 ≤ ctx || 2 ^ 48 < lo + len ||
          ((s.ctxOf ctx).desc && ls.any (fun e => s.pinnedIn vf (entAddr e.2.2) (levelBytes e.1))) then s.respond r stInvalid []
      else
        let w := wholeRange s.s1 ctx lo len
        let t := { s with s1 := (pagesOf lo len (levelBytes m)).foldl (fun (t : Map Word) a => dropLeaf t 0 ctx m a) s.s1 }
        t.change .unmapStage1 r ⟨false, ctx, w.1, w.2⟩ (!ls.isEmpty) (State.mapDone r)

def execUnmapStage1 (s : State) : Result := .next (s.unmapOne s.args)

/-- `UNMAP` OP 1. -/
def State.unmapTwo (s : State) (g : Args) : State :=
  let r := g.req
  let vf := reqField r 0 2
  if g.flag then s.changeOn .unmapStage2 g (Change.ofArgs g) (State.mapDone r)
  else
    let lo := reqField r 8 8
    let len := reqField r 24 8
    match unmapLevel lo len with
    | none => s.respond r stInvalid []
    | some m =>
      let ls := leavesIn s.s2 vf lo len
      if r.payload.length < 32 || 191 < vf || 2 ^ 40 < lo + len || s.pinnedIn vf lo len then s.respond r stInvalid []
      else
        let w := wholeRange s.s2 vf lo len
        let t := ({ s with s2 := (pagesOf lo len (levelBytes m)).foldl (fun (t : Map Word) a => dropLeaf t 1 vf m a) s.s2 }).shelfAgain vf
        t.change .unmapStage2 r ⟨true, vf, w.1, w.2⟩ (!ls.isEmpty) (State.mapDone r)

def execUnmapStage2 (s : State) : Result := .next (s.unmapTwo s.args)

/-! ### Context descriptors and roots -/

/-- Whether a context's range is mapped in both stages with its frames pinned. -/
def State.pinnedRange (s : State) (ctx vf va n : Nat) : Bool :=
  (List.range ((va % 65536 + n + 65535) / 65536)).all (fun i =>
    let a := (va / 65536 + i) * 65536
    match walk1 s.s1 ctx a with
    | .error _ => false
    | .ok l1 =>
      match walk2 s.s2 vf (entAddr l1.ent + a % levelBytes l1.level) with
      | none => false
      | some l2 => entPinned l2.ent)

/-- The checks of 20 R457 on a descriptor's bytes. -/
def State.ctxDescOk (s : State) (ctx : Nat) (b : List Byte) : Bool :=
  let pool := fieldOf b 8 8
  let size := fieldOf b 16 8
  let dump := fieldOf b 24 8
  let n := fieldOf b 32 4
  let vf := fieldOf b 38 2
  ctx < 4096 && pool % 65536 = 0 && size % 65536 = 0 && dump % 4096 = 0 && decide (0x4040 ≤ n) && !(fieldOf b 36 1).testBit 0 &&
    fieldOf b 40 24 = 0 && vf ≤ 191 && s.partOfVf vf = some (ctxPart ctx) && decide (pool + size ≤ 2 ^ 48 && dump + n ≤ 2 ^ 48) &&
    s.pinnedRange ctx vf pool size && s.pinnedRange ctx vf dump n

/-- A context with the descriptor of 20 R457: from then on its resident leaves count for its VF's partition. -/
def State.describe (s : State) (ctx : Nat) (b : List Byte) : State :=
  (s.ensureCtx ctx).modCtx ctx (fun c => { c with
    desc := true, savepool := BitVec.ofNat 64 (fieldOf b 8 8), savesize := fieldOf b 16 8, dump := BitVec.ofNat 64 (fieldOf b 24 8)
    dumpsize := fieldOf b 32 4, parkpolicy := BitVec.ofNat 8 (fieldOf b 36 1), vf := fieldOf b 38 2 })

/-- `MAP` OP 2: a context is created, `EMPTY`; refused where its leaves would take the partition past its frames (20 R466). -/
def execMapContextDesc (s : State) : Result :=
  let r := s.args.req
  let ctx := reqField r 0 2
  let b := sliceOf r.payload 8 64
  let c := s.ctxOf ctx
  let t := s.describe ctx b
  .next (if r.payload.length < 72 || !s.ctxDescOk ctx b then s.respond r stInvalid []
    else if c.desc && c.state ≠ .empty then s.respond r stBusy []
    else if !s.fits t (fieldOf b 38 2) then s.respond r stNoResource []
    else t.respond r stOk [])

/-- `MAP` OP 3: the VF's stage-2 root. -/
def execMapS2Root (s : State) : Result :=
  let r := s.args.req
  let vf := reqField r 0 2
  let a := reqField r 8 8
  .next (if r.payload.length < 16 || 191 < vf || a % 8192 ≠ 0 || 2 ^ 40 ≤ a then s.respond r stInvalid []
    else { s with vfs := s.vfs.set vf { s.vfs.getD vf Vf.init with s2root := BitVec.ofNat 64 a } }.respond r stOk [])

/-! ### `PIN` -/

/-- Bit PIN of an entry set or cleared. -/
def entPin (w : Word) (p : Bool) : Word := if p then w ||| 0x0008000000000000 else w &&& ~~~(0x0008000000000000#64)

/-- Every stage-2 leaf that the range touches is pinned or unpinned whole. -/
def State.pin (s : State) (r : KReq) (p : Bool) : State :=
  let vf := reqField r 0 2
  let lo := reqField r 8 8
  let len := reqField r 24 8
  if r.payload.length < 32 || 191 < vf || lo % 65536 ≠ 0 || len % 65536 ≠ 0 || 2 ^ 40 < lo + len then s.respond r stInvalid []
  else
    ({ s with s2 := s.s2.map (fun (e : Nat × Word) =>
        if entLeaf e.2 && keyId e.1 = vf && overlap (keyAddr e.1) (levelBytes (keyLevel e.1)) lo len then (e.1, entPin e.2 p) else e) }).respond r stOk []

def execPinUnpin (s : State) : Result := .next (s.pin s.args.req false)
def execPinPin (s : State) : Result := .next (s.pin s.args.req true)

/-- `PIN` OP 2: the VF's backing store. -/
def execPinBacking (s : State) : Result :=
  let r := s.args.req
  let vf := reqField r 0 2
  .next (if r.payload.length < 32 || 191 < vf || reqField r 8 8 % 65536 ≠ 0 || reqField r 24 8 % 65536 ≠ 0 then s.respond r stInvalid []
    else { s with vfs := s.vfs.set vf { s.vfs.getD vf Vf.init with backing := some (BitVec.ofNat 64 (reqField r 8 8), reqField r 24 8) } }.respond r stOk [])

end Sys2Proof.Machine
end

