-- ==== Sys2Proof/Machine/Frames.lean ====
section
/-! DEFINITION. Frames (20 R464 to R467, R477): the service of `PROBE` faults, eviction, access ages, migration, and the hardware errors of
memory and links. -/

namespace Sys2Proof.Machine

/-! ### Free frames and victims -/

/-- Stage-2 leaves that are resident, as VF, level, first intermediate address and entry. (DEDUCED, log 55) -/
def State.resident2 (s : State) : List (Nat × Nat × Nat × Word) :=
  (List.filter (fun e : Nat × Word => entType e.2 = 2) s.s2).map (fun e => (keyId e.1, keyLevel e.1, keyAddr e.1, e.2))

/-- Physical ranges that are not free: mapped, shelf, retired, in migration, and F2's own. -/
def State.usedRanges (s : State) : List (Nat × Nat) :=
  s.resident2.map (fun e => (entAddr e.2.2.2, levelBytes e.2.1)) ++ s.shelf ++ s.retiredFrames.map (fun f => (f * 65536, 65536)) ++
    s.migrations.vals.map (fun m => (m.old, m.len)) ++ s.migrations.vals.map (fun m => (m.new, m.len)) ++
    [(Config.ownGib % 1024 * 2 ^ 30, 2 ^ 30)]

/-- The first free place of `n` bytes, aligned to `al`, at or after `a`. -/
def freeFrom (used : List (Nat × Nat)) (n al fuel a : Nat) : Option Nat :=
  match fuel with
  | 0 => none
  | fuel + 1 =>
    if 2 ^ 40 < a + n then none
    else
      match used.find? (fun r => overlap r.1 r.2 a n) with
      | none => some a
      | some r => freeFrom used n al fuel ((r.1 + r.2 + al - 1) / al * al)

/-- Free frames of `n` bytes, aligned to `al`: F2 looks from a place of its choice on, and then from the start. -/
def State.freeFrame (s : State) (n al : Nat) : Option Nat :=
  let u := s.usedRanges
  match freeFrom u n al (u.length + 1) (Config.frame s.ticket % 2 ^ 40 / al * al) with
  | some a => some a
  | none => freeFrom u n al (u.length + 1) 0

/-- Whether a valid handle of any job, one that an `XLAT` under way gives included, names a byte of a physical range. -/
def State.handleOn (s : State) (pa n : Nat) : Bool :=
  s.jobs.any (fun e => (e.2.handles.toList ++ s.handlesComing e.1).any (fun h => h.valid && overlap h.pbase.toNat (pageBytes h.size.toNat) pa n))

/-- Resident stage-1 leaves of a VF's contexts that map a byte of an intermediate range. -/
def State.mappers (s : State) (vf ipa n : Nat) : List (Nat × Word) :=
  List.filter (fun e : Nat × Word => entType e.2 = 2 && ((s.ctxs.find? (keyId e.1)).map (fun c => c.desc && c.vf = vf)).getD false &&
    overlap (entAddr e.2) (levelBytes (keyLevel e.1)) ipa n) s.s1

/-- Whether a resident stage-2 leaf is a burst page that may be evicted (20 R467 step 1). -/
def State.candidate (s : State) (e : Nat × Nat × Nat × Word) : Bool :=
  let n := levelBytes e.2.1
  let pa := entAddr e.2.2.2
  let ms := s.mappers e.1 e.2.2.1 n
  !ms.isEmpty && ms.all (fun m => entField m.2 59 1 = 1) && !entPinned e.2.2.2 && !s.onShelf pa n && !s.handleOn pa n &&
    !s.migrations.vals.any (fun m => overlap m.old m.len pa n)

/-- The first victim: the greatest access age, then the lowest physical address. -/
def State.victim (s : State) : Option (Nat × Nat × Nat × Word) :=
  let age (e : Nat × Nat × Nat × Word) : Nat := s.ages.getD (entAddr e.2.2.2) 0
  (s.resident2.filter s.candidate).foldl (fun (b : Option (Nat × Nat × Nat × Word)) e =>
    match b with
    | none => some e
    | some d => if age d < age e || (age d = age e && entAddr e.2.2.2 < entAddr d.2.2.2) then some e else b) none

/-- TYPE 3: a leaf that is not resident. -/
def entAbsent (w : Word) : Word := w ||| 3

/-- TYPE 2: a leaf that is resident. -/
def entPresent (w : Word) : Word := (w &&& ~~~(3#64)) ||| 2

/-- A page evicted: its cached translations go while stage 1 still names its pages, its bytes go to the VF's backing store, and its stage-1
leaves and its stage-2 leaf are not resident. -/
def State.evict (s : State) (e : Nat × Nat × Nat × Word) : State :=
  let n := levelBytes e.2.1
  let pa := entAddr e.2.2.2
  let ms := (s.mappers e.1 e.2.2.1 n).map (·.1)
  let s1 := s.dropXlat ⟨true, e.1, e.2.2.1, n⟩
  { s1 with
    outbox := s.outbox ++ [Out.backing e.1 e.2.2.1 (s.homeRead pa n)]
    s1 := s.s1.map (fun (x : Nat × Word) => if ms.contains x.1 then (x.1, entAbsent x.2) else x)
    s2 := Map.set s.s2 (tableKey e.1 e.2.1 e.2.2.1) (entAbsent e.2.2.2)
    ages := s.ages.erase pa }

/-- Frames taken one after the other, with victims where none is free; none where there is no victim either. -/
def State.takeFrame (s : State) (n al fuel : Nat) : Option (Nat × State) :=
  match fuel with
  | 0 => none
  | fuel + 1 =>
    match s.freeFrame n al with
    | some a => some (a, s.draw)
    | none =>
      match s.victim with
      | none => none
      | some e => State.takeFrame (s.evict e) n al fuel

/-- Fuel for `takeFrame`: one eviction for each resident leaf. -/
def State.frameFuel (s : State) : Nat := s.resident2.length + 1

/-- 20 R467 step 3: saved handles of `STOPPED` contexts whose partitions hold burst frames are revoked, with their speculations. -/
def State.revokeStopped (s : State) : State :=
  (List.filter (fun e : Nat × Ctx => e.2.state = .stopped && (((s.partOfVf e.2.vf).map (fun p => !(s.resident p).2.isEmpty)).getD false)) s.ctxs).foldl
    (fun (s : State) e => s.revoke ⟨false, e.1, 0, 2 ^ 48⟩) s

/-- A frame for a fault: after step 3 too. -/
def State.findFrame (s : State) (n al : Nat) : Option (Nat × State) :=
  match s.takeFrame n al s.frameFuel with
  | some r => some r
  | none => s.revokeStopped.takeFrame n al s.frameFuel

/-! ### `PROBE` faults (20 R467) -/

/-- F2 tells F1 how a fault ended (message 0x0302). -/
def State.endFault (s : State) (id : Nat) (ok : Bool) : State := s.send ⟨0x0302, 2, 1, [id, ok.toNat], none, none⟩ .msgFaultServed {}

/-- Whether a fault's end is on its way to F1. -/
def State.faultEnding (s : State) (id : Nat) : Bool := s.mail.any (fun m => m.type = 0x0302 && m.payload.headD 0 = id)

/-- The intermediate range that has to come back for a page: the greater of the stage-1 page and the stage-2 leaf over it. -/
def State.backRange (s : State) (vf ipa n : Nat) : Nat × Nat :=
  match leafAt s.s2 1 vf ipa with
  | none => (ipa, n)
  | some (l, _) => if n < levelBytes l then (ipa / levelBytes l * levelBytes l, levelBytes l) else (ipa, n)

/-- Absent stage-2 leaves of a range, each given a frame and its bytes; none where no frame can be had. -/
def State.bringIn (s : State) (lo : Nat) (data : List Byte) (ls : List (Nat × Nat × Nat × Word)) : Option State :=
  match ls with
  | [] => some s
  | (vf, l, ipa, w) :: r =>
    match s.findFrame (levelBytes l) (levelBytes l) with
    | none => none
    | some (pa, t) =>
      let w1 : Word := entPresent ((w &&& ~~~(0x000000FFFFFF0000#64)) ||| BitVec.ofNat 64 pa)
      let t1 := { t with s2 := Map.set t.s2 (tableKey vf l ipa) w1 }.memWrite pa (sliceOf data (ipa - lo) (levelBytes l)) false
      State.bringIn t1 lo data r

/-- Stage-1 leaves of a VF's contexts over a range that is resident again. -/
def State.markPresent (s : State) (vf lo n : Nat) : State :=
  { s with s1 := s.s1.map (fun (e : Nat × Word) =>
      if entType e.2 = 3 && ((s.ctxs.find? (keyId e.1)).map (fun c => c.desc && c.vf = vf)).getD false && decide (lo ≤ entAddr e.2) &&
          decide (entAddr e.2 + levelBytes (keyLevel e.1) ≤ lo + n) then (e.1, entPresent e.2) else e) }

/-- A page that is not resident: its bytes are asked for, or have come and it is made resident. -/
def State.fetchPage (s : State) (id : Nat) (f : PFault) (l : Nat) (w : Word) (data : List Byte) : State :=
  let r := s.backRange f.vf (entAddr w) (levelBytes l)
  if data.length ≠ r.2 then { s with outbox := s.outbox ++ [.backRead f.vf r.1 r.2] }
  else
    let ls := (leavesIn s.s2 f.vf r.1 r.2).filter (fun e => entType e.2.2 = 3)
    match s.bringIn r.1 data (ls.map (fun e => (f.vf, e))) with
    | none => s.post 2400000 .faultService { a := id, data := data }
    | some t =>
      let t1 := t.markPresent f.vf r.1 r.2
      if s.fits t1 f.vf then t1.endFault id true else s.endFault id false

/-- A `STAGE2` miss is the PF's to remedy: it stands among the outstanding errors, and F7 raises the interrupt. -/
def State.reportStage2 (s : State) (f : PFault) : State :=
  let va := f.vpn * 65536
  let ipa := match walk1 s.s1 f.ctx va with
    | .ok l => entAddr l.ent + va % levelBytes l.level
    | .error _ => 0
  let e : ErrRec := { s.recOf f.job 13 with vaddr := BitVec.ofNat 64 va, paddr := BitVec.ofNat 64 ipa }
  { s with errors := s.errors ++ [e], outbox := s.outbox ++ [.msix none 1] }

/-- F2 looks at a fault: served where the page now translates, fetched where it is not resident, reported or left where stage 2 misses. -/
def State.serve (s : State) (id : Nat) (data : List Byte) (first : Bool) : State :=
  match s.faults.find? id with
  | none => s
  | some f =>
    if f.state ≠ 0 || s.faultEnding id then s
    else
      let va := f.vpn * 65536
      let h := (s.walk f.ctx f.vf va).1
      if h.valid then s.endFault id true
      else
        let s1 := { s with faults := s.faults.set id { f with miss := h.miss.toNat } }
        if h.miss = missStage2 then (if first || f.miss ≠ missStage2.toNat then s1.reportStage2 f else s1)
        else if h.miss = missNotPresent then
          match leafAt s.s1 0 f.ctx va with
          | none => s1.endFault id false
          | some (l, w) => s1.fetchPage id f l w data
        else s1.endFault id false

/-- F2 receives a `PROBE` fault. -/
def execMsgProbeFault (s : State) : Result :=
  .next (s.receiveMail (fun m => m.type = 0x0301) .msgProbeFault (fun s m => s.serve (m.payload.headD 0) [] true))

/-- The service goes on: the page's bytes have come from the host, or stage 2 has changed. -/
def execFaultService (s : State) : Result := .next (s.serve s.args.a s.args.data false)

/-- F1 receives the end of a fault. -/
def execMsgFaultServed (s : State) : Result :=
  .next (s.receiveMail (fun m => m.type = 0x0302) .msgFaultServed (fun s m =>
    let id := m.payload.headD 0
    match s.faults.find? id with
    | none => s
    | some f => if f.state = 0 then { s with faults := s.faults.set id { f with state := if m.payload.getD 1 0 = 1 then 1 else 2 } } else s))

/-- 100 ms from the fault. -/
def execProbeFaultTimeout (s : State) : Result :=
  let id := s.args.a
  .next (match s.faults.find? id with
    | none => s
    | some f => if f.state = 0 && !s.faultEnding id then { s with faults := s.faults.set id { f with state := 2 } } else s)

/-! ### Access ages -/

/-- Bit 52 of an entry cleared. -/
def clearAcc (w : Word) : Word := w &&& ~~~(0x0010000000000000#64)

/-- F2's sample of every leaf's ACC, each 1 ms. -/
def execAccSample (s : State) : Result :=
  let age (m : Map Nat) (e : Nat × Nat × Nat × Word) : Map Nat :=
    let pa := entAddr e.2.2.2
    Map.set m pa (if e.2.2.2.getLsbD 52 then 0 else Nat.min 255 (Map.getD s.ages pa 0 + 1))
  let clear (t : Map Word) : Map Word := t.map (fun (e : Nat × Word) => if entLeaf e.2 then (e.1, clearAcc e.2) else e)
  .next ({ s with ages := s.resident2.foldl age [], s1 := clear s.s1, s2 := clear s.s2 }.post 2400000 .accSample {})

/-! ### Migration (20 R464, R465) -/

/-- A migration begins; none for a 1 GiB, pinned or shelf page, or where no frame is free. -/
def State.migrate (s : State) (e : Nat × Nat × Nat × Word) : State :=
  let n := levelBytes e.2.1
  let pa := entAddr e.2.2.2
  if e.2.1 = 1 || entPinned e.2.2.2 || s.onShelf pa n || s.migrations.vals.any (fun m => overlap m.old m.len pa n) then s
  else
    match s.freeFrame n n with
    | none => s
    | some a =>
      let k := s.nextId
      ({ s.newId with migrations := s.migrations.set k ⟨e.1, e.2.2.1, pa, a, n, 0⟩ }.draw).later .migrationLineCopy { a := k }

/-- One line copied, with its mark; after the last the page is switched. -/
def execMigrationLineCopy (s : State) : Result :=
  let k := s.args.a
  .next (match s.migrations.find? k with
    | none => s
    | some m =>
      if m.len ≤ 128 * m.copied then s
      else
        let o := 128 * m.copied
        let s1 := s.memWrite (m.new + o) (s.memRead (m.old + o) 128) (s.memBad (m.old + o) 128)
        let s2 := { s1 with migrations := s1.migrations.set k { m with copied := m.copied + 1 } }
        if m.len ≤ o + 128 then s2.later .migrationSwitch { a := k } else s2.later .migrationLineCopy { a := k })

/-- Whether anything still names the old frame: handles, accesses, combine-buffer lines. -/
def State.oldNamed (s : State) (m : Migration) : Bool :=
  s.handleOn m.old m.len || s.accesses.any (fun a => a.2.stage != .performed && overlap a.2.pa a.2.len m.old m.len) ||
    s.accesses.any (fun a => a.2.forwarded && overlap a.2.pa a.2.len m.new m.len) ||
    s.cores.any (fun c => c.2.combine.any (fun l => overlap (l.line * 128) 128 m.old m.len))

/-- The switch: every stage-2 leaf of the old frame names the new one, holders are stopped and handles revoked by 20 R463, and once nothing
names the old frame the map goes. -/
def execMigrationSwitch (s : State) : Result :=
  let g := s.args
  .next (match s.migrations.find? g.a with
    | none => s
    | some m =>
      let c : Change := ⟨true, m.vf, m.ipa, m.len⟩
      let again (s : State) : State := s.post 1 .migrationSwitch { g with flag := true }
      if !g.flag then
        let moved (w : Word) : Word :=
          if entType w = 2 && entAddr w = m.old then (w &&& ~~~(0x000000FFFFFF0000#64)) ||| BitVec.ofNat 64 m.new else w
        let s1 := { s with
          s2 := s.s2.map (fun (e : Nat × Word) => (e.1, moved e.2))
          ages := (s.ages.erase m.old).set m.new (s.ages.getD m.old 0) }
        again ((s1.dropXlat c).stopHolders c)
      else if !(s.holders c).isEmpty then again (s.stopHolders c)
      else
        let s1 := s.revoke c
        if s1.oldNamed m then again s1
        else
          let drop (x : Core) : Core := { x with copies := x.copies.filter (fun d => !overlap (d.line * 128) 128 m.old m.len) }
          { s1 with migrations := s1.migrations.erase g.a, cores := s1.cores.map (fun (e : Nat × Core) => (e.1, drop e.2)) })

/-! ### Hardware errors (20 R477, R479) -/

/-- An uncorrectable HBM error: the line is poisoned, its page migrates, and the frame is retired. (DEDUCED, log 56) -/
def execHbmUncorrectable (s : State) : Result :=
  let pa := s.args.a
  if 2 ^ 40 ≤ pa then .fault (.noSuchAddress pa)
  else
    let s1 := { s with memPoison := NatSet.insert s.memPoison (pa / 128), retiredFrames := NatSet.insert s.retiredFrames (pa / 65536) }
    .next (match s.resident2.find? (fun e => overlap (entAddr e.2.2.2) (levelBytes e.2.1) pa 1) with
      | none => s1
      | some e => s1.migrate e)

/-- Whether a move is the arrival of a flit of a channel over a link, named as source die × 8 + destination die. -/
def State.onLink (s : State) (m : Move) (link channel : Nat) : Bool :=
  match m with
  | .event .routerGrant g =>
    g.b ≠ 0 && (match s.accesses.find? (g.b - 1) with
      | none => false
      | some a => a.core / 16 = link / 8 && a.die = link % 8 && a.vc = channel)
  | _ => false

/-- A CRC failure on a link: every flit of the channel on its way comes after the replay, in order. (DESIGN CHOICE, log 87) -/
def execLinkCrcReplay (s : State) : Result :=
  let g := s.args
  let t := s.now + 1 + Config.delay s.ticket
  .next ({ s with agenda := s.agenda.map (fun (e : Entry) => if s.onLink e.move g.a g.b then { e with due := Nat.max e.due t } else e) }.draw)

end Sys2Proof.Machine
end

