-- ==== Sys2Proof/Machine/Firm.lean ====
section
/-! DEFINITION. Klota commands of F1 (19 R444, R454), F5 (21 R491 to R494), F6 (21 R496) and F7 (14 R383, 21 R485 to R488), and the
`RESYNC` summary (20 R483, R484). -/

namespace Sys2Proof.Machine

/-! ### Queues (19 R454) -/

/-- Fields of W0 and W1 in their ranges (19 R431). -/
def queueFieldsOk (w0 w1 : Nat) : Bool :=
  natBits w0 37 3 = 0 && natBits w0 30 2 = 0 && natBits w0 0 27 = 0 && (natBits w0 48 8 ≤ 191 || natBits w0 48 8 = 255) &&
    natBits w0 32 5 ≤ 16 && (!w0.testBit 62 || natBits w0 32 5 = 0) && !(w0.testBit 60 && !w0.testBit 62) && decide (w1 < 2 ^ 40) && w1 % 128 = 0

/-- Whether a physical range lies in resident frames that satisfy `p`. -/
def State.framesAll (s : State) (lo n : Nat) (p : Nat × Nat × Nat × Word → Bool) : Bool :=
  (List.range ((lo % 65536 + n + 65535) / 65536)).all (fun i =>
    s.resident2.any (fun e => p e && overlap (entAddr e.2.2.2) (levelBytes e.2.1) ((lo / 65536 + i) * 65536) 1))

/-- `QUEUE_CREATE`. (PRESUMED, log 28) -/
def execQueueCreate (s : State) : Result :=
  let r := s.args.req
  let q := reqField r 0 2
  let w0 := reqField r 2 8
  let w1 := reqField r 10 8
  let seq := BitVec.ofNat 32 (reqField r 18 4)
  let e : Queue := ⟨BitVec.ofNat 64 w0 ||| 0x8000000000000000, w1, seq, seq, 0, 0, false, false, false⟩
  let c := s.ctxOf e.ctx
  let pinned : Bool := e.direct || s.framesAll w1 (128 * e.size) (fun x => x.1 = c.vf && entPinned x.2.2.2)
  .next (if r.payload.length < 22 || 4096 ≤ q || (s.queueOf q).valid || !queueFieldsOk w0 w1 || !(s.diesOf e.part).contains e.die ||
        !c.desc || !pinned then s.respond r stInvalid []
    else
      { s with
        queues := s.queues.set q e, history := s.history.erase q
        dies := s.dies.map (fun (d : Nat × Die) => (d.1, { d.2 with speculated := d.2.speculated.filter (fun x => x.1 ≠ q) })) }.respond r stOk [])

/-- Whether a real launch of a queue is pending or running. -/
def State.queueBusy (s : State) (q : Nat) : Bool :=
  s.launches.any (fun e => e.2.queue = q && (e.2.spec.isNone || e.2.state = .claiming))

/-- `QUEUE_DESTROY`. -/
def execQueueDestroy (s : State) : Result :=
  let r := s.args.req
  let q := reqField r 0 2
  let e := s.queueOf q
  .next (if r.payload.length < 2 || !e.valid then s.respond r stInvalid []
    else if e.wseq ≠ e.rseq || s.queueBusy q then s.respond r stBusy []
    else
      (((s.discardWhere (fun l => l.queue = q)).modQueue q (fun e => { e with w0 := e.w0 &&& ~~~(0x8000000000000000#64) }))).respond r stOk [])

/-- A queue's table entry (19 R431). -/
def Queue.bytes (e : Queue) : List Byte :=
  bytesOf 8 e.w0.toNat ++ bytesOf 8 e.base ++ bytesOf 8 (e.wseq.toNat * 2 ^ 32 + e.rseq.toNat) ++
    bytesOf 8 (e.lastStart.toNat * 2 ^ 32 + e.stale * 2 ^ 16 + e.hold.toNat * 4 + e.overrun.toNat * 2 + e.pending.toNat)

/-- `QUEUE_QUERY`. -/
def execQueueQuery (s : State) : Result :=
  let r := s.args.req
  let q := reqField r 0 2
  .next (if r.payload.length < 2 || 4096 ≤ q then s.respond r stInvalid [] else s.respond r stOk (s.queueOf q).bytes)

/-- `POOL_CAP` (19 R444). -/
def execPoolCap (s : State) : Result :=
  let r := s.args.req
  let die := reqField r 0 1
  let part := reqField r 1 1
  let cap := reqField r 2 2
  .next (if r.payload.length < 4 || 7 < die || 15 < part || cap = 0 || 1024 < cap then s.respond r stInvalid []
    else ((s.modDie die (fun d => { d with caps := d.caps.set part cap })).ensure 1 .poolGrant { a := die }).respond r stOk [])

/-! ### F7: `UCCFG`, shape classes, package number -/

/-- `UCCFG_SET` (14 R383): ways given to the undercoat store hold no cache lines. -/
def execUccfgSet (s : State) : Result :=
  let r := s.args.req
  let die := reqField r 0 1
  let w := BitVec.ofNat 64 (reqField r 8 8)
  let keep (x : Slice) : Slice := { x with lines := x.lines.filter (fun c => decide (c.way < 16 - ucWays w)) }
  .next (if r.payload.length < 16 || 7 < die || natBits w.toNat 8 56 ≠ 0 || w.getLsbD 3 || 8 < ucMaxspec w then s.respond r stInvalid []
    else if !(s.dieOf die).specs.isEmpty then s.respond r stBusy []
    else
      (s.modDie die (fun d => { d with uccfg := w, slices := d.slices.map (fun (e : Nat × Slice) => (e.1, keep e.2)) })).respond r stOk [])

/-- Fields of a shape-class entry in their ranges (11 R323). -/
def shapeOk (w : Nat) : Bool :=
  natBits w 32 32 = 0 && natBits w 1 3 = 0 && natBits w 16 8 ≤ 191 && natBits w 12 4 ≤ 6 && natBits w 8 4 ≤ 6 && natBits w 4 4 ≤ 8

/-- Whether a task of any core satisfies `p`. -/
def State.anyTask (s : State) (p : PoolEntry → Bool) : Bool := s.cores.any (fun c => c.2.trowel.pool.vals.any p)

/-- `SHAPE_SET`. -/
def execShapeSet (s : State) : Result :=
  let r := s.args.req
  let i := reqField r 0 1
  let w := reqField r 1 8
  .next (if r.payload.length < 9 || !shapeOk w then s.respond r stInvalid []
    else if s.anyTask (fun e => e.shape = i && 1 ≤ e.state.val && e.state.val ≤ 4) then s.respond r stBusy []
    else { s with shapes := s.shapes.set i (BitVec.ofNat 64 w) }.respond r stOk [])

/-- `PKG_SET`. -/
def execPkgSet (s : State) : Result :=
  let r := s.args.req
  let n := reqField r 0 2
  .next (if r.payload.length < 2 || 4095 < n then s.respond r stInvalid []
    else if s.ctxs.any (fun c => c.2.state ≠ .empty) then s.respond r stBusy []
    else { s with pkg := n }.respond r stOk [])

/-! ### Partitions (21 R486, R487) -/

/-- Fields of a partition entry in their ranges. -/
def partEntryOk (b : List Byte) : Bool :=
  let f (i n : Nat) : Nat := fieldOf b i n
  f 2 1 ≤ 1 && f 3 1 ≤ 15 && f 31 1 = 0 && f 39 1 = 0 && f 20 2 ≠ 0 && f 22 2 ≠ 0 && f 22 2 ≤ 1024 && f 25 1 = 0 &&
    [24, 26, 27, 28, 29].all (fun i => f i 1 ≠ 0) && f 30 1 ≠ 0 && f 36 2 ≤ 2048 && f 38 1 = 0 &&
    (List.range 12).all (fun i => f (40 + 2 * i) 2 = 0xFFFF) && (f 2 1 = 0 || f 0 2 ≠ 0)

/-- Frames of 64 KiB that the package holds (23 R524). -/
def packageFrames : Nat := 16760832

def entryValid (b : List Byte) : Bool := (fieldOf b 2 1) % 2 = 1

/-- A partition's entry, and where one is staged, that one. -/
def State.nextEntry (s : State) (p : Nat) : List Byte := ((s.staged.find? p).map (·.1)).getD (s.partEntry p)

/-- The status of a `PART_SET` (21 R487). -/
def State.partSetCheck (s : State) (p : Nat) (b : List Byte) : Nat :=
  let old := s.partEntry p
  let others := (List.range 16).filter (fun i => i ≠ p && entryValid (s.nextEntry i))
  let ctxBusy := s.ctxs.any (fun c => ctxPart c.1 = p && c.2.state ≠ .empty)
  if !partEntryOk b || (entryValid b && others.any (fun i => (fieldOf (s.nextEntry i) 0 2) &&& (fieldOf b 0 2) ≠ 0)) then stInvalid
  else if ctxBusy && (fieldOf old 0 2 ≠ fieldOf b 0 2 || (entryValid old && !entryValid b)) then stBusy
  else if fieldOf old 3 1 ≠ fieldOf b 3 1 && s.anyTask (fun e => e.part = p && e.state ≠ 0) then stBusy
  else if packageFrames < (others.map (fun i => fieldOf (s.nextEntry i) 4 4)).sum + fieldOf b 4 4 || fieldOf b 4 4 < (s.resident p).1.length then
    stNoResource
  else stOk

/-- `PART_SET`: an accepted entry comes into force at the next window boundary; F1 is told. (DEDUCED, log 57) -/
def execPartSet (s : State) : Result :=
  let r := s.args.req
  let p := reqField r 0 1
  let b := sliceOf r.payload 4 64
  .next (if r.payload.length < 68 || 15 < p || reqField r 1 3 ≠ 0 then s.respond r stInvalid []
    else
      let st := s.partSetCheck p b
      if st ≠ stOk then s.respond r st []
      else
        ({ s with staged := s.staged.set p (b, r) }.post (1024 - s.now % 1024) .partEntryInForce { a := p }).send
          ⟨0x0701, 7, 1, [p], none, none⟩ .msgPartitionChanged {})

/-- A partition's entry with the VF list that F7 keeps. -/
def withVfs (b old : List Byte) : List Byte :=
  if old.isEmpty then b else sliceOf b 0 38 ++ sliceOf old 38 26

/-- The boundary: the staged entry is the partition's, and the command is answered. -/
def execPartEntryInForce (s : State) : Result :=
  let p := s.args.a
  .next (match s.staged.find? p with
    | none => s
    | some (b, r) =>
      let t := { s with parts := s.parts.set p (withVfs b (s.partEntry p)), staged := s.staged.erase p }
      ((t.cores.map Prod.fst).foldl State.lookPass t).respond r stOk [])

/-- F1 is told of a changed partition: its speculations are discarded. -/
def execMsgPartitionChanged (s : State) : Result :=
  .next (s.receiveMail (fun m => m.type = 0x0701) .msgPartitionChanged (fun s m => s.discardWhere (fun l => l.part = m.payload.headD 0)))

/-! ### Virtual functions (21 R488) -/

/-- VFs of a partition's list. -/
def vfList (b : List Byte) : List Nat := (List.range (fieldOf b 38 1)).map (fun i => fieldOf b (40 + 2 * i) 2)

/-- An entry with a VF list. -/
def putVfs (b : List Byte) (l : List Nat) : List Byte :=
  sliceOf b 0 38 ++ bytesOf 1 l.length ++ bytesOf 1 0 ++ ((List.range 12).map (fun i => bytesOf 2 (l.getD i 0xFFFF))).flatten

/-- `VF_ASSIGN`. (DEDUCED, log 58) -/
def execVfAssign (s : State) : Result :=
  let r := s.args.req
  let vf := reqField r 0 2
  let p := reqField r 2 1
  let ctx := reqField r 4 2
  let base := reqField r 8 8
  let v := s.vfs.getD vf Vf.init
  .next (if r.payload.length < 16 || 191 < vf || reqField r 3 1 ≠ 0 || reqField r 6 2 ≠ 0 then s.respond r stInvalid []
    else if p = 255 then
      match v.part with
      | none => s.respond r stInvalid []
      | some q =>
        if s.queues.any (fun e => e.2.valid && e.2.vf = vf) || s.ctxs.any (fun c => c.2.desc && c.2.vf = vf && c.2.state ≠ .empty) then
          s.respond r stBusy []
        else
          { s with
            vfs := s.vfs.set vf { v with part := none }
            parts := s.parts.set q (putVfs (s.partEntry q) ((vfList (s.partEntry q)).filter (fun x => x ≠ vf))) }.respond r stOk []
    else if v.part.isSome || 15 < p || !entryValid (s.partEntry p) || 12 ≤ (vfList (s.partEntry p)).length || 4096 ≤ ctx || ctxPart ctx ≠ p ||
        base % 65536 ≠ 0 then s.respond r stInvalid []
    else
      { s with
        vfs := s.vfs.set vf { v with part := some p, aperture := ctx, apbase := BitVec.ofNat 64 base }
        parts := s.parts.set p (putVfs (s.partEntry p) (vfList (s.partEntry p) ++ [vf])) }.respond r stOk [])

/-! ### Weight identities (21 R493, R494) -/

/-- Valid weight identities, rising. -/
def State.validWids (s : State) : List (Nat × Wid) := List.filter (fun e : Nat × Wid => e.2.valid) s.wids

/-- A weight-identity entry that is not valid. -/
def Wid.none : Wid := ⟨false, 0, 0, 0, [], 0⟩

/-- A beacon within 1 ms of a change of VALID (22 R511). -/
def State.beaconSoon (s : State) : State := (s.post (1 + Config.delay s.ticket % 2400000) .weightBeacon { flag := true }).draw

/-- An entry is cleared, and every weight buffer that holds it. -/
def State.clearWid (s : State) (i : Nat) : State :=
  let drop (x : Core) : Core :=
    { x with trowel := { x.trowel with buffer := if (x.trowel.buffer.map Prod.fst) = some i then none else x.trowel.buffer } }
  let s1 := { s with wids := s.wids.erase i, cores := s.cores.map (fun (e : Nat × Core) => (e.1, drop e.2)) }
  if ((s.wids.find? i).map (·.valid)).getD false then s1.beaconSoon else s1

/-- Whether a stage-2 leaf maps a frame of an entry. -/
def State.widMapped (s : State) (i : Nat) : Bool :=
  match s.wids.find? i with
  | none => false
  | some w => w.valid && s.resident2.any (fun e => overlap (entAddr e.2.2.2) (levelBytes e.2.1) w.paddr w.len)

/-- `SHELF_LOAD`. -/
def execShelfLoad (s : State) : Result :=
  let r := s.args.req
  let i := reqField r 0 4
  let shape := reqField r 4 1
  let len := reqField r 16 8
  .next (if r.payload.length < 24 || 16384 ≤ i || reqField r 5 3 ≠ 0 || 2 ^ 32 < len then s.respond r stInvalid []
    else if s.anyTask (fun e => e.wid = i && e.state ≠ 0) || s.widMapped i then s.respond r stBusy []
    else
      let s1 := s.clearWid i
      if len = 0 then s1.respond r stOk []
      else
        match s1.findFrame ((len + 65535) / 65536 * 65536) 65536 with
        | none => s1.respond r stNoResource []
        | some (pa, t) =>
          let data := sliceOf r.bulk 0 len
          let digest := sha256 data
          match t.validWids.find? (fun e => e.2.digest = digest) with
          | some e => t.respond r stInvalid (bytesOf 4 e.1)
          | none =>
            let t1 := t.writeParts ((linesOf pa len).map (fun l => (homeDie l.1, l.1, l.2))) data false
            ({ t1 with wids := t1.wids.set i ⟨true, shape, pa, len, digest, 0⟩ }.beaconSoon).respond r stOk [])

/-! ### Attestation (21 R491, R492) -/

/-- Whether a weight identity is mapped into a context of a partition. -/
def State.widOfPart (s : State) (p : Nat) (w : Wid) : Bool :=
  (List.filter (fun e : Nat × Vf => e.2.part = some p) s.vfs).any (fun v =>
    ((s.vfFrames v.1 false) ++ (s.vfFrames v.1 true)).any (fun f => overlap (f * 65536) 65536 w.paddr w.len))

/-- The attestation report before its signature. -/
def State.report (s : State) (fn : Option Nat) (nonce : List Byte) : List Byte :=
  let p := fn.bind s.partOfVf
  let ws := match p with
    | none => s.validWids
    | some p => s.validWids.filter (fun e => s.widOfPart p e.2)
  let parts := match p with
    | none => ((List.range 16).map (fun i => padTo 64 (s.partEntry i))).flatten
    | some p => padTo 64 (s.partEntry p)
  bytesOf 4 0x54544157 ++ bytesOf 2 1 ++ bytesOf 2 ws.length ++ bytesOf 8 Config.serial.toNat ++ bytesOf 4 Config.fusedSvn.toNat ++
    bytesOf 2 (fn.getD 0xFFFF) ++ bytesOf 2 0 ++ padTo 32 nonce ++ padTo 64 Config.identityPub ++
    ((List.range 8).map (fun i => sliceOf (Config.image i) 24 32)).flatten ++ sha256 parts ++
    (ws.map (fun e => bytesOf 4 e.1 ++ padTo 32 e.2.digest)).flatten

/-- `ATTEST`. -/
def execAttest (s : State) : Result :=
  let r := s.args.req
  let b := s.report r.fn (sliceOf r.payload 16 32)
  let all := b ++ padTo 64 (Config.ecdsaSign false (sha256 b) s.ticket) ++ Config.certificate
  .next (if r.payload.length < 48 || reqField r 12 4 ≠ 0 || reqField r 8 4 < all.length then s.respond r stInvalid []
    else
      (({ s with outbox := s.outbox ++ [Out.bulk r.fn (BitVec.ofNat 64 (reqField r 0 8)) all] }).draw).respond r stOk (bytesOf 4 (b.length + 64)))

/-! ### F6: telemetry and budgets -/

/-- A counter of Undercoat, of a die or of a partition on it. -/
def State.ucCounter (s : State) (p : Option Nat) (i : Nat) : Word :=
  let d := s.dieOf (i / 11)
  match p with
  | none => d.counters.getD (i % 11) 0
  | some p => d.partCounters.getD (p * 16 + i % 11) 0

/-- Error counts of a VF, or of all VFs. -/
def State.vfCount (s : State) (vf : Option Nat) (f : Vf → Nat) : Nat :=
  match vf with
  | some v => f (s.vfs.getD v Vf.init)
  | none => (s.vfs.vals.map f).sum

/-- One value of telemetry (21 R496). -/
def State.telemetry (s : State) (r : KReq) (group i : Nat) : Word :=
  let who := match r.fn with
    | some v => some v
    | none => if r.target = 0xFFFF then none else some r.target
  if group ≤ 1 then Config.reading group i s.ticket
  else if group = 2 then s.ucCounter (r.fn.bind s.partOfVf) i
  else if group = 3 then BitVec.ofNat 64 (s.vfCount who (if i = 0 then (·.apErrors) else (·.qErrors)))
  else
    let x := s.coreOf (i / 3)
    BitVec.ofNat 64 (if i % 3 = 0 then x.array.busy else if i % 3 = 1 then x.trowel.passes else x.trowel.parkedTasks)

/-- Values of a group. -/
def groupLen (g : Nat) : Nat := [11, 25, 88, 2, 384].getD g 0

/-- `TELEMETRY`. -/
def execTelemetry (s : State) : Result :=
  let r := s.args.req
  let g := reqField r 0 1
  let first := reqField r 4 4
  let n := reqField r 8 4
  .next (if r.payload.length < 12 || reqField r 1 3 ≠ 0 || n = 0 || 28 < n || groupLen g < first + n then s.respond r stInvalid []
    else (s.draw).respond r stOk ((List.range n).map (fun i => bytesOf 8 (s.telemetry r g (first + i)).toNat)).flatten)

/-- `BUDGET_SET`: F6 tells F1 the core's new refill (message 0x0601). -/
def execBudgetSet (s : State) : Result :=
  let r := s.args.req
  let die := reqField r 0 1
  let core := reqField r 1 1
  .next (if r.payload.length < 4 || 7 < die || 15 < core then s.respond r stInvalid []
    else s.send ⟨0x0601, 6, 1, [coreKey die core, reqField r 2 2], none, some r⟩ .msgBudgetChange {})

/-! ### `RESYNC` (20 R483, R484) -/

/-- Bits of a list of truth values, eight to a byte. -/
def packBits (n : Nat) (p : Nat → Bool) : List Byte :=
  (List.range (n / 8)).map (fun i => BitVec.ofNat 8 (((List.range 8).map (fun b => if p (8 * i + b) then 2 ^ b else 0)).sum))

/-- The control core's entry: its job, whether it is speculative, and its launch. -/
def State.ccEntry (s : State) (i : Nat) : List Byte :=
  match List.find? (fun e : Nat × Job => e.2.onCore && !e.2.prologue && e.2.coreKey * 4 + e.2.cc = i) s.jobs with
  | none => bytesOf 16 0
  | some (_, j) => bytesOf 8 j.jobid.toNat ++ bytesOf 8 ((if j.spec.isSome then 2 ^ 63 else 0) + j.s7.toNat % 2 ^ 44)

/-- A context's entry. -/
def State.ctxEntry (s : State) (i : Nat) : List Byte :=
  let c := s.ctxOf i
  let js := (s.jobsOf i).filter (fun e => !e.2.prologue)
  let n (p : JStatus → Bool) : Nat := (js.filter (fun e => p e.2.status)).length
  bytesOf 1 c.state.code ++ bytesOf 1 c.vf ++ bytesOf 2 (n (fun x => x = .running || x = .resuming)) ++ bytesOf 2 (n (fun x => x = .parked)) ++
    bytesOf 2 (n (fun x => x = .preempted))

/-- A Trowel's entry. -/
def trowelEntry (t : Trowel) : List Byte :=
  bytesOf 8 ((t.pool.map (fun (e : Nat × PoolEntry) => 2 ^ e.1)).sum) ++ bytesOf 2 t.parkUsed ++ bytesOf 1 (t.front.isSome.toNat + t.back.isSome.toNat) ++
    bytesOf 5 0

/-- A speculation's entry. -/
def State.specEntry (s : State) (i : Nat) : List Byte :=
  match s.specOf i with
  | none => bytesOf 16 0
  | some x =>
    let js := s.jobsOfLaunch x.launch
    let held := !js.isEmpty && js.all (fun e => letters.any (fun l => (e.2.stream l).paused))
    let st : Nat := match x.state with
      | .running => if held then 2 else 1
      | .claiming => 3
      | .draining => 3
    bytesOf 4 x.seq.toNat ++ bytesOf 2 x.queue ++ bytesOf 1 st ++ bytesOf 1 0 ++ bytesOf 4 x.shadow.length ++ bytesOf 4 x.ranges.length

/-- The summary, 115,328 bytes. -/
def State.summary (s : State) : List Byte :=
  let parked := (List.filter (fun e : Nat × Job => e.2.status = .parked) s.jobs).map (fun e => bytesOf 8 e.2.jobid.toNat ++ bytesOf 8 (e.2.saveArea.getD 0))
  padTo 64 (bytesOf 4 0x4E595352 ++ bytesOf 4 1 ++ bytesOf 4 115328 ++ bytesOf 8 s.ptpt.toNat ++ bytesOf 8 s.ptpt.toNat) ++
    ((List.range 8).map (fun i => bytesOf 8 (Config.fwVersion i).toNat)).flatten ++
    packBits 4096 (fun q => (s.queueOf q).pending) ++
    ((List.range 4096).map (fun q => bytesOf 4 (s.queueOf q).wseq.toNat ++ bytesOf 4 (s.queueOf q).rseq.toNat)).flatten ++
    ((List.range 4096).map (fun q =>
      let e := s.queueOf q
      bytesOf 1 (e.valid.toNat + e.direct.toNat * 2 + e.hold.toNat * 4 + e.overrun.toNat * 8 + e.pending.toNat * 16))).flatten ++
    ((List.range 4096).map s.ctxEntry).flatten ++ ((List.range 16).map (fun p => padTo 64 (s.partEntry p))).flatten ++
    ((List.range 512).map s.ccEntry).flatten ++ padTo 16384 parked.flatten ++ ((List.range 128).map (fun c => trowelEntry (s.trow c))).flatten ++
    ((List.range 64).map s.specEntry).flatten ++ padTo 16384 (s.errors.map ErrRec.bytes).flatten

/-- `RESYNC`. -/
def execResync (s : State) : Result :=
  let r := s.args.req
  .next (if r.payload.length < 12 || reqField r 8 4 < 115328 then s.respond r stInvalid []
    else { s with outbox := s.outbox ++ [Out.bulk r.fn (BitVec.ofNat 64 (reqField r 0 8)) s.summary] }.respond r stOk [])

end Sys2Proof.Machine
end

