-- ==== Sys2Proof/Machine/Ecdsa.lean ====
section
/-! DEFINITION. The verification of ECDSA signatures over P-256 (FIPS 186-5, SP 800-186), which 21 R490 names for firmware images. -/

namespace Sys2Proof.Machine

/-- The field prime, the group order, and the curve's constant b. -/
def p256P : Nat := 0xffffffff00000001000000000000000000000000ffffffffffffffffffffffff
def p256N : Nat := 0xffffffff00000000ffffffffffffffffbce6faada7179e84f3b9cac2fc632551
def p256B : Nat := 0x5ac635d8aa3a93e7b3ebbd55769886bc651d06b0cc53b0f63bce3c3e27d2604b

/-- The base point. -/
def p256G : Nat × Nat :=
  (0x6b17d1f2e12c4247f8bce6e563a440f277037d812deb33a0f4a13945d898c296,
   0x4fe342e2fe1a7f9b8ee7eb4a7c0f9e162bce33576b315ececbb6406837bf51f5)

/-- `b` to the `e` modulo `m`; `n` bounds the bits of `e`. -/
def powMod (m n b e : Nat) : Nat :=
  match n with
  | 0 => 1 % m
  | n + 1 =>
    let h := powMod m n (b * b % m) (e / 2)
    if e % 2 = 1 then b * h % m else h

/-- The inverse modulo a prime below 2^256. -/
def invMod (m a : Nat) : Nat := powMod m 256 (a % m) (m - 2)

/-- The sum of two points; `none` is the point at infinity. -/
def ecAdd (p q : Option (Nat × Nat)) : Option (Nat × Nat) :=
  match p, q with
  | none, q => q
  | p, none => p
  | some (x1, y1), some (x2, y2) =>
    let third (k : Nat) : Option (Nat × Nat) :=
      let x := (k * k + 2 * p256P - x1 - x2) % p256P
      some (x, (k * (x1 + p256P - x) + p256P - y1) % p256P)
    if x1 ≠ x2 then third ((y2 + p256P - y1) * invMod p256P (x2 + p256P - x1) % p256P)
    else if (y1 + y2) % p256P = 0 then none
    else third ((3 * x1 * x1 + p256P - 3) * invMod p256P (2 * y1) % p256P)

/-- `k` times a point; `n` bounds the bits of `k`. -/
def ecMul (n k : Nat) (p : Option (Nat × Nat)) : Option (Nat × Nat) :=
  match n with
  | 0 => none
  | n + 1 =>
    let h := ecMul n (k / 2) (ecAdd p p)
    if k % 2 = 1 then ecAdd p h else h

/-- Whether a point lies on the curve. -/
def onCurve (x y : Nat) : Bool :=
  decide (x < p256P) && decide (y < p256P) && decide (y * y % p256P = (x * x * x + (p256P - 3) * x + p256B) % p256P)

/-- Whether (r, s) in `sig` is a signature of `digest` under the key in `key`, all big-endian. -/
def ecdsaVerify (key digest sig : List Byte) : Bool :=
  let x := beNat (key.take 32)
  let y := beNat ((key.drop 32).take 32)
  let r := beNat (sig.take 32)
  let s := beNat ((sig.drop 32).take 32)
  let w := invMod p256N s
  if r = 0 || s = 0 || p256N ≤ r || p256N ≤ s || !onCurve x y then false
  else
    match ecAdd (ecMul 256 (beNat digest * w % p256N) (some p256G)) (ecMul 256 (r * w % p256N) (some (x, y))) with
    | none => false
    | some q => decide (q.1 % p256N = r)

end Sys2Proof.Machine
end

