-- ==== Sys2Proof/Machine/Vocab.lean ====
section
/-! DEFINITION. Vocabularies (22 R499, R500), the tokeniser's text to identifiers (R505), and the detokeniser's UTF-8 (R509). -/

namespace Sys2Proof.Machine

/-! ### The image (22 R499) -/

def vocTok (v : List Byte) : Nat := fieldOf v 4 4
def vocEnd (v : List Byte) : Nat := fieldOf v 8 4
def vocSpec (v : List Byte) : Nat := fieldOf v 12 4
def vocStates (v : List Byte) : Nat := fieldOf v 16 4
def vocLog (v : List Byte) : Nat := fieldOf v 20 4
def vocTab (v : List Byte) : Nat := fieldOf v 24 4
def vocStr (v : List Byte) : Nat := fieldOf v 28 4
def vocSpecTab (v : List Byte) : Nat := fieldOf v 32 4
def vocClassTab (v : List Byte) : Nat := fieldOf v 36 4
def vocTrans (v : List Byte) : Nat := fieldOf v 40 4
def vocByteTok (v : List Byte) : Nat := fieldOf v 44 4
def vocMerge (v : List Byte) : Nat := fieldOf v 48 4

/-- Offset and length of a token's byte string. -/
def vocSpan (v : List Byte) (t : Nat) : Nat × Nat := (fieldOf v (vocTab v + 8 * t) 4, fieldOf v (vocTab v + 8 * t + 4) 2)

/-- Bytes of a token; an identifier that the vocabulary lacks has none. -/
def vocBytes (v : List Byte) (t : Nat) : List Byte := if t < vocTok v then sliceOf v (vocSpan v t).1 (vocSpan v t).2 else []

/-- An entry of the pre-split table: split, next state. -/
def vocEdge (v : List Byte) (st cls : Nat) : Nat := fieldOf v (vocTrans v + 16 * st + cls) 1

def vocClass (v : List Byte) (b : Byte) : Nat := fieldOf v (vocClassTab v + b.toNat) 1

/-- A merge-table entry: LEFT, RIGHT, RANK, RESULT. -/
structure Merge where
  left : Nat
  right : Nat
  rank : Nat
  result : Nat
  deriving DecidableEq, Repr

def vocMergeAt (v : List Byte) (i : Nat) : Merge :=
  let a := vocMerge v + 16 * i
  ⟨fieldOf v a 4, fieldOf v (a + 4) 4, fieldOf v (a + 8) 4, fieldOf v (a + 12) 4⟩

/-- LEFT of an empty entry. -/
def mergeEmpty : Nat := 0xFFFFFFFF

/-- Merge entries of a table. -/
def vocMerges (v : List Byte) : Nat := 4 * 2 ^ vocLog v

/-- Fields of the header in their ranges, every table inside the image. (DESIGN CHOICE, log 77) -/
def vocHeaderOk (v : List Byte) : Bool :=
  let n := v.length
  decide (64 ≤ n) && fieldOf v 0 4 = 0x42414356 && decide (1 ≤ vocTok v && vocTok v ≤ 1048576) && decide (vocSpec v ≤ 256) &&
    decide (1 ≤ vocStates v && vocStates v ≤ 64) && decide (1 ≤ vocLog v && vocLog v ≤ 24) && (sliceOf v 52 12).all (· = 0) &&
    decide (vocTab v + 8 * vocTok v ≤ n) && decide (vocStr v ≤ n) && decide (vocSpecTab v + 4 * vocSpec v ≤ n) &&
    decide (vocClassTab v + 256 ≤ n) && decide (vocTrans v + 16 * vocStates v ≤ n) && decide (vocByteTok v + 1024 ≤ n) &&
    decide (vocMerge v + 16 * vocMerges v ≤ n)

/-- A token's string lies in the string store and has a length of 1 to 65,535. -/
def vocTokenOk (v : List Byte) (t : Nat) : Bool :=
  let p := vocSpan v t
  decide (1 ≤ p.2) && decide (vocStr v ≤ p.1) && decide (p.1 + p.2 ≤ v.length)

/-- Whether F4 installs an image. -/
def vocOk (v : List Byte) : Bool :=
  vocHeaderOk v && (List.range (vocTok v)).all (vocTokenOk v) && (List.range 256).all (fun b => decide (fieldOf v (vocClassTab v + b) 1 < 16)) &&
    (List.range (16 * vocStates v)).all (fun i =>
      let e := fieldOf v (vocTrans v + i) 1
      decide (e % 64 < vocStates v) && !e.testBit 6) &&
    (List.range (vocMerges v)).all (fun i =>
      let m := vocMergeAt v i
      m.left = mergeEmpty || decide (m.result < vocTok v))

/-! ### Merges (22 R500) -/

/-- The bucket at which the search for a pair starts. -/
def mergeStart (log l r : Nat) : Nat := ((l * 0x9E3779B1) ^^^ (r * 0x85EBCA77)) % 2 ^ 32 / 2 ^ (32 - log)

/-- The search for a pair from entry `i` on: RANK and RESULT. (DEDUCED, log 78) -/
def mergeFind (v : List Byte) (l r fuel i : Nat) : Option (Nat × Nat) :=
  match fuel with
  | 0 => none
  | fuel + 1 =>
    let m := vocMergeAt v (i % vocMerges v)
    if m.left = mergeEmpty then none
    else if m.left = l && m.right = r then some (m.rank, m.result)
    else mergeFind v l r fuel (i + 1)

def mergeOf (v : List Byte) (l r : Nat) : Option (Nat × Nat) := mergeFind v l r (vocMerges v) (4 * mergeStart (vocLog v) l r)

/-! ### Tokenising (22 R505) -/

/-- The best merge of a list: position, rank and result; the lowest position on a tie. -/
def bestMerge (v : List Byte) (k : Nat) (t : List Nat) : Option (Nat × Nat × Nat) :=
  match t with
  | [] => none
  | [_] => none
  | a :: b :: r =>
    match mergeOf v a b, bestMerge v (k + 1) (b :: r) with
    | none, x => x
    | some m, none => some (k, m.1, m.2)
    | some m, some x => if m.1 ≤ x.2.1 then some (k, m.1, m.2) else some x

/-- The merges of a piece, one at a time; `fuel` bounds their number. -/
def mergeAll (v : List Byte) (fuel : Nat) (t : List Nat) : List Nat :=
  match fuel with
  | 0 => t
  | fuel + 1 =>
    match bestMerge v 0 t with
    | none => t
    | some (k, _, x) => mergeAll v fuel (t.take k ++ x :: t.drop (k + 2))

/-- `piece`. -/
def pieceTokens (v p : List Byte) : List Nat := mergeAll v p.length (p.map (fun b => fieldOf v (vocByteTok v + 4 * b.toNat) 4))

/-- `segment` from state `st` with the piece `cur` begun, newest byte first. -/
def segmentFrom (v : List Byte) (st : Nat) (cur l : List Byte) : List Nat :=
  match l with
  | [] => if cur.isEmpty then [] else pieceTokens v cur.reverse
  | b :: r =>
    let e := vocEdge v st (vocClass v b)
    if e.testBit 7 && !cur.isEmpty then pieceTokens v cur.reverse ++ segmentFrom v (e % 64) [b] r else segmentFrom v (e % 64) (b :: cur) r

/-- The special token that matches at the head of a text: its length and identifier; the longest, then the lower identifier. -/
def specialAt (v l : List Byte) : Option (Nat × Nat) :=
  (List.range (vocSpec v)).foldl (fun (best : Option (Nat × Nat)) i =>
    let t := fieldOf v (vocSpecTab v + 4 * i) 4
    let b := vocBytes v t
    if b.isEmpty || !b.isPrefixOf l then best
    else
      match best with
      | none => some (b.length, t)
      | some x => if x.1 < b.length || (x.1 = b.length && t < x.2) then some (b.length, t) else best) none

/-- `tokenise` with the segment `seg` begun, newest byte first. -/
def tokeniseFrom (v : List Byte) (fuel : Nat) (seg l : List Byte) : List Nat :=
  match fuel with
  | 0 => segmentFrom v 0 [] seg.reverse
  | fuel + 1 =>
    match l with
    | [] => segmentFrom v 0 [] seg.reverse
    | b :: r =>
      match specialAt v l with
      | some (n, t) => segmentFrom v 0 [] seg.reverse ++ t :: tokeniseFrom v fuel [] (l.drop n)
      | none => tokeniseFrom v fuel (b :: seg) r

/-- The token identifiers of a text. -/
def tokenise (v text : List Byte) : List Nat := tokeniseFrom v (text.length + 1) [] text

/-! ### UTF-8 (22 R509, Unicode 3.9 table 3-7 and its recommendation for maximal subparts) -/

/-- Continuation bytes that a first byte asks for, and the range of the first of them; none where it begins nothing. -/
def utf8Lead (b : Nat) : Option (Nat × Nat × Nat) :=
  if b < 0x80 then some (0, 0x80, 0xBF)
  else if b < 0xC2 then none
  else if b < 0xE0 then some (1, 0x80, 0xBF)
  else if b = 0xE0 then some (2, 0xA0, 0xBF)
  else if b = 0xED then some (2, 0x80, 0x9F)
  else if b < 0xF0 then some (2, 0x80, 0xBF)
  else if b = 0xF0 then some (3, 0x90, 0xBF)
  else if b < 0xF4 then some (3, 0x80, 0xBF)
  else if b = 0xF4 then some (3, 0x80, 0x8F)
  else none

/-- How many of `n` continuation bytes stand at the head of a list. -/
def utf8Cont (n lo hi : Nat) (l : List Byte) : Nat :=
  match n, l with
  | 0, _ => 0
  | _ + 1, [] => 0
  | n + 1, b :: r => if lo ≤ b.toNat && b.toNat ≤ hi then 1 + utf8Cont n 0x80 0xBF r else 0

/-- The maximal subpart at the head of a list: its length, and the length of the whole sequence that it begins (0 where it begins
none). -/
def utf8Head (b : Byte) (r : List Byte) : Nat × Nat :=
  match utf8Lead b.toNat with
  | none => (1, 0)
  | some (n, lo, hi) => (1 + utf8Cont n lo hi r, 1 + n)

/-- U+FFFD. -/
def replacement : List Byte := [0xEF, 0xBF, 0xBD]

/-- The bytes with one U+FFFD for each maximal ill-formed subpart. -/
def utf8Clean (fuel : Nat) (l : List Byte) : List Byte :=
  match fuel, l with
  | 0, _ => []
  | _ + 1, [] => []
  | fuel + 1, b :: r =>
    let x := utf8Head b r
    (if x.1 = x.2 then (b :: r).take x.1 else replacement) ++ utf8Clean fuel ((b :: r).drop x.1)

/-- Length of a trailing incomplete sequence. -/
def utf8Tail (fuel : Nat) (l : List Byte) : Nat :=
  match fuel, l with
  | 0, _ => 0
  | _ + 1, [] => 0
  | fuel + 1, b :: r =>
    let x := utf8Head b r
    if x.1 < x.2 && x.1 = (b :: r).length then x.1 else utf8Tail fuel ((b :: r).drop x.1)

/-! ### Stop strings (22 R509) -/

/-- The first position at which a stop string occurs. -/
def stopAt (stops : List (List Byte)) (i : Nat) (p : List Byte) : Option Nat :=
  match p with
  | [] => none
  | b :: r => if stops.any (fun t => t.isPrefixOf (b :: r)) then some i else stopAt stops (i + 1) r

/-- The longest suffix that is a proper prefix of a stop string. -/
def stopKeep (stops : List (List Byte)) (p : List Byte) : List Byte :=
  match p with
  | [] => []
  | b :: r => if stops.any (fun t => (b :: r).length < t.length && (b :: r).isPrefixOf t) then b :: r else stopKeep stops r

end Sys2Proof.Machine
end

