-- ==== Sys2Proof/Machine/Serve.lean ====
section
/-! DEFINITION. F4's serving of text: the sampler commands (12 R333, R334, 19 R453), the tables (22 R498), sessions (R497), envelopes and
their binding (R501 to R504), the tokeniser and detokeniser engines (R505 to R510), the beacon (R511), and the time (08 R235). -/

namespace Sys2Proof.Machine

/-! ### Sampler commands -/

/-- A configuration block (12 R334). -/
def cfgOf (b : List Byte) : SCfg :=
  let f (i n : Nat) : Nat := fieldOf b i n
  let w (i : Nat) : Word := BitVec.ofNat 64 (f i 8)
  { vf := f 0 1, prog := f 1 1, s := f 2 1, ks := f 3 1, dmax := f 4 1, grammar := (f 5 1).testBit 0, seed := w 8, maskbase := w 16, vaddr := w 24
    param := Vector.ofFn (fun i : Fin 8 => w (32 + 8 * i.val)), tport := w 96, dport := w 104, detok := f 112 1 }

/-- Whether F4 accepts a configuration. (DESIGN CHOICE, log 84) -/
def SCfg.ok (c : SCfg) : Bool :=
  decide (2 ≤ c.s && c.s ≤ 16) && decide (1 ≤ c.ks && c.ks ≤ 64) && decide (c.dmax ≤ 8) && decide ((c.dmax + 1) * c.s * c.ks ≤ 768) &&
    decide (c.detok ≤ 7) && !(c.dport = 0 && c.dmax ≠ 0)

/-- A context bound to a request (12 R335). -/
def State.bindCtx (s : State) (die ctx : Nat) (c : SCfg) : State :=
  s.modSctx die ctx (fun _ => { SCtx.blank with state := .waiting, cfg := c, seed := c.seed })

/-- A context unbound: `IDLE`, with its lane free and nothing under way for it. -/
def State.unbindCtx (s : State) (die ctx : Nat) : State :=
  ((s.freeLane die ctx).unpost (fun m =>
    match m with
    | .event .reshardDone g => g.a = die && g.b = ctx
    | _ => false)).modSctx die ctx (fun _ => SCtx.blank)

/-- `SAMPLER_PROG`: words of the program memory (kind 0) or an entry of the program table (kind 1). -/
def execSamplerProg (s : State) : Result :=
  let r := s.args.req
  let die := reqField r 0 1
  let first := reqField r 2 2
  let n := reqField r 4 2
  let i := reqField r 2 1
  let e := reqField r 4 4
  let put (m : Map (BitVec 32)) (k : Nat) : Map (BitVec 32) := Map.set m (first + k) (BitVec.ofNat 32 (reqField r (6 + 4 * k) 4))
  .next (if 7 < die then s.respond r stInvalid []
    else if reqField r 1 1 = 0 then
      if r.payload.length < 6 + 4 * n || 16384 < first + n then s.respond r stInvalid []
      else
        (s.modDie die (fun d => { d with sampler := { d.sampler with words := (List.range n).foldl put d.sampler.words } })).respond r stOk []
    else if reqField r 1 1 ≠ 1 || r.payload.length < 8 || 16384 ≤ e then s.respond r stInvalid []
    else (s.modDie die (fun d => { d with sampler := { d.sampler with table := d.sampler.table.set i e } })).respond r stOk [])

/-- `SAMPLER_BIND`. -/
def execSamplerBind (s : State) : Result :=
  let r := s.args.req
  let die := reqField r 0 1
  let ctx := reqField r 1 2
  let c := cfgOf (sliceOf r.payload 3 128)
  .next (if r.payload.length < 131 || 7 < die || 1023 < ctx then s.respond r stInvalid []
    else if (s.sctxOf die ctx).state ≠ .idle then s.respond r stBusy []
    else if !c.ok then s.respond r stInvalid []
    else (s.bindCtx die ctx c).respond r stOk [])

/-- `SAMPLER_UNBIND`; a request that the context serves is gone with it. -/
def execSamplerUnbind (s : State) : Result :=
  let r := s.args.req
  let die := reqField r 0 1
  let ctx := reqField r 1 2
  .next (if r.payload.length < 3 || 7 < die || 1023 < ctx then s.respond r stInvalid []
    else
      { s.unbindCtx die ctx with
        requests := List.filter (fun e : Nat × Request => !(e.2.die = die && e.2.ctx = ctx)) s.requests }.respond r stOk [])

/-! ### Tables (22 R498) -/

/-- Whether a request in progress satisfies `p`. -/
def State.inUse (s : State) (p : Request → Bool) : Bool := s.requests.any (fun e => p e.2)

/-- Whether a physical range lies in pinned frames. -/
def State.pinnedFrames (s : State) (lo n : Nat) : Bool := s.framesAll lo n (fun x => entPinned x.2.2.2)

/-- `VOCAB_LOAD` OP 0. -/
def execVocabLoadImage (s : State) : Result :=
  let r := s.args.req
  let i := reqField r 4 1
  let v := sliceOf r.bulk 0 (reqField r 20 8)
  .next (if r.payload.length < 28 || 15 < i || reqField r 1 3 ≠ 0 || reqField r 5 7 ≠ 0 || !vocOk v then s.respond r stInvalid []
    else if s.inUse (fun q => q.vocab = i) then s.respond r stBusy []
    else { s with vocabs := s.vocabs.set i v }.respond r stOk [])

/-- Fields of a service entry in their ranges. -/
def serviceOk (b : List Byte) : Bool :=
  let f (i n : Nat) : Nat := fieldOf b i n
  decide (f 4 2 ≤ 191) && decide (f 6 1 ≤ 15) && decide (f 7 1 ≤ 63) && decide (1 ≤ f 8 4 && f 8 4 ≤ 1048576) && decide (f 12 1 ≤ 63) &&
    decide (f 13 1 ≤ 8) && f 14 2 = 0

/-- `VOCAB_LOAD` OP 1. -/
def execVocabLoadService (s : State) : Result :=
  let r := s.args.req
  let b := sliceOf r.payload 4 16
  let i := fieldOf b 0 4
  .next (if r.payload.length < 20 || reqField r 1 3 ≠ 0 || !serviceOk b then s.respond r stInvalid []
    else if s.inUse (fun q => q.service = i) then s.respond r stBusy []
    else { s with services := s.services.set i b }.respond r stOk [])

/-- Fields of a ring entry in their ranges. -/
def ringOk (b : List Byte) : Bool :=
  let f (i n : Nat) : Nat := fieldOf b i n
  decide (f 0 1 ≤ 63) && decide (1 ≤ f 1 1 && f 1 1 ≤ 32) && decide (2 ≤ f 2 1 && f 2 1 ≤ 16) && decide (f 3 1 ≤ 7) &&
    decide (1 ≤ f 4 1 && f 4 1 ≤ 64) && f 5 3 = 0 && (sliceOf b 160 40).all (· = 0) && decide (f 152 8 < 2 ^ 40) && f 152 8 % 64 = 0 &&
    (List.range (f 1 1)).all (fun i => decide (f (8 + 4 * i) 2 ≤ 4095) && decide (f (10 + 4 * i) 1 ≤ 7) && f (11 + 4 * i) 1 = 0)

/-- `VOCAB_LOAD` OP 2. -/
def execVocabLoadRing (s : State) : Result :=
  let r := s.args.req
  let b := sliceOf r.payload 4 200
  let i := fieldOf b 0 1
  .next (if r.payload.length < 204 || reqField r 1 3 ≠ 0 || !ringOk b || !s.pinnedFrames (fieldOf b 152 8) 65536 then s.respond r stInvalid []
    else if s.inUse (fun q => q.ring = i) then s.respond r stBusy []
    else { s with rings := s.rings.set i b }.respond r stOk [])

/-- Bytes of a mask region and of one of its nine slots (22 R504). -/
def maskSlotBytes : Nat := 0x20080
def maskRegionBytes : Nat := 9 * maskSlotBytes

/-- Whether two grammar entries are for the same GRAMMAR and VF. -/
def sameGrammar (a b : List Byte) : Bool := fieldOf a 0 6 = fieldOf b 0 6

/-- `VOCAB_LOAD` OP 3. -/
def execVocabLoadGrammar (s : State) : Result :=
  let r := s.args.req
  let b := sliceOf r.payload 4 32
  let f (i n : Nat) : Nat := fieldOf b i n
  let q := s.queueOf (f 6 2)
  let n := f 24 4
  .next (if r.payload.length < 36 || reqField r 1 3 ≠ 0 || f 0 4 = 0 || 191 < f 4 2 || f 28 4 ≠ 0 || !q.valid || q.direct || q.vf ≠ f 4 2 ||
        f 16 8 % 128 ≠ 0 || n = 0 || 1024 < n || 2 ^ 40 < f 16 8 + n * maskRegionBytes || !s.pinnedFrames (f 16 8) (n * maskRegionBytes) then
      s.respond r stInvalid []
    else if s.inUse (fun q => (q.region.map (fun g => (g.1, g.2.1))) = some (f 0 4, f 4 2)) then s.respond r stBusy []
    else { s with grammars := s.grammars.filter (fun g => !sameGrammar g b) ++ [b] }.respond r stOk [])

/-! ### Sessions (22 R497) -/

/-- The port for a new session: F4's choice, or the next one that has room. -/
def State.portFor (s : State) : Option Nat :=
  ((List.range 8).map (fun i => (Config.sessionPort s.ticket + i) % 8)).find? (fun p =>
    decide ((List.filter (fun e : Nat × Session => e.2.port = p) s.sessions).length < 8192))

/-- A proxy opens a session; `data` is its key. -/
def execSessionOpen (s : State) : Result :=
  let g := s.args
  .next (if !s.etherUp || (s.sessions.find? g.a).isSome then s
    else
      match s.portFor with
      | none => s
      | some p => { s with sessions := s.sessions.set g.a ⟨p, g.data, 0⟩ }.draw)

/-- A request ends: no token of it is taken any more, and its context goes once nothing of it can still arrive. (DEDUCED, log 82) -/
def State.endRequest (s : State) (k : Nat) (r : Request) : State :=
  { s with requests := s.requests.set k { r with finished := true } }.later .finalFrameAccepted { a := k }

/-- A session closes: its requests end without a frame. -/
def execSessionClose (s : State) : Result :=
  let g := s.args
  let mine := List.filter (fun e : Nat × Request => e.2.session = g.a && !e.2.finished) s.requests
  .next (mine.foldl (fun (s : State) e => s.endRequest e.1 e.2) { s with sessions := s.sessions.erase g.a })

/-- A packet that fails authentication is dropped and counted. -/
def execPacketAuthFail (s : State) : Result :=
  let g := s.args
  .next (match s.sessions.find? g.a with
    | none => s
    | some x => { s with sessions := s.sessions.set g.a { x with authFails := x.authFails + 1 } })

/-! ### Reply frames (22 R502) -/

/-- Codes of FINISH. -/
def finEnd : Nat := 1
def finStop : Nat := 2
def finLength : Nat := 3
def finFault : Nat := 4
def finRejected : Nat := 5
def finOverload : Nat := 6

/-- A frame; `trailer` makes it the final one. -/
def frameBytes (reqid : Word) (fseq : BitVec 32) (text trailer : List Byte) : List Byte :=
  bytesOf 8 reqid.toNat ++ bytesOf 4 fseq.toNat ++ bytesOf 2 text.length ++ bytesOf 1 (if trailer.isEmpty then 0 else 1) ++ bytesOf 1 0 ++ text ++
    trailer

/-- The trailer of a final frame. -/
def trailerBytes (fin prompt gen detail : Nat) : List Byte :=
  bytesOf 1 fin ++ bytesOf 3 0 ++ bytesOf 4 prompt ++ bytesOf 4 gen ++ bytesOf 4 detail

/-- DSCP of a service's sessions; an unknown service has 0. -/
def State.dscp (s : State) (service : Nat) : Nat := fieldOf (s.services.getD service []) 12 1

/-- Text as frames of at most 4,000 bytes from FSEQ `n` on; a non-empty `trailer` ends the last. -/
def framesOfText (reqid : Word) (trailer : List Byte) (fuel : Nat) (n : BitVec 32) (text : List Byte) : List (List Byte) :=
  match fuel with
  | 0 => []
  | fuel + 1 =>
    if text.length ≤ 4000 then (if text.isEmpty && trailer.isEmpty then [] else [frameBytes reqid n text trailer])
    else frameBytes reqid n (text.take 4000) [] :: framesOfText reqid trailer fuel (n + 1) (text.drop 4000)

/-- Sends the released text of a request, with the trailer where it is its last. -/
def State.sendText (s : State) (k : Nat) (r : Request) (trailer : List Byte) : State :=
  let fs := framesOfText r.reqid trailer (r.rel.length / 4000 + 1) r.fseq r.rel
  let d := s.dscp r.service
  { s with
    outbox := s.outbox ++ fs.map (fun f => Out.frame r.session d f)
    requests := s.requests.set k { r with rel := [], fseq := r.fseq + BitVec.ofNat 32 fs.length } }

/-- `finish`: the final frame, after which F4 waits for the session to accept it. -/
def State.finishRequest (s : State) (k : Nat) (r : Request) (fin detail : Nat) : State :=
  let r1 := if fin = finStop then r else { r with rel := r.rel ++ utf8Clean r.pend.length r.pend, pend := [] }
  let s1 := s.sendText k r1 (trailerBytes fin r.prompt r.gen detail)
  match s1.requests.find? k with
  | none => s1
  | some r2 => s1.endRequest k r2

/-- An envelope answered at once. -/
def State.refuse (s : State) (session : Nat) (msg : List Byte) (fin prompt : Nat) : State :=
  { s with outbox := s.outbox ++
      [Out.frame session (s.dscp (fieldOf msg 4 4)) (frameBytes (BitVec.ofNat 64 (fieldOf msg 8 8)) 0 [] (trailerBytes fin prompt 0 0))] }

/-! ### Envelopes (22 R501) -/

/-- The stop strings at the head of a list of bytes, and what follows them. -/
def takeStops (n : Nat) (l : List Byte) : Option (List (List Byte) × List Byte) :=
  match n, l with
  | 0, l => some ([], l)
  | _ + 1, [] => none
  | n + 1, b :: r =>
    let m := b.toNat
    if m = 0 || 64 < m || r.length < m then none
    else
      match takeStops n (r.drop m) with
      | none => none
      | some x => some (r.take m :: x.1, x.2)

/-- The stop strings and the text of an envelope whose reserved bytes and lengths are right. -/
def envelopeParts (m : List Byte) : Option (List (List Byte) × List Byte) :=
  let f (i n : Nat) : Nat := fieldOf m i n
  if m.length < 104 || f 0 1 ≠ 1 || f 1 3 ≠ 0 || f 26 2 ≠ 0 || f 16 4 = 0 || 1048576 < f 16 4 || 8 < f 25 1 || f 28 4 = 0 || 8388608 < f 28 4 then none
  else
    match takeStops (f 25 1) (m.drop 104) with
    | none => none
    | some x => if x.2.length = f 28 4 then some x else none

/-- The lowest-numbered `IDLE` context of a die's sampler. -/
def State.idleCtx (s : State) (die : Nat) : Option Nat := (List.range 1024).find? (fun c => (s.sctxOf die c).state = .idle)

/-- The lowest free mask region of a grammar entry. -/
def State.freeRegion (s : State) (g : List Byte) : Option Nat :=
  (List.range (fieldOf g 24 4)).find? (fun i => !s.inUse (fun r => r.region = some (fieldOf g 0 4, fieldOf g 4 2, i)))

/-- The configuration block of a request (22 R503). -/
def servedBlock (m service ring : List Byte) (ctx : Nat) (mask : Nat) : List Byte :=
  let d := fieldOf service 13 1
  let id := fieldOf m 8 8
  let seed := fieldOf m 96 8
  bytesOf 1 (fieldOf service 4 2) ++ bytesOf 1 (fieldOf m 24 1) ++ bytesOf 1 (fieldOf ring 2 1) ++ bytesOf 1 (fieldOf ring 4 1) ++ bytesOf 1 d ++
    bytesOf 1 (if fieldOf m 20 4 = 0 then 0 else 1) ++ bytesOf 2 0 ++ bytesOf 8 (if seed = 0 then id else seed) ++ bytesOf 8 mask ++
    bytesOf 8 (fieldOf ring 152 8 + 64 * ctx) ++ sliceOf m 32 64 ++ bytesOf 8 (fieldOf ring 136 8) ++
    bytesOf 8 (if d = 0 then 0 else fieldOf ring 144 8) ++ bytesOf 1 (id % 8) ++ bytesOf 15 0

/-- Headers of the nine slots of a region: ITER all ones, VALID 0 (22 R504 step 2). -/
def State.clearSlots (s : State) (base : Nat) : State :=
  (List.range 9).foldl (fun (s : State) p =>
    let a := base + p * maskSlotBytes
    s.perform (homeDie a) a (bytesOf 4 0xFFFFFFFF ++ bytesOf 4 0) false) s

/-- The grammar launch's record (22 R504 step 4). -/
def grammarRecord (g : List Byte) (part die ctx : Nat) (c : SCfg) (reqid : Nat) : List Byte :=
  bytesOf 8 (fieldOf g 8 8) ++ bytesOf 32 0 ++ bytesOf 8 (16777215 * 2 ^ 40 + part * 2 ^ 36 + 7 * 2 ^ 32 + 2 ^ 31) ++ bytesOf 16 0 ++
    bytesOf 8 reqid ++ bytesOf 1 die ++ bytesOf 1 0 ++ bytesOf 2 ctx ++ bytesOf 4 0 ++ bytesOf 8 c.maskbase.toNat ++ bytesOf 8 c.vaddr.toNat ++
    bytesOf 1 c.dmax ++ bytesOf 31 0

/-- The grammar launch: the record is written into the ring, then the queue is rung; none where the ring has no free slot. -/
def State.grammarLaunch (s : State) (g : List Byte) (die ctx : Nat) (c : SCfg) (reqid : Nat) : Option State :=
  let q := fieldOf g 6 2
  let e := s.queueOf q
  if !e.valid || e.direct || e.size ≤ (e.wseq - e.rseq).toNat then none
  else
    let a := e.base + 128 * (e.wseq.toNat % e.size)
    some ((s.perform (homeDie a) a (grammarRecord g e.part die ctx c reqid) false).wake q (e.wseq + 1))

/-- The tokeniser engine with the fewest queued bytes, the lower number on a tie. -/
def State.tokEngine (s : State) : Nat :=
  let load (e : Nat) : Nat := ((s.tokQ.getD e []).map (fun k => ((s.requests.find? k).map (fun r => r.text.length)).getD 0)).sum
  ((List.range 8).foldl (fun (b : Nat × Nat) e => if load e < b.2 then (e, load e) else b) (0, load 0)).1

/-- Cycles in which an engine takes `n` bytes at 4 GB/s. -/
def tokCycles (n : Nat) : Nat := (3 * n + 4) / 5

/-- The text of a request goes to a tokeniser engine. (DESIGN CHOICE, log 81) -/
def State.toTokeniser (s : State) (k : Nat) : State :=
  let e := s.tokEngine
  let q := s.tokQ.getD e [] ++ [k]
  let n := (q.map (fun k => ((s.requests.find? k).map (fun r => r.text.length)).getD 0)).sum
  ({ s with tokQ := s.tokQ.set e q }.post (1 + tokCycles n + Config.delay s.ticket) .tokenise { a := e }).draw

/-- The binding of an admitted request to a context, with its region where it names a grammar. -/
def State.bindRequest (s : State) (session : Nat) (m service ring : List Byte) (parts : List (List Byte) × List Byte) (prompt die ctx : Nat)
    (g : Option (List Byte × Nat)) : State :=
  let mask : Nat := match g with
    | none => 0
    | some (g, r) => fieldOf g 16 8 + r * maskRegionBytes
  let c := cfgOf (servedBlock m service ring ctx mask)
  let id := fieldOf m 8 8
  let k := s.nextId
  let r : Request := {
    session := session, reqid := BitVec.ofNat 64 id, service := fieldOf service 0 4, ring := fieldOf service 7 1, vocab := fieldOf service 6 1
    die := die, ctx := ctx, maxtok := fieldOf m 16 4, stops := parts.1, text := parts.2, prompt := prompt
    region := g.map (fun g => (fieldOf g.1 0 4, fieldOf g.1 4 2, g.2)), detok := id % 8, pend := [], rel := [], gen := 0, fseq := 0, finished := false }
  if !c.ok then s.refuse session m finRejected prompt
  else
    let bind (s : State) : State := { (s.newId.bindCtx die ctx c) with requests := s.requests.set k r }
    match g with
    | none => (bind s).toTokeniser k
    | some (g, _) =>
      match (bind (s.clearSlots mask)).grammarLaunch g die ctx c id with
      | none => (s.clearSlots mask).refuse session m finOverload prompt
      | some t => t.toTokeniser k

/-- An envelope that passes the checks of R501: a context, and a mask region where it names a grammar. -/
def State.seat (s : State) (session : Nat) (m service ring : List Byte) (parts : List (List Byte) × List Byte) (prompt : Nat) : State :=
  let die := fieldOf ring 3 1
  let gid := fieldOf m 20 4
  match s.idleCtx die with
  | none => s.refuse session m finOverload prompt
  | some ctx =>
    if gid = 0 then s.bindRequest session m service ring parts prompt die ctx none
    else
      match s.grammars.find? (fun g => fieldOf g 0 4 = gid && fieldOf g 4 2 = fieldOf service 4 2) with
      | none => s.refuse session m finRejected prompt
      | some g =>
        match s.freeRegion g with
        | none => s.refuse session m finOverload prompt
        | some r => s.bindRequest session m service ring parts prompt die ctx (some (g, r))

/-- F4 takes an envelope. A service whose ring or vocabulary is not installed is unknown. (DEDUCED, log 79) -/
def State.envelope (s : State) (session : Nat) (m : List Byte) : State :=
  match envelopeParts m, s.services.find? (fieldOf m 4 4) with
  | some parts, some service =>
    match s.rings.find? (fieldOf service 7 1), s.vocabs.find? (fieldOf service 6 1) with
    | some ring, some v =>
      let prompt := (tokenise v parts.2).length
      if ((s.dieOf (fieldOf ring 3 1)).sampler.table.find? (fieldOf m 24 1)).isNone || fieldOf service 8 4 < prompt + fieldOf m 16 4 then
        s.refuse session m finRejected prompt
      else s.seat session m service ring parts prompt
    | _, _ => s.refuse session m finRejected 0
  | _, _ => s.refuse session m finRejected 0

/-- An envelope arrives on an open session. -/
def execEnvelopeArrival (s : State) : Result :=
  let g := s.args
  .next (if s.etherUp && s.ready && (s.sessions.find? g.a).isSome then s.envelope g.a g.data else s)

/-! ### Engines -/

/-- The tokens of a prompt go to the first stage's token queue, one message each, in order (22 R506). -/
def State.sendPrompt (s : State) (k : Nat) (r : Request) : State :=
  let v := s.vocabs.getD r.vocab []
  let port := BitVec.ofNat 64 (fieldOf (s.rings.getD r.ring []) 136 8)
  let ts := tokenise v r.text
  ((List.range ts.length).zip ts).foldl (fun (s : State) e =>
    s.transmit ⟨tokeniserKey k, port, BitVec.ofNat 16 e.1, 0, bytesOf 4 e.2, false⟩) s

/-- A tokeniser engine finishes its oldest request. -/
def execTokenise (s : State) : Result :=
  let e := s.args.a
  .next (match s.tokQ.getD e [] with
    | [] => s
    | k :: rest =>
      let s1 := { s with tokQ := s.tokQ.set e rest }
      match s1.requests.find? k with
      | none => s1
      | some r => if r.finished then s1 else s1.sendPrompt k r)

/-- One token of a verify step at the detokeniser (22 R509); `last` tells that it is the step's last. (DEDUCED, log 80) -/
def State.detokToken (s : State) (k : Nat) (r : Request) (t : BitVec 32) (last : Bool) : State :=
  let v := s.vocabs.getD r.vocab []
  if t.toNat = vocEnd v then s.finishRequest k r finEnd 0
  else
    let p := r.pend ++ vocBytes v t.toNat
    let r1 := { r with gen := r.gen + 1 }
    match stopAt r.stops 0 p with
    | some i => s.finishRequest k { r1 with rel := r.rel ++ utf8Clean i (p.take i), pend := [] } finStop 0
    | none =>
      let n := p.length - (stopKeep r.stops p).length
      let c := n - utf8Tail n (p.take n)
      let r2 := { r1 with rel := r.rel ++ utf8Clean c (p.take c), pend := p.drop c }
      if r2.gen = r.maxtok then s.finishRequest k r2 finLength 0
      else if last then s.sendText k r2 []
      else { s with requests := s.requests.set k r2 }

/-- A detokeniser engine takes its next item; the rest of a finished request's tokens are discarded. -/
def execDetokeniseToken (s : State) : Result :=
  let e := s.args.a
  .next (match s.detokQ.getD e [] with
    | [] => s
    | i :: rest =>
      let s1 := { s with detokQ := s.detokQ.set e rest }
      let go (k : Nat) (f : Request → State) : State :=
        match s1.requests.find? k with
        | none => s1
        | some r => if r.finished then s1 else f r
      match i with
      | .tok k t last => go k (fun r => s1.detokToken k r t last)
      | .stop k code => go k (fun r => s1.finishRequest k r finFault code))

/-- Whether a message of a request is still on its way. -/
def State.messagesOf (s : State) (k : Nat) (r : Request) : Bool :=
  s.fmsgs.any (fun e => e.2.sender = tokeniserKey k || e.2.sender = samplerKey r.die r.ctx)

/-- The session has accepted the final frame: F4 unbinds the context and frees the mask region, once no message of the request is left. -/
def execFinalFrameAccepted (s : State) : Result :=
  let k := s.args.a
  .next (match s.requests.find? k with
    | none => s
    | some r =>
      if !r.finished then s
      else if s.messagesOf k r then s.post 1 .finalFrameAccepted s.args
      else { s.unbindCtx r.die r.ctx with requests := s.requests.erase k })

/-! ### The beacon (22 R511, R512) -/

/-- A beacon before its signature. -/
def State.beacon (s : State) : List Byte :=
  let ws := s.validWids
  bytesOf 4 0x4E434542 ++ bytesOf 2 1 ++ bytesOf 2 ws.length ++ bytesOf 8 Config.serial.toNat ++ bytesOf 8 s.beacons.toNat ++
    bytesOf 8 s.ptpt.toNat ++ padTo 64 (Config.beaconPub s.boots) ++
    (ws.map (fun e => bytesOf 4 e.1 ++ bytesOf 4 e.2.load ++ padTo 32 e.2.digest)).flatten

/-- A beacon goes to each router, and the loads begin again; `flag` tells one that a `SHELF_LOAD` brings, beside those of each 100 ms. -/
def execWeightBeacon (s : State) : Result :=
  let b := s.beacon
  let all := b ++ padTo 64 (Config.ecdsaSign true (sha256 b) s.ticket)
  let s1 := { s with
    outbox := s.outbox ++ (Config.beaconRouters.take 8).map (fun r => Out.beacon r all)
    beacons := s.beacons + 1
    wids := s.wids.map (fun (e : Nat × Wid) => (e.1, { e.2 with load := 0 })) }.draw
  .next (if s.args.flag then s1 else s1.post 240000000 .weightBeacon {})

/-! ### The time (08 R235) -/

/-- F4 steps the time before the first Ethernet port is enabled, and from then on slews it. (DEDUCED, log 67) -/
def execPtptDiscipline (s : State) : Result :=
  let w := s.args.word
  let s1 := if w.toNat % 2 ^ 32 < 1000000000 then
      (if s.etherUp then { s with slew := (timeNs w : Int) - timeNs s.ptpt } else { s with ptpt := w })
    else s
  .next (s1.colls.keys.foldl (fun (s : State) k => s.ensure 1 .collectiveDeadline { a := k }) s1)

end Sys2Proof.Machine
end

