-- ==== Sys2Proof/Machine/Power.lean ====
section
/-! DEFINITION. Reset and boot (19 R430, 21 R489, R490), budgets (08 R233, 21 R496), and F6's limits (21 R495). -/

namespace Sys2Proof.Machine

/-! ### Boot -/

/-- The device begins again with the boot ROM's first stage; its clock, its counters for free values and what has left it stand.
(DESIGN CHOICE, log 64) -/
def State.restart (s : State) : State :=
  { State.reset with
    now := s.now
    ticket := s.ticket
    nextId := s.nextId
    outbox := s.outbox
    boots := s.boots + 1
    agenda := [⟨s.now + 1, .event .bootStage {}⟩] }

/-- A function-level reset of PF 0 resets the whole device. -/
def execPfFlr (s : State) : Result := .next s.restart

/-- Power comes on, or is cycled. -/
def execPowerOn (s : State) : Result := .next s.restart

/-- Whether the image of a firmware core is accepted (21 R490). (DEDUCED, log 63) -/
def imageOk (b : List Byte) (core : Nat) : Bool :=
  let f (i n : Nat) : Nat := fieldOf b i n
  let n := f 12 4
  decide (256 + n ≤ b.length) && f 0 4 = 0x4D474957 && f 4 1 = core && f 5 3 = 0 && (sliceOf b 184 72).all (· = 0) &&
    decide (Config.fusedSvn.toNat ≤ f 8 4) && sha256 (sliceOf b 56 64) = Config.keyHash && sha256 (sliceOf b 256 n) = sliceOf b 24 32 &&
    ecdsaVerify (sliceOf b 56 64) (sha256 (sliceOf b 0 120)) (sliceOf b 120 64)

/-- Whether the checks of a boot stage succeed. -/
def stageOk (n : Nat) : Bool :=
  if n = 1 then Config.fuseCheck
  else if n = 2 then imageOk (Config.image 5) 5
  else if n = 3 then [0, 1, 2, 3, 4, 6, 7].all (fun c => imageOk (Config.image c) c)
  else Config.stageCheck n

/-- A time with its nanoseconds in range. -/
def ptptOf (w : Word) : Word := BitVec.ofNat 64 (w.toNat / 2 ^ 32 * 2 ^ 32 + w.toNat % 2 ^ 32 % 1000000000)

/-- What recurs once the device is ready. (DEDUCED, log 66) -/
def State.startClocks (s : State) : State :=
  let w := 1024 - s.now % 1024
  let s1 := (List.range 8).foldl (fun (s : State) d =>
    (s.modDie d (fun x => { x with idleSince := s.now })).post w .injectionRefill { a := d } |>.post 2400000 .idleDieGate { a := d }) s
  (((s1.post w .cacheWindowClear {}).post w .budgetRefill {}).post 2400000 .accSample {}).post 240000000 .weightBeacon {}

/-- The work of a stage. -/
def State.stageWork (s : State) (n : Nat) : State :=
  if n = 4 then { s with mem := [], memPoison := [] }
  else if n = 6 then { s with ptpt := ptptOf (Config.grandmaster s.ticket), etherUp := true }.draw
  else if n = 7 then { s with ready := true }.startClocks
  else s

/-- The next boot stage: one that fails halts the boot with DEVSTAT bit 1. -/
def execBootStage (s : State) : Result :=
  let n := s.boot + 1
  let s1 := { s with boot := n }
  .next (if s.ready || s.fatal || 7 < n then s
    else if !stageOk n then { s1 with fatal := true }
    else
      let s2 := s1.stageWork n
      if n = 7 then s2 else s2.later .bootStage {})

/-! ### Budgets -/

/-- Cores of a die. -/
def coresOf (die : Nat) : List Nat := (List.range 16).map (coreKey die)

/-- Whether a sensor is one of a die. -/
def sensorOnDie (q : Sensor) (die : Nat) : Bool :=
  match q with
  | .junction d => d = die
  | .stack n => n / 2 = die
  | .power => true
  | .inlet => true
  | .supply => true

/-- Whether a throttle stands on a die. -/
def State.throttled (s : State) (die : Nat) : Bool := s.sensors.any (fun q => sensorOnDie q die)

/-- F1 is told of a core's new refill (19 R449 message 0x0601): from `BUDGET_SET`, which sets the value that stands outside a throttle, or
from a throttle. -/
def execMsgBudgetChange (s : State) : Result :=
  .next (s.receiveMail (fun m => m.type = 0x0601) .msgBudgetChange (fun s m =>
    let k := m.payload.getD 0 0
    let v := m.payload.getD 1 0
    match m.req with
    | none => s.modCore k (fun x => { x with refill := v })
    | some r =>
      let held := s.throttled (k / 16)
      (s.modCore k (fun x => { x with limit := v, refill := if held then Nat.min x.refill v else v })).respond r stOk []))

/-- F6 changes the refill of a die's cores. -/
def State.budgets (s : State) (die : Nat) (f : State → Nat → Nat) : State :=
  (coresOf die).foldl (fun (s : State) k => s.draw.send ⟨0x0601, 6, 1, [k, f s k], none, none⟩ .msgBudgetChange {}) s

/-! ### Limits (21 R495), in thousandths of a degree, milliwatts and millivolts -/

/-- The limit at which a throttle begins; the core supply has none. (DEDUCED, log 65) -/
def throttleAt (q : Sensor) : Option Nat :=
  match q with
  | .junction _ => some 105000
  | .stack _ => some 95000
  | .power => some 3400000
  | .inlet => some 45000
  | .supply => none

/-- Whether a reading is past the shutdown limit. -/
def shutsDown (q : Sensor) (a : Nat) : Bool :=
  match q with
  | .junction _ => 115000 < a
  | .stack _ => 105000 < a
  | .power => 3700000 < a
  | .inlet => 55000 < a
  | .supply => a < 380 || 570 < a

/-- The reading at which a throttle ends: 5 °C below the limit; for the module's power, its limit. -/
def releaseAt (q : Sensor) : Nat :=
  match q with
  | .junction _ => 100000
  | .stack _ => 90000
  | .power => 3400000
  | .inlet => 40000
  | .supply => 0

/-- A refill below a given one, but not 0, which would switch the budget off (11 R312). -/
def lowered (l x : Nat) : Nat := if l ≤ 1 then l else 1 + x % (l - 1)

/-- A reading past its throttle limit lowers the refill of the affected die's cores. -/
def execThermalThrottle (s : State) : Result :=
  let g := s.args
  .next (match throttleAt g.q with
    | none => s
    | some t =>
      if g.a ≤ t || s.sensors.contains g.q then s
      else
        ((List.range 8).filter (sensorOnDie g.q)).foldl
          (fun (s : State) d => s.budgets d (fun s k => lowered (s.coreOf k).limit (Config.throttleRefill k s.ticket)))
          { s with sensors := s.sensors ++ [g.q] })

/-- A reading that has fallen far enough ends its throttle; a die's refill is restored once none stands on it. -/
def execThrottleRelease (s : State) : Result :=
  let g := s.args
  .next (if !s.sensors.contains g.q || releaseAt g.q < g.a then s
    else
      let s1 := { s with sensors := s.sensors.erase g.q }
      ((List.range 8).filter (fun d => sensorOnDie g.q d && !s1.throttled d)).foldl
        (fun (s : State) d => s.budgets d (fun s k => (s.coreOf k).limit)) s1)

/-- A reading past its shutdown limit sets DEVSTAT bit 1 and removes the core supply: nothing of the device goes on. -/
def execThermalShutdown (s : State) : Result :=
  let g := s.args
  .next (if shutsDown g.q g.a then { s with fatal := true, supply := false, agenda := [] } else s)

/-- Clocks of a die are gated after 1 ms with no job. -/
def execIdleDieGate (s : State) : Result :=
  let die := s.args.a
  let d := s.dieOf die
  .next (if d.gated || s.jobs.any (fun e => e.2.die = die && (e.2.status = .running || e.2.status = .resuming)) then s
    else if d.idleSince + 2400000 ≤ s.now then s.modDie die (fun d => { d with gated := true })
    else s.post (d.idleSince + 2400000 - s.now) .idleDieGate s.args)

end Sys2Proof.Machine
end

