-- ==== Sys2Proof/Machine/Queue.lean ====
section
/-! DEFINITION. The queues q0 to q7 of a job (07 R212, R213). -/

namespace Sys2Proof.Machine

/-- Entries at the start of the cycle: those left and those popped in it. -/
def Job.qlen (j : Job) (q : QReg) : Nat := j.queues[q].length + (j.late.pops.filter (· = q)).length

/-- Whether a push finds no place: places freed in this cycle do not count. -/
def Job.qfull (j : Job) (q : QReg) : Bool := 64 ≤ j.qlen q + (j.late.pushes.filter (fun e => e.1 = q)).length

/-- Appends an entry, which can be popped from the next cycle on. -/
def State.qpush (s : State) (q : QReg) (v : Word) : State :=
  s.modJob s.cur.job (fun j => { j with late := { j.late with pushes := j.late.pushes ++ [(q, v)] } })

/-- Removes the head. -/
def State.qpop (s : State) (q : QReg) : State :=
  s.modJob s.cur.job (fun j => { j with
    queues := j.queues.set q j.queues[q].tail
    late := { j.late with pops := j.late.pops ++ [q] } })

/-- Whether the head of a queue of the job fails its parity again when it is re-read (20 R479). (DEDUCED, log 107) -/
def State.queueBad (s : State) (q : QReg) : Bool := s.core.queueErr.contains (s.cur.job * 8 + q.val)

/-- What a command does with the head of a queue: it waits for one, and a corrupted one is a context error with code 11 (20 R479). -/
def State.withHead (s : State) (q : QReg) (f : Word → Act) : Act :=
  match s.job.queues[q] with
  | [] => .wait s
  | v :: _ => if s.queueBad q then Act.code 11 else f v

/-- `QPUSH` (07 R212). -/
def execQpush (o : OpQS) (s : State) : Result :=
  command o.c { opc := 0x040, regs := [.s o.a] }
    (fun s => if s.job.qfull o.q then .wait s else .done (s.qpush o.q (s.sget o.a)) 0) s

/-- `QPOP` (07 R212). -/
def execQpop (o : OpSQ) (s : State) : Result :=
  command o.c { opc := 0x041, regs := [.s o.d] }
    (fun s => s.withHead o.q (fun v => .done ((s.qpop o.q).sput o.d v) 0)) s

/-- `QPEEK` (07 R212): after a pop of an earlier stream in the same cycle it sees the next head. (DEDUCED, log 103) -/
def execQpeek (o : OpSQ) (s : State) : Result :=
  command o.c { opc := 0x042, regs := [.s o.d] }
    (fun s => s.withHead o.q (fun v => .done (s.sput o.d v) 0)) s

/-- `QPUSHP` (07 R212). -/
def execQpushp (o : OpQP) (s : State) : Result :=
  command o.c { opc := 0x043, preds := [o.p] }
    (fun s => if s.job.qfull o.q then .wait s else .done (s.qpush o.q (if s.job.pred o.p then 1 else 0)) 0) s

/-- `QPOPP` (07 R212). -/
def execQpopp (o : OpPQ) (s : State) : Result :=
  command o.c { opc := 0x044, regs := [.p o.p] }
    (fun s => s.withHead o.q (fun v => .done ((s.qpop o.q).pput s.cur o.p (some (v != 0))) 0)) s

/-- `QLEN` (07 R212, R213). -/
def execQlen (o : OpSQ) (s : State) : Result :=
  command o.c { opc := 0x045, regs := [.s o.d] }
    (fun s => .done (s.sput o.d (BitVec.ofNat 64 (s.job.qlen o.q))) 0) s

end Sys2Proof.Machine
end

