-- ==== Sys2Proof/Machine/Scalar.lean ====
section
/-! DEFINITION. Scalar integer and address instructions (08 R218 to R222). -/

namespace Sys2Proof.Machine

/-- Bits [127:64] of the signed product. -/
def mulHigh (b c : Word) : Word := BitVec.extractLsb' 64 64 (b.signExtend 128 * c.signExtend 128)

/-- Bits [127:64] of the unsigned product. -/
def mulHighU (b c : Word) : Word := BitVec.extractLsb' 64 64 (b.setWidth 128 * c.setWidth 128)

/-- Signed division truncated toward zero; by zero it gives all ones (08 R220). -/
def divS (b c : Word) : Word := if c = 0 then BitVec.allOnes 64 else b.sdiv c

/-- Unsigned division. -/
def divU (b c : Word) : Word := if c = 0 then BitVec.allOnes 64 else b.udiv c

/-- Signed remainder with the sign of b. -/
def remS (b c : Word) : Word := if c = 0 then b else b.srem c

/-- Unsigned remainder. -/
def remU (b c : Word) : Word := if c = 0 then b else b.umod c

def shlBy (b : Word) (n : Nat) : Word := b <<< n
def shrBy (b : Word) (n : Nat) : Word := b >>> n
def sraBy (b : Word) (n : Nat) : Word := b.sshiftRight n

/-- Shift amount of a register: c[5:0]. -/
def shAmt (c : Word) : Nat := c.toNat % 64

/-- Leading zero bits, 64 for 0. -/
def leadZeros (b : Word) : Nat := if b = 0 then 64 else 63 - Nat.log2 b.toNat

/-- Trailing zero bits of the low `n` bits. -/
def trailZeros (b : Word) (n : Nat) : Nat :=
  match n with
  | 0 => 0
  | n + 1 => if b.getLsbD 0 then 0 else 1 + trailZeros (b >>> 1) n

/-- Bits that are 1. -/
def onesOf (b : Word) : Nat := ((List.range 64).filter (fun i => b.getLsbD i)).length

/-- The low `len` bits set. -/
def lowMask (len : Nat) : Word := BitVec.ofNat 64 (2 ^ len - 1)

/-- A bit field, zero-extended. -/
def bfxU (b : Word) (pos len : Nat) : Word := (b >>> pos) &&& lowMask len

/-- A bit field, sign-extended. -/
def bfxSigned (b : Word) (pos len : Nat) : Word := (bfxU b pos len <<< (64 - len)).sshiftRight (64 - len)

/-- A bit field inserted. -/
def bfiInto (a b : Word) (pos len : Nat) : Word := (a &&& ~~~(lowMask len <<< pos)) ||| ((b &&& lowMask len) <<< pos)

/-- Two sources and a destination: sA ← f(b, c), after a latency (17 R405). -/
def int3 (opc : Nat) (f : Word → Word → Word) (o : Op3) (s : State) (lat : Nat := 0) : Result :=
  command o.c { opc := opc, regs := [.s o.d, .s o.a, .s o.b], lat := lat, dst := [.s o.d] } (fun s => .done (s.sput o.d (f (s.sget o.a) (s.sget o.b))) 0) s

/-- One source: sA ← f(b). -/
def int2 (opc : Nat) (f : Word → Word) (o : Op2) (s : State) : Result :=
  command o.c { opc := opc, regs := [.s o.d, .s o.a] } (fun s => .done (s.sput o.d (f (s.sget o.a))) 0) s

/-- A register and an immediate. -/
def intI (opc : Nat) (f : Word → Word → Word) (o : OpI) (s : State) : Result :=
  command o.c { opc := opc, regs := [.s o.d, .s o.a] } (fun s => .done (s.sput o.d (f (s.sget o.a) o.imm)) 0) s

/-- A shift by an immediate. -/
def intSh (opc : Nat) (f : Word → Nat → Word) (o : OpSh) (s : State) : Result :=
  command o.c { opc := opc, regs := [.s o.d, .s o.a] } (fun s => .done (s.sput o.d (f (s.sget o.a) o.n)) 0) s

def execAdd (o : Op3) (s : State) : Result := int3 0x050 (· + ·) o s
def execAddi (o : OpI) (s : State) : Result := intI 0x051 (· + ·) o s
def execSub (o : Op3) (s : State) : Result := int3 0x052 (· - ·) o s
def execMul (o : Op3) (s : State) : Result := int3 0x053 (· * ·) o s 2
def execMulh (o : Op3) (s : State) : Result := int3 0x054 mulHigh o s 2
def execMulhu (o : Op3) (s : State) : Result := int3 0x055 mulHighU o s 2
def execDiv (o : Op3) (s : State) : Result := int3 0x056 divS o s 18
def execDivu (o : Op3) (s : State) : Result := int3 0x057 divU o s 18
def execRem (o : Op3) (s : State) : Result := int3 0x058 remS o s 18
def execRemu (o : Op3) (s : State) : Result := int3 0x059 remU o s 18
def execAnd (o : Op3) (s : State) : Result := int3 0x05A (· &&& ·) o s
def execAndi (o : OpI) (s : State) : Result := intI 0x05B (· &&& ·) o s
def execOr (o : Op3) (s : State) : Result := int3 0x05C (· ||| ·) o s
def execOri (o : OpI) (s : State) : Result := intI 0x05D (· ||| ·) o s
def execXor (o : Op3) (s : State) : Result := int3 0x05E (· ^^^ ·) o s
def execXori (o : OpI) (s : State) : Result := intI 0x05F (· ^^^ ·) o s
def execShl (o : Op3) (s : State) : Result := int3 0x060 (fun b c => shlBy b (shAmt c)) o s
def execShli (o : OpSh) (s : State) : Result := intSh 0x061 shlBy o s
def execShr (o : Op3) (s : State) : Result := int3 0x062 (fun b c => shrBy b (shAmt c)) o s
def execShri (o : OpSh) (s : State) : Result := intSh 0x063 shrBy o s
def execSra (o : Op3) (s : State) : Result := int3 0x064 (fun b c => sraBy b (shAmt c)) o s
def execSrai (o : OpSh) (s : State) : Result := intSh 0x065 sraBy o s
def execMin (o : Op3) (s : State) : Result := int3 0x066 (fun b c => if b.slt c then b else c) o s
def execMax (o : Op3) (s : State) : Result := int3 0x067 (fun b c => if b.slt c then c else b) o s
def execMinu (o : Op3) (s : State) : Result := int3 0x068 (fun b c => if b.ult c then b else c) o s
def execMaxu (o : Op3) (s : State) : Result := int3 0x069 (fun b c => if b.ult c then c else b) o s
def execClz (o : Op2) (s : State) : Result := int2 0x06A (fun b => BitVec.ofNat 64 (leadZeros b)) o s
def execCtz (o : Op2) (s : State) : Result := int2 0x06B (fun b => BitVec.ofNat 64 (trailZeros b 64)) o s
def execPopc (o : Op2) (s : State) : Result := int2 0x06C (fun b => BitVec.ofNat 64 (onesOf b)) o s

/-- `SEL` (08 R219, R222). -/
def execSel (o : OpSel) (s : State) : Result :=
  command o.c { opc := 0x06D, regs := [.s o.d, .s o.a, .s o.b], preds := [o.p] }
    (fun s => .done (s.sput o.d (if s.job.pred o.p then s.sget o.a else s.sget o.b)) 0) s

/-- `MOVI`. -/
def execMovi (o : OpMovi) (s : State) : Result :=
  command o.c { opc := 0x06E, regs := [.s o.d] } (fun s => .done (s.sput o.d o.imm) 0) s

/-- `MOVHI`: (i << 32) or sA[31:0]. -/
def execMovhi (o : OpMovhi) (s : State) : Result :=
  command o.c { opc := 0x06F, regs := [.s o.d] }
    (fun s => .done (s.sput o.d (o.imm ++ (s.sget o.d).setWidth 32)) 0) s

def execMov (o : Op2) (s : State) : Result := int2 0x070 id o s
def execAbs (o : Op2) (s : State) : Result := int2 0x071 (fun b => if b.msb then 0 - b else b) o s

/-- `BFX`. -/
def execBfx (o : OpBf) (s : State) : Result :=
  command o.c { opc := 0x072, regs := [.s o.d, .s o.a] }
    (fun s => .done (s.sput o.d (bfxU (s.sget o.a) o.pos.toNat o.len.toNat)) 0) s

/-- `BFX.S`. -/
def execBfxS (o : OpBf) (s : State) : Result :=
  command o.c { opc := 0x072, regs := [.s o.d, .s o.a] }
    (fun s => .done (s.sput o.d (bfxSigned (s.sget o.a) o.pos.toNat o.len.toNat)) 0) s

/-- `BFI`. -/
def execBfi (o : OpBf) (s : State) : Result :=
  command o.c { opc := 0x073, regs := [.s o.d, .s o.a] }
    (fun s => .done (s.sput o.d (bfiInto (s.sget o.d) (s.sget o.a) o.pos.toNat o.len.toNat)) 0) s

/-- `LEA`: b + (c << sh) + off. -/
def execLea (o : OpLea) (s : State) : Result :=
  command o.c { opc := 0x074, regs := [.s o.d, .s o.a, .s o.b] }
    (fun s => .done (s.sput o.d (s.sget o.a + (s.sget o.b <<< o.sh.val) + o.off.signExtend 64)) 0) s

end Sys2Proof.Machine
end

