-- ==== Sys2Proof/Machine/Scatter.lean ====
section
/-! DEFINITION. Scatter-accumulate (04 R144, 09 R261 to R264). -/

namespace Sys2Proof.Machine

/-- The index list and value rows of a scatter-accumulate, checked in operand order: their window offsets (09 R244, R262). -/
def State.saccOperands (s : State) (ix v : SReg) (n rl esz : Nat) : Check (Nat × Nat) :=
  match s.scrOperand ix 0 (4 * n) 4 with
  | .error b => .error b
  | .ok x =>
    match s.scrOperand v 0 (n * rl * esz) esz with
    | .error b => .error b
    | .ok y => if s.scrBad s.job x (4 * n) then .error (.err { code := 11 }) else .ok (x, y)

/-- Rows that an index list names: row number and index; 0xFFFF_FFFF skips its row. -/
def saccRows (idx : List Nat) : List (Nat × Nat) := (idx.zipIdx.filter (fun p => p.1 ≠ idxSkip)).map (fun p => (p.2, p.1))

/-! ### `SACC` (09 R263) -/

/-- Checks of the destination rows, in order. -/
def State.saccDest (s : State) (d : SReg) (rowBytes esz : Nat) (rows : List (Nat × Nat)) : Check Nat :=
  match rows with
  | [] => .ok 0
  | r :: rest =>
    match s.chkScr d ((s.sget d).toNat + r.2 * rowBytes) rowBytes esz with
    | .error b => .error b
    | .ok _ => State.saccDest s d rowBytes esz rest

/-- Destination and value offsets of every update, in ascending (i, j). -/
def saccPairs (base v rl esz : Nat) (rows : List (Nat × Nat)) : List (Nat × Nat) :=
  (rows.map (fun r => (List.range rl).map (fun j => (base + (r.2 * rl + j) * esz, v + (r.1 * rl + j) * esz)))).flatten

def saccBody (o : OpSacc) (s : State) : Act :=
  let n := o.cnt.toNat + 1
  let rl := o.rl.toNat + 1
  let esz := saccBytes o.fmt
  (s.saccOperands o.ix o.v n rl esz).andThen fun p =>
    let rows := saccRows (s.indexList p.1 n)
    (s.saccDest o.d (rl * esz) esz rows).andThen fun _ =>
      let us := (saccPairs (s.sget o.d).toNat p.2 rl esz rows).map (fun u => (s.job.scrAddr u.1, s.job.scrAddr u.2))
      .data s (.sacc o.fmt s.job.fmode us) (.scatter (4 + (n * rl + 15) / 16)) [] none

def execSacc (o : OpSacc) (s : State) : Result :=
  command o.c { opc := 0x0D8, regs := [.s o.d, .s o.ix, .s o.v] } (saccBody o) s

/-! ### `SACCG` (09 R264) -/

def saccgUse (o : OpSaccg) : Use :=
  { opc := 0x0D9, regs := [.h o.h, .s o.o, .s o.ix, .s o.v], irrev := true, gw := true, ga := true }

/-- The operands of a `SACCG`, checked in operand order (09 R244, R264): handle, index list, values, and then the global rows that the list
names. -/
def State.saccgOperands (s : State) (o : OpSaccg) : Check (List (Nat × Nat)) :=
  let n := o.cnt.toNat + 1
  let rl := o.rl.toNat + 1
  let esz := saccBytes o.fmt
  let off := (s.sget o.o).toNat
  let h := s.hget o.h
  match h.checkValid o.h 255 with
  | .error b => .error b
  | .ok _ =>
    match s.saccOperands o.ix o.v n rl esz with
    | .error b => .error b
    | .ok p =>
      let rows := saccRows (s.indexList p.1 n)
      match h.checkRows o.h (rows.map (fun r => off + r.2 * rl * esz)) (rl * esz) true with
      | .error b => .error b
      | .ok _ =>
        if (h.pbase.toNat + off) % esz ≠ 0 then .error (.err { code := 3, ha := o.h, vaddr := h.vaddr off })
        else .ok (saccPairs (h.pbase.toNat + off) p.2 rl esz rows)

/-- `SACCG`: each update is an access of its own to its element's home, by a copy engine (09 R251); its value is read when it leaves (03 R97). -/
def saccgBody (o : OpSaccg) (u : Use) (s : State) : Act :=
  let esz := saccBytes o.fmt
  let h := s.hget o.h
  (s.saccgOperands o).andThen fun us =>
    if us.isEmpty then .done s 0
    else withEngine s fun s e =>
      let k := s.nextId
      .fly (us.foldl (fun t x =>
        t.request k 0 s.job s.cur (.add o.fmt s.job.fmode 0) h.pkind (h.home x.1) x.1 esz (some (s.job.scrAddr x.2)) false e)
        (s.fly o.c u (.writes us.length) [] [] (some e)))

def execSaccg (o : OpSaccg) (s : State) : Result := command o.c (saccgUse o) (saccgBody o (saccgUse o)) s

/-- The reply of one update; the last one is the command's completion point. -/
def execSaccgUpdate (s : State) : Result :=
  .next (match s.accesses.find? s.args.b with
    | none => s
    | some a => s.ackWrite s.args.b a)

end Sys2Proof.Machine
end

