-- ==== Sys2Proof/Machine/Dispatch.lean ====
section
/-! DEFINITION. One arm for each instruction: what it does, by its family's definition. -/

namespace Sys2Proof.Machine

def exec (i : Instr) (s : State) : Host.Outcome State Fault Refusal :=
  match i with
  -- ## commands
  -- stream control and synchronisation (06 R184, 07 R188)
  | .nop o => Sys2Proof.Machine.execNop o s
  | .ext v => Sys2Proof.Machine.execExt v s
  | .notify o => Sys2Proof.Machine.execNotify o s
  | .rdv o => Sys2Proof.Machine.execRdv o s
  | .semadd o => Sys2Proof.Machine.execSemadd o s
  | .semwait o => Sys2Proof.Machine.execSemwait o s
  | .sembase o => Sys2Proof.Machine.execSembase o s
  | .sembaseSnap o => Sys2Proof.Machine.execSembaseSnap o s
  | .semrd o => Sys2Proof.Machine.execSemrd o s
  | .semrdRel o => Sys2Proof.Machine.execSemrdRel o s
  | .bar o => Sys2Proof.Machine.execBar o s
  | .barLaunch o => Sys2Proof.Machine.execBarLaunch o s
  | .safept o => Sys2Proof.Machine.execSafept o s
  | .irrev o => Sys2Proof.Machine.execIrrev o s
  | .trap o => Sys2Proof.Machine.execTrap o s
  | .bkpt o => Sys2Proof.Machine.execBkpt o s
  -- predicates and control flow
  | .pseti o => Sys2Proof.Machine.execPseti o s
  | .pmovPp o => Sys2Proof.Machine.execPmovPp o s
  | .pmovPs o => Sys2Proof.Machine.execPmovPs o s
  | .pmovSp o => Sys2Proof.Machine.execPmovSp o s
  | .pand o => Sys2Proof.Machine.execPand o s
  | .por o => Sys2Proof.Machine.execPor o s
  | .pxor o => Sys2Proof.Machine.execPxor o s
  | .pnot o => Sys2Proof.Machine.execPnot o s
  | .punres o => Sys2Proof.Machine.execPunres o s
  | .cmp o => Sys2Proof.Machine.execCmp o s
  | .cmpImm o => Sys2Proof.Machine.execCmpImm o s
  | .fcmp o => Sys2Proof.Machine.execFcmp o s
  | .vany o => Sys2Proof.Machine.execVany o s
  | .vall o => Sys2Proof.Machine.execVall o s
  | .ptb o => Sys2Proof.Machine.execPtb o s
  | .ptbr o => Sys2Proof.Machine.execPtbr o s
  | .br o => Sys2Proof.Machine.execBr o s
  | .call o => Sys2Proof.Machine.execCall o s
  | .ret o => Sys2Proof.Machine.execRet o s
  | .loop o => Sys2Proof.Machine.execLoop o s
  | .loopr o => Sys2Proof.Machine.execLoopr o s
  | .lexit o => Sys2Proof.Machine.execLexit o s
  -- queues
  | .qpush o => Sys2Proof.Machine.execQpush o s
  | .qpop o => Sys2Proof.Machine.execQpop o s
  | .qpeek o => Sys2Proof.Machine.execQpeek o s
  | .qpushp o => Sys2Proof.Machine.execQpushp o s
  | .qpopp o => Sys2Proof.Machine.execQpopp o s
  | .qlen o => Sys2Proof.Machine.execQlen o s
  -- scalar integer and address
  | .add o => Sys2Proof.Machine.execAdd o s
  | .addi o => Sys2Proof.Machine.execAddi o s
  | .sub o => Sys2Proof.Machine.execSub o s
  | .mul o => Sys2Proof.Machine.execMul o s
  | .mulh o => Sys2Proof.Machine.execMulh o s
  | .mulhu o => Sys2Proof.Machine.execMulhu o s
  | .div o => Sys2Proof.Machine.execDiv o s
  | .divu o => Sys2Proof.Machine.execDivu o s
  | .rem o => Sys2Proof.Machine.execRem o s
  | .remu o => Sys2Proof.Machine.execRemu o s
  | .and o => Sys2Proof.Machine.execAnd o s
  | .andi o => Sys2Proof.Machine.execAndi o s
  | .or o => Sys2Proof.Machine.execOr o s
  | .ori o => Sys2Proof.Machine.execOri o s
  | .xor o => Sys2Proof.Machine.execXor o s
  | .xori o => Sys2Proof.Machine.execXori o s
  | .shl o => Sys2Proof.Machine.execShl o s
  | .shli o => Sys2Proof.Machine.execShli o s
  | .shr o => Sys2Proof.Machine.execShr o s
  | .shri o => Sys2Proof.Machine.execShri o s
  | .sra o => Sys2Proof.Machine.execSra o s
  | .srai o => Sys2Proof.Machine.execSrai o s
  | .min o => Sys2Proof.Machine.execMin o s
  | .max o => Sys2Proof.Machine.execMax o s
  | .minu o => Sys2Proof.Machine.execMinu o s
  | .maxu o => Sys2Proof.Machine.execMaxu o s
  | .clz o => Sys2Proof.Machine.execClz o s
  | .ctz o => Sys2Proof.Machine.execCtz o s
  | .popc o => Sys2Proof.Machine.execPopc o s
  | .sel o => Sys2Proof.Machine.execSel o s
  | .movi o => Sys2Proof.Machine.execMovi o s
  | .movhi o => Sys2Proof.Machine.execMovhi o s
  | .mov o => Sys2Proof.Machine.execMov o s
  | .abs o => Sys2Proof.Machine.execAbs o s
  | .bfx o => Sys2Proof.Machine.execBfx o s
  | .bfxS o => Sys2Proof.Machine.execBfxS o s
  | .bfi o => Sys2Proof.Machine.execBfi o s
  | .lea o => Sys2Proof.Machine.execLea o s
  -- scalar floating point
  | .fadd o => Sys2Proof.Machine.execFadd o s
  | .fsub o => Sys2Proof.Machine.execFsub o s
  | .fmul o => Sys2Proof.Machine.execFmul o s
  | .ffma o => Sys2Proof.Machine.execFfma o s
  | .fdiv o => Sys2Proof.Machine.execFdiv o s
  | .fsqrt o => Sys2Proof.Machine.execFsqrt o s
  | .fmin o => Sys2Proof.Machine.execFmin o s
  | .fmax o => Sys2Proof.Machine.execFmax o s
  | .fabs o => Sys2Proof.Machine.execFabs o s
  | .fneg o => Sys2Proof.Machine.execFneg o s
  | .fcvt o => Sys2Proof.Machine.execFcvt o s
  | .fclass o => Sys2Proof.Machine.execFclass o s
  -- control registers and time
  | .csrr o => Sys2Proof.Machine.execCsrr o s
  | .csrw o => Sys2Proof.Machine.execCsrw o s
  | .csrs o => Sys2Proof.Machine.execCsrs o s
  | .csrc o => Sys2Proof.Machine.execCsrc o s
  | .rdcyc o => Sys2Proof.Machine.execRdcyc o s
  | .rdptp o => Sys2Proof.Machine.execRdptp o s
  | .specdepthWrite o => Sys2Proof.Machine.execSpecdepthWrite o s
  | .tcfgWrite o => Sys2Proof.Machine.execTcfgWrite o s
  -- scalar memory
  | .lds o => Sys2Proof.Machine.execLds o s
  | .sts o => Sys2Proof.Machine.execSts o s
  | .ldg o => Sys2Proof.Machine.execLdg o s
  | .stg o => Sys2Proof.Machine.execStg o s
  -- translation
  | .xlat o => Sys2Proof.Machine.execXlat o s
  | .htestS o => Sys2Proof.Machine.execHtestS o s
  | .htestP o => Sys2Proof.Machine.execHtestP o s
  | .hrel o => Sys2Proof.Machine.execHrel o s
  | .probe o => Sys2Proof.Machine.execProbe o s
  -- copy and gather
  | .copyG2s o => Sys2Proof.Machine.execCopyG2s o s
  | .copyS2g o => Sys2Proof.Machine.execCopyS2g o s
  | .copyS2s o => Sys2Proof.Machine.execCopyS2s o s
  | .copy2G2s o => Sys2Proof.Machine.execCopy2G2s o s
  | .copy2S2g o => Sys2Proof.Machine.execCopy2S2g o s
  | .copyx o => Sys2Proof.Machine.execCopyx o s
  | .copyc o => Sys2Proof.Machine.execCopyc o s
  | .gather o => Sys2Proof.Machine.execGather o s
  | .scatter o => Sys2Proof.Machine.execScatter o s
  | .acscpOut o => Sys2Proof.Machine.execAcscpOut o s
  | .acscpIn o => Sys2Proof.Machine.execAcscpIn o s
  -- arrival words and fences
  | .awinit o => Sys2Proof.Machine.execAwinit o s
  | .awwait o => Sys2Proof.Machine.execAwwait o s
  | .awrd o => Sys2Proof.Machine.execAwrd o s
  | .awrdClr o => Sys2Proof.Machine.execAwrdClr o s
  | .fenceRel o => Sys2Proof.Machine.execFenceRel o s
  | .fenceAcq o => Sys2Proof.Machine.execFenceAcq o s
  -- scatter-accumulate
  | .sacc o => Sys2Proof.Machine.execSacc o s
  | .saccg o => Sys2Proof.Machine.execSaccg o s
  -- collectives, fabric, memory-side selection
  | .coll o => Sys2Proof.Machine.execColl o s
  | .collst o => Sys2Proof.Machine.execCollst o s
  | .fmsend o => Sys2Proof.Machine.execFmsend o s
  | .fmrecvBind o => Sys2Proof.Machine.execFmrecvBind o s
  | .fmrecvPop o => Sys2Proof.Machine.execFmrecvPop o s
  | .fmrecvFlt o => Sys2Proof.Machine.execFmrecvFlt o s
  | .wake o => Sys2Proof.Machine.execWake o s
  | .mtopk o => Sys2Proof.Machine.execMtopk o s
  -- generator configuration
  | .gcfgLd o => Sys2Proof.Machine.execGcfgLd o s
  | .gcfgSt o => Sys2Proof.Machine.execGcfgSt o s
  | .gcfgMov o => Sys2Proof.Machine.execGcfgMov o s
  | .gbase o => Sys2Proof.Machine.execGbase o s
  | .gcount o => Sys2Proof.Machine.execGcount o s
  | .gcountRow o => Sys2Proof.Machine.execGcountRow o s
  | .gstride o => Sys2Proof.Machine.execGstride o s
  | .gfmt o => Sys2Proof.Machine.execGfmt o s
  -- vector element-wise
  | .vadd o => Sys2Proof.Machine.execVadd o s
  | .vsub o => Sys2Proof.Machine.execVsub o s
  | .vmul o => Sys2Proof.Machine.execVmul o s
  | .vfma o => Sys2Proof.Machine.execVfma o s
  | .vmin o => Sys2Proof.Machine.execVmin o s
  | .vmax o => Sys2Proof.Machine.execVmax o s
  | .vabs o => Sys2Proof.Machine.execVabs o s
  | .vneg o => Sys2Proof.Machine.execVneg o s
  | .vexp o => Sys2Proof.Machine.execVexp o s
  | .vlog o => Sys2Proof.Machine.execVlog o s
  | .vrcp o => Sys2Proof.Machine.execVrcp o s
  | .vrsq o => Sys2Proof.Machine.execVrsq o s
  | .vtanh o => Sys2Proof.Machine.execVtanh o s
  | .vsigm o => Sys2Proof.Machine.execVsigm o s
  | .vgelu o => Sys2Proof.Machine.execVgelu o s
  | .vsilu o => Sys2Proof.Machine.execVsilu o s
  | .vcvt o => Sys2Proof.Machine.execVcvt o s
  | .vcmp o => Sys2Proof.Machine.execVcmp o s
  | .vsel o => Sys2Proof.Machine.execVsel o s
  | .vand o => Sys2Proof.Machine.execVand o s
  | .vor o => Sys2Proof.Machine.execVor o s
  | .vxor o => Sys2Proof.Machine.execVxor o s
  | .vshl o => Sys2Proof.Machine.execVshl o s
  | .vshr o => Sys2Proof.Machine.execVshr o s
  | .vshrA o => Sys2Proof.Machine.execVshrA o s
  | .vclamp o => Sys2Proof.Machine.execVclamp o s
  | .vmov o => Sys2Proof.Machine.execVmov o s
  | .vfill o => Sys2Proof.Machine.execVfill o s
  -- vector chain, reductions and scans, rearrangement
  | .vchain o => Sys2Proof.Machine.execVchain o s
  | .vrsum o => Sys2Proof.Machine.execVrsum o s
  | .vrmax o => Sys2Proof.Machine.execVrmax o s
  | .vrmin o => Sys2Proof.Machine.execVrmin o s
  | .vargmax o => Sys2Proof.Machine.execVargmax o s
  | .vscan o => Sys2Proof.Machine.execVscan o s
  | .vtopk o => Sys2Proof.Machine.execVtopk o s
  | .vlse o => Sys2Proof.Machine.execVlse o s
  | .vzip o => Sys2Proof.Machine.execVzip o s
  | .vunzip o => Sys2Proof.Machine.execVunzip o s
  | .vperm o => Sys2Proof.Machine.execVperm o s
  | .vtrans o => Sys2Proof.Machine.execVtrans o s
  | .vbcast o => Sys2Proof.Machine.execVbcast o s
  | .vcompact o => Sys2Proof.Machine.execVcompact o s
  | .vexpand o => Sys2Proof.Machine.execVexpand o s
  -- matrix
  | .lease o => Sys2Proof.Machine.execLease o s
  | .unlease o => Sys2Proof.Machine.execUnlease o s
  | .unleaseAcs o => Sys2Proof.Machine.execUnleaseAcs o s
  | .tld o => Sys2Proof.Machine.execTld o s
  | .tst o => Sys2Proof.Machine.execTst o s
  | .tzero o => Sys2Proof.Machine.execTzero o s
  | .mloadw o => Sys2Proof.Machine.execMloadw o s
  | .mrows o => Sys2Proof.Machine.execMrows o s
  | .mma o => Sys2Proof.Machine.execMma o s
  | .acszero o => Sys2Proof.Machine.execAcszero o s
  | .bsmm o => Sys2Proof.Machine.execBsmm o s
  -- shared passes and launch
  | .task o => Sys2Proof.Machine.execTask o s
  | .taskwait o => Sys2Proof.Machine.execTaskwait o s
  | .taskst o => Sys2Proof.Machine.execTaskst o s
  | .launch o => Sys2Proof.Machine.execLaunch o s
  | .launchp o => Sys2Proof.Machine.execLaunchp o s
  -- ## sampler words
  -- sampler words (12 R343 to R349)
  | .sld d a => Sys2Proof.Machine.execSld d a s
  | .sldm d a => Sys2Proof.Machine.execSldm d a s
  | .sscale a => Sys2Proof.Machine.execSscale a s
  | .spen a => Sys2Proof.Machine.execSpen a s
  | .smask => Sys2Proof.Machine.execSmask s
  | .stopk a => Sys2Proof.Machine.execStopk a s
  | .stopp a => Sys2Proof.Machine.execStopp a s
  | .sminp a => Sys2Proof.Machine.execSminp a s
  | .ssoft => Sys2Proof.Machine.execSsoft s
  | .sdraw d => Sys2Proof.Machine.execSdraw d s
  | .spick d a => Sys2Proof.Machine.execSpick d a s
  | .sratio d a => Sys2Proof.Machine.execSratio d a s
  | .sresid a => Sys2Proof.Machine.execSresid a s
  | .snorm => Sys2Proof.Machine.execSnorm s
  | .semit a => Sys2Proof.Machine.execSemit a s
  | .semitD a b => Sys2Proof.Machine.execSemitD a b s
  | .saccept d a => Sys2Proof.Machine.execSaccept d a s
  | .sroll a => Sys2Proof.Machine.execSroll a s
  | .sadd d a b => Sys2Proof.Machine.execSadd d a b s
  | .saddF d a b => Sys2Proof.Machine.execSaddF d a b s
  | .ssub d a b => Sys2Proof.Machine.execSsub d a b s
  | .ssubF d a b => Sys2Proof.Machine.execSsubF d a b s
  | .smul d a b => Sys2Proof.Machine.execSmul d a b s
  | .smulF d a b => Sys2Proof.Machine.execSmulF d a b s
  | .scmp cc d a b => Sys2Proof.Machine.execScmp cc d a b s
  | .sjmp off => Sys2Proof.Machine.execSjmp off s
  | .sjz a off => Sys2Proof.Machine.execSjz a off s
  | .sjnz a off => Sys2Proof.Machine.execSjnz a off s
  | .smovi d imm => Sys2Proof.Machine.execSmovi d imm s
  | .smoviH d imm => Sys2Proof.Machine.execSmoviH d imm s
  | .srngSeed d => Sys2Proof.Machine.execSrngSeed d s
  | .srngSetseed a => Sys2Proof.Machine.execSrngSetseed a s
  | .srngCtr d => Sys2Proof.Machine.execSrngCtr d s
  | .srngSetctr a => Sys2Proof.Machine.execSrngSetctr a s
  | .swait d a b => Sys2Proof.Machine.execSwait d a b s
  | .send => Sys2Proof.Machine.execSend s
  -- ## events
  -- stream control and synchronisation (06 R184, 07 R188)
  | .trapEntry => Sys2Proof.Machine.execTrapEntry s
  -- translation
  | .xlatHandleWrite => Sys2Proof.Machine.execXlatHandleWrite s
  | .walkComplete => Sys2Proof.Machine.execWalkComplete s
  | .walkResultExpiry => Sys2Proof.Machine.execWalkResultExpiry s
  -- copy and gather
  | .copyPieceLanding => Sys2Proof.Machine.execCopyPieceLanding s
  -- collectives, fabric, memory-side selection
  | .collectiveComplete => Sys2Proof.Machine.execCollectiveComplete s
  | .collectiveDeadline => Sys2Proof.Machine.execCollectiveDeadline s
  | .fabricMessageArrival => Sys2Proof.Machine.execFabricMessageArrival s
  | .fabricAckReceived => Sys2Proof.Machine.execFabricAckReceived s
  | .fabricNackReceived => Sys2Proof.Machine.execFabricNackReceived s
  | .fmBackoffExpiry => Sys2Proof.Machine.execFmBackoffExpiry s
  -- matrix
  | .arrayRowUpdate => Sys2Proof.Machine.execArrayRowUpdate s
  | .acsAllotmentGrant => Sys2Proof.Machine.execAcsAllotmentGrant s
  | .arrayArbitration => Sys2Proof.Machine.execArrayArbitration s
  | .leaseTermEnd => Sys2Proof.Machine.execLeaseTermEnd s
  | .budgetRefill => Sys2Proof.Machine.execBudgetRefill s
  -- shared passes and launch
  | .poolRequestHandled => Sys2Proof.Machine.execPoolRequestHandled s
  -- decoding, sections, placement
  | .unassignedOpcode => Sys2Proof.Machine.execUnassignedOpcode s
  | .sectionEnter => Sys2Proof.Machine.execSectionEnter s
  | .sectionRetire => Sys2Proof.Machine.execSectionRetire s
  | .codeFetch => Sys2Proof.Machine.execCodeFetch s
  | .jobPlacement => Sys2Proof.Machine.execJobPlacement s
  | .placementWaitLimit => Sys2Proof.Machine.execPlacementWaitLimit s
  | .jobComplete => Sys2Proof.Machine.execJobComplete s
  | .wakeTargetStore => Sys2Proof.Machine.execWakeTargetStore s
  | .jobPark => Sys2Proof.Machine.execJobPark s
  | .preemptRequest => Sys2Proof.Machine.execPreemptRequest s
  | .jobPreempted => Sys2Proof.Machine.execJobPreempted s
  | .jobResume => Sys2Proof.Machine.execJobResume s
  | .preemptOverrun => Sys2Proof.Machine.execPreemptOverrun s
  -- global accesses
  | .globalAccessPerformed => Sys2Proof.Machine.execGlobalAccessPerformed s
  | .globalReadReply => Sys2Proof.Machine.execGlobalReadReply s
  | .combineLineDrain => Sys2Proof.Machine.execCombineLineDrain s
  | .saccgUpdate => Sys2Proof.Machine.execSaccgUpdate s
  -- Trowel
  | .taskDeadline => Sys2Proof.Machine.execTaskDeadline s
  | .passForm => Sys2Proof.Machine.execPassForm s
  | .weightBufferRead => Sys2Proof.Machine.execWeightBufferRead s
  | .passArrayTerm => Sys2Proof.Machine.execPassArrayTerm s
  | .epilogueChunk => Sys2Proof.Machine.execEpilogueChunk s
  | .scatterCheck => Sys2Proof.Machine.execScatterCheck s
  | .taskRowPerformed => Sys2Proof.Machine.execTaskRowPerformed s
  | .passBackPosition => Sys2Proof.Machine.execPassBackPosition s
  -- Undercoat
  | .speculationStart => Sys2Proof.Machine.execSpeculationStart s
  | .spoilArrival => Sys2Proof.Machine.execSpoilArrival s
  | .claimAttempt => Sys2Proof.Machine.execClaimAttempt s
  | .watchFenceArrival => Sys2Proof.Machine.execWatchFenceArrival s
  | .watchFenceAck => Sys2Proof.Machine.execWatchFenceAck s
  | .shadowLinesPerformed => Sys2Proof.Machine.execShadowLinesPerformed s
  | .speculationHorizon => Sys2Proof.Machine.execSpeculationHorizon s
  -- sampler events
  | .samplerLaneGrant => Sys2Proof.Machine.execSamplerLaneGrant s
  | .maskHeaderPoll => Sys2Proof.Machine.execMaskHeaderPoll s
  | .swaitTimeout => Sys2Proof.Machine.execSwaitTimeout s
  | .reshardDone => Sys2Proof.Machine.execReshardDone s
  -- host interface, reset and boot
  | .wakeRegisterStore => Sys2Proof.Machine.execWakeRegisterStore s
  | .apertureAccess => Sys2Proof.Machine.execApertureAccess s
  | .reqtailWrite => Sys2Proof.Machine.execReqtailWrite s
  | .rspheadWrite => Sys2Proof.Machine.execRspheadWrite s
  | .klotaResponse => Sys2Proof.Machine.execKlotaResponse s
  | .vfFlr => Sys2Proof.Machine.execVfFlr s
  | .pfFlr => Sys2Proof.Machine.execPfFlr s
  | .powerOn => Sys2Proof.Machine.execPowerOn s
  | .bootStage => Sys2Proof.Machine.execBootStage s
  -- queues, pool and launches
  | .ringRead => Sys2Proof.Machine.execRingRead s
  | .poolGrant => Sys2Proof.Machine.execPoolGrant s
  | .recordLanded => Sys2Proof.Machine.execRecordLanded s
  | .launchStart => Sys2Proof.Machine.execLaunchStart s
  | .prologueRun => Sys2Proof.Machine.execPrologueRun s
  | .prologueRepeat => Sys2Proof.Machine.execPrologueRepeat s
  -- Klota commands
  | .version => Sys2Proof.Machine.execVersion s
  | .resync => Sys2Proof.Machine.execResync s
  | .partSet => Sys2Proof.Machine.execPartSet s
  | .partEntryInForce => Sys2Proof.Machine.execPartEntryInForce s
  | .vfAssign => Sys2Proof.Machine.execVfAssign s
  | .uccfgSet => Sys2Proof.Machine.execUccfgSet s
  | .shapeSet => Sys2Proof.Machine.execShapeSet s
  | .pkgSet => Sys2Proof.Machine.execPkgSet s
  | .queueCreate => Sys2Proof.Machine.execQueueCreate s
  | .queueDestroy => Sys2Proof.Machine.execQueueDestroy s
  | .queueQuery => Sys2Proof.Machine.execQueueQuery s
  | .poolCap => Sys2Proof.Machine.execPoolCap s
  | .mapStage1 => Sys2Proof.Machine.execMapStage1 s
  | .mapStage2 => Sys2Proof.Machine.execMapStage2 s
  | .mapContextDesc => Sys2Proof.Machine.execMapContextDesc s
  | .mapS2Root => Sys2Proof.Machine.execMapS2Root s
  | .unmapStage1 => Sys2Proof.Machine.execUnmapStage1 s
  | .unmapStage2 => Sys2Proof.Machine.execUnmapStage2 s
  | .pinUnpin => Sys2Proof.Machine.execPinUnpin s
  | .pinPin => Sys2Proof.Machine.execPinPin s
  | .pinBacking => Sys2Proof.Machine.execPinBacking s
  | .saveresume => Sys2Proof.Machine.execSaveresume s
  | .ctxReset => Sys2Proof.Machine.execCtxReset s
  | .shelfLoad => Sys2Proof.Machine.execShelfLoad s
  | .attest => Sys2Proof.Machine.execAttest s
  | .samplerProg => Sys2Proof.Machine.execSamplerProg s
  | .samplerBind => Sys2Proof.Machine.execSamplerBind s
  | .samplerUnbind => Sys2Proof.Machine.execSamplerUnbind s
  | .vocabLoadImage => Sys2Proof.Machine.execVocabLoadImage s
  | .vocabLoadService => Sys2Proof.Machine.execVocabLoadService s
  | .vocabLoadRing => Sys2Proof.Machine.execVocabLoadRing s
  | .vocabLoadGrammar => Sys2Proof.Machine.execVocabLoadGrammar s
  | .telemetry => Sys2Proof.Machine.execTelemetry s
  | .budgetSet => Sys2Proof.Machine.execBudgetSet s
  -- firmware mailbox messages: the oldest message of the named type in the mailbox
  | .msgKlotaForward => Sys2Proof.Machine.execMsgKlotaForward s
  | .msgKlotaResponse => Sys2Proof.Machine.execMsgKlotaResponse s
  | .msgContextError => Sys2Proof.Machine.execMsgContextError s
  | .msgDecision => Sys2Proof.Machine.execMsgDecision s
  | .msgProbeFault => Sys2Proof.Machine.execMsgProbeFault s
  | .msgFaultServed => Sys2Proof.Machine.execMsgFaultServed s
  | .msgTaskParked => Sys2Proof.Machine.execMsgTaskParked s
  | .msgSaveBlocked => Sys2Proof.Machine.execMsgSaveBlocked s
  | .msgBudgetChange => Sys2Proof.Machine.execMsgBudgetChange s
  | .msgPartitionChanged => Sys2Proof.Machine.execMsgPartitionChanged s
  -- translation faults, migration, saving, recovery
  | .faultService => Sys2Proof.Machine.execFaultService s
  | .probeFaultTimeout => Sys2Proof.Machine.execProbeFaultTimeout s
  | .accSample => Sys2Proof.Machine.execAccSample s
  | .migrationLineCopy => Sys2Proof.Machine.execMigrationLineCopy s
  | .migrationSwitch => Sys2Proof.Machine.execMigrationSwitch s
  | .migrationForward => Sys2Proof.Machine.execMigrationForward s
  | .saveLineFault => Sys2Proof.Machine.execSaveLineFault s
  | .saveComplete => Sys2Proof.Machine.execSaveComplete s
  | .saveBlockTimeout => Sys2Proof.Machine.execSaveBlockTimeout s
  | .preemptStall => Sys2Proof.Machine.execPreemptStall s
  | .contextFrozenDrained => Sys2Proof.Machine.execContextFrozenDrained s
  | .captureBeforeReset => Sys2Proof.Machine.execCaptureBeforeReset s
  | .dieLost => Sys2Proof.Machine.execDieLost s
  | .hbmUncorrectable => Sys2Proof.Machine.execHbmUncorrectable s
  | .linkCrcReplay => Sys2Proof.Machine.execLinkCrcReplay s
  -- power
  | .thermalThrottle => Sys2Proof.Machine.execThermalThrottle s
  | .thermalShutdown => Sys2Proof.Machine.execThermalShutdown s
  | .idleDieGate => Sys2Proof.Machine.execIdleDieGate s
  -- bandwidth
  | .cacheWindowClear => Sys2Proof.Machine.execCacheWindowClear s
  | .sliceRequestAccept => Sys2Proof.Machine.execSliceRequestAccept s
  | .hbmRequestArrival => Sys2Proof.Machine.execHbmRequestArrival s
  | .hbmServiceStart => Sys2Proof.Machine.execHbmServiceStart s
  | .routerGrant => Sys2Proof.Machine.execRouterGrant s
  | .injectionRefill => Sys2Proof.Machine.execInjectionRefill s
  | .portInjection => Sys2Proof.Machine.execPortInjection s
  -- serving
  | .envelopeArrival => Sys2Proof.Machine.execEnvelopeArrival s
  | .tokenise => Sys2Proof.Machine.execTokenise s
  | .detokeniseToken => Sys2Proof.Machine.execDetokeniseToken s
  | .finalFrameAccepted => Sys2Proof.Machine.execFinalFrameAccepted s
  | .sessionClose => Sys2Proof.Machine.execSessionClose s
  | .packetAuthFail => Sys2Proof.Machine.execPacketAuthFail s
  | .weightBeacon => Sys2Proof.Machine.execWeightBeacon s
  | .throttleRelease => Sys2Proof.Machine.execThrottleRelease s
  | .sessionOpen => Sys2Proof.Machine.execSessionOpen s
  | .ptptDiscipline => Sys2Proof.Machine.execPtptDiscipline s
  | .peerWrite => Sys2Proof.Machine.execPeerWrite s

end Sys2Proof.Machine
end

