-- ==== Sys2Proof/Machine/Step.lean ====
section
/-! DEFINITION. One step of the machine. -/

namespace Sys2Proof.Machine

/-- One step: what `State.plan` gives, with `exec` for the instruction that it runs. -/
def step (s : State) : Host.Outcome State Fault Refusal :=
  match s.plan with
  | .go t => .next t
  | .run i t => exec i t

/-- The state with an instruction placed where the next step takes it. (DESIGN CHOICE, log 6) -/
def State.withFetchWord (s : State) (nbits w : Nat) : State := s.placeWord nbits w

end Sys2Proof.Machine
end

