-- ==== Sys2Proof/Laws/Encode.lean ====
section
/-! SUPPORT. The words of an encoded command give back its fields and its control bits, and so its row of the opcode map gives back the command. -/

namespace Sys2Proof

theorem lor_mask {a n : Nat} (h : a < 2 ^ n) : a ||| (2 ^ n - 1) = 2 ^ n - 1 := by
  apply Nat.eq_of_testBit_eq
  intro i
  rw [Nat.testBit_or, Nat.testBit_two_pow_sub_one]
  by_cases hi : i < n
  · simp [hi]
  · simp [hi, Nat.testBit_lt_two_pow (Nat.lt_of_lt_of_le h (Nat.pow_le_pow_right (by decide) (Nat.le_of_not_lt hi)))]

/-- The fields that a class holds, in its widths; every other field 0. -/
def Fields.FitsIn (f : Fields) (c : Cls) : Prop :=
  f.rsv = 0 ∧
  match c with
  | .n => f.fa = 0 ∧ f.fb = 0 ∧ f.fc = 0 ∧ f.fd = 0 ∧ f.sub = 0 ∧ f.imm = 0 ∧ f.n = 0 ∧ f.st = 0
  | .k => f.fa < 32 ∧ f.fb < 32 ∧ f.fc < 32 ∧ f.fd < 32 ∧ f.sub < 64 ∧ f.imm < 134217728 ∧ f.n = 0 ∧ f.st = 0
  | .i => f.fa < 32 ∧ f.fb < 32 ∧ f.fc = 0 ∧ f.fd = 0 ∧ f.sub < 64 ∧ f.imm < 4294967296 ∧ f.n = 0 ∧ f.st = 0
  | .s => f.fa < 32 ∧ f.fb < 32 ∧ f.fc < 8 ∧ f.fd = 0 ∧ f.sub < 8 ∧ f.imm < 16777216 ∧ f.n = 0 ∧ f.st = 0
  | .b => f.fa = 0 ∧ f.fb < 32 ∧ f.fc < 32 ∧ f.fd < 8 ∧ f.sub < 2 ∧ f.imm < 4294967296 ∧ f.n = 0 ∧ f.st = 0
  | .l => f.fa < 32 ∧ f.fb = 0 ∧ f.fc = 0 ∧ f.fd = 0 ∧ f.sub = 0 ∧ f.imm < 65536 ∧ f.n < 65536 ∧ f.st < 65536
  | .t => f.fa < 32 ∧ f.fb < 32 ∧ f.fc < 64 ∧ f.fd < 64 ∧ f.sub < 64 ∧ f.imm < 2048 ∧ f.n < 256 ∧ f.st = 0

theorem pack_lt {c : Cls} {f : Fields} (h : f.FitsIn c) : pack c f < 9007199254740992 := by
  cases c <;> simp only [Fields.FitsIn] at h <;> simp only [pack]
  · obtain ⟨-, h⟩ := h; omega
  · obtain ⟨-, h⟩ := h; omega
  · obtain ⟨-, h⟩ := h; omega
  · obtain ⟨-, h⟩ := h; omega
  · obtain ⟨-, h⟩ := h; omega
  · obtain ⟨-, h⟩ := h; omega
  · obtain ⟨-, h⟩ := h; omega

/-- A word whose low 53 bits are a class's fields gives those fields. -/
theorem fieldsOf_pack {c : Cls} {f : Fields} (h : f.FitsIn c) (hi : Nat) (ext second : Option Nat) :
    fieldsOf c ext second (hi * 2 ^ 53 + pack c f) =
      { f with x := ext.isSome, v := ext.getD f.imm, w := (second.getD 0) % 2 ^ 64, lone := second.isNone } := by
  have h0 : (unpack c (hi * 2 ^ 53 + pack c f)).fa = f.fa := by
    cases c <;> (obtain ⟨hr, h⟩ := h; simp only [] at h; simp only [unpack, pack, bitsAt]; omega)
  have h1 : (unpack c (hi * 2 ^ 53 + pack c f)).fb = f.fb := by
    cases c <;> (obtain ⟨hr, h⟩ := h; simp only [] at h; simp only [unpack, pack, bitsAt]; omega)
  have h2 : (unpack c (hi * 2 ^ 53 + pack c f)).fc = f.fc := by
    cases c <;> (obtain ⟨hr, h⟩ := h; simp only [] at h; simp only [unpack, pack, bitsAt]; omega)
  have h3 : (unpack c (hi * 2 ^ 53 + pack c f)).fd = f.fd := by
    cases c <;> (obtain ⟨hr, h⟩ := h; simp only [] at h; simp only [unpack, pack, bitsAt]; omega)
  have h4 : (unpack c (hi * 2 ^ 53 + pack c f)).sub = f.sub := by
    cases c <;> (obtain ⟨hr, h⟩ := h; simp only [] at h; simp only [unpack, pack, bitsAt]; omega)
  have h5 : (unpack c (hi * 2 ^ 53 + pack c f)).imm = f.imm := by
    cases c <;> (obtain ⟨hr, h⟩ := h; simp only [] at h; simp only [unpack, pack, bitsAt]; omega)
  have h6 : (unpack c (hi * 2 ^ 53 + pack c f)).n = f.n := by
    cases c <;> (obtain ⟨hr, h⟩ := h; simp only [] at h; simp only [unpack, pack, bitsAt]; omega)
  have h7 : (unpack c (hi * 2 ^ 53 + pack c f)).st = f.st := by
    cases c <;> (obtain ⟨hr, h⟩ := h; simp only [] at h; simp only [unpack, pack, bitsAt]; omega)
  have h8 : (unpack c (hi * 2 ^ 53 + pack c f)).rsv = f.rsv := by
    cases c <;> (obtain ⟨hr, h⟩ := h; simp only [] at h; simp only [unpack, pack, bitsAt]; omega)
  simp only [fieldsOf, h0, h1, h2, h3, h4, h5, h6, h7, h8]

/-! ### Control bits -/

theorem packCtl_lt (c : Ctl) : ∃ k, packCtl c = k * 9007199254740992 ∧ k < 8589934592 := by
  obtain ⟨neg, pred, wait, sig⟩ := c
  have hp := pred.isLt
  refine ⟨(if neg then 4294967296 else 0) + pred.val * 268435456 +
    (match wait with
     | none => 0
     | some (i, d) => 134217728 + i.toNat * 524288 + d.toNat * 4096) +
    (match sig with
     | none => 0
     | some (i, n) => 2048 + i.toNat * 8 + n.toNat), ?_, ?_⟩
  · cases neg <;> cases wait <;> cases sig <;> simp only [packCtl] <;> simp <;> omega
  · cases wait with
    | none => cases sig with
      | none => cases neg <;> simp <;> omega
      | some x => have := x.1.isLt; have := x.2.isLt; cases neg <;> simp <;> omega
    | some y =>
      have := y.1.isLt; have := y.2.isLt
      cases sig with
      | none => cases neg <;> simp <;> omega
      | some x => have := x.1.isLt; have := x.2.isLt; cases neg <;> simp <;> omega

/-- A word gives back the control bits that were put into it. -/
theorem ctlOf_packCtl (c : Ctl) (opc p : Nat) (hp : p < 9007199254740992) :
    ctlOf (opc * 2 ^ 86 + packCtl c + p) = c ∧ ctlReserved (opc * 2 ^ 86 + packCtl c + p) = false := by
  obtain ⟨neg, pred, wait, sig⟩ := c
  have hpr := pred.isLt
  have key : ∀ W : Nat, W = opc * 2 ^ 86 + packCtl ⟨neg, pred, wait, sig⟩ + p →
      (bitsAt W 85 1 = if neg then 1 else 0) ∧ bitsAt W 81 4 = pred.val ∧
      (wait = none → bitsAt W 80 1 = 0 ∧ bitsAt W 65 15 = 0) ∧
      (∀ x, wait = some x → bitsAt W 80 1 = 1 ∧ bitsAt W 72 8 = x.1.toNat ∧ bitsAt W 65 7 = x.2.toNat) ∧
      (sig = none → bitsAt W 64 1 = 0 ∧ bitsAt W 53 11 = 0) ∧
      (∀ x, sig = some x → bitsAt W 64 1 = 1 ∧ bitsAt W 56 8 = x.1.toNat ∧ bitsAt W 53 3 = x.2.toNat) := by
    intro W hW
    cases wait with
    | none => cases sig with
      | none => cases neg <;> simp [packCtl] at hW <;> simp [bitsAt] <;> omega
      | some y =>
        have := y.1.isLt; have := y.2.isLt
        cases neg <;> simp [packCtl] at hW <;> simp [bitsAt] <;> omega
    | some x =>
      have := x.1.isLt; have := x.2.isLt
      cases sig with
      | none => cases neg <;> simp [packCtl] at hW <;> simp [bitsAt] <;> omega
      | some y =>
        have := y.1.isLt; have := y.2.isLt
        cases neg <;> simp [packCtl] at hW <;> simp [bitsAt] <;> omega
  obtain ⟨h1, h2, h3, h4, h5, h6⟩ := key _ rfl
  generalize opc * 2 ^ 86 + packCtl ⟨neg, pred, wait, sig⟩ + p = W at *
  refine ⟨?_, ?_⟩
  · have e1 : (bitsAt W 85 1 == 1) = neg := by rw [h1]; cases neg <;> rfl
    have e2 : Fin.ofNat 16 (bitsAt W 81 4) = pred := by rw [h2]; exact Fin.ext (Nat.mod_eq_of_lt hpr)
    have e3 : (if bitsAt W 80 1 = 1 then some (BitVec.ofNat 8 (bitsAt W 72 8), BitVec.ofNat 7 (bitsAt W 65 7)) else none) = wait := by
      cases wait with
      | none => simp [(h3 rfl).1]
      | some x => obtain ⟨a, b, c⟩ := h4 x rfl; simp [a, b, c]
    have e4 : (if bitsAt W 64 1 = 1 then some (BitVec.ofNat 8 (bitsAt W 56 8), BitVec.ofNat 3 (bitsAt W 53 3)) else none) = sig := by
      cases sig with
      | none => simp [(h5 rfl).1]
      | some x => obtain ⟨a, b, c⟩ := h6 x rfl; simp [a, b, c]
    simp only [ctlOf, e1, e2, e3, e4]
  · simp only [ctlReserved, Bool.or_eq_false_iff, Bool.and_eq_false_iff]
    refine ⟨?_, ?_⟩
    · cases wait with
      | none => right; simp [(h3 rfl).2]
      | some x => left; simp [(h4 x rfl).1]
    · cases sig with
      | none => right; simp [(h5 rfl).2]
      | some x => left; simp [(h6 x rfl).1]

/-! ### A command -/

/-- The fields that a decoder sees in an encoded command. -/
def Enc.seen (e : Enc) : Fields := { e.f with x := e.ext.isSome, v := e.ext.getD e.f.imm, w := e.second.getD 0, lone := e.second.isNone }

/-- An encoding `e` of command `i` by row `r` of the opcode map: every field in its width, no bit that the row does not use, an `EXT` only where
a class takes one. -/
structure Enc.Good (e : Enc) (i : Instr) (r : Row) : Prop where
  row : opRow e.opc = some r
  on : r.on ≠ []
  small : e.opc < 1024
  notExt : e.opc ≠ opcExt
  cls : r.cls = e.cls
  fits : e.f.FitsIn e.cls
  ext : ∀ v, e.ext = some v → v < 2 ^ 64 ∧ (e.cls = .i ∨ e.cls = .s) ∧ e.f.imm = 0 ∧ e.second = none
  second : ∀ v, e.second = some v → v < 2 ^ 64
  two : r.two = e.second.isSome
  used : e.seen.within (r.used e.seen) = true
  late : e.second.isSome = true → r.late e.seen = false
  bare : r.bare = true → e.c.unguarded = true
  build : r.build e.c e.seen = some i

/-- The main word of an encoded command. -/
def Enc.main (e : Enc) : Nat := e.opc * 2 ^ 86 + packCtl e.c + pack e.cls e.f

theorem Enc.main_fields {e : Enc} (h : e.f.FitsIn e.cls) (ho : e.opc < 1024) (ext second : Option Nat) :
    bitsAt e.main 86 10 = e.opc ∧ ctlOf e.main = e.c ∧ ctlReserved e.main = false ∧
    fieldsOf e.cls ext second e.main = { e.f with x := ext.isSome, v := ext.getD e.f.imm, w := (second.getD 0) % 2 ^ 64, lone := second.isNone } := by
  obtain ⟨k, hk, hk2⟩ := packCtl_lt e.c
  have hp := pack_lt h
  have hc := ctlOf_packCtl e.c e.opc _ hp
  have hm : e.main = (e.opc * 8589934592 + k) * 2 ^ 53 + pack e.cls e.f := by simp only [Enc.main, hk]; omega
  refine ⟨?_, hc.1, hc.2, ?_⟩
  · rw [hm]; simp only [bitsAt]; omega
  · rw [hm]; exact fieldsOf_pack h _ ext second

theorem second_word {v : Nat} (h : v < 2 ^ 64) :
    bitsAt (opcExt * 2 ^ 86 + v) 86 10 = opcExt ∧ bitsAt (opcExt * 2 ^ 86 + v) 64 22 = 0 ∧ (opcExt * 2 ^ 86 + v) % 2 ^ 64 = v := by
  simp only [opcExt, bitsAt]; omega

/-- What a word decodes to, by what is read out of it. -/
theorem decodeWord_of {l : Letter} {ext w2 second : Option Nat} {w : Nat} {r : Row} {f : Fields} {i : Instr} (hrow : opRow (bitsAt w 86 10) = some r)
    (hl : l ∈ r.on) (hs : (if r.two then secondOf w2 else none) = second) (hf : fieldsOf r.cls ext second w = f) (hres : ctlReserved w = false)
    (hin : f.within (r.used f) = true) (hlate : second.isSome = true → r.late f = false) (h22 : bitsAt (second.getD 0) 64 22 = 0)
    (hext : ext.isSome = true → (r.cls = .i ∨ r.cls = .s) ∧ f.imm = 0 ∧ r.two = false) (htwo : r.two = second.isSome)
    (hbare : r.bare = true → (ctlOf w).unguarded = true) (hb : r.build (ctlOf w) f = some i) : decodeWord l ext w w2 = .ok i := by
  have hl' : ¬ l ∉ r.on := fun h => h hl
  simp only [decodeWord, hrow, if_neg hl', hs, hf]
  have c1 : (ctlReserved w || !f.within (r.used f) || (second.isSome && r.late f) || decide (bitsAt (second.getD 0) 64 22 ≠ 0) ||
      (ext.isSome && (decide (r.cls = .i) || decide (r.cls = .s)) && decide (f.imm ≠ 0))) = false := by
    rw [hres, hin, h22]
    have a : (second.isSome && r.late f) = false := by
      cases hx : second.isSome with
      | false => rfl
      | true => rw [hlate hx]; rfl
    have b : (ext.isSome && (decide (r.cls = .i) || decide (r.cls = .s)) && decide (f.imm ≠ 0)) = false := by
      cases hx : ext.isSome with
      | false => rfl
      | true => rw [(hext hx).2.1]; simp
    rw [a, b]; rfl
  have c2 : (r.bare && !(ctlOf w).unguarded) = false := by
    cases hx : r.bare with
    | false => rfl
    | true => rw [hbare hx]; rfl
  have c3 : ((r.two && second.isNone) || (ext.isSome && (!(decide (r.cls = .i) || decide (r.cls = .s)) || r.two))) = false := by
    rw [htwo]
    have a : (second.isSome && second.isNone) = false := by cases second <;> rfl
    rw [a]
    cases hx : ext.isSome with
    | false => rfl
    | true =>
      obtain ⟨h1, -, h3⟩ := hext hx
      rw [← htwo, h3]
      rcases h1 with h1 | h1 <;> simp [h1]
  simp only [c1, c2, c3, hb, Bool.false_eq_true, if_false]

/-- A good encoding's words decode to its command, in every stream of its row. -/
theorem Enc.Good.decode {e : Enc} {i : Instr} {r : Row} (h : e.Good i r) {l : Letter} (hl : l ∈ r.on) : decodeWords l e.words = .ok i := by
  have hm := fun x y => Enc.main_fields h.fits h.small x y
  have hwords : e.words = (match e.ext with | none => [] | some v => [opcExt * 2 ^ 86 + v]) ++ [e.main] ++
      (match e.second with | none => [] | some v => [opcExt * 2 ^ 86 + v]) := rfl
  rw [hwords]
  have hb := h.build
  have hu := h.used
  have hlate := h.late
  have htwo := h.two
  have hsec := h.second
  have hne : e.opc ≠ opcExt := h.notExt
  have hrow : opRow (bitsAt e.main 86 10) = some r := by rw [(hm none none).1]; exact h.row
  have hm0 := (hm none none).1
  have hctl := (hm none none).2.1
  have hres := (hm none none).2.2.1
  generalize e.main = W at *
  have hbare : r.bare = true → (ctlOf W).unguarded = true := by rw [hctl]; exact h.bare
  have hW : bitsAt W 86 10 ≠ opcExt := by rw [hm0]; exact hne
  cases hx : e.ext with
  | some v =>
    obtain ⟨hv, hk, h0, h2⟩ := h.ext v hx
    obtain ⟨w1, w2, w3⟩ := second_word hv
    simp only [h2]
    generalize opcExt * 2 ^ 86 + v = X at *
    simp only [List.append_nil, List.singleton_append, decodeWords, w1, if_true, decodeCommand]
    have e1 : (BitVec.ofNat 64 X).toNat = v := by simp only [BitVec.toNat_ofNat]; exact w3
    rw [e1]
    have hr2 : r.two = false := by rw [htwo, h2]; rfl
    have hF := (hm (some v) none).2.2.2
    have hs : e.seen = { e.f with x := (some v).isSome, v := (some v).getD e.f.imm, w := ((none : Option Nat).getD 0) % 2 ^ 64, lone := (none : Option Nat).isNone } := by
      simp only [Enc.seen, hx, h2, Option.getD_none, Nat.zero_mod]
    exact decodeWord_of (f := e.seen) hrow hl (second := none) (by rw [hr2]; rfl) (by rw [h.cls]; exact hF.trans hs.symm) hres hu (fun h => by cases h)
      rfl (fun _ => ⟨by rw [h.cls]; exact hk, h0, hr2⟩) (by rw [hr2]; rfl) hbare (by rw [hctl]; exact hb)
  | none =>
    cases hy : e.second with
    | none =>
      simp only [List.append_nil, List.nil_append, decodeWords, decodeCommand, if_neg hW]
      have hr2 : r.two = false := by rw [htwo, hy]; rfl
      have hF := (hm none none).2.2.2
      have hs : e.seen = { e.f with x := (none : Option Nat).isSome, v := (none : Option Nat).getD e.f.imm, w := ((none : Option Nat).getD 0) % 2 ^ 64, lone := (none : Option Nat).isNone } := by
        simp only [Enc.seen, hx, hy, Option.getD_none, Nat.zero_mod]
      exact decodeWord_of (f := e.seen) hrow hl (second := none) (by rw [hr2]; rfl) (by rw [h.cls]; exact hF.trans hs.symm) hres hu
        (fun h => by cases h) rfl (fun h => by cases h) (by rw [hr2]; rfl) hbare (by rw [hctl]; exact hb)
    | some v =>
      have hv := hsec v hy
      obtain ⟨w1, w2, w3⟩ := second_word hv
      simp only []
      generalize opcExt * 2 ^ 86 + v = X at *
      simp only [List.singleton_append, List.nil_append, decodeWords, decodeCommand, if_neg hW]
      have hr2 : r.two = true := by rw [htwo, hy]; rfl
      have hF := (hm none (some X)).2.2.2
      have hs : e.seen = { e.f with x := (none : Option Nat).isSome, v := (none : Option Nat).getD e.f.imm, w := ((some X).getD 0) % 2 ^ 64, lone := (some X).isNone } := by
        simp only [Enc.seen, hx, hy, Option.getD_some, Option.getD_none, w3, Option.isNone_some]
      exact decodeWord_of (f := e.seen) hrow hl (second := some X) (by rw [hr2]; simp only [secondOf, w1, if_true])
        (by rw [h.cls]; exact hF.trans hs.symm) hres hu (fun _ => hlate (by rw [hy]; rfl)) w2 (fun h => by cases h) (by rw [hr2]; rfl) hbare
        (by rw [hctl]; exact hb)


/-! ### Registers and codes -/

@[simp] theorem sreg_val (d : Fin 32) : sreg d.val = d := Fin.ext (Nat.mod_eq_of_lt d.isLt)
@[simp] theorem hreg_val (d : Fin 32) : hreg d.val = d := Fin.ext (Nat.mod_eq_of_lt d.isLt)
@[simp] theorem preg_val (d : Fin 32) : preg d.val = d := Fin.ext (Nat.mod_eq_of_lt d.isLt)
@[simp] theorem breg_val (d : Fin 8) : breg d.val = d := Fin.ext (Nat.mod_eq_of_lt d.isLt)
@[simp] theorem below_val {k : Nat} (d : Fin k) : below k d.val = some d := by simp [below]
@[simp] theorem greg_val (d : Fin 16) : greg d.val = some d := below_val d
@[simp] theorem qreg_val (d : Fin 8) : qreg d.val = some d := below_val d
@[simp] theorem tile_val (d : Fin 48) : tile d.val = some d := below_val d
theorem pdst_val {d : Fin 32} (h : d ≠ 0) : pdst d.val = some d := by simp [pdst, h]
@[simp] theorem ccOf_code (c : Cc) : ccOf c.code = some c := by cases c <;> rfl
@[simp] theorem fccOf_code (c : Fcc) : fccOf c.code = some c := by cases c <;> rfl
@[simp] theorem scopeOf_code (c : Scope) : scopeOf c.code = some c := by cases c <;> rfl
@[simp] theorem barScopeOf_code (c : BarScope) : barScopeOf c.code = some c := by cases c <;> rfl
@[simp] theorem microOf_code (c : MicroOp) : microOf c.code = some c := by cases c <;> rfl
@[simp] theorem selOf_code (c : MicroSel) : selOf c.code = some c := by cases c <;> rfl

theorem lor_lit {a m n : Nat} (h : m = 2 ^ n - 1) (ha : a < 2 ^ n) : a ||| m = m := by subst h; exact lor_mask ha
/-! SUB bits of the forms. -/
@[simp] theorem bit_1_1 : Nat.testBit 1 1 = false := rfl
@[simp] theorem bit_1_2 : Nat.testBit 1 2 = false := rfl
@[simp] theorem bit_2_0 : Nat.testBit 2 0 = false := rfl
@[simp] theorem bit_2_1 : Nat.testBit 2 1 = true := rfl
@[simp] theorem bit_2_2 : Nat.testBit 2 2 = false := rfl
@[simp] theorem bit_3_0 : Nat.testBit 3 0 = true := rfl
@[simp] theorem bit_3_1 : Nat.testBit 3 1 = true := rfl
@[simp] theorem bit_3_2 : Nat.testBit 3 2 = false := rfl
@[simp] theorem bit_4_0 : Nat.testBit 4 0 = false := rfl
@[simp] theorem bit_4_1 : Nat.testBit 4 1 = false := rfl
@[simp] theorem bit_4_2 : Nat.testBit 4 2 = true := rfl
@[simp] theorem bit_5_0 : Nat.testBit 5 0 = true := rfl
@[simp] theorem bit_5_1 : Nat.testBit 5 1 = false := rfl
@[simp] theorem bit_5_2 : Nat.testBit 5 2 = true := rfl
@[simp] theorem bit_6_0 : Nat.testBit 6 0 = false := rfl
@[simp] theorem bit_6_1 : Nat.testBit 6 1 = true := rfl
@[simp] theorem bit_6_2 : Nat.testBit 6 2 = true := rfl
@[simp] theorem bit_7_0 : Nat.testBit 7 0 = true := rfl
@[simp] theorem bit_7_1 : Nat.testBit 7 1 = true := rfl
@[simp] theorem bit_7_2 : Nat.testBit 7 2 = true := rfl

theorem lor_ones {a m : Nat} (h : (List.range 33).any (fun n => m == 2 ^ n - 1) = true) (ha : a ≤ m) : a ||| m = m := by
  obtain ⟨n, -, hn⟩ := List.any_eq_true.mp h
  have hm : m = 2 ^ n - 1 := by simpa using hn
  have := Nat.two_pow_pos n
  exact lor_lit hm (by omega)
theorem lor_shift {a m : Nat} (k : Nat) (h : a ||| m = m) : a * 2 ^ k ||| m * 2 ^ k = m * 2 ^ k := by
  rw [← Nat.shiftLeft_eq, ← Nat.shiftLeft_eq, ← Nat.shiftLeft_or_distrib, h]
@[simp] theorem lor_amount (a : BitVec 24) : a.toNat * 256 ||| 4294967040 = 4294967040 :=
  lor_shift (a := a.toNat) (m := 16777215) 8 (lor_ones rfl (by omega))
theorem lor_regs {a b : Nat} (ha : a < 32) (hb : b < 32) : a * 4194304 + b * 131072 ||| 134086656 = 134086656 := by
  have e : a * 4194304 + b * 131072 = (a * 32 + b) * 2 ^ 17 := by omega
  rw [e]
  exact lor_shift (m := 1023) 17 (lor_ones rfl (by omega))
@[simp] theorem lor_reg (d : Fin 32) : d.val ||| 31 = 31 := lor_lit (n := 5) rfl d.isLt
@[simp] theorem lor_g (d : Fin 16) : d.val ||| 31 = 31 := lor_lit (n := 5) rfl (by omega)
@[simp] theorem lor_q (d : Fin 8) : d.val ||| 31 = 31 := lor_lit (n := 5) rfl (by omega)
@[simp] theorem lor_b (d : Fin 8) : d.val ||| 7 = 7 := lor_lit (n := 3) rfl (by omega)
@[simp] theorem lor_t (d : Fin 48) : d.val ||| 63 = 63 := lor_lit (n := 6) rfl (by omega)

theorem scope_lt (c : Scope) : c.code < 6 := by cases c <;> decide
theorem barScope_lt (c : BarScope) : c.code < 3 := by cases c <;> decide
theorem cc_lt (c : Cc) : c.code < 10 := by cases c <;> decide
theorem fcc_lt (c : Fcc) : c.code < 8 := by cases c <;> decide

/-! ### Immediates -/

theorem immOf_lt (b : Nat) (v : Word) : (immOf b v).1 < 2 ^ b := by
  simp only [immOf]
  split
  · exact Nat.mod_lt _ (Nat.two_pow_pos b)
  · exact Nat.two_pow_pos b

theorem immOf_ext {b : Nat} {v : Word} {x : Nat} (h : (immOf b v).2 = some x) : x < 2 ^ 64 ∧ (immOf b v).1 = 0 := by
  simp only [immOf] at h ⊢
  split at h
  · cases h
  · rename_i hn
    rw [if_neg hn]
    exact ⟨by rw [← Option.some.inj h]; exact v.isLt, rfl⟩

@[simp] theorem sx_immOf (b : Nat) (v : Word) (fa fb fc fd sub n st rsv w : Nat) (l : Bool) :
    Fields.sx ⟨fa, fb, fc, fd, sub, (immOf b v).1, n, st, rsv, (immOf b v).2.isSome, (immOf b v).2.getD (immOf b v).1, w, l⟩ b = v := by
  simp only [Fields.sx, immOf]
  split
  · rename_i h
    simp only [Option.isSome_none, Bool.false_eq_true, if_false]
    have e : BitVec.ofNat b (v.toNat % 2 ^ b) = BitVec.ofNat b v.toNat := by
      apply BitVec.eq_of_toNat_eq; simp
    rw [e]; exact h
  · simp

@[simp] theorem lor_imm32 (v : Word) : (immOf 32 v).1 ||| 4294967295 = 4294967295 := lor_lit (n := 32) rfl (immOf_lt 32 v)
@[simp] theorem lor_imm24 (v : Word) : (immOf 24 v).1 ||| 16777215 = 16777215 := lor_lit (n := 24) rfl (immOf_lt 24 v)

theorem Enc.Good.words_lt {e : Enc} {i : Instr} {r : Row} (h : e.Good i r) : ∀ w ∈ e.words, w < 2 ^ 96 := by
  obtain ⟨k, hk, hk2⟩ := packCtl_lt e.c
  have hp := pack_lt h.fits
  have hs := h.small
  have he := h.ext
  have h2 := h.second
  have hw : e.words = (match e.ext with | none => [] | some v => [opcExt * 2 ^ 86 + v]) ++ [e.opc * 2 ^ 86 + packCtl e.c + pack e.cls e.f] ++
      (match e.second with | none => [] | some v => [opcExt * 2 ^ 86 + v]) := rfl
  rw [hw, hk]
  intro w hm
  simp only [List.mem_append, List.mem_singleton] at hm
  rcases hm with (hm | hm) | hm
  · cases hx : e.ext with
    | none => simp [hx] at hm
    | some v =>
      have hv := (he v hx).1
      simp only [hx, List.mem_singleton, opcExt] at hm
      omega
  · omega
  · cases hx : e.second with
    | none => simp [hx] at hm
    | some v =>
      have hv := h2 v hx
      simp only [hx, List.mem_singleton, opcExt] at hm
      omega

/-! ### Shapes of commands -/

theorem good0 {opc : Nat} {g : Op0 → Instr} {o : Op0} (h : opRow opc = some (rowN g)) (h1 : opc < 1024) (h2 : opc ≠ opcExt) :
    ∃ r, (enc0 opc o).Good (g o) r :=
  ⟨_, h, by simp [rowN, onAll], h1, h2, rfl, by simp [Fields.FitsIn, enc0], (fun v hv => by cases hv), (fun v hv => by cases hv), rfl,
    by simp [enc0, Enc.seen, Fields.within, rowN], (fun h => by cases h), (fun h => by cases h), rfl⟩

theorem good3 {opc : Nat} {g : Op3 → Instr} {o : Op3} (h : opRow opc = some (row3 g)) (h1 : opc < 1024) (h2 : opc ≠ opcExt) :
    ∃ r, (enc3 opc o).Good (g o) r :=
  ⟨_, h, by simp [row3, onAll], h1, h2, rfl, by simp [Fields.FitsIn, enc3], (fun v hv => by cases hv), (fun v hv => by cases hv), rfl,
    by simp [enc3, Enc.seen, Fields.within, row3, uABC], (fun h => by cases h), (fun h => by cases h), by simp [enc3, Enc.seen, row3]⟩

theorem good2 {opc : Nat} {g : Op2 → Instr} {o : Op2} (h : opRow opc = some (row2 g)) (h1 : opc < 1024) (h2 : opc ≠ opcExt) :
    ∃ r, (enc2 opc o).Good (g o) r :=
  ⟨_, h, by simp [row2, onAll], h1, h2, rfl, by simp [Fields.FitsIn, enc2], (fun v hv => by cases hv), (fun v hv => by cases hv), rfl,
    by simp [enc2, Enc.seen, Fields.within, row2, uAB], (fun h => by cases h), (fun h => by cases h), by simp [enc2, Enc.seen, row2]⟩

theorem goodI {opc : Nat} {g : OpI → Instr} {o : OpI} (h : opRow opc = some (rowI g)) (h1 : opc < 1024) (h2 : opc ≠ opcExt) :
    ∃ r, (encI opc o).Good (g o) r :=
  ⟨_, h, by simp [rowI, onAll], h1, h2, rfl, by have := immOf_lt 32 o.imm; simp [Fields.FitsIn, encI]; omega,
    fun v hv => ⟨(immOf_ext hv).1, Or.inl rfl, (immOf_ext hv).2, rfl⟩, (fun v hv => by cases hv), rfl,
    by simp [encI, Enc.seen, Fields.within, rowI, uAB], (fun h => by cases h), (fun h => by cases h), by simp [encI, Enc.seen, rowI]⟩

theorem goodSh {opc : Nat} {g : OpSh → Instr} {o : OpSh} (h : opRow opc = some (rowSh g)) (h1 : opc < 1024) (h2 : opc ≠ opcExt) :
    ∃ r, (encSh opc o).Good (g o) r :=
  ⟨_, h, by simp [rowSh, onAll], h1, h2, rfl, by simp [Fields.FitsIn, encSh]; omega, (fun v hv => by cases hv), (fun v hv => by cases hv), rfl,
    by simp [encSh, Enc.seen, Fields.within, rowSh, uAB]; exact lor_lit (n := 32) rfl (by omega), (fun h => by cases h), (fun h => by cases h),
    by simp [encSh, Enc.seen, rowSh]⟩

theorem goodPPP {opc : Nat} {g : OpPPP → Instr} {o : OpPPP} (h : opRow opc = some (rowPPP g)) (hd : o.d ≠ 0) (h1 : opc < 1024) (h2 : opc ≠ opcExt) :
    ∃ r, (encPPP opc o).Good (g o) r :=
  ⟨_, h, by simp [rowPPP, onAll], h1, h2, rfl, by simp [Fields.FitsIn, encPPP], (fun v hv => by cases hv), (fun v hv => by cases hv), rfl,
    by simp [encPPP, Enc.seen, Fields.within, rowPPP, uABC], (fun h => by cases h), (fun h => by cases h),
    by simp [encPPP, Enc.seen, rowPPP, pdst_val hd]⟩

theorem goodRed {opc : Nat} {g : OpVred → Instr} {o : OpVred} (h : opRow opc = some (rowRed g)) (h1 : opc < 1024) (h2 : opc ≠ opcExt) :
    ∃ r, (encRed opc o).Good (g o) r := by
  obtain ⟨c, d, a, row⟩ := o
  exact ⟨_, h, by simp [rowRed, onV], h1, h2, rfl, by cases row <;> simp [Fields.FitsIn, encRed] <;> omega, (fun v hv => by cases hv),
    (fun v hv => by cases hv), rfl, by cases row <;> simp [encRed, Enc.seen, Fields.within, rowRed, uAB], (fun h => by cases h), (fun h => by cases h),
    by cases row <;> simp [encRed, Enc.seen, rowRed]⟩

theorem goodG3 {opc : Nat} {g : OpVG3 → Instr} {o : OpVG3} (h : opRow opc = some (rowG3 g)) (h1 : opc < 1024) (h2 : opc ≠ opcExt) :
    ∃ r, (encG3 opc o).Good (g o) r :=
  ⟨_, h, by simp [rowG3, onV], h1, h2, rfl, by simp [Fields.FitsIn, encG3]; omega, (fun v hv => by cases hv), (fun v hv => by cases hv), rfl,
    by simp [encG3, Enc.seen, Fields.within, rowG3, uABC], (fun h => by cases h), (fun h => by cases h), by simp [encG3, Enc.seen, rowG3]⟩

theorem goodG2 {opc : Nat} {g : OpVG2 → Instr} {o : OpVG2} (h : opRow opc = some (rowG2 g)) (h1 : opc < 1024) (h2 : opc ≠ opcExt) :
    ∃ r, (encG2 opc o).Good (g o) r :=
  ⟨_, h, by simp [rowG2, onV], h1, h2, rfl, by simp [Fields.FitsIn, encG2]; omega, (fun v hv => by cases hv), (fun v hv => by cases hv), rfl,
    by simp [encG2, Enc.seen, Fields.within, rowG2, uAB], (fun h => by cases h), (fun h => by cases h), by simp [encG2, Enc.seen, rowG2]⟩

/-! ### Vector sources -/

theorem VArg.field_lt (x : VArg) : x.field < 32 := by cases x <;> simp only [VArg.field] <;> omega
theorem VArg.fmt_lt (x : VArg) : x.fmt < 10 := by cases x <;> simp only [VArg.fmt] <;> omega
@[simp] theorem VArg.lor_field (x : VArg) : x.field ||| 31 = 31 := lor_lit (n := 5) rfl x.field_lt

/-- A source at place `i` is read back from its field, where SCAL names it exactly if it is a scalar. -/
theorem varg_field {f : Fields} {x : VArg} {i : Nat} (hi : x.isScalar = true → f.scal = i ∧ f.imm = x.fmt) (hn : x.isScalar = false → f.scal ≠ i) :
    f.varg i x.field = some x := by
  cases x with
  | gen g => simp only [Fields.varg, if_neg (hn rfl), VArg.field, greg_val, Option.map_some]
  | scalar s t => simp only [Fields.varg, if_pos (hi rfl).1, (hi rfl).2, VArg.field, VArg.fmt, sreg_val, below_val, Option.map_some]

theorem goodV1 {opc : Nat} {g : OpV1 → Instr} {o : OpV1} (h : opRow opc = some (rowV1 g)) (h1 : opc < 1024) (h2 : opc ≠ opcExt) :
    ∃ r, (encV1 opc o).Good (g o) r := by
  obtain ⟨c, d, x⟩ := o
  refine ⟨_, h, by simp [rowV1, onV], h1, h2, rfl, ?_, (fun v hv => by cases hv), (fun v hv => by cases hv), rfl, ?_, (fun h => by cases h),
    (fun h => by cases h), ?_⟩
  · have := x.field_lt
    cases x <;> simp [Fields.FitsIn, encV1, VArg.field, VArg.scal, VArg.fmt] <;> omega
  · cases x with
    | gen g => simp [encV1, Enc.seen, Fields.within, rowV1, vUsed, VArg.field, VArg.scal, VArg.fmt, Fields.scal]
    | scalar s t =>
      simp [encV1, Enc.seen, Fields.within, rowV1, vUsed, VArg.field, VArg.scal, VArg.fmt, Fields.scal]
      exact lor_lit (n := 4) rfl (by omega)
  · cases x <;> simp [encV1, Enc.seen, rowV1, v1Of, VArg.field, VArg.scal, VArg.fmt, Fields.scal, Fields.varg]


theorem goodV2 {opc : Nat} {g : OpV2 → Instr} {o : OpV2} (h : opRow opc = some (rowV2 g)) (hok : o.ok = true) (h1 : opc < 1024) (h2 : opc ≠ opcExt) :
    ∃ r, (encV2 opc 0 o).Good (g o) r := by
  obtain ⟨c, d, x, y⟩ := o
  refine ⟨_, h, by simp [rowV2, onV], h1, h2, rfl, ?_, (fun v hv => by cases hv), (fun v hv => by cases hv), rfl, ?_, (fun h => by cases h),
    (fun h => by cases h), ?_⟩
  · have := x.field_lt
    have := y.field_lt
    cases x <;> cases y <;> first | (cases hok; done) | (simp [Fields.FitsIn, encV2, VArg.field, VArg.scal, VArg.fmt] <;> omega)
  · cases x <;> cases y <;> first
      | (cases hok; done)
      | (simp [encV2, Enc.seen, Fields.within, rowV2, vUsed, VArg.field, VArg.scal, VArg.fmt, Fields.scal]; done)
      | (simp [encV2, Enc.seen, Fields.within, rowV2, vUsed, VArg.field, VArg.scal, VArg.fmt, Fields.scal]; exact lor_lit (n := 4) rfl (by omega))
  · cases x <;> cases y <;> first
      | (cases hok; done)
      | simp [encV2, Enc.seen, rowV2, v2Of, VArg.field, VArg.scal, VArg.fmt, Fields.scal, Fields.varg]

theorem goodV3 {opc : Nat} {g : OpV3 → Instr} {o : OpV3} (h : opRow opc = some (rowV3 g)) (hok : o.ok = true) (h1 : opc < 1024) (h2 : opc ≠ opcExt) :
    ∃ r, (encV3 opc o).Good (g o) r := by
  obtain ⟨c, d, x, y, z⟩ := o
  refine ⟨_, h, by simp [rowV3, onV], h1, h2, rfl, ?_, (fun v hv => by cases hv), (fun v hv => by cases hv), rfl, ?_, (fun h => by cases h),
    (fun h => by cases h), ?_⟩
  · have := x.field_lt
    have := y.field_lt
    have := z.field_lt
    cases x <;> cases y <;> cases z <;> first | (cases hok; done) | (simp [Fields.FitsIn, encV3, VArg.field, VArg.scal, VArg.fmt] <;> omega)
  · cases x <;> cases y <;> cases z <;> first
      | (cases hok; done)
      | (simp [encV3, Enc.seen, Fields.within, rowV3, vUsed, VArg.field, VArg.scal, VArg.fmt, Fields.scal]; done)
      | (simp [encV3, Enc.seen, Fields.within, rowV3, vUsed, VArg.field, VArg.scal, VArg.fmt, Fields.scal]; exact lor_lit (n := 4) rfl (by omega))
  · cases x <;> cases y <;> cases z <;> first
      | (cases hok; done)
      | simp [encV3, Enc.seen, rowV3, v3Of, VArg.field, VArg.scal, VArg.fmt, Fields.scal, Fields.varg]

/-! ### Micro-operations of a chain -/

theorem micro_byte (o : MicroOp) (s : MicroSel) (r : Nat) :
    microOf ((o.code * 8 + s.code + 256 * r) % 256 / 8) = some o ∧ selOf ((o.code * 8 + s.code + 256 * r) % 8) = some s ∧
      (o.code * 8 + s.code + 256 * r) / 256 = r := by
  have ho : o.code < 32 := by cases o <;> decide
  have hs : s.code < 8 := by cases s <;> decide
  have e1 : (o.code * 8 + s.code + 256 * r) % 256 / 8 = o.code := by omega
  have e2 : (o.code * 8 + s.code + 256 * r) % 8 = s.code := by omega
  rw [e1, e2]
  exact ⟨microOf_code o, selOf_code s, by omega⟩

theorem micros_code (l : List (MicroOp × MicroSel)) :
    microsOf l.length (microCode l) = some l ∧ microCode l < 256 ^ l.length ∧ usesY l.length (microCode l) = l.any (fun m => m.2 == .y) ∧
      usesZ l.length (microCode l) = l.any (fun m => m.2 == .z || m.1 == .fmaz) := by
  induction l with
  | nil => exact ⟨rfl, by decide, rfl, rfl⟩
  | cons x l ih =>
    obtain ⟨o, s⟩ := x
    obtain ⟨h1, h2, h3, h4⟩ := ih
    obtain ⟨b1, b2, b3⟩ := micro_byte o s (microCode l)
    have ho : o.code < 32 := by cases o <;> decide
    have hs : s.code < 8 := by cases s <;> decide
    have y : ((o.code * 8 + s.code + 256 * microCode l) % 8 == 1) = (s == .y) := by
      rw [show (o.code * 8 + s.code + 256 * microCode l) % 8 = s.code by omega]; cases s <;> rfl
    have z : ((o.code * 8 + s.code + 256 * microCode l) % 8 == 2) = (s == .z) := by
      rw [show (o.code * 8 + s.code + 256 * microCode l) % 8 = s.code by omega]; cases s <;> rfl
    have f : ((o.code * 8 + s.code + 256 * microCode l) % 256 / 8 == 7) = (o == .fmaz) := by
      rw [show (o.code * 8 + s.code + 256 * microCode l) % 256 / 8 = o.code by omega]; cases o <;> rfl
    refine ⟨?_, ?_, ?_, ?_⟩
    · simp only [List.length_cons, microCode, microsOf, b1, b2, b3, h1]
    · simp only [List.length_cons, microCode, Nat.pow_succ]; omega
    · simp only [List.length_cons, microCode, usesY, y, b3, h3, List.any_cons]
    · simp only [List.length_cons, microCode, usesZ, z, f, b3, h4, List.any_cons, Bool.or_assoc]

/-! ### Sampler words -/

theorem wordR_fields {op d a b s : Nat} (ho : op < 64) (hd : d < 16) (ha : a < 16) (hb : b < 16) (hs : s < 16) :
    wordR op d a b s < 2 ^ 32 ∧ bitsAt (wordR op d a b s) 26 6 = op ∧ bitsAt (wordR op d a b s) 22 4 = d ∧ bitsAt (wordR op d a b s) 18 4 = a ∧
      bitsAt (wordR op d a b s) 14 4 = b ∧ bitsAt (wordR op d a b s) 10 4 = s ∧ bitsAt (wordR op d a b s) 0 10 = 0 := by
  simp only [wordR, bitsAt]; omega

theorem wordJ_fields {op h low : Nat} (ho : op < 64) (hh : h < 16) (hl : low < 4194304) :
    wordJ op h low < 2 ^ 32 ∧ bitsAt (wordJ op h low) 26 6 = op ∧ bitsAt (wordJ op h low) 22 4 = h ∧
      bitsAt (wordJ op h low) 21 1 = low / 2097152 ∧ BitVec.ofNat 22 (wordJ op h low) = BitVec.ofNat 22 low ∧
      BitVec.ofNat 21 (wordJ op h low) = BitVec.ofNat 21 low := by
  refine ⟨?_, ?_, ?_, ?_, BitVec.eq_of_toNat_eq ?_, BitVec.eq_of_toNat_eq ?_⟩ <;> simp only [wordJ, bitsAt, BitVec.toNat_ofNat] <;> omega

@[simp] theorem kreg_val (d : Fin 16) : Fin.ofNat 16 d.val = d := Fin.ext (Nat.mod_eq_of_lt d.isLt)

end Sys2Proof
end

