-- ==== Sys2Proof/Laws/PerInstr.lean ====
section
/-! SUPPORT. For each instruction: its words, as the encoder writes them, are read back as it. -/

namespace Sys2Proof.Laws.RoundTrip

/-- The words of an instruction give it back: a command's 96-bit words in every stream that its row allows (06 R176 to R184), a sampler word (12 R343, R344), and an
`EXT`'s before a command with which it is legal (06 R180). -/
def Statement (i : Instr) : Prop :=
  (∀ e, i.wf = true → encodeCommand i = some e → (∀ w ∈ encode i, w < 2 ^ 96) ∧ ∃ r, opRow e.opc = some r ∧ r.on ≠ [] ∧ ∀ l ∈ r.on, decodeWords l (encode i) = .ok i) ∧
  (∀ w, encodeSampler i = some w → encode i = [w] ∧ w < 2 ^ 32 ∧ decodeSampler w = some i) ∧
  (∀ v, i = .ext v → ∀ l w j, decodeWord l (some v.toNat) w none = .ok j → ∃ u, encode i = [u] ∧ u < 2 ^ 96 ∧ decodeCommand l none u (some w) = .ok i)

theorem command {i : Instr} {e : Enc} (h : encodeCommand i = some e) (hw : encode i = e.words) (hs : encodeSampler i = none) (hx : ∀ v, i ≠ .ext v)
    (hg : i.wf = true → ∃ r, e.Good i r) : Statement i := by
  refine ⟨fun e' hi he => ?_, fun w hw => ?_, fun v hv => absurd hv (hx v)⟩
  · rw [h] at he
    obtain rfl := Option.some.inj he
    obtain ⟨r, g⟩ := hg hi
    rw [hw]
    exact ⟨g.words_lt, r, g.row, g.on, fun l hl => g.decode hl⟩
  · rw [hs] at hw; cases hw

theorem sampler {i : Instr} {w : Nat} (h : encodeSampler i = some w) (hc : encodeCommand i = none) (hw : encode i = [w]) (hx : ∀ v, i ≠ .ext v) (hb : w < 2 ^ 32)
    (hd : decodeSampler w = some i) : Statement i := by
  refine ⟨fun e _ he => by rw [hc] at he; (cases he), fun w' hw' => ?_, fun v hv => absurd hv (hx v)⟩
  rw [h] at hw'
  obtain rfl := Option.some.inj hw'
  exact ⟨hw, hb, hd⟩

theorem event {i : Instr} (h : encodeCommand i = none) (hs : encodeSampler i = none) (hx : ∀ v, i ≠ .ext v) : Statement i :=
  ⟨fun e _ he => by rw [h] at he; (cases he), fun w hw => by rw [hs] at hw; (cases hw), fun v hv => absurd hv (hx v)⟩

theorem nop (o : Op0) : Statement (.nop o) :=
  command rfl rfl rfl (fun _ h => by cases h) fun _ => good0 rfl (Nat.le_of_ble_eq_true rfl) (Nat.ne_of_beq_eq_false rfl)

theorem ext (v : Word) : Statement (.ext v) := by
  refine ⟨fun e _ he => (by cases he), fun w hw => (by cases hw), fun u hu l w j hj => ?_⟩
  cases hu
  have hv := v.isLt
  have h1 : bitsAt (opcExt * 2 ^ 86 + v.toNat) 86 10 = opcExt := by simp only [bitsAt, opcExt]; omega
  have h2 : bitsAt (opcExt * 2 ^ 86 + v.toNat) 64 22 = 0 := by simp only [bitsAt, opcExt]; omega
  have h3 : (opcExt * 2 ^ 86 + v.toNat) % 2 ^ 64 = v.toNat := by simp only [opcExt]; omega
  have h4 : opcExt * 2 ^ 86 + v.toNat < 2 ^ 96 := by simp only [opcExt]; omega
  have h5 : BitVec.ofNat 64 (opcExt * 2 ^ 86 + v.toNat) = v := BitVec.eq_of_toNat_eq (by simp only [BitVec.toNat_ofNat]; exact h3)
  refine ⟨_, rfl, h4, ?_⟩
  generalize opcExt * 2 ^ 86 + v.toNat = X at *
  have hw : bitsAt w 86 10 ≠ opcExt := fun h => by
    simp only [decodeWord, h] at hj
    cases hj
  simp only [decodeCommand, h1, if_true, decodeExt, hw, if_false, h2, h3, hj, h5, ne_eq, not_true]

theorem notify (o : Op0) : Statement (.notify o) := by
  refine command rfl rfl rfl (fun _ h => by cases h) fun hwf => ?_
  obtain ⟨c⟩ := o
  simp only [Instr.wf] at hwf
  refine ⟨_, rfl, by decide, Nat.le_of_ble_eq_true rfl, Nat.ne_of_beq_eq_false rfl, rfl, ?_, ?_, ?_, rfl, ?_, ?_, ?_, ?_⟩
  · exact ⟨rfl, by simp [enc0]⟩
  · intro v hv; cases hv
  · intro v hv; cases hv
  · simp [enc0, rowN, Enc.seen, Fields.within]
  · intro h; cases h
  · exact fun _ => hwf
  · simp [enc0, rowN, Enc.seen]

theorem rdv (o : OpN) : Statement (.rdv o) := by
  refine command rfl rfl rfl (fun _ h => by cases h) fun hwf => ?_
  obtain ⟨c, n⟩ := o
  simp only [Instr.wf] at hwf
  refine ⟨_, rfl, by decide, Nat.le_of_ble_eq_true rfl, Nat.ne_of_beq_eq_false rfl, rfl, ?_, ?_, ?_, rfl, ?_, ?_, ?_, ?_⟩
  · exact ⟨rfl, by simp; omega⟩
  · intro v hv; cases hv
  · intro v hv; cases hv
  · simp [rowRdv, Enc.seen, Fields.within]; exact lor_ones rfl (by omega)
  · intro h; cases h
  · exact fun _ => hwf
  · simp [rowRdv, Enc.seen]

theorem semadd (o : OpSem) : Statement (.semadd o) := by
  refine command rfl rfl rfl (fun _ h => by cases h) fun hwf => ?_
  obtain ⟨c, i, v⟩ := o
  refine ⟨_, rfl, by decide, Nat.le_of_ble_eq_true rfl, Nat.ne_of_beq_eq_false rfl, rfl, ?_, ?_, ?_, rfl, ?_, ?_, ?_, ?_⟩
  · cases i <;> cases v <;> exact ⟨rfl, by simp [encSem, SemIdx.fields, SemAmt.fields] <;> omega⟩
  · intro v hv; cases hv
  · intro v hv; cases hv
  · cases i <;> cases v <;> simp [encSem, SemIdx.fields, SemAmt.fields, Fields.fits, Fields.semAmt, Fields.semIdx, rowSem, semUsed, Enc.seen, Fields.within] <;> exact lor_ones rfl (by omega)
  · intro h; cases h
  · intro h; cases h
  · cases i with
    | imm i =>
      cases v with
      | imm v =>
        have e1 : BitVec.ofNat 8 (i.toNat + v.toNat * 256) = i := BitVec.eq_of_toNat_eq (by simp only [BitVec.toNat_ofNat]; omega)
        have e2 : (i.toNat + v.toNat * 256) / 256 = v.toNat := by omega
        simp [encSem, rowSem, SemIdx.fields, SemAmt.fields, Enc.seen, Fields.fits, semUsed, Fields.semIdx, Fields.semAmt, e1, e2]
        exact lor_ones rfl (by omega)
      | reg v =>
        simp [encSem, rowSem, SemIdx.fields, SemAmt.fields, Enc.seen, Fields.fits, semUsed, Fields.semIdx, Fields.semAmt]
        exact lor_ones rfl (by omega)
    | reg i => cases v <;> simp [encSem, rowSem, SemIdx.fields, SemAmt.fields, Enc.seen, Fields.fits, semUsed, Fields.semIdx, Fields.semAmt]

theorem semwait (o : OpSem) : Statement (.semwait o) := by
  refine command rfl rfl rfl (fun _ h => by cases h) fun hwf => ?_
  obtain ⟨c, i, v⟩ := o
  refine ⟨_, rfl, by decide, Nat.le_of_ble_eq_true rfl, Nat.ne_of_beq_eq_false rfl, rfl, ?_, ?_, ?_, rfl, ?_, ?_, ?_, ?_⟩
  · cases i <;> cases v <;> exact ⟨rfl, by simp [encSem, SemIdx.fields, SemAmt.fields] <;> omega⟩
  · intro v hv; cases hv
  · intro v hv; cases hv
  · cases i <;> cases v <;> simp [encSem, SemIdx.fields, SemAmt.fields, Fields.fits, Fields.semAmt, Fields.semIdx, rowSem, semUsed, Enc.seen, Fields.within] <;> exact lor_ones rfl (by omega)
  · intro h; cases h
  · intro h; cases h
  · cases i with
    | imm i =>
      cases v with
      | imm v =>
        have e1 : BitVec.ofNat 8 (i.toNat + v.toNat * 256) = i := BitVec.eq_of_toNat_eq (by simp only [BitVec.toNat_ofNat]; omega)
        have e2 : (i.toNat + v.toNat * 256) / 256 = v.toNat := by omega
        simp [encSem, rowSem, SemIdx.fields, SemAmt.fields, Enc.seen, Fields.fits, semUsed, Fields.semIdx, Fields.semAmt, e1, e2]
        exact lor_ones rfl (by omega)
      | reg v =>
        simp [encSem, rowSem, SemIdx.fields, SemAmt.fields, Enc.seen, Fields.fits, semUsed, Fields.semIdx, Fields.semAmt]
        exact lor_ones rfl (by omega)
    | reg i => cases v <;> simp [encSem, rowSem, SemIdx.fields, SemAmt.fields, Enc.seen, Fields.fits, semUsed, Fields.semIdx, Fields.semAmt]

theorem sembase (o : OpSem) : Statement (.sembase o) := by
  refine command rfl rfl rfl (fun _ h => by cases h) fun hwf => ?_
  obtain ⟨c, i, v⟩ := o
  refine ⟨_, rfl, by decide, Nat.le_of_ble_eq_true rfl, Nat.ne_of_beq_eq_false rfl, rfl, ?_, ?_, ?_, rfl, ?_, ?_, ?_, ?_⟩
  · cases i <;> cases v <;> exact ⟨rfl, by simp [encSem, SemIdx.fields, SemAmt.fields] <;> omega⟩
  · intro v hv; cases hv
  · intro v hv; cases hv
  · cases i <;> cases v <;> simp [encSem, SemIdx.fields, SemAmt.fields, Fields.fits, Fields.semAmt, Fields.semIdx, rowSembase, semUsed, Enc.seen, Fields.within] <;> exact lor_ones rfl (by omega)
  · intro h; cases h
  · intro h; cases h
  · cases i with
    | imm i =>
      cases v with
      | imm v =>
        have e1 : BitVec.ofNat 8 (i.toNat + v.toNat * 256) = i := BitVec.eq_of_toNat_eq (by simp only [BitVec.toNat_ofNat]; omega)
        have e2 : (i.toNat + v.toNat * 256) / 256 = v.toNat := by omega
        simp [encSem, rowSembase, SemIdx.fields, SemAmt.fields, Enc.seen, Fields.fits, semUsed, Fields.semIdx, Fields.semAmt, e1, e2]
        exact lor_ones rfl (by omega)
      | reg v =>
        simp [encSem, rowSembase, SemIdx.fields, SemAmt.fields, Enc.seen, Fields.fits, semUsed, Fields.semIdx, Fields.semAmt]
        exact lor_ones rfl (by omega)
    | reg i => cases v <;> simp [encSem, rowSembase, SemIdx.fields, SemAmt.fields, Enc.seen, Fields.fits, semUsed, Fields.semIdx, Fields.semAmt]

theorem sembaseSnap (o : OpSemI) : Statement (.sembaseSnap o) := by
  refine command rfl rfl rfl (fun _ h => by cases h) fun hwf => ?_
  obtain ⟨c, i⟩ := o
  refine ⟨_, rfl, by decide, Nat.le_of_ble_eq_true rfl, Nat.ne_of_beq_eq_false rfl, rfl, ?_, ?_, ?_, rfl, ?_, ?_, ?_, ?_⟩
  · cases i <;> exact ⟨rfl, by simp [encSemI, SemIdx.fields] <;> omega⟩
  · intro v hv; cases hv
  · intro v hv; cases hv
  · cases i <;> simp [encSemI, SemIdx.fields, Fields.fits, Fields.semAmt, Fields.semIdx, rowSembase, semUsed, Enc.seen, Fields.within]; exact lor_ones rfl (by omega)
  · intro h; cases h
  · intro h; cases h
  · cases i with
    | imm i =>
      have e1 : i.toNat ||| 255 = 255 := lor_ones rfl (by omega)
      simp [encSemI, rowSembase, SemIdx.fields, Enc.seen, Fields.fits, semUsed, Fields.semIdx, e1]
    | reg i => simp [encSemI, rowSembase, SemIdx.fields, Enc.seen, Fields.fits, semUsed, Fields.semIdx]

theorem semrd (o : OpSemD) : Statement (.semrd o) := by
  refine command rfl rfl rfl (fun _ h => by cases h) fun hwf => ?_
  obtain ⟨c, d, i⟩ := o
  have h_d := d.isLt
  refine ⟨_, rfl, by decide, Nat.le_of_ble_eq_true rfl, Nat.ne_of_beq_eq_false rfl, rfl, ?_, ?_, ?_, rfl, ?_, ?_, ?_, ?_⟩
  · cases i <;> exact ⟨rfl, by simp [encSemI, SemIdx.fields] <;> omega⟩
  · intro v hv; cases hv
  · intro v hv; cases hv
  · cases i <;> simp [encSemI, SemIdx.fields, Fields.fits, Fields.semIdx, rowSemrd, semUsed, Enc.seen, Fields.within]; exact lor_ones rfl (by omega)
  · intro h; cases h
  · intro h; cases h
  · cases i with
    | imm i =>
      have e1 : i.toNat ||| 255 = 255 := lor_ones rfl (by omega)
      simp [encSemI, rowSemrd, SemIdx.fields, Enc.seen, Fields.fits, semUsed, Fields.semIdx, e1]
    | reg i => simp [encSemI, rowSemrd, SemIdx.fields, Enc.seen, Fields.fits, semUsed, Fields.semIdx]

theorem semrdRel (o : OpSemD) : Statement (.semrdRel o) := by
  refine command rfl rfl rfl (fun _ h => by cases h) fun hwf => ?_
  obtain ⟨c, d, i⟩ := o
  have h_d := d.isLt
  refine ⟨_, rfl, by decide, Nat.le_of_ble_eq_true rfl, Nat.ne_of_beq_eq_false rfl, rfl, ?_, ?_, ?_, rfl, ?_, ?_, ?_, ?_⟩
  · cases i <;> exact ⟨rfl, by simp [encSemI, SemIdx.fields] <;> omega⟩
  · intro v hv; cases hv
  · intro v hv; cases hv
  · cases i <;> simp [encSemI, SemIdx.fields, Fields.fits, Fields.semIdx, rowSemrd, semUsed, Enc.seen, Fields.within]; exact lor_ones rfl (by omega)
  · intro h; cases h
  · intro h; cases h
  · cases i with
    | imm i =>
      have e1 : i.toNat ||| 255 = 255 := lor_ones rfl (by omega)
      simp [encSemI, rowSemrd, SemIdx.fields, Enc.seen, Fields.fits, semUsed, Fields.semIdx, e1]
    | reg i => simp [encSemI, rowSemrd, SemIdx.fields, Enc.seen, Fields.fits, semUsed, Fields.semIdx]

theorem bar (o : OpBar) : Statement (.bar o) := by
  refine command rfl rfl rfl (fun _ h => by cases h) fun hwf => ?_
  obtain ⟨c, scope, n, cnt⟩ := o
  have h_cnt := cnt.isLt
  have h_scope := barScope_lt scope
  have h_ne : scope.code ≠ 3 := by omega
  refine ⟨_, rfl, by decide, Nat.le_of_ble_eq_true rfl, Nat.ne_of_beq_eq_false rfl, rfl, ?_, ?_, ?_, rfl, ?_, ?_, ?_, ?_⟩
  · exact ⟨rfl, by simp; omega⟩
  · intro v hv; cases hv
  · intro v hv; cases hv
  · simp [rowBar, Enc.seen, Fields.within, h_ne]; (repeat' apply And.intro) <;> exact lor_ones rfl (by omega)
  · intro h; cases h
  · intro h; cases h
  · simp [rowBar, Enc.seen, h_ne]

theorem barLaunch (o : OpN) : Statement (.barLaunch o) := by
  refine command rfl rfl rfl (fun _ h => by cases h) fun hwf => ?_
  obtain ⟨c, n⟩ := o
  refine ⟨_, rfl, by decide, Nat.le_of_ble_eq_true rfl, Nat.ne_of_beq_eq_false rfl, rfl, ?_, ?_, ?_, rfl, ?_, ?_, ?_, ?_⟩
  · exact ⟨rfl, by simp; omega⟩
  · intro v hv; cases hv
  · intro v hv; cases hv
  · simp [rowBar, Enc.seen, Fields.within]; exact lor_ones rfl (by omega)
  · intro h; cases h
  · intro h; cases h
  · simp [rowBar, Enc.seen]

theorem safept (o : Op0) : Statement (.safept o) :=
  command rfl rfl rfl (fun _ h => by cases h) fun _ => good0 rfl (Nat.le_of_ble_eq_true rfl) (Nat.ne_of_beq_eq_false rfl)

theorem irrev (o : Op0) : Statement (.irrev o) :=
  command rfl rfl rfl (fun _ h => by cases h) fun _ => good0 rfl (Nat.le_of_ble_eq_true rfl) (Nat.ne_of_beq_eq_false rfl)

theorem trap (o : OpTrap) : Statement (.trap o) := by
  refine command rfl rfl rfl (fun _ h => by cases h) fun hwf => ?_
  obtain ⟨c, code⟩ := o
  have h_code := code.isLt
  refine ⟨_, rfl, by decide, Nat.le_of_ble_eq_true rfl, Nat.ne_of_beq_eq_false rfl, rfl, ?_, ?_, ?_, rfl, ?_, ?_, ?_, ?_⟩
  · exact ⟨rfl, by simp [encTrap]; omega⟩
  · intro v hv; cases hv
  · intro v hv; cases hv
  · simp [encTrap, rowTrap, Enc.seen, Fields.within]; exact lor_ones rfl (by omega)
  · intro h; cases h
  · intro h; cases h
  · simp [encTrap, rowTrap, Enc.seen, h_code]

theorem bkpt (o : OpTrap) : Statement (.bkpt o) := by
  refine command rfl rfl rfl (fun _ h => by cases h) fun hwf => ?_
  obtain ⟨c, code⟩ := o
  have h_code := code.isLt
  refine ⟨_, rfl, by decide, Nat.le_of_ble_eq_true rfl, Nat.ne_of_beq_eq_false rfl, rfl, ?_, ?_, ?_, rfl, ?_, ?_, ?_, ?_⟩
  · exact ⟨rfl, by simp [encTrap]; omega⟩
  · intro v hv; cases hv
  · intro v hv; cases hv
  · simp [encTrap, rowTrap, Enc.seen, Fields.within]; exact lor_ones rfl (by omega)
  · intro h; cases h
  · intro h; cases h
  · simp [encTrap, rowTrap, Enc.seen, h_code]

theorem pseti (o : OpPset) : Statement (.pseti o) := by
  refine command rfl rfl rfl (fun _ h => by cases h) fun hwf => ?_
  obtain ⟨c, p, v⟩ := o
  have h_p := p.isLt
  simp only [Instr.wf, decide_eq_true_eq] at hwf
  refine ⟨_, rfl, by decide, Nat.le_of_ble_eq_true rfl, Nat.ne_of_beq_eq_false rfl, rfl, ?_, ?_, ?_, rfl, ?_, ?_, ?_, ?_⟩
  · cases v <;> exact ⟨rfl, by simp [bit]⟩
  · intro v hv; cases hv
  · intro v hv; cases hv
  · cases v <;> simp [bit, rowPset, Enc.seen, Fields.within]
  · intro h; cases h
  · intro h; cases h
  · cases v <;> simp [bit, rowPset, Enc.seen, pdst_val, hwf]

theorem pmovPp (o : OpPP) : Statement (.pmovPp o) := by
  refine command rfl rfl rfl (fun _ h => by cases h) fun hwf => ?_
  obtain ⟨c, d, a⟩ := o
  have h_d := d.isLt
  have h_a := a.isLt
  simp only [Instr.wf, decide_eq_true_eq] at hwf
  refine ⟨_, rfl, by decide, Nat.le_of_ble_eq_true rfl, Nat.ne_of_beq_eq_false rfl, rfl, ?_, ?_, ?_, rfl, ?_, ?_, ?_, ?_⟩
  · exact ⟨rfl, by simp⟩
  · intro v hv; cases hv
  · intro v hv; cases hv
  · simp [rowPmov, uAB, Enc.seen, Fields.within]
  · intro h; cases h
  · intro h; cases h
  · simp [rowPmov, Enc.seen, pdst_val, hwf]

theorem pmovPs (o : OpPS) : Statement (.pmovPs o) := by
  refine command rfl rfl rfl (fun _ h => by cases h) fun hwf => ?_
  obtain ⟨c, d, a⟩ := o
  have h_d := d.isLt
  have h_a := a.isLt
  simp only [Instr.wf, decide_eq_true_eq] at hwf
  refine ⟨_, rfl, by decide, Nat.le_of_ble_eq_true rfl, Nat.ne_of_beq_eq_false rfl, rfl, ?_, ?_, ?_, rfl, ?_, ?_, ?_, ?_⟩
  · exact ⟨rfl, by simp⟩
  · intro v hv; cases hv
  · intro v hv; cases hv
  · simp [rowPmov, uAB, Enc.seen, Fields.within]
  · intro h; cases h
  · intro h; cases h
  · simp [rowPmov, Enc.seen, pdst_val, hwf]

theorem pmovSp (o : OpSP) : Statement (.pmovSp o) := by
  refine command rfl rfl rfl (fun _ h => by cases h) fun hwf => ?_
  obtain ⟨c, d, a⟩ := o
  have h_d := d.isLt
  have h_a := a.isLt
  refine ⟨_, rfl, by decide, Nat.le_of_ble_eq_true rfl, Nat.ne_of_beq_eq_false rfl, rfl, ?_, ?_, ?_, rfl, ?_, ?_, ?_, ?_⟩
  · exact ⟨rfl, by simp⟩
  · intro v hv; cases hv
  · intro v hv; cases hv
  · simp [rowPmov, uAB, Enc.seen, Fields.within]
  · intro h; cases h
  · intro h; cases h
  · simp [rowPmov, Enc.seen]

theorem pand (o : OpPPP) : Statement (.pand o) :=
  command rfl rfl rfl (fun _ h => by cases h) fun hwf => goodPPP rfl (of_decide_eq_true hwf) (Nat.le_of_ble_eq_true rfl) (Nat.ne_of_beq_eq_false rfl)

theorem por (o : OpPPP) : Statement (.por o) :=
  command rfl rfl rfl (fun _ h => by cases h) fun hwf => goodPPP rfl (of_decide_eq_true hwf) (Nat.le_of_ble_eq_true rfl) (Nat.ne_of_beq_eq_false rfl)

theorem pxor (o : OpPPP) : Statement (.pxor o) :=
  command rfl rfl rfl (fun _ h => by cases h) fun hwf => goodPPP rfl (of_decide_eq_true hwf) (Nat.le_of_ble_eq_true rfl) (Nat.ne_of_beq_eq_false rfl)

theorem pnot (o : OpPP) : Statement (.pnot o) := by
  refine command rfl rfl rfl (fun _ h => by cases h) fun hwf => ?_
  obtain ⟨c, d, a⟩ := o
  have h_d := d.isLt
  have h_a := a.isLt
  simp only [Instr.wf, decide_eq_true_eq] at hwf
  refine ⟨_, rfl, by decide, Nat.le_of_ble_eq_true rfl, Nat.ne_of_beq_eq_false rfl, rfl, ?_, ?_, ?_, rfl, ?_, ?_, ?_, ?_⟩
  · exact ⟨rfl, by simp⟩
  · intro v hv; cases hv
  · intro v hv; cases hv
  · simp [uAB, Enc.seen, Fields.within]
  · intro h; cases h
  · intro h; cases h
  · simp [Enc.seen, pdst_val, hwf]

theorem punres (o : OpP) : Statement (.punres o) := by
  refine command rfl rfl rfl (fun _ h => by cases h) fun hwf => ?_
  obtain ⟨c, d⟩ := o
  have h_d := d.isLt
  simp only [Instr.wf, decide_eq_true_eq] at hwf
  refine ⟨_, rfl, by decide, Nat.le_of_ble_eq_true rfl, Nat.ne_of_beq_eq_false rfl, rfl, ?_, ?_, ?_, rfl, ?_, ?_, ?_, ?_⟩
  · exact ⟨rfl, by simp⟩
  · intro v hv; cases hv
  · intro v hv; cases hv
  · simp [uA, Enc.seen, Fields.within]
  · intro h; cases h
  · intro h; cases h
  · simp [Enc.seen, pdst_val, hwf]

theorem cmp (o : OpCmp) : Statement (.cmp o) := by
  refine command rfl rfl rfl (fun _ h => by cases h) fun hwf => ?_
  obtain ⟨c, cc, d, a, b⟩ := o
  have h_d := d.isLt
  have h_a := a.isLt
  have h_b := b.isLt
  have h_cc := cc_lt cc
  simp only [Instr.wf, decide_eq_true_eq] at hwf
  have h_ne : cc.code < 32 := by omega
  refine ⟨_, rfl, by decide, Nat.le_of_ble_eq_true rfl, Nat.ne_of_beq_eq_false rfl, rfl, ?_, ?_, ?_, rfl, ?_, ?_, ?_, ?_⟩
  · exact ⟨rfl, by simp; omega⟩
  · intro v hv; cases hv
  · intro v hv; cases hv
  · simp [rowCmp, Enc.seen, Fields.within, h_ne]; exact lor_ones rfl (by omega)
  · intro h; cases h
  · intro h; cases h
  · simp [rowCmp, Enc.seen, h_ne, pdst_val hwf]

theorem cmpImm (o : OpCmpI) : Statement (.cmpImm o) := by
  refine command rfl rfl rfl (fun _ h => by cases h) fun hwf => ?_
  obtain ⟨c, cc, d, a, imm⟩ := o
  have h_d := d.isLt
  have h_a := a.isLt
  have h_imm := imm.isLt
  have h_cc := cc_lt cc
  simp only [Instr.wf, decide_eq_true_eq] at hwf
  refine ⟨_, rfl, by decide, Nat.le_of_ble_eq_true rfl, Nat.ne_of_beq_eq_false rfl, rfl, ?_, ?_, ?_, rfl, ?_, ?_, ?_, ?_⟩
  · exact ⟨rfl, by simp; omega⟩
  · intro v hv; cases hv
  · intro v hv; cases hv
  · simp [rowCmp, Enc.seen, Fields.within]; (repeat' apply And.intro) <;> exact lor_ones rfl (by omega)
  · intro h; cases h
  · intro h; cases h
  · simp [rowCmp, Enc.seen, pdst_val, hwf]

theorem fcmp (o : OpFcmp) : Statement (.fcmp o) := by
  refine command rfl rfl rfl (fun _ h => by cases h) fun hwf => ?_
  obtain ⟨c, cc, d, a, b⟩ := o
  have h_d := d.isLt
  have h_a := a.isLt
  have h_b := b.isLt
  have h_cc := fcc_lt cc
  simp only [Instr.wf, decide_eq_true_eq] at hwf
  refine ⟨_, rfl, by decide, Nat.le_of_ble_eq_true rfl, Nat.ne_of_beq_eq_false rfl, rfl, ?_, ?_, ?_, rfl, ?_, ?_, ?_, ?_⟩
  · exact ⟨rfl, by simp; omega⟩
  · intro v hv; cases hv
  · intro v hv; cases hv
  · simp [rowFcmp, uABC, Enc.seen, Fields.within]; exact lor_ones rfl (by omega)
  · intro h; cases h
  · intro h; cases h
  · simp [rowFcmp, Enc.seen, pdst_val, hwf]

theorem vany (o : OpVote) : Statement (.vany o) := by
  refine command rfl rfl rfl (fun _ h => by cases h) fun hwf => ?_
  obtain ⟨c, d, a, n, off⟩ := o
  have h_d := d.isLt
  have h_a := a.isLt
  have h_n := n.isLt
  have h_off := off.isLt
  simp only [Instr.wf, decide_eq_true_eq] at hwf
  refine ⟨_, rfl, by decide, Nat.le_of_ble_eq_true rfl, Nat.ne_of_beq_eq_false rfl, rfl, ?_, ?_, ?_, rfl, ?_, ?_, ?_, ?_⟩
  · exact ⟨rfl, by simp [encVote]; omega⟩
  · intro v hv; cases hv
  · intro v hv; cases hv
  · simp [encVote, rowVote, uABC, Enc.seen, Fields.within]; exact lor_ones rfl (by omega)
  · intro h; cases h
  · intro h; cases h
  · simp [encVote, rowVote, Enc.seen, pdst_val, hwf]

theorem vall (o : OpVote) : Statement (.vall o) := by
  refine command rfl rfl rfl (fun _ h => by cases h) fun hwf => ?_
  obtain ⟨c, d, a, n, off⟩ := o
  have h_d := d.isLt
  have h_a := a.isLt
  have h_n := n.isLt
  have h_off := off.isLt
  simp only [Instr.wf, decide_eq_true_eq] at hwf
  refine ⟨_, rfl, by decide, Nat.le_of_ble_eq_true rfl, Nat.ne_of_beq_eq_false rfl, rfl, ?_, ?_, ?_, rfl, ?_, ?_, ?_, ?_⟩
  · exact ⟨rfl, by simp [encVote]; omega⟩
  · intro v hv; cases hv
  · intro v hv; cases hv
  · simp [encVote, rowVote, uABC, Enc.seen, Fields.within]; exact lor_ones rfl (by omega)
  · intro h; cases h
  · intro h; cases h
  · simp [encVote, rowVote, Enc.seen, pdst_val, hwf]

theorem ptb (o : OpPtb) : Statement (.ptb o) := by
  refine command rfl rfl rfl (fun _ h => by cases h) fun hwf => ?_
  obtain ⟨c, b, off⟩ := o
  have h_b := b.isLt
  have h_off := off.isLt
  simp only [Instr.wf, decide_eq_true_eq] at hwf
  refine ⟨_, rfl, by decide, Nat.le_of_ble_eq_true rfl, Nat.ne_of_beq_eq_false rfl, rfl, ?_, ?_, ?_, rfl, ?_, ?_, ?_, ?_⟩
  · exact ⟨rfl, by simp; omega⟩
  · intro v hv; cases hv
  · intro v hv; cases hv
  · simp [Enc.seen, Fields.within]; exact lor_ones rfl (by omega)
  · intro h; cases h
  · intro h; cases h
  · simp [Enc.seen, hwf]

theorem ptbr (o : OpPtbr) : Statement (.ptbr o) := by
  refine command rfl rfl rfl (fun _ h => by cases h) fun hwf => ?_
  obtain ⟨c, b, a, off⟩ := o
  have h_b := b.isLt
  have h_a := a.isLt
  have h_off := off.isLt
  simp only [Instr.wf, decide_eq_true_eq] at hwf
  refine ⟨_, rfl, by decide, Nat.le_of_ble_eq_true rfl, Nat.ne_of_beq_eq_false rfl, rfl, ?_, ?_, ?_, rfl, ?_, ?_, ?_, ?_⟩
  · exact ⟨rfl, by simp; omega⟩
  · intro v hv; cases hv
  · intro v hv; cases hv
  · simp [Enc.seen, Fields.within]; exact lor_ones rfl (by omega)
  · intro h; cases h
  · intro h; cases h
  · simp [Enc.seen, hwf]

theorem br (o : OpBr) : Statement (.br o) := by
  refine command rfl rfl rfl (fun _ h => by cases h) fun hwf => ?_
  obtain ⟨c, b, neg, p⟩ := o
  have h_b := b.isLt
  have h_p := p.isLt
  refine ⟨_, rfl, by decide, Nat.le_of_ble_eq_true rfl, Nat.ne_of_beq_eq_false rfl, rfl, ?_, ?_, ?_, rfl, ?_, ?_, ?_, ?_⟩
  · cases neg <;> exact ⟨rfl, by simp [bit]⟩
  · intro v hv; cases hv
  · intro v hv; cases hv
  · cases neg <;> simp [bit, Enc.seen, Fields.within]
  · intro h; cases h
  · intro h; cases h
  · cases neg <;> simp [bit, Enc.seen]

theorem call (o : OpB) : Statement (.call o) := by
  refine command rfl rfl rfl (fun _ h => by cases h) fun hwf => ?_
  obtain ⟨c, b⟩ := o
  have h_b := b.isLt
  refine ⟨_, rfl, by decide, Nat.le_of_ble_eq_true rfl, Nat.ne_of_beq_eq_false rfl, rfl, ?_, ?_, ?_, rfl, ?_, ?_, ?_, ?_⟩
  · exact ⟨rfl, by simp⟩
  · intro v hv; cases hv
  · intro v hv; cases hv
  · simp [Enc.seen, Fields.within]
  · intro h; cases h
  · intro h; cases h
  · simp [Enc.seen]

theorem ret (o : Op0) : Statement (.ret o) :=
  command rfl rfl rfl (fun _ h => by cases h) fun _ => good0 rfl (Nat.le_of_ble_eq_true rfl) (Nat.ne_of_beq_eq_false rfl)

theorem loop (o : OpLoop) : Statement (.loop o) := by
  refine command rfl rfl rfl (fun _ h => by cases h) fun hwf => ?_
  obtain ⟨c, cnt, stop⟩ := o
  have h_cnt := cnt.isLt
  have h_stop := stop.isLt
  simp only [Instr.wf, decide_eq_true_eq] at hwf
  have e1 : cnt.toNat ||| 65535 = 65535 := lor_ones rfl (by omega)
  have e2 : stop.toNat ||| 65535 = 65535 := lor_ones rfl (by omega)
  refine ⟨_, rfl, by decide, Nat.le_of_ble_eq_true rfl, Nat.ne_of_beq_eq_false rfl, rfl, ?_, ?_, ?_, rfl, ?_, ?_, ?_, ?_⟩
  · exact ⟨rfl, by simp; omega⟩
  · intro v hv; cases hv
  · intro v hv; cases hv
  · have e3 : 3 ||| 65535 = 65535 := lor_ones rfl (by omega)
    simp [Enc.seen, Fields.within, e1, e2, e3]
  · intro h; cases h
  · intro h; cases h
  · simp [Enc.seen, hwf]

theorem loopr (o : OpLoopr) : Statement (.loopr o) := by
  refine command rfl rfl rfl (fun _ h => by cases h) fun hwf => ?_
  obtain ⟨c, a, stop⟩ := o
  have h_a := a.isLt
  have h_stop := stop.isLt
  simp only [Instr.wf, decide_eq_true_eq] at hwf
  have e2 : stop.toNat ||| 65535 = 65535 := lor_ones rfl (by omega)
  refine ⟨_, rfl, by decide, Nat.le_of_ble_eq_true rfl, Nat.ne_of_beq_eq_false rfl, rfl, ?_, ?_, ?_, rfl, ?_, ?_, ?_, ?_⟩
  · exact ⟨rfl, by simp; omega⟩
  · intro v hv; cases hv
  · intro v hv; cases hv
  · have e3 : 3 ||| 65535 = 65535 := lor_ones rfl (by omega)
    simp [Enc.seen, Fields.within, e2, e3]
  · intro h; cases h
  · intro h; cases h
  · simp [Enc.seen, hwf]

theorem lexit (o : Op0) : Statement (.lexit o) :=
  command rfl rfl rfl (fun _ h => by cases h) fun _ => good0 rfl (Nat.le_of_ble_eq_true rfl) (Nat.ne_of_beq_eq_false rfl)

theorem qpush (o : OpQS) : Statement (.qpush o) := by
  refine command rfl rfl rfl (fun _ h => by cases h) fun hwf => ?_
  obtain ⟨c, q, a⟩ := o
  have h_q := q.isLt
  have h_a := a.isLt
  refine ⟨_, rfl, by decide, Nat.le_of_ble_eq_true rfl, Nat.ne_of_beq_eq_false rfl, rfl, ?_, ?_, ?_, rfl, ?_, ?_, ?_, ?_⟩
  · exact ⟨rfl, by simp; omega⟩
  · intro v hv; cases hv
  · intro v hv; cases hv
  · simp [uAB, Enc.seen, Fields.within]
  · intro h; cases h
  · intro h; cases h
  · simp [Enc.seen]

theorem qpop (o : OpSQ) : Statement (.qpop o) := by
  refine command rfl rfl rfl (fun _ h => by cases h) fun hwf => ?_
  obtain ⟨c, d, q⟩ := o
  have h_d := d.isLt
  have h_q := q.isLt
  refine ⟨_, rfl, by decide, Nat.le_of_ble_eq_true rfl, Nat.ne_of_beq_eq_false rfl, rfl, ?_, ?_, ?_, rfl, ?_, ?_, ?_, ?_⟩
  · exact ⟨rfl, by simp [encSQ]; omega⟩
  · intro v hv; cases hv
  · intro v hv; cases hv
  · simp [encSQ, uAB, Enc.seen, Fields.within]
  · intro h; cases h
  · intro h; cases h
  · simp [encSQ, Enc.seen]

theorem qpeek (o : OpSQ) : Statement (.qpeek o) := by
  refine command rfl rfl rfl (fun _ h => by cases h) fun hwf => ?_
  obtain ⟨c, d, q⟩ := o
  have h_d := d.isLt
  have h_q := q.isLt
  refine ⟨_, rfl, by decide, Nat.le_of_ble_eq_true rfl, Nat.ne_of_beq_eq_false rfl, rfl, ?_, ?_, ?_, rfl, ?_, ?_, ?_, ?_⟩
  · exact ⟨rfl, by simp [encSQ]; omega⟩
  · intro v hv; cases hv
  · intro v hv; cases hv
  · simp [encSQ, uAB, Enc.seen, Fields.within]
  · intro h; cases h
  · intro h; cases h
  · simp [encSQ, Enc.seen]

theorem qpushp (o : OpQP) : Statement (.qpushp o) := by
  refine command rfl rfl rfl (fun _ h => by cases h) fun hwf => ?_
  obtain ⟨c, q, p⟩ := o
  have h_q := q.isLt
  have h_p := p.isLt
  refine ⟨_, rfl, by decide, Nat.le_of_ble_eq_true rfl, Nat.ne_of_beq_eq_false rfl, rfl, ?_, ?_, ?_, rfl, ?_, ?_, ?_, ?_⟩
  · exact ⟨rfl, by simp; omega⟩
  · intro v hv; cases hv
  · intro v hv; cases hv
  · simp [uAB, Enc.seen, Fields.within]
  · intro h; cases h
  · intro h; cases h
  · simp [Enc.seen]

theorem qpopp (o : OpPQ) : Statement (.qpopp o) := by
  refine command rfl rfl rfl (fun _ h => by cases h) fun hwf => ?_
  obtain ⟨c, p, q⟩ := o
  have h_p := p.isLt
  have h_q := q.isLt
  simp only [Instr.wf, decide_eq_true_eq] at hwf
  refine ⟨_, rfl, by decide, Nat.le_of_ble_eq_true rfl, Nat.ne_of_beq_eq_false rfl, rfl, ?_, ?_, ?_, rfl, ?_, ?_, ?_, ?_⟩
  · exact ⟨rfl, by simp; omega⟩
  · intro v hv; cases hv
  · intro v hv; cases hv
  · simp [uAB, Enc.seen, Fields.within]
  · intro h; cases h
  · intro h; cases h
  · simp [Enc.seen, pdst_val, hwf]

theorem qlen (o : OpSQ) : Statement (.qlen o) := by
  refine command rfl rfl rfl (fun _ h => by cases h) fun hwf => ?_
  obtain ⟨c, d, q⟩ := o
  have h_d := d.isLt
  have h_q := q.isLt
  refine ⟨_, rfl, by decide, Nat.le_of_ble_eq_true rfl, Nat.ne_of_beq_eq_false rfl, rfl, ?_, ?_, ?_, rfl, ?_, ?_, ?_, ?_⟩
  · exact ⟨rfl, by simp [encSQ]; omega⟩
  · intro v hv; cases hv
  · intro v hv; cases hv
  · simp [encSQ, uAB, Enc.seen, Fields.within]
  · intro h; cases h
  · intro h; cases h
  · simp [encSQ, Enc.seen]

theorem add (o : Op3) : Statement (.add o) :=
  command rfl rfl rfl (fun _ h => by cases h) fun _ => good3 rfl (Nat.le_of_ble_eq_true rfl) (Nat.ne_of_beq_eq_false rfl)

theorem addi (o : OpI) : Statement (.addi o) :=
  command rfl rfl rfl (fun _ h => by cases h) fun _ => goodI rfl (Nat.le_of_ble_eq_true rfl) (Nat.ne_of_beq_eq_false rfl)

theorem sub (o : Op3) : Statement (.sub o) :=
  command rfl rfl rfl (fun _ h => by cases h) fun _ => good3 rfl (Nat.le_of_ble_eq_true rfl) (Nat.ne_of_beq_eq_false rfl)

theorem mul (o : Op3) : Statement (.mul o) :=
  command rfl rfl rfl (fun _ h => by cases h) fun _ => good3 rfl (Nat.le_of_ble_eq_true rfl) (Nat.ne_of_beq_eq_false rfl)

theorem mulh (o : Op3) : Statement (.mulh o) :=
  command rfl rfl rfl (fun _ h => by cases h) fun _ => good3 rfl (Nat.le_of_ble_eq_true rfl) (Nat.ne_of_beq_eq_false rfl)

theorem mulhu (o : Op3) : Statement (.mulhu o) :=
  command rfl rfl rfl (fun _ h => by cases h) fun _ => good3 rfl (Nat.le_of_ble_eq_true rfl) (Nat.ne_of_beq_eq_false rfl)

theorem div (o : Op3) : Statement (.div o) :=
  command rfl rfl rfl (fun _ h => by cases h) fun _ => good3 rfl (Nat.le_of_ble_eq_true rfl) (Nat.ne_of_beq_eq_false rfl)

theorem divu (o : Op3) : Statement (.divu o) :=
  command rfl rfl rfl (fun _ h => by cases h) fun _ => good3 rfl (Nat.le_of_ble_eq_true rfl) (Nat.ne_of_beq_eq_false rfl)

theorem rem (o : Op3) : Statement (.rem o) :=
  command rfl rfl rfl (fun _ h => by cases h) fun _ => good3 rfl (Nat.le_of_ble_eq_true rfl) (Nat.ne_of_beq_eq_false rfl)

theorem remu (o : Op3) : Statement (.remu o) :=
  command rfl rfl rfl (fun _ h => by cases h) fun _ => good3 rfl (Nat.le_of_ble_eq_true rfl) (Nat.ne_of_beq_eq_false rfl)

theorem and (o : Op3) : Statement (.and o) :=
  command rfl rfl rfl (fun _ h => by cases h) fun _ => good3 rfl (Nat.le_of_ble_eq_true rfl) (Nat.ne_of_beq_eq_false rfl)

theorem andi (o : OpI) : Statement (.andi o) :=
  command rfl rfl rfl (fun _ h => by cases h) fun _ => goodI rfl (Nat.le_of_ble_eq_true rfl) (Nat.ne_of_beq_eq_false rfl)

theorem or (o : Op3) : Statement (.or o) :=
  command rfl rfl rfl (fun _ h => by cases h) fun _ => good3 rfl (Nat.le_of_ble_eq_true rfl) (Nat.ne_of_beq_eq_false rfl)

theorem ori (o : OpI) : Statement (.ori o) :=
  command rfl rfl rfl (fun _ h => by cases h) fun _ => goodI rfl (Nat.le_of_ble_eq_true rfl) (Nat.ne_of_beq_eq_false rfl)

theorem xor (o : Op3) : Statement (.xor o) :=
  command rfl rfl rfl (fun _ h => by cases h) fun _ => good3 rfl (Nat.le_of_ble_eq_true rfl) (Nat.ne_of_beq_eq_false rfl)

theorem xori (o : OpI) : Statement (.xori o) :=
  command rfl rfl rfl (fun _ h => by cases h) fun _ => goodI rfl (Nat.le_of_ble_eq_true rfl) (Nat.ne_of_beq_eq_false rfl)

theorem shl (o : Op3) : Statement (.shl o) :=
  command rfl rfl rfl (fun _ h => by cases h) fun _ => good3 rfl (Nat.le_of_ble_eq_true rfl) (Nat.ne_of_beq_eq_false rfl)

theorem shli (o : OpSh) : Statement (.shli o) :=
  command rfl rfl rfl (fun _ h => by cases h) fun _ => goodSh rfl (Nat.le_of_ble_eq_true rfl) (Nat.ne_of_beq_eq_false rfl)

theorem shr (o : Op3) : Statement (.shr o) :=
  command rfl rfl rfl (fun _ h => by cases h) fun _ => good3 rfl (Nat.le_of_ble_eq_true rfl) (Nat.ne_of_beq_eq_false rfl)

theorem shri (o : OpSh) : Statement (.shri o) :=
  command rfl rfl rfl (fun _ h => by cases h) fun _ => goodSh rfl (Nat.le_of_ble_eq_true rfl) (Nat.ne_of_beq_eq_false rfl)

theorem sra (o : Op3) : Statement (.sra o) :=
  command rfl rfl rfl (fun _ h => by cases h) fun _ => good3 rfl (Nat.le_of_ble_eq_true rfl) (Nat.ne_of_beq_eq_false rfl)

theorem srai (o : OpSh) : Statement (.srai o) :=
  command rfl rfl rfl (fun _ h => by cases h) fun _ => goodSh rfl (Nat.le_of_ble_eq_true rfl) (Nat.ne_of_beq_eq_false rfl)

theorem min (o : Op3) : Statement (.min o) :=
  command rfl rfl rfl (fun _ h => by cases h) fun _ => good3 rfl (Nat.le_of_ble_eq_true rfl) (Nat.ne_of_beq_eq_false rfl)

theorem max (o : Op3) : Statement (.max o) :=
  command rfl rfl rfl (fun _ h => by cases h) fun _ => good3 rfl (Nat.le_of_ble_eq_true rfl) (Nat.ne_of_beq_eq_false rfl)

theorem minu (o : Op3) : Statement (.minu o) :=
  command rfl rfl rfl (fun _ h => by cases h) fun _ => good3 rfl (Nat.le_of_ble_eq_true rfl) (Nat.ne_of_beq_eq_false rfl)

theorem maxu (o : Op3) : Statement (.maxu o) :=
  command rfl rfl rfl (fun _ h => by cases h) fun _ => good3 rfl (Nat.le_of_ble_eq_true rfl) (Nat.ne_of_beq_eq_false rfl)

theorem clz (o : Op2) : Statement (.clz o) :=
  command rfl rfl rfl (fun _ h => by cases h) fun _ => good2 rfl (Nat.le_of_ble_eq_true rfl) (Nat.ne_of_beq_eq_false rfl)

theorem ctz (o : Op2) : Statement (.ctz o) :=
  command rfl rfl rfl (fun _ h => by cases h) fun _ => good2 rfl (Nat.le_of_ble_eq_true rfl) (Nat.ne_of_beq_eq_false rfl)

theorem popc (o : Op2) : Statement (.popc o) :=
  command rfl rfl rfl (fun _ h => by cases h) fun _ => good2 rfl (Nat.le_of_ble_eq_true rfl) (Nat.ne_of_beq_eq_false rfl)

theorem sel (o : OpSel) : Statement (.sel o) := by
  refine command rfl rfl rfl (fun _ h => by cases h) fun hwf => ?_
  obtain ⟨c, d, p, a, b⟩ := o
  have h_d := d.isLt
  have h_p := p.isLt
  have h_a := a.isLt
  have h_b := b.isLt
  refine ⟨_, rfl, by decide, Nat.le_of_ble_eq_true rfl, Nat.ne_of_beq_eq_false rfl, rfl, ?_, ?_, ?_, rfl, ?_, ?_, ?_, ?_⟩
  · exact ⟨rfl, by simp⟩
  · intro v hv; cases hv
  · intro v hv; cases hv
  · simp [uABCD, Enc.seen, Fields.within]
  · intro h; cases h
  · intro h; cases h
  · simp [Enc.seen]

theorem movi (o : OpMovi) : Statement (.movi o) := by
  refine command rfl rfl rfl (fun _ h => by cases h) fun hwf => ?_
  obtain ⟨c, d, imm⟩ := o
  have h_d := d.isLt
  have h_lt := immOf_lt 32 imm
  refine ⟨_, rfl, by decide, Nat.le_of_ble_eq_true rfl, Nat.ne_of_beq_eq_false rfl, rfl, ?_, ?_, ?_, rfl, ?_, ?_, ?_, ?_⟩
  · exact ⟨rfl, by simp; omega⟩
  · intro v hv; exact ⟨(immOf_ext hv).1, Or.inl rfl, (immOf_ext hv).2, rfl⟩
  · intro v hv; cases hv
  · simp [Enc.seen, Fields.within]
  · intro h; cases h
  · intro h; cases h
  · simp [Enc.seen]

theorem movhi (o : OpMovhi) : Statement (.movhi o) := by
  refine command rfl rfl rfl (fun _ h => by cases h) fun hwf => ?_
  obtain ⟨c, d, imm⟩ := o
  have h_d := d.isLt
  have h_imm := imm.isLt
  refine ⟨_, rfl, by decide, Nat.le_of_ble_eq_true rfl, Nat.ne_of_beq_eq_false rfl, rfl, ?_, ?_, ?_, rfl, ?_, ?_, ?_, ?_⟩
  · exact ⟨rfl, by simp; omega⟩
  · intro v hv; cases hv
  · intro v hv; cases hv
  · simp [Enc.seen, Fields.within]; exact lor_ones rfl (by omega)
  · intro h; cases h
  · intro h; cases h
  · simp [Enc.seen, h_imm]

theorem mov (o : Op2) : Statement (.mov o) :=
  command rfl rfl rfl (fun _ h => by cases h) fun _ => good2 rfl (Nat.le_of_ble_eq_true rfl) (Nat.ne_of_beq_eq_false rfl)

theorem abs (o : Op2) : Statement (.abs o) :=
  command rfl rfl rfl (fun _ h => by cases h) fun _ => good2 rfl (Nat.le_of_ble_eq_true rfl) (Nat.ne_of_beq_eq_false rfl)

theorem bfx (o : OpBf) : Statement (.bfx o) := by
  refine command rfl rfl rfl (fun _ h => by cases h) fun hwf => ?_
  obtain ⟨c, d, a, pos, len⟩ := o
  have h_d := d.isLt
  have h_a := a.isLt
  have h_pos := pos.isLt
  have h_len := len.isLt
  simp only [Instr.wf] at hwf
  have e1 : (pos.toNat * 128 + len.toNat) / 128 = pos.toNat := by omega
  have e2 : BitVec.ofNat 7 (pos.toNat * 128 + len.toNat) = len := BitVec.eq_of_toNat_eq (by simp only [BitVec.toNat_ofNat]; omega)
  refine ⟨_, rfl, by decide, Nat.le_of_ble_eq_true rfl, Nat.ne_of_beq_eq_false rfl, rfl, ?_, ?_, ?_, rfl, ?_, ?_, ?_, ?_⟩
  · exact ⟨rfl, by simp [encBf]; omega⟩
  · intro v hv; cases hv
  · intro v hv; cases hv
  · simp [encBf, uAB, Enc.seen, Fields.within]; exact lor_ones rfl (by omega)
  · intro h; cases h
  · intro h; cases h
  · simp only [OpBf.ok] at hwf
    simp [encBf, Enc.seen, bfOf, OpBf.ok, e1, e2, hwf]

theorem bfxS (o : OpBf) : Statement (.bfxS o) := by
  refine command rfl rfl rfl (fun _ h => by cases h) fun hwf => ?_
  obtain ⟨c, d, a, pos, len⟩ := o
  have h_d := d.isLt
  have h_a := a.isLt
  have h_pos := pos.isLt
  have h_len := len.isLt
  simp only [Instr.wf] at hwf
  have e1 : (pos.toNat * 128 + len.toNat) / 128 = pos.toNat := by omega
  have e2 : BitVec.ofNat 7 (pos.toNat * 128 + len.toNat) = len := BitVec.eq_of_toNat_eq (by simp only [BitVec.toNat_ofNat]; omega)
  refine ⟨_, rfl, by decide, Nat.le_of_ble_eq_true rfl, Nat.ne_of_beq_eq_false rfl, rfl, ?_, ?_, ?_, rfl, ?_, ?_, ?_, ?_⟩
  · exact ⟨rfl, by simp [encBf]; omega⟩
  · intro v hv; cases hv
  · intro v hv; cases hv
  · simp [encBf, uAB, Enc.seen, Fields.within]; exact lor_ones rfl (by omega)
  · intro h; cases h
  · intro h; cases h
  · simp only [OpBf.ok] at hwf
    simp [encBf, Enc.seen, bfOf, OpBf.ok, e1, e2, hwf]

theorem bfi (o : OpBf) : Statement (.bfi o) := by
  refine command rfl rfl rfl (fun _ h => by cases h) fun hwf => ?_
  obtain ⟨c, d, a, pos, len⟩ := o
  have h_d := d.isLt
  have h_a := a.isLt
  have h_pos := pos.isLt
  have h_len := len.isLt
  simp only [Instr.wf] at hwf
  have e1 : (pos.toNat * 128 + len.toNat) / 128 = pos.toNat := by omega
  have e2 : BitVec.ofNat 7 (pos.toNat * 128 + len.toNat) = len := BitVec.eq_of_toNat_eq (by simp only [BitVec.toNat_ofNat]; omega)
  refine ⟨_, rfl, by decide, Nat.le_of_ble_eq_true rfl, Nat.ne_of_beq_eq_false rfl, rfl, ?_, ?_, ?_, rfl, ?_, ?_, ?_, ?_⟩
  · exact ⟨rfl, by simp [encBf]; omega⟩
  · intro v hv; cases hv
  · intro v hv; cases hv
  · simp [encBf, uAB, Enc.seen, Fields.within]; exact lor_ones rfl (by omega)
  · intro h; cases h
  · intro h; cases h
  · simp only [OpBf.ok] at hwf
    simp [encBf, Enc.seen, bfOf, OpBf.ok, e1, e2, hwf]

theorem lea (o : OpLea) : Statement (.lea o) := by
  refine command rfl rfl rfl (fun _ h => by cases h) fun hwf => ?_
  obtain ⟨c, d, a, b, sh, off⟩ := o
  have h_d := d.isLt
  have h_a := a.isLt
  have h_b := b.isLt
  have h_sh := sh.isLt
  have h_off := off.isLt
  refine ⟨_, rfl, by decide, Nat.le_of_ble_eq_true rfl, Nat.ne_of_beq_eq_false rfl, rfl, ?_, ?_, ?_, rfl, ?_, ?_, ?_, ?_⟩
  · exact ⟨rfl, by simp; omega⟩
  · intro v hv; cases hv
  · intro v hv; cases hv
  · simp [uABC, Enc.seen, Fields.within]; (repeat' apply And.intro) <;> exact lor_ones rfl (by omega)
  · intro h; cases h
  · intro h; cases h
  · simp [Enc.seen]

theorem fadd (o : Op3) : Statement (.fadd o) :=
  command rfl rfl rfl (fun _ h => by cases h) fun _ => good3 rfl (Nat.le_of_ble_eq_true rfl) (Nat.ne_of_beq_eq_false rfl)

theorem fsub (o : Op3) : Statement (.fsub o) :=
  command rfl rfl rfl (fun _ h => by cases h) fun _ => good3 rfl (Nat.le_of_ble_eq_true rfl) (Nat.ne_of_beq_eq_false rfl)

theorem fmul (o : Op3) : Statement (.fmul o) :=
  command rfl rfl rfl (fun _ h => by cases h) fun _ => good3 rfl (Nat.le_of_ble_eq_true rfl) (Nat.ne_of_beq_eq_false rfl)

theorem ffma (o : Op4) : Statement (.ffma o) := by
  refine command rfl rfl rfl (fun _ h => by cases h) fun hwf => ?_
  obtain ⟨c, d, a, b, e⟩ := o
  have h_d := d.isLt
  have h_a := a.isLt
  have h_b := b.isLt
  have h_e := e.isLt
  refine ⟨_, rfl, by decide, Nat.le_of_ble_eq_true rfl, Nat.ne_of_beq_eq_false rfl, rfl, ?_, ?_, ?_, rfl, ?_, ?_, ?_, ?_⟩
  · exact ⟨rfl, by simp⟩
  · intro v hv; cases hv
  · intro v hv; cases hv
  · simp [uABCD, Enc.seen, Fields.within]
  · intro h; cases h
  · intro h; cases h
  · simp [Enc.seen]

theorem fdiv (o : Op3) : Statement (.fdiv o) :=
  command rfl rfl rfl (fun _ h => by cases h) fun _ => good3 rfl (Nat.le_of_ble_eq_true rfl) (Nat.ne_of_beq_eq_false rfl)

theorem fsqrt (o : Op2) : Statement (.fsqrt o) :=
  command rfl rfl rfl (fun _ h => by cases h) fun _ => good2 rfl (Nat.le_of_ble_eq_true rfl) (Nat.ne_of_beq_eq_false rfl)

theorem fmin (o : Op3) : Statement (.fmin o) :=
  command rfl rfl rfl (fun _ h => by cases h) fun _ => good3 rfl (Nat.le_of_ble_eq_true rfl) (Nat.ne_of_beq_eq_false rfl)

theorem fmax (o : Op3) : Statement (.fmax o) :=
  command rfl rfl rfl (fun _ h => by cases h) fun _ => good3 rfl (Nat.le_of_ble_eq_true rfl) (Nat.ne_of_beq_eq_false rfl)

theorem fabs (o : Op2) : Statement (.fabs o) :=
  command rfl rfl rfl (fun _ h => by cases h) fun _ => good2 rfl (Nat.le_of_ble_eq_true rfl) (Nat.ne_of_beq_eq_false rfl)

theorem fneg (o : Op2) : Statement (.fneg o) :=
  command rfl rfl rfl (fun _ h => by cases h) fun _ => good2 rfl (Nat.le_of_ble_eq_true rfl) (Nat.ne_of_beq_eq_false rfl)

theorem fcvt (o : OpFcvt) : Statement (.fcvt o) := by
  refine command rfl rfl rfl (fun _ h => by cases h) fun hwf => ?_
  obtain ⟨c, d, a, src, dst⟩ := o
  have h_d := d.isLt
  have h_a := a.isLt
  have h_src := src.isLt
  have h_dst := dst.isLt
  have e1 : (src.val * 16 + dst.val) / 16 = src.val := by omega
  have e2 : dst.val % 16 = dst.val := by omega
  refine ⟨_, rfl, by decide, Nat.le_of_ble_eq_true rfl, Nat.ne_of_beq_eq_false rfl, rfl, ?_, ?_, ?_, rfl, ?_, ?_, ?_, ?_⟩
  · exact ⟨rfl, by simp; omega⟩
  · intro v hv; cases hv
  · intro v hv; cases hv
  · simp [uAB, Enc.seen, Fields.within]; exact lor_ones rfl (by omega)
  · intro h; cases h
  · intro h; cases h
  · simp [Enc.seen, e1, e2]

theorem fclass (o : OpFclass) : Statement (.fclass o) := by
  refine command rfl rfl rfl (fun _ h => by cases h) fun hwf => ?_
  obtain ⟨c, d, a, fmt⟩ := o
  have h_d := d.isLt
  have h_a := a.isLt
  have h_fmt := fmt.isLt
  simp only [Instr.wf, decide_eq_true_eq] at hwf
  refine ⟨_, rfl, by decide, Nat.le_of_ble_eq_true rfl, Nat.ne_of_beq_eq_false rfl, rfl, ?_, ?_, ?_, rfl, ?_, ?_, ?_, ?_⟩
  · exact ⟨rfl, by simp; omega⟩
  · intro v hv; cases hv
  · intro v hv; cases hv
  · simp [uAB, Enc.seen, Fields.within]; exact lor_ones rfl (by omega)
  · intro h; cases h
  · intro h; cases h
  · have h : fmt ≠ 0 := fun h => by rw [h] at hwf; exact absurd hwf (by decide)
    simp [Enc.seen, h]

theorem csrr (o : OpCsrr) : Statement (.csrr o) := by
  refine command rfl rfl rfl (fun _ h => by cases h) fun hwf => ?_
  obtain ⟨c, d, n⟩ := o
  have h_d := d.isLt
  have h_n := n.isLt
  simp only [Instr.wf] at hwf
  refine ⟨_, rfl, by decide, Nat.le_of_ble_eq_true rfl, Nat.ne_of_beq_eq_false rfl, rfl, ?_, ?_, ?_, rfl, ?_, ?_, ?_, ?_⟩
  · exact ⟨rfl, by simp; omega⟩
  · intro v hv; cases hv
  · intro v hv; cases hv
  · simp [Enc.seen, Fields.within]; exact lor_ones rfl (by omega)
  · intro h; cases h
  · intro h; cases h
  · simp [Enc.seen, hwf, h_n]

theorem csrw (o : OpCsrw) : Statement (.csrw o) := by
  refine command rfl rfl rfl (fun _ h => by cases h) fun hwf => ?_
  obtain ⟨c, d, n, src⟩ := o
  have h_d := d.isLt
  have h_n := n.isLt
  simp only [Instr.wf] at hwf
  simp only [csrPlain, Bool.and_eq_true, Bool.not_eq_true', decide_eq_true_eq] at hwf
  obtain ⟨⟨⟨h_as, h_rw⟩, h_dep'⟩, h_t'⟩ := hwf
  have h_dep : n ≠ 40#12 := fun h => h_dep' (by rw [h]; rfl)
  have h_t : ¬ 64 ≤ n.toNat := by omega
  refine ⟨_, rfl, by decide, Nat.le_of_ble_eq_true rfl, Nat.ne_of_beq_eq_false rfl, rfl, ?_, ?_, ?_, rfl, ?_, ?_, ?_, ?_⟩
  · cases src <;> exact ⟨rfl, by simp [encCsr, CsrSrc.fields]; omega⟩
  · intro v hv; cases hv
  · intro v hv; cases hv
  · cases src <;> simp [encCsr, CsrSrc.fields, Fields.csrSrc, Fields.fits, csrwOf, rowCsr, csrUsed, Enc.seen, Fields.within] <;> exact lor_ones rfl (by omega)
  · intro h; cases h
  · intro h; cases h
  · cases src with
    | imm v =>
      have e1 : (v.toNat * 4096 + n.toNat) / 4096 = v.toNat := by omega
      have e2 : (v.toNat * 4096 + n.toNat) % 4096 = n.toNat := by omega
      have e3 : BitVec.ofNat 12 (v.toNat * 4096 + n.toNat) = BitVec.ofNat 12 n.toNat := BitVec.eq_of_toNat_eq (by simp only [BitVec.toNat_ofNat]; omega)
      have e4 : v.toNat * 4096 + n.toNat ||| 4294967295 = 4294967295 := lor_ones rfl (by omega)
      simp only [encCsr, CsrSrc.fields, Enc.seen, rowCsr, csrwOf, csrUsed, Fields.fits, Fields.csrSrc, e1, e2, e3, Option.getD_none]
      simp [h_rw, h_dep, h_t, h_as, e4]
    | reg r =>
      have e2 : (0 + n.toNat) % 4096 = n.toNat := by omega
      have e3 : BitVec.ofNat 12 (0 + n.toNat) = BitVec.ofNat 12 n.toNat := by rw [Nat.zero_add]
      have e4 : 0 + n.toNat ||| 4095 = 4095 := lor_ones rfl (by omega)
      have e5 : n.toNat ||| 4095 = 4095 := lor_ones rfl (by omega)
      simp only [encCsr, CsrSrc.fields, Enc.seen, rowCsr, csrwOf, csrUsed, Fields.fits, Fields.csrSrc, e2, e3, Option.getD_none]
      simp [h_rw, h_dep, h_t, h_as, e5]

theorem csrs (o : OpCsrw) : Statement (.csrs o) := by
  refine command rfl rfl rfl (fun _ h => by cases h) fun hwf => ?_
  obtain ⟨c, d, n, src⟩ := o
  have h_d := d.isLt
  have h_n := n.isLt
  simp only [Instr.wf] at hwf
  refine ⟨_, rfl, by decide, Nat.le_of_ble_eq_true rfl, Nat.ne_of_beq_eq_false rfl, rfl, ?_, ?_, ?_, rfl, ?_, ?_, ?_, ?_⟩
  · cases src <;> exact ⟨rfl, by simp [encCsr, CsrSrc.fields]; omega⟩
  · intro v hv; cases hv
  · intro v hv; cases hv
  · cases src <;> simp [encCsr, CsrSrc.fields, Fields.csrSrc, Fields.fits, rowCsr, csrUsed, Enc.seen, Fields.within] <;> exact lor_ones rfl (by omega)
  · intro h; cases h
  · intro h; cases h
  · cases src with
    | imm v =>
      have e1 : (v.toNat * 4096 + n.toNat) / 4096 = v.toNat := by omega
      have e2 : (v.toNat * 4096 + n.toNat) % 4096 = n.toNat := by omega
      have e3 : BitVec.ofNat 12 (v.toNat * 4096 + n.toNat) = BitVec.ofNat 12 n.toNat := BitVec.eq_of_toNat_eq (by simp only [BitVec.toNat_ofNat]; omega)
      have e4 : v.toNat * 4096 + n.toNat ||| 4294967295 = 4294967295 := lor_ones rfl (by omega)
      simp only [encCsr, CsrSrc.fields, Enc.seen, rowCsr, csrUsed, Fields.fits, Fields.csrSrc, e1, e2, e3, Option.getD_none]
      simp [hwf, e4]
    | reg r =>
      have e2 : (0 + n.toNat) % 4096 = n.toNat := by omega
      have e3 : BitVec.ofNat 12 (0 + n.toNat) = BitVec.ofNat 12 n.toNat := by rw [Nat.zero_add]
      have e4 : 0 + n.toNat ||| 4095 = 4095 := lor_ones rfl (by omega)
      have e5 : n.toNat ||| 4095 = 4095 := lor_ones rfl (by omega)
      simp only [encCsr, CsrSrc.fields, Enc.seen, rowCsr, csrUsed, Fields.fits, Fields.csrSrc, e2, e3, Option.getD_none]
      simp [hwf, e5]

theorem csrc (o : OpCsrw) : Statement (.csrc o) := by
  refine command rfl rfl rfl (fun _ h => by cases h) fun hwf => ?_
  obtain ⟨c, d, n, src⟩ := o
  have h_d := d.isLt
  have h_n := n.isLt
  simp only [Instr.wf] at hwf
  refine ⟨_, rfl, by decide, Nat.le_of_ble_eq_true rfl, Nat.ne_of_beq_eq_false rfl, rfl, ?_, ?_, ?_, rfl, ?_, ?_, ?_, ?_⟩
  · cases src <;> exact ⟨rfl, by simp [encCsr, CsrSrc.fields]; omega⟩
  · intro v hv; cases hv
  · intro v hv; cases hv
  · cases src <;> simp [encCsr, CsrSrc.fields, Fields.csrSrc, Fields.fits, rowCsr, csrUsed, Enc.seen, Fields.within] <;> exact lor_ones rfl (by omega)
  · intro h; cases h
  · intro h; cases h
  · cases src with
    | imm v =>
      have e1 : (v.toNat * 4096 + n.toNat) / 4096 = v.toNat := by omega
      have e2 : (v.toNat * 4096 + n.toNat) % 4096 = n.toNat := by omega
      have e3 : BitVec.ofNat 12 (v.toNat * 4096 + n.toNat) = BitVec.ofNat 12 n.toNat := BitVec.eq_of_toNat_eq (by simp only [BitVec.toNat_ofNat]; omega)
      have e4 : v.toNat * 4096 + n.toNat ||| 4294967295 = 4294967295 := lor_ones rfl (by omega)
      simp only [encCsr, CsrSrc.fields, Enc.seen, rowCsr, csrUsed, Fields.fits, Fields.csrSrc, e1, e2, e3, Option.getD_none]
      simp [hwf, e4]
    | reg r =>
      have e2 : (0 + n.toNat) % 4096 = n.toNat := by omega
      have e3 : BitVec.ofNat 12 (0 + n.toNat) = BitVec.ofNat 12 n.toNat := by rw [Nat.zero_add]
      have e4 : 0 + n.toNat ||| 4095 = 4095 := lor_ones rfl (by omega)
      have e5 : n.toNat ||| 4095 = 4095 := lor_ones rfl (by omega)
      simp only [encCsr, CsrSrc.fields, Enc.seen, rowCsr, csrUsed, Fields.fits, Fields.csrSrc, e2, e3, Option.getD_none]
      simp [hwf, e5]

theorem rdcyc (o : Op1) : Statement (.rdcyc o) := by
  refine command rfl rfl rfl (fun _ h => by cases h) fun hwf => ?_
  obtain ⟨c, d⟩ := o
  have h_d := d.isLt
  refine ⟨_, rfl, by decide, Nat.le_of_ble_eq_true rfl, Nat.ne_of_beq_eq_false rfl, rfl, ?_, ?_, ?_, rfl, ?_, ?_, ?_, ?_⟩
  · exact ⟨rfl, by simp [enc1]⟩
  · intro v hv; cases hv
  · intro v hv; cases hv
  · simp [enc1, row1, uA, Enc.seen, Fields.within]
  · intro h; cases h
  · intro h; cases h
  · simp [enc1, row1, Enc.seen]

theorem rdptp (o : Op1) : Statement (.rdptp o) := by
  refine command rfl rfl rfl (fun _ h => by cases h) fun hwf => ?_
  obtain ⟨c, d⟩ := o
  have h_d := d.isLt
  refine ⟨_, rfl, by decide, Nat.le_of_ble_eq_true rfl, Nat.ne_of_beq_eq_false rfl, rfl, ?_, ?_, ?_, rfl, ?_, ?_, ?_, ?_⟩
  · exact ⟨rfl, by simp [enc1]⟩
  · intro v hv; cases hv
  · intro v hv; cases hv
  · simp [enc1, row1, uA, Enc.seen, Fields.within]
  · intro h; cases h
  · intro h; cases h
  · simp [enc1, row1, Enc.seen]

theorem specdepthWrite (o : OpCsrS) : Statement (.specdepthWrite o) := by
  refine command rfl rfl rfl (fun _ h => by cases h) fun hwf => ?_
  obtain ⟨c, d, src⟩ := o
  have h_d := d.isLt
  have h_as : csrAssigned 40 = true := rfl
  have h_ro : csrReadOnly 40 = false := rfl
  refine ⟨_, rfl, by decide, Nat.le_of_ble_eq_true rfl, Nat.ne_of_beq_eq_false rfl, rfl, ?_, ?_, ?_, rfl, ?_, ?_, ?_, ?_⟩
  · cases src <;> exact ⟨rfl, by simp [encCsr, CsrSrc.fields] <;> omega⟩
  · intro v hv; cases hv
  · intro v hv; cases hv
  · cases src <;> simp [encCsr, CsrSrc.fields, Fields.csrSrc, Fields.fits, csrwOf, rowCsr, csrUsed, Enc.seen, Fields.within]; exact lor_ones rfl (by omega)
  · intro h; cases h
  · intro h; cases h
  · cases src with
    | imm v =>
      have e1 : (v.toNat * 4096 + 40) / 4096 = v.toNat := by omega
      have e2 : (v.toNat * 4096 + 40) % 4096 = 40 := by omega
      have e3 : BitVec.ofNat 12 (v.toNat * 4096 + 40) = BitVec.ofNat 12 40 := BitVec.eq_of_toNat_eq (by simp only [BitVec.toNat_ofNat]; omega)
      have e4 : v.toNat * 4096 + 40 ||| 4294967295 = 4294967295 := lor_ones rfl (by omega)
      simp only [encCsr, CsrSrc.fields, Enc.seen, rowCsr, csrwOf, csrUsed, Fields.fits, Fields.csrSrc, e1, e2, e3, Option.getD_none]
      simp [h_as, h_ro, e4]
    | reg r =>
      have e2 : (0 + 40) % 4096 = 40 := by omega
      have e3 : BitVec.ofNat 12 (0 + 40) = BitVec.ofNat 12 40 := by rw [Nat.zero_add]
      have e4 : 0 + 40 ||| 4095 = 4095 := lor_ones rfl (by omega)
      have e5 : 40 ||| 4095 = 4095 := lor_ones rfl (by omega)
      simp only [encCsr, CsrSrc.fields, Enc.seen, rowCsr, csrwOf, csrUsed, Fields.fits, Fields.csrSrc, e2, e3, Option.getD_none]
      simp [h_as, h_ro, e5]

theorem tcfgWrite (o : OpTcfg) : Statement (.tcfgWrite o) := by
  refine command rfl rfl rfl (fun _ h => by cases h) fun hwf => ?_
  obtain ⟨c, d, n, src⟩ := o
  have h_d := d.isLt
  have h_n := n.isLt
  have h_as : csrAssigned (64 + n.val) = true := by simp [csrAssigned]; omega
  have h_ro : csrReadOnly (64 + n.val) = false := by simp [csrReadOnly]; omega
  have h_dep : BitVec.ofNat 12 (64 + n.val) ≠ 40#12 := fun h => by have := congrArg BitVec.toNat h; simp at this; omega
  have h_t : 64 ≤ (64 + n.val) % 4096 := by omega
  have h_n2 : Fin.ofNat 48 ((64 + n.val) % 4096 - 64) = n := Fin.ext (by simp; omega)
  simp only [Fin.ofNat_eq_cast] at h_n2
  refine ⟨_, rfl, by decide, Nat.le_of_ble_eq_true rfl, Nat.ne_of_beq_eq_false rfl, rfl, ?_, ?_, ?_, rfl, ?_, ?_, ?_, ?_⟩
  · cases src <;> exact ⟨rfl, by simp [encCsr, CsrSrc.fields]; omega⟩
  · intro v hv; cases hv
  · intro v hv; cases hv
  · cases src <;> simp [encCsr, CsrSrc.fields, Fields.csrSrc, Fields.fits, csrwOf, rowCsr, csrUsed, Enc.seen, Fields.within] <;> exact lor_ones rfl (by omega)
  · intro h; cases h
  · intro h; cases h
  · cases src with
    | imm v =>
      have e1 : (v.toNat * 4096 + (64 + n.val)) / 4096 = v.toNat := by omega
      have e2 : (v.toNat * 4096 + (64 + n.val)) % 4096 = (64 + n.val) := by omega
      have e3 : BitVec.ofNat 12 (v.toNat * 4096 + (64 + n.val)) = BitVec.ofNat 12 (64 + n.val) := BitVec.eq_of_toNat_eq (by simp only [BitVec.toNat_ofNat]; omega)
      have e4 : v.toNat * 4096 + (64 + n.val) ||| 4294967295 = 4294967295 := lor_ones rfl (by omega)
      simp only [encCsr, CsrSrc.fields, Enc.seen, rowCsr, csrwOf, csrUsed, Fields.fits, Fields.csrSrc, e1, e2, e3, Option.getD_none]
      simp [h_as, h_ro, h_t, h_dep, h_n2, e4]
    | reg r =>
      have e2 : (0 + (64 + n.val)) % 4096 = (64 + n.val) := by omega
      have e3 : BitVec.ofNat 12 (0 + (64 + n.val)) = BitVec.ofNat 12 (64 + n.val) := by rw [Nat.zero_add]
      have e4 : 0 + (64 + n.val) ||| 4095 = 4095 := lor_ones rfl (by omega)
      have e5 : (64 + n.val) ||| 4095 = 4095 := lor_ones rfl (by omega)
      simp only [encCsr, CsrSrc.fields, Enc.seen, rowCsr, csrwOf, csrUsed, Fields.fits, Fields.csrSrc, e2, e3, Option.getD_none]
      simp [h_as, h_ro, h_t, h_dep, h_n2, e5]

theorem lds (o : OpLds) : Statement (.lds o) := by
  refine command rfl rfl rfl (fun _ h => by cases h) fun hwf => ?_
  obtain ⟨c, d, a, sz, sx, off⟩ := o
  have h_d := d.isLt
  have h_a := a.isLt
  have h_sz := sz.isLt
  have h_lt := immOf_lt 24 off
  simp only [Instr.wf] at hwf
  refine ⟨_, rfl, by decide, Nat.le_of_ble_eq_true rfl, Nat.ne_of_beq_eq_false rfl, rfl, ?_, ?_, ?_, rfl, ?_, ?_, ?_, ?_⟩
  · cases sx <;> exact ⟨rfl, by simp [bit]; omega⟩
  · intro v hv; exact ⟨(immOf_ext hv).1, Or.inr rfl, (immOf_ext hv).2, rfl⟩
  · intro v hv; cases hv
  · cases sx <;> simp [bit, uAB, Enc.seen, Fields.within] <;> exact lor_ones rfl (by omega)
  · intro h; cases h
  · intro h; cases h
  · cases sx <;> simp_all [Enc.seen, bit]

theorem sts (o : OpSts) : Statement (.sts o) := by
  refine command rfl rfl rfl (fun _ h => by cases h) fun hwf => ?_
  obtain ⟨c, d, a, sz, off⟩ := o
  have h_d := d.isLt
  have h_a := a.isLt
  have h_sz := sz.isLt
  have h_lt := immOf_lt 24 off
  simp only [Instr.wf] at hwf
  refine ⟨_, rfl, by decide, Nat.le_of_ble_eq_true rfl, Nat.ne_of_beq_eq_false rfl, rfl, ?_, ?_, ?_, rfl, ?_, ?_, ?_, ?_⟩
  · exact ⟨rfl, by simp; omega⟩
  · intro v hv; exact ⟨(immOf_ext hv).1, Or.inr rfl, (immOf_ext hv).2, rfl⟩
  · intro v hv; cases hv
  · simp [uAB, Enc.seen, Fields.within]; exact lor_ones rfl (by omega)
  · intro h; cases h
  · intro h; cases h
  · simp [Enc.seen, hwf]

theorem ldg (o : OpLdg) : Statement (.ldg o) := by
  refine command rfl rfl rfl (fun _ h => by cases h) fun hwf => ?_
  obtain ⟨c, d, h, o, sz, sx⟩ := o
  have h_d := d.isLt
  have h_h := h.isLt
  have h_o := o.isLt
  have h_sz := sz.isLt
  simp only [Instr.wf] at hwf
  refine ⟨_, rfl, by decide, Nat.le_of_ble_eq_true rfl, Nat.ne_of_beq_eq_false rfl, rfl, ?_, ?_, ?_, rfl, ?_, ?_, ?_, ?_⟩
  · cases sx <;> exact ⟨rfl, by simp [bit]; omega⟩
  · intro v hv; cases hv
  · intro v hv; cases hv
  · cases sx <;> simp [bit, uABC, Enc.seen, Fields.within] <;> exact lor_ones rfl (by omega)
  · intro h; cases h
  · intro h; cases h
  · have e1 : (sz.val + 8 * bit sx) % 8 = sz.val := by cases sx <;> simp [bit] <;> omega
    have e2 : (sz.val + 8 * bit sx).testBit 3 = sx := by
      have := sz.isLt
      obtain ⟨k, hk⟩ := sz
      cases sx <;> (simp only [bit]; (match k, hk with | 0, _ => rfl | 1, _ => rfl | 2, _ => rfl | 3, _ => rfl | 4, _ => rfl))
    simp only [Enc.seen, e1, e2]
    simp [hwf]

theorem stg (o : OpStg) : Statement (.stg o) := by
  refine command rfl rfl rfl (fun _ h => by cases h) fun hwf => ?_
  obtain ⟨c, d, h, o, sz⟩ := o
  have h_d := d.isLt
  have h_h := h.isLt
  have h_o := o.isLt
  have h_sz := sz.isLt
  simp only [Instr.wf] at hwf
  refine ⟨_, rfl, by decide, Nat.le_of_ble_eq_true rfl, Nat.ne_of_beq_eq_false rfl, rfl, ?_, ?_, ?_, rfl, ?_, ?_, ?_, ?_⟩
  · exact ⟨rfl, by simp; omega⟩
  · intro v hv; cases hv
  · intro v hv; cases hv
  · simp [uABC, Enc.seen, Fields.within]; exact lor_ones rfl (by omega)
  · intro h; cases h
  · intro h; cases h
  · simp [Enc.seen, hwf]

theorem xlat (o : OpXlat) : Statement (.xlat o) := by
  refine command rfl rfl rfl (fun _ h => by cases h) fun hwf => ?_
  obtain ⟨c, h, a⟩ := o
  have h_h := h.isLt
  have h_a := a.isLt
  refine ⟨_, rfl, by decide, Nat.le_of_ble_eq_true rfl, Nat.ne_of_beq_eq_false rfl, rfl, ?_, ?_, ?_, rfl, ?_, ?_, ?_, ?_⟩
  · exact ⟨rfl, by simp⟩
  · intro v hv; cases hv
  · intro v hv; cases hv
  · simp [uAB, Enc.seen, Fields.within]
  · intro h; cases h
  · intro h; cases h
  · simp [Enc.seen]

theorem htestS (o : OpSH) : Statement (.htestS o) := by
  refine command rfl rfl rfl (fun _ h => by cases h) fun hwf => ?_
  obtain ⟨c, d, h⟩ := o
  have h_d := d.isLt
  have h_h := h.isLt
  refine ⟨_, rfl, by decide, Nat.le_of_ble_eq_true rfl, Nat.ne_of_beq_eq_false rfl, rfl, ?_, ?_, ?_, rfl, ?_, ?_, ?_, ?_⟩
  · exact ⟨rfl, by simp⟩
  · intro v hv; cases hv
  · intro v hv; cases hv
  · simp [uAB, Enc.seen, Fields.within]
  · intro h; cases h
  · intro h; cases h
  · simp [Enc.seen]

theorem htestP (o : OpPH) : Statement (.htestP o) := by
  refine command rfl rfl rfl (fun _ h => by cases h) fun hwf => ?_
  obtain ⟨c, d, h⟩ := o
  have h_d := d.isLt
  have h_h := h.isLt
  simp only [Instr.wf, decide_eq_true_eq] at hwf
  refine ⟨_, rfl, by decide, Nat.le_of_ble_eq_true rfl, Nat.ne_of_beq_eq_false rfl, rfl, ?_, ?_, ?_, rfl, ?_, ?_, ?_, ?_⟩
  · exact ⟨rfl, by simp⟩
  · intro v hv; cases hv
  · intro v hv; cases hv
  · simp [uAB, Enc.seen, Fields.within]
  · intro h; cases h
  · intro h; cases h
  · simp [Enc.seen, pdst_val, hwf]

theorem hrel (o : OpH) : Statement (.hrel o) := by
  refine command rfl rfl rfl (fun _ h => by cases h) fun hwf => ?_
  obtain ⟨c, h⟩ := o
  have h_h := h.isLt
  refine ⟨_, rfl, by decide, Nat.le_of_ble_eq_true rfl, Nat.ne_of_beq_eq_false rfl, rfl, ?_, ?_, ?_, rfl, ?_, ?_, ?_, ?_⟩
  · exact ⟨rfl, by simp⟩
  · intro v hv; cases hv
  · intro v hv; cases hv
  · simp [uA, Enc.seen, Fields.within]
  · intro h; cases h
  · intro h; cases h
  · simp [Enc.seen]

theorem probe (o : OpProbe) : Statement (.probe o) := by
  refine command rfl rfl rfl (fun _ h => by cases h) fun hwf => ?_
  obtain ⟨c, h, a, n⟩ := o
  have h_h := h.isLt
  have h_a := a.isLt
  have h_n := n.isLt
  refine ⟨_, rfl, by decide, Nat.le_of_ble_eq_true rfl, Nat.ne_of_beq_eq_false rfl, rfl, ?_, ?_, ?_, rfl, ?_, ?_, ?_, ?_⟩
  · exact ⟨rfl, by simp⟩
  · intro v hv; cases hv
  · intro v hv; cases hv
  · simp [uABC, Enc.seen, Fields.within]
  · intro h; cases h
  · intro h; cases h
  · simp [Enc.seen]

theorem copyG2s (o : OpCopy) : Statement (.copyG2s o) := by
  refine command rfl rfl rfl (fun _ h => by cases h) fun hwf => ?_
  obtain ⟨c, s, h, o, n, aw⟩ := o
  have h_s := s.isLt
  have h_h := h.isLt
  have h_o := o.isLt
  have h_n := n.isLt
  refine ⟨_, rfl, by decide, Nat.le_of_ble_eq_true rfl, Nat.ne_of_beq_eq_false rfl, rfl, ?_, ?_, ?_, rfl, ?_, ?_, ?_, ?_⟩
  · cases aw <;> exact ⟨rfl, by simp [awFields] <;> omega⟩
  · intro v hv; cases hv
  · intro v hv; cases hv
  · cases aw <;> simp [awFields, Enc.seen, Fields.within]; exact lor_ones rfl (by omega)
  · intro h; cases h
  · intro h; cases h
  · cases aw <;> simp [awFields, Fields.awOk, Fields.awo, Enc.seen]

theorem copyS2g (o : OpCopyOut) : Statement (.copyS2g o) := by
  refine command rfl rfl rfl (fun _ h => by cases h) fun hwf => ?_
  obtain ⟨c, s, h, o, n⟩ := o
  have h_s := s.isLt
  have h_h := h.isLt
  have h_o := o.isLt
  have h_n := n.isLt
  refine ⟨_, rfl, by decide, Nat.le_of_ble_eq_true rfl, Nat.ne_of_beq_eq_false rfl, rfl, ?_, ?_, ?_, rfl, ?_, ?_, ?_, ?_⟩
  · exact ⟨rfl, by simp⟩
  · intro v hv; cases hv
  · intro v hv; cases hv
  · simp [Enc.seen, Fields.within]
  · intro h; cases h
  · intro h; cases h
  · simp [Fields.awOk, Enc.seen]

theorem copyS2s (o : OpCopyS) : Statement (.copyS2s o) := by
  refine command rfl rfl rfl (fun _ h => by cases h) fun hwf => ?_
  obtain ⟨c, d, s, n, aw⟩ := o
  have h_d := d.isLt
  have h_s := s.isLt
  have h_n := n.isLt
  refine ⟨_, rfl, by decide, Nat.le_of_ble_eq_true rfl, Nat.ne_of_beq_eq_false rfl, rfl, ?_, ?_, ?_, rfl, ?_, ?_, ?_, ?_⟩
  · cases aw <;> exact ⟨rfl, by simp [awFields] <;> omega⟩
  · intro v hv; cases hv
  · intro v hv; cases hv
  · cases aw <;> simp [awFields, Enc.seen, Fields.within]; exact lor_ones rfl (by omega)
  · intro h; cases h
  · intro h; cases h
  · cases aw <;> simp [awFields, Fields.awOk, Fields.awo, Enc.seen]

theorem copy2G2s (o : OpCopy2) : Statement (.copy2G2s o) := by
  refine command rfl rfl rfl (fun _ h => by cases h) fun hwf => ?_
  obtain ⟨c, s, h, o, n, h2, aw⟩ := o
  have h_s := s.isLt
  have h_h := h.isLt
  have h_o := o.isLt
  have h_n := n.isLt
  have h_h2 := h2.isLt
  refine ⟨_, rfl, by decide, Nat.le_of_ble_eq_true rfl, Nat.ne_of_beq_eq_false rfl, rfl, ?_, ?_, ?_, rfl, ?_, ?_, ?_, ?_⟩
  · cases aw <;> exact ⟨rfl, by simp [awFields] <;> omega⟩
  · intro v hv; cases hv
  · intro v hv; cases hv; simp; omega
  · cases aw <;> simp [awFields, uABCD, Enc.seen, Fields.within]; exact lor_ones rfl (by omega)
  · intro h; exact decide_eq_false (by simp [Enc.seen])
  · intro h; cases h
  · cases aw <;> simp [awFields, Fields.awOk, Fields.awo, Enc.seen]

theorem copy2S2g (o : OpCopy2Out) : Statement (.copy2S2g o) := by
  refine command rfl rfl rfl (fun _ h => by cases h) fun hwf => ?_
  obtain ⟨c, s, h, o, n, h2⟩ := o
  have h_s := s.isLt
  have h_h := h.isLt
  have h_o := o.isLt
  have h_n := n.isLt
  have h_h2 := h2.isLt
  refine ⟨_, rfl, by decide, Nat.le_of_ble_eq_true rfl, Nat.ne_of_beq_eq_false rfl, rfl, ?_, ?_, ?_, rfl, ?_, ?_, ?_, ?_⟩
  · exact ⟨rfl, by simp⟩
  · intro v hv; cases hv
  · intro v hv; cases hv; simp; omega
  · simp [uABCD, Enc.seen, Fields.within]
  · intro h; exact decide_eq_false (by simp [Enc.seen])
  · intro h; cases h
  · simp [Fields.awOk, Enc.seen]

theorem copyx (o : OpCopyx) : Statement (.copyx o) := by
  refine command rfl rfl rfl (fun _ h => by cases h) fun hwf => ?_
  obtain ⟨c, s, h, o, g, hs, so, fmt⟩ := o
  have h_s := s.isLt
  have h_h := h.isLt
  have h_o := o.isLt
  have h_g := g.isLt
  have h_hs := hs.isLt
  have h_so := so.isLt
  have h_fmt := fmt.isLt
  have e1 : (hs.val * 4194304 + so.val * 131072) / 4194304 = hs.val := by omega
  have e2 : hreg ((hs.val * 4194304 + so.val * 131072) / 4194304) = hs := by rw [e1]; exact hreg_val hs
  have e3 : sreg ((hs.val * 4194304 + so.val * 131072) / 131072) = so := Fin.ext (by simp only [sreg, Fin.ofNat]; omega)
  refine ⟨_, rfl, by decide, Nat.le_of_ble_eq_true rfl, Nat.ne_of_beq_eq_false rfl, rfl, ?_, ?_, ?_, rfl, ?_, ?_, ?_, ?_⟩
  · exact ⟨rfl, by simp; omega⟩
  · intro v hv; cases hv
  · intro v hv; cases hv
  · simp [Enc.seen, Fields.within, uABCD, lor_regs h_hs h_so]; exact lor_ones rfl (by omega)
  · intro h; cases h
  · intro h; cases h
  · simp [Enc.seen, e1, e3]

theorem copyc (o : OpCopyc) : Statement (.copyc o) := by
  refine command rfl rfl rfl (fun _ h => by cases h) fun hwf => ?_
  obtain ⟨c, s, h, o, g, hs, so, fmt⟩ := o
  have h_s := s.isLt
  have h_h := h.isLt
  have h_o := o.isLt
  have h_g := g.isLt
  have h_hs := hs.isLt
  have h_so := so.isLt
  have h_fmt := fmt.isLt
  have e1 : (hs.val * 4194304 + so.val * 131072) / 4194304 = hs.val := by omega
  have e2 : hreg ((hs.val * 4194304 + so.val * 131072) / 4194304) = hs := by rw [e1]; exact hreg_val hs
  have e3 : sreg ((hs.val * 4194304 + so.val * 131072) / 131072) = so := Fin.ext (by simp only [sreg, Fin.ofNat]; omega)
  refine ⟨_, rfl, by decide, Nat.le_of_ble_eq_true rfl, Nat.ne_of_beq_eq_false rfl, rfl, ?_, ?_, ?_, rfl, ?_, ?_, ?_, ?_⟩
  · exact ⟨rfl, by simp; omega⟩
  · intro v hv; cases hv
  · intro v hv; cases hv
  · simp [Enc.seen, Fields.within, uABCD, lor_regs h_hs h_so]; exact lor_ones rfl (by omega)
  · intro h; cases h
  · intro h; cases h
  · simp [Enc.seen, e1, e3]

theorem gather (o : OpGather) : Statement (.gather o) := by
  refine command rfl rfl rfl (fun _ h => by cases h) fun hwf => ?_
  obtain ⟨c, s, h, o, ix, cnt, rb⟩ := o
  have h_s := s.isLt
  have h_h := h.isLt
  have h_o := o.isLt
  have h_ix := ix.isLt
  have h_cnt := cnt.isLt
  have h_rb := rb.isLt
  have e1 : (cnt.toNat * 8192 + rb.toNat) / 8192 = cnt.toNat := by omega
  have e2 : BitVec.ofNat 13 (cnt.toNat * 8192 + rb.toNat) = rb := BitVec.eq_of_toNat_eq (by simp only [BitVec.toNat_ofNat]; omega)
  refine ⟨_, rfl, by decide, Nat.le_of_ble_eq_true rfl, Nat.ne_of_beq_eq_false rfl, rfl, ?_, ?_, ?_, rfl, ?_, ?_, ?_, ?_⟩
  · exact ⟨rfl, by simp [encGather]; omega⟩
  · intro v hv; cases hv
  · intro v hv; cases hv
  · simp [encGather, uABCD, Enc.seen, Fields.within]; exact lor_ones rfl (by omega)
  · intro h; cases h
  · intro h; cases h
  · simp [encGather, Enc.seen, e1, e2]

theorem scatter (o : OpGather) : Statement (.scatter o) := by
  refine command rfl rfl rfl (fun _ h => by cases h) fun hwf => ?_
  obtain ⟨c, s, h, o, ix, cnt, rb⟩ := o
  have h_s := s.isLt
  have h_h := h.isLt
  have h_o := o.isLt
  have h_ix := ix.isLt
  have h_cnt := cnt.isLt
  have h_rb := rb.isLt
  have e1 : (cnt.toNat * 8192 + rb.toNat) / 8192 = cnt.toNat := by omega
  have e2 : BitVec.ofNat 13 (cnt.toNat * 8192 + rb.toNat) = rb := BitVec.eq_of_toNat_eq (by simp only [BitVec.toNat_ofNat]; omega)
  refine ⟨_, rfl, by decide, Nat.le_of_ble_eq_true rfl, Nat.ne_of_beq_eq_false rfl, rfl, ?_, ?_, ?_, rfl, ?_, ?_, ?_, ?_⟩
  · exact ⟨rfl, by simp [encGather]; omega⟩
  · intro v hv; cases hv
  · intro v hv; cases hv
  · simp [encGather, uABCD, Enc.seen, Fields.within]; exact lor_ones rfl (by omega)
  · intro h; cases h
  · intro h; cases h
  · simp [encGather, Enc.seen, e1, e2]

theorem acscpOut (o : OpAcsOut) : Statement (.acscpOut o) := by
  refine command rfl rfl rfl (fun _ h => by cases h) fun hwf => ?_
  obtain ⟨c, a, row, n, fmt, col, ncol⟩ := o
  have h_a := a.isLt
  have h_row := row.isLt
  have h_n := n.isLt
  have h_fmt := fmt.isLt
  have h_col := col.isLt
  have h_ncol := ncol.isLt
  simp only [Instr.wf, decide_eq_true_eq] at hwf
  have e1 : (col.toNat * 256 + ncol.toNat) / 256 = col.toNat := by omega
  have e3 : (col.toNat * 256 + ncol.toNat) % 256 = ncol.toNat := by omega
  have e2 : BitVec.ofNat 8 (col.toNat * 256 + ncol.toNat) = ncol := BitVec.eq_of_toNat_eq (by simp only [BitVec.toNat_ofNat]; omega)
  have e4 : ¬ 192 < col.toNat + ncol.toNat + 1 := by omega
  refine ⟨_, rfl, by decide, Nat.le_of_ble_eq_true rfl, Nat.ne_of_beq_eq_false rfl, rfl, ?_, ?_, ?_, rfl, ?_, ?_, ?_, ?_⟩
  · exact ⟨rfl, by simp; omega⟩
  · intro v hv; cases hv
  · intro v hv; cases hv
  · simp [uABC, Enc.seen, Fields.within]; (repeat' apply And.intro) <;> exact lor_ones rfl (by omega)
  · intro h; cases h
  · intro h; cases h
  · simp only [Enc.seen, e1, e2, e3]
    simp [e4]

theorem acscpIn (o : OpAcsIn) : Statement (.acscpIn o) := by
  refine command rfl rfl rfl (fun _ h => by cases h) fun hwf => ?_
  obtain ⟨c, a, row, n, i32, col, ncol⟩ := o
  have h_a := a.isLt
  have h_row := row.isLt
  have h_n := n.isLt
  have h_col := col.isLt
  have h_ncol := ncol.isLt
  simp only [Instr.wf, decide_eq_true_eq] at hwf
  have e1 : (col.toNat * 256 + ncol.toNat) / 256 = col.toNat := by omega
  have e3 : (col.toNat * 256 + ncol.toNat) % 256 = ncol.toNat := by omega
  have e2 : BitVec.ofNat 8 (col.toNat * 256 + ncol.toNat) = ncol := BitVec.eq_of_toNat_eq (by simp only [BitVec.toNat_ofNat]; omega)
  have e4 : ¬ 192 < col.toNat + ncol.toNat + 1 := by omega
  refine ⟨_, rfl, by decide, Nat.le_of_ble_eq_true rfl, Nat.ne_of_beq_eq_false rfl, rfl, ?_, ?_, ?_, rfl, ?_, ?_, ?_, ?_⟩
  · cases i32 <;> exact ⟨rfl, by simp; omega⟩
  · intro v hv; cases hv
  · intro v hv; cases hv
  · cases i32 <;> simp [uABC, Enc.seen, Fields.within] <;> exact lor_ones rfl (by omega)
  · intro h; cases h
  · intro h; cases h
  · cases i32 <;> (simp only [Enc.seen, e1, e2, e3]; simp [e4])

theorem awinit (o : OpAw) : Statement (.awinit o) := by
  refine command rfl rfl rfl (fun _ h => by cases h) fun hwf => ?_
  obtain ⟨c, a, v, off⟩ := o
  have h_a := a.isLt
  have h_v := v.isLt
  have h_off := off.isLt
  refine ⟨_, rfl, by decide, Nat.le_of_ble_eq_true rfl, Nat.ne_of_beq_eq_false rfl, rfl, ?_, ?_, ?_, rfl, ?_, ?_, ?_, ?_⟩
  · exact ⟨rfl, by simp [encAw]; omega⟩
  · intro v hv; cases hv
  · intro v hv; cases hv
  · simp [encAw, rowAw, uAB, Enc.seen, Fields.within]; exact lor_ones rfl (by omega)
  · intro h; cases h
  · intro h; cases h
  · simp [encAw, rowAw, Enc.seen]

theorem awwait (o : OpAw) : Statement (.awwait o) := by
  refine command rfl rfl rfl (fun _ h => by cases h) fun hwf => ?_
  obtain ⟨c, a, v, off⟩ := o
  have h_a := a.isLt
  have h_v := v.isLt
  have h_off := off.isLt
  refine ⟨_, rfl, by decide, Nat.le_of_ble_eq_true rfl, Nat.ne_of_beq_eq_false rfl, rfl, ?_, ?_, ?_, rfl, ?_, ?_, ?_, ?_⟩
  · exact ⟨rfl, by simp [encAw]; omega⟩
  · intro v hv; cases hv
  · intro v hv; cases hv
  · simp [encAw, rowAw, uAB, Enc.seen, Fields.within]; exact lor_ones rfl (by omega)
  · intro h; cases h
  · intro h; cases h
  · simp [encAw, rowAw, Enc.seen]

theorem awrd (o : OpAwrd) : Statement (.awrd o) := by
  refine command rfl rfl rfl (fun _ h => by cases h) fun hwf => ?_
  obtain ⟨c, d, a, off⟩ := o
  have h_d := d.isLt
  have h_a := a.isLt
  have h_off := off.isLt
  simp only [Instr.wf, decide_eq_true_eq] at hwf
  refine ⟨_, rfl, by decide, Nat.le_of_ble_eq_true rfl, Nat.ne_of_beq_eq_false rfl, rfl, ?_, ?_, ?_, rfl, ?_, ?_, ?_, ?_⟩
  · exact ⟨rfl, by simp; omega⟩
  · intro v hv; cases hv
  · intro v hv; cases hv
  · simp [uAB, Enc.seen, Fields.within]; exact lor_ones rfl (by omega)
  · intro h; cases h
  · intro h; cases h
  · simp [Enc.seen, hwf]

theorem awrdClr (o : OpAwrd) : Statement (.awrdClr o) := by
  refine command rfl rfl rfl (fun _ h => by cases h) fun hwf => ?_
  obtain ⟨c, d, a, off⟩ := o
  have h_d := d.isLt
  have h_a := a.isLt
  have h_off := off.isLt
  simp only [Instr.wf, decide_eq_true_eq] at hwf
  refine ⟨_, rfl, by decide, Nat.le_of_ble_eq_true rfl, Nat.ne_of_beq_eq_false rfl, rfl, ?_, ?_, ?_, rfl, ?_, ?_, ?_, ?_⟩
  · exact ⟨rfl, by simp; omega⟩
  · intro v hv; cases hv
  · intro v hv; cases hv
  · simp [uAB, Enc.seen, Fields.within]; exact lor_ones rfl (by omega)
  · intro h; cases h
  · intro h; cases h
  · simp [Enc.seen, hwf]

theorem fenceRel (o : OpFence) : Statement (.fenceRel o) := by
  refine command rfl rfl rfl (fun _ h => by cases h) fun hwf => ?_
  obtain ⟨c, scope⟩ := o
  have h_scope := scope_lt scope
  refine ⟨_, rfl, by decide, Nat.le_of_ble_eq_true rfl, Nat.ne_of_beq_eq_false rfl, rfl, ?_, ?_, ?_, rfl, ?_, ?_, ?_, ?_⟩
  · exact ⟨rfl, by simp; omega⟩
  · intro v hv; cases hv
  · intro v hv; cases hv
  · simp [Enc.seen, Fields.within]; exact lor_ones rfl (by omega)
  · intro h; cases h
  · intro h; cases h
  · simp [Enc.seen]

theorem fenceAcq (o : OpFence) : Statement (.fenceAcq o) := by
  refine command rfl rfl rfl (fun _ h => by cases h) fun hwf => ?_
  obtain ⟨c, scope⟩ := o
  have h_scope := scope_lt scope
  have e1 : (2 * scope.code + 1) / 2 = scope.code := by omega
  refine ⟨_, rfl, by decide, Nat.le_of_ble_eq_true rfl, Nat.ne_of_beq_eq_false rfl, rfl, ?_, ?_, ?_, rfl, ?_, ?_, ?_, ?_⟩
  · exact ⟨rfl, by simp; omega⟩
  · intro v hv; cases hv
  · intro v hv; cases hv
  · simp [Enc.seen, Fields.within]; exact lor_ones rfl (by omega)
  · intro h; cases h
  · intro h; cases h
  · simp [Enc.seen, e1]

theorem sacc (o : OpSacc) : Statement (.sacc o) := by
  refine command rfl rfl rfl (fun _ h => by cases h) fun hwf => ?_
  obtain ⟨c, d, ix, v, fmt, cnt, rl⟩ := o
  have h_d := d.isLt
  have h_ix := ix.isLt
  have h_v := v.isLt
  have h_fmt := fmt.isLt
  have h_cnt := cnt.isLt
  have h_rl := rl.isLt
  simp only [Instr.wf] at hwf
  have e1 : (cnt.toNat * 4096 + rl.toNat) / 4096 = cnt.toNat := by omega
  have e3 : (cnt.toNat * 4096 + rl.toNat) % 4096 = rl.toNat := by omega
  have e2 : BitVec.ofNat 12 (cnt.toNat * 4096 + rl.toNat) = rl := BitVec.eq_of_toNat_eq (by simp only [BitVec.toNat_ofNat]; omega)
  refine ⟨_, rfl, by decide, Nat.le_of_ble_eq_true rfl, Nat.ne_of_beq_eq_false rfl, rfl, ?_, ?_, ?_, rfl, ?_, ?_, ?_, ?_⟩
  · exact ⟨rfl, by simp; omega⟩
  · intro v hv; cases hv
  · intro v hv; cases hv
  · simp [uABC, Enc.seen, Fields.within]; (repeat' apply And.intro) <;> exact lor_ones rfl (by omega)
  · intro h; cases h
  · intro h; cases h
  · simp only [Enc.seen, e1, e2, e3]
    simp [hwf]

theorem saccg (o : OpSaccg) : Statement (.saccg o) := by
  refine command rfl rfl rfl (fun _ h => by cases h) fun hwf => ?_
  obtain ⟨c, h, o, ix, v, fmt, cnt, rl⟩ := o
  have h_h := h.isLt
  have h_o := o.isLt
  have h_ix := ix.isLt
  have h_v := v.isLt
  have h_fmt := fmt.isLt
  have h_cnt := cnt.isLt
  have h_rl := rl.isLt
  simp only [Instr.wf] at hwf
  have e1 : (cnt.toNat * 4096 + rl.toNat) / 4096 = cnt.toNat := by omega
  have e3 : (cnt.toNat * 4096 + rl.toNat) % 4096 = rl.toNat := by omega
  have e2 : BitVec.ofNat 12 (cnt.toNat * 4096 + rl.toNat) = rl := BitVec.eq_of_toNat_eq (by simp only [BitVec.toNat_ofNat]; omega)
  refine ⟨_, rfl, by decide, Nat.le_of_ble_eq_true rfl, Nat.ne_of_beq_eq_false rfl, rfl, ?_, ?_, ?_, rfl, ?_, ?_, ?_, ?_⟩
  · exact ⟨rfl, by simp; omega⟩
  · intro v hv; cases hv
  · intro v hv; cases hv
  · simp [uABCD, Enc.seen, Fields.within]; (repeat' apply And.intro) <;> exact lor_ones rfl (by omega)
  · intro h; cases h
  · intro h; cases h
  · simp only [Enc.seen, e1, e2, e3]
    simp [hwf]

theorem coll (o : OpColl) : Statement (.coll o) := by
  refine command rfl rfl rfl (fun _ h => by cases h) fun hwf => ?_
  obtain ⟨c, a, off⟩ := o
  have h_a := a.isLt
  have h_off := off.isLt
  refine ⟨_, rfl, by decide, Nat.le_of_ble_eq_true rfl, Nat.ne_of_beq_eq_false rfl, rfl, ?_, ?_, ?_, rfl, ?_, ?_, ?_, ?_⟩
  · exact ⟨rfl, by simp; omega⟩
  · intro v hv; cases hv
  · intro v hv; cases hv
  · simp [Enc.seen, Fields.within]; exact lor_ones rfl (by omega)
  · intro h; cases h
  · intro h; cases h
  · simp [Enc.seen]

theorem collst (o : OpCollst) : Statement (.collst o) := by
  refine command rfl rfl rfl (fun _ h => by cases h) fun hwf => ?_
  obtain ⟨c, d, a, off⟩ := o
  have h_d := d.isLt
  have h_a := a.isLt
  have h_off := off.isLt
  refine ⟨_, rfl, by decide, Nat.le_of_ble_eq_true rfl, Nat.ne_of_beq_eq_false rfl, rfl, ?_, ?_, ?_, rfl, ?_, ?_, ?_, ?_⟩
  · exact ⟨rfl, by simp; omega⟩
  · intro v hv; cases hv
  · intro v hv; cases hv
  · simp [uAB, Enc.seen, Fields.within]; exact lor_ones rfl (by omega)
  · intro h; cases h
  · intro h; cases h
  · simp [Enc.seen]

theorem fmsend (o : OpFmsend) : Statement (.fmsend o) := by
  refine command rfl rfl rfl (fun _ h => by cases h) fun hwf => ?_
  obtain ⟨c, p, b, n, slot⟩ := o
  have h_p := p.isLt
  have h_b := b.isLt
  have h_n := n.isLt
  have h_slot := slot.isLt
  refine ⟨_, rfl, by decide, Nat.le_of_ble_eq_true rfl, Nat.ne_of_beq_eq_false rfl, rfl, ?_, ?_, ?_, rfl, ?_, ?_, ?_, ?_⟩
  · exact ⟨rfl, by simp⟩
  · intro v hv; cases hv
  · intro v hv; cases hv
  · simp [uABCD, Enc.seen, Fields.within]
  · intro h; cases h
  · intro h; cases h
  · simp [Enc.seen]

theorem fmrecvBind (o : OpFmBind) : Statement (.fmrecvBind o) := by
  refine command rfl rfl rfl (fun _ h => by cases h) fun hwf => ?_
  obtain ⟨c, f, a, d⟩ := o
  have h_f := f.isLt
  have h_a := a.isLt
  have h_d := d.isLt
  refine ⟨_, rfl, by decide, Nat.le_of_ble_eq_true rfl, Nat.ne_of_beq_eq_false rfl, rfl, ?_, ?_, ?_, rfl, ?_, ?_, ?_, ?_⟩
  · exact ⟨rfl, by simp; omega⟩
  · intro v hv; cases hv
  · intro v hv; cases hv
  · simp [Enc.seen, Fields.within]; exact lor_ones rfl (by omega)
  · intro h; cases h
  · intro h; cases h
  · simp [Enc.seen]

theorem fmrecvPop (o : OpFmPop) : Statement (.fmrecvPop o) := by
  refine command rfl rfl rfl (fun _ h => by cases h) fun hwf => ?_
  obtain ⟨c, d, f⟩ := o
  have h_d := d.isLt
  have h_f := f.isLt
  refine ⟨_, rfl, by decide, Nat.le_of_ble_eq_true rfl, Nat.ne_of_beq_eq_false rfl, rfl, ?_, ?_, ?_, rfl, ?_, ?_, ?_, ?_⟩
  · exact ⟨rfl, by simp; omega⟩
  · intro v hv; cases hv
  · intro v hv; cases hv
  · simp [Enc.seen, Fields.within]; exact lor_ones rfl (by omega)
  · intro h; cases h
  · intro h; cases h
  · simp [Enc.seen]

theorem fmrecvFlt (o : OpFmPop) : Statement (.fmrecvFlt o) := by
  refine command rfl rfl rfl (fun _ h => by cases h) fun hwf => ?_
  obtain ⟨c, d, f⟩ := o
  have h_d := d.isLt
  have h_f := f.isLt
  refine ⟨_, rfl, by decide, Nat.le_of_ble_eq_true rfl, Nat.ne_of_beq_eq_false rfl, rfl, ?_, ?_, ?_, rfl, ?_, ?_, ?_, ?_⟩
  · exact ⟨rfl, by simp; omega⟩
  · intro v hv; cases hv
  · intro v hv; cases hv
  · simp [Enc.seen, Fields.within]; exact lor_ones rfl (by omega)
  · intro h; cases h
  · intro h; cases h
  · simp [Enc.seen]

theorem wake (o : OpWake) : Statement (.wake o) := by
  refine command rfl rfl rfl (fun _ h => by cases h) fun hwf => ?_
  obtain ⟨c, a, v⟩ := o
  have h_a := a.isLt
  have h_v := v.isLt
  refine ⟨_, rfl, by decide, Nat.le_of_ble_eq_true rfl, Nat.ne_of_beq_eq_false rfl, rfl, ?_, ?_, ?_, rfl, ?_, ?_, ?_, ?_⟩
  · exact ⟨rfl, by simp⟩
  · intro v hv; cases hv
  · intro v hv; cases hv
  · simp [uAB, Enc.seen, Fields.within]
  · intro h; cases h
  · intro h; cases h
  · simp [Enc.seen]

theorem mtopk (o : OpMtopk) : Statement (.mtopk o) := by
  refine command rfl rfl rfl (fun _ h => by cases h) fun hwf => ?_
  obtain ⟨c, s, h, o, d⟩ := o
  have h_s := s.isLt
  have h_h := h.isLt
  have h_o := o.isLt
  have h_d := d.isLt
  refine ⟨_, rfl, by decide, Nat.le_of_ble_eq_true rfl, Nat.ne_of_beq_eq_false rfl, rfl, ?_, ?_, ?_, rfl, ?_, ?_, ?_, ?_⟩
  · exact ⟨rfl, by simp⟩
  · intro v hv; cases hv
  · intro v hv; cases hv
  · simp [uABCD, Enc.seen, Fields.within]
  · intro h; cases h
  · intro h; cases h
  · simp [Enc.seen]

theorem gcfgLd (o : OpG) : Statement (.gcfgLd o) := by
  refine command rfl rfl rfl (fun _ h => by cases h) fun hwf => ?_
  obtain ⟨c, g, a, imm⟩ := o
  have h_g := g.isLt
  have h_a := a.isLt
  have h_lt := immOf_lt 32 imm
  refine ⟨_, rfl, by decide, Nat.le_of_ble_eq_true rfl, Nat.ne_of_beq_eq_false rfl, rfl, ?_, ?_, ?_, rfl, ?_, ?_, ?_, ?_⟩
  · exact ⟨rfl, by simp [encG]; omega⟩
  · intro v hv; exact ⟨(immOf_ext hv).1, Or.inl rfl, (immOf_ext hv).2, rfl⟩
  · intro v hv; cases hv
  · simp [encG, uG, Enc.seen, Fields.within]
  · intro h; cases h
  · intro h; cases h
  · simp [encG, gOf, Enc.seen]

theorem gcfgSt (o : OpG) : Statement (.gcfgSt o) := by
  refine command rfl rfl rfl (fun _ h => by cases h) fun hwf => ?_
  obtain ⟨c, g, a, imm⟩ := o
  have h_g := g.isLt
  have h_a := a.isLt
  have h_lt := immOf_lt 32 imm
  refine ⟨_, rfl, by decide, Nat.le_of_ble_eq_true rfl, Nat.ne_of_beq_eq_false rfl, rfl, ?_, ?_, ?_, rfl, ?_, ?_, ?_, ?_⟩
  · exact ⟨rfl, by simp [encG]; omega⟩
  · intro v hv; exact ⟨(immOf_ext hv).1, Or.inl rfl, (immOf_ext hv).2, rfl⟩
  · intro v hv; cases hv
  · simp [encG, uG, Enc.seen, Fields.within]
  · intro h; cases h
  · intro h; cases h
  · simp [encG, gOf, Enc.seen]

theorem gcfgMov (o : OpGG) : Statement (.gcfgMov o) := by
  refine command rfl rfl rfl (fun _ h => by cases h) fun hwf => ?_
  obtain ⟨c, g, a⟩ := o
  have h_g := g.isLt
  have h_a := a.isLt
  refine ⟨_, rfl, by decide, Nat.le_of_ble_eq_true rfl, Nat.ne_of_beq_eq_false rfl, rfl, ?_, ?_, ?_, rfl, ?_, ?_, ?_, ?_⟩
  · exact ⟨rfl, by simp; omega⟩
  · intro v hv; cases hv
  · intro v hv; cases hv
  · simp [uG, Enc.seen, Fields.within]
  · intro h; cases h
  · intro h; cases h
  · simp [Enc.seen]

theorem gbase (o : OpG) : Statement (.gbase o) := by
  refine command rfl rfl rfl (fun _ h => by cases h) fun hwf => ?_
  obtain ⟨c, g, a, imm⟩ := o
  have h_g := g.isLt
  have h_a := a.isLt
  have h_lt := immOf_lt 32 imm
  refine ⟨_, rfl, by decide, Nat.le_of_ble_eq_true rfl, Nat.ne_of_beq_eq_false rfl, rfl, ?_, ?_, ?_, rfl, ?_, ?_, ?_, ?_⟩
  · exact ⟨rfl, by simp [encG]; omega⟩
  · intro v hv; exact ⟨(immOf_ext hv).1, Or.inl rfl, (immOf_ext hv).2, rfl⟩
  · intro v hv; cases hv
  · simp [encG, uG, Enc.seen, Fields.within]
  · intro h; cases h
  · intro h; cases h
  · simp [encG, gOf, Enc.seen]

theorem gcount (o : OpG) : Statement (.gcount o) := by
  refine command rfl rfl rfl (fun _ h => by cases h) fun hwf => ?_
  obtain ⟨c, g, a, imm⟩ := o
  have h_g := g.isLt
  have h_a := a.isLt
  have h_lt := immOf_lt 32 imm
  refine ⟨_, rfl, by decide, Nat.le_of_ble_eq_true rfl, Nat.ne_of_beq_eq_false rfl, rfl, ?_, ?_, ?_, rfl, ?_, ?_, ?_, ?_⟩
  · exact ⟨rfl, by simp [encG]; omega⟩
  · intro v hv; exact ⟨(immOf_ext hv).1, Or.inl rfl, (immOf_ext hv).2, rfl⟩
  · intro v hv; cases hv
  · simp [encG, uG, Enc.seen, Fields.within]
  · intro h; cases h
  · intro h; cases h
  · simp [encG, gOf, Enc.seen]

theorem gcountRow (o : OpG) : Statement (.gcountRow o) := by
  refine command rfl rfl rfl (fun _ h => by cases h) fun hwf => ?_
  obtain ⟨c, g, a, imm⟩ := o
  have h_g := g.isLt
  have h_a := a.isLt
  have h_lt := immOf_lt 32 imm
  refine ⟨_, rfl, by decide, Nat.le_of_ble_eq_true rfl, Nat.ne_of_beq_eq_false rfl, rfl, ?_, ?_, ?_, rfl, ?_, ?_, ?_, ?_⟩
  · exact ⟨rfl, by simp [encG]; omega⟩
  · intro v hv; exact ⟨(immOf_ext hv).1, Or.inl rfl, (immOf_ext hv).2, rfl⟩
  · intro v hv; cases hv
  · simp [encG, uG, Enc.seen, Fields.within]
  · intro h; cases h
  · intro h; cases h
  · simp [encG, gOf, Enc.seen]

theorem gstride (o : OpG) : Statement (.gstride o) := by
  refine command rfl rfl rfl (fun _ h => by cases h) fun hwf => ?_
  obtain ⟨c, g, a, imm⟩ := o
  have h_g := g.isLt
  have h_a := a.isLt
  have h_lt := immOf_lt 32 imm
  refine ⟨_, rfl, by decide, Nat.le_of_ble_eq_true rfl, Nat.ne_of_beq_eq_false rfl, rfl, ?_, ?_, ?_, rfl, ?_, ?_, ?_, ?_⟩
  · exact ⟨rfl, by simp [encG]; omega⟩
  · intro v hv; exact ⟨(immOf_ext hv).1, Or.inl rfl, (immOf_ext hv).2, rfl⟩
  · intro v hv; cases hv
  · simp [encG, uG, Enc.seen, Fields.within]
  · intro h; cases h
  · intro h; cases h
  · simp [encG, gOf, Enc.seen]

/-- Bits [15:7] of a value that has none there: the used bits of `GFMT`'s IMM32 (10 R282). -/
theorem lor_gfmt {x : Nat} (h : x < 4294967296) (hz : x / 128 % 512 = 0) : x ||| 4294901887 = 4294901887 := by
  have q : (x ||| 4294901887) / 2 ^ 16 = x / 2 ^ 16 ||| 4294901887 / 2 ^ 16 := Nat.or_div_two_pow
  have r : (x ||| 4294901887) % 2 ^ 16 = x % 2 ^ 16 ||| 4294901887 % 2 ^ 16 := Nat.or_mod_two_pow
  have q1 : x / 2 ^ 16 ||| 65535 = 65535 := lor_lit (n := 16) rfl (by omega)
  have r1 : x % 2 ^ 16 ||| 127 = 127 := lor_lit (n := 7) rfl (by omega)
  simp only [Nat.reducePow, Nat.reduceDiv, Nat.reduceMod] at q r q1 r1
  omega

theorem gfmt (o : OpG) : Statement (.gfmt o) := by
  refine command rfl rfl rfl (fun _ h => by cases h) fun hwf => ?_
  obtain ⟨c, g, a, imm⟩ := o
  have h_g := g.isLt
  have h_a := a.isLt
  have h_imm := imm.isLt
  cases hs : gfmtShort imm with
  | false =>
    refine ⟨_, rfl, by decide, Nat.le_of_ble_eq_true rfl, Nat.ne_of_beq_eq_false rfl, rfl, ?_, ?_, ?_, rfl, ?_, ?_, ?_, ?_⟩
    · exact ⟨rfl, by simp; omega⟩
    · intro v hv
      simp only [Bool.false_eq_true, if_false, Option.some.injEq] at hv
      exact ⟨hv ▸ h_imm, Or.inl rfl, by simp, rfl⟩
    · intro v hv; cases hv
    · simp [Enc.seen, Fields.within, uG]
    · intro h; cases h
    · intro h; cases h
    · simp [Enc.seen, gOf, Fields.sx]
  | true =>
    simp only [gfmtShort, Bool.and_eq_true, decide_eq_true_eq, beq_iff_eq] at hs
    have e1 : imm.toNat % 4294967296 ||| 4294901887 = 4294901887 := lor_gfmt (by omega) (by omega)
    refine ⟨_, rfl, by decide, Nat.le_of_ble_eq_true rfl, Nat.ne_of_beq_eq_false rfl, rfl, ?_, ?_, ?_, rfl, ?_, ?_, ?_, ?_⟩
    · exact ⟨rfl, by simp; omega⟩
    · intro v hv; simp at hv
    · intro v hv; cases hv
    · simp [Enc.seen, Fields.within, uG, e1]
    · intro h; cases h
    · intro h; cases h
    · have e2 : BitVec.ofNat 32 (imm.toNat % 4294967296) = imm.setWidth 32 := by apply BitVec.eq_of_toNat_eq; simp
      simp [Enc.seen, gOf, Fields.sx, e2, hs.1]

theorem vadd (o : OpV2) : Statement (.vadd o) :=
  command rfl rfl rfl (fun _ h => by cases h) fun hwf => goodV2 rfl hwf (Nat.le_of_ble_eq_true rfl) (Nat.ne_of_beq_eq_false rfl)

theorem vsub (o : OpV2) : Statement (.vsub o) :=
  command rfl rfl rfl (fun _ h => by cases h) fun hwf => goodV2 rfl hwf (Nat.le_of_ble_eq_true rfl) (Nat.ne_of_beq_eq_false rfl)

theorem vmul (o : OpV2) : Statement (.vmul o) :=
  command rfl rfl rfl (fun _ h => by cases h) fun hwf => goodV2 rfl hwf (Nat.le_of_ble_eq_true rfl) (Nat.ne_of_beq_eq_false rfl)

theorem vfma (o : OpV3) : Statement (.vfma o) :=
  command rfl rfl rfl (fun _ h => by cases h) fun hwf => goodV3 rfl hwf (Nat.le_of_ble_eq_true rfl) (Nat.ne_of_beq_eq_false rfl)

theorem vmin (o : OpV2) : Statement (.vmin o) :=
  command rfl rfl rfl (fun _ h => by cases h) fun hwf => goodV2 rfl hwf (Nat.le_of_ble_eq_true rfl) (Nat.ne_of_beq_eq_false rfl)

theorem vmax (o : OpV2) : Statement (.vmax o) :=
  command rfl rfl rfl (fun _ h => by cases h) fun hwf => goodV2 rfl hwf (Nat.le_of_ble_eq_true rfl) (Nat.ne_of_beq_eq_false rfl)

theorem vabs (o : OpV1) : Statement (.vabs o) :=
  command rfl rfl rfl (fun _ h => by cases h) fun _ => goodV1 rfl (Nat.le_of_ble_eq_true rfl) (Nat.ne_of_beq_eq_false rfl)

theorem vneg (o : OpV1) : Statement (.vneg o) :=
  command rfl rfl rfl (fun _ h => by cases h) fun _ => goodV1 rfl (Nat.le_of_ble_eq_true rfl) (Nat.ne_of_beq_eq_false rfl)

theorem vexp (o : OpV1) : Statement (.vexp o) :=
  command rfl rfl rfl (fun _ h => by cases h) fun _ => goodV1 rfl (Nat.le_of_ble_eq_true rfl) (Nat.ne_of_beq_eq_false rfl)

theorem vlog (o : OpV1) : Statement (.vlog o) :=
  command rfl rfl rfl (fun _ h => by cases h) fun _ => goodV1 rfl (Nat.le_of_ble_eq_true rfl) (Nat.ne_of_beq_eq_false rfl)

theorem vrcp (o : OpV1) : Statement (.vrcp o) :=
  command rfl rfl rfl (fun _ h => by cases h) fun _ => goodV1 rfl (Nat.le_of_ble_eq_true rfl) (Nat.ne_of_beq_eq_false rfl)

theorem vrsq (o : OpV1) : Statement (.vrsq o) :=
  command rfl rfl rfl (fun _ h => by cases h) fun _ => goodV1 rfl (Nat.le_of_ble_eq_true rfl) (Nat.ne_of_beq_eq_false rfl)

theorem vtanh (o : OpV1) : Statement (.vtanh o) :=
  command rfl rfl rfl (fun _ h => by cases h) fun _ => goodV1 rfl (Nat.le_of_ble_eq_true rfl) (Nat.ne_of_beq_eq_false rfl)

theorem vsigm (o : OpV1) : Statement (.vsigm o) :=
  command rfl rfl rfl (fun _ h => by cases h) fun _ => goodV1 rfl (Nat.le_of_ble_eq_true rfl) (Nat.ne_of_beq_eq_false rfl)

theorem vgelu (o : OpV1) : Statement (.vgelu o) :=
  command rfl rfl rfl (fun _ h => by cases h) fun _ => goodV1 rfl (Nat.le_of_ble_eq_true rfl) (Nat.ne_of_beq_eq_false rfl)

theorem vsilu (o : OpV1) : Statement (.vsilu o) :=
  command rfl rfl rfl (fun _ h => by cases h) fun _ => goodV1 rfl (Nat.le_of_ble_eq_true rfl) (Nat.ne_of_beq_eq_false rfl)

theorem vcvt (o : OpV1) : Statement (.vcvt o) :=
  command rfl rfl rfl (fun _ h => by cases h) fun _ => goodV1 rfl (Nat.le_of_ble_eq_true rfl) (Nat.ne_of_beq_eq_false rfl)

theorem vcmp (o : OpVcmp) : Statement (.vcmp o) := by
  refine command rfl rfl rfl (fun _ h => by cases h) fun hwf => ?_
  obtain ⟨c, cc, d, x, y⟩ := o
  have h_d := d.isLt
  have h_cc := fcc_lt cc
  simp only [Instr.wf] at hwf
  have d1 : (16 + cc.code) / 16 = 1 := by omega
  have d2 : (32 + cc.code) / 16 = 2 := by omega
  have d0 : cc.code / 16 = 0 := by omega
  have m1 : (16 + cc.code) % 16 = cc.code := by omega
  have m2 : (32 + cc.code) % 16 = cc.code := by omega
  have m0 : cc.code % 16 = cc.code := by omega
  have u0 : cc.code ||| 63 = 63 := lor_ones rfl (by omega)
  have u1 : 16 + cc.code ||| 63 = 63 := lor_ones rfl (by omega)
  have u2 : 32 + cc.code ||| 63 = 63 := lor_ones rfl (by omega)
  refine ⟨_, rfl, by decide, Nat.le_of_ble_eq_true rfl, Nat.ne_of_beq_eq_false rfl, rfl, ?_, ?_, ?_, rfl, ?_, ?_, ?_, ?_⟩
  · exact ⟨rfl, by cases x <;> cases y <;> first | (cases hwf; done) | (simp [encV2, VArg.field, VArg.scal, VArg.fmt]; omega)⟩
  · intro v hv; cases hv
  · intro v hv; cases hv
  · cases x <;> cases y <;> first
      | (cases hwf; done)
      | (simp [encV2, Enc.seen, Fields.within, rowVcmp, vUsed, d0, d1, d2, u0, u1, u2, VArg.field, VArg.scal, VArg.fmt, Fields.scal]; done)
      | (simp [encV2, Enc.seen, Fields.within, rowVcmp, vUsed, d1, d2, u1, u2, VArg.field, VArg.scal, VArg.fmt, Fields.scal]; exact lor_ones rfl (by omega))
  · intro h; cases h
  · intro h; cases h
  · cases x <;> cases y <;> first
      | (cases hwf; done)
      | simp [encV2, Enc.seen, rowVcmp, v2Of, Fields.varg, d0, d1, d2, m0, m1, m2, VArg.field, VArg.scal, VArg.fmt, Fields.scal]

theorem vsel (o : OpVsel) : Statement (.vsel o) := by
  refine command rfl rfl rfl (fun _ h => by cases h) fun hwf => ?_
  obtain ⟨c, d, m, y, z⟩ := o
  have h_d := d.isLt
  have h_m := m.isLt
  simp only [Instr.wf] at hwf
  refine ⟨_, rfl, by decide, Nat.le_of_ble_eq_true rfl, Nat.ne_of_beq_eq_false rfl, rfl, ?_, ?_, ?_, rfl, ?_, ?_, ?_, ?_⟩
  · exact ⟨rfl, by cases y <;> cases z <;> first | (cases hwf; done) | (simp [encV3, VArg.field, VArg.scal, VArg.fmt]; omega)⟩
  · intro v hv; cases hv
  · intro v hv; cases hv
  · cases y <;> cases z <;> first
      | (cases hwf; done)
      | (simp [encV3, Enc.seen, Fields.within, rowVsel, vUsed, VArg.field, VArg.scal, VArg.fmt, Fields.scal]; done)
      | (simp [encV3, Enc.seen, Fields.within, rowVsel, vUsed, VArg.field, VArg.scal, VArg.fmt, Fields.scal]; exact lor_ones rfl (by omega))
  · intro h; cases h
  · intro h; cases h
  · cases y <;> cases z <;> first
      | (cases hwf; done)
      | simp [encV3, Enc.seen, rowVsel, Fields.varg, VArg.field, VArg.scal, VArg.fmt, Fields.scal]

theorem vand (o : OpV2) : Statement (.vand o) :=
  command rfl rfl rfl (fun _ h => by cases h) fun hwf => goodV2 rfl hwf (Nat.le_of_ble_eq_true rfl) (Nat.ne_of_beq_eq_false rfl)

theorem vor (o : OpV2) : Statement (.vor o) :=
  command rfl rfl rfl (fun _ h => by cases h) fun hwf => goodV2 rfl hwf (Nat.le_of_ble_eq_true rfl) (Nat.ne_of_beq_eq_false rfl)

theorem vxor (o : OpV2) : Statement (.vxor o) :=
  command rfl rfl rfl (fun _ h => by cases h) fun hwf => goodV2 rfl hwf (Nat.le_of_ble_eq_true rfl) (Nat.ne_of_beq_eq_false rfl)

theorem vshl (o : OpV2) : Statement (.vshl o) :=
  command rfl rfl rfl (fun _ h => by cases h) fun hwf => goodV2 rfl hwf (Nat.le_of_ble_eq_true rfl) (Nat.ne_of_beq_eq_false rfl)

theorem vshr (o : OpV2) : Statement (.vshr o) := by
  refine command rfl rfl rfl (fun _ h => by cases h) fun hwf => ?_
  obtain ⟨c, d, x, y⟩ := o
  have h_d := d.isLt
  simp only [Instr.wf] at hwf
  refine ⟨_, rfl, by decide, Nat.le_of_ble_eq_true rfl, Nat.ne_of_beq_eq_false rfl, rfl, ?_, ?_, ?_, rfl, ?_, ?_, ?_, ?_⟩
  · exact ⟨rfl, by cases x <;> cases y <;> first | (cases hwf; done) | (simp [encV2, VArg.field, VArg.scal, VArg.fmt]; omega)⟩
  · intro v hv; cases hv
  · intro v hv; cases hv
  · cases x <;> cases y <;> first
      | (cases hwf; done)
      | (simp [encV2, Enc.seen, Fields.within, rowVshr, vUsed, VArg.field, VArg.scal, VArg.fmt, Fields.scal]; done)
      | (simp [encV2, Enc.seen, Fields.within, rowVshr, vUsed, VArg.field, VArg.scal, VArg.fmt, Fields.scal]; exact lor_ones rfl (by omega))
  · intro h; cases h
  · intro h; cases h
  · cases x <;> cases y <;> first
      | (cases hwf; done)
      | simp [encV2, Enc.seen, rowVshr, v2Of, Fields.varg, VArg.field, VArg.scal, VArg.fmt, Fields.scal]

theorem vshrA (o : OpV2) : Statement (.vshrA o) := by
  refine command rfl rfl rfl (fun _ h => by cases h) fun hwf => ?_
  obtain ⟨c, d, x, y⟩ := o
  have h_d := d.isLt
  simp only [Instr.wf] at hwf
  refine ⟨_, rfl, by decide, Nat.le_of_ble_eq_true rfl, Nat.ne_of_beq_eq_false rfl, rfl, ?_, ?_, ?_, rfl, ?_, ?_, ?_, ?_⟩
  · exact ⟨rfl, by cases x <;> cases y <;> first | (cases hwf; done) | (simp [encV2, VArg.field, VArg.scal, VArg.fmt]; omega)⟩
  · intro v hv; cases hv
  · intro v hv; cases hv
  · cases x <;> cases y <;> first
      | (cases hwf; done)
      | (simp [encV2, Enc.seen, Fields.within, rowVshr, vUsed, VArg.field, VArg.scal, VArg.fmt, Fields.scal]; done)
      | (simp [encV2, Enc.seen, Fields.within, rowVshr, vUsed, VArg.field, VArg.scal, VArg.fmt, Fields.scal]; exact lor_ones rfl (by omega))
  · intro h; cases h
  · intro h; cases h
  · cases x <;> cases y <;> first
      | (cases hwf; done)
      | simp [encV2, Enc.seen, rowVshr, v2Of, Fields.varg, VArg.field, VArg.scal, VArg.fmt, Fields.scal]

theorem vclamp (o : OpV3) : Statement (.vclamp o) :=
  command rfl rfl rfl (fun _ h => by cases h) fun hwf => goodV3 rfl hwf (Nat.le_of_ble_eq_true rfl) (Nat.ne_of_beq_eq_false rfl)

theorem vmov (o : OpV1) : Statement (.vmov o) :=
  command rfl rfl rfl (fun _ h => by cases h) fun _ => goodV1 rfl (Nat.le_of_ble_eq_true rfl) (Nat.ne_of_beq_eq_false rfl)

theorem vfill (o : OpVfill) : Statement (.vfill o) := by
  refine command rfl rfl rfl (fun _ h => by cases h) fun hwf => ?_
  obtain ⟨c, d, s⟩ := o
  have h_d := d.isLt
  have h_s := s.isLt
  refine ⟨_, rfl, by decide, Nat.le_of_ble_eq_true rfl, Nat.ne_of_beq_eq_false rfl, rfl, ?_, ?_, ?_, rfl, ?_, ?_, ?_, ?_⟩
  · exact ⟨rfl, by simp; omega⟩
  · intro v hv; cases hv
  · intro v hv; cases hv
  · simp [rowVfill, vUsed, Enc.seen, Fields.within]
  · intro h; cases h
  · intro h; cases h
  · simp [Enc.seen, rowVfill, Fields.scal]

theorem vchain (o : OpVchain) : Statement (.vchain o) := by
  refine command rfl rfl rfl (fun _ h => by cases h) fun hwf => ?_
  obtain ⟨c, d, x, y, z, k, kf, ops⟩ := o
  simp only [Instr.wf, OpVchain.ok, Bool.and_eq_true, decide_eq_true_eq, beq_iff_eq] at hwf
  obtain ⟨⟨⟨hl, hl'⟩, hy⟩, hz⟩ := hwf
  obtain ⟨m1, m2, m3, m4⟩ := micros_code ops
  have hn : (ops.length - 1) % 8 + 1 = ops.length := by omega
  have hp : 256 ^ ops.length ≤ 2 ^ 64 := Nat.le_trans (Nat.pow_le_pow_right (by decide) hl') (by decide)
  have hk : sreg (k.val + kf.val * 32) = k := Fin.ext (by simp only [sreg, Fin.ofNat]; omega)
  have hkf : (k.val + kf.val * 32) / 32 = kf.val := by omega
  have hi : k.val + kf.val * 32 ||| 511 = 511 := lor_ones rfl (by omega)
  have hs : ops.length - 1 ||| 7 = 7 := lor_ones rfl (by omega)
  have hyr : optG y < 16 := by cases y with | none => decide | some g => exact g.isLt
  have hzr : optG z < 16 := by cases z with | none => decide | some g => exact g.isLt
  refine ⟨_, rfl, by decide, Nat.le_of_ble_eq_true rfl, Nat.ne_of_beq_eq_false rfl, rfl, ?_, ?_, ?_, rfl, ?_, ?_, ?_, ?_⟩
  · exact ⟨rfl, by simp; omega⟩
  · intro v hv; cases hv
  · intro v hv; cases hv; exact Nat.lt_of_lt_of_le m2 hp
  · simp only [Enc.seen, Fields.within, rowVchain, Option.getD_some, Option.getD_none, hn, m3, m4, ← hy, ← hz]
    cases y <;> cases z <;> simp [optG, hi, hs]
  · intro h
    simp only [Enc.seen, rowVchain, Option.getD_some, hn]
    rw [Nat.div_eq_of_lt m2]
    rfl
  · intro h; cases h
  · simp only [Enc.seen, rowVchain, Fields.chain, Option.getD_some, Option.getD_none, hn, m1, m3, m4, ← hy, ← hz, hk, hkf]
    cases y <;> cases z <;> simp [optG]

theorem vrsum (o : OpVred) : Statement (.vrsum o) :=
  command rfl rfl rfl (fun _ h => by cases h) fun _ => goodRed rfl (Nat.le_of_ble_eq_true rfl) (Nat.ne_of_beq_eq_false rfl)

theorem vrmax (o : OpVred) : Statement (.vrmax o) :=
  command rfl rfl rfl (fun _ h => by cases h) fun _ => goodRed rfl (Nat.le_of_ble_eq_true rfl) (Nat.ne_of_beq_eq_false rfl)

theorem vrmin (o : OpVred) : Statement (.vrmin o) :=
  command rfl rfl rfl (fun _ h => by cases h) fun _ => goodRed rfl (Nat.le_of_ble_eq_true rfl) (Nat.ne_of_beq_eq_false rfl)

theorem vargmax (o : OpVred) : Statement (.vargmax o) :=
  command rfl rfl rfl (fun _ h => by cases h) fun _ => goodRed rfl (Nat.le_of_ble_eq_true rfl) (Nat.ne_of_beq_eq_false rfl)

theorem vscan (o : OpVred) : Statement (.vscan o) :=
  command rfl rfl rfl (fun _ h => by cases h) fun _ => goodRed rfl (Nat.le_of_ble_eq_true rfl) (Nat.ne_of_beq_eq_false rfl)

theorem vtopk (o : OpVtopk) : Statement (.vtopk o) := by
  refine command rfl rfl rfl (fun _ h => by cases h) fun hwf => ?_
  obtain ⟨c, d, ix, a, row, k⟩ := o
  have h_d := d.isLt
  have h_ix := ix.isLt
  have h_a := a.isLt
  have h_k := k.isLt
  refine ⟨_, rfl, by decide, Nat.le_of_ble_eq_true rfl, Nat.ne_of_beq_eq_false rfl, rfl, ?_, ?_, ?_, rfl, ?_, ?_, ?_, ?_⟩
  · cases row <;> exact ⟨rfl, by simp [bit]; omega⟩
  · intro v hv; cases hv
  · intro v hv; cases hv
  · cases row <;> simp [bit, rowVtopk, uABC, Enc.seen, Fields.within] <;> exact lor_ones rfl (by omega)
  · intro h; cases h
  · intro h; cases h
  · cases row <;> simp [bit, rowVtopk, Enc.seen]

theorem vlse (o : OpVred) : Statement (.vlse o) :=
  command rfl rfl rfl (fun _ h => by cases h) fun _ => goodRed rfl (Nat.le_of_ble_eq_true rfl) (Nat.ne_of_beq_eq_false rfl)

theorem vzip (o : OpVzip) : Statement (.vzip o) := by
  refine command rfl rfl rfl (fun _ h => by cases h) fun hwf => ?_
  obtain ⟨c, d, a, b, e, f⟩ := o
  have h_d := d.isLt
  have h_a := a.isLt
  have h_b := b.isLt
  simp only [Instr.wf] at hwf
  refine ⟨_, rfl, by decide, Nat.le_of_ble_eq_true rfl, Nat.ne_of_beq_eq_false rfl, rfl, ?_, ?_, ?_, rfl, ?_, ?_, ?_, ?_⟩
  · cases e <;> cases f <;> exact ⟨rfl, by simp [encZip, optG]; omega⟩
  · intro v hv; cases hv
  · intro v hv; cases hv
  · cases e <;> cases f <;> first
      | (cases hwf; done)
      | simp [encZip, Enc.seen, Fields.within, rowZip, zipUsed, optG, uABC]
  · intro h; cases h
  · intro h; cases h
  · cases e <;> cases f <;> first
      | (cases hwf; done)
      | simp [encZip, Enc.seen, rowZip, Fields.zipE, Fields.zipF, optG]

theorem vunzip (o : OpVunzip) : Statement (.vunzip o) := by
  refine command rfl rfl rfl (fun _ h => by cases h) fun hwf => ?_
  obtain ⟨c, d, a, b, e, f⟩ := o
  have h_d := d.isLt
  have h_a := a.isLt
  have h_b := b.isLt
  simp only [Instr.wf] at hwf
  refine ⟨_, rfl, by decide, Nat.le_of_ble_eq_true rfl, Nat.ne_of_beq_eq_false rfl, rfl, ?_, ?_, ?_, rfl, ?_, ?_, ?_, ?_⟩
  · cases e <;> cases f <;> exact ⟨rfl, by simp [encZip, optG]; omega⟩
  · intro v hv; cases hv
  · intro v hv; cases hv
  · cases e <;> cases f <;> first
      | (cases hwf; done)
      | simp [encZip, Enc.seen, Fields.within, rowZip, zipUsed, optG, uABC]
  · intro h; cases h
  · intro h; cases h
  · cases e <;> cases f <;> first
      | (cases hwf; done)
      | simp [encZip, Enc.seen, rowZip, Fields.zipE, Fields.zipF, optG]

theorem vperm (o : OpVG3) : Statement (.vperm o) :=
  command rfl rfl rfl (fun _ h => by cases h) fun _ => goodG3 rfl (Nat.le_of_ble_eq_true rfl) (Nat.ne_of_beq_eq_false rfl)

theorem vtrans (o : OpVG2) : Statement (.vtrans o) :=
  command rfl rfl rfl (fun _ h => by cases h) fun _ => goodG2 rfl (Nat.le_of_ble_eq_true rfl) (Nat.ne_of_beq_eq_false rfl)

theorem vbcast (o : OpVG2) : Statement (.vbcast o) :=
  command rfl rfl rfl (fun _ h => by cases h) fun _ => goodG2 rfl (Nat.le_of_ble_eq_true rfl) (Nat.ne_of_beq_eq_false rfl)

theorem vcompact (o : OpVcompact) : Statement (.vcompact o) := by
  refine command rfl rfl rfl (fun _ h => by cases h) fun hwf => ?_
  obtain ⟨c, d, a, m, n⟩ := o
  have h_d := d.isLt
  have h_a := a.isLt
  have h_m := m.isLt
  have h_n := n.isLt
  refine ⟨_, rfl, by decide, Nat.le_of_ble_eq_true rfl, Nat.ne_of_beq_eq_false rfl, rfl, ?_, ?_, ?_, rfl, ?_, ?_, ?_, ?_⟩
  · exact ⟨rfl, by simp; omega⟩
  · intro v hv; cases hv
  · intro v hv; cases hv
  · simp [uABCD, Enc.seen, Fields.within]
  · intro h; cases h
  · intro h; cases h
  · simp [Enc.seen]

theorem vexpand (o : OpVG3) : Statement (.vexpand o) :=
  command rfl rfl rfl (fun _ h => by cases h) fun _ => goodG3 rfl (Nat.le_of_ble_eq_true rfl) (Nat.ne_of_beq_eq_false rfl)

theorem lease (o : OpLease) : Statement (.lease o) := by
  refine command rfl rfl rfl (fun _ h => by cases h) fun hwf => ?_
  obtain ⟨c, blocks⟩ := o
  have h_blocks := blocks.isLt
  simp only [Instr.wf, decide_eq_true_eq, Bool.and_eq_true] at hwf
  refine ⟨_, rfl, by decide, Nat.le_of_ble_eq_true rfl, Nat.ne_of_beq_eq_false rfl, rfl, ?_, ?_, ?_, rfl, ?_, ?_, ?_, ?_⟩
  · exact ⟨rfl, by simp; omega⟩
  · intro v hv; cases hv
  · intro v hv; cases hv
  · simp [Enc.seen, Fields.within]; exact lor_ones rfl (by omega)
  · intro h; cases h
  · intro h; cases h
  · simp [Enc.seen, hwf]

theorem unlease (o : Op0) : Statement (.unlease o) := by
  refine command rfl rfl rfl (fun _ h => by cases h) fun hwf => ?_
  obtain ⟨c⟩ := o
  refine ⟨_, rfl, by decide, Nat.le_of_ble_eq_true rfl, Nat.ne_of_beq_eq_false rfl, rfl, ?_, ?_, ?_, rfl, ?_, ?_, ?_, ?_⟩
  · exact ⟨rfl, by simp⟩
  · intro v hv; cases hv
  · intro v hv; cases hv
  · simp [Enc.seen, Fields.within]
  · intro h; cases h
  · intro h; cases h
  · simp [Enc.seen]

theorem unleaseAcs (o : Op0) : Statement (.unleaseAcs o) := by
  refine command rfl rfl rfl (fun _ h => by cases h) fun hwf => ?_
  obtain ⟨c⟩ := o
  refine ⟨_, rfl, by decide, Nat.le_of_ble_eq_true rfl, Nat.ne_of_beq_eq_false rfl, rfl, ?_, ?_, ?_, rfl, ?_, ?_, ?_, ?_⟩
  · exact ⟨rfl, by simp⟩
  · intro v hv; cases hv
  · intro v hv; cases hv
  · simp [Enc.seen, Fields.within]
  · intro h; cases h
  · intro h; cases h
  · simp [Enc.seen]

theorem tld (o : OpTld) : Statement (.tld o) := by
  refine command rfl rfl rfl (fun _ h => by cases h) fun hwf => ?_
  obtain ⟨c, t, row, n, a, st⟩ := o
  have h_t := t.isLt
  have h_row := row.isLt
  have h_n := n.isLt
  have h_a := a.isLt
  have h_st := st.isLt
  refine ⟨_, rfl, by decide, Nat.le_of_ble_eq_true rfl, Nat.ne_of_beq_eq_false rfl, rfl, ?_, ?_, ?_, rfl, ?_, ?_, ?_, ?_⟩
  · exact ⟨rfl, by simp [encTld]; omega⟩
  · intro v hv; cases hv
  · intro v hv; cases hv
  · simp [encTld, rowTld, Enc.seen, Fields.within]; (repeat' apply And.intro) <;> exact lor_ones rfl (by omega)
  · intro h; cases h
  · intro h; cases h
  · simp [encTld, rowTld, Enc.seen, h_row]

theorem tst (o : OpTld) : Statement (.tst o) := by
  refine command rfl rfl rfl (fun _ h => by cases h) fun hwf => ?_
  obtain ⟨c, t, row, n, a, st⟩ := o
  have h_t := t.isLt
  have h_row := row.isLt
  have h_n := n.isLt
  have h_a := a.isLt
  have h_st := st.isLt
  refine ⟨_, rfl, by decide, Nat.le_of_ble_eq_true rfl, Nat.ne_of_beq_eq_false rfl, rfl, ?_, ?_, ?_, rfl, ?_, ?_, ?_, ?_⟩
  · exact ⟨rfl, by simp [encTld]; omega⟩
  · intro v hv; cases hv
  · intro v hv; cases hv
  · simp [encTld, rowTld, Enc.seen, Fields.within]; (repeat' apply And.intro) <;> exact lor_ones rfl (by omega)
  · intro h; cases h
  · intro h; cases h
  · simp [encTld, rowTld, Enc.seen, h_row]

theorem tzero (o : OpTzero) : Statement (.tzero o) := by
  refine command rfl rfl rfl (fun _ h => by cases h) fun hwf => ?_
  obtain ⟨c, t, row, n⟩ := o
  have h_t := t.isLt
  have h_row := row.isLt
  have h_n := n.isLt
  refine ⟨_, rfl, by decide, Nat.le_of_ble_eq_true rfl, Nat.ne_of_beq_eq_false rfl, rfl, ?_, ?_, ?_, rfl, ?_, ?_, ?_, ?_⟩
  · exact ⟨rfl, by simp; omega⟩
  · intro v hv; cases hv
  · intro v hv; cases hv
  · simp [Enc.seen, Fields.within]; (repeat' apply And.intro) <;> exact lor_ones rfl (by omega)
  · intro h; cases h
  · intro h; cases h
  · simp [Enc.seen, h_row]

theorem mloadw (o : OpT) : Statement (.mloadw o) := by
  refine command rfl rfl rfl (fun _ h => by cases h) fun hwf => ?_
  obtain ⟨c, t⟩ := o
  have h_t := t.isLt
  refine ⟨_, rfl, by decide, Nat.le_of_ble_eq_true rfl, Nat.ne_of_beq_eq_false rfl, rfl, ?_, ?_, ?_, rfl, ?_, ?_, ?_, ?_⟩
  · exact ⟨rfl, by simp; omega⟩
  · intro v hv; cases hv
  · intro v hv; cases hv
  · simp [Enc.seen, Fields.within]
  · intro h; cases h
  · intro h; cases h
  · simp [Enc.seen]

theorem mrows (o : OpMrows) : Statement (.mrows o) := by
  refine command rfl rfl rfl (fun _ h => by cases h) fun hwf => ?_
  obtain ⟨c, row, t, a, n, set⟩ := o
  have h_row := row.isLt
  have h_t := t.isLt
  have h_a := a.isLt
  have h_n := n.isLt
  refine ⟨_, rfl, by decide, Nat.le_of_ble_eq_true rfl, Nat.ne_of_beq_eq_false rfl, rfl, ?_, ?_, ?_, rfl, ?_, ?_, ?_, ?_⟩
  · cases set <;> exact ⟨rfl, by simp [bit]; omega⟩
  · intro v hv; cases hv
  · intro v hv; cases hv
  · cases set <;> simp [bit, Enc.seen, Fields.within] <;> (repeat' apply And.intro) <;> exact lor_ones rfl (by omega)
  · intro h; cases h
  · intro h; cases h
  · cases set <;> simp [bit, Enc.seen]

theorem mma (o : OpMma) : Statement (.mma o) := by
  refine command rfl rfl rfl (fun _ h => by cases h) fun hwf => ?_
  obtain ⟨c, row, t, w, n, set⟩ := o
  have h_row := row.isLt
  have h_t := t.isLt
  have h_w := w.isLt
  have h_n := n.isLt
  refine ⟨_, rfl, by decide, Nat.le_of_ble_eq_true rfl, Nat.ne_of_beq_eq_false rfl, rfl, ?_, ?_, ?_, rfl, ?_, ?_, ?_, ?_⟩
  · cases set <;> exact ⟨rfl, by simp [bit]; omega⟩
  · intro v hv; cases hv
  · intro v hv; cases hv
  · cases set <;> simp [bit, Enc.seen, Fields.within] <;> (repeat' apply And.intro) <;> exact lor_ones rfl (by omega)
  · intro h; cases h
  · intro h; cases h
  · cases set <;> simp [bit, Enc.seen]

theorem acszero (o : OpAcsz) : Statement (.acszero o) := by
  refine command rfl rfl rfl (fun _ h => by cases h) fun hwf => ?_
  obtain ⟨c, row, n⟩ := o
  have h_row := row.isLt
  have h_n := n.isLt
  refine ⟨_, rfl, by decide, Nat.le_of_ble_eq_true rfl, Nat.ne_of_beq_eq_false rfl, rfl, ?_, ?_, ?_, rfl, ?_, ?_, ?_, ?_⟩
  · exact ⟨rfl, by simp; omega⟩
  · intro v hv; cases hv
  · intro v hv; cases hv
  · simp [Enc.seen, Fields.within]; (repeat' apply And.intro) <;> exact lor_ones rfl (by omega)
  · intro h; cases h
  · intro h; cases h
  · simp [Enc.seen]

theorem bsmm (o : OpBsmm) : Statement (.bsmm o) := by
  refine command rfl rfl rfl (fun _ h => by cases h) fun hwf => ?_
  obtain ⟨c, row, t, w, a, m, set⟩ := o
  have h_row := row.isLt
  have h_t := t.isLt
  have h_w := w.isLt
  have h_a := a.isLt
  have h_m := m.isLt
  refine ⟨_, rfl, by decide, Nat.le_of_ble_eq_true rfl, Nat.ne_of_beq_eq_false rfl, rfl, ?_, ?_, ?_, rfl, ?_, ?_, ?_, ?_⟩
  · cases set <;> exact ⟨rfl, by simp [bit]; omega⟩
  · intro v hv; cases hv
  · intro v hv; cases hv
  · cases set <;> simp [bit, Enc.seen, Fields.within] <;> exact lor_ones rfl (by omega)
  · intro h; cases h
  · intro h; cases h
  · cases set <;> simp [bit, Enc.seen]

theorem task (o : OpTask) : Statement (.task o) := by
  refine command rfl rfl rfl (fun _ h => by cases h) fun hwf => ?_
  obtain ⟨c, slot, a, b, p, hash⟩ := o
  have h_slot := slot.isLt
  have h_a := a.isLt
  have h_b := b.isLt
  have h_p := p.isLt
  refine ⟨_, rfl, by decide, Nat.le_of_ble_eq_true rfl, Nat.ne_of_beq_eq_false rfl, rfl, ?_, ?_, ?_, rfl, ?_, ?_, ?_, ?_⟩
  · exact ⟨rfl, by simp; omega⟩
  · intro v hv; cases hv
  · intro v hv; cases hv; simp; omega
  · simp [uABC, Enc.seen, Fields.within]
  · intro h; simp
  · intro h; cases h
  · simp [Enc.seen]

theorem taskwait (o : OpSlot) : Statement (.taskwait o) := by
  refine command rfl rfl rfl (fun _ h => by cases h) fun hwf => ?_
  obtain ⟨c, slot⟩ := o
  have h_slot := slot.isLt
  refine ⟨_, rfl, by decide, Nat.le_of_ble_eq_true rfl, Nat.ne_of_beq_eq_false rfl, rfl, ?_, ?_, ?_, rfl, ?_, ?_, ?_, ?_⟩
  · exact ⟨rfl, by simp; omega⟩
  · intro v hv; cases hv
  · intro v hv; cases hv
  · simp [Enc.seen, Fields.within]
  · intro h; cases h
  · intro h; cases h
  · simp [Enc.seen]

theorem taskst (o : OpTaskst) : Statement (.taskst o) := by
  refine command rfl rfl rfl (fun _ h => by cases h) fun hwf => ?_
  obtain ⟨c, d, slot⟩ := o
  have h_d := d.isLt
  have h_slot := slot.isLt
  refine ⟨_, rfl, by decide, Nat.le_of_ble_eq_true rfl, Nat.ne_of_beq_eq_false rfl, rfl, ?_, ?_, ?_, rfl, ?_, ?_, ?_, ?_⟩
  · exact ⟨rfl, by simp; omega⟩
  · intro v hv; cases hv
  · intro v hv; cases hv
  · simp [Enc.seen, Fields.within]
  · intro h; cases h
  · intro h; cases h
  · simp [Enc.seen]

theorem launch (o : OpLaunch) : Statement (.launch o) := by
  refine command rfl rfl rfl (fun _ h => by cases h) fun hwf => ?_
  obtain ⟨c, d, p, r, q, desc⟩ := o
  have h_d := d.isLt
  have h_p := p.isLt
  have h_r := r.isLt
  have h_q := q.isLt
  have h_desc := desc.isLt
  simp only [Instr.wf, decide_eq_true_eq] at hwf
  refine ⟨_, rfl, by decide, Nat.le_of_ble_eq_true rfl, Nat.ne_of_beq_eq_false rfl, rfl, ?_, ?_, ?_, rfl, ?_, ?_, ?_, ?_⟩
  · exact ⟨rfl, by simp⟩
  · intro v hv; cases hv
  · intro v hv; cases hv; simp; omega
  · simp [uABCD, Enc.seen, Fields.within]
  · intro h; exact decide_eq_false (by simp [Enc.seen]; omega)
  · intro h; cases h
  · simp [Enc.seen, pdst_val, hwf]

theorem launchp (o : OpLaunchp) : Statement (.launchp o) := by
  refine command rfl rfl rfl (fun _ h => by cases h) fun hwf => ?_
  obtain ⟨c, d, r, q⟩ := o
  have h_d := d.isLt
  have h_r := r.isLt
  have h_q := q.isLt
  refine ⟨_, rfl, by decide, Nat.le_of_ble_eq_true rfl, Nat.ne_of_beq_eq_false rfl, rfl, ?_, ?_, ?_, rfl, ?_, ?_, ?_, ?_⟩
  · exact ⟨rfl, by simp⟩
  · intro v hv; cases hv
  · intro v hv; cases hv
  · simp [Enc.seen, Fields.within]
  · intro h; cases h
  · intro h; cases h
  · simp [Enc.seen]

theorem sld (d a : KReg) : Statement (.sld d a) := by
  obtain ⟨h0, h1, h2, h3, h4, h5, h6⟩ := wordR_fields (op := 0x01) (d := d.val) (a := a.val) (b := 0) (s := 0) (by decide) d.isLt a.isLt (by decide) (by decide)
  exact sampler rfl rfl rfl (fun _ h => by cases h) h0 (by simp [decodeSampler, sampR, sampUses, sampReg, h1, h2, h3, h4, h5, h6])

theorem sldm (d a : KReg) : Statement (.sldm d a) := by
  obtain ⟨h0, h1, h2, h3, h4, h5, h6⟩ := wordR_fields (op := 0x02) (d := d.val) (a := a.val) (b := 0) (s := 0) (by decide) d.isLt a.isLt (by decide) (by decide)
  exact sampler rfl rfl rfl (fun _ h => by cases h) h0 (by simp [decodeSampler, sampR, sampUses, sampReg, h1, h2, h3, h4, h5, h6])

theorem sscale (a : KReg) : Statement (.sscale a) := by
  obtain ⟨h0, h1, h2, h3, h4, h5, h6⟩ := wordR_fields (op := 0x03) (d := 0) (a := a.val) (b := 0) (s := 0) (by decide) (by decide) a.isLt (by decide) (by decide)
  exact sampler rfl rfl rfl (fun _ h => by cases h) h0 (by simp [decodeSampler, sampR, sampUses, sampReg, h1, h2, h3, h4, h5, h6])

theorem spen (a : KReg) : Statement (.spen a) := by
  obtain ⟨h0, h1, h2, h3, h4, h5, h6⟩ := wordR_fields (op := 0x04) (d := 0) (a := a.val) (b := 0) (s := 0) (by decide) (by decide) a.isLt (by decide) (by decide)
  exact sampler rfl rfl rfl (fun _ h => by cases h) h0 (by simp [decodeSampler, sampR, sampUses, sampReg, h1, h2, h3, h4, h5, h6])

theorem smask : Statement .smask := by
  obtain ⟨h0, h1, h2, h3, h4, h5, h6⟩ := wordR_fields (op := 0x05) (d := 0) (a := 0) (b := 0) (s := 0) (by decide) (by decide) (by decide) (by decide) (by decide)
  exact sampler rfl rfl rfl (fun _ h => by cases h) h0 (by simp [decodeSampler, sampR, sampUses, h1, h2, h3, h4, h5, h6])

theorem stopk (a : KReg) : Statement (.stopk a) := by
  obtain ⟨h0, h1, h2, h3, h4, h5, h6⟩ := wordR_fields (op := 0x06) (d := 0) (a := a.val) (b := 0) (s := 0) (by decide) (by decide) a.isLt (by decide) (by decide)
  exact sampler rfl rfl rfl (fun _ h => by cases h) h0 (by simp [decodeSampler, sampR, sampUses, sampReg, h1, h2, h3, h4, h5, h6])

theorem stopp (a : KReg) : Statement (.stopp a) := by
  obtain ⟨h0, h1, h2, h3, h4, h5, h6⟩ := wordR_fields (op := 0x07) (d := 0) (a := a.val) (b := 0) (s := 0) (by decide) (by decide) a.isLt (by decide) (by decide)
  exact sampler rfl rfl rfl (fun _ h => by cases h) h0 (by simp [decodeSampler, sampR, sampUses, sampReg, h1, h2, h3, h4, h5, h6])

theorem sminp (a : KReg) : Statement (.sminp a) := by
  obtain ⟨h0, h1, h2, h3, h4, h5, h6⟩ := wordR_fields (op := 0x08) (d := 0) (a := a.val) (b := 0) (s := 0) (by decide) (by decide) a.isLt (by decide) (by decide)
  exact sampler rfl rfl rfl (fun _ h => by cases h) h0 (by simp [decodeSampler, sampR, sampUses, sampReg, h1, h2, h3, h4, h5, h6])

theorem ssoft : Statement .ssoft := by
  obtain ⟨h0, h1, h2, h3, h4, h5, h6⟩ := wordR_fields (op := 0x09) (d := 0) (a := 0) (b := 0) (s := 0) (by decide) (by decide) (by decide) (by decide) (by decide)
  exact sampler rfl rfl rfl (fun _ h => by cases h) h0 (by simp [decodeSampler, sampR, sampUses, h1, h2, h3, h4, h5, h6])

theorem sdraw (d : KReg) : Statement (.sdraw d) := by
  obtain ⟨h0, h1, h2, h3, h4, h5, h6⟩ := wordR_fields (op := 0x0A) (d := d.val) (a := 0) (b := 0) (s := 0) (by decide) d.isLt (by decide) (by decide) (by decide)
  exact sampler rfl rfl rfl (fun _ h => by cases h) h0 (by simp [decodeSampler, sampR, sampUses, sampReg, h1, h2, h3, h4, h5, h6])

theorem spick (d a : KReg) : Statement (.spick d a) := by
  obtain ⟨h0, h1, h2, h3, h4, h5, h6⟩ := wordR_fields (op := 0x0B) (d := d.val) (a := a.val) (b := 0) (s := 0) (by decide) d.isLt a.isLt (by decide) (by decide)
  exact sampler rfl rfl rfl (fun _ h => by cases h) h0 (by simp [decodeSampler, sampR, sampUses, sampReg, h1, h2, h3, h4, h5, h6])

theorem sratio (d a : KReg) : Statement (.sratio d a) := by
  obtain ⟨h0, h1, h2, h3, h4, h5, h6⟩ := wordR_fields (op := 0x0C) (d := d.val) (a := a.val) (b := 0) (s := 0) (by decide) d.isLt a.isLt (by decide) (by decide)
  exact sampler rfl rfl rfl (fun _ h => by cases h) h0 (by simp [decodeSampler, sampR, sampUses, sampReg, h1, h2, h3, h4, h5, h6])

theorem sresid (a : KReg) : Statement (.sresid a) := by
  obtain ⟨h0, h1, h2, h3, h4, h5, h6⟩ := wordR_fields (op := 0x0D) (d := 0) (a := a.val) (b := 0) (s := 0) (by decide) (by decide) a.isLt (by decide) (by decide)
  exact sampler rfl rfl rfl (fun _ h => by cases h) h0 (by simp [decodeSampler, sampR, sampUses, sampReg, h1, h2, h3, h4, h5, h6])

theorem snorm : Statement .snorm := by
  obtain ⟨h0, h1, h2, h3, h4, h5, h6⟩ := wordR_fields (op := 0x0E) (d := 0) (a := 0) (b := 0) (s := 0) (by decide) (by decide) (by decide) (by decide) (by decide)
  exact sampler rfl rfl rfl (fun _ h => by cases h) h0 (by simp [decodeSampler, sampR, sampUses, h1, h2, h3, h4, h5, h6])

theorem semit (a : KReg) : Statement (.semit a) := by
  obtain ⟨h0, h1, h2, h3, h4, h5, h6⟩ := wordR_fields (op := 0x0F) (d := 0) (a := a.val) (b := 0) (s := 0) (by decide) (by decide) a.isLt (by decide) (by decide)
  exact sampler rfl rfl rfl (fun _ h => by cases h) h0 (by simp [decodeSampler, sampR, sampUses, sampReg, h1, h2, h3, h4, h5, h6])

theorem semitD (a b : KReg) : Statement (.semitD a b) := by
  obtain ⟨h0, h1, h2, h3, h4, h5, h6⟩ := wordR_fields (op := 0x0F) (d := 0) (a := a.val) (b := b.val) (s := 1) (by decide) (by decide) a.isLt b.isLt (by decide)
  exact sampler rfl rfl rfl (fun _ h => by cases h) h0 (by simp [decodeSampler, sampR, sampUses, sampReg, h1, h2, h3, h4, h5, h6])

theorem saccept (d a : KReg) : Statement (.saccept d a) := by
  obtain ⟨h0, h1, h2, h3, h4, h5, h6⟩ := wordR_fields (op := 0x10) (d := d.val) (a := a.val) (b := 0) (s := 0) (by decide) d.isLt a.isLt (by decide) (by decide)
  exact sampler rfl rfl rfl (fun _ h => by cases h) h0 (by simp [decodeSampler, sampR, sampUses, sampReg, h1, h2, h3, h4, h5, h6])

theorem sroll (a : KReg) : Statement (.sroll a) := by
  obtain ⟨h0, h1, h2, h3, h4, h5, h6⟩ := wordR_fields (op := 0x11) (d := 0) (a := a.val) (b := 0) (s := 0) (by decide) (by decide) a.isLt (by decide) (by decide)
  exact sampler rfl rfl rfl (fun _ h => by cases h) h0 (by simp [decodeSampler, sampR, sampUses, sampReg, h1, h2, h3, h4, h5, h6])

theorem sadd (d a b : KReg) : Statement (.sadd d a b) := by
  obtain ⟨h0, h1, h2, h3, h4, h5, h6⟩ := wordR_fields (op := 0x12) (d := d.val) (a := a.val) (b := b.val) (s := 0) (by decide) d.isLt a.isLt b.isLt (by decide)
  exact sampler rfl rfl rfl (fun _ h => by cases h) h0 (by simp [decodeSampler, sampR, sampUses, sampReg, h1, h2, h3, h4, h5, h6])

theorem saddF (d a b : KReg) : Statement (.saddF d a b) := by
  obtain ⟨h0, h1, h2, h3, h4, h5, h6⟩ := wordR_fields (op := 0x12) (d := d.val) (a := a.val) (b := b.val) (s := 1) (by decide) d.isLt a.isLt b.isLt (by decide)
  exact sampler rfl rfl rfl (fun _ h => by cases h) h0 (by simp [decodeSampler, sampR, sampUses, sampReg, h1, h2, h3, h4, h5, h6])

theorem ssub (d a b : KReg) : Statement (.ssub d a b) := by
  obtain ⟨h0, h1, h2, h3, h4, h5, h6⟩ := wordR_fields (op := 0x13) (d := d.val) (a := a.val) (b := b.val) (s := 0) (by decide) d.isLt a.isLt b.isLt (by decide)
  exact sampler rfl rfl rfl (fun _ h => by cases h) h0 (by simp [decodeSampler, sampR, sampUses, sampReg, h1, h2, h3, h4, h5, h6])

theorem ssubF (d a b : KReg) : Statement (.ssubF d a b) := by
  obtain ⟨h0, h1, h2, h3, h4, h5, h6⟩ := wordR_fields (op := 0x13) (d := d.val) (a := a.val) (b := b.val) (s := 1) (by decide) d.isLt a.isLt b.isLt (by decide)
  exact sampler rfl rfl rfl (fun _ h => by cases h) h0 (by simp [decodeSampler, sampR, sampUses, sampReg, h1, h2, h3, h4, h5, h6])

theorem smul (d a b : KReg) : Statement (.smul d a b) := by
  obtain ⟨h0, h1, h2, h3, h4, h5, h6⟩ := wordR_fields (op := 0x14) (d := d.val) (a := a.val) (b := b.val) (s := 0) (by decide) d.isLt a.isLt b.isLt (by decide)
  exact sampler rfl rfl rfl (fun _ h => by cases h) h0 (by simp [decodeSampler, sampR, sampUses, sampReg, h1, h2, h3, h4, h5, h6])

theorem smulF (d a b : KReg) : Statement (.smulF d a b) := by
  obtain ⟨h0, h1, h2, h3, h4, h5, h6⟩ := wordR_fields (op := 0x14) (d := d.val) (a := a.val) (b := b.val) (s := 1) (by decide) d.isLt a.isLt b.isLt (by decide)
  exact sampler rfl rfl rfl (fun _ h => by cases h) h0 (by simp [decodeSampler, sampR, sampUses, sampReg, h1, h2, h3, h4, h5, h6])

theorem scmp (cc : Fin 8) (d a b : KReg) : Statement (.scmp cc d a b) := by
  obtain ⟨h0, h1, h2, h3, h4, h5, h6⟩ := wordR_fields (op := 0x15) (d := d.val) (a := a.val) (b := b.val) (s := cc.val) (by decide) d.isLt a.isLt b.isLt (Nat.lt_trans cc.isLt (by decide))
  exact sampler rfl rfl rfl (fun _ h => by cases h) h0 (by simp [decodeSampler, sampR, sampUses, sampReg, h1, h2, h3, h4, h5, h6])

theorem sjmp (off : BitVec 22) : Statement (.sjmp off) := by
  obtain ⟨h0, h1, h2, h3, h4, h5⟩ := wordJ_fields (op := 0x16) (h := 0) (low := off.toNat) (by decide) (by decide) off.isLt
  exact sampler rfl rfl rfl (fun _ h => by cases h) h0 (by simp [decodeSampler, h1, h2, h4])

theorem sjz (a : KReg) (off : BitVec 22) : Statement (.sjz a off) := by
  obtain ⟨h0, h1, h2, h3, h4, h5⟩ := wordJ_fields (op := 0x17) (h := a.val) (low := off.toNat) (by decide) a.isLt off.isLt
  exact sampler rfl rfl rfl (fun _ h => by cases h) h0 (by simp [decodeSampler, sampReg, h1, h2, h4])

theorem sjnz (a : KReg) (off : BitVec 22) : Statement (.sjnz a off) := by
  obtain ⟨h0, h1, h2, h3, h4, h5⟩ := wordJ_fields (op := 0x18) (h := a.val) (low := off.toNat) (by decide) a.isLt off.isLt
  exact sampler rfl rfl rfl (fun _ h => by cases h) h0 (by simp [decodeSampler, sampReg, h1, h2, h4])

theorem smovi (d : KReg) (imm : BitVec 21) : Statement (.smovi d imm) := by
  obtain ⟨h0, h1, h2, h3, h4, h5⟩ := wordJ_fields (op := 0x19) (h := d.val) (low := imm.toNat) (by decide) d.isLt (Nat.lt_trans imm.isLt (by decide))
  have e1 : imm.toNat / 2097152 = 0 := by have := imm.isLt; omega
  have e2 : BitVec.ofNat 21 imm.toNat = imm := BitVec.eq_of_toNat_eq (by simp only [BitVec.toNat_ofNat]; have := imm.isLt; omega)
  rw [e1] at h3
  rw [e2] at h5
  exact sampler rfl rfl rfl (fun _ h => by cases h) h0 (by simp [decodeSampler, sampReg, h1, h2, h3, h5])

theorem smoviH (d : KReg) (imm : BitVec 21) : Statement (.smoviH d imm) := by
  have hi := imm.isLt
  have e1 : (2 ^ 21 + imm.toNat) / 2097152 = 1 := by omega
  have e2 : BitVec.ofNat 21 (2 ^ 21 + imm.toNat) = imm := BitVec.eq_of_toNat_eq (by simp only [BitVec.toNat_ofNat]; omega)
  obtain ⟨h0, h1, h2, h3, h4, h5⟩ := wordJ_fields (op := 0x19) (h := d.val) (low := 2 ^ 21 + imm.toNat) (by decide) d.isLt (by omega)
  rw [e1] at h3
  rw [e2] at h5
  refine sampler (w := wordJ 0x19 d.val (2 ^ 21 + imm.toNat)) rfl rfl rfl (fun _ h => by cases h) h0 ?_
  generalize wordJ 0x19 d.val (2 ^ 21 + imm.toNat) = W at *
  simp [decodeSampler, sampReg, h1, h2, h3, h5]

theorem srngSeed (d : KReg) : Statement (.srngSeed d) := by
  obtain ⟨h0, h1, h2, h3, h4, h5, h6⟩ := wordR_fields (op := 0x1A) (d := d.val) (a := 0) (b := 0) (s := 0) (by decide) d.isLt (by decide) (by decide) (by decide)
  exact sampler rfl rfl rfl (fun _ h => by cases h) h0 (by simp [decodeSampler, sampR, sampUses, sampReg, h1, h2, h3, h4, h5, h6])

theorem srngSetseed (a : KReg) : Statement (.srngSetseed a) := by
  obtain ⟨h0, h1, h2, h3, h4, h5, h6⟩ := wordR_fields (op := 0x1A) (d := 0) (a := a.val) (b := 0) (s := 1) (by decide) (by decide) a.isLt (by decide) (by decide)
  exact sampler rfl rfl rfl (fun _ h => by cases h) h0 (by simp [decodeSampler, sampR, sampUses, sampReg, h1, h2, h3, h4, h5, h6])

theorem srngCtr (d : KReg) : Statement (.srngCtr d) := by
  obtain ⟨h0, h1, h2, h3, h4, h5, h6⟩ := wordR_fields (op := 0x1A) (d := d.val) (a := 0) (b := 0) (s := 2) (by decide) d.isLt (by decide) (by decide) (by decide)
  exact sampler rfl rfl rfl (fun _ h => by cases h) h0 (by simp [decodeSampler, sampR, sampUses, sampReg, h1, h2, h3, h4, h5, h6])

theorem srngSetctr (a : KReg) : Statement (.srngSetctr a) := by
  obtain ⟨h0, h1, h2, h3, h4, h5, h6⟩ := wordR_fields (op := 0x1A) (d := 0) (a := a.val) (b := 0) (s := 3) (by decide) (by decide) a.isLt (by decide) (by decide)
  exact sampler rfl rfl rfl (fun _ h => by cases h) h0 (by simp [decodeSampler, sampR, sampUses, sampReg, h1, h2, h3, h4, h5, h6])

theorem swait (d a b : KReg) : Statement (.swait d a b) := by
  obtain ⟨h0, h1, h2, h3, h4, h5, h6⟩ := wordR_fields (op := 0x1B) (d := d.val) (a := a.val) (b := b.val) (s := 0) (by decide) d.isLt a.isLt b.isLt (by decide)
  exact sampler rfl rfl rfl (fun _ h => by cases h) h0 (by simp [decodeSampler, sampR, sampUses, sampReg, h1, h2, h3, h4, h5, h6])

theorem send : Statement .send := by
  obtain ⟨h0, h1, h2, h3, h4, h5, h6⟩ := wordR_fields (op := 0x1C) (d := 0) (a := 0) (b := 0) (s := 0) (by decide) (by decide) (by decide) (by decide) (by decide)
  exact sampler rfl rfl rfl (fun _ h => by cases h) h0 (by simp [decodeSampler, sampR, sampUses, h1, h2, h3, h4, h5, h6])

theorem trapEntry : Statement .trapEntry := event rfl rfl (fun _ h => by cases h)

theorem xlatHandleWrite : Statement .xlatHandleWrite := event rfl rfl (fun _ h => by cases h)

theorem walkComplete : Statement .walkComplete := event rfl rfl (fun _ h => by cases h)

theorem walkResultExpiry : Statement .walkResultExpiry := event rfl rfl (fun _ h => by cases h)

theorem copyPieceLanding : Statement .copyPieceLanding := event rfl rfl (fun _ h => by cases h)

theorem collectiveComplete : Statement .collectiveComplete := event rfl rfl (fun _ h => by cases h)

theorem collectiveDeadline : Statement .collectiveDeadline := event rfl rfl (fun _ h => by cases h)

theorem fabricMessageArrival : Statement .fabricMessageArrival := event rfl rfl (fun _ h => by cases h)

theorem fabricAckReceived : Statement .fabricAckReceived := event rfl rfl (fun _ h => by cases h)

theorem fabricNackReceived : Statement .fabricNackReceived := event rfl rfl (fun _ h => by cases h)

theorem fmBackoffExpiry : Statement .fmBackoffExpiry := event rfl rfl (fun _ h => by cases h)

theorem arrayRowUpdate : Statement .arrayRowUpdate := event rfl rfl (fun _ h => by cases h)

theorem acsAllotmentGrant : Statement .acsAllotmentGrant := event rfl rfl (fun _ h => by cases h)

theorem arrayArbitration : Statement .arrayArbitration := event rfl rfl (fun _ h => by cases h)

theorem leaseTermEnd : Statement .leaseTermEnd := event rfl rfl (fun _ h => by cases h)

theorem budgetRefill : Statement .budgetRefill := event rfl rfl (fun _ h => by cases h)

theorem poolRequestHandled : Statement .poolRequestHandled := event rfl rfl (fun _ h => by cases h)

theorem unassignedOpcode : Statement .unassignedOpcode := event rfl rfl (fun _ h => by cases h)

theorem sectionEnter : Statement .sectionEnter := event rfl rfl (fun _ h => by cases h)

theorem sectionRetire : Statement .sectionRetire := event rfl rfl (fun _ h => by cases h)

theorem codeFetch : Statement .codeFetch := event rfl rfl (fun _ h => by cases h)

theorem jobPlacement : Statement .jobPlacement := event rfl rfl (fun _ h => by cases h)

theorem placementWaitLimit : Statement .placementWaitLimit := event rfl rfl (fun _ h => by cases h)

theorem jobComplete : Statement .jobComplete := event rfl rfl (fun _ h => by cases h)

theorem wakeTargetStore : Statement .wakeTargetStore := event rfl rfl (fun _ h => by cases h)

theorem jobPark : Statement .jobPark := event rfl rfl (fun _ h => by cases h)

theorem preemptRequest : Statement .preemptRequest := event rfl rfl (fun _ h => by cases h)

theorem jobPreempted : Statement .jobPreempted := event rfl rfl (fun _ h => by cases h)

theorem jobResume : Statement .jobResume := event rfl rfl (fun _ h => by cases h)

theorem preemptOverrun : Statement .preemptOverrun := event rfl rfl (fun _ h => by cases h)

theorem globalAccessPerformed : Statement .globalAccessPerformed := event rfl rfl (fun _ h => by cases h)

theorem globalReadReply : Statement .globalReadReply := event rfl rfl (fun _ h => by cases h)

theorem combineLineDrain : Statement .combineLineDrain := event rfl rfl (fun _ h => by cases h)

theorem saccgUpdate : Statement .saccgUpdate := event rfl rfl (fun _ h => by cases h)

theorem taskDeadline : Statement .taskDeadline := event rfl rfl (fun _ h => by cases h)

theorem passForm : Statement .passForm := event rfl rfl (fun _ h => by cases h)

theorem weightBufferRead : Statement .weightBufferRead := event rfl rfl (fun _ h => by cases h)

theorem passArrayTerm : Statement .passArrayTerm := event rfl rfl (fun _ h => by cases h)

theorem epilogueChunk : Statement .epilogueChunk := event rfl rfl (fun _ h => by cases h)

theorem scatterCheck : Statement .scatterCheck := event rfl rfl (fun _ h => by cases h)

theorem taskRowPerformed : Statement .taskRowPerformed := event rfl rfl (fun _ h => by cases h)

theorem passBackPosition : Statement .passBackPosition := event rfl rfl (fun _ h => by cases h)

theorem speculationStart : Statement .speculationStart := event rfl rfl (fun _ h => by cases h)

theorem spoilArrival : Statement .spoilArrival := event rfl rfl (fun _ h => by cases h)

theorem claimAttempt : Statement .claimAttempt := event rfl rfl (fun _ h => by cases h)

theorem watchFenceArrival : Statement .watchFenceArrival := event rfl rfl (fun _ h => by cases h)

theorem watchFenceAck : Statement .watchFenceAck := event rfl rfl (fun _ h => by cases h)

theorem shadowLinesPerformed : Statement .shadowLinesPerformed := event rfl rfl (fun _ h => by cases h)

theorem speculationHorizon : Statement .speculationHorizon := event rfl rfl (fun _ h => by cases h)

theorem samplerLaneGrant : Statement .samplerLaneGrant := event rfl rfl (fun _ h => by cases h)

theorem maskHeaderPoll : Statement .maskHeaderPoll := event rfl rfl (fun _ h => by cases h)

theorem swaitTimeout : Statement .swaitTimeout := event rfl rfl (fun _ h => by cases h)

theorem reshardDone : Statement .reshardDone := event rfl rfl (fun _ h => by cases h)

theorem wakeRegisterStore : Statement .wakeRegisterStore := event rfl rfl (fun _ h => by cases h)

theorem apertureAccess : Statement .apertureAccess := event rfl rfl (fun _ h => by cases h)

theorem reqtailWrite : Statement .reqtailWrite := event rfl rfl (fun _ h => by cases h)

theorem rspheadWrite : Statement .rspheadWrite := event rfl rfl (fun _ h => by cases h)

theorem klotaResponse : Statement .klotaResponse := event rfl rfl (fun _ h => by cases h)

theorem vfFlr : Statement .vfFlr := event rfl rfl (fun _ h => by cases h)

theorem pfFlr : Statement .pfFlr := event rfl rfl (fun _ h => by cases h)

theorem powerOn : Statement .powerOn := event rfl rfl (fun _ h => by cases h)

theorem bootStage : Statement .bootStage := event rfl rfl (fun _ h => by cases h)

theorem ringRead : Statement .ringRead := event rfl rfl (fun _ h => by cases h)

theorem poolGrant : Statement .poolGrant := event rfl rfl (fun _ h => by cases h)

theorem recordLanded : Statement .recordLanded := event rfl rfl (fun _ h => by cases h)

theorem launchStart : Statement .launchStart := event rfl rfl (fun _ h => by cases h)

theorem prologueRun : Statement .prologueRun := event rfl rfl (fun _ h => by cases h)

theorem prologueRepeat : Statement .prologueRepeat := event rfl rfl (fun _ h => by cases h)

theorem version : Statement .version := event rfl rfl (fun _ h => by cases h)

theorem resync : Statement .resync := event rfl rfl (fun _ h => by cases h)

theorem partSet : Statement .partSet := event rfl rfl (fun _ h => by cases h)

theorem partEntryInForce : Statement .partEntryInForce := event rfl rfl (fun _ h => by cases h)

theorem vfAssign : Statement .vfAssign := event rfl rfl (fun _ h => by cases h)

theorem uccfgSet : Statement .uccfgSet := event rfl rfl (fun _ h => by cases h)

theorem shapeSet : Statement .shapeSet := event rfl rfl (fun _ h => by cases h)

theorem pkgSet : Statement .pkgSet := event rfl rfl (fun _ h => by cases h)

theorem queueCreate : Statement .queueCreate := event rfl rfl (fun _ h => by cases h)

theorem queueDestroy : Statement .queueDestroy := event rfl rfl (fun _ h => by cases h)

theorem queueQuery : Statement .queueQuery := event rfl rfl (fun _ h => by cases h)

theorem poolCap : Statement .poolCap := event rfl rfl (fun _ h => by cases h)

theorem mapStage1 : Statement .mapStage1 := event rfl rfl (fun _ h => by cases h)

theorem mapStage2 : Statement .mapStage2 := event rfl rfl (fun _ h => by cases h)

theorem mapContextDesc : Statement .mapContextDesc := event rfl rfl (fun _ h => by cases h)

theorem mapS2Root : Statement .mapS2Root := event rfl rfl (fun _ h => by cases h)

theorem unmapStage1 : Statement .unmapStage1 := event rfl rfl (fun _ h => by cases h)

theorem unmapStage2 : Statement .unmapStage2 := event rfl rfl (fun _ h => by cases h)

theorem pinUnpin : Statement .pinUnpin := event rfl rfl (fun _ h => by cases h)

theorem pinPin : Statement .pinPin := event rfl rfl (fun _ h => by cases h)

theorem pinBacking : Statement .pinBacking := event rfl rfl (fun _ h => by cases h)

theorem saveresume : Statement .saveresume := event rfl rfl (fun _ h => by cases h)

theorem ctxReset : Statement .ctxReset := event rfl rfl (fun _ h => by cases h)

theorem shelfLoad : Statement .shelfLoad := event rfl rfl (fun _ h => by cases h)

theorem attest : Statement .attest := event rfl rfl (fun _ h => by cases h)

theorem samplerProg : Statement .samplerProg := event rfl rfl (fun _ h => by cases h)

theorem samplerBind : Statement .samplerBind := event rfl rfl (fun _ h => by cases h)

theorem samplerUnbind : Statement .samplerUnbind := event rfl rfl (fun _ h => by cases h)

theorem vocabLoadImage : Statement .vocabLoadImage := event rfl rfl (fun _ h => by cases h)

theorem vocabLoadService : Statement .vocabLoadService := event rfl rfl (fun _ h => by cases h)

theorem vocabLoadRing : Statement .vocabLoadRing := event rfl rfl (fun _ h => by cases h)

theorem vocabLoadGrammar : Statement .vocabLoadGrammar := event rfl rfl (fun _ h => by cases h)

theorem telemetry : Statement .telemetry := event rfl rfl (fun _ h => by cases h)

theorem budgetSet : Statement .budgetSet := event rfl rfl (fun _ h => by cases h)

theorem msgKlotaForward : Statement .msgKlotaForward := event rfl rfl (fun _ h => by cases h)

theorem msgKlotaResponse : Statement .msgKlotaResponse := event rfl rfl (fun _ h => by cases h)

theorem msgContextError : Statement .msgContextError := event rfl rfl (fun _ h => by cases h)

theorem msgDecision : Statement .msgDecision := event rfl rfl (fun _ h => by cases h)

theorem msgProbeFault : Statement .msgProbeFault := event rfl rfl (fun _ h => by cases h)

theorem msgFaultServed : Statement .msgFaultServed := event rfl rfl (fun _ h => by cases h)

theorem msgTaskParked : Statement .msgTaskParked := event rfl rfl (fun _ h => by cases h)

theorem msgSaveBlocked : Statement .msgSaveBlocked := event rfl rfl (fun _ h => by cases h)

theorem msgBudgetChange : Statement .msgBudgetChange := event rfl rfl (fun _ h => by cases h)

theorem msgPartitionChanged : Statement .msgPartitionChanged := event rfl rfl (fun _ h => by cases h)

theorem faultService : Statement .faultService := event rfl rfl (fun _ h => by cases h)

theorem probeFaultTimeout : Statement .probeFaultTimeout := event rfl rfl (fun _ h => by cases h)

theorem accSample : Statement .accSample := event rfl rfl (fun _ h => by cases h)

theorem migrationLineCopy : Statement .migrationLineCopy := event rfl rfl (fun _ h => by cases h)

theorem migrationSwitch : Statement .migrationSwitch := event rfl rfl (fun _ h => by cases h)

theorem migrationForward : Statement .migrationForward := event rfl rfl (fun _ h => by cases h)

theorem saveLineFault : Statement .saveLineFault := event rfl rfl (fun _ h => by cases h)

theorem saveComplete : Statement .saveComplete := event rfl rfl (fun _ h => by cases h)

theorem saveBlockTimeout : Statement .saveBlockTimeout := event rfl rfl (fun _ h => by cases h)

theorem preemptStall : Statement .preemptStall := event rfl rfl (fun _ h => by cases h)

theorem contextFrozenDrained : Statement .contextFrozenDrained := event rfl rfl (fun _ h => by cases h)

theorem captureBeforeReset : Statement .captureBeforeReset := event rfl rfl (fun _ h => by cases h)

theorem dieLost : Statement .dieLost := event rfl rfl (fun _ h => by cases h)

theorem hbmUncorrectable : Statement .hbmUncorrectable := event rfl rfl (fun _ h => by cases h)

theorem linkCrcReplay : Statement .linkCrcReplay := event rfl rfl (fun _ h => by cases h)

theorem thermalThrottle : Statement .thermalThrottle := event rfl rfl (fun _ h => by cases h)

theorem thermalShutdown : Statement .thermalShutdown := event rfl rfl (fun _ h => by cases h)

theorem idleDieGate : Statement .idleDieGate := event rfl rfl (fun _ h => by cases h)

theorem cacheWindowClear : Statement .cacheWindowClear := event rfl rfl (fun _ h => by cases h)

theorem sliceRequestAccept : Statement .sliceRequestAccept := event rfl rfl (fun _ h => by cases h)

theorem hbmRequestArrival : Statement .hbmRequestArrival := event rfl rfl (fun _ h => by cases h)

theorem hbmServiceStart : Statement .hbmServiceStart := event rfl rfl (fun _ h => by cases h)

theorem routerGrant : Statement .routerGrant := event rfl rfl (fun _ h => by cases h)

theorem injectionRefill : Statement .injectionRefill := event rfl rfl (fun _ h => by cases h)

theorem portInjection : Statement .portInjection := event rfl rfl (fun _ h => by cases h)

theorem envelopeArrival : Statement .envelopeArrival := event rfl rfl (fun _ h => by cases h)

theorem tokenise : Statement .tokenise := event rfl rfl (fun _ h => by cases h)

theorem detokeniseToken : Statement .detokeniseToken := event rfl rfl (fun _ h => by cases h)

theorem finalFrameAccepted : Statement .finalFrameAccepted := event rfl rfl (fun _ h => by cases h)

theorem sessionClose : Statement .sessionClose := event rfl rfl (fun _ h => by cases h)

theorem packetAuthFail : Statement .packetAuthFail := event rfl rfl (fun _ h => by cases h)

theorem weightBeacon : Statement .weightBeacon := event rfl rfl (fun _ h => by cases h)

theorem throttleRelease : Statement .throttleRelease := event rfl rfl (fun _ h => by cases h)

theorem sessionOpen : Statement .sessionOpen := event rfl rfl (fun _ h => by cases h)

theorem ptptDiscipline : Statement .ptptDiscipline := event rfl rfl (fun _ h => by cases h)

theorem peerWrite : Statement .peerWrite := event rfl rfl (fun _ h => by cases h)

end Sys2Proof.Laws.RoundTrip
end

