-- ==== Sys2Proof/Safety.lean ====
section
/-! DEFINITION. The terms in which statements about the machine are made: when a command issues, and what it leaves alone. -/

namespace Sys2Proof.Machine

/-- The memory lists only non-zero bytes, each once, addresses rising. -/
abbrev MemOk (s : State) : Prop := Memory.wf s.mem = true

/-- What an integer condition code says of two words (07 R203). -/
def saysCc (cc : Cc) (a b : Word) : Bool :=
  match cc with
  | .eq => decide (a = b)
  | .ne => decide (a ≠ b)
  | .lt => decide (a.toInt < b.toInt)
  | .le => decide (a.toInt ≤ b.toInt)
  | .gt => decide (b.toInt < a.toInt)
  | .ge => decide (b.toInt ≤ a.toInt)
  | .ltu => decide (a.toNat < b.toNat)
  | .leu => decide (a.toNat ≤ b.toNat)
  | .gtu => decide (b.toNat < a.toNat)
  | .geu => decide (b.toNat ≤ a.toNat)

/-! ### When a command issues -/

/-- The running stream may issue in this cycle (06 R177, R182, 01 R36, R38): its job stands on a core, neither frozen nor being parked, with no
context error; the stream has not ended, is not stopped at a pre-emption point nor paused, and stands in a section; no other stream's `PROBE` holds
it (09 R249); its issue cycle has come (07 R207, 01 R22). -/
structure State.Live (s : State) : Prop where
  onCore : s.job.onCore = true
  frozen : s.job.frozen = false
  parking : s.job.parking = false
  error : s.job.error = none
  ended : s.st.ended = false
  stopped : s.st.stopped = false
  paused : s.st.paused = false
  entering : s.st.entering = none
  probed : s.job.probed s.cur.letter = false
  ready : s.st.readyAt ≤ s.now

/-- A command issues and its body runs (06 R177): the stream may issue; the first command of a section has its dependences met (01 R19); the
wait field is satisfied; the guard is resolved, owed by no earlier command, and true; the predicate sources are resolved and not owed; no
register that the command reads or writes is owed (03 R85, 17 R407); no pending fence of the stream holds it back (03 R95; `gw` and `ga` say
that it writes or accesses global memory); the job is a real one where speculative jobs pause at the command (14 R389), or pause before an
error, which is the end of a loop body with slots pending (06 R183, 07 R211). -/
structure State.Issues (s : State) (c : Ctl) (regs : List Reg) (preds : List PReg := []) (gw ga irrev : Bool := false) : Prop
    extends s.Live where
  deps : s.st.issued ≠ s.st.entered ∨ s.job.depsMet s.cur.letter = true
  wait : s.job.ctlWait c = true
  guard : s.guardKnown c = true ∧ s.job.guardTrue c = true
  sources : ∀ p ∈ preds, s.job.resolved p = true ∧ s.owes s.cur (.p p) = false
  free : ∀ g ∈ regs, s.owes s.cur g = false
  fence : s.fenced s.cur (gw || c.sig.isSome) (ga || gw) = false
  real : irrev = true → s.job.spec = none
  slots : s.job.spec.isSome = true → ∀ jump, s.st.slotEnds s.st.cmdStart jump = false

/-! ### What a command leaves alone -/

/-- The state without its jobs, the work of commands in flight, the agenda, the mailboxes, and the model's own counters of record numbers and free
values. -/
def State.aside (s : State) : State := { s with jobs := [], flights := [], agenda := [], mail := [], nextId := 0, ticket := 0 }

/-- A job without its streams, its error, its count of commands, and the signals and flags of this cycle. -/
def Job.aside (j : Job) : Job :=
  { j with a := Stream.blank, m := Stream.blank, v := Stream.blank, x := Stream.blank, error := none, errAt := 0, executed := 0
           late := { j.late with sigs := [], flags := 0 } }

/-- A stream without what its sequencing changes (06 R174, 07 R206 to R211): address, section, loops, delay slot, traps not yet taken, issue
counts, what the command at the queue head has passed or waits on, and the pause of a context error. -/
def Stream.aside (t : Stream) : Stream :=
  { t with pc := 0, entering := none, sect := none, left := [], ext := none, loops := [], callLevel := 0, slot := none, traps := []
           issued := 0, readyAt := 0, gap := 0, paused := false, awaits := none, begun := false, thaw := false }

/-- `t` is as `e` but for the sequencing of stream `r`, the flags, error and signals of its job, flights, agenda and mail. -/
structure State.Frame (r : Ref) (e t : State) : Prop where
  outside : t.aside = e.aside
  others : ∀ k, k ≠ r.job → t.jobOf k = e.jobOf k
  job : (t.jobOf r.job).aside = (e.jobOf r.job).aside
  streams : ∀ l, l ≠ r.letter → (t.jobOf r.job).stream l = (e.jobOf r.job).stream l
  stream : (t.strOf r).aside = (e.strOf r).aside

/-- The signal that a word's signal field sends (06 R177). -/
def sigOf (c : Ctl) : List (BitVec 8 × BitVec 32) :=
  match c.sig with
  | none => []
  | some (i, n) => [(i, BitVec.ofNat 32 (n.toNat + 1))]

/-- A command of the running stream of `s` whose effect makes `e` has completed in `t`: nothing but the stream's sequencing differs from `e`; its
signal and its flags are seen from the next cycle on (06 R177, 04 R131, 08 R229). -/
structure State.Done (s e : State) (c : Ctl) (fl : Flags) (t : State) : Prop where
  frame : State.Frame s.cur e t
  signal : (t.jobOf s.cur.job).late.sigs = (e.jobOf s.cur.job).late.sigs ++ sigOf c
  flags : (t.jobOf s.cur.job).late.flags = (e.jobOf s.cur.job).late.flags ||| fl
  flights : t.flights = e.flights
  ids : t.nextId = e.nextId

/-- A command of the running stream of `s` has issued in `t` and reaches its completion point `n` cycles later (17 R404): until then it owes the values
`vs` to the registers `dst`; what else it does is in `e`. -/
structure State.Pends (s e : State) (c : Ctl) (dst : List Reg) (vs : List Owed) (fl : Flags) (n : Nat) (t : State) : Prop where
  frame : State.Frame s.cur e t
  signal : (t.jobOf s.cur.job).late.sigs = (e.jobOf s.cur.job).late.sigs
  flags : (t.jobOf s.cur.job).late.flags = (e.jobOf s.cur.job).late.flags
  flight : ∃ f, t.flights.find? s.nextId = some f ∧ f.ref = s.cur ∧ f.sig = c.sig ∧ f.owes = dst ∧ f.flags = fl ∧ f.work = .late vs
  flights : ∀ k, k ≠ s.nextId → t.flights.find? k = e.flights.find? k
  due : ⟨s.now + n, .finish s.nextId⟩ ∈ t.agenda

/-- A command of stream `r` has issued in `t` and is short of its completion point, `e` being the state with its work in flight: only the stream's
sequencing differs. -/
structure State.Moved (r : Ref) (e t : State) : Prop where
  frame : State.Frame r e t
  signal : (t.jobOf r.job).late.sigs = (e.jobOf r.job).late.sigs
  flags : (t.jobOf r.job).late.flags = (e.jobOf r.job).late.flags
  flights : t.flights = e.flights
  ids : t.nextId = e.nextId

/-- A command of the running stream of `s` has issued in `t` and is in flight with work of which `w` holds (03 R83): it keeps its signal field, owes the
registers `dst`, and nothing of its stream but the sequencing has changed, nor any other job, a byte of a scratchpad, or a byte of global memory. -/
def State.Launched (s : State) (c : Ctl) (dst : List Reg) (w : Work → Prop) (t : State) : Prop :=
  ∃ f, t.flights.find? s.nextId = some f ∧ f.ref = s.cur ∧ f.sig = c.sig ∧ f.owes = dst ∧ w f.work ∧ (t.strOf s.cur).aside = s.st.aside ∧
    (∀ k, k ≠ s.cur.job → t.jobOf k = s.jobOf k) ∧ (∀ k, (t.coreOf k).scratch = (s.coreOf k).scratch) ∧ t.mem = s.mem

/-- Flight `k` has an access at its core's port in `t`, for piece `i` of its work (03 R83). -/
def State.Asks (t : State) (k i : Nat) (op : AccOp) (kind : PageKind) (pa n : Nat) (src : Option Nat) : Prop :=
  ∃ id a, t.accesses.find? id = some a ∧ a.flight = k ∧ a.piece = i ∧ a.op = op ∧ a.kind = kind ∧ a.pa = pa ∧ a.len = n ∧ a.src = src ∧
    a.stage = .port

/-- The parts `ps` that a command of the running stream of `s` reads are the pieces `m` of its flight in `t`: those whose bytes are at hand have them and
land; every other one is an access at the port (03 R93, 09 R251). -/
def State.ReadsIn (s t : State) (kind : PageKind) (ps : List ReadPart) (m : Map Piece) : Prop :=
  m.length = ps.length ∧ ∀ i p, ps[i]? = some p →
    let b := s.quickRead s.job kind p.pa p.len
    m[i]? = some (i, ⟨p.dst, 0, p.len, b⟩) ∧
    (b.isSome = true → ⟨s.now + (8 + i), .event .copyPieceLanding { a := s.nextId, b := i }⟩ ∈ t.agenda) ∧
    (b = none → t.Asks s.nextId i .read kind p.pa p.len none)

/-- Flight `k` of stream `r`, with signal field `sig`, has reached its completion point in `t`: it is in flight no more, and its signal is sent with the
flags `fl` (06 R177, 03 R83). -/
structure State.Completes (s : State) (k : Nat) (f : Flight) (fl : Flags) (t : State) : Prop where
  gone : t.flights.find? k = none
  signal : (t.jobOf f.ref.job).late.sigs = (s.jobOf f.ref.job).late.sigs ++ (match f.sig with
    | none => []
    | some (i, n) => [(i, BitVec.ofNat 32 (n.toNat + 1))])
  flags : (t.jobOf f.ref.job).late.flags = (s.jobOf f.ref.job).late.flags ||| fl

/-! ### Commands that work on the on-core stores -/

/-- The work of such a command of which nothing is done yet (03 R96, R97). -/
def DataOp.fresh (op : DataOp) : Work := .data ⟨op, none, .empty, none, [], []⟩

/-- A command of the running stream of `s` has issued in `t` as the flight `s.nextId`, and what it does to the on-core stores, `op`, lies before it, up to its
completion point (03 R96, R97): it owes the registers `dst`; nothing but its stream's sequencing differs from `e`. -/
structure State.Works (s e : State) (c : Ctl) (dst : List Reg) (op : DataOp) (engine : Option Nat) (t : State) : Prop where
  frame : State.Frame s.cur e t
  signal : (t.jobOf s.cur.job).late.sigs = (e.jobOf s.cur.job).late.sigs
  flags : (t.jobOf s.cur.job).late.flags = (e.jobOf s.cur.job).late.flags
  flight : ∃ f, t.flights.find? s.nextId = some f ∧ f.ref = s.cur ∧ f.sig = c.sig ∧ f.owes = dst ∧ f.flags = 0 ∧ f.engine = engine ∧ f.work = op.fresh
  flights : ∀ k, k ≠ s.nextId → t.flights.find? k = e.flights.find? k
  again : ∃ d, s.now ≤ d ∧ ⟨d, .effect s.nextId⟩ ∈ t.agenda

/-- The same for a command of fixed latency: its completion point comes `n` cycles after its issue (17 R405). -/
def State.WorksFor (s e : State) (c : Ctl) (dst : List Reg) (op : DataOp) (engine : Option Nat) (n : Nat) (t : State) : Prop :=
  s.Works e c dst op engine t ∧ ⟨s.now + n, .finish s.nextId⟩ ∈ t.agenda

/-! ### Vector commands -/

/-- The state in which a vector command of `n` steps is in line for its core's vector unit (10 R287). -/
def State.inLine (s : State) (n : Nat) : State :=
  s.modCore s.job.coreKey (fun x => { x with vec := { x.vec with reqs := x.vec.reqs ++ [⟨some s.nextId, s.job.cc, n, s.job.spec.isSome⟩] } })

/-- A vector command of form `f` issues where its checks pass (10 R285): one that writes no element completes at once; another is in line for the vector
unit with its operands as they stand at issue, and reads, computes and writes up to its completion point (10 R286, R287). -/
def VecRuns (i : Instr) (c : Ctl) (f : VecForm) (out : Option SReg) : Prop :=
  ∀ (s : State), s.Issues c (f.dests.map Reg.g ++ f.srcs.map vargReg ++ (out.map Reg.s).toList) →
    let ds := f.dests.map s.gget
    let xs := f.srcs.map s.vin
    ((∀ d ∈ ds, genCount d = 0) → ∃ t, exec i s = .next t ∧ s.Done s c 0 t) ∧
    ((∃ d ∈ ds, genCount d ≠ 0) → s.vecEnv.check f.kind ds xs = none →
      ∃ t, exec i s = .next t ∧ s.Works (s.inLine (vecSteps f.kind ds xs)) c (out.map Reg.s).toList
        (.vec f.kind ds xs (s.job.scrAddr 0) (s.job.scrSize * 65536) s.job.fmode out) none t)

/-! ### Sampler words -/

/-- The running lane's context as a word sees it: the word counted, and the word index moved on (12 R344, R345). -/
def State.word (s : State) : SCtx := { s.sctx with count := s.sctx.count + 1, pc := s.sctx.pc + 1 }

/-- The lane's context runs and may execute another word of its step: a step has at most 65,536 (12 R345). -/
structure State.LaneRuns (s : State) : Prop where
  running : s.sctx.state = .running
  left : s.sctx.count < 65536

/-- Everything but the sampler contexts and the agenda is the same in `s` and `t`. -/
structure State.SameButContexts (s t : State) : Prop where
  dies : ∀ d, { t.dieOf d with sampler := { (t.dieOf d).sampler with ctxs := [] } } = { s.dieOf d with sampler := { (s.dieOf d).sampler with ctxs := [] } }
  rest : { t with dies := [], agenda := [] } = { s with dies := [], agenda := [] }

/-- A word of the running lane leaves its context as `c` and takes `n` cycles: the lane's next word is due then, and nothing else differs. -/
structure State.LaneDoes (s t : State) (c : SCtx) (n : Nat) : Prop where
  context : t.sctxOf s.lane.1 s.lane.2 = c
  others : ∀ d x, ¬(d = s.lane.1 ∧ x = s.lane.2) → t.sctxOf d x = s.sctxOf d x
  next : t.agenda = s.agenda ++ [⟨s.now + n, .lane s.lane.1 s.lane.2⟩]
  frame : s.SameButContexts t

/-- A word of the running lane stops its context (12 R354): its code, the word's index and STEP are kept, and the lane is free. -/
structure State.LaneStops (s t : State) (code : Nat) : Prop where
  state : (t.sctxOf s.lane.1 s.lane.2).state = .stopped
  stop : (t.sctxOf s.lane.1 s.lane.2).stop = some (code, s.sctx.pc, s.sctx.step)
  lane : s.lane.2 ∉ (t.dieOf s.lane.1).sampler.lanes
  memory : t.mem = s.mem

/-- `SCMP`'s condition codes (12 R345). -/
def scmpSays (cc : Fin 8) (a b : Word) : Prop :=
  let o := numOrder (f32 (a.toNat % 2 ^ 32)) (f32 (b.toNat % 2 ^ 32))
  match cc with
  | 0 => a = b
  | 1 => a ≠ b
  | 2 => a.toInt < b.toInt
  | 3 => a.toInt ≤ b.toInt
  | 4 => a.toNat < b.toNat
  | 5 => fccHolds .eq o = true
  | 6 => fccHolds .lt o = true
  | 7 => fccHolds .le o = true

/-! ### Firmware -/

/-- Message `m` is the oldest that satisfies `p`, and the oldest of its sender and receiver (19 R448). -/
structure State.Receives (s : State) (p : Msg → Bool) (m : Msg) : Prop where
  oldest : s.mail.find? p = some m
  first : s.mail.find? (fun x => x.src = m.src && x.dst = m.dst) = some m

/-- Core `c`'s response to request `r` with status `st` and payload `p` is on its way to F0 (19 R449 message 0x0102, R451). -/
def State.Answered (t : State) (c : Fin 8) (r : KReq) (st : Nat) (p : List Byte) : Prop :=
  ⟨0x0102, c, 0, st :: p.map (·.toNat), none, some r⟩ ∈ t.mail

/-! ### The instruction that a step runs -/

/-- The state in which due entry `e` is taken: it has left the agenda, and the free choice that named it is used up. -/
def State.taken (s : State) (e : Entry) : State := { s with agenda := s.agenda.erase e, ticket := s.ticket + 1 }

/-- Stream `r` stands at a command whose first word is `w`, and whose second is `w2` where it has one (06 R177, R180), in section `x`: it may issue, no
trap is to be taken first (07 R197), no pre-emption stops it here (01 R36), and its code buffer holds the bytes at its pc (06 R526). -/
structure State.AtCommand (s : State) (r : Ref) (x : Section) (w : Nat) (w2 : Option Nat) : Prop where
  onCore : (s.jobOf r.job).onCore = true
  frozen : (s.jobOf r.job).frozen = false
  parking : (s.jobOf r.job).parking = false
  error : (s.jobOf r.job).error = none
  ended : (s.strOf r).ended = false
  stopped : (s.strOf r).stopped = false
  paused : (s.strOf r).paused = false
  ready : (s.strOf r).readyAt ≤ s.now
  entering : (s.strOf r).entering = none
  traps : (s.strOf r).traps = [] ∨ (s.strOf r).slot.isSome = true
  overrun : (s.jobOf r.job).preempt = none ∨ (s.jobOf r.job).spec.isSome = true ∨ (s.strOf r).gap ≤ (s.jobOf r.job).gapMax + 4096
  point : (s.jobOf r.job).preempt = none ∨ hdrPrept x.hdr = false ∨ (s.strOf r).issued ≠ (s.strOf r).entered
  sect : (s.strOf r).sect = some x
  word : s.codeAt (s.jobOf r.job) (s.strOf r).pc.toNat 12 = some w
  one : (s.strOf r).ext.isSome = true ∨ wordsOf w = 1 → w2 = none
  two : (s.strOf r).ext = none → wordsOf w = 2 →
    (s.strOf r).pc.toNat + 24 ≤ x.stop ∧ w2.isSome = true ∧ s.codeAt (s.jobOf r.job) ((s.strOf r).pc.toNat + 12) 12 = w2
  held : (s.jobOf r.job).codeMisses (s.strOf r).pc.toNat (if w2.isSome then 24 else 12) = []

/-- Command `i`, whose first word is `w`, may stand where stream `r` stands (06 R181 reasons 5 and 8, 07 R206, R209, 15 R398). An `EXT` is judged with
the command after it. -/
structure State.MayStand (s : State) (r : Ref) (x : Section) (w : Nat) (w2 : Option Nat) (i : Instr) : Prop where
  place : opcOf w ≠ opcExt →
    s.placeBad (s.jobOf r.job) (s.strOf r) x i (s.strOf r).cmdStart.toNat ((s.strOf r).pc.toNat + if w2.isSome then 24 else 12) = false
  last : opcOf w ≠ opcExt → endBad x i ((s.strOf r).pc.toNat + if w2.isSome then 24 else 12) = false
  prologue : (s.jobOf r.job).prologue = true → prologueOk i = true ∧ (s.jobOf r.job).executed < 4096

/-- The state in which stream `r` of `s` runs command `i`: the stream's next turn is in the next cycle, an `EXT`'s still in this one (06 R180). -/
def State.onTurn (s : State) (r : Ref) (i : Instr) : State :=
  match i with
  | .ext _ => { s with cur := r, args := {}, agenda := s.agenda ++ [⟨s.now, .stream r⟩] }
  | _ => State.poll { s with cur := r, args := {} } r

end Sys2Proof.Machine
end

