-- ==== Sys2Proof/Certificates/Slice0/Obligations.lean ====
section
/-! DEFINITION. The statements for the provers. -/

open Sys2Proof Sys2Proof.Machine

/-! ### Scalar integer instructions (08 R218 to R222) -/

/-- A command of two s-register sources completes at issue: sA takes the value, and nothing else changes but the sequencing. -/
def Obligations.ScalarThreeRegisters : Prop :=
  ∀ p ∈ ([(.add, fun b c => b + c), (.sub, fun b c => b - c), (.and, fun b c => b &&& c), (.or, fun b c => b ||| c), (.xor, fun b c => b ^^^ c),
      (.shl, fun b c => b <<< (c.toNat % 64)), (.shr, fun b c => b >>> (c.toNat % 64)), (.sra, fun b c => b.sshiftRight (c.toNat % 64)),
      (.min, fun b c => if b.toInt < c.toInt then b else c), (.max, fun b c => if b.toInt < c.toInt then c else b),
      (.minu, fun b c => if b.toNat < c.toNat then b else c), (.maxu, fun b c => if b.toNat < c.toNat then c else b)] :
      List ((Op3 → Instr) × (Word → Word → Word))),
  ∀ (o : Op3) (s : State), s.Issues o.c [.s o.d, .s o.a, .s o.b] →
    ∃ t, exec (p.1 o) s = .next t ∧ s.Done (s.sput o.d (p.2 (s.sget o.a) (s.sget o.b))) o.c 0 t

/-- The same with an immediate or a shift count in place of the second source. -/
def Obligations.ScalarImmediate : Prop :=
  (∀ p ∈ ([(.addi, fun b i => b + i), (.andi, fun b i => b &&& i), (.ori, fun b i => b ||| i), (.xori, fun b i => b ^^^ i)] :
      List ((OpI → Instr) × (Word → Word → Word))),
    ∀ (o : OpI) (s : State), s.Issues o.c [.s o.d, .s o.a] →
      ∃ t, exec (p.1 o) s = .next t ∧ s.Done (s.sput o.d (p.2 (s.sget o.a) o.imm)) o.c 0 t) ∧
  (∀ p ∈ ([(.shli, fun b n => b <<< n), (.shri, fun b n => b >>> n), (.srai, fun b n => b.sshiftRight n)] :
      List ((OpSh → Instr) × (Word → Nat → Word))),
    ∀ (o : OpSh) (s : State), s.Issues o.c [.s o.d, .s o.a] →
      ∃ t, exec (p.1 o) s = .next t ∧ s.Done (s.sput o.d (p.2 (s.sget o.a) o.n)) o.c 0 t)

/-- Products and quotients: the value is owed to sA for 2 or 18 cycles. Division truncates toward zero; by zero it gives all ones, and the
remainder by zero is the dividend. -/
def Obligations.ScalarMultiplyDivide : Prop :=
  ∀ p ∈ ([(.mul, 2, fun b c => BitVec.ofInt 64 (b.toInt * c.toInt)), (.mulh, 2, fun b c => BitVec.ofInt 64 (b.toInt * c.toInt / 2 ^ 64)),
      (.mulhu, 2, fun b c => BitVec.ofNat 64 (b.toNat * c.toNat / 2 ^ 64)),
      (.div, 18, fun b c => if c = 0 then BitVec.allOnes 64 else BitVec.ofInt 64 (b.toInt.tdiv c.toInt)),
      (.divu, 18, fun b c => if c = 0 then BitVec.allOnes 64 else BitVec.ofNat 64 (b.toNat / c.toNat)),
      (.rem, 18, fun b c => if c = 0 then b else BitVec.ofInt 64 (b.toInt.tmod c.toInt)),
      (.remu, 18, fun b c => if c = 0 then b else BitVec.ofNat 64 (b.toNat % c.toNat))] :
      List ((Op3 → Instr) × Nat × (Word → Word → Word))),
  ∀ (o : Op3) (s : State), s.Issues o.c [.s o.d, .s o.a, .s o.b] →
    ∃ t, exec (p.1 o) s = .next t ∧
      s.Pends s o.c [.s o.d] [.s o.d (if o.d = 0 then 0 else p.2.2 (s.sget o.a) (s.sget o.b))] 0 p.2.1 t

/-- `CLZ`, `CTZ` and `POPC` count bits; `MOV` copies; `ABS` is the magnitude, and the most negative number itself. `SEL`, `MOVI`, `MOVHI`, the bit fields and
`LEA`. -/
def Obligations.ScalarUnaryAndMoves : Prop :=
  (∀ (o : Op2) (s : State), s.Issues o.c [.s o.d, .s o.a] →
    let b := s.sget o.a
    (∃ n t, exec (.clz o) s = .next t ∧ s.Done (s.sput o.d (BitVec.ofNat 64 n)) o.c 0 t ∧
      n ≤ 64 ∧ (∀ i, i < n → b.getLsbD (63 - i) = false) ∧ (n < 64 → b.getLsbD (63 - n) = true)) ∧
    (∃ n t, exec (.ctz o) s = .next t ∧ s.Done (s.sput o.d (BitVec.ofNat 64 n)) o.c 0 t ∧
      n ≤ 64 ∧ (∀ i, i < n → b.getLsbD i = false) ∧ (n < 64 → b.getLsbD n = true)) ∧
    (∃ t, exec (.popc o) s = .next t ∧
      s.Done (s.sput o.d (BitVec.ofNat 64 ((List.range 64).countP (fun i => b.getLsbD i)))) o.c 0 t) ∧
    (∃ t, exec (.mov o) s = .next t ∧ s.Done (s.sput o.d b) o.c 0 t) ∧
    (∃ t, exec (.abs o) s = .next t ∧ s.Done (s.sput o.d (BitVec.ofInt 64 b.toInt.natAbs)) o.c 0 t)) ∧
  (∀ (o : OpSel) (s : State), s.Issues o.c [.s o.d, .s o.a, .s o.b] [o.p] →
    ∃ t, exec (.sel o) s = .next t ∧ s.Done (s.sput o.d (if s.job.pred o.p then s.sget o.a else s.sget o.b)) o.c 0 t) ∧
  (∀ (o : OpMovi) (s : State), s.Issues o.c [.s o.d] → ∃ t, exec (.movi o) s = .next t ∧ s.Done (s.sput o.d o.imm) o.c 0 t) ∧
  (∀ (o : OpMovhi) (s : State), s.Issues o.c [.s o.d] →
    ∃ t, exec (.movhi o) s = .next t ∧ s.Done (s.sput o.d (BitVec.ofNat 64 (o.imm.toNat * 2 ^ 32 + (s.sget o.d).toNat % 2 ^ 32))) o.c 0 t) ∧
  (∀ (o : OpBf) (s : State), s.Issues o.c [.s o.d, .s o.a] → 1 ≤ o.len.toNat → o.pos.toNat + o.len.toNat ≤ 64 →
    let f := (s.sget o.a).toNat / 2 ^ o.pos.toNat % 2 ^ o.len.toNat
    (∃ t, exec (.bfx o) s = .next t ∧ s.Done (s.sput o.d (BitVec.ofNat 64 f)) o.c 0 t) ∧
    (∃ t, exec (.bfxS o) s = .next t ∧
      s.Done (s.sput o.d (BitVec.ofInt 64 (if f < 2 ^ (o.len.toNat - 1) then (f : Int) else f - 2 ^ o.len.toNat))) o.c 0 t) ∧
    (∃ v t, exec (.bfi o) s = .next t ∧ s.Done (s.sput o.d v) o.c 0 t ∧
      ∀ i, i < 64 → v.getLsbD i =
        (if o.pos.toNat ≤ i ∧ i < o.pos.toNat + o.len.toNat then (s.sget o.a).getLsbD (i - o.pos.toNat) else (s.sget o.d).getLsbD i))) ∧
  (∀ (o : OpLea) (s : State), s.Issues o.c [.s o.d, .s o.a, .s o.b] →
    ∃ t, exec (.lea o) s = .next t ∧ s.Done (s.sput o.d (s.sget o.a + (s.sget o.b <<< o.sh.val) + o.off.signExtend 64)) o.c 0 t)


/-! ### Predicates (07 R199 to R204) -/

/-- Predicate results: written in this cycle, seen from the next one on (07 R199). Comparisons and votes. `FCMP` compares the FP32 values of the low halves,
zeros being equal and a NaN unordered; a vote's predicate is owed for 2 + ceil(n / 2,048) cycles, its bits are read up to its completion point, and an empty
one is decided by its instruction. -/
def Obligations.Predicates : Prop :=
  (∀ (o : OpPset) (s : State), s.Issues o.c [.p o.p] →
    ∃ t, exec (.pseti o) s = .next t ∧ s.Done (s.pput s.cur o.p (some o.v)) o.c 0 t) ∧
  (∀ (o : OpPP) (s : State), s.Issues o.c [.p o.d] [o.a] →
    (∃ t, exec (.pmovPp o) s = .next t ∧ s.Done (s.pput s.cur o.d (some (s.job.pred o.a))) o.c 0 t) ∧
    (∃ t, exec (.pnot o) s = .next t ∧ s.Done (s.pput s.cur o.d (some (!s.job.pred o.a))) o.c 0 t)) ∧
  (∀ (o : OpPS) (s : State), s.Issues o.c [.p o.d, .s o.a] →
    ∃ t, exec (.pmovPs o) s = .next t ∧ s.Done (s.pput s.cur o.d (some (decide (s.sget o.a ≠ 0)))) o.c 0 t) ∧
  (∀ (o : OpSP) (s : State), s.Issues o.c [.s o.d] [o.a] →
    ∃ t, exec (.pmovSp o) s = .next t ∧ s.Done (s.sput o.d (if s.job.pred o.a then 1 else 0)) o.c 0 t) ∧
  (∀ p ∈ ([(.pand, fun a b => a && b), (.por, fun a b => a || b), (.pxor, fun a b => Bool.xor a b)] :
      List ((OpPPP → Instr) × (Bool → Bool → Bool))),
    ∀ (o : OpPPP) (s : State), s.Issues o.c [.p o.d] [o.a, o.b] →
      ∃ t, exec (p.1 o) s = .next t ∧ s.Done (s.pput s.cur o.d (some (p.2 (s.job.pred o.a) (s.job.pred o.b)))) o.c 0 t) ∧
  (∀ (o : OpP) (s : State), s.Issues o.c [.p o.d] →
    ∃ t, exec (.punres o) s = .next t ∧ s.Done (s.pput s.cur o.d none) o.c 0 t) ∧
  (∀ (o : OpCmp) (s : State), s.Issues o.c [.p o.d, .s o.a, .s o.b] →
    ∃ t, exec (.cmp o) s = .next t ∧ s.Done (s.pput s.cur o.d (some (saysCc o.cc (s.sget o.a) (s.sget o.b)))) o.c 0 t) ∧
  (∀ (o : OpCmpI) (s : State), s.Issues o.c [.p o.d, .s o.a] →
    ∃ t, exec (.cmpImm o) s = .next t ∧ s.Done (s.pput s.cur o.d (some (saysCc o.cc (s.sget o.a) (o.imm.signExtend 64)))) o.c 0 t) ∧
  (∀ (o : OpFcmp) (s : State), s.Issues o.c [.p o.d, .s o.a, .s o.b] →
    ∃ t, exec (.fcmp o) s = .next t ∧ s.Done (s.pput s.cur o.d (some (fccHolds o.cc
      (numOrder (f32 ((s.sget o.a).toNat % 2 ^ 32)) (f32 ((s.sget o.b).toNat % 2 ^ 32)))))) o.c 0 t) ∧
  (∀ (o : OpVote) (s : State), s.Issues o.c [.p o.d, .s o.a, .s o.n] → s.sget o.n = 0 →
    (∃ t, exec (.vany o) s = .next t ∧ s.Pends s o.c [.p o.d] [.p o.d (some false)] 0 2 t) ∧
    (∃ t, exec (.vall o) s = .next t ∧ s.Pends s o.c [.p o.d] [.p o.d (some true)] 0 2 t)) ∧
  (∀ (o : OpVote) (s : State) (n a : Nat), s.Issues o.c [.p o.d, .s o.a, .s o.n] → (s.sget o.n).toNat = n → 0 < n → n ≤ 65535 →
    s.scrOperand o.a (o.off.signExtend 64) ((n + 7) / 8) 1 = .ok a →
    (∃ t, exec (.vany o) s = .next t ∧
      s.WorksFor s o.c [.p o.d] (.vote o.d (s.job.scrAddr a) n false) none (2 + (n + 2047) / 2048) t) ∧
    (∃ t, exec (.vall o) s = .next t ∧
      s.WorksFor s o.c [.p o.d] (.vote o.d (s.job.scrAddr a) n true) none (2 + (n + 2047) / 2048) t)) ∧
  (∀ (d : PReg) (a n : Nat) (v : View), v.foul a ((n + 7) / 8) = false →
    let lane (i : Nat) : Bool := ((v.bytes a ((n + 7) / 8)).getD (i / 8) 0).getLsbD (i % 8)
    (DataOp.vote d a n false).made v = .ok ⟨[], [.p d (some (decide (∃ i, i < n ∧ lane i = true)))], 0⟩ ∧
    (DataOp.vote d a n true).made v = .ok ⟨[], [.p d (some (decide (∀ i, i < n → lane i = true)))], 0⟩)


/-! ### What the end of a cycle brings (06 R177, 07 R191, R199, R212) -/

/-- One cycle on, the clock stands one higher, the job's signals are added to their semaphores and its flags to `FSTAT`; of the writes of a predicate in the
cycle that of the last stream in the order A, M, V, X stands, and of that stream's the last one, which resolves the predicate or makes it unresolved (07 R199);
and its pushes are at the back of their queues. -/
def Obligations.CycleEnd : Prop :=
  ∀ (s : State) (k : Nat) (j : Job), s.jobs.find? k = some j →
    s.tick.now = s.now + 1 ∧
    (∀ i : BitVec 8, j.late.wbs = [] →
      (s.tick.jobOf k).sems[i.toNat] = j.sems[i.toNat] + ((j.late.sigs.filter (fun e => e.1 = i)).map (·.2)).sum) ∧
    (s.tick.jobOf k).fstat = j.fstat ||| j.late.flags ∧
    (∀ (p : PReg) (l : Letter) (v : Option Bool), p ≠ 0 → (∀ e ∈ j.late.preds, e.2.1 = p → letterNum e.1 ≤ letterNum l) →
      (j.late.preds.filter (fun e => e.1 = l && e.2.1 = p)).getLast? = some (l, p, v) →
      (∀ b, v = some b → (s.tick.jobOf k).pred p = b ∧ (s.tick.jobOf k).resolved p = true) ∧
      (v = none → (s.tick.jobOf k).resolved p = false)) ∧
    (∀ (p : PReg), (∀ e ∈ j.late.preds, e.2.1 ≠ p) →
      (s.tick.jobOf k).pred p = j.pred p ∧ (s.tick.jobOf k).resolved p = j.resolved p) ∧
    (∀ q : QReg, (s.tick.jobOf k).queues[q] = j.queues[q] ++ (j.late.pushes.filter (fun e => e.1 = q)).map (·.2)) ∧
    (s.tick.jobOf k).late = Late.none

/-! ### Queues (07 R212, R213) -/

/-- A push to a queue with room; a pop, a peek or a predicate pop from one that holds an entry, which a head that fails its parity twice stops with
code 11 (20 R479; the queues that the rule names: log 107); and the length. -/
def Obligations.Queues : Prop :=
  (∀ (o : OpQS) (s : State), s.Issues o.c [.s o.a] → s.job.qlen o.q + (s.job.late.pushes.filter (fun e => e.1 = o.q)).length < 64 →
    ∃ t, exec (.qpush o) s = .next t ∧ s.Done (s.qpush o.q (s.sget o.a)) o.c 0 t) ∧
  (∀ (o : OpQP) (s : State), s.Issues o.c [] [o.p] → s.job.qlen o.q + (s.job.late.pushes.filter (fun e => e.1 = o.q)).length < 64 →
    ∃ t, exec (.qpushp o) s = .next t ∧ s.Done (s.qpush o.q (if s.job.pred o.p then 1 else 0)) o.c 0 t) ∧
  (∀ (o : OpSQ) (s : State) (v : Word) (l : List Word), s.Issues o.c [.s o.d] → s.job.queues[o.q] = v :: l → s.queueBad o.q = false →
    (∃ t, exec (.qpop o) s = .next t ∧ s.Done ((s.qpop o.q).sput o.d v) o.c 0 t) ∧
    (∃ t, exec (.qpeek o) s = .next t ∧ s.Done (s.sput o.d v) o.c 0 t)) ∧
  (∀ (o : OpPQ) (s : State) (v : Word) (l : List Word), s.Issues o.c [.p o.p] → s.job.queues[o.q] = v :: l → s.queueBad o.q = false →
    ∃ t, exec (.qpopp o) s = .next t ∧ s.Done ((s.qpop o.q).pput s.cur o.p (some (decide (v ≠ 0)))) o.c 0 t) ∧
  (∀ (o : OpSQ) (s : State), s.Issues o.c [.s o.d] → s.job.queues[o.q] ≠ [] → s.queueBad o.q = true → s.job.spec = none →
    exec (.qpop o) s = .next (s.raise s.cur { code := 11 } s.st.cmdStart 0x041) ∧
    exec (.qpeek o) s = .next (s.raise s.cur { code := 11 } s.st.cmdStart 0x042)) ∧
  (∀ (o : OpPQ) (s : State), s.Issues o.c [.p o.p] → s.job.queues[o.q] ≠ [] → s.queueBad o.q = true → s.job.spec = none →
    exec (.qpopp o) s = .next (s.raise s.cur { code := 11 } s.st.cmdStart 0x044)) ∧
  (∀ (o : OpSQ) (s : State), s.Issues o.c [.s o.d] →
    ∃ t, exec (.qlen o) s = .next t ∧ s.Done (s.sput o.d (BitVec.ofNat 64 (s.job.qlen o.q))) o.c 0 t) ∧
  (∀ (s : State) (q : QReg), (s.jobs.find? s.cur.job).isSome = true →
    ((s.qpop q).jobOf s.cur.job).queues[q] = s.job.queues[q].tail ∧
    (∀ r, r ≠ q → ((s.qpop q).jobOf s.cur.job).queues[r] = s.job.queues[r]))

/-! ### Branches, calls and loops (07 R205 to R211) -/

/-- The branch registers: the target, and the count from which the cost of a taken branch is reckoned. A transfer completes at issue and leaves a target for
after two slots: that of the branch register where the predicate says so, the register's for a `CALL`, which writes the return address to s31, and s31 for
a `RET`. Loops: an entry for a count that is not 0, none for 0, which goes on behind the command at the end; `LEXIT` pops the entry of the current call
level. -/
def Obligations.ControlFlowCommands : Prop :=
  (∀ (o : OpPtb) (s : State), s.Issues o.c [.b o.b] →
    ∃ t, exec (.ptb o) s = .next t ∧
      s.Done (s.modSt (fun t => { t with b := t.b.set o.b (s.st.cmdStart + o.off.signExtend 64), btime := t.btime.set o.b (t.issued + 1) })) o.c 0 t) ∧
  (∀ (o : OpPtbr) (s : State), s.Issues o.c [.b o.b, .s o.a] →
    ∃ t, exec (.ptbr o) s = .next t ∧
      s.Done (s.modSt (fun t => { t with b := t.b.set o.b (s.sget o.a + o.off.signExtend 64), btime := t.btime.set o.b (t.issued + 1) })) o.c 0 t) ∧
  (∀ (o : OpBr) (s : State), s.Issues o.c [.b o.b] [o.p] →
    ∃ t, exec (.br o) s = .next t ∧ s.Done s o.c 0 t ∧
      t.st.slot = some ⟨if s.job.pred o.p = o.neg then none else some (s.bget o.b), .br, 2, 4 - (s.st.issued + 1 - s.st.btime[o.b])⟩) ∧
  (∀ (o : OpB) (s : State), s.Issues o.c [.b o.b, .s 31] → s.st.callLevel ≠ 255 →
    ∃ t, exec (.call o) s = .next t ∧
      s.Done (s.sput 31 (BitVec.ofNat 64 (s.skipCommands s.job 2 (s.st.pc.toNat + 12)))) o.c 0 t ∧
      t.st.slot = some ⟨some (s.bget o.b), .call, 2, 4 - (s.st.issued + 1 - s.st.btime[o.b])⟩) ∧
  (∀ (o : Op0) (s : State), s.Issues o.c [.s 31] →
    ∃ t, exec (.ret o) s = .next t ∧ s.Done s o.c 0 t ∧ t.st.slot = some ⟨some (s.sget 31), .ret, 2, 2⟩) ∧
  (∀ (o : OpLoop) (s : State), s.Issues o.c [] → s.st.slot = none → s.st.inTrap = false → s.st.loops.length < 4 → o.cnt ≠ 0 → o.stop ≠ 0 →
    ∃ t, exec (.loop o) s = .next t ∧ s.Done s o.c 0 t ∧
      (t.strOf s.cur).loops = ⟨s.st.pc + 12, s.st.pc + 4 * o.stop.setWidth 64, o.cnt.setWidth 32, s.st.callLevel⟩ :: s.st.loops) ∧
  (∀ (o : OpLoopr) (s : State), s.Issues o.c [.s o.a] → s.st.slot = none → s.st.inTrap = false → s.st.loops.length < 4 → o.stop ≠ 0 →
    s.sget o.a ≠ 0 → (s.sget o.a).toNat < 2 ^ 32 →
    ∃ t, exec (.loopr o) s = .next t ∧ s.Done s o.c 0 t ∧
      (t.strOf s.cur).loops = ⟨s.st.pc + 12, s.st.pc + 4 * o.stop.setWidth 64, (s.sget o.a).setWidth 32, s.st.callLevel⟩ :: s.st.loops) ∧
  (∀ (o : OpLoop) (s : State), s.Issues o.c [] → s.st.inTrap = false → o.cnt = 0 → ∃ t, exec (.loop o) s = .next t ∧ s.Done s o.c 0 t) ∧
  (∀ (o : Op0) (s : State), s.Issues o.c [] → s.st.slot = none → s.st.inTrap = false →
    ∃ t, exec (.lexit o) s = .next t ∧ s.Done s o.c 0 t ∧
      ((∀ l ∈ s.st.loops, l.stop ≠ s.st.cmdStart) →
        (t.strOf s.cur).loops = match s.st.loops with
          | [] => []
          | l :: r => if l.level = s.st.callLevel then r else l :: r))


/-! ### Stream control (07 R188 to R198, 01 R22 to R25) -/

/-- Commands of synchronisation alone, and those of semaphores. `SEMWAIT` completes once its wait is met, and before that changes nothing but that it stands past its guard. `SAFEPT` with no
pre-emption pending goes on and restarts the count of cycles without a pre-emption point, also while it waits; with one, the stream of a real job stops there,
whatever its wait and its section's dependences. `TRAP` and `BKPT` raise their traps. -/
def Obligations.SynchronisationCommands : Prop :=
  (∀ (o : Op0) (s : State), s.Issues o.c [] → ∃ t, exec (.nop o) s = .next t ∧ s.Done s o.c 0 t) ∧
  (∀ (o : Op0) (s : State), s.Issues o.c [] (irrev := true) → ∃ t, exec (.irrev o) s = .next t ∧ s.Done s o.c 0 t) ∧
  (∀ (o : OpSem) (s : State) (i : BitVec 8), s.Issues o.c (SemIdx_regs o.i ++ SemAmt_regs o.v) (gw := true) → s.semIdx o.i = .ok i →
    ∃ t, exec (.semadd o) s = .next t ∧ s.Done (s.signal s.cur.job i (s.semAmt o.v)) o.c 0 t) ∧
  (∀ (o : OpSem) (s : State) (i : BitVec 8), s.Issues o.c (SemIdx_regs o.i ++ SemAmt_regs o.v) → s.semIdx o.i = .ok i →
    (s.job.waitMet i (s.semAmt o.v) = true → ∃ t, exec (.semwait o) s = .next t ∧ s.Done s o.c 0 t) ∧
    (s.job.waitMet i (s.semAmt o.v) = false → exec (.semwait o) s = .next s.begin) ∧
    (∃ t, exec (.sembase o) s = .next t ∧ s.Done (s.setBase s.cur.job i (s.semAmt o.v)) o.c 0 t)) ∧
  (∀ (o : OpSemI) (s : State) (i : BitVec 8), s.Issues o.c (SemIdx_regs o.i) → s.semIdx o.i = .ok i →
    ∃ t, exec (.sembaseSnap o) s = .next t ∧ s.Done (s.setBase s.cur.job i s.job.sems[i.toNat]) o.c 0 t) ∧
  (∀ (o : OpSemD) (s : State) (i : BitVec 8), s.Issues o.c (.s o.d :: SemIdx_regs o.i) → s.semIdx o.i = .ok i →
    (∃ t, exec (.semrd o) s = .next t ∧ s.Done (s.sput o.d (BitVec.ofNat 64 s.job.sems[i.toNat].toNat)) o.c 0 t) ∧
    (∃ t, exec (.semrdRel o) s = .next t ∧
      s.Done (s.sput o.d (BitVec.ofInt 64 (s.job.sems[i.toNat] - s.job.wbase[i.toNat]).toInt)) o.c 0 t)) ∧
  (∀ (s : State) (i : SemIdx), s.semIdx i = match i with
    | .imm n => .ok n
    | .reg r => if (s.sget r).toNat ≤ 255 then .ok (BitVec.ofNat 8 (s.sget r).toNat) else .error (.err { code := 21 })) ∧
  (∀ (o : Op0) (s : State), s.Issues o.c [] → s.job.preempt = none →
    ∃ t, exec (.safept o) s = .next t ∧ s.Done s o.c 0 t ∧ (t.strOf s.cur).gap = 1) ∧
  (∀ (o : Op0) (s : State), s.Live → s.guardKnown o.c = true → s.job.guardTrue o.c = true → s.job.preempt = none → s.opens o.c = false →
    exec (.safept o) s = .next (s.modSt (fun t => { t with gap := 0 }))) ∧
  (∀ (o : Op0) (s : State), s.Live → s.guardKnown o.c = true → s.job.guardTrue o.c = true → s.job.preempt.isSome = true → s.job.spec = none →
    exec (.safept o) s = .next ((s.modSt (fun t => { t with gap := 0 })).modSt (fun t => { t with stopped := true }))) ∧
  (∀ (o : OpTrap) (s : State), s.Issues o.c [] (irrev := true) →
    (∃ t, exec (.trap o) s = .next t ∧ s.Done s o.c 0 t ∧ (t.strOf s.cur).traps = s.st.traps ++ [⟨.trap, o.code.setWidth 32, s.now⟩]) ∧
    (∃ t, exec (.bkpt o) s = .next t ∧ s.Done s o.c 0 t ∧ (t.strOf s.cur).traps = s.st.traps ++ [⟨.bkpt, o.code.setWidth 32, s.now⟩]))

/-- Arrivals and releases: `NOTIFY`, `RDV` and `BAR`. A stream arrives only when its earlier commands have reached their completion points,
under the conditions of a release fence, and goes on from the release cycle on, with what an acquire fence sets off. Where the spec leaves room, the model's own choices: log 24. -/
def Obligations.ArrivalCommands : Prop :=
  (∀ (o : Op0) (s : State), s.Issues o.c [] → s.busy s.cur = false →
    ∃ t, exec (.notify o) s = .next t ∧ s.Done (s.modSt (fun t => { t with ended := true })) o.c 0 t ∧
      ((∀ l, l ≠ s.cur.letter → (s.job.stream l).ended = true) → s.job.prologue = false →
        ⟨s.now + 1, .event .jobComplete { a := s.cur.job }⟩ ∈ t.agenda)) ∧
  (∀ (o : OpN) (s : State) (k : Nat), s.Issues o.c [] → s.st.arrived = some k → k ≤ s.now →
    ∃ t, exec (.rdv o) s = .next t ∧ s.Done (s.modSt (fun t => { t with rdv := none, arrived := none })) o.c 0 t) ∧
  (∀ (o : OpN) (s : State), s.Issues o.c [] → s.st.arrived = none → s.st.rdv = none → s.busy s.cur = false →
    ∃ t, exec (.rdv o) s = .next t ∧ (t.strOf s.cur).rdv = some o.n ∧
      ((∀ l, l ≠ s.cur.letter → (s.job.stream l).rdv = some o.n) → ∀ l, ((t.jobOf s.cur.job).stream l).arrived = some (s.now + 4)) ∧
      (∀ l, l ≠ s.cur.letter → (s.job.stream l).rdv ≠ some o.n → (t.strOf s.cur).arrived = none)) ∧
  (∀ (o : OpBar) (s : State) (b : Barrier) (k : Nat), s.Issues o.c [.s o.cnt] (irrev := true) → s.sget o.cnt ≠ 0 →
    (s.sget o.cnt).toNat ≤ (s.barKey o.scope o.n (s.sget o.cnt).toNat).2 →
    s.barriers.find? (fun b => b.arrivals.contains s.cur) = some b → b.release = some k → k ≤ s.now →
    ∃ t, exec (.bar o) s = .next t ∧ s.Done (State.fenceStart { s with barriers := leaveBar s.barriers s.cur } s.cur true
      (match o.scope with
        | .core => .core
        | .die => .die
        | .package => .package)) o.c 0 t) ∧
  (∀ (o : OpBar) (s : State), s.Issues o.c [.s o.cnt] (irrev := true) → s.sget o.cnt ≠ 0 →
    (s.sget o.cnt).toNat ≤ (s.barKey o.scope o.n (s.sget o.cnt).toNat).2 → (∀ b ∈ s.barriers, s.cur ∉ b.arrivals) →
    let k := (s.barKey o.scope o.n (s.sget o.cnt).toNat).1
    (∀ b ∈ s.barriers, b.is k = true → b.release = none → b.count = (s.sget o.cnt).toNat) → s.busy s.cur = false →
    s.released s.cur k.fence s.nextId s.now = true →
    exec (.bar o) s = .next (State.begin { s with barriers := arriveAt s.barriers k s.cur s.now })) ∧
  (∀ (o : OpN) (s : State) (b : Barrier) (k : Nat), s.Issues o.c [] →
    s.barriers.find? (fun b => b.arrivals.contains s.cur) = some b → b.release = some k → k ≤ s.now →
    ∃ t, exec (.barLaunch o) s = .next t ∧
      s.Done (State.fenceStart { s with barriers := leaveBar s.barriers s.cur } s.cur true .fabric) o.c 0 t)


/-- Where a stream goes on after a command that completes (07 R211, 06 R174): at the next address; at a loop's start while the count of its
entry is above 1; at a transfer's target after the last slot, with the cycles that it costs; and past the end of a section in the next one, the old one
left for its retirement. -/
def Obligations.NextCommand : Prop :=
  ∀ (c : Ctl) (u : Use) (f : State → Act) (s e : State) (x : Section), s.Issues c u.regs u.preds u.gw u.ga u.irrev → u.lat = 0 →
    f s = .done e 0 → e.cur = s.cur → (e.jobs.find? s.cur.job).isSome = true → e.st.sect = some x → e.st.entering = none →
    ∃ t, command c u f s = .next t ∧
      (let a := e.st.cmdStart
       let n := a + BitVec.ofNat 64 (e.st.cmdLen u.two)
       let loopEnd := e.st.frozen = false ∧ ∃ l, e.st.top = some l ∧ l.stop = a
       (t.strOf s.cur).issued = e.st.issued + 1 ∧
       (e.st.slot = none → ¬ loopEnd → n.toNat < x.stop → (t.strOf s.cur).pc = n ∧ (t.strOf s.cur).sect = some x) ∧
       (e.st.slot = none → ¬ loopEnd → x.stop ≤ n.toNat → (t.strOf s.cur).sect = none ∧
         (t.strOf s.cur).entering = some ⟨BitVec.ofNat 64 x.after, BitVec.ofNat 64 (x.after + 8), some x.num, false⟩ ∧
         (t.strOf s.cur).left = e.st.left ++ [(e.st.visit, x.num)]) ∧
       (∀ l, e.st.slot = none → e.st.frozen = false → e.st.top = some l → l.stop = a → l.count ≠ 1 → l.start.toNat < x.stop →
         (t.strOf s.cur).pc = l.start ∧ (t.strOf s.cur).loops = { l with count := l.count - 1 } :: e.st.loops.tail) ∧
       (∀ g k b, e.st.slot = some ⟨some g, k, 1, b⟩ → x.holds g.toNat = true →
         (t.strOf s.cur).pc = g ∧ (t.strOf s.cur).slot = none ∧ (t.strOf s.cur).readyAt = e.now + 1 + b ∧
         (k = .call → (t.strOf s.cur).callLevel = e.st.callLevel + 1)) ∧
       (∀ g k m b, e.st.slot = some ⟨g, k, m, b⟩ → 1 < m →
         (t.strOf s.cur).pc = n ∧ (t.strOf s.cur).slot = some ⟨g, k, m - 1, b⟩))

/-- A command whose guard is false only sends its signal and goes on, whatever its body (06 R177), once no pending fence holds its signal back (03 R95). -/
def Obligations.GuardFalse : Prop :=
  ∀ (c : Ctl) (u : Use) (f : State → Act) (s : State), s.Live → (s.st.issued ≠ s.st.entered ∨ s.job.depsMet s.cur.letter = true) →
    s.job.ctlWait c = true → s.guardKnown c = true → s.job.guardTrue c = false → s.st.begun = false →
    s.fenced s.cur c.sig.isSome false = false → (s.job.spec.isSome = true → ∀ jump, s.st.slotEnds s.st.cmdStart jump = false) →
    ∃ t, command c u f s = .next t ∧ s.Done s c 0 t

/-- What a completion point does (17 R404, 03 R96, R97). A value owed reaches its register, and the command is in flight no more. A command that works on the
on-core stores names the chunks that it reads, reads them one at a time, makes its results of what it has read, and writes them a group at a time; at its
completion point nothing of this is left, its registers are written, and its signal and its flags are sent. A load so gives its register the bytes that stand
there, and a store leaves its bytes and no others changed. Where the spec leaves room, the model's own choices: log 11 and 12. -/
def Obligations.LateValues : Prop :=
  (∀ (s : State) (k : Nat) (f : Flight) (n : SReg) (v : Word), s.flights.find? k = some f → f.work = .late [.s n v] → n ≠ 0 → f.flags = 0 →
    (s.jobs.find? f.ref.job).isSome = true → s.scatterCore k = none →
    ((s.finishMove k).strOf f.ref).sget n = v ∧ (s.finishMove k).flights.find? k = none ∧
    (∀ m, m ≠ n → ((s.finishMove k).strOf f.ref).sget m = (s.strOf f.ref).sget m)) ∧
  (∀ (s : State) (k : Nat) (f : Flight) (d : DataWork), s.flights.find? k = some f → f.work = .data d →
    (d.need = none → (s.dataStep k).flights.find? k = some { f with work := .data { d with need := some d.op.need } }) ∧
    (∀ c r, d.need = some (c :: r) → ∃ i u v l, (c :: r)[i]? = some u ∧ l = (c :: r).eraseIdx i ∧
      v = ((s.coreOf (s.jobOf f.ref.job).coreKey).capture d.seen u.1 u.2).2 ∧
      (s.dataStep k).flights.find? k = some { f with work := .data { d with need := some l, seen := v } }) ∧
    (∀ m, d.need = some [] → d.outs = none → d.op.single = false → (∀ c, d.op ≠ .compress c) → d.op.made d.seen = .ok m →
      (s.dataStep k).flights.find? k =
        some { f with flags := m.flags, work := .data { d with outs := some (d.op.groups m.puts), clears := clearsOf m.puts, owed := m.owed } }) ∧
    (∀ g r, d.need = some [] → d.outs = some (g :: r) → s.scatterTurn k f d.op = true → ∃ i x, i ≤ r.length ∧
      (d.op.ordered = true → i = 0) ∧ (s.dataStep k).flights.find? k = some x ∧ x.work = .data { d with outs := some ((g :: r).eraseIdx i) })) ∧
  (∀ (s : State) (k : Nat) (f : Flight) (d : DataWork), s.flights.find? k = some f → f.work = .data d → d.need = some [] → d.outs = some [] →
    (s.jobs.find? f.ref.job).isSome = true → d.op.leaves = false → s.scatterCore k = none → s.Completes k f f.flags (s.finishMove k)) ∧
  (∀ (s : State) (k : Nat) (f : Flight) (d : SReg) (sz : Fin 5) (sx : Bool) (a : Nat), s.flights.find? k = some f →
    f.work = (DataOp.load d sz sx a).fresh → f.flags = 0 → (s.jobs.find? f.ref.job).isSome = true → a % 2 ^ sz.val = 0 → s.scatterCore k = none →
    Store.foul 64 (s.coreOf (s.jobOf f.ref.job).coreKey).scratch a (2 ^ sz.val) = false →
    s.Completes k f 0 (s.finishMove k) ∧ ((s.finishMove k).strOf f.ref).s =
      ((s.strOf f.ref).writeData d sz sx (natOf (Store.read 64 (s.coreOf (s.jobOf f.ref.job).coreKey).scratch a (2 ^ sz.val)))).s) ∧
  (∀ (s : State) (k : Nat) (f : Flight) (sz : Fin 5) (a : Nat) (v : List Byte), s.flights.find? k = some f → f.work = (DataOp.store a v).fresh →
    f.flags = 0 → (s.jobs.find? f.ref.job).isSome = true → v.length = 2 ^ sz.val → a % 2 ^ sz.val = 0 → s.scatterCore k = none →
    let c := (s.jobOf f.ref.job).coreKey
    Memory.wf (s.coreOf c).scratch.cells = true →
    s.Completes k f 0 (s.finishMove k) ∧ (s.finishMove k).mem = s.mem ∧
    Store.read 64 ((s.finishMove k).coreOf c).scratch a v.length = v ∧
    ∀ b n, b + n ≤ a ∨ a + v.length ≤ b → Store.read 64 ((s.finishMove k).coreOf c).scratch b n = Store.read 64 (s.coreOf c).scratch b n)

/-! ### Scalar floating point (08 R223 to R227) -/

/-- Arithmetic on the FP32 values of the low halves: the exact result is rounded once, its flags are the operation's and the rounding's, and the code,
zero-extended, is owed to sA for the latency of the class. A finite non-zero value over zero gives an infinity and `DZ`. -/
def Obligations.FloatArithmetic : Prop :=
  (∀ p ∈ ([(.fadd, 3, Machine.Num.add), (.fsub, 3, fun x y => Machine.Num.add x y.neg), (.fmul, 3, Machine.Num.mul), (.fdiv, 12, Machine.Num.div)] :
      List ((Op3 → Instr) × Nat × (Machine.Num → Machine.Num → Machine.Num × Flags))),
    ∀ (o : Op3) (s : State), s.Issues o.c [.s o.d, .s o.a, .s o.b] →
      let r := p.2.2 (f32 ((s.sget o.a).toNat % 2 ^ 32)) (f32 ((s.sget o.b).toNat % 2 ^ 32))
      ∃ t, exec (p.1 o) s = .next t ∧
        s.Pends s o.c [.s o.d] [.s o.d (if o.d = 0 then 0 else BitVec.ofNat 64 (convertNum 0 r.1 7).1)] (r.2 ||| (convertNum 0 r.1 7).2) p.2.1 t) ∧
  (∀ (o : Op4) (s : State), s.Issues o.c [.s o.d, .s o.a, .s o.b, .s o.e] →
    let r := Machine.Num.fma (f32 ((s.sget o.a).toNat % 2 ^ 32)) (f32 ((s.sget o.b).toNat % 2 ^ 32)) (f32 ((s.sget o.e).toNat % 2 ^ 32))
    ∃ t, exec (.ffma o) s = .next t ∧
      s.Pends s o.c [.s o.d] [.s o.d (if o.d = 0 then 0 else BitVec.ofNat 64 (convertNum 0 r.1 7).1)] (r.2 ||| (convertNum 0 r.1 7).2) 3 t) ∧
  (∀ (o : Op2) (s : State), s.Issues o.c [.s o.d, .s o.a] →
    let r := Machine.Num.sqrt (f32 ((s.sget o.a).toNat % 2 ^ 32))
    ∃ t, exec (.fsqrt o) s = .next t ∧
      s.Pends s o.c [.s o.d] [.s o.d (if o.d = 0 then 0 else BitVec.ofNat 64 (convertNum 0 r.1 7).1)] (r.2 ||| (convertNum 0 r.1 7).2) 14 t) ∧
  (∀ (o : Op3) (s : State), s.Issues o.c [.s o.d, .s o.a, .s o.b] → (s.sget o.a).toNat % 2 ^ 31 ≠ 0 → (s.sget o.a).toNat / 2 ^ 23 % 256 ≠ 255 →
    (s.sget o.b).toNat % 2 ^ 31 = 0 →
    ∃ t, exec (.fdiv o) s = .next t ∧
      s.Pends s o.c [.s o.d] [.s o.d (if o.d = 0 then 0 else if (s.sget o.a).getLsbD 31 = (s.sget o.b).getLsbD 31 then 0x7F800000 else 0xFF800000)]
        Flags.dz 12 t)

/-- `FMIN`, `FMAX`, `FABS`, `FNEG` and `FCLASS` set no flag and complete at issue; `FCVT` converts one format to another, one cycle later. -/
def Obligations.FloatMovesAndConversions : Prop :=
  (∀ p ∈ ([(.fmin, Machine.Num.min), (.fmax, Machine.Num.max)] : List ((Op3 → Instr) × (Machine.Num → Machine.Num → Machine.Num))),
    ∀ (o : Op3) (s : State), s.Issues o.c [.s o.d, .s o.a, .s o.b] →
      ∃ t, exec (p.1 o) s = .next t ∧ s.Done (s.sput o.d (BitVec.ofNat 64
        (convertNum 0 (p.2 (f32 ((s.sget o.a).toNat % 2 ^ 32)) (f32 ((s.sget o.b).toNat % 2 ^ 32))) 7).1)) o.c 0 t) ∧
  (∀ (o : Op2) (s : State), s.Issues o.c [.s o.d, .s o.a] →
    (∃ t, exec (.fabs o) s = .next t ∧ s.Done (s.sput o.d (s.sget o.a &&& 0x7FFFFFFF)) o.c 0 t) ∧
    (∃ t, exec (.fneg o) s = .next t ∧ s.Done (s.sput o.d ((s.sget o.a &&& 0xFFFFFFFF) ^^^ 0x80000000)) o.c 0 t)) ∧
  (∀ (o : OpFcvt) (s : State), s.Issues o.c [.s o.d, .s o.a] →
    let x := if o.src = 0 ∨ o.src = 8 ∨ o.src = 9 then Machine.Num.ofInt (toSigned (fmtBits o.src) ((s.sget o.a).toNat % 2 ^ fmtBits o.src))
      else fetchNum s.job.fmode o.src ((s.sget o.a).toNat % 2 ^ fmtBits o.src)
    ∃ t, exec (.fcvt o) s = .next t ∧
      (if o.dst = 0 ∨ o.dst = 8 ∨ o.dst = 9 then
        s.Pends s o.c [.s o.d] [.s o.d (if o.d = 0 then 0 else BitVec.ofInt 64 (toSigned (fmtBits o.dst) (convertInt x o.dst).1))]
          (convertInt x o.dst).2 1 t
      else
        s.Pends s o.c [.s o.d] [.s o.d (if o.d = 0 then 0 else BitVec.ofNat 64 (convertNum s.job.fmode x o.dst).1)]
          (convertNum s.job.fmode x o.dst).2 1 t)) ∧
  (∀ (o : OpFclass) (s : State), s.Issues o.c [.s o.d, .s o.a] →
    ∃ k t, exec (.fclass o) s = .next t ∧ s.Done (s.sput o.d (BitVec.ofNat 64 (2 ^ k))) o.c 0 t ∧
      k = classOf o.fmt ((s.sget o.a).toNat % 2 ^ fmtBits o.fmt) ∧ k ≤ 9)

/-- The narrow formats hold what they decode to: every E4M3, E5M2, T8 and T6 code that is no NaN comes back from its exact value, with no flag. -/
def Obligations.NarrowFormatsRoundTrip : Prop :=
  ∀ p ∈ ([(1, 256), (2, 256), (3, 256), (4, 64)] : List (Nat × Nat)), ∀ code, code < p.2 → (codeNum p.1 code).isNan = false →
    convertNum 0 (codeNum p.1 code) p.1 = (code, 0)

/-! ### Control registers and time (08 R228 to R237) -/

/-- A read of a control register gives its value at the start of the cycle; `PTPT` comes 4 cycles later, and only to a real job. Writes of control registers:
sA takes the old value, and the register the new one without its reserved bits; `CSRS` sets and `CSRC` clears the bits of the operand. -/
def Obligations.ControlRegisters : Prop :=
  (∀ (o : OpCsrr) (s : State), s.Issues o.c [.s o.d] → o.n ≠ 0x025 → s.csrBeyond o.n.toNat = false →
    ∃ t, exec (.csrr o) s = .next t ∧ s.Done (s.sput o.d (s.csrOld o.n.toNat)) o.c 0 t) ∧
  (∀ (o : OpCsrr) (s : State), s.Issues o.c [.s o.d] (irrev := true) → o.n = 0x025 → s.job.late.csrs = [] →
    ∃ t, exec (.csrr o) s = .next t ∧ s.Pends s o.c [.s o.d] [.s o.d (if o.d = 0 then 0 else s.ptpt)] 0 4 t) ∧
  (∀ (o : Op1) (s : State), s.Issues o.c [.s o.d] (irrev := true) →
    ∃ t, exec (.rdptp o) s = .next t ∧ s.Pends s o.c [.s o.d] [.s o.d (if o.d = 0 then 0 else s.ptpt)] 0 4 t) ∧
  (∀ (o : Op1) (s : State), s.Issues o.c [.s o.d] → s.job.status = .running →
    ∃ t, exec (.rdcyc o) s = .next t ∧ s.Done (s.sput o.d (BitVec.ofNat 64 (s.job.cycBase + (s.now - s.job.cycSince)))) o.c 0 t) ∧
  (∀ (s : State), s.job.late.csrs = [] →
    s.csrOld 0x000 = s.job.fstat.setWidth 64 ∧ s.csrOld 0x001 = s.job.fen.setWidth 64 ∧ s.csrOld 0x002 = s.job.fmode.setWidth 64 ∧
    s.csrOld 0x008 = s.st.sbase ∧ s.csrOld 0x009 = s.st.slimit ∧ s.csrOld 0x010 = s.st.tvec ∧ s.csrOld 0x011 = s.st.tret ∧
    s.csrOld 0x012 = s.st.tcause ∧ s.csrOld 0x018 = s.job.fmbackoff ∧
    s.csrOld 0x020 = BitVec.ofNat 64 (s.job.scrSize * 65536 + s.job.scrBase) ∧
    s.csrOld 0x021 = BitVec.ofNat 64 (s.job.tileCount * 256 + s.job.tileBase) ∧
    ∀ n : Tile, s.csrOld (0x040 + n) = s.job.tcfg[n]) ∧
  (∀ p ∈ ([(0x008, 0xFFFFFF, fun t => t.sbase, fun v t => { t with sbase := v }), (0x009, 0xFFFFFF, fun t => t.slimit, fun v t => { t with slimit := v }),
      (0x010, 0xFFFFFFFFFFFF, fun t => t.tvec, fun v t => { t with tvec := v }), (0x011, 0xFFFFFFFFFFFF, fun t => t.tret, fun v t => { t with tret := v }),
      (0x012, 0x800000FFFFFFFFFF, fun t => t.tcause, fun v t => { t with tcause := v })] :
      List (BitVec 12 × Word × (Machine.Stream → Word) × (Word → Machine.Stream → Machine.Stream))),
    ∀ (o : OpCsrw) (s : State), s.Issues o.c (.s o.d :: CsrSrc_regs o.src) → o.n = p.1 → s.job.late.csrs = [] →
      let old := p.2.2.1 s.st
      (∃ t, exec (.csrw o) s = .next t ∧ s.Done ((s.modSt (p.2.2.2 (s.csrSrc o.src &&& p.2.1))).sput o.d old) o.c 0 t) ∧
      (∃ t, exec (.csrs o) s = .next t ∧ s.Done ((s.modSt (p.2.2.2 ((old ||| s.csrSrc o.src) &&& p.2.1))).sput o.d old) o.c 0 t) ∧
      (∃ t, exec (.csrc o) s = .next t ∧ s.Done ((s.modSt (p.2.2.2 ((old &&& ~~~(s.csrSrc o.src)) &&& p.2.1))).sput o.d old) o.c 0 t)) ∧
  (∀ (o : OpCsrw) (s : State), s.Issues o.c (.s o.d :: CsrSrc_regs o.src) → o.n = 0x001 ∨ o.n = 0x002 ∨ o.n = 0x018 → s.job.late.csrs = [] →
    let n := o.n.toNat
    let new (w : Word) : State := s.modJob s.cur.job (fun j => { j with
      fen := if n = 0x001 then w.setWidth 5 else j.fen
      fmode := if n = 0x002 then w.setWidth 3 else j.fmode
      fmbackoff := if n = 0x018 then w &&& 0xFFFFFFFF else j.fmbackoff
      late := { j.late with csrs := j.late.csrs.set n (s.csrOld n) } })
    (∃ t, exec (.csrw o) s = .next t ∧ s.Done ((new (s.csrSrc o.src)).sput o.d (s.csrOld n)) o.c 0 t) ∧
    (∃ t, exec (.csrs o) s = .next t ∧ s.Done ((new (s.csrOld n ||| s.csrSrc o.src)).sput o.d (s.csrOld n)) o.c 0 t) ∧
    (∃ t, exec (.csrc o) s = .next t ∧ s.Done ((new (s.csrOld n &&& ~~~(s.csrSrc o.src))).sput o.d (s.csrOld n)) o.c 0 t)) ∧
  (∀ (o : OpCsrw) (s : State), s.Issues o.c (.s o.d :: CsrSrc_regs o.src) → o.n = 0x000 →
    ∃ t, exec (.csrw o) s = .next t ∧ (t.jobOf s.cur.job).fstat = (s.csrSrc o.src).setWidth 5) ∧
  (∀ (o : OpTcfg) (s : State), s.Issues o.c (.s o.d :: CsrSrc_regs o.src) → o.n.val < s.job.tileCount → s.tileBusy o.n = false →
    s.job.weights.map (·.tile) ≠ some o.n.val → tcfgFmt (s.csrSrc o.src) ≤ 8 →
    tcfgRows (s.csrSrc o.src) * tcfgCols (s.csrSrc o.src) * fmtBytes (tcfgFmt (s.csrSrc o.src)) ≤ 32768 →
    ∃ t, exec (.tcfgWrite o) s = .next t ∧ (t.jobOf s.cur.job).tcfg[o.n] = s.csrSrc o.src &&& 0xFFFF0F ∧
      (∀ m : Tile, m ≠ o.n → (t.jobOf s.cur.job).tcfg[m] = s.job.tcfg[m]) ∧
      (t.strOf s.cur).sget o.d = if o.d = 0 then 0 else s.csrOld (0x040 + o.n)) ∧
  (∀ (o : OpCsrS) (s : State) (c : SCtx), s.Issues o.c (.s o.d :: CsrSrc_regs o.src) (irrev := true) →
    let v := (s.csrSrc o.src).toNat
    (s.dieOf s.job.die).sampler.ctxs.find? (v / 65536 % 1024) = some c → v % 16 ≤ 8 → c.state ≠ .idle → c.cfg.vf = s.job.vf →
    v % 16 ≤ c.cfg.dmax →
    ∃ t, exec (.specdepthWrite o) s = .next t ∧ (t.jobOf s.cur.job).specSel.toNat = v / 65536 % 1024 ∧
      ((t.dieOf s.job.die).sampler.ctxs.find? (v / 65536 % 1024)) = some { c.keepDepths s.now with pend := c.pend ++ [(v % 16, s.now)] })


/-! ### Scalar memory (08 R238 to R242) -/

/-- Loads and stores of the scratchpad: a load owes its registers for 3 cycles and reads its bytes up to its completion point, and a store writes its bytes up
to its completion point, 2 cycles after issue. Bytes written to a core's scratchpad in its canonical form read back; a poisoned write marks its granules, and
a clean one clears those that it covers whole; bytes outside the range read as before, and global memory is untouched. -/
def Obligations.ScratchAccesses : Prop :=
  (∀ (o : OpLds) (s : State) (a : Nat), s.Issues o.c (.s o.a :: dataRegs o.d o.sz) → s.scrOperand o.a o.off (2 ^ o.sz.val) (2 ^ o.sz.val) = .ok a →
    ∃ t, exec (.lds o) s = .next t ∧ s.WorksFor s o.c (if o.sz = 4 then [.s o.d, .s (o.d + 1)] else [.s o.d])
      (.load o.d o.sz o.sx (s.job.scrBase * 65536 + a)) none 3 t) ∧
  (∀ (o : OpSts) (s : State) (a : Nat), s.Issues o.c (.s o.a :: dataRegs o.d o.sz) → s.scrOperand o.a o.off (2 ^ o.sz.val) (2 ^ o.sz.val) = .ok a →
    ∃ t, exec (.sts o) s = .next t ∧ s.WorksFor s o.c []
      (.store (s.job.scrBase * 65536 + a) (if o.sz = 4 then bytesOf 8 (s.sget o.d).toNat ++ bytesOf 8 (s.sget (o.d + 1)).toNat
        else bytesOf (2 ^ o.sz.val) (s.sget o.d).toNat)) none 2 t) ∧
  (∀ (s : State) (b : SReg) (off : Word) (n e a : Nat), s.job.prologue = false → b ≠ 30 →
    (s.scrOperand b off n e = .ok a ↔ a = (s.sget b + off).toNat ∧ a % e = 0 ∧ a + n ≤ s.job.scrSize * 65536)) ∧
  (∀ (s : State) (j : Job) (a : Nat) (v : List Byte) (bad : Bool), Memory.wf (s.coreOf j.coreKey).scratch.cells = true →
    (s.scrWrite j a v bad).scrRead j a v.length = v ∧
    (v ≠ [] → bad = true → (s.scrWrite j a v bad).scrBad j a v.length = true) ∧
    (bad = false → a % 64 = 0 → v.length % 64 = 0 → (s.scrWrite j a v bad).scrBad j a v.length = false) ∧
    (∀ b n, b + n ≤ a ∨ a + v.length ≤ b → (s.scrWrite j a v bad).scrRead j b n = s.scrRead j b n) ∧
    (s.scrWrite j a v bad).mem = s.mem)


/-- Global loads and stores: bytes at hand go to the register 6 cycles later, and `UN` bytes of a real job into the combine buffer within 6 cycles; any other
access is in flight as the stream goes on. Where the spec leaves room, the model's own choices: log 17 and 19. -/
def Obligations.GlobalLoadsAndStores : Prop :=
  (∀ (o : OpLdg) (s : State) (pa : Nat) (v : List Byte), s.Issues o.c ([.h o.h, .s o.o] ++ dataRegs o.d o.sz) (ga := true) → o.sz ≠ 4 →
    s.globElement o.h (s.sget o.o).toNat (2 ^ o.sz.val) false = .ok pa → s.quickRead s.job (s.hget o.h).pkind pa (2 ^ o.sz.val) = some (v, false) →
    ∃ t, exec (.ldg o) s = .next t ∧
      s.Pends s o.c [.s o.d] [.s o.d (if o.d = 0 then 0 else
        if o.sx then BitVec.ofInt 64 (toSigned (8 * 2 ^ o.sz.val) (natOf v)) else BitVec.ofNat 64 (natOf v))] 0 6 t) ∧
  (∀ (o : OpLdg) (s : State) (pa : Nat), s.Issues o.c ([.h o.h, .s o.o] ++ dataRegs o.d o.sz) (ga := true) → s.job.spec = none →
    s.globElement o.h (s.sget o.o).toNat (2 ^ o.sz.val) false = .ok pa → s.quickRead s.job (s.hget o.h).pkind pa (2 ^ o.sz.val) = none →
    ∃ t f a, exec (.ldg o) s = .next t ∧ t.flights.find? s.nextId = some f ∧ f.ref = s.cur ∧ f.sig = o.c.sig ∧ f.owes = dataRegs o.d o.sz ∧
      f.work = .load o.d o.sz o.sx o.h ((s.hget o.h).vaddr (s.sget o.o).toNat) ∧
      t.accesses.find? (s.nextId + 1) = some a ∧ a.flight = s.nextId ∧ a.op = .read ∧ a.pa = pa ∧ a.len = 2 ^ o.sz.val ∧
      (t.strOf s.cur).aside = s.st.aside) ∧
  (∀ (o : OpStg) (s : State) (pa : Nat), s.Issues o.c ([.h o.h, .s o.o] ++ dataRegs o.d o.sz) (gw := true) → s.job.spec = none →
    s.globElement o.h (s.sget o.o).toNat (2 ^ o.sz.val) true = .ok pa →
    let v := if o.sz = 4 then bytesOf 8 (s.sget o.d).toNat ++ bytesOf 8 (s.sget (o.d + 1)).toNat else bytesOf (2 ^ o.sz.val) (s.sget o.d).toNat
    if (s.hget o.h).pkind = .un then
      ∃ t, exec (.stg o) s = .next t ∧
        s.WorksFor s o.c [] (.accept [((s.hget o.h).home pa, pa, v, false)]) none 6 t
    else
      ∃ t f a, exec (.stg o) s = .next t ∧ t.flights.find? s.nextId = some f ∧ f.ref = s.cur ∧ f.sig = o.c.sig ∧ f.work = .writes 1 ∧
        t.accesses.find? (s.nextId + 1) = some a ∧ a.flight = s.nextId ∧ a.op = .write v ∧ a.pa = pa ∧ (t.strOf s.cur).aside = s.st.aside)

/-! ### Handles and translation (09 R246 to R249) -/

/-- `HTEST` and `HREL` complete at issue. `XLAT` owes its handle, which is written when its event comes, 64 cycles after issue. A `PROBE` whose range
the core's cache translates, with no command of another stream of the job in flight, completes 64 cycles after it reached its queue head, and the
other streams go on in the next cycle.
Where the spec leaves room, the model's own choices: log 15 and 25. -/
def Obligations.HandleCommands : Prop :=
  (∀ (o : OpSH) (s : State), s.Issues o.c [.s o.d, .h o.h] →
    ∃ t, exec (.htestS o) s = .next t ∧ s.Done (s.sput o.d (s.hget o.h).test) o.c 0 t) ∧
  (∀ (o : OpPH) (s : State), s.Issues o.c [.p o.d, .h o.h] →
    ∃ t, exec (.htestP o) s = .next t ∧ s.Done (s.pput s.cur o.d (some (s.hget o.h).valid)) o.c 0 t) ∧
  (∀ (o : OpH) (s : State), s.Issues o.c [.h o.h] →
    ∃ t, exec (.hrel o) s = .next t ∧
      s.Done (s.hput s.cur.job o.h (if (s.hget o.h).valid then Handle.none else { s.hget o.h with miss := missNone })) o.c 0 t) ∧
  (∀ (o : OpXlat) (s : State), s.Issues o.c [.h o.h, .s o.a] →
    ∃ t f k, exec (.xlat o) s = .next t ∧ t.flights.find? k = some f ∧ f.ref = s.cur ∧ f.sig = o.c.sig ∧ f.owes = [.h o.h] ∧
      f.work = .handle o.h (s.translate s.job (s.sget o.a).toNat).1 ∧ ⟨s.now + 64, .event .xlatHandleWrite { a := k }⟩ ∈ t.agenda) ∧
  (∀ (s : State) (k : Nat) (f : Flight) (h : HReg) (v : Handle), s.args.a = k → s.flights.find? k = some f → f.work = .handle h v →
    (s.jobs.find? f.ref.job).isSome = true →
    ∃ t, exec .xlatHandleWrite s = .next t ∧ (t.jobOf f.ref.job).handles[h] = v ∧ t.flights.find? k = none ∧
      ∀ g : HReg, g ≠ h → (t.jobOf f.ref.job).handles[g] = (s.jobOf f.ref.job).handles[g]) ∧
  (∀ (o : OpProbe) (s : State) (p : Probing), s.Issues o.c [.h o.h, .s o.a, .s o.n] → s.st.probing = some p → p.fault = none →
    (∀ f ∈ s.flights, f.2.ref.job = s.cur.job → f.2.ref.letter = s.cur.letter) → p.since + 64 ≤ s.now → p.next ≤ p.last → p.last < 2 ^ 48 →
    (∀ va, p.next ≤ va → va ≤ p.last → (s.core.cached s.job.ctx va).isSome = true) → (s.core.cached s.job.ctx (s.sget o.a).toNat).isSome = true →
    (s.sget o.a).toNat < 2 ^ 48 →
    ∃ t h, exec (.probe o) s = .next t ∧ s.core.cached s.job.ctx (s.sget o.a).toNat = some h ∧
      s.Done (((s.hput s.cur.job o.h h).modSt (fun t => { t with probing := none })).modJob s.cur.job
        (fun j => { j with late := { j.late with probe := true } })) o.c 0 t)

/-! ### Generators (10 R280 to R283) -/

/-- A generator's fields as its instructions set them: the field takes the value, the other bits keep theirs. `GCFG.LD` takes 16 scratch bytes, 3 cycles
later, whose reserved bits are 0 and whose fields are in range; `GCFG.ST` stores 16 bytes up to its completion point, 2 cycles after issue. -/
def Obligations.Generators : Prop :=
  (∀ p ∈ ([(.gbase, 0, 24), (.gcount, 64, 16), (.gcountRow, 80, 16)] : List ((OpG → Instr) × Nat × Nat)),
    ∀ (o : OpG) (s : State), s.Issues o.c [.g o.g, .s o.a] → (s.sget o.a + o.imm).toNat < 2 ^ p.2.2 →
      ∃ g t, exec (p.1 o) s = .next t ∧ s.Done (s.gput o.g g) o.c 0 t ∧
        (g.toNat / 2 ^ p.2.1) % 2 ^ p.2.2 = (s.sget o.a + o.imm).toNat ∧
        ∀ i, i < 128 → (i < p.2.1 ∨ p.2.1 + p.2.2 ≤ i) → g.getLsbD i = (s.gget o.g).getLsbD i) ∧
  (∀ (o : OpG) (s : State), s.Issues o.c [.g o.g, .s o.a] → -(2 ^ 23) ≤ (s.sget o.a + o.imm).toInt → (s.sget o.a + o.imm).toInt < 2 ^ 23 →
    ∃ g t, exec (.gstride o) s = .next t ∧ s.Done (s.gput o.g g) o.c 0 t ∧ genRstr g = (s.sget o.a + o.imm).toInt ∧
      ∀ i, i < 128 → (i < 32 ∨ 56 ≤ i) → g.getLsbD i = (s.gget o.g).getLsbD i) ∧
  (∀ (o : OpG) (s : State), s.Issues o.c [.g o.g, .s o.a] →
    let v := (s.sget o.a ||| o.imm).toNat
    v < 2 ^ 32 → v % 16 ≤ 9 → v / 16 % 8 ≤ 5 → v / 128 % 512 = 0 → v / 65536 % 2 = 0 →
    ∃ g t, exec (.gfmt o) s = .next t ∧ s.Done (s.gput o.g g) o.c 0 t ∧ genFmt g = v % 16 ∧ genGeom g = v / 16 % 8 ∧ genSstr g = v / 65536 ∧
      ∀ i, i < 100 → g.getLsbD i = (s.gget o.g).getLsbD i) ∧
  (∀ (o : OpGG) (s : State), s.Issues o.c [.g o.g, .g o.a] →
    ∃ t, exec (.gcfgMov o) s = .next t ∧ s.Done (s.gput o.g (s.gget o.a)) o.c 0 t) ∧
  (∀ (o : OpG) (s : State) (a : Nat), s.Issues o.c [.g o.g, .s o.a] → s.scrOperand o.a o.imm 16 16 = .ok a →
    (∃ t, exec (.gcfgLd o) s = .next t ∧ s.WorksFor s o.c [.g o.g] (.loadGen o.g (s.job.scrBase * 65536 + a)) none 3 t) ∧
    (∃ t, exec (.gcfgSt o) s = .next t ∧ s.WorksFor s o.c [] (.store (s.job.scrBase * 65536 + a) (bytesOf 16 (s.gget o.g).toNat)) none 2 t)) ∧
  (∀ (d : GReg) (a : Nat) (v : View), v.foul a 16 = false →
    let g : GenWord := BitVec.ofNat 128 (natOf (v.bytes a 16))
    ((∀ i, i < 128 → (24 ≤ i ∧ i < 32) ∨ (56 ≤ i ∧ i < 64) ∨ (96 ≤ i ∧ i < 100) ∨ (107 ≤ i ∧ i < 112) → g.getLsbD i = false) →
      genFmt g ≤ 9 → genGeom g ≤ 5 → genSstr g % 2 = 0 → (DataOp.loadGen d a).made v = .ok ⟨[], [.g d g], 0⟩) ∧
    (9 < genFmt g ∨ 5 < genGeom g ∨ genSstr g % 2 = 1 → (DataOp.loadGen d a).made v = .error 31))


/-! ### Vector commands (10 R284 to R301) -/

/-- Vector commands: where the checks pass, one that writes an element is in line for its core's vector unit with its operands as they stand at issue, and
reads, computes and writes up to its completion point, which comes 5 cycles after the last of its steps at the unit; one that writes none completes at issue.
`VCOMPACT` also owes the number of its set mask bits to sD. Where the spec leaves room, the model's own choices: log 11 and 38. -/
def Obligations.VectorCommands : Prop :=
  (∀ o : OpV1, ∀ p ∈ ([(.vabs, .abs), (.vneg, .neg), (.vexp, .fn .exp), (.vlog, .fn .log), (.vrcp, .fn .rcp), (.vrsq, .fn .rsq),
      (.vtanh, .fn .tanh), (.vsigm, .fn .sigm), (.vgelu, .fn .gelu), (.vsilu, .fn .silu), (.vcvt, .cvt), (.vmov, .mov)] :
      List ((OpV1 → Instr) × ElemOp)), VecRuns (p.1 o) o.c ⟨[o.d], [o.x], .elem p.2⟩ none) ∧
  (∀ o : OpV2, ∀ p ∈ ([(.vadd, .add), (.vsub, .sub), (.vmul, .mul), (.vmin, .min), (.vmax, .max), (.vand, .and), (.vor, .or), (.vxor, .xor),
      (.vshl, .shl), (.vshr, .shr), (.vshrA, .sra)] : List ((OpV2 → Instr) × ElemOp)), VecRuns (p.1 o) o.c ⟨[o.d], [o.x, o.y], .elem p.2⟩ none) ∧
  (∀ o : OpV3, ∀ p ∈ ([(.vfma, .fma), (.vclamp, .clamp)] : List ((OpV3 → Instr) × ElemOp)), VecRuns (p.1 o) o.c ⟨[o.d], [o.x, o.y, o.z], .elem p.2⟩ none) ∧
  (∀ o : OpVcmp, VecRuns (.vcmp o) o.c ⟨[o.d], [o.x, o.y], .elem (.cmp o.cc)⟩ none) ∧
  (∀ o : OpVsel, VecRuns (.vsel o) o.c ⟨[o.d], [.gen o.m, o.y, o.z], .elem .sel⟩ none) ∧
  (∀ o : OpVfill, VecRuns (.vfill o) o.c ⟨[o.d], [.scalar o.s 9], .elem .fill⟩ none) ∧
  (∀ o : OpVchain, VecRuns (.vchain o) o.c ⟨[o.d],
    [.gen o.x] ++ (o.y.map VArg.gen).toList ++ (o.z.map VArg.gen).toList ++ [.scalar o.k o.kf], .chain o.ops o.y.isSome o.z.isSome⟩ none) ∧
  (∀ o : OpVred, ∀ p ∈ ([(.vrsum, .sum), (.vrmax, .max), (.vrmin, .min), (.vargmax, .argmax), (.vscan, .scan), (.vlse, .lse)] :
      List ((OpVred → Instr) × RedOp)), VecRuns (p.1 o) o.c ⟨[o.d], [.gen o.a], .red p.2 o.row⟩ none) ∧
  (∀ o : OpVtopk, VecRuns (.vtopk o) o.c ⟨[o.d, o.ix], [.gen o.a], .red (.topk (o.k.toNat + 1)) o.row⟩ none) ∧
  (∀ o : OpVzip, VecRuns (.vzip o) o.c ⟨[o.d], ([o.a, o.b] ++ o.e.toList ++ o.f.toList).map VArg.gen, .move .zip⟩ none) ∧
  (∀ o : OpVunzip, VecRuns (.vunzip o) o.c ⟨[o.d, o.b] ++ o.e.toList ++ o.f.toList, [.gen o.a], .move .unzip⟩ none) ∧
  (∀ o : OpVG2, VecRuns (.vtrans o) o.c ⟨[o.d], [.gen o.a], .move .trans⟩ none ∧ VecRuns (.vbcast o) o.c ⟨[o.d], [.gen o.a], .move .bcast⟩ none) ∧
  (∀ o : OpVG3, VecRuns (.vperm o) o.c ⟨[o.d], [.gen o.a, .gen o.b], .move .perm⟩ none ∧
    VecRuns (.vexpand o) o.c ⟨[o.d], [.gen o.a, .gen o.b], .move .expand⟩ none) ∧
  (∀ o : OpVcompact, VecRuns (.vcompact o) o.c ⟨[o.d], [.gen o.a, .gen o.m], .move .compact⟩ (some o.n)) ∧
  (∀ (s : State) (core : Nat) (q : VecReq) (k : Nat), (s.coreOf core).vec.pick = some q → q.flight = some k → q.steps ≤ 1 →
    ⟨s.now + 5, .finish k⟩ ∈ (s.vecCycle core).agenda ∧ ((s.vecCycle core).coreOf core).vec.reqs = (s.coreOf core).vec.reqs.erase q ∧
    ((s.vecCycle core).coreOf core).vec.last = q.cc)

/-- What a vector command computes. Element n of an element-wise destination that is no mask takes the exact result of the sources' elements n, rounded
once; a bitwise or moving command works on raw bits; element j of a `VZIP` of k sources is element j / k of source j mod k, and of a `VTRANS`,
`VBCAST` or `VCOMPACT` the source element that the move names. Where the spec leaves room, the model's own choices: log 38. -/
def Obligations.VectorResults : Prop :=
  (∀ (e : VecEnv) (op : ElemOp) (d : GenWord) (xs : List VIn) (r : VecOut), e.run (.elem op) [d] xs = .ok r → genCount d ≠ 0 → genFmt d ≠ 9 →
    r.writes.map (fun w => (w.1, w.2.1)) = (List.range (genCount d)).map (fun n => (genAt d n, bytesOf (genBytes d) (e.elem op d xs n).1))) ∧
  (∀ p ∈ ([(.add, Machine.Num.add), (.sub, fun x y => Machine.Num.add x y.neg), (.mul, Machine.Num.mul), (.min, fun x y => (Machine.Num.min x y, 0)),
      (.max, fun x y => (Machine.Num.max x y, 0))] : List (ElemOp × (Machine.Num → Machine.Num → Machine.Num × Flags))),
    ∀ (e : VecEnv) (d : GenWord) (x y : VIn) (n : Nat),
      let m := e.mode (genAt d n)
      let q := p.2 (e.val m x n) (e.val m y n)
      e.elem p.1 d [x, y] n = ((convertNum m q.1 (genFmt d)).1, q.2 ||| (convertNum m q.1 (genFmt d)).2)) ∧
  (∀ p ∈ ([(.and, fun x y => x &&& y), (.or, fun x y => x ||| y), (.xor, fun x y => x ^^^ y)] : List (ElemOp × (Nat → Nat → Nat))),
    ∀ (e : VecEnv) (d : GenWord) (x y : VIn) (n : Nat),
      e.elem p.1 d [x, y] n = (p.2 (e.raw (genBits d) x n) (e.raw (genBits d) y n), 0)) ∧
  (∀ (e : VecEnv) (d : GenWord) (gs : List GenWord) (r : VecOut), e.run (.move .zip) [d] (gs.map .gen) = .ok r → genCount d ≠ 0 → genFmt d ≠ 9 →
    r.writes.map (fun w => (w.1, w.2.1)) = (List.range (genCount d)).map (fun j => (genAt d j, bytesOf (genBytes d) (e.bits (gs.getD (j % gs.length) 0) (j / gs.length))))) ∧
  (∀ (e : VecEnv) (d g : GenWord) (r : VecOut), e.run (.move .bcast) [d] [.gen g] = .ok r → genCount d ≠ 0 → genFmt d ≠ 9 →
    r.writes.map (fun w => (w.1, w.2.1)) = (List.range (genCount d)).map (fun j => (genAt d j, bytesOf (genBytes d) (e.bits g (j % genCount g))))) ∧
  (∀ (e : VecEnv) (d g m : GenWord) (r : VecOut), e.run (.move .compact) [d] [.gen g, .gen m] = .ok r → genCount d ≠ 0 →
    r.count = some ((List.range (genCount m)).countP (fun n => e.bits m n = 1))) ∧
  (∀ (l : List Int), l ≠ [] → ((RedOp.sum.results 8 (l.map Machine.Num.ofInt)).map (fun p => (convertNum 0 p.1 8).1)) = [(convertNum 0 (Machine.Num.ofInt l.sum) 8).1])

/-! ### The matrix array (11 R302 to R321) -/

/-- Tiles and the accumulator store: rows move between scratchpad and tile up to the completion point, in the latency of 17 R405, and zeros are written in the
same way. A `TLD` whose source is poisoned at issue stops. What a row moved holds, and that tile elements of format T6 keep bits [7:6] zero.
Where the spec leaves room, the model's own choices: log 11. -/
def Obligations.TileCommands : Prop :=
  (∀ (o : OpTld) (s : State) (w : Word) (xs : List Nat), s.Issues o.c [.s o.a, .s o.st] →
    let n := o.n.toNat + 1
    let len := tcfgCols w * fmtBytes (tcfgFmt w)
    let rows := xs.zipIdx.map (fun p => (s.job.scrBase * 65536 + p.1, (s.job.tileBase + o.t.val) * 32768 + (o.row.toNat + p.2) * len))
    o.t.val < s.job.tileCount → s.job.tcfgOf o.t = w → o.row.toNat + n ≤ tcfgRows w →
    s.strideRows o.a (if s.sget o.st = 0 then len else (s.sget o.st).toNat) len (fmtBytes (tcfgFmt w)) (List.range n) = .ok xs →
    (s.weightsHeld o.t = false → (∀ x ∈ xs, s.scrBad s.job x len = false) →
      ∃ t, exec (.tld o) s = .next t ∧
        s.WorksFor (s.voidWeights o.t) o.c [] (.tileLoad (tcfgFmt w) len rows) none (3 + (n * len + 255) / 256) t) ∧
    (s.weightsHeld o.t = false → (∃ x ∈ xs, s.scrBad s.job x len = true) → s.job.spec = none →
      exec (.tld o) s = .next (s.raise s.cur { code := 11 } s.st.cmdStart 0x162)) ∧
    (∃ t, exec (.tst o) s = .next t ∧ s.WorksFor s o.c [] (.tileStore len rows) none (3 + (n * len + 255) / 256) t)) ∧
  (∀ (o : OpTzero) (s : State) (w : Word), s.Issues o.c [] → s.weightsHeld o.t = false →
    let n := o.n.toNat + 1
    let len := tcfgCols w * fmtBytes (tcfgFmt w)
    o.t.val < s.job.tileCount → s.job.tcfgOf o.t = w → o.row.toNat + n ≤ tcfgRows w →
    ∃ t, exec (.tzero o) s = .next t ∧
      s.WorksFor (s.voidWeights o.t) o.c [] (.tileZero ((s.job.tileBase + o.t.val) * 32768 + o.row.toNat * len) (n * len)) none
        (3 + (n * len + 255) / 256) t) ∧
  (∀ (o : OpAcsz) (s : State), s.Issues o.c [] → s.job.acsHeld = true → o.row.toNat + (o.n.toNat + 1) ≤ 64 * s.job.acs.length →
    ∃ t, exec (.acszero o) s = .next t ∧
      s.WorksFor s o.c [] (.acsZero ((List.range (o.n.toNat + 1)).map (fun i => acsPhys s.job.acs (o.row.toNat + i) * 192))) none
        (1 + (o.n.toNat + 1 + 3) / 4) t) ∧
  (∀ (v : View) (fmt len : Nat) (rows : List (Nat × Nat)), (∀ r ∈ rows, v.foul r.1 len = false) →
    (DataOp.tileLoad fmt len rows).made v =
      .ok ⟨rows.map (fun r => .bytes .tiles r.2 ((v.bytes r.1 len).map (fun b => if fmt = 4 then b &&& 0x3F else b)) false), [], 0⟩)


/-- Leases and array commands: under a lease with room in the queue of 4 a command that passes its checks enters the array queue and is in flight;
`BSMM` with no record completes at once. Where the spec leaves room, the model's own choices: log 39 and 40. -/
def Obligations.ArrayCommands : Prop :=
  (∀ (o : OpLease) (s : State), s.Issues o.c [] → s.job.acsHeld = true → s.job.acs.length = o.blocks.toNat →
    ∃ t, exec (.lease o) s = .next t ∧ (t.jobOf s.cur.job).lease = true ∧ (t.jobOf s.cur.job).acs = s.job.acs ∧
      (t.strOf s.cur).aside = s.st.aside) ∧
  (∀ (o : Op0) (s : State), s.Issues o.c [] → s.arrayPending s.cur.job = false →
    (∃ t, exec (.unlease o) s = .next t ∧ (t.jobOf s.cur.job).lease = false ∧ (t.jobOf s.cur.job).weights = none ∧
      (t.jobOf s.cur.job).acs = s.job.acs) ∧
    (∃ t, exec (.unleaseAcs o) s = .next t ∧ (t.jobOf s.cur.job).lease = false ∧ (t.jobOf s.cur.job).acs = [] ∧
      (t.jobOf s.cur.job).acsHeld = false)) ∧
  (∀ (o : OpT) (s : State) (w : Word), s.Issues o.c [] → s.job.lease = true → s.job.arrayQ.length < 4 → o.t.val < s.job.tileCount →
    s.job.tcfgOf o.t = w → tcfgFmt w ≤ 6 → tcfgCols w ≤ 192 →
    ∃ t q, exec (.mloadw o) s = .next t ∧ (t.jobOf s.cur.job).arrayQ = s.job.arrayQ ++ [q] ∧ q.flight = s.nextId ∧ q.kind = .load ∧
      q.parts = [⟨⟨o.t, w⟩, 0, 0, 0⟩] ∧ (t.jobOf s.cur.job).weights = some ⟨o.t, w⟩ ∧ (t.flights.find? s.nextId).isSome = true) ∧
  (∀ (o : OpMrows) (s : State) (w : Weights) (n first : Nat), s.Issues o.c [.s o.a] → s.job.lease = true → s.job.arrayQ.length < 4 →
    o.t.val < s.job.tileCount → s.job.weights = some w → n = o.n.toNat + 1 → first = (s.sget o.a).toNat →
    (macPath (tcfgFmt w.cfg) (tcfgFmt (s.job.tcfgOf o.t))).isSome = true → tcfgCols (s.job.tcfgOf o.t) = tcfgRows w.cfg →
    first + n ≤ tcfgRows (s.job.tcfgOf o.t) → s.job.acsHeld = true → o.row.toNat + n ≤ 64 * s.job.acs.length →
    ∃ t q, exec (.mrows o) s = .next t ∧ (t.jobOf s.cur.job).arrayQ = s.job.arrayQ ++ [q] ∧ q.flight = s.nextId ∧ q.kind = .rows ∧
      q.set = o.set ∧ q.parts = [⟨w, first, n, o.row.toNat⟩] ∧ (t.jobOf s.cur.job).weights = some w) ∧
  (∀ (o : OpMma) (s : State) (w : Word) (n : Nat), s.Issues o.c [] → s.job.lease = true → s.job.arrayQ.length < 4 →
    o.w.val < s.job.tileCount → o.t.val < s.job.tileCount → s.job.tcfgOf o.w = w → tcfgFmt w ≤ 6 → tcfgCols w ≤ 192 → n = o.n.toNat + 1 →
    (macPath (tcfgFmt w) (tcfgFmt (s.job.tcfgOf o.t))).isSome = true → tcfgCols (s.job.tcfgOf o.t) = tcfgRows w →
    n ≤ tcfgRows (s.job.tcfgOf o.t) → s.job.acsHeld = true → o.row.toNat + n ≤ 64 * s.job.acs.length →
    ∃ t q, exec (.mma o) s = .next t ∧ (t.jobOf s.cur.job).arrayQ = s.job.arrayQ ++ [q] ∧ q.flight = s.nextId ∧ q.kind = .both ∧
      q.set = o.set ∧ q.parts = [⟨⟨o.w, w⟩, 0, n, o.row.toNat⟩] ∧ (t.jobOf s.cur.job).weights = some ⟨o.w, w⟩) ∧
  (∀ (o : OpBsmm) (s : State), s.Issues o.c [.s o.a, .s o.m] → s.sget o.m = 0 → ∃ t, exec (.bsmm o) s = .next t ∧ s.Done s o.c 0 t) ∧
  (∀ (o : OpBsmm) (s : State) (a : Nat) (ps : List ArrPart) (p : ArrPart), s.Issues o.c [.s o.a, .s o.m] → s.job.lease = true →
    s.job.arrayQ.length < 4 → o.t.val < s.job.tileCount → (s.sget o.m).toNat ≤ 65535 → s.scrOperand o.a 0 (16 * (s.sget o.m).toNat) 16 = .ok a →
    s.sparseParts o a (List.range (s.sget o.m).toNat) = .ok (ps ++ [p]) →
    ∃ t q, exec (.bsmm o) s = .next t ∧ (t.jobOf s.cur.job).arrayQ = s.job.arrayQ ++ [q] ∧ q.kind = .sparse ∧ q.parts = ps ++ [p] ∧
      (t.jobOf s.cur.job).weights = some p.weights)

/-- The array's own events: blocks granted to the first request, a free array given to a requester, a row or a weight load that takes effect, the last of
which is its command's completion point, a term that ends, and the budget filled each 1,024 cycles; an INT8 element gains the exact sum of its products, with `IOF` where it leaves 32 bits.
Where the spec leaves room, the model's own choices: log 39 and 40. -/
def Obligations.ArrayEvents : Prop :=
  (∀ (s : State) (core k n : Nat), s.args.a = core → s.acsHead core = some (.job k, n) → (s.jobs.find? k).isSome = true →
    n ≤ (s.coreOf core).freeBlocks.length →
    ∃ t, exec .acsAllotmentGrant s = .next t ∧ (t.jobOf k).acs = (s.coreOf core).freeBlocks.take n ∧ (t.jobOf k).acsHeld = true) ∧
  (∀ (s : State) (core : Nat) (w : ArrReq), s.args.a = core → (s.coreOf core).array.holder = none →
    s.arrayWinner core (s.arrayReqs core) = some w →
    ∃ t, exec .arrayArbitration s = .next t ∧ (t.coreOf core).array.holder = some w.who ∧ (t.coreOf core).array.since = s.now ∧
      (t.coreOf core).array.term = []) ∧
  (∀ (s : State) (core k f tile src dest : Nat) (cfg : Word) (set last : Bool) (m : Fmode) (r : ArrRow) (j : Job) (fl : Flight) (l : ArrLoad) (p : MacPath),
    s.args.a = core → (s.coreOf core).array.rows = [r] → r.due ≤ s.now → r.item = .row k f tile cfg src dest set last m → s.jobs.find? k = some j →
    s.flights.find? f = some fl → (s.coreOf core).array.loads.find? r.load = some l → macPath (tcfgFmt l.w.cfg) (tcfgFmt cfg) = some p →
    let len := rowBytes cfg
    let q := macRow p l.w.cfg l.bytes (tcfgFmt cfg) m m ((s.coreOf core).acsOld (acsPhys j.acs dest) (tcfgCols l.w.cfg) set)
      (s.tileRead j tile (src * len) len)
    ∃ t, exec .arrayRowUpdate s = .next t ∧ (t.coreOf core).array.rows = [] ∧
      (t.coreOf core).acs = ((s.coreOf core).acsUpdate (acsPhys j.acs dest) q.1
        (if s.tileBad j tile (src * len) len then List.range (tcfgCols l.w.cfg) else l.bad) set).acs ∧
      (last = false → t.flights.find? f = some { fl with flags := fl.flags ||| q.2 }) ∧
      (last = true → (s.jobs.find? fl.ref.job).isSome = true → s.Completes f fl (fl.flags ||| q.2) t)) ∧
  (∀ (s : State) (core k f n : Nat) (r : ArrRow) (j : Job) (fl : Flight) (l : ArrLoad),
    s.args.a = core → (s.coreOf core).array.rows = [r] → r.due ≤ s.now → r.item = .load (some f) → l.who = some k → s.jobs.find? k = some j →
    s.flights.find? f = some fl → (s.coreOf core).array.loads.find? r.load = some l → n = tcfgRows l.w.cfg → (s.jobs.find? fl.ref.job).isSome = true →
    ∃ t, exec .arrayRowUpdate s = .next t ∧ s.Completes f fl fl.flags t ∧
      ((t.coreOf core).array.loads.find? r.load).map (·.bytes) = some (s.tileRows j l.w.tile l.w.cfg 0 n).flatten) ∧
  (∀ (s : State) (core cc : Nat), s.args.a = core → (s.coreOf core).array.holder = some (.cc cc) → (s.coreOf core).array.loading ≤ s.now →
    s.onCc core cc = none →
    ∃ t, exec .leaseTermEnd s = .next t ∧ (t.coreOf core).array.holder = none ∧ (t.coreOf core).array.last = some (.cc cc)) ∧
  (∀ (s : State), ∃ t, exec .budgetRefill s = .next t ∧ (∀ k x, s.cores.find? k = some x → (t.coreOf k).left = x.refill) ∧
    ⟨s.now + (1024 - s.now % 1024), .event .budgetRefill {}⟩ ∈ t.agenda ∧ t.mem = s.mem ∧ t.jobs = s.jobs) ∧
  (∀ (acc : Nat) (a w : List Nat),
    let sum := toSigned 32 acc + ((List.zip a w).map (fun p => toSigned 8 p.1 * toSigned 8 p.2)).sum
    macElem .int 0 0 0 0 acc a w = ((sum % 2 ^ 32).toNat, if sum < -(2 ^ 31) ∨ 2 ^ 31 ≤ sum then Flags.iof else 0))

/-! ### Copies, gathers and scaled blocks (09 R250 to R257, R277) -/

/-- Copies into scratchpad: a length of 0, an empty list of rows and a count of 0 move nothing and complete at issue; else, with a copy engine granted, the
command is in flight with exactly the pieces of its range, by line or by granule, each an access to its home but where the core's own buffer has its bytes; it
completes with its last landing (`PieceLandings`). Where no engine is granted it waits for one. Where the spec leaves room, the model's own choices: log 17, 37
and 89 to 91. -/
def Obligations.CopiesIn : Prop :=
  (∀ (o : OpCopy) (s : State), s.Issues o.c [.s o.s, .h o.h, .s o.o, .s o.n] (ga := true) → s.job.spec = none →
    (s.sget o.n = 0 → ∃ t, exec (.copyG2s o) s = .next t ∧ s.Done s o.c 0 t) ∧
    (∀ n d pa aw, (s.sget o.n).toNat = n → 0 < n → n ≤ 16777216 → s.scrOperand o.s 0 n 1 = .ok d →
      s.globOperand o.h (s.sget o.o).toNat n false = .ok pa → s.copyAw o.aw d n = .ok aw →
      (s.engineGrant.isSome = true → ∃ t ps, exec (.copyG2s o) s = .next t ∧ s.Launched o.c [] (fun w => w = .land aw ps) t ∧
        s.ReadsIn t (s.hget o.h).pkind (readParts d pa n) ps) ∧
      (s.engineGrant = none → exec (.copyG2s o) s = .next s.engineAsked.begin.count))) ∧
  (∀ (o : OpCopyS) (s : State), s.Issues o.c [.s o.d, .s o.s, .s o.n] →
    (s.sget o.n = 0 → ∃ t, exec (.copyS2s o) s = .next t ∧ s.Done s o.c 0 t) ∧
    (∀ n d a aw, (s.sget o.n).toNat = n → 0 < n → n ≤ 16777216 → s.scrOperand o.d 0 n 1 = .ok d → s.scrOperand o.s 0 n 1 = .ok a →
      (d + n ≤ a ∨ a + n ≤ d) → s.copyAw o.aw d n = .ok aw → s.engineGrant.isSome = true →
      ∃ t, exec (.copyS2s o) s = .next t ∧ s.Launched o.c [] (fun w => w = .land aw (granuleParts d a n)) t ∧
        (∀ i p, (granuleParts d a n).find? i = some p → ∃ k, 1 ≤ k ∧ k ≤ 2 + (n + 127) / 128 ∧
          ⟨s.now + k, .event .copyPieceLanding { a := s.nextId, b := i }⟩ ∈ t.agenda))) ∧
  (∀ (o : OpCopy2) (s : State), s.Issues o.c [.s o.s, .h o.h, .s o.o, .s o.n, .h o.h2] (ga := true) → s.job.spec = none →
    (s.sget o.n = 0 → ∃ t, exec (.copy2G2s o) s = .next t ∧ s.Done s o.c 0 t) ∧
    (∀ n d p1 l p2 aw, (s.sget o.n).toNat = n → 0 < n → n ≤ 16777216 → s.scrOperand o.s 0 n 1 = .ok d →
      s.twoPages o.h o.h2 (s.sget o.o).toNat n false = .ok (p1, l, p2) → s.copyAw o.aw d n = .ok aw → s.engineGrant.isSome = true →
      ∃ t ps, exec (.copy2G2s o) s = .next t ∧ s.Launched o.c [] (fun w => w = .land aw ps) t ∧
        s.ReadsIn t ((s.hget o.h).pkind.stronger (s.hget o.h2).pkind) (readParts d p1 l ++ readParts (d + l) p2 (n - l)) ps)) ∧
  (∀ (o : OpGather) (s : State) (d : Nat) (rows : List (Nat × Nat)), s.Issues o.c [.s o.s, .h o.h, .s o.o, .s o.ix] (ga := true) →
    s.job.spec = none → s.gatherOperands o false = .ok (d, rows) → s.engineGrant.isSome = true →
    let rb := o.rb.toNat + 1
    (rows = [] → ∃ t, exec (.gather o) s = .next t ∧ s.Done s.engineTaken o.c 0 t) ∧
    (rows ≠ [] → ∃ t ps, exec (.gather o) s = .next t ∧ s.Launched o.c [] (fun w => w = .land none ps) t ∧
      s.ReadsIn t (s.hget o.h).pkind
        ((rows.map (fun r => readParts (d + r.1 * rb) ((s.hget o.h).pbase.toNat + r.2) rb)).flatten) ps)) ∧
  (∀ (o : OpCopyx) (s : State) (x : Scaled), s.Issues o.c [.s o.s, .h o.h, .s o.o, .g o.g, .h o.hs, .s o.so] (ga := true) →
    s.job.spec = none →
    let w := s.gget o.g
    (genCount w = 0 → ∃ t, exec (.copyx o) s = .next t ∧ s.Done s o.c 0 t) ∧
    (genCount w ≠ 0 → genFmt w ≤ 4 → s.scaledOperands o.s o.h o.o w o.hs o.so (if o.fmt = 0 then 2 else 1) true false = .ok x →
      s.engineGrant.isSome = true →
      ∃ t ps, exec (.copyx o) s = .next t ∧
        s.Launched o.c [] (fun k => k = .convert (.copyx x.a o.fmt x.n (genRow w) (genFmt w) (genGeom w) s.job.fmode.toNat) ps x.n (2 * x.blocks)) t ∧
        s.ReadsIn t ((s.hget o.h).pkind.stronger (s.hget o.hs).pkind)
          (readParts 0 x.pa x.n ++ (x.scales.zipIdx.map (fun p => readParts (x.n + 2 * p.2) p.1 2)).flatten) ps)) ∧
  (∀ (o : OpMtopk) (s : State) (pa a : Nat), s.Issues o.c [.s o.s, .h o.h, .s o.o, .s o.d] (ga := true) → s.job.spec = none →
    let d := (s.sget o.d).toNat
    let k := d / 2 ^ 32 % 64 + 1
    let n := d / 65536 % 65536 * (d % 65536) * fmtBytes (d / 2 ^ 40 % 16)
    d < 2 ^ 44 → d % 65536 ≠ 0 → d / 65536 % 65536 ≠ 0 → d / 2 ^ 38 % 4 ≠ 3 → 5 ≤ d / 2 ^ 40 % 16 → d / 2 ^ 40 % 16 ≤ 7 →
    s.globOperand o.h (s.sget o.o).toNat n false = .ok pa → (s.hget o.h).hovr = true →
    s.scrOperand o.s 0 ((d / 65536 % 65536 - 1) * topStride k + 8 + 8 * k) 1 = .ok a →
    ∃ t ps, exec (.mtopk o) s = .next t ∧
      s.Launched o.c [] (fun w => w = .convert (.mtopk a (d / 2 ^ 40 % 16) (d / 2 ^ 38 % 4) k (d / 65536 % 65536) (d % 65536) s.job.fmode.toNat) ps n 0) t ∧
      s.ReadsIn t (s.hget o.h).pkind (readParts 0 pa n) ps)

/-- Copies out of scratchpad, and accumulator copies, with a copy engine granted. A length of 0, an empty list of rows and a count of 0 complete at issue. To a
page of kind `UN` the combine buffer takes the lines up to the completion point, with the bytes that they then hold; to another, each line is an access at the
port, which reads its bytes as it leaves. Accumulator copies move their rows up to their completion point. Where the spec leaves room, the model's own
choices: log 11, 17 and 89 to 91. -/
def Obligations.CopiesOut : Prop :=
  (∀ (o : OpCopyOut) (s : State), s.Issues o.c [.s o.s, .h o.h, .s o.o, .s o.n] (gw := true) → s.job.spec = none →
    (s.sget o.n = 0 → ∃ t, exec (.copyS2g o) s = .next t ∧ s.Done s o.c 0 t) ∧
    (∀ n a pa e, (s.sget o.n).toNat = n → 0 < n → n ≤ 16777216 → s.scrOperand o.s 0 n 1 = .ok a →
      s.globOperand o.h (s.sget o.o).toNat n true = .ok pa → s.engineGrant = some e →
      let ls := linesOf pa n
      if (s.hget o.h).pkind = .un then
        ∃ t, exec (.copyS2g o) s = .next t ∧ s.WorksFor s.engineTaken o.c []
          (.out (ls.map (fun l => ((s.hget o.h).home l.1, l.1, l.2, s.job.scrAddr (a + (l.1 - pa)))))) (some e) (ls.length + 7) t
      else
        ∃ t, exec (.copyS2g o) s = .next t ∧ s.Launched o.c [] (fun w => w = .writes ls.length) t ∧
          ∀ l ∈ ls, ∃ v, t.Asks s.nextId 0 (.write v) (s.hget o.h).pkind l.1 l.2 (some (s.job.scrAddr (a + (l.1 - pa)))))) ∧
  (∀ (o : OpCopy2Out) (s : State), s.Issues o.c [.s o.s, .h o.h, .s o.o, .s o.n, .h o.h2] (gw := true) → s.job.spec = none →
    (s.sget o.n = 0 → ∃ t, exec (.copy2S2g o) s = .next t ∧ s.Done s o.c 0 t) ∧
    (∀ n a p1 l p2 e, (s.sget o.n).toNat = n → 0 < n → n ≤ 16777216 → s.scrOperand o.s 0 n 1 = .ok a →
      s.twoPages o.h o.h2 (s.sget o.o).toNat n true = .ok (p1, l, p2) → s.engineGrant = some e →
      let kind := (s.hget o.h).pkind.stronger (s.hget o.h2).pkind
      let ls := s.outParts a p1 l ++ s.outParts (a + l) p2 (n - l)
      if kind = .un then
        ∃ t, exec (.copy2S2g o) s = .next t ∧ s.WorksFor s.engineTaken o.c []
          (.out (ls.map (fun x => (twoHome (s.hget o.h) (s.hget o.h2) p1 l x.pa, x.pa, x.n, x.src.getD 0)))) (some e) (ls.length + 7) t
      else
        ∃ t, exec (.copy2S2g o) s = .next t ∧ s.Launched o.c [] (fun w => w = .writes ls.length) t ∧
          ∀ x ∈ ls, t.Asks s.nextId 0 (.write x.v) kind x.pa x.n x.src)) ∧
  (∀ (o : OpGather) (s : State) (d e : Nat) (rows : List (Nat × Nat)), s.Issues o.c [.s o.s, .h o.h, .s o.o, .s o.ix] (gw := true) (ga := true) →
    s.job.spec = none → s.gatherOperands o true = .ok (d, rows) → s.engineGrant = some e →
    let rb := o.rb.toNat + 1
    let ls := (rows.map (fun r => s.outParts (d + r.1 * rb) ((s.hget o.h).pbase.toNat + r.2) rb)).flatten
    (rows = [] → ∃ t, exec (.scatter o) s = .next t ∧ s.Done s.engineTaken o.c 0 t) ∧
    (rows ≠ [] → (s.hget o.h).pkind = .un → ∃ t, exec (.scatter o) s = .next t ∧ s.WorksFor s.engineTaken o.c []
      (.out (ls.map (fun x => ((s.hget o.h).home x.pa, x.pa, x.n, x.src.getD 0)))) (some e) (ls.length + 7) t) ∧
    (rows ≠ [] → (s.hget o.h).pkind ≠ .un → ∃ t, exec (.scatter o) s = .next t ∧ s.Launched o.c [] (fun w => w = .writes ls.length) t ∧
      ∀ x ∈ ls, t.Asks s.nextId 0 (.write x.v) (s.hget o.h).pkind x.pa x.n x.src)) ∧
  (∀ (s : State) (a pa n : Nat), s.outParts a pa n = (linesOf pa n).map (fun l =>
    ⟨l.1, l.2, some (s.job.scrAddr (a + (l.1 - pa))), s.scrRead s.job (a + (l.1 - pa)) l.2, s.scrBad s.job (a + (l.1 - pa)) l.2⟩)) ∧
  (∀ (o : OpCopyc) (s : State) (x : Scaled) (e : Nat), s.Issues o.c [.s o.s, .h o.h, .s o.o, .g o.g, .h o.hs, .s o.so] (gw := true) →
    s.job.spec = none →
    let w := s.gget o.g
    (genCount w = 0 → ∃ t, exec (.copyc o) s = .next t ∧ s.Done s o.c 0 t) ∧
    (genCount w ≠ 0 → 5 ≤ genFmt w → genFmt w ≤ 7 → s.scaledOperands o.s o.h o.o w o.hs o.so (fmtBytes (genFmt w)) true true = .ok x →
      s.engineGrant = some e →
      ∃ t, exec (.copyc o) s = .next t ∧ s.WorksFor s.engineTaken o.c []
        (.compress ⟨o.fmt, genFmt w, x.n, genRow w, genGeom w, s.job.scrAddr x.a, x.pa, x.scales, (s.hget o.h).override, (s.hget o.hs).override,
          ((s.hget o.h).pkind.stronger (s.hget o.hs).pkind).num, s.job.fmode⟩) (some e) ((linesOf x.pa x.n).length + x.scales.length + 7) t)) ∧
  (∀ (o : OpAcsOut) (s : State), s.Issues o.c [.s o.a, .s o.row, .s o.n] →
    (s.sget o.n = 0 → ∃ t, exec (.acscpOut o) s = .next t ∧ s.Done s o.c 0 t) ∧
    (∀ rows n a e, (s.sget o.n).toNat = rows → 0 < rows → n = o.ncol.toNat + 1 →
      s.acscpOperands o.a (s.sget o.row).toNat rows n (fmtBytes o.fmt) = .ok a → s.engineGrant = some e →
      ∃ t, exec (.acscpOut o) s = .next t ∧ s.WorksFor s.engineTaken o.c []
        (.acsOut s.job.fmode o.fmt n ((List.range rows).map (fun i => acsPhys s.job.acs ((s.sget o.row).toNat + i) * 192 + o.col.toNat))
          (s.job.scrAddr a)) (some e) (2 + (rows * n * 4 + 127) / 128) t)) ∧
  (∀ (o : OpAcsIn) (s : State), s.Issues o.c [.s o.a, .s o.row, .s o.n] →
    (s.sget o.n = 0 → ∃ t, exec (.acscpIn o) s = .next t ∧ s.Done s o.c 0 t) ∧
    (∀ rows n a e, (s.sget o.n).toNat = rows → 0 < rows → n = o.ncol.toNat + 1 →
      s.acscpOperands o.a (s.sget o.row).toNat rows n 4 = .ok a → s.engineGrant = some e →
      ∃ t, exec (.acscpIn o) s = .next t ∧ s.WorksFor s.engineTaken o.c []
        (.acsIn n ((List.range rows).map (fun i => acsPhys s.job.acs ((s.sget o.row).toNat + i) * 192 + o.col.toNat)) (s.job.scrAddr a)) (some e)
        (2 + (rows * n * 4 + 127) / 128) t))

/-- The landing of a copy's piece: its bytes, those at hand or those that its source then holds, are in scratchpad, its arrival word counts them, and the last
landing is the copy's completion point. A converted read lands whole once every piece is at hand, and completes with the flags of its elements. A `COPYC` to
a page of another kind sends its lines, and with the last acknowledgement a command's writes are its completion point.
Where the spec leaves room, the model's own choices: log 37. -/
def Obligations.PieceLandings : Prop :=
  (∀ (s : State) (k i : Nat) (f : Flight) (aw : Option Nat) (ps : Map Piece) (p : Piece), s.args.a = k → s.args.b = i →
    s.flights.find? k = some f → f.work = .land aw ps → ps.find? i = some p → (s.jobs.find? f.ref.job).isSome = true →
    let j := s.jobOf f.ref.job
    let b := match p.bytes with
      | some b => b
      | none => (s.scrRead j p.src p.len, s.scrBad j p.src p.len)
    let s1 := s.scrWrite j p.dst b.1 b.2
    ∃ t, exec .copyPieceLanding s = .next t ∧ t.mem = s.mem ∧
      t.cores = (match aw with
        | none => s1
        | some a => s1.landOn f.ref.job a p.len false).cores ∧
      (ps.erase i = [] → s.Completes k f f.flags t) ∧
      (ps.erase i ≠ [] → t.flights.find? k = some { f with work := .land aw (ps.erase i) })) ∧
  (∀ (s : State) (k : Nat) (f : Flight) (c : Convert) (ps : Map Piece) (els scales : Nat), s.args.a = k →
    s.flights.find? k = some f → f.work = .convert c ps els scales → (∀ p ∈ ps, p.2.bytes.isSome = true) → (s.jobs.find? f.ref.job).isSome = true →
    let r := s.convertLand (s.jobOf f.ref.job) c ps els scales
    ∃ t, exec .copyPieceLanding s = .next t ∧ t.mem = s.mem ∧ t.cores = r.1.cores ∧ s.Completes k f (f.flags ||| r.2) t) ∧
  (∀ (s : State) (k : Nat) (f : Flight) (d : DataWork) (c : Compress) (m : Made), s.flights.find? k = some f → f.work = .data d → d.op = .compress c →
    d.need = some [] → d.outs = none → d.op.made d.seen = .ok m → (s.jobOf f.ref.job).spec = none →
    (c.kind = 0 → (s.dataStep k).flights.find? k =
      some { f with flags := m.flags, work := .data { d with outs := some (m.puts.map (fun p => [p])) } }) ∧
    (c.kind ≠ 0 → ∃ n, (s.dataStep k).flights.find? k = some { f with flags := m.flags, work := .writes n } ∧ n = m.puts.length ∧
      ∀ die pa v bad, .accept die pa v bad ∈ m.puts → (s.dataStep k).Asks k 0 (.write v) (pageKindOf c.kind) pa v.length none)) ∧
  (∀ (s : State) (k : Nat) (a : Access) (f : Flight) (n : Nat), s.accesses.find? k = some a → s.flights.find? a.flight = some f → f.work = .writes n →
    (s.jobs.find? f.ref.job).isSome = true →
    (n ≤ 1 → s.Completes a.flight f f.flags (s.ackWrite k a)) ∧
    (1 < n → (s.ackWrite k a).flights.find? a.flight = some { f with work := .writes (n - 1) }))

/-! ### Arrival words and fences (02 R77 to R79, 03 R95, 09 R258 to R260) -/

/-- The commands of arrival words, each with one update or read of its word up to its completion point, what a landing does to a word, and fences, which
complete at issue where their conditions hold, are else in flight, and complete once they hold. `AWWAIT` waits for an update that meets it.
Where the spec leaves room, the model's own choices: log 11 and 20. -/
def Obligations.ArrivalWordsAndFences : Prop :=
  (∀ (o : OpAw) (s : State) (a : Nat), s.Issues o.c [.s o.a, .s o.v] → s.scrOperand o.a (o.off.signExtend 64) 16 16 = .ok a →
    let v := (s.sget o.v).toNat
    ∃ t, exec (.awinit o) s = .next t ∧ s.WorksFor s o.c [] (.awInit a (s.job.scrAddr a)
      (bytesOf 4 (v % 2 ^ 32) ++ bytesOf 4 0 ++ bytesOf 4 (v / 2 ^ 32) ++ bytesOf 2 0 ++ bytesOf 2 0)) none 2 t) ∧
  (∀ (o : OpAw) (s : State) (a : Nat), s.Issues o.c [.s o.a, .s o.v] → s.scrOperand o.a (o.off.signExtend 64) 16 16 = .ok a →
    let gen : BitVec 32 := BitVec.ofNat 32 (natOf (((s.scrRead s.job a 16).drop 8).take 4))
    let v : BitVec 32 := (s.sget o.v).setWidth 32
    (0 < (gen - v).toInt ∨ s.st.awaits = some (a, v, true) → ∃ t, exec (.awwait o) s = .next t ∧ s.Done s o.c 0 t) ∧
    ((gen - v).toInt ≤ 0 → s.st.awaits ≠ some (a, v, true) →
      exec (.awwait o) s = .next (s.modSt (fun t => { t with awaits := some (a, v, false) })).begin)) ∧
  (∀ (o : OpAwrd) (s : State) (a : Nat), s.Issues o.c [.s o.d, .s (o.d + 1), .s o.a] → s.scrOperand o.a (o.off.signExtend 64) 16 16 = .ok a →
    (∃ t, exec (.awrd o) s = .next t ∧ s.WorksFor s o.c [.s o.d, .s (o.d + 1)] (.awRead o.d a (s.job.scrAddr a) false) none 3 t) ∧
    (∃ t, exec (.awrdClr o) s = .next t ∧ s.WorksFor s o.c [.s o.d, .s (o.d + 1)] (.awRead o.d a (s.job.scrAddr a) true) none 3 t)) ∧
  (∀ (s t : State) (k : Nat) (f : Flight) (d : DataWork) (o : List Owed), s.flights.find? k = some f → f.work = .data d → d.op.single = true →
    d.need = some [] → d.outs = none → s.awUpdate f.ref.job d.op = .ok (t, o) →
    (s.dataStep k).flights.find? k = some { f with work := .data { d with outs := some [], owed := o } } ∧ (s.dataStep k).cores = t.cores) ∧
  (∀ (s : State) (n w a : Nat) (v : List Byte), (s.jobs.find? n).isSome = true →
    ∃ t, s.awUpdate n (.awInit w a v) = .ok (t, []) ∧
      t.cores = (s.modCore (s.jobOf n).coreKey (fun x => { x with scratch := Store.write 64 x.scratch a v false })).cores ∧
      (t.jobOf n).awErr = (s.jobOf n).awErr.filter (fun x => x ≠ w)) ∧
  (∀ (s : State) (n w a : Nat) (d : SReg) (clr : Bool),
    let st := (s.coreOf (s.jobOf n).coreKey).scratch
    let v := natOf (Store.read 64 st a 16)
    Store.foul 64 st a 16 = false →
    ∃ t, s.awUpdate n (.awRead d w a clr) = .ok (t, [.s d (BitVec.ofNat 64 v), .s (d + 1) (BitVec.ofNat 64 (v / 2 ^ 64))]) ∧
      (clr = false → t.cores = s.cores) ∧
      (clr = true →
        t.cores = (s.modCore (s.jobOf n).coreKey (fun x => { x with scratch := Store.write 64 x.scratch (a + 12) [0, 0, 0, 0] false })).cores)) ∧
  (∀ (o : OpFence) (s : State), s.Issues o.c [] →
    (s.released s.cur o.scope s.nextId s.now = true → ∃ t, exec (.fenceRel o) s = .next t ∧ s.Done (s.fenceStart s.cur false o.scope) o.c 0 t) ∧
    (s.released s.cur o.scope s.nextId s.now = false →
      ∃ t f, exec (.fenceRel o) s = .next t ∧ t.flights.find? (s.fenceStart s.cur false o.scope).nextId = some f ∧ f.ref = s.cur ∧ f.sig = o.c.sig ∧
        f.work = .fence false o.scope s.now) ∧
    (s.acquired s.cur o.scope s.nextId = true → ∃ t, exec (.fenceAcq o) s = .next t ∧ s.Done (s.fenceStart s.cur true o.scope) o.c 0 t) ∧
    (s.acquired s.cur o.scope s.nextId = false →
      ∃ t f, exec (.fenceAcq o) s = .next t ∧ t.flights.find? (s.fenceStart s.cur true o.scope).nextId = some f ∧ f.ref = s.cur ∧ f.sig = o.c.sig ∧
        f.work = .fence true o.scope s.now)) ∧
  (∀ (s : State) (k n : Nat) (f : Flight) (acq : Bool) (x : Scope), s.flights.find? k = some f → f.work = .fence acq x n →
    (if acq then s.acquired f.ref x k else s.released f.ref x k n) = true → (∀ e ∈ s.flights, e.1 = k ∨ ∀ b y m, e.2.work ≠ .fence b y m) →
    (s.jobs.find? f.ref.job).isSome = true → s.Completes k f f.flags s.checkFences) ∧
  (∀ (w : AWord) (err faulted : Bool) (n : Nat),
    (w.target = 0 → (w.land err n faulted).1.gen = w.gen ∧ (w.land err n faulted).1.count = min (w.count + n) 0xFFFFFFFF) ∧
    (w.target ≠ 0 → w.count + n < w.target → (w.land err n faulted).1.gen = w.gen ∧ (w.land err n faulted).1.count = w.count + n ∧
      (w.land err n faulted).2 = (err || faulted)) ∧
    (w.target ≠ 0 → w.target ≤ w.count + n → (w.land err n faulted).1.gen = (w.gen + 1) % 2 ^ 32 ∧
      (w.land err n faulted).1.count = w.count + n - w.target ∧ (w.land err n faulted).2 = false) ∧
    (w.land err n faulted).1.errs = if faulted then min (w.errs + 1) 65535 else w.errs)

/-! ### Scatter-accumulate and collectives (09 R261 to R269) -/

/-- `SACC` is in line for its core's scatter unit with its updates, which it makes in order up to its completion point; `SACCG` sends an update to the home of
each element, and its last reply is the completion point; `COLL` joins its group with the reads of its source at their port, and `COLLST` reads a status.
Where the spec leaves room, the model's own choices: log 29, 30 and 36. -/
def Obligations.ScatterAndCollectiveCommands : Prop :=
  (∀ (o : OpSacc) (s : State) (x y b : Nat), s.Issues o.c [.s o.d, .s o.ix, .s o.v] →
    let n := o.cnt.toNat + 1
    let rl := o.rl.toNat + 1
    let w := if o.fmt = 1 then 2 else 4
    let rows := saccRows (s.indexList x n)
    s.saccOperands o.ix o.v n rl w = .ok (x, y) → s.saccDest o.d (rl * w) w rows = .ok b →
    let us := (saccPairs (s.sget o.d).toNat y rl w rows).map (fun u => (s.job.scrAddr u.1, s.job.scrAddr u.2))
    let m := 4 + (n * rl + 15) / 16
    ∃ t, exec (.sacc o) s = .next t ∧
      s.Works (s.modCore s.job.coreKey (fun x => { x with scatter := x.scatter ++ [(s.nextId, m)] })) o.c [] (.sacc o.fmt s.job.fmode us) none t ∧
      (s.core.scatter = [] → ⟨s.now + m, .finish s.nextId⟩ ∈ t.agenda)) ∧
  (∀ (o : OpSaccg) (s : State) (x y b : Nat), s.Issues o.c [.h o.h, .s o.o, .s o.ix, .s o.v] (gw := true) (ga := true) (irrev := true) →
    let n := o.cnt.toNat + 1
    let rl := o.rl.toNat + 1
    let w := if o.fmt = 1 then 2 else 4
    let rows := saccRows (s.indexList x n)
    let base := (s.hget o.h).pbase.toNat + (s.sget o.o).toNat
    (s.hget o.h).valid = true → s.saccOperands o.ix o.v n rl w = .ok (x, y) →
    (s.hget o.h).checkRows o.h (rows.map (fun r => (s.sget o.o).toNat + r.2 * rl * w)) (rl * w) true = .ok b → base % w = 0 →
    (rows = [] → ∃ t, exec (.saccg o) s = .next t ∧ s.Done s o.c 0 t) ∧
    (rows ≠ [] → s.engineGrant.isSome = true → ∃ t, exec (.saccg o) s = .next t ∧ s.Launched o.c [] (fun k => k = .writes (rows.length * rl)) t ∧
      ∀ u ∈ saccPairs base y rl w rows, t.Asks s.nextId 0 (.add o.fmt s.job.fmode 0) (s.hget o.h).pkind u.1 w (some (s.job.scrAddr u.2)))) ∧
  (∀ (s : State) (k : Nat) (a : Access) (f : Flight), s.args.b = k → s.accesses.find? k = some a → s.flights.find? a.flight = some f → f.work = .writes 1 →
    (s.jobs.find? f.ref.job).isSome = true → ∃ t, exec .saccgUpdate s = .next t ∧ s.Completes a.flight f f.flags t) ∧
  (∀ (o : OpColl) (s : State) (a dst : Nat) (src : Option (Nat × Nat)), s.Issues o.c [.s o.a] (gw := true) (ga := true) (irrev := true) →
    s.scrOperand o.a (o.off.signExtend 64) 64 64 = .ok a → s.scrBad s.job a 56 = false →
    let d := CollDesc.ofBytes (s.scrRead s.job a 64)
    let key := s.job.ctx * 4096 + d.group
    let r := src.getD (0, 0)
    let hs := s.handleNo d.srch
    d.ok (s.collOf key).size = true → d.seq = (s.collOf key).inst → (∀ p ∈ (s.collOf key).parts, p.rank ≠ d.rank) →
    (d.op = 6 → s.candOk d (s.collOf key).size s.job.vf = true) →
    s.collSource d = .ok src → s.collDest d (s.collOf key).size = .ok dst → s.collsInFlight s.cur.job < 8 →
    ∃ t p so, exec (.coll o) s = .next t ∧ s.Launched o.c [] (fun w => w = .collective key so (sourcePieces r.1 r.2)) t ∧
      (t.collOf key).parts = (s.collOf key).parts ++ [p] ∧ p.rank = d.rank ∧ p.flight = s.nextId ∧ p.op = d.op ∧ p.count = d.count ∧ p.dst = dst ∧
      p.mode = s.job.fmode ∧ p.status = a + 56 ∧
      ∀ i l, (linesOf r.1 r.2)[i]? = some l → t.Asks s.nextId i .read hs.pkind l.1 l.2 none) ∧
  (∀ (o : OpCollst) (s : State) (a : Nat), s.Issues o.c [.s o.d, .s o.a] → s.scrOperand o.a (o.off.signExtend 64) 64 64 = .ok a →
    s.scrBad s.job (a + 56) 8 = false →
    let v := s.scrNat s.job (a + 56) 8
    ∃ t, exec (.collst o) s = .next t ∧
      s.Done ((if v % 256 = 0 then s else s.dropCopies s.job.coreKey s.job.ctx).sput o.d (BitVec.ofNat 64 v)) o.c 0 t)

/-- Once every member has contributed, each participant's result is on its way to its destination, computed under its own `FMODE`; once no write of the results
is open, STATUS stands in each descriptor, every participant's `COLL` completes, and the instance gives way to the next one. Past its earliest deadline a
reduction ends short with nothing written. A sum of INT32 elements is exact modulo 2^32. Where the spec leaves room, the model's own choices: log 29 to 31, 92
and 93. -/
def Obligations.CollectiveEvents : Prop :=
  (∀ (s : State) (key : Nat), s.args.a = key →
    let c := s.collOf key
    c.parts ≠ [] → c.ending = none → c.agree = true → (∀ p ∈ c.parts, p.op ≠ 6 ∧ p.loaded = true ∧ s.rankLost key c p.rank = false) →
    (∀ r, r < c.size → ∃ p ∈ c.parts, p.rank = r) →
    ∃ t, exec .collectiveComplete s = .next t ∧
      ∀ p ∈ c.parts, ∀ x ∈ c.pieces p true (if p.op < 4 then (c.reduced p).1 else []),
        ∀ l ∈ splitBytes (linesOf (p.dst + x.1) x.2.1.length) x.2.1, t.Asks p.flight 0 (.write l.2) p.kind l.1 l.2.length none) ∧
  (∀ (s : State) (key st : Nat) (p : Part) (f : Flight), s.args.a = key →
    let c := s.collOf key
    let j := s.jobOf p.job
    c.ending = some st → s.collOpen c = false → p ∈ c.parts → s.flights.find? p.flight = some f → f.ref.job = p.job →
    (s.jobs.find? p.job).isSome = true → Memory.wf (s.coreOf j.coreKey).scratch.cells = true →
    (∀ q ∈ c.parts, q = p ∨ (q.flight ≠ p.flight ∧ (s.jobOf q.job).coreKey ≠ j.coreKey)) →
    (∀ q ∈ c.parts, (s.coreOf (s.jobOf q.job).coreKey).combine = [] ∧ ∀ g, s.flights.find? q.flight = some g → g.ref.job = q.job) → (∀ e ∈ s.flights, ∀ b x n, e.2.work ≠ .fence b x n) →
    ∃ t, exec .collectiveComplete s = .next t ∧ (t.collOf key).parts = [] ∧ (t.collOf key).ending = none ∧
      (t.collOf key).inst = c.inst + 1 ∧ s.Completes p.flight f (f.flags ||| p.flags) t ∧ t.scrRead j p.status 8 = bytesOf 8 st) ∧
  (∀ (s : State) (key : Nat) (p : Part) (r : List Part) (n : Nat), s.args.a = key →
    let c := s.collOf key
    c.parts = p :: r → c.ending = none → (s.collGiven key).missing ≠ [] → c.deadline = some n → n < timeNs s.ptpt → c.agree = true → p.op < 4 →
    s.collOpen c = false → (∀ q ∈ c.parts, (s.coreOf (s.jobOf q.job).coreKey).combine = []) →
    ∃ t, exec .collectiveDeadline s = .next t ∧ (t.collOf key).parts = [] ∧ (t.collOf key).inst = c.inst + 1 ∧ t.mem = s.mem) ∧
  (∀ (m : Fmode) (xs : List Nat), xs ≠ [] → (∀ x ∈ xs, x < 2 ^ 32) →
    (collReduce 3 m xs).1 % 2 ^ 32 = ((xs.map (toSigned 32)).sum % 2 ^ 32).toNat)

/-! ### Fabric messages and wakes (07 R214 to R216, 09 R270 to R276) -/

/-- The commands of the fabric. `FMSEND` takes the next number of its destination's window and is in flight; `FMRECV` binds a port, pops its oldest message and
its oldest fault; a `WAKE` whose conditions hold is in flight until its register's reply. The fabric's events. The expected number at a bound port of a job
on a core is accepted and counted; an acknowledgement takes its message and every earlier one off the window, and their commands complete; a negative one
stops sending for min(base·2^(k−1), cap); and a wake store moves the sequence of a valid queue forward within its ring.
Where the spec leaves room, the model's own choices: log 32 to 35. -/
def Obligations.Fabric : Prop :=
  (∀ (o : OpFmsend) (s : State) (n a : Nat) (d : Word), s.Issues o.c [.s o.p, .s o.b, .s o.n, .s o.slot] (irrev := true) → (s.sget o.n).toNat = n →
    0 < n → n ≤ 4096 → s.sget o.p &&& ~~~0xF8#64 = d → s.scrOperand o.b 0 n 1 = .ok a → s.destBad s.job d = false → (s.job.sender d).window.length < 32 →
    (s.job.senders.filter (fun y => !y.window.isEmpty)).length < 64 →
    ∃ t, exec (.fmsend o) s = .next t ∧ s.Launched o.c [] (fun w => w = .message d (s.job.sender d).next) t ∧
      ((t.jobOf s.cur.job).sender d).window =
        (s.job.sender d).window ++ [⟨(s.job.sender d).next, a, n, (s.sget o.slot).toNat % 256, s.nextId⟩] ∧
      ((t.jobOf s.cur.job).sender d).next = (s.job.sender d).next + 1 ∧
      ((s.job.sender d).backoff = none → d.toNat / 2 ^ 44 % 4096 = s.pkg → ∃ i, t.fmsgs.find? i =
        some ⟨jobKey s.cur.job, d, (s.job.sender d).next, (s.sget o.slot).toNat % 256, s.scrRead s.job a n, s.scrBad s.job a n⟩)) ∧
  (∀ (o : OpFmBind) (s : State) (a b : Nat), s.Issues o.c [.s o.a, .s o.d] (irrev := true) →
    let p : Port := { Port.unbound with desc := s.sget o.d &&& 0x000FFFFF001FFFFF }
    p.slots ≤ 64 → p.slots = 0 ∨ (16 ≤ p.slotBytes ∧ p.slotBytes ≤ 4096) → s.scrOperand o.a 0 (p.slots * p.slotBytes) 16 = .ok a →
    s.awCheck p = .ok b → s.job.ports[o.f].held = [] →
    ∃ t, exec (.fmrecvBind o) s = .next t ∧
      s.Done (s.modJob s.cur.job (fun j => j.setPort o.f { p with ring := a, expect := s.job.ports[o.f].expect })) o.c 0 t) ∧
  (∀ (o : OpFmPop) (s : State) (m : PortMsg) (r : List PortMsg), s.Issues o.c [.s o.d] →
    let p := s.job.ports[o.f]
    p.slots ≠ 0 → p.buffer = false → p.held = m :: r →
    ∃ t, exec (.fmrecvPop o) s = .next t ∧
      s.Done ((s.modJob s.cur.job (fun j => j.setPort o.f { p with held := r, popped := some m.slot })).sput o.d
        (BitVec.ofNat 64 (m.len * 2 ^ 32 + (p.ring + m.slot * p.slotBytes)))) o.c 0 t) ∧
  (∀ (o : OpFmPop) (s : State), s.Issues o.c [.s o.d] →
    let p := s.job.ports[o.f]
    ∃ t, exec (.fmrecvFlt o) s = .next t ∧
      s.Done ((s.modJob s.cur.job (fun j => j.setPort o.f { p with faults := p.faults.tail })).sput o.d
        (match p.faults with
          | [] => 0
          | w :: _ => w)) o.c 0 t) ∧
  (∀ (o : OpWake) (s : State) (q : Nat), s.Issues o.c [.s o.a, .s o.v] (irrev := true) → (s.sget o.a).toNat = s.job.pkg * 2 ^ 44 + q → q < 4096 →
    s.job.pkg < 4096 → s.released s.cur .package s.nextId s.now = true →
    ∃ t, exec (.wake o) s = .next t ∧ s.Launched o.c [] (fun w => w = .wake q ((s.sget o.v).setWidth 32) true) t ∧
      ((s.queueOf q).die = s.job.die → ⟨s.now + 12, .event .wakeRegisterStore
        { a := q, b := s.job.part + 1, c := s.nextId + 1, word := (s.sget o.v).setWidth 32 |>.setWidth 64 }⟩ ∈ t.agenda)) ∧
  (∀ (s : State) (sender k : Nat) (dest : Word) (num : BitVec 16) (slot : Nat) (data : List Byte) (bad : Bool), s.portJob dest = some k →
    let p := (s.jobOf k).port (faPort dest)
    p.slots ≠ 0 → (s.jobOf k).status = .running →
    (p.expect.getD sender 0 = num → p.buffer = true → (s.receive sender dest num slot data bad).2 = .ack) ∧
    (p.expect.getD sender 0 = num → p.buffer = false → p.freeSlot = none → s.receive sender dest num slot data bad = (s, .nack)) ∧
    (p.expect.getD sender 0 ≠ num → (p.expect.getD sender 0 - num).toNat ≤ 32 → s.receive sender dest num slot data bad = (s, .ack))) ∧
  (∀ (s : State) (k : Nat) (m : Fmsg), s.args.src = .inside → s.args.a = k → s.fmsgs.find? k = some m → m.sender % 4 = 0 →
    (∀ e ∈ s.fmsgs, e.1 = k ∨ e.2.sender ≠ m.sender) →
    ∃ t, exec .fabricMessageArrival s = .next t ∧ t.fmsgs.find? k = none ∧
      ∀ i, (t.jobOf i) = ((s.receive m.sender m.dest m.num m.slot m.data m.poison).1.jobOf i)) ∧
  (∀ (s : State) (k : Nat) (d : Word) (num : BitVec 16) (pre post : List SentMsg) (m : SentMsg), s.args.a = k → s.args.word = d → s.args.b = num.toNat →
    s.ackBehind s.args = false → ((s.jobOf k).sender d).window = pre ++ m :: post → m.num = num → (∀ x ∈ pre ++ post, x.num ≠ num) →
    ((s.jobOf k).sender d).dest = d → (s.jobs.find? k).isSome = true →
    ∃ t, exec .fabricAckReceived s = .next t ∧ ((t.jobOf k).sender d).window = post ∧ ((t.jobOf k).sender d).nacks = 0 ∧
      t.flights.find? m.flight = none ∧
      (∀ f, pre = [] → s.flights.find? m.flight = some f → (s.jobs.find? f.ref.job).isSome = true →
        (∀ e ∈ s.flights, ∀ b x n, e.2.work ≠ .fence b x n) → s.Completes m.flight f f.flags t)) ∧
  (∀ (s : State) (k : Nat) (d : Word) (num : BitVec 16), s.args.a = k → s.args.word = d → s.args.b = num.toNat → s.ackBehind s.args = false →
    (∀ m ∈ ((s.jobOf k).sender d).window, m.num ≠ num) → ((s.jobOf k).sender d).dest = d → (s.jobs.find? k).isSome = true →
    ∃ t, exec .fabricAckReceived s = .next t ∧ ((t.jobOf k).sender d) = { (s.jobOf k).sender d with nacks := 0 } ∧ t.flights = s.flights) ∧
  (∀ (s : State) (k : Nat) (d : Word) (num : BitVec 16), s.args.a = k → s.args.word = d → s.args.b = num.toNat → s.args.flag = false →
    s.ackBehind s.args = false → (∃ m ∈ ((s.jobOf k).sender d).window, m.num = num) → ((s.jobOf k).sender d).dest = d → ((s.jobOf k).sender d).backoff = none →
    (s.jobs.find? k).isSome = true →
    let w := (s.jobOf k).fmbackoff.toNat
    let n := ((s.jobOf k).sender d).nacks + 1
    ∃ t, exec .fabricNackReceived s = .next t ∧ ((t.jobOf k).sender d).nacks = n ∧
      ((t.jobOf k).sender d).backoff = some (s.now + min (w % 65536 * 2 ^ (n - 1)) (max (w % 65536) (w / 65536 % 65536)))) ∧
  (∀ (s : State) (k : Nat) (d : Word) (b : Nat) (n : BitVec 16), s.args.a = k → s.args.word = d → ((s.jobOf k).sender d).backoff = some b →
    ((s.jobOf k).sender d).resend = some n → b ≤ s.now → ((s.jobOf k).sender d).dest = d → (s.jobs.find? k).isSome = true →
    ∃ t, exec .fmBackoffExpiry s = .next t ∧ ((t.jobOf k).sender d).backoff = none ∧ ((t.jobOf k).sender d).resend = none ∧
      (d.toNat / 2 ^ 44 % 4096 = s.pkg → ∀ m ∈ ((s.jobOf k).sender d).window, (m.num - n).toNat < 2 ^ 15 →
        ∃ i, t.fmsgs.find? i = some ⟨jobKey k, d, m.num, m.slot, s.scrRead (s.jobOf k) m.src m.len, s.scrBad (s.jobOf k) m.src m.len⟩)) ∧
  (∀ (s : State) (vf width q : Nat), s.args.src = .host vf width → s.args.a = q → width = 8 → (s.queueOf q).valid = true → (s.queueOf q).vf = vf →
    (s.queueOf q).direct = false →
    let v : BitVec 32 := s.args.word.setWidth 32
    0 < (v - (s.queueOf q).wseq).toInt → (v - (s.queueOf q).rseq).toNat ≤ (s.queueOf q).size →
    ∃ t, exec .wakeRegisterStore s = .next t ∧ (t.queueOf q).wseq = v ∧ (t.queueOf q).pending = true ∧ (t.queueOf q).rseq = (s.queueOf q).rseq) ∧
  (∀ (s : State) (q part k : Nat) (f : Flight), s.args.src = .inside → s.args.flag = false → s.args.a = q → s.args.b = part + 1 → s.args.c = k + 1 →
    s.flights.find? k = some f → (s.jobs.find? f.ref.job).isSome = true →
    ((s.queueOf q).rings part = true → ∃ t, exec .wakeRegisterStore s = .next t ∧ s.Completes k f f.flags t ∧
      t.queueOf q = (s.queueOf q).wake (s.args.word.setWidth 32)) ∧
    ((s.queueOf q).rings part = false → (s.jobOf f.ref.job).spec = none →
      ∃ t, exec .wakeRegisterStore s = .next t ∧ t.flights.find? k = none ∧ t.queueOf q = s.queueOf q ∧ (t.strOf f.ref).paused = true))



/-! ### The events of streams and of walks (06 R174, R181, R526, 07 R197, 09 R246) -/

/-- How a stream comes to its commands. An `EXT` keeps its value for the command after it. A fetched line stands in the code buffer. A good header makes the
section the stream's own; a section retires once no command issued in it is in flight. A trap's entry saves the resume address and the cause and goes to
the handler; without one it is the context error `TRAP_UNHANDLED`. An unassigned opcode is the context error `ILLEGAL_OP` with reason 1. A background walk
ends with its result kept in its slot for 65,536 cycles and cached where it is valid, and a poisoned table line that it read is `NO_MAPPING` and recorded;
the end of that time frees the slot. Where the spec leaves room, the model's own choices: log 14, 16, 23, 86 and 99. -/
def Obligations.StreamEvents : Prop :=
  (∀ (v : Word) (s : State), (s.jobs.find? s.cur.job).isSome = true →
    ∃ t, exec (.ext v) s = .next t ∧ t.st.ext = some v ∧ t.st.pc = s.st.pc + 12 ∧ t.st.aside = s.st.aside ∧ t.mem = s.mem) ∧
  (∀ (s : State) (r : Ref) (l : Nat) (b : List Byte), s.args.ref = r → s.args.a = l → (s.jobs.find? r.job).isSome = true →
    s.codeLine (s.jobOf r.job).ctx l = some b →
    ∃ t, exec .codeFetch s = .next t ∧ (t.jobOf r.job).code = (s.jobOf r.job).code ++ [⟨l, b⟩] ∧ s.now ≤ (t.strOf r).readyAt ∧ t.mem = s.mem) ∧
  (∀ (s : State) (r : Ref) (e : Entering) (w : Nat), s.args.ref = r → (s.jobs.find? r.job).isSome = true → (s.strOf r).entering = some e →
    s.codeAt (s.jobOf r.job) e.base.toNat 8 = some w → hdrBad (BitVec.ofNat 64 w) e.fall = false → e.base.toNat % 16 = 0 →
    ∃ t, exec .sectionEnter s = .next t ∧ (t.strOf r).pc = e.first ∧ (t.strOf r).entering = none ∧
      (t.strOf r).sect = some ⟨e.base, BitVec.ofNat 64 w⟩ ∧ t.mem = s.mem ∧
      (t.strOf r).readyAt = (if e.start then s.now + 4 else (s.strOf r).readyAt) ∧
      (e.start = false ∨ (s.strOf r).sect = none → (t.strOf r).visit = (s.strOf r).visit + 1 ∧ (t.strOf r).entered = (s.strOf r).issued ∧
        ((t.strOf r).stopped = true ↔ (BitVec.ofNat 64 w).getLsbD 0 = true ∧ (s.jobOf r.job).preempt.isSome = true)) ∧
      (e.start = true → (s.strOf r).sect.isSome = true → (t.strOf r).visit = (s.strOf r).visit ∧ (t.strOf r).entered = (s.strOf r).entered)) ∧
  (∀ (s : State) (r : Ref) (pre : List (Nat × BitVec 12)) (v : Nat) (n : BitVec 12), s.args.ref = r → (s.jobs.find? r.job).isSome = true →
    (s.strOf r).left = pre ++ [(v, n)] → (∀ f ∈ s.flights, f.2.ref ≠ r) →
    ∃ t, exec .sectionRetire s = .next t ∧ (t.strOf r).left = [] ∧ (t.strOf r).retired = some n ∧ (t.strOf r).pc = (s.strOf r).pc) ∧
  (∀ (s : State) (r : Ref) (rest : List (Nat × BitVec 12)) (v : Nat) (n : BitVec 12) (f : Nat × Flight), s.args.ref = r →
    (s.strOf r).left = (v, n) :: rest → f ∈ s.flights → f.2.ref = r → f.2.visit = v → exec .sectionRetire s = .next s) ∧
  (∀ (s : State) (r : Ref), s.args.ref = r → (s.jobs.find? r.job).isSome = true → (s.jobOf r.job).spec = none → (s.jobOf r.job).prologue = false →
    (s.jobOf r.job).error = none →
    ∃ t e, exec .unassignedOpcode s = .next t ∧ (t.jobOf r.job).error = some e ∧ e.code = 1 ∧ e.reason = 1 ∧ e.opc = s.args.a ∧
      e.word = (s.strOf r).cmdStart ∧ e.stream = letterNum r.letter ∧ (t.strOf r).paused = true ∧ (t.strOf r).s = (s.strOf r).s ∧ t.mem = s.mem) ∧
  (∀ (s : State) (r : Ref) (p : PendingTrap) (rest : List PendingTrap), s.args.ref = r → (s.jobs.find? r.job).isSome = true →
    (s.strOf r).traps = p :: rest → (s.jobOf r.job).spec = none → (s.strOf r).tcause.getLsbD 63 = false → (s.strOf r).tvec ≠ 0 →
    (∀ f ∈ s.flights, f.2.ref ≠ r) →
    ∃ t, exec .trapEntry s = .next t ∧ (t.strOf r).tret = ((s.strOf r).cmdStart.setWidth 48).setWidth 64 ∧
      (t.strOf r).tcause = BitVec.ofNat 64 (2 ^ 63 + p.cause.code * 2 ^ 32 + p.info.toNat) ∧ (t.strOf r).pc = (s.strOf r).tvec ∧
      (t.strOf r).traps = rest ∧ (t.strOf r).readyAt = s.now + 8 ∧ (t.strOf r).s = (s.strOf r).s ∧ (t.strOf r).loops = (s.strOf r).loops ∧
      t.mem = s.mem) ∧
  (∀ (s : State) (r : Ref) (p : PendingTrap) (rest : List PendingTrap), s.args.ref = r → (s.jobs.find? r.job).isSome = true →
    (s.strOf r).traps = p :: rest → (s.jobOf r.job).spec = none → (s.jobOf r.job).prologue = false → (s.jobOf r.job).error = none →
    (s.strOf r).tcause.getLsbD 63 = true ∨ (s.strOf r).tvec = 0 →
    ∃ t e, exec .trapEntry s = .next t ∧ (t.jobOf r.job).error = some e ∧ e.code = 15 ∧ e.trap = p.cause.code ∧ (t.strOf r).traps = p :: rest) ∧
  (∀ (s : State) (c n : Nat) (w : Walk), s.args.a = c → s.args.b = n → (s.coreOf c).walks.find? n = some w → w.result = none →
    let h := (s.walk w.ctx w.vf (w.vpn * 65536)).1
    ∃ t, exec .walkComplete s = .next t ∧ (t.coreOf c).walks.find? n = some { w with result := some (h, s.now) } ∧
      (t.coreOf c).xlat = (s.coreOf c).xlat ++ (if h.valid then [(w.ctx, w.vpn, h)] else []) ∧
      ⟨s.now + 65536, .event .walkResultExpiry { a := c, b := n }⟩ ∈ t.agenda ∧ t.mem = s.mem ∧
      t.errors = s.errors ++ s.tableErrs w.ctx w.vf (w.vpn * 65536) ∧ ((s.badTable w.ctx w.vf (w.vpn * 65536)).isSome = true → h.miss = missNoMapping) ∧
      (w.spec = true → t.s1 = s.s1 ∧ t.s2 = s.s2)) ∧
  (∀ (s : State) (c n : Nat) (w : Walk) (h : Handle) (d : Nat), s.args.a = c → s.args.b = n → (s.coreOf c).walks.find? n = some w →
    w.result = some (h, d) → d + 65536 ≤ s.now →
    ∃ t, exec .walkResultExpiry s = .next t ∧ (t.coreOf c).walks.find? n = none ∧ (t.coreOf c).xlat = (s.coreOf c).xlat)


/-! ### Launches (11 R327 to R331, 19 R435 to R445, 15 R398) -/

/-- `LAUNCH` and `LAUNCHP`: with operands that pass the checks of 11 R328 and every earlier write of the job performed, the command is in flight, it owes its
result register, and its request is on its way to the pool of its queue's die. A die's pool grants one entry in a cycle. The oldest request of a die is
answered: with a launch of the next sequence number where the queue permits it and the pool has room, else with `LAUNCH_PERM` or `FULL`; the answer writes
the result register, and `FULL` begins the parking of a `LAUNCHP`'s job. The scanner reads the next record of the selected queue into a pool entry.
Where the spec leaves room, the model's own choices: log 45 and 46. -/
def Obligations.LaunchPool : Prop :=
  (∀ (o : OpLaunch) (s : State) (a n : Nat), s.Issues o.c [.s o.d, .s o.r, .s o.q] (irrev := true) → (s.sget o.q).toNat = s.job.pkg * 2 ^ 44 + n →
    n < 4096 → s.scrOperand o.r 0 128 64 = .ok a → s.released s.cur .package s.nextId s.now = true →
    let r := if o.desc = 0 then s.scrRead s.job a 128 else bytesOf 8 o.desc.toNat ++ (s.scrRead s.job a 128).drop 8
    recPart r = s.job.part →
    ∃ t d, exec (.launch o) s = .next t ∧ s.Launched o.c [.s o.d] (fun w => w = .pool ⟨n, r, a, false⟩ o.d (some o.p) none) t ∧ s.now < d ∧
      (t.dieOf (s.poolDie s.job n)).requests = (s.dieOf (s.poolDie s.job n)).requests ++ [(d, s.nextId)]) ∧
  (∀ (o : OpLaunchp) (s : State) (a n : Nat), s.Issues o.c [.s o.d, .s o.r, .s o.q] (irrev := true) → (s.sget o.q).toNat = s.job.pkg * 2 ^ 44 + n →
    n < 4096 → s.scrOperand o.r 0 128 64 = .ok a → s.released s.cur .package s.nextId s.now = true →
    recPart (s.scrRead s.job a 128) = s.job.part →
    ∃ t d, exec (.launchp o) s = .next t ∧ s.Launched o.c [.s o.d] (fun w => w = .pool ⟨n, s.scrRead s.job a 128, a, true⟩ o.d none none) t ∧
      s.now < d ∧ (t.dieOf (s.poolDie s.job n)).requests = (s.dieOf (s.poolDie s.job n)).requests ++ [(d, s.nextId)]) ∧
  (∀ (s : State) (d k : Nat) (q : PoolReq) (x : SReg) (p : Option PReg) (f : Flight) (u : Nat) (rest : List (Nat × Nat)), s.args.a = d → s.args.b = 0 →
    s.arrivedRequests d = (u, k) :: rest → s.flights.find? k = some f → f.work = .pool q x p none →
    let e := s.queueOf q.queue
    let part := (s.jobOf f.ref.job).part
    (e.launches part = true → s.poolRoom d part = true →
      ∃ t, exec .poolRequestHandled s = .next t ∧ (t.queueOf q.queue).wseq = e.wseq + 1 ∧
        t.launches.find? s.nextId = some (s.newLaunch q.queue e.wseq q.record .pending) ∧
        t.flights.find? k = some { f with work := .pool q x p (some (.accepted (launchId q.queue e.wseq))) }) ∧
    (e.launches part = false → ∃ t, exec .poolRequestHandled s = .next t ∧ t.launches = s.launches ∧
      t.flights.find? k = some { f with work := .pool q x p (some .perm) }) ∧
    (e.launches part = true → s.poolRoom d part = false → ∃ t, exec .poolRequestHandled s = .next t ∧ t.launches = s.launches ∧
      t.flights.find? k = some { f with work := .pool q x p (some .full) })) ∧
  (∀ (s : State) (k : Nat) (q : PoolReq) (x : SReg) (p : Option PReg) (f : Flight), s.args.b = k + 1 → s.flights.find? k = some f →
    (s.jobs.find? f.ref.job).isSome = true →
    (∀ w, f.work = .pool q x p (some (.accepted w)) → ∃ t, exec .poolRequestHandled s = .next t ∧ s.Completes k f f.flags t ∧
      (t.strOf f.ref).sget x = (if x = 0 then 0 else w) ∧ ∀ n, p = some n → (f.ref.letter, n, some false) ∈ (t.jobOf f.ref.job).late.preds) ∧
    (f.work = .pool q x p (some .full) → q.park = false → ∃ t, exec .poolRequestHandled s = .next t ∧ s.Completes k f f.flags t ∧
      (t.strOf f.ref).sget x = (if x = 0 then 0 else BitVec.ofNat 64 (2 ^ 63)) ∧
      ∀ n, p = some n → (f.ref.letter, n, some true) ∈ (t.jobOf f.ref.job).late.preds) ∧
    (f.work = .pool q x p (some .full) → q.park = true → ∃ t, exec .poolRequestHandled s = .next t ∧ t.flights.find? k = some f ∧
      (t.jobOf f.ref.job).parking = true)) ∧
  (∀ (s : State) (d : Nat), s.args.a = d → (s.dieOf d).lost = false → (s.dieOf d).poolNext ≤ s.now → s.poolUsed d < 1024 →
    (∀ k, s.reserveFor d = some k → (s.jobs.find? k).isSome = true → ∃ t, exec .poolGrant s = .next t ∧ (t.dieOf d).reserved = (s.dieOf d).reserved ++ [k] ∧
      (t.jobOf k).ready = true ∧ (t.dieOf d).poolNext = s.now + 1) ∧
    (s.reserveFor d = none → (s.scan d).isSome = true → s.arrivedRequests d = [] ∨ (s.dieOf d).turn = true →
      ∃ t, exec .poolGrant s = .next t ∧ ⟨s.now, .event .ringRead { a := d }⟩ ∈ t.agenda ∧ (t.dieOf d).turn = false ∧ (t.dieOf d).poolNext = s.now + 1) ∧
    (s.reserveFor d = none → s.arrivedRequests d ≠ [] → s.scan d = none ∨ (s.dieOf d).turn = false →
      ∃ t, exec .poolGrant s = .next t ∧ ⟨s.now, .event .poolRequestHandled { a := d }⟩ ∈ t.agenda ∧ (t.dieOf d).turn = true ∧
        (t.dieOf d).poolNext = s.now + 1)) ∧
  (∀ (s : State) (d q : Nat), s.args.a = d → s.scan d = some q →
    let e := s.queueOf q
    ∃ t, exec .ringRead s = .next t ∧ (t.queueOf q).rseq = e.rseq + 1 ∧ ((t.queueOf q).pending = true ↔ e.rseq + 1 ≠ e.wseq) ∧
      t.launches.find? s.nextId = some (s.newLaunch q e.rseq (s.homeRead (e.base + 128 * (e.rseq.toNat % e.size)) 128) .reading) ∧
      (t.dieOf d).start = (q + 1) % 4096 ∧ t.mem = s.mem) ∧
  (∀ (s : State) (k : Nat) (l : Launch), s.args.a = k → s.launches.find? k = some l → l.state = .reading →
    ∃ t, exec .recordLanded s = .next t ∧ t.launches.find? k = some { l with state := .pending })


/-- A launch that may start reads its record; one whose record breaks a rule ends with status 2 and the rule's number, one with a prologue waits for its
die's scalar unit, where prologues run one at a time; an exit of 1 before any run ends the launch with status 3; and a repeating launch runs its prologue
again. The completion word is written in the cycle after a launch's end, and the wake target, which ends it, comes after. Where the spec leaves room, the model's own choices: log 27 and 48. -/
def Obligations.LaunchEvents : Prop :=
  (∀ (s : State) (k : Nat) (l : Launch), s.args.a = k → s.launches.find? k = some l → l.state = .pending → s.startable l.queue = some k →
    (s.ctxs.find? l.ctx).isSome = true →
    ∃ t, exec .launchStart s = .next t ∧ t.launches.find? k = some { l with state := .starting } ∧
      (t.ctxOf l.ctx).state = (if (s.ctxOf l.ctx).state = .empty then .active else (s.ctxOf l.ctx).state)) ∧
  (∀ (s : State) (k e : Nat) (l : Launch), s.args.a = k → s.launches.find? k = some l → l.state = .starting → s.recordCheck l = .error e →
    ∃ t l', exec .launchStart s = .next t ∧ t.launches.find? k = some l' ∧ l'.state = .finishing ∧ l'.status = some (2, e) ∧ l'.held = false ∧
      ⟨s.now + 1, .word k⟩ ∈ t.agenda) ∧
  (∀ (s u : State) (k st d : Nat) (l : Launch), s.launches.find? k = some l → l.status = some (st, d) → recCompl l.record ≠ 0 →
    s.vaWrite l.ctx (recCompl l.record) (bytesOf 8 (l.seq.toNat * 2 ^ 32 + d % 256 * 2 ^ 16 + st)) = some u →
    (s.complWord k).mem = u.mem ∧ ∃ n, s.now < n ∧ ⟨n, .event .wakeTargetStore { a := k }⟩ ∈ (s.complWord k).agenda) ∧
  (∀ (s : State) (k : Nat) (l : Launch) (d : KDesc) (b : List Byte), s.args.a = k → s.launches.find? k = some l → l.state = .starting →
    s.recordCheck l = .ok (d, b) → recProlog l.record ≠ 0 →
    ∃ t l', exec .launchStart s = .next t ∧ t.launches.find? k = some l' ∧ l'.state = .prologue ∧ l'.desc = some d ∧ l'.args = b ∧
      (t.dieOf l.die).prologueQ = (s.dieOf l.die).prologueQ ++ [k]) ∧
  (∀ (s : State) (k : Nat) (l : Launch) (rest : List Nat), s.args.a = k → s.launches.find? k = some l → l.state = .prologue →
    (s.dieOf l.die).prologue = none → (s.dieOf l.die).lost = false → (s.dieOf l.die).prologueQ = k :: rest →
    ∃ t, exec .prologueRun s = .next t ∧ (t.dieOf l.die).prologue = some k ∧ (t.dieOf l.die).prologueQ = rest ∧
      t.jobOf s.nextId = s.prologueJob k l ∧ ⟨s.now + 1, .stream ⟨s.nextId, .x⟩⟩ ∈ t.agenda) ∧
  (∀ (s : State) (k n : Nat) (l : Launch) (j : Job), s.args.a = k → s.launches.find? k = some l → (s.dieOf l.die).prologue = some k →
    List.find? (fun e : Nat × Job => e.2.prologue && e.2.launch = k) s.jobs = some (n, j) → j.error = none → j.x.ended = true →
    (j.x.sget 8).toNat = 1 → l.repeats = 0 → l.state ≠ .finishing →
    ∃ t l', exec .prologueRun s = .next t ∧ t.launches.find? k = some l' ∧ l'.state = .finishing ∧ l'.status = some (3, 0) ∧
      (t.dieOf l.die).prologue = none) ∧
  (∀ (s : State) (k : Nat) (l : Launch), s.args.a = k → s.launches.find? k = some l → l.again = true → l.held = false → l.jobs ≤ l.completed →
    s.poolRoom l.die l.part = true →
    ∃ t, exec .prologueRepeat s = .next t ∧
      t.launches.find? k = some { l with state := .prologue, held := true, freed := none, again := false, repeats := l.repeats + 1 } ∧
      (t.dieOf l.die).prologueQ = (s.dieOf l.die).prologueQ ++ [k]) ∧
  (∀ (s : State) (k : Nat) (l : Launch), s.args.a = k → s.launches.find? k = some l → l.state = .finishing →
    let w := recWaket l.record
    ∃ t, exec .wakeTargetStore s = .next t ∧ t.launches.find? k = none ∧ t.mem = s.mem ∧
      (w / 2 ^ 62 % 4 = 2 → t.outbox = s.outbox ++ [.msix (if l.vf = 0xFF then none else some l.vf) (w % 64)]) ∧
      (w / 2 ^ 62 % 4 = 1 → w / 2 ^ 44 % 4096 = s.pkg → ∃ d, s.now < d ∧
        ⟨d, .event .wakeRegisterStore { a := w / 2 ^ 32 % 4096, b := l.part + 1, word := BitVec.ofNat 64 (w % 2 ^ 32) }⟩ ∈ t.agenda))

/-! ### Jobs on their cores (01 R26 to R40, R44, R45, 20 R468 to R473) -/

/-- A die's scheduler gives the first job of its order the place found for it; after the cycles 1 to 6 the job's argument block stands in its window and its
streams fetch their headers; a real job that has waited 65,536 cycles holds back those after it; a job whose streams have all ended is done, and its launch counts it.
Where the spec leaves room, the model's own choices: log 47. -/
def Obligations.JobEvents : Prop :=
  (∀ (s : State) (d k : Nat) (j : Job) (p : Spot) (l : Launch), s.args.a = d → (s.dieOf d).lost = false → (∀ e ∈ s.launches, e.2.state ≠ .placing) →
    s.sweepDone.candidates d = [(k, j)] → s.sweepDone.jobs.find? k = some j → j.status = .created → j.spec = none →
    s.sweepDone.spotFor j = some p → p.out = [] → (s.sweepDone.reserveSave k).isSome = true → s.launches.find? j.launch = some l →
    ∃ t, exec .jobPlacement s = .next t ∧ (t.jobOf k).status = .running ∧ (t.jobOf k).core = p.core ∧ (t.jobOf k).cc = p.cc ∧
      (t.jobOf k).tileBase = p.tile ∧ (t.jobOf k).scrBase = p.scr ∧ (t.jobOf k).cycSince = s.now ∧ ⟨s.now + 6, .begin k⟩ ∈ t.agenda ∧
      (∀ x : Letter, (t.strOf ⟨k, x⟩).readyAt = s.now + 7) ∧ (t.dieOf j.die).rot = ((s.dieOf j.die).rot + 1) % 16) ∧
  (∀ (s : State) (k : Nat) (j : Job) (l : Launch), s.jobs.find? k = some j → s.launches.find? j.launch = some l →
    (s.beginJob k).cores = (s.scrWrite j 0 l.args false).cores ∧ ∀ x : Letter, ⟨s.now + 1, .stream ⟨k, x⟩⟩ ∈ (s.beginJob k).agenda) ∧
  (∀ (s : State) (d k u : Nat), s.args.a = d → s.args.b = k → (s.jobOf k).waiting = some u → u + 65536 ≤ s.now → (s.jobs.find? k).isSome = true →
    ∃ t, exec .placementWaitLimit s = .next t ∧ k ∈ (t.dieOf d).blocking ∧ t.jobs = s.jobs) ∧
  (∀ (s : State) (k : Nat) (j : Job) (l : Launch), s.args.a = k → s.jobs.find? k = some j → j.status = .running → s.launches.find? j.launch = some l →
    ∃ t l', exec .jobComplete s = .next t ∧ (t.jobOf k).status = .done ∧ (t.jobOf k).leftAt = s.now ∧ (t.jobOf k).acs = [] ∧
      t.launches.find? j.launch = some l' ∧ l'.completed = l.completed + 1)

/-- Parking, pre-emption, saves and resumption. A pre-emption request that no barrier defers is pending from then on, with a stall timer of 24,000,000 cycles
that freezes the context; a stream that passes its gap is in error; a job that has stopped is saved with its reason; a faulting line blocks the save and
tells F7; a complete save leaves the job parked or pre-empted with nothing on its core; and a resumed job has the registers of its save area, and its streams
fetch the headers of their sections again.
Where the spec leaves room, the model's own choices: log 50. -/
def Obligations.SaveEvents : Prop :=
  (∀ (s : State) (k : Nat), s.args.a = k → (s.jobs.find? k).isSome = true → (s.jobOf k).parking = true → (s.jobOf k).onCore = true →
    (s.jobOf k).save = none → (∀ f ∈ s.flights, f.2.ref.job = k → f.2.work.parks = true) →
    s.drained (s.jobOf k).coreKey (s.jobOf k).ctx s.now = true →
    ∃ t v, exec .jobPark s = .next t ∧ (t.jobOf k).save = some v ∧ v.reason = 2) ∧
  (∀ (s : State) (k : Nat), s.args.a = k → s.args.b = 0 → (s.jobs.find? k).isSome = true → (s.jobOf k).onCore = true → (s.jobOf k).spec = none →
    (s.jobOf k).prologue = false → (s.jobOf k).save = none → (s.jobOf k).preempt = none →
    ∃ t, exec .preemptRequest s = .next t ∧ ⟨s.now + 24000000, .event .preemptStall { a := k, b := s.now }⟩ ∈ t.agenda ∧
      (t.jobOf k).preempt = (if s.deferred (s.jobOf k) then none else some s.now)) ∧
  (∀ (s : State) (k : Nat), s.args.a = k → (s.jobs.find? k).isSome = true → (s.jobOf k).preempt.isSome = true → (s.jobOf k).onCore = true →
    (s.jobOf k).save = none → (s.jobOf k).frozen = false → (∀ x, ((s.jobOf k).stream x).stopped = true ∨ ((s.jobOf k).stream x).ended = true) →
    s.settled k = true → s.drained (s.jobOf k).coreKey (s.jobOf k).ctx s.now = true →
    ∃ t v, exec .jobPreempted s = .next t ∧ (t.jobOf k).save = some v ∧ v.reason = 1) ∧
  (∀ (s : State) (r : Ref), s.args.ref = r → (s.jobs.find? r.job).isSome = true → (s.jobOf r.job).spec = none → (s.jobOf r.job).prologue = false →
    (s.jobOf r.job).error = none →
    ∃ t e, exec .preemptOverrun s = .next t ∧ (t.jobOf r.job).error = some e ∧ e.code = 14 ∧ e.stream = letterNum r.letter ∧ (t.strOf r).paused = true) ∧
  (∀ (s : State) (k n : Nat) (c : Ctx), s.args.a = k → s.args.b = n → (s.jobs.find? k).isSome = true → (s.jobOf k).onCore = true →
    (s.jobOf k).save = none → (s.jobOf k).preempt = some n → s.ctxs.find? (s.jobOf k).ctx = some c → c.state ≠ .frozen → c.state ≠ .dumping →
    ∃ t, exec .preemptStall s = .next t ∧ (t.ctxOf (s.jobOf k).ctx).state = .frozen ∧ (t.ctxOf (s.jobOf k).ctx).cause = 54 ∧ (t.jobOf k).frozen = true) ∧
  (∀ (s : State) (k : Nat) (v : Save) (c : Ctx), s.args.a = k → (s.jobs.find? k).isSome = true → (s.jobOf k).save = some v →
    s.ctxs.find? (s.jobOf k).ctx = some c → c.state = .active ∨ c.state = .stopped →
    ∃ t, exec .saveLineFault s = .next t ∧ (t.jobOf k).save = some { v with blocks := v.blocks + 1, since := some s.now } ∧
      (t.ctxOf (s.jobOf k).ctx).state = .saveBlocked ∧ (∃ m ∈ t.mail, m.type = 0x0501 ∧ m.payload = [(s.jobOf k).ctx]) ∧
      ⟨s.now + (if 5 ≤ v.blocks + 1 then 0 else 24000000), .event .saveBlockTimeout { a := k, b := v.blocks + 1 }⟩ ∈ t.agenda) ∧
  (∀ (s : State) (k n : Nat) (v : Save) (c : Ctx), s.args.a = k → s.args.b = n → (s.jobs.find? k).isSome = true → (s.jobOf k).save = some v →
    v.since.isSome = true → v.blocks = n → s.ctxs.find? (s.jobOf k).ctx = some c → c.state ≠ .frozen → c.state ≠ .dumping →
    ∃ t, exec .saveBlockTimeout s = .next t ∧ (t.ctxOf (s.jobOf k).ctx).state = .frozen ∧ (t.ctxOf (s.jobOf k).ctx).cause = 0xFFFE) ∧
  (∀ (s u : State) (k va : Nat) (v : Save), s.args.a = k → (s.jobs.find? k).isSome = true → (s.jobOf k).save = some v →
    (s.jobOf k).saveArea = some va → s.vaWrite (s.jobOf k).ctx va (s.saveHeader k v.reason) = some u →
    ∃ t, exec .saveComplete s = .next t ∧ (t.jobOf k).status = (if v.reason = 2 then .parked else .preempted) ∧ (t.jobOf k).save = none ∧
      (t.jobOf k).parking = false ∧ (t.jobOf k).preempt = none ∧ (t.jobOf k).acs = [] ∧ (t.jobOf k).leftAt = s.now ∧ t.mem = u.mem) ∧
  (∀ (s u : State) (k va : Nat) (b : List Byte), s.args.a = k → (s.jobs.find? k).isSome = true → (s.jobOf k).status = .resuming →
    (s.jobOf k).frozen = false → (s.jobOf k).acsKeep = 0 → (s.jobOf k).saveArea = some va →
    s.vaRead (s.jobOf k).ctx va (saveSize (s.jobOf k).tileCount (s.jobOf k).scrSize - 49152 * 32) = some b → fieldOf b 4 1 = 1 →
    (s.markVa (s.jobOf k).ctx va (saveSize (s.jobOf k).tileCount (s.jobOf k).scrSize - 49152 * 32)).vaWrite (s.jobOf k).ctx (va + 4) [0] = some u →
    s.parkFlight k = none →
    ∃ t, exec .jobResume s = .next t ∧ (t.jobOf k).status = .running ∧ (t.jobOf k).pval = BitVec.ofNat 32 (fieldOf b 0xD20 4) ∧
      (t.jobOf k).fen = BitVec.ofNat 5 (fieldOf b 0xD08 8) ∧
      (∀ x, (t.strOf ⟨k, x⟩).s = vecOf 0 (0 :: wordsFrom (sliceOf b (0x100 + 768 * letterNum x) 768) 8 31) ∧ (t.strOf ⟨k, x⟩).stopped = false ∧
        ∀ y, (s.strOf ⟨k, x⟩).entering = none → (s.strOf ⟨k, x⟩).sect = some y →
          (t.strOf ⟨k, x⟩).entering = some ⟨y.base, (s.strOf ⟨k, x⟩).pc, none, true⟩ ∧ (t.strOf ⟨k, x⟩).readyAt = s.now + 1))

/-! ### Global accesses at their homes (03 R82 to R93, 08 R240, 20 R465) -/

/-- An access that has its turn at its home takes effect there, whole: a write and an update change their own bytes and no other, after the older bytes of their
line that their core's buffer holds, which go home before them; a read takes the bytes that stand there, with those that its core's buffer holds for its
context over them; one behind an older access of its line, and an `SO` one before its place in the order, wait; a forwarded one is performed at the page's new
home. A reply writes the register that the load owes. A line that drains from a combine buffer writes the bytes of its mask and no other.
Where the spec leaves room, the model's own choices: log 17, 18 and 20. -/
def Obligations.AccessesPerformed : Prop :=
  (∀ (s : State) (i : Nat) (a : Access), s.args.a = i → s.accesses.find? i = some a → a.stage ≠ .performed → s.lineBehind i a true = false →
    (a.kind = .so → s.soReady a = true ∧ ∀ e ∈ s.accesses, e.2.flight = a.flight → e.1 = i) →
    s.fwd a.pa = a.pa → (s.dieOf a.die).lost = false → MemOk s →
    let u := s.clearWay a.core a.ctx a.line
    (∀ v, a.op = .write v → v ≠ [] → a.pa % 128 + v.length ≤ 128 →
      ∃ t b, exec .globalAccessPerformed s = .next t ∧ t.accesses.find? i = some b ∧ b.stage = .performed ∧ b.op = a.op ∧
        ∀ x, Memory.get t.mem x = if a.pa ≤ x ∧ x < a.pa + v.length then v.getD (x - a.pa) 0 else Memory.get u.mem x) ∧
    (∀ fmt m w, a.op = .add fmt m w → a.pa % saccBytes fmt = 0 →
      let r := saccAdd fmt m (natOf (u.memRead a.pa (saccBytes fmt))) w.toNat
      ∃ t b, exec .globalAccessPerformed s = .next t ∧ t.accesses.find? i = some b ∧ b.stage = .performed ∧ b.op = a.op ∧
        ∀ x, Memory.get t.mem x =
          if a.pa ≤ x ∧ x < a.pa + saccBytes fmt then (bytesOf (saccBytes fmt) r.1).getD (x - a.pa) 0 else Memory.get u.mem x) ∧
    (a.op = .read → a.spec = none →
      ∃ t b, exec .globalAccessPerformed s = .next t ∧ t.mem = s.mem ∧ t.accesses.find? i = some b ∧ b.stage = .performed ∧ b.op = .read ∧
        b.value = s.overlay a.core a.ctx a.own (s.memRead a.pa a.len) ∧ b.vpoison = (s.memBad a.pa a.len || s.ownBad a))) ∧
  (∀ (s : State) (c x line : Nat), (∀ l ∈ (s.coreOf c).combine, ¬(l.line = line ∧ l.ctx = x)) → (s.clearWay c x line).mem = s.mem) ∧
  (∀ (s : State) (i : Nat) (a : Access), s.args.a = i → s.accesses.find? i = some a → a.stage ≠ .performed →
    s.lineBehind i a true = true ∨ a.kind = .so ∧ s.soReady a = false →
    exec .globalAccessPerformed s = .next (s.post 1 .globalAccessPerformed { a := i })) ∧
  (∀ (s : State) (i : Nat) (a : Access), s.args.a = i → s.accesses.find? i = some a → a.stage ≠ .performed → a.kind ≠ .so → a.op = .read →
    a.spec = none → s.fwd (s.fwd a.pa) = s.fwd a.pa → (s.dieOf (if a.die = homeDie a.pa then homeDie (s.fwd a.pa) else a.die)).lost = false →
    s.fwd a.pa ≠ a.pa → (∀ e ∈ s.accesses, e.1 < i → e.2.core ≠ a.core) →
    ∃ t b, exec .migrationForward s = .next t ∧ t.mem = s.mem ∧ t.accesses.find? i = some b ∧ b.stage = .performed ∧ b.pa = s.fwd a.pa ∧
      b.slice = homeSlice (s.fwd a.pa) ∧ b.value = s.overlay a.core a.ctx b.own (s.memRead (s.fwd a.pa) a.len)) ∧
  (∀ (s : State) (i : Nat) (a : Access) (f : Flight) (d : SReg) (sz : Fin 5) (sx : Bool) (h : HReg) (va : Word), s.args.a = i →
    s.accesses.find? i = some a → s.flights.find? a.flight = some f → f.work = .load d sz sx h va → a.vpoison = false → f.ref = a.ref →
    (s.jobs.find? a.ref.job).isSome = true →
    ∃ t, exec .globalReadReply s = .next t ∧ t.accesses.find? i = none ∧ s.Completes a.flight f f.flags t ∧ t.mem = s.mem ∧
      (t.strOf a.ref).s = ((s.strOf a.ref).writeData d sz sx (natOf a.value)).s) ∧
  (∀ (s : State) (c line ctx : Nat) (l : CombLine), s.args.a = c → s.args.b = line → s.args.c = ctx → MemOk s →
    (s.coreOf c).combine.find? (fun x => x.line = line && x.ctx = ctx) = some l → l.draining = true ∨ l.since + 4096 ≤ s.now →
    (s.dieOf l.die).lost = false →
    ∃ t, exec .combineLineDrain s = .next t ∧ (∀ x ∈ (t.coreOf c).combine, ¬(x.line = line ∧ x.ctx = ctx)) ∧
      ∀ x, Memory.get t.mem x =
        if s.fwd (line * 128) ≤ x ∧ x < s.fwd (line * 128) + 128 ∧ l.mask.getLsbD (x - s.fwd (line * 128)) = true then
          l.data.toList.getD (x - s.fwd (line * 128)) 0 else Memory.get s.mem x)

/-! ### The way to the home (23 R516 to R522) -/

/-- Injection at a core's port, where a copy's bytes are read from scratch, for at most 2,048 requests under way; the router before a home slice, the slice and its cache, and the HBM controller behind it.
Where the spec leaves room, the model's own choices: log 17, 57, 85 and 104. -/
def Obligations.AccessPath : Prop :=
  (∀ (s : State) (c i : Nat) (a : Access), s.args.a = c → s.accesses.find? i = some a → (s.refillDue (c / 16)).presented c false = [(i, a)] →
    (s.refillDue (c / 16)).presented c true = [] → (s.refillDue (c / 16)).tokens c ≠ some 0 → (s.refillDue (c / 16)).outstanding c < 2048 → a.lines = 1 →
    ∃ t d, exec .portInjection s = .next t ∧ t.accesses.find? i = some { s.loadOut a with lines := 0, stage := .sent } ∧ s.now < d ∧
      ⟨d, .event .routerGrant { a := sliceKey a.die a.slice, b := i + 1 }⟩ ∈ t.agenda) ∧
  (∀ (s : State) (c : Nat), s.args.a = c → (s.refillDue (c / 16)).presented c true = [] → (s.refillDue (c / 16)).tokens c = some 0 →
    ∃ t, exec .portInjection s = .next t ∧ t.accesses = s.accesses) ∧
  (∀ (s : State) (c : Nat), s.args.a = c → 2048 ≤ (s.refillDue (c / 16)).outstanding c → ∃ t, exec .portInjection s = .next t ∧ t.accesses = s.accesses) ∧
  (∀ (s : State) (a : Access) (p : Nat) (v : List Byte), a.src = some p → a.op = .write v →
    (s.loadOut a).op = .write (Store.read granule (s.coreOf a.core).scratch p a.len) ∧
    (s.loadOut a).poison = (a.poison || Store.foul granule (s.coreOf a.core).scratch p a.len)) ∧
  (∀ (s : State) (d : Nat), s.args.a = d → ∃ t, exec .injectionRefill s = .next t ∧
    ⟨s.now + (1024 - s.now % 1024), .event .injectionRefill { a := d }⟩ ∈ t.agenda ∧
    ((s.dieOf d).window < s.now / 1024 → (t.dieOf d).window = s.now / 1024)) ∧
  (∀ (s : State) (o i : Nat) (a : Access), s.args.a = o → s.args.b = i + 1 → s.accesses.find? i = some a →
    ∃ t, exec .routerGrant s = .next t ∧
      (t.routers.getD o Router.init).chan a.vc = (s.routers.getD o Router.init).chan a.vc ++ [⟨i, a.core, a.part, s.now⟩]) ∧
  (∀ (s : State) (o : Nat) (f : Flit) (y : Router), s.args.a = o → s.args.b = 0 → s.grant (s.routers.getD o Router.init) = some (f, y) →
    ∃ t, exec .routerGrant s = .next t ∧ t.routers.getD o Router.init = y ∧ (t.sliceAt o).waiting = (s.sliceAt o).waiting ++ [f.id]) ∧
  (∀ (s : State) (k i : Nat) (a : Access), s.args.a = k →
    let x := (s.sliceAt k).inWindow (s.now / 1024)
    s.acceptable x = some (i, a) → s.accesses.find? i = some a →
    let hit := x.lines.any (fun c => c.line = a.pa / 128)
    ∃ t d, exec .sliceRequestAccept s = .next t ∧ t.accesses.find? i = some { a with stage := .slice } ∧
      (t.sliceAt k).waiting = x.waiting.filter (fun n => n ≠ i) ∧ s.now < d ∧
      (hit = true → ⟨d, .event .globalAccessPerformed { a := i }⟩ ∈ t.agenda) ∧
      (hit = false → ⟨d, .event .hbmRequestArrival { a := a.controller, b := i }⟩ ∈ t.agenda) ∧
      (a.spec = none → (t.sliceAt k).counts.getD a.part 0 = x.counts.getD a.part 0 + 1)) ∧
  (∀ (s : State) (m i : Nat) (a : Access), s.args.a = m → s.args.b = i → s.accesses.find? i = some a → a.spec = none →
    let h := s.hbm.getD m Hbm.init
    let b := max h.v (h.f.getD a.part 0)
    let n := (unitsOf 128 a.pa a.len).length
    ∃ t, exec .hbmRequestArrival s = .next t ∧ (t.hbm.getD m Hbm.init).waiting = h.waiting ++ [⟨i, a.part, n, b, false⟩] ∧
      (t.hbm.getD m Hbm.init).f.getD a.part 0 = b + n * s.lineCost a.part) ∧
  (∀ (s : State) (m : Nat) (r : HbmReq), s.args.a = m → (s.hbm.getD m Hbm.init).next = some r →
    ∃ t d, exec .hbmServiceStart s = .next t ∧ (t.hbm.getD m Hbm.init).waiting = (s.hbm.getD m Hbm.init).waiting.filter (fun x => x.id ≠ r.id) ∧
      s.now < d ∧ ⟨d, .event .globalAccessPerformed { a := r.id }⟩ ∈ t.agenda) ∧
  (∀ (s : State), ∃ t, exec .cacheWindowClear s = .next t ∧ ⟨s.now + (1024 - s.now % 1024), .event .cacheWindowClear {}⟩ ∈ t.agenda ∧
    ∀ d x k y, s.dies.find? d = some x → x.slices.find? k = some y →
      ∃ z, (t.dieOf d).slices.find? k = some z ∧ z.window = s.now / 1024 ∧ (y.window ≠ s.now / 1024 → z.counts = []))

/-! ### Undercoat (14 R381 to R395) -/

/-- A launch that enters its queue's history has the record that is then predicted tried in the next cycle; a speculative launch starts as the record predicted;
a spoil and the horizon discard it; a claim fails where the record differs, else it sends a watch fence to
every slice, whose last acknowledgement is the claim point: from it on the launch and its jobs are real.
Where the spec leaves room, the model's own choices: log 21, 69 and 97. -/
def Obligations.SpeculationEvents : Prop :=
  (∀ (s : State) (d q i : Nat) (r : List Byte) (l : Launch), s.args.a = d → s.args.b = q →
    let seq : BitVec 32 := s.args.word.setWidth 32
    s.args.data = r → s.specSlot d = some i →
    s.mayStart d q (recPart r) seq = true → s.predictedLaunch q (d * 8 + i) seq r = some l →
    ∃ t l', exec .speculationStart s = .next t ∧ (t.dieOf d).specs.find? i = some ⟨s.nextId, q, seq, s.now, .running, 0, [], [], []⟩ ∧
      t.launches.find? s.nextId = some l' ∧ l'.spec = some (d * 8 + i) ∧ l'.held = false ∧ t.mem = s.mem ∧
      ⟨s.now + 200000, .event .speculationHorizon { a := d, b := i }⟩ ∈ t.agenda) ∧
  (∀ (s : State) (q ctx : Nat) (seq : BitVec 32) (r p : List Byte),
    let h := (s.histOf ctx seq r :: s.history.getD q []).take 16
    prediction (visible h) = some p →
    (s.enterHistory q ctx seq r).history.getD q [] = h ∧
    ⟨s.now + 1, .event .speculationStart { a := (s.queueOf q).die, b := q, word := (seq + 1).setWidth 64, data := p }⟩ ∈
      (s.enterHistory q ctx seq r).agenda) ∧
  (∀ (s : State) (d i : Nat) (x : Spec), s.args.a = d → s.args.b = i → i < 8 → (s.dieOf d).specs.find? i = some x → x.state ≠ .draining →
    (s.behind s.args = false → ∃ t, exec .spoilArrival s = .next t ∧ (t.dieOf d).specs.find? i = none ∧ t.launches.find? x.launch = none ∧ t.mem = s.mem) ∧
    (x.started + 200000 ≤ s.now →
      ∃ t, exec .speculationHorizon s = .next t ∧ (t.dieOf d).specs.find? i = none ∧ t.launches.find? x.launch = none ∧ t.mem = s.mem)) ∧
  (∀ (s : State) (k n : Nat) (l p : Launch) (x : Spec), s.args.a = k → s.launches.find? k = some l → l.state = .claiming → l.spec = some n →
    s.specOf n = some x → s.launches.find? x.launch = some p →
    (claimMatches (s.histOf l.ctx l.seq l.record) l p = false → ∃ t, exec .claimAttempt s = .next t ∧ t.specOf n = none ∧ t.mem = s.mem) ∧
    (∀ u, claimMatches (s.histOf l.ctx l.seq l.record) l p = true →
      s.reserveClaim x.launch p = some u →
      ∃ t, exec .claimAttempt s = .next t ∧ t.specOf n = some { x with state := .claiming, attempt := s.now, acks := [] } ∧
        ∀ c < 256, ∃ d, s.now < d ∧ ⟨d, .event .watchFenceArrival { a := n / 8, b := n % 8, c := c }⟩ ∈ t.agenda)) ∧
  (∀ (s : State) (d i c : Nat), s.args.a = d → s.args.b = i → s.args.c = c → (s.specOf (d * 8 + i)).isSome = true →
    ∃ t u, exec .watchFenceArrival s = .next t ∧ (t.sliceAt c).watch = (s.sliceAt c).watch.filter (fun w => w.1 ≠ d * 8 + i) ∧ s.now < u ∧
      ⟨u, .event .watchFenceAck { s.args with word := BitVec.ofNat 64 s.ticket }⟩ ∈ t.agenda) ∧
  (∀ (s : State) (d i : Nat) (x : Spec), s.args.a = d → s.args.b = i → s.behind s.args = false → s.specOf (d * 8 + i) = some x → x.state = .claiming →
    ((NatSet.insert x.acks s.args.c).length < 256 →
      ∃ t, exec .watchFenceAck s = .next t ∧ t.specOf (d * 8 + i) = some { x with acks := NatSet.insert x.acks s.args.c }) ∧
    (∀ k l p e, 256 ≤ (NatSet.insert x.acks s.args.c).length →
      List.find? (fun e : Nat × Launch => e.2.state = .claiming && e.2.spec = some (d * 8 + i)) s.launches = some (k, l) →
      s.launches.find? x.launch = some p → p.desc = some e → k ≠ x.launch →
      ∃ t y l', exec .watchFenceAck s = .next t ∧ t.specOf (d * 8 + i) = some y ∧ y.state = .draining ∧ t.launches.find? k = none ∧
        t.launches.find? x.launch = some l' ∧ l'.spec = none ∧ l'.record = l.record ∧
        ∀ n j, s.jobs.find? n = some j → j.launch = x.launch → (t.jobOf n).spec = none)) ∧
  (∀ (s : State) (d i : Nat) (x : Spec), s.args.a = d → s.args.b = i → i < 8 → (s.dieOf d).specs.find? i = some x → x.state = .draining →
    ∃ t, exec .shadowLinesPerformed s = .next t ∧ (t.dieOf d).specs.find? i = none ∧
      ∀ n j, s.jobs.find? n = some j → j.launch = x.launch → ∀ l, ((t.jobOf n).stream l).paused = false)

/-! ### Recovery (20 R472 to R482) -/

/-- A context error freezes its context; once what it had issued is complete, the dump is due; the capture discards its jobs and tells F1, which ends the context's
launches and leaves it `EMPTY`. Resets asked for from outside freeze it in the same way; a lost die ends what stood on it.
Where the spec leaves room, the model's own choices: log 49 and 51 to 53. -/
def Obligations.RecoveryEvents : Prop :=
  (∀ (s : State) (m : Msg) (e : ErrRec) (c : Ctx), s.mail.find? (fun m => m.type = 0x0201) = some m →
    s.mail.find? (fun x => x.src = m.src && x.dst = m.dst) = some m → m.err = some e → s.ctxs.find? e.ctx = some c → c.state ≠ .frozen →
    c.state ≠ .dumping →
    ∃ t, exec .msgContextError s = .next t ∧ t.mail = s.mail.erase m ∧ (t.ctxOf e.ctx).state = .frozen ∧ (t.ctxOf e.ctx).cause = e.code ∧
      (t.ctxOf e.ctx).errors = c.errors ++ [e] ∧ ∀ k, (s.jobs.find? k).isSome = true → (s.jobOf k).ctx = e.ctx → (t.jobOf k).frozen = true) ∧
  (∀ (s : State) (c : Nat), s.args.a = c → (s.ctxOf c).state = .frozen →
    ((∀ f ∈ s.flights, s.mustDrain c f.2 = false) → s.errorsComing c = false →
      ∃ t, exec .contextFrozenDrained s = .next t ∧ (t.ctxOf c).state = .dumping ∧ ⟨s.now + 1, .event .captureBeforeReset { a := c }⟩ ∈ t.agenda)) ∧
  (∀ (s : State) (c : Nat), s.args.a = c → (s.ctxOf c).state = .dumping →
    ∃ t, exec .captureBeforeReset s = .next t ∧ ⟨0x0202, 3, 1, [c], none, none⟩ ∈ t.mail ∧ (t.ctxOf c).saves = [] ∧
      ∀ k j, t.jobs.find? k = some j → j.ctx ≠ c) ∧
  (∀ (s : State) (m : Msg) (c : Nat), s.mail.find? (fun m => m.type = 0x0202) = some m → s.mail.find? (fun x => x.src = m.src && x.dst = m.dst) = some m →
    m.payload = [c] → (s.ctxs.find? c).isSome = true →
    ∃ t, exec .msgDecision s = .next t ∧ (t.ctxOf c).state = .empty ∧ (t.ctxOf c).errors = [] ∧
      ∀ k l, s.launches.find? k = some l → l.ctx = c → l.state ≠ .finishing → k < s.nextId → ∃ l', t.launches.find? k = some l' ∧ l'.state = .finishing ∧
        (l.started = false → l'.status = some (5, 0)) ∧ (l.started = true → l'.status = some (4, faultDetail (s.ctxOf c).cause))) ∧
  (∀ (s : State) (r : KReq) (x : Ctx), s.args.req = r → 2 ≤ r.payload.length → s.ctxs.find? (reqField r 0 2) = some x → x.desc = true →
    x.state ≠ .frozen → x.state ≠ .dumping →
    ∃ t, exec .ctxReset s = .next t ∧ (t.ctxOf (reqField r 0 2)).state = .frozen ∧ (t.ctxOf (reqField r 0 2)).cause = 0xFFFF ∧
      (t.ctxOf (reqField r 0 2)).resetBy = x.resetBy ++ [r]) ∧
  (∀ (s : State) (c : Nat) (x : Ctx), s.ctxs.find? c = some x → x.desc = true → x.vf = s.args.a → x.state ≠ .frozen → x.state ≠ .dumping →
    ∃ t, exec .vfFlr s = .next t ∧ (t.ctxOf c).state = .frozen ∧ (t.ctxOf c).cause = 0xFFFF) ∧
  (∀ (s : State) (r : KReq), s.args.req = r → r.cmd = 0x38 → 2 ≤ r.payload.length → (s.ctxOf (reqField r 0 2)).state = .saveBlocked →
    (∃ e ∈ s.jobsOf (reqField r 0 2), ∃ v n, e.2.save = some v ∧ v.since = some n) →
    ∃ t, exec .saveresume s = .next t ∧ ⟨0x0102, 3, 0, [0], none, some r⟩ ∈ t.mail) ∧
  (∀ (s : State) (m : Msg), s.mail.find? (fun m => m.type = 0x0501) = some m → s.mail.find? (fun x => x.src = m.src && x.dst = m.dst) = some m →
    ∃ t, exec .msgSaveBlocked s = .next t ∧ t.mail = s.mail.erase m ∧ t.outbox = s.outbox ++ [.msix none 1] ∧
      t.errors = s.errors ++ m.err.toList) ∧
  (∀ (s : State) (d : Nat), s.args.a = d → (s.dieOf d).lost = false →
    ∃ t, exec .dieLost s = .next t ∧ (t.dieOf d).lost = true ∧
      ∀ c ∈ s.lostCtxs d, ∀ x, s.ctxs.find? c = some x → x.state ≠ .frozen → x.state ≠ .dumping → (t.ctxOf c).state = .frozen ∧ (t.ctxOf c).cause = 53)

/-! ### Shared passes (11 R322 to R326, 13 R356 to R376) -/

/-- `TASK` enters its task in the pool, with its deadline, where its checks pass, its slot is not busy and the pool has an entry; `TASKWAIT` waits for the slot
and `TASKST` reads it; past `TASKWAIT`, and with a read of an ended task, the context's read copies at the core are gone. `s` is taken with its epilogue table as
it then stands. A pass takes its tasks in the order of 13 R361, asks for its blocks in the next cycle, reads its weights, holds the array for its weights and its
rows, and reads a row's activations as it enters; every chunk of 256 rows is copied for its epilogue, and with the last one the pass moves to the back position; a
chunk whose epilogue has ended gives its destination rows; the scatter issues one row of a task in a cycle, or parks the task; a task whose rows have all been
performed is `DONE`. Where the spec leaves room, the model's own choices: log 41 to 44. -/
def Obligations.SharedPasses : Prop :=
  (∀ (o : OpTask) (s : State) (e a d : Nat), s.Issues o.c [.s o.a, .s o.b, .s o.p] (irrev := true) → s.settleEpilogues s.job.coreKey = s →
    (s.job.slots[o.slot]).state.val = 0 ∨ 4 ≤ (s.job.slots[o.slot]).state.val → s.core.isLoading s.cur.job o.hash = false →
    s.core.trowel.freeEntry = some e → s.taskCheck o = .ok (a, d) →
    let p := (s.sget o.p).toNat
    ∃ t f x, exec (.task o) s = .next t ∧ t.flights.find? s.nextId = some f ∧ f.ref = s.cur ∧ f.sig = o.c.sig ∧ f.work = .task o.slot e ∧
      (t.jobOf s.cur.job).slots[o.slot] = ⟨1, 0, 0⟩ ∧ (t.trow s.job.coreKey).pool.find? e = some x ∧ x.state = 1 ∧ x.job = s.cur.job ∧
      x.flight = s.nextId ∧ x.rows = p / 2 ^ 48 % 256 + 1 ∧ x.wid = p % 2 ^ 24 ∧ x.shape = p / 2 ^ 24 % 256 ∧ x.hash = o.hash ∧ x.addr = a ∧
      x.dests = d ∧ x.deadline = s.now + p / 2 ^ 32 % 65536 ∧
      ⟨s.now + p / 2 ^ 32 % 65536, .event .taskDeadline { a := s.job.coreKey, b := e }⟩ ∈ t.agenda) ∧
  (∀ (o : OpSlot) (s : State), s.Issues o.c [] →
    ((s.job.slots[o.slot]).state.val = 0 ∨ 4 ≤ (s.job.slots[o.slot]).state.val →
      ∃ t, exec (.taskwait o) s = .next t ∧ s.Done s.acquireRows o.c 0 t) ∧
    (1 ≤ (s.job.slots[o.slot]).state.val → (s.job.slots[o.slot]).state.val ≤ 3 → exec (.taskwait o) s = .next s.begin)) ∧
  (∀ s : State, (∀ c ∈ (s.acquireRows.coreOf s.job.coreKey).copies, c.ctx ≠ s.job.ctx) ∧ s.acquireRows.mem = s.mem ∧ s.acquireRows.jobs = s.jobs) ∧
  (∀ (o : OpTaskst) (s : State), s.Issues o.c [.s o.d] →
    let x := s.job.slots[o.slot]
    let e := if 4 ≤ x.state.val then s.acquireRows else s
    ∃ t, exec (.taskst o) s = .next t ∧ s.Done (e.sput o.d (BitVec.ofNat 64 (x.ok * 2 ^ 16 + x.parked % 256 * 2 ^ 8 + x.state.val))) o.c 0 t) ∧
  (∀ (s : State) (c e : Nat) (x : PoolEntry), s.args.a = c → s.args.b = e → (s.trow c).pool.find? e = some x → x.state = 1 → x.deadline ≤ s.now →
    ∃ t n, exec .taskDeadline s = .next t ∧ n ≤ s.now ∧ ⟨n, .event .passForm { a := c }⟩ ∈ t.agenda ∧ t.cores = s.cores) ∧
  (∀ (s : State) (c : Nat) (e : Nat × PoolEntry), s.args.a = c → (s.trow c).front = none → s.passLead c = some e →
    let g := (s.trow c).group e.2
    let ts := takeTasks (s.passLimit c g) 0 g
    ∃ t p, exec .passForm s = .next t ∧ (t.trow c).front = some p ∧ p.no = (s.trow c).passNo ∧ (t.trow c).passNo = (s.trow c).passNo + 1 ∧
      p.tasks = ts.map (fun y => ⟨y.1, y.2.rows, y.2.flight⟩) ∧ p.wid = e.2.wid ∧ p.hash = e.2.hash ∧
      ⟨s.now + 1, .trowel c (.blocks p.no)⟩ ∈ t.agenda ∧
      ∀ y ∈ ts, ∃ z, (t.trow c).pool.find? y.1 = some z ∧ z.state = 2) ∧
  (∀ (s : State) (c : Nat) (p : Pass) (w : Wid), s.args.a = c → (s.trow c).front = some p → s.wids.find? p.wid = some w →
    let n := shapeK p.shape * shapeN p.shape * fmtBytes (shapeWfmt p.shape)
    s.homeBad w.paddr n = false →
    ∃ t, exec .weightBufferRead s = .next t ∧ (t.trow c).buffer = some (p.wid, s.homeRead w.paddr n) ∧ (t.trow c).front = some { p with weights := true } ∧
      t.mem = s.mem) ∧
  (∀ (s : State) (c : Nat) (p : Pass), s.args.a = c → (s.coreOf c).array.holder = some .trowel → (s.trow c).front = some p →
    (s.coreOf c).array.free ≤ s.now →
    (∀ u, p.loaded = false → s.pay c (shapeK p.shape * (s.trow c).weightEstimate p) false = some u →
      ∃ t, exec .passArrayTerm s = .next t ∧ (t.trow c).front = some { p with loaded := true } ∧ (t.coreOf c).array.free = s.now + shapeK p.shape) ∧
    (∀ u, p.loaded = true → p.paid = false → s.pay c (p.rows * s.passEstimate c p) false = some u →
      ∃ t, exec .passArrayTerm s = .next t ∧ (t.trow c).front = some { p with paid := true, row := p.rows } ∧
        (t.coreOf c).array.free = s.now + p.rows * passRate p.shape) ∧
    (p.loaded = true → p.paid = true →
      ∃ t q, exec .passArrayTerm s = .next t ∧ (t.trow c).front = some q ∧ q.ran = true ∧ (t.coreOf c).array.holder = none)) ∧
  (∀ (s : State) (c i : Nat) (p : Pass), (s.trow c).front = some p → i < p.rows →
    let t := s.trowelStep c (.entry p.no i)
    (t.trow c).front = some { p with inputs := p.inputs.set i (s.passInput c p i) } ∧ t.mem = s.mem ∧
      ⟨s.now + passRate p.shape, .trowel c (.entry p.no (i + 1))⟩ ∈ t.agenda) ∧
  (∀ (s : State) (c : Nat) (p : Pass), s.args.a = c → (s.trow c).front = some p → 256 * p.copied + 256 < p.rows → 256 * p.copied + 256 ≤ p.written →
    ∃ t, exec .epilogueChunk s = .next t ∧ (t.trow c).front = some { p with copied := p.copied + 1 } ∧
      (t.trow c).chunks = (s.trow c).chunks ++ [(s.coreOf c).chunkStart p p.copied]) ∧
  (∀ (s : State) (c : Nat) (p : Pass), s.args.a = c → (s.trow c).front = some p → (s.trow c).back = none → 256 * p.copied < p.rows →
    p.rows ≤ 256 * p.copied + 256 → p.rows ≤ p.written → p.ran = true →
    ∃ t, exec .passBackPosition s = .next t ∧ (t.trow c).front = none ∧ (t.trow c).back = some { p with copied := p.copied + 1, blocks := [] } ∧
      (t.trow c).chunks = (s.trow c).chunks ++ [(s.coreOf c).chunkStart p p.copied]) ∧
  (∀ (s : State) (c : Nat) (p : Pass) (k : Chunk) (r : List Chunk), (s.trow c).chunks = k :: r → (s.trow c).passOf k.pass = some p → k.words = [] →
    let t := s.trowelStep c .next
    (t.trow c).chunks = r ∧ t.mem = s.mem ∧ ∃ q, (t.trow c).passOf k.pass = some q ∧ q = { p with chunks := p.chunks + 1, outs := p.outs ++ k.outRows p }) ∧
  (∀ (s : State) (c b : Nat) (p : Pass) (k : PassTask) (e : PoolEntry), s.args.a = c → (s.trow c).scattering = some p → (s.trow c).scatterAt ≤ s.now →
    p.starts[p.scattered]? = some (k, b) → (s.trow c).entryOf k = some e → e.state = 4 →
    let cause := s.taskCause e (s.jobOf e.job) p.shape
    (0 < e.issued ∨ cause = 0 → ∃ t x, exec .scatterCheck s = .next t ∧ (t.trow c).pool.find? k.entry = some x ∧ x.issued = e.issued + 1 ∧ x.state = 4 ∧
      (t.trow c).scatterAt = s.now + 1) ∧
    (e.issued = 0 → cause ≠ 0 → ∃ t x, exec .scatterCheck s = .next t ∧ (t.trow c).pool.find? k.entry = some x ∧ x.issued = 0 ∧ x.state = 5 ∧
      x.cause = cause ∧ t.accesses = s.accesses)) ∧
  (∀ (s : State) (c n : Nat) (e : PoolEntry) (f : Flight), s.args.a = c → s.args.b = n → (s.trow c).pool.find? n = some e → e.state = 4 →
    e.issued = e.rows → (∀ a ∈ s.accesses, a.2.flight ≠ e.flight) → (s.jobs.find? e.job).isSome = true → s.flights.find? e.flight = some f →
    f.ref.job = e.job →
    ∃ t, exec .taskRowPerformed s = .next t ∧ (t.trow c).pool.find? n = none ∧ (t.jobOf e.job).slots[e.slot] = ⟨4, e.rows, 0⟩ ∧
      s.Completes e.flight f (f.flags ||| e.flags) t)


/-! ### Sampler words and lanes (12 R335 to R355) -/

/-- Uniforms are drawn by 12 R342: bits 63 to 40 of `mix` over 2^24, exact in FP32, and CTR moves on. A sampler word that computes on registers, jumps, or reads
and writes SEED and CTR has the result of 12 R345 and R342 and takes one cycle; `k0` reads 0
and discards what is written; a jump out of the program memory and an `SROLL` of more than 15 stop the context with `SAMPLER_RANGE` (65), and the word after the
65,536th with `SAMPLER_STEPS` (67). -/
def Obligations.SamplerRegisterWords : Prop :=
  (∀ seed ctr : Word,
    let z := seed + ctr * 0x9E3779B97F4A7C15
    let y := (z ^^^ (z >>> 30)) * 0xBF58476D1CE4E5B9
    let x := (y ^^^ (y >>> 27)) * 0x94D049BB133111EB
    let u := convertNum 0 (.fin false ((x ^^^ (x >>> 31)).toNat / 2 ^ 40) (-24)) 7
    drawBits seed ctr = u.1 ∧ u.2 = 0) ∧
  (∀ (s : State) (d a b : KReg), s.LaneRuns →
    let c := s.word
    (∃ t, exec (.sadd d a b) s = .next t ∧ s.LaneDoes t (c.kput d (c.kget a + c.kget b)) 1) ∧
    (∃ t, exec (.ssub d a b) s = .next t ∧ s.LaneDoes t (c.kput d (c.kget a - c.kget b)) 1) ∧
    (∃ t, exec (.smul d a b) s = .next t ∧ s.LaneDoes t (c.kput d (c.kget a * c.kget b)) 1) ∧
    (∃ t, exec (.saddF d a b) s = .next t ∧ s.LaneDoes t (c.kputf d (f32Add (c.kf a) (c.kf b)).1) 1) ∧
    (∃ t, exec (.ssubF d a b) s = .next t ∧ s.LaneDoes t (c.kputf d (f32Sub (c.kf a) (c.kf b)).1) 1) ∧
    (∃ t, exec (.smulF d a b) s = .next t ∧ s.LaneDoes t (c.kputf d (f32Mul (c.kf a) (c.kf b)).1) 1) ∧
    ∀ cc : Fin 8, ∃ t v, exec (.scmp cc d a b) s = .next t ∧ s.LaneDoes t (c.kput d v) 1 ∧ (v = 1 ∨ v = 0) ∧
      (v = 1 ↔ scmpSays cc (c.kget a) (c.kget b))) ∧
  (∀ (s : State) (d : KReg), s.LaneRuns →
    let c := s.word
    (∀ imm, ∃ t, exec (.smovi d imm) s = .next t ∧ s.LaneDoes t (c.kput d (BitVec.ofInt 64 imm.toInt)) 1) ∧
    (∀ imm, ∃ t, exec (.smoviH d imm) s = .next t ∧ s.LaneDoes t (c.kput d (BitVec.ofNat 64 (imm.toNat * 2 ^ 11))) 1) ∧
    (∃ t, exec (.srngSeed d) s = .next t ∧ s.LaneDoes t (c.kput d c.seed) 1) ∧
    (∃ t, exec (.srngCtr d) s = .next t ∧ s.LaneDoes t (c.kput d c.ctr) 1) ∧
    (∃ t, exec (.srngSetseed d) s = .next t ∧ s.LaneDoes t { c with seed := c.kget d } 1) ∧
    (∃ t, exec (.srngSetctr d) s = .next t ∧ s.LaneDoes t { c with ctr := c.kget d } 1) ∧
    (∃ t, exec (.sdraw d) s = .next t ∧ s.LaneDoes t ({ c with ctr := c.ctr + 1 }.kputf d (drawBits c.seed c.ctr)) 1) ∧
    ((c.kget d).toNat ≤ 15 → ∃ t, exec (.sroll d) s = .next t ∧ s.LaneDoes t { c with ctr := c.step * 16 + c.kget d } 1) ∧
    (15 < (c.kget d).toNat → ∃ t, exec (.sroll d) s = .next t ∧ s.LaneStops t 65)) ∧
  (∀ (s : State) (a : KReg) (off : BitVec 22), s.LaneRuns →
    let c := s.word
    let g : Int := s.sctx.pc + off.toInt
    (0 ≤ g → g < 16384 →
      (∃ t, exec (.sjmp off) s = .next t ∧ s.LaneDoes t { c with pc := g.toNat } 1) ∧
      (c.kget a = 0 → ∃ t, exec (.sjz a off) s = .next t ∧ s.LaneDoes t { c with pc := g.toNat } 1) ∧
      (c.kget a ≠ 0 → ∃ t, exec (.sjnz a off) s = .next t ∧ s.LaneDoes t { c with pc := g.toNat } 1)) ∧
    (g < 0 ∨ 16384 ≤ g → ∃ t, exec (.sjmp off) s = .next t ∧ s.LaneStops t 65) ∧
    (c.kget a ≠ 0 → ∃ t, exec (.sjz a off) s = .next t ∧ s.LaneDoes t c 1) ∧
    (c.kget a = 0 → ∃ t, exec (.sjnz a off) s = .next t ∧ s.LaneDoes t c 1)) ∧
  (∀ (s : State) (d a b : KReg), s.sctx.state = .running → 65536 ≤ s.sctx.count →
    ∃ t, exec (.sadd d a b) s = .next t ∧ s.LaneStops t 67) ∧
  (∀ (c : SCtx) (n : KReg) (v : Word), c.kget 0 = 0 ∧ c.kput 0 v = c ∧ (n ≠ 0 → (c.kput n v).kget n = v))

/-- A sampler word over the working list: what it leaves in its context, and that it takes 4 + ceil(n / 16) or 8 + ceil(n / 4) cycles for n live entries
(12 R346, R355). A word that its PROB does not permit stops the context with `SAMPLER_STATE` (66), an operand out of range with `SAMPLER_RANGE` (65).
Where the spec leaves room, the model's own choices: log 72. -/
def Obligations.SamplerListWords : Prop :=
  ∀ (s : State) (d a : KReg), s.LaneRuns →
    let c := s.word
    let p := (c.kget a).toNat
    let k := f32 (c.kf a)
    let four := 4 + (s.sctx.w.length + 15) / 16
    let eight := 8 + (s.sctx.w.length + 3) / 4
    (p ≤ c.depth → p ∈ c.needed → let w := rankSort (c.cand.getD p [])
      ∃ t, exec (.sld d a) s = .next t ∧
        s.LaneDoes t ({ c with w := w, prob := false, excl := [] }.kput d (BitVec.ofNat 64 w.length)) four) ∧
    (c.depth < p ∨ p ∉ c.needed → ∃ t, exec (.sld d a) s = .next t ∧ s.LaneStops t 65) ∧
    (c.prob = false → ∃ t c', exec (.spen a) s = .next t ∧ s.LaneDoes t c' four ∧ c' = { c with w := c'.w } ∧
      c'.w = rankSort (c.w.map (fun e => (e.1, BitVec.ofNat 32
        (toF32 (Machine.Num.sub (f32 e.2.toNat) (Machine.Num.mul k (Machine.Num.ofInt (c.recent.filter (fun t => t = e.1)).length)).1)).1)))) ∧
    (c.prob = true → ∃ t, exec (.spen a) s = .next t ∧ s.LaneStops t 66) ∧
    (c.prob = false → k.isNan = false → k.isZero = false → k.isNeg = false → ∃ t, exec (.sscale a) s = .next t ∧
      s.LaneDoes t { c with w := rankSort (c.w.map (fun e => (e.1, BitVec.ofNat 32 (f32Div e.2.toNat (c.kf a)).1))) } four) ∧
    (c.prob = false → k.isNan = true ∨ k.isZero = true ∨ k.isNeg = true → ∃ t, exec (.sscale a) s = .next t ∧ s.LaneStops t 65) ∧
    (∃ t, exec .smask s = .next t ∧
      s.LaneDoes t { c with w := if c.marked then c.w.filter (fun e => !c.excl.contains e.1) else c.w } four) ∧
    (∃ t, exec (.stopk a) s = .next t ∧ s.LaneDoes t { c with w := if p = 0 then c.w else c.w.take p } four) ∧
    (c.prob = false → ∃ t w, exec .ssoft s = .next t ∧ s.LaneDoes t { c with w := w, prob := true } eight ∧ w = c.softmax.w ∧
      (∀ e ∈ w, e.1 ∈ c.w.map Prod.fst)) ∧
    (c.prob = true → ∃ t, exec .ssoft s = .next t ∧ s.LaneStops t 66) ∧
    (c.prob = true → ∃ t w, exec (.stopp a) s = .next t ∧ s.LaneDoes t { c with w := w } four ∧ w = keepTo (c.kf a) 0 c.w ∧ w <+: c.w) ∧
    (c.prob = true → ∃ t w, exec (.sminp a) s = .next t ∧ s.LaneDoes t { c with w := w } four ∧ w.head? = c.w.head? ∧
      ∀ h r, c.w = h :: r → w = h :: r.filter (fun e => !ltF e.2.toNat (f32Mul (c.kf a) h.2.toNat).1)) ∧
    (c.prob = true → ∃ t, exec .snorm s = .next t ∧
      s.LaneDoes t { c with w := rankSort (c.w.map (fun e => (e.1, BitVec.ofNat 32 (if isNormalF32 c.sum then (f32Div e.2.toNat c.sum).1
        else (toF32 (Machine.Num.div (.fin false 1 0) (.fin false c.w.length 0))).1)))) } four) ∧
    (c.prob = true → ∃ t v, exec (.spick d a) s = .next t ∧ s.LaneDoes t (c.kput d v) four ∧
      (v = BitVec.allOnes 64 ∧ c.w = [] ∨ ∃ e ∈ c.w, v = e.1.setWidth 64)) ∧
    (c.prob = false → (∃ t, exec (.stopp a) s = .next t ∧ s.LaneStops t 66) ∧ (∃ t, exec (.sminp a) s = .next t ∧ s.LaneStops t 66) ∧
      (∃ t, exec .snorm s = .next t ∧ s.LaneStops t 66) ∧ (∃ t, exec (.spick d a) s = .next t ∧ s.LaneStops t 66))

/-- Masks, drafts, acceptance and emission (12 R347 to R349): each word's effect on its context, and where it stops with `SAMPLER_RANGE` (65), `SAMPLER_STATE`
(66) or `SAMPLER_MEM` (68). An unmasked configuration excludes nothing, a stale mask everything. `SWAIT` with a stale mask keeps its lane and waits for the mask
or its time. Where the spec leaves room, the model's own choices: log 73 and 75. -/
def Obligations.SamplerMasksAndDrafts : Prop :=
  ∀ (s : State) (d a b : KReg), s.LaneRuns →
    let c := s.word
    let p := (c.kget a).toNat
    let j := (c.kget b).toNat
    (c.depth < p → ∃ t, exec (.sldm d a) s = .next t ∧ s.LaneStops t 65) ∧
    (p ≤ c.depth → c.cfg.grammar = false →
      ∃ t, exec (.sldm d a) s = .next t ∧ s.LaneDoes t ({ c with marked := true, excl := [] }.kput d 1) 1) ∧
    (p ≤ c.depth → c.cfg.grammar = true → s.maskValid c p = some false →
      ∃ t n, exec (.sldm d a) s = .next t ∧ 1 ≤ n ∧ s.LaneDoes t ({ c with marked := true, excl := c.w.map Prod.fst }.kput d 0) n) ∧
    (p ≤ c.depth → c.cfg.grammar = true → s.maskValid c p = some true →
      (∀ e ∈ c.w, s.homeBad (c.maskSlot p + 128 + e.1.toNat / 8) 1 = false) →
      ∃ t n, exec (.sldm d a) s = .next t ∧ 1 ≤ n ∧
        s.LaneDoes t ({ c with marked := true, excl := (c.w.map Prod.fst).filter (fun x => !s.maskAllows c p x) }.kput d 1) n) ∧
    (p ≤ c.depth → c.cfg.grammar = true → s.maskValid c p = none → ∃ t, exec (.sldm d a) s = .next t ∧ s.LaneStops t 68) ∧
    (c.depth < p ∨ 2 ^ 20 < j → ∃ t, exec (.swait d a b) s = .next t ∧ s.LaneStops t 65) ∧
    (p ≤ c.depth → j ≤ 2 ^ 20 → c.cfg.grammar = false ∨ s.maskValid c p = some true →
      ∃ t, exec (.swait d a b) s = .next t ∧ s.LaneDoes t (c.kput d 1) 1) ∧
    (p ≤ c.depth → j ≤ 2 ^ 20 → c.cfg.grammar = true → s.maskValid c p = some false →
      ∃ t m, exec (.swait d a b) s = .next t ∧
        t.sctxOf s.lane.1 s.lane.2 = { c with pc := s.sctx.pc, state := .maskwait, wait := some (d, p, s.now + j) } ∧
        s.SameButContexts t ∧ s.now < m ∧ t.agenda = s.agenda ++ [⟨m, .event .maskHeaderPoll { a := s.lane.1, b := s.lane.2 }⟩,
          ⟨s.now + j, .event .swaitTimeout { a := s.lane.1, b := s.lane.2 }⟩]) ∧
    ((c.kget a).getLsbD 63 = true → ∃ t, exec (.semit a) s = .next t ∧ s.LaneDoes t c 1) ∧
    ((c.kget a).getLsbD 63 = false → c.out.length < 9 →
      ∃ t, exec (.semit a) s = .next t ∧ s.LaneDoes t { c with out := c.out ++ [BitVec.ofNat 32 (c.kget a).toNat] } 1) ∧
    ((c.kget a).getLsbD 63 = false → 9 ≤ c.out.length → ∃ t, exec (.semit a) s = .next t ∧ s.LaneStops t 65) ∧
    (c.verify = false → c.prob = true → j < c.depth → j < 8 →
      ∃ t c', exec (.semitD a b) s = .next t ∧ s.LaneDoes t c' (8 + (s.sctx.w.length + 3) / 4) ∧
        c' = { c with drafts := c'.drafts, drafted := some (BitVec.ofNat 32 (c.kget a).toNat) } ∧
        c'.draft j = ⟨BitVec.ofNat 32 (c.kget a).toNat, BitVec.ofNat 32 (valueIn c.w (BitVec.ofNat 32 (c.kget a).toNat)), c.w.take 32⟩ ∧
        ∀ i, i ≠ j → c'.draft i = c.draft i) ∧
    (c.verify = true ∨ c.prob = false → ∃ t, exec (.semitD a b) s = .next t ∧ s.LaneStops t 66) ∧
    (c.prob = true → p < c.depth → let x := c.draft p
      ∃ t, exec (.sratio d a) s = .next t ∧ s.LaneDoes t (c.kputf d (if geF (valueIn c.w x.tok) x.q.toNat then 0x3F800000
        else (f32Div (valueIn c.w x.tok) x.q.toNat).1)) 1) ∧
    (c.prob = true → p < c.depth → ∃ t w, exec (.sresid a) s = .next t ∧ s.LaneDoes t { c with w := w } (8 + (s.sctx.w.length + 3) / 4) ∧
      w = (c.residual p).w) ∧
    (c.prob = true → c.depth ≤ p → (∃ t, exec (.sratio d a) s = .next t ∧ s.LaneStops t 65) ∧ (∃ t, exec (.sresid a) s = .next t ∧ s.LaneStops t 65)) ∧
    (c.prob = false → (∃ t, exec (.sratio d a) s = .next t ∧ s.LaneStops t 66) ∧ (∃ t, exec (.sresid a) s = .next t ∧ s.LaneStops t 66)) ∧
    (let m := p % 256 % 2 ^ c.depth
     let n := onesFrom m c.depth
     (c.verify = true → c.accDone = false → n + c.out.length ≤ 9 →
      ∃ t, exec (.saccept d a) s = .next t ∧ s.LaneDoes t ({ c with
        pass := BitVec.ofNat 8 m, acc := n, accDone := true, out := (List.range n).map (fun j => (c.draft j).tok) ++ c.out }.kput d (BitVec.ofNat 64 n)) 1) ∧
     (c.verify = true → c.accDone = false → 9 < n + c.out.length → ∃ t, exec (.saccept d a) s = .next t ∧ s.LaneStops t 65) ∧
     (c.verify = false ∨ c.accDone = true → ∃ t, exec (.saccept d a) s = .next t ∧ s.LaneStops t 66))

/-- A free lane goes to the context that has been ready longest, which starts its step; a waiting context's mask header is read again until the mask is valid
or its time is over, and the context then goes on; `SEND` writes the verdict, frees the lane and begins the next step; a context that waits for a shard goes on
where F3 could remap it onto a surviving die, and stops with `DIE_LOST` (53) where it could not (12 R335 to R337, R348, R352, R353, 22 R513).
Where the spec leaves room, the model's own choices: log 70, 73 and 75. -/
def Obligations.SamplerEvents : Prop :=
  (∀ (s : State) (d x : Nat), s.args.a = d → (s.dieOf d).sampler.lanes.length < 8 → (s.dieOf d).sampler.oldest s.now = some x →
    let e := (s.dieOf d).sampler.table.getD (s.sctxOf d x).cfg.prog 0
    ∃ t, exec .samplerLaneGrant s = .next t ∧ t.sctxOf d x = (s.sctxOf d x).startStep e ∧ (t.sctxOf d x).state = .running ∧ (t.sctxOf d x).pc = e ∧
      (t.dieOf d).sampler.lanes = (s.dieOf d).sampler.lanes ++ [x] ∧ ⟨s.now + 1, .lane d x⟩ ∈ t.agenda ∧ t.mem = s.mem) ∧
  (∀ (s : State) (d x : Nat) (k : KReg) (p n : Nat), s.args.a = d → s.args.b = x → (s.sctxOf d x).state = .maskwait →
    (s.sctxOf d x).wait = some (k, p, n) →
    (s.maskValid (s.sctxOf d x) p = some true → ∃ t, exec .maskHeaderPoll s = .next t ∧
      t.sctxOf d x = { (s.sctxOf d x).kput k 1 with state := .running, pc := (s.sctxOf d x).pc + 1, wait := none } ∧ ⟨s.now + 1, .lane d x⟩ ∈ t.agenda) ∧
    (s.maskValid (s.sctxOf d x) p = some false → ∃ t m, exec .maskHeaderPoll s = .next t ∧ t.sctxOf d x = s.sctxOf d x ∧ s.now < m ∧
      ⟨m, .event .maskHeaderPoll { a := d, b := x }⟩ ∈ t.agenda) ∧
    (s.maskValid (s.sctxOf d x) p = none → ∃ t, exec .maskHeaderPoll s = .next t ∧ (t.sctxOf d x).state = .stopped ∧
      (t.sctxOf d x).stop = some (68, (s.sctxOf d x).pc, (s.sctxOf d x).step)) ∧
    (n ≤ s.now → ∃ t, exec .swaitTimeout s = .next t ∧
      t.sctxOf d x = { (s.sctxOf d x).kput k 0 with state := .running, pc := (s.sctxOf d x).pc + 1, wait := none } ∧ ⟨s.now + 1, .lane d x⟩ ∈ t.agenda)) ∧
  (∀ (s : State), MemOk s → s.LaneRuns →
    let c := s.sctx
    ∃ t n, exec .send s = .next t ∧ t.sctxOf s.lane.1 s.lane.2 = n ∧ n.step = c.step + 1 ∧
      (c.short = none → n.state = .waiting ∨ n.state = .ready) ∧ (c.short.isSome = true → n.state = .awaitReshard ∧ n.delivered = []) ∧
      (c.verify = true → n.phase = 0 ∧ n.iter = c.iter + 1 ∧ n.depth = (c.nextDepth s.now).1) ∧
      (c.verify = false → n.phase = c.phase + 1 ∧ n.iter = c.iter ∧ n.depth = c.depth) ∧
      n.k = c.k ∧ n.seed = c.seed ∧ n.drafts = c.drafts ∧ s.lane.2 ∉ (t.dieOf s.lane.1).sampler.lanes ∧
      (s.migrations = [] → t.homeRead (c.cfg.vaddr.toNat % 2 ^ 40) 64 = c.verdict (s.masked c c.depth))) ∧
  (∀ (s : State) (d x : Nat), s.args.a = d → s.args.b = x → (s.sctxOf d x).state = .awaitReshard →
    (s.args.flag = true → (∃ e < 8, (s.dieOf e).lost = false) →
      ∃ t e, exec .reshardDone s = .next t ∧ t.sctxOf d x = { s.sctxOf d x with state := .waiting } ∧ e < 8 ∧ (s.dieOf e).lost = false ∧
        ∀ c, s.colls.find? s.args.word.toNat = some c → t.colls.find? s.args.word.toNat = some { c with moved := c.moved.set s.args.c e }) ∧
    (s.args.flag = false ∨ (∀ e < 8, (s.dieOf e).lost = true) → ∃ t, exec .reshardDone s = .next t ∧ (t.sctxOf d x).state = .stopped ∧
      (t.sctxOf d x).stop = some (53, (s.sctxOf d x).pc, (s.sctxOf d x).step)))

/-! ### The host's side and the firmware (19 R429, R450 to R454, 21 R485 to R496, 03 R99) -/

/-- Requests are taken in slot order up to REQTAIL: an unknown command is answered with status 1, a malformed header with 3, one not permitted with 2, `VERSION`
runs on F0, any other is forwarded to its core, which runs its commands one after the other; the core's response comes back through F0 into the function's
mailbox, with MSI-X vector 0. An aperture access and a peer's write are performed at their homes; a write past the 40-bit space is a fault.
Where the spec leaves room, the model's own choices: log 22, 54, 59 and 88. -/
def Obligations.HostAccesses : Prop :=
  (∀ (s : State) (fn : Option Nat) (v : Word), s.args.fn = fn → s.args.word = v → s.ready = true →
    let n := (v.setWidth 32 - (s.klotaOf fn).reqHead).toNat
    let m := if fn.isSome then 8 else 64
    (n ≤ m → ∃ t, exec .reqtailWrite s = .next t ∧ (t.klotaOf fn).reqTail = v.setWidth 32 ∧ (t.klotaOf fn).reqHead = v.setWidth 32 ∧ t.mem = s.mem) ∧
    (m < n → ∃ t, exec .reqtailWrite s = .next t ∧ (t.klotaOf fn).reqHead = (s.klotaOf fn).reqHead ∧
      (fn = none → t.fatal = true) ∧ (fn.isSome = true → (t.klotaOf fn).fatal = true)) ∧
    (n = 1 → let b := (s.args.slots.getD 0 ([], [])).1
      let r := reqOfSlot fn b (s.args.slots.getD 0 ([], [])).2
      ∃ t, exec .reqtailWrite s = .next t ∧
        (cmdCore r.cmd = none → (t.klotaOf fn).waiting = (s.klotaOf fn).waiting ++ [bytesOf 4 r.tag.toNat ++ bytesOf 2 1 ++ bytesOf 2 0 ++ bytesOf 8 0]) ∧
        ((cmdCore r.cmd).isSome = true → slotOk b = false →
          (t.klotaOf fn).waiting = (s.klotaOf fn).waiting ++ [bytesOf 4 r.tag.toNat ++ bytesOf 2 3 ++ bytesOf 2 0 ++ bytesOf 8 0]) ∧
        (slotOk b = true → r.cmd = 0x01 → ⟨s.now + 1, .event .version { req := r }⟩ ∈ t.agenda) ∧
        (∀ c, cmdCore r.cmd = some c → c ≠ 0 → slotOk b = true → fn = none → ⟨0x0101, 0, c, [], none, some r⟩ ∈ t.mail))) ∧
  (∀ (s : State) (fn : Option Nat) (b : List Byte) (rest : List (List Byte)), s.args.fn = fn → (s.klotaOf fn).waiting = b :: rest →
    let k := s.klotaOf fn
    let m := if fn.isSome then 8 else 64
    (k.rspTail - k.rspHead).toNat < m → ∃ t, exec .klotaResponse s = .next t ∧ (t.klotaOf fn).rsps.find? (k.rspTail.toNat % m) = some b ∧
      (t.klotaOf fn).rspTail = k.rspTail + 1 ∧ (t.klotaOf fn).waiting = rest ∧ t.outbox = s.outbox ++ [.msix fn 0]) ∧
  (∀ (s : State) (fn : Option Nat), s.args.fn = fn →
    ∃ t, exec .rspheadWrite s = .next t ∧ t.klotaOf fn = { s.klotaOf fn with rspHead := s.args.word.setWidth 32 } ∧
      ∃ e ∈ t.agenda, e.move = .event .klotaResponse { fn := fn }) ∧
  (∀ (s : State) (c : Fin 8) (m : Msg) (r : KReq), s.args.a = c.val → s.Receives (fun m => m.type = 0x0101 && m.dst = c) m → m.req = some r →
    s.coreBusy c = false →
    (∀ i, commandEvent r = some i → ∃ t, exec .msgKlotaForward s = .next t ∧ t.mail = s.mail.erase m ∧
      ⟨s.now, .event i { req := r }⟩ ∈ t.agenda) ∧
    (commandEvent r = none → cmdCore r.cmd = some c → c ≠ 0 → ∃ t, exec .msgKlotaForward s = .next t ∧ t.Answered c r 3 [])) ∧
  (∀ (s : State) (c : Fin 8) (m : Msg) (r : KReq) (st : Nat) (p : List Byte), s.args.a = c.val →
    s.Receives (fun m => m.type = 0x0102 && m.src = c) m → m.req = some r → m.payload = st :: p.map (·.toNat) →
    ∃ t, exec .msgKlotaResponse s = .next t ∧ t.mail = s.mail.erase m ∧ (t.klotaOf r.fn).waiting = (s.klotaOf r.fn).waiting ++
      [bytesOf 4 r.tag.toNat ++ bytesOf 2 st ++ bytesOf 2 p.length ++ bytesOf 8 0 ++ p]) ∧
  (∀ (s : State), let r := s.args.req
    ∃ t, exec .version s = .next t ∧ (t.klotaOf r.fn).waiting = (s.klotaOf r.fn).waiting ++ [bytesOf 4 r.tag.toNat ++ bytesOf 2 0 ++ bytesOf 2 64 ++
      bytesOf 8 0 ++ ((List.range 8).map (fun i => bytesOf 8 (Config.fwVersion i).toNat)).flatten]) ∧
  (∀ (s : State) (v : Nat), s.args.a = v → let x := s.vfs.getD v Vf.init
    let va := (x.apbase.toNat + s.args.b % 2 ^ 32) % 2 ^ 64
    (∀ u, x.part.isSome = true → s.args.flag = true → s.vaWrite x.aperture va s.args.data = some u → exec .apertureAccess s = .next u) ∧
    (∀ b, x.part.isSome = true → s.args.flag = false → s.vaRead x.aperture va s.args.c = some b →
      ∃ t, exec .apertureAccess s = .next t ∧ t.outbox = s.outbox ++ [.apRead v b] ∧ t.mem = s.mem) ∧
    (x.part = none → ∃ t, exec .apertureAccess s = .next t ∧ (t.vfs.getD v Vf.init).apErrors = x.apErrors + 1 ∧ t.mem = s.mem ∧
      (s.args.flag = false → t.outbox = s.outbox ++ [.apRead v (List.replicate s.args.c 0xFF)]))) ∧
  (∀ (s : State), MemOk s →
    (s.args.b + s.args.data.length ≤ 2 ^ 40 → ∃ t, exec .peerWrite s = .next t ∧
      (s.migrations = [] → t.memRead s.args.b s.args.data.length = s.args.data ∧
        ∀ a, a < s.args.b ∨ s.args.b + s.args.data.length ≤ a → t.memRead a 1 = s.memRead a 1)) ∧
    (2 ^ 40 < s.args.b + s.args.data.length → exec .peerWrite s = .fault (.noSuchAddress s.args.b)))

/-- Commands of F1, F5, F6 and F7: each, where its checks pass, changes the table or register that it names and answers 0; an empty payload answers
`INVALID_ARG`. A `PART_SET` comes into force at the next multiple of 1,024 cycles.
Where the spec leaves room, the model's own choices: log 28, 57, 58 and 62. -/
def Obligations.FirmwareRequests : Prop :=
  (∀ (s : State) (e : Instr × Nat × Fin 8), s.args.req.cmd = e.2.1 → s.args.req.payload = [] → s.args.flag = false →
    e ∈ [(.queueCreate, 0x20, 1), (.queueDestroy, 0x21, 1), (.queueQuery, 0x22, 1), (.poolCap, 0x23, 1), (.resync, 0x02, 1), (.partSet, 0x10, 7),
      (.vfAssign, 0x11, 7), (.uccfgSet, 0x12, 7), (.shapeSet, 0x13, 7), (.pkgSet, 0x14, 7), (.mapStage1, 0x30, 2), (.mapStage2, 0x30, 2),
      (.mapContextDesc, 0x30, 2), (.mapS2Root, 0x30, 2), (.unmapStage1, 0x31, 2), (.unmapStage2, 0x31, 2), (.pinUnpin, 0x32, 2), (.pinPin, 0x32, 2),
      (.pinBacking, 0x32, 2), (.shelfLoad, 0x40, 5), (.attest, 0x41, 5), (.samplerProg, 0x50, 4), (.samplerBind, 0x51, 4), (.samplerUnbind, 0x52, 4),
      (.vocabLoadImage, 0x53, 4), (.vocabLoadService, 0x53, 4), (.vocabLoadRing, 0x53, 4), (.vocabLoadGrammar, 0x53, 4), (.telemetry, 0x60, 6),
      (.budgetSet, 0x61, 6)] →
    ∃ t, exec e.1 s = .next t ∧ t.Answered e.2.2 s.args.req 3 [] ∧ t.mem = s.mem ∧ t.queues = s.queues ∧ t.s1 = s.s1 ∧ t.s2 = s.s2) ∧
  (∀ (s : State) (r : KReq), s.args.req = r → r.cmd = 0x20 → 22 ≤ r.payload.length → reqField r 0 2 < 4096 →
    let q := reqField r 0 2
    let n := BitVec.ofNat 32 (reqField r 18 4)
    let e : Queue := ⟨BitVec.ofNat 64 (reqField r 2 8) ||| 0x8000000000000000, reqField r 10 8, n, n, 0, 0, false, false, false⟩
    (s.queueOf q).valid = false → queueFieldsOk (reqField r 2 8) (reqField r 10 8) = true → e.die ∈ s.diesOf e.part → (s.ctxOf e.ctx).desc = true →
    e.direct = true ∨ s.framesAll e.base (128 * e.size) (fun x => x.1 = (s.ctxOf e.ctx).vf && entPinned x.2.2.2) = true →
    ∃ t, exec .queueCreate s = .next t ∧ t.queueOf q = e ∧ e.valid = true ∧ (∀ k, k ≠ q → t.queueOf k = s.queueOf k) ∧ t.Answered 1 r 0 []) ∧
  (∀ (s : State) (r : KReq), s.args.req = r → r.cmd = 0x21 → 2 ≤ r.payload.length → let q := reqField r 0 2
    (s.queueOf q).valid = true →
    ((s.queueOf q).wseq = (s.queueOf q).rseq → s.queueBusy q = false →
      ∃ t, exec .queueDestroy s = .next t ∧ (t.queueOf q).valid = false ∧ t.Answered 1 r 0 []) ∧
    ((s.queueOf q).wseq ≠ (s.queueOf q).rseq ∨ s.queueBusy q = true → ∃ t, exec .queueDestroy s = .next t ∧ t.queues = s.queues ∧ t.Answered 1 r 4 [])) ∧
  (∀ (s : State) (r : KReq), s.args.req = r → r.cmd = 0x22 → 2 ≤ r.payload.length → reqField r 0 2 < 4096 →
    ∃ t, exec .queueQuery s = .next t ∧ t.queues = s.queues ∧ t.Answered 1 r 0 (s.queueOf (reqField r 0 2)).bytes) ∧
  (∀ (s : State) (r : KReq), s.args.req = r → r.cmd = 0x23 → 4 ≤ r.payload.length → reqField r 0 1 ≤ 7 → reqField r 1 1 ≤ 15 → 1 ≤ reqField r 2 2 →
    reqField r 2 2 ≤ 1024 →
    ∃ t, exec .poolCap s = .next t ∧ (t.dieOf (reqField r 0 1)).caps.find? (reqField r 1 1) = some (reqField r 2 2) ∧ t.Answered 1 r 0 []) ∧
  (∀ (s : State) (r : KReq), s.args.req = r → r.cmd = 0x02 → 12 ≤ r.payload.length → 115328 ≤ reqField r 8 4 →
    ∃ t, exec .resync s = .next t ∧ t.outbox = s.outbox ++ [.bulk r.fn (BitVec.ofNat 64 (reqField r 0 8)) s.summary] ∧ t.Answered 1 r 0 []) ∧
  (∀ (s : State) (r : KReq), s.args.req = r → r.cmd = 0x10 → 68 ≤ r.payload.length → reqField r 0 1 ≤ 15 → reqField r 1 3 = 0 →
    s.partSetCheck (reqField r 0 1) (sliceOf r.payload 4 64) = 0 →
    ∃ t, exec .partSet s = .next t ∧ t.parts = s.parts ∧ t.staged.find? (reqField r 0 1) = some (sliceOf r.payload 4 64, r) ∧
      ⟨0x0701, 7, 1, [reqField r 0 1], none, none⟩ ∈ t.mail ∧
      ∃ n, s.now < n ∧ n ≤ s.now + 1024 ∧ n % 1024 = 0 ∧ ⟨n, .event .partEntryInForce { a := reqField r 0 1 }⟩ ∈ t.agenda) ∧
  (∀ (s : State) (p : Nat) (b : List Byte) (r : KReq), s.args.a = p → s.staged.find? p = some (b, r) → r.cmd = 0x10 →
    ∃ t, exec .partEntryInForce s = .next t ∧ t.staged.find? p = none ∧ (s.partEntry p = [] → t.partEntry p = b) ∧
      (s.partEntry p ≠ [] → t.partEntry p = sliceOf b 0 38 ++ sliceOf (s.partEntry p) 38 26) ∧ t.Answered 7 r 0 []) ∧
  (∀ (s : State) (m : Msg), s.Receives (fun m => m.type = 0x0701) m → s.specsWhere (fun l => l.part = m.payload.headD 0) = [] →
    ∃ t, exec .msgPartitionChanged s = .next t ∧ t = { s with mail := s.mail.erase m }) ∧
  (∀ (s : State) (m : Msg), s.Receives (fun m => m.type = 0x0701) m → ∃ t, exec .msgPartitionChanged s = .next t ∧ t.mem = s.mem ∧ t.parts = s.parts) ∧
  (∀ (s : State) (r : KReq), s.args.req = r → r.cmd = 0x11 → 16 ≤ r.payload.length → reqField r 0 2 ≤ 191 → reqField r 3 1 = 0 → reqField r 6 2 = 0 →
    let v := reqField r 0 2
    let p := reqField r 2 1
    (p ≤ 15 → (s.vfs.getD v Vf.init).part = none → entryValid (s.partEntry p) = true → (vfList (s.partEntry p)).length < 12 → reqField r 4 2 < 4096 →
      ctxPart (reqField r 4 2) = p → reqField r 8 8 % 65536 = 0 →
      ∃ t, exec .vfAssign s = .next t ∧ (t.vfs.getD v Vf.init).part = some p ∧ (t.vfs.getD v Vf.init).aperture = reqField r 4 2 ∧
        (t.vfs.getD v Vf.init).apbase = BitVec.ofNat 64 (reqField r 8 8) ∧ t.Answered 7 r 0 []) ∧
    (∀ q, p = 255 → (s.vfs.getD v Vf.init).part = some q → (∀ e ∈ s.queues, ¬(e.2.valid = true ∧ e.2.vf = v)) →
      (∀ c ∈ s.ctxs, ¬(c.2.desc = true ∧ c.2.vf = v ∧ c.2.state ≠ .empty)) →
      ∃ t, exec .vfAssign s = .next t ∧ (t.vfs.getD v Vf.init).part = none ∧ t.Answered 7 r 0 [])) ∧
  (∀ (s : State) (r : KReq), s.args.req = r → r.cmd = 0x12 → 16 ≤ r.payload.length → reqField r 0 1 ≤ 7 → reqField r 8 8 / 2 ^ 8 = 0 →
    (reqField r 8 8).testBit 3 = false → ucMaxspec (BitVec.ofNat 64 (reqField r 8 8)) ≤ 8 → (s.dieOf (reqField r 0 1)).specs = [] →
    ∃ t, exec .uccfgSet s = .next t ∧ (t.dieOf (reqField r 0 1)).uccfg = BitVec.ofNat 64 (reqField r 8 8) ∧ t.Answered 7 r 0 []) ∧
  (∀ (s : State) (r : KReq), s.args.req = r → r.cmd = 0x13 → 9 ≤ r.payload.length → shapeOk (reqField r 1 8) = true →
    s.anyTask (fun e => e.shape = reqField r 0 1 && 1 ≤ e.state.val && e.state.val ≤ 4) = false →
    ∃ t, exec .shapeSet s = .next t ∧ t.shapes.find? (reqField r 0 1) = some (BitVec.ofNat 64 (reqField r 1 8)) ∧ t.Answered 7 r 0 []) ∧
  (∀ (s : State) (r : KReq), s.args.req = r → r.cmd = 0x14 → 2 ≤ r.payload.length → reqField r 0 2 ≤ 4095 →
    ((∀ c ∈ s.ctxs, c.2.state = .empty) → ∃ t, exec .pkgSet s = .next t ∧ t.pkg = reqField r 0 2 ∧ t.Answered 7 r 0 []) ∧
    ((∃ c ∈ s.ctxs, c.2.state ≠ .empty) → ∃ t, exec .pkgSet s = .next t ∧ t.pkg = s.pkg ∧ t.Answered 7 r 4 [])) ∧
  (∀ (s : State) (r : KReq), s.args.req = r → r.cmd = 0x61 → 4 ≤ r.payload.length → reqField r 0 1 ≤ 7 → reqField r 1 1 ≤ 15 →
    ∃ t, exec .budgetSet s = .next t ∧ ⟨0x0601, 6, 1, [coreKey (reqField r 0 1) (reqField r 1 1), reqField r 2 2], none, some r⟩ ∈ t.mail) ∧
  (∀ (s : State) (m : Msg) (k v : Nat), s.Receives (fun m => m.type = 0x0601) m → m.payload = [k, v] →
    (m.req = none → ∃ t, exec .msgBudgetChange s = .next t ∧ (t.coreOf k).refill = v ∧ (t.coreOf k).limit = (s.coreOf k).limit) ∧
    (∀ r, m.req = some r → r.cmd = 0x61 → ∃ t, exec .msgBudgetChange s = .next t ∧ (t.coreOf k).limit = v ∧
      (s.sensors = [] → (t.coreOf k).refill = v) ∧ (t.coreOf k).refill ≤ v ∧ t.Answered 6 r 0 [])) ∧
  (∀ (s : State) (r : KReq), s.args.req = r → r.cmd = 0x60 → 12 ≤ r.payload.length → reqField r 1 3 = 0 → 1 ≤ reqField r 8 4 → reqField r 8 4 ≤ 28 →
    reqField r 4 4 + reqField r 8 4 ≤ groupLen (reqField r 0 1) →
    ∃ t p, exec .telemetry s = .next t ∧ p.length = 8 * reqField r 8 4 ∧ t.Answered 6 r 0 p) ∧
  (∀ (s : State) (r : KReq), s.args.req = r → r.cmd = 0x40 → 24 ≤ r.payload.length → reqField r 0 4 < 16384 → reqField r 5 3 = 0 → reqField r 16 8 = 0 →
    s.anyTask (fun e => e.wid = reqField r 0 4 && e.state ≠ 0) = false → s.widMapped (reqField r 0 4) = false →
    ∃ t, exec .shelfLoad s = .next t ∧ t.wids.find? (reqField r 0 4) = none ∧ t.Answered 5 r 0 []) ∧
  (∀ (s u : State) (r : KReq) (pa : Nat), s.args.req = r → r.cmd = 0x40 → 24 ≤ r.payload.length → reqField r 0 4 < 16384 → reqField r 5 3 = 0 →
    0 < reqField r 16 8 → reqField r 16 8 ≤ 2 ^ 32 → s.anyTask (fun e => e.wid = reqField r 0 4 && e.state ≠ 0) = false →
    s.widMapped (reqField r 0 4) = false →
    (s.clearWid (reqField r 0 4)).findFrame ((reqField r 16 8 + 65535) / 65536 * 65536) 65536 = some (pa, u) →
    let d := sha256 (sliceOf r.bulk 0 (reqField r 16 8))
    (u.validWids.find? (fun e => e.2.digest = d)).isNone = true →
    ∃ t, exec .shelfLoad s = .next t ∧ t.wids.find? (reqField r 0 4) = some ⟨true, reqField r 4 1, pa, reqField r 16 8, d, 0⟩ ∧ t.Answered 5 r 0 []) ∧
  (∀ (s : State) (r : KReq), s.args.req = r → r.cmd = 0x41 → 48 ≤ r.payload.length → reqField r 12 4 = 0 →
    let b := s.report r.fn (sliceOf r.payload 16 32)
    let g := padTo 64 (Config.ecdsaSign false (sha256 b) s.ticket)
    let all := b ++ g ++ Config.certificate
    (all.length ≤ reqField r 8 4 → ∃ t, exec .attest s = .next t ∧ t.outbox = s.outbox ++ [.bulk r.fn (BitVec.ofNat 64 (reqField r 0 8)) all] ∧
      t.Answered 5 r 0 (bytesOf 4 (b.length + 64))) ∧
    (reqField r 8 4 < all.length → ∃ t, exec .attest s = .next t ∧ t.outbox = s.outbox ∧ t.Answered 5 r 3 []))

/-- `MAP`, `UNMAP` and `PIN` (20 R462, R463): a mapping of pages that replaces no leaf is written and answered at once, and then the tables translate by it; one that
replaces leaves waits for their holders to stop and answers when none is left. A context descriptor creates its context `EMPTY`.
Where the spec leaves room, the model's own choices: log 16 and 71. -/
def Obligations.PageRequests : Prop :=
  (∀ (s : State) (r : KReq) (m : Nat), s.args.req = r → r.cmd = 0x30 → s.args.flag = false → 40 ≤ r.payload.length →
    sizeLevel (reqField r 32 8 % 4) = some m →
    let id := reqField r 0 2
    let lo := reqField r 8 8
    let tgt := reqField r 16 8
    let len := reqField r 24 8
    let w (a : Nat) : Word := BitVec.ofNat 64 (reqField r 32 8 / 2 ^ 52 % 2 ^ 12 * 2 ^ 52 + (tgt + (a - lo)) + 2)
    (let s0 := s.ensureCtx id
     let u : State := { s0 with s1 := (pagesOf lo len (levelBytes m)).foldl (fun (t : Map Word) a =>
         putLeaf t 0 id m a (s0.shelfBits (s0.vfOf id) (tgt + (a - lo)) (levelBytes m) (w a))) s0.s1 }
     id < 4096 → rangeOk lo tgt len (levelBytes m) (2 ^ 48) = true → ((s0.ctxOf id).desc = true → s.fits u (s0.vfOf id) = true) →
     (leavesIn s0.s1 id lo len = [] → ∃ t, exec .mapStage1 s = .next t ∧ t.s1 = u.s1 ∧ t.Answered 2 r 0 []) ∧
     (leavesIn s0.s1 id lo len ≠ [] → ∃ t e, exec .mapStage1 s = .next t ∧ t.s1 = u.s1 ∧ e ∈ t.agenda ∧ e.due = s.now + 1 ∧
       ∃ g, e.move = .event .mapStage1 g ∧ g.flag = true ∧ g.req = r)) ∧
    (let u := ({ s with s2 := (pagesOf lo len (levelBytes m)).foldl (fun (t : Map Word) a => putLeaf t 1 id m a (w a)) s.s2 }).shelfAgain id
     id ≤ 191 → rangeOk lo tgt len (levelBytes m) (2 ^ 40) = true → s.fits u id = true →
     (leavesIn s.s2 id lo len = [] → ∃ t, exec .mapStage2 s = .next t ∧ t.s2 = u.s2 ∧ t.Answered 2 r 0 []) ∧
     (leavesIn s.s2 id lo len ≠ [] → ∃ t e, exec .mapStage2 s = .next t ∧ t.s2 = u.s2 ∧ e ∈ t.agenda ∧ e.due = s.now + 1 ∧
       ∃ g, e.move = .event .mapStage2 g ∧ g.flag = true ∧ g.req = r))) ∧
  (∀ (t : Map Word) (top id m a : Nat) (w : Word), top ≤ m → m ≤ 3 → a < 2 ^ 48 → entLeaf w = true →
    leafAt (putLeaf t top id m a w) top id a = some (m, w)) ∧
  (∀ (s : State) (r : KReq), s.args.req = r → s.args.flag = true → s.holders (Change.ofArgs s.args) = [] →
    (r.cmd = 0x30 → (∃ t, exec .mapStage1 s = .next t ∧ t.Answered 2 r 0 []) ∧ ∃ t, exec .mapStage2 s = .next t ∧ t.Answered 2 r 0 []) ∧
    (r.cmd = 0x31 → (∃ t, exec .unmapStage1 s = .next t ∧ t.Answered 2 r 0 []) ∧ ∃ t, exec .unmapStage2 s = .next t ∧ t.Answered 2 r 0 [])) ∧
  (∀ (s : State) (r : KReq) (m : Nat), s.args.req = r → r.cmd = 0x31 → s.args.flag = false → 32 ≤ r.payload.length →
    unmapLevel (reqField r 8 8) (reqField r 24 8) = some m →
    let id := reqField r 0 2
    let lo := reqField r 8 8
    let len := reqField r 24 8
    (id < 4096 → lo + len ≤ 2 ^ 48 → (s.ctxOf id).desc = false ∨ (leavesIn s.s1 id lo len).any
        (fun e => s.pinnedIn (s.vfOf id) (entAddr e.2.2) (levelBytes e.1)) = false →
      ∃ t, exec .unmapStage1 s = .next t ∧ t.s1 = (pagesOf lo len (levelBytes m)).foldl (fun (t : Map Word) a => dropLeaf t 0 id m a) s.s1 ∧
        t.s2 = s.s2 ∧ (leavesIn s.s1 id lo len = [] → t.Answered 2 r 0 [])) ∧
    (id ≤ 191 → lo + len ≤ 2 ^ 40 → s.pinnedIn id lo len = false →
      ∃ t, exec .unmapStage2 s = .next t ∧ t.s2 = (pagesOf lo len (levelBytes m)).foldl (fun (t : Map Word) a => dropLeaf t 1 id m a) s.s2 ∧
        (leavesIn s.s2 id lo len = [] → t.Answered 2 r 0 [])) ∧
    (id ≤ 191 → s.pinnedIn id lo len = true → ∃ t, exec .unmapStage2 s = .next t ∧ t.s2 = s.s2 ∧ t.Answered 2 r 3 [])) ∧
  (∀ (s : State) (r : KReq), s.args.req = r → r.cmd = 0x30 →
    let id := reqField r 0 2
    let b := sliceOf r.payload 8 64
    (72 ≤ r.payload.length → s.ctxDescOk id b = true → (s.ctxOf id).desc = false ∨ (s.ctxOf id).state = .empty →
      s.fits (s.describe id b) (fieldOf b 38 2) = true →
      ∃ t, exec .mapContextDesc s = .next t ∧ (t.ctxOf id).desc = true ∧ (t.ctxOf id).vf = fieldOf b 38 2 ∧
        (t.ctxOf id).savepool = BitVec.ofNat 64 (fieldOf b 8 8) ∧ (t.ctxOf id).savesize = fieldOf b 16 8 ∧
        (t.ctxOf id).dump = BitVec.ofNat 64 (fieldOf b 24 8) ∧ (t.ctxOf id).dumpsize = fieldOf b 32 4 ∧
        (t.ctxOf id).parkpolicy = BitVec.ofNat 8 (fieldOf b 36 1) ∧ t.Answered 2 r 0 []) ∧
    (16 ≤ r.payload.length → id ≤ 191 → reqField r 8 8 % 8192 = 0 → reqField r 8 8 < 2 ^ 40 →
      ∃ t, exec .mapS2Root s = .next t ∧ (t.vfs.getD id Vf.init).s2root = BitVec.ofNat 64 (reqField r 8 8) ∧ t.Answered 2 r 0 [])) ∧
  (∀ (s : State) (r : KReq), s.args.req = r → r.cmd = 0x32 → 32 ≤ r.payload.length →
    let v := reqField r 0 2
    let lo := reqField r 8 8
    let len := reqField r 24 8
    let hit (e : Nat × Word) : Bool := entLeaf e.2 && keyId e.1 = v && overlap (keyAddr e.1) (levelBytes (keyLevel e.1)) lo len
    v ≤ 191 → lo % 65536 = 0 → len % 65536 = 0 →
    (lo + len ≤ 2 ^ 40 →
      (∃ t, exec .pinPin s = .next t ∧ t.s2 = s.s2.map (fun e => if hit e then (e.1, e.2 ||| (1 : Word) <<< 51) else e) ∧ t.Answered 2 r 0 []) ∧
      (∃ t, exec .pinUnpin s = .next t ∧ t.s2 = s.s2.map (fun e => if hit e then (e.1, e.2 &&& ~~~((1 : Word) <<< 51)) else e) ∧ t.Answered 2 r 0 [])) ∧
    (∃ t, exec .pinBacking s = .next t ∧ (t.vfs.getD v Vf.init).backing = some (BitVec.ofNat 64 lo, len) ∧ t.Answered 2 r 0 []))

/-! ### Frames, power, and serving (20 R464 to R467, R477, R479, 21 R489, R490, R495, 22 R497 to R513) -/

/-- F2 serves a `PROBE` fault once the page translates, asks the host for a page that is not resident, and reports a stage-2 miss; a fault that is not served in
its time, or that F2 gives up, stays not served. Every leaf's ACC is sampled and cleared. A migration copies a line at a time and then moves the stage-2 leaf; an
uncorrectable error poisons its line and retires its frame, and an address past the 40-bit space is a fault. A parked task is freed, or freezes its context
where `PARKPOLICY` says so (13 R373). Where the spec leaves room, the model's own choices: log 22, 55 and 56. -/
def Obligations.FaultsAndFrames : Prop :=
  (∀ (s : State) (m : Msg) (id : Nat) (f : PFault), s.Receives (fun m => m.type = 0x0301) m → m.payload.headD 0 = id → s.faults.find? id = some f →
    f.state = 0 → (∀ x ∈ s.mail, ¬(x.type = 0x0302 ∧ x.payload.headD 0 = id)) →
    let h := (s.walk f.ctx f.vf (f.vpn * 65536)).1
    (h.valid = true → ∃ t, exec .msgProbeFault s = .next t ∧ ⟨0x0302, 2, 1, [id, 1], none, none⟩ ∈ t.mail) ∧
    (h.valid = false → h.miss = missStage2 → ∃ t, exec .msgProbeFault s = .next t ∧ t.faults.find? id = some { f with miss := h.miss.toNat } ∧
      t.outbox = s.outbox ++ [.msix none 1])) ∧
  (∀ (s : State) (id : Nat) (f : PFault), s.args.a = id → s.faults.find? id = some f → f.state = 0 →
    (∀ x ∈ s.mail, ¬(x.type = 0x0302 ∧ x.payload.headD 0 = id)) →
    let h := (s.walk f.ctx f.vf (f.vpn * 65536)).1
    (h.valid = true → ∃ t, exec .faultService s = .next t ∧ ⟨0x0302, 2, 1, [id, 1], none, none⟩ ∈ t.mail) ∧
    (∀ l w, h.valid = false → h.miss = missNotPresent → leafAt s.s1 0 f.ctx (f.vpn * 65536) = some (l, w) →
      let r := s.backRange f.vf (entAddr w) (levelBytes l)
      s.args.data.length ≠ r.2 → ∃ t, exec .faultService s = .next t ∧ t.outbox = s.outbox ++ [.backRead f.vf r.1 r.2] ∧ t.s2 = s.s2) ∧
    (∃ t, exec .probeFaultTimeout s = .next t ∧ t.faults.find? id = some { f with state := 2 })) ∧
  (∀ (s : State) (m : Msg) (id n : Nat) (f : PFault), s.Receives (fun m => m.type = 0x0302) m → m.payload = [id, n] → s.faults.find? id = some f →
    f.state = 0 → ∃ t, exec .msgFaultServed s = .next t ∧ t.mail = s.mail.erase m ∧
      t.faults.find? id = some { f with state := if n = 1 then 1 else 2 }) ∧
  (∀ (s : State), ∃ t, exec .accSample s = .next t ∧
    (∀ k, t.s1.find? k = (s.s1.find? k).map (fun w => if entLeaf w then w &&& ~~~((1 : Word) <<< 52) else w)) ∧
    (∀ k, t.s2.find? k = (s.s2.find? k).map (fun w => if entLeaf w then w &&& ~~~((1 : Word) <<< 52) else w)) ∧
    (∀ e ∈ s.resident2, (∀ d ∈ s.resident2, entAddr d.2.2.2 = entAddr e.2.2.2 → d = e) →
      t.ages.find? (entAddr e.2.2.2) = some (if e.2.2.2.getLsbD 52 then 0 else Nat.min 255 (s.ages.getD (entAddr e.2.2.2) 0 + 1))) ∧
    ⟨s.now + 2400000, .event .accSample {}⟩ ∈ t.agenda ∧ t.mem = s.mem) ∧
  (∀ (s : State) (k : Nat) (m : Migration), MemOk s → s.args.a = k → s.migrations.find? k = some m → 128 * m.copied < m.len →
    ∃ t d i, exec .migrationLineCopy s = .next t ∧ t.migrations.find? k = some { m with copied := m.copied + 1 } ∧
      t.memRead (m.new + 128 * m.copied) 128 = s.memRead (m.old + 128 * m.copied) 128 ∧
      (∀ a, a < m.new + 128 * m.copied ∨ m.new + 128 * m.copied + 128 ≤ a → t.memRead a 1 = s.memRead a 1) ∧
      s.now < d ∧ ⟨d, .event i { a := k }⟩ ∈ t.agenda ∧ (128 * m.copied + 128 < m.len → i = .migrationLineCopy) ∧
      (m.len ≤ 128 * m.copied + 128 → i = .migrationSwitch)) ∧
  (∀ (s : State) (k : Nat) (m : Migration), s.args.a = k → s.migrations.find? k = some m →
    (s.args.flag = false → ∃ t, exec .migrationSwitch s = .next t ∧ t.mem = s.mem ∧ (∀ i w, s.s2.find? i = some w → entType w = 2 → entAddr w = m.old →
        ∃ v, t.s2.find? i = some v ∧ v = (w &&& ~~~(0x000000FFFFFF0000#64)) ||| BitVec.ofNat 64 m.new) ∧
      (∀ i w, s.s2.find? i = some w → ¬(entType w = 2 ∧ entAddr w = m.old) → t.s2.find? i = some w) ∧
      ⟨s.now + 1, .event .migrationSwitch { s.args with flag := true }⟩ ∈ t.agenda) ∧
    (s.args.flag = true → s.holders ⟨true, m.vf, m.ipa, m.len⟩ = [] → (s.revoke ⟨true, m.vf, m.ipa, m.len⟩).oldNamed m = false →
      ∃ t, exec .migrationSwitch s = .next t ∧ t.migrations.find? k = none)) ∧
  (∀ (s : State) (a : Nat), s.args.a = a →
    (a < 2 ^ 40 → ∃ t, exec .hbmUncorrectable s = .next t ∧ a / 128 ∈ t.memPoison ∧ a / 65536 ∈ t.retiredFrames ∧ t.mem = s.mem) ∧
    (2 ^ 40 ≤ a → exec .hbmUncorrectable s = .fault (.noSuchAddress a))) ∧
  (∀ (s : State), ∃ t d, exec .linkCrcReplay s = .next t ∧ s.now < d ∧ t.mem = s.mem ∧
    t.agenda = s.agenda.map (fun e => if s.onLink e.move s.args.a s.args.b then { e with due := Nat.max e.due d } else e)) ∧
  (∀ (s : State) (m : Msg) (c e : Nat) (x : PoolEntry), s.Receives (fun m => m.type = 0x0401) m → m.payload = [c, e, x.flight] →
    (s.trow c).pool.find? e = some x → x.state = 5 → (s.jobs.find? x.job).isSome = true →
    ((s.ctxOf x.ctx).parkpolicy.getLsbD x.cause = false → ∃ t, exec .msgTaskParked s = .next t ∧ (t.trow c).pool.find? e = none ∧
      (t.jobOf x.job).slots[x.slot] = ⟨5, 0, x.rows⟩ ∧ t.flights.find? x.flight = none) ∧
    (∀ d, (s.ctxOf x.ctx).parkpolicy.getLsbD x.cause = true → s.ctxs.find? x.ctx = some d → d.state ≠ .frozen → d.state ≠ .dumping →
      ∃ t, exec .msgTaskParked s = .next t ∧ (t.ctxOf x.ctx).state = .frozen ∧ (t.ctxOf x.ctx).cause = 52))

/-- Power-on and a function-level reset of PF 0 leave the state after reset with its first boot stage due, apart from the clock and what has left the device. A
boot stage whose check fails sets DEVSTAT bit 1 and ends the boot; stage 4 clears HBM, stage 6 sets the time and Ethernet up, stage 7 makes the device ready. A
reading past its throttle limit lowers the refill of its dies' cores, one past its shutdown limit stops the device; a die with no job is gated after 1 ms.
Where the spec leaves room, the model's own choices: log 4 and 62 to 66. -/
def Obligations.PowerAndBoot : Prop :=
  (∀ (s : State) (i : Instr), i = .pfFlr ∨ i = .powerOn →
    ∃ t, exec i s = .next t ∧ t.agenda = [⟨s.now + 1, .event .bootStage {}⟩] ∧ t.now = s.now ∧ t.outbox = s.outbox ∧ t.boots = s.boots + 1 ∧
      { t with agenda := State.reset.agenda, now := 0, outbox := [], boots := 0, ticket := 0, nextId := 0 } =
        { State.reset with now := 0, outbox := [], boots := 0, ticket := 0, nextId := 0 }) ∧
  (∀ (s : State), s.ready = false → s.fatal = false → s.boot < 7 → let n := s.boot + 1
    (stageOk n = false → exec .bootStage s = .next { s with boot := n, fatal := true }) ∧
    (stageOk n = true → ∃ t, exec .bootStage s = .next t ∧ t.boot = n ∧ t.fatal = false ∧
      (n = 4 → t.mem = [] ∧ t.memPoison = []) ∧ (n ≠ 4 → t.mem = s.mem) ∧ (n = 6 → t.etherUp = true) ∧ (t.ready = true ↔ n = 7) ∧
      (n < 7 → ∃ d, s.now < d ∧ ⟨d, .event .bootStage {}⟩ ∈ t.agenda))) ∧
  (∀ (s : State) (q : Sensor) (a l : Nat), s.args.q = q → s.args.a = a → throttleAt q = some l → l < a → q ∉ s.sensors →
    ∃ t, exec .thermalThrottle s = .next t ∧ t.sensors = s.sensors ++ [q] ∧ ∀ d < 8, sensorOnDie q d = true → ∀ k ∈ coresOf d,
      ∃ v, ⟨0x0601, 6, 1, [k, v], none, none⟩ ∈ t.mail ∧ (2 ≤ (s.coreOf k).limit → 1 ≤ v ∧ v < (s.coreOf k).limit)) ∧
  (∀ (s : State) (q : Sensor), s.args.q = q → q ∈ s.sensors → s.args.a ≤ releaseAt q →
    ∃ t, exec .throttleRelease s = .next t ∧ t.sensors = s.sensors.erase q ∧ ∀ d < 8, sensorOnDie q d = true →
      (∀ p ∈ s.sensors.erase q, sensorOnDie p d = false) → ∀ k ∈ coresOf d, ⟨0x0601, 6, 1, [k, (s.coreOf k).limit], none, none⟩ ∈ t.mail) ∧
  (∀ (s : State), shutsDown s.args.q s.args.a = true → exec .thermalShutdown s = .next { s with fatal := true, supply := false, agenda := [] }) ∧
  (∀ (s : State) (d : Nat), s.args.a = d → (s.dieOf d).gated = false →
    (∀ e ∈ s.jobs, e.2.die = d → e.2.status ≠ .running ∧ e.2.status ≠ .resuming) →
    ((s.dieOf d).idleSince + 2400000 ≤ s.now → ∃ t, exec .idleDieGate s = .next t ∧ t.dieOf d = { s.dieOf d with gated := true }) ∧
    (s.now < (s.dieOf d).idleSince + 2400000 → ∃ t, exec .idleDieGate s = .next t ∧ t.dies = s.dies ∧
      ⟨(s.dieOf d).idleSince + 2400000, .event .idleDieGate s.args⟩ ∈ t.agenda))

/-- Commands of F4: programs and tables are loaded, a context is bound (`BUSY` unless it is `IDLE`, `INVALID_ARG` for a configuration that 12 R334 refuses) and
unbound, and a table entry of 22 R498 is installed unless a request in progress uses it.
Where the spec leaves room, the model's own choices: log 28, 74, 77 and 84. -/
def Obligations.ServingRequests : Prop :=
  (∀ (s : State) (r : KReq), s.args.req = r → r.cmd = 0x50 → reqField r 0 1 ≤ 7 →
    (∀ n, reqField r 1 1 = 0 → reqField r 4 2 = n → 6 + 4 * n ≤ r.payload.length → reqField r 2 2 + n ≤ 16384 →
      ∃ t, exec .samplerProg s = .next t ∧ t.Answered 4 r 0 [] ∧
        ∀ i < n, (t.dieOf (reqField r 0 1)).sampler.words.find? (reqField r 2 2 + i) = some (BitVec.ofNat 32 (reqField r (6 + 4 * i) 4))) ∧
    (reqField r 1 1 = 1 → 8 ≤ r.payload.length → reqField r 4 4 < 16384 →
      ∃ t, exec .samplerProg s = .next t ∧ t.Answered 4 r 0 [] ∧
        (t.dieOf (reqField r 0 1)).sampler.table.find? (reqField r 2 1) = some (reqField r 4 4))) ∧
  (∀ (s : State) (r : KReq), s.args.req = r → r.cmd = 0x51 → 131 ≤ r.payload.length → reqField r 0 1 ≤ 7 → reqField r 1 2 ≤ 1023 →
    let d := reqField r 0 1
    let x := reqField r 1 2
    let c := cfgOf (sliceOf r.payload 3 128)
    ((s.sctxOf d x).state = .idle → c.ok = true → ∃ t, exec .samplerBind s = .next t ∧ (t.sctxOf d x).state = .waiting ∧ (t.sctxOf d x).cfg = c ∧
      (t.sctxOf d x).seed = c.seed ∧ (t.sctxOf d x).step = 0 ∧ t.Answered 4 r 0 []) ∧
    ((s.sctxOf d x).state ≠ .idle → ∃ t, exec .samplerBind s = .next t ∧ t.sctxOf d x = s.sctxOf d x ∧ t.Answered 4 r 4 []) ∧
    ((s.sctxOf d x).state = .idle → c.ok = false → ∃ t, exec .samplerBind s = .next t ∧ t.sctxOf d x = s.sctxOf d x ∧ t.Answered 4 r 3 [])) ∧
  (∀ (s : State) (r : KReq), s.args.req = r → r.cmd = 0x52 → 3 ≤ r.payload.length → reqField r 0 1 ≤ 7 → reqField r 1 2 ≤ 1023 →
    ∃ t, exec .samplerUnbind s = .next t ∧ (t.sctxOf (reqField r 0 1) (reqField r 1 2)).state = .idle ∧
      reqField r 1 2 ∉ (t.dieOf (reqField r 0 1)).sampler.lanes ∧ t.Answered 4 r 0 []) ∧
  (∀ (s : State) (r : KReq), s.args.req = r → r.cmd = 0x53 → reqField r 1 3 = 0 →
    (let i := reqField r 4 1
     let v := sliceOf r.bulk 0 (reqField r 20 8)
     28 ≤ r.payload.length → i ≤ 15 → reqField r 5 7 = 0 → vocOk v = true →
     (s.inUse (fun q => q.vocab = i) = false → ∃ t, exec .vocabLoadImage s = .next t ∧ t.vocabs.find? i = some v ∧ t.Answered 4 r 0 []) ∧
     (s.inUse (fun q => q.vocab = i) = true → ∃ t, exec .vocabLoadImage s = .next t ∧ t.vocabs = s.vocabs ∧ t.Answered 4 r 4 [])) ∧
    (let b := sliceOf r.payload 4 16
     20 ≤ r.payload.length → serviceOk b = true → s.inUse (fun q => q.service = fieldOf b 0 4) = false →
     ∃ t, exec .vocabLoadService s = .next t ∧ t.services.find? (fieldOf b 0 4) = some b ∧ t.Answered 4 r 0 []) ∧
    (let b := sliceOf r.payload 4 200
     204 ≤ r.payload.length → ringOk b = true → s.pinnedFrames (fieldOf b 152 8) 65536 = true → s.inUse (fun q => q.ring = fieldOf b 0 1) = false →
     ∃ t, exec .vocabLoadRing s = .next t ∧ t.rings.find? (fieldOf b 0 1) = some b ∧ t.Answered 4 r 0 []) ∧
    (let b := sliceOf r.payload 4 32
     let f (i n : Nat) : Nat := fieldOf b i n
     let q := s.queueOf (f 6 2)
     36 ≤ r.payload.length → f 0 4 ≠ 0 → f 4 2 ≤ 191 → f 28 4 = 0 → q.valid = true → q.direct = false → q.vf = f 4 2 → f 16 8 % 128 = 0 →
     1 ≤ f 24 4 → f 24 4 ≤ 1024 → f 16 8 + f 24 4 * maskRegionBytes ≤ 2 ^ 40 → s.pinnedFrames (f 16 8) (f 24 4 * maskRegionBytes) = true →
     s.inUse (fun q => (q.region.map (fun g => (g.1, g.2.1))) = some (f 0 4, f 4 2)) = false →
     ∃ t, exec .vocabLoadGrammar s = .next t ∧ b ∈ t.grammars ∧ (∀ g ∈ t.grammars, sameGrammar g b = true → g = b) ∧ t.Answered 4 r 0 []))

/-- Serving. A session opens on a port that has room and closes with its requests; an envelope that breaks a rule is answered with FINISH 5, one without a free context
with 6, and one that is admitted binds a context and goes to a tokeniser engine, which sends its tokens to the first stage; a detokeniser engine takes the tokens
of a request one by one, and ends it at the end token (FINISH 1), at MAXTOK (3) or at the stop of its context (4); once its final frame is accepted the context is
idle. A beacon goes to each router; once Ethernet is up a time that F4 asks for changes nothing at once: what is left to it is slewed, a nanosecond a cycle at most.
Where the spec leaves room, the model's own choices: log 67 and 79 to 83. -/
def Obligations.Serving : Prop :=
  (∀ (s : State), s.etherUp = true → s.sessions.find? s.args.a = none →
    (∃ p < 8, (List.filter (fun e : Nat × Session => e.2.port = p) s.sessions).length < 8192) →
    ∃ t p, exec .sessionOpen s = .next t ∧ p < 8 ∧ t.sessions.find? s.args.a = some ⟨p, s.args.data, 0⟩ ∧
      (List.filter (fun e : Nat × Session => e.2.port = p) s.sessions).length < 8192) ∧
  (∀ (s : State), ∃ t, exec .sessionClose s = .next t ∧ t.sessions.find? s.args.a = none ∧ t.outbox = s.outbox ∧
    ∀ k r, s.requests.find? k = some r → r.session = s.args.a → ∃ r', t.requests.find? k = some r' ∧ r'.finished = true) ∧
  (∀ (s : State) (x : Session), s.sessions.find? s.args.a = some x →
    exec .packetAuthFail s = .next { s with sessions := s.sessions.set s.args.a { x with authFails := x.authFails + 1 } }) ∧
  (∀ (s : State) (m : List Byte), s.args.data = m → s.etherUp = true → s.ready = true → (s.sessions.find? s.args.a).isSome = true →
    let final (fin prompt : Nat) : Out := .frame s.args.a (s.dscp (fieldOf m 4 4))
      (frameBytes (BitVec.ofNat 64 (fieldOf m 8 8)) 0 [] (trailerBytes fin prompt 0 0))
    (envelopeParts m = none ∨ s.services.find? (fieldOf m 4 4) = none →
      ∃ t, exec .envelopeArrival s = .next t ∧ t.outbox = s.outbox ++ [final 5 0] ∧ t.requests = s.requests) ∧
    (∀ parts service ring v, envelopeParts m = some parts → s.services.find? (fieldOf m 4 4) = some service →
      s.rings.find? (fieldOf service 7 1) = some ring → s.vocabs.find? (fieldOf service 6 1) = some v →
      let n := (tokenise v parts.2).length
      let d := fieldOf ring 3 1
      (fieldOf service 8 4 < n + fieldOf m 16 4 →
        ∃ t, exec .envelopeArrival s = .next t ∧ t.outbox = s.outbox ++ [final 5 n] ∧ t.requests = s.requests) ∧
      (n + fieldOf m 16 4 ≤ fieldOf service 8 4 → ((s.dieOf d).sampler.table.find? (fieldOf m 24 1)).isSome = true →
        (s.idleCtx d = none → ∃ t, exec .envelopeArrival s = .next t ∧ t.outbox = s.outbox ++ [final 6 n] ∧ t.requests = s.requests) ∧
        (∀ x, s.idleCtx d = some x → fieldOf m 20 4 = 0 → (cfgOf (servedBlock m service ring x 0)).ok = true →
          ∃ t r, exec .envelopeArrival s = .next t ∧ t.requests.find? s.nextId = some r ∧ r.session = s.args.a ∧
            r.reqid = BitVec.ofNat 64 (fieldOf m 8 8) ∧ r.die = d ∧ r.ctx = x ∧ r.prompt = n ∧ r.text = parts.2 ∧ r.stops = parts.1 ∧ r.gen = 0 ∧
            r.finished = false ∧ (t.sctxOf d x).state = .waiting ∧ (t.sctxOf d x).cfg = cfgOf (servedBlock m service ring x 0) ∧
            ∃ e, s.nextId ∈ t.tokQ.getD e [])))) ∧
  (∀ (s : State) (e k : Nat) (rest : List Nat) (r : Request), s.args.a = e → s.tokQ.getD e [] = k :: rest → s.requests.find? k = some r →
    r.finished = false →
    let p := BitVec.ofNat 64 (fieldOf (s.rings.getD r.ring []) 136 8)
    let ts := tokenise (s.vocabs.getD r.vocab []) r.text
    faPkg p = s.pkg → ∃ t, exec .tokenise s = .next t ∧ t.tokQ.getD e [] = rest ∧ t.requests = s.requests ∧
      ∀ i (h : i < ts.length), ∃ n, t.fmsgs.find? n = some ⟨tokeniserKey k, p, BitVec.ofNat 16 i, 0, bytesOf 4 ts[i], false⟩) ∧
  (∀ (s : State) (e k : Nat) (rest : List DetokItem) (r : Request), s.args.a = e → s.requests.find? k = some r → r.finished = false →
    let v := s.vocabs.getD r.vocab []
    let ends (t : State) (fin detail gen : Nat) : Prop := (∃ r', t.requests.find? k = some r' ∧ r'.finished = true) ∧ ∃ text n,
      t.outbox.getLast? = some (.frame r.session (s.dscp r.service) (frameBytes r.reqid n text (trailerBytes fin r.prompt gen detail)))
    (∀ c, s.detokQ.getD e [] = .stop k c :: rest →
      ∃ t, exec .detokeniseToken s = .next t ∧ t.detokQ.getD e [] = rest ∧ ends t 4 c r.gen) ∧
    (∀ x last, s.detokQ.getD e [] = .tok k x last :: rest →
      (x.toNat = vocEnd v → ∃ t, exec .detokeniseToken s = .next t ∧ t.detokQ.getD e [] = rest ∧ ends t 1 0 r.gen) ∧
      (x.toNat ≠ vocEnd v → stopAt r.stops 0 (r.pend ++ vocBytes v x.toNat) = none → r.gen + 1 = r.maxtok →
        ∃ t, exec .detokeniseToken s = .next t ∧ ends t 3 0 (r.gen + 1)) ∧
      (∀ i, x.toNat ≠ vocEnd v → stopAt r.stops 0 (r.pend ++ vocBytes v x.toNat) = some i →
        ∃ t, exec .detokeniseToken s = .next t ∧ ends t 2 0 (r.gen + 1)) ∧
      (x.toNat ≠ vocEnd v → stopAt r.stops 0 (r.pend ++ vocBytes v x.toNat) = none → r.gen + 1 ≠ r.maxtok →
        ∃ t r', exec .detokeniseToken s = .next t ∧ t.requests.find? k = some r' ∧ r'.gen = r.gen + 1 ∧ r'.finished = false ∧
          (last = false → t.outbox = s.outbox) ∧ (last = true → r'.rel = [])))) ∧
  (∀ (s : State) (k : Nat) (r : Request), s.args.a = k → s.requests.find? k = some r → r.finished = true →
    (s.messagesOf k r = false → ∃ t, exec .finalFrameAccepted s = .next t ∧ t.requests.find? k = none ∧ (t.sctxOf r.die r.ctx).state = .idle ∧
      r.ctx ∉ (t.dieOf r.die).sampler.lanes) ∧
    (s.messagesOf k r = true → exec .finalFrameAccepted s = .next (s.post 1 .finalFrameAccepted s.args))) ∧
  (∀ (s : State), ∃ t b, exec .weightBeacon s = .next t ∧ t.beacons = s.beacons + 1 ∧ b.take s.beacon.length = s.beacon ∧
    t.outbox = s.outbox ++ (Config.beaconRouters.take 8).map (fun r => .beacon r b) ∧
    (∀ i, t.wids.find? i = (s.wids.find? i).map (fun w => { w with load := 0 })) ∧
    (s.args.flag = false → ⟨s.now + 240000000, .event .weightBeacon {}⟩ ∈ t.agenda)) ∧
  (∀ (s : State), let w := s.args.word
    (w.toNat % 2 ^ 32 < 1000000000 → s.etherUp = false → ∃ t, exec .ptptDiscipline s = .next t ∧ t.ptpt = w ∧ t.slew = s.slew) ∧
    (w.toNat % 2 ^ 32 < 1000000000 → s.etherUp = true →
      ∃ t, exec .ptptDiscipline s = .next t ∧ t.ptpt = s.ptpt ∧ t.slew = (timeNs w : Int) - timeNs s.ptpt)) ∧
  (∀ (now : Nat) (w : Int), let d := 5 * (now + 1) / 12 - 5 * now / 12
    (slewNext now 0 = (d, 0)) ∧ (0 < w → slewNext now w = (d, w) ∨ slewNext now w = (d + 1, w - 1)) ∧
      (w < 0 → slewNext now w = (d, w) ∨ slewNext now w = (d - 1, w + 1)))

/-- A step takes one due entry of the agenda and runs the instruction that stands there: a command at its stream's queue head, as its words in the code
buffer decode (06 R177, R181), with the checks of its place (06 R181, 07 R206); a sampler word at a running lane's PC (12 R343); an event. Of a
completion point it does what was owed (17 R404); of a command's work, of a step of a vector unit or of a Trowel, of a job's start and of a completion word, what
is theirs; with nothing due, it is one cycle of the clock.
Where the spec leaves room, the model's own choices: log 1 and 2. -/
def Obligations.StepRunsDecoded : Prop :=
  (∀ (s : State) (e : Entry) (r : Ref) (x : Section) (w : Nat) (w2 : Option Nat) (i : Instr), s.choose = some e → e.move = .stream r →
    (s.taken e).AtCommand r x w w2 → decodeCommand r.letter ((s.taken e).strOf r).ext w w2 = .ok i → (s.taken e).MayStand r x w w2 i →
    step s = exec i ((s.taken e).onTurn r i)) ∧
  (∀ (s : State) (e : Entry) (d c : Nat) (i : Instr), s.choose = some e → e.move = .lane d c → (s.sctxOf d c).state = .running →
    (s.sctxOf d c).pc < 16384 → decodeSampler ((s.dieOf d).sampler.words.getD (s.sctxOf d c).pc 0).toNat = some i →
    step s = exec i { s.taken e with lane := (d, c), args := {} }) ∧
  (∀ (s : State) (e : Entry) (i : Instr) (g : Args), s.choose = some e → e.move = .event i g → step s = exec i { s.taken e with args := g }) ∧
  (∀ (s : State) (e : Entry) (k : Nat), s.choose = some e → e.move = .finish k → step s = .next ((s.taken e).finishMove k)) ∧
  (∀ (s : State) (e : Entry), s.choose = some e →
    (∀ k, e.move = .effect k → step s = .next ((s.taken e).effect k)) ∧ (∀ c, e.move = .vecStep c → step s = .next ((s.taken e).vecCycle c)) ∧
    (∀ c x, e.move = .trowel c x → step s = .next ((s.taken e).trowelStep c x)) ∧
    (∀ k, e.move = .begin k → step s = .next ((s.taken e).beginJob k)) ∧ (∀ k, e.move = .word k → step s = .next ((s.taken e).complWord k))) ∧
  (∀ s : State, s.choose = none → step s = .next s.tick)

/-- Words of one command of each family, written out from the encodings of 06 R178 and the opcode table's rows, decode to it: `ADD s1, s2, s3`; `ADDI s4,
s5, -1`; `CMP.LTU p1, s2, s3`; `LOOP 10` of 5 words; `QPUSH q2, s7`; `FFMA s1, s2, s3, s4`; `CSRR s1, CSR 0x008`; `LDS.64 s2, [s3+16]`; `XLAT h3, s4`;
`AWWAIT s1, s2, 64`; `GBASE g3, s4, 256`; `VADD g1, g2, g3` and with the scalar s5 of format 8; `MMA` of tile 5 with weights 6; `TASKWAIT 3`; and the
sampler words `SADD k1, k2, k3` and `SJMP -1`. The 842 unassigned codes, 0x000 among them, are illegal with reason 1 in every stream and under every guard
(06 R185): whatever the rest of the word. -/
def Obligations.DecodeWords : Prop :=
  decodeCommand .a none (0x050 * 2 ^ 86 + 1 * 2 ^ 48 + 2 * 2 ^ 43 + 3 * 2 ^ 38) none = .ok (.add ⟨⟨false, 0, none, none⟩, 1, 2, 3⟩) ∧
  decodeCommand .m none (0x051 * 2 ^ 86 + 4 * 2 ^ 48 + 5 * 2 ^ 43 + 0xFFFFFFFF) none = .ok (.addi ⟨⟨false, 0, none, none⟩, 4, 5, 0xFFFFFFFFFFFFFFFF⟩) ∧
  decodeCommand .v none (0x027 * 2 ^ 86 + 1 * 2 ^ 85 + 7 * 2 ^ 81 + 1 * 2 ^ 48 + 2 * 2 ^ 43 + 3 * 2 ^ 38 + 6 * 2 ^ 27) none =
    .ok (.cmp ⟨⟨true, 7, none, none⟩, .ltu, 1, 2, 3⟩) ∧
  decodeCommand .x none (0x030 * 2 ^ 86 + 10 * 2 ^ 32 + 3 * 2 ^ 16 + 5) none = .ok (.loop ⟨⟨false, 0, none, none⟩, 10, 5⟩) ∧
  decodeCommand .a none (0x040 * 2 ^ 86 + 2 * 2 ^ 48 + 7 * 2 ^ 43) none = .ok (.qpush ⟨⟨false, 0, none, none⟩, 2, 7⟩) ∧
  decodeCommand .a none (0x093 * 2 ^ 86 + 1 * 2 ^ 80 + 9 * 2 ^ 72 + 4 * 2 ^ 65 + 1 * 2 ^ 48 + 2 * 2 ^ 43 + 3 * 2 ^ 38 + 4 * 2 ^ 33) none =
    .ok (.ffma ⟨⟨false, 0, some (9, 4), none⟩, 1, 2, 3, 4⟩) ∧
  decodeCommand .a none (0x0A0 * 2 ^ 86 + 1 * 2 ^ 48 + 0x008) none = .ok (.csrr ⟨⟨false, 0, none, none⟩, 1, 0x008⟩) ∧
  decodeCommand .a none (0x0B0 * 2 ^ 86 + 2 * 2 ^ 48 + 3 * 2 ^ 43 + 3 * 2 ^ 40 + 16) none = .ok (.lds ⟨⟨false, 0, none, none⟩, 2, 3, 3, false, 16⟩) ∧
  decodeCommand .a none (0x0B8 * 2 ^ 86 + 3 * 2 ^ 48 + 4 * 2 ^ 43) none = .ok (.xlat ⟨⟨false, 0, none, none⟩, 3, 4⟩) ∧
  decodeCommand .a none (0x0D1 * 2 ^ 86 + 1 * 2 ^ 48 + 2 * 2 ^ 43 + 64) none = .ok (.awwait ⟨⟨false, 0, none, none⟩, 1, 2, 64⟩) ∧
  decodeCommand .v none (0x0F1 * 2 ^ 86 + 3 * 2 ^ 48 + 4 * 2 ^ 43 + 256) none = .ok (.gbase ⟨⟨false, 0, none, none⟩, 3, 4, 256⟩) ∧
  decodeCommand .v none (0x100 * 2 ^ 86 + 1 * 2 ^ 48 + 2 * 2 ^ 43 + 3 * 2 ^ 38) none = .ok (.vadd ⟨⟨false, 0, none, none⟩, 1, .gen 2, .gen 3⟩) ∧
  decodeCommand .v none (0x100 * 2 ^ 86 + 1 * 2 ^ 64 + 9 * 2 ^ 56 + 2 * 2 ^ 53 + 1 * 2 ^ 48 + 2 * 2 ^ 43 + 5 * 2 ^ 38 + 32 * 2 ^ 27 + 8) none =
    .ok (.vadd ⟨⟨false, 0, none, some (9, 2)⟩, 1, .gen 2, .scalar 5 8⟩) ∧
  decodeCommand .m none (0x167 * 2 ^ 86 + 5 * 2 ^ 47 + 6 * 2 ^ 41) none = .ok (.mma ⟨⟨false, 0, none, none⟩, 0, 5, 6, 0, false⟩) ∧
  decodeCommand .m none (0x171 * 2 ^ 86 + 3 * 2 ^ 27) none = .ok (.taskwait ⟨⟨false, 0, none, none⟩, 3⟩) ∧
  decodeSampler (0x12 * 2 ^ 26 + 1 * 2 ^ 22 + 2 * 2 ^ 18 + 3 * 2 ^ 14) = some (.sadd 1 2 3) ∧
  decodeSampler (0x16 * 2 ^ 26 + 0x3FFFFF) = some (.sjmp 0x3FFFFF) ∧
  (∀ (l : Letter) (w : Nat) (w2 : Option Nat), opRow (bitsAt w 86 10) = none → bitsAt w 86 10 ≠ opcExt → decodeCommand l none w w2 = .error 1) ∧
  ((List.range 1024).filter (fun n => (opRow n).isNone && decide (n ≠ opcExt))).length = 842 ∧ opRow 0x000 = none

/-- Decoding what the encoder writes gives every instruction back, with every operand at every value that its encoding admits: a command in every stream
of its row (06 R176 to R184, with the prefix or second word of R180), a sampler word (12 R343, R344), and an `EXT` before a command with which it is
legal. `Laws.RoundTrip.Statement` is the statement for one instruction. Events have no words. -/
def Obligations.EncodeDecode : Prop := ∀ i : Instr, Laws.RoundTrip.Statement i

/-- Every instruction completes: in every state `exec` answers a next state, but for a write of a bus master (`peerWrite`) that reaches past the
40-bit physical address space, and an uncorrectable error (`hbmUncorrectable`) reported past it (00, Physical address).
Where the spec leaves room, the model's own choices: log 22. -/
def Obligations.EveryInstructionCompletes : Prop :=
  ∀ (i : Instr) (s : State), (∃ t, exec i s = .next t) ∨
    (i = .peerWrite ∧ 2 ^ 40 < s.args.b + s.args.data.length ∧ exec i s = .fault (.noSuchAddress s.args.b)) ∨
    (i = .hbmUncorrectable ∧ 2 ^ 40 ≤ s.args.a ∧ exec i s = .fault (.noSuchAddress s.args.a))

/-- Every step keeps the memory in its canonical form: addresses rising, each once, and no entry equal to what an unlisted address reads as. The form is
the model's own (log 7). -/
def Obligations.StepKeepsMemory : Prop := ∀ s t : State, MemOk s → step s = .next t → MemOk t

/-- The machine right after reset: memory in its canonical form, with no byte listed; not ready, and running no job (21 R489); its first step runs the
boot ROM's first stage. Where the spec leaves room, the model's own choices: log 5 to 8. -/
def Obligations.ResetBoots : Prop :=
  MemOk State.reset ∧ State.reset.mem = [] ∧ State.reset.jobs = [] ∧ State.reset.ready = false ∧ State.reset.fatal = false ∧
  step State.reset = exec .bootStage { State.reset with agenda := [], ticket := 1 }
end

