-- ==== Sys2Proof/Laws/Map.lean ====
section
/-! SUPPORT. Maps: what is listed after a change, whatever the order of the list. -/

namespace Sys2Proof.Map

@[simp] theorem find?_nil {α : Type} (k : Nat) : Map.find? ([] : Map α) k = none := rfl

@[simp] theorem find?_set_self {α : Type} (m : Map α) (k : Nat) (v : α) : (m.set k v).find? k = some v := by
  induction m with
  | nil => simp [Map.set, Map.find?]
  | cons e r ih =>
    obtain ⟨k', v'⟩ := e
    unfold Map.set
    split
    · simp [Map.find?]
    · split
      · simp [Map.find?]
      · rename_i h
        simp [Map.find?, h, ih]

theorem find?_set_ne {α : Type} (m : Map α) {k j : Nat} (v : α) (h : j ≠ k) : (m.set k v).find? j = m.find? j := by
  induction m with
  | nil => simp [Map.set, Map.find?, h.symm]
  | cons e r ih =>
    obtain ⟨k', v'⟩ := e
    unfold Map.set
    split
    · simp [Map.find?, h.symm]
    · split
      · rename_i h1
        subst h1
        simp [Map.find?, h.symm]
      · simp only [Map.find?, ih]

theorem find?_set {α : Type} (m : Map α) (k j : Nat) (v : α) :
    (m.set k v).find? j = if j = k then some v else m.find? j := by
  by_cases h : j = k
  · simp [h]
  · simp [h, find?_set_ne]

@[simp] theorem find?_erase_self {α : Type} (m : Map α) (k : Nat) : (m.erase k).find? k = none := by
  induction m with
  | nil => rfl
  | cons e r ih =>
    obtain ⟨k', v'⟩ := e
    unfold Map.erase
    split
    · exact ih
    · rename_i h
      simp [Map.find?, h, ih]

theorem find?_erase_ne {α : Type} (m : Map α) {k j : Nat} (h : j ≠ k) : (m.erase k).find? j = m.find? j := by
  induction m with
  | nil => rfl
  | cons e r ih =>
    obtain ⟨k', v'⟩ := e
    unfold Map.erase
    split
    · rename_i h1
      subst h1
      simp [Map.find?, h.symm, ih]
    · simp only [Map.find?, ih]

@[simp] theorem getD_set_self {α : Type} (m : Map α) (k : Nat) (v d : α) : (m.set k v).getD k d = v := by simp [Map.getD]

theorem getD_set_ne {α : Type} (m : Map α) {k j : Nat} (v d : α) (h : j ≠ k) : (m.set k v).getD j d = m.getD j d := by
  simp [Map.getD, find?_set_ne _ _ h]

theorem getD_of_find? {α : Type} {m : Map α} {k : Nat} {v : α} (d : α) (h : m.find? k = some v) : m.getD k d = v := by
  simp [Map.getD, h]

end Sys2Proof.Map
end

