-- ==== Sys2Proof/Laws/State.lean ====
section
/-! SUPPORT. What each update of the state leaves as it was: one lemma per field. -/

namespace Sys2Proof.Machine

@[simp] theorem State.modJob_now (s : State) (k : Nat) (f : Job → Job) : (s.modJob k f).now = s.now := by unfold State.modJob; split <;> rfl
@[simp] theorem State.modJob_ticket (s : State) (k : Nat) (f : Job → Job) : (s.modJob k f).ticket = s.ticket := by unfold State.modJob; split <;> rfl
@[simp] theorem State.modJob_agenda (s : State) (k : Nat) (f : Job → Job) : (s.modJob k f).agenda = s.agenda := by unfold State.modJob; split <;> rfl
@[simp] theorem State.modJob_cur (s : State) (k : Nat) (f : Job → Job) : (s.modJob k f).cur = s.cur := by unfold State.modJob; split <;> rfl
@[simp] theorem State.modJob_lane (s : State) (k : Nat) (f : Job → Job) : (s.modJob k f).lane = s.lane := by unfold State.modJob; split <;> rfl
@[simp] theorem State.modJob_args (s : State) (k : Nat) (f : Job → Job) : (s.modJob k f).args = s.args := by unfold State.modJob; split <;> rfl
@[simp] theorem State.modJob_nextId (s : State) (k : Nat) (f : Job → Job) : (s.modJob k f).nextId = s.nextId := by unfold State.modJob; split <;> rfl
@[simp] theorem State.modJob_outbox (s : State) (k : Nat) (f : Job → Job) : (s.modJob k f).outbox = s.outbox := by unfold State.modJob; split <;> rfl
@[simp] theorem State.modJob_flights (s : State) (k : Nat) (f : Job → Job) : (s.modJob k f).flights = s.flights := by unfold State.modJob; split <;> rfl
@[simp] theorem State.modJob_accesses (s : State) (k : Nat) (f : Job → Job) : (s.modJob k f).accesses = s.accesses := by unfold State.modJob; split <;> rfl
@[simp] theorem State.modJob_cores (s : State) (k : Nat) (f : Job → Job) : (s.modJob k f).cores = s.cores := by unfold State.modJob; split <;> rfl
@[simp] theorem State.modJob_dies (s : State) (k : Nat) (f : Job → Job) : (s.modJob k f).dies = s.dies := by unfold State.modJob; split <;> rfl
@[simp] theorem State.modJob_mem (s : State) (k : Nat) (f : Job → Job) : (s.modJob k f).mem = s.mem := by unfold State.modJob; split <;> rfl
@[simp] theorem State.modJob_memPoison (s : State) (k : Nat) (f : Job → Job) : (s.modJob k f).memPoison = s.memPoison := by unfold State.modJob; split <;> rfl
@[simp] theorem State.modJob_boots (s : State) (k : Nat) (f : Job → Job) : (s.modJob k f).boots = s.boots := by unfold State.modJob; split <;> rfl
@[simp] theorem State.modJob_boot (s : State) (k : Nat) (f : Job → Job) : (s.modJob k f).boot = s.boot := by unfold State.modJob; split <;> rfl
@[simp] theorem State.modJob_ready (s : State) (k : Nat) (f : Job → Job) : (s.modJob k f).ready = s.ready := by unfold State.modJob; split <;> rfl
@[simp] theorem State.modJob_fatal (s : State) (k : Nat) (f : Job → Job) : (s.modJob k f).fatal = s.fatal := by unfold State.modJob; split <;> rfl
@[simp] theorem State.modJob_supply (s : State) (k : Nat) (f : Job → Job) : (s.modJob k f).supply = s.supply := by unfold State.modJob; split <;> rfl
@[simp] theorem State.modJob_ptpt (s : State) (k : Nat) (f : Job → Job) : (s.modJob k f).ptpt = s.ptpt := by unfold State.modJob; split <;> rfl
@[simp] theorem State.modJob_slew (s : State) (k : Nat) (f : Job → Job) : (s.modJob k f).slew = s.slew := by unfold State.modJob; split <;> rfl
@[simp] theorem State.modJob_etherUp (s : State) (k : Nat) (f : Job → Job) : (s.modJob k f).etherUp = s.etherUp := by unfold State.modJob; split <;> rfl
@[simp] theorem State.modJob_pkg (s : State) (k : Nat) (f : Job → Job) : (s.modJob k f).pkg = s.pkg := by unfold State.modJob; split <;> rfl
@[simp] theorem State.modJob_queues (s : State) (k : Nat) (f : Job → Job) : (s.modJob k f).queues = s.queues := by unfold State.modJob; split <;> rfl
@[simp] theorem State.modJob_history (s : State) (k : Nat) (f : Job → Job) : (s.modJob k f).history = s.history := by unfold State.modJob; split <;> rfl
@[simp] theorem State.modJob_launches (s : State) (k : Nat) (f : Job → Job) : (s.modJob k f).launches = s.launches := by unfold State.modJob; split <;> rfl
@[simp] theorem State.modJob_ctxs (s : State) (k : Nat) (f : Job → Job) : (s.modJob k f).ctxs = s.ctxs := by unfold State.modJob; split <;> rfl
@[simp] theorem State.modJob_s1 (s : State) (k : Nat) (f : Job → Job) : (s.modJob k f).s1 = s.s1 := by unfold State.modJob; split <;> rfl
@[simp] theorem State.modJob_s2 (s : State) (k : Nat) (f : Job → Job) : (s.modJob k f).s2 = s.s2 := by unfold State.modJob; split <;> rfl
@[simp] theorem State.modJob_vfs (s : State) (k : Nat) (f : Job → Job) : (s.modJob k f).vfs = s.vfs := by unfold State.modJob; split <;> rfl
@[simp] theorem State.modJob_parts (s : State) (k : Nat) (f : Job → Job) : (s.modJob k f).parts = s.parts := by unfold State.modJob; split <;> rfl
@[simp] theorem State.modJob_staged (s : State) (k : Nat) (f : Job → Job) : (s.modJob k f).staged = s.staged := by unfold State.modJob; split <;> rfl
@[simp] theorem State.modJob_shapes (s : State) (k : Nat) (f : Job → Job) : (s.modJob k f).shapes = s.shapes := by unfold State.modJob; split <;> rfl
@[simp] theorem State.modJob_wids (s : State) (k : Nat) (f : Job → Job) : (s.modJob k f).wids = s.wids := by unfold State.modJob; split <;> rfl
@[simp] theorem State.modJob_barriers (s : State) (k : Nat) (f : Job → Job) : (s.modJob k f).barriers = s.barriers := by unfold State.modJob; split <;> rfl
@[simp] theorem State.modJob_colls (s : State) (k : Nat) (f : Job → Job) : (s.modJob k f).colls = s.colls := by unfold State.modJob; split <;> rfl
@[simp] theorem State.modJob_fmsgs (s : State) (k : Nat) (f : Job → Job) : (s.modJob k f).fmsgs = s.fmsgs := by unfold State.modJob; split <;> rfl
@[simp] theorem State.modJob_mail (s : State) (k : Nat) (f : Job → Job) : (s.modJob k f).mail = s.mail := by unfold State.modJob; split <;> rfl
@[simp] theorem State.modJob_klota (s : State) (k : Nat) (f : Job → Job) : (s.modJob k f).klota = s.klota := by unfold State.modJob; split <;> rfl
@[simp] theorem State.modJob_errors (s : State) (k : Nat) (f : Job → Job) : (s.modJob k f).errors = s.errors := by unfold State.modJob; split <;> rfl
@[simp] theorem State.modJob_faults (s : State) (k : Nat) (f : Job → Job) : (s.modJob k f).faults = s.faults := by unfold State.modJob; split <;> rfl
@[simp] theorem State.modJob_ages (s : State) (k : Nat) (f : Job → Job) : (s.modJob k f).ages = s.ages := by unfold State.modJob; split <;> rfl
@[simp] theorem State.modJob_migrations (s : State) (k : Nat) (f : Job → Job) : (s.modJob k f).migrations = s.migrations := by unfold State.modJob; split <;> rfl
@[simp] theorem State.modJob_retiredFrames (s : State) (k : Nat) (f : Job → Job) : (s.modJob k f).retiredFrames = s.retiredFrames := by unfold State.modJob; split <;> rfl
@[simp] theorem State.modJob_sensors (s : State) (k : Nat) (f : Job → Job) : (s.modJob k f).sensors = s.sensors := by unfold State.modJob; split <;> rfl
@[simp] theorem State.modJob_hbm (s : State) (k : Nat) (f : Job → Job) : (s.modJob k f).hbm = s.hbm := by unfold State.modJob; split <;> rfl
@[simp] theorem State.modJob_routers (s : State) (k : Nat) (f : Job → Job) : (s.modJob k f).routers = s.routers := by unfold State.modJob; split <;> rfl
@[simp] theorem State.modJob_services (s : State) (k : Nat) (f : Job → Job) : (s.modJob k f).services = s.services := by unfold State.modJob; split <;> rfl
@[simp] theorem State.modJob_vocabs (s : State) (k : Nat) (f : Job → Job) : (s.modJob k f).vocabs = s.vocabs := by unfold State.modJob; split <;> rfl
@[simp] theorem State.modJob_rings (s : State) (k : Nat) (f : Job → Job) : (s.modJob k f).rings = s.rings := by unfold State.modJob; split <;> rfl
@[simp] theorem State.modJob_grammars (s : State) (k : Nat) (f : Job → Job) : (s.modJob k f).grammars = s.grammars := by unfold State.modJob; split <;> rfl
@[simp] theorem State.modJob_sessions (s : State) (k : Nat) (f : Job → Job) : (s.modJob k f).sessions = s.sessions := by unfold State.modJob; split <;> rfl
@[simp] theorem State.modJob_requests (s : State) (k : Nat) (f : Job → Job) : (s.modJob k f).requests = s.requests := by unfold State.modJob; split <;> rfl
@[simp] theorem State.modJob_tokQ (s : State) (k : Nat) (f : Job → Job) : (s.modJob k f).tokQ = s.tokQ := by unfold State.modJob; split <;> rfl
@[simp] theorem State.modJob_detokQ (s : State) (k : Nat) (f : Job → Job) : (s.modJob k f).detokQ = s.detokQ := by unfold State.modJob; split <;> rfl
@[simp] theorem State.modJob_beacons (s : State) (k : Nat) (f : Job → Job) : (s.modJob k f).beacons = s.beacons := by unfold State.modJob; split <;> rfl

@[simp] theorem State.modRef_now (s : State) (r : Ref) (f : Stream → Stream) : (s.modRef r f).now = s.now := by simp [State.modRef]
@[simp] theorem State.modRef_ticket (s : State) (r : Ref) (f : Stream → Stream) : (s.modRef r f).ticket = s.ticket := by simp [State.modRef]
@[simp] theorem State.modRef_agenda (s : State) (r : Ref) (f : Stream → Stream) : (s.modRef r f).agenda = s.agenda := by simp [State.modRef]
@[simp] theorem State.modRef_cur (s : State) (r : Ref) (f : Stream → Stream) : (s.modRef r f).cur = s.cur := by simp [State.modRef]
@[simp] theorem State.modRef_lane (s : State) (r : Ref) (f : Stream → Stream) : (s.modRef r f).lane = s.lane := by simp [State.modRef]
@[simp] theorem State.modRef_args (s : State) (r : Ref) (f : Stream → Stream) : (s.modRef r f).args = s.args := by simp [State.modRef]
@[simp] theorem State.modRef_nextId (s : State) (r : Ref) (f : Stream → Stream) : (s.modRef r f).nextId = s.nextId := by simp [State.modRef]
@[simp] theorem State.modRef_outbox (s : State) (r : Ref) (f : Stream → Stream) : (s.modRef r f).outbox = s.outbox := by simp [State.modRef]
@[simp] theorem State.modRef_flights (s : State) (r : Ref) (f : Stream → Stream) : (s.modRef r f).flights = s.flights := by simp [State.modRef]
@[simp] theorem State.modRef_accesses (s : State) (r : Ref) (f : Stream → Stream) : (s.modRef r f).accesses = s.accesses := by simp [State.modRef]
@[simp] theorem State.modRef_cores (s : State) (r : Ref) (f : Stream → Stream) : (s.modRef r f).cores = s.cores := by simp [State.modRef]
@[simp] theorem State.modRef_dies (s : State) (r : Ref) (f : Stream → Stream) : (s.modRef r f).dies = s.dies := by simp [State.modRef]
@[simp] theorem State.modRef_mem (s : State) (r : Ref) (f : Stream → Stream) : (s.modRef r f).mem = s.mem := by simp [State.modRef]
@[simp] theorem State.modRef_memPoison (s : State) (r : Ref) (f : Stream → Stream) : (s.modRef r f).memPoison = s.memPoison := by simp [State.modRef]
@[simp] theorem State.modRef_boots (s : State) (r : Ref) (f : Stream → Stream) : (s.modRef r f).boots = s.boots := by simp [State.modRef]
@[simp] theorem State.modRef_boot (s : State) (r : Ref) (f : Stream → Stream) : (s.modRef r f).boot = s.boot := by simp [State.modRef]
@[simp] theorem State.modRef_ready (s : State) (r : Ref) (f : Stream → Stream) : (s.modRef r f).ready = s.ready := by simp [State.modRef]
@[simp] theorem State.modRef_fatal (s : State) (r : Ref) (f : Stream → Stream) : (s.modRef r f).fatal = s.fatal := by simp [State.modRef]
@[simp] theorem State.modRef_supply (s : State) (r : Ref) (f : Stream → Stream) : (s.modRef r f).supply = s.supply := by simp [State.modRef]
@[simp] theorem State.modRef_ptpt (s : State) (r : Ref) (f : Stream → Stream) : (s.modRef r f).ptpt = s.ptpt := by simp [State.modRef]
@[simp] theorem State.modRef_slew (s : State) (r : Ref) (f : Stream → Stream) : (s.modRef r f).slew = s.slew := by simp [State.modRef]
@[simp] theorem State.modRef_etherUp (s : State) (r : Ref) (f : Stream → Stream) : (s.modRef r f).etherUp = s.etherUp := by simp [State.modRef]
@[simp] theorem State.modRef_pkg (s : State) (r : Ref) (f : Stream → Stream) : (s.modRef r f).pkg = s.pkg := by simp [State.modRef]
@[simp] theorem State.modRef_queues (s : State) (r : Ref) (f : Stream → Stream) : (s.modRef r f).queues = s.queues := by simp [State.modRef]
@[simp] theorem State.modRef_history (s : State) (r : Ref) (f : Stream → Stream) : (s.modRef r f).history = s.history := by simp [State.modRef]
@[simp] theorem State.modRef_launches (s : State) (r : Ref) (f : Stream → Stream) : (s.modRef r f).launches = s.launches := by simp [State.modRef]
@[simp] theorem State.modRef_ctxs (s : State) (r : Ref) (f : Stream → Stream) : (s.modRef r f).ctxs = s.ctxs := by simp [State.modRef]
@[simp] theorem State.modRef_s1 (s : State) (r : Ref) (f : Stream → Stream) : (s.modRef r f).s1 = s.s1 := by simp [State.modRef]
@[simp] theorem State.modRef_s2 (s : State) (r : Ref) (f : Stream → Stream) : (s.modRef r f).s2 = s.s2 := by simp [State.modRef]
@[simp] theorem State.modRef_vfs (s : State) (r : Ref) (f : Stream → Stream) : (s.modRef r f).vfs = s.vfs := by simp [State.modRef]
@[simp] theorem State.modRef_parts (s : State) (r : Ref) (f : Stream → Stream) : (s.modRef r f).parts = s.parts := by simp [State.modRef]
@[simp] theorem State.modRef_staged (s : State) (r : Ref) (f : Stream → Stream) : (s.modRef r f).staged = s.staged := by simp [State.modRef]
@[simp] theorem State.modRef_shapes (s : State) (r : Ref) (f : Stream → Stream) : (s.modRef r f).shapes = s.shapes := by simp [State.modRef]
@[simp] theorem State.modRef_wids (s : State) (r : Ref) (f : Stream → Stream) : (s.modRef r f).wids = s.wids := by simp [State.modRef]
@[simp] theorem State.modRef_barriers (s : State) (r : Ref) (f : Stream → Stream) : (s.modRef r f).barriers = s.barriers := by simp [State.modRef]
@[simp] theorem State.modRef_colls (s : State) (r : Ref) (f : Stream → Stream) : (s.modRef r f).colls = s.colls := by simp [State.modRef]
@[simp] theorem State.modRef_fmsgs (s : State) (r : Ref) (f : Stream → Stream) : (s.modRef r f).fmsgs = s.fmsgs := by simp [State.modRef]
@[simp] theorem State.modRef_mail (s : State) (r : Ref) (f : Stream → Stream) : (s.modRef r f).mail = s.mail := by simp [State.modRef]
@[simp] theorem State.modRef_klota (s : State) (r : Ref) (f : Stream → Stream) : (s.modRef r f).klota = s.klota := by simp [State.modRef]
@[simp] theorem State.modRef_errors (s : State) (r : Ref) (f : Stream → Stream) : (s.modRef r f).errors = s.errors := by simp [State.modRef]
@[simp] theorem State.modRef_faults (s : State) (r : Ref) (f : Stream → Stream) : (s.modRef r f).faults = s.faults := by simp [State.modRef]
@[simp] theorem State.modRef_ages (s : State) (r : Ref) (f : Stream → Stream) : (s.modRef r f).ages = s.ages := by simp [State.modRef]
@[simp] theorem State.modRef_migrations (s : State) (r : Ref) (f : Stream → Stream) : (s.modRef r f).migrations = s.migrations := by simp [State.modRef]
@[simp] theorem State.modRef_retiredFrames (s : State) (r : Ref) (f : Stream → Stream) : (s.modRef r f).retiredFrames = s.retiredFrames := by simp [State.modRef]
@[simp] theorem State.modRef_sensors (s : State) (r : Ref) (f : Stream → Stream) : (s.modRef r f).sensors = s.sensors := by simp [State.modRef]
@[simp] theorem State.modRef_hbm (s : State) (r : Ref) (f : Stream → Stream) : (s.modRef r f).hbm = s.hbm := by simp [State.modRef]
@[simp] theorem State.modRef_routers (s : State) (r : Ref) (f : Stream → Stream) : (s.modRef r f).routers = s.routers := by simp [State.modRef]
@[simp] theorem State.modRef_services (s : State) (r : Ref) (f : Stream → Stream) : (s.modRef r f).services = s.services := by simp [State.modRef]
@[simp] theorem State.modRef_vocabs (s : State) (r : Ref) (f : Stream → Stream) : (s.modRef r f).vocabs = s.vocabs := by simp [State.modRef]
@[simp] theorem State.modRef_rings (s : State) (r : Ref) (f : Stream → Stream) : (s.modRef r f).rings = s.rings := by simp [State.modRef]
@[simp] theorem State.modRef_grammars (s : State) (r : Ref) (f : Stream → Stream) : (s.modRef r f).grammars = s.grammars := by simp [State.modRef]
@[simp] theorem State.modRef_sessions (s : State) (r : Ref) (f : Stream → Stream) : (s.modRef r f).sessions = s.sessions := by simp [State.modRef]
@[simp] theorem State.modRef_requests (s : State) (r : Ref) (f : Stream → Stream) : (s.modRef r f).requests = s.requests := by simp [State.modRef]
@[simp] theorem State.modRef_tokQ (s : State) (r : Ref) (f : Stream → Stream) : (s.modRef r f).tokQ = s.tokQ := by simp [State.modRef]
@[simp] theorem State.modRef_detokQ (s : State) (r : Ref) (f : Stream → Stream) : (s.modRef r f).detokQ = s.detokQ := by simp [State.modRef]
@[simp] theorem State.modRef_beacons (s : State) (r : Ref) (f : Stream → Stream) : (s.modRef r f).beacons = s.beacons := by simp [State.modRef]

@[simp] theorem State.modSt_now (s : State) (f : Stream → Stream) : (s.modSt f).now = s.now := by simp [State.modSt]
@[simp] theorem State.modSt_ticket (s : State) (f : Stream → Stream) : (s.modSt f).ticket = s.ticket := by simp [State.modSt]
@[simp] theorem State.modSt_agenda (s : State) (f : Stream → Stream) : (s.modSt f).agenda = s.agenda := by simp [State.modSt]
@[simp] theorem State.modSt_cur (s : State) (f : Stream → Stream) : (s.modSt f).cur = s.cur := by simp [State.modSt]
@[simp] theorem State.modSt_lane (s : State) (f : Stream → Stream) : (s.modSt f).lane = s.lane := by simp [State.modSt]
@[simp] theorem State.modSt_args (s : State) (f : Stream → Stream) : (s.modSt f).args = s.args := by simp [State.modSt]
@[simp] theorem State.modSt_nextId (s : State) (f : Stream → Stream) : (s.modSt f).nextId = s.nextId := by simp [State.modSt]
@[simp] theorem State.modSt_outbox (s : State) (f : Stream → Stream) : (s.modSt f).outbox = s.outbox := by simp [State.modSt]
@[simp] theorem State.modSt_flights (s : State) (f : Stream → Stream) : (s.modSt f).flights = s.flights := by simp [State.modSt]
@[simp] theorem State.modSt_accesses (s : State) (f : Stream → Stream) : (s.modSt f).accesses = s.accesses := by simp [State.modSt]
@[simp] theorem State.modSt_cores (s : State) (f : Stream → Stream) : (s.modSt f).cores = s.cores := by simp [State.modSt]
@[simp] theorem State.modSt_dies (s : State) (f : Stream → Stream) : (s.modSt f).dies = s.dies := by simp [State.modSt]
@[simp] theorem State.modSt_mem (s : State) (f : Stream → Stream) : (s.modSt f).mem = s.mem := by simp [State.modSt]
@[simp] theorem State.modSt_memPoison (s : State) (f : Stream → Stream) : (s.modSt f).memPoison = s.memPoison := by simp [State.modSt]
@[simp] theorem State.modSt_boots (s : State) (f : Stream → Stream) : (s.modSt f).boots = s.boots := by simp [State.modSt]
@[simp] theorem State.modSt_boot (s : State) (f : Stream → Stream) : (s.modSt f).boot = s.boot := by simp [State.modSt]
@[simp] theorem State.modSt_ready (s : State) (f : Stream → Stream) : (s.modSt f).ready = s.ready := by simp [State.modSt]
@[simp] theorem State.modSt_fatal (s : State) (f : Stream → Stream) : (s.modSt f).fatal = s.fatal := by simp [State.modSt]
@[simp] theorem State.modSt_supply (s : State) (f : Stream → Stream) : (s.modSt f).supply = s.supply := by simp [State.modSt]
@[simp] theorem State.modSt_ptpt (s : State) (f : Stream → Stream) : (s.modSt f).ptpt = s.ptpt := by simp [State.modSt]
@[simp] theorem State.modSt_slew (s : State) (f : Stream → Stream) : (s.modSt f).slew = s.slew := by simp [State.modSt]
@[simp] theorem State.modSt_etherUp (s : State) (f : Stream → Stream) : (s.modSt f).etherUp = s.etherUp := by simp [State.modSt]
@[simp] theorem State.modSt_pkg (s : State) (f : Stream → Stream) : (s.modSt f).pkg = s.pkg := by simp [State.modSt]
@[simp] theorem State.modSt_queues (s : State) (f : Stream → Stream) : (s.modSt f).queues = s.queues := by simp [State.modSt]
@[simp] theorem State.modSt_history (s : State) (f : Stream → Stream) : (s.modSt f).history = s.history := by simp [State.modSt]
@[simp] theorem State.modSt_launches (s : State) (f : Stream → Stream) : (s.modSt f).launches = s.launches := by simp [State.modSt]
@[simp] theorem State.modSt_ctxs (s : State) (f : Stream → Stream) : (s.modSt f).ctxs = s.ctxs := by simp [State.modSt]
@[simp] theorem State.modSt_s1 (s : State) (f : Stream → Stream) : (s.modSt f).s1 = s.s1 := by simp [State.modSt]
@[simp] theorem State.modSt_s2 (s : State) (f : Stream → Stream) : (s.modSt f).s2 = s.s2 := by simp [State.modSt]
@[simp] theorem State.modSt_vfs (s : State) (f : Stream → Stream) : (s.modSt f).vfs = s.vfs := by simp [State.modSt]
@[simp] theorem State.modSt_parts (s : State) (f : Stream → Stream) : (s.modSt f).parts = s.parts := by simp [State.modSt]
@[simp] theorem State.modSt_staged (s : State) (f : Stream → Stream) : (s.modSt f).staged = s.staged := by simp [State.modSt]
@[simp] theorem State.modSt_shapes (s : State) (f : Stream → Stream) : (s.modSt f).shapes = s.shapes := by simp [State.modSt]
@[simp] theorem State.modSt_wids (s : State) (f : Stream → Stream) : (s.modSt f).wids = s.wids := by simp [State.modSt]
@[simp] theorem State.modSt_barriers (s : State) (f : Stream → Stream) : (s.modSt f).barriers = s.barriers := by simp [State.modSt]
@[simp] theorem State.modSt_colls (s : State) (f : Stream → Stream) : (s.modSt f).colls = s.colls := by simp [State.modSt]
@[simp] theorem State.modSt_fmsgs (s : State) (f : Stream → Stream) : (s.modSt f).fmsgs = s.fmsgs := by simp [State.modSt]
@[simp] theorem State.modSt_mail (s : State) (f : Stream → Stream) : (s.modSt f).mail = s.mail := by simp [State.modSt]
@[simp] theorem State.modSt_klota (s : State) (f : Stream → Stream) : (s.modSt f).klota = s.klota := by simp [State.modSt]
@[simp] theorem State.modSt_errors (s : State) (f : Stream → Stream) : (s.modSt f).errors = s.errors := by simp [State.modSt]
@[simp] theorem State.modSt_faults (s : State) (f : Stream → Stream) : (s.modSt f).faults = s.faults := by simp [State.modSt]
@[simp] theorem State.modSt_ages (s : State) (f : Stream → Stream) : (s.modSt f).ages = s.ages := by simp [State.modSt]
@[simp] theorem State.modSt_migrations (s : State) (f : Stream → Stream) : (s.modSt f).migrations = s.migrations := by simp [State.modSt]
@[simp] theorem State.modSt_retiredFrames (s : State) (f : Stream → Stream) : (s.modSt f).retiredFrames = s.retiredFrames := by simp [State.modSt]
@[simp] theorem State.modSt_sensors (s : State) (f : Stream → Stream) : (s.modSt f).sensors = s.sensors := by simp [State.modSt]
@[simp] theorem State.modSt_hbm (s : State) (f : Stream → Stream) : (s.modSt f).hbm = s.hbm := by simp [State.modSt]
@[simp] theorem State.modSt_routers (s : State) (f : Stream → Stream) : (s.modSt f).routers = s.routers := by simp [State.modSt]
@[simp] theorem State.modSt_services (s : State) (f : Stream → Stream) : (s.modSt f).services = s.services := by simp [State.modSt]
@[simp] theorem State.modSt_vocabs (s : State) (f : Stream → Stream) : (s.modSt f).vocabs = s.vocabs := by simp [State.modSt]
@[simp] theorem State.modSt_rings (s : State) (f : Stream → Stream) : (s.modSt f).rings = s.rings := by simp [State.modSt]
@[simp] theorem State.modSt_grammars (s : State) (f : Stream → Stream) : (s.modSt f).grammars = s.grammars := by simp [State.modSt]
@[simp] theorem State.modSt_sessions (s : State) (f : Stream → Stream) : (s.modSt f).sessions = s.sessions := by simp [State.modSt]
@[simp] theorem State.modSt_requests (s : State) (f : Stream → Stream) : (s.modSt f).requests = s.requests := by simp [State.modSt]
@[simp] theorem State.modSt_tokQ (s : State) (f : Stream → Stream) : (s.modSt f).tokQ = s.tokQ := by simp [State.modSt]
@[simp] theorem State.modSt_detokQ (s : State) (f : Stream → Stream) : (s.modSt f).detokQ = s.detokQ := by simp [State.modSt]
@[simp] theorem State.modSt_beacons (s : State) (f : Stream → Stream) : (s.modSt f).beacons = s.beacons := by simp [State.modSt]

@[simp] theorem State.modCore_now (s : State) (k : Nat) (f : Core → Core) : (s.modCore k f).now = s.now := rfl
@[simp] theorem State.modCore_ticket (s : State) (k : Nat) (f : Core → Core) : (s.modCore k f).ticket = s.ticket := rfl
@[simp] theorem State.modCore_agenda (s : State) (k : Nat) (f : Core → Core) : (s.modCore k f).agenda = s.agenda := rfl
@[simp] theorem State.modCore_cur (s : State) (k : Nat) (f : Core → Core) : (s.modCore k f).cur = s.cur := rfl
@[simp] theorem State.modCore_lane (s : State) (k : Nat) (f : Core → Core) : (s.modCore k f).lane = s.lane := rfl
@[simp] theorem State.modCore_args (s : State) (k : Nat) (f : Core → Core) : (s.modCore k f).args = s.args := rfl
@[simp] theorem State.modCore_nextId (s : State) (k : Nat) (f : Core → Core) : (s.modCore k f).nextId = s.nextId := rfl
@[simp] theorem State.modCore_outbox (s : State) (k : Nat) (f : Core → Core) : (s.modCore k f).outbox = s.outbox := rfl
@[simp] theorem State.modCore_jobs (s : State) (k : Nat) (f : Core → Core) : (s.modCore k f).jobs = s.jobs := rfl
@[simp] theorem State.modCore_flights (s : State) (k : Nat) (f : Core → Core) : (s.modCore k f).flights = s.flights := rfl
@[simp] theorem State.modCore_accesses (s : State) (k : Nat) (f : Core → Core) : (s.modCore k f).accesses = s.accesses := rfl
@[simp] theorem State.modCore_dies (s : State) (k : Nat) (f : Core → Core) : (s.modCore k f).dies = s.dies := rfl
@[simp] theorem State.modCore_mem (s : State) (k : Nat) (f : Core → Core) : (s.modCore k f).mem = s.mem := rfl
@[simp] theorem State.modCore_memPoison (s : State) (k : Nat) (f : Core → Core) : (s.modCore k f).memPoison = s.memPoison := rfl
@[simp] theorem State.modCore_boots (s : State) (k : Nat) (f : Core → Core) : (s.modCore k f).boots = s.boots := rfl
@[simp] theorem State.modCore_boot (s : State) (k : Nat) (f : Core → Core) : (s.modCore k f).boot = s.boot := rfl
@[simp] theorem State.modCore_ready (s : State) (k : Nat) (f : Core → Core) : (s.modCore k f).ready = s.ready := rfl
@[simp] theorem State.modCore_fatal (s : State) (k : Nat) (f : Core → Core) : (s.modCore k f).fatal = s.fatal := rfl
@[simp] theorem State.modCore_supply (s : State) (k : Nat) (f : Core → Core) : (s.modCore k f).supply = s.supply := rfl
@[simp] theorem State.modCore_ptpt (s : State) (k : Nat) (f : Core → Core) : (s.modCore k f).ptpt = s.ptpt := rfl
@[simp] theorem State.modCore_slew (s : State) (k : Nat) (f : Core → Core) : (s.modCore k f).slew = s.slew := rfl
@[simp] theorem State.modCore_etherUp (s : State) (k : Nat) (f : Core → Core) : (s.modCore k f).etherUp = s.etherUp := rfl
@[simp] theorem State.modCore_pkg (s : State) (k : Nat) (f : Core → Core) : (s.modCore k f).pkg = s.pkg := rfl
@[simp] theorem State.modCore_queues (s : State) (k : Nat) (f : Core → Core) : (s.modCore k f).queues = s.queues := rfl
@[simp] theorem State.modCore_history (s : State) (k : Nat) (f : Core → Core) : (s.modCore k f).history = s.history := rfl
@[simp] theorem State.modCore_launches (s : State) (k : Nat) (f : Core → Core) : (s.modCore k f).launches = s.launches := rfl
@[simp] theorem State.modCore_ctxs (s : State) (k : Nat) (f : Core → Core) : (s.modCore k f).ctxs = s.ctxs := rfl
@[simp] theorem State.modCore_s1 (s : State) (k : Nat) (f : Core → Core) : (s.modCore k f).s1 = s.s1 := rfl
@[simp] theorem State.modCore_s2 (s : State) (k : Nat) (f : Core → Core) : (s.modCore k f).s2 = s.s2 := rfl
@[simp] theorem State.modCore_vfs (s : State) (k : Nat) (f : Core → Core) : (s.modCore k f).vfs = s.vfs := rfl
@[simp] theorem State.modCore_parts (s : State) (k : Nat) (f : Core → Core) : (s.modCore k f).parts = s.parts := rfl
@[simp] theorem State.modCore_staged (s : State) (k : Nat) (f : Core → Core) : (s.modCore k f).staged = s.staged := rfl
@[simp] theorem State.modCore_shapes (s : State) (k : Nat) (f : Core → Core) : (s.modCore k f).shapes = s.shapes := rfl
@[simp] theorem State.modCore_wids (s : State) (k : Nat) (f : Core → Core) : (s.modCore k f).wids = s.wids := rfl
@[simp] theorem State.modCore_barriers (s : State) (k : Nat) (f : Core → Core) : (s.modCore k f).barriers = s.barriers := rfl
@[simp] theorem State.modCore_colls (s : State) (k : Nat) (f : Core → Core) : (s.modCore k f).colls = s.colls := rfl
@[simp] theorem State.modCore_fmsgs (s : State) (k : Nat) (f : Core → Core) : (s.modCore k f).fmsgs = s.fmsgs := rfl
@[simp] theorem State.modCore_mail (s : State) (k : Nat) (f : Core → Core) : (s.modCore k f).mail = s.mail := rfl
@[simp] theorem State.modCore_klota (s : State) (k : Nat) (f : Core → Core) : (s.modCore k f).klota = s.klota := rfl
@[simp] theorem State.modCore_errors (s : State) (k : Nat) (f : Core → Core) : (s.modCore k f).errors = s.errors := rfl
@[simp] theorem State.modCore_faults (s : State) (k : Nat) (f : Core → Core) : (s.modCore k f).faults = s.faults := rfl
@[simp] theorem State.modCore_ages (s : State) (k : Nat) (f : Core → Core) : (s.modCore k f).ages = s.ages := rfl
@[simp] theorem State.modCore_migrations (s : State) (k : Nat) (f : Core → Core) : (s.modCore k f).migrations = s.migrations := rfl
@[simp] theorem State.modCore_retiredFrames (s : State) (k : Nat) (f : Core → Core) : (s.modCore k f).retiredFrames = s.retiredFrames := rfl
@[simp] theorem State.modCore_sensors (s : State) (k : Nat) (f : Core → Core) : (s.modCore k f).sensors = s.sensors := rfl
@[simp] theorem State.modCore_hbm (s : State) (k : Nat) (f : Core → Core) : (s.modCore k f).hbm = s.hbm := rfl
@[simp] theorem State.modCore_routers (s : State) (k : Nat) (f : Core → Core) : (s.modCore k f).routers = s.routers := rfl
@[simp] theorem State.modCore_services (s : State) (k : Nat) (f : Core → Core) : (s.modCore k f).services = s.services := rfl
@[simp] theorem State.modCore_vocabs (s : State) (k : Nat) (f : Core → Core) : (s.modCore k f).vocabs = s.vocabs := rfl
@[simp] theorem State.modCore_rings (s : State) (k : Nat) (f : Core → Core) : (s.modCore k f).rings = s.rings := rfl
@[simp] theorem State.modCore_grammars (s : State) (k : Nat) (f : Core → Core) : (s.modCore k f).grammars = s.grammars := rfl
@[simp] theorem State.modCore_sessions (s : State) (k : Nat) (f : Core → Core) : (s.modCore k f).sessions = s.sessions := rfl
@[simp] theorem State.modCore_requests (s : State) (k : Nat) (f : Core → Core) : (s.modCore k f).requests = s.requests := rfl
@[simp] theorem State.modCore_tokQ (s : State) (k : Nat) (f : Core → Core) : (s.modCore k f).tokQ = s.tokQ := rfl
@[simp] theorem State.modCore_detokQ (s : State) (k : Nat) (f : Core → Core) : (s.modCore k f).detokQ = s.detokQ := rfl
@[simp] theorem State.modCore_beacons (s : State) (k : Nat) (f : Core → Core) : (s.modCore k f).beacons = s.beacons := rfl

@[simp] theorem State.modDie_now (s : State) (k : Nat) (f : Die → Die) : (s.modDie k f).now = s.now := rfl
@[simp] theorem State.modDie_ticket (s : State) (k : Nat) (f : Die → Die) : (s.modDie k f).ticket = s.ticket := rfl
@[simp] theorem State.modDie_agenda (s : State) (k : Nat) (f : Die → Die) : (s.modDie k f).agenda = s.agenda := rfl
@[simp] theorem State.modDie_cur (s : State) (k : Nat) (f : Die → Die) : (s.modDie k f).cur = s.cur := rfl
@[simp] theorem State.modDie_lane (s : State) (k : Nat) (f : Die → Die) : (s.modDie k f).lane = s.lane := rfl
@[simp] theorem State.modDie_args (s : State) (k : Nat) (f : Die → Die) : (s.modDie k f).args = s.args := rfl
@[simp] theorem State.modDie_nextId (s : State) (k : Nat) (f : Die → Die) : (s.modDie k f).nextId = s.nextId := rfl
@[simp] theorem State.modDie_outbox (s : State) (k : Nat) (f : Die → Die) : (s.modDie k f).outbox = s.outbox := rfl
@[simp] theorem State.modDie_jobs (s : State) (k : Nat) (f : Die → Die) : (s.modDie k f).jobs = s.jobs := rfl
@[simp] theorem State.modDie_flights (s : State) (k : Nat) (f : Die → Die) : (s.modDie k f).flights = s.flights := rfl
@[simp] theorem State.modDie_accesses (s : State) (k : Nat) (f : Die → Die) : (s.modDie k f).accesses = s.accesses := rfl
@[simp] theorem State.modDie_cores (s : State) (k : Nat) (f : Die → Die) : (s.modDie k f).cores = s.cores := rfl
@[simp] theorem State.modDie_mem (s : State) (k : Nat) (f : Die → Die) : (s.modDie k f).mem = s.mem := rfl
@[simp] theorem State.modDie_memPoison (s : State) (k : Nat) (f : Die → Die) : (s.modDie k f).memPoison = s.memPoison := rfl
@[simp] theorem State.modDie_boots (s : State) (k : Nat) (f : Die → Die) : (s.modDie k f).boots = s.boots := rfl
@[simp] theorem State.modDie_boot (s : State) (k : Nat) (f : Die → Die) : (s.modDie k f).boot = s.boot := rfl
@[simp] theorem State.modDie_ready (s : State) (k : Nat) (f : Die → Die) : (s.modDie k f).ready = s.ready := rfl
@[simp] theorem State.modDie_fatal (s : State) (k : Nat) (f : Die → Die) : (s.modDie k f).fatal = s.fatal := rfl
@[simp] theorem State.modDie_supply (s : State) (k : Nat) (f : Die → Die) : (s.modDie k f).supply = s.supply := rfl
@[simp] theorem State.modDie_ptpt (s : State) (k : Nat) (f : Die → Die) : (s.modDie k f).ptpt = s.ptpt := rfl
@[simp] theorem State.modDie_slew (s : State) (k : Nat) (f : Die → Die) : (s.modDie k f).slew = s.slew := rfl
@[simp] theorem State.modDie_etherUp (s : State) (k : Nat) (f : Die → Die) : (s.modDie k f).etherUp = s.etherUp := rfl
@[simp] theorem State.modDie_pkg (s : State) (k : Nat) (f : Die → Die) : (s.modDie k f).pkg = s.pkg := rfl
@[simp] theorem State.modDie_queues (s : State) (k : Nat) (f : Die → Die) : (s.modDie k f).queues = s.queues := rfl
@[simp] theorem State.modDie_history (s : State) (k : Nat) (f : Die → Die) : (s.modDie k f).history = s.history := rfl
@[simp] theorem State.modDie_launches (s : State) (k : Nat) (f : Die → Die) : (s.modDie k f).launches = s.launches := rfl
@[simp] theorem State.modDie_ctxs (s : State) (k : Nat) (f : Die → Die) : (s.modDie k f).ctxs = s.ctxs := rfl
@[simp] theorem State.modDie_s1 (s : State) (k : Nat) (f : Die → Die) : (s.modDie k f).s1 = s.s1 := rfl
@[simp] theorem State.modDie_s2 (s : State) (k : Nat) (f : Die → Die) : (s.modDie k f).s2 = s.s2 := rfl
@[simp] theorem State.modDie_vfs (s : State) (k : Nat) (f : Die → Die) : (s.modDie k f).vfs = s.vfs := rfl
@[simp] theorem State.modDie_parts (s : State) (k : Nat) (f : Die → Die) : (s.modDie k f).parts = s.parts := rfl
@[simp] theorem State.modDie_staged (s : State) (k : Nat) (f : Die → Die) : (s.modDie k f).staged = s.staged := rfl
@[simp] theorem State.modDie_shapes (s : State) (k : Nat) (f : Die → Die) : (s.modDie k f).shapes = s.shapes := rfl
@[simp] theorem State.modDie_wids (s : State) (k : Nat) (f : Die → Die) : (s.modDie k f).wids = s.wids := rfl
@[simp] theorem State.modDie_barriers (s : State) (k : Nat) (f : Die → Die) : (s.modDie k f).barriers = s.barriers := rfl
@[simp] theorem State.modDie_colls (s : State) (k : Nat) (f : Die → Die) : (s.modDie k f).colls = s.colls := rfl
@[simp] theorem State.modDie_fmsgs (s : State) (k : Nat) (f : Die → Die) : (s.modDie k f).fmsgs = s.fmsgs := rfl
@[simp] theorem State.modDie_mail (s : State) (k : Nat) (f : Die → Die) : (s.modDie k f).mail = s.mail := rfl
@[simp] theorem State.modDie_klota (s : State) (k : Nat) (f : Die → Die) : (s.modDie k f).klota = s.klota := rfl
@[simp] theorem State.modDie_errors (s : State) (k : Nat) (f : Die → Die) : (s.modDie k f).errors = s.errors := rfl
@[simp] theorem State.modDie_faults (s : State) (k : Nat) (f : Die → Die) : (s.modDie k f).faults = s.faults := rfl
@[simp] theorem State.modDie_ages (s : State) (k : Nat) (f : Die → Die) : (s.modDie k f).ages = s.ages := rfl
@[simp] theorem State.modDie_migrations (s : State) (k : Nat) (f : Die → Die) : (s.modDie k f).migrations = s.migrations := rfl
@[simp] theorem State.modDie_retiredFrames (s : State) (k : Nat) (f : Die → Die) : (s.modDie k f).retiredFrames = s.retiredFrames := rfl
@[simp] theorem State.modDie_sensors (s : State) (k : Nat) (f : Die → Die) : (s.modDie k f).sensors = s.sensors := rfl
@[simp] theorem State.modDie_hbm (s : State) (k : Nat) (f : Die → Die) : (s.modDie k f).hbm = s.hbm := rfl
@[simp] theorem State.modDie_routers (s : State) (k : Nat) (f : Die → Die) : (s.modDie k f).routers = s.routers := rfl
@[simp] theorem State.modDie_services (s : State) (k : Nat) (f : Die → Die) : (s.modDie k f).services = s.services := rfl
@[simp] theorem State.modDie_vocabs (s : State) (k : Nat) (f : Die → Die) : (s.modDie k f).vocabs = s.vocabs := rfl
@[simp] theorem State.modDie_rings (s : State) (k : Nat) (f : Die → Die) : (s.modDie k f).rings = s.rings := rfl
@[simp] theorem State.modDie_grammars (s : State) (k : Nat) (f : Die → Die) : (s.modDie k f).grammars = s.grammars := rfl
@[simp] theorem State.modDie_sessions (s : State) (k : Nat) (f : Die → Die) : (s.modDie k f).sessions = s.sessions := rfl
@[simp] theorem State.modDie_requests (s : State) (k : Nat) (f : Die → Die) : (s.modDie k f).requests = s.requests := rfl
@[simp] theorem State.modDie_tokQ (s : State) (k : Nat) (f : Die → Die) : (s.modDie k f).tokQ = s.tokQ := rfl
@[simp] theorem State.modDie_detokQ (s : State) (k : Nat) (f : Die → Die) : (s.modDie k f).detokQ = s.detokQ := rfl
@[simp] theorem State.modDie_beacons (s : State) (k : Nat) (f : Die → Die) : (s.modDie k f).beacons = s.beacons := rfl

@[simp] theorem State.modLaunch_now (s : State) (k : Nat) (f : Launch → Launch) : (s.modLaunch k f).now = s.now := by unfold State.modLaunch; split <;> rfl
@[simp] theorem State.modLaunch_ticket (s : State) (k : Nat) (f : Launch → Launch) : (s.modLaunch k f).ticket = s.ticket := by unfold State.modLaunch; split <;> rfl
@[simp] theorem State.modLaunch_agenda (s : State) (k : Nat) (f : Launch → Launch) : (s.modLaunch k f).agenda = s.agenda := by unfold State.modLaunch; split <;> rfl
@[simp] theorem State.modLaunch_cur (s : State) (k : Nat) (f : Launch → Launch) : (s.modLaunch k f).cur = s.cur := by unfold State.modLaunch; split <;> rfl
@[simp] theorem State.modLaunch_lane (s : State) (k : Nat) (f : Launch → Launch) : (s.modLaunch k f).lane = s.lane := by unfold State.modLaunch; split <;> rfl
@[simp] theorem State.modLaunch_args (s : State) (k : Nat) (f : Launch → Launch) : (s.modLaunch k f).args = s.args := by unfold State.modLaunch; split <;> rfl
@[simp] theorem State.modLaunch_nextId (s : State) (k : Nat) (f : Launch → Launch) : (s.modLaunch k f).nextId = s.nextId := by unfold State.modLaunch; split <;> rfl
@[simp] theorem State.modLaunch_outbox (s : State) (k : Nat) (f : Launch → Launch) : (s.modLaunch k f).outbox = s.outbox := by unfold State.modLaunch; split <;> rfl
@[simp] theorem State.modLaunch_jobs (s : State) (k : Nat) (f : Launch → Launch) : (s.modLaunch k f).jobs = s.jobs := by unfold State.modLaunch; split <;> rfl
@[simp] theorem State.modLaunch_flights (s : State) (k : Nat) (f : Launch → Launch) : (s.modLaunch k f).flights = s.flights := by unfold State.modLaunch; split <;> rfl
@[simp] theorem State.modLaunch_accesses (s : State) (k : Nat) (f : Launch → Launch) : (s.modLaunch k f).accesses = s.accesses := by unfold State.modLaunch; split <;> rfl
@[simp] theorem State.modLaunch_cores (s : State) (k : Nat) (f : Launch → Launch) : (s.modLaunch k f).cores = s.cores := by unfold State.modLaunch; split <;> rfl
@[simp] theorem State.modLaunch_dies (s : State) (k : Nat) (f : Launch → Launch) : (s.modLaunch k f).dies = s.dies := by unfold State.modLaunch; split <;> rfl
@[simp] theorem State.modLaunch_mem (s : State) (k : Nat) (f : Launch → Launch) : (s.modLaunch k f).mem = s.mem := by unfold State.modLaunch; split <;> rfl
@[simp] theorem State.modLaunch_memPoison (s : State) (k : Nat) (f : Launch → Launch) : (s.modLaunch k f).memPoison = s.memPoison := by unfold State.modLaunch; split <;> rfl
@[simp] theorem State.modLaunch_boots (s : State) (k : Nat) (f : Launch → Launch) : (s.modLaunch k f).boots = s.boots := by unfold State.modLaunch; split <;> rfl
@[simp] theorem State.modLaunch_boot (s : State) (k : Nat) (f : Launch → Launch) : (s.modLaunch k f).boot = s.boot := by unfold State.modLaunch; split <;> rfl
@[simp] theorem State.modLaunch_ready (s : State) (k : Nat) (f : Launch → Launch) : (s.modLaunch k f).ready = s.ready := by unfold State.modLaunch; split <;> rfl
@[simp] theorem State.modLaunch_fatal (s : State) (k : Nat) (f : Launch → Launch) : (s.modLaunch k f).fatal = s.fatal := by unfold State.modLaunch; split <;> rfl
@[simp] theorem State.modLaunch_supply (s : State) (k : Nat) (f : Launch → Launch) : (s.modLaunch k f).supply = s.supply := by unfold State.modLaunch; split <;> rfl
@[simp] theorem State.modLaunch_ptpt (s : State) (k : Nat) (f : Launch → Launch) : (s.modLaunch k f).ptpt = s.ptpt := by unfold State.modLaunch; split <;> rfl
@[simp] theorem State.modLaunch_slew (s : State) (k : Nat) (f : Launch → Launch) : (s.modLaunch k f).slew = s.slew := by unfold State.modLaunch; split <;> rfl
@[simp] theorem State.modLaunch_etherUp (s : State) (k : Nat) (f : Launch → Launch) : (s.modLaunch k f).etherUp = s.etherUp := by unfold State.modLaunch; split <;> rfl
@[simp] theorem State.modLaunch_pkg (s : State) (k : Nat) (f : Launch → Launch) : (s.modLaunch k f).pkg = s.pkg := by unfold State.modLaunch; split <;> rfl
@[simp] theorem State.modLaunch_queues (s : State) (k : Nat) (f : Launch → Launch) : (s.modLaunch k f).queues = s.queues := by unfold State.modLaunch; split <;> rfl
@[simp] theorem State.modLaunch_history (s : State) (k : Nat) (f : Launch → Launch) : (s.modLaunch k f).history = s.history := by unfold State.modLaunch; split <;> rfl
@[simp] theorem State.modLaunch_ctxs (s : State) (k : Nat) (f : Launch → Launch) : (s.modLaunch k f).ctxs = s.ctxs := by unfold State.modLaunch; split <;> rfl
@[simp] theorem State.modLaunch_s1 (s : State) (k : Nat) (f : Launch → Launch) : (s.modLaunch k f).s1 = s.s1 := by unfold State.modLaunch; split <;> rfl
@[simp] theorem State.modLaunch_s2 (s : State) (k : Nat) (f : Launch → Launch) : (s.modLaunch k f).s2 = s.s2 := by unfold State.modLaunch; split <;> rfl
@[simp] theorem State.modLaunch_vfs (s : State) (k : Nat) (f : Launch → Launch) : (s.modLaunch k f).vfs = s.vfs := by unfold State.modLaunch; split <;> rfl
@[simp] theorem State.modLaunch_parts (s : State) (k : Nat) (f : Launch → Launch) : (s.modLaunch k f).parts = s.parts := by unfold State.modLaunch; split <;> rfl
@[simp] theorem State.modLaunch_staged (s : State) (k : Nat) (f : Launch → Launch) : (s.modLaunch k f).staged = s.staged := by unfold State.modLaunch; split <;> rfl
@[simp] theorem State.modLaunch_shapes (s : State) (k : Nat) (f : Launch → Launch) : (s.modLaunch k f).shapes = s.shapes := by unfold State.modLaunch; split <;> rfl
@[simp] theorem State.modLaunch_wids (s : State) (k : Nat) (f : Launch → Launch) : (s.modLaunch k f).wids = s.wids := by unfold State.modLaunch; split <;> rfl
@[simp] theorem State.modLaunch_barriers (s : State) (k : Nat) (f : Launch → Launch) : (s.modLaunch k f).barriers = s.barriers := by unfold State.modLaunch; split <;> rfl
@[simp] theorem State.modLaunch_colls (s : State) (k : Nat) (f : Launch → Launch) : (s.modLaunch k f).colls = s.colls := by unfold State.modLaunch; split <;> rfl
@[simp] theorem State.modLaunch_fmsgs (s : State) (k : Nat) (f : Launch → Launch) : (s.modLaunch k f).fmsgs = s.fmsgs := by unfold State.modLaunch; split <;> rfl
@[simp] theorem State.modLaunch_mail (s : State) (k : Nat) (f : Launch → Launch) : (s.modLaunch k f).mail = s.mail := by unfold State.modLaunch; split <;> rfl
@[simp] theorem State.modLaunch_klota (s : State) (k : Nat) (f : Launch → Launch) : (s.modLaunch k f).klota = s.klota := by unfold State.modLaunch; split <;> rfl
@[simp] theorem State.modLaunch_errors (s : State) (k : Nat) (f : Launch → Launch) : (s.modLaunch k f).errors = s.errors := by unfold State.modLaunch; split <;> rfl
@[simp] theorem State.modLaunch_faults (s : State) (k : Nat) (f : Launch → Launch) : (s.modLaunch k f).faults = s.faults := by unfold State.modLaunch; split <;> rfl
@[simp] theorem State.modLaunch_ages (s : State) (k : Nat) (f : Launch → Launch) : (s.modLaunch k f).ages = s.ages := by unfold State.modLaunch; split <;> rfl
@[simp] theorem State.modLaunch_migrations (s : State) (k : Nat) (f : Launch → Launch) : (s.modLaunch k f).migrations = s.migrations := by unfold State.modLaunch; split <;> rfl
@[simp] theorem State.modLaunch_retiredFrames (s : State) (k : Nat) (f : Launch → Launch) : (s.modLaunch k f).retiredFrames = s.retiredFrames := by unfold State.modLaunch; split <;> rfl
@[simp] theorem State.modLaunch_sensors (s : State) (k : Nat) (f : Launch → Launch) : (s.modLaunch k f).sensors = s.sensors := by unfold State.modLaunch; split <;> rfl
@[simp] theorem State.modLaunch_hbm (s : State) (k : Nat) (f : Launch → Launch) : (s.modLaunch k f).hbm = s.hbm := by unfold State.modLaunch; split <;> rfl
@[simp] theorem State.modLaunch_routers (s : State) (k : Nat) (f : Launch → Launch) : (s.modLaunch k f).routers = s.routers := by unfold State.modLaunch; split <;> rfl
@[simp] theorem State.modLaunch_services (s : State) (k : Nat) (f : Launch → Launch) : (s.modLaunch k f).services = s.services := by unfold State.modLaunch; split <;> rfl
@[simp] theorem State.modLaunch_vocabs (s : State) (k : Nat) (f : Launch → Launch) : (s.modLaunch k f).vocabs = s.vocabs := by unfold State.modLaunch; split <;> rfl
@[simp] theorem State.modLaunch_rings (s : State) (k : Nat) (f : Launch → Launch) : (s.modLaunch k f).rings = s.rings := by unfold State.modLaunch; split <;> rfl
@[simp] theorem State.modLaunch_grammars (s : State) (k : Nat) (f : Launch → Launch) : (s.modLaunch k f).grammars = s.grammars := by unfold State.modLaunch; split <;> rfl
@[simp] theorem State.modLaunch_sessions (s : State) (k : Nat) (f : Launch → Launch) : (s.modLaunch k f).sessions = s.sessions := by unfold State.modLaunch; split <;> rfl
@[simp] theorem State.modLaunch_requests (s : State) (k : Nat) (f : Launch → Launch) : (s.modLaunch k f).requests = s.requests := by unfold State.modLaunch; split <;> rfl
@[simp] theorem State.modLaunch_tokQ (s : State) (k : Nat) (f : Launch → Launch) : (s.modLaunch k f).tokQ = s.tokQ := by unfold State.modLaunch; split <;> rfl
@[simp] theorem State.modLaunch_detokQ (s : State) (k : Nat) (f : Launch → Launch) : (s.modLaunch k f).detokQ = s.detokQ := by unfold State.modLaunch; split <;> rfl
@[simp] theorem State.modLaunch_beacons (s : State) (k : Nat) (f : Launch → Launch) : (s.modLaunch k f).beacons = s.beacons := by unfold State.modLaunch; split <;> rfl

@[simp] theorem State.modCtx_now (s : State) (k : Nat) (f : Ctx → Ctx) : (s.modCtx k f).now = s.now := by unfold State.modCtx; split <;> rfl
@[simp] theorem State.modCtx_ticket (s : State) (k : Nat) (f : Ctx → Ctx) : (s.modCtx k f).ticket = s.ticket := by unfold State.modCtx; split <;> rfl
@[simp] theorem State.modCtx_agenda (s : State) (k : Nat) (f : Ctx → Ctx) : (s.modCtx k f).agenda = s.agenda := by unfold State.modCtx; split <;> rfl
@[simp] theorem State.modCtx_cur (s : State) (k : Nat) (f : Ctx → Ctx) : (s.modCtx k f).cur = s.cur := by unfold State.modCtx; split <;> rfl
@[simp] theorem State.modCtx_lane (s : State) (k : Nat) (f : Ctx → Ctx) : (s.modCtx k f).lane = s.lane := by unfold State.modCtx; split <;> rfl
@[simp] theorem State.modCtx_args (s : State) (k : Nat) (f : Ctx → Ctx) : (s.modCtx k f).args = s.args := by unfold State.modCtx; split <;> rfl
@[simp] theorem State.modCtx_nextId (s : State) (k : Nat) (f : Ctx → Ctx) : (s.modCtx k f).nextId = s.nextId := by unfold State.modCtx; split <;> rfl
@[simp] theorem State.modCtx_outbox (s : State) (k : Nat) (f : Ctx → Ctx) : (s.modCtx k f).outbox = s.outbox := by unfold State.modCtx; split <;> rfl
@[simp] theorem State.modCtx_jobs (s : State) (k : Nat) (f : Ctx → Ctx) : (s.modCtx k f).jobs = s.jobs := by unfold State.modCtx; split <;> rfl
@[simp] theorem State.modCtx_flights (s : State) (k : Nat) (f : Ctx → Ctx) : (s.modCtx k f).flights = s.flights := by unfold State.modCtx; split <;> rfl
@[simp] theorem State.modCtx_accesses (s : State) (k : Nat) (f : Ctx → Ctx) : (s.modCtx k f).accesses = s.accesses := by unfold State.modCtx; split <;> rfl
@[simp] theorem State.modCtx_cores (s : State) (k : Nat) (f : Ctx → Ctx) : (s.modCtx k f).cores = s.cores := by unfold State.modCtx; split <;> rfl
@[simp] theorem State.modCtx_dies (s : State) (k : Nat) (f : Ctx → Ctx) : (s.modCtx k f).dies = s.dies := by unfold State.modCtx; split <;> rfl
@[simp] theorem State.modCtx_mem (s : State) (k : Nat) (f : Ctx → Ctx) : (s.modCtx k f).mem = s.mem := by unfold State.modCtx; split <;> rfl
@[simp] theorem State.modCtx_memPoison (s : State) (k : Nat) (f : Ctx → Ctx) : (s.modCtx k f).memPoison = s.memPoison := by unfold State.modCtx; split <;> rfl
@[simp] theorem State.modCtx_boots (s : State) (k : Nat) (f : Ctx → Ctx) : (s.modCtx k f).boots = s.boots := by unfold State.modCtx; split <;> rfl
@[simp] theorem State.modCtx_boot (s : State) (k : Nat) (f : Ctx → Ctx) : (s.modCtx k f).boot = s.boot := by unfold State.modCtx; split <;> rfl
@[simp] theorem State.modCtx_ready (s : State) (k : Nat) (f : Ctx → Ctx) : (s.modCtx k f).ready = s.ready := by unfold State.modCtx; split <;> rfl
@[simp] theorem State.modCtx_fatal (s : State) (k : Nat) (f : Ctx → Ctx) : (s.modCtx k f).fatal = s.fatal := by unfold State.modCtx; split <;> rfl
@[simp] theorem State.modCtx_supply (s : State) (k : Nat) (f : Ctx → Ctx) : (s.modCtx k f).supply = s.supply := by unfold State.modCtx; split <;> rfl
@[simp] theorem State.modCtx_ptpt (s : State) (k : Nat) (f : Ctx → Ctx) : (s.modCtx k f).ptpt = s.ptpt := by unfold State.modCtx; split <;> rfl
@[simp] theorem State.modCtx_slew (s : State) (k : Nat) (f : Ctx → Ctx) : (s.modCtx k f).slew = s.slew := by unfold State.modCtx; split <;> rfl
@[simp] theorem State.modCtx_etherUp (s : State) (k : Nat) (f : Ctx → Ctx) : (s.modCtx k f).etherUp = s.etherUp := by unfold State.modCtx; split <;> rfl
@[simp] theorem State.modCtx_pkg (s : State) (k : Nat) (f : Ctx → Ctx) : (s.modCtx k f).pkg = s.pkg := by unfold State.modCtx; split <;> rfl
@[simp] theorem State.modCtx_queues (s : State) (k : Nat) (f : Ctx → Ctx) : (s.modCtx k f).queues = s.queues := by unfold State.modCtx; split <;> rfl
@[simp] theorem State.modCtx_history (s : State) (k : Nat) (f : Ctx → Ctx) : (s.modCtx k f).history = s.history := by unfold State.modCtx; split <;> rfl
@[simp] theorem State.modCtx_launches (s : State) (k : Nat) (f : Ctx → Ctx) : (s.modCtx k f).launches = s.launches := by unfold State.modCtx; split <;> rfl
@[simp] theorem State.modCtx_s1 (s : State) (k : Nat) (f : Ctx → Ctx) : (s.modCtx k f).s1 = s.s1 := by unfold State.modCtx; split <;> rfl
@[simp] theorem State.modCtx_s2 (s : State) (k : Nat) (f : Ctx → Ctx) : (s.modCtx k f).s2 = s.s2 := by unfold State.modCtx; split <;> rfl
@[simp] theorem State.modCtx_vfs (s : State) (k : Nat) (f : Ctx → Ctx) : (s.modCtx k f).vfs = s.vfs := by unfold State.modCtx; split <;> rfl
@[simp] theorem State.modCtx_parts (s : State) (k : Nat) (f : Ctx → Ctx) : (s.modCtx k f).parts = s.parts := by unfold State.modCtx; split <;> rfl
@[simp] theorem State.modCtx_staged (s : State) (k : Nat) (f : Ctx → Ctx) : (s.modCtx k f).staged = s.staged := by unfold State.modCtx; split <;> rfl
@[simp] theorem State.modCtx_shapes (s : State) (k : Nat) (f : Ctx → Ctx) : (s.modCtx k f).shapes = s.shapes := by unfold State.modCtx; split <;> rfl
@[simp] theorem State.modCtx_wids (s : State) (k : Nat) (f : Ctx → Ctx) : (s.modCtx k f).wids = s.wids := by unfold State.modCtx; split <;> rfl
@[simp] theorem State.modCtx_barriers (s : State) (k : Nat) (f : Ctx → Ctx) : (s.modCtx k f).barriers = s.barriers := by unfold State.modCtx; split <;> rfl
@[simp] theorem State.modCtx_colls (s : State) (k : Nat) (f : Ctx → Ctx) : (s.modCtx k f).colls = s.colls := by unfold State.modCtx; split <;> rfl
@[simp] theorem State.modCtx_fmsgs (s : State) (k : Nat) (f : Ctx → Ctx) : (s.modCtx k f).fmsgs = s.fmsgs := by unfold State.modCtx; split <;> rfl
@[simp] theorem State.modCtx_mail (s : State) (k : Nat) (f : Ctx → Ctx) : (s.modCtx k f).mail = s.mail := by unfold State.modCtx; split <;> rfl
@[simp] theorem State.modCtx_klota (s : State) (k : Nat) (f : Ctx → Ctx) : (s.modCtx k f).klota = s.klota := by unfold State.modCtx; split <;> rfl
@[simp] theorem State.modCtx_errors (s : State) (k : Nat) (f : Ctx → Ctx) : (s.modCtx k f).errors = s.errors := by unfold State.modCtx; split <;> rfl
@[simp] theorem State.modCtx_faults (s : State) (k : Nat) (f : Ctx → Ctx) : (s.modCtx k f).faults = s.faults := by unfold State.modCtx; split <;> rfl
@[simp] theorem State.modCtx_ages (s : State) (k : Nat) (f : Ctx → Ctx) : (s.modCtx k f).ages = s.ages := by unfold State.modCtx; split <;> rfl
@[simp] theorem State.modCtx_migrations (s : State) (k : Nat) (f : Ctx → Ctx) : (s.modCtx k f).migrations = s.migrations := by unfold State.modCtx; split <;> rfl
@[simp] theorem State.modCtx_retiredFrames (s : State) (k : Nat) (f : Ctx → Ctx) : (s.modCtx k f).retiredFrames = s.retiredFrames := by unfold State.modCtx; split <;> rfl
@[simp] theorem State.modCtx_sensors (s : State) (k : Nat) (f : Ctx → Ctx) : (s.modCtx k f).sensors = s.sensors := by unfold State.modCtx; split <;> rfl
@[simp] theorem State.modCtx_hbm (s : State) (k : Nat) (f : Ctx → Ctx) : (s.modCtx k f).hbm = s.hbm := by unfold State.modCtx; split <;> rfl
@[simp] theorem State.modCtx_routers (s : State) (k : Nat) (f : Ctx → Ctx) : (s.modCtx k f).routers = s.routers := by unfold State.modCtx; split <;> rfl
@[simp] theorem State.modCtx_services (s : State) (k : Nat) (f : Ctx → Ctx) : (s.modCtx k f).services = s.services := by unfold State.modCtx; split <;> rfl
@[simp] theorem State.modCtx_vocabs (s : State) (k : Nat) (f : Ctx → Ctx) : (s.modCtx k f).vocabs = s.vocabs := by unfold State.modCtx; split <;> rfl
@[simp] theorem State.modCtx_rings (s : State) (k : Nat) (f : Ctx → Ctx) : (s.modCtx k f).rings = s.rings := by unfold State.modCtx; split <;> rfl
@[simp] theorem State.modCtx_grammars (s : State) (k : Nat) (f : Ctx → Ctx) : (s.modCtx k f).grammars = s.grammars := by unfold State.modCtx; split <;> rfl
@[simp] theorem State.modCtx_sessions (s : State) (k : Nat) (f : Ctx → Ctx) : (s.modCtx k f).sessions = s.sessions := by unfold State.modCtx; split <;> rfl
@[simp] theorem State.modCtx_requests (s : State) (k : Nat) (f : Ctx → Ctx) : (s.modCtx k f).requests = s.requests := by unfold State.modCtx; split <;> rfl
@[simp] theorem State.modCtx_tokQ (s : State) (k : Nat) (f : Ctx → Ctx) : (s.modCtx k f).tokQ = s.tokQ := by unfold State.modCtx; split <;> rfl
@[simp] theorem State.modCtx_detokQ (s : State) (k : Nat) (f : Ctx → Ctx) : (s.modCtx k f).detokQ = s.detokQ := by unfold State.modCtx; split <;> rfl
@[simp] theorem State.modCtx_beacons (s : State) (k : Nat) (f : Ctx → Ctx) : (s.modCtx k f).beacons = s.beacons := by unfold State.modCtx; split <;> rfl

@[simp] theorem State.modFlight_now (s : State) (k : Nat) (f : Flight → Flight) : (s.modFlight k f).now = s.now := by unfold State.modFlight; split <;> rfl
@[simp] theorem State.modFlight_ticket (s : State) (k : Nat) (f : Flight → Flight) : (s.modFlight k f).ticket = s.ticket := by unfold State.modFlight; split <;> rfl
@[simp] theorem State.modFlight_agenda (s : State) (k : Nat) (f : Flight → Flight) : (s.modFlight k f).agenda = s.agenda := by unfold State.modFlight; split <;> rfl
@[simp] theorem State.modFlight_cur (s : State) (k : Nat) (f : Flight → Flight) : (s.modFlight k f).cur = s.cur := by unfold State.modFlight; split <;> rfl
@[simp] theorem State.modFlight_lane (s : State) (k : Nat) (f : Flight → Flight) : (s.modFlight k f).lane = s.lane := by unfold State.modFlight; split <;> rfl
@[simp] theorem State.modFlight_args (s : State) (k : Nat) (f : Flight → Flight) : (s.modFlight k f).args = s.args := by unfold State.modFlight; split <;> rfl
@[simp] theorem State.modFlight_nextId (s : State) (k : Nat) (f : Flight → Flight) : (s.modFlight k f).nextId = s.nextId := by unfold State.modFlight; split <;> rfl
@[simp] theorem State.modFlight_outbox (s : State) (k : Nat) (f : Flight → Flight) : (s.modFlight k f).outbox = s.outbox := by unfold State.modFlight; split <;> rfl
@[simp] theorem State.modFlight_jobs (s : State) (k : Nat) (f : Flight → Flight) : (s.modFlight k f).jobs = s.jobs := by unfold State.modFlight; split <;> rfl
@[simp] theorem State.modFlight_accesses (s : State) (k : Nat) (f : Flight → Flight) : (s.modFlight k f).accesses = s.accesses := by unfold State.modFlight; split <;> rfl
@[simp] theorem State.modFlight_cores (s : State) (k : Nat) (f : Flight → Flight) : (s.modFlight k f).cores = s.cores := by unfold State.modFlight; split <;> rfl
@[simp] theorem State.modFlight_dies (s : State) (k : Nat) (f : Flight → Flight) : (s.modFlight k f).dies = s.dies := by unfold State.modFlight; split <;> rfl
@[simp] theorem State.modFlight_mem (s : State) (k : Nat) (f : Flight → Flight) : (s.modFlight k f).mem = s.mem := by unfold State.modFlight; split <;> rfl
@[simp] theorem State.modFlight_memPoison (s : State) (k : Nat) (f : Flight → Flight) : (s.modFlight k f).memPoison = s.memPoison := by unfold State.modFlight; split <;> rfl
@[simp] theorem State.modFlight_boots (s : State) (k : Nat) (f : Flight → Flight) : (s.modFlight k f).boots = s.boots := by unfold State.modFlight; split <;> rfl
@[simp] theorem State.modFlight_boot (s : State) (k : Nat) (f : Flight → Flight) : (s.modFlight k f).boot = s.boot := by unfold State.modFlight; split <;> rfl
@[simp] theorem State.modFlight_ready (s : State) (k : Nat) (f : Flight → Flight) : (s.modFlight k f).ready = s.ready := by unfold State.modFlight; split <;> rfl
@[simp] theorem State.modFlight_fatal (s : State) (k : Nat) (f : Flight → Flight) : (s.modFlight k f).fatal = s.fatal := by unfold State.modFlight; split <;> rfl
@[simp] theorem State.modFlight_supply (s : State) (k : Nat) (f : Flight → Flight) : (s.modFlight k f).supply = s.supply := by unfold State.modFlight; split <;> rfl
@[simp] theorem State.modFlight_ptpt (s : State) (k : Nat) (f : Flight → Flight) : (s.modFlight k f).ptpt = s.ptpt := by unfold State.modFlight; split <;> rfl
@[simp] theorem State.modFlight_slew (s : State) (k : Nat) (f : Flight → Flight) : (s.modFlight k f).slew = s.slew := by unfold State.modFlight; split <;> rfl
@[simp] theorem State.modFlight_etherUp (s : State) (k : Nat) (f : Flight → Flight) : (s.modFlight k f).etherUp = s.etherUp := by unfold State.modFlight; split <;> rfl
@[simp] theorem State.modFlight_pkg (s : State) (k : Nat) (f : Flight → Flight) : (s.modFlight k f).pkg = s.pkg := by unfold State.modFlight; split <;> rfl
@[simp] theorem State.modFlight_queues (s : State) (k : Nat) (f : Flight → Flight) : (s.modFlight k f).queues = s.queues := by unfold State.modFlight; split <;> rfl
@[simp] theorem State.modFlight_history (s : State) (k : Nat) (f : Flight → Flight) : (s.modFlight k f).history = s.history := by unfold State.modFlight; split <;> rfl
@[simp] theorem State.modFlight_launches (s : State) (k : Nat) (f : Flight → Flight) : (s.modFlight k f).launches = s.launches := by unfold State.modFlight; split <;> rfl
@[simp] theorem State.modFlight_ctxs (s : State) (k : Nat) (f : Flight → Flight) : (s.modFlight k f).ctxs = s.ctxs := by unfold State.modFlight; split <;> rfl
@[simp] theorem State.modFlight_s1 (s : State) (k : Nat) (f : Flight → Flight) : (s.modFlight k f).s1 = s.s1 := by unfold State.modFlight; split <;> rfl
@[simp] theorem State.modFlight_s2 (s : State) (k : Nat) (f : Flight → Flight) : (s.modFlight k f).s2 = s.s2 := by unfold State.modFlight; split <;> rfl
@[simp] theorem State.modFlight_vfs (s : State) (k : Nat) (f : Flight → Flight) : (s.modFlight k f).vfs = s.vfs := by unfold State.modFlight; split <;> rfl
@[simp] theorem State.modFlight_parts (s : State) (k : Nat) (f : Flight → Flight) : (s.modFlight k f).parts = s.parts := by unfold State.modFlight; split <;> rfl
@[simp] theorem State.modFlight_staged (s : State) (k : Nat) (f : Flight → Flight) : (s.modFlight k f).staged = s.staged := by unfold State.modFlight; split <;> rfl
@[simp] theorem State.modFlight_shapes (s : State) (k : Nat) (f : Flight → Flight) : (s.modFlight k f).shapes = s.shapes := by unfold State.modFlight; split <;> rfl
@[simp] theorem State.modFlight_wids (s : State) (k : Nat) (f : Flight → Flight) : (s.modFlight k f).wids = s.wids := by unfold State.modFlight; split <;> rfl
@[simp] theorem State.modFlight_barriers (s : State) (k : Nat) (f : Flight → Flight) : (s.modFlight k f).barriers = s.barriers := by unfold State.modFlight; split <;> rfl
@[simp] theorem State.modFlight_colls (s : State) (k : Nat) (f : Flight → Flight) : (s.modFlight k f).colls = s.colls := by unfold State.modFlight; split <;> rfl
@[simp] theorem State.modFlight_fmsgs (s : State) (k : Nat) (f : Flight → Flight) : (s.modFlight k f).fmsgs = s.fmsgs := by unfold State.modFlight; split <;> rfl
@[simp] theorem State.modFlight_mail (s : State) (k : Nat) (f : Flight → Flight) : (s.modFlight k f).mail = s.mail := by unfold State.modFlight; split <;> rfl
@[simp] theorem State.modFlight_klota (s : State) (k : Nat) (f : Flight → Flight) : (s.modFlight k f).klota = s.klota := by unfold State.modFlight; split <;> rfl
@[simp] theorem State.modFlight_errors (s : State) (k : Nat) (f : Flight → Flight) : (s.modFlight k f).errors = s.errors := by unfold State.modFlight; split <;> rfl
@[simp] theorem State.modFlight_faults (s : State) (k : Nat) (f : Flight → Flight) : (s.modFlight k f).faults = s.faults := by unfold State.modFlight; split <;> rfl
@[simp] theorem State.modFlight_ages (s : State) (k : Nat) (f : Flight → Flight) : (s.modFlight k f).ages = s.ages := by unfold State.modFlight; split <;> rfl
@[simp] theorem State.modFlight_migrations (s : State) (k : Nat) (f : Flight → Flight) : (s.modFlight k f).migrations = s.migrations := by unfold State.modFlight; split <;> rfl
@[simp] theorem State.modFlight_retiredFrames (s : State) (k : Nat) (f : Flight → Flight) : (s.modFlight k f).retiredFrames = s.retiredFrames := by unfold State.modFlight; split <;> rfl
@[simp] theorem State.modFlight_sensors (s : State) (k : Nat) (f : Flight → Flight) : (s.modFlight k f).sensors = s.sensors := by unfold State.modFlight; split <;> rfl
@[simp] theorem State.modFlight_hbm (s : State) (k : Nat) (f : Flight → Flight) : (s.modFlight k f).hbm = s.hbm := by unfold State.modFlight; split <;> rfl
@[simp] theorem State.modFlight_routers (s : State) (k : Nat) (f : Flight → Flight) : (s.modFlight k f).routers = s.routers := by unfold State.modFlight; split <;> rfl
@[simp] theorem State.modFlight_services (s : State) (k : Nat) (f : Flight → Flight) : (s.modFlight k f).services = s.services := by unfold State.modFlight; split <;> rfl
@[simp] theorem State.modFlight_vocabs (s : State) (k : Nat) (f : Flight → Flight) : (s.modFlight k f).vocabs = s.vocabs := by unfold State.modFlight; split <;> rfl
@[simp] theorem State.modFlight_rings (s : State) (k : Nat) (f : Flight → Flight) : (s.modFlight k f).rings = s.rings := by unfold State.modFlight; split <;> rfl
@[simp] theorem State.modFlight_grammars (s : State) (k : Nat) (f : Flight → Flight) : (s.modFlight k f).grammars = s.grammars := by unfold State.modFlight; split <;> rfl
@[simp] theorem State.modFlight_sessions (s : State) (k : Nat) (f : Flight → Flight) : (s.modFlight k f).sessions = s.sessions := by unfold State.modFlight; split <;> rfl
@[simp] theorem State.modFlight_requests (s : State) (k : Nat) (f : Flight → Flight) : (s.modFlight k f).requests = s.requests := by unfold State.modFlight; split <;> rfl
@[simp] theorem State.modFlight_tokQ (s : State) (k : Nat) (f : Flight → Flight) : (s.modFlight k f).tokQ = s.tokQ := by unfold State.modFlight; split <;> rfl
@[simp] theorem State.modFlight_detokQ (s : State) (k : Nat) (f : Flight → Flight) : (s.modFlight k f).detokQ = s.detokQ := by unfold State.modFlight; split <;> rfl
@[simp] theorem State.modFlight_beacons (s : State) (k : Nat) (f : Flight → Flight) : (s.modFlight k f).beacons = s.beacons := by unfold State.modFlight; split <;> rfl

@[simp] theorem State.newId_now (s : State) : (s.newId).now = s.now := rfl
@[simp] theorem State.newId_ticket (s : State) : (s.newId).ticket = s.ticket := rfl
@[simp] theorem State.newId_agenda (s : State) : (s.newId).agenda = s.agenda := rfl
@[simp] theorem State.newId_cur (s : State) : (s.newId).cur = s.cur := rfl
@[simp] theorem State.newId_lane (s : State) : (s.newId).lane = s.lane := rfl
@[simp] theorem State.newId_args (s : State) : (s.newId).args = s.args := rfl
@[simp] theorem State.newId_outbox (s : State) : (s.newId).outbox = s.outbox := rfl
@[simp] theorem State.newId_jobs (s : State) : (s.newId).jobs = s.jobs := rfl
@[simp] theorem State.newId_flights (s : State) : (s.newId).flights = s.flights := rfl
@[simp] theorem State.newId_accesses (s : State) : (s.newId).accesses = s.accesses := rfl
@[simp] theorem State.newId_cores (s : State) : (s.newId).cores = s.cores := rfl
@[simp] theorem State.newId_dies (s : State) : (s.newId).dies = s.dies := rfl
@[simp] theorem State.newId_mem (s : State) : (s.newId).mem = s.mem := rfl
@[simp] theorem State.newId_memPoison (s : State) : (s.newId).memPoison = s.memPoison := rfl
@[simp] theorem State.newId_boots (s : State) : (s.newId).boots = s.boots := rfl
@[simp] theorem State.newId_boot (s : State) : (s.newId).boot = s.boot := rfl
@[simp] theorem State.newId_ready (s : State) : (s.newId).ready = s.ready := rfl
@[simp] theorem State.newId_fatal (s : State) : (s.newId).fatal = s.fatal := rfl
@[simp] theorem State.newId_supply (s : State) : (s.newId).supply = s.supply := rfl
@[simp] theorem State.newId_ptpt (s : State) : (s.newId).ptpt = s.ptpt := rfl
@[simp] theorem State.newId_slew (s : State) : (s.newId).slew = s.slew := rfl
@[simp] theorem State.newId_etherUp (s : State) : (s.newId).etherUp = s.etherUp := rfl
@[simp] theorem State.newId_pkg (s : State) : (s.newId).pkg = s.pkg := rfl
@[simp] theorem State.newId_queues (s : State) : (s.newId).queues = s.queues := rfl
@[simp] theorem State.newId_history (s : State) : (s.newId).history = s.history := rfl
@[simp] theorem State.newId_launches (s : State) : (s.newId).launches = s.launches := rfl
@[simp] theorem State.newId_ctxs (s : State) : (s.newId).ctxs = s.ctxs := rfl
@[simp] theorem State.newId_s1 (s : State) : (s.newId).s1 = s.s1 := rfl
@[simp] theorem State.newId_s2 (s : State) : (s.newId).s2 = s.s2 := rfl
@[simp] theorem State.newId_vfs (s : State) : (s.newId).vfs = s.vfs := rfl
@[simp] theorem State.newId_parts (s : State) : (s.newId).parts = s.parts := rfl
@[simp] theorem State.newId_staged (s : State) : (s.newId).staged = s.staged := rfl
@[simp] theorem State.newId_shapes (s : State) : (s.newId).shapes = s.shapes := rfl
@[simp] theorem State.newId_wids (s : State) : (s.newId).wids = s.wids := rfl
@[simp] theorem State.newId_barriers (s : State) : (s.newId).barriers = s.barriers := rfl
@[simp] theorem State.newId_colls (s : State) : (s.newId).colls = s.colls := rfl
@[simp] theorem State.newId_fmsgs (s : State) : (s.newId).fmsgs = s.fmsgs := rfl
@[simp] theorem State.newId_mail (s : State) : (s.newId).mail = s.mail := rfl
@[simp] theorem State.newId_klota (s : State) : (s.newId).klota = s.klota := rfl
@[simp] theorem State.newId_errors (s : State) : (s.newId).errors = s.errors := rfl
@[simp] theorem State.newId_faults (s : State) : (s.newId).faults = s.faults := rfl
@[simp] theorem State.newId_ages (s : State) : (s.newId).ages = s.ages := rfl
@[simp] theorem State.newId_migrations (s : State) : (s.newId).migrations = s.migrations := rfl
@[simp] theorem State.newId_retiredFrames (s : State) : (s.newId).retiredFrames = s.retiredFrames := rfl
@[simp] theorem State.newId_sensors (s : State) : (s.newId).sensors = s.sensors := rfl
@[simp] theorem State.newId_hbm (s : State) : (s.newId).hbm = s.hbm := rfl
@[simp] theorem State.newId_routers (s : State) : (s.newId).routers = s.routers := rfl
@[simp] theorem State.newId_services (s : State) : (s.newId).services = s.services := rfl
@[simp] theorem State.newId_vocabs (s : State) : (s.newId).vocabs = s.vocabs := rfl
@[simp] theorem State.newId_rings (s : State) : (s.newId).rings = s.rings := rfl
@[simp] theorem State.newId_grammars (s : State) : (s.newId).grammars = s.grammars := rfl
@[simp] theorem State.newId_sessions (s : State) : (s.newId).sessions = s.sessions := rfl
@[simp] theorem State.newId_requests (s : State) : (s.newId).requests = s.requests := rfl
@[simp] theorem State.newId_tokQ (s : State) : (s.newId).tokQ = s.tokQ := rfl
@[simp] theorem State.newId_detokQ (s : State) : (s.newId).detokQ = s.detokQ := rfl
@[simp] theorem State.newId_beacons (s : State) : (s.newId).beacons = s.beacons := rfl

@[simp] theorem State.draw_now (s : State) : (s.draw).now = s.now := rfl
@[simp] theorem State.draw_agenda (s : State) : (s.draw).agenda = s.agenda := rfl
@[simp] theorem State.draw_cur (s : State) : (s.draw).cur = s.cur := rfl
@[simp] theorem State.draw_lane (s : State) : (s.draw).lane = s.lane := rfl
@[simp] theorem State.draw_args (s : State) : (s.draw).args = s.args := rfl
@[simp] theorem State.draw_nextId (s : State) : (s.draw).nextId = s.nextId := rfl
@[simp] theorem State.draw_outbox (s : State) : (s.draw).outbox = s.outbox := rfl
@[simp] theorem State.draw_jobs (s : State) : (s.draw).jobs = s.jobs := rfl
@[simp] theorem State.draw_flights (s : State) : (s.draw).flights = s.flights := rfl
@[simp] theorem State.draw_accesses (s : State) : (s.draw).accesses = s.accesses := rfl
@[simp] theorem State.draw_cores (s : State) : (s.draw).cores = s.cores := rfl
@[simp] theorem State.draw_dies (s : State) : (s.draw).dies = s.dies := rfl
@[simp] theorem State.draw_mem (s : State) : (s.draw).mem = s.mem := rfl
@[simp] theorem State.draw_memPoison (s : State) : (s.draw).memPoison = s.memPoison := rfl
@[simp] theorem State.draw_boots (s : State) : (s.draw).boots = s.boots := rfl
@[simp] theorem State.draw_boot (s : State) : (s.draw).boot = s.boot := rfl
@[simp] theorem State.draw_ready (s : State) : (s.draw).ready = s.ready := rfl
@[simp] theorem State.draw_fatal (s : State) : (s.draw).fatal = s.fatal := rfl
@[simp] theorem State.draw_supply (s : State) : (s.draw).supply = s.supply := rfl
@[simp] theorem State.draw_ptpt (s : State) : (s.draw).ptpt = s.ptpt := rfl
@[simp] theorem State.draw_slew (s : State) : (s.draw).slew = s.slew := rfl
@[simp] theorem State.draw_etherUp (s : State) : (s.draw).etherUp = s.etherUp := rfl
@[simp] theorem State.draw_pkg (s : State) : (s.draw).pkg = s.pkg := rfl
@[simp] theorem State.draw_queues (s : State) : (s.draw).queues = s.queues := rfl
@[simp] theorem State.draw_history (s : State) : (s.draw).history = s.history := rfl
@[simp] theorem State.draw_launches (s : State) : (s.draw).launches = s.launches := rfl
@[simp] theorem State.draw_ctxs (s : State) : (s.draw).ctxs = s.ctxs := rfl
@[simp] theorem State.draw_s1 (s : State) : (s.draw).s1 = s.s1 := rfl
@[simp] theorem State.draw_s2 (s : State) : (s.draw).s2 = s.s2 := rfl
@[simp] theorem State.draw_vfs (s : State) : (s.draw).vfs = s.vfs := rfl
@[simp] theorem State.draw_parts (s : State) : (s.draw).parts = s.parts := rfl
@[simp] theorem State.draw_staged (s : State) : (s.draw).staged = s.staged := rfl
@[simp] theorem State.draw_shapes (s : State) : (s.draw).shapes = s.shapes := rfl
@[simp] theorem State.draw_wids (s : State) : (s.draw).wids = s.wids := rfl
@[simp] theorem State.draw_barriers (s : State) : (s.draw).barriers = s.barriers := rfl
@[simp] theorem State.draw_colls (s : State) : (s.draw).colls = s.colls := rfl
@[simp] theorem State.draw_fmsgs (s : State) : (s.draw).fmsgs = s.fmsgs := rfl
@[simp] theorem State.draw_mail (s : State) : (s.draw).mail = s.mail := rfl
@[simp] theorem State.draw_klota (s : State) : (s.draw).klota = s.klota := rfl
@[simp] theorem State.draw_errors (s : State) : (s.draw).errors = s.errors := rfl
@[simp] theorem State.draw_faults (s : State) : (s.draw).faults = s.faults := rfl
@[simp] theorem State.draw_ages (s : State) : (s.draw).ages = s.ages := rfl
@[simp] theorem State.draw_migrations (s : State) : (s.draw).migrations = s.migrations := rfl
@[simp] theorem State.draw_retiredFrames (s : State) : (s.draw).retiredFrames = s.retiredFrames := rfl
@[simp] theorem State.draw_sensors (s : State) : (s.draw).sensors = s.sensors := rfl
@[simp] theorem State.draw_hbm (s : State) : (s.draw).hbm = s.hbm := rfl
@[simp] theorem State.draw_routers (s : State) : (s.draw).routers = s.routers := rfl
@[simp] theorem State.draw_services (s : State) : (s.draw).services = s.services := rfl
@[simp] theorem State.draw_vocabs (s : State) : (s.draw).vocabs = s.vocabs := rfl
@[simp] theorem State.draw_rings (s : State) : (s.draw).rings = s.rings := rfl
@[simp] theorem State.draw_grammars (s : State) : (s.draw).grammars = s.grammars := rfl
@[simp] theorem State.draw_sessions (s : State) : (s.draw).sessions = s.sessions := rfl
@[simp] theorem State.draw_requests (s : State) : (s.draw).requests = s.requests := rfl
@[simp] theorem State.draw_tokQ (s : State) : (s.draw).tokQ = s.tokQ := rfl
@[simp] theorem State.draw_detokQ (s : State) : (s.draw).detokQ = s.detokQ := rfl
@[simp] theorem State.draw_beacons (s : State) : (s.draw).beacons = s.beacons := rfl

@[simp] theorem State.post_now (s : State) (d : Nat) (i : Instr) (g : Args) : (s.post d i g).now = s.now := rfl
@[simp] theorem State.post_ticket (s : State) (d : Nat) (i : Instr) (g : Args) : (s.post d i g).ticket = s.ticket := rfl
@[simp] theorem State.post_cur (s : State) (d : Nat) (i : Instr) (g : Args) : (s.post d i g).cur = s.cur := rfl
@[simp] theorem State.post_lane (s : State) (d : Nat) (i : Instr) (g : Args) : (s.post d i g).lane = s.lane := rfl
@[simp] theorem State.post_args (s : State) (d : Nat) (i : Instr) (g : Args) : (s.post d i g).args = s.args := rfl
@[simp] theorem State.post_nextId (s : State) (d : Nat) (i : Instr) (g : Args) : (s.post d i g).nextId = s.nextId := rfl
@[simp] theorem State.post_outbox (s : State) (d : Nat) (i : Instr) (g : Args) : (s.post d i g).outbox = s.outbox := rfl
@[simp] theorem State.post_jobs (s : State) (d : Nat) (i : Instr) (g : Args) : (s.post d i g).jobs = s.jobs := rfl
@[simp] theorem State.post_flights (s : State) (d : Nat) (i : Instr) (g : Args) : (s.post d i g).flights = s.flights := rfl
@[simp] theorem State.post_accesses (s : State) (d : Nat) (i : Instr) (g : Args) : (s.post d i g).accesses = s.accesses := rfl
@[simp] theorem State.post_cores (s : State) (d : Nat) (i : Instr) (g : Args) : (s.post d i g).cores = s.cores := rfl
@[simp] theorem State.post_dies (s : State) (d : Nat) (i : Instr) (g : Args) : (s.post d i g).dies = s.dies := rfl
@[simp] theorem State.post_mem (s : State) (d : Nat) (i : Instr) (g : Args) : (s.post d i g).mem = s.mem := rfl
@[simp] theorem State.post_memPoison (s : State) (d : Nat) (i : Instr) (g : Args) : (s.post d i g).memPoison = s.memPoison := rfl
@[simp] theorem State.post_boots (s : State) (d : Nat) (i : Instr) (g : Args) : (s.post d i g).boots = s.boots := rfl
@[simp] theorem State.post_boot (s : State) (d : Nat) (i : Instr) (g : Args) : (s.post d i g).boot = s.boot := rfl
@[simp] theorem State.post_ready (s : State) (d : Nat) (i : Instr) (g : Args) : (s.post d i g).ready = s.ready := rfl
@[simp] theorem State.post_fatal (s : State) (d : Nat) (i : Instr) (g : Args) : (s.post d i g).fatal = s.fatal := rfl
@[simp] theorem State.post_supply (s : State) (d : Nat) (i : Instr) (g : Args) : (s.post d i g).supply = s.supply := rfl
@[simp] theorem State.post_ptpt (s : State) (d : Nat) (i : Instr) (g : Args) : (s.post d i g).ptpt = s.ptpt := rfl
@[simp] theorem State.post_slew (s : State) (d : Nat) (i : Instr) (g : Args) : (s.post d i g).slew = s.slew := rfl
@[simp] theorem State.post_etherUp (s : State) (d : Nat) (i : Instr) (g : Args) : (s.post d i g).etherUp = s.etherUp := rfl
@[simp] theorem State.post_pkg (s : State) (d : Nat) (i : Instr) (g : Args) : (s.post d i g).pkg = s.pkg := rfl
@[simp] theorem State.post_queues (s : State) (d : Nat) (i : Instr) (g : Args) : (s.post d i g).queues = s.queues := rfl
@[simp] theorem State.post_history (s : State) (d : Nat) (i : Instr) (g : Args) : (s.post d i g).history = s.history := rfl
@[simp] theorem State.post_launches (s : State) (d : Nat) (i : Instr) (g : Args) : (s.post d i g).launches = s.launches := rfl
@[simp] theorem State.post_ctxs (s : State) (d : Nat) (i : Instr) (g : Args) : (s.post d i g).ctxs = s.ctxs := rfl
@[simp] theorem State.post_s1 (s : State) (d : Nat) (i : Instr) (g : Args) : (s.post d i g).s1 = s.s1 := rfl
@[simp] theorem State.post_s2 (s : State) (d : Nat) (i : Instr) (g : Args) : (s.post d i g).s2 = s.s2 := rfl
@[simp] theorem State.post_vfs (s : State) (d : Nat) (i : Instr) (g : Args) : (s.post d i g).vfs = s.vfs := rfl
@[simp] theorem State.post_parts (s : State) (d : Nat) (i : Instr) (g : Args) : (s.post d i g).parts = s.parts := rfl
@[simp] theorem State.post_staged (s : State) (d : Nat) (i : Instr) (g : Args) : (s.post d i g).staged = s.staged := rfl
@[simp] theorem State.post_shapes (s : State) (d : Nat) (i : Instr) (g : Args) : (s.post d i g).shapes = s.shapes := rfl
@[simp] theorem State.post_wids (s : State) (d : Nat) (i : Instr) (g : Args) : (s.post d i g).wids = s.wids := rfl
@[simp] theorem State.post_barriers (s : State) (d : Nat) (i : Instr) (g : Args) : (s.post d i g).barriers = s.barriers := rfl
@[simp] theorem State.post_colls (s : State) (d : Nat) (i : Instr) (g : Args) : (s.post d i g).colls = s.colls := rfl
@[simp] theorem State.post_fmsgs (s : State) (d : Nat) (i : Instr) (g : Args) : (s.post d i g).fmsgs = s.fmsgs := rfl
@[simp] theorem State.post_mail (s : State) (d : Nat) (i : Instr) (g : Args) : (s.post d i g).mail = s.mail := rfl
@[simp] theorem State.post_klota (s : State) (d : Nat) (i : Instr) (g : Args) : (s.post d i g).klota = s.klota := rfl
@[simp] theorem State.post_errors (s : State) (d : Nat) (i : Instr) (g : Args) : (s.post d i g).errors = s.errors := rfl
@[simp] theorem State.post_faults (s : State) (d : Nat) (i : Instr) (g : Args) : (s.post d i g).faults = s.faults := rfl
@[simp] theorem State.post_ages (s : State) (d : Nat) (i : Instr) (g : Args) : (s.post d i g).ages = s.ages := rfl
@[simp] theorem State.post_migrations (s : State) (d : Nat) (i : Instr) (g : Args) : (s.post d i g).migrations = s.migrations := rfl
@[simp] theorem State.post_retiredFrames (s : State) (d : Nat) (i : Instr) (g : Args) : (s.post d i g).retiredFrames = s.retiredFrames := rfl
@[simp] theorem State.post_sensors (s : State) (d : Nat) (i : Instr) (g : Args) : (s.post d i g).sensors = s.sensors := rfl
@[simp] theorem State.post_hbm (s : State) (d : Nat) (i : Instr) (g : Args) : (s.post d i g).hbm = s.hbm := rfl
@[simp] theorem State.post_routers (s : State) (d : Nat) (i : Instr) (g : Args) : (s.post d i g).routers = s.routers := rfl
@[simp] theorem State.post_services (s : State) (d : Nat) (i : Instr) (g : Args) : (s.post d i g).services = s.services := rfl
@[simp] theorem State.post_vocabs (s : State) (d : Nat) (i : Instr) (g : Args) : (s.post d i g).vocabs = s.vocabs := rfl
@[simp] theorem State.post_rings (s : State) (d : Nat) (i : Instr) (g : Args) : (s.post d i g).rings = s.rings := rfl
@[simp] theorem State.post_grammars (s : State) (d : Nat) (i : Instr) (g : Args) : (s.post d i g).grammars = s.grammars := rfl
@[simp] theorem State.post_sessions (s : State) (d : Nat) (i : Instr) (g : Args) : (s.post d i g).sessions = s.sessions := rfl
@[simp] theorem State.post_requests (s : State) (d : Nat) (i : Instr) (g : Args) : (s.post d i g).requests = s.requests := rfl
@[simp] theorem State.post_tokQ (s : State) (d : Nat) (i : Instr) (g : Args) : (s.post d i g).tokQ = s.tokQ := rfl
@[simp] theorem State.post_detokQ (s : State) (d : Nat) (i : Instr) (g : Args) : (s.post d i g).detokQ = s.detokQ := rfl
@[simp] theorem State.post_beacons (s : State) (d : Nat) (i : Instr) (g : Args) : (s.post d i g).beacons = s.beacons := rfl

@[simp] theorem State.later_now (s : State) (i : Instr) (g : Args) : (s.later i g).now = s.now := rfl
@[simp] theorem State.later_cur (s : State) (i : Instr) (g : Args) : (s.later i g).cur = s.cur := rfl
@[simp] theorem State.later_lane (s : State) (i : Instr) (g : Args) : (s.later i g).lane = s.lane := rfl
@[simp] theorem State.later_args (s : State) (i : Instr) (g : Args) : (s.later i g).args = s.args := rfl
@[simp] theorem State.later_nextId (s : State) (i : Instr) (g : Args) : (s.later i g).nextId = s.nextId := rfl
@[simp] theorem State.later_outbox (s : State) (i : Instr) (g : Args) : (s.later i g).outbox = s.outbox := rfl
@[simp] theorem State.later_jobs (s : State) (i : Instr) (g : Args) : (s.later i g).jobs = s.jobs := rfl
@[simp] theorem State.later_flights (s : State) (i : Instr) (g : Args) : (s.later i g).flights = s.flights := rfl
@[simp] theorem State.later_accesses (s : State) (i : Instr) (g : Args) : (s.later i g).accesses = s.accesses := rfl
@[simp] theorem State.later_cores (s : State) (i : Instr) (g : Args) : (s.later i g).cores = s.cores := rfl
@[simp] theorem State.later_dies (s : State) (i : Instr) (g : Args) : (s.later i g).dies = s.dies := rfl
@[simp] theorem State.later_mem (s : State) (i : Instr) (g : Args) : (s.later i g).mem = s.mem := rfl
@[simp] theorem State.later_memPoison (s : State) (i : Instr) (g : Args) : (s.later i g).memPoison = s.memPoison := rfl
@[simp] theorem State.later_boots (s : State) (i : Instr) (g : Args) : (s.later i g).boots = s.boots := rfl
@[simp] theorem State.later_boot (s : State) (i : Instr) (g : Args) : (s.later i g).boot = s.boot := rfl
@[simp] theorem State.later_ready (s : State) (i : Instr) (g : Args) : (s.later i g).ready = s.ready := rfl
@[simp] theorem State.later_fatal (s : State) (i : Instr) (g : Args) : (s.later i g).fatal = s.fatal := rfl
@[simp] theorem State.later_supply (s : State) (i : Instr) (g : Args) : (s.later i g).supply = s.supply := rfl
@[simp] theorem State.later_ptpt (s : State) (i : Instr) (g : Args) : (s.later i g).ptpt = s.ptpt := rfl
@[simp] theorem State.later_slew (s : State) (i : Instr) (g : Args) : (s.later i g).slew = s.slew := rfl
@[simp] theorem State.later_etherUp (s : State) (i : Instr) (g : Args) : (s.later i g).etherUp = s.etherUp := rfl
@[simp] theorem State.later_pkg (s : State) (i : Instr) (g : Args) : (s.later i g).pkg = s.pkg := rfl
@[simp] theorem State.later_queues (s : State) (i : Instr) (g : Args) : (s.later i g).queues = s.queues := rfl
@[simp] theorem State.later_history (s : State) (i : Instr) (g : Args) : (s.later i g).history = s.history := rfl
@[simp] theorem State.later_launches (s : State) (i : Instr) (g : Args) : (s.later i g).launches = s.launches := rfl
@[simp] theorem State.later_ctxs (s : State) (i : Instr) (g : Args) : (s.later i g).ctxs = s.ctxs := rfl
@[simp] theorem State.later_s1 (s : State) (i : Instr) (g : Args) : (s.later i g).s1 = s.s1 := rfl
@[simp] theorem State.later_s2 (s : State) (i : Instr) (g : Args) : (s.later i g).s2 = s.s2 := rfl
@[simp] theorem State.later_vfs (s : State) (i : Instr) (g : Args) : (s.later i g).vfs = s.vfs := rfl
@[simp] theorem State.later_parts (s : State) (i : Instr) (g : Args) : (s.later i g).parts = s.parts := rfl
@[simp] theorem State.later_staged (s : State) (i : Instr) (g : Args) : (s.later i g).staged = s.staged := rfl
@[simp] theorem State.later_shapes (s : State) (i : Instr) (g : Args) : (s.later i g).shapes = s.shapes := rfl
@[simp] theorem State.later_wids (s : State) (i : Instr) (g : Args) : (s.later i g).wids = s.wids := rfl
@[simp] theorem State.later_barriers (s : State) (i : Instr) (g : Args) : (s.later i g).barriers = s.barriers := rfl
@[simp] theorem State.later_colls (s : State) (i : Instr) (g : Args) : (s.later i g).colls = s.colls := rfl
@[simp] theorem State.later_fmsgs (s : State) (i : Instr) (g : Args) : (s.later i g).fmsgs = s.fmsgs := rfl
@[simp] theorem State.later_mail (s : State) (i : Instr) (g : Args) : (s.later i g).mail = s.mail := rfl
@[simp] theorem State.later_klota (s : State) (i : Instr) (g : Args) : (s.later i g).klota = s.klota := rfl
@[simp] theorem State.later_errors (s : State) (i : Instr) (g : Args) : (s.later i g).errors = s.errors := rfl
@[simp] theorem State.later_faults (s : State) (i : Instr) (g : Args) : (s.later i g).faults = s.faults := rfl
@[simp] theorem State.later_ages (s : State) (i : Instr) (g : Args) : (s.later i g).ages = s.ages := rfl
@[simp] theorem State.later_migrations (s : State) (i : Instr) (g : Args) : (s.later i g).migrations = s.migrations := rfl
@[simp] theorem State.later_retiredFrames (s : State) (i : Instr) (g : Args) : (s.later i g).retiredFrames = s.retiredFrames := rfl
@[simp] theorem State.later_sensors (s : State) (i : Instr) (g : Args) : (s.later i g).sensors = s.sensors := rfl
@[simp] theorem State.later_hbm (s : State) (i : Instr) (g : Args) : (s.later i g).hbm = s.hbm := rfl
@[simp] theorem State.later_routers (s : State) (i : Instr) (g : Args) : (s.later i g).routers = s.routers := rfl
@[simp] theorem State.later_services (s : State) (i : Instr) (g : Args) : (s.later i g).services = s.services := rfl
@[simp] theorem State.later_vocabs (s : State) (i : Instr) (g : Args) : (s.later i g).vocabs = s.vocabs := rfl
@[simp] theorem State.later_rings (s : State) (i : Instr) (g : Args) : (s.later i g).rings = s.rings := rfl
@[simp] theorem State.later_grammars (s : State) (i : Instr) (g : Args) : (s.later i g).grammars = s.grammars := rfl
@[simp] theorem State.later_sessions (s : State) (i : Instr) (g : Args) : (s.later i g).sessions = s.sessions := rfl
@[simp] theorem State.later_requests (s : State) (i : Instr) (g : Args) : (s.later i g).requests = s.requests := rfl
@[simp] theorem State.later_tokQ (s : State) (i : Instr) (g : Args) : (s.later i g).tokQ = s.tokQ := rfl
@[simp] theorem State.later_detokQ (s : State) (i : Instr) (g : Args) : (s.later i g).detokQ = s.detokQ := rfl
@[simp] theorem State.later_beacons (s : State) (i : Instr) (g : Args) : (s.later i g).beacons = s.beacons := rfl

@[simp] theorem State.poll_now (s : State) (r : Ref) : (s.poll r).now = s.now := rfl
@[simp] theorem State.poll_ticket (s : State) (r : Ref) : (s.poll r).ticket = s.ticket := rfl
@[simp] theorem State.poll_cur (s : State) (r : Ref) : (s.poll r).cur = s.cur := rfl
@[simp] theorem State.poll_lane (s : State) (r : Ref) : (s.poll r).lane = s.lane := rfl
@[simp] theorem State.poll_args (s : State) (r : Ref) : (s.poll r).args = s.args := rfl
@[simp] theorem State.poll_nextId (s : State) (r : Ref) : (s.poll r).nextId = s.nextId := rfl
@[simp] theorem State.poll_outbox (s : State) (r : Ref) : (s.poll r).outbox = s.outbox := rfl
@[simp] theorem State.poll_jobs (s : State) (r : Ref) : (s.poll r).jobs = s.jobs := rfl
@[simp] theorem State.poll_flights (s : State) (r : Ref) : (s.poll r).flights = s.flights := rfl
@[simp] theorem State.poll_accesses (s : State) (r : Ref) : (s.poll r).accesses = s.accesses := rfl
@[simp] theorem State.poll_cores (s : State) (r : Ref) : (s.poll r).cores = s.cores := rfl
@[simp] theorem State.poll_dies (s : State) (r : Ref) : (s.poll r).dies = s.dies := rfl
@[simp] theorem State.poll_mem (s : State) (r : Ref) : (s.poll r).mem = s.mem := rfl
@[simp] theorem State.poll_memPoison (s : State) (r : Ref) : (s.poll r).memPoison = s.memPoison := rfl
@[simp] theorem State.poll_boots (s : State) (r : Ref) : (s.poll r).boots = s.boots := rfl
@[simp] theorem State.poll_boot (s : State) (r : Ref) : (s.poll r).boot = s.boot := rfl
@[simp] theorem State.poll_ready (s : State) (r : Ref) : (s.poll r).ready = s.ready := rfl
@[simp] theorem State.poll_fatal (s : State) (r : Ref) : (s.poll r).fatal = s.fatal := rfl
@[simp] theorem State.poll_supply (s : State) (r : Ref) : (s.poll r).supply = s.supply := rfl
@[simp] theorem State.poll_ptpt (s : State) (r : Ref) : (s.poll r).ptpt = s.ptpt := rfl
@[simp] theorem State.poll_slew (s : State) (r : Ref) : (s.poll r).slew = s.slew := rfl
@[simp] theorem State.poll_etherUp (s : State) (r : Ref) : (s.poll r).etherUp = s.etherUp := rfl
@[simp] theorem State.poll_pkg (s : State) (r : Ref) : (s.poll r).pkg = s.pkg := rfl
@[simp] theorem State.poll_queues (s : State) (r : Ref) : (s.poll r).queues = s.queues := rfl
@[simp] theorem State.poll_history (s : State) (r : Ref) : (s.poll r).history = s.history := rfl
@[simp] theorem State.poll_launches (s : State) (r : Ref) : (s.poll r).launches = s.launches := rfl
@[simp] theorem State.poll_ctxs (s : State) (r : Ref) : (s.poll r).ctxs = s.ctxs := rfl
@[simp] theorem State.poll_s1 (s : State) (r : Ref) : (s.poll r).s1 = s.s1 := rfl
@[simp] theorem State.poll_s2 (s : State) (r : Ref) : (s.poll r).s2 = s.s2 := rfl
@[simp] theorem State.poll_vfs (s : State) (r : Ref) : (s.poll r).vfs = s.vfs := rfl
@[simp] theorem State.poll_parts (s : State) (r : Ref) : (s.poll r).parts = s.parts := rfl
@[simp] theorem State.poll_staged (s : State) (r : Ref) : (s.poll r).staged = s.staged := rfl
@[simp] theorem State.poll_shapes (s : State) (r : Ref) : (s.poll r).shapes = s.shapes := rfl
@[simp] theorem State.poll_wids (s : State) (r : Ref) : (s.poll r).wids = s.wids := rfl
@[simp] theorem State.poll_barriers (s : State) (r : Ref) : (s.poll r).barriers = s.barriers := rfl
@[simp] theorem State.poll_colls (s : State) (r : Ref) : (s.poll r).colls = s.colls := rfl
@[simp] theorem State.poll_fmsgs (s : State) (r : Ref) : (s.poll r).fmsgs = s.fmsgs := rfl
@[simp] theorem State.poll_mail (s : State) (r : Ref) : (s.poll r).mail = s.mail := rfl
@[simp] theorem State.poll_klota (s : State) (r : Ref) : (s.poll r).klota = s.klota := rfl
@[simp] theorem State.poll_errors (s : State) (r : Ref) : (s.poll r).errors = s.errors := rfl
@[simp] theorem State.poll_faults (s : State) (r : Ref) : (s.poll r).faults = s.faults := rfl
@[simp] theorem State.poll_ages (s : State) (r : Ref) : (s.poll r).ages = s.ages := rfl
@[simp] theorem State.poll_migrations (s : State) (r : Ref) : (s.poll r).migrations = s.migrations := rfl
@[simp] theorem State.poll_retiredFrames (s : State) (r : Ref) : (s.poll r).retiredFrames = s.retiredFrames := rfl
@[simp] theorem State.poll_sensors (s : State) (r : Ref) : (s.poll r).sensors = s.sensors := rfl
@[simp] theorem State.poll_hbm (s : State) (r : Ref) : (s.poll r).hbm = s.hbm := rfl
@[simp] theorem State.poll_routers (s : State) (r : Ref) : (s.poll r).routers = s.routers := rfl
@[simp] theorem State.poll_services (s : State) (r : Ref) : (s.poll r).services = s.services := rfl
@[simp] theorem State.poll_vocabs (s : State) (r : Ref) : (s.poll r).vocabs = s.vocabs := rfl
@[simp] theorem State.poll_rings (s : State) (r : Ref) : (s.poll r).rings = s.rings := rfl
@[simp] theorem State.poll_grammars (s : State) (r : Ref) : (s.poll r).grammars = s.grammars := rfl
@[simp] theorem State.poll_sessions (s : State) (r : Ref) : (s.poll r).sessions = s.sessions := rfl
@[simp] theorem State.poll_requests (s : State) (r : Ref) : (s.poll r).requests = s.requests := rfl
@[simp] theorem State.poll_tokQ (s : State) (r : Ref) : (s.poll r).tokQ = s.tokQ := rfl
@[simp] theorem State.poll_detokQ (s : State) (r : Ref) : (s.poll r).detokQ = s.detokQ := rfl
@[simp] theorem State.poll_beacons (s : State) (r : Ref) : (s.poll r).beacons = s.beacons := rfl

@[simp] theorem State.sched_now (s : State) (d : Nat) (m : Move) : (s.sched d m).now = s.now := rfl
@[simp] theorem State.sched_ticket (s : State) (d : Nat) (m : Move) : (s.sched d m).ticket = s.ticket := rfl
@[simp] theorem State.sched_cur (s : State) (d : Nat) (m : Move) : (s.sched d m).cur = s.cur := rfl
@[simp] theorem State.sched_lane (s : State) (d : Nat) (m : Move) : (s.sched d m).lane = s.lane := rfl
@[simp] theorem State.sched_args (s : State) (d : Nat) (m : Move) : (s.sched d m).args = s.args := rfl
@[simp] theorem State.sched_nextId (s : State) (d : Nat) (m : Move) : (s.sched d m).nextId = s.nextId := rfl
@[simp] theorem State.sched_outbox (s : State) (d : Nat) (m : Move) : (s.sched d m).outbox = s.outbox := rfl
@[simp] theorem State.sched_jobs (s : State) (d : Nat) (m : Move) : (s.sched d m).jobs = s.jobs := rfl
@[simp] theorem State.sched_flights (s : State) (d : Nat) (m : Move) : (s.sched d m).flights = s.flights := rfl
@[simp] theorem State.sched_accesses (s : State) (d : Nat) (m : Move) : (s.sched d m).accesses = s.accesses := rfl
@[simp] theorem State.sched_cores (s : State) (d : Nat) (m : Move) : (s.sched d m).cores = s.cores := rfl
@[simp] theorem State.sched_dies (s : State) (d : Nat) (m : Move) : (s.sched d m).dies = s.dies := rfl
@[simp] theorem State.sched_mem (s : State) (d : Nat) (m : Move) : (s.sched d m).mem = s.mem := rfl
@[simp] theorem State.sched_memPoison (s : State) (d : Nat) (m : Move) : (s.sched d m).memPoison = s.memPoison := rfl
@[simp] theorem State.sched_boots (s : State) (d : Nat) (m : Move) : (s.sched d m).boots = s.boots := rfl
@[simp] theorem State.sched_boot (s : State) (d : Nat) (m : Move) : (s.sched d m).boot = s.boot := rfl
@[simp] theorem State.sched_ready (s : State) (d : Nat) (m : Move) : (s.sched d m).ready = s.ready := rfl
@[simp] theorem State.sched_fatal (s : State) (d : Nat) (m : Move) : (s.sched d m).fatal = s.fatal := rfl
@[simp] theorem State.sched_supply (s : State) (d : Nat) (m : Move) : (s.sched d m).supply = s.supply := rfl
@[simp] theorem State.sched_ptpt (s : State) (d : Nat) (m : Move) : (s.sched d m).ptpt = s.ptpt := rfl
@[simp] theorem State.sched_slew (s : State) (d : Nat) (m : Move) : (s.sched d m).slew = s.slew := rfl
@[simp] theorem State.sched_etherUp (s : State) (d : Nat) (m : Move) : (s.sched d m).etherUp = s.etherUp := rfl
@[simp] theorem State.sched_pkg (s : State) (d : Nat) (m : Move) : (s.sched d m).pkg = s.pkg := rfl
@[simp] theorem State.sched_queues (s : State) (d : Nat) (m : Move) : (s.sched d m).queues = s.queues := rfl
@[simp] theorem State.sched_history (s : State) (d : Nat) (m : Move) : (s.sched d m).history = s.history := rfl
@[simp] theorem State.sched_launches (s : State) (d : Nat) (m : Move) : (s.sched d m).launches = s.launches := rfl
@[simp] theorem State.sched_ctxs (s : State) (d : Nat) (m : Move) : (s.sched d m).ctxs = s.ctxs := rfl
@[simp] theorem State.sched_s1 (s : State) (d : Nat) (m : Move) : (s.sched d m).s1 = s.s1 := rfl
@[simp] theorem State.sched_s2 (s : State) (d : Nat) (m : Move) : (s.sched d m).s2 = s.s2 := rfl
@[simp] theorem State.sched_vfs (s : State) (d : Nat) (m : Move) : (s.sched d m).vfs = s.vfs := rfl
@[simp] theorem State.sched_parts (s : State) (d : Nat) (m : Move) : (s.sched d m).parts = s.parts := rfl
@[simp] theorem State.sched_staged (s : State) (d : Nat) (m : Move) : (s.sched d m).staged = s.staged := rfl
@[simp] theorem State.sched_shapes (s : State) (d : Nat) (m : Move) : (s.sched d m).shapes = s.shapes := rfl
@[simp] theorem State.sched_wids (s : State) (d : Nat) (m : Move) : (s.sched d m).wids = s.wids := rfl
@[simp] theorem State.sched_barriers (s : State) (d : Nat) (m : Move) : (s.sched d m).barriers = s.barriers := rfl
@[simp] theorem State.sched_colls (s : State) (d : Nat) (m : Move) : (s.sched d m).colls = s.colls := rfl
@[simp] theorem State.sched_fmsgs (s : State) (d : Nat) (m : Move) : (s.sched d m).fmsgs = s.fmsgs := rfl
@[simp] theorem State.sched_mail (s : State) (d : Nat) (m : Move) : (s.sched d m).mail = s.mail := rfl
@[simp] theorem State.sched_klota (s : State) (d : Nat) (m : Move) : (s.sched d m).klota = s.klota := rfl
@[simp] theorem State.sched_errors (s : State) (d : Nat) (m : Move) : (s.sched d m).errors = s.errors := rfl
@[simp] theorem State.sched_faults (s : State) (d : Nat) (m : Move) : (s.sched d m).faults = s.faults := rfl
@[simp] theorem State.sched_ages (s : State) (d : Nat) (m : Move) : (s.sched d m).ages = s.ages := rfl
@[simp] theorem State.sched_migrations (s : State) (d : Nat) (m : Move) : (s.sched d m).migrations = s.migrations := rfl
@[simp] theorem State.sched_retiredFrames (s : State) (d : Nat) (m : Move) : (s.sched d m).retiredFrames = s.retiredFrames := rfl
@[simp] theorem State.sched_sensors (s : State) (d : Nat) (m : Move) : (s.sched d m).sensors = s.sensors := rfl
@[simp] theorem State.sched_hbm (s : State) (d : Nat) (m : Move) : (s.sched d m).hbm = s.hbm := rfl
@[simp] theorem State.sched_routers (s : State) (d : Nat) (m : Move) : (s.sched d m).routers = s.routers := rfl
@[simp] theorem State.sched_services (s : State) (d : Nat) (m : Move) : (s.sched d m).services = s.services := rfl
@[simp] theorem State.sched_vocabs (s : State) (d : Nat) (m : Move) : (s.sched d m).vocabs = s.vocabs := rfl
@[simp] theorem State.sched_rings (s : State) (d : Nat) (m : Move) : (s.sched d m).rings = s.rings := rfl
@[simp] theorem State.sched_grammars (s : State) (d : Nat) (m : Move) : (s.sched d m).grammars = s.grammars := rfl
@[simp] theorem State.sched_sessions (s : State) (d : Nat) (m : Move) : (s.sched d m).sessions = s.sessions := rfl
@[simp] theorem State.sched_requests (s : State) (d : Nat) (m : Move) : (s.sched d m).requests = s.requests := rfl
@[simp] theorem State.sched_tokQ (s : State) (d : Nat) (m : Move) : (s.sched d m).tokQ = s.tokQ := rfl
@[simp] theorem State.sched_detokQ (s : State) (d : Nat) (m : Move) : (s.sched d m).detokQ = s.detokQ := rfl
@[simp] theorem State.sched_beacons (s : State) (d : Nat) (m : Move) : (s.sched d m).beacons = s.beacons := rfl

@[simp] theorem State.unpost_now (s : State) (p : Move → Bool) : (s.unpost p).now = s.now := rfl
@[simp] theorem State.unpost_ticket (s : State) (p : Move → Bool) : (s.unpost p).ticket = s.ticket := rfl
@[simp] theorem State.unpost_cur (s : State) (p : Move → Bool) : (s.unpost p).cur = s.cur := rfl
@[simp] theorem State.unpost_lane (s : State) (p : Move → Bool) : (s.unpost p).lane = s.lane := rfl
@[simp] theorem State.unpost_args (s : State) (p : Move → Bool) : (s.unpost p).args = s.args := rfl
@[simp] theorem State.unpost_nextId (s : State) (p : Move → Bool) : (s.unpost p).nextId = s.nextId := rfl
@[simp] theorem State.unpost_outbox (s : State) (p : Move → Bool) : (s.unpost p).outbox = s.outbox := rfl
@[simp] theorem State.unpost_jobs (s : State) (p : Move → Bool) : (s.unpost p).jobs = s.jobs := rfl
@[simp] theorem State.unpost_flights (s : State) (p : Move → Bool) : (s.unpost p).flights = s.flights := rfl
@[simp] theorem State.unpost_accesses (s : State) (p : Move → Bool) : (s.unpost p).accesses = s.accesses := rfl
@[simp] theorem State.unpost_cores (s : State) (p : Move → Bool) : (s.unpost p).cores = s.cores := rfl
@[simp] theorem State.unpost_dies (s : State) (p : Move → Bool) : (s.unpost p).dies = s.dies := rfl
@[simp] theorem State.unpost_mem (s : State) (p : Move → Bool) : (s.unpost p).mem = s.mem := rfl
@[simp] theorem State.unpost_memPoison (s : State) (p : Move → Bool) : (s.unpost p).memPoison = s.memPoison := rfl
@[simp] theorem State.unpost_boots (s : State) (p : Move → Bool) : (s.unpost p).boots = s.boots := rfl
@[simp] theorem State.unpost_boot (s : State) (p : Move → Bool) : (s.unpost p).boot = s.boot := rfl
@[simp] theorem State.unpost_ready (s : State) (p : Move → Bool) : (s.unpost p).ready = s.ready := rfl
@[simp] theorem State.unpost_fatal (s : State) (p : Move → Bool) : (s.unpost p).fatal = s.fatal := rfl
@[simp] theorem State.unpost_supply (s : State) (p : Move → Bool) : (s.unpost p).supply = s.supply := rfl
@[simp] theorem State.unpost_ptpt (s : State) (p : Move → Bool) : (s.unpost p).ptpt = s.ptpt := rfl
@[simp] theorem State.unpost_slew (s : State) (p : Move → Bool) : (s.unpost p).slew = s.slew := rfl
@[simp] theorem State.unpost_etherUp (s : State) (p : Move → Bool) : (s.unpost p).etherUp = s.etherUp := rfl
@[simp] theorem State.unpost_pkg (s : State) (p : Move → Bool) : (s.unpost p).pkg = s.pkg := rfl
@[simp] theorem State.unpost_queues (s : State) (p : Move → Bool) : (s.unpost p).queues = s.queues := rfl
@[simp] theorem State.unpost_history (s : State) (p : Move → Bool) : (s.unpost p).history = s.history := rfl
@[simp] theorem State.unpost_launches (s : State) (p : Move → Bool) : (s.unpost p).launches = s.launches := rfl
@[simp] theorem State.unpost_ctxs (s : State) (p : Move → Bool) : (s.unpost p).ctxs = s.ctxs := rfl
@[simp] theorem State.unpost_s1 (s : State) (p : Move → Bool) : (s.unpost p).s1 = s.s1 := rfl
@[simp] theorem State.unpost_s2 (s : State) (p : Move → Bool) : (s.unpost p).s2 = s.s2 := rfl
@[simp] theorem State.unpost_vfs (s : State) (p : Move → Bool) : (s.unpost p).vfs = s.vfs := rfl
@[simp] theorem State.unpost_parts (s : State) (p : Move → Bool) : (s.unpost p).parts = s.parts := rfl
@[simp] theorem State.unpost_staged (s : State) (p : Move → Bool) : (s.unpost p).staged = s.staged := rfl
@[simp] theorem State.unpost_shapes (s : State) (p : Move → Bool) : (s.unpost p).shapes = s.shapes := rfl
@[simp] theorem State.unpost_wids (s : State) (p : Move → Bool) : (s.unpost p).wids = s.wids := rfl
@[simp] theorem State.unpost_barriers (s : State) (p : Move → Bool) : (s.unpost p).barriers = s.barriers := rfl
@[simp] theorem State.unpost_colls (s : State) (p : Move → Bool) : (s.unpost p).colls = s.colls := rfl
@[simp] theorem State.unpost_fmsgs (s : State) (p : Move → Bool) : (s.unpost p).fmsgs = s.fmsgs := rfl
@[simp] theorem State.unpost_mail (s : State) (p : Move → Bool) : (s.unpost p).mail = s.mail := rfl
@[simp] theorem State.unpost_klota (s : State) (p : Move → Bool) : (s.unpost p).klota = s.klota := rfl
@[simp] theorem State.unpost_errors (s : State) (p : Move → Bool) : (s.unpost p).errors = s.errors := rfl
@[simp] theorem State.unpost_faults (s : State) (p : Move → Bool) : (s.unpost p).faults = s.faults := rfl
@[simp] theorem State.unpost_ages (s : State) (p : Move → Bool) : (s.unpost p).ages = s.ages := rfl
@[simp] theorem State.unpost_migrations (s : State) (p : Move → Bool) : (s.unpost p).migrations = s.migrations := rfl
@[simp] theorem State.unpost_retiredFrames (s : State) (p : Move → Bool) : (s.unpost p).retiredFrames = s.retiredFrames := rfl
@[simp] theorem State.unpost_sensors (s : State) (p : Move → Bool) : (s.unpost p).sensors = s.sensors := rfl
@[simp] theorem State.unpost_hbm (s : State) (p : Move → Bool) : (s.unpost p).hbm = s.hbm := rfl
@[simp] theorem State.unpost_routers (s : State) (p : Move → Bool) : (s.unpost p).routers = s.routers := rfl
@[simp] theorem State.unpost_services (s : State) (p : Move → Bool) : (s.unpost p).services = s.services := rfl
@[simp] theorem State.unpost_vocabs (s : State) (p : Move → Bool) : (s.unpost p).vocabs = s.vocabs := rfl
@[simp] theorem State.unpost_rings (s : State) (p : Move → Bool) : (s.unpost p).rings = s.rings := rfl
@[simp] theorem State.unpost_grammars (s : State) (p : Move → Bool) : (s.unpost p).grammars = s.grammars := rfl
@[simp] theorem State.unpost_sessions (s : State) (p : Move → Bool) : (s.unpost p).sessions = s.sessions := rfl
@[simp] theorem State.unpost_requests (s : State) (p : Move → Bool) : (s.unpost p).requests = s.requests := rfl
@[simp] theorem State.unpost_tokQ (s : State) (p : Move → Bool) : (s.unpost p).tokQ = s.tokQ := rfl
@[simp] theorem State.unpost_detokQ (s : State) (p : Move → Bool) : (s.unpost p).detokQ = s.detokQ := rfl
@[simp] theorem State.unpost_beacons (s : State) (p : Move → Bool) : (s.unpost p).beacons = s.beacons := rfl

@[simp] theorem State.send_now (s : State) (m : Msg) (i : Instr) (g : Args) : (s.send m i g).now = s.now := rfl
@[simp] theorem State.send_cur (s : State) (m : Msg) (i : Instr) (g : Args) : (s.send m i g).cur = s.cur := rfl
@[simp] theorem State.send_lane (s : State) (m : Msg) (i : Instr) (g : Args) : (s.send m i g).lane = s.lane := rfl
@[simp] theorem State.send_args (s : State) (m : Msg) (i : Instr) (g : Args) : (s.send m i g).args = s.args := rfl
@[simp] theorem State.send_nextId (s : State) (m : Msg) (i : Instr) (g : Args) : (s.send m i g).nextId = s.nextId := rfl
@[simp] theorem State.send_outbox (s : State) (m : Msg) (i : Instr) (g : Args) : (s.send m i g).outbox = s.outbox := rfl
@[simp] theorem State.send_jobs (s : State) (m : Msg) (i : Instr) (g : Args) : (s.send m i g).jobs = s.jobs := rfl
@[simp] theorem State.send_flights (s : State) (m : Msg) (i : Instr) (g : Args) : (s.send m i g).flights = s.flights := rfl
@[simp] theorem State.send_accesses (s : State) (m : Msg) (i : Instr) (g : Args) : (s.send m i g).accesses = s.accesses := rfl
@[simp] theorem State.send_cores (s : State) (m : Msg) (i : Instr) (g : Args) : (s.send m i g).cores = s.cores := rfl
@[simp] theorem State.send_dies (s : State) (m : Msg) (i : Instr) (g : Args) : (s.send m i g).dies = s.dies := rfl
@[simp] theorem State.send_mem (s : State) (m : Msg) (i : Instr) (g : Args) : (s.send m i g).mem = s.mem := rfl
@[simp] theorem State.send_memPoison (s : State) (m : Msg) (i : Instr) (g : Args) : (s.send m i g).memPoison = s.memPoison := rfl
@[simp] theorem State.send_boots (s : State) (m : Msg) (i : Instr) (g : Args) : (s.send m i g).boots = s.boots := rfl
@[simp] theorem State.send_boot (s : State) (m : Msg) (i : Instr) (g : Args) : (s.send m i g).boot = s.boot := rfl
@[simp] theorem State.send_ready (s : State) (m : Msg) (i : Instr) (g : Args) : (s.send m i g).ready = s.ready := rfl
@[simp] theorem State.send_fatal (s : State) (m : Msg) (i : Instr) (g : Args) : (s.send m i g).fatal = s.fatal := rfl
@[simp] theorem State.send_supply (s : State) (m : Msg) (i : Instr) (g : Args) : (s.send m i g).supply = s.supply := rfl
@[simp] theorem State.send_ptpt (s : State) (m : Msg) (i : Instr) (g : Args) : (s.send m i g).ptpt = s.ptpt := rfl
@[simp] theorem State.send_slew (s : State) (m : Msg) (i : Instr) (g : Args) : (s.send m i g).slew = s.slew := rfl
@[simp] theorem State.send_etherUp (s : State) (m : Msg) (i : Instr) (g : Args) : (s.send m i g).etherUp = s.etherUp := rfl
@[simp] theorem State.send_pkg (s : State) (m : Msg) (i : Instr) (g : Args) : (s.send m i g).pkg = s.pkg := rfl
@[simp] theorem State.send_queues (s : State) (m : Msg) (i : Instr) (g : Args) : (s.send m i g).queues = s.queues := rfl
@[simp] theorem State.send_history (s : State) (m : Msg) (i : Instr) (g : Args) : (s.send m i g).history = s.history := rfl
@[simp] theorem State.send_launches (s : State) (m : Msg) (i : Instr) (g : Args) : (s.send m i g).launches = s.launches := rfl
@[simp] theorem State.send_ctxs (s : State) (m : Msg) (i : Instr) (g : Args) : (s.send m i g).ctxs = s.ctxs := rfl
@[simp] theorem State.send_s1 (s : State) (m : Msg) (i : Instr) (g : Args) : (s.send m i g).s1 = s.s1 := rfl
@[simp] theorem State.send_s2 (s : State) (m : Msg) (i : Instr) (g : Args) : (s.send m i g).s2 = s.s2 := rfl
@[simp] theorem State.send_vfs (s : State) (m : Msg) (i : Instr) (g : Args) : (s.send m i g).vfs = s.vfs := rfl
@[simp] theorem State.send_parts (s : State) (m : Msg) (i : Instr) (g : Args) : (s.send m i g).parts = s.parts := rfl
@[simp] theorem State.send_staged (s : State) (m : Msg) (i : Instr) (g : Args) : (s.send m i g).staged = s.staged := rfl
@[simp] theorem State.send_shapes (s : State) (m : Msg) (i : Instr) (g : Args) : (s.send m i g).shapes = s.shapes := rfl
@[simp] theorem State.send_wids (s : State) (m : Msg) (i : Instr) (g : Args) : (s.send m i g).wids = s.wids := rfl
@[simp] theorem State.send_barriers (s : State) (m : Msg) (i : Instr) (g : Args) : (s.send m i g).barriers = s.barriers := rfl
@[simp] theorem State.send_colls (s : State) (m : Msg) (i : Instr) (g : Args) : (s.send m i g).colls = s.colls := rfl
@[simp] theorem State.send_fmsgs (s : State) (m : Msg) (i : Instr) (g : Args) : (s.send m i g).fmsgs = s.fmsgs := rfl
@[simp] theorem State.send_klota (s : State) (m : Msg) (i : Instr) (g : Args) : (s.send m i g).klota = s.klota := rfl
@[simp] theorem State.send_errors (s : State) (m : Msg) (i : Instr) (g : Args) : (s.send m i g).errors = s.errors := rfl
@[simp] theorem State.send_faults (s : State) (m : Msg) (i : Instr) (g : Args) : (s.send m i g).faults = s.faults := rfl
@[simp] theorem State.send_ages (s : State) (m : Msg) (i : Instr) (g : Args) : (s.send m i g).ages = s.ages := rfl
@[simp] theorem State.send_migrations (s : State) (m : Msg) (i : Instr) (g : Args) : (s.send m i g).migrations = s.migrations := rfl
@[simp] theorem State.send_retiredFrames (s : State) (m : Msg) (i : Instr) (g : Args) : (s.send m i g).retiredFrames = s.retiredFrames := rfl
@[simp] theorem State.send_sensors (s : State) (m : Msg) (i : Instr) (g : Args) : (s.send m i g).sensors = s.sensors := rfl
@[simp] theorem State.send_hbm (s : State) (m : Msg) (i : Instr) (g : Args) : (s.send m i g).hbm = s.hbm := rfl
@[simp] theorem State.send_routers (s : State) (m : Msg) (i : Instr) (g : Args) : (s.send m i g).routers = s.routers := rfl
@[simp] theorem State.send_services (s : State) (m : Msg) (i : Instr) (g : Args) : (s.send m i g).services = s.services := rfl
@[simp] theorem State.send_vocabs (s : State) (m : Msg) (i : Instr) (g : Args) : (s.send m i g).vocabs = s.vocabs := rfl
@[simp] theorem State.send_rings (s : State) (m : Msg) (i : Instr) (g : Args) : (s.send m i g).rings = s.rings := rfl
@[simp] theorem State.send_grammars (s : State) (m : Msg) (i : Instr) (g : Args) : (s.send m i g).grammars = s.grammars := rfl
@[simp] theorem State.send_sessions (s : State) (m : Msg) (i : Instr) (g : Args) : (s.send m i g).sessions = s.sessions := rfl
@[simp] theorem State.send_requests (s : State) (m : Msg) (i : Instr) (g : Args) : (s.send m i g).requests = s.requests := rfl
@[simp] theorem State.send_tokQ (s : State) (m : Msg) (i : Instr) (g : Args) : (s.send m i g).tokQ = s.tokQ := rfl
@[simp] theorem State.send_detokQ (s : State) (m : Msg) (i : Instr) (g : Args) : (s.send m i g).detokQ = s.detokQ := rfl
@[simp] theorem State.send_beacons (s : State) (m : Msg) (i : Instr) (g : Args) : (s.send m i g).beacons = s.beacons := rfl

end Sys2Proof.Machine
end

