-- ==== Sys2Proof/Laws/Run.lean ====
section
/-! SUPPORT. The steps of every command (06 R177): when its body runs, and what sequencing, signals and flags leave alone. -/

namespace Sys2Proof.Machine

/-! ### Jobs and streams after an update -/

theorem State.jobs_modJob (s : State) (k j : Nat) (f : Job → Job) :
    (s.modJob k f).jobs.find? j = if j = k then (s.jobs.find? k).map f else s.jobs.find? j := by
  unfold State.modJob
  split
  · rename_i h; split <;> simp_all
  · rename_i x h; by_cases hj : j = k <;> simp [Map.find?_set, hj, h]

theorem State.jobOf_modJob_ne (s : State) {k j : Nat} (f : Job → Job) (h : j ≠ k) : (s.modJob k f).jobOf j = s.jobOf j := by
  simp [State.jobOf, Map.getD, State.jobs_modJob, h]

theorem State.jobOf_modJob_self (s : State) {k : Nat} (f : Job → Job) (h : (s.jobs.find? k).isSome = true) :
    (s.modJob k f).jobOf k = f (s.jobOf k) := by
  obtain ⟨j, hj⟩ := Option.isSome_iff_exists.mp h
  simp [State.jobOf, Map.getD, State.jobs_modJob, hj]

@[simp] theorem State.isSome_modJob (s : State) (k j : Nat) (f : Job → Job) :
    ((s.modJob k f).jobs.find? j).isSome = (s.jobs.find? j).isSome := by
  rw [State.jobs_modJob]; split <;> simp_all

/-- A job that stands on a core is listed. -/
theorem State.listed_of_onCore {s : State} {k : Nat} (h : (s.jobOf k).onCore = true) : (s.jobs.find? k).isSome = true := by
  unfold State.jobOf Map.getD at h
  cases hj : s.jobs.find? k with
  | some j => rfl
  | none => rw [hj] at h; simp [Job.onCore, Job.blank] at h

@[simp] theorem Job.stream_setStream (j : Job) (l : Letter) (t : Stream) : (j.setStream l t).stream l = t := by cases l <;> rfl

theorem Job.stream_setStream_ne (j : Job) {l n : Letter} (t : Stream) (h : n ≠ l) : (j.setStream l t).stream n = j.stream n := by
  cases l <;> cases n <;> first | rfl | exact absurd rfl h

@[simp] theorem Job.aside_setStream (j : Job) (l : Letter) (t : Stream) : (j.setStream l t).aside = j.aside := by cases l <;> rfl

@[simp] theorem Job.fstat_setStream (j : Job) (l : Letter) (t : Stream) : (j.setStream l t).fstat = j.fstat := by cases l <;> rfl
@[simp] theorem Job.late_setStream (j : Job) (l : Letter) (t : Stream) : (j.setStream l t).late = j.late := by cases l <;> rfl

/-! ### Frames -/

theorem State.Frame.refl (r : Ref) (s : State) : State.Frame r s s := ⟨rfl, fun _ _ => rfl, rfl, fun _ _ => rfl, rfl⟩

theorem State.Frame.trans {r : Ref} {a b c : State} (h : State.Frame r a b) (g : State.Frame r b c) : State.Frame r a c :=
  ⟨g.outside.trans h.outside, fun k hk => (g.others k hk).trans (h.others k hk), g.job.trans h.job,
   fun l hl => (g.streams l hl).trans (h.streams l hl), g.stream.trans h.stream⟩

/-- What a frame says of the fields outside the job. -/
theorem State.Frame.field {r : Ref} {e t : State} (h : State.Frame r e t) {α : Type} (f : State → α)
    (hf : ∀ s : State, f s.aside = f s) : f t = f e := by rw [← hf t, ← hf e, h.outside]

theorem State.Frame.mem {r : Ref} {e t : State} (h : State.Frame r e t) : t.mem = e.mem := h.field State.mem (fun _ => rfl)
theorem State.Frame.cores {r : Ref} {e t : State} (h : State.Frame r e t) : t.cores = e.cores := h.field State.cores (fun _ => rfl)
theorem State.Frame.now {r : Ref} {e t : State} (h : State.Frame r e t) : t.now = e.now := h.field State.now (fun _ => rfl)
theorem State.Frame.cur {r : Ref} {e t : State} (h : State.Frame r e t) : t.cur = e.cur := h.field State.cur (fun _ => rfl)

/-- A change of the job that keeps what its frame keeps. -/
theorem State.Frame.modJob (r : Ref) (s : State) (f : Job → Job) (hj : ∀ j, (f j).aside = j.aside)
    (hs : ∀ j l, l ≠ r.letter → (f j).stream l = j.stream l) (ht : ∀ j, ((f j).stream r.letter).aside = (j.stream r.letter).aside) :
    State.Frame r s (s.modJob r.job f) := by
  have key : (s.modJob r.job f).jobOf r.job = s.jobOf r.job ∨ (s.modJob r.job f).jobOf r.job = f (s.jobOf r.job) := by
    by_cases h : (s.jobs.find? r.job).isSome = true
    · exact .inr (s.jobOf_modJob_self f h)
    · refine .inl ?_
      unfold State.modJob
      split
      · rfl
      · rename_i j hj'; simp [hj'] at h
  refine ⟨by simp [State.aside], fun k hk => s.jobOf_modJob_ne f hk, ?_, ?_, ?_⟩
  · rcases key with h | h <;> simp [h, hj]
  · intro l hl; rcases key with h | h <;> simp [h, hs _ _ hl]
  · simp only [State.strOf]; rcases key with h | h <;> simp [h, ht]

theorem State.Frame.modRef (r : Ref) (s : State) (f : Stream → Stream) (ht : ∀ t, (f t).aside = t.aside) :
    State.Frame r s (s.modRef r f) :=
  State.Frame.modJob r s _ (fun j => by simp) (fun j l hl => Job.stream_setStream_ne j _ hl) (fun j => by simp [ht])

/-- Changes outside the jobs that a frame allows. -/
theorem State.Frame.of_jobs {r : Ref} {e t : State} (h : t.aside = e.aside) (hj : t.jobs = e.jobs) : State.Frame r e t := by
  have hk : ∀ k, t.jobOf k = e.jobOf k := fun k => by simp [State.jobOf, hj]
  exact ⟨h, fun k _ => hk k, by rw [hk], fun l _ => by rw [hk], by simp [State.strOf, hk]⟩

theorem State.Frame.post (r : Ref) (s : State) (d : Nat) (i : Instr) (g : Args) : State.Frame r s (s.post d i g) :=
  .of_jobs rfl rfl

theorem State.Frame.checkRetire (r q : Ref) (s : State) : State.Frame r s (s.checkRetire q) := by
  unfold State.checkRetire; split
  · exact .refl r s
  · exact .post r s _ _ _

/-! ### Sequencing leaves a frame -/

theorem State.Moved.refl (r : Ref) (s : State) : State.Moved r s s := ⟨.refl r s, rfl, rfl, rfl, rfl⟩

theorem State.Moved.trans {r : Ref} {a b c : State} (h : State.Moved r a b) (g : State.Moved r b c) : State.Moved r a c :=
  ⟨h.frame.trans g.frame, g.signal.trans h.signal, g.flags.trans h.flags, g.flights.trans h.flights, g.ids.trans h.ids⟩

theorem State.Moved.of_jobs {r : Ref} {e t : State} (h : t.aside = e.aside) (hj : t.jobs = e.jobs) (hf : t.flights = e.flights)
    (hn : t.nextId = e.nextId) : State.Moved r e t :=
  ⟨.of_jobs h hj, by simp [State.jobOf, hj], by simp [State.jobOf, hj], hf, hn⟩

theorem State.Moved.modJob (r : Ref) (s : State) (f : Job → Job) (hj : ∀ j, (f j).aside = j.aside)
    (hs : ∀ j l, l ≠ r.letter → (f j).stream l = j.stream l) (ht : ∀ j, ((f j).stream r.letter).aside = (j.stream r.letter).aside)
    (hl : ∀ j, (f j).late = j.late) : State.Moved r s (s.modJob r.job f) := by
  have key : (s.modJob r.job f).jobOf r.job = s.jobOf r.job ∨ (s.modJob r.job f).jobOf r.job = f (s.jobOf r.job) := by
    by_cases h : (s.jobs.find? r.job).isSome = true
    · exact .inr (s.jobOf_modJob_self f h)
    · refine .inl ?_
      unfold State.modJob
      split
      · rfl
      · rename_i j hj'; simp [hj'] at h
  refine ⟨.modJob r s f hj hs ht, ?_, ?_, by simp, by simp⟩
  · rcases key with h | h <;> simp [h, hl]
  · rcases key with h | h <;> simp [h, hl]

theorem State.Moved.modRef (r : Ref) (s : State) (f : Stream → Stream) (ht : ∀ t, (f t).aside = t.aside) :
    State.Moved r s (s.modRef r f) :=
  .modJob r s _ (fun j => by simp) (fun j l hl => Job.stream_setStream_ne j _ hl) (fun j => by simp [ht]) (fun j => by simp)

theorem State.Moved.post (r : Ref) (s : State) (d : Nat) (i : Instr) (g : Args) : State.Moved r s (s.post d i g) :=
  .of_jobs rfl rfl rfl rfl

theorem State.Moved.checkRetire (r q : Ref) (s : State) : State.Moved r s (s.checkRetire q) := by
  unfold State.checkRetire; split
  · exact .refl r s
  · exact .post r s _ _ _

theorem State.Moved.putError (r : Ref) (s : State) (e : ErrRec) : State.Moved r s (s.putError r.job e) := by
  have hm : ∀ x : ErrRec, State.Moved r s (s.modJob r.job (fun j => { j with error := some x, errAt := s.now })) := fun x =>
    .modJob r s _ (fun _ => rfl) (fun j l _ => by cases l <;> rfl) (fun j => by cases r.letter <;> rfl) (fun _ => rfl)
  have hm' : ∀ x : ErrRec, State.Moved r s (s.modJob r.job (fun j => { j with error := some x })) := fun x =>
    .modJob r s _ (fun _ => rfl) (fun j l _ => by cases l <;> rfl) (fun j => by cases r.letter <;> rfl) (fun _ => rfl)
  unfold State.putError
  dsimp only
  split
  · exact (hm e).trans (.post _ _ _ _ _)
  · split
    · exact (hm e).trans (.of_jobs rfl rfl rfl rfl)
    · split
      · exact (hm' _).trans (.of_jobs rfl rfl rfl rfl)
      · exact .refl r s

theorem State.Moved.raise (r : Ref) (s : State) (e : Err) (word : Word) (opc : Nat) : State.Moved r s (s.raise r e word opc) := by
  have hp : State.Moved r s (s.modRef r (fun t => { t with paused := true })) := .modRef r s _ (fun _ => rfl)
  unfold State.raise
  split
  · exact hp
  · exact hp.trans (.putError r _ _)

/-! ### Streams under sequencing -/

theorem Stream.aside_loopBack (t : Stream) (a : Word) (n : Nat) : (t.loopBack a n).aside = t.aside := by
  induction n generalizing t with
  | zero => rfl
  | succ n ih =>
    unfold Stream.loopBack
    split
    · rfl
    · split
      · split
        · rfl
        · rw [ih]; rfl
      · rfl

theorem Stream.aside_leave (t : Stream) (a : Word) (n : Nat) : (t.leave a n).aside = t.aside := by
  induction n generalizing t with
  | zero => rfl
  | succ n ih =>
    unfold Stream.leave
    split
    · rfl
    · split
      · rfl
      · rw [ih]; rfl

theorem Stream.aside_leaveSection (t : Stream) (b f : Word) (x : Option (BitVec 12)) : (t.leaveSection b f x).aside = t.aside := by
  unfold Stream.leaveSection; split <;> rfl

theorem Stream.aside_land (t : Stream) (g : Word) : (t.land g).aside = t.aside := by
  unfold Stream.land
  split
  · exact aside_leaveSection _ _ _ _
  · split
    · rfl
    · exact aside_leaveSection _ _ _ _

theorem Stream.aside_settlePc (t : Stream) (now n : Nat) : (t.settlePc now n).aside = t.aside := by
  unfold Stream.settlePc
  split
  · rfl
  · split
    · rfl
    · exact (show _ = (t.leaveSection _ _ _).aside from rfl).trans (aside_leaveSection _ _ _ _)

theorem Stream.aside_fallOn (t : Stream) (now : Nat) (a : Word) : (t.fallOn now a).aside = t.aside := by
  unfold Stream.fallOn
  rw [aside_settlePc]; split
  · rfl
  · exact aside_loopBack _ _ _

theorem Stream.aside_takeTransfer (t : Stream) (x : Transfer) (g : Word) (now : Nat) : (t.takeTransfer x g now).aside = t.aside := by
  have h : ∀ u : Stream, u.aside = t.aside → ({ u.land g with readyAt := now + 1 + x.bubble } : Stream).aside = t.aside := fun u hu =>
    (show _ = (u.land g).aside from rfl).trans ((aside_land u g).trans hu)
  unfold Stream.takeTransfer
  refine h _ ?_
  split
  · split
    · rfl
    · exact aside_leave _ _ _
  · rfl
  · rfl

theorem Stream.aside_advance (t : Stream) (now : Nat) (a : Word) (len : Nat) (new : Option Transfer) :
    (t.advance now a len new).1.aside = t.aside := by
  unfold Stream.advance
  dsimp only
  split
  · rfl
  · split
    · split
      · rfl
      · split
        · rw [aside_takeTransfer]; rfl
        · rw [aside_fallOn]; rfl
    · rw [aside_fallOn]; rfl

theorem State.Moved.onward (s : State) (u : Use) (x : Option Transfer) : State.Moved s.cur s (s.onward u x) := by
  have h1 : State.Moved s.cur s (s.modSt (fun _ => { (s.st.advance s.now s.st.cmdStart (s.st.cmdLen u.two) x).1 with
      issued := s.st.issued + 1, gap := s.st.gap + 1, awaits := none, begun := false, thaw := false })) := by
    by_cases h : (s.jobs.find? s.cur.job).isSome = true
    · have hj := s.jobOf_modJob_self (fun j => j.setStream s.cur.letter
        { (s.st.advance s.now s.st.cmdStart (s.st.cmdLen u.two) x).1 with issued := s.st.issued + 1, gap := s.st.gap + 1, awaits := none, begun := false, thaw := false }) h
      have ha : ({ (s.st.advance s.now s.st.cmdStart (s.st.cmdLen u.two) x).1 with
          issued := s.st.issued + 1, gap := s.st.gap + 1, awaits := none, begun := false, thaw := false } : Stream).aside = (s.strOf s.cur).aside :=
        Stream.aside_advance s.st s.now s.st.cmdStart (s.st.cmdLen u.two) x
      refine ⟨⟨by simp [State.aside], fun k hk => s.jobOf_modJob_ne _ hk, ?_, ?_, ?_⟩, ?_, ?_, by simp, by simp⟩
      · simp only [State.modSt, State.modRef]; rw [hj]; simp
      · intro l hl; simp only [State.modSt, State.modRef]; rw [hj]; exact Job.stream_setStream_ne _ _ hl
      · simp only [State.strOf, State.modSt, State.modRef]; rw [hj, Job.stream_setStream]; exact ha
      · simp only [State.modSt, State.modRef]; rw [hj]; simp
      · simp only [State.modSt, State.modRef]; rw [hj]; simp
    · have : ∀ f, s.modSt f = s := fun f => by
        unfold State.modSt State.modRef State.modJob
        split
        · rfl
        · rename_i j hj; simp [hj] at h
      rw [this]; exact .refl _ s
  have h2 : ∀ t : State, State.Moved s.cur t (t.modJob s.cur.job (fun j => { j with executed := j.executed + 1 })) := fun t =>
    .modJob s.cur t _ (fun _ => rfl) (fun j l _ => by cases l <;> rfl) (fun j => by cases s.cur.letter <;> rfl) (fun _ => rfl)
  unfold State.onward
  dsimp only
  split
  · exact ((h1.trans (h2 _)).trans (.checkRetire _ _ _)).trans (.raise _ _ _ _ _)
  · exact (h1.trans (h2 _)).trans (.checkRetire _ _ _)

/-! ### Completion -/

theorem State.setFlags_eq_zero (s : State) (r : Ref) : s.setFlags r 0 = s := by simp [State.setFlags]

theorem State.Frame.signal (r : Ref) (s : State) (i : BitVec 8) (n : BitVec 32) : State.Frame r s (s.signal r.job i n) :=
  .modJob r s _ (fun _ => rfl) (fun j l _ => by cases l <;> rfl) (fun j => by cases r.letter <;> rfl)

theorem State.Frame.setFlags (r : Ref) (s : State) (fl : BitVec 5) : State.Frame r s (s.setFlags r fl) := by
  have h : State.Frame r s (s.modJob r.job (fun j => { j with late := { j.late with flags := j.late.flags ||| fl } })) :=
    .modJob r s _ (fun _ => rfl) (fun j l _ => by cases l <;> rfl) (fun j => by cases r.letter <;> rfl)
  unfold State.setFlags
  dsimp only
  split
  · exact .refl r s
  · split
    · exact h
    · exact h.trans (.modRef r _ _ (fun t => by unfold Stream.raise; split <;> rfl))

@[simp] theorem State.setFlags_flights (s : State) (r : Ref) (fl : BitVec 5) : (s.setFlags r fl).flights = s.flights := by
  unfold State.setFlags; dsimp only; split
  · rfl
  · split <;> simp

@[simp] theorem State.setFlags_nextId (s : State) (r : Ref) (fl : BitVec 5) : (s.setFlags r fl).nextId = s.nextId := by
  unfold State.setFlags; dsimp only; split
  · rfl
  · split <;> simp

@[simp] theorem State.isSome_modRef (s : State) (r : Ref) (j : Nat) (f : Stream → Stream) :
    ((s.modRef r f).jobs.find? j).isSome = (s.jobs.find? j).isSome := State.isSome_modJob _ _ _ _

theorem State.jobOf_modRef_self (s : State) {r : Ref} (f : Stream → Stream) (h : (s.jobs.find? r.job).isSome = true) :
    (s.modRef r f).jobOf r.job = (s.jobOf r.job).setStream r.letter (f (s.strOf r)) := s.jobOf_modJob_self _ h

theorem State.setFlags_job (s : State) (r : Ref) (fl : BitVec 5) (h : (s.jobs.find? r.job).isSome = true) :
    ((s.setFlags r fl).jobOf r.job).late.flags = (s.jobOf r.job).late.flags ||| fl ∧
      ((s.setFlags r fl).jobOf r.job).late.sigs = (s.jobOf r.job).late.sigs := by
  unfold State.setFlags
  dsimp only
  split
  · rename_i h0; subst h0; simp
  · split
    · rw [State.jobOf_modJob_self _ _ h]; exact ⟨rfl, rfl⟩
    · rw [State.jobOf_modRef_self _ _ (by simpa using h), State.jobOf_modJob_self _ _ h]; simp

/-- What a completion point does: the signal, the flags, and nothing else of note. -/
theorem State.complete_job (s : State) (r : Ref) (c : Ctl) (fl : BitVec 5) (h : (s.jobs.find? r.job).isSome = true) :
    State.Frame r s (s.complete r c.sig fl) ∧ ((s.complete r c.sig fl).jobOf r.job).late.sigs = (s.jobOf r.job).late.sigs ++ sigOf c ∧
      ((s.complete r c.sig fl).jobOf r.job).late.flags = (s.jobOf r.job).late.flags ||| fl ∧ (s.complete r c.sig fl).flights = s.flights ∧
      (s.complete r c.sig fl).nextId = s.nextId := by
  unfold State.complete sigOf
  dsimp only
  split
  · rename_i hq
    have hj := s.setFlags_job r fl h
    exact ⟨.setFlags r s fl, by simp [hj.2, hq], hj.1, by simp, by simp⟩
  · rename_i i n hq
    have hs : (s.signal r.job i (BitVec.ofNat 32 (n.toNat + 1))).jobOf r.job =
        { s.jobOf r.job with late := { (s.jobOf r.job).late with
            sigs := (s.jobOf r.job).late.sigs ++ [(i, BitVec.ofNat 32 (n.toNat + 1))] } } := s.jobOf_modJob_self _ h
    have hj := (s.signal r.job i (BitVec.ofNat 32 (n.toNat + 1))).setFlags_job r fl (by simpa [State.signal] using h)
    exact ⟨(State.Frame.signal r s _ _).trans (.setFlags r _ fl), by simp [hj.2, hs, hq], by rw [hj.1, hs], by simp [State.signal],
      by simp [State.signal]⟩

@[simp] theorem State.complete_cur (s : State) (r : Ref) (g : Option (BitVec 8 × BitVec 3)) (fl : BitVec 5) :
    (s.complete r g fl).cur = s.cur := by
  have hf : ∀ x : State, (x.setFlags r fl).cur = x.cur := fun x => (State.Frame.setFlags r x fl).cur
  unfold State.complete
  dsimp only
  split <;> simp [hf, State.signal]

/-- A command that completes at issue. -/
theorem State.done_of_complete {s e : State} {c : Ctl} {u : Use} {fl : BitVec 5} (hc : e.cur = s.cur)
    (h : (e.jobs.find? s.cur.job).isSome = true) : State.Done s e c fl ((e.complete s.cur c.sig fl).onward u none) := by
  obtain ⟨h1, h2, h3, h4, h5⟩ := e.complete_job s.cur c fl h
  have g := State.Moved.onward (e.complete s.cur c.sig fl) u none
  rw [State.complete_cur, hc] at g
  exact ⟨h1.trans g.frame, g.signal.trans h2, g.flags.trans h3, g.flights.trans h4, g.ids.trans h5⟩

theorem State.act_done {s e : State} {c : Ctl} {u : Use} {fl : BitVec 5} (hl : u.lat = 0) (hc : e.cur = s.cur)
    (h : (e.jobs.find? s.cur.job).isSome = true) : State.Done s e c fl (s.act c u (.done e fl)) := by
  simp only [State.act, State.slowDone, hl, if_true]
  exact State.done_of_complete hc h

/-! ### When a command issues -/

theorem State.gate_go {s : State} {c : Ctl} {u : Use} {irrev : Bool} (h : s.Issues c u.regs u.preds u.gw u.ga irrev) :
    s.gate c u = .go := by
  obtain ⟨⟨h1, h2, h3, h4, h5, h6, h7, h8, h9, h10⟩, h11, h12, ⟨h13, h14⟩, h15, h16, h17, _⟩ := h
  have hi : s.job.issues s.cur.letter s.now = true := by
    unfold State.st State.strOf at h5 h6 h7 h8
    simp only [State.job] at *
    simp [Job.issues, h1, h2, h3, h4, h5, h6, h7, h8]
  have hp : s.predsKnown u = true := by
    simp only [State.predsKnown, List.all_eq_true, Bool.and_eq_true, Bool.not_eq_true']
    exact fun p hp => h15 p hp
  have hr : s.regsFree u = true := by
    simp only [State.regsFree, List.all_eq_true, Bool.not_eq_true']
    exact fun g hg => h16 g hg
  have hd : ¬ (s.st.issued = s.st.entered ∧ s.job.depsMet s.cur.letter = false) := by
    rintro ⟨a, b⟩; rcases h11 with h | h
    · exact h a
    · simp [h] at b
  unfold State.gate
  simp only [hi, h9, h12, h13, h14, hp, hr, h17, Nat.not_lt.mpr h10]
  by_cases ha : s.st.issued = s.st.entered
  · have : s.job.depsMet s.cur.letter = true := by
      rcases h11 with h | h
      · exact absurd ha h
      · exact h
    simp [this]
  · simp [ha]

theorem command_next {s : State} {c : Ctl} {u : Use} {f : State → Act} (h : s.Issues c u.regs u.preds u.gw u.ga u.irrev) :
    command c u f s = .next (s.act c u (f s)) := by
  have hp : s.pauses u = false := by
    unfold State.pauses
    cases hu : u.irrev
    · rfl
    · simp [h.real hu]
  have hq : s.pausesAt (f s) = false := by
    have he : ∀ jump, (s.job.spec.isSome && s.st.slotEnds s.st.cmdStart jump) = false := fun jump => by
      cases hs : s.job.spec.isSome
      · rfl
      · simp [h.slots hs jump]
    unfold State.pausesAt
    dsimp only
    split <;> first | exact he _ | rfl
  simp [command, State.run, State.gate_go h, hp, hq]

theorem State.Live.listed {s : State} (h : s.Live) : (s.jobs.find? s.cur.job).isSome = true := State.listed_of_onCore h.onCore

/-! ### Commands with a latency (17 R404) -/

theorem State.Done.of_frame {s e e' t : State} {c : Ctl} {fl : Flags} (h : State.Done s e' c fl t) (g : State.Moved s.cur e e') :
    State.Done s e c fl t :=
  ⟨g.frame.trans h.frame, by rw [h.signal, g.signal], by rw [h.flags, g.flags], h.flights.trans g.flights, h.ids.trans g.ids⟩

theorem State.Pends.of_moved {s e e' t : State} {c : Ctl} {dst : List Reg} {vs : List Owed} {fl : Flags} {n : Nat}
    (h : State.Pends s e' c dst vs fl n t) (g : State.Moved s.cur e e') : State.Pends s e c dst vs fl n t :=
  ⟨g.frame.trans h.frame, h.signal.trans g.signal, h.flags.trans g.flags, h.flight,
   fun k hk => by rw [h.flights k hk, g.flights], h.due⟩

theorem State.mem_agenda_onward {s : State} {u : Use} {x : Option Transfer} {e : Entry} (h : e ∈ s.agenda) : e ∈ (s.onward u x).agenda := by
  have hr : ∀ t : State, ∀ (r : Ref) (er : Err) (w : Word) (o : Nat), e ∈ t.agenda → e ∈ (t.raise r er w o).agenda := by
    intro t r er w o ht
    unfold State.raise
    split
    · simpa using ht
    · unfold State.putError
      dsimp only
      split
      · simp [State.post, ht]
      · split
        · simp [State.send, State.later, State.post, State.draw, ht]
        · split
          · simpa using ht
          · simpa using ht
  have hc : ∀ t : State, ∀ r, e ∈ t.agenda → e ∈ (t.checkRetire r).agenda := by
    intro t r ht
    unfold State.checkRetire
    split
    · exact ht
    · simp [State.post, ht]
  unfold State.onward
  dsimp only
  split
  · exact hr _ _ _ _ _ (hc _ _ (by simpa using h))
  · exact hc _ _ (by simpa using h)

@[simp] theorem State.modRef_isSome_cur (s : State) (f : Stream → Stream) (k : Nat) :
    ((s.modSt f).jobs.find? k).isSome = (s.jobs.find? k).isSome := State.isSome_modJob _ _ _ _

/-- A command with a latency, `back` being its effect without its registers. -/
theorem State.slowDone_pends {s e : State} {c : Ctl} {u : Use} {fl : BitVec 5} {n : Nat} {tiles : List Nat} {engine : Option Nat}
    (hn : n ≠ 0) {back : State} (hb : u.dst.foldl (fun x g => x.unwrite s.cur s g) e = back) (hc : back.cur = s.cur)
    (hi : back.nextId = s.nextId) (hi' : e.nextId = s.nextId) :
    State.Pends s back c u.dst (u.dst.filterMap (fun g => e.owedOf s.cur g)) fl n (s.slowDone c u e fl n tiles engine) := by
  unfold State.slowDone
  simp only [hn, if_false, hb]
  generalize u.dst.filterMap (fun g => e.owedOf s.cur g) = vs
  have hfind : (back.fly c u (.late vs) u.dst tiles engine).flights.find? s.nextId =
      some ⟨back.cur, back.st.visit, c.sig, u.dst, tiles, engine, 0, back.st.cmdStart, u.opc, back.st.num, .late vs⟩ := by
    simp [State.fly, State.newId, hi]
  rw [hi']
  set f1 := back.fly c u (.late vs) u.dst tiles engine with hf1
  set f2 := f1.modFlight s.nextId (fun f => { f with flags := fl }) with hf2
  have hflight : f2.flights.find? s.nextId =
      some ⟨back.cur, back.st.visit, c.sig, u.dst, tiles, engine, fl, back.st.cmdStart, u.opc, back.st.num, .late vs⟩ := by
    rw [hf2]; unfold State.modFlight; rw [hfind]; simp
  have hothers : ∀ k, k ≠ s.nextId → f2.flights.find? k = back.flights.find? k := by
    intro k hk
    rw [hf2]; unfold State.modFlight; rw [hfind]
    simp only [Map.find?_set_ne _ _ hk]
    rw [hf1]
    simp [State.fly, State.newId, hi, Map.find?_set_ne _ _ hk]
  have hjobs : f2.jobs = back.jobs := by simp [hf2, hf1, State.fly, State.newId]
  have haside : f2.aside = back.aside := by
    rw [hf2]; unfold State.modFlight; rw [hfind]; rfl
  have hcur2 : f2.cur = back.cur := by
    rw [hf2]; unfold State.modFlight; rw [hfind]; rfl
  generalize hf3 : ({ f2 with agenda := f2.agenda ++ [⟨s.now + n, .finish s.nextId⟩] } : State) = f3
  have g := State.Moved.onward f3 u none
  have hcur : f3.cur = s.cur := by rw [← hf3, ← hc]; exact hcur2
  rw [hcur] at g
  have hfr : State.Frame s.cur back f3 := .of_jobs (by rw [← hf3, ← haside]; rfl) (by rw [← hf3]; exact hjobs)
  have hjob : ∀ k, f3.jobOf k = back.jobOf k := fun k => by rw [← hf3]; simp [State.jobOf, hjobs]
  refine ⟨hfr.trans g.frame, by rw [g.signal, hjob], by rw [g.flags, hjob], ?_, ?_, ?_⟩
  · refine ⟨_, by rw [g.flights, ← hf3]; exact hflight, hc, rfl, rfl, rfl, rfl⟩
  · intro k hk; rw [g.flights, ← hf3]; exact hothers k hk
  · exact State.mem_agenda_onward (by rw [← hf3]; simp)

end Sys2Proof.Machine
end

