-- ==== Sys2Proof/Laws/Cycle.lean ====
section
/-! SUPPORT. What the end of a cycle makes of a job's pending changes. -/

namespace Sys2Proof.Machine

theorem setBit_getLsbD (w : BitVec 32) (p : PReg) (v : Bool) : (setBit w p v).getLsbD p = v := by
  unfold setBit
  have := p.isLt
  cases v <;> simp

theorem map_snd_find? (m : Map Job) (k : Nat) (f : Job → Job) : Map.find? (m.map (fun e => (e.1, f e.2))) k = (Map.find? m k).map f := by
  induction m with
  | nil => rfl
  | cons e r ih =>
    obtain ⟨a, b⟩ := e
    simp only [List.map_cons, Map.find?]
    split
    · rfl
    · exact ih

/-- A bit that is not set stays. -/
theorem setBit_getLsbD_ne (w : BitVec 32) (p q : PReg) (v : Bool) (h : q ≠ p) : (setBit w p v).getLsbD q = w.getLsbD q := by
  have hv : q.val ≠ p.val := fun e => h (Fin.ext e)
  unfold setBit
  cases v <;> simp <;> omega

theorem State.jobs_upset (s : State) : s.upset.jobs = s.jobs := by unfold State.upset; repeat (first | rfl | split)

/-- A job after a tick of the clock. -/
theorem State.jobOf_tick {s : State} {k : Nat} {j : Job} (h : s.jobs.find? k = some j) : s.tick.jobOf k = (j.noteTrap s.now).settle := by
  unfold State.jobOf Map.getD State.tick
  simp only
  rw [State.jobs_upset]
  simp only
  rw [map_snd_find? s.jobs k (fun j => (j.noteTrap s.now).settle), h]; rfl

/-- The record of an error is all that a trap of its cycle changes. -/
theorem Job.noteTrap_keep {α : Type} (g : Job → α) (hg : ∀ (j : Job) (e : Option ErrRec), g { j with error := e } = g j) (j : Job) (now : Nat) :
    g (j.noteTrap now) = g j := by
  unfold Job.noteTrap
  split
  · exact hg j _
  · rfl

theorem Job.foldl_keep {α β : Type} (g : Job → α) (f : Job → β → Job) (hf : ∀ j e, g (f j e) = g j) (l : List β) (j : Job) :
    g (l.foldl f j) = g j := by
  induction l generalizing j with
  | nil => rfl
  | cons e l ih => rw [List.foldl_cons, ih, hf]

theorem Job.foldl_applySig (l : List (BitVec 8 × BitVec 32)) (j : Job) (i : BitVec 8) :
    (l.foldl (fun j e => j.applySig e.1 e.2) j).sems[i.toNat] = j.sems[i.toNat] + ((l.filter (fun e => e.1 = i)).map (·.2)).sum := by
  induction l generalizing j with
  | nil => simp
  | cons e l ih =>
    rw [List.foldl_cons, ih]
    simp only [List.filter_cons]
    by_cases h : e.1 = i
    · simp [h, Job.applySig, BitVec.add_assoc]
    · have : e.1.toNat ≠ i.toNat := fun h' => h (BitVec.eq_of_toNat_eq h')
      simp [h, Job.applySig, this]

theorem Job.foldl_applyPush (l : List (QReg × Word)) (j : Job) (q : QReg) :
    (l.foldl (fun j e => j.applyPush e.1 e.2) j).queues[q] = j.queues[q] ++ (l.filter (fun e => e.1 = q)).map (·.2) := by
  induction l generalizing j with
  | nil => simp
  | cons e l ih =>
    rw [List.foldl_cons, ih]
    simp only [List.filter_cons]
    by_cases h : e.1 = q
    · simp [h, Job.applyPush]
    · have : e.1.val ≠ q.val := fun h' => h (Fin.ext h')
      simp [h, Job.applyPush, this]

theorem Job.applyPred_keep {α : Type} (g : Job → α) (hg : ∀ (j : Job) (v p : BitVec 32), g { j with pval := v, pres := p } = g j) (j : Job)
    (p : PReg) (v : Option Bool) : g (j.applyPred p v) = g j := by
  cases v with
  | none => exact hg j j.pval _
  | some b => exact hg j _ _

theorem Job.settle_sems (j : Job) (i : BitVec 8) (hw : j.late.wbs = []) :
    j.settle.sems[i.toNat] = j.sems[i.toNat] + ((j.late.sigs.filter (fun e => e.1 = i)).map (·.2)).sum := by
  unfold Job.settle
  simp only
  rw [Job.foldl_keep (fun j => j.sems[i.toNat]) (fun j (e : QReg × Word) => j.applyPush e.1 e.2) (fun _ _ => rfl),
    Job.foldl_keep (fun j => j.sems[i.toNat]) (fun j (e : PReg × Option Bool) => j.applyPred e.1 e.2)
      (fun j e => Job.applyPred_keep (fun j => j.sems[i.toNat]) (fun _ _ _ => rfl) j e.1 e.2), hw]
  exact Job.foldl_applySig _ _ _

theorem Job.settle_queues (j : Job) (q : QReg) :
    j.settle.queues[q] = j.queues[q] ++ (j.late.pushes.filter (fun e => e.1 = q)).map (·.2) := by
  unfold Job.settle
  simp only
  rw [Job.foldl_applyPush, Job.foldl_keep (fun j => j.queues[q]) (fun j (e : PReg × Option Bool) => j.applyPred e.1 e.2)
      (fun j e => Job.applyPred_keep (fun j => j.queues[q]) (fun _ _ _ => rfl) j e.1 e.2),
    Job.foldl_keep (fun j => j.queues[q]) (fun j (e : BitVec 8 × BitVec 32) => j.applyWb e.1 e.2) (fun _ _ => rfl),
    Job.foldl_keep (fun j => j.queues[q]) (fun j (e : BitVec 8 × BitVec 32) => j.applySig e.1 e.2) (fun _ _ => rfl)]

theorem Job.applyPred_ne (j : Job) {p q : PReg} (v : Option Bool) (h : q ≠ p) :
    (j.applyPred p v).pval.getLsbD q = j.pval.getLsbD q ∧ (j.applyPred p v).pres.getLsbD q = j.pres.getLsbD q := by
  cases v with
  | none => exact ⟨rfl, setBit_getLsbD_ne _ _ _ _ h⟩
  | some b => exact ⟨setBit_getLsbD_ne _ _ _ _ h, setBit_getLsbD_ne _ _ _ _ h⟩

theorem Job.foldl_applyPred_ne (l : List (PReg × Option Bool)) (j : Job) {p : PReg} (h : ∀ e ∈ l, e.1 ≠ p) :
    (l.foldl (fun j e => j.applyPred e.1 e.2) j).pval.getLsbD p = j.pval.getLsbD p ∧
      (l.foldl (fun j e => j.applyPred e.1 e.2) j).pres.getLsbD p = j.pres.getLsbD p := by
  induction l generalizing j with
  | nil => exact ⟨rfl, rfl⟩
  | cons e l ih =>
    have h1 := ih (j.applyPred e.1 e.2) (fun x hx => h x (List.mem_cons_of_mem _ hx))
    have h2 := j.applyPred_ne e.2 (fun hp => h e List.mem_cons_self hp.symm)
    exact ⟨h1.1.trans h2.1, h1.2.trans h2.2⟩

theorem Job.settle_preds (j : Job) : j.settle.pval = (j.late.predsInOrder.foldl (fun j e => j.applyPred e.1 e.2)
      (j.late.wbs.foldl (fun j e => j.applyWb e.1 e.2) (j.late.sigs.foldl (fun j e => j.applySig e.1 e.2) j))).pval ∧
    j.settle.pres = (j.late.predsInOrder.foldl (fun j e => j.applyPred e.1 e.2)
      (j.late.wbs.foldl (fun j e => j.applyWb e.1 e.2) (j.late.sigs.foldl (fun j e => j.applySig e.1 e.2) j))).pres :=
  ⟨Job.foldl_keep (fun j => j.pval) (fun j (e : QReg × Word) => j.applyPush e.1 e.2) (fun _ _ => rfl) _ _,
    Job.foldl_keep (fun j => j.pres) (fun j (e : QReg × Word) => j.applyPush e.1 e.2) (fun _ _ => rfl) _ _⟩

/-- A predicate that nothing writes in a cycle stays. -/
theorem Job.settle_pred_ne {j : Job} {p : PReg} (h : ∀ e ∈ j.late.predsInOrder, e.1 ≠ p) :
    j.settle.pred p = j.pred p ∧ j.settle.resolved p = j.resolved p := by
  have hk := Job.settle_preds j
  have hf := Job.foldl_applyPred_ne j.late.predsInOrder
    (j.late.wbs.foldl (fun j e => j.applyWb e.1 e.2) (j.late.sigs.foldl (fun j e => j.applySig e.1 e.2) j)) h
  have h1 := Job.foldl_keep (fun j => j.pval) (fun j (e : BitVec 8 × BitVec 32) => j.applyWb e.1 e.2) (fun _ _ => rfl) j.late.wbs
    (j.late.sigs.foldl (fun j e => j.applySig e.1 e.2) j)
  have h2 := Job.foldl_keep (fun j => j.pres) (fun j (e : BitVec 8 × BitVec 32) => j.applyWb e.1 e.2) (fun _ _ => rfl) j.late.wbs
    (j.late.sigs.foldl (fun j e => j.applySig e.1 e.2) j)
  have h3 := Job.foldl_keep (fun j => j.pval) (fun j (e : BitVec 8 × BitVec 32) => j.applySig e.1 e.2) (fun _ _ => rfl) j.late.sigs j
  have h4 := Job.foldl_keep (fun j => j.pres) (fun j (e : BitVec 8 × BitVec 32) => j.applySig e.1 e.2) (fun _ _ => rfl) j.late.sigs j
  unfold Job.pred Job.resolved
  rw [hk.1, hk.2, hf.1, hf.2, h1, h2, h3, h4]
  exact ⟨rfl, rfl⟩

/-- The last write of a predicate, in the order of 07 R199, stands. -/
theorem Job.settle_pred {j : Job} {p : PReg} {a b : List (PReg × Option Bool)} {v : Option Bool} (hl : j.late.predsInOrder = a ++ (p, v) :: b)
    (hb : ∀ e ∈ b, e.1 ≠ p) (hp : p ≠ 0) : (∀ x, v = some x → j.settle.pred p = x) ∧ j.settle.resolved p = v.isSome := by
  have hk := Job.settle_preds j
  rw [hl, List.foldl_append, List.foldl_cons] at hk
  have hv : ∀ x : Job, (x.applyPred p v).pres.getLsbD p = v.isSome ∧ ∀ y, v = some y → (x.applyPred p v).pval.getLsbD p = y := by
    intro x
    cases v with
    | none => exact ⟨setBit_getLsbD _ _ _, by simp⟩
    | some y => exact ⟨setBit_getLsbD _ _ _, fun y' hy => by cases hy; exact setBit_getLsbD _ _ _⟩
  unfold Job.pred Job.resolved
  rw [hk.1, hk.2, (Job.foldl_applyPred_ne b _ hb).1, (Job.foldl_applyPred_ne b _ hb).2]
  simp only [hp, decide_false, Bool.false_or]
  exact ⟨(hv _).2, (hv _).1⟩

end Sys2Proof.Machine
end

