-- ==== Sys2Proof/Laws/Effect.lean ====
section
/-! SUPPORT. The effects of commands on registers and on work in flight: what they leave alone, and how a latency holds them back. -/

namespace Sys2Proof.Machine

/-! ### States that agree job by job -/

theorem State.Moved.of_jobOf {r : Ref} {e t : State} (h : t.aside = e.aside) (hj : ∀ k, t.jobOf k = e.jobOf k) (hf : t.flights = e.flights)
    (hn : t.nextId = e.nextId) : State.Moved r e t :=
  ⟨⟨h, fun k _ => hj k, by rw [hj], fun l _ => by rw [hj], by simp [State.strOf, hj]⟩, by rw [hj], by rw [hj], hf, hn⟩

@[simp] theorem Job.setStream_setStream (j : Job) (l : Letter) (t u : Stream) : (j.setStream l t).setStream l u = j.setStream l u := by
  cases l <;> rfl

@[simp] theorem Job.setStream_self (j : Job) (l : Letter) : j.setStream l (j.stream l) = j := by cases l <;> rfl

theorem State.modJob_aside (s : State) (k : Nat) (f : Job → Job) : (s.modJob k f).aside = s.aside := by simp [State.aside]

theorem State.strOf_modRef_self (s : State) {r : Ref} (f : Stream → Stream) (h : (s.jobs.find? r.job).isSome = true) :
    (s.modRef r f).strOf r = f (s.strOf r) := by
  unfold State.strOf
  rw [State.jobOf_modRef_self _ _ h, Job.stream_setStream]; rfl

/-- Two changes of a job that undo each other. -/
theorem State.Moved.undo {r : Ref} {s : State} (h : (s.jobs.find? r.job).isSome = true) (f g : Job → Job)
    (hfg : g (f (s.jobOf r.job)) = s.jobOf r.job) : State.Moved r s ((s.modJob r.job f).modJob r.job g) := by
  refine .of_jobOf (by simp [State.modJob_aside]) (fun k => ?_) (by simp) (by simp)
  by_cases hk : k = r.job
  · rw [hk, State.jobOf_modJob_self _ _ (by simpa using h), State.jobOf_modJob_self _ _ h, hfg]
  · rw [State.jobOf_modJob_ne _ _ hk, State.jobOf_modJob_ne _ _ hk]

/-! ### Registers -/

@[simp] theorem State.sput_cur (s : State) (n : SReg) (v : Word) : (s.sput n v).cur = s.cur := by simp [State.sput]
@[simp] theorem State.sput_nextId (s : State) (n : SReg) (v : Word) : (s.sput n v).nextId = s.nextId := by simp [State.sput]
@[simp] theorem State.sput_isSome (s : State) (n : SReg) (v : Word) (k : Nat) :
    ((s.sput n v).jobs.find? k).isSome = (s.jobs.find? k).isSome := by simp [State.sput]

@[simp] theorem State.gput_cur (s : State) (n : GReg) (v : BitVec 128) : (s.gput n v).cur = s.cur := by simp [State.gput]
@[simp] theorem State.gput_nextId (s : State) (n : GReg) (v : BitVec 128) : (s.gput n v).nextId = s.nextId := by simp [State.gput]
@[simp] theorem State.gput_isSome (s : State) (n : GReg) (v : BitVec 128) (k : Nat) :
    ((s.gput n v).jobs.find? k).isSome = (s.jobs.find? k).isSome := by simp [State.gput]

@[simp] theorem State.pput_cur (s : State) (r : Ref) (p : PReg) (v : Option Bool) : (s.pput r p v).cur = s.cur := by simp [State.pput]
@[simp] theorem State.pput_nextId (s : State) (r : Ref) (p : PReg) (v : Option Bool) : (s.pput r p v).nextId = s.nextId := by simp [State.pput]
@[simp] theorem State.pput_isSome (s : State) (r : Ref) (p : PReg) (v : Option Bool) (i : Nat) :
    ((s.pput r p v).jobs.find? i).isSome = (s.jobs.find? i).isSome := by simp [State.pput]

theorem vector_set_set_get {α : Type} {n : Nat} (x : Vector α n) (i : Nat) (h : i < n) (v : α) : (x.set i v).set i x[i] = x := by
  ext k hk
  by_cases hi : i = k
  · subst hi; simp
  · simp [Vector.getElem_set, hi]

theorem State.unwrite_sput {s : State} (h : (s.jobs.find? s.cur.job).isSome = true) (n : SReg) (v : Word) :
    State.Moved s.cur s ((s.sput n v).unwrite s.cur s (.s n)) := by
  refine State.Moved.undo h _ _ ?_
  dsimp only
  simp only [Job.stream_setStream, Job.setStream_setStream]
  have : ({ ((s.jobOf s.cur.job).stream s.cur.letter).sput n v with
      s := (((s.jobOf s.cur.job).stream s.cur.letter).sput n v).s.set n (s.strOf s.cur).s[n] } : Stream) =
      (s.jobOf s.cur.job).stream s.cur.letter := by
    unfold Stream.sput State.strOf
    split
    · have := vector_set_set_get ((s.jobOf s.cur.job).stream s.cur.letter).s n n.isLt
        ((s.jobOf s.cur.job).stream s.cur.letter).s[n]
      have h2 : ∀ x : Vector Word 32, x.set n.val x[n] = x := fun x => by
        ext k hk; by_cases hi : n.val = k
        · subst hi; simp
        · simp [Vector.getElem_set, hi]
      rw [h2]
    · have h3 := vector_set_set_get ((s.jobOf s.cur.job).stream s.cur.letter).s n n.isLt v
      simp only [Fin.getElem_fin]
      rw [h3]
  rw [this, Job.setStream_self]

theorem State.owedOf_sput {s : State} (h : (s.jobs.find? s.cur.job).isSome = true) (n : SReg) (v : Word) :
    (s.sput n v).owedOf s.cur (.s n) = some (.s n (if n = 0 then 0 else v)) := by
  simp only [State.owedOf, State.sput, State.modSt, State.strOf_modRef_self s _ h, Stream.sget, Stream.sput]
  split <;> simp

theorem State.unwrite_gput {s : State} (h : (s.jobs.find? s.cur.job).isSome = true) (n : GReg) (v : BitVec 128) :
    State.Moved s.cur s ((s.gput n v).unwrite s.cur s (.g n)) := by
  refine State.Moved.undo h _ _ ?_
  dsimp only
  simp only [Job.stream_setStream, Job.setStream_setStream]
  have : ({ ((s.jobOf s.cur.job).stream s.cur.letter).gput n v with
      g := (((s.jobOf s.cur.job).stream s.cur.letter).gput n v).g.set n (s.strOf s.cur).g[n] } : Stream) =
      (s.jobOf s.cur.job).stream s.cur.letter := by
    unfold Stream.gput State.strOf
    simp only [Fin.getElem_fin]
    rw [vector_set_set_get]
  rw [this, Job.setStream_self]

theorem State.owedOf_gput {s : State} (h : (s.jobs.find? s.cur.job).isSome = true) (n : GReg) (v : BitVec 128) :
    (s.gput n v).owedOf s.cur (.g n) = some (.g n v) := by
  simp [State.owedOf, State.gput, State.modSt, State.strOf_modRef_self s _ h, Stream.gput]

theorem State.unwrite_pput {s : State} (h : (s.jobs.find? s.cur.job).isSome = true) (p : PReg) (v : Option Bool) :
    State.Moved s.cur s ((s.pput s.cur p v).unwrite s.cur s (.p p)) :=
  State.Moved.undo h _ _ rfl

theorem State.owedOf_pput {s : State} (h : (s.jobs.find? s.cur.job).isSome = true) (p : PReg) (v : Option Bool) :
    (s.pput s.cur p v).owedOf s.cur (.p p) = some (.p p v) := by
  simp [State.owedOf, State.pput, State.jobOf_modJob_self s _ h]

/-! ### Answers of a body -/

/-- A command of fixed latency that writes one s-register. -/
theorem State.act_done_sput {s : State} {c : Ctl} {u : Use} {fl : BitVec 5} {d : SReg} {v : Word} (hl : u.lat ≠ 0) (hd : u.dst = [.s d])
    (h : (s.jobs.find? s.cur.job).isSome = true) :
    State.Pends s s c [.s d] [.s d (if d = 0 then 0 else v)] fl u.lat (s.act c u (.done (s.sput d v) fl)) := by
  simp only [State.act]
  have h1 : u.dst.foldl (fun x g => x.unwrite s.cur s g) (s.sput d v) = (s.sput d v).unwrite s.cur s (.s d) := by simp [hd]
  have hm := State.unwrite_sput h d v
  have g := State.slowDone_pends (s := s) (e := s.sput d v) (c := c) (u := u) (fl := fl) (tiles := []) (engine := none) hl h1
    (by simp [State.unwrite]) (by simp [State.unwrite]) (by simp)
  rw [hd] at g
  simp only [List.filterMap_cons, State.owedOf_sput h, List.filterMap_nil] at g
  exact g.of_moved hm

/-- A command with a latency that writes one predicate. -/
theorem State.act_slow_pput {s : State} {c : Ctl} {u : Use} {fl : BitVec 5} {p : PReg} {v : Option Bool} {n : Nat} (hn : n ≠ 0)
    (hd : u.dst = [.p p]) (h : (s.jobs.find? s.cur.job).isSome = true) :
    State.Pends s s c [.p p] [.p p v] fl n (s.act c u (.slow (s.pput s.cur p v) fl n [] none)) := by
  simp only [State.act]
  have h1 : u.dst.foldl (fun x g => x.unwrite s.cur s g) (s.pput s.cur p v) = (s.pput s.cur p v).unwrite s.cur s (.p p) := by simp [hd]
  have hm := State.unwrite_pput h p v
  have g := State.slowDone_pends (s := s) (e := s.pput s.cur p v) (c := c) (u := u) (fl := fl) (tiles := []) (engine := none) hn h1
    (by simp [State.unwrite]) (by simp [State.unwrite]) (by simp)
  rw [hd] at g
  simp only [List.filterMap_cons, State.owedOf_pput h, List.filterMap_nil] at g
  exact g.of_moved hm

/-- A command with a latency that writes one 128-bit register. -/
theorem State.act_done_gput {s : State} {c : Ctl} {u : Use} {fl : BitVec 5} {d : GReg} {v : BitVec 128} (hl : u.lat ≠ 0) (hd : u.dst = [.g d])
    (h : (s.jobs.find? s.cur.job).isSome = true) :
    State.Pends s s c [.g d] [.g d v] fl u.lat (s.act c u (.done (s.gput d v) fl)) := by
  simp only [State.act]
  have h1 : u.dst.foldl (fun x g => x.unwrite s.cur s g) (s.gput d v) = (s.gput d v).unwrite s.cur s (.g d) := by simp [hd]
  have hm := State.unwrite_gput h d v
  have g := State.slowDone_pends (s := s) (e := s.gput d v) (c := c) (u := u) (fl := fl) (tiles := []) (engine := none) hl h1
    (by simp [State.unwrite]) (by simp [State.unwrite]) (by simp)
  rw [hd] at g
  simp only [List.filterMap_cons, State.owedOf_gput h, List.filterMap_nil] at g
  exact g.of_moved hm

/-- A command with a latency whose registers are none: its effect stands at once. -/
theorem State.act_slow_none {s e : State} {c : Ctl} {u : Use} {fl : BitVec 5} {n : Nat} {tiles : List Nat} {engine : Option Nat} (hn : n ≠ 0)
    (hd : u.dst = []) (hc : e.cur = s.cur) (hi : e.nextId = s.nextId) :
    State.Pends s e c [] [] fl n (s.act c u (.slow e fl n tiles engine)) := by
  simp only [State.act]
  have h1 : u.dst.foldl (fun x g => x.unwrite s.cur s g) e = e := by simp [hd]
  have g := State.slowDone_pends (s := s) (e := e) (c := c) (u := u) (fl := fl) (tiles := tiles) (engine := engine) hn h1 hc hi hi
  rw [hd] at g
  exact g

/-- The same where the latency is that of the command's class. -/
theorem State.act_done_none {s e : State} {c : Ctl} {u : Use} {fl : BitVec 5} (hl : u.lat ≠ 0) (hd : u.dst = []) (hc : e.cur = s.cur)
    (hi : e.nextId = s.nextId) : State.Pends s e c [] [] fl u.lat (s.act c u (.done e fl)) :=
  State.act_slow_none (tiles := []) (engine := none) hl hd hc hi

/-- A command whose work is in flight. -/
theorem State.act_fly {s e : State} {c : Ctl} {u : Use} (hc : e.cur = s.cur) : State.Moved s.cur e (s.act c u (.fly e)) := by
  have h := State.Moved.onward e u none
  rw [hc] at h
  exact h

/-! ### Commands that issue -/

variable {s e : State} {c : Ctl} {u : Use} {f : State → Act} {fl : BitVec 5}

/-- A command without a latency whose body answers an effect. -/
theorem command_done (h : s.Issues c u.regs u.preds u.gw u.ga u.irrev) (hl : u.lat = 0) (hf : f s = .done e fl) (hc : e.cur = s.cur)
    (hj : (e.jobs.find? s.cur.job).isSome = true) : ∃ t, command c u f s = .next t ∧ s.Done e c fl t :=
  ⟨_, command_next h, by rw [hf]; exact State.act_done hl hc hj⟩

/-- One that writes an s-register. -/
theorem command_sput {d : SReg} {v : Word} (h : s.Issues c u.regs u.preds u.gw u.ga u.irrev) (hl : u.lat = 0)
    (hf : f s = .done (s.sput d v) fl) : ∃ t, command c u f s = .next t ∧ s.Done (s.sput d v) c fl t :=
  command_done h hl hf (by simp) (by simpa using h.listed)

/-- One with a latency that writes an s-register. -/
theorem command_sput_late {d : SReg} {v : Word} (h : s.Issues c u.regs u.preds u.gw u.ga u.irrev) (hl : u.lat ≠ 0) (hd : u.dst = [.s d])
    (hf : f s = .done (s.sput d v) fl) :
    ∃ t, command c u f s = .next t ∧ s.Pends s c [.s d] [.s d (if d = 0 then 0 else v)] fl u.lat t :=
  ⟨_, command_next h, by rw [hf]; exact State.act_done_sput hl hd h.listed⟩

/-- One that changes its job. -/
theorem command_modJob {g : Job → Job} (h : s.Issues c u.regs u.preds u.gw u.ga u.irrev) (hl : u.lat = 0)
    (hf : f s = .done (s.modJob s.cur.job g) fl) : ∃ t, command c u f s = .next t ∧ s.Done (s.modJob s.cur.job g) c fl t :=
  command_done h hl hf (by simp) (by simpa using h.listed)

/-- One that changes its stream. -/
theorem command_modSt {g : Stream → Stream} (h : s.Issues c u.regs u.preds u.gw u.ga u.irrev) (hl : u.lat = 0)
    (hf : f s = .done (s.modSt g) fl) : ∃ t, command c u f s = .next t ∧ s.Done (s.modSt g) c fl t :=
  command_done h hl hf (by simp [State.modSt]) (by simpa [State.modSt] using h.listed)

/-- One with a latency that leaves registers alone. -/
theorem command_late (h : s.Issues c u.regs u.preds u.gw u.ga u.irrev) (hl : u.lat ≠ 0) (hd : u.dst = []) (hf : f s = .done e fl)
    (hc : e.cur = s.cur) (hi : e.nextId = s.nextId) : ∃ t, command c u f s = .next t ∧ s.Pends e c [] [] fl u.lat t :=
  ⟨_, command_next h, by rw [hf]; exact State.act_done_none hl hd hc hi⟩

/-- One with a latency of its own. -/
theorem command_slow {n : Nat} {tiles : List Nat} {engine : Option Nat} (h : s.Issues c u.regs u.preds u.gw u.ga u.irrev) (hn : n ≠ 0)
    (hd : u.dst = []) (hf : f s = .slow e fl n tiles engine) (hc : e.cur = s.cur) (hi : e.nextId = s.nextId) :
    ∃ t, command c u f s = .next t ∧ s.Pends e c [] [] fl n t :=
  ⟨_, command_next h, by rw [hf]; exact State.act_slow_none hn hd hc hi⟩

/-- One whose work is in flight. -/
theorem command_fly (h : s.Issues c u.regs u.preds u.gw u.ga u.irrev) (hf : f s = .fly e) (hc : e.cur = s.cur) :
    ∃ t, command c u f s = .next t ∧ State.Moved s.cur e t :=
  ⟨_, command_next h, by rw [hf]; exact State.act_fly hc⟩

end Sys2Proof.Machine
end

