-- ==== Sys2Proof/Laws/Lookup.lean ====
section
/-! SUPPORT. What an update leaves of the jobs, streams, cores and dies that a number names. -/

namespace Sys2Proof.Machine

@[simp] theorem State.post_jobOf (s : State) (d : Nat) (i : Instr) (g : Args) (n : Nat) : (s.post d i g).jobOf n = s.jobOf n := by simp [State.jobOf]
@[simp] theorem State.post_strOf (s : State) (d : Nat) (i : Instr) (g : Args) (x : Ref) : (s.post d i g).strOf x = s.strOf x := by simp [State.strOf]
@[simp] theorem State.post_coreOf (s : State) (d : Nat) (i : Instr) (g : Args) (n : Nat) : (s.post d i g).coreOf n = s.coreOf n := by simp [State.coreOf]
@[simp] theorem State.post_dieOf (s : State) (d : Nat) (i : Instr) (g : Args) (n : Nat) : (s.post d i g).dieOf n = s.dieOf n := by simp [State.dieOf]
@[simp] theorem State.later_jobOf (s : State) (i : Instr) (g : Args) (n : Nat) : (s.later i g).jobOf n = s.jobOf n := by simp [State.jobOf]
@[simp] theorem State.later_strOf (s : State) (i : Instr) (g : Args) (x : Ref) : (s.later i g).strOf x = s.strOf x := by simp [State.strOf]
@[simp] theorem State.later_coreOf (s : State) (i : Instr) (g : Args) (n : Nat) : (s.later i g).coreOf n = s.coreOf n := by simp [State.coreOf]
@[simp] theorem State.later_dieOf (s : State) (i : Instr) (g : Args) (n : Nat) : (s.later i g).dieOf n = s.dieOf n := by simp [State.dieOf]
@[simp] theorem State.draw_jobOf (s : State) (n : Nat) : (s.draw).jobOf n = s.jobOf n := by simp [State.jobOf]
@[simp] theorem State.draw_strOf (s : State) (x : Ref) : (s.draw).strOf x = s.strOf x := by simp [State.strOf]
@[simp] theorem State.draw_coreOf (s : State) (n : Nat) : (s.draw).coreOf n = s.coreOf n := by simp [State.coreOf]
@[simp] theorem State.draw_dieOf (s : State) (n : Nat) : (s.draw).dieOf n = s.dieOf n := by simp [State.dieOf]
@[simp] theorem State.send_jobOf (s : State) (m : Msg) (i : Instr) (g : Args) (n : Nat) : (s.send m i g).jobOf n = s.jobOf n := by simp [State.jobOf]
@[simp] theorem State.send_strOf (s : State) (m : Msg) (i : Instr) (g : Args) (x : Ref) : (s.send m i g).strOf x = s.strOf x := by simp [State.strOf]
@[simp] theorem State.send_coreOf (s : State) (m : Msg) (i : Instr) (g : Args) (n : Nat) : (s.send m i g).coreOf n = s.coreOf n := by simp [State.coreOf]
@[simp] theorem State.send_dieOf (s : State) (m : Msg) (i : Instr) (g : Args) (n : Nat) : (s.send m i g).dieOf n = s.dieOf n := by simp [State.dieOf]
@[simp] theorem State.newId_jobOf (s : State) (n : Nat) : (s.newId).jobOf n = s.jobOf n := by simp [State.jobOf]
@[simp] theorem State.newId_strOf (s : State) (x : Ref) : (s.newId).strOf x = s.strOf x := by simp [State.strOf]
@[simp] theorem State.newId_coreOf (s : State) (n : Nat) : (s.newId).coreOf n = s.coreOf n := by simp [State.coreOf]
@[simp] theorem State.newId_dieOf (s : State) (n : Nat) : (s.newId).dieOf n = s.dieOf n := by simp [State.dieOf]
@[simp] theorem State.unpost_jobOf (s : State) (p : Move → Bool) (n : Nat) : (s.unpost p).jobOf n = s.jobOf n := by simp [State.jobOf]
@[simp] theorem State.unpost_strOf (s : State) (p : Move → Bool) (x : Ref) : (s.unpost p).strOf x = s.strOf x := by simp [State.strOf]
@[simp] theorem State.unpost_coreOf (s : State) (p : Move → Bool) (n : Nat) : (s.unpost p).coreOf n = s.coreOf n := by simp [State.coreOf]
@[simp] theorem State.unpost_dieOf (s : State) (p : Move → Bool) (n : Nat) : (s.unpost p).dieOf n = s.dieOf n := by simp [State.dieOf]
@[simp] theorem State.poll_jobOf (s : State) (r : Ref) (n : Nat) : (s.poll r).jobOf n = s.jobOf n := by simp [State.jobOf]
@[simp] theorem State.poll_strOf (s : State) (r : Ref) (x : Ref) : (s.poll r).strOf x = s.strOf x := by simp [State.strOf]
@[simp] theorem State.poll_coreOf (s : State) (r : Ref) (n : Nat) : (s.poll r).coreOf n = s.coreOf n := by simp [State.coreOf]
@[simp] theorem State.poll_dieOf (s : State) (r : Ref) (n : Nat) : (s.poll r).dieOf n = s.dieOf n := by simp [State.dieOf]
@[simp] theorem State.modCore_jobOf (s : State) (k : Nat) (f : Core → Core) (n : Nat) : (s.modCore k f).jobOf n = s.jobOf n := by simp [State.jobOf]
@[simp] theorem State.modCore_strOf (s : State) (k : Nat) (f : Core → Core) (x : Ref) : (s.modCore k f).strOf x = s.strOf x := by simp [State.strOf]
@[simp] theorem State.modCore_dieOf (s : State) (k : Nat) (f : Core → Core) (n : Nat) : (s.modCore k f).dieOf n = s.dieOf n := by simp [State.dieOf]
@[simp] theorem State.modDie_jobOf (s : State) (k : Nat) (f : Die → Die) (n : Nat) : (s.modDie k f).jobOf n = s.jobOf n := by simp [State.jobOf]
@[simp] theorem State.modDie_strOf (s : State) (k : Nat) (f : Die → Die) (x : Ref) : (s.modDie k f).strOf x = s.strOf x := by simp [State.strOf]
@[simp] theorem State.modDie_coreOf (s : State) (k : Nat) (f : Die → Die) (n : Nat) : (s.modDie k f).coreOf n = s.coreOf n := by simp [State.coreOf]
@[simp] theorem State.modCtx_jobOf (s : State) (k : Nat) (f : Ctx → Ctx) (n : Nat) : (s.modCtx k f).jobOf n = s.jobOf n := by simp [State.jobOf]
@[simp] theorem State.modCtx_strOf (s : State) (k : Nat) (f : Ctx → Ctx) (x : Ref) : (s.modCtx k f).strOf x = s.strOf x := by simp [State.strOf]
@[simp] theorem State.modCtx_coreOf (s : State) (k : Nat) (f : Ctx → Ctx) (n : Nat) : (s.modCtx k f).coreOf n = s.coreOf n := by simp [State.coreOf]
@[simp] theorem State.modCtx_dieOf (s : State) (k : Nat) (f : Ctx → Ctx) (n : Nat) : (s.modCtx k f).dieOf n = s.dieOf n := by simp [State.dieOf]
@[simp] theorem State.modLaunch_jobOf (s : State) (k : Nat) (f : Launch → Launch) (n : Nat) : (s.modLaunch k f).jobOf n = s.jobOf n := by simp [State.jobOf]
@[simp] theorem State.modLaunch_strOf (s : State) (k : Nat) (f : Launch → Launch) (x : Ref) : (s.modLaunch k f).strOf x = s.strOf x := by simp [State.strOf]
@[simp] theorem State.modLaunch_coreOf (s : State) (k : Nat) (f : Launch → Launch) (n : Nat) : (s.modLaunch k f).coreOf n = s.coreOf n := by simp [State.coreOf]
@[simp] theorem State.modLaunch_dieOf (s : State) (k : Nat) (f : Launch → Launch) (n : Nat) : (s.modLaunch k f).dieOf n = s.dieOf n := by simp [State.dieOf]
@[simp] theorem State.modFlight_jobOf (s : State) (k : Nat) (f : Flight → Flight) (n : Nat) : (s.modFlight k f).jobOf n = s.jobOf n := by simp [State.jobOf]
@[simp] theorem State.modFlight_strOf (s : State) (k : Nat) (f : Flight → Flight) (x : Ref) : (s.modFlight k f).strOf x = s.strOf x := by simp [State.strOf]
@[simp] theorem State.modFlight_coreOf (s : State) (k : Nat) (f : Flight → Flight) (n : Nat) : (s.modFlight k f).coreOf n = s.coreOf n := by simp [State.coreOf]
@[simp] theorem State.modFlight_dieOf (s : State) (k : Nat) (f : Flight → Flight) (n : Nat) : (s.modFlight k f).dieOf n = s.dieOf n := by simp [State.dieOf]
@[simp] theorem State.modJob_coreOf (s : State) (k : Nat) (f : Job → Job) (n : Nat) : (s.modJob k f).coreOf n = s.coreOf n := by simp [State.coreOf]
@[simp] theorem State.modJob_dieOf (s : State) (k : Nat) (f : Job → Job) (n : Nat) : (s.modJob k f).dieOf n = s.dieOf n := by simp [State.dieOf]
@[simp] theorem State.modRef_coreOf (s : State) (r : Ref) (f : Stream → Stream) (n : Nat) : (s.modRef r f).coreOf n = s.coreOf n := by simp [State.coreOf]
@[simp] theorem State.modRef_dieOf (s : State) (r : Ref) (f : Stream → Stream) (n : Nat) : (s.modRef r f).dieOf n = s.dieOf n := by simp [State.dieOf]
@[simp] theorem State.modSt_coreOf (s : State) (f : Stream → Stream) (n : Nat) : (s.modSt f).coreOf n = s.coreOf n := by simp [State.coreOf]
@[simp] theorem State.modSt_dieOf (s : State) (f : Stream → Stream) (n : Nat) : (s.modSt f).dieOf n = s.dieOf n := by simp [State.dieOf]

@[simp] theorem State.coreOf_modCore_self (s : State) (k : Nat) (f : Core → Core) : (s.modCore k f).coreOf k = f (s.coreOf k) := by
  simp [State.coreOf, State.modCore]

theorem State.coreOf_modCore_ne (s : State) {k n : Nat} (f : Core → Core) (h : n ≠ k) : (s.modCore k f).coreOf n = s.coreOf n := by
  simp [State.coreOf, State.modCore, Map.getD_set_ne _ _ _ h]

@[simp] theorem State.dieOf_modDie_self (s : State) (k : Nat) (f : Die → Die) : (s.modDie k f).dieOf k = f (s.dieOf k) := by
  simp [State.dieOf, State.modDie]

theorem State.dieOf_modDie_ne (s : State) {k n : Nat} (f : Die → Die) (h : n ≠ k) : (s.modDie k f).dieOf n = s.dieOf n := by
  simp [State.dieOf, State.modDie, Map.getD_set_ne _ _ _ h]

/-- An event asked for is on the agenda, no later than asked. -/
theorem State.mem_ensure (s : State) (d : Nat) (i : Instr) (g : Args) :
    ∃ n, n ≤ s.now + d ∧ ⟨n, .event i g⟩ ∈ (s.ensure d i g).agenda := by
  unfold State.ensure
  split
  · rename_i h
    obtain ⟨e, he, h⟩ := List.any_eq_true.mp h
    simp only [Bool.and_eq_true, decide_eq_true_eq] at h
    obtain ⟨a, b⟩ := e
    have hb : b = .event i g := by simpa using h.2
    exact ⟨a, h.1, hb ▸ he⟩
  · exact ⟨s.now + d, Nat.le_refl _, by simp [State.post]⟩

theorem State.ensure_cases (s : State) (d : Nat) (i : Instr) (g : Args) : s.ensure d i g = s ∨ s.ensure d i g = s.post d i g := by
  unfold State.ensure; split <;> simp

theorem State.ensureOne_cases (s : State) (d : Nat) (i : Instr) (g : Args) : s.ensureOne d i g = s ∨ s.ensureOne d i g = s.post d i g := by
  unfold State.ensureOne; split <;> simp

@[simp] theorem State.ensure_now (s : State) (d : Nat) (i : Instr) (g : Args) : (s.ensure d i g).now = s.now := by
  rcases s.ensure_cases d i g with h | h <;> simp [h]
@[simp] theorem State.ensure_ticket (s : State) (d : Nat) (i : Instr) (g : Args) : (s.ensure d i g).ticket = s.ticket := by
  rcases s.ensure_cases d i g with h | h <;> simp [h]
@[simp] theorem State.ensure_cur (s : State) (d : Nat) (i : Instr) (g : Args) : (s.ensure d i g).cur = s.cur := by
  rcases s.ensure_cases d i g with h | h <;> simp [h]
@[simp] theorem State.ensure_lane (s : State) (d : Nat) (i : Instr) (g : Args) : (s.ensure d i g).lane = s.lane := by
  rcases s.ensure_cases d i g with h | h <;> simp [h]
@[simp] theorem State.ensure_args (s : State) (d : Nat) (i : Instr) (g : Args) : (s.ensure d i g).args = s.args := by
  rcases s.ensure_cases d i g with h | h <;> simp [h]
@[simp] theorem State.ensure_nextId (s : State) (d : Nat) (i : Instr) (g : Args) : (s.ensure d i g).nextId = s.nextId := by
  rcases s.ensure_cases d i g with h | h <;> simp [h]
@[simp] theorem State.ensure_outbox (s : State) (d : Nat) (i : Instr) (g : Args) : (s.ensure d i g).outbox = s.outbox := by
  rcases s.ensure_cases d i g with h | h <;> simp [h]
@[simp] theorem State.ensure_jobs (s : State) (d : Nat) (i : Instr) (g : Args) : (s.ensure d i g).jobs = s.jobs := by
  rcases s.ensure_cases d i g with h | h <;> simp [h]
@[simp] theorem State.ensure_flights (s : State) (d : Nat) (i : Instr) (g : Args) : (s.ensure d i g).flights = s.flights := by
  rcases s.ensure_cases d i g with h | h <;> simp [h]
@[simp] theorem State.ensure_accesses (s : State) (d : Nat) (i : Instr) (g : Args) : (s.ensure d i g).accesses = s.accesses := by
  rcases s.ensure_cases d i g with h | h <;> simp [h]
@[simp] theorem State.ensure_cores (s : State) (d : Nat) (i : Instr) (g : Args) : (s.ensure d i g).cores = s.cores := by
  rcases s.ensure_cases d i g with h | h <;> simp [h]
@[simp] theorem State.ensure_dies (s : State) (d : Nat) (i : Instr) (g : Args) : (s.ensure d i g).dies = s.dies := by
  rcases s.ensure_cases d i g with h | h <;> simp [h]
@[simp] theorem State.ensure_mem (s : State) (d : Nat) (i : Instr) (g : Args) : (s.ensure d i g).mem = s.mem := by
  rcases s.ensure_cases d i g with h | h <;> simp [h]
@[simp] theorem State.ensure_memPoison (s : State) (d : Nat) (i : Instr) (g : Args) : (s.ensure d i g).memPoison = s.memPoison := by
  rcases s.ensure_cases d i g with h | h <;> simp [h]
@[simp] theorem State.ensure_ptpt (s : State) (d : Nat) (i : Instr) (g : Args) : (s.ensure d i g).ptpt = s.ptpt := by
  rcases s.ensure_cases d i g with h | h <;> simp [h]
@[simp] theorem State.ensure_queues (s : State) (d : Nat) (i : Instr) (g : Args) : (s.ensure d i g).queues = s.queues := by
  rcases s.ensure_cases d i g with h | h <;> simp [h]
@[simp] theorem State.ensure_history (s : State) (d : Nat) (i : Instr) (g : Args) : (s.ensure d i g).history = s.history := by
  rcases s.ensure_cases d i g with h | h <;> simp [h]
@[simp] theorem State.ensure_launches (s : State) (d : Nat) (i : Instr) (g : Args) : (s.ensure d i g).launches = s.launches := by
  rcases s.ensure_cases d i g with h | h <;> simp [h]
@[simp] theorem State.ensure_ctxs (s : State) (d : Nat) (i : Instr) (g : Args) : (s.ensure d i g).ctxs = s.ctxs := by
  rcases s.ensure_cases d i g with h | h <;> simp [h]
@[simp] theorem State.ensure_s1 (s : State) (d : Nat) (i : Instr) (g : Args) : (s.ensure d i g).s1 = s.s1 := by
  rcases s.ensure_cases d i g with h | h <;> simp [h]
@[simp] theorem State.ensure_s2 (s : State) (d : Nat) (i : Instr) (g : Args) : (s.ensure d i g).s2 = s.s2 := by
  rcases s.ensure_cases d i g with h | h <;> simp [h]
@[simp] theorem State.ensure_parts (s : State) (d : Nat) (i : Instr) (g : Args) : (s.ensure d i g).parts = s.parts := by
  rcases s.ensure_cases d i g with h | h <;> simp [h]
@[simp] theorem State.ensure_colls (s : State) (d : Nat) (i : Instr) (g : Args) : (s.ensure d i g).colls = s.colls := by
  rcases s.ensure_cases d i g with h | h <;> simp [h]
@[simp] theorem State.ensure_fmsgs (s : State) (d : Nat) (i : Instr) (g : Args) : (s.ensure d i g).fmsgs = s.fmsgs := by
  rcases s.ensure_cases d i g with h | h <;> simp [h]
@[simp] theorem State.ensure_mail (s : State) (d : Nat) (i : Instr) (g : Args) : (s.ensure d i g).mail = s.mail := by
  rcases s.ensure_cases d i g with h | h <;> simp [h]
@[simp] theorem State.ensure_klota (s : State) (d : Nat) (i : Instr) (g : Args) : (s.ensure d i g).klota = s.klota := by
  rcases s.ensure_cases d i g with h | h <;> simp [h]
@[simp] theorem State.ensure_requests (s : State) (d : Nat) (i : Instr) (g : Args) : (s.ensure d i g).requests = s.requests := by
  rcases s.ensure_cases d i g with h | h <;> simp [h]
@[simp] theorem State.ensure_jobOf (s : State) (d : Nat) (i : Instr) (g : Args) (k : Nat) : (s.ensure d i g).jobOf k = s.jobOf k := by
  simp [State.jobOf]
@[simp] theorem State.ensure_coreOf (s : State) (d : Nat) (i : Instr) (g : Args) (k : Nat) : (s.ensure d i g).coreOf k = s.coreOf k := by
  simp [State.coreOf]
@[simp] theorem State.ensure_dieOf (s : State) (d : Nat) (i : Instr) (g : Args) (k : Nat) : (s.ensure d i g).dieOf k = s.dieOf k := by
  simp [State.dieOf]
@[simp] theorem State.ensure_strOf (s : State) (d : Nat) (i : Instr) (g : Args) (x : Ref) : (s.ensure d i g).strOf x = s.strOf x := by
  simp [State.strOf]
@[simp] theorem State.ensureOne_now (s : State) (d : Nat) (i : Instr) (g : Args) : (s.ensureOne d i g).now = s.now := by
  rcases s.ensureOne_cases d i g with h | h <;> simp [h]
@[simp] theorem State.ensureOne_ticket (s : State) (d : Nat) (i : Instr) (g : Args) : (s.ensureOne d i g).ticket = s.ticket := by
  rcases s.ensureOne_cases d i g with h | h <;> simp [h]
@[simp] theorem State.ensureOne_cur (s : State) (d : Nat) (i : Instr) (g : Args) : (s.ensureOne d i g).cur = s.cur := by
  rcases s.ensureOne_cases d i g with h | h <;> simp [h]
@[simp] theorem State.ensureOne_lane (s : State) (d : Nat) (i : Instr) (g : Args) : (s.ensureOne d i g).lane = s.lane := by
  rcases s.ensureOne_cases d i g with h | h <;> simp [h]
@[simp] theorem State.ensureOne_args (s : State) (d : Nat) (i : Instr) (g : Args) : (s.ensureOne d i g).args = s.args := by
  rcases s.ensureOne_cases d i g with h | h <;> simp [h]
@[simp] theorem State.ensureOne_nextId (s : State) (d : Nat) (i : Instr) (g : Args) : (s.ensureOne d i g).nextId = s.nextId := by
  rcases s.ensureOne_cases d i g with h | h <;> simp [h]
@[simp] theorem State.ensureOne_outbox (s : State) (d : Nat) (i : Instr) (g : Args) : (s.ensureOne d i g).outbox = s.outbox := by
  rcases s.ensureOne_cases d i g with h | h <;> simp [h]
@[simp] theorem State.ensureOne_jobs (s : State) (d : Nat) (i : Instr) (g : Args) : (s.ensureOne d i g).jobs = s.jobs := by
  rcases s.ensureOne_cases d i g with h | h <;> simp [h]
@[simp] theorem State.ensureOne_flights (s : State) (d : Nat) (i : Instr) (g : Args) : (s.ensureOne d i g).flights = s.flights := by
  rcases s.ensureOne_cases d i g with h | h <;> simp [h]
@[simp] theorem State.ensureOne_accesses (s : State) (d : Nat) (i : Instr) (g : Args) : (s.ensureOne d i g).accesses = s.accesses := by
  rcases s.ensureOne_cases d i g with h | h <;> simp [h]
@[simp] theorem State.ensureOne_cores (s : State) (d : Nat) (i : Instr) (g : Args) : (s.ensureOne d i g).cores = s.cores := by
  rcases s.ensureOne_cases d i g with h | h <;> simp [h]
@[simp] theorem State.ensureOne_dies (s : State) (d : Nat) (i : Instr) (g : Args) : (s.ensureOne d i g).dies = s.dies := by
  rcases s.ensureOne_cases d i g with h | h <;> simp [h]
@[simp] theorem State.ensureOne_mem (s : State) (d : Nat) (i : Instr) (g : Args) : (s.ensureOne d i g).mem = s.mem := by
  rcases s.ensureOne_cases d i g with h | h <;> simp [h]
@[simp] theorem State.ensureOne_memPoison (s : State) (d : Nat) (i : Instr) (g : Args) : (s.ensureOne d i g).memPoison = s.memPoison := by
  rcases s.ensureOne_cases d i g with h | h <;> simp [h]
@[simp] theorem State.ensureOne_ptpt (s : State) (d : Nat) (i : Instr) (g : Args) : (s.ensureOne d i g).ptpt = s.ptpt := by
  rcases s.ensureOne_cases d i g with h | h <;> simp [h]
@[simp] theorem State.ensureOne_queues (s : State) (d : Nat) (i : Instr) (g : Args) : (s.ensureOne d i g).queues = s.queues := by
  rcases s.ensureOne_cases d i g with h | h <;> simp [h]
@[simp] theorem State.ensureOne_history (s : State) (d : Nat) (i : Instr) (g : Args) : (s.ensureOne d i g).history = s.history := by
  rcases s.ensureOne_cases d i g with h | h <;> simp [h]
@[simp] theorem State.ensureOne_launches (s : State) (d : Nat) (i : Instr) (g : Args) : (s.ensureOne d i g).launches = s.launches := by
  rcases s.ensureOne_cases d i g with h | h <;> simp [h]
@[simp] theorem State.ensureOne_ctxs (s : State) (d : Nat) (i : Instr) (g : Args) : (s.ensureOne d i g).ctxs = s.ctxs := by
  rcases s.ensureOne_cases d i g with h | h <;> simp [h]
@[simp] theorem State.ensureOne_s1 (s : State) (d : Nat) (i : Instr) (g : Args) : (s.ensureOne d i g).s1 = s.s1 := by
  rcases s.ensureOne_cases d i g with h | h <;> simp [h]
@[simp] theorem State.ensureOne_s2 (s : State) (d : Nat) (i : Instr) (g : Args) : (s.ensureOne d i g).s2 = s.s2 := by
  rcases s.ensureOne_cases d i g with h | h <;> simp [h]
@[simp] theorem State.ensureOne_parts (s : State) (d : Nat) (i : Instr) (g : Args) : (s.ensureOne d i g).parts = s.parts := by
  rcases s.ensureOne_cases d i g with h | h <;> simp [h]
@[simp] theorem State.ensureOne_colls (s : State) (d : Nat) (i : Instr) (g : Args) : (s.ensureOne d i g).colls = s.colls := by
  rcases s.ensureOne_cases d i g with h | h <;> simp [h]
@[simp] theorem State.ensureOne_fmsgs (s : State) (d : Nat) (i : Instr) (g : Args) : (s.ensureOne d i g).fmsgs = s.fmsgs := by
  rcases s.ensureOne_cases d i g with h | h <;> simp [h]
@[simp] theorem State.ensureOne_mail (s : State) (d : Nat) (i : Instr) (g : Args) : (s.ensureOne d i g).mail = s.mail := by
  rcases s.ensureOne_cases d i g with h | h <;> simp [h]
@[simp] theorem State.ensureOne_klota (s : State) (d : Nat) (i : Instr) (g : Args) : (s.ensureOne d i g).klota = s.klota := by
  rcases s.ensureOne_cases d i g with h | h <;> simp [h]
@[simp] theorem State.ensureOne_requests (s : State) (d : Nat) (i : Instr) (g : Args) : (s.ensureOne d i g).requests = s.requests := by
  rcases s.ensureOne_cases d i g with h | h <;> simp [h]
@[simp] theorem State.ensureOne_jobOf (s : State) (d : Nat) (i : Instr) (g : Args) (k : Nat) : (s.ensureOne d i g).jobOf k = s.jobOf k := by
  simp [State.jobOf]
@[simp] theorem State.ensureOne_coreOf (s : State) (d : Nat) (i : Instr) (g : Args) (k : Nat) : (s.ensureOne d i g).coreOf k = s.coreOf k := by
  simp [State.coreOf]
@[simp] theorem State.ensureOne_dieOf (s : State) (d : Nat) (i : Instr) (g : Args) (k : Nat) : (s.ensureOne d i g).dieOf k = s.dieOf k := by
  simp [State.dieOf]
@[simp] theorem State.ensureOne_strOf (s : State) (d : Nat) (i : Instr) (g : Args) (x : Ref) : (s.ensureOne d i g).strOf x = s.strOf x := by
  simp [State.strOf]

@[simp] theorem State.markAcc_now (s : State) (ks : Option (Nat × Nat)) (b : Bool) : (s.markAcc ks b).now = s.now := by
  unfold State.markAcc; split <;> [rfl; split <;> rfl]
@[simp] theorem State.markAcc_ticket (s : State) (ks : Option (Nat × Nat)) (b : Bool) : (s.markAcc ks b).ticket = s.ticket := by
  unfold State.markAcc; split <;> [rfl; split <;> rfl]
@[simp] theorem State.markAcc_cur (s : State) (ks : Option (Nat × Nat)) (b : Bool) : (s.markAcc ks b).cur = s.cur := by
  unfold State.markAcc; split <;> [rfl; split <;> rfl]
@[simp] theorem State.markAcc_lane (s : State) (ks : Option (Nat × Nat)) (b : Bool) : (s.markAcc ks b).lane = s.lane := by
  unfold State.markAcc; split <;> [rfl; split <;> rfl]
@[simp] theorem State.markAcc_args (s : State) (ks : Option (Nat × Nat)) (b : Bool) : (s.markAcc ks b).args = s.args := by
  unfold State.markAcc; split <;> [rfl; split <;> rfl]
@[simp] theorem State.markAcc_nextId (s : State) (ks : Option (Nat × Nat)) (b : Bool) : (s.markAcc ks b).nextId = s.nextId := by
  unfold State.markAcc; split <;> [rfl; split <;> rfl]
@[simp] theorem State.markAcc_outbox (s : State) (ks : Option (Nat × Nat)) (b : Bool) : (s.markAcc ks b).outbox = s.outbox := by
  unfold State.markAcc; split <;> [rfl; split <;> rfl]
@[simp] theorem State.markAcc_jobs (s : State) (ks : Option (Nat × Nat)) (b : Bool) : (s.markAcc ks b).jobs = s.jobs := by
  unfold State.markAcc; split <;> [rfl; split <;> rfl]
@[simp] theorem State.markAcc_flights (s : State) (ks : Option (Nat × Nat)) (b : Bool) : (s.markAcc ks b).flights = s.flights := by
  unfold State.markAcc; split <;> [rfl; split <;> rfl]
@[simp] theorem State.markAcc_accesses (s : State) (ks : Option (Nat × Nat)) (b : Bool) : (s.markAcc ks b).accesses = s.accesses := by
  unfold State.markAcc; split <;> [rfl; split <;> rfl]
@[simp] theorem State.markAcc_cores (s : State) (ks : Option (Nat × Nat)) (b : Bool) : (s.markAcc ks b).cores = s.cores := by
  unfold State.markAcc; split <;> [rfl; split <;> rfl]
@[simp] theorem State.markAcc_dies (s : State) (ks : Option (Nat × Nat)) (b : Bool) : (s.markAcc ks b).dies = s.dies := by
  unfold State.markAcc; split <;> [rfl; split <;> rfl]
@[simp] theorem State.markAcc_mem (s : State) (ks : Option (Nat × Nat)) (b : Bool) : (s.markAcc ks b).mem = s.mem := by
  unfold State.markAcc; split <;> [rfl; split <;> rfl]
@[simp] theorem State.markAcc_memPoison (s : State) (ks : Option (Nat × Nat)) (b : Bool) : (s.markAcc ks b).memPoison = s.memPoison := by
  unfold State.markAcc; split <;> [rfl; split <;> rfl]
@[simp] theorem State.markAcc_ptpt (s : State) (ks : Option (Nat × Nat)) (b : Bool) : (s.markAcc ks b).ptpt = s.ptpt := by
  unfold State.markAcc; split <;> [rfl; split <;> rfl]
@[simp] theorem State.markAcc_queues (s : State) (ks : Option (Nat × Nat)) (b : Bool) : (s.markAcc ks b).queues = s.queues := by
  unfold State.markAcc; split <;> [rfl; split <;> rfl]
@[simp] theorem State.markAcc_history (s : State) (ks : Option (Nat × Nat)) (b : Bool) : (s.markAcc ks b).history = s.history := by
  unfold State.markAcc; split <;> [rfl; split <;> rfl]
@[simp] theorem State.markAcc_launches (s : State) (ks : Option (Nat × Nat)) (b : Bool) : (s.markAcc ks b).launches = s.launches := by
  unfold State.markAcc; split <;> [rfl; split <;> rfl]
@[simp] theorem State.markAcc_ctxs (s : State) (ks : Option (Nat × Nat)) (b : Bool) : (s.markAcc ks b).ctxs = s.ctxs := by
  unfold State.markAcc; split <;> [rfl; split <;> rfl]
@[simp] theorem State.markAcc_parts (s : State) (ks : Option (Nat × Nat)) (b : Bool) : (s.markAcc ks b).parts = s.parts := by
  unfold State.markAcc; split <;> [rfl; split <;> rfl]
@[simp] theorem State.markAcc_colls (s : State) (ks : Option (Nat × Nat)) (b : Bool) : (s.markAcc ks b).colls = s.colls := by
  unfold State.markAcc; split <;> [rfl; split <;> rfl]
@[simp] theorem State.markAcc_fmsgs (s : State) (ks : Option (Nat × Nat)) (b : Bool) : (s.markAcc ks b).fmsgs = s.fmsgs := by
  unfold State.markAcc; split <;> [rfl; split <;> rfl]
@[simp] theorem State.markAcc_mail (s : State) (ks : Option (Nat × Nat)) (b : Bool) : (s.markAcc ks b).mail = s.mail := by
  unfold State.markAcc; split <;> [rfl; split <;> rfl]
@[simp] theorem State.markAcc_klota (s : State) (ks : Option (Nat × Nat)) (b : Bool) : (s.markAcc ks b).klota = s.klota := by
  unfold State.markAcc; split <;> [rfl; split <;> rfl]
@[simp] theorem State.markAcc_requests (s : State) (ks : Option (Nat × Nat)) (b : Bool) : (s.markAcc ks b).requests = s.requests := by
  unfold State.markAcc; split <;> [rfl; split <;> rfl]
@[simp] theorem State.markAcc_true (s : State) (ks : Option (Nat × Nat)) : s.markAcc ks true = s := by
  unfold State.markAcc; split <;> rfl
@[simp] theorem State.markAcc_jobOf (s : State) (ks : Option (Nat × Nat)) (b : Bool) (k : Nat) : (s.markAcc ks b).jobOf k = s.jobOf k := by
  simp [State.jobOf]
@[simp] theorem State.markAcc_coreOf (s : State) (ks : Option (Nat × Nat)) (b : Bool) (k : Nat) : (s.markAcc ks b).coreOf k = s.coreOf k := by
  simp [State.coreOf]
@[simp] theorem State.markAcc_dieOf (s : State) (ks : Option (Nat × Nat)) (b : Bool) (k : Nat) : (s.markAcc ks b).dieOf k = s.dieOf k := by
  simp [State.dieOf]
@[simp] theorem State.markAcc_strOf (s : State) (ks : Option (Nat × Nat)) (b : Bool) (x : Ref) : (s.markAcc ks b).strOf x = s.strOf x := by
  simp [State.strOf]

end Sys2Proof.Machine
end

