-- ==== Sys2Proof/Laws/Memory.lean ====
section
/-! SUPPORT. Memory: reads after writes, and the canonical form, kept by every operation. -/

namespace Sys2Proof.Machine

/-! ### Cell lists -/

theorem Memory.wfFrom_mono {m : List Host.Cell} {lo hi : Nat} (h : lo ≤ hi) (hm : Memory.wfFrom hi m = true) : Memory.wfFrom lo m = true := by
  cases m with
  | nil => rfl
  | cons e r =>
    obtain ⟨a, b⟩ := e
    simp only [Memory.wfFrom, Bool.and_eq_true, decide_eq_true_eq] at hm ⊢
    exact ⟨⟨by omega, hm.1.2⟩, hm.2⟩

theorem Memory.wfFrom_put {m : List Host.Cell} {lo a : Nat} {b : Byte} (h : lo ≤ a) (hm : Memory.wfFrom lo m = true) :
    Memory.wfFrom lo (Memory.put m a b) = true := by
  induction m generalizing lo with
  | nil => unfold Memory.put; split <;> simp_all [Memory.wfFrom]
  | cons e r ih =>
    obtain ⟨k, c⟩ := e
    simp only [Memory.wfFrom, Bool.and_eq_true, decide_eq_true_eq] at hm
    obtain ⟨⟨h1, h2⟩, h3⟩ := hm
    unfold Memory.put
    split
    · rename_i hlt
      split
      · simp only [Memory.wfFrom, Bool.and_eq_true, decide_eq_true_eq]
        exact ⟨⟨h1, h2⟩, h3⟩
      · rename_i hb
        simp only [Memory.wfFrom, Bool.and_eq_true, decide_eq_true_eq]
        exact ⟨⟨h, hb⟩, ⟨hlt, h2⟩, h3⟩
    · split
      · rename_i hk
        subst hk
        split
        · exact Memory.wfFrom_mono (by omega) h3
        · rename_i hb
          simp only [Memory.wfFrom, Bool.and_eq_true, decide_eq_true_eq]
          exact ⟨⟨h, hb⟩, h3⟩
      · rename_i hn hk
        simp only [Memory.wfFrom, Bool.and_eq_true, decide_eq_true_eq]
        exact ⟨⟨h1, h2⟩, ih (by omega) h3⟩

theorem Memory.wf_put {m : List Host.Cell} (hm : Memory.wf m = true) (a : Nat) (b : Byte) : Memory.wf (Memory.put m a b) = true :=
  Memory.wfFrom_put (Nat.zero_le a) hm

theorem Memory.wf_write {m : List Host.Cell} (hm : Memory.wf m = true) (a : Nat) (v : List Byte) : Memory.wf (Memory.write m a v) = true := by
  induction v generalizing m a with
  | nil => exact hm
  | cons b r ih => exact ih (Memory.wf_put hm a b) _

theorem Memory.get_of_lt {m : List Host.Cell} {lo a : Nat} (hm : Memory.wfFrom lo m = true) (h : a < lo) : Memory.get m a = 0 := by
  cases m with
  | nil => rfl
  | cons e r =>
    obtain ⟨k, c⟩ := e
    simp only [Memory.wfFrom, Bool.and_eq_true, decide_eq_true_eq] at hm
    unfold Memory.get
    rw [if_neg (by omega), if_pos (by omega)]

theorem Memory.get_put {m : List Host.Cell} {lo : Nat} (hm : Memory.wfFrom lo m = true) (a : Nat) (b : Byte) (x : Nat) :
    Memory.get (Memory.put m a b) x = if x = a then b else Memory.get m x := by
  induction m generalizing lo with
  | nil =>
    unfold Memory.put
    split
    · rename_i hb; simp [Memory.get, hb]
    · simp only [Memory.get]
      by_cases h : x = a
      · simp [h]
      · rw [if_neg (Ne.symm h), if_neg h]; split <;> rfl
  | cons e r ih =>
    obtain ⟨k, c⟩ := e
    simp only [Memory.wfFrom, Bool.and_eq_true, decide_eq_true_eq] at hm
    obtain ⟨⟨h1, h2⟩, h3⟩ := hm
    unfold Memory.put
    split
    · rename_i hlt
      split
      · rename_i hb
        by_cases h : x = a
        · subst h; simp only [Memory.get, if_true, hb]; rw [if_neg (by omega), if_pos hlt]
        · rw [if_neg h]
      · by_cases h : x = a
        · simp [Memory.get, h]
        · rw [if_neg h]
          simp only [Memory.get]
          rw [if_neg (Ne.symm h)]
          by_cases hx : x < a
          · rw [if_pos hx, if_neg (by omega), if_pos (by omega)]
          · rw [if_neg hx]
    · rename_i hn
      split
      · rename_i hk
        subst hk
        split
        · rename_i hb
          by_cases h : x = k
          · subst h; rw [if_pos rfl, hb]; exact Memory.get_of_lt h3 (by omega)
          · rw [if_neg h]
            simp only [Memory.get]
            rw [if_neg (Ne.symm h)]
            by_cases hx : x < k
            · rw [if_pos hx]; exact Memory.get_of_lt h3 (by omega)
            · rw [if_neg hx]
        · by_cases h : x = k
          · simp [Memory.get, h]
          · rw [if_neg h]
            simp only [Memory.get]
            rw [if_neg (Ne.symm h), if_neg (Ne.symm h)]
      · rename_i hk
        simp only [Memory.get]
        by_cases h : k = x
        · subst h; simp [hk]
        · rw [if_neg h, if_neg h]
          by_cases hx : x < k
          · rw [if_pos hx, if_pos hx, if_neg (by omega)]
          · rw [if_neg hx, if_neg hx]; exact ih h3

theorem Memory.get_write {m : List Host.Cell} (hm : Memory.wf m = true) (a : Nat) (v : List Byte) (x : Nat) :
    Memory.get (Memory.write m a v) x = if a ≤ x ∧ x < a + v.length then v.getD (x - a) 0 else Memory.get m x := by
  induction v generalizing m a with
  | nil => rw [if_neg (by simp)]; rfl
  | cons b r ih =>
    unfold Memory.write
    rw [ih (Memory.wf_put hm a b), Memory.get_put hm]
    by_cases h : x = a
    · subst h
      rw [if_neg (by omega), if_pos rfl, if_pos (by simp)]
      simp
    · rw [if_neg h]
      by_cases h2 : a + 1 ≤ x ∧ x < a + 1 + r.length
      · rw [if_pos h2, if_pos (by simp only [List.length_cons]; omega)]
        have : x - a = (x - (a + 1)) + 1 := by omega
        rw [this, List.getD_cons_succ]
      · rw [if_neg h2, if_neg (by simp only [List.length_cons]; omega)]

theorem Memory.getD_read (m : List Host.Cell) (n : Nat) : ∀ (a i : Nat), i < n → (Memory.read m a n).getD i 0 = Memory.get m (a + i) := by
  induction n with
  | zero => intro a i h; omega
  | succ n ih =>
    intro a i h
    unfold Memory.read
    cases i with
    | zero => rfl
    | succ i => rw [List.getD_cons_succ, ih _ _ (by omega)]; congr 1; omega

@[simp] theorem Memory.length_read (m : List Host.Cell) (n : Nat) : ∀ a, (Memory.read m a n).length = n := by
  induction n with
  | zero => intro a; rfl
  | succ n ih => intro a; simp [Memory.read, ih]

/-- Reads agree where the bytes do. -/
theorem Memory.read_congr {m p : List Host.Cell} {n : Nat} : ∀ {a : Nat}, (∀ i, i < n → Memory.get m (a + i) = Memory.get p (a + i)) →
    Memory.read m a n = Memory.read p a n := by
  induction n with
  | zero => intro a _; rfl
  | succ n ih =>
    intro a h
    unfold Memory.read
    rw [ih (fun i hi => by have := h (i + 1) (by omega); rwa [show a + 1 + i = a + (i + 1) by omega]), show Memory.get m a = Memory.get p a from h 0 (by omega)]

/-- Bytes written read back. -/
theorem Memory.read_write_self {m : List Host.Cell} (hm : Memory.wf m = true) (v : List Byte) : ∀ a, Memory.read (Memory.write m a v) a v.length = v := by
  intro a
  apply List.ext_getElem (by simp)
  intro i h1 h2
  have h3 := Memory.getD_read (Memory.write m a v) v.length a i h2
  rw [Memory.get_write hm, if_pos (by omega)] at h3
  rw [List.getD_eq_getElem _ _ h1, show a + i - a = i by omega, List.getD_eq_getElem _ _ h2] at h3
  exact h3

/-- Bytes outside a write read as before. -/
theorem Memory.read_write_other {m : List Host.Cell} (hm : Memory.wf m = true) (a : Nat) (v : List Byte) {b n : Nat}
    (h : b + n ≤ a ∨ a + v.length ≤ b) : Memory.read (Memory.write m a v) b n = Memory.read m b n :=
  Memory.read_congr (fun i hi => by rw [Memory.get_write hm, if_neg (by omega)])

/-! ### On-core stores -/

theorem NatSet.mem_insert (s : List Nat) (k x : Nat) : x ∈ NatSet.insert s k ↔ x = k ∨ x ∈ s := by
  induction s with
  | nil => simp [NatSet.insert]
  | cons h t ih =>
    unfold NatSet.insert
    split
    · simp
    · split
      · rename_i hk; subst hk; simp
      · simp only [List.mem_cons, ih]
        constructor
        · rintro (h | h | h) <;> simp [h]
        · rintro (h | h | h) <;> simp [h]

theorem Store.wf_touch {u : Nat} {s : Store} (h : Memory.wf s.cells = true) (k : Nat) : Memory.wf (Store.touch u s k).cells = true := by
  unfold Store.touch
  split
  · exact h
  · exact Memory.wf_write h _ _

theorem Store.wf_put {u : Nat} {s : Store} (h : Memory.wf s.cells = true) (a : Nat) (b : Byte) : Memory.wf (Store.put u s a b).cells = true :=
  Memory.wf_put (Store.wf_touch h _) _ _

theorem Store.wf_putAll {u : Nat} (v : List Byte) : ∀ {s : Store} (a : Nat), Memory.wf s.cells = true → Memory.wf (Store.putAll u s a v).cells = true := by
  induction v with
  | nil => intro s a h; exact h
  | cons b r ih => intro s a h; exact ih _ (Store.wf_put h a b)

theorem Store.wf_write {u : Nat} {s : Store} (h : Memory.wf s.cells = true) (a : Nat) (v : List Byte) (bad : Bool) :
    Memory.wf (Store.write u s a v bad).cells = true := Store.wf_putAll v a h

theorem Store.wf_refresh {s : Store} (h : Memory.wf s.cells = true) (k n : Nat) : Memory.wf (Store.refresh s k n).cells = true := h

/-- A byte after the fresh bit of a unit is cleared. -/
theorem Store.get_touch {u : Nat} (hu : 0 < u) {s : Store} (h : Memory.wf s.cells = true) (k x : Nat) :
    Store.get u (Store.touch u s k) x = Store.get u s x := by
  unfold Store.touch
  split
  · rfl
  · rename_i hk
    unfold Store.get
    simp only [NatSet.mem_insert]
    rw [Memory.get_write h]
    by_cases hx : x / u = k
    · subst hx
      have h1 := Nat.div_mul_le_self x u
      have h2 := Nat.lt_div_mul_add (a := x) hu
      rw [if_pos (Or.inl rfl), if_neg hk, if_pos (by rw [List.length_replicate]; omega)]
      rw [List.getD_eq_getElem?_getD, List.getElem?_replicate]
      split <;> rfl
    · have : ¬ (k * u ≤ x ∧ x < k * u + (List.replicate u (0 : Byte)).length) := by
        rw [List.length_replicate]
        rintro ⟨ha, hb⟩
        exact hx (Nat.div_eq_of_lt_le ha (by rw [Nat.succ_mul]; exact hb))
      rw [if_neg this]
      by_cases hm : x / u ∈ s.used
      · rw [if_pos (Or.inr hm), if_pos hm]
      · rw [if_neg (by rintro (h | h); exacts [hx h, hm h]), if_neg hm]

theorem Store.mem_used_touch (u : Nat) (s : Store) (k : Nat) : k ∈ (Store.touch u s k).used := by
  unfold Store.touch
  split
  · assumption
  · exact (NatSet.mem_insert _ _ _).2 (.inl rfl)

theorem Store.get_put {u : Nat} (hu : 0 < u) {s : Store} (h : Memory.wf s.cells = true) (a : Nat) (b : Byte) (x : Nat) :
    Store.get u (Store.put u s a b) x = if x = a then b else Store.get u s x := by
  have ht := Store.get_touch hu h (a / u) x
  unfold Store.put Store.get
  simp only
  rw [Memory.get_put (Store.wf_touch h _)]
  by_cases hx : x = a
  · subst hx; rw [if_pos (Store.mem_used_touch u s _), if_pos rfl, if_pos rfl]
  · rw [if_neg hx, if_neg hx]; exact ht

theorem Store.get_putAll {u : Nat} (hu : 0 < u) (v : List Byte) : ∀ {s : Store} (a x : Nat), Memory.wf s.cells = true →
    Store.get u (Store.putAll u s a v) x = if a ≤ x ∧ x < a + v.length then v.getD (x - a) 0 else Store.get u s x := by
  induction v with
  | nil => intro s a x _; rw [if_neg (by simp)]; rfl
  | cons b r ih =>
    intro s a x h
    unfold Store.putAll
    rw [ih _ _ (Store.wf_put h a b), Store.get_put hu h]
    by_cases hx : x = a
    · subst hx
      rw [if_neg (by omega), if_pos rfl, if_pos (by simp)]
      simp
    · rw [if_neg hx]
      by_cases h2 : a + 1 ≤ x ∧ x < a + 1 + r.length
      · rw [if_pos h2, if_pos (by simp only [List.length_cons]; omega)]
        have : x - a = (x - (a + 1)) + 1 := by omega
        rw [this, List.getD_cons_succ]
      · rw [if_neg h2, if_neg (by simp only [List.length_cons]; omega)]

theorem Store.getD_read (u : Nat) (s : Store) (n : Nat) : ∀ (a i : Nat), i < n → (Store.read u s a n).getD i 0 = Store.get u s (a + i) := by
  induction n with
  | zero => intro a i h; omega
  | succ n ih =>
    intro a i h
    unfold Store.read
    cases i with
    | zero => rfl
    | succ i => rw [List.getD_cons_succ, ih _ _ (by omega)]; congr 1; omega

@[simp] theorem Store.length_read (u : Nat) (s : Store) (n : Nat) : ∀ a, (Store.read u s a n).length = n := by
  induction n with
  | zero => intro a; rfl
  | succ n ih => intro a; simp [Store.read, ih]

theorem Store.read_congr {u : Nat} {s t : Store} {n : Nat} : ∀ {a : Nat}, (∀ i, i < n → Store.get u s (a + i) = Store.get u t (a + i)) →
    Store.read u s a n = Store.read u t a n := by
  induction n with
  | zero => intro a _; rfl
  | succ n ih =>
    intro a h
    unfold Store.read
    rw [ih (fun i hi => by have := h (i + 1) (by omega); rwa [show a + 1 + i = a + (i + 1) by omega]), show Store.get u s a = Store.get u t a from h 0 (by omega)]

/-- Bytes written to a store read back. -/
theorem Store.read_write_self {u : Nat} (hu : 0 < u) {s : Store} (h : Memory.wf s.cells = true) (a : Nat) (v : List Byte) (bad : Bool) :
    Store.read u (Store.write u s a v bad) a v.length = v := by
  apply List.ext_getElem (by simp)
  intro i h1 h2
  have h3 := Store.getD_read u (Store.write u s a v bad) v.length a i h2
  rw [show Store.get u (Store.write u s a v bad) (a + i) = Store.get u (Store.putAll u s a v) (a + i) from rfl,
    Store.get_putAll hu v _ _ h, if_pos (by omega)] at h3
  rw [List.getD_eq_getElem _ _ h1, show a + i - a = i by omega, List.getD_eq_getElem _ _ h2] at h3
  exact h3

/-- Bytes of a store outside a write read as before. -/
theorem Store.read_write_other {u : Nat} (hu : 0 < u) {s : Store} (h : Memory.wf s.cells = true) (a : Nat) (v : List Byte) (bad : Bool) {b n : Nat}
    (hb : b + n ≤ a ∨ a + v.length ≤ b) : Store.read u (Store.write u s a v bad) b n = Store.read u s b n :=
  Store.read_congr (fun i hi => by
    rw [show Store.get u (Store.write u s a v bad) (b + i) = Store.get u (Store.putAll u s a v) (b + i) from rfl, Store.get_putAll hu v _ _ h,
      if_neg (by omega)])

end Sys2Proof.Machine
end

