-- ==== Sys2Proof/Laws/Sequence.lean ====
section
/-! SUPPORT. Where a stream stands after a command (07 R211). -/

namespace Sys2Proof.Machine

/-- The stream after a command that was issued at `t`. -/
def Stream.after (t : Stream) (now : Nat) (u : Use) (x : Option Transfer) : Stream :=
  let p := t.advance now t.cmdStart (t.cmdLen u.two) x
  { p.1 with issued := t.issued + 1, gap := t.gap + 1, awaits := none, begun := false, thaw := false, paused := p.1.paused || p.2 }

theorem State.strOf_modJob_keep (s : State) (k : Nat) (f : Job → Job) (r : Ref) (hf : ∀ j, (f j).stream r.letter = j.stream r.letter) :
    (s.modJob k f).strOf r = s.strOf r := by
  unfold State.strOf
  by_cases h : r.job = k
  · by_cases hl : (s.jobs.find? k).isSome = true
    · rw [h, State.jobOf_modJob_self _ _ hl, hf]
    · have : s.modJob k f = s := by
        unfold State.modJob; split
        · rfl
        · rename_i j hj; simp [hj] at hl
      rw [this]
  · rw [State.jobOf_modJob_ne _ _ h]

@[simp] theorem State.strOf_checkRetire (s : State) (q r : Ref) : (s.checkRetire q).strOf r = s.strOf r := by
  unfold State.checkRetire; split <;> rfl

@[simp] theorem State.isSome_checkRetire (s : State) (q : Ref) (k : Nat) : ((s.checkRetire q).jobs.find? k).isSome = (s.jobs.find? k).isSome := by
  unfold State.checkRetire; split <;> rfl

@[simp] theorem State.strOf_putError (s : State) (k : Nat) (e : ErrRec) (r : Ref) : (s.putError k e).strOf r = s.strOf r := by
  have h1 : ∀ (x : ErrRec) (n : Nat), (s.modJob k (fun j => { j with error := some x, errAt := n })).strOf r = s.strOf r := fun x n =>
    s.strOf_modJob_keep k _ r (fun j => by cases r.letter <;> rfl)
  have h2 : ∀ (x : ErrRec), (s.modJob k (fun j => { j with error := some x })).strOf r = s.strOf r := fun x =>
    s.strOf_modJob_keep k _ r (fun j => by cases r.letter <;> rfl)
  unfold State.putError
  dsimp only
  split
  · exact h1 _ _
  · split
    · exact h1 _ _
    · split
      · exact h2 _
      · rfl

/-- A context error pauses its stream. -/
theorem State.strOf_raise (s : State) (r : Ref) (e : Err) (w : Word) (o : Nat) (h : (s.jobs.find? r.job).isSome = true) :
    (s.raise r e w o).strOf r = { s.strOf r with paused := true } := by
  unfold State.raise
  split
  · exact State.strOf_modRef_self _ _ h
  · rw [State.strOf_putError]; exact State.strOf_modRef_self _ _ h

/-- The running stream after sequencing. -/
theorem State.strOf_onward (s : State) (u : Use) (x : Option Transfer) (h : (s.jobs.find? s.cur.job).isSome = true) :
    (s.onward u x).strOf s.cur = s.st.after s.now u x := by
  have h1 : ∀ q : Stream, ((s.modSt (fun _ => q)).modJob s.cur.job (fun j => { j with executed := j.executed + 1 })).strOf s.cur = q := fun q => by
    rw [State.strOf_modJob_keep _ _ _ _ (fun j => by cases s.cur.letter <;> rfl)]
    exact State.strOf_modRef_self _ _ h
  unfold State.onward Stream.after
  dsimp only
  split
  · rename_i h2
    rw [State.strOf_raise _ _ _ _ _ (by simpa [State.modSt] using h), State.strOf_checkRetire, h1]
    simp [h2]
  · rename_i h2
    rw [State.strOf_checkRetire, h1]
    simp [h2]

/-- A completion point without flags leaves the streams alone. -/
theorem State.strOf_complete (s : State) (r q : Ref) (g : Option (BitVec 8 × BitVec 3)) : (s.complete r g 0).strOf q = s.strOf q := by
  unfold State.complete
  dsimp only
  rw [State.setFlags_eq_zero]
  split
  · rfl
  · exact s.strOf_modJob_keep _ _ _ (fun j => by cases q.letter <;> rfl)

@[simp] theorem State.isSome_complete (s : State) (r : Ref) (g : Option (BitVec 8 × BitVec 3)) (fl : BitVec 5) (k : Nat) :
    ((s.complete r g fl).jobs.find? k).isSome = (s.jobs.find? k).isSome := by
  have hf : ∀ x : State, ((x.setFlags r fl).jobs.find? k).isSome = (x.jobs.find? k).isSome := fun x => by
    unfold State.setFlags
    dsimp only
    split
    · rfl
    · split <;> simp
  unfold State.complete
  dsimp only
  split <;> simp [hf, State.signal]

@[simp] theorem State.complete_now (s : State) (r : Ref) (g : Option (BitVec 8 × BitVec 3)) (fl : BitVec 5) : (s.complete r g fl).now = s.now := by
  have hf : ∀ x : State, (x.setFlags r fl).now = x.now := fun x => (State.Frame.setFlags r x fl).now
  unfold State.complete
  dsimp only
  split <;> simp [hf, State.signal]

/-- The stream after a command that completes at issue without flags. -/
theorem State.strOf_act_done {s e : State} {c : Ctl} {u : Use} (hl : u.lat = 0) (hc : e.cur = s.cur)
    (h : (e.jobs.find? s.cur.job).isSome = true) : (s.act c u (.done e 0)).strOf s.cur = (e.strOf s.cur).after e.now u none := by
  simp only [State.act, State.slowDone, hl, if_true]
  have h1 : (e.complete s.cur c.sig 0).cur = s.cur := by simp [hc]
  have h2 := State.strOf_onward (e.complete s.cur c.sig 0) u none (by rw [h1]; simpa using h)
  rw [h1] at h2
  rw [h2]
  simp only [State.st, State.complete_cur, State.complete_now, hc, State.strOf_complete]

/-- The stream after a transfer. -/
theorem State.strOf_act_jump {s e : State} {c : Ctl} {u : Use} {x : Transfer} (hc : e.cur = s.cur)
    (h : (e.jobs.find? s.cur.job).isSome = true) : (s.act c u (.jump e x)).strOf s.cur = (e.strOf s.cur).after e.now u (some x) := by
  simp only [State.act]
  have h1 : (e.complete s.cur c.sig 0).cur = s.cur := by simp [hc]
  have h2 := State.strOf_onward (e.complete s.cur c.sig 0) u (some x) (by rw [h1]; simpa using h)
  rw [h1] at h2
  rw [h2]
  simp only [State.st, State.complete_cur, State.complete_now, hc, State.strOf_complete]

/-- A transfer completes at issue. -/
theorem State.act_jump {s e : State} {c : Ctl} {u : Use} {x : Transfer} (hc : e.cur = s.cur) (h : (e.jobs.find? s.cur.job).isSome = true) :
    State.Done s e c 0 (s.act c u (.jump e x)) := by
  obtain ⟨h1, h2, h3, h4, h5⟩ := e.complete_job s.cur c 0 h
  have g := State.Moved.onward (e.complete s.cur c.sig 0) u (some x)
  rw [State.complete_cur, hc] at g
  exact ⟨h1.trans g.frame, g.signal.trans h2, g.flags.trans h3, g.flights.trans h4, g.ids.trans h5⟩

theorem State.Done.of_moved_after {s e t t' : State} {c : Ctl} {fl : Flags} (h : State.Done s e c fl t) (g : State.Moved s.cur t t') :
    State.Done s e c fl t' :=
  ⟨h.frame.trans g.frame, g.signal.trans h.signal, g.flags.trans h.flags, g.flights.trans h.flights, g.ids.trans h.ids⟩

/-- A command that goes on elsewhere without a transfer. -/
theorem State.act_skip {s e : State} {c : Ctl} {u : Use} {pc : Word} (hc : e.cur = s.cur) (h : (e.jobs.find? s.cur.job).isSome = true) :
    State.Done s e c 0 (s.act c u (.skip e pc)) := by
  have h1 := State.done_of_complete (s := s) (e := e) (c := c) (u := u) (fl := 0) hc h
  have g := State.Moved.modRef s.cur ((e.complete s.cur c.sig 0).onward u none) (fun t => { t with pc := pc }.settlePc s.now (t.issued - t.entered))
    (fun t => (Stream.aside_settlePc _ _ _).trans rfl)
  have hcur : ((e.complete s.cur c.sig 0).onward u none).cur = s.cur := h1.frame.cur.trans hc
  have h2 := h1.of_moved_after g
  simp only [State.act, State.modSt, hcur]
  exact h2

/-- A change of sequencing that a command makes itself. -/
theorem State.Done.of_modSt {s t : State} {c : Ctl} {fl : Flags} (g : Stream → Stream) (hg : ∀ x, (g x).aside = x.aside)
    (h : State.Done s (s.modSt g) c fl t) : State.Done s s c fl t :=
  h.of_frame (State.Moved.modRef _ _ _ hg)

variable {s e : State} {c : Ctl} {u : Use} {f : State → Act}

/-- A command that completes at issue, with its stream after it. -/
theorem command_done_stream (h : s.Issues c u.regs u.preds u.gw u.ga u.irrev) (hl : u.lat = 0) (hf : f s = .done e 0) (hc : e.cur = s.cur)
    (hj : (e.jobs.find? s.cur.job).isSome = true) :
    ∃ t, command c u f s = .next t ∧ s.Done e c 0 t ∧ t.strOf s.cur = (e.strOf s.cur).after e.now u none :=
  ⟨_, command_next h, by rw [hf]; exact ⟨State.act_done hl hc hj, State.strOf_act_done hl hc hj⟩⟩

@[simp] theorem State.act_done_cur {s e : State} {c : Ctl} {u : Use} (hl : u.lat = 0) (hc : e.cur = s.cur)
    (h : (e.jobs.find? s.cur.job).isSome = true) : (s.act c u (.done e 0)).cur = s.cur :=
  (State.act_done (c := c) (fl := 0) hl hc h).frame.cur.trans hc

/-- A prepared transfer waits for its two slots. -/
theorem Stream.after_slot (t : Stream) (now : Nat) (u : Use) (x : Transfer) : (t.after now u (some x)).slot = some x := rfl

end Sys2Proof.Machine
end

