-- ==== Sys2Proof/Tests/Slice0.lean ====
section
/-! SUPPORT. Small tests: ill-formed terms that `wf` refuses, words written out from the encodings, one step of an instruction, and for each statement states
that meet its hypotheses. -/

set_option Elab.async false

namespace Sys2Proof.Tests

open Sys2Proof.Machine

/-! ### States -/

/-- A job with one section of `NOP`s, whose stream `A` is about to issue. -/
def base : State := { State.reset.placeWord 96 (0x001 * 2 ^ 86) with agenda := [], cur := ⟨0, .a⟩ }

/-- `base` with its job changed. -/
def onJob (f : Job → Job) : State := base.modJob 0 f
/-- `base` with its stream changed. -/
def onStr (f : Stream → Stream) : State := base.modSt f

/-- The unguarded control fields without wait or signal. -/
def c0 : Ctl := ⟨false, 0, none, none⟩

/-- `State.Issues` as a test. -/
def issuesB (s : State) (c : Ctl) (regs : List Reg) (preds : List PReg) (gw ga irrev : Bool) : Bool :=
  s.job.onCore && !s.job.frozen && !s.job.parking && s.job.error.isNone && !s.st.ended && !s.st.stopped && !s.st.paused && s.st.entering.isNone &&
    !s.job.probed s.cur.letter && decide (s.st.readyAt ≤ s.now) && (decide (s.st.issued ≠ s.st.entered) || s.job.depsMet s.cur.letter) && s.job.ctlWait c &&
    s.guardKnown c && s.job.guardTrue c && preds.all (fun p => s.job.resolved p && !s.owes s.cur (.p p)) && regs.all (fun g => !s.owes s.cur g) &&
    !s.fenced s.cur (gw || c.sig.isSome) (ga || gw) && (!irrev || s.job.spec.isNone) &&
    (s.job.spec.isNone || (!s.st.slotEnds s.st.cmdStart true && !s.st.slotEnds s.st.cmdStart false))

theorem issues_of {s : State} {c : Ctl} {regs : List Reg} {preds : List PReg} {gw ga irrev : Bool} (h : issuesB s c regs preds gw ga irrev = true) :
    s.Issues c regs preds gw ga irrev := by
  simp only [issuesB, Bool.and_eq_true, Bool.or_eq_true, Bool.not_eq_true', decide_eq_true_eq, Option.isNone_iff_eq_none, List.all_eq_true] at h
  obtain ⟨⟨⟨⟨⟨⟨⟨⟨⟨⟨⟨⟨⟨⟨⟨⟨⟨⟨h1, h2⟩, h3⟩, h4⟩, h5⟩, h6⟩, h7⟩, h8⟩, h9⟩, h10⟩, h11⟩, h12⟩, h13⟩, h14⟩, h15⟩, h16⟩, h17⟩, h18⟩, h19⟩ := h
  exact ⟨⟨h1, h2, h3, h4, h5, h6, h7, h8, h9, h10⟩, h11, h12, ⟨h13, h14⟩, h15, h16, h17, fun hi => by rcases h18 with h | h; (· rw [hi] at h; cases h); exact h,
    fun hi jump => by rcases h19 with h | h; (· rw [h] at hi; cases hi); cases jump; exact h.2; exact h.1⟩


/-- `base` with every predicate resolved; `p1` is true. -/
def ready : State := onJob (fun j => { j with pres := BitVec.allOnes 32, pval := 2 })

theorem preds_ready : ∀ p : PReg, ready.job.resolved p = true := by decide +kernel

/-- In `ready` every unguarded command issues, whatever its operands. -/
theorem issues_ready (regs : List Reg) (preds : List PReg) (gw ga irrev : Bool) : ready.Issues c0 regs preds gw ga irrev := by
  have h : ready.Issues c0 [] [] true true true := issues_of (by decide +kernel)
  exact ⟨h.toLive, h.deps, h.wait, h.guard, fun p _ => ⟨preds_ready p, rfl⟩, fun _ _ => rfl, rfl, fun _ => h.real rfl, h.slots⟩

/-- A state that differs from `ready` in nothing that `Issues` asks about. -/
theorem issues_like {s : State} (h : issuesB s c0 [] [] true true true = true) (hf : s.flights = []) (hp : ∀ p : PReg, s.job.resolved p = true)
    (regs : List Reg) (preds : List PReg) (gw ga irrev : Bool) : s.Issues c0 regs preds gw ga irrev := by
  have h := issues_of h
  have ho : ∀ g, s.owes s.cur g = false := fun g => by simp [State.owes, hf]
  exact ⟨h.toLive, h.deps, h.wait, h.guard, fun p _ => ⟨hp p, ho _⟩, fun g _ => ho g, by simp [State.fenced, hf], fun _ => h.real rfl, h.slots⟩

/-- Whether a check passes with value `v`. -/
def okIs {α : Type} [DecidableEq α] (x : Check α) (v : α) : Bool :=
  match x with
  | .ok a => decide (a = v)
  | .error _ => false

theorem ok_of {α : Type} [DecidableEq α] {x : Check α} {v : α} (h : okIs x v = true) : x = .ok v := by
  unfold okIs at h
  split at h
  · rw [of_decide_eq_true h]
  · cases h

/-- A page of 64 KiB that may be read and written, of kind `RC`, at physical address 0x10000; and the next one. -/
def page (n : Nat) : Handle := ⟨true, 0, 1, true, true, false, false, true, 0, 0, BitVec.ofNat 32 n, BitVec.ofNat 40 (n * 65536)⟩
/-- The same of kind `UN`. -/
def pageUn : Handle := { page 1 with kind := 0 }

/-- A generator of `count` elements of format `fmt` at `a`. -/
def gen (a count fmt : Nat) : GenWord := BitVec.ofNat 128 (a + count * 2 ^ 64 + fmt * 2 ^ 100)

/-- A flight of stream `A` with work `w`. -/
def fl (w : Work) : Flight := ⟨⟨0, .a⟩, 0, none, [], [], none, 0, 0, 0, 0, w⟩

/-- `ready` with registers s1 = 1, s2 = 64, s3 = 65,535, s4 = 16,777,216, s5 = 2, s6 = 1,024, s7 the descriptor of an `MTOPK`, s8 = 128; handles h1 and h2 of neighbouring
pages and h3 of kind `UN`; generators g1 to g4 of four FP32 elements, g5 of none, g6 of four E4M3 elements, g7 a mask of four bits, g8 to g13 for
results of other shapes, a lease with its two blocks, and tile 0 and 1 of 4 rows of 4
bytes. -/
def full : State :=
  (ready.modJob 0 (fun j => { j with
    handles := ((j.handles.set 1 (page 1)).set 2 (page 2)).set 3 pageUn, scrSize := 257, lease := true, acs := [0, 1], acsHeld := true
    weights := some ⟨1, BitVec.ofNat 64 (1 + 2 ^ 8 * 3 + 2 ^ 16 * 3)⟩
    tcfg := ((j.tcfg.set 0 (BitVec.ofNat 64 (1 + 2 ^ 8 * 3 + 2 ^ 16 * 3))).set 1 (BitVec.ofNat 64 (1 + 2 ^ 8 * 3 + 2 ^ 16 * 3))) })).modSt (fun t => { t with
    s := (((((((t.s.set 1 1).set 2 64).set 3 65535).set 4 16777216).set 5 2).set 6 1024).set 7 (BitVec.ofNat 64 (4 + 65536 + 3 * 2 ^ 32 + 5 * 2 ^ 40))).set 8 128
    g := ((((((((((((t.g.set 1 (gen 0 4 7)).set 2 (gen 64 4 7)).set 3 (gen 128 4 7)).set 4 (gen 192 4 7)).set 5 (gen 0 0 1)).set 6 (gen 0 32 1 + 2 * 2 ^ 104)).set 7 (gen 256 4 9)).set 8 (gen 320 1 7)).set 9 (gen 336 1 8)).set 10
      (gen 512 8 7)).set 11 (gen 384 4 8)).set 12 (gen 448 4 8)).set 13 (gen (640 + 2 ^ 34 + 2 ^ 80) 4 7) })

theorem issues_full (regs : List Reg) (preds : List PReg) (gw ga irrev : Bool) : full.Issues c0 regs preds gw ga irrev :=
  issues_like (by decide +kernel) (by decide +kernel) (by decide +kernel) regs preds gw ga irrev

/-! ### States that meet the hypotheses of the statements -/

theorem witness_ScalarThreeRegisters : ready.Issues c0 [.s 31, .s 0, .s 1] := issues_ready _ _ _ _ _
theorem witness_ScalarImmediate : ready.Issues c0 [.s 31, .s 0] := issues_ready _ _ _ _ _
theorem witness_ScalarMultiplyDivide : ready.Issues c0 [.s 31, .s 1, .s 0] := issues_ready _ _ _ _ _
/-- A bit field of all 64 bits, and of the highest bit alone. -/
theorem witness_ScalarUnaryAndMoves : ready.Issues c0 [.s 31, .s 0, .s 1] [31] ∧
    (1 ≤ (64 : BitVec 7).toNat ∧ (0 : BitVec 6).toNat + (64 : BitVec 7).toNat ≤ 64) ∧ (1 ≤ (1 : BitVec 7).toNat ∧ (63 : BitVec 6).toNat + (1 : BitVec 7).toNat ≤ 64) :=
  ⟨issues_ready _ _ _ _ _, by decide, by decide⟩
/-- A command that works on the on-core stores, as far as it has read. -/
def dw (op : DataOp) (need : Option (List (Space × Nat))) (outs : Option (List (List Put))) : DataWork := ⟨op, need, .empty, outs, [], []⟩

/-- Votes over no lane, over one, and over 65,535; bytes read that are not poisoned. -/
theorem witness_Predicates : full.Issues c0 [.p 1, .s 0, .s 3] [0, 31] ∧ full.sget 0 = 0 ∧ (full.sget 1).toNat = 1 ∧ full.scrOperand 0 0 1 1 = .ok 0 ∧
    (full.sget 3).toNat = 65535 ∧ full.scrOperand 0 0 8192 1 = .ok 0 ∧ View.empty.foul 0 1 = false :=
  ⟨issues_full _ _ _ _ _, by decide +kernel, by decide +kernel, ok_of (by decide +kernel), by decide +kernel, ok_of (by decide +kernel), by decide +kernel⟩
/-- A signal, a push, predicates written by two streams and twice by one, and one left unresolved. -/
theorem witness_CycleEnd :
    let s : State := ready.modJob 0 (fun j => { j with late := { j.late with
      sigs := [(9, 1)], pushes := [(7, 5)], preds := [(.x, 1, some true), (.a, 1, none), (.a, 31, some false), (.m, 31, some true), (.m, 31, none)] } })
    let p := s.job.late.preds
    (s.jobs.find? 0).isSome = true ∧ s.job.late.wbs = [] ∧ (∀ e ∈ p, e.2.1 = 1 → letterNum e.1 ≤ letterNum .x) ∧
      (p.filter (fun e => e.1 = .x && e.2.1 = 1)).getLast? = some (.x, 1, some true) ∧ (∀ e ∈ p, e.2.1 = 31 → letterNum e.1 ≤ letterNum .m) ∧
      (p.filter (fun e => e.1 = .m && e.2.1 = 31)).getLast? = some (.m, 31, none) ∧ ∀ e ∈ p, e.2.1 ≠ 2 := by decide +kernel
/-- A queue with room, one that is full but for one entry, one that holds an entry, and one whose head is struck. -/
theorem witness_Queues : ready.job.qlen 0 + (ready.job.late.pushes.filter (fun e => e.1 = 0)).length < 64 ∧
    (let s := ready.modJob 0 (fun j => { j with queues := j.queues.set 7 (List.replicate 63 9) })
     issuesB s c0 [] [] true true true = true ∧ s.job.qlen 7 + (s.job.late.pushes.filter (fun e => e.1 = 7)).length = 63 ∧ s.job.queues[7] = 9 :: List.replicate 62 9 ∧
       s.queueBad 7 = false ∧
       (let t := s.modCore s.job.coreKey (fun x => x.strike 3 7)
        issuesB t c0 [] [] true true true = true ∧ t.job.queues[7] ≠ [] ∧ t.queueBad 7 = true ∧ t.job.spec = none)) ∧
    (ready.jobs.find? 0).isSome = true := by decide +kernel
/-- Call level 254, three loop entries, counts 1 and 2^32 − 1, and a loop whose last command is not this one. -/
theorem witness_ControlFlowCommands :
    (let s := ready.modSt (fun t => { t with callLevel := 254, loops := [⟨20, 44, 3, 254⟩, ⟨20, 56, 2, 0⟩, ⟨8, 68, 2, 0⟩], s := t.s.set 1 0xFFFFFFFF })
     issuesB s c0 [] [] true true true = true ∧ s.st.callLevel ≠ 255 ∧ s.st.slot = none ∧ s.st.inTrap = false ∧ s.st.loops.length < 4 ∧ s.sget 1 ≠ 0 ∧
       (s.sget 1).toNat < 2 ^ 32 ∧ (∀ l ∈ s.st.loops, l.stop ≠ s.st.cmdStart)) ∧ (3 : BitVec 16) ≠ 0 := by decide +kernel
/-- A wait met, and one not met; an index in a register; a pre-emption that is pending, and none; a `SAFEPT` that waits. -/
theorem witness_SynchronisationCommands : ready.semIdx (.imm 255) = .ok 255 ∧ ready.semIdx (.reg 0) = .ok 0 ∧ ready.job.waitMet 255 0 = true ∧
    ready.job.waitMet 0 1 = false ∧ ready.job.preempt = none ∧
    (let s := ready.modJob 0 (fun j => { j with preempt := some 0 }); issuesB s c0 [] [] true true true = true ∧ s.job.preempt.isSome = true ∧ s.job.spec = none) ∧
    (let c : Ctl := { c0 with wait := some (0, 1) }; ready.opens c = false ∧ ready.guardKnown c = true ∧ ready.job.guardTrue c = true) :=
  ⟨rfl, rfl, by decide +kernel, by decide +kernel, by decide +kernel, by decide +kernel, by decide +kernel⟩
/-- Streams that have ended and that have not; rendezvous not reached, reached by one, and by all; released barriers of each kind. -/
theorem witness_ArrivalCommands : ready.busy ready.cur = false ∧ ready.job.prologue = false ∧ ready.st.arrived = none ∧ ready.st.rdv = none ∧
    (let s := ready.modJob 0 (fun j => { j with m := { j.m with ended := true, rdv := some 3 }, v := { j.v with ended := true, rdv := some 3 }, x := { j.x with ended := true, rdv := some 3 } })
     (∀ l ∈ [Letter.m, .v, .x], (s.job.stream l).ended = true) ∧ ∀ l ∈ [Letter.m, .v, .x], (s.job.stream l).rdv = some 3) ∧
    (let s := ready.modSt (fun t => { t with arrived := some 0, rdv := some 3 }); s.st.arrived = some 0 ∧ (0 : Nat) ≤ s.now) ∧
    (let b : Barrier := ⟨0, 0, 0, 15, 1, [⟨0, .a⟩], some 0⟩
     let s := { full with barriers := [b] }
     issuesB s c0 [] [] true true true = true ∧ s.sget 1 ≠ 0 ∧ (s.sget 1).toNat ≤ (s.barKey .core 15 (s.sget 1).toNat).2 ∧
       (s.sget 1).toNat ≤ (s.barKey .package 0 (s.sget 1).toNat).2 ∧ s.barriers.find? (fun b => b.arrivals.contains s.cur) = some b ∧ b.release = some 0) ∧
    full.barriers = [] ∧ full.sget 1 ≠ 0 ∧ full.released full.cur (full.barKey .die 15 1).1.fence full.nextId full.now = true := by
  decide +kernel

/-- In `ready` a command completes; and the cases of where its stream goes on: inside its section, at its end, at a loop's start, after the last slot and
after the first. -/
theorem witness_NextCommand :
    (let e (f : Stream → Stream) : State := ready.modSt f
     ready.st.sect.isSome = true ∧ ready.st.entering = none ∧ ready.st.slot = none ∧ ready.st.top = none ∧ (8 + 12 : Nat) < 104 ∧
     (ready.st.sect.map (fun x => decide (x.stop ≤ (e (fun t => { t with pc := 92 })).st.pc.toNat + 12))) = some true ∧
     (let s := e (fun t => { t with loops := [⟨8, t.pc, 2, 0⟩] }); s.st.inTrap = false ∧ (s.st.top.map (fun l => l.stop = s.st.cmdStart ∧ l.count ≠ 1)).isSome = true) ∧
     (let s := e (fun t => { t with slot := some ⟨some 8, .call, 1, 4⟩ }); s.st.slot = some ⟨some 8, .call, 1, 4⟩ ∧ s.st.sect.map (fun x => x.holds 8) = some true) ∧
     (let s := e (fun t => { t with slot := some ⟨none, .br, 2, 4⟩ }); s.st.slot = some ⟨none, .br, 2, 4⟩ ∧ 1 < 2)) := by decide +kernel
/-- A guard that is resolved and false. -/
theorem witness_GuardFalse : ready.job.ctlWait ⟨false, 31, none, none⟩ = true ∧ ready.guardKnown ⟨false, 31, none, none⟩ = true ∧
    ready.job.guardTrue ⟨false, 31, none, none⟩ = false ∧ ready.st.begun = false ∧ ready.fenced ready.cur false false = false ∧ ready.job.spec = none := by decide +kernel
/-- A value owed to s31; a command that has read nothing, one chunk to read, and all; its results to make, and to write; a load and a store before their first step. -/
theorem witness_LateValues :
    (let f : Flight := fl (.late [.s 31 7])
     let s : State := { ready with flights := [(1, f)] }
     s.flights.find? 1 = some f ∧ f.work = .late [.s 31 7] ∧ f.flags = 0 ∧ (s.jobs.find? f.ref.job).isSome = true ∧ s.scatterCore 1 = none) ∧
    (let op : DataOp := .tileZero 0 4
     let s (d : DataWork) : State := { full with flights := [(1, fl (.data d))] }
     (∀ d ∈ [dw op none none, dw op (some [(.scratch, 0)]) none, dw op (some []) none, dw op (some []) (some [[]]), dw op (some []) (some [])],
       (s d).flights.find? 1 = some (fl (.data d)) ∧ (s d).scatterTurn 1 (fl (.data d)) d.op = true ∧ (s d).scatterCore 1 = none) ∧
     op.single = false ∧ op.leaves = false ∧ (match op.made .empty with | .ok m => decide (m.puts.length = 1) | .error _ => false) = true) ∧
    ((63 : Nat) * 8 % 2 ^ (3 : Fin 5).val = 0 ∧ Store.foul 64 (full.coreOf (full.jobOf 0).coreKey).scratch (63 * 8) 8 = false ∧
      Memory.wf (full.coreOf (full.jobOf 0).coreKey).scratch.cells = true ∧ (bytesOf 8 5).length = 2 ^ (3 : Fin 5).val) := by
  refine ⟨by decide +kernel, ⟨?_, by decide +kernel, by decide +kernel, by decide +kernel⟩, by decide +kernel⟩
  decide +kernel
/-- A finite value over zero: 1.0 / −0. -/
theorem witness_FloatArithmetic :
    let s := ready.modSt (fun t => { t with s := (t.s.set 1 0x3F800000).set 2 0x80000000 })
    issuesB s c0 [] [] true true true = true ∧ (s.sget 1).toNat % 2 ^ 31 ≠ 0 ∧ (s.sget 1).toNat / 2 ^ 23 % 256 ≠ 255 ∧ (s.sget 2).toNat % 2 ^ 31 = 0 := by decide +kernel
theorem witness_FloatMovesAndConversions : ready.Issues c0 [.s 31, .s 0, .s 1] := issues_ready _ _ _ _ _
/-- The highest code of each format that is no NaN. -/
theorem witness_NarrowFormatsRoundTrip : (codeNum 1 0xFE).isNan = false ∧ (codeNum 2 0xFB).isNan = false ∧ (codeNum 3 0xFE).isNan = false ∧ (codeNum 4 63).isNan = false := by
  decide +kernel
/-- A register that is not `PTPT` and is of a real job; sources of both forms; a tile that is idle and a configuration of the greatest tile; a sampler context of the job's
function, and the greatest depth. -/
theorem witness_ControlRegisters : (0x008 : BitVec 12) ≠ 0x025 ∧ full.csrBeyond 0x008 = false ∧ full.job.late.csrs = [] ∧ full.job.status = .running ∧
    (0 : Tile).val < full.job.tileCount ∧ full.tileBusy 0 = false ∧ full.job.weights.map (·.tile) ≠ some (0 : Tile).val ∧
    (let v := BitVec.ofNat 64 (1 + 2 ^ 8 * 255 + 2 ^ 16 * 127); tcfgFmt v ≤ 8 ∧ tcfgRows v * tcfgCols v * fmtBytes (tcfgFmt v) ≤ 32768) ∧
    (let x : SCtx := { SCtx.blank with state := .waiting, cfg := { SCtx.blank.cfg with dmax := 8 } }
     let s := (full.modDie 0 (fun d => { d with sampler := { d.sampler with ctxs := [(1023, x)] } })).modSt (fun t => { t with s := t.s.set 9 0x3FF0008 })
     let v := (s.csrSrc (.reg 9)).toNat
     issuesB s c0 [.s 0, .s 9] [] true true true = true ∧ (s.dieOf s.job.die).sampler.ctxs.find? (v / 65536 % 1024) = some x ∧ v % 16 = 8 ∧ x.state ≠ .idle ∧
       x.cfg.vf = s.job.vf ∧ v % 16 ≤ x.cfg.dmax) := by
  decide +kernel
/-- The highest 16 bytes of the job's window, in a scratchpad in canonical form, and a granule of it. -/
theorem witness_ScratchAccesses : full.Issues c0 [.s 4, .s 30, .s 31] ∧ full.scrOperand 4 0x0FFF0 16 16 = .ok (16777216 + 0xFFF0) ∧ full.job.prologue = false ∧ (4 : SReg) ≠ 30 ∧
    Memory.wf (full.coreOf full.job.coreKey).scratch.cells = true ∧ (64 : Nat) % 64 = 0 ∧ (List.replicate 64 (1 : Byte)).length % 64 = 0 :=
  ⟨issues_full _ _ _ _ _, ok_of (by decide +kernel), by decide +kernel, by decide +kernel, by decide +kernel, rfl, rfl⟩
/-- The last element of a page of kind `RC`, and one of kind `UN` whose bytes stand in the combine buffer. -/
theorem witness_GlobalLoadsAndStores : full.job.spec = none ∧ full.globElement 1 65528 8 false = .ok (65536 + 65528) ∧
    full.quickRead full.job (full.hget 1).pkind (65536 + 65528) 8 = none ∧ full.globElement 1 65528 8 true = .ok (65536 + 65528) ∧ (full.hget 1).pkind ≠ .un ∧
    (full.hget 3).pkind = .un ∧
    (let s := full.combineWrite full.job.coreKey full.job.ctx full.job.launch 0 65536 (List.replicate 8 5) false
     issuesB s c0 [] [] true true true = true ∧ s.quickRead s.job (s.hget 3).pkind 65536 8 = some (List.replicate 8 5, false)) ∧
    full.globElement 3 0 8 false = .ok 65536 :=
  ⟨by decide +kernel, ok_of (by decide +kernel), by decide +kernel, ok_of (by decide +kernel), by decide +kernel, by decide +kernel, by decide +kernel, ok_of (by decide +kernel)⟩
/-- A handle that is owed, and a `PROBE` of two bytes whose page is cached. -/
theorem witness_HandleCommands :
    (let f : Flight := fl (.handle 31 (page 1))
     let s : State := { full with flights := [(1, f)], args := { a := 1 } }
     s.args.a = 1 ∧ s.flights.find? 1 = some f ∧ f.work = .handle 31 (page 1) ∧ (s.jobs.find? f.ref.job).isSome = true) ∧
    (let p : Probing := ⟨65600, 65601, none, 0⟩
     let s := { (full.modSt (fun t => { t with probing := some p, s := t.s.set 9 65600 })).modCore full.job.coreKey (fun c => { c with xlat := [(full.job.ctx, 1, page 1)] }) with now := 64 }
     (issuesB s c0 [] [] true true true = true ∧ s.st.probing = some p ∧ p.fault = none ∧ s.flights = [] ∧ p.since + 64 ≤ s.now ∧ p.next ≤ p.last ∧ p.last < 2 ^ 48 ∧
       (s.core.cached s.job.ctx (s.sget 9).toNat).isSome = true ∧ (s.sget 9).toNat < 2 ^ 48) ∧
     ∀ va, p.next ≤ va → va ≤ p.last → (s.core.cached s.job.ctx va).isSome = true) := by
  refine ⟨by decide +kernel, by decide +kernel, ?_⟩
  intro va h1 h2
  have h : va = 65600 ∨ va = 65601 := by simp only at h1 h2; omega
  rcases h with rfl | rfl <;> decide +kernel
/-- Base 2^24 − 1, count and row length 65,535 and 0, row stride −2^23; a format word of each field's greatest value; 16 bytes read that are all 0, and with a format of 15. -/
theorem witness_Generators : (full.sget 0 + 0xFFFFFF : Word).toNat < 2 ^ 24 ∧ (full.sget 3 + 0 : Word).toNat < 2 ^ 16 ∧
    -(2 ^ 23) ≤ (full.sget 0 + BitVec.ofInt 64 (-(2 ^ 23)) : Word).toInt ∧ (full.sget 0 + BitVec.ofInt 64 (-(2 ^ 23)) : Word).toInt < 2 ^ 23 ∧
    (let v := (full.sget 0 ||| 0xFFFE0059 : Word).toNat; v < 2 ^ 32 ∧ v % 16 ≤ 9 ∧ v / 16 % 8 ≤ 5 ∧ v / 128 % 512 = 0 ∧ v / 65536 % 2 = 0) ∧
    full.scrOperand 0 0 16 16 = .ok 0 ∧ View.empty.foul 0 16 = false ∧ natOf (View.empty.bytes 0 16) = 0 ∧
    (let v : View := ⟨Store.write 64 .empty 0 (bytesOf 16 (15 * 2 ^ 100)) false, .empty, .empty⟩; v.foul 0 16 = false ∧ 9 < genFmt (BitVec.ofNat 128 (natOf (v.bytes 0 16)))) :=
  ⟨by decide +kernel, by decide +kernel, by decide +kernel, by decide +kernel, by decide +kernel, ok_of (by decide +kernel), by decide +kernel, by decide +kernel, by decide +kernel⟩

/-- Whether the checks of a vector command of form `f` pass in `full`, which writes an element. -/
def vecOk (f : VecForm) : Bool :=
  decide (full.vecEnv.check f.kind (f.dests.map full.gget) (f.srcs.map full.vin) = none) && (f.dests.map full.gget).any (fun d => decide (genCount d ≠ 0))
/-- Whether it runs. -/
def vecRuns (f : VecForm) : Bool :=
  match full.vecEnv.run f.kind (f.dests.map full.gget) (f.srcs.map full.vin) with
  | .ok _ => true
  | .error _ => false

/-- Commands of every form over FP32 generators of four elements, and over one without elements; the last step of a command at the vector unit. -/
theorem witness_VectorCommands :
    (∀ op ∈ [ElemOp.abs, .neg, .fn .rcp, .cvt, .mov], vecOk ⟨[1], [.gen 2], .elem op⟩ = true) ∧
    (∀ op ∈ [ElemOp.add, .sub, .mul, .min, .max, .and, .or, .xor], vecOk ⟨[1], [.gen 2, .scalar 1 7], .elem op⟩ = true) ∧
    (∀ op ∈ [ElemOp.fma, .clamp], vecOk ⟨[1], [.gen 2, .gen 3, .gen 4], .elem op⟩ = true) ∧ vecOk ⟨[7], [.gen 2, .gen 3], .elem (.cmp .lt)⟩ = true ∧
    vecOk ⟨[1], [.gen 7, .gen 2, .gen 3], .elem .sel⟩ = true ∧ vecOk ⟨[1], [.scalar 1 9], .elem .fill⟩ = true ∧
    vecOk ⟨[1], [.gen 2, .scalar 1 7], .chain [(.add, .k)] false false⟩ = true ∧
    (∀ op ∈ [ElemOp.shl, .shr, .sra], vecOk ⟨[11], [.gen 12, .gen 11], .elem op⟩ = true) ∧
    (∀ op ∈ [RedOp.sum, .max, .min, .lse], vecOk ⟨[8], [.gen 2], .red op false⟩ = true) ∧ vecOk ⟨[9], [.gen 2], .red .argmax false⟩ = true ∧
    vecOk ⟨[1], [.gen 2], .red .scan false⟩ = true ∧ vecOk ⟨[8, 9], [.gen 2], .red (.topk 1) false⟩ = true ∧
    vecOk ⟨[10], [.gen 2, .gen 3], .move .zip⟩ = true ∧ vecOk ⟨[1, 2], [.gen 10], .move .unzip⟩ = true ∧ vecOk ⟨[13], [.gen 2], .move .trans⟩ = true ∧
    vecOk ⟨[1], [.gen 2], .move .bcast⟩ = true ∧ vecOk ⟨[1], [.gen 2, .gen 11], .move .perm⟩ = true ∧ vecOk ⟨[1], [.gen 2, .gen 7], .move .expand⟩ = true ∧
    vecOk ⟨[1], [.gen 2, .gen 7], .move .compact⟩ = true ∧ genCount (full.gget 1) = 4 ∧ genCount (full.gget 5) = 0 ∧
    (let s := full.modCore 0 (fun x => { x with vec := ⟨[⟨some 1, 0, 1, true⟩, ⟨some 2, 3, 1, false⟩], 4⟩ }); (s.coreOf 0).vec.pick = some ⟨some 2, 3, 1, false⟩) := by decide +kernel

/-- Runs that pass, with destinations of at least one element that are no masks. -/
theorem witness_VectorResults : vecRuns ⟨[1], [.gen 2, .gen 3], .elem .add⟩ = true ∧ vecRuns ⟨[10], [.gen 2, .gen 3], .move .zip⟩ = true ∧
    vecRuns ⟨[1], [.gen 2], .move .bcast⟩ = true ∧ vecRuns ⟨[1], [.gen 2, .gen 7], .move .compact⟩ = true ∧ genCount (full.gget 1) ≠ 0 ∧ genFmt (full.gget 1) ≠ 9 ∧
    genCount (full.gget 10) ≠ 0 ∧ genFmt (full.gget 10) ≠ 9 ∧ [(2 : Int) ^ 31 - 1, 1] ≠ [] := by decide +kernel
/-- All four rows of a tile, and its last row; a source that is poisoned; 128 rows of the accumulator store; rows read that are not poisoned. -/
theorem witness_TileCommands : full.weightsHeld 0 = false ∧ (0 : Tile).val < full.job.tileCount ∧ (0 : BitVec 8).toNat + 4 ≤ tcfgRows (full.job.tcfgOf 0) ∧
    (3 : BitVec 8).toNat + 1 ≤ tcfgRows (full.job.tcfgOf 0) ∧ full.strideRows 0 4 4 1 (List.range 4) = .ok [0, 4, 8, 12] ∧ (∀ x ∈ [0, 4, 8, 12], full.scrBad full.job x 4 = false) ∧
    full.job.acsHeld = true ∧ 0 + (127 + 1) ≤ 64 * full.job.acs.length ∧
    (let s := full.scrWrite full.job 4 [1] true; s.scrBad s.job 4 4 = true ∧ s.job.spec = none ∧ issuesB s c0 [] [] true true true = true ∧
      okIs (s.strideRows 0 4 4 1 (List.range 4)) [0, 4, 8, 12] = true) ∧ (∀ r ∈ [(0, 0), (4, 4)], View.empty.foul (r : Nat × Nat).1 4 = false) :=
  ⟨by decide +kernel, by decide +kernel, by decide +kernel, by decide +kernel, ok_of (by decide +kernel), by decide +kernel, by decide +kernel, by decide +kernel, by decide +kernel,
    by decide +kernel⟩
/-- A lease with its blocks; a queue with room for one more; weights and activations of one shape, and the last rows of a tile and of the blocks; a sparse record. -/
theorem witness_ArrayCommands : full.job.acsHeld = true ∧ full.job.acs.length = (2 : BitVec 6).toNat ∧ full.arrayPending full.cur.job = false ∧ full.job.lease = true ∧
    full.job.arrayQ.length < 4 ∧ (1 : Tile).val < full.job.tileCount ∧ (0 : Tile).val < full.job.tileCount ∧ tcfgFmt (full.job.tcfgOf 1) ≤ 6 ∧ tcfgCols (full.job.tcfgOf 1) ≤ 192 ∧
    full.job.weights = some ⟨1, full.job.tcfgOf 1⟩ ∧ (macPath (tcfgFmt (full.job.tcfgOf 1)) (tcfgFmt (full.job.tcfgOf 0))).isSome = true ∧
    tcfgCols (full.job.tcfgOf 0) = tcfgRows (full.job.tcfgOf 1) ∧ 0 + 4 ≤ tcfgRows (full.job.tcfgOf 0) ∧ 124 + 4 ≤ 64 * full.job.acs.length ∧ full.sget 0 = 0 ∧
    (let s := full.scrWrite full.job 0 (bytesOf 4 0 ++ bytesOf 4 0 ++ bytesOf 2 4 ++ bytesOf 2 0 ++ bytesOf 4 0) false
     let o : OpBsmm := ⟨c0, 0, 0, 1, 0, 1, false⟩
     issuesB s c0 [] [] true true true = true ∧ (s.sget o.m).toNat = 1 ∧ okIs (s.scrOperand o.a 0 16 16) 0 = true ∧
       okIs (s.sparseParts o 0 (List.range 1)) [⟨⟨1, s.job.tcfgOf 1⟩, 0, 4, 0⟩] = true) := by decide +kernel
/-- A job that waits for the blocks of a core that has them, an array without holder that is asked for, a row that is due, and a holder that has left. -/
theorem witness_ArrayEvents :
    (let s := full.modCore 0 (fun x => { x with acsWait := [(.job 0, 32)] })
     s.acsHead 0 = some (.job 0, 32) ∧ (s.jobs.find? 0).isSome = true ∧ 32 ≤ (s.coreOf 0).freeBlocks.length) ∧
    (let s := full.modJob 0 (fun j => { j with arrayQ := [⟨1, .load, 1, 0, false, 0, [⟨⟨1, 0⟩, 0, 0, 0⟩], false, false, false, 0, false⟩] })
     (s.coreOf 0).array.holder = none ∧ (s.arrayWinner 0 (s.arrayReqs 0)).isSome = true) ∧
    (let w := full.job.tcfgOf 1
     let r : ArrRow := ⟨0, 0, 7, .row 0 1 0 w 3 0 false true 0⟩
     let l : ArrLoad := ⟨some 0, ⟨1, w⟩, List.replicate 16 0, []⟩
     let s := ({ full with flights := [(1, fl .array)] }).modCore 0 (fun x => { x with array := { x.array with rows := [r], loads := [(7, l)] } })
     (s.coreOf 0).array.rows = [r] ∧ r.due ≤ s.now ∧ (s.jobs.find? 0).isSome = true ∧ s.flights.find? 1 = some (fl .array) ∧
       (s.coreOf 0).array.loads.find? r.load = some l ∧ (macPath (tcfgFmt l.w.cfg) (tcfgFmt w)).isSome = true) ∧
    (let s := full.modCore 0 (fun x => { x with array := { x.array with holder := some (.cc 3), loading := 0 } })
     (s.coreOf 0).array.holder = some (.cc 3) ∧ (s.coreOf 0).array.loading ≤ s.now ∧ s.onCc 0 3 = none) ∧
    (full.cores.find? 0).isSome = false := by decide +kernel
/-- `full` with its four copy engines busy. -/
def busyEngines : State := { full with flights := (List.range 4).map (fun e => (e, { fl .array with engine := some e })) }

/-- Lengths 0, 1 and 16,777,216; an engine that is granted, and none; copies with and without an arrival word, in disjoint ranges, and over the boundary of two pages; a gather of no row and of one; blocks of 32 elements; a list of one
entry. -/
theorem witness_CopiesIn : full.job.spec = none ∧ full.sget 0 = 0 ∧ (full.sget 1).toNat = 1 ∧ (full.sget 4).toNat = 16777216 ∧
    okIs (full.scrOperand 0 0 16777216 1) 0 = true ∧ okIs (full.globOperand 1 65535 1 false) 131071 = true ∧ okIs (full.copyAw none 0 1) none = true ∧
    okIs (full.copyAw (some 4) 0 1) (some 64) = true ∧ full.engineGrant = some 0 ∧ busyEngines.engineGrant = none ∧ okIs (full.scrOperand 2 0 1 1) 64 = true ∧ (0 + 1 ≤ 64 ∨ 64 + 1 ≤ 0) ∧
    okIs (full.twoPages 1 2 65535 64 false) (131071, 1, 131072) = true ∧
    okIs (full.gatherOperands ⟨c0, 2, 1, 0, 0, 0, 0⟩ false) (64, [(0, 0)]) = true ∧
    okIs ((full.scrWrite full.job 0 (bytesOf 4 0xFFFFFFFF) false).gatherOperands ⟨c0, 2, 1, 0, 0, 0, 0⟩ false) (64, []) = true ∧
    genFmt (full.gget 6) ≤ 4 ∧ genCount (full.gget 6) ≠ 0 ∧ genFmt (full.gget 5) ≤ 4 ∧ genCount (full.gget 5) = 0 ∧
    (match full.scaledOperands 0 1 0 (full.gget 6) 2 0 2 true false with | .ok _ => true | .error _ => false) = true ∧
    (let d := (full.sget 7).toNat
     d < 2 ^ 44 ∧ d % 65536 ≠ 0 ∧ d / 65536 % 65536 ≠ 0 ∧ d / 2 ^ 38 % 4 ≠ 3 ∧ 5 ≤ d / 2 ^ 40 % 16 ∧ d / 2 ^ 40 % 16 ≤ 7 ∧
     okIs (full.globOperand 1 0 (d / 65536 % 65536 * (d % 65536) * fmtBytes (d / 2 ^ 40 % 16)) false) 65536 = true ∧ (full.hget 1).hovr = true ∧
     okIs (full.scrOperand 0 0 ((d / 65536 % 65536 - 1) * topStride (d / 2 ^ 32 % 64 + 1) + 8 + 8 * (d / 2 ^ 32 % 64 + 1)) 1) 0 = true) := by decide +kernel
/-- The same outwards, to a page of kind `RC` and one of kind `UN`; two rows of the accumulator store. -/
theorem witness_CopiesOut : full.job.spec = none ∧ full.sget 0 = 0 ∧ (full.sget 1).toNat = 1 ∧ okIs (full.scrOperand 0 0 1 1) 0 = true ∧
    okIs (full.globOperand 1 65535 1 true) 131071 = true ∧ full.engineGrant = some 0 ∧ (full.hget 1).pkind ≠ .un ∧ (full.hget 3).pkind = .un ∧
    okIs (full.globOperand 3 0 1 true) 65536 = true ∧ okIs (full.twoPages 1 2 65535 64 true) (131071, 1, 131072) = true ∧
    (full.hget 1).pkind.stronger (full.hget 2).pkind ≠ .un ∧ okIs (full.gatherOperands ⟨c0, 2, 1, 0, 0, 0, 0⟩ true) (64, [(0, 0)]) = true ∧
    (let s := full.modSt (fun t => { t with g := (t.g.set 6 (gen 0 32 7 + 2 * 2 ^ 104)).set 5 (gen 0 0 5) })
     5 ≤ genFmt (s.gget 6) ∧ genFmt (s.gget 6) ≤ 7 ∧ genCount (s.gget 6) ≠ 0 ∧ genFmt (s.gget 5) = 5 ∧ genCount (s.gget 5) = 0 ∧
     (match s.scaledOperands 0 1 0 (s.gget 6) 2 0 4 true true with | .ok _ => true | .error _ => false) = true ∧ s.engineGrant = some 0) ∧
    (full.sget 5).toNat = 2 ∧ okIs (full.acscpOperands 0 126 2 192 4) 0 = true ∧ okIs (full.acscpOperands 0 0 2 1 1) 0 = true := by decide +kernel
/-- The landing of a copy's last piece, with an arrival word, and of one before it; a converted read whose pieces are all at hand; a `COPYC` of each kind whose results are to be made;
acknowledgements, the last one and one before it. -/
theorem witness_PieceLandings :
    let p : Piece := ⟨128, 0, 4, some ([1, 2, 3, 4], false)⟩
    let s : State := { full with flights := [(1, fl (.land (some 0) [(0, p)])), (2, fl (.land none [(0, p), (1, p)]))], args := { a := 1, b := 0 } }
    s.args.a = 1 ∧ s.args.b = 0 ∧ s.flights.find? 1 = some (fl (.land (some 0) [(0, p)])) ∧ Map.find? [(0, p)] 0 = some p ∧ p.bytes = some ([1, 2, 3, 4], false) ∧
      Map.erase [(0, p)] 0 = [] ∧ s.flights.find? 2 = some (fl (.land none [(0, p), (1, p)])) ∧ Map.erase [(0, p), (1, p)] 0 ≠ [] ∧
      (let s : State := { full with flights := [(1, fl (.convert (.copyx 0 0 32 32 1 0 0) [(0, p)] 32 2))], args := { a := 1 } }
       s.flights.find? s.args.a = some (fl (.convert (.copyx 0 0 32 32 1 0 0) [(0, p)] 32 2)) ∧ p.bytes.isSome = true) ∧
      (∀ k ∈ [0, 1], let c : Compress := ⟨1, 7, 32, 32, 1, 0, 65536, [131072, 131074], none, none, k, 0⟩
       let s : State := { full with flights := [(1, fl (.data (dw (.compress c) (some []) none)))] }
       s.flights.find? 1 = some (fl (.data (dw (.compress c) (some []) none))) ∧ (s.jobOf 0).spec = none ∧
         (match (DataOp.compress c).made .empty with | .ok m => decide (m.puts ≠ []) | .error _ => false) = true) ∧
      (∀ n ∈ [1, 2], let x : Access := ⟨1, 0, ⟨0, .a⟩, 0, 0, 0, none, .write [1], 65536, 512, 1, none, false, .rc, 0, 0, 0, 0, .performed, [], false, false⟩
       let s : State := { full with accesses := [(5, x)], flights := [(1, fl (.writes n))] }
       s.accesses.find? 5 = some x ∧ s.flights.find? x.flight = some (fl (.writes n)) ∧ (s.jobs.find? 0).isSome = true) := by decide +kernel
/-- A word whose generation is ahead, and one that is not; nothing in flight before a fence, and a store in flight before it; a word whose count falls short of its target, and one that
reaches it. -/
theorem witness_ArrivalWordsAndFences : okIs (full.scrOperand 0 ((0 : BitVec 27).signExtend 64) 16 16) 0 = true ∧
    (let g (s : State) : BitVec 32 := BitVec.ofNat 32 (natOf (((s.scrRead s.job 0 16).drop 8).take 4))
     (g full - (full.sget 0).setWidth 32).toInt ≤ 0 ∧ full.st.awaits ≠ some (0, (full.sget 0).setWidth 32, true) ∧
     (let s := full.modSt (fun t => { t with awaits := some (0, 0, true) })
      issuesB s c0 [] [] true true true = true ∧ s.st.awaits = some (0, (s.sget 0).setWidth 32, true)) ∧
     (let s := full.scrWrite full.job 8 (bytesOf 4 1) false; issuesB s c0 [] [] true true true = true ∧ 0 < (g s - (s.sget 0).setWidth 32).toInt)) ∧
    (∀ op ∈ [DataOp.awInit 0 0 (bytesOf 16 5), .awRead 1 0 0 true, .awRead 1 0 0 false],
      let s : State := { full with flights := [(1, fl (.data (dw op (some []) none)))] }
      s.flights.find? 1 = some (fl (.data (dw op (some []) none))) ∧ op.single = true ∧ (match s.awUpdate 0 op with | .ok _ => true | .error _ => false) = true) ∧
    Store.foul 64 (full.coreOf (full.jobOf 0).coreKey).scratch 0 16 = false ∧
    full.released full.cur .fabric full.nextId full.now = true ∧ full.acquired full.cur .core full.nextId = true ∧
    (let x (op : AccOp) : Access := ⟨0, 0, ⟨0, .a⟩, 0, 0, 0, none, op, 65536, 512, 8, none, false, .rc, 0, 0, 1, 0, .port, [], false, false⟩
     let s (op : AccOp) : State := { full with accesses := [(0, x op)], nextId := 1 }
     issuesB (s .read) c0 [] [] true true true = true ∧ (s .read).released (s .read).cur .die 1 0 = false ∧ (s .read).acquired (s .read).cur .die 1 = false ∧
       (s (.write (bytesOf 8 0))).released full.cur .die 1 0 = false) ∧
    (let f (acq : Bool) : Flight := fl (.fence acq .die 0)
     ∀ acq ∈ [false, true], let s : State := { full with flights := [(1, f acq)] }
     s.flights.find? 1 = some (f acq) ∧ (if acq then s.acquired (f acq).ref .die 1 else s.released (f acq).ref .die 1 0) = true ∧ ∀ e ∈ s.flights, e.1 = 1) ∧
    (let w : AWord := ⟨5, 4, 0, 0, 0⟩; w.target ≠ 0 ∧ w.count + 0 < w.target ∧ w.target ≤ w.count + 1) := by decide +kernel

/-- `full` with a descriptor of a collective of group 0 at s0, for one FP32 element of a page to the next one, and a group of two. -/
def collState : State :=
  let d := bytesOf 8 0 ++ bytesOf 4 1 ++ bytesOf 1 1 ++ bytesOf 1 2 ++ bytesOf 50 0
  let s := full.scrWrite full.job 0 d false
  { s with colls := [(16777216, ⟨2, 0, [], none, []⟩)] }

/-- A participant of a reduction of one element, whose contribution has been read. -/
def member (rank deadline : Nat) : Part := ⟨rank, rank, rank, 3, 1, 0, 65536, none, 0, BitVec.ofNat 64 deadline, 64, 0, 65536, 4, true, .rc, [0, 0, 0, 0], false, 0⟩

/-- One row of one element; a list that skips its only row; a last reply; a descriptor that is sound; a status of 0 and one that is not. -/
theorem witness_ScatterAndCollectiveCommands :
    issuesB full c0 [.s 8, .s 2, .s 0, .h 1] [] true true true = true ∧ okIs (full.saccOperands 2 0 1 1 4) (64, 0) = true ∧
    okIs (full.saccDest 8 4 4 (saccRows (full.indexList 64 1))) 0 = true ∧ saccRows (full.indexList 64 1) ≠ [] ∧
    okIs ((full.hget 1).checkRows 1 ((saccRows (full.indexList 64 1)).map (fun r => (full.sget 0).toNat + r.2 * 1 * 4)) 4 true) 65536 = true ∧ full.engineGrant.isSome = true ∧
    full.core.scatter = [] ∧
    ((full.hget 1).pbase.toNat + (full.sget 0).toNat) % 4 = 0 ∧
    (let s := full.scrWrite full.job 64 (bytesOf 4 0xFFFFFFFF) false
     issuesB s c0 [.h 1, .s 0, .s 2, .s 0] [] true true true = true ∧ okIs (s.saccOperands 2 0 1 1 4) (64, 0) = true ∧ saccRows (s.indexList 64 1) = []) ∧
    (let x : Access := ⟨7, 0, ⟨0, .a⟩, 0, 0, 0, none, .add 0 0 0, 65536, 512, 4, none, false, .rc, 0, 0, 0, 0, .performed, [], false, false⟩
     let s : State := { full with accesses := [(5, x)], flights := [(7, fl (.writes 1))], args := { b := 5 } }
     s.accesses.find? 5 = some x ∧ s.flights.find? x.flight = some (fl (.writes 1))) ∧
    (let s := collState
     let d := CollDesc.ofBytes (s.scrRead s.job 0 64)
     issuesB s c0 [.s 0] [] true true true = true ∧ okIs (s.scrOperand 0 ((0 : BitVec 27).signExtend 64) 64 64) 0 = true ∧ s.scrBad s.job 0 56 = false ∧
       s.job.ctx * 4096 + d.group = 16777216 ∧ d.ok (s.collOf 16777216).size = true ∧ d.seq = (s.collOf 16777216).inst ∧
       (∀ p ∈ (s.collOf 16777216).parts, p.rank ≠ d.rank) ∧ d.op ≠ 6 ∧ okIs (s.collSource d) (some (65536, 4)) = true ∧ okIs (s.collDest d 2) 131072 = true ∧
       s.collsInFlight s.cur.job < 8) ∧
    full.scrBad full.job 56 8 = false ∧ full.scrNat full.job 56 8 = 0 ∧
    (let s := full.scrWrite full.job 56 [3] false; s.scrBad s.job 56 8 = false ∧ s.scrNat s.job 56 8 = 3) := by decide +kernel
/-- A group of two whose members have contributed, one whose results are written, and one that is short past its deadline. -/
theorem witness_CollectiveEvents :
    (let s : State := { full with colls := [(5, ⟨2, 0, [member 0 0, member 1 0], none, []⟩)], args := { a := 5 } }
     let c := s.collOf 5
     c.parts ≠ [] ∧ c.ending = none ∧ c.agree = true ∧ (∀ p ∈ c.parts, p.op ≠ 6 ∧ p.loaded = true ∧ s.rankLost 5 c p.rank = false) ∧ ∀ r < c.size, ∃ p ∈ c.parts, p.rank = r) ∧
    (let f (n : Nat) : Flight := ⟨⟨n, .a⟩, 0, none, [], [], none, 0, 0, 0, 0, .collective 5 false []⟩
     let s : State := { full with
       jobs := full.jobs.set 1 { full.job with core := 1 }, colls := [(5, ⟨2, 0, [member 0 0, member 1 0], some 1, []⟩)], flights := [(0, f 0), (1, f 1)], args := { a := 5 } }
     let c := s.collOf 5
     c.ending = some 1 ∧ s.collOpen c = false ∧ member 0 0 ∈ c.parts ∧ s.flights.find? 0 = some (f 0) ∧ (s.jobs.find? 0).isSome = true ∧
       Memory.wf (s.coreOf (s.jobOf 0).coreKey).scratch.cells = true ∧
       (∀ q ∈ c.parts, q = member 0 0 ∨ (q.flight ≠ 0 ∧ (s.jobOf q.job).coreKey ≠ (s.jobOf 0).coreKey)) ∧
       ∀ q ∈ c.parts, (s.coreOf (s.jobOf q.job).coreKey).combine = [] ∧ (s.flights.find? q.flight).map (fun g => g.ref.job) = some q.job) ∧
    (let s : State := { full with colls := [(5, ⟨2, 0, [member 0 7], none, []⟩)], args := { a := 5 }, ptpt := 8 }
     let c := s.collOf 5
     c.parts = [member 0 7] ∧ c.ending = none ∧ (s.collGiven 5).missing ≠ [] ∧ c.deadline = some 7 ∧ 7 < timeNs s.ptpt ∧ c.agree = true ∧ (member 0 7).op < 4 ∧
       s.collOpen c = false ∧ ∀ q ∈ c.parts, (s.coreOf (s.jobOf q.job).coreKey).combine = []) ∧
    [2 ^ 32 - 1, 1] ≠ [] ∧ (∀ x ∈ [2 ^ 32 - 1, 1], x < 2 ^ 32) := by decide +kernel

/-- A bound port: 64 slots of 16 bytes in queue mode, with the messages `held`. -/
def port (held : List PortMsg) : Port := { Port.unbound with desc := BitVec.ofNat 64 (64 + 256), held := held }
/-- A direct queue of die 0, and a queue with a ring of two records, of partition 0. -/
def direct : Queue := { Queue.blank with w0 := BitVec.ofNat 64 (2 ^ 63 + 2 ^ 62 + 2 ^ 60 + 16 * 2 ^ 40) }
def ring : Queue := { Queue.blank with w0 := BitVec.ofNat 64 (2 ^ 63 + 2 ^ 61 + 2 ^ 32) }

/-- Lengths 1 and 4,096; a port to bind; a message to pop, and none; a wake of the own die; the expected number with room, without, and an earlier one; an acknowledgement, a negative one,
the end of a back-off; and a host's wake. -/
theorem witness_Fabric :
    issuesB full c0 [.s 0, .s 0, .s 1, .s 0] [] true true true = true ∧ (full.sget 1).toNat = 1 ∧ okIs (full.scrOperand 0 0 1 1) 0 = true ∧ full.destBad full.job (full.sget 0) = false ∧
    full.sget 0 &&& ~~~0xF8#64 = 0 ∧ (full.job.sender 0).window.length < 32 ∧ (full.job.sender 0).backoff = none ∧ (full.job.senders.filter (fun y => !y.window.isEmpty)).length < 64 ∧
    (let s := full.modSt (fun t => { t with s := t.s.set 3 4096 }); (s.sget 3).toNat = 4096 ∧ okIs (s.scrOperand 0 0 4096 1) 0 = true) ∧
    (let s := full.modSt (fun t => { t with s := t.s.set 3 320 })
     let p : Port := { Port.unbound with desc := s.sget 3 &&& 0x000FFFFF001FFFFF }
     issuesB s c0 [.s 0, .s 3] [] true true true = true ∧ p.slots = 64 ∧ p.slotBytes = 16 ∧ okIs (s.scrOperand 0 0 (p.slots * p.slotBytes) 16) 0 = true ∧ okIs (s.awCheck p) 0 = true ∧
       s.job.ports[0].held = []) ∧
    (let s := full.modJob 0 (fun j => { j with ports := j.ports.set 0 (port [⟨63, 16⟩]) })
     issuesB s c0 [.s 1] [] true true true = true ∧ s.job.ports[0].slots ≠ 0 ∧ s.job.ports[0].buffer = false ∧ s.job.ports[0].held = ⟨63, 16⟩ :: []) ∧
    (full.sget 0).toNat = full.job.pkg * 2 ^ 44 + 0 ∧ full.job.pkg < 4096 ∧ full.released full.cur .package full.nextId full.now = true ∧
    (full.queueOf 0).die = full.job.die ∧
    (let s (p : Port) := full.modJob 0 (fun j => { j with ports := j.ports.set 0 p })
     (s (port [])).portJob 0 = some 0 ∧ ((s (port [])).jobOf 0).status = .running ∧ ((port []).expect.getD 4 0 = 0) ∧ (port []).buffer = false ∧
       ({ port [] with desc := BitVec.ofNat 64 (64 + 256 + 2 ^ 20) } : Port).buffer = true ∧ ({ port [] with desc := BitVec.ofNat 64 (64 + 256 + 2 ^ 20) } : Port).slots ≠ 0 ∧
       (port ((List.range 64).map (fun i => ⟨i, 16⟩))).freeSlot = none ∧ (port []).expect.getD 4 0 ≠ 65504 ∧ ((port []).expect.getD 4 0 - (65504 : BitVec 16)).toNat = 32) ∧
    (let m : Fmsg := ⟨4, 0, 0, 0, [1], false⟩
     let s : State := { full.modJob 0 (fun j => { j with ports := j.ports.set 0 (port []) }) with fmsgs := [(3, m)], args := { a := 3 } }
     s.args.src = .inside ∧ s.fmsgs.find? 3 = some m ∧ m.sender % 4 = 0 ∧ ∀ e ∈ s.fmsgs, e.1 = 3 ∨ e.2.sender ≠ m.sender) ∧
    (let m (n : BitVec 16) : SentMsg := ⟨n, 0, 16, 0, 9⟩
     let s : State := { full.modJob 0 (fun j => { j with senders := [⟨0, 3, [m 0, m 1, m 2], 0, none, none⟩] }) with args := { a := 0, b := 1 } }
     s.ackBehind s.args = false ∧ ((s.jobOf 0).sender 0).window = [m 0] ++ m 1 :: [m 2] ∧ (∀ x ∈ [m 0] ++ [m 2], x.num ≠ 1) ∧ ((s.jobOf 0).sender 0).dest = 0 ∧
       (s.jobs.find? 0).isSome = true ∧ s.args.flag = false ∧ (∃ x ∈ ((s.jobOf 0).sender 0).window, x.num = 1) ∧ ((s.jobOf 0).sender 0).backoff = none ∧
       (let u : State := { s with args := { a := 0, b := 9 } }; u.ackBehind u.args = false ∧ ∀ m ∈ ((u.jobOf 0).sender 0).window, m.num ≠ 9)) ∧
    (∀ v ∈ [0, 1], let e : Queue := { ring with w0 := if v = 0 then ring.w0 else 0 }
     let s : State := { full with queues := [(2, e)], flights := [(7, fl (.wake 2 1 true))], args := { a := 2, b := 1, c := 8 } }
     s.args.src = .inside ∧ s.flights.find? 7 = some (fl (.wake 2 1 true)) ∧ (s.jobs.find? 0).isSome = true ∧ (s.queueOf 2).rings 0 = decide (v = 0) ∧ (s.jobOf 0).spec = none) ∧
    (let s : State := { full.modJob 0 (fun j => { j with senders := [⟨0, 3, [], 1, some 0, some 2⟩] }) with args := { a := 0 } }
     ((s.jobOf 0).sender 0).backoff = some 0 ∧ ((s.jobOf 0).sender 0).resend = some 2 ∧ 0 ≤ s.now ∧ ((s.jobOf 0).sender 0).dest = 0) ∧
    (let s : State := { full with queues := [(2, ring)], args := { a := 2, src := .host 0 8, word := 2 } }
     (s.queueOf 2).valid = true ∧ (s.queueOf 2).vf = 0 ∧ (s.queueOf 2).direct = false ∧ 0 < ((2 : BitVec 32) - (s.queueOf 2).wseq).toInt ∧
       ((2 : BitVec 32) - (s.queueOf 2).rseq).toNat = (s.queueOf 2).size) := by
  refine ⟨by decide +kernel, by decide +kernel, by decide +kernel, by decide +kernel, by decide +kernel, by decide +kernel, by decide +kernel, by decide +kernel,
    by decide +kernel, by decide +kernel, by decide +kernel, by decide +kernel, by decide +kernel, by decide +kernel, by decide +kernel, by decide +kernel, by decide +kernel, by decide +kernel⟩

/-- `full` with its context listed as active, a page of 1 GiB at virtual address 0 that lies at physical address 0, and core 0 in partition 0. -/
def world : State :=
  { full with
    ctxs := [(4096, { Ctx.blank with desc := true, state := .active, savesize := 2 ^ 40 })], parts := [(0, [1, 0, 1] ++ bytesOf 61 0)]
    s1 := [(tableKey 4096 0 0, 1), (tableKey 4096 1 0, BitVec.ofNat 64 (2 ^ 62 + 2))], s2 := [(tableKey 0 1 0, BitVec.ofNat 64 (2 ^ 54 + 2 ^ 53 + 2))] }
/-- `world` with a launch whose state and record are given. -/
def launch (st : LState) (r : List Byte) : Launch := { world.newLaunch 2 0 r st with ctx := 4096, jobs := 1 }
def atLaunch (st : LState) (r : List Byte) : State := { world with launches := [(0, launch st r)], args := { a := 0 } }
/-- A record whose descriptor is at `d`, whose prologue is at `p`, and whose gap is 1,024 cycles. -/
def record (d p : Nat) : List Byte := bytesOf 8 d ++ bytesOf 16 0 ++ bytesOf 8 p ++ bytesOf 8 0 ++ bytesOf 8 (1024 * 2 ^ 40) ++ bytesOf 80 0

/-- A line that stands in memory; a header entered; a section left with nothing in flight, and with a command in flight; a trap with a handler, without one, and inside
one; walks before and after their results. -/
theorem witness_StreamEvents :
    (full.jobs.find? full.cur.job).isSome = true ∧ (world.codeLine (world.jobOf 0).ctx 1).isSome = true ∧
    (let s (b : Bool) := full.modSt (fun t => { t with entering := some ⟨0, 8, none, b⟩ })
     (∀ b, ((s b).strOf (s b).cur).entering = some ⟨0, 8, none, b⟩) ∧ ((s true).strOf (s true).cur).sect.isSome = true ∧
       (let u := (s true).modSt (fun t => { t with sect := none }); (u.strOf u.cur).entering = some ⟨0, 8, none, true⟩ ∧ (u.strOf u.cur).sect = none) ∧
       ∃ w, (s false).codeAt ((s false).jobOf 0) 0 8 = some w ∧ hdrBad (BitVec.ofNat 64 w) none = false) ∧
    (let s := full.modSt (fun t => { t with left := [(0, 4), (1, 5)] }); (s.strOf s.cur).left = [(0, 4)] ++ [(1, 5)] ∧ ∀ f ∈ s.flights, f.2.ref ≠ s.cur) ∧
    (let s : State := { full.modSt (fun t => { t with left := [(0, 4), (1, 5)] }) with flights := [(1, fl .array)] }
     (s.strOf s.cur).left = (0, 4) :: [(1, 5)] ∧ (1, fl .array) ∈ s.flights ∧ (fl .array).ref = s.cur ∧ (fl .array).visit = 0) ∧
    ((full.jobOf 0).spec = none ∧ (full.jobOf 0).prologue = false ∧ (full.jobOf 0).error = none) ∧
    (let p : PendingTrap := ⟨.arith, 5, 0⟩
     let s := full.modSt (fun t => { t with traps := [p], tvec := 64 })
     (s.strOf s.cur).traps = p :: [] ∧ (s.strOf s.cur).tcause.getLsbD 63 = false ∧ (s.strOf s.cur).tvec ≠ 0 ∧ s.flights = [] ∧
       (let u := full.modSt (fun t => { t with traps := [p] }); (u.strOf u.cur).tvec = 0) ∧
       (let u := s.modSt (fun t => { t with tcause := BitVec.ofNat 64 (2 ^ 63) }); (u.strOf u.cur).tcause.getLsbD 63 = true)) ∧
    (let w : Walk := ⟨4096, 0, 0, false, none⟩
     let s := full.modCore 0 (fun x => { x with walks := [(3, w)] }); (s.coreOf 0).walks.find? 3 = some w ∧ w.result = none) ∧
    (let w : Walk := ⟨4096, 0, 0, false, some (page 1, 0)⟩
     let s : State := { full.modCore 0 (fun x => { x with walks := [(3, w)] }) with now := 65536 }; (s.coreOf 0).walks.find? 3 = some w ∧ 0 + 65536 ≤ s.now) :=
  ⟨by decide +kernel, by decide +kernel, by refine ⟨fun b => by cases b <;> decide +kernel, by decide +kernel, by decide +kernel, _, rfl, by decide +kernel⟩, by decide +kernel,
    by decide +kernel, by decide +kernel, by decide +kernel, by decide +kernel, by decide +kernel⟩
/-- Queue 0, requests accepted, refused and full, their replies, a grant to a parked job, to a record and to a request, a record at the ring's end, and a record that has landed. -/
theorem witness_LaunchPool :
    issuesB full c0 [.s 0, .s 0, .s 0] [] true true true = true ∧ (full.sget 0).toNat = full.job.pkg * 2 ^ 44 + 0 ∧ okIs (full.scrOperand 0 0 128 64) 0 = true ∧
    full.released full.cur .package full.nextId full.now = true ∧ recPart (full.scrRead full.job 0 128) = full.job.part ∧
    recPart (bytesOf 8 128 ++ (full.scrRead full.job 0 128).drop 8) = full.job.part ∧
    (let q : PoolReq := ⟨2, record 0 0, 0, false⟩
     let s (e : Queue) : State := { full.modDie 0 (fun d => { d with requests := [(0, 9)] }) with flights := [(9, fl (.pool q 1 none none))], queues := [(2, e)], args := { a := 0, b := 0 } }
     (s direct).arrivedRequests 0 = (0, 9) :: [] ∧ (s direct).flights.find? 9 = some (fl (.pool q 1 none none)) ∧ ((s direct).queueOf 2).launches 0 = true ∧ (s direct).poolRoom 0 0 = true ∧
       ((s ring).queueOf 2).launches 0 = false ∧ (let u := (s direct).modDie 0 (fun d => { d with caps := [(0, 0)] }); (u.queueOf 2).launches 0 = true ∧ u.poolRoom 0 0 = false)) ∧
    (let q (b : Bool) : PoolReq := ⟨2, record 0 0, 0, b⟩
     let s (b : Bool) (a : PoolAnswer) : State := { full with flights := [(9, fl (.pool (q b) 1 none (some a)))], args := { b := 10 } }
     (s false (.accepted 7)).flights.find? 9 = some (fl (.pool (q false) 1 none (some (.accepted 7)))) ∧ (s false .full).flights.find? 9 = some (fl (.pool (q false) 1 none (some .full))) ∧
       (s true .full).flights.find? 9 = some (fl (.pool (q true) 1 none (some .full))) ∧ (q true).park = true ∧ (full.jobs.find? (fl .array).ref.job).isSome = true) ∧
    ((full.dieOf 0).lost = false ∧ (full.dieOf 0).poolNext ≤ full.now ∧ full.poolUsed 0 < 1024 ∧
      (let s : State := { world.modJob 0 (fun j => { j with status := .parked, ready := false }) with flights := [(9, fl (.pool ⟨2, record 0 0, 0, true⟩ 1 none (some .full)))], queues := [(2, direct)] }
       s.reserveFor 0 = some 0 ∧ (s.jobs.find? 0).isSome = true) ∧
      (let s : State := { world with queues := [(2, { ring with w0 := ring.w0 + BitVec.ofNat 64 (16 * 2 ^ 40 * 0), pending := true })] }; s.reserveFor 0 = none ∧ (s.scan 0).isSome = true ∧ s.arrivedRequests 0 = []) ∧
      (let s : State := { full.modDie 0 (fun d => { d with requests := [(0, 9)] }) with flights := [(9, fl (.pool ⟨2, record 0 0, 0, false⟩ 1 none none))] }
       s.reserveFor 0 = none ∧ s.arrivedRequests 0 ≠ [] ∧ s.scan 0 = none)) ∧
    (let s : State := { world with queues := [(4095, { ring with pending := true, rseq := 1, wseq := 2 })] }; s.scan 0 = some 4095) ∧
    (atLaunch .reading (record 0 0)).launches.find? 0 = some (launch .reading (record 0 0)) := by decide +kernel
/-- A record that is sound, with a prologue; an ended launch with a completion word; one whose gap is too short; a prologue at the head of its queue, and one that ended with 1; a repeat; a wake target of each kind. -/
theorem witness_LaunchEvents :
    ((atLaunch .pending (record 0 0)).startable (launch .pending (record 0 0)).queue = some 0 ∧ ((atLaunch .pending (record 0 0)).ctxs.find? 4096).isSome = true) ∧
    (match (atLaunch .starting (bytesOf 128 0)).recordCheck (launch .starting (bytesOf 128 0)) with | .error e => decide (e = 2) | .ok _ => false) = true ∧
    (let d := bytesOf 48 0 ++ [1] ++ bytesOf 79 0
     (((atLaunch .starting (record 65536 16)).perform 0 65536 d false).recordCheck (launch .starting (record 65536 16))).isOk = true ∧ recProlog (record 65536 16) ≠ 0) ∧
    (let s := (atLaunch .prologue (record 65536 16)).modDie 0 (fun d => { d with prologueQ := [0] })
     s.launches.find? 0 = some (launch .prologue (record 65536 16)) ∧ (s.dieOf 0).prologue = none ∧ (s.dieOf 0).lost = false ∧ (s.dieOf 0).prologueQ = 0 :: []) ∧
    (let l := launch .prologue (record 65536 16)
     let j : Job := { world.prologueJob 0 l with x := { (world.prologueJob 0 l).x with ended := true, s := (Vector.replicate 32 0).set 8 1 } }
     let s : State := { (atLaunch .prologue (record 65536 16)).modDie 0 (fun d => { d with prologue := some 0 }) with jobs := [(7, j)] }
     (s.dieOf l.die).prologue = some 0 ∧ List.find? (fun e : Nat × Job => e.2.prologue && e.2.launch = 0) s.jobs = some (7, j) ∧ j.error = none ∧ j.x.ended = true ∧ (j.x.sget 8).toNat = 1 ∧
       l.repeats = 0 ∧ l.state ≠ .finishing) ∧
    (let l := { launch .running (record 65536 16) with again := true, held := false, completed := 1 }
     let s : State := { world with launches := [(0, l)] }
     s.launches.find? 0 = some l ∧ l.again = true ∧ l.held = false ∧ l.jobs ≤ l.completed ∧ s.poolRoom l.die l.part = true) ∧
    (let r (n : Nat) := bytesOf 16 0 ++ bytesOf 8 (n * 2 ^ 62) ++ bytesOf 104 0
     (let l := { launch .finishing (bytesOf 8 0 ++ bytesOf 8 65536 ++ bytesOf 112 0) with status := some (1, 255) }
      let s : State := { world with launches := [(0, l)] }
      s.launches.find? 0 = some l ∧ recCompl l.record ≠ 0 ∧ (s.vaWrite l.ctx (recCompl l.record) (bytesOf 8 5)).isSome = true) ∧
     (atLaunch .finishing (r 2)).launches.find? 0 = some (launch .finishing (r 2)) ∧ recWaket (r 2) / 2 ^ 62 % 4 = 2 ∧ recWaket (r 1) / 2 ^ 62 % 4 = 1 ∧ recWaket (r 1) / 2 ^ 44 % 4096 = world.pkg) := by
  decide +kernel

/-- A job to be placed, one whose argument block is due, one that has waited 65,536 cycles, and one that is complete. -/
theorem witness_JobEvents :
    (let s : State := { (world.modJob 0 (fun j => { j with status := .created, scrSize := 128 })) with launches := [(0, launch .running (record 0 0))], args := { a := 0 } }
     (s.dieOf 0).lost = false ∧ (∀ e ∈ s.launches, e.2.state ≠ .placing) ∧ s.sweepDone.candidates 0 = [(0, s.job)] ∧ s.sweepDone.jobs.find? 0 = some s.job ∧
       s.sweepDone.spotFor s.job = some ⟨0, 0, 0, 0, []⟩ ∧ (s.sweepDone.reserveSave 0).isSome = true ∧ s.launches.find? s.job.launch = some (launch .running (record 0 0))) ∧
    (let s : State := { world.modJob 0 (fun j => { j with waiting := some 0 }) with now := 65536 }
     (s.jobOf 0).waiting = some 0 ∧ 0 + 65536 ≤ s.now ∧ (s.jobs.find? 0).isSome = true ∧ s.jobs.find? 0 = some s.job) ∧
    (let s := atLaunch .running (record 0 0)
     s.jobs.find? 0 = some s.job ∧ s.job.status = .running ∧ s.launches.find? s.job.launch = some (launch .running (record 0 0))) := by decide +kernel

/-- `world` with its job changed, and with no window. -/
def saver (f : Job → Job) : State := { world.modJob 0 (fun j => f { j with scrSize := 0, tileCount := 0, acs := [], acsHeld := false }) with args := { a := 0, b := 0 } }

/-- A job that parks, one that is asked to stop, one that has stopped, one that stalls; a fault during a save, its limit, the end of a save, and a resumption. -/
theorem witness_SaveEvents :
    (let s := saver (fun j => { j with parking := true })
     (s.jobs.find? 0).isSome = true ∧ (s.jobOf 0).parking = true ∧ (s.jobOf 0).onCore = true ∧ (s.jobOf 0).save = none ∧ s.drained (s.jobOf 0).coreKey (s.jobOf 0).ctx s.now = true ∧
       (let f := fl (.pool ⟨2, [], 0, true⟩ 1 none (some .full)); let u : State := { s with flights := [(1, f)] }
        (∀ f ∈ u.flights, f.2.ref.job = 0 → f.2.work.parks = true) ∧ u.drained (u.jobOf 0).coreKey (u.jobOf 0).ctx u.now = true)) ∧
    ((world.jobOf 0).onCore = true ∧ (world.jobOf 0).spec = none ∧ (world.jobOf 0).prologue = false ∧ (world.jobOf 0).save = none ∧ (world.jobOf 0).preempt = none ∧ (world.jobOf 0).error = none) ∧
    (let s := saver (fun j => { j with preempt := some 0, a := { j.a with stopped := true }, m := { j.m with ended := true }, v := { j.v with ended := true }, x := { j.x with stopped := true } })
     (s.jobOf 0).preempt = some 0 ∧ (s.jobOf 0).onCore = true ∧ (s.jobOf 0).save = none ∧ (s.jobOf 0).frozen = false ∧
       (∀ l ∈ [Letter.a, .m, .v, .x], ((s.jobOf 0).stream l).stopped = true ∨ ((s.jobOf 0).stream l).ended = true) ∧ s.settled 0 = true ∧ s.drained (s.jobOf 0).coreKey (s.jobOf 0).ctx s.now = true ∧
       ∃ c, s.ctxs.find? (s.jobOf 0).ctx = some c ∧ c.state ≠ .frozen ∧ c.state ≠ .dumping) ∧
    (let v : Save := ⟨2, 0, 4, some 0⟩
     let s := saver (fun j => { j with save := some v, saveArea := some 0 })
     (s.jobOf 0).save = some v ∧ v.since.isSome = true ∧ (s.jobOf 0).saveArea = some 0 ∧ (s.vaWrite (s.jobOf 0).ctx 0 (s.saveHeader 0 v.reason)).isSome = true ∧
       ∃ c, s.ctxs.find? (s.jobOf 0).ctx = some c ∧ c.state = .active) ∧
    (let s := (saver (fun j => { j with status := .resuming, saveArea := some 0 })).perform 0 4 [1] false
     (s.jobOf 0).status = .resuming ∧ (s.jobOf 0).frozen = false ∧ (s.jobOf 0).acsKeep = 0 ∧ (s.jobOf 0).saveArea = some 0 ∧ s.parkFlight 0 = none ∧
       (s.strOf ⟨0, .a⟩).entering = none ∧ (s.strOf ⟨0, .a⟩).sect.isSome = true ∧
       ((s.vaRead (s.jobOf 0).ctx 0 (saveSize (s.jobOf 0).tileCount (s.jobOf 0).scrSize - 49152 * 32)).map (fun b => fieldOf b 4 1)) = some 1 ∧
       ((s.markVa (s.jobOf 0).ctx 0 (saveSize (s.jobOf 0).tileCount (s.jobOf 0).scrSize - 49152 * 32)).vaWrite (s.jobOf 0).ctx 4 [0]).isSome = true) := by
  refine ⟨by decide +kernel, by decide +kernel, ?_, ?_, by decide +kernel⟩
  · refine ⟨by decide +kernel, by decide +kernel, by decide +kernel, by decide +kernel, by decide +kernel, by decide +kernel, by decide +kernel, _, rfl, by decide +kernel, by decide +kernel⟩
  · exact ⟨by decide +kernel, by decide +kernel, by decide +kernel, by decide +kernel, _, rfl, by decide +kernel⟩

/-- An access to global memory that stands before its home: a read of 8 bytes, or what `op` says. -/
def acc (op : AccOp) (st : Stage) : Access := ⟨7, 0, ⟨0, .a⟩, 0, 0, 4096, none, op, 65536, 512, 8, none, false, .rc, 0, 0, 1, 0, st, bytesOf 8 5, false, false⟩
/-- `full` with one access. -/
def accState (op : AccOp) (st : Stage) : State := { full with accesses := [(0, acc op st)], args := { a := 0, b := 1 } }

/-- A write to the last bytes of a line, an update, a read, each of a page of kind `RC` and of one of kind `SO`, with nothing of their line in the buffer, and one behind another; a read of a page in
migration; a reply; a line that drains. -/
theorem witness_AccessesPerformed :
    (let a (k : PageKind) (op : AccOp) : Access := { acc op .slice with pa := 65662, kind := k }
     let s (k : PageKind) (op : AccOp) : State := { full with accesses := [(0, a k op)], args := { a := 0 } }
     ∀ k ∈ [PageKind.rc, .so], ∀ op ∈ [AccOp.write [1, 2], .add 1 0 0, .read], (s k op).accesses.find? 0 = some (a k op) ∧ (a k op).stage ≠ .performed ∧
       (s k op).lineBehind 0 (a k op) true = false ∧ (s k op).soReady (a k op) = true ∧ (∀ e ∈ (s k op).accesses, e.1 = 0) ∧ (s k op).fwd 65662 = 65662 ∧
       ((s k op).dieOf 0).lost = false ∧ MemOk (s k op) ∧ 65662 % 128 + 2 = 128 ∧ 65662 % saccBytes 1 = 0 ∧ (a k op).spec = none ∧ ((s k op).coreOf 0).combine = []) ∧
    (let s : State := { full with accesses := [(0, acc .read .slice), (1, acc .read .slice)], args := { a := 1 } }
     s.accesses.find? 1 = some (acc .read .slice) ∧ s.lineBehind 1 (acc .read .slice) true = true ∧
       (let x : Access := { acc .read .sent with kind := .so }; let u : State := { full with accesses := [(0, x)] }; u.soReady x = false)) ∧
    (let s : State := { accState .read .slice with migrations := [(0, ⟨0, 65536, 65536, 2 ^ 30, 65536, 65536⟩)] }
     s.fwd 65536 = 2 ^ 30 ∧ s.fwd (s.fwd 65536) = s.fwd 65536 ∧ (s.dieOf (homeDie (s.fwd 65536))).lost = false ∧ ∀ e ∈ s.accesses, e.1 < 0 → e.2.core ≠ 0) ∧
    (let s : State := { accState .read .performed with flights := [(7, fl (.load 1 3 false 1 0))] }
     s.accesses.find? 0 = some (acc .read .performed) ∧ s.flights.find? 7 = some (fl (.load 1 3 false 1 0)) ∧ (acc .read .performed).vpoison = false ∧
       (fl (.load 1 3 false 1 0)).ref = (acc .read .performed).ref ∧ (s.jobs.find? 0).isSome = true) ∧
    (let l : CombLine := ⟨512, 4096, 0, BitVec.ofNat 128 (2 ^ 127), Vector.replicate 128 9, false, [], 0, false⟩
     let s : State := { full.modCore 0 (fun x => { x with combine := [l] }) with now := 4096 }
     MemOk s ∧ (s.coreOf 0).combine.find? (fun x => x.line = 512 && x.ctx = 4096) = some l ∧ l.since + 4096 ≤ s.now ∧ (s.dieOf l.die).lost = false) := by
  decide +kernel

/-- A line at a port with tokens, none, and with as many requests under way as there can be; a copy's line that reads its bytes; a flit at a router; a request that a slice accepts, and one at a controller. -/
theorem witness_AccessPath :
    (let s := accState .read .port
     s.accesses.find? 0 = some (acc .read .port) ∧ (s.refillDue 0).presented 0 false = [(0, acc .read .port)] ∧ (s.refillDue 0).presented 0 true = [] ∧ (s.refillDue 0).tokens 0 ≠ some 0 ∧
       (s.refillDue 0).outstanding 0 < 2048 ∧ (acc .read .port).lines = 1 ∧
       (let u : State := { s with accesses := (List.range 2048).map (fun i => (i, acc .read .sent)) }; 2048 ≤ (u.refillDue 0).outstanding 0) ∧
       (let x : Access := { acc (.write [1]) .port with src := some 64 }; x.src = some 64 ∧ x.op = .write [1])) ∧
    ((world.refillDue 0).presented 0 true = [] ∧ (world.refillDue 0).tokens 0 = some 0) ∧
    (accState .read .sent).accesses.find? 0 = some (acc .read .sent) ∧
    (let s : State := { full with routers := [(3, { Router.init with vc := Router.init.vc.set 2 [⟨0, 0, 0, 0⟩] })] }; (s.grant (s.routers.getD 3 Router.init)).isSome = true) ∧
    (let s := (accState .read .sent).modSlice 0 (fun x => { x with waiting := [0] }); s.acceptable ((s.sliceAt 0).inWindow (s.now / 1024)) = some (0, acc .read .sent)) ∧
    (let h : Hbm := ⟨0, [], [⟨0, 0, 1, 5, false⟩, ⟨1, 0, 1, 4, false⟩]⟩; h.next = some ⟨1, 0, 1, 4, false⟩) ∧
    (let s := full.modSlice 33 (fun x => { x with window := 1 }); (s.dies.find? 1).isSome = true ∧ ((s.dieOf 1).slices.find? 1).isSome = true) := by decide +kernel

/-- `world` for context 0, with a descriptor that may be speculated at 65,536, a direct queue 2 whose last three records ran it, and Undercoat enabled. -/
def ucWorld : State :=
  let h (n : Nat) : Hist := ⟨BitVec.ofNat 32 n, 65536, List.replicate 8 0, [0, 0, 0, 0], 0, true, 0, 0, false⟩
  let s : State := { world with
    s1 := [(tableKey 0 0 0, 1), (tableKey 0 1 0, BitVec.ofNat 64 (2 ^ 62 + 2))], ctxs := [(0, { Ctx.blank with desc := true, state := .active, savesize := 2 ^ 40 })]
    queues := [(2, { Queue.blank with w0 := BitVec.ofNat 64 (2 ^ 63 + 2 ^ 62) })], history := [(2, [h 3, h 2, h 1])], parts := [(0, [1, 0, 1] ++ bytesOf 29 0 ++ [1] ++ bytesOf 31 0)] }
  (s.perform 0 65536 (bytesOf 48 0 ++ [1, 0, 1] ++ bytesOf 77 0) false).modDie 0 (fun d => { d with uccfg := 17 })

/-- A speculation of die 0 in a state. -/
def spec (st : SpecState) (acks : List Nat) : Spec := ⟨1, 2, 4, 0, st, 0, acks, [], []⟩
/-- `world` with that speculation, its launch, and the launch that claims it. -/
def specState (st : SpecState) (acks : List Nat) (d : Nat) : State :=
  let e : KDesc := KDesc.ofBytes (bytesOf 48 0 ++ [1, 0, 1] ++ bytesOf 77 0)
  { ucWorld.modDie 0 (fun x => { x with specs := [(0, spec st acks)] }) with
    launches := [(1, { launch .running (record 65536 0) with spec := some 0, desc := some e, args := bytesOf 64 0 }), (2, { launch .claiming (record d 0) with ctx := 0, spec := some 0, desc := some e, args := bytesOf 64 0 })]
    args := { a := 0, b := 0, c := 255 } }

/-- A prediction; a spoil, and the horizon; a claim that fails and one that goes on; fences on their way, the one before the last and the last; lines to perform. -/
theorem witness_SpeculationEvents :
    (let s : State := { ucWorld with args := { a := 0, b := 2, word := 4, data := record 65536 0 } }
     s.specSlot 0 = some 0 ∧ s.args.word.setWidth 32 = (4 : BitVec 32) ∧ s.mayStart 0 2 (recPart (record 65536 0)) 4 = true ∧ (s.predictedLaunch 2 0 4 (record 65536 0)).isSome = true) ∧
    (prediction (visible ((ucWorld.histOf 0 4 (record 65536 0) :: ucWorld.history.getD 2 []).take 16))).isSome = true ∧
    (let s : State := { specState .running [] 65536 with now := 200000 }
     (s.dieOf 0).specs.find? 0 = some (spec .running []) ∧ (spec .running []).state ≠ .draining ∧ s.behind s.args = false ∧ (spec .running []).started + 200000 ≤ s.now) ∧
    (∀ d ∈ [0, 65536], let s : State := { specState .running [] d with args := { a := 2 } }
     ∃ l, s.launches.find? 2 = some l ∧ l.state = .claiming ∧ l.spec = some 0 ∧ s.specOf 0 = some (spec .running []) ∧ ∃ p, s.launches.find? 1 = some p ∧
       claimMatches (s.histOf l.ctx l.seq l.record) l p = decide (d = 65536) ∧ (s.reserveClaim 1 p).isSome = true) ∧
    (let s := specState .claiming (List.range 255) 65536
     s.behind s.args = false ∧ s.specOf 0 = some (spec .claiming (List.range 255)) ∧ 256 ≤ (NatSet.insert (List.range 255) s.args.c).length ∧
       (NatSet.insert (List.range 254) s.args.c).length = 255 ∧
       (∃ l, List.find? (fun e : Nat × Launch => e.2.state = .claiming && e.2.spec = some (0 * 8 + 0)) s.launches = some (2, l)) ∧
       ∃ p e, s.launches.find? 1 = some p ∧ p.desc = some e ∧ 2 ≠ (spec .claiming []).launch) ∧
    (let s := specState .draining [] 65536; (s.dieOf 0).specs.find? 0 = some (spec .draining [])) := by
  refine ⟨by decide +kernel, by decide +kernel, by decide +kernel, ?_, ?_, by decide +kernel⟩
  · intro d hd
    fin_cases hd
    · exact ⟨_, rfl, rfl, rfl, by decide +kernel, _, rfl, by decide +kernel, by decide +kernel⟩
    · exact ⟨_, rfl, rfl, rfl, by decide +kernel, _, rfl, by decide +kernel, by decide +kernel⟩
  · exact ⟨by decide +kernel, by decide +kernel, by decide +kernel, by decide +kernel, ⟨_, rfl⟩, _, _, rfl, rfl, by decide +kernel⟩

/-- `ucWorld` with a message. -/
def mailed (m : Msg) : State := { ucWorld with mail := [m] }
/-- `ucWorld` with its context changed. -/
def inCtx (f : Ctx → Ctx) (g : Args) : State := { ucWorld.modCtx 0 f with args := g }
/-- An error record of context 0. -/
def errRec : ErrRec := ⟨1, 0, 0, 0, 0, 0, 0, 0, 0, 0, 0, 0, 0, 0, 0⟩

/-- A context error; a drained context, frozen; a dump; a decision; resets by Klota and by a function-level reset; a blocked save; a die that goes. -/
theorem witness_RecoveryEvents :
    (let m : Msg := ⟨0x0201, 0, 3, [], some errRec, none⟩
     (mailed m).mail.find? (fun x => x.type = 0x0201) = some m ∧ (mailed m).mail.find? (fun x => x.src = m.src && x.dst = m.dst) = some m ∧
       ((mailed m).ctxs.find? errRec.ctx).map (·.state) = some .active) ∧
    (let s := inCtx (fun c => { c with state := .frozen }) { a := 0 }; (s.ctxOf 0).state = .frozen ∧ (∀ f ∈ s.flights, s.mustDrain 0 f.2 = false) ∧ s.errorsComing 0 = false) ∧
    ((inCtx (fun c => { c with state := .dumping }) { a := 0 }).ctxOf 0).state = .dumping ∧
    (let m : Msg := ⟨0x0202, 3, 1, [0], none, none⟩
     (mailed m).mail.find? (fun x => x.type = 0x0202) = some m ∧ (mailed m).mail.find? (fun x => x.src = m.src && x.dst = m.dst) = some m ∧ ((mailed m).ctxs.find? 0).isSome = true) ∧
    (let r : KReq := ⟨none, 0x39, 0, 0, [0, 0], []⟩
     2 ≤ r.payload.length ∧ (ucWorld.ctxs.find? (reqField r 0 2)).map (fun c => (c.desc, c.state, c.vf)) = some (true, .active, 0)) ∧
    (let r : KReq := ⟨none, 0x38, 0, 0, [0, 0], []⟩
     let s := (inCtx (fun c => { c with state := .saveBlocked }) { req := r }).modJob 0 (fun j => { j with ctx := 0, save := some ⟨1, 0, 1, some 0⟩ })
     2 ≤ r.payload.length ∧ (s.ctxOf (reqField r 0 2)).state = .saveBlocked ∧ (s.jobsOf (reqField r 0 2)).map (fun e => e.2.save) = [some ⟨1, 0, 1, some 0⟩]) ∧
    (let m : Msg := ⟨0x0501, 3, 7, [0], some errRec, none⟩
     (mailed m).mail.find? (fun x => x.type = 0x0501) = some m ∧ (mailed m).mail.find? (fun x => x.src = m.src && x.dst = m.dst) = some m) ∧
    ((full.dieOf 0).lost = false ∧ world.lostCtxs 0 = [4096] ∧ (world.ctxs.find? 4096).map (·.state) = some .active) := by decide +kernel

/-- A shape class of 4 by 4 elements of format 1, with FP32 results. -/
def shape : Word := BitVec.ofNat 64 (1 + 3 * 2 ^ 24 + 3 * 2 ^ 16 + 2 ^ 12 + 2 ^ 8 + 7 * 2 ^ 4)
/-- A pool entry of `n` rows. -/
def entry (st : Fin 6) (n issued : Nat) : PoolEntry := ⟨st, 0, 0, 0, 4096, 0, 0, 0, 0, 7, n, 0, 0, 9, 0, 64, 0, 0, 0, 0, 0, n, issued⟩
/-- A pass with the given tasks. -/
def pass (ts : List PassTask) : Pass := ⟨0, ts, shape, 0, 9, [0], false, false, false, 0, 0, [], false, 0, 0, [], 0⟩
/-- `full` with that shape class, weights and epilogue, and with its Trowel changed. -/
def taskState (f : Trowel → Trowel) : State :=
  let s : State := { full.modSt (fun t => { t with s := t.s.set 9 (BitVec.ofNat 64 (2 ^ 32)) }) with shapes := [(0, shape)], wids := [(0, ⟨true, 0, 65536, 16, [], 0⟩)], args := { a := 0, b := 0 } }
  s.modCore 0 (fun x => { x with epilogues := [⟨9, [], 0⟩], trowel := f x.trowel, array := { x.array with holder := some .trowel } })

/-- A task of one row, and slots idle, busy and done; a deadline; a pass to form; weights to read; a term's three parts; a chunk that is not the last, and the last; rows to issue; and the last row performed. -/
theorem witness_SharedPasses :
    (let s := taskState id
     let o : OpTask := ⟨c0, 7, 0, 2, 9, 9⟩
     issuesB s c0 [.s 0, .s 2, .s 9] [] true true true = true ∧ s.settleEpilogues s.job.coreKey = s ∧ (s.job.slots[o.slot]).state.val = 0 ∧ s.core.isLoading s.cur.job o.hash = false ∧
       s.core.trowel.freeEntry = some 0 ∧ okIs (s.taskCheck o) (0, 64) = true) ∧
    (let s := full.modJob 0 (fun j => { j with slots := (j.slots.set 0 ⟨3, 0, 0⟩).set 1 ⟨4, 256, 0⟩ })
     issuesB s c0 [] [] true true true = true ∧ (s.job.slots[(0 : Fin 8)]).state.val = 3 ∧ 4 ≤ (s.job.slots[(1 : Fin 8)]).state.val) ∧
    (let s := taskState (fun t => { t with pool := [(0, entry 1 1 0)] })
     (s.trow 0).pool.find? 0 = some (entry 1 1 0) ∧ (entry 1 1 0).state = 1 ∧ (entry 1 1 0).deadline ≤ s.now ∧ (s.trow 0).front = none ∧ s.passLead 0 = some (0, entry 1 1 0)) ∧
    (let p := pass [⟨0, 256, 7⟩]
     let s := taskState (fun t => { t with front := some p })
     (s.trow 0).front = some p ∧ 255 < p.rows ∧ s.wids.find? p.wid = some ⟨true, 0, 65536, 16, [], 0⟩ ∧ s.homeBad 65536 (shapeK p.shape * shapeN p.shape * fmtBytes (shapeWfmt p.shape)) = false) ∧
    (let p (l q : Bool) : Pass := { pass [⟨0, 1, 7⟩] with loaded := l, paid := q }
     let s (l q : Bool) := taskState (fun t => { t with buffer := some (0, List.replicate 16 0), front := some (p l q) })
     (∀ l ∈ [false, true], ∀ q ∈ [false, true], ((s l q).coreOf 0).array.holder = some .trowel ∧ ((s l q).trow 0).front = some (p l q) ∧ ((s l q).coreOf 0).array.free ≤ (s l q).now) ∧
       ((s false false).pay 0 (shapeK shape * ((s false false).trow 0).weightEstimate (p false false)) false).isSome = true ∧
       ((s true false).pay 0 ((p true false).rows * (s true false).passEstimate 0 (p true false)) false).isSome = true) ∧
    (let p : Pass := { pass [⟨0, 256, 7⟩, ⟨1, 1, 8⟩] with written := 256 }
     let s := taskState (fun t => { t with front := some p })
     (s.trow 0).front = some p ∧ 256 * p.copied + 256 < p.rows ∧ 256 * p.copied + 256 ≤ p.written) ∧
    (let p : Pass := { pass [⟨0, 256, 7⟩] with written := 256, ran := true }
     let s := taskState (fun t => { t with front := some p })
     (s.trow 0).front = some p ∧ (s.trow 0).back = none ∧ 256 * p.copied < p.rows ∧ p.rows ≤ 256 * p.copied + 256 ∧ p.rows ≤ p.written ∧ p.ran = true) ∧
    (let p := pass [⟨0, 1, 7⟩]
     let k : Chunk := ⟨0, 0, 1, [], .empty, Vector.replicate 16 0⟩
     let s := taskState (fun t => { t with back := some p, chunks := [k] })
     (s.trow 0).chunks = k :: [] ∧ (s.trow 0).passOf k.pass = some p ∧ k.words = []) ∧
    (let p := pass [⟨0, 1, 7⟩]
     let u := taskState (fun t => { t with pool := [(0, entry 4 1 0)], back := some p })
     let s (n : Nat) := u.scrWrite full.job 64 (bytesOf 8 n) false
     (∀ n ∈ [2 ^ 59, 0], ((s n).trow 0).scattering = some p ∧ ((s n).trow 0).scatterAt ≤ (s n).now ∧ p.starts[p.scattered]? = some (⟨0, 1, 7⟩, 0) ∧
        ((s n).trow 0).entryOf ⟨0, 1, 7⟩ = some (entry 4 1 0) ∧ (entry 4 1 0).issued = 0) ∧
       (s (2 ^ 59)).taskCause (entry 4 1 0) ((s (2 ^ 59)).jobOf 0) p.shape = 0 ∧ (s 0).taskCause (entry 4 1 0) ((s 0).jobOf 0) p.shape ≠ 0) ∧
    (let s : State := { taskState (fun t => { t with pool := [(0, entry 4 256 256)] }) with flights := [(7, fl .array)] }
     (s.trow 0).pool.find? 0 = some (entry 4 256 256) ∧ (∀ a ∈ s.accesses, a.2.flight ≠ 7) ∧ (s.jobs.find? 0).isSome = true ∧ s.flights.find? 7 = some (fl .array) ∧
       (fl .array).ref.job = (entry 4 256 256).job) := by
  refine ⟨?_, ?_, ?_, ?_, ?_, ?_, ?_, ?_, ?_, ?_⟩ <;> decide +kernel

/-! ### Sampler contexts -/

/-- `full` with context 0 of die 0 running on its lane: k1 = 1, k2 = 15, k3 = 16, k4 = 2^63, k5 = 1.0, k6 = 2^20, k7 a NaN; depth 2, a working list of two entries. -/
def sampler (f : SCtx → SCtx) : State :=
  { full.modSctx 0 0 (fun c => f { c with
      state := .running, depth := 2, w := [(5, 0x3F800000), (4, 0)], pc := 16383
      k := ((((((c.k.set 1 1).set 2 15).set 3 16).set 4 (BitVec.ofNat 64 (2 ^ 63))).set 5 0x3F800000).set 6 1048576).set 7 0x7FC00000 }) with lane := (0, 0), args := { a := 0, b := 0 } }

theorem lane_runs (f : SCtx → SCtx) (h : ((sampler f).sctx.state = .running ∧ (sampler f).sctx.count < 65536)) : (sampler f).LaneRuns := ⟨h.1, h.2⟩

/-- The last word of a step; rolls of 15 and 16; jumps to the first and the last word, and past them. -/
theorem witness_SamplerRegisterWords : (sampler (fun c => { c with count := 65535 })).LaneRuns ∧ ((sampler id).word.kget 2).toNat = 15 ∧ 15 < ((sampler id).word.kget 3).toNat ∧
    ((sampler id).sctx.pc : Int) + (BitVec.ofInt 22 (-16383)).toInt = 0 ∧ ((sampler id).sctx.pc : Int) + (0 : BitVec 22).toInt < 16384 ∧
    ((sampler id).sctx.pc : Int) + (BitVec.ofInt 22 (-16384)).toInt < 0 ∧ 16384 ≤ ((sampler id).sctx.pc : Int) + (1 : BitVec 22).toInt ∧
    (sampler id).word.kget 0 = 0 ∧ (sampler id).word.kget 1 ≠ 0 ∧
    (let s := sampler (fun c => { c with count := 65536 }); s.sctx.state = .running ∧ 65536 ≤ s.sctx.count) :=
  ⟨lane_runs _ (by decide +kernel), by decide +kernel, by decide +kernel, by decide +kernel, by decide +kernel, by decide +kernel, by decide +kernel, by decide +kernel,
    by decide +kernel, by decide +kernel⟩
/-- Lists before and after `SSOFT`; positions needed and not, at the depth and past it; divisors of each kind. -/
theorem witness_SamplerListWords : (sampler id).LaneRuns ∧ (sampler id).word.prob = false ∧
    (let s := sampler (fun c => { c with prob := true }); s.sctx.state = .running ∧ s.sctx.count < 65536 ∧ s.word.prob = true ∧ s.word.w = (5, 0x3F800000) :: [(4, 0)]) ∧
    (let s := sampler (fun c => { c with phase := 2 })
     s.sctx.state = .running ∧ s.sctx.count < 65536 ∧ (s.word.kget 1).toNat ≤ s.word.depth ∧ (s.word.kget 1).toNat ∈ s.word.needed ∧ s.word.depth < (s.word.kget 2).toNat) ∧
    (1 ∉ (sampler id).word.needed ∧ (f32 ((sampler id).word.kf 5)).isNan = false ∧ (f32 ((sampler id).word.kf 5)).isZero = false ∧ (f32 ((sampler id).word.kf 5)).isNeg = false ∧
      (f32 ((sampler id).word.kf 7)).isNan = true ∧ (f32 ((sampler id).word.kf 0)).isZero = true) :=
  ⟨lane_runs _ (by decide +kernel), by decide +kernel, by decide +kernel, by decide +kernel, by decide +kernel⟩
/-- Positions at the depth and past it; no grammar, and masks that are valid, stale and poisoned; the longest wait and one longer; the last token; draft and verify steps; accepted tokens that fit and that
do not. -/
theorem witness_SamplerMasksAndDrafts : (sampler id).LaneRuns ∧ (sampler id).word.depth < ((sampler id).word.kget 2).toNat ∧ ((sampler id).word.kget 1).toNat ≤ (sampler id).word.depth ∧
    (sampler id).word.cfg.grammar = false ∧ ((sampler id).word.kget 6).toNat = 2 ^ 20 ∧ 2 ^ 20 < ((sampler id).word.kget 4).toNat ∧
    (let s := sampler (fun c => { c with cfg := { c.cfg with grammar := true } })
     let v := s.perform 0 0 (bytesOf 4 0 ++ bytesOf 4 1) false
     s.word.cfg.grammar = true ∧ s.maskValid s.word 0 = some false ∧ v.maskValid v.word 0 = some true ∧ v.word.w.map (fun e => e.1.toNat / 8) = [0, 0] ∧ v.word.maskSlot 0 = 0 ∧ v.homeBad 128 1 = false ∧
       (s.perform 0 0 (bytesOf 8 1) true).maskValid s.word 0 = none) ∧
    ((sampler id).word.kget 4).getLsbD 63 = true ∧ ((sampler id).word.kget 1).getLsbD 63 = false ∧
    (sampler (fun c => { c with out := List.replicate 8 0 })).word.out.length < 9 ∧ 9 ≤ (sampler (fun c => { c with out := List.replicate 9 0 })).word.out.length ∧
    (let s := sampler (fun c => { c with prob := true }); s.word.verify = false ∧ s.word.prob = true ∧ (s.word.kget 1).toNat < s.word.depth ∧ (s.word.kget 1).toNat < 8 ∧ s.word.depth ≤ (s.word.kget 2).toNat) ∧
    (let s (n : Nat) := sampler (fun c => { c with phase := 2, out := List.replicate n 0, k := c.k.set 8 3 })
     let m (n : Nat) := ((s n).word.kget 8).toNat % 256 % 2 ^ (s n).word.depth
     (s 7).word.verify = true ∧ (s 7).word.accDone = false ∧ onesFrom (m 7) (s 7).word.depth + (s 7).word.out.length = 9 ∧ onesFrom (m 8) (s 8).word.depth + (s 8).word.out.length = 10) ∧
    (sampler (fun c => { c with accDone := true })).word.accDone = true := by
  refine ⟨lane_runs _ (by decide +kernel), by decide +kernel, by decide +kernel, by decide +kernel, by decide +kernel, by decide +kernel, by decide +kernel, by decide +kernel,
    by decide +kernel, by decide +kernel, by decide +kernel, by decide +kernel, by decide +kernel, by decide +kernel⟩
/-- Seven lanes taken; a wait whose mask is stale, valid and poisoned, and one whose time is over; a context that sends; one that waits for a shard. -/
theorem witness_SamplerEvents :
    (let s := (sampler (fun c => { c with state := .ready })).modDie 0 (fun d => { d with sampler := { d.sampler with lanes := List.range' 1 7 } })
     (s.dieOf 0).sampler.lanes.length = 7 ∧ (s.dieOf 0).sampler.oldest 1 = some 0 ∧ (s.dieOf 0).sampler.oldest 0 = none) ∧
    (let s := sampler (fun c => { c with state := .maskwait, wait := some (1, 0, 0), cfg := { c.cfg with grammar := true } })
     (s.sctxOf 0 0).state = .maskwait ∧ (s.sctxOf 0 0).wait = some (1, 0, 0) ∧ s.maskValid (s.sctxOf 0 0) 0 = some false ∧ 0 ≤ s.now ∧
       (let v := s.perform 0 0 (bytesOf 4 0 ++ bytesOf 4 1) false; v.maskValid (v.sctxOf 0 0) 0 = some true) ∧
       (let v := s.perform 0 0 (bytesOf 8 1) true; v.maskValid (v.sctxOf 0 0) 0 = none)) ∧
    (MemOk (sampler id) ∧ (sampler id).sctx.state = .running ∧ (sampler id).sctx.count < 65536 ∧ (sampler id).sctx.short = none ∧ (sampler id).sctx.verify = false ∧
      (sampler (fun c => { c with phase := 2, short := some (0, 1) })).sctx.verify = true ∧ (sampler (fun c => { c with short := some (0, 1) })).sctx.short.isSome = true ∧
      (sampler id).migrations = []) ∧
    (let s := sampler (fun c => { c with state := .awaitReshard })
     (s.sctxOf 0 0).state = .awaitReshard ∧ (s.dieOf 7).lost = false ∧ s.args.flag = false ∧
       (let u : State := { s with args := { a := 0, b := 0, flag := true, word := 5 }, colls := [(5, ⟨2, 0, [], none, []⟩)] }; u.args.flag = true ∧ (u.colls.find? u.args.word.toNat).isSome = true)) := by
  refine ⟨by decide +kernel, by decide +kernel, by decide +kernel, by decide +kernel⟩

/-! ### The host, firmware and serving -/

/-- A request of PF 0. -/
def req (cmd : Nat) (payload : List Byte) : KReq := ⟨none, cmd, 7, 0, payload, []⟩
/-- `ucWorld` with its stage-2 leaf pinned. -/
def pinned : State := { ucWorld with s2 := [(tableKey 0 1 0, BitVec.ofNat 64 (2 ^ 54 + 2 ^ 53 + 2 ^ 51 + 2))] }
/-- The test of a message that stands first in the mail. -/
def receivesB (s : State) (p : Msg → Bool) (m : Msg) : Bool := decide (s.mail.find? p = some m) && decide (s.mail.find? (fun x => x.src = m.src && x.dst = m.dst) = some m)

theorem receives_of {s : State} {p : Msg → Bool} {m : Msg} (h : receivesB s p m = true) : s.Receives p m := by
  simp only [receivesB, Bool.and_eq_true, decide_eq_true_eq] at h
  exact ⟨h.1, h.2⟩

/-- As many requests as a mailbox holds, and one more; a request of each kind; a response with the last slot free; requests that run and that name no event; accesses to an aperture, of a VF assigned and of one that
is not; writes up to the last byte of the address space, and past it. -/
theorem witness_HostAccesses :
    (let s : State := { ucWorld with ready := true }
     s.ready = true ∧ (((64 : Word).setWidth 32 - (s.klotaOf none).reqHead).toNat = 64) ∧ (((65 : Word).setWidth 32 - (s.klotaOf none).reqHead).toNat = 65) ∧
       (((8 : Word).setWidth 32 - (s.klotaOf (some 191)).reqHead).toNat = 8) ∧ (((1 : Word).setWidth 32 - (s.klotaOf none).reqHead).toNat = 1)) ∧
    (cmdCore (reqOfSlot none (bytesOf 256 0) []).cmd = none ∧
      ((cmdCore (reqOfSlot none ([1, 0, 1] ++ bytesOf 253 0) []).cmd).isSome = true ∧ slotOk ([1, 0, 1] ++ bytesOf 253 0) = false) ∧
      (slotOk ([1] ++ bytesOf 255 0) = true ∧ (reqOfSlot none ([1] ++ bytesOf 255 0) []).cmd = 1) ∧
      (cmdCore (reqOfSlot none ([0x61] ++ bytesOf 255 0) []).cmd = some 6 ∧ slotOk ([0x61] ++ bytesOf 255 0) = true)) ∧
    (let s := ucWorld.modKlota none (fun k => { k with waiting := [[1]], rspTail := 63 }); (s.klotaOf none).waiting = [1] :: [] ∧ ((s.klotaOf none).rspTail - (s.klotaOf none).rspHead).toNat < 64) ∧
    (∀ p ∈ [(req 0x20 [], true), (req 0x30 [0, 0, 9, 0], false)], ∃ c, cmdCore p.1.cmd = some c ∧ c ≠ 0 ∧
      let m : Msg := ⟨0x0101, 0, c, [], none, some p.1⟩
      (mailed m).Receives (fun m => m.type = 0x0101 && m.dst = c) m ∧ (mailed m).coreBusy c = false ∧ (commandEvent p.1).isSome = p.2) ∧
    (let m : Msg := ⟨0x0102, 6, 0, [0, 9], none, some (req 0x60 [])⟩
     (mailed m).Receives (fun m => m.type = 0x0102 && m.src = 6) m ∧ m.payload = 0 :: ([9] : List Byte).map (·.toNat)) ∧
    (let s : State := { ucWorld with vfs := [(0, { Vf.init with part := some 0 })] }
     (s.vfs.getD 0 Vf.init).part.isSome = true ∧ (s.vaWrite 0 65536 [1]).isSome = true ∧ (s.vaRead 0 65536 1).isSome = true ∧ (s.vfs.getD 1 Vf.init).part = none) ∧
    (MemOk ucWorld ∧ 2 ^ 40 - 1 + ([1] : List Byte).length ≤ 2 ^ 40 ∧ 2 ^ 40 < 2 ^ 40 - 1 + ([1, 2] : List Byte).length ∧ ucWorld.migrations = []) := by
  refine ⟨by decide +kernel, by decide +kernel, by decide +kernel, ?_, ⟨receives_of (by decide +kernel), rfl⟩, by decide +kernel, by decide +kernel⟩
  intro p hp
  fin_cases hp
  · exact ⟨1, rfl, by decide, receives_of (by decide +kernel), by decide +kernel, by decide +kernel⟩
  · exact ⟨2, rfl, by decide, receives_of (by decide +kernel), by decide +kernel, by decide +kernel⟩

theorem freeFrom_here {used : List (Nat × Nat)} {n al f a : Nat} (h1 : ¬2 ^ 40 < a + n) (h2 : used.find? (fun r => overlap r.1 r.2 a n) = none) :
    freeFrom used n al (f + 1) a = some a := by rw [freeFrom, if_neg h1, h2]

theorem freeFrom_after {used : List (Nat × Nat)} {n al f a : Nat} {r : Nat × Nat} (h1 : ¬2 ^ 40 < a + n) (h2 : used.find? (fun r => overlap r.1 r.2 a n) = some r) :
    freeFrom used n al (f + 1) a = freeFrom used n al f ((r.1 + r.2 + al - 1) / al * al) := by rw [freeFrom, if_neg h1, h2]

/-- F2 always has a frame of 64 KiB where nothing is mapped, wherever its own GiB is. -/
theorem frame_free (s : State) (g k n : Nat) (hk : k = 1073741824) (hn : n = 65536) (h : s.usedRanges = [(g, k)]) : ∃ a, s.findFrame n n = some (a, s.draw) := by
  have h2 : ∃ a, freeFrom [(g, k)] n n (1 + 1) 0 = some a := by
    by_cases h0 : overlap g k 0 n = true
    · have hg : g < n := by simp only [overlap, Bool.and_eq_true, decide_eq_true_eq] at h0; omega
      refine ⟨_, (freeFrom_after (by omega) (List.find?_cons_of_pos h0)).trans (freeFrom_here (by subst hn hk; omega) (List.find?_cons_of_neg ?_))⟩
      simp only [overlap, Bool.and_eq_true, decide_eq_true_eq]
      subst hn hk; omega
    · exact ⟨_, freeFrom_here (by omega) (List.find?_cons_of_neg h0)⟩
  have hf : ∃ a, s.freeFrame n n = some a := by
    simp only [State.freeFrame, h]
    split
    · exact ⟨_, rfl⟩
    · exact h2
  obtain ⟨a, ha⟩ := hf
  exact ⟨a, by simp only [State.findFrame, State.frameFuel, State.takeFrame, ha]⟩
/-- Requests to F1, F5, F6 and F7 at the ends of their ranges, and the messages and boundaries that finish them. -/
theorem witness_FirmwareRequests :
    (∀ e ∈ [((.queueCreate : Instr), 0x20, (1 : Fin 8)), (.budgetSet, 0x61, 6)], (req e.2.1 []).cmd = e.2.1 ∧ (req e.2.1 []).payload = []) ∧
    (let r := req 0x20 ([255, 15] ++ bytesOf 8 (2 ^ 33) ++ bytesOf 8 128 ++ bytesOf 4 5)
     let e : Queue := ⟨BitVec.ofNat 64 (2 ^ 33) ||| 0x8000000000000000, 128, 5, 5, 0, 0, false, false, false⟩
     22 ≤ r.payload.length ∧ reqField r 0 2 = 4095 ∧ reqField r 2 8 = 2 ^ 33 ∧ (pinned.queueOf 4095).valid = false ∧ queueFieldsOk (2 ^ 33) 128 = true ∧ e.die ∈ pinned.diesOf e.part ∧
       (pinned.ctxOf e.ctx).desc = true ∧ e.direct = false ∧ pinned.framesAll e.base (128 * e.size) (fun x => x.1 = (pinned.ctxOf e.ctx).vf && entPinned x.2.2.2) = true ∧
       queueFieldsOk (2 ^ 62) 0 = true ∧ (⟨BitVec.ofNat 64 (2 ^ 62) ||| 0x8000000000000000, 0, 5, 5, 0, 0, false, false, false⟩ : Queue).direct = true) ∧
    (let r := req 0x21 [2, 0]
     2 ≤ r.payload.length ∧ (ucWorld.queueOf (reqField r 0 2)).valid = true ∧ (ucWorld.queueOf 2).wseq = (ucWorld.queueOf 2).rseq ∧ ucWorld.queueBusy 2 = false ∧
       (specState .running [] 0).queueBusy 2 = true ∧ ((specState .running [] 0).queueOf 2).valid = true) ∧
    (reqField (req 0x22 [255, 15]) 0 2 < 4096) ∧
    (let r := req 0x23 [7, 15, 0, 4]; reqField r 0 1 = 7 ∧ reqField r 1 1 = 15 ∧ reqField r 2 2 = 1024) ∧
    (let r := req 0x02 (bytesOf 8 0 ++ bytesOf 4 115328); 12 ≤ r.payload.length ∧ 115328 ≤ reqField r 8 4) ∧
    (let b := bytesOf 20 0 ++ bytesOf 2 1 ++ bytesOf 2 1024 ++ [1, 0, 1, 1, 1, 1, 1, 0] ++ bytesOf 8 0 ++ List.replicate 24 0xFF
     let r := req 0x10 ([15, 0, 0, 0] ++ b)
     68 ≤ r.payload.length ∧ reqField r 0 1 = 15 ∧ reqField r 1 3 = 0 ∧ sliceOf r.payload 4 64 = b ∧ ucWorld.partSetCheck 15 b = 0) ∧
    (let r := req 0x10 []
     let s : State := { ucWorld with staged := [(0, (bytesOf 64 0, r)), (1, (bytesOf 64 0, r))] }
     (∀ p ∈ [0, 1], s.staged.find? p = some (bytesOf 64 0, r)) ∧ s.partEntry 0 ≠ [] ∧ s.partEntry 1 = []) ∧
    (let m : Msg := ⟨0x0701, 7, 1, [0], none, none⟩
     (mailed m).Receives (fun m => m.type = 0x0701) m ∧ (mailed m).specsWhere (fun l => l.part = m.payload.headD 0) = []) ∧
    (let r := req 0x11 ([191, 0, 0, 0] ++ bytesOf 2 255 ++ bytesOf 2 0 ++ bytesOf 8 65536)
     16 ≤ r.payload.length ∧ reqField r 0 2 = 191 ∧ reqField r 2 1 = 0 ∧ reqField r 3 1 = 0 ∧ reqField r 6 2 = 0 ∧ (ucWorld.vfs.getD 191 Vf.init).part = none ∧
       entryValid (ucWorld.partEntry 0) = true ∧ (vfList (ucWorld.partEntry 0)).length < 12 ∧ reqField r 4 2 < 4096 ∧ ctxPart (reqField r 4 2) = 0 ∧ reqField r 8 8 % 65536 = 0) ∧
    (let r := req 0x11 ([191, 0, 255, 0] ++ bytesOf 12 0)
     let s : State := { ucWorld with vfs := [(191, { Vf.init with part := some 0 })] }
     16 ≤ r.payload.length ∧ reqField r 2 1 = 255 ∧ reqField r 3 1 = 0 ∧ reqField r 6 2 = 0 ∧ (s.vfs.getD (reqField r 0 2) Vf.init).part = some 0 ∧
       (∀ e ∈ s.queues, ¬(e.2.valid = true ∧ e.2.vf = 191)) ∧ ∀ c ∈ s.ctxs, ¬(c.2.desc = true ∧ c.2.vf = 191 ∧ c.2.state ≠ .empty)) ∧
    (let r := req 0x12 ([7] ++ bytesOf 7 0 ++ bytesOf 8 0x84)
     16 ≤ r.payload.length ∧ reqField r 0 1 = 7 ∧ reqField r 8 8 / 2 ^ 8 = 0 ∧ (reqField r 8 8).testBit 3 = false ∧ ucMaxspec (BitVec.ofNat 64 (reqField r 8 8)) = 8 ∧
       (ucWorld.dieOf 7).specs = []) ∧
    (let r := req 0x13 ([255] ++ bytesOf 8 shape.toNat)
     9 ≤ r.payload.length ∧ shapeOk (reqField r 1 8) = true ∧ ucWorld.anyTask (fun e => e.shape = 255 && 1 ≤ e.state.val && e.state.val ≤ 4) = false) ∧
    (reqField (req 0x14 [255, 15]) 0 2 = 4095 ∧ (∃ c ∈ ucWorld.ctxs, c.2.state ≠ .empty) ∧ ∀ c ∈ full.ctxs, c.2.state = .empty) ∧
    (reqField (req 0x61 [7, 15, 0, 0]) 0 1 = 7 ∧ reqField (req 0x61 [7, 15, 0, 0]) 1 1 = 15) ∧
    (∀ q ∈ [none, some (req 0x61 [])], let m : Msg := ⟨0x0601, 6, 1, [127, 65535], none, q⟩
     (mailed m).Receives (fun m => m.type = 0x0601) m ∧ m.payload = [127, 65535] ∧ m.req = q ∧ (mailed m).sensors = []) ∧
    (let r := req 0x60 ([4, 0, 0, 0] ++ bytesOf 4 356 ++ bytesOf 4 28)
     12 ≤ r.payload.length ∧ reqField r 1 3 = 0 ∧ reqField r 8 4 = 28 ∧ reqField r 4 4 + reqField r 8 4 = groupLen (reqField r 0 1)) ∧
    (let r := req 0x40 (bytesOf 4 16383 ++ bytesOf 20 0)
     24 ≤ r.payload.length ∧ reqField r 0 4 = 16383 ∧ reqField r 5 3 = 0 ∧ reqField r 16 8 = 0 ∧ ucWorld.anyTask (fun e => e.wid = 16383 && e.state ≠ 0) = false ∧
       ucWorld.widMapped 16383 = false) ∧
    (let r := req 0x40 (bytesOf 4 16383 ++ bytesOf 12 0 ++ bytesOf 8 1)
     24 ≤ r.payload.length ∧ reqField r 16 8 = 1 ∧ reqField r 0 4 = 16383 ∧ reqField r 5 3 = 0 ∧ full.anyTask (fun e => e.wid = 16383 && e.state ≠ 0) = false ∧ full.widMapped 16383 = false ∧
       ∃ pa u, (full.clearWid 16383).findFrame ((1 + 65535) / 65536 * 65536) 65536 = some (pa, u) ∧ u.validWids = []) ∧
    (let r := req 0x41 (bytesOf 48 0); 48 ≤ r.payload.length ∧ reqField r 12 4 = 0) := by
  refine ⟨by decide +kernel, by decide +kernel, by decide +kernel, by decide +kernel, by decide +kernel, by decide +kernel, by decide +kernel, by decide +kernel,
    ⟨receives_of (by decide +kernel), by decide +kernel⟩, by decide +kernel, by decide +kernel, by decide +kernel, by decide +kernel, by decide +kernel, by decide +kernel, ?_,
    by decide +kernel, by decide +kernel, ⟨by decide +kernel, by decide +kernel, by decide +kernel, by decide +kernel, by decide +kernel, by decide +kernel, ?_⟩, by decide +kernel⟩
  · intro q hq
    fin_cases hq
    · exact ⟨receives_of (by decide +kernel), rfl, rfl, by decide +kernel⟩
    · exact ⟨receives_of (by decide +kernel), rfl, rfl, by decide +kernel⟩
  · obtain ⟨a, ha⟩ := frame_free (full.clearWid 16383) _ _ _ rfl rfl rfl
    exact ⟨a, _, ha, by decide +kernel⟩

/-- A payload of `MAP`, `UNMAP` and `PIN`. -/
def mapping (id lo tgt len attr : Nat) : List Byte := bytesOf 8 id ++ bytesOf 8 lo ++ bytesOf 8 tgt ++ bytesOf 8 len ++ bytesOf 8 attr
/-- `ucWorld` with arguments. -/
def asked (g : Args) : State := { ucWorld with args := g }

/-- The last page of each address space mapped anew, and a page mapped over; the end of a change; pages unmapped, and one that is pinned; a context that is created; pins over the whole space. -/
theorem witness_PageRequests :
    (let r := req 0x30 (mapping 5 (2 ^ 48 - 65536) 65536 65536 0)
     40 ≤ r.payload.length ∧ sizeLevel (reqField r 32 8 % 4) = some 3 ∧ reqField r 0 2 = 5 ∧
       rangeOk (reqField r 8 8) (reqField r 16 8) (reqField r 24 8) (levelBytes 3) (2 ^ 48) = true ∧ ((ucWorld.ensureCtx 5).ctxOf 5).desc = false ∧
       leavesIn (ucWorld.ensureCtx 5).s1 5 (reqField r 8 8) (reqField r 24 8) = []) ∧
    (let r := req 0x30 (mapping 0 0 0 (2 ^ 30) 2)
     40 ≤ r.payload.length ∧ sizeLevel (reqField r 32 8 % 4) = some 1 ∧ rangeOk (reqField r 8 8) (reqField r 16 8) (reqField r 24 8) (levelBytes 1) (2 ^ 48) = true ∧
       (∀ u, ucWorld.fits u (ucWorld.vfOf 0) = true) ∧ leavesIn (ucWorld.ensureCtx 0).s1 0 (reqField r 8 8) (reqField r 24 8) ≠ []) ∧
    (let r := req 0x30 (mapping 191 (2 ^ 40 - 65536) 0 65536 0)
     sizeLevel (reqField r 32 8 % 4) = some 3 ∧ reqField r 0 2 = 191 ∧ rangeOk (reqField r 8 8) (reqField r 16 8) (reqField r 24 8) (levelBytes 3) (2 ^ 40) = true ∧
       (∀ u, ucWorld.fits u 191 = true) ∧ leavesIn ucWorld.s2 191 (reqField r 8 8) (reqField r 24 8) = [] ∧ leavesIn ucWorld.s2 0 0 65536 ≠ []) ∧
    entLeaf 2 = true ∧
    (∀ c ∈ [0x30, 0x31], let s := asked { req := req c (mapping 0 0 0 65536 0), flag := true, a := 0, b := 65536 }; s.args.req.cmd = c ∧ s.holders (Change.ofArgs s.args) = []) ∧
    (let r := req 0x31 (mapping 0 0 0 65536 0)
     32 ≤ r.payload.length ∧ unmapLevel (reqField r 8 8) (reqField r 24 8) = some 3 ∧ reqField r 0 2 = 0 ∧ reqField r 8 8 + reqField r 24 8 ≤ 2 ^ 48 ∧
       (leavesIn ucWorld.s1 0 0 65536).any (fun e => ucWorld.pinnedIn (ucWorld.vfOf 0) (entAddr e.2.2) (levelBytes e.1)) = false ∧ leavesIn ucWorld.s1 1 0 65536 = [] ∧
       ucWorld.pinnedIn 0 0 65536 = false ∧ pinned.pinnedIn 0 0 65536 = true) ∧
    (let b := bytesOf 8 0 ++ bytesOf 8 0 ++ bytesOf 8 65536 ++ bytesOf 8 65536 ++ bytesOf 4 0x4040 ++ [0xFE, 0, 0, 0] ++ bytesOf 24 0
     let r := req 0x30 (bytesOf 8 0 ++ b)
     let s : State := { pinned with
       s1 := [(tableKey 0 0 0, 1), (tableKey 0 1 0, 1), (tableKey 0 2 0, 1), (tableKey 0 3 0, BitVec.ofNat 64 (2 ^ 62 + 2)),
         (tableKey 0 3 65536, BitVec.ofNat 64 (2 ^ 62 + 65536 + 2))]
       ctxs := [(0, { Ctx.blank with desc := true })], vfs := [(0, { Vf.init with part := some 0 })] }
     72 ≤ r.payload.length ∧ sliceOf r.payload 8 64 = b ∧ s.ctxDescOk (reqField r 0 2) b = true ∧ (s.ctxOf 0).state = .empty ∧
       s.fits (s.describe (reqField r 0 2) b) (fieldOf b 38 2) = true) ∧
    (let r := req 0x30 (bytesOf 8 191 ++ bytesOf 8 (2 ^ 40 - 8192)); 16 ≤ r.payload.length ∧ reqField r 0 2 = 191 ∧ reqField r 8 8 % 8192 = 0 ∧ reqField r 8 8 < 2 ^ 40) ∧
    (let r := req 0x32 (mapping 191 0 0 (2 ^ 40) 0)
     32 ≤ r.payload.length ∧ reqField r 0 2 = 191 ∧ reqField r 8 8 % 65536 = 0 ∧ reqField r 24 8 % 65536 = 0 ∧ reqField r 8 8 + reqField r 24 8 ≤ 2 ^ 40) := by
  refine ⟨by decide +kernel, ⟨by decide +kernel, by decide +kernel, by decide +kernel, fun _ => rfl, by decide +kernel⟩,
    ⟨by decide +kernel, by decide +kernel, by decide +kernel, fun _ => rfl, by decide +kernel, by decide +kernel⟩, by decide +kernel, by decide +kernel, by decide +kernel,
    by decide +kernel, by decide +kernel, by decide +kernel⟩

/-- 20 R461: the walk of an address whose stage-1 root entry lies in a poisoned line reads poison. -/
theorem test_poisoned_table : ({ ucWorld with memPoison := [tableLine false (tableKey 0 0 0)] }.badTable 0 0 0).isSome = true := by
  simp [State.badTable, State.walkLines, keysFrom]

/-- A fault of page 0 of context 0. -/
def pfault : PFault := ⟨0, 0, 0, 0, 0, 0, 0, 0⟩

/-- A fault whose page translates, one without a stage-2 mapping, and one whose page is away; its answer; the last line of a migration, and the switch; the last byte of memory and the first past it; a parked task, for
each policy. -/
theorem witness_FaultsAndFrames :
    (let m : Msg := ⟨0x0301, 1, 2, [0], none, none⟩
     let s (t : Map Word) : State := { mailed m with faults := [(0, pfault)], s2 := t }
     receivesB (s ucWorld.s2) (fun m => m.type = 0x0301) m = true ∧ (s ucWorld.s2).faults.find? 0 = some pfault ∧ pfault.state = 0 ∧
       (∀ x ∈ (s ucWorld.s2).mail, ¬(x.type = 0x0302 ∧ x.payload.headD 0 = 0)) ∧ ((s ucWorld.s2).walk 0 0 0).1.valid = true ∧
       ((s []).walk 0 0 0).1.valid = false ∧ ((s []).walk 0 0 0).1.miss = missStage2) ∧
    (let s : State := { ucWorld with faults := [(0, pfault)], s1 := [(tableKey 0 0 0, 1), (tableKey 0 1 0, BitVec.ofNat 64 (2 ^ 62 + 3))], args := { a := 0 } }
     (s.walk 0 0 0).1.valid = false ∧ (s.walk 0 0 0).1.miss = missNotPresent ∧ leafAt s.s1 0 0 0 = some (1, BitVec.ofNat 64 (2 ^ 62 + 3)) ∧
       s.args.data.length ≠ (s.backRange 0 0 (levelBytes 1)).2) ∧
    (let m : Msg := ⟨0x0302, 2, 1, [0, 1], none, none⟩
     receivesB { mailed m with faults := [(0, pfault)] } (fun m => m.type = 0x0302) m = true) ∧
    (let m : Migration := ⟨5, 0, 2 ^ 35, 2 ^ 36, 65536, 511⟩
     let s : State := { ucWorld with migrations := [(0, m)], args := { a := 0, flag := true } }
     MemOk s ∧ s.migrations.find? 0 = some m ∧ 128 * m.copied < m.len ∧ m.len ≤ 128 * m.copied + 128 ∧ s.holders ⟨true, m.vf, m.ipa, m.len⟩ = [] ∧
       (s.revoke ⟨true, m.vf, m.ipa, m.len⟩).oldNamed m = false) ∧
    (let m : Msg := ⟨0x0401, 4, 1, [0, 0, 7], none, none⟩
     let s (p : BitVec 8) : State := { taskState (fun t => { t with pool := [(0, entry 5 1 0)] }) with mail := [m], ctxs := [(4096, { Ctx.blank with parkpolicy := p, state := .active })] }
     receivesB (s 0) (fun m => m.type = 0x0401) m = true ∧ ((s 0).trow 0).pool.find? 0 = some (entry 5 1 0) ∧ ((s 0).jobs.find? 0).isSome = true ∧
       ((s 0).ctxOf 4096).parkpolicy.getLsbD 0 = false ∧ ((s 1).ctxOf 4096).parkpolicy.getLsbD 0 = true ∧ ((s 1).ctxs.find? 4096).map (·.state) = some .active) := by
  refine ⟨?_, ?_, ?_, ?_, ?_⟩ <;> decide +kernel

/-- The first stage and the last; a reading just past a throttle limit, one at the release, and supplies just out of range; dies idle for 1 ms, and for one cycle less. -/
theorem witness_PowerAndBoot :
    (State.reset.ready = false ∧ State.reset.fatal = false ∧ State.reset.boot = 0 ∧ (let s : State := { State.reset with boot := 6 }; s.boot < 7)) ∧
    (throttleAt .power = some 3400000 ∧ 3400000 < 3400001 ∧ Sensor.power ∉ ucWorld.sensors ∧ sensorOnDie .power 7 = true) ∧
    (3400000 ≤ releaseAt .power ∧ Sensor.power ∈ [Sensor.power, .inlet]) ∧ (shutsDown .supply 379 = true ∧ shutsDown .supply 571 = true) ∧
    (let s : State := { full with now := 2400000 }
     (s.dieOf 5).gated = false ∧ (∀ e ∈ s.jobs, e.2.die = 5 → e.2.status ≠ .running ∧ e.2.status ≠ .resuming) ∧ (s.dieOf 5).idleSince + 2400000 ≤ s.now ∧
       2399999 < (s.dieOf 5).idleSince + 2400000) := by decide +kernel

/-- A vocabulary with the one token `a`. -/
def vocab : List Byte :=
  bytesOf 4 0x42414356 ++ bytesOf 4 1 ++ bytesOf 4 0 ++ bytesOf 4 0 ++ bytesOf 4 1 ++ bytesOf 4 1 ++ bytesOf 4 64 ++ bytesOf 4 72 ++ bytesOf 4 80 ++ bytesOf 4 80 ++ bytesOf 4 80 ++
    bytesOf 4 80 ++ bytesOf 4 1104 ++ bytesOf 12 0 ++ bytesOf 4 72 ++ bytesOf 4 1 ++ bytesOf 8 97 ++ bytesOf 1024 0 ++ (List.replicate 8 (bytesOf 4 0xFFFFFFFF ++ bytesOf 12 0)).flatten
/-- A service of VF 0 with `n` positions, and a ring of one stage on die 0 whose sampler takes two shards of one candidate. -/
def service (n : Nat) : List Byte := bytesOf 4 1 ++ bytesOf 2 0 ++ [15, 63] ++ bytesOf 4 n ++ bytesOf 4 0
def ringEntry : List Byte := [63, 1, 2, 0, 1, 0, 0, 0] ++ bytesOf 192 0

/-- Words up to the last of the program memory, and the last table entry; configurations that are refused, and a context that is not free; an image, a service, a ring and a grammar. -/
theorem witness_ServingRequests :
    (let r := req 0x50 ([7, 0] ++ bytesOf 2 16383 ++ bytesOf 2 1 ++ bytesOf 4 5)
     reqField r 0 1 = 7 ∧ reqField r 1 1 = 0 ∧ reqField r 4 2 = 1 ∧ 6 + 4 * 1 ≤ r.payload.length ∧ reqField r 2 2 + 1 = 16384) ∧
    (let r := req 0x50 ([7, 1, 255, 0] ++ bytesOf 4 16383); reqField r 0 1 ≤ 7 ∧ reqField r 1 1 = 1 ∧ 8 ≤ r.payload.length ∧ reqField r 4 4 < 16384) ∧
    (let r (n : Byte) := req 0x51 ([0, 255, 3] ++ [0, 0, n, 1] ++ bytesOf 124 0)
     131 ≤ (r 2).payload.length ∧ reqField (r 2) 0 1 = 0 ∧ reqField (r 2) 1 2 = 1023 ∧ (ucWorld.sctxOf 0 1023).state = .idle ∧ (cfgOf (sliceOf (r 2).payload 3 128)).ok = true ∧
       (cfgOf (sliceOf (r 1).payload 3 128)).ok = false ∧ ((sampler id).sctxOf 0 0).state ≠ .idle) ∧
    (let r := req 0x52 [7, 255, 3]; 3 ≤ r.payload.length ∧ reqField r 0 1 = 7 ∧ reqField r 1 2 = 1023) ∧
    (let r : KReq := { req 0x53 ([0, 0, 0, 0, 15] ++ bytesOf 15 0 ++ bytesOf 8 1232) with bulk := vocab }
     reqField r 1 3 = 0 ∧ 28 ≤ r.payload.length ∧ reqField r 4 1 = 15 ∧ reqField r 5 7 = 0 ∧ sliceOf r.bulk 0 (reqField r 20 8) = vocab ∧ vocOk vocab = true ∧
       ucWorld.inUse (fun q => q.vocab = 15) = false) ∧
    (let r := req 0x53 ([1, 0, 0, 0] ++ service 1048576)
     reqField r 1 3 = 0 ∧ 20 ≤ r.payload.length ∧ serviceOk (sliceOf r.payload 4 16) = true) ∧
    (let r := req 0x53 ([2, 0, 0, 0] ++ ringEntry)
     204 ≤ r.payload.length ∧ ringOk (sliceOf r.payload 4 200) = true ∧ pinned.pinnedFrames (fieldOf (sliceOf r.payload 4 200) 152 8) 65536 = true) ∧
    (let b := bytesOf 4 1 ++ bytesOf 2 0 ++ bytesOf 2 2 ++ bytesOf 8 0 ++ bytesOf 8 0 ++ bytesOf 4 1 ++ bytesOf 4 0
     let s : State := { pinned with queues := [(2, ring)] }
     sliceOf (req 0x53 ([3, 0, 0, 0] ++ b)).payload 4 32 = b ∧ fieldOf b 0 4 ≠ 0 ∧ (s.queueOf (fieldOf b 6 2)).valid = true ∧ (s.queueOf (fieldOf b 6 2)).direct = false ∧
       (s.queueOf (fieldOf b 6 2)).vf = fieldOf b 4 2 ∧ fieldOf b 16 8 % 128 = 0 ∧ fieldOf b 24 4 = 1 ∧ fieldOf b 16 8 + fieldOf b 24 4 * maskRegionBytes ≤ 2 ^ 40 ∧
       s.pinnedFrames (fieldOf b 16 8) (fieldOf b 24 4 * maskRegionBytes) = true) := by
  refine ⟨?_, ?_, ?_, ?_, ?_, ?_, ?_, ?_⟩ <;> decide +kernel

/-- A request in progress. -/
def request (stops : List (List Byte)) (maxtok : Nat) (fin : Bool) : Request := ⟨0, 9, 1, 63, 15, 0, 0, maxtok, stops, [97], 1, none, 0, [], [], 0, 0, fin⟩
/-- A package that serves, with a service of `n` positions, a request, and its tokeniser's and detokeniser's queues. -/
def serving (n : Nat) (r : Request) (i : DetokItem) : State :=
  { ucWorld.modDie 0 (fun d => { d with sampler := { d.sampler with table := [(0, 5)] } }) with
    etherUp := true, ready := true, sessions := [(0, ⟨0, [], 0⟩)], services := [(1, service n)], rings := [(63, ringEntry)], vocabs := [(15, vocab)]
    requests := [(4, r)], tokQ := [(0, [4])], detokQ := [(0, [i])], args := { a := 0 } }
/-- An envelope for that service: the text `a`, and one token at most. -/
def envelope : List Byte := [1, 0, 0, 0] ++ bytesOf 4 1 ++ bytesOf 8 9 ++ bytesOf 4 1 ++ bytesOf 4 0 ++ bytesOf 4 0 ++ bytesOf 4 1 ++ bytesOf 72 0 ++ [97]

/-- A port with room; an envelope that is sound, one for no service, one with too few positions, and one that finds no context; tokens that end a request in each way, and one that does not; a final frame, with no
message on its way and with one; a time with Ethernet down and with Ethernet up. -/
theorem witness_Serving :
    (let s := serving 2 (request [] 1 false) (.stop 4 67)
     s.etherUp = true ∧ s.sessions.find? 1 = none ∧ (∃ p < 8, (List.filter (fun e : Nat × Session => e.2.port = p) s.sessions).length < 8192) ∧ s.sessions.find? s.args.a = some ⟨0, [], 0⟩) ∧
    (let s (n : Nat) : State := { serving n (request [] 1 false) (.stop 4 67) with args := { a := 0, data := envelope } }
     (s 2).ready = true ∧ envelopeParts envelope = some ([], [97]) ∧ envelopeParts [] = none ∧ (s 2).services.find? (fieldOf envelope 4 4) = some (service 2) ∧
       (s 2).rings.find? (fieldOf (service 2) 7 1) = some ringEntry ∧ (s 2).vocabs.find? (fieldOf (service 2) 6 1) = some vocab ∧ (tokenise vocab [97]).length + fieldOf envelope 16 4 = 2 ∧
       fieldOf (service 2) 8 4 = 2 ∧ fieldOf (service 1) 8 4 = 1 ∧ (((s 2).dieOf (fieldOf ringEntry 3 1)).sampler.table.find? (fieldOf envelope 24 1)).isSome = true ∧
       (s 2).idleCtx 0 = some 0 ∧ fieldOf envelope 20 4 = 0 ∧ (cfgOf (servedBlock envelope (service 2) ringEntry 0 0)).ok = true) ∧
    (let s := serving 2 (request [] 1 false) (.stop 4 67)
     s.tokQ.getD s.args.a [] = 4 :: [] ∧ s.requests.find? 4 = some (request [] 1 false) ∧ faPkg (BitVec.ofNat 64 (fieldOf (s.rings.getD 63 []) 136 8)) = s.pkg ∧
       s.detokQ.getD s.args.a [] = .stop 4 67 :: []) ∧
    ((request [] 1 false).finished = false ∧ vocEnd vocab = 0 ∧ (1 : BitVec 32).toNat ≠ vocEnd vocab ∧ stopAt [] 0 (vocBytes vocab 1) = none ∧ (request [] 1 false).gen + 1 = 1 ∧
      (request [] 2 false).gen + 1 ≠ 2 ∧ stopAt [[98]] 0 ([98] ++ vocBytes vocab 1) = some 0) ∧
    (let s : State := { serving 2 (request [] 1 true) (.stop 4 67) with args := { a := 4 } }
     s.requests.find? s.args.a = some (request [] 1 true) ∧ s.messagesOf 4 (request [] 1 true) = false ∧
       (let u : State := { s with fmsgs := [(0, ⟨tokeniserKey 4, 0, 0, 0, [], false⟩)] }; u.messagesOf 4 (request [] 1 true) = true)) ∧
    ((999999999 : Word).toNat % 2 ^ 32 < 1000000000 ∧ full.etherUp = false ∧ (serving 2 (request [] 1 false) (.stop 4 67)).etherUp = true) := by
  refine ⟨?_, ?_, ?_, ?_, ?_, ?_⟩ <;> decide +kernel

theorem find_listed {α : Type} (f : Nat → α) (c : Nat) : ∀ l : List Nat, c ∈ l → Map.find? (l.map (fun i => (i, f i))) c = some (f c)
  | [], h => by cases h
  | a :: l, h => by
    simp only [List.map_cons, Map.find?]
    split
    · rename_i e; rw [e]
    · rename_i e
      exact find_listed f c l ((List.mem_cons.mp h).resolve_left (fun k => e k.symm))

/-- A die whose contexts are all taken. -/
theorem witness_Serving_full :
    let s := full.modDie 0 (fun d => { d with sampler := { d.sampler with ctxs := (List.range 1024).map (fun i => (i, { SCtx.blank with state := .waiting })) } })
    s.idleCtx 0 = none := by
  refine List.find?_eq_none.mpr (fun c hc => ?_)
  have h := find_listed (fun _ => ({ SCtx.blank with state := .waiting } : SCtx)) c _ hc
  have e : ((full.modDie 0 (fun d => { d with sampler := { d.sampler with ctxs := (List.range 1024).map (fun i => (i, { SCtx.blank with state := .waiting })) } })).sctxOf 0 c) =
      { SCtx.blank with state := .waiting } := by
    simp only [State.sctxOf, State.dieOf_modDie_self, Map.getD, h, Option.getD_some]
  rw [e]
  decide

/-- `State.reset` with `NOP` placed, and with a sampler word placed. -/
def placed : State := State.reset.placeWord 96 (0x001 * 2 ^ 86)
def placedWord : State := State.reset.placeWord 32 (0x12 * 2 ^ 26)

/-- A command, a sampler word, an event, a completion point, and nothing due. -/
theorem witness_StepRunsDecoded :
    (∃ e r x w i, placed.choose = some e ∧ e.move = .stream r ∧ (placed.taken e).AtCommand r x w none ∧ decodeCommand r.letter ((placed.taken e).strOf r).ext w none = .ok i ∧
      (placed.taken e).MayStand r x w none i) ∧
    (∃ e i, placedWord.choose = some e ∧ e.move = .lane 0 0 ∧ (placedWord.sctxOf 0 0).state = .running ∧ (placedWord.sctxOf 0 0).pc < 16384 ∧
      decodeSampler ((placedWord.dieOf 0).sampler.words.getD (placedWord.sctxOf 0 0).pc 0).toNat = some i) ∧
    (∃ e, State.reset.choose = some e ∧ e.move = .event .bootStage {}) ∧
    (let s : State := { full with agenda := [⟨0, .finish 3⟩] }; s.choose = some ⟨0, .finish 3⟩) ∧ full.choose = none := by
  refine ⟨⟨⟨0, .stream ⟨0, .a⟩⟩, ⟨0, .a⟩, ((placed.jobOf 0).stream .a).sect.getD ⟨0, 0⟩, 0x001 * 2 ^ 86, .nop ⟨c0⟩, by decide +kernel, rfl, ?_, by decide +kernel, ?_⟩, ⟨⟨0, .lane 0 0⟩, .sadd 0 0 0, ?_⟩,
    ⟨⟨0, .event .bootStage {}⟩, by decide +kernel⟩, by decide +kernel, by decide +kernel⟩
  · exact ⟨by decide +kernel, by decide +kernel, by decide +kernel, by decide +kernel, by decide +kernel, by decide +kernel, by decide +kernel, by decide +kernel, by decide +kernel,
      .inl (by decide +kernel), .inl (by decide +kernel), .inl (by decide +kernel), by decide +kernel, by decide +kernel, fun _ => rfl,
      fun _ h => absurd h (by decide +kernel), by decide +kernel⟩
  · exact ⟨fun _ => by decide +kernel, fun _ => by decide +kernel, fun h => absurd h (by decide +kernel)⟩
  · decide +kernel

/-- A step from a state whose memory is in its form. -/
theorem witness_StepKeepsMemory : MemOk full ∧ step full = .next full.tick := ⟨by decide +kernel, by rfl⟩
/-- An unassigned code. -/
theorem witness_DecodeWords : opRow (bitsAt (0x3FF * 2 ^ 86) 86 10) = none ∧ bitsAt (0x3FF * 2 ^ 86) 86 10 ≠ opcExt := by decide +kernel

/-! ### Ill-formed terms -/

/-- One term for each check of `wf`, which refuses it. -/
theorem test_wf_refuses :
    ([.notify ⟨{ c0 with pred := 3 }⟩, .rdv ⟨{ c0 with neg := true }, 0⟩, .pseti ⟨c0, 0, true⟩, .pmovPp ⟨c0, 0, 1⟩, .pmovPs ⟨c0, 0, 1⟩, .pand ⟨c0, 0, 1, 2⟩, .por ⟨c0, 0, 1, 2⟩,
      .pxor ⟨c0, 0, 1, 2⟩, .pnot ⟨c0, 0, 1⟩, .punres ⟨c0, 0⟩, .cmp ⟨c0, .eq, 0, 1, 2⟩, .cmpImm ⟨c0, .eq, 0, 1, 2⟩, .fcmp ⟨c0, .eq, 0, 1, 2⟩, .vany ⟨c0, 0, 1, 2, 0⟩, .vall ⟨c0, 0, 1, 2, 0⟩,
      .ptb ⟨c0, 0, 2⟩, .ptbr ⟨c0, 0, 0, 1⟩, .loop ⟨c0, 1, 2⟩, .loopr ⟨c0, 1, 2⟩, .qpopp ⟨c0, 0, 1⟩, .bfx ⟨c0, 1, 2, 0, 0⟩, .bfxS ⟨c0, 1, 2, 1, 64⟩, .bfi ⟨c0, 1, 2, 63, 2⟩, .fclass ⟨c0, 1, 2, 0⟩,
      .csrr ⟨c0, 1, 0x003⟩, .csrw ⟨c0, 1, 0x020, .reg 1⟩, .csrs ⟨c0, 1, 0x028, .reg 1⟩, .csrc ⟨c0, 1, 0x070, .reg 1⟩, .lds ⟨c0, 1, 2, 4, false, 0⟩, .sts ⟨c0, 1, 2, 4, 0⟩, .ldg ⟨c0, 1, 2, 3, 3, true⟩,
      .stg ⟨c0, 31, 2, 3, 4⟩, .htestP ⟨c0, 0, 1⟩, .acscpOut ⟨c0, 1, 2, 3, 7, 1, 191⟩, .acscpIn ⟨c0, 1, 2, 3, true, 192, 0⟩, .awrd ⟨c0, 1, 2, 0⟩, .awrdClr ⟨c0, 3, 2, 0⟩,
      .sacc ⟨c0, 1, 2, 3, 0, 262, 1000⟩, .saccg ⟨c0, 1, 2, 3, 4, 0, 32767, 8⟩, .vadd ⟨c0, 1, .scalar 1 7, .scalar 2 7⟩, .vsub ⟨c0, 1, .scalar 1 7, .scalar 2 7⟩,
      .vmul ⟨c0, 1, .scalar 1 7, .scalar 2 7⟩, .vfma ⟨c0, 1, .scalar 1 7, .gen 2, .scalar 2 7⟩, .vmin ⟨c0, 1, .scalar 1 7, .scalar 2 7⟩, .vmax ⟨c0, 1, .scalar 1 7, .scalar 2 7⟩,
      .vcmp ⟨c0, .eq, 1, .scalar 1 7, .scalar 2 7⟩, .vsel ⟨c0, 1, 2, .scalar 1 7, .scalar 2 7⟩, .vand ⟨c0, 1, .scalar 1 7, .scalar 2 7⟩, .vor ⟨c0, 1, .scalar 1 7, .scalar 2 7⟩,
      .vxor ⟨c0, 1, .scalar 1 7, .scalar 2 7⟩, .vshl ⟨c0, 1, .scalar 1 7, .scalar 2 7⟩, .vshr ⟨c0, 1, .scalar 1 7, .scalar 2 7⟩, .vshrA ⟨c0, 1, .scalar 1 7, .scalar 2 7⟩,
      .vclamp ⟨c0, 1, .gen 1, .scalar 2 7, .scalar 3 7⟩, .vchain ⟨c0, 1, 2, none, none, 0, 0, []⟩, .vchain ⟨c0, 1, 2, none, none, 0, 0, [(.mul, .y)]⟩, .vzip ⟨c0, 1, 2, 3, none, some 4⟩,
      .vunzip ⟨c0, 1, 2, 3, none, some 4⟩, .lease ⟨c0, 33⟩, .lease ⟨c0, 0⟩, .launch ⟨c0, 1, 0, 2, 3, 0⟩] : List Instr).all (fun i => !i.wf) = true := by decide +kernel

/-! ### Words of the spec's worked cases -/

/-- 07 R211: `PTB b1, found`, `LOOP 10, bend` and `BR b1, p3`; 08 R218: `ADDI s9, s8, -16`. -/
theorem test_decode_scalar :
    decodeCommand .x none 0x0AC000000004000000000054 none = .ok (.ptb ⟨c0, 1, 0x54⟩) ∧ decodeCommand .x none 0x0C0000000000000A0003000F none = .ok (.loop ⟨c0, 10, 15⟩) ∧
    decodeCommand .x none 0x0B4000000004300000000000 none = .ok (.br ⟨c0, 1, false, 3⟩) ∧
    decodeCommand .x none 0x1440000000094000FFFFFFF0 none = .ok (.addi ⟨c0, 9, 8, 0xFFFFFFFFFFFFFFF0⟩) := by decide +kernel
/-- 06 R180: an `EXT` before a `MOVI`; with a value in both; before an `ADD`; a second word that is none; an `EXT` with bit 85 set. -/
theorem test_decode_ext :
    decodeCommand .a (some 0x100000000) (0x06E * 2 ^ 86 + 9 * 2 ^ 48) none = .ok (.movi ⟨c0, 9, 0x100000000⟩) ∧
    decodeCommand .a (some 0x100000000) (0x06E * 2 ^ 86 + 9 * 2 ^ 48 + 1) none = .error 3 ∧ decodeCommand .a (some 1) (0x050 * 2 ^ 86) none = .error 6 ∧
    decodeCommand .a none (0x0C1 * 2 ^ 86) (some (0x001 * 2 ^ 86)) = .error 6 ∧ decodeCommand .a none (0x002 * 2 ^ 86 + 2 ^ 85) none = .error 3 := by decide +kernel
/-- 10 R296: `VCHAIN g4, g1, g2, none, s8, 7, MUL.Y, ADD.K`. 11 R313: `MROWS.SET 64, t3, s0, 2`. 15 R400: `TASK 0, [s20], [s21], s22, …  !w 1,1 !s 4,1`. 15: `BSMM.SET 0, t0, t1, [s13], s1 !w 3,5 !s 2,1`. -/
theorem test_decode_units :
    decodeCommand .v none 0x5000000000040880080000E8 (some 0x008000000000000000000B21) = .ok (.vchain ⟨c0, 4, 1, some 2, none, 8, 7, [(.mul, .y), (.add, .k)]⟩) ∧
    decodeCommand .m none 0x598000000001801000410000 none = .ok (.mrows ⟨c0, 64, 3, 0, 1, true⟩) ∧
    decodeCommand .m none 0x5C0101030414AD8000000000 (some 0x008000000123456789ABCDEF) = .ok (.task ⟨⟨false, 0, some (1, 1), some (4, 0)⟩, 0, 20, 21, 22, 0x0123456789ABCDEF⟩) ∧
    decodeCommand .m none 0x5A41030B0200020000016840 none = .ok (.bsmm ⟨⟨false, 0, some (3, 5), some (2, 0)⟩, 0, 0, 1, 13, 1, true⟩) := by decide +kernel
/-- 12 R344 and 16: sampler words; opcodes 0x00 and 0x1D, and a field that is not used, are none. -/
theorem test_decode_sampler :
    [0x2D500000, 0x60FFFFFC, 0x56E68800, 0x5EC00009, 0x30AC0000, 0x442C0000, 0x550C9800, 0x613FFFF4, 0x43700000].map decodeSampler =
      [some (.spick 5 4), some (.sjnz 3 (-4)), some (.scmp 2 11 9 10), some (.sjz 11 9), some (.sratio 2 11), some (.sroll 11), some (.scmp 6 4 3 2), some (.sjnz 4 (-12)), some (.saccept 13 12)] ∧
    [0, 0x74000000, 0x2D500001].map decodeSampler = [none, none, none] := by decide +kernel
/-- By 06 R178 and R179, `SHLI` by 63 and by 64, `TLD` of tile 47 and of 48, `ACSZERO 2047, 256`; and 06 R181's `LDG` in stream `M`. -/
theorem test_decode_fields :
    decodeCommand .a none (0x061 * 2 ^ 86 + 1 * 2 ^ 48 + 2 * 2 ^ 43 + 63) none = .ok (.shli ⟨c0, 1, 2, 63⟩) ∧ decodeCommand .a none (0x061 * 2 ^ 86 + 1 * 2 ^ 48 + 2 * 2 ^ 43 + 64) none = .error 5 ∧
    decodeCommand .m none (0x162 * 2 ^ 86 + 47 * 2 ^ 47 + 5 * 2 ^ 30 + 2 * 2 ^ 22 + 7 * 2 ^ 11 + 8 * 2 ^ 6) none = .ok (.tld ⟨c0, 47, 5, 2, 7, 8⟩) ∧
    decodeCommand .m none (0x162 * 2 ^ 86 + 48 * 2 ^ 47) none = .error 5 ∧ decodeCommand .m none (0x168 * 2 ^ 86 + 2047 * 2 ^ 30 + 255 * 2 ^ 22) none = .ok (.acszero ⟨c0, 2047, 255⟩) ∧
    decodeCommand .m none (0x0B2 * 2 ^ 86 + 1) none = .error 2 := by decide +kernel

/-! ### One step of an instruction -/

/-- `ready` with s2 and s3 holding `b` and `c`. -/
def regs (b c : Word) : State := ready.modSt (fun t => { t with s := (t.s.set 2 b).set 3 c })

/-- What s1 holds once the command has completed. -/
def result (i : Instr) (s : State) : Option Nat :=
  match exec i s with
  | .next t =>
    match t.flights.getLast? with
    | none => some (t.st.sget 1).toNat
    | some f => some ((t.finishLate f.1).st.sget 1).toNat
  | _ => none

/-- 08 R220's worked case. -/
theorem test_divide :
    result (.div ⟨c0, 1, 2, 3⟩) (regs 7 (-2)) = some (2 ^ 64 - 3) ∧ result (.rem ⟨c0, 1, 2, 3⟩) (regs 7 (-2)) = some 1 ∧ result (.rem ⟨c0, 1, 2, 3⟩) (regs (-7) 2) = some (2 ^ 64 - 1) ∧
    result (.rem ⟨c0, 1, 2, 3⟩) (regs 9 0) = some 9 ∧ result (.mulh ⟨c0, 1, 2, 3⟩) (regs (-1) 2) = some (2 ^ 64 - 1) ∧ result (.mulhu ⟨c0, 1, 2, 3⟩) (regs (-1) 2) = some 1 ∧
    result (.div ⟨c0, 1, 2, 3⟩) (regs 0x8000000000000000 (-1)) = some (2 ^ 63) := by decide +kernel
/-- 08 R226's worked case: `FCVT`. -/
theorem test_fcvt :
    result (.fcvt ⟨c0, 1, 2, 7, 1⟩) (regs 0x43960000 0) = some 0x79 ∧ result (.fcvt ⟨c0, 1, 2, 7, 1⟩) (regs 0x43FA0000 0) = some 0x7F ∧
    result (.fcvt ⟨c0, 1, 2, 7, 0⟩) (regs 0xC3038000 0) = some 0xFFFFFFFFFFFFFF80 ∧ result (.fcvt ⟨c0, 1, 2, 9, 8⟩) (regs 0x100000000 0) = some 0x7FFFFFFF ∧
    result (.fcvt ⟨c0, 1, 2, 7, 4⟩) (regs 0x40A00000 0) = some 0x18 := by decide +kernel
/-- 08 R218: the register s0 keeps 0, and a shift takes the low six bits of its count. -/
theorem test_zero_register : (match exec (.add ⟨c0, 0, 2, 3⟩) (regs 5 6) with | .next t => decide (t.st.sget 0 = 0 ∧ t.st.pc = ready.st.pc + 12) | _ => false) = true ∧
    result (.shl ⟨c0, 1, 2, 3⟩) (regs 1 65) = some 2 := by decide +kernel
/-- 06 R177: a guard that is false discards the command, which still signals. -/
theorem test_guard_false :
    (match exec (.add ⟨⟨true, 1, none, some (9, 0)⟩, 1, 2, 3⟩) (regs 5 6) with
     | .next t => decide (t.st.sget 1 = 0 ∧ (t.job.late.sigs.map (·.1)) = [9] ∧ t.st.pc = ready.st.pc + 12)
     | _ => false) = true := by decide +kernel
/-- 09: a store holds its bytes, lowest first; a load extends with the sign or with zeros. -/
theorem test_scratch :
    (match exec (.sts ⟨c0, 2, 3, 2, 4⟩) (regs 0xF0F1F2F3 64) with
     | .next t => decide ((t.flights.map (fun f => match f.2.work with | .data d => some d.op | _ => none)) = [some (.store 68 [0xF3, 0xF2, 0xF1, 0xF0])])
     | _ => false) = true ∧
    loadOwed 1 1 true 0xF2F3 = [.s 1 0xFFFFFFFFFFFFF2F3] ∧ loadOwed 1 2 false 0xF0F1F2F3 = [.s 1 0xF0F1F2F3] := by decide +kernel

/-- 07 R195: `TRAP` with a code raises cause 3 with that information. -/
theorem test_trap : (match exec (.trap ⟨c0, 0xABCD⟩) ready with | .next t => decide (t.st.traps.map (fun p => (p.cause, p.info)) = [(Cause.trap, 0xABCD)]) | _ => false) = true := by decide +kernel
/-- 12 R342: mix 0 at SEED 0 and counter 0 draws +0; the counter moves on. -/
theorem test_draw : (match exec (.sdraw 1) (sampler id) with | .next t => decide ((t.sctxOf 0 0).ctr = 1 ∧ (t.sctxOf 0 0).kget 1 = 0) | _ => false) = true := by decide +kernel
/-- FIPS 180-4, 4.2.2: the first and the last of the published round constants of SHA-256. -/
theorem test_root_fractions : rootFraction 3 2 = 0x428a2f98 ∧ rootFraction 3 311 = 0xc67178f2 := by decide +kernel
/-- 19 R433: a wake of the ring's size is taken, one more is an overrun. -/
theorem test_wake : (ring.wake 2).wseq = 2 ∧ (ring.wake 2).pending = true ∧ (ring.wake 3).overrun = true ∧ (ring.wake 3).wseq = 0 ∧ (ring.wake 0).stale = 1 := by decide +kernel

/-- A command with its highest register numbers, a sampler word, and an `EXT` before a command. -/
theorem witness_EncodeDecode : (Instr.add ⟨c0, 31, 31, 31⟩).wf = true ∧ (encodeCommand (.add ⟨c0, 31, 31, 31⟩)).isSome = true ∧ (encodeSampler (.sadd 15 15 15)).isSome = true ∧
    decodeWord .a (some 0x100000000) (0x06E * 2 ^ 86 + 9 * 2 ^ 48) none = .ok (.movi ⟨c0, 9, 0x100000000⟩) := by decide +kernel

end Sys2Proof.Tests
end

namespace Sys2Proof.Machine

/-! ### Arrivals and releases (01 R22 to R25, 07 R192, R193) -/

/-- A command whose body waits stands past its guard. -/
theorem command_wait {s e : State} {c : Ctl} {u : Use} {f : State → Act} (h : s.Issues c u.regs u.preds u.gw u.ga u.irrev) (hf : f s = .wait e) :
    command c u f s = .next e.begin := by
  rw [command_next h, hf]; rfl

@[simp] theorem State.setFlags_agenda (s : State) (r : Ref) (fl : BitVec 5) : (s.setFlags r fl).agenda = s.agenda := by
  unfold State.setFlags; dsimp only; split
  · rfl
  · split <;> simp

@[simp] theorem State.complete_agenda (s : State) (r : Ref) (g : Option (BitVec 8 × BitVec 3)) (fl : BitVec 5) : (s.complete r g fl).agenda = s.agenda := by
  unfold State.complete; dsimp only; split <;> simp [State.signal]

/-- What a command that completes at issue has put on the agenda stays there. -/
theorem State.mem_agenda_act_done {s e : State} {c : Ctl} {u : Use} {fl : BitVec 5} {x : Entry} (hl : u.lat = 0) (h : x ∈ e.agenda) :
    x ∈ (s.act c u (.done e fl)).agenda := by
  simp only [State.act, State.slowDone, hl, if_true]
  exact State.mem_agenda_onward (by simpa using h)

@[simp] theorem State.fenceStart_cur (s : State) (r : Ref) (x : Scope) : (s.fenceStart r true x).cur = s.cur := by
  unfold State.fenceStart; dsimp only; split <;> rfl

@[simp] theorem State.fenceStart_jobs (s : State) (r : Ref) (x : Scope) : (s.fenceStart r true x).jobs = s.jobs := by
  unfold State.fenceStart; dsimp only; split <;> rfl

/-- The end of a stream is its mark, and what it raises for its job. -/
theorem State.Moved.endStream (s : State) : State.Moved s.cur (s.modSt (fun t => { t with ended := true })) s.endStream := by
  unfold State.endStream
  dsimp only
  split
  · split <;> exact .post _ _ _ _ _
  · exact .refl _ _

/-- The job of the running stream after a change of the stream. -/
theorem State.jobOf_modSt_self (s : State) (f : Stream → Stream) (h : (s.jobs.find? s.cur.job).isSome = true) :
    (s.modSt f).jobOf s.cur.job = s.job.setStream s.cur.letter (f s.st) := s.jobOf_modRef_self f h

/-- The last stream of a job that ends raises the job's completion (01 R26). -/
theorem State.jobComplete_mem_endStream {s : State} (h : (s.jobs.find? s.cur.job).isSome = true)
    (he : ∀ l, l ≠ s.cur.letter → (s.job.stream l).ended = true) (hp : s.job.prologue = false) :
    ⟨s.now + 1, .event .jobComplete { a := s.cur.job }⟩ ∈ s.endStream.agenda := by
  have hall : letters.all (fun l => ((s.modSt (fun t => { t with ended := true })).job.stream l).ended) = true := by
    refine List.all_eq_true.mpr fun l _ => ?_
    have hj := s.jobOf_modSt_self (fun t => { t with ended := true }) h
    simp only [State.job, State.modSt_cur] at hj ⊢
    rw [hj]
    by_cases hl : l = s.cur.letter
    · subst hl; rw [Job.stream_setStream]
    · rw [Job.stream_setStream_ne _ _ hl]; exact he l hl
  unfold State.endStream
  simp only [hall, if_true, hp, Bool.false_eq_true, if_false]
  simp [State.post]

/-- `NOTIFY` behind its stream's earlier commands ends the stream. -/
theorem execNotify_ends {o : Op0} {s : State} (h : s.Issues o.c []) (hb : s.busy s.cur = false) :
    ∃ t, execNotify o s = .next t ∧ s.Done (s.modSt (fun t => { t with ended := true })) o.c 0 t ∧ ∀ x ∈ s.endStream.agenda, x ∈ t.agenda := by
  have hm := State.Moved.endStream s
  have hj : (s.endStream.jobs.find? s.cur.job).isSome = true := by
    unfold State.endStream
    dsimp only
    split
    · split <;> simpa using h.listed
    · simpa using h.listed
  have hc : s.endStream.cur = s.cur := hm.frame.cur.trans (by simp)
  refine ⟨_, command_next h, ?_, ?_⟩
  · simp only [hb, Bool.false_eq_true, if_false]
    exact (State.act_done rfl hc hj).of_frame hm
  · simp only [hb, Bool.false_eq_true, if_false]
    exact fun x hx => State.mem_agenda_act_done rfl hx

/-- A rendezvous that has released lets its streams go on (01 R22). -/
theorem execRdv_released {o : OpN} {s : State} {k : Nat} (h : s.Issues o.c []) (ha : s.st.arrived = some k) (hk : k ≤ s.now) :
    ∃ t, execRdv o s = .next t ∧ s.Done (s.modSt (fun t => { t with rdv := none, arrived := none })) o.c 0 t :=
  command_modSt h rfl (by simp [rdvBody, ha, hk])

/-- What a change of the running stream keeps of a stream, it keeps of all. -/
theorem State.strOf_modSt_keep {α : Type} (g : Stream → α) (s : State) (f : Stream → Stream) (hf : ∀ t, g (f t) = g t) (r : Ref) :
    g ((s.modSt f).strOf r) = g (s.strOf r) := by
  unfold State.strOf
  by_cases hr : r.job = s.cur.job
  · rw [hr]
    by_cases h : (s.jobs.find? s.cur.job).isSome = true
    · rw [s.jobOf_modSt_self f h]
      by_cases hl : r.letter = s.cur.letter
      · rw [hl, Job.stream_setStream]; exact hf _
      · rw [Job.stream_setStream_ne _ _ hl]; rfl
    · have : (s.modSt f).jobs.find? s.cur.job = s.jobs.find? s.cur.job := by
        rw [Option.not_isSome_iff_eq_none] at h
        simp [State.modSt, State.modRef, State.jobs_modJob, h]
      simp [State.jobOf, Map.getD, this]
  · rw [State.modSt, State.modRef, State.jobOf_modJob_ne _ _ hr]

theorem State.begin_rdv (s : State) (r : Ref) : (s.begin.strOf r).rdv = (s.strOf r).rdv := s.strOf_modSt_keep Stream.rdv (fun t => { t with begun := true }) (fun _ => rfl) r
theorem State.begin_arrived (s : State) (r : Ref) : (s.begin.strOf r).arrived = (s.strOf r).arrived := s.strOf_modSt_keep Stream.arrived (fun t => { t with begun := true }) (fun _ => rfl) r

/-- The state in which the running stream has arrived at rendezvous `n`. -/
def State.atRdv (s : State) (n : Fin 16) : State := s.modSt (fun t => { t with rdv := some n })

theorem State.atRdv_job {s : State} (h : (s.jobs.find? s.cur.job).isSome = true) (n : Fin 16) :
    (s.atRdv n).job = s.job.setStream s.cur.letter { s.st with rdv := some n } := by
  rw [State.job, State.atRdv, State.modSt_cur]
  exact s.jobOf_modSt_self _ h

/-- Whether the arrival at `n` completes the rendezvous: the other three streams have arrived. -/
theorem State.atRdv_allArrived {s : State} (h : (s.jobs.find? s.cur.job).isSome = true) (n : Fin 16) :
    (s.atRdv n).job.allArrived n = true ↔ ∀ l, l ≠ s.cur.letter → (s.job.stream l).rdv = some n := by
  simp only [Job.allArrived, State.atRdv_job h, List.all_eq_true, beq_iff_eq]
  constructor
  · intro g l hl
    have := g l (by cases l <;> simp [letters])
    rwa [Job.stream_setStream_ne _ _ hl] at this
  · intro g l _
    by_cases hl : l = s.cur.letter
    · rw [hl, Job.stream_setStream]
    · rw [Job.stream_setStream_ne _ _ hl]; exact g l hl

theorem Job.stream_releaseRdv (j : Job) (t : Nat) (l : Letter) : (j.releaseRdv t).stream l = { j.stream l with arrived := some t } := by cases l <;> rfl

/-- The state after an arrival at rendezvous `n`: the last arrival sets the release cycle of all four streams. -/
def State.arriveRdv (s : State) (n : Fin 16) : State :=
  if (s.atRdv n).job.allArrived n then (s.atRdv n).modJob s.cur.job (fun j => j.releaseRdv (s.now + 4)) else s.atRdv n

theorem execRdv_arrives {o : OpN} {s : State} (h : s.Issues o.c []) (ha : s.st.arrived = none) (hr : s.st.rdv = none) (hb : s.busy s.cur = false) :
    execRdv o s = .next (s.arriveRdv o.n).begin := by
  refine command_wait h ?_
  unfold rdvBody
  simp only [ha, hr, hb, Option.isSome_none, Bool.or_self, Bool.false_eq_true, if_false]
  rfl

/-- The last arrival gives every stream the release cycle. -/
theorem State.arriveRdv_complete {s : State} (h : (s.jobs.find? s.cur.job).isSome = true) {n : Fin 16}
    (hall : ∀ l, l ≠ s.cur.letter → (s.job.stream l).rdv = some n) :
    (s.arriveRdv n).jobOf s.cur.job = (s.atRdv n).job.releaseRdv (s.now + 4) := by
  unfold State.arriveRdv
  rw [if_pos ((State.atRdv_allArrived h n).mpr hall), State.jobOf_modJob_self _ _ (by simpa [State.atRdv] using h)]
  simp [State.job, State.atRdv]

/-- An arrival that is not the last leaves the others as they are. -/
theorem State.arriveRdv_open {s : State} (h : (s.jobs.find? s.cur.job).isSome = true) {n : Fin 16} {l : Letter} (hl : l ≠ s.cur.letter)
    (hne : (s.job.stream l).rdv ≠ some n) : (s.arriveRdv n).jobOf s.cur.job = (s.atRdv n).job := by
  unfold State.arriveRdv
  rw [if_neg (fun g => hne ((State.atRdv_allArrived h n).mp g l hl))]
  simp [State.job, State.atRdv]

/-- Whoever arrives, the running stream stands at `n`. -/
theorem State.arriveRdv_rdv {s : State} (h : (s.jobs.find? s.cur.job).isSome = true) (n : Fin 16) : ((s.arriveRdv n).strOf s.cur).rdv = some n := by
  unfold State.strOf
  by_cases hall : ∀ l, l ≠ s.cur.letter → (s.job.stream l).rdv = some n
  · rw [State.arriveRdv_complete h hall, Job.stream_releaseRdv, State.atRdv_job h, Job.stream_setStream]
  · obtain ⟨l, hl, hne⟩ : ∃ l, l ≠ s.cur.letter ∧ (s.job.stream l).rdv ≠ some n := by simpa using hall
    rw [State.arriveRdv_open h hl hne, State.atRdv_job h, Job.stream_setStream]

/-! ### Barriers -/

section
variable {s : State} {c : Ctl} {u : Use} {k : BarKey} {f : State → Act}

/-- A stream whose round has released leaves the barrier, and goes on with what an acquire fence sets off. -/
theorem command_bar_released {b : Barrier} {t : Nat} (h : s.Issues c u.regs u.preds u.gw u.ga u.irrev) (hl : u.lat = 0) (hf : f s = barBody k s)
    (hb : s.barriers.find? (fun b => b.arrivals.contains s.cur) = some b) (hr : b.release = some t) (ht : t ≤ s.now) :
    ∃ x, command c u f s = .next x ∧ s.Done (State.fenceStart { s with barriers := leaveBar s.barriers s.cur } s.cur true k.fence) c 0 x :=
  command_done h hl (hf.trans (by simp only [barBody, hb, hr, if_pos ht])) (by simp) (by simpa using h.listed)

/-- A stream arrives that stands at no barrier, where every earlier command of it has completed, a release fence's conditions hold, and the open round of
the instance, if there is one, counts as many arrivals as it names. -/
theorem command_bar_arrives (h : s.Issues c u.regs u.preds u.gw u.ga u.irrev) (hf : f s = barBody k s) (hn : ∀ b ∈ s.barriers, s.cur ∉ b.arrivals)
    (hk : ∀ b ∈ s.barriers, b.is k = true → b.release = none → b.count = k.need) (hb : s.busy s.cur = false)
    (hr : s.released s.cur k.fence s.nextId s.now = true) :
    command c u f s = .next (State.begin { s with barriers := arriveAt s.barriers k s.cur s.now }) := by
  have h1 : s.barriers.find? (fun b => b.arrivals.contains s.cur) = none := by
    refine List.find?_eq_none.mpr fun b hb' => ?_
    simpa using hn b hb'
  refine command_wait h (hf.trans ?_)
  unfold barBody
  simp only [h1, hb, hr, Bool.not_true, Bool.or_self, Bool.false_eq_true, if_false]
  split
  · next b h2 =>
    have h3 := List.find?_some h2
    simp only [Bool.and_eq_true, Option.isNone_iff_eq_none] at h3
    rw [if_neg (not_not.mpr (hk b (List.mem_of_find?_eq_some h2) h3.1 h3.2))]
  · rfl

/-- A count that a `BAR` may name: its body is the barrier's. -/
theorem barCount_ok {α : Type} {need most : Nat} (x y : α) (h0 : need ≠ 0) (h1 : need ≤ most) : (if need = 0 || most < need then x else y) = y := by
  rw [if_neg]; simp; omega

end

/-- The fence scope of a `BAR` is that of the same name. -/
theorem State.barKey_fence (s : State) (sc : BarScope) (n need : Nat) : (s.barKey sc n need).1.fence = match sc with
    | .core => .core
    | .die => .die
    | .package => .package := by cases sc <;> rfl

/-- A `BAR` whose round has released completes (07 R193). -/
theorem execBar_released {o : OpBar} {s : State} {b : Barrier} {k : Nat} (h : s.Issues o.c [.s o.cnt] (irrev := true)) (h0 : s.sget o.cnt ≠ 0)
    (h1 : (s.sget o.cnt).toNat ≤ (s.barKey o.scope o.n (s.sget o.cnt).toNat).2)
    (hb : s.barriers.find? (fun b => b.arrivals.contains s.cur) = some b) (hr : b.release = some k) (hk : k ≤ s.now) :
    ∃ t, execBar o s = .next t ∧ s.Done (State.fenceStart { s with barriers := leaveBar s.barriers s.cur } s.cur true
      (s.barKey o.scope o.n (s.sget o.cnt).toNat).1.fence) o.c 0 t :=
  command_bar_released h rfl (barCount_ok _ _ (BitVec.toNat_ne.mp h0) h1) hb hr hk

theorem State.barKey_need (s : State) (sc : BarScope) (n need : Nat) : (s.barKey sc n need).1.need = need := by cases sc <;> rfl

/-- Settles O10: each command's body, with the state it leaves. -/
theorem arrivalCommands : Obligations.ArrivalCommands := by
  unfold Obligations.ArrivalCommands
  refine ⟨?notify, ?released, ?arrives, ?barReleased, ?barArrives, ?launchReleased⟩
  case notify =>
    intro o s h hb
    obtain ⟨t, ht, hd, ha⟩ := execNotify_ends h hb
    exact ⟨t, ht, hd, fun he hp => ha _ (State.jobComplete_mem_endStream h.listed he hp)⟩
  case released => exact fun o s k h ha hk => execRdv_released h ha hk
  case arrives =>
    intro o s h ha hr hb
    refine ⟨_, execRdv_arrives h ha hr hb, ?_, fun hall l => ?_, fun l hl hne => ?_⟩
    · rw [State.begin_rdv]
      exact State.arriveRdv_rdv h.listed o.n
    · refine (State.begin_arrived _ ⟨s.cur.job, l⟩).trans ?_
      rw [State.strOf, State.arriveRdv_complete h.listed hall, Job.stream_releaseRdv]
    · rw [State.begin_arrived, State.strOf, State.arriveRdv_open h.listed hl hne, State.atRdv_job h.listed, Job.stream_setStream]
      exact ha
  case barReleased =>
    intro o s b k h h0 h1 hb hr hk
    have h2 := execBar_released h h0 h1 hb hr hk
    rw [State.barKey_fence] at h2
    exact h2
  case barArrives =>
    intro o s h h0 h1 hn k hk hb hr
    refine command_bar_arrives h (barCount_ok _ _ (BitVec.toNat_ne.mp h0) h1) hn ?_ hb hr
    rw [State.barKey_need]
    exact hk
  case launchReleased => exact fun o s b k h hb hr hk => command_bar_released h rfl rfl hb hr hk

end Sys2Proof.Machine

namespace Sys2Proof.Machine

/-! ### Work beside the jobs: stores, memory, queues and launches -/

/-- The state without its on-core stores, its memory, the ACC bits of its tables, its queues and launches, and the agenda. -/
def State.still (s : State) : State :=
  { s with cores := [], agenda := [], ticket := 0, mem := [], memPoison := [], s1 := [], s2 := [], queues := [], launches := [] }

/-- `t` differs from `s` in stores, memory, queues and launches alone, and has more on its agenda; no launch counts a further completed job. -/
structure State.Beside (s t : State) : Prop where
  still : t.still = s.still
  agenda : ∀ e ∈ s.agenda, e ∈ t.agenda
  completed : ∀ k, (t.launches.find? k).map (·.completed) = (s.launches.find? k).map (·.completed)

theorem State.launches_modLaunch (s : State) (k j : Nat) (f : Launch → Launch) :
    (s.modLaunch k f).launches.find? j = if j = k then (s.launches.find? k).map f else s.launches.find? j := by
  unfold State.modLaunch
  split
  · next h => by_cases hj : j = k <;> simp [hj, h]
  · next l h => by_cases hj : j = k <;> simp [Map.find?_set, hj, h]

namespace State.Beside

variable {s t u : State}

theorem refl (s : State) : s.Beside s := ⟨rfl, fun _ h => h, fun _ => rfl⟩

theorem trans (h : s.Beside t) (g : t.Beside u) : s.Beside u :=
  ⟨g.still.trans h.still, fun e he => g.agenda e (h.agenda e he), fun k => (g.completed k).trans (h.completed k)⟩

/-- Work on stores and memory. -/
theorem of_stores (h : t.still = s.still) (ha : t.agenda = s.agenda) (hl : t.launches = s.launches) : s.Beside t :=
  ⟨h, fun _ he => ha ▸ he, fun _ => by rw [hl]⟩

/-- What such work leaves. -/
theorem field (h : s.Beside t) {α : Type} (f : State → α) (hf : ∀ s : State, f s.still = f s) : f t = f s := by rw [← hf t, ← hf s, h.still]

theorem now (h : s.Beside t) : t.now = s.now := h.field State.now fun _ => rfl
theorem jobs (h : s.Beside t) : t.jobs = s.jobs := h.field State.jobs fun _ => rfl
theorem flights (h : s.Beside t) : t.flights = s.flights := h.field State.flights fun _ => rfl
theorem dieOf (h : s.Beside t) (d : Nat) : t.dieOf d = s.dieOf d := h.field (State.dieOf · d) fun _ => rfl
theorem jobOf (h : s.Beside t) (k : Nat) : t.jobOf k = s.jobOf k := h.field (State.jobOf · k) fun _ => rfl
theorem strOf (h : s.Beside t) (r : Ref) : t.strOf r = s.strOf r := h.field (State.strOf · r) fun _ => rfl

/-- A list of such works. -/
theorem foldl {α : Type} {f : State → α → State} (hf : ∀ (s : State) a, s.Beside (f s a)) (l : List α) (s : State) : s.Beside (l.foldl f s) := by
  induction l generalizing s with
  | nil => exact refl s
  | cons a l ih => exact (hf s a).trans (ih _)

theorem modCore (s : State) (k : Nat) (f : Core → Core) : s.Beside (s.modCore k f) := of_stores rfl rfl rfl
theorem draw (s : State) : s.Beside s.draw := of_stores rfl rfl rfl
theorem memWrite (s : State) (a : Nat) (v : List Byte) (bad : Bool) : s.Beside (s.memWrite a v bad) := of_stores rfl rfl rfl
theorem modQueue (s : State) (q : Nat) (f : Queue → Queue) : s.Beside (s.modQueue q f) := of_stores rfl rfl rfl

theorem sched (s : State) (d : Nat) (m : Move) : s.Beside (s.sched d m) := ⟨rfl, fun _ h => List.mem_append_left _ h, fun _ => rfl⟩
theorem post (s : State) (d : Nat) (i : Instr) (g : Args) : s.Beside (s.post d i g) := sched s d (.event i g)
theorem poll (s : State) (r : Ref) : s.Beside (s.poll r) := sched s 1 (.stream r)
theorem later (s : State) (i : Instr) (g : Args) : s.Beside (s.later i g) := (post s _ i g).trans (draw _)

theorem ensure (s : State) (d : Nat) (i : Instr) (g : Args) : s.Beside (s.ensure d i g) := by
  rcases s.ensure_cases d i g with h | h <;> rw [h]
  · exact refl s
  · exact post s d i g

theorem markAcc (s : State) (ks : Option (Nat × Nat)) (b : Bool) : s.Beside (s.markAcc ks b) := by
  unfold State.markAcc
  split
  · exact refl s
  · split
    · exact refl s
    · exact of_stores rfl rfl rfl

theorem markVa (s : State) (ctx va n : Nat) : s.Beside (s.markVa ctx va n) := foldl (fun s _ => markAcc s _ _) _ s

/-! Writes at their homes (03 R83) -/

theorem homeWriteLines (ls : List (Nat × Nat)) (bad : Bool) : ∀ (s : State) (v : List Byte), s.Beside (s.homeWriteLines ls v bad) := by
  induction ls with
  | nil => exact fun s _ => refl s
  | cons l ls ih => exact fun s v => (memWrite s _ _ _).trans (ih _ _)

theorem homeWrite (s : State) (a : Nat) (v : List Byte) (bad : Bool) : s.Beside (s.homeWrite a v bad) := by
  unfold State.homeWrite
  split
  · exact memWrite s a v bad
  · exact homeWriteLines _ bad s v

theorem spoil (s : State) (k pa n : Nat) : s.Beside (s.spoil k pa n) := foldl (fun s _ => later s _ _) _ s

theorem perform (s : State) (die pa : Nat) (v : List Byte) (bad : Bool) : s.Beside (s.perform die pa v bad) := (homeWrite s pa v bad).trans (spoil _ _ _ _)

theorem setMem (s : State) (m : List Host.Cell) (p : List Nat) : s.Beside { s with mem := m, memPoison := p } := of_stores rfl rfl rfl

theorem performLine (s : State) (die line : Nat) (mask : BitVec 128) (data : Vector Byte 128) (bad : Bool) :
    s.Beside (s.performLine die line mask data bad) := by
  unfold State.performLine
  exact trans (setMem s _ _) (spoil _ _ _ _)

theorem writeParts (ps : List (Nat × Nat × Nat)) (bad : Bool) : ∀ (s : State) (v : List Byte), s.Beside (s.writeParts ps v bad) := by
  induction ps with
  | nil => exact fun s _ => refl s
  | cons p ps ih => exact fun s v => (perform s _ _ _ _).trans (ih _ _)

theorem vaWrite {ctx va : Nat} {v : List Byte} (h : s.vaWrite ctx va v = some t) : s.Beside t := by
  unfold State.vaWrite at h
  obtain ⟨ps, -, rfl⟩ := Option.map_eq_some_iff.mp h
  exact (markVa s _ _ _).trans (writeParts ps false _ _)

/-! Launches and their queues -/

theorem modLaunch (s : State) (k : Nat) {f : Launch → Launch} (hf : ∀ l, (f l).completed = l.completed) : s.Beside (s.modLaunch k f) := by
  refine ⟨by unfold State.modLaunch; split <;> rfl, by simp, fun j => ?_⟩
  rw [State.launches_modLaunch]
  split
  · next h => subst h; cases s.launches.find? j <;> simp [hf]
  · rfl

theorem freePool (s : State) (k : Nat) : s.Beside (s.freePool k) := by
  unfold State.freePool
  split
  · exact refl s
  · split
    · exact trans (modLaunch s k (fun _ => by rfl)) (ensure _ _ _ _)
    · exact refl s

theorem tryStart (s : State) (q : Nat) : s.Beside (s.tryStart q) := by
  unfold State.tryStart
  split
  · exact refl s
  · exact ensure s _ _ _

theorem clearHold (s : State) (l : Launch) : s.Beside (s.clearHold l) := by
  unfold State.clearHold
  split
  · exact (modQueue s _ _).trans (ensure _ _ _ _)
  · exact refl s

theorem settleEpilogues (s : State) (core : Nat) : s.Beside (s.settleEpilogues core) := by
  unfold State.settleEpilogues
  split
  · exact refl s
  · exact modCore s _ _

/-- The loader takes up epilogues (19 R446). -/
theorem loadEpilogues (s : State) (k : Nat) (d : KDesc) : s.Beside (s.loadEpilogues k d) := by
  unfold State.loadEpilogues
  refine (settleEpilogues s _).trans (foldl (fun s e => ?_) _ _)
  dsimp only
  split
  · exact refl s
  · split
    · exact modCore s _ _
    · split
      · exact refl s
      · exact (modCore s _ _).trans (draw _)

end State.Beside

/-! ### Placement (01 R29, R30) -/

theorem Map.mem_of_find? {α : Type} {m : Map α} {k : Nat} {v : α} (h : m.find? k = some v) : (k, v) ∈ m := by
  induction m with
  | nil => simp at h
  | cons e r ih =>
    obtain ⟨a, b⟩ := e
    unfold Map.find? at h
    split at h
    · next hk => cases h; subst hk; exact List.mem_cons_self
    · exact List.mem_cons_of_mem _ (ih h)

/-- A launch that is not to be placed brings no jobs. -/
theorem State.expand_of_not_placing {s : State} (h : ∀ e ∈ s.launches, e.2.state ≠ .placing) (k : Nat) : s.expand k = s := by
  unfold State.expand
  split
  · rfl
  · next l hl =>
    split
    · rfl
    · rw [if_pos]
      simp [h _ (Map.mem_of_find? hl)]

/-- The save area that is reserved for a job changes its context's pool and the job's record of it. -/
theorem State.reserveSave_keeps {s t : State} {k : Nat} (h : s.reserveSave k = some t) (hk : (s.jobs.find? k).isSome = true) :
    t.now = s.now ∧ t.launches = s.launches ∧ t.dies = s.dies ∧ (t.jobs.find? k).isSome = true ∧ ∃ a, t.jobOf k = { s.jobOf k with saveArea := a } := by
  unfold State.reserveSave at h
  dsimp only at h
  split at h
  · cases h; exact ⟨rfl, rfl, rfl, hk, _, rfl⟩
  · split at h
    · cases h
    · cases h
      refine ⟨by simp, by simp, by simp, by simpa using hk, ?_⟩
      rw [State.jobOf_modJob_self _ _ (by simpa using hk), State.modCtx_jobOf]
      exact ⟨_, rfl⟩

/-- A job with the place that it takes, in cycle `now`. -/
def Job.seated (j : Job) (p : Spot) (now : Nat) : Job :=
  { j with core := p.core, cc := p.cc, tileBase := p.tile, scrBase := p.scr, waiting := none
           status := if j.status = .created then .running else .resuming, cycSince := now, leftAt := now }

/-- The state in which job `k` has taken place `p` and its core and die know of it. -/
def State.sitAt (s : State) (k : Nat) (p : Spot) : State :=
  let s2 := s.modJob k (fun j => j.seated p s.now)
  let j := s2.jobOf k
  ((s2.dropCopies j.coreKey j.ctx).modCore j.coreKey (fun x => x.freshFor j)).modDie j.die (fun d => { d with
    rot := (d.rot + 1) % 16, blocking := d.blocking.filter (fun b => b ≠ k), gated := false })

theorem State.sitAt_now (s : State) (k : Nat) (p : Spot) : (s.sitAt k p).now = s.now := by simp [State.sitAt, State.dropCopies]
theorem State.sitAt_launches (s : State) (k : Nat) (p : Spot) : (s.sitAt k p).launches = s.launches := by simp [State.sitAt, State.dropCopies]

theorem State.sitAt_listed {s : State} {k : Nat} (p : Spot) (h : (s.jobs.find? k).isSome = true) : ((s.sitAt k p).jobs.find? k).isSome = true := by
  simpa [State.sitAt, State.dropCopies] using h

theorem State.sitAt_jobOf {s : State} {k : Nat} (p : Spot) (h : (s.jobs.find? k).isSome = true) : (s.sitAt k p).jobOf k = (s.jobOf k).seated p s.now := by
  simp only [State.sitAt, State.dropCopies, State.modDie_jobOf, State.modCore_jobOf]
  exact State.jobOf_modJob_self _ _ h

theorem State.sitAt_rot {s : State} {k : Nat} (p : Spot) (h : (s.jobs.find? k).isSome = true) :
    ((s.sitAt k p).dieOf (s.jobOf k).die).rot = ((s.dieOf (s.jobOf k).die).rot + 1) % 16 := by
  have hd : ((s.modJob k (fun j => j.seated p s.now)).jobOf k).die = (s.jobOf k).die := by rw [State.jobOf_modJob_self _ _ h]; rfl
  simp only [State.sitAt, hd, State.dieOf_modDie_self]
  simp [State.dieOf, State.dropCopies]

/-- A new job that displaces no speculation is seated, and starts. -/
theorem State.placeAt_created {s : State} {k : Nat} {p : Spot} {l : Launch} (hk : (s.jobs.find? k).isSome = true) (hs : (s.jobOf k).status = .created)
    (ho : p.out = []) (hl : s.launches.find? (s.jobOf k).launch = some l) : s.placeAt k p = (s.sitAt k p).startJob k l := by
  have hj : (s.modJob k (fun j => j.seated p s.now)).jobOf k = (s.jobOf k).seated p s.now := State.jobOf_modJob_self _ _ hk
  have h1 : (s.sitAt k p).launches.find? ((s.modJob k (fun j => j.seated p s.now)).jobOf k).launch = some l := by rw [State.sitAt_launches, hj]; exact hl
  have h2 : s.placeAt k p = (match (s.sitAt k p).launches.find? ((s.modJob k (fun j => j.seated p s.now)).jobOf k).launch with
      | none => s.sitAt k p
      | some l => (s.sitAt k p).startJob k l) := by
    unfold State.placeAt
    rw [ho, if_pos hs]
    rfl
  rw [h2, h1]

/-- A job whose streams issue from cycle `n` on. -/
def Job.readyFrom (j : Job) (n : Nat) : Job :=
  { j with a := { j.a with readyAt := n }, m := { j.m with readyAt := n }, v := { j.v with readyAt := n }, x := { j.x with readyAt := n } }

theorem Job.readyAt_readyFrom (j : Job) (n : Nat) (l : Letter) : ((j.readyFrom n).stream l).readyAt = n := by cases l <;> rfl

/-- A job that starts waits for its context engine (01 R17); the rest is work beside it. -/
theorem State.Beside.startJob (s : State) (k : Nat) (l : Launch) :
    State.Beside ((s.modJob k (fun j => j.readyFrom (s.now + 7))).sched 6 (.begin k)) (s.startJob k l) := by
  have hload : ∀ t : State, t.Beside (match l.desc with
      | none => t
      | some d => t.loadEpilogues k d) := fun t => by
    cases l.desc with
    | none => exact .refl t
    | some d => exact .loadEpilogues t k d
  unfold State.startJob
  dsimp only
  split
  · exact (hload _).trans (.modLaunch _ _ (fun _ => by rfl))
  · refine .trans ?_ (.tryStart _ _)
    split
    · exact (hload _).trans (.modLaunch _ _ (fun _ => by rfl))
    · exact (hload _).trans (.trans (.modLaunch _ _ (fun _ => by rfl)) (.trans (.freePool _ _) (.modQueue _ _ _)))

/-- A job of the order for which there is a place and a save area is placed. -/
theorem State.tryPlace_created {s t : State} {d k : Nat} {p : Spot} (hs : (s.jobOf k).status = .created) (hp : (s.jobOf k).spec = none)
    (hf : s.spotFor (s.jobOf k) = some p) (hr : s.reserveSave k = some t) : s.tryPlace d k = (t.placeAt k p, false) := by
  unfold State.tryPlace
  simp [hs, hp, hf, hr]

/-- A scheduler whose order is one job places it. -/
theorem execJobPlacement_one {s t : State} {k : Nat} {j : Job} {p : Spot} (hd : (s.dieOf s.args.a).lost = false)
    (hn : ∀ e ∈ s.launches, e.2.state ≠ .placing) (hc : s.sweepDone.candidates s.args.a = [(k, j)]) (hs : (s.sweepDone.jobOf k).status = .created)
    (hp : (s.sweepDone.jobOf k).spec = none) (hf : s.sweepDone.spotFor (s.sweepDone.jobOf k) = some p) (hr : s.sweepDone.reserveSave k = some t) :
    execJobPlacement s = .next (t.placeAt k p) := by
  have he : s.launches.foldl (fun (u : State) (e : Nat × Launch) => u.expand e.1) s.sweepDone = s.sweepDone :=
    List.foldl_fixed' (fun e => State.expand_of_not_placing (s := s.sweepDone) hn e.1) _
  unfold execJobPlacement
  simp only [he, hd, hc, Bool.false_eq_true, if_false, List.map_cons, List.map_nil, State.placeAll, State.tryPlace_created hs hp hf hr]

/-! ### A job leaves its core (01 R26) -/

/-- What changes of jobs and cores and new events leave, the end of a term of the array leaves (11 R304). -/
theorem State.endTerm_keeps {α : Type} (g : State → α) (hj : ∀ (s : State) k f, g (s.modJob k f) = g s) (hc : ∀ (s : State) k f, g (s.modCore k f) = g s)
    (he : ∀ (s : State) d i a, g (s.ensure d i a) = g s) (s : State) (core : Nat) : g (s.endTerm core) = g s := by
  have hrows : ∀ (l : List ArrRow) (f : State → ArrRow → State), (∀ s r, g (f s r) = g s) → ∀ s, g (l.foldl f s) = g s := fun l f hf => by
    induction l with
    | nil => exact fun _ => rfl
    | cons r l ih => exact fun s => (ih _).trans (hf s r)
  have hcut : g (s.cutRows core) = g s := by
    unfold State.cutRows
    refine (hrows _ _ (fun s r => ?_) _).trans (hc _ _ _)
    dsimp only
    split
    · exact hj _ _ _
    · exact hc _ _ _
    · rfl
  unfold State.endTerm
  dsimp only
  split
  · exact (hc _ _ _).trans ((hc _ _ _).trans hcut)
  · exact (he _ _ _ _).trans ((hc _ _ _).trans ((hc _ _ _).trans hcut))

@[simp] theorem State.endTerm_launches (s : State) (core : Nat) : (s.endTerm core).launches = s.launches :=
  State.endTerm_keeps State.launches (by simp) (by simp) (by simp) s core
@[simp] theorem State.endTerm_mem (s : State) (core : Nat) : (s.endTerm core).mem = s.mem :=
  State.endTerm_keeps State.mem (by simp) (by simp) (by simp) s core
@[simp] theorem State.endTerm_isSome (s : State) (core k : Nat) : ((s.endTerm core).jobs.find? k).isSome = (s.jobs.find? k).isSome :=
  State.endTerm_keeps (fun s => (s.jobs.find? k).isSome) (by simp) (by simp) (by simp) s core

theorem State.lookPass_beside (s : State) (core : Nat) : s.Beside (s.lookPass core) := by
  unfold State.lookPass
  split
  · exact .refl s
  · exact .ensure s _ _ _

/-- Blocks that are given back are work on the core (02 R64). -/
theorem State.freeAcs_beside (s : State) (core : Nat) (bs : List Nat) : s.Beside (s.freeAcs core bs) := by
  unfold State.freeAcs
  split
  · exact .refl s
  · exact ((State.Beside.modCore s _ _).trans (.ensure _ _ _ _)).trans (State.lookPass_beside _ _)

@[simp] theorem State.freeAcs_launches (s : State) (core : Nat) (bs : List Nat) : (s.freeAcs core bs).launches = s.launches := by
  unfold State.freeAcs State.lookPass
  split
  · rfl
  · split <;> simp
@[simp] theorem State.freeAcs_mem (s : State) (core : Nat) (bs : List Nat) : (s.freeAcs core bs).mem = s.mem := by
  unfold State.freeAcs State.lookPass
  split
  · rfl
  · split <;> simp
@[simp] theorem State.freeAcs_jobs (s : State) (core : Nat) (bs : List Nat) : (s.freeAcs core bs).jobs = s.jobs := (s.freeAcs_beside core bs).jobs

@[simp] theorem State.releaseLease_launches (s : State) (k : Nat) : (s.releaseLease k).launches = s.launches := by
  unfold State.releaseLease; dsimp only; split <;> simp [State.modArray]
@[simp] theorem State.releaseLease_isSome (s : State) (k n : Nat) : ((s.releaseLease k).jobs.find? n).isSome = (s.jobs.find? n).isSome := by
  unfold State.releaseLease; dsimp only; split <;> simp [State.modArray]

@[simp] theorem State.leaveCore_launches (s : State) (k : Nat) : (s.leaveCore k).launches = s.launches := by
  simp [State.leaveCore, State.releaseAcs, State.dropAcsWait]
@[simp] theorem State.leaveCore_isSome (s : State) (k n : Nat) : ((s.leaveCore k).jobs.find? n).isSome = (s.jobs.find? n).isSome := by
  simp [State.leaveCore, State.releaseAcs, State.dropAcsWait]

/-- A job that has left its core holds no accumulator blocks. -/
theorem State.leaveCore_acs {s : State} {k : Nat} (h : (s.jobs.find? k).isSome = true) : ((s.leaveCore k).jobOf k).acs = [] := by
  unfold State.leaveCore State.releaseAcs
  rw [State.unpost_jobOf, (State.freeAcs_beside _ _ _).jobOf, State.dropAcsWait, State.modCore_jobOf, State.jobOf_modJob_self _ _ (by simpa using h)]

@[simp] theorem State.freeSave_launches (s : State) (k : Nat) : (s.freeSave k).launches = s.launches := by
  unfold State.freeSave; dsimp only; split <;> simp
@[simp] theorem State.freeSave_isSome (s : State) (k n : Nat) : ((s.freeSave k).jobs.find? n).isSome = (s.jobs.find? n).isSome := by
  unfold State.freeSave; dsimp only; split <;> simp

@[simp] theorem State.askPlace_jobs (s : State) (d : Nat) : (s.askPlace d).jobs = s.jobs := by simp [State.askPlace]
@[simp] theorem State.askPlace_launches (s : State) (d : Nat) : (s.askPlace d).launches = s.launches := by simp [State.askPlace]
@[simp] theorem State.askPlace_mem (s : State) (d : Nat) : (s.askPlace d).mem = s.mem := by simp [State.askPlace]
@[simp] theorem State.noteIdle_jobs (s : State) (d : Nat) : (s.noteIdle d).jobs = s.jobs := by unfold State.noteIdle; split <;> simp
@[simp] theorem State.noteIdle_launches (s : State) (d : Nat) : (s.noteIdle d).launches = s.launches := by unfold State.noteIdle; split <;> simp
@[simp] theorem State.noteIdle_mem (s : State) (d : Nat) : (s.noteIdle d).mem = s.mem := by unfold State.noteIdle; split <;> simp

/-! ### The end of a launch (01 R27) -/

/-- A job without the mark that its context is frozen. -/
def Job.thawed (j : Job) : Job := { j with frozen := false }

/-- `t` is `s` after a launch has been brought to its end: a job is as before but for the freeze of its context, and no launch counts a further
completed job. -/
structure State.Closes (s t : State) : Prop where
  jobs : ∀ k, (t.jobOf k).thawed = (s.jobOf k).thawed
  completed : ∀ k, (t.launches.find? k).map (·.completed) = (s.launches.find? k).map (·.completed)

theorem State.Closes.refl (s : State) : s.Closes s := ⟨fun _ => rfl, fun _ => rfl⟩

theorem State.Closes.trans {s t u : State} (h : s.Closes t) (g : t.Closes u) : s.Closes u :=
  ⟨fun k => (g.jobs k).trans (h.jobs k), fun k => (g.completed k).trans (h.completed k)⟩

/-- What a freeze leaves of a job. -/
theorem State.Closes.field {s t : State} (h : s.Closes t) {α : Type} (f : Job → α) (hf : ∀ j : Job, f j.thawed = f j) (k : Nat) :
    f (t.jobOf k) = f (s.jobOf k) := by rw [← hf, h.jobs, hf]

theorem State.Beside.closes {s t : State} (h : s.Beside t) : s.Closes t := ⟨fun k => by rw [h.jobOf], h.completed⟩

/-- A job with the mark of a freeze of context `ctx`. -/
def Job.halt (j : Job) (ctx : Nat) : Job := if j.ctx = ctx then { j with frozen := true } else j

/-- Every job of context `ctx` marked. -/
def State.haltJobs (s : State) (ctx : Nat) : State := { s with jobs := s.jobs.map (fun (e : Nat × Job) => (e.1, e.2.halt ctx)) }

/-- A freeze of a context that runs marks its jobs, and leaves the rest to an event. -/
theorem State.freeze_running {s : State} {ctx : Nat} (cause : Nat) (h1 : (s.ctxOf ctx).state ≠ .frozen) (h2 : (s.ctxOf ctx).state ≠ .dumping) :
    s.freeze ctx cause = ((s.modCtx ctx (fun c => { c with state := .frozen, cause := cause, frozenAt := s.ptpt })).haltJobs ctx).ensure 1
      .contextFrozenDrained { a := ctx } := by
  unfold State.freeze
  simp only [h1, h2, decide_false, Bool.or_self, Bool.false_eq_true, if_false]
  rfl

theorem State.jobOf_haltJobs (s : State) (ctx k : Nat) :
    (s.haltJobs ctx).jobOf k = if (s.jobs.find? k).isSome then (s.jobOf k).halt ctx else s.jobOf k := by
  unfold State.haltJobs State.jobOf Map.getD
  rw [map_snd_find? s.jobs k (fun j => j.halt ctx)]
  cases s.jobs.find? k <;> rfl

theorem Job.thawed_halt (j : Job) (ctx : Nat) : (j.halt ctx).thawed = j.thawed := by unfold Job.halt; split <;> rfl

theorem State.Closes.haltJobs (s : State) (ctx : Nat) : s.Closes (s.haltJobs ctx) := by
  refine ⟨fun k => ?_, fun _ => rfl⟩
  rw [State.jobOf_haltJobs]
  split
  · exact Job.thawed_halt _ _
  · rfl

theorem State.Closes.modCtx (s : State) (k : Nat) (f : Ctx → Ctx) : s.Closes (s.modCtx k f) := ⟨fun _ => by simp, fun _ => by simp⟩

theorem State.Closes.freeze (s : State) (ctx cause : Nat) : s.Closes (s.freeze ctx cause) := by
  by_cases h : (s.ctxOf ctx).state = .frozen ∨ (s.ctxOf ctx).state = .dumping
  · have : s.freeze ctx cause = s := by unfold State.freeze; exact if_pos (by simpa using h)
    rw [this]; exact .refl s
  · rw [not_or] at h
    rw [State.freeze_running cause h.1 h.2]
    exact ((State.Closes.modCtx s _ _).trans (.haltJobs _ _)).trans (State.Beside.ensure _ _ _ _).closes

theorem State.Closes.freezeFor (s : State) (k ctx code : Nat) : s.Closes (s.freezeFor k ctx code) := (State.Closes.modCtx s _ _).trans (.freeze _ _ _)

theorem State.Closes.drainLine (s : State) (core line ctx : Nat) : s.Closes (s.drainLine core line ctx) := by
  unfold State.drainLine
  split
  · exact .refl s
  · refine .trans ?_ (State.Beside.modCore _ _ _).closes
    split
    · exact .freezeFor _ _ _ _
    · exact (State.Beside.performLine _ _ _ _ _ _).closes

theorem State.Closes.foldl {α : Type} {f : State → α → State} (hf : ∀ (s : State) a, s.Closes (f s a)) (l : List α) (s : State) : s.Closes (l.foldl f s) := by
  induction l generalizing s with
  | nil => exact .refl s
  | cons a l ih => exact (hf s a).trans (ih _)

theorem State.Closes.drainLaunch (s : State) (k : Nat) : s.Closes (s.drainLaunch k) :=
  .foldl (fun s _ => .foldl (fun s _ => .drainLine s _ _ _) _ s) _ s

theorem State.Closes.finishLaunch (s : State) (k status detail : Nat) : s.Closes (s.finishLaunch k status detail) := by
  unfold State.finishLaunch
  split
  · exact .refl s
  · split
    · exact .refl s
    · dsimp only
      split
      · exact .drainLaunch s k
      · refine (State.Closes.drainLaunch s k).trans (State.Beside.closes ?_)
        exact (State.Beside.freePool _ _).trans (.trans (.modLaunch _ _ (fun _ => by rfl)) (.trans (.clearHold _ _) (.trans (.tryStart _ _) (.sched _ _ _))))

theorem State.Closes.launchDone (s : State) (k : Nat) : s.Closes (s.launchDone k) := by
  unfold State.launchDone
  split
  · exact .refl s
  · split
    · exact .refl s
    · split
      · exact ((State.Beside.freePool _ _).trans (.post _ _ _ _)).closes
      · exact .finishLaunch s k 1 0

/-- The state in which job `k` of launch `n` is complete and counted (01 R26). -/
def State.jobDone (s : State) (k d n : Nat) : State :=
  ((((((s.freeSave k).leaveCore k).modJob k (fun j => { j with status := .done, leftAt := s.now })).askPlace d).noteIdle d).modLaunch n
    (fun l => { l with completed := l.completed + 1 }))

/-- The end of a job is that state; the launch may end with it. -/
theorem execJobComplete_closes {s : State} {j : Job} (hj : s.jobs.find? s.args.a = some j) (hs : j.status = .running) :
    ∃ t, execJobComplete s = .next t ∧ (s.jobDone s.args.a j.die j.launch).Closes t := by
  refine ⟨_, rfl, ?_⟩
  simp only [hj, hs, ne_eq, not_true, if_false]
  split
  · exact .refl _
  · split
    · exact .launchDone _ _
    · exact .refl _

theorem State.jobDone_job {s : State} {k : Nat} (d n : Nat) (h : (s.jobs.find? k).isSome = true) :
    ((s.jobDone k d n).jobOf k).status = .done ∧ ((s.jobDone k d n).jobOf k).leftAt = s.now ∧ ((s.jobDone k d n).jobOf k).acs = [] := by
  have hj : (s.jobDone k d n).jobOf k = { ((s.freeSave k).leaveCore k).jobOf k with status := .done, leftAt := s.now } := by
    rw [← State.jobOf_modJob_self _ (fun j => { j with status := .done, leftAt := s.now }) (by simpa using h)]
    simp [State.jobDone, State.jobOf]
  rw [hj]
  exact ⟨rfl, rfl, State.leaveCore_acs (by simpa using h)⟩

theorem State.jobDone_launch {s : State} {n : Nat} {l : Launch} (k d : Nat) (h : s.launches.find? n = some l) :
    (s.jobDone k d n).launches.find? n = some { l with completed := l.completed + 1 } := by
  unfold State.jobDone
  rw [State.launches_modLaunch, if_pos rfl]
  simp [h]

/-! ### The events of jobs -/

/-- A new job that is placed runs from the cycle after its context engine has set it on, and its die's scheduler starts one core further. -/
theorem State.placeAt_created_runs {s : State} {k : Nat} {p : Spot} {l : Launch} (hk : (s.jobs.find? k).isSome = true) (hs : (s.jobOf k).status = .created)
    (ho : p.out = []) (hl : s.launches.find? (s.jobOf k).launch = some l) :
    (s.placeAt k p).jobOf k = ((s.jobOf k).seated p s.now).readyFrom (s.now + 7) ∧ ⟨s.now + 6, .begin k⟩ ∈ (s.placeAt k p).agenda ∧
      ((s.placeAt k p).dieOf (s.jobOf k).die).rot = ((s.dieOf (s.jobOf k).die).rot + 1) % 16 := by
  have hb := State.Beside.startJob (s.sitAt k p) k l
  rw [State.placeAt_created hk hs ho hl]
  refine ⟨?_, hb.agenda _ ?_, ?_⟩
  · rw [hb.jobOf, State.sched, ← State.sitAt_jobOf p hk, ← State.sitAt_now s k p]
    exact State.jobOf_modJob_self _ _ (State.sitAt_listed p hk)
  · simp [State.sched, State.sitAt_now]
  · rw [hb.dieOf, ← State.sitAt_rot p hk]
    simp [State.sched, State.dieOf]

/-- A job's context engine writes its argument block, and its streams are due in the next cycle (01 R17). -/
theorem State.beginJob_sets {s : State} {k : Nat} {j : Job} {l : Launch} (hj : s.jobs.find? k = some j) (hl : s.launches.find? j.launch = some l) :
    (s.beginJob k).cores = (s.scrWrite j 0 l.args false).cores ∧ ∀ r : Letter, ⟨s.now + 1, .stream ⟨k, r⟩⟩ ∈ (s.beginJob k).agenda := by
  have he : s.beginJob k = letters.foldl (fun s r => s.poll ⟨k, r⟩) (s.scrWrite j 0 l.args false) := by simp [State.beginJob, hj, hl]
  rw [he]
  exact ⟨rfl, fun r => by cases r <;> simp [letters, State.poll, State.scrWrite]⟩

/-- Settles O37: placement through `sitAt` and `Beside.startJob`, completion through `jobDone` and `Closes`. -/
theorem jobEvents : Obligations.JobEvents := by
  unfold Obligations.JobEvents
  refine ⟨?placed, fun s k j l hj hl => State.beginJob_sets hj hl, ?waited, ?completed⟩
  case placed =>
    intro s d k j p l hd hlost hn hc hj hs hp hf ho hr hl
    subst hd
    obtain ⟨t, ht⟩ := Option.isSome_iff_exists.mp hr
    have hk : (s.sweepDone.jobs.find? k).isSome = true := by rw [hj]; rfl
    have hjob : s.sweepDone.jobOf k = j := Map.getD_of_find? _ hj
    obtain ⟨h1, h2, h3, h4, a, h5⟩ := State.reserveSave_keeps ht hk
    rw [hjob] at h5
    obtain ⟨g1, g2, g3⟩ := State.placeAt_created_runs h4 (by rw [h5]; exact hs) ho (by rw [h2, h5]; exact hl)
    rw [h5, h1] at g1
    rw [h1] at g2
    have hdie : t.dieOf j.die = s.dieOf j.die := by simp only [State.dieOf, h3]; rfl
    rw [h5] at g3
    refine ⟨_, execJobPlacement_one hlost hn hc (by rw [hjob]; exact hs) (by rw [hjob]; exact hp) (by rw [hjob]; exact hf) ht, ?_⟩
    simp only [State.strOf, g1, Job.readyAt_readyFrom]
    refine ⟨?_, rfl, rfl, rfl, rfl, rfl, g2, fun _ => rfl, g3.trans (by rw [hdie])⟩
    simp [Job.readyFrom, Job.seated, hs]
  case waited =>
    intro s d k u hd hk hw hu hl
    subst hd hk
    refine ⟨_, rfl, ?_, ?_⟩
    · simp only [hw, hu, hl, decide_true, Bool.and_self, if_true, State.dieOf_modDie_self]
      split
      · next h => simpa using h
      · simp
    · simp only [hw]
      split <;> simp
  case completed =>
    intro s k j l hk hj hs hl
    subst hk
    obtain ⟨t, ht, hc⟩ := execJobComplete_closes hj hs
    have hlaunch := hc.completed j.launch
    obtain ⟨h1, h2, h3⟩ := State.jobDone_job (s := s) j.die j.launch (by rw [hj]; rfl : (s.jobs.find? s.args.a).isSome = true)
    rw [State.jobDone_launch _ _ hl] at hlaunch
    obtain ⟨l', hl', hcount⟩ := Option.map_eq_some_iff.mp hlaunch
    have hstatus := hc.field Job.status (fun _ => rfl) s.args.a
    have hleft := hc.field Job.leftAt (fun _ => rfl) s.args.a
    have hacs := hc.field Job.acs (fun _ => rfl) s.args.a
    exact ⟨t, l', ht, hstatus.trans h1, hleft.trans h2, hacs.trans h3, hl', hcount⟩

end Sys2Proof.Machine

namespace Sys2Proof.Machine

/-! ### Saves (20 R468 to R471) -/

/-- The lines of a save are writes to memory. -/
theorem State.saveLines_beside (ctx va : Nat) (ls : List (Nat × List Byte × Bool)) : ∀ s : State, s.Beside (s.saveLines ctx va ls).1 := by
  induction ls with
  | nil => exact fun s => .refl s
  | cons e ls ih =>
    intro s
    obtain ⟨o, b, bad⟩ := e
    unfold State.saveLines
    split
    · exact .refl s
    · exact (State.Beside.writeParts _ _ _ _).trans (ih _)

/-- A save that goes on keeps its reason. -/
theorem State.saveRun_reason {s : State} {k : Nat} {v : Save} (hk : (s.jobs.find? k).isSome = true) (hv : (s.jobOf k).save = some v) :
    ∃ w, ((s.saveRun k).jobOf k).save = some w ∧ w.reason = v.reason := by
  unfold State.saveRun
  cases hva : (s.jobOf k).saveArea with
  | none => simp only [hv, hva]; exact ⟨v, rfl, rfl⟩
  | some va =>
    simp only [hv, hva]
    split
    all_goals
      rw [State.later_jobOf, State.jobOf_modJob_self _ _ (by rw [(State.saveLines_beside _ _ _ s).jobs]; exact hk)]
      exact ⟨_, rfl, rfl⟩

/-- A save that begins stands with its reason. -/
theorem State.beginSave_reason {s : State} {k : Nat} (reason : Nat) (hk : (s.jobs.find? k).isSome = true) :
    ∃ v, ((s.beginSave k reason).jobOf k).save = some v ∧ v.reason = reason := by
  unfold State.beginSave
  dsimp only
  have hb := State.Beside.markVa s (s.jobOf k).ctx ((s.jobOf k).saveArea.getD 0) (saveSize (s.jobOf k).tileCount (s.jobOf k).scrSize)
  generalize s.markVa (s.jobOf k).ctx ((s.jobOf k).saveArea.getD 0) (saveSize (s.jobOf k).tileCount (s.jobOf k).scrSize) = t at hb ⊢
  have ht : (t.jobs.find? k).isSome = true := by rw [hb.jobs]; exact hk
  exact State.saveRun_reason (v := ⟨reason, 0x100, 0, none⟩) (by simpa using ht) (by rw [State.jobOf_modJob_self _ _ ht])

/-- A job that parks is saved once nothing but its `LAUNCHP` is under way (01 R33). -/
theorem execJobPark_saves {s : State} (hp : (s.jobOf s.args.a).parking = true)
    (ho : (s.jobOf s.args.a).onCore = true) (hv : (s.jobOf s.args.a).save = none) (hf : ∀ f ∈ s.flights, f.2.ref.job = s.args.a → f.2.work.parks = true)
    (hd : s.drained (s.jobOf s.args.a).coreKey (s.jobOf s.args.a).ctx s.now = true) : execJobPark s = .next (s.beginSave s.args.a 2) := by
  have hothers : s.flights.any (fun f => f.2.ref.job = s.args.a && !f.2.work.parks) = false := by
    refine List.any_eq_false.mpr fun f hf' => ?_
    by_cases h : f.2.ref.job = s.args.a
    · simp [hf f hf' h]
    · simp [h]
  simp [execJobPark, hp, ho, hv, hothers, hd]

/-- A job whose streams have all stopped, with nothing under way, is saved (01 R37). -/
theorem execJobPreempted_saves {s : State} (hp : (s.jobOf s.args.a).preempt.isSome = true) (ho : (s.jobOf s.args.a).onCore = true)
    (hv : (s.jobOf s.args.a).save = none) (hz : (s.jobOf s.args.a).frozen = false)
    (hs : ∀ l, ((s.jobOf s.args.a).stream l).stopped = true ∨ ((s.jobOf s.args.a).stream l).ended = true) (hset : s.settled s.args.a = true)
    (hd : s.drained (s.jobOf s.args.a).coreKey (s.jobOf s.args.a).ctx s.now = true) : execJobPreempted s = .next (s.beginSave s.args.a 1) := by
  have hall : (s.jobOf s.args.a).allStopped = true := List.all_eq_true.mpr fun l _ => by simpa using hs l
  obtain ⟨c, hc⟩ := Option.isSome_iff_exists.mp hp
  simp [execJobPreempted, hc, ho, hv, hz, hall, hset, hd]

/-! ### Pre-emption (01 R36, R38, 20 R473) -/

/-- A request that is made starts the stall timer, and is pending unless a barrier defers it. -/
theorem State.requestPreempt_pending {s : State} {k : Nat} (hk : (s.jobs.find? k).isSome = true) (ho : (s.jobOf k).onCore = true)
    (hs : (s.jobOf k).spec = none) (hp : (s.jobOf k).prologue = false) (hv : (s.jobOf k).save = none) (hn : (s.jobOf k).preempt = none) :
    ⟨s.now + 24000000, .event .preemptStall { a := k, b := s.now }⟩ ∈ (s.requestPreempt k 0).agenda ∧
      ((s.requestPreempt k 0).jobOf k).preempt = (if s.deferred (s.jobOf k) then none else some s.now) := by
  have htimer : (⟨s.now + 24000000, .event .preemptStall { a := k, b := s.now }⟩ : Entry) ∈ (s.post 24000000 .preemptStall { a := k, b := s.now }).agenda := by
    simp [State.post]
  unfold State.requestPreempt
  simp only [ho, hs, hp, hv, hn, Bool.not_true, Option.isSome_none, Bool.or_self, Bool.false_eq_true, if_false, if_true]
  split
  · exact ⟨(State.Beside.ensure _ _ _ _).agenda _ htimer, by simpa using hn⟩
  · refine ⟨(State.Beside.ensure _ _ _ _).agenda _ (by simpa using htimer), ?_⟩
    rw [State.ensure_jobOf, State.jobOf_modJob_self _ _ (by simpa using hk)]

/-- The first context error of a real job is its record (06 R182). -/
theorem State.raise_error {s : State} {r : Ref} (e : Err) (w : Word) (o : Nat) (hk : (s.jobs.find? r.job).isSome = true) (hs : (s.jobOf r.job).spec = none)
    (hp : (s.jobOf r.job).prologue = false) (he : (s.jobOf r.job).error = none) : ((s.raise r e w o).jobOf r.job).error = some (s.errRec r e w o) := by
  have hj := State.jobOf_modRef_self s (fun t => { t with paused := true }) hk
  have hp' : ((s.modRef r (fun t => { t with paused := true })).jobOf r.job).prologue = false := by rw [hj]; cases r.letter <;> exact hp
  have he' : ((s.modRef r (fun t => { t with paused := true })).jobOf r.job).error = none := by rw [hj]; cases r.letter <;> exact he
  unfold State.raise State.putError
  simp only [hs, hp', he', Option.isSome_none, Bool.false_eq_true, if_false]
  rw [State.send_jobOf, State.jobOf_modJob_self _ _ (by simpa using hk)]

theorem State.ctxOf_modCtx_self {s : State} {k : Nat} {c : Ctx} (f : Ctx → Ctx) (h : s.ctxs.find? k = some c) : (s.modCtx k f).ctxOf k = f c := by
  simp [State.modCtx, State.ctxOf, Map.getD, h]

theorem State.ctxOf_of_find? {s : State} {k : Nat} {c : Ctx} (h : s.ctxs.find? k = some c) : s.ctxOf k = c := Map.getD_of_find? _ h

@[simp] theorem State.ensure_ctxOf (s : State) (d : Nat) (i : Instr) (g : Args) (k : Nat) : (s.ensure d i g).ctxOf k = s.ctxOf k := by simp [State.ctxOf]

/-- A freeze of a context that runs: its cause stands, and its jobs are frozen (20 R472). -/
theorem State.freeze_freezes {s : State} {ctx : Nat} {c : Ctx} (cause : Nat) (hc : s.ctxs.find? ctx = some c) (h1 : c.state ≠ .frozen)
    (h2 : c.state ≠ .dumping) : ((s.freeze ctx cause).ctxOf ctx).state = .frozen ∧ ((s.freeze ctx cause).ctxOf ctx).cause = cause ∧
      ∀ k, (s.jobs.find? k).isSome = true → (s.jobOf k).ctx = ctx → ((s.freeze ctx cause).jobOf k).frozen = true := by
  have hctx : (s.freeze ctx cause).ctxOf ctx = { c with state := .frozen, cause := cause, frozenAt := s.ptpt } := by
    rw [State.freeze_running cause (by rwa [State.ctxOf_of_find? hc]) (by rwa [State.ctxOf_of_find? hc]), State.ensure_ctxOf,
      ← State.ctxOf_modCtx_self (fun c => { c with state := .frozen, cause := cause, frozenAt := s.ptpt }) hc]
    rfl
  refine ⟨by rw [hctx], by rw [hctx], fun k hk hj => ?_⟩
  rw [State.freeze_running cause (by rwa [State.ctxOf_of_find? hc]) (by rwa [State.ctxOf_of_find? hc]), State.ensure_jobOf, State.jobOf_haltJobs,
    if_pos (by simpa using hk), State.modCtx_jobOf, Job.halt, if_pos hj]

/-- The same for a freeze with a record. -/
theorem State.freezeFor_freezes {s : State} {ctx : Nat} {c : Ctx} (k code : Nat) (hc : s.ctxs.find? ctx = some c) (h1 : c.state ≠ .frozen)
    (h2 : c.state ≠ .dumping) : ((s.freezeFor k ctx code).ctxOf ctx).state = .frozen ∧ ((s.freezeFor k ctx code).ctxOf ctx).cause = code ∧
      ∀ k', (s.jobs.find? k').isSome = true → (s.jobOf k').ctx = ctx → ((s.freezeFor k ctx code).jobOf k').frozen = true := by
  have hadd : (s.addError ctx (s.recOf k code)).ctxs.find? ctx = some { c with errors := c.errors ++ [s.recOf k code] } := by
    simp [State.addError, State.modCtx, hc]
  obtain ⟨g1, g2, g3⟩ := State.freeze_freezes code hadd h1 h2
  exact ⟨g1, g2, fun k' hk hj => g3 k' (by simpa [State.addError] using hk) (by simpa [State.addError] using hj)⟩

/-- The stall timer of a request that is pending freezes the job's context (20 R473). -/
theorem execPreemptStall_freezes {s : State} (ho : (s.jobOf s.args.a).onCore = true) (hv : (s.jobOf s.args.a).save = none)
    (hp : (s.jobOf s.args.a).preempt = some s.args.b) : execPreemptStall s = .next (s.freezeFor s.args.a (s.jobOf s.args.a).ctx 54) := by
  simp [execPreemptStall, ho, hv, hp]

/-! ### Blocked saves (20 R471) -/

/-- A faulting line blocks the save, and F7 is told. -/
theorem execSaveLineFault_blocks {s : State} {v : Save} {c : Ctx} (hk : (s.jobs.find? s.args.a).isSome = true) (hv : (s.jobOf s.args.a).save = some v)
    (hc : s.ctxs.find? (s.jobOf s.args.a).ctx = some c) (hs : c.state = .active ∨ c.state = .stopped) :
    ∃ t, execSaveLineFault s = .next t ∧ (t.jobOf s.args.a).save = some { v with blocks := v.blocks + 1, since := some s.now } ∧
      (t.ctxOf (s.jobOf s.args.a).ctx).state = .saveBlocked ∧ (∃ m ∈ t.mail, m.type = 0x0501 ∧ m.payload = [(s.jobOf s.args.a).ctx]) ∧
      ⟨s.now + (if 5 ≤ v.blocks + 1 then 0 else 24000000), .event .saveBlockTimeout { a := s.args.a, b := v.blocks + 1 }⟩ ∈ t.agenda := by
  refine ⟨_, rfl, ?_⟩
  simp only [hv]
  refine ⟨?_, ?_, ?_, ?_⟩
  · rw [State.post_jobOf, State.send_jobOf, State.modCtx_jobOf, State.jobOf_modJob_self _ _ hk]
  · have h1 := State.ctxOf_modCtx_self (s := s.modJob s.args.a (fun j => { j with save := some { v with blocks := v.blocks + 1, since := some s.now } }))
      (fun c => if c.state = .active || c.state = .stopped then { c with state := .saveBlocked } else c) (by simpa using hc)
    simp only [State.ctxOf, State.post_ctxs, State.send_ctxs] at h1 ⊢
    rw [h1, if_pos (by simpa using hs)]
  · exact ⟨_, List.mem_append_right _ (List.mem_singleton_self _), rfl, rfl⟩
  · simp [State.post]

/-- A save that stands blocked at the same line as when its timer began ends in a freeze. -/
theorem execSaveBlockTimeout_freezes {s : State} {v : Save} (hv : (s.jobOf s.args.a).save = some v) (hsince : v.since.isSome = true)
    (hb : v.blocks = s.args.b) : execSaveBlockTimeout s = .next (s.freeze (s.jobOf s.args.a).ctx causeSave) := by
  simp [execSaveBlockTimeout, hv, hsince, hb]

/-! ### The end of a save (01 R33, 20 R470) -/

@[simp] theorem State.settleCtx_jobs (s : State) (ctx : Nat) : (s.settleCtx ctx).jobs = s.jobs := by simp [State.settleCtx]
@[simp] theorem State.settleCtx_mem (s : State) (ctx : Nat) : (s.settleCtx ctx).mem = s.mem := by simp [State.settleCtx]

@[simp] theorem State.vacate_mem (s : State) (k : Nat) : (s.vacate k).mem = s.mem := by
  unfold State.vacate; dsimp only; split <;> simp [State.dropAcsWait]
@[simp] theorem State.vacate_isSome (s : State) (k n : Nat) : ((s.vacate k).jobs.find? n).isSome = (s.jobs.find? n).isSome := by
  unfold State.vacate; dsimp only; split <;> simp [State.dropAcsWait]

/-- A job that has given up its core holds no accumulator blocks. -/
theorem State.vacate_acs {s : State} {k : Nat} (h : (s.jobs.find? k).isSome = true) : ((s.vacate k).jobOf k).acs = [] := by
  unfold State.vacate
  dsimp only
  rw [State.unpost_jobOf, (State.freeAcs_beside _ _ _).jobOf, State.dropAcsWait, State.modCore_jobOf, State.jobOf_modJob_self]
  split <;> simpa using h

/-- A job off its core, with its save complete. -/
def Job.offCore (j : Job) (reason now : Nat) : Job :=
  { j with save := none, status := if reason = 2 then .parked else .preempted, leftAt := now, ready := reason = 1, parking := false, preempt := none
           cycBase := j.cycBase + (now - j.cycSince) }

/-- The header of a save is written, and the job has left its core; the rest concerns its context and the schedulers. -/
theorem execSaveComplete_leaves {s u : State} {va : Nat} {v : Save} (hv : (s.jobOf s.args.a).save = some v) (ha : (s.jobOf s.args.a).saveArea = some va)
    (hw : s.vaWrite (s.jobOf s.args.a).ctx va (s.saveHeader s.args.a v.reason) = some u) :
    ∃ t, execSaveComplete s = .next t ∧ t.jobs = ((u.vacate s.args.a).modJob s.args.a (fun j => j.offCore v.reason s.now)).jobs ∧ t.mem = u.mem := by
  refine ⟨_, rfl, ?_⟩
  simp only [hv, ha, hw]
  split
  · exact ⟨by simp [Job.offCore], by simp⟩
  · exact ⟨by simp [Job.offCore], by simp⟩

/-! ### Resumption (01 R34, R40) -/

theorem State.restoreUnits_beside (s : State) (k : Nat) (b : List Byte) (bad : Nat → Bool) : s.Beside (s.restoreUnits k b bad) :=
  (State.Beside.foldl (fun s _ => .modCore s _ _) _ s).trans (.foldl (fun s _ => .modCore s _ _) _ _)

theorem State.restoreAcs_beside (s : State) (k : Nat) (b : List Byte) (bad : Nat → Bool) : s.Beside (s.restoreAcs k b bad) :=
  State.Beside.foldl (fun s _ => .modCore s _ _) _ s

theorem State.askArray_beside (s : State) (core : Nat) : s.Beside (s.askArray core) := by
  unfold State.askArray
  dsimp only
  split
  · split
    · exact .modCore s _ _
    · exact (State.Beside.modCore s _ _).trans (.ensure _ _ _ _)
  · exact (State.Beside.modCore s _ _).trans (.ensure _ _ _ _)

/-- A job that runs again, with the registers of save area `b`. -/
def Job.resumeFrom (j : Job) (b : List Byte) (now : Nat) : Job :=
  let r := j.reload b
  { r with
    status := .running, ready := false, parking := false, acsKeep := 0, code := []
    a := r.a.resumed now, m := r.m.resumed now, v := r.v.resumed now, x := r.x.resumed now }

/-- A stream of it. -/
theorem Job.stream_resumeFrom (j : Job) (b : List Byte) (now : Nat) (l : Letter) :
    (j.resumeFrom b now).stream l = ((j.stream l).reload l (sliceOf b (0x100 + 768 * letterNum l) 768)).resumed now := by cases l <;> rfl

/-- A stream that was in its section fetches the section's header again, and goes on from its place there. -/
theorem Stream.resumed_entering {t : Stream} {y : Section} (he : t.entering = none) (hx : t.sect = some y) {now : Nat} {l : Letter} {b : List Byte} :
    ((t.reload l b).resumed now).entering = some ⟨y.base, t.pc, none, true⟩ := by
  simp only [Stream.resumed, Stream.reload, he, hx]

/-- Job `k` with its stores written and its registers set from save area `b`. -/
def State.restored (s : State) (k : Nat) (b : List Byte) (bad : Nat → Bool) (now : Nat) : State :=
  ((s.restoreUnits k b bad).restoreAcs k b bad).modJob k (fun j => j.resumeFrom b now)

/-- The streams of job `k` that have not ended are due in the next cycle. -/
def State.pollAll (s : State) (k : Nat) : State := letters.foldl (fun s l => if ((s.jobOf k).stream l).ended then s else s.poll ⟨k, l⟩) s

theorem State.pollAll_beside (s : State) (k : Nat) : s.Beside (s.pollAll k) :=
  State.Beside.foldl (fun s l => by
    split
    · exact .refl s
    · exact .poll s _) _ s

theorem State.restored_jobOf {s : State} {k : Nat} (b : List Byte) (bad : Nat → Bool) (now : Nat) (hk : (s.jobs.find? k).isSome = true) :
    (s.restored k b bad now).jobOf k = (s.jobOf k).resumeFrom b now := by
  have hb := (s.restoreUnits_beside k b bad).trans (State.restoreAcs_beside _ k b bad)
  rw [State.restored, State.jobOf_modJob_self _ _ (by rw [hb.jobs]; exact hk), hb.jobOf]

theorem State.restored_flights (s : State) (k : Nat) (b : List Byte) (bad : Nat → Bool) (now : Nat) : (s.restored k b bad now).flights = s.flights := by
  rw [State.restored, State.modJob_flights, ((s.restoreUnits_beside k b bad).trans (State.restoreAcs_beside _ k b bad)).flights]

/-- The job of a context has nothing to ask of a pool where no `LAUNCHP` of it is under way. -/
theorem State.resumePool_of_none {s : State} {k : Nat} (h : s.parkFlight k = none) : s.resumePool k = s := by simp only [State.resumePool, h]

/-- A job resumes from a valid save area in one step: its stores are written, its registers set, and its streams are due (01 R40). -/
theorem execJobResume_restores {s u : State} {va n : Nat} {b : List Byte} (hs : (s.jobOf s.args.a).status = .resuming) (hz : (s.jobOf s.args.a).frozen = false)
    (ha : (s.jobOf s.args.a).acsKeep = 0) (hv : (s.jobOf s.args.a).saveArea = some va)
    (hn : saveSize (s.jobOf s.args.a).tileCount (s.jobOf s.args.a).scrSize - 49152 * 32 = n)
    (hr : s.vaRead (s.jobOf s.args.a).ctx va n = some b) (hb : fieldOf b 4 1 = 1)
    (hw : (s.markVa (s.jobOf s.args.a).ctx va n).vaWrite (s.jobOf s.args.a).ctx (va + 4) [0] = some u) :
    execJobResume s = .next (
      let t := State.pollAll ((u.restored s.args.a b (fun o => s.vaBad (s.jobOf s.args.a).ctx (va + o) 128) s.now).resumePool s.args.a) s.args.a
      if (s.jobOf s.args.a).lease then t.askArray (s.jobOf s.args.a).coreKey else t) := by
  unfold execJobResume
  -- as variables the read and the write are not run when the kernel compares the branches below them
  obtain ⟨read, hread⟩ : ∃ f, f = State.vaRead := ⟨_, rfl⟩
  obtain ⟨write, hwrite⟩ : ∃ f, f = State.vaWrite := ⟨_, rfl⟩
  rw [← hread] at hr ⊢
  rw [← hwrite] at hw ⊢
  simp only [-Nat.reduceMul, hs, hz, ha, hv, hn, hr, hb, hw, ne_eq, not_true, decide_false, Bool.or_self, Bool.false_and, Bool.false_eq_true, if_false,
    Nat.mul_zero, Nat.add_zero]
  rfl

/-- The job has then the registers of the area. -/
theorem execJobResume_job {s u : State} {va n : Nat} {b : List Byte} (hs : (s.jobOf s.args.a).status = .resuming) (hz : (s.jobOf s.args.a).frozen = false)
    (hk : (s.jobs.find? s.args.a).isSome = true) (ha : (s.jobOf s.args.a).acsKeep = 0) (hv : (s.jobOf s.args.a).saveArea = some va)
    (hn : saveSize (s.jobOf s.args.a).tileCount (s.jobOf s.args.a).scrSize - 49152 * 32 = n)
    (hr : s.vaRead (s.jobOf s.args.a).ctx va n = some b) (hb : fieldOf b 4 1 = 1)
    (hw : (s.markVa (s.jobOf s.args.a).ctx va n).vaWrite (s.jobOf s.args.a).ctx (va + 4) [0] = some u) (hp : s.parkFlight s.args.a = none) :
    ∃ t, execJobResume s = .next t ∧ t.jobOf s.args.a = (s.jobOf s.args.a).resumeFrom b s.now := by
  refine ⟨_, execJobResume_restores hs hz ha hv hn hr hb hw, ?_⟩
  have hu : s.Beside u := (State.Beside.markVa _ _ _ _).trans (.vaWrite hw)
  generalize (fun o => s.vaBad (s.jobOf s.args.a).ctx (va + o) 128) = bad
  have hnone : (u.restored s.args.a b bad s.now).parkFlight s.args.a = none := by
    rw [State.parkFlight, State.restored_flights, hu.flights]; exact hp
  have hjob : (State.pollAll (u.restored s.args.a b bad s.now) s.args.a).jobOf s.args.a = (s.jobOf s.args.a).resumeFrom b s.now := by
    rw [(State.pollAll_beside _ _).jobOf, State.restored_jobOf _ _ _ (by rw [hu.jobs]; exact hk), hu.jobOf]
  rw [State.resumePool_of_none hnone]
  dsimp only
  split
  · rw [(State.askArray_beside _ _).jobOf]; exact hjob
  · exact hjob

/-! ### The events of saves -/

/-- Settles O38: each event's own lemma, with what it leaves of the job. -/
theorem saveEvents : Obligations.SaveEvents := by
  unfold Obligations.SaveEvents
  refine ⟨?park, ?request, ?preempted, ?overrun, ?stall, ?fault, ?timeout, ?complete, ?resume⟩
  case park =>
    intro s k hk hl hp ho hv hf hd
    subst hk
    obtain ⟨v, hsave, hreason⟩ := State.beginSave_reason 2 hl
    exact ⟨_, v, execJobPark_saves hp ho hv hf hd, hsave, hreason⟩
  case request =>
    intro s k hk hb hl ho hs hp hv hn
    subst hk
    have h := State.requestPreempt_pending hl ho hs hp hv hn
    exact ⟨_, congrArg (fun w => Host.Outcome.next (s.requestPreempt s.args.a w)) hb, h⟩
  case preempted =>
    intro s k hk hl hp ho hv hz hs hset hd
    subst hk
    obtain ⟨v, hsave, hreason⟩ := State.beginSave_reason 1 hl
    exact ⟨_, v, execJobPreempted_saves hp ho hv hz hs hset hd, hsave, hreason⟩
  case overrun =>
    intro s r hr hl hs hp he
    subst hr
    exact ⟨_, _, rfl, State.raise_error _ _ _ hl hs hp he, rfl, rfl, by rw [State.strOf_raise _ _ _ _ _ hl]⟩
  case stall =>
    intro s k n c hk hn hl ho hv hp hc h1 h2
    subst hk hn
    obtain ⟨g1, g2, g3⟩ := State.freezeFor_freezes s.args.a 54 hc h1 h2
    exact ⟨_, execPreemptStall_freezes ho hv hp, g1, g2, g3 _ hl rfl⟩
  case fault =>
    intro s k v c hk hl hv hc hs
    subst hk
    exact execSaveLineFault_blocks hl hv hc hs
  case timeout =>
    intro s k n v c hk hn hl hv hsince hb hc h1 h2
    subst hk hn
    obtain ⟨g1, g2, -⟩ := State.freeze_freezes causeSave hc h1 h2
    exact ⟨_, execSaveBlockTimeout_freezes hv hsince hb, g1, g2⟩
  case complete =>
    intro s u k va v hk hl hv ha hw
    subst hk
    obtain ⟨t, ht, hjobs, hmem⟩ := execSaveComplete_leaves hv ha hw
    have hu : (u.jobs.find? s.args.a).isSome = true := by rw [(State.Beside.vaWrite hw).jobs]; exact hl
    have hjob : t.jobOf s.args.a = ((u.vacate s.args.a).jobOf s.args.a).offCore v.reason s.now := by
      rw [State.jobOf, hjobs]
      exact State.jobOf_modJob_self _ _ (by simpa using hu)
    refine ⟨t, ht, ?_⟩
    rw [hjob]
    exact ⟨rfl, rfl, rfl, rfl, State.vacate_acs hu, rfl, hmem⟩
  case resume =>
    intro s u k va b hk hl hs hz ha hv hr hb hw hp
    subst hk
    obtain ⟨t, ht, hjob⟩ := execJobResume_job hs hz hl ha hv rfl hr hb hw hp
    have hstr (l : Letter) : t.strOf ⟨s.args.a, l⟩ = ((s.strOf ⟨s.args.a, l⟩).reload l (sliceOf b (0x100 + 768 * letterNum l) 768)).resumed s.now :=
      (congrArg (fun j => Job.stream j l) hjob).trans (Job.stream_resumeFrom _ _ _ l)
    refine ⟨t, ht, ?_, ?_, ?_, fun l => ⟨?_, ?_, fun y he hx => ⟨?_, ?_⟩⟩⟩
    · rw [hjob]; rfl
    · rw [hjob]; rfl
    · rw [hjob]; rfl
    · rw [hstr]; rfl
    · rw [hstr]; rfl
    · rw [hstr]; exact Stream.resumed_entering he hx
    · rw [hstr]; rfl

end Sys2Proof.Machine

namespace Sys2Proof.Machine

/-! ### Commands that work on the on-core stores for a fixed time (17 R405) -/

/-- A command that works on the on-core stores is in flight once it has issued, and its completion point comes after its latency. -/
theorem State.dataOut_worksFor {s e : State} {c : Ctl} {u : Use} {op : DataOp} {n : Nat} {tiles : List Nat} {engine : Option Nat}
    (hc : e.cur = s.cur) (hi : e.nextId = s.nextId) (hn : e.now = s.now) :
    s.WorksFor e c u.dst op engine n (e.dataOut c u op (.after n) tiles engine) := by
  have g := State.Moved.onward (((e.fly c u op.fresh u.dst tiles engine).effectLater e.nextId).pace e.nextId (.after n)) u none
  have hcur : (((e.fly c u op.fresh u.dst tiles engine).effectLater e.nextId).pace e.nextId (.after n)).cur = s.cur := hc
  rw [hcur] at g
  have hf : (e.dataOut c u op (.after n) tiles engine).flights = e.flights.set e.nextId
      ⟨e.cur, e.st.visit, c.sig, u.dst, tiles, engine, 0, e.st.cmdStart, u.opc, e.st.num, op.fresh⟩ := g.flights
  have hx : State.Frame s.cur e (((e.fly c u op.fresh u.dst tiles engine).effectLater e.nextId).pace e.nextId (.after n)) := .of_jobs rfl rfl
  refine ⟨⟨hx.trans g.frame, g.signal, g.flags, ?_, ?_, ?_⟩, ?_⟩
  · rw [hf, ← hi]
    exact ⟨_, Map.find?_set_self _ _ _, hc, rfl, rfl, rfl, rfl, rfl⟩
  · intro k hk
    rw [hf, Map.find?_set_ne _ _ (hi ▸ hk)]
  · refine ⟨e.now + Config.delay e.ticket, by omega, State.mem_agenda_onward ?_⟩
    simp [State.effectLater, State.pace, State.sched, State.draw, State.fly, State.newId, hi]
  · refine State.mem_agenda_onward ?_
    simp [State.effectLater, State.pace, State.sched, State.draw, State.fly, State.newId, hi, hn]

/-- A command that issues and answers work on the on-core stores of a fixed latency. -/
theorem command_data {s e : State} {c : Ctl} {u : Use} {f : State → Act} {op : DataOp} {n : Nat} {tiles : List Nat} {engine : Option Nat}
    (h : s.Issues c u.regs u.preds u.gw u.ga u.irrev) (hf : f s = .data e op (.after n) tiles engine) (hc : e.cur = s.cur)
    (hi : e.nextId = s.nextId) (hn : e.now = s.now) : ∃ t, command c u f s = .next t ∧ s.WorksFor e c u.dst op engine n t :=
  ⟨_, command_next h, by rw [hf]; exact State.dataOut_worksFor hc hi hn⟩

/-! ### Completion points -/

/-- A flight that reaches its completion point. -/
theorem State.finish_completes {s : State} {k : Nat} {f : Flight} (fl : Flags) (hf : s.flights.find? k = some f)
    (hj : (s.jobs.find? f.ref.job).isSome = true) : s.Completes k f (f.flags ||| fl) (s.finish k fl) := by
  obtain ⟨-, hsig, hflags, hflights, -⟩ :=
    ({ s with flights := s.flights.erase k } : State).complete_job f.ref { Ctl.plain with sig := f.sig } (f.flags ||| fl) hj
  have hr := State.Moved.checkRetire f.ref f.ref (({ s with flights := s.flights.erase k } : State).complete f.ref f.sig (f.flags ||| fl))
  have hs : s.finish k fl = (({ s with flights := s.flights.erase k } : State).complete f.ref f.sig (f.flags ||| fl)).checkRetire f.ref := by
    simp only [State.finish, hf]
  rw [hs]
  refine ⟨?_, hr.signal.trans hsig, hr.flags.trans hflags⟩
  rw [hr.flights, hflights]
  exact Map.find?_erase_self _ _

theorem State.finish_of_gone {s : State} {k : Nat} (fl : Flags) (h : s.flights.find? k = none) : s.finish k fl = s := by
  simp only [State.finish, h]

/-! ### Arrival words (02 R77, R78, 09 R259) -/

theorem execAwinit_works {o : OpAw} {s : State} {a : Nat} (h : s.Issues o.c [.s o.a, .s o.v])
    (ha : s.scrOperand o.a (o.off.signExtend 64) 16 16 = .ok a) :
    ∃ t, execAwinit o s = .next t ∧ s.WorksFor s o.c [] (.awInit a (s.job.scrAddr a)
      (AWord.bytes ⟨(s.sget o.v).toNat % 2 ^ 32, 0, (s.sget o.v).toNat / 2 ^ 32, 0, 0⟩)) none 2 t :=
  command_data (u := { opc := 0x0D0, regs := [.s o.a, .s o.v] }) h (by rw [ha]; rfl) rfl rfl rfl

theorem awrd_works {o : OpAwrd} {s : State} {a : Nat} (clr : Bool) (h : s.Issues o.c [.s o.d, .s (o.d + 1), .s o.a])
    (ha : s.scrOperand o.a (o.off.signExtend 64) 16 16 = .ok a) :
    ∃ t, command o.c { opc := 0x0D2, regs := [.s o.d, .s (pairReg o.d), .s o.a], dst := dataRegs o.d 4 } (awrdBody o clr) s = .next t ∧
      s.WorksFor s o.c [.s o.d, .s (o.d + 1)] (.awRead o.d a (s.job.scrAddr a) clr) none 3 t :=
  command_data (u := { opc := 0x0D2, regs := [.s o.d, .s (pairReg o.d), .s o.a], dst := dataRegs o.d 4 }) h
    (by rw [awrdBody, ha]; rfl) rfl rfl rfl

theorem awGo_iff {gen : Nat} {v : BitVec 32} : awGo gen v = true ↔ 0 < (BitVec.ofNat 32 gen - v).toInt := decide_eq_true_iff

theorem awwaitBody_ok {o : OpAw} {s : State} {a : Nat} (ha : s.scrOperand o.a (o.off.signExtend 64) 16 16 = .ok a) :
    awwaitBody o s =
      if awGo (AWord.ofBytes (s.scrRead s.job a 16)).gen ((s.sget o.v).setWidth 32) || s.st.awaits == some (a, (s.sget o.v).setWidth 32, true)
      then .done s 0
      else .wait (s.modSt (fun t => { t with awaits := some (a, (s.sget o.v).setWidth 32, false) })) := by
  rw [awwaitBody, ha]
  rfl

@[simp] theorem State.awSeen_cores (s : State) (k a n : Nat) : (s.awSeen k a n).cores = s.cores := State.modJob_cores _ _ _
@[simp] theorem State.awSeen_flights (s : State) (k a n : Nat) : (s.awSeen k a n).flights = s.flights := State.modJob_flights _ _ _

theorem State.awSeen_awErr {s : State} {k : Nat} (a n : Nat) (h : (s.jobs.find? k).isSome = true) :
    ((s.awSeen k a n).jobOf k).awErr = (s.jobOf k).awErr := by
  rw [State.awSeen, State.jobOf_modJob_self _ _ h]

/-- An update of an arrival word leaves the work in flight alone. -/
theorem State.awUpdate_flights {s t : State} {n : Nat} {op : DataOp} {o : List Owed} (h : s.awUpdate n op = .ok (t, o)) : t.flights = s.flights := by
  unfold State.awUpdate at h
  dsimp only at h
  split at h
  · cases h
    simp
  · split at h
    · cases h
    · cases h
      split
      · simp
      · rfl
  · cases h
    rfl

/-- One step of a command that updates or reads an arrival word does the whole of it. -/
theorem State.dataStep_single {s t : State} {k : Nat} {f : Flight} {d : DataWork} {o : List Owed} (hf : s.flights.find? k = some f)
    (hw : f.work = .data d) (h1 : d.op.single = true) (hn : d.need = some []) (ho : d.outs = none) (ht : s.awUpdate f.ref.job d.op = .ok (t, o)) :
    s.dataStep k = t.setData k { d with outs := some [], owed := o } := by
  have hd : s.dataOf k = some (f, d) := by simp only [State.dataOf, hf, hw]
  simp only [State.dataStep, hd, hn, ho, State.makeData, h1, if_true, ht]

theorem AWord.land_errs (w : AWord) (err faulted : Bool) (n : Nat) :
    (w.land err n faulted).1.errs = if faulted then min (w.errs + 1) 65535 else w.errs := by
  unfold AWord.land
  dsimp only
  split
  · rfl
  · split <;> rfl

/-- A word without a target counts, up to the greatest count. -/
theorem AWord.land_untargeted {w : AWord} {err faulted : Bool} {n : Nat} (h : w.target = 0) :
    (w.land err n faulted).1.gen = w.gen ∧ (w.land err n faulted).1.count = min (w.count + n) 0xFFFFFFFF := by
  simp [AWord.land, h]

theorem AWord.land_short {w : AWord} {err faulted : Bool} {n : Nat} (h : w.target ≠ 0) (hn : w.count + n < w.target) :
    (w.land err n faulted).1.gen = w.gen ∧ (w.land err n faulted).1.count = w.count + n ∧ (w.land err n faulted).2 = (err || faulted) := by
  simp [AWord.land, h, Nat.not_le.mpr hn]

/-- A landing that reaches the target starts the next generation. -/
theorem AWord.land_full {w : AWord} {err faulted : Bool} {n : Nat} (h : w.target ≠ 0) (hn : w.target ≤ w.count + n) :
    (w.land err n faulted).1.gen = (w.gen + 1) % 2 ^ 32 ∧ (w.land err n faulted).1.count = w.count + n - w.target ∧
      (w.land err n faulted).2 = false := by
  simp [AWord.land, h, hn]

/-! ### Fences (03 R95, 09 R260) -/

/-- The start of a fence changes nothing but copies, combine buffers and the agenda. -/
theorem State.Beside.fenceStart (s : State) (r : Ref) (acq : Bool) (x : Scope) : s.Beside (s.fenceStart r acq x) := by
  unfold State.fenceStart
  dsimp only
  split
  · exact .refl s
  · split
    · exact .modCore s _ _
    · exact .foldl (fun s _ => (State.Beside.modCore s _ _).trans (.later _ _ _)) _ s

theorem State.Beside.cur {s t : State} (h : s.Beside t) : t.cur = s.cur := h.field State.cur fun _ => rfl

/-- What a fence waits for: the reads of earlier commands, or the writes (03 R95). -/
def State.fenceOpen (s : State) (acq : Bool) (r : Ref) (x : Scope) (k n : Nat) : Bool :=
  if acq then s.acquired r x k else s.released r x k n

theorem fenceBody_open {o : OpFence} {u : Use} {acq : Bool} {s : State} (h : s.fenceOpen acq s.cur o.scope s.nextId s.now = true) :
    fenceBody o u acq s = .done (s.fenceStart s.cur acq o.scope) 0 := if_pos h

theorem fenceBody_shut {o : OpFence} {u : Use} {acq : Bool} {s : State} (h : s.fenceOpen acq s.cur o.scope s.nextId s.now = false) :
    fenceBody o u acq s = .fly ((s.fenceStart s.cur acq o.scope).fly o.c u (.fence acq o.scope s.now) []) :=
  if_neg (Bool.eq_false_iff.mp h)

/-- A fence whose conditions hold completes at issue. -/
theorem fence_done {o : OpFence} {s : State} {acq : Bool} (h : s.Issues o.c []) (hr : s.fenceOpen acq s.cur o.scope s.nextId s.now = true) :
    ∃ t, command o.c { opc := 0x0D3 } (fenceBody o { opc := 0x0D3 } acq) s = .next t ∧ s.Done (s.fenceStart s.cur acq o.scope) o.c 0 t :=
  have hb := State.Beside.fenceStart s s.cur acq o.scope
  command_done (u := { opc := 0x0D3 }) h rfl (fenceBody_open hr) hb.cur (by rw [hb.jobs]; exact h.listed)

/-- Another fence is in flight. -/
theorem fence_flies {o : OpFence} {s : State} {acq : Bool} (h : s.Issues o.c []) (hr : s.fenceOpen acq s.cur o.scope s.nextId s.now = false) :
    ∃ t f, command o.c { opc := 0x0D3 } (fenceBody o { opc := 0x0D3 } acq) s = .next t ∧
      t.flights.find? (s.fenceStart s.cur acq o.scope).nextId = some f ∧ f.ref = s.cur ∧ f.sig = o.c.sig ∧ f.work = .fence acq o.scope s.now := by
  have hb := State.Beside.fenceStart s s.cur acq o.scope
  obtain ⟨t, ht, hm⟩ := command_fly (u := { opc := 0x0D3 }) h (fenceBody_shut hr) hb.cur
  exact ⟨t, _, ht, (congrArg (Map.find? · _) hm.flights).trans (Map.find?_set_self _ _ _), hb.cur, rfl, rfl⟩

/-- What `State.checkFences` does with one command in flight. -/
def State.checkFence (s : State) (e : Nat × Flight) : State :=
  match e.2.work with
  | .fence acq x t =>
    if s.fenceOpen acq e.2.ref x e.1 t then (if acq then s.fenceStart e.2.ref true x else s).finish e.1 0 else s
  | _ => s

theorem State.checkFences_eq (s : State) : s.checkFences = s.flights.foldl State.checkFence s := rfl

theorem State.checkFence_other {s : State} {e : Nat × Flight} (h : ∀ b y m, e.2.work ≠ .fence b y m) : s.checkFence e = s := by
  unfold State.checkFence
  split
  next b y m hw => exact absurd hw (h b y m)
  · rfl

/-- A completed command stays so while the jobs and the rest in flight stay. -/
theorem State.Completes.of_same {s t u : State} {k : Nat} {f : Flight} {fl : Flags} (h : s.Completes k f fl t) (hj : u.jobs = t.jobs)
    (hf : u.flights = t.flights) : s.Completes k f fl u := by
  have hk : u.jobOf f.ref.job = t.jobOf f.ref.job := by simp only [State.jobOf, hj]
  exact ⟨hf ▸ h.gone, hk ▸ h.signal, hk ▸ h.flags⟩

theorem State.fenceStart_same (s : State) (acq : Bool) (r : Ref) (x : Scope) :
    (if acq then s.fenceStart r true x else s).jobs = s.jobs ∧ (if acq then s.fenceStart r true x else s).flights = s.flights := by
  have hb := State.Beside.fenceStart s r true x
  split
  · exact ⟨hb.jobs, hb.flights⟩
  · exact ⟨rfl, rfl⟩

/-- A fence that has completed is not completed again. -/
theorem State.Completes.checkFence {s t : State} {k : Nat} {f : Flight} {fl : Flags} (h : s.Completes k f fl t) {e : Nat × Flight}
    (he : e.1 = k ∨ ∀ b y m, e.2.work ≠ .fence b y m) : s.Completes k f fl (t.checkFence e) := by
  rcases he with he | he
  · unfold State.checkFence
    split
    next acq x n _ =>
      obtain ⟨hj, hf⟩ := t.fenceStart_same acq e.2.ref x
      split
      · rw [State.finish_of_gone 0 (by rw [hf, he]; exact h.gone)]
        exact h.of_same hj hf
      · exact h
    · exact h
  · rw [State.checkFence_other he]
    exact h

theorem State.Completes.checkRest {s : State} {k : Nat} {f : Flight} {fl : Flags} {l : Map Flight}
    (hl : ∀ e ∈ l, e.1 = k ∨ ∀ b y m, e.2.work ≠ .fence b y m) : ∀ {t}, s.Completes k f fl t → s.Completes k f fl (l.foldl State.checkFence t) := by
  induction l with
  | nil => exact id
  | cons e l ih => exact fun h => ih (fun x hx => hl x (List.mem_cons_of_mem _ hx)) (h.checkFence (hl e List.mem_cons_self))

/-- A fence in flight whose conditions hold completes. -/
theorem State.checkFence_completes {s : State} {k n : Nat} {f : Flight} {acq : Bool} {x : Scope} (hf : s.flights.find? k = some f)
    (hw : f.work = .fence acq x n) (hr : s.fenceOpen acq f.ref x k n = true) (hj : (s.jobs.find? f.ref.job).isSome = true) :
    s.Completes k f f.flags (s.checkFence (k, f)) := by
  obtain ⟨hsj, hsf⟩ := s.fenceStart_same acq f.ref x
  have hc := State.finish_completes (s := if acq then s.fenceStart f.ref true x else s) 0 (by rw [hsf]; exact hf) (by rw [hsj]; exact hj)
  have hk : (if acq then s.fenceStart f.ref true x else s).jobOf f.ref.job = s.jobOf f.ref.job := by simp only [State.jobOf, hsj]
  have he : s.checkFence (k, f) = (if acq then s.fenceStart f.ref true x else s).finish k 0 := by
    simp only [State.checkFence, hw, hr, if_true]
  rw [he]
  obtain ⟨hg, hs, hfl⟩ := hc
  rw [hk] at hs hfl
  exact ⟨hg, hs, by simpa using hfl⟩

/-- The one fence in flight, if its conditions hold, completes, wherever it stands among the flights. -/
theorem State.checkAll_completes {s : State} {k n : Nat} {f : Flight} {acq : Bool} {x : Scope} (hf : s.flights.find? k = some f)
    (hw : f.work = .fence acq x n) (hr : s.fenceOpen acq f.ref x k n = true) (hj : (s.jobs.find? f.ref.job).isSome = true) {l : Map Flight}
    (hl : ∀ e ∈ l, e.1 = k ∨ ∀ b y m, e.2.work ≠ .fence b y m) (hk : l.find? k = some f) : s.Completes k f f.flags (l.foldl State.checkFence s) := by
  induction l with
  | nil => cases hk
  | cons e l ih =>
    have hrest : ∀ y ∈ l, y.1 = k ∨ ∀ b z m, y.2.work ≠ .fence b z m := fun y hy => hl y (List.mem_cons_of_mem _ hy)
    obtain ⟨i, g⟩ := e
    by_cases hi : i = k
    · subst hi
      have hg : g = f := by simpa [Map.find?] using hk
      subst hg
      exact State.Completes.checkRest hrest (State.checkFence_completes hf hw hr hj)
    · have hx : s.checkFence (i, g) = s := State.checkFence_other ((hl (i, g) List.mem_cons_self).resolve_left hi)
      rw [List.foldl_cons, hx]
      refine ih hrest ?_
      simpa [Map.find?, hi] using hk

/-- Settles O30: each clause is the lemma above it about its command or update. -/
theorem arrivalWordsAndFences : Obligations.ArrivalWordsAndFences := by
  refine ⟨fun o s a h ha => execAwinit_works h ha, fun o s a h ha => ⟨fun hg => ?_, fun hg hw => ?_⟩,
    fun o s a h ha => ⟨awrd_works false h ha, awrd_works true h ha⟩, fun s t k f d o hf hw h1 hn ho ht => ?_, fun s n w a v hj => ?_,
    fun s n w a d clr hb => ?_, fun o s h => ⟨fun hr => fence_done (acq := false) h hr, fun hr => fence_flies (acq := false) h hr,
      fun hr => fence_done (acq := true) h hr, fun hr => fence_flies (acq := true) h hr⟩,
    fun s k n f acq x hf hw hr hl hj => State.checkAll_completes hf hw hr hj hl hf,
    fun w err faulted n => ⟨AWord.land_untargeted, AWord.land_short, AWord.land_full, w.land_errs err faulted n⟩⟩
  · refine command_done (u := { opc := 0x0D1, regs := [.s o.a, .s o.v] }) h rfl ?_ rfl h.listed
    rw [awwaitBody_ok ha, if_pos]
    rw [Bool.or_eq_true, awGo_iff, beq_iff_eq]
    exact hg
  · refine command_wait (u := { opc := 0x0D1, regs := [.s o.a, .s o.v] }) h ?_
    rw [awwaitBody_ok ha, if_neg]
    rw [Bool.or_eq_true, awGo_iff, beq_iff_eq]
    exact not_or.mpr ⟨Int.not_lt.mpr hg, hw⟩
  · rw [State.dataStep_single hf hw h1 hn ho ht, State.setData]
    refine ⟨?_, State.modFlight_cores _ _ _⟩
    have hft : t.flights.find? k = some f := by rw [State.awUpdate_flights ht]; exact hf
    simp [State.modFlight, hft]
  · refine ⟨_, rfl, by simp; rfl, ?_⟩
    rw [State.awSeen_awErr _ _ (by simpa using hj), State.jobOf_modJob_self _ _ (by simpa using hj)]
    simp [NatSet.erase]
  · have hu : s.awUpdate n (.awRead d w a clr) = _ := if_neg (Bool.eq_false_iff.mp hb)
    refine ⟨_, hu, fun hc => ?_, fun hc => ?_⟩
    · rw [hc]; rfl
    · rw [hc]; exact State.awSeen_cores _ _ _ _

end Sys2Proof.Machine

namespace Sys2Proof.Machine

/-! ### The matrix array's own state (11 R304 to R312) -/

@[simp] theorem State.modArray_jobs (s : State) (c : Nat) (f : ArrayState → ArrayState) : (s.modArray c f).jobs = s.jobs := rfl
@[simp] theorem State.modArray_flights (s : State) (c : Nat) (f : ArrayState → ArrayState) : (s.modArray c f).flights = s.flights := rfl

@[simp] theorem State.modArray_self (s : State) (c : Nat) (f : ArrayState → ArrayState) :
    (s.modArray c f).coreOf c = { s.coreOf c with array := f (s.coreOf c).array } := State.coreOf_modCore_self s c _

/-- What lies outside the array stays. -/
theorem State.modArray_keeps {α : Type} (g : Core → α) (hg : ∀ (x : Core) (a : ArrayState), g { x with array := a } = g x) (s : State) (c k : Nat)
    (f : ArrayState → ArrayState) : g ((s.modArray c f).coreOf k) = g (s.coreOf k) := by
  by_cases h : k = c
  · rw [h, State.modArray_self, hg]
  · rw [State.modArray, State.coreOf_modCore_ne _ _ h]

@[simp] theorem State.modArray_tileRead (s : State) (c : Nat) (f : ArrayState → ArrayState) (j : Job) (t off n : Nat) :
    (s.modArray c f).tileRead j t off n = s.tileRead j t off n := by
  rw [State.tileRead, State.modArray_keeps Core.tiles (fun _ _ => rfl), State.tileRead]

@[simp] theorem State.modArray_tileBad (s : State) (c : Nat) (f : ArrayState → ArrayState) (j : Job) (t off n : Nat) :
    (s.modArray c f).tileBad j t off n = s.tileBad j t off n := by
  rw [State.tileBad, State.modArray_keeps Core.tiles (fun _ _ => rfl), State.tileBad]

theorem State.foldl_keeps {α β : Type} (g : State → α) {f : State → β → State} (hf : ∀ s b, g (f s b) = g s) (l : List β) (s : State) :
    g (l.foldl f s) = g s := by
  induction l generalizing s with
  | nil => rfl
  | cons b l ih => exact (ih _).trans (hf s b)

/-! ### Completion points of the array's commands -/

@[simp] theorem State.complete_cores (s : State) (r : Ref) (g : Option (BitVec 8 × BitVec 3)) (fl : BitVec 5) : (s.complete r g fl).cores = s.cores := by
  unfold State.complete
  dsimp only
  split
  · exact (State.Frame.setFlags r s fl).cores
  · exact (State.Frame.setFlags r _ fl).cores.trans (State.Frame.signal r s _ _).cores

@[simp] theorem State.finish_cores (s : State) (k : Nat) (fl : BitVec 5) : (s.finish k fl).cores = s.cores := by
  unfold State.finish
  split
  · rfl
  next f _ => exact (State.Moved.checkRetire f.ref f.ref _).frame.cores.trans (State.complete_cores _ _ _ _)

/-- A completion point in the array is the command's, and may end the term at its next boundary. -/
theorem State.arrayDone_fields (s : State) (core f : Nat) : (s.arrayDone core f).jobs = (s.finish f 0).jobs ∧
    (s.arrayDone core f).flights = (s.finish f 0).flights ∧
    ∃ b, (s.arrayDone core f).coreOf core = { s.coreOf core with array := { (s.coreOf core).array with full := b } } := by
  have hc : (s.finish f 0).coreOf core = s.coreOf core := by simp [State.coreOf]
  unfold State.arrayDone
  dsimp only
  split
  · exact ⟨by simp, by simp, true, by rw [State.ensure_coreOf, State.modArray_self, hc]⟩
  · exact ⟨rfl, rfl, (s.coreOf core).array.full, hc⟩

/-- A completion counts from any state with the same jobs. -/
theorem State.Completes.of_start {s t u : State} {k : Nat} {f : Flight} {fl : Flags} (h : t.Completes k f fl u) (hj : t.jobs = s.jobs) :
    s.Completes k f fl u := by
  have hk : t.jobOf f.ref.job = s.jobOf f.ref.job := by simp only [State.jobOf, hj]
  exact ⟨h.gone, hk ▸ h.signal, hk ▸ h.flags⟩

theorem State.arrayDone_completes {s : State} {core f : Nat} {fl : Flight} (hf : s.flights.find? f = some fl)
    (hj : (s.jobs.find? fl.ref.job).isSome = true) : s.Completes f fl fl.flags (s.arrayDone core f) := by
  obtain ⟨hjobs, hflights, -⟩ := s.arrayDone_fields core f
  have hc := (State.finish_completes 0 hf hj).of_same hjobs hflights
  simpa using hc

/-! ### Rows and weight loads that take effect (11 R317) -/

/-- The one item under way takes effect at its time. -/
theorem execArrayRowUpdate_one {s t : State} {core : Nat} {r : ArrRow} (ha : s.args.a = core) (hr : (s.coreOf core).array.rows = [r])
    (hd : r.due ≤ s.now) (ht : (s.modArray core (fun x => { x with rows := [] })).itemEffect core r = t) (hn : (t.coreOf core).array.rows = []) :
    exec .arrayRowUpdate s = .next t := by
  show execArrayRowUpdate s = _
  subst ha
  simp only [execArrayRowUpdate, hr, if_neg (Nat.not_lt.mpr hd), ht, hn]

/-- A row of codes written to the accumulator store, and its flags joined to its command's. -/
def State.rowWritten (s : State) (core f phys : Nat) (q : List Nat × Flags) (bad : List Nat) (set : Bool) : State :=
  (s.modCore core (fun x => x.acsUpdate phys q.1 bad set)).modFlight f (fun y => { y with flags := y.flags ||| q.2 })

theorem State.jobRow_eq {s : State} {core load k f tile src dest : Nat} {cfg : Word} {set last : Bool} {m : Fmode} {j : Job} {fl : Flight} {l : ArrLoad}
    {p : MacPath} (hj : s.jobs.find? k = some j) (hf : s.flights.find? f = some fl) (hl : (s.coreOf core).array.loads.find? load = some l)
    (hp : macPath (tcfgFmt l.w.cfg) (tcfgFmt cfg) = some p) :
    s.jobRow core load k f tile cfg src dest set last m =
      let t := s.rowWritten core f (acsPhys j.acs dest)
        (macRow p l.w.cfg l.bytes (tcfgFmt cfg) m m ((s.coreOf core).acsOld (acsPhys j.acs dest) (tcfgCols l.w.cfg) set)
          (s.tileRead j tile (src * rowBytes cfg) (rowBytes cfg)))
        (if s.tileBad j tile (src * rowBytes cfg) (rowBytes cfg) then List.range (tcfgCols l.w.cfg) else l.bad) set
      if last then t.arrayDone core f else t := by
  simp only [State.jobRow, hj, hf, hl, hp, State.rowWritten]

theorem State.rowWritten_coreOf (s : State) (core f phys : Nat) (q : List Nat × Flags) (bad : List Nat) (set : Bool) :
    (s.rowWritten core f phys q bad set).coreOf core = (s.coreOf core).acsUpdate phys q.1 bad set := by simp [State.rowWritten]

theorem State.rowWritten_jobs (s : State) (core f phys : Nat) (q : List Nat × Flags) (bad : List Nat) (set : Bool) :
    (s.rowWritten core f phys q bad set).jobs = s.jobs := by simp [State.rowWritten]

theorem State.rowWritten_flight {s : State} {core f : Nat} {fl : Flight} (phys : Nat) (q : List Nat × Flags) (bad : List Nat) (set : Bool)
    (hf : s.flights.find? f = some fl) :
    (s.rowWritten core f phys q bad set).flights.find? f = some { fl with flags := fl.flags ||| q.2 } := by
  simp [State.rowWritten, State.modFlight, hf]

/-- The last row of a command is its completion point, with the row's flags; after another one the command is still in flight. -/
theorem State.rowWritten_last {s : State} {core f phys : Nat} {q : List Nat × Flags} {bad : List Nat} {set : Bool} {fl : Flight} (last : Bool)
    (hf : s.flights.find? f = some fl) :
    let t := s.rowWritten core f phys q bad set
    let u := if last then t.arrayDone core f else t
    (u.coreOf core).array.rows = (s.coreOf core).array.rows ∧ (u.coreOf core).acs = ((s.coreOf core).acsUpdate phys q.1 bad set).acs ∧
      (last = false → u.flights.find? f = some { fl with flags := fl.flags ||| q.2 }) ∧
      (last = true → (s.jobs.find? fl.ref.job).isSome = true → s.Completes f fl (fl.flags ||| q.2) u) := by
  intro t u
  have hc : t.coreOf core = (s.coreOf core).acsUpdate phys q.1 bad set := s.rowWritten_coreOf core f phys q bad set
  have hjobs : t.jobs = s.jobs := s.rowWritten_jobs core f phys q bad set
  have hflight : t.flights.find? f = some { fl with flags := fl.flags ||| q.2 } := State.rowWritten_flight phys q bad set hf
  cases last with
  | false => exact ⟨congrArg (·.array.rows) hc, congrArg Core.acs hc, fun _ => hflight, nofun⟩
  | true =>
    obtain ⟨-, -, b, hb⟩ := t.arrayDone_fields core f
    rw [hc] at hb
    refine ⟨(congrArg (fun x : Core => x.array.rows) hb).trans rfl, (congrArg Core.acs hb).trans rfl, nofun, fun _ hl => ?_⟩
    have hd := (State.arrayDone_completes (core := core) hflight (by rw [hjobs]; exact hl)).of_start hjobs
    exact ⟨hd.gone, hd.signal, hd.flags⟩

theorem State.itemEffect_load {s : State} {core k f : Nat} {r : ArrRow} {l : ArrLoad} {j : Job} (hi : r.item = .load (some f))
    (hl : (s.coreOf core).array.loads.find? r.load = some l) (hw : l.who = some k) (hj : s.jobs.find? k = some j) :
    s.itemEffect core r =
      (s.loadDone core r.load ((s.tileRows j l.w.tile l.w.cfg 0 (tcfgRows l.w.cfg)).flatten) (s.badColumns j l.w)).arrayDone core f := by
  simp only [State.itemEffect, hi, hl, hw, Option.bind_some, hj]

/-- The bytes of a weight load stand in the array at its end. -/
theorem State.loadDone_self {s : State} {core n : Nat} {l : ArrLoad} (bytes : List Byte) (bad : List Nat)
    (h : (s.coreOf core).array.loads.find? n = some l) :
    (s.loadDone core n bytes bad).coreOf core = { s.coreOf core with array := { (s.coreOf core).array with
      loads := (s.coreOf core).array.loads.set n { l with bytes := bytes, bad := bad } } } := by
  rw [State.loadDone, State.modArray_self]
  simp only [h]

/-- The charged load of a `TLDW` ends: the weights stand in the array, and the command completes. -/
theorem State.itemEffect_load_done {s : State} {core k f : Nat} {r : ArrRow} {l : ArrLoad} {j : Job} {fl : Flight} (hi : r.item = .load (some f))
    (hl : (s.coreOf core).array.loads.find? r.load = some l) (hw : l.who = some k) (hj : s.jobs.find? k = some j) (hf : s.flights.find? f = some fl)
    (hk : (s.jobs.find? fl.ref.job).isSome = true) :
    ((s.itemEffect core r).coreOf core).array.rows = (s.coreOf core).array.rows ∧ s.Completes f fl fl.flags (s.itemEffect core r) ∧
      (((s.itemEffect core r).coreOf core).array.loads.find? r.load).map (·.bytes) =
        some (s.tileRows j l.w.tile l.w.cfg 0 (tcfgRows l.w.cfg)).flatten := by
  rw [State.itemEffect_load hi hl hw hj]
  generalize hb : (s.tileRows j l.w.tile l.w.cfg 0 (tcfgRows l.w.cfg)).flatten = bytes
  obtain ⟨-, -, b, hd⟩ := (s.loadDone core r.load bytes (s.badColumns j l.w)).arrayDone_fields core f
  have hc : (s.loadDone core r.load bytes (s.badColumns j l.w)).Completes f fl fl.flags
      ((s.loadDone core r.load bytes (s.badColumns j l.w)).arrayDone core f) := State.arrayDone_completes hf hk
  rw [hd, State.loadDone_self _ _ hl]
  exact ⟨rfl, hc.of_start rfl, by simp⟩

/-- The array without the item that takes effect. -/
def State.emptied (s : State) (core : Nat) : State := s.modArray core (fun x => { x with rows := [] })

/-- A row of a job's command takes effect as the only item under way. -/
theorem execArrayRowUpdate_row {s : State} {core k f tile src dest : Nat} {cfg : Word} {set last : Bool} {m : Fmode} {r : ArrRow} {j : Job} {fl : Flight}
    {l : ArrLoad} {p : MacPath} (ha : s.args.a = core) (hr : (s.coreOf core).array.rows = [r]) (hd : r.due ≤ s.now)
    (hi : r.item = .row k f tile cfg src dest set last m) (hj : s.jobs.find? k = some j) (hf : s.flights.find? f = some fl)
    (hl : (s.coreOf core).array.loads.find? r.load = some l) (hp : macPath (tcfgFmt l.w.cfg) (tcfgFmt cfg) = some p) :
    let q := macRow p l.w.cfg l.bytes (tcfgFmt cfg) m m ((s.coreOf core).acsOld (acsPhys j.acs dest) (tcfgCols l.w.cfg) set)
      (s.tileRead j tile (src * rowBytes cfg) (rowBytes cfg))
    ∃ t, exec .arrayRowUpdate s = .next t ∧ (t.coreOf core).array.rows = [] ∧
      (t.coreOf core).acs = ((s.coreOf core).acsUpdate (acsPhys j.acs dest) q.1
        (if s.tileBad j tile (src * rowBytes cfg) (rowBytes cfg) then List.range (tcfgCols l.w.cfg) else l.bad) set).acs ∧
      (last = false → t.flights.find? f = some { fl with flags := fl.flags ||| q.2 }) ∧
      (last = true → (s.jobs.find? fl.ref.job).isSome = true → s.Completes f fl (fl.flags ||| q.2) t) := by
  intro q
  have hc : (s.emptied core).coreOf core = { s.coreOf core with array := { (s.coreOf core).array with rows := [] } } := State.modArray_self _ _ _
  have ht : (s.emptied core).itemEffect core r =
      let t := (s.emptied core).rowWritten core f (acsPhys j.acs dest) q
        (if s.tileBad j tile (src * rowBytes cfg) (rowBytes cfg) then List.range (tcfgCols l.w.cfg) else l.bad) set
      if last then t.arrayDone core f else t := by
    simp only [State.itemEffect, hi]
    rw [State.jobRow_eq (s := s.emptied core) hj hf (by rw [hc]; exact hl) hp, hc]
    simp only [State.emptied, State.modArray_tileRead, State.modArray_tileBad]
    rfl
  obtain ⟨hrows, hacs, hflight, hdone⟩ := State.rowWritten_last (s := s.emptied core) (core := core) (phys := acsPhys j.acs dest) (q := q)
    (bad := if s.tileBad j tile (src * rowBytes cfg) (rowBytes cfg) then List.range (tcfgCols l.w.cfg) else l.bad) (set := set) last hf
  rw [← ht] at hrows hacs hflight hdone
  rw [hc] at hrows hacs
  exact ⟨_, execArrayRowUpdate_one ha hr hd rfl hrows, hrows, hacs, hflight, fun h1 h2 => (hdone h1 h2).of_start rfl⟩

/-- The end of a command's weight load takes effect as the only item under way. -/
theorem execArrayRowUpdate_load {s : State} {core k f : Nat} {r : ArrRow} {l : ArrLoad} {j : Job} {fl : Flight} (ha : s.args.a = core)
    (hr : (s.coreOf core).array.rows = [r]) (hd : r.due ≤ s.now) (hi : r.item = .load (some f)) (hw : l.who = some k) (hj : s.jobs.find? k = some j)
    (hf : s.flights.find? f = some fl) (hl : (s.coreOf core).array.loads.find? r.load = some l) (hk : (s.jobs.find? fl.ref.job).isSome = true) :
    ∃ t, exec .arrayRowUpdate s = .next t ∧ s.Completes f fl fl.flags t ∧
      ((t.coreOf core).array.loads.find? r.load).map (·.bytes) = some (s.tileRows j l.w.tile l.w.cfg 0 (tcfgRows l.w.cfg)).flatten := by
  have hc : (s.emptied core).coreOf core = { s.coreOf core with array := { (s.coreOf core).array with rows := [] } } := State.modArray_self _ _ _
  obtain ⟨hrows, hdone, hload⟩ := State.itemEffect_load_done (s := s.emptied core) hi (by rw [hc]; exact hl) hw hj hf hk
  rw [hc] at hrows
  refine ⟨_, execArrayRowUpdate_one ha hr hd rfl hrows, hdone.of_start rfl, hload.trans ?_⟩
  simp only [State.tileRows, State.emptied, State.modArray_tileRead]

/-! ### Grants, terms and the budget (02 R64, 11 R307, R308, R312) -/

/-- The first request is granted whole (02 R64). -/
theorem execAcsAllotmentGrant_grants {s : State} {core k n : Nat} (ha : s.args.a = core) (hh : s.acsHead core = some (.job k, n))
    (hn : n ≤ (s.coreOf core).freeBlocks.length) :
    exec .acsAllotmentGrant s = .next (((s.dropAcsWait core (.job k)).giveAcs core (.job k) ((s.coreOf core).freeBlocks.take n)).ensure 1
      .acsAllotmentGrant { a := core }) := by
  show execAcsAllotmentGrant s = _
  subst ha
  simp only [execAcsAllotmentGrant, hh, if_pos hn]

theorem State.giveAcs_job {s : State} {k : Nat} (core : Nat) (bs : List Nat) (h : (s.jobs.find? k).isSome = true) :
    (s.giveAcs core (.job k) bs).jobOf k = { s.jobOf k with acs := bs, acsHeld := true } := by
  have hb := (State.Beside.modCore s core (fun x => x.takeBlocks (.job k) (some (s.jobOf k).ctx) bs)).trans (State.lookPass_beside _ core)
  rw [State.giveAcs, State.jobOf_modJob_self _ _ (by rw [hb.jobs]; exact h), hb.jobOf]

/-- A free array opens a term for the requester that comes first (11 R308). -/
theorem execArrayArbitration_opens {s : State} {core : Nat} {w : ArrReq} (ha : s.args.a = core) (hh : (s.coreOf core).array.holder = none)
    (hw : s.arrayWinner core (s.arrayReqs core) = some w) : ∃ t, exec .arrayArbitration s = .next t ∧
      (t.coreOf core).array.holder = some w.who ∧ (t.coreOf core).array.since = s.now ∧ (t.coreOf core).array.term = [] := by
  refine ⟨_, rfl, ?_⟩
  subst ha
  simp only [hh, Option.isSome_none, Bool.false_eq_true, if_false, hw]
  cases w.who with
  | trowel => simp
  | cc n => simp

theorem State.cutRows_holder (s : State) (core : Nat) : ((s.cutRows core).coreOf core).array.holder = (s.coreOf core).array.holder := by
  unfold State.cutRows
  refine (State.foldl_keeps (fun t => (t.coreOf core).array.holder) (fun t r => ?_) _ _).trans (by simp)
  dsimp only
  split
  · simp
  · simp
  · rfl

/-- At the end of a term the array is free, and its last holder is kept for the rotation. -/
theorem State.endTerm_array (s : State) (core : Nat) : ((s.endTerm core).coreOf core).array.holder = none ∧
    ((s.endTerm core).coreOf core).array.last = (s.coreOf core).array.holder := by
  unfold State.endTerm
  dsimp only
  split
  · simp [State.cutRows_holder]
  · simp [State.cutRows_holder]

/-- A holder whose job has left its control core ends its term at the next boundary. -/
theorem execLeaseTermEnd_left {s : State} {core cc : Nat} (ha : s.args.a = core) (hh : (s.coreOf core).array.holder = some (.cc cc))
    (hl : (s.coreOf core).array.loading ≤ s.now) (hj : s.onCc core cc = none) : exec .leaseTermEnd s = .next (s.endTerm core) := by
  show execLeaseTermEnd s = _
  subst ha
  simp only [execLeaseTermEnd, hh, State.boundary, if_neg (Nat.not_lt.mpr hl), hj]

theorem Map.find?_mapValues {α β : Type} (m : Map α) (k : Nat) (f : α → β) :
    Map.find? (m.map (fun e => (e.1, f e.2))) k = (Map.find? m k).map f := by
  induction m with
  | nil => rfl
  | cons e m ih =>
    obtain ⟨i, a⟩ := e
    simp only [List.map_cons, Map.find?]
    split
    · rfl
    · exact ih

/-- A core whose budget is full again (11 R312). -/
def Core.refilled (x : Core) : Core := { x with left := x.refill }

/-- The array of a core that waits for units goes on. -/
def State.goOn (s : State) (k : Nat) : State :=
  match (s.coreOf k).array.holder with
  | none => s
  | some h => s.ensure 0 (boundaryOf h) { a := k }

theorem State.goOn_keeps {α : Type} (g : State → α) (he : ∀ (s : State) d i a, g (s.ensure d i a) = g s) (l : List Nat) (s : State) :
    g (l.foldl State.goOn s) = g s := by
  refine State.foldl_keeps g (fun s k => ?_) l s
  unfold State.goOn
  split
  · rfl
  · exact he _ _ _ _

theorem execBudgetRefill_eq (s : State) : execBudgetRefill s =
    let t : State := { s with cores := s.cores.map (fun (e : Nat × Core) => (e.1, e.2.refilled)) }
    .next ((t.cores.keys.foldl State.goOn t).post (1024 - s.now % 1024) .budgetRefill {}) := rfl

/-- Each core's budget is full again, and the next refill is on the agenda. -/
theorem execBudgetRefill_fills (s : State) : ∃ t, exec .budgetRefill s = .next t ∧ (∀ k x, s.cores.find? k = some x → (t.coreOf k).left = x.refill) ∧
    ⟨s.now + (1024 - s.now % 1024), .event .budgetRefill {}⟩ ∈ t.agenda ∧ t.mem = s.mem ∧ t.jobs = s.jobs := by
  refine ⟨_, execBudgetRefill_eq s, fun k x hx => ?_, ?_, ?_, ?_⟩
  · rw [State.post_coreOf, State.goOn_keeps (State.coreOf · k) (by simp)]
    have hk : Map.find? (s.cores.map (fun (e : Nat × Core) => (e.1, e.2.refilled))) k = some x.refilled := by
      rw [Map.find?_mapValues, hx]; rfl
    exact congrArg Core.left (Map.getD_of_find? _ hk)
  · simp [State.post, State.goOn_keeps State.now (by simp)]
  · exact State.goOn_keeps State.mem (by simp) _ _
  · exact State.goOn_keeps State.jobs (by simp) _ _

/-! ### The integer path (04 R140) -/

theorem macElem_int (wf af : Nat) (mw ma : Fmode) (acc : Nat) (a w : List Nat) :
    let sum := toSigned 32 acc + ((List.zip a w).map (fun p => toSigned 8 p.1 * toSigned 8 p.2)).sum
    macElem .int wf af mw ma acc a w = ((sum % 2 ^ 32).toNat, if sum < -(2 ^ 31) ∨ 2 ^ 31 ≤ sum then Flags.iof else 0) := by
  have hz : (List.zip (a.map (toSigned 8)) (w.map (toSigned 8))).map (fun p => p.1 * p.2) =
      (List.zip a w).map (fun p => toSigned 8 p.1 * toSigned 8 p.2) := by
    rw [List.zip_map, List.map_map]; rfl
  simp only [macElem, macInt, hz, ofSigned, Bool.or_eq_true, decide_eq_true_eq]
  rfl

/-- Settles O26: each clause is the lemma above it about its event. -/
theorem arrayEvents : Obligations.ArrayEvents := by
  refine ⟨fun s core k n ha hh hk hn => ⟨_, execAcsAllotmentGrant_grants ha hh hn, ?_⟩, fun s core w ha hh hw => execArrayArbitration_opens ha hh hw,
    fun s core k f tile src dest cfg set last m r j fl l p ha hr hd hi hj hf hl hp => execArrayRowUpdate_row ha hr hd hi hj hf hl hp,
    fun s core k f n r j fl l ha hr hd hi hw hj hf hl hn hk => hn ▸ execArrayRowUpdate_load ha hr hd hi hw hj hf hl hk,
    fun s core cc ha hh hl hj => ⟨_, execLeaseTermEnd_left ha hh hl hj, (s.endTerm_array core).1, (s.endTerm_array core).2.trans hh⟩,
    execBudgetRefill_fills, macElem_int 0 0 0 0⟩
  have hg := State.giveAcs_job (s := s.dropAcsWait core (.job k)) core ((s.coreOf core).freeBlocks.take n) hk
  rw [State.ensure_jobOf, hg]
  exact ⟨rfl, rfl⟩

end Sys2Proof.Machine

namespace Sys2Proof.Machine

/-! ### The canonical form of memory, and the combinators that keep it (O59) -/

/-- Global memory is in its canonical form. -/
def State.Canonical (s : State) : Prop := MemOk s

/-- What leaves the memory alone keeps its form. -/
theorem State.Canonical.of_mem {s t : State} (h : s.Canonical) (e : t.mem = s.mem) : t.Canonical := by
  rw [State.Canonical, MemOk, e]
  exact h

/-- A fold keeps the form if its step does. -/
theorem State.Canonical.foldl {α : Type} {f : State → α → State} {l : List α} (hf : ∀ s a, s.Canonical → (f s a).Canonical) :
    ∀ {s : State}, s.Canonical → (l.foldl f s).Canonical := by
  induction l with
  | nil => exact id
  | cons a l ih => exact fun h => ih (hf _ a h)

/-- Every state that a body answers with is in canonical form. -/
def Act.Canonical (a : Act) : Prop :=
  match a with
  | .done t _ | .slow t _ _ _ _ | .fly t | .jump t _ | .skip t _ | .wait t | .busy t | .data t _ _ _ _ | .stop t => t.Canonical
  | .err _ | .trap _ _ => True

/-- The state that an instruction leads to, if it leads to one, is in canonical form. -/
def Result.Canonical (r : Result) : Prop :=
  match r with
  | .next t => t.Canonical
  | .fault _ | .refused _ => True

theorem State.Canonical.ite {p : Prop} [Decidable p] {s t : State} (hs : s.Canonical) (ht : t.Canonical) : (if p then s else t).Canonical := by
  split
  · exact hs
  · exact ht

theorem Act.Canonical.ite {p : Prop} [Decidable p] {a b : Act} (ha : a.Canonical) (hb : b.Canonical) : (if p then a else b).Canonical := by
  split
  · exact ha
  · exact hb

theorem State.Canonical.getD {o : Option State} {s : State} (ho : ∀ t, o = some t → t.Canonical) (h : s.Canonical) : (o.getD s).Canonical := by
  cases o with
  | none => exact h
  | some t => exact ho t rfl

/-- So does a fold of a step that may fail. -/
theorem State.Canonical.foldlBind {α : Type} {f : State → α → Option State} {l : List α}
    (hf : ∀ s a t, s.Canonical → f s a = some t → t.Canonical) {o : Option State} (ho : ∀ s, o = some s → s.Canonical) :
    ∀ t, l.foldl (fun o a => o.bind (fun s => f s a)) o = some t → t.Canonical := by
  induction l generalizing o with
  | nil => exact ho
  | cons a l ih =>
    refine ih fun t e => ?_
    obtain ⟨s, hs, ht⟩ := Option.bind_eq_some_iff.mp e
    exact hf s a t (ho s hs) ht

theorem State.reset_canonical : State.reset.Canonical := rfl

theorem Act.canonical_code {n} : (Act.code n).Canonical := trivial

theorem Check.canonical_andThen {α : Type} {x : Check α} {f : α → Act} (hf : ∀ v, (f v).Canonical) : (x.andThen f).Canonical := by
  unfold Check.andThen
  split
  · trivial
  · trivial
  · exact hf _

end Sys2Proof.Machine

/-! The lemmas below follow the model in its own order, one for each function that gives a new state: from a canonical state, an update gives a
canonical state, the body of a command answers with canonical states, and an instruction leads to one. -/

namespace Sys2Proof.Machine

/-! ### Jobs, streams and the steps of a command keep the form -/

section
variable {s : State} (h : s.Canonical)
include h

theorem State.Canonical.memWrite {a v bad} : (s.memWrite a v bad).Canonical :=
  Memory.wf_write h a v

theorem State.Canonical.homeWriteLines {ls v bad} : (s.homeWriteLines ls v bad).Canonical := by
  induction ls generalizing s v with
  | nil => exact h
  | cons l r ih => exact ih h.memWrite

theorem State.Canonical.homeWrite {a v bad} : (s.homeWrite a v bad).Canonical :=
  .ite h.memWrite h.homeWriteLines

theorem State.Canonical.markAcc {ks spec} : (s.markAcc ks spec).Canonical := by
  unfold State.markAcc
  split
  · exact h
  · exact .ite h (h.of_mem rfl)

theorem State.Canonical.markVa {ctx va n} : (s.markVa ctx va n).Canonical :=
  .foldl (fun _ _ g => g.markAcc) h

theorem State.Canonical.draw : (s.draw).Canonical :=
  h.of_mem rfl

theorem State.Canonical.sched {d m} : (s.sched d m).Canonical :=
  h.of_mem rfl

theorem State.Canonical.post {d i g} : (s.post d i g).Canonical :=
  h.of_mem rfl

theorem State.Canonical.later {i g} : (s.later i g).Canonical :=
  h.post.draw

theorem State.Canonical.poll {r} : (s.poll r).Canonical :=
  h.of_mem rfl

theorem State.Canonical.unpost {p} : (s.unpost p).Canonical :=
  h.of_mem rfl

theorem State.Canonical.modJob {k f} : (s.modJob k f).Canonical := by
  unfold State.modJob
  split
  · exact h
  · exact h.of_mem rfl

theorem State.Canonical.modRef {r f} : (s.modRef r f).Canonical :=
  h.modJob

theorem State.Canonical.modSt {f} : (s.modSt f).Canonical :=
  h.modRef

theorem State.Canonical.modCore {k f} : (s.modCore k f).Canonical :=
  h.of_mem rfl

theorem State.Canonical.modDie {d f} : (s.modDie d f).Canonical :=
  h.of_mem rfl

theorem State.Canonical.modLaunch {k f} : (s.modLaunch k f).Canonical := by
  unfold State.modLaunch
  split
  · exact h
  · exact h.of_mem rfl

theorem State.Canonical.modCtx {k f} : (s.modCtx k f).Canonical := by
  unfold State.modCtx
  split
  · exact h
  · exact h.of_mem rfl

theorem State.Canonical.newId : (s.newId).Canonical :=
  h.of_mem rfl

theorem State.Canonical.sput {n v} : (s.sput n v).Canonical :=
  h.modSt

theorem State.Canonical.gput {n v} : (s.gput n v).Canonical :=
  h.modSt

theorem State.Canonical.hput {k n v} : (s.hput k n v).Canonical :=
  h.modJob

theorem State.Canonical.pput {r p v} : (s.pput r p v).Canonical :=
  h.modJob

theorem State.Canonical.signal {k i n} : (s.signal k i n).Canonical :=
  h.modJob

theorem State.Canonical.upset : (s.upset).Canonical := by
  unfold State.upset
  split
  · exact h
  · exact .ite h.modCore h

theorem State.Canonical.tick : (s.tick).Canonical :=
  .upset (h.of_mem rfl)

theorem State.Canonical.setFlags {r fl} : (s.setFlags r fl).Canonical :=
  .ite h (.ite h.modJob h.modJob.modRef)

theorem State.Canonical.complete {r sig fl} : (s.complete r sig fl).Canonical := by
  unfold State.complete
  dsimp only
  refine State.Canonical.setFlags ?_
  split
  · exact h
  · exact h.signal

theorem State.Canonical.send {m i g} : (s.send m i g).Canonical := by
  unfold State.send
  refine .later ?_
  exact h.of_mem rfl

theorem State.Canonical.putError {k e} : (s.putError k e).Canonical := by
  unfold State.putError
  dsimp only
  split
  · exact h.modJob.post
  · split
    · exact h.modJob.send
    · exact .ite (h.modJob.of_mem rfl) h

theorem State.Canonical.raise {r e word opc} : (s.raise r e word opc).Canonical :=
  .ite h.modRef h.modRef.putError

theorem State.Canonical.modFlight {k f} : (s.modFlight k f).Canonical := by
  unfold State.modFlight
  split
  · exact h
  · exact h.of_mem rfl

theorem State.Canonical.checkRetire {r} : (s.checkRetire r).Canonical :=
  .ite h h.post

theorem State.Canonical.finish {k fl} : (s.finish k fl).Canonical := by
  unfold State.finish
  split
  · exact h
  · refine .checkRetire (.complete ?_)
    exact h.of_mem rfl

theorem State.Canonical.dropFlight {k} : (s.dropFlight k).Canonical :=
  h.of_mem rfl

theorem State.Canonical.fly {c u w owes tiles engine} : (s.fly c u w owes tiles engine).Canonical :=
  h.newId.of_mem rfl

theorem State.Canonical.flightError {k e} : (s.flightError k e).Canonical := by
  unfold State.flightError
  split
  · exact h
  · exact .ite h.modRef h.dropFlight.modRef.putError

theorem State.Canonical.begin : (s.begin).Canonical :=
  h.modSt

theorem State.Canonical.await {c u} : (s.await c u).Canonical :=
  .ite h.begin h

theorem State.Canonical.count : (s.count).Canonical :=
  h.modSt

theorem State.Canonical.onward {u new} : (s.onward u new).Canonical :=
  .ite h.modSt.modJob.checkRetire.raise h.modSt.modJob.checkRetire

theorem State.Canonical.fail {u e} : (s.fail u e).Canonical :=
  h.raise

theorem State.Canonical.trapNow {u cause info} : (s.trapNow u cause info).Canonical :=
  .ite h.fail h.modSt

theorem State.Canonical.unwrite {r t g} : (s.unwrite r t g).Canonical := by
  unfold State.unwrite
  split
  · exact h.modRef
  · exact h.modRef
  · exact h.modJob
  · exact h

theorem State.Canonical.payOwed {r o} : (s.payOwed r o).Canonical := by
  unfold State.payOwed
  split
  · exact h.modRef
  · exact h.modRef
  · exact h.pput

omit h in
theorem State.slowDone_canonical {t : State} {c u fl n tiles engine} (ht : t.Canonical) : (s.slowDone c u t fl n tiles engine).Canonical := by
  unfold State.slowDone
  split
  · exact ht.complete.onward
  · have hb : (u.dst.foldl (fun x g => x.unwrite s.cur s g) t).Canonical := .foldl (fun _ _ g => g.unwrite) ht
    refine .onward ?_
    exact hb.fly.of_mem (State.modFlight_mem ..)

theorem State.Canonical.effectLater {k} : (s.effectLater k).Canonical :=
  h.sched.draw

theorem State.Canonical.joinVector {core q} : (s.joinVector core q).Canonical :=
  .ite h.modCore.sched h.modCore

theorem State.Canonical.joinScatter {core k n} : (s.joinScatter core k n).Canonical :=
  .ite h.modCore.sched h.modCore

theorem State.Canonical.pace {k p} : (s.pace k p).Canonical := by
  unfold State.pace
  dsimp only
  split
  · exact h.sched
  · exact h.joinVector
  · exact h.joinScatter

theorem State.Canonical.dataOut {c u op p tiles engine} : (s.dataOut c u op p tiles engine).Canonical :=
  h.fly.effectLater.pace.onward

theorem State.Canonical.finishLate {k} : (s.finishLate k).Canonical := by
  unfold State.finishLate
  split
  · exact h
  · split
    · exact .finish (.foldl (fun _ _ g => g.payOwed) h)
    · exact h

theorem State.Canonical.act {c u} {a : Act} (ha : a.Canonical) : (s.act c u a).Canonical := by
  cases a with
  | done t fl => exact State.slowDone_canonical ha
  | slow t fl n tiles e => exact State.slowDone_canonical ha
  | fly t => exact State.Canonical.onward ha
  | jump t x => exact .onward (State.Canonical.complete ha)
  | skip t pc => exact .modSt (.onward (State.Canonical.complete ha))
  | wait t => exact State.Canonical.begin ha
  | busy t => exact .count (State.Canonical.begin ha)
  | data t op p tiles e => exact State.Canonical.dataOut ha
  | err e => exact h.fail
  | trap cause info => exact h.trapNow
  | stop t => exact ha

theorem State.Canonical.pause : (s.pause).Canonical :=
  h.modSt

theorem State.Canonical.run {c u} {f : State → Act} (hf : (f s).Canonical) : (s.run c u f).Canonical := by
  unfold State.run
  split
  · exact h
  · exact h.await
  · exact h.await.count
  · exact .ite h.pause h.complete.onward
  · exact .ite h.begin.pause (.ite h.pause (h.act hf))

theorem command_canonical {c u} {f : State → Act} (hf : (f s).Canonical) : Result.Canonical (command c u f s) :=
  h.run hf

theorem State.Canonical.ensure {d i g} : (s.ensure d i g).Canonical :=
  .ite h h.post

theorem State.Canonical.ensureOne {d i g} : (s.ensureOne d i g).Canonical :=
  .ite h h.post

theorem State.Canonical.restCtx {ctx} : (s.restCtx ctx).Canonical :=
  .ite h.modCtx h

theorem State.Canonical.freeze {ctx cause} : (s.freeze ctx cause).Canonical := by
  unfold State.freeze
  dsimp only
  split
  · exact h
  · refine .ensure ?_
    exact h.modCtx.of_mem rfl

theorem State.Canonical.addError {ctx e} : (s.addError ctx e).Canonical :=
  h.modCtx

theorem State.Canonical.freezeFor {k ctx code} : (s.freezeFor k ctx code).Canonical :=
  h.addError.freeze

end

end Sys2Proof.Machine

namespace Sys2Proof.Machine

/-! ### Homes, accesses and the commands that read and write keep the form -/

section
variable {s : State} (h : s.Canonical)
include h

theorem State.Canonical.receiveMail {p i} {f : State → Msg → State} (hf : ∀ t m, t.Canonical → (f t m).Canonical) : (s.receiveMail p i f).Canonical
    := by
  unfold State.receiveMail
  split
  · exact h
  · exact .ite (hf _ _ (h.of_mem rfl)) h.post

theorem State.Canonical.modSlice {k f} : (s.modSlice k f).Canonical :=
  h.modDie

theorem State.Canonical.spoil {k pa n} : (s.spoil k pa n).Canonical :=
  .foldl (fun _ _ g => g.later) h

theorem State.Canonical.perform {die pa v bad} : (s.perform die pa v bad).Canonical :=
  h.homeWrite.spoil

theorem State.Canonical.writeMem {a v marks} : State.Canonical { s with mem := Memory.write s.mem a v, memPoison := marks } :=
  Memory.wf_write h a v

theorem State.Canonical.performLine {die line mask data bad} : (s.performLine die line mask data bad).Canonical := by
  unfold State.performLine
  exact .spoil h.writeMem

theorem State.Canonical.writeParts {ps v bad} : (s.writeParts ps v bad).Canonical := by
  induction ps generalizing s v with
  | nil => exact h
  | cons p r ih => exact ih h.perform

theorem State.Canonical.vaWrite {t : State} {ctx va v} (e : s.vaWrite ctx va v = some t) : t.Canonical := by
  obtain ⟨ps, _, rfl⟩ := Option.map_eq_some_iff.mp e
  exact h.markVa.writeParts

theorem State.Canonical.drainLine {core line ctx} : (s.drainLine core line ctx).Canonical := by
  unfold State.drainLine
  split
  · exact h
  · dsimp only
    refine State.Canonical.modCore ?_
    exact .ite h.freezeFor h.performLine

theorem State.Canonical.combineWrite {core ctx launch die pa v bad} : (s.combineWrite core ctx launch die pa v bad).Canonical := by
  unfold State.combineWrite
  dsimp only
  split
  · exact h.modCore
  · refine State.Canonical.post ?_
    refine State.Canonical.modCore ?_
    split
    · exact h
    · split
      · exact h
      · exact h.drainLine

theorem State.Canonical.drainCtx {core ctx} : (s.drainCtx core ctx).Canonical :=
  .foldl (fun _ _ g => g.modCore.later) h

theorem State.Canonical.drainRange {core ctx a n} : (s.drainRange core ctx a n).Canonical :=
  .foldl (fun _ _ g => g.drainLine) h

theorem State.Canonical.clearWay {core ctx line} : (s.clearWay core ctx line).Canonical :=
  h.drainLine.modCore

theorem State.Canonical.dropCopies {core ctx} : (s.dropCopies core ctx).Canonical :=
  h.modCore

theorem State.Canonical.modSpec {n f} : (s.modSpec n f).Canonical :=
  h.modDie

theorem State.Canonical.ucCount {die part idx n} : (s.ucCount die part idx n).Canonical :=
  h.modDie

theorem State.Canonical.specRead {t : State} {n pa len} (e : s.specRead n pa len = some t) : t.Canonical := by
  unfold State.specRead at e
  split at e
  · cases e
  · split at e
    · cases e
      exact h
    · obtain ⟨rs, _, rfl⟩ := Option.map_eq_some_iff.mp e
      exact h.modSpec

theorem State.Canonical.specWrite {t : State} {n part home pa v bad} (e : s.specWrite n part home pa v bad = some t) : t.Canonical := by
  unfold State.specWrite at e
  dsimp only at e
  split at e
  · cases e
  · split at e
    · cases e
      exact h.modSpec
    · split at e
      · cases e
      · cases e
        exact h.modSpec

theorem State.Canonical.request {flight piece j ref op kind die pa len src bad engine} : (s.request flight piece j ref op kind die pa len src bad
    engine).Canonical := by
  unfold State.request
  dsimp only
  refine State.Canonical.ensure ?_
  exact h.newId.of_mem rfl

theorem State.Canonical.fenceStart {r acq x} : (s.fenceStart r acq x).Canonical :=
  .ite h (.ite h.dropCopies h.drainCtx)

theorem State.Canonical.checkFences : s.checkFences.Canonical := by
  refine .foldl (fun t f g => ?_) h
  split
  · exact .ite (.finish (.ite g.fenceStart g)) g
  · exact g

theorem execCombineLineDrain_canonical : Result.Canonical (execCombineLineDrain s) :=
  State.Canonical.ite h.drainLine.checkFences h

theorem State.Canonical.scrWrite {j a v bad} : (s.scrWrite j a v bad).Canonical :=
  h.modCore

theorem State.Canonical.tileWrite {j t off v bad} : (s.tileWrite j t off v bad).Canonical :=
  h.modCore

theorem State.Canonical.voidWeights {t} : (s.voidWeights t).Canonical :=
  h.modJob

theorem State.Canonical.pauseCount {idx} : (s.pauseCount idx).Canonical :=
  h.modSt.ucCount

theorem State.Canonical.recordReads {t : State} {j ls} (e : s.recordReads j ls = some t) : t.Canonical := by
  unfold State.recordReads at e
  split at e
  · cases e
    exact h
  · exact .foldlBind (fun _ _ _ g => g.specRead) (fun _ x => Option.some.inj x ▸ h) _ e

theorem State.Canonical.shadowWrites {t : State} {n part home ls} (e : s.shadowWrites n part home ls = some t) : t.Canonical :=
  .foldlBind (fun _ _ _ g => g.specWrite) (fun _ x => Option.some.inj x ▸ h) _ e

theorem State.Canonical.writeOut {c u kind die ls engine} : (s.writeOut c u kind die ls engine).Canonical := by
  unfold State.writeOut
  dsimp only
  refine .ite h ?_
  split
  · refine .ite h.modSt ?_
    split
    · exact h.pauseCount
    next e => exact h.shadowWrites e
  · exact .ite h (State.Canonical.foldl (fun _ _ g => g.request) h.fly)

theorem ldsBody_canonical {o} : (ldsBody o s).Canonical :=
  Check.canonical_andThen fun _ => h

theorem execLds_canonical {o} : Result.Canonical (execLds o s) :=
  command_canonical h (ldsBody_canonical h)

theorem stsBody_canonical {o} : (stsBody o s).Canonical :=
  Check.canonical_andThen fun _ => h

theorem execSts_canonical {o} : Result.Canonical (execSts o s) :=
  command_canonical h (stsBody_canonical h)

theorem ldgBody_canonical {o u} : (ldgBody o u s).Canonical := by
  refine Check.canonical_andThen fun pa => ?_
  split
  · exact .ite trivial h.modSt
  · split
    · exact h.pauseCount
    next e => exact (h.recordReads e).fly.request

theorem execLdg_canonical {o} : Result.Canonical (execLdg o s) :=
  command_canonical h (ldgBody_canonical h)

theorem stgBody_canonical {o u} : (stgBody o u s).Canonical :=
  Check.canonical_andThen fun _ => h.writeOut

theorem execStg_canonical {o} : Result.Canonical (execStg o s) :=
  command_canonical h (stgBody_canonical h)

theorem State.Canonical.dueParts : (s.dueParts).Canonical :=
  h.of_mem rfl

theorem State.Canonical.refillPorts {die w} : (s.refillPorts die w).Canonical :=
  .modDie (.foldl (fun _ _ g => g.modCore) h)

theorem State.Canonical.refillDue {die} : (s.refillDue die).Canonical :=
  .ite h.refillPorts h

theorem execInjectionRefill_canonical : Result.Canonical (execInjectionRefill s) :=
  h.refillDue.post

theorem State.Canonical.injectLine {core id} : (s.injectLine core id).Canonical := by
  unfold State.injectLine
  split
  · exact h
  · refine .ite ?_ (.later ?_)
    · exact h.of_mem rfl
    · exact h.of_mem rfl

theorem execPortInjection_canonical : Result.Canonical (execPortInjection s) :=
  have h2 : State.Canonical _ := .foldl (fun _ _ g => g.injectLine) (.ite h.refillDue.modCore h.refillDue)
  .ite h2.ensure h2

theorem State.Canonical.flitIn {o id} : (s.flitIn o id).Canonical := by
  unfold State.flitIn
  split
  · exact h
  · exact h.of_mem rfl

theorem execRouterGrant_canonical : Result.Canonical (execRouterGrant s) := by
  unfold execRouterGrant
  extract_lets o t
  have ht : t.Canonical := .ite h h.flitIn
  clear_value t
  refine State.Canonical.ite ht.ensure ?_
  split
  · exact ht
  next f y _ =>
    have h2 : State.Canonical { t with routers := t.routers.set o y } := ht.of_mem rfl
    exact .ite h2.modSlice.ensure h2.modSlice.ensure.ensure

theorem execCacheWindowClear_canonical : Result.Canonical (execCacheWindowClear s) := by
  unfold execCacheWindowClear
  dsimp only
  show State.Canonical _
  refine .post ?_
  exact h.of_mem rfl

theorem execSliceRequestAccept_canonical : Result.Canonical (execSliceRequestAccept s) := by
  unfold execSliceRequestAccept
  dsimp only
  show State.Canonical _
  split
  · exact h.modSlice
  · have hl : ∀ {t : State} {i g}, t.mem = s.mem → (t.later i g).Canonical := fun e => (h.of_mem e).later
    refine .ite ?_ (.ensure ?_)
    · exact .ite (hl rfl) (hl rfl)
    · exact .ite (hl rfl) (hl rfl)

theorem execHbmRequestArrival_canonical : Result.Canonical (execHbmRequestArrival s) := by
  unfold execHbmRequestArrival
  dsimp only
  show State.Canonical _
  split
  · exact h
  · refine .ensureOne ?_
    exact h.of_mem rfl

theorem execHbmServiceStart_canonical : Result.Canonical (execHbmServiceStart s) := by
  unfold execHbmServiceStart
  dsimp only
  show State.Canonical _
  split
  · exact h
  · split
    · refine .later ?_
      exact h.of_mem rfl
    · refine .later (.later ?_)
      exact h.of_mem rfl

theorem State.Canonical.setAccess {i a} : (s.setAccess i a).Canonical :=
  h.of_mem rfl

theorem State.Canonical.keepCopy {a} : (s.keepCopy a).Canonical :=
  .ite h.modCore h

theorem State.Canonical.lostWrite {a} : (s.lostWrite a).Canonical :=
  h.freezeFor

theorem State.Canonical.takeEffect {i a} : (s.takeEffect i a).Canonical := by
  unfold State.takeEffect
  split
  · refine State.Canonical.later ?_
    split
    · refine State.Canonical.setAccess ?_
      exact .ite h h.keepCopy
    · refine State.Canonical.modSlice ?_
      refine State.Canonical.setAccess ?_
      exact .ite h h.keepCopy
  · refine State.Canonical.later ?_
    refine State.Canonical.setAccess ?_
    exact .ite h.lostWrite h.clearWay.perform
  · refine State.Canonical.later ?_
    refine State.Canonical.setAccess ?_
    exact .ite h.lostWrite h.clearWay.perform.modFlight

theorem State.Canonical.performSo {flight} : (s.performSo flight).Canonical := by
  unfold State.performSo
  refine .foldl (fun _ _ g => ?_) h
  split
  · exact g
  · exact .ite g.takeEffect g

theorem State.Canonical.rowsDone {core e} : (s.rowsDone core e).Canonical := by
  unfold State.rowsDone
  split
  · exact h
  · exact h.modJob

theorem State.Canonical.ackWrite {i a} : (s.ackWrite i a).Canonical := by
  unfold State.ackWrite
  dsimp only
  split
  · split
    · refine .finish ?_
      exact h.of_mem rfl
    · refine .modFlight ?_
      exact h.of_mem rfl
  · split
    · refine .rowsDone ?_
      exact h.of_mem rfl
    · refine .post (.rowsDone ?_)
      exact h.of_mem rfl
  · refine .ensure ?_
    exact h.of_mem rfl
  · exact h.of_mem rfl

theorem State.Canonical.access {i} : (s.access i).Canonical := by
  unfold State.access
  split
  · exact h
  · exact .ite (.ite h.ackWrite h) (.ite h.post (.ite (.ite h.performSo.checkFences h.post) (.ite h.setAccess.later h.takeEffect.checkFences)))

theorem execGlobalAccessPerformed_canonical : Result.Canonical (execGlobalAccessPerformed s) :=
  h.access

theorem execMigrationForward_canonical : Result.Canonical (execMigrationForward s) := by
  unfold execMigrationForward
  show State.Canonical _
  split
  · exact h
  · exact .ite h h.setAccess.access

theorem State.Canonical.pieceIn {a} : (s.pieceIn a).Canonical := by
  unfold State.pieceIn
  dsimp only
  split
  · exact h.modFlight.ensure
  · exact h.modFlight.later

theorem State.Canonical.reply {i} : (s.reply i).Canonical := by
  unfold State.reply
  split
  · exact h
  · dsimp only
    split
    · split
      · split
        · exact h.flightError.later
        · refine .flightError ?_
          exact h.of_mem rfl
      · refine .finish (.modRef ?_)
        exact h.of_mem rfl
    · refine .pieceIn ?_
      exact h.of_mem rfl
    · exact h.of_mem rfl

theorem execGlobalReadReply_canonical : Result.Canonical (execGlobalReadReply s) :=
  h.reply

theorem State.Canonical.awSeen {k a n} : (s.awSeen k a n).Canonical :=
  h.modJob

theorem State.Canonical.landOn {k a n faulted} : (s.landOn k a n faulted).Canonical :=
  h.scrWrite.modJob.awSeen

theorem execAwinit_canonical {o} : Result.Canonical (execAwinit o s) :=
  command_canonical h (Check.canonical_andThen fun _ => h)

theorem awwaitBody_canonical {o} : (awwaitBody o s).Canonical :=
  Check.canonical_andThen fun _ => (.ite h h.modSt)

theorem execAwwait_canonical {o} : Result.Canonical (execAwwait o s) :=
  command_canonical h (awwaitBody_canonical h)

theorem awrdBody_canonical {o clr} : (awrdBody o clr s).Canonical :=
  Check.canonical_andThen fun _ => h

theorem execAwrd_canonical {o} : Result.Canonical (execAwrd o s) :=
  command_canonical h (awrdBody_canonical h)

theorem execAwrdClr_canonical {o} : Result.Canonical (execAwrdClr o s) :=
  command_canonical h (awrdBody_canonical h)

theorem fenceBody_canonical {o u acq} : (fenceBody o u acq s).Canonical :=
  .ite h.fenceStart h.fenceStart.fly

theorem execFenceRel_canonical {o} : Result.Canonical (execFenceRel o s) :=
  command_canonical h (fenceBody_canonical h)

theorem execFenceAcq_canonical {o} : Result.Canonical (execFenceAcq o s) :=
  command_canonical h (fenceBody_canonical h)

theorem predDone_canonical {p v} : (predDone p v s).Canonical :=
  h.pput

theorem execPseti_canonical {o} : Result.Canonical (execPseti o s) :=
  command_canonical h (predDone_canonical h)

theorem execPmovPp_canonical {o} : Result.Canonical (execPmovPp o s) :=
  command_canonical h (predDone_canonical h)

theorem execPmovPs_canonical {o} : Result.Canonical (execPmovPs o s) :=
  command_canonical h (predDone_canonical h)

theorem execPmovSp_canonical {o} : Result.Canonical (execPmovSp o s) :=
  command_canonical h h.sput

theorem execPand_canonical {o} : Result.Canonical (execPand o s) :=
  command_canonical h (predDone_canonical h)

theorem execPor_canonical {o} : Result.Canonical (execPor o s) :=
  command_canonical h (predDone_canonical h)

theorem execPxor_canonical {o} : Result.Canonical (execPxor o s) :=
  command_canonical h (predDone_canonical h)

theorem execPnot_canonical {o} : Result.Canonical (execPnot o s) :=
  command_canonical h (predDone_canonical h)

theorem execPunres_canonical {o} : Result.Canonical (execPunres o s) :=
  command_canonical h h.pput

theorem execCmp_canonical {o} : Result.Canonical (execCmp o s) :=
  command_canonical h (predDone_canonical h)

theorem execCmpImm_canonical {o} : Result.Canonical (execCmpImm o s) :=
  command_canonical h (predDone_canonical h)

theorem execFcmp_canonical {o} : Result.Canonical (execFcmp o s) :=
  command_canonical h (predDone_canonical h)

theorem voteBody_canonical {o all} : (voteBody o all s).Canonical :=
  .ite trivial (.ite h.pput (Check.canonical_andThen fun _ => h))

theorem execVany_canonical {o} : Result.Canonical (execVany o s) :=
  command_canonical h (voteBody_canonical h)

theorem execVall_canonical {o} : Result.Canonical (execVall o s) :=
  command_canonical h (voteBody_canonical h)

theorem fp3_canonical {opc lat f o} : Result.Canonical (fp3 opc lat f o s) :=
  command_canonical h h.sput

theorem fp2_canonical {opc lat f o} : Result.Canonical (fp2 opc lat f o s) :=
  command_canonical h h.sput

theorem execFadd_canonical {o} : Result.Canonical (execFadd o s) :=
  fp3_canonical h

theorem execFsub_canonical {o} : Result.Canonical (execFsub o s) :=
  fp3_canonical h

theorem execFmul_canonical {o} : Result.Canonical (execFmul o s) :=
  fp3_canonical h

theorem execFfma_canonical {o} : Result.Canonical (execFfma o s) :=
  command_canonical h h.sput

theorem execFdiv_canonical {o} : Result.Canonical (execFdiv o s) :=
  fp3_canonical h

theorem execFsqrt_canonical {o} : Result.Canonical (execFsqrt o s) :=
  fp2_canonical h

theorem execFmin_canonical {o} : Result.Canonical (execFmin o s) :=
  fp3_canonical h

theorem execFmax_canonical {o} : Result.Canonical (execFmax o s) :=
  fp3_canonical h

theorem execFabs_canonical {o} : Result.Canonical (execFabs o s) :=
  fp2_canonical h

theorem execFneg_canonical {o} : Result.Canonical (execFneg o s) :=
  fp2_canonical h

theorem execFcvt_canonical {o} : Result.Canonical (execFcvt o s) :=
  command_canonical h h.sput

theorem execFclass_canonical {o} : Result.Canonical (execFclass o s) :=
  command_canonical h h.sput

theorem execGcfgLd_canonical {o} : Result.Canonical (execGcfgLd o s) :=
  command_canonical h (Check.canonical_andThen fun _ => h)

theorem execGcfgSt_canonical {o} : Result.Canonical (execGcfgSt o s) :=
  command_canonical h (Check.canonical_andThen fun _ => h)

theorem execGcfgMov_canonical {o} : Result.Canonical (execGcfgMov o s) :=
  command_canonical h h.gput

theorem genSet_canonical {opc f o} : Result.Canonical (genSet opc f o s) := by
  unfold genSet
  refine command_canonical h ?_
  split
  · exact trivial
  · exact h.gput

theorem execGbase_canonical {o} : Result.Canonical (execGbase o s) :=
  genSet_canonical h

theorem execGcount_canonical {o} : Result.Canonical (execGcount o s) :=
  genSet_canonical h

theorem execGcountRow_canonical {o} : Result.Canonical (execGcountRow o s) :=
  genSet_canonical h

theorem execGstride_canonical {o} : Result.Canonical (execGstride o s) :=
  genSet_canonical h

theorem execGfmt_canonical {o} : Result.Canonical (execGfmt o s) :=
  genSet_canonical h

end

end Sys2Proof.Machine

namespace Sys2Proof.Machine

/-! ### Engines, copies and landings keep the form -/

section
variable {s : State} (h : s.Canonical)
include h

theorem State.Canonical.engineAsked : (s.engineAsked).Canonical :=
  h.modCore

theorem State.Canonical.engineTaken : (s.engineTaken).Canonical :=
  h.modCore

theorem withEngine_canonical {f : State → Nat → Act} (hf : ∀ e, (f s.engineTaken e).Canonical) : (withEngine s f).Canonical := by
  unfold withEngine
  split
  · exact h.engineAsked
  · exact hf _

theorem State.Canonical.startReads {flight j kind die engine i ps} : (s.startReads flight j kind die engine i ps).2.Canonical := by
  induction ps generalizing s i with
  | nil => exact h
  | cons p r ih =>
    unfold State.startReads
    split
    · exact ih h.post
    · exact ih h.request

theorem State.Canonical.readIn {c u kind die engine ps w} : (s.readIn c u kind die engine ps w).Canonical := by
  unfold State.readIn
  dsimp only
  split
  · exact h.pauseCount
  next e => exact (h.recordReads e).fly.startReads.modFlight

theorem copyLen_canonical {n} {a : Act} (ha : a.Canonical) : (copyLen n s a).Canonical :=
  .ite Act.canonical_code (.ite h ha)

theorem copyG2sBody_canonical {o u} : (copyG2sBody o u s).Canonical :=
  copyLen_canonical h (Check.canonical_andThen fun _ => Check.canonical_andThen fun _ => Check.canonical_andThen fun _ => withEngine_canonical h
      fun _ => h.engineTaken.readIn)

theorem execCopyG2s_canonical {o} : Result.Canonical (execCopyG2s o s) :=
  command_canonical h (copyG2sBody_canonical h)

theorem copyS2gBody_canonical {o u} : (copyS2gBody o u s).Canonical :=
  copyLen_canonical h (Check.canonical_andThen fun _ => Check.canonical_andThen fun _ => withEngine_canonical h fun _ => h.engineTaken.writeOut)

theorem execCopyS2g_canonical {o} : Result.Canonical (execCopyS2g o s) :=
  command_canonical h (copyS2gBody_canonical h)

theorem State.Canonical.s2sLandings {k n is} : (s.s2sLandings k n is).Canonical := by
  induction is generalizing s with
  | nil => exact h
  | cons i r ih =>
    cases r with
    | nil => exact h.post
    | cons i' r => exact ih h.post.draw

theorem copyS2sBody_canonical {o u} : (copyS2sBody o u s).Canonical :=
  copyLen_canonical h (Check.canonical_andThen fun _ => (Check.canonical_andThen fun _ => (.ite trivial (Check.canonical_andThen fun _ =>
      withEngine_canonical h fun _ => h.engineTaken.fly.s2sLandings))))

theorem execCopyS2s_canonical {o} : Result.Canonical (execCopyS2s o s) :=
  command_canonical h (copyS2sBody_canonical h)

theorem copy2G2sBody_canonical {o u} : (copy2G2sBody o u s).Canonical :=
  copyLen_canonical h (Check.canonical_andThen fun _ => Check.canonical_andThen fun _ => Check.canonical_andThen fun _ => withEngine_canonical h
      fun _ => h.engineTaken.readIn)

theorem execCopy2G2s_canonical {o} : Result.Canonical (execCopy2G2s o s) :=
  command_canonical h (copy2G2sBody_canonical h)

theorem copy2S2gBody_canonical {o u} : (copy2S2gBody o u s).Canonical :=
  copyLen_canonical h (Check.canonical_andThen fun _ => Check.canonical_andThen fun _ => withEngine_canonical h fun _ => h.engineTaken.writeOut)

theorem execCopy2S2g_canonical {o} : Result.Canonical (execCopy2S2g o s) :=
  command_canonical h (copy2S2gBody_canonical h)

theorem gatherBody_canonical {o u} : (gatherBody o u s).Canonical :=
  Check.canonical_andThen fun _ => (withEngine_canonical h fun _ => (.ite h.engineTaken h.engineTaken.readIn))

theorem execGather_canonical {o} : Result.Canonical (execGather o s) :=
  command_canonical h (gatherBody_canonical h)

theorem scatterBody_canonical {o u} : (scatterBody o u s).Canonical :=
  Check.canonical_andThen fun _ => withEngine_canonical h fun _ => h.engineTaken.writeOut

theorem execScatter_canonical {o} : Result.Canonical (execScatter o s) :=
  command_canonical h (scatterBody_canonical h)

theorem acscpOutBody_canonical {o} : (acscpOutBody o s).Canonical :=
  .ite h (Check.canonical_andThen fun _ => withEngine_canonical h fun _ => h.engineTaken)

theorem execAcscpOut_canonical {o} : Result.Canonical (execAcscpOut o s) :=
  command_canonical h (acscpOutBody_canonical h)

theorem acscpInBody_canonical {o} : (acscpInBody o s).Canonical :=
  .ite h (Check.canonical_andThen fun _ => withEngine_canonical h fun _ => h.engineTaken)

theorem execAcscpIn_canonical {o} : Result.Canonical (execAcscpIn o s) :=
  command_canonical h (acscpInBody_canonical h)

theorem copyxBody_canonical {o u} : (copyxBody o u s).Canonical :=
  .ite h (Check.canonical_andThen fun _ => withEngine_canonical h fun _ => h.engineTaken.readIn)

theorem execCopyx_canonical {o} : Result.Canonical (execCopyx o s) :=
  command_canonical h (copyxBody_canonical h)

theorem copycBody_canonical {o} : (copycBody o s).Canonical := by
  refine .ite h (Check.canonical_andThen fun x => withEngine_canonical h fun e => ?_)
  have ht : s.engineTaken.Canonical := h.engineTaken
  dsimp only
  split
  · exact ht
  · refine .ite ht.modSt ?_
    split
    · exact ht.pauseCount
    next e => exact ht.shadowWrites e

theorem execCopyc_canonical {o} : Result.Canonical (execCopyc o s) :=
  command_canonical h (copycBody_canonical h)

theorem mtopkBody_canonical {o u} : (mtopkBody o u s).Canonical :=
  Check.canonical_andThen fun _ => (Check.canonical_andThen fun _ => (.ite trivial (.ite trivial h.readIn)))

theorem execMtopk_canonical {o} : Result.Canonical (execMtopk o s) :=
  command_canonical h (mtopkBody_canonical h)

theorem State.Canonical.putElems {j a width es} : (s.putElems j a width es).Canonical :=
  .foldl (fun _ _ g => g.scrWrite) h

theorem State.Canonical.convertLand {j c ps els scales} : (s.convertLand j c ps els scales).1.Canonical := by
  unfold State.convertLand
  dsimp only
  split
  · split
    · exact h
    · exact h.putElems
  · exact .foldl (fun _ _ g => g.scrWrite) h

theorem State.Canonical.landPiece {k i} : (s.landPiece k i).Canonical := by
  unfold State.landPiece
  split
  · exact h
  · dsimp only
    split
    · split
      · exact h
      · split
        · refine State.Canonical.finish ?_
          split
          · exact h.scrWrite
          · exact h.scrWrite.landOn
        · refine State.Canonical.modFlight ?_
          split
          · exact h.scrWrite
          · exact h.scrWrite.landOn
    · exact .ite h.convertLand.finish h
    · exact h

theorem execCopyPieceLanding_canonical : Result.Canonical (execCopyPieceLanding s) :=
  h.landPiece

theorem State.Canonical.takeLine {j die pa v bad} : (s.takeLine j die pa v bad).Canonical := by
  unfold State.takeLine
  split
  · exact .getD (fun _ => h.specWrite) h
  · exact h.combineWrite

theorem State.Canonical.makePut {k n p} : (s.makePut k n p).Canonical := by
  unfold State.makePut
  split
  · exact .ite h.modCore.awSeen h.modCore
  · exact h.modCore.awSeen.modFlight
  · exact h.takeLine
  · exact h.takeLine

theorem State.Canonical.awUpdate {t : State} {n op o} (e : s.awUpdate n op = .ok (t, o)) : t.Canonical := by
  unfold State.awUpdate at e
  dsimp only at e
  split at e
  · cases e
    exact h.modCore.modJob.awSeen
  · split at e
    · cases e
    · cases e
      exact .ite h.modCore.awSeen h
  · cases e
    exact h

theorem State.Canonical.setData {k d} : (s.setData k d).Canonical :=
  h.modFlight

theorem State.Canonical.readChunk {k f d rest u} : (s.readChunk k f d rest u).Canonical :=
  h.modCore.setData

theorem State.Canonical.sendLines {k f c m} : (s.sendLines k f c m).Canonical :=
  .foldl (fun _ _ g => g.request) h.modFlight

theorem State.Canonical.makeData {k f d} : (s.makeData k f d).Canonical := by
  unfold State.makeData
  split
  · split
    · exact h.flightError
    next e => exact (h.awUpdate e).setData
  · split
    · exact h.flightError
    · split
      · exact .ite h.sendLines h.setData.modFlight
      · exact h.setData.modFlight

theorem State.Canonical.makeGroup {k f d g rest} : (s.makeGroup k f d g rest).Canonical :=
  .ite (.modCore (.setData (.foldl (fun _ _ g => g.makePut) h))) (.setData (.foldl (fun _ _ g => g.makePut) h))

theorem State.Canonical.dataStep {k} : (s.dataStep k).Canonical := by
  unfold State.dataStep
  split
  · exact h
  · split
    · exact h.setData
    · exact h.readChunk.draw
    · split
      · exact h.makeData
      · exact h
      · exact .ite h h.makeGroup.draw

theorem State.Canonical.effect {k} : (s.effect k).Canonical := by
  unfold State.effect
  split
  · exact h
  · exact .ite h (.ite h.dataStep.effectLater.checkFences h.dataStep.effectLater)

theorem State.Canonical.dataSteps {k n} : (s.dataSteps k n).Canonical := by
  induction n generalizing s with
  | zero => exact h
  | succ n ih => exact ih h.dataStep

theorem State.Canonical.dataAll {k} : (s.dataAll k).Canonical :=
  h.dataSteps.dataSteps.dataSteps

theorem State.Canonical.nextScatter {core k} : (s.nextScatter core k).Canonical := by
  unfold State.nextScatter
  split
  · split
    · exact h
    · dsimp only
      split
      · exact h.modCore
      · exact h.modCore.sched
  · exact h

theorem State.Canonical.finishData {k} : (s.finishData k).Canonical := by
  have h1 : (s.dataAll k).Canonical := h.dataAll
  unfold State.finishData
  dsimp only
  cases (s.dataAll k).dataOf k with
  | none =>
    cases s.scatterCore k with
    | none => exact h1
    | some c => exact .ite h1 h1.nextScatter
  | some x =>
    have h2 : (if x.2.over then (x.2.owed.foldl (fun s o => s.payOwed x.1.ref o) (s.dataAll k)).finish k 0
        else (s.dataAll k).sched 1 (.finish k)).Canonical :=
      .ite (.finish (.foldl (fun _ _ g => g.payOwed) h1)) h1.sched
    cases s.scatterCore k with
    | none => exact h2
    | some c => exact .ite h2 h2.nextScatter

theorem State.Canonical.finishMove {k} : (s.finishMove k).Canonical := by
  unfold State.finishMove
  split
  · split
    · exact h.finishLate
    · exact h.finishLate.nextScatter
  · exact .ite h.finishData.checkFences h.finishData

end

end Sys2Proof.Machine

namespace Sys2Proof.Machine

/-! ### The vector unit, messages and wakes keep the form -/

section
variable {s : State} (h : s.Canonical)
include h

theorem State.Canonical.vecCycle {core} : (s.vecCycle core).Canonical := by
  unfold State.vecCycle
  split
  · exact h
  next q _ =>
    dsimp only
    have h1 : (s.modCore core fun x => { x with vec := x.vec.step q }).Canonical := h.modCore
    cases q.flight with
    | none => exact .ite (.ite h1.sched h1) (.sched (.ite h1.sched h1))
    | some k => exact .ite (.ite h1.sched h1) (.sched (.ite h1.sched h1))

theorem State.Canonical.csrSet {n v} : (s.csrSet n v).Canonical :=
  .ite h.modSt (.ite h.modSt (.ite h.modSt (.ite h.modSt (.ite h.modSt
    (.ite h.modJob (.ite h.modJob (.ite h.modJob (.ite h.modJob h.modJob))))))))

theorem execCsrr_canonical {o} : Result.Canonical (execCsrr o s) :=
  command_canonical h (.ite trivial h.sput)

theorem csrBody_canonical {n src d f} : (csrBody n src d f s).Canonical :=
  .ite trivial (.ite h (.ite h (.ite trivial (State.Canonical.sput (.ite h.csrSet.voidWeights h.csrSet)))))

theorem execCsrw_canonical {o} : Result.Canonical (execCsrw o s) :=
  command_canonical h (csrBody_canonical h)

theorem execCsrs_canonical {o} : Result.Canonical (execCsrs o s) :=
  command_canonical h (csrBody_canonical h)

theorem execCsrc_canonical {o} : Result.Canonical (execCsrc o s) :=
  command_canonical h (csrBody_canonical h)

theorem execRdcyc_canonical {o} : Result.Canonical (execRdcyc o s) :=
  command_canonical h h.sput

theorem execRdptp_canonical {o} : Result.Canonical (execRdptp o s) :=
  command_canonical h h.sput

theorem State.Canonical.pendDepth {die q d} : (s.pendDepth die q d).Canonical :=
  h.modDie

theorem specdepthBody_canonical {o} : (specdepthBody o s).Canonical := by
  unfold specdepthBody
  dsimp only
  split
  · exact .ite trivial trivial
  · exact .ite trivial (.ite trivial (.ite trivial (.ite trivial h.pendDepth.modJob.sput)))

theorem execSpecdepthWrite_canonical {o} : Result.Canonical (execSpecdepthWrite o s) :=
  command_canonical h (specdepthBody_canonical h)

theorem execTcfgWrite_canonical {o} : Result.Canonical (execTcfgWrite o s) :=
  command_canonical h (csrBody_canonical h)

theorem State.Canonical.portLand {k p n faulted} : (s.portLand k p n faulted).Canonical := by
  unfold State.portLand
  split
  · exact h
  · exact h.landOn

theorem State.Canonical.acceptMsg {k f num slot data bad} : (s.acceptMsg k f num slot data bad).Canonical := by
  unfold State.acceptMsg
  dsimp only
  split
  · exact h.modJob.portLand
  · split
    · exact h.modJob.portLand
    · split
      · exact .ite h.modJob.portLand h.modJob.scrWrite.portLand
      · split
        · exact h
        · exact h.modJob.scrWrite.portLand

theorem State.Canonical.receive {k sender num slot data bad} : (s.receive k sender num slot data bad).1.Canonical := by
  unfold State.receive
  dsimp only
  split
  · exact h
  · split
    · exact h
    · split
      · split
        · exact h
        · exact h.modJob.acceptMsg
      · split
        · exact h
        · exact h

theorem State.Canonical.transmit {m} : (s.transmit m).Canonical := by
  unfold State.transmit
  split
  · dsimp only
    refine State.Canonical.later ?_
    exact h.newId.of_mem rfl
  · exact h.of_mem rfl

theorem State.Canonical.sendNow {k d m} : (s.sendNow k d m).Canonical :=
  h.transmit

theorem fmsendBody_canonical {o u} : (fmsendBody o u s).Canonical := by
  unfold fmsendBody
  dsimp only
  split
  · exact trivial
  · refine Check.canonical_andThen fun _ => ?_
    split
    · exact trivial
    · split
      · exact h
      · show State.Canonical _
        exact .ite h.fly.modJob h.fly.modJob.sendNow

theorem execFmsend_canonical {o} : Result.Canonical (execFmsend o s) :=
  command_canonical h (fmsendBody_canonical h)

theorem State.Canonical.replyTo {sender dest num r} : (s.replyTo sender dest num r).Canonical := by
  unfold State.replyTo
  dsimp only
  split
  · exact h.later
  · exact h.later
  · exact h.later
  · exact h

theorem State.Canonical.arrive {k} : (s.arrive k).Canonical := by
  unfold State.arrive
  split
  · exact h
  · split
    · exact h.post
    · dsimp only
      split
      · refine State.Canonical.replyTo ?_
        exact h.receive.of_mem rfl
      · exact .ite h.receive.later (h.receive.of_mem rfl)

theorem State.Canonical.arrivePeer {pkg part g} : (s.arrivePeer pkg part g).Canonical := by
  unfold State.arrivePeer
  split
  · exact h
  · dsimp only
    split
    · exact h.receive.of_mem rfl
    · exact h.receive.of_mem rfl
    · exact h.receive

theorem execFabricMessageArrival_canonical : Result.Canonical (execFabricMessageArrival s) := by
  unfold execFabricMessageArrival
  show State.Canonical _
  split
  · exact h.arrivePeer
  · exact h.arrive

theorem State.Canonical.acked {k d num} : (s.acked k d num).Canonical :=
  .ite (.ite h h.modJob) (.checkFences (.foldl (fun _ _ g => g.finish) h.modJob))

theorem execFabricAckReceived_canonical : Result.Canonical (execFabricAckReceived s) :=
  State.Canonical.ite h.post h.acked

theorem State.Canonical.nacked {k d num} : (s.nacked k d num).Canonical :=
  .ite h h.modJob.post

theorem State.Canonical.rejected {k d num} : (s.rejected k d num).Canonical := by
  unfold State.rejected
  split
  · exact h
  · exact h.flightError

theorem execFabricNackReceived_canonical : Result.Canonical (execFabricNackReceived s) :=
  State.Canonical.ite h.post (.ite h.rejected h.nacked)

theorem State.Canonical.resend {k d} : (s.resend k d).Canonical := by
  unfold State.resend
  dsimp only
  split
  · exact .ite h (.foldl (fun _ _ g => g.sendNow) h.modJob)
  · exact h

theorem execFmBackoffExpiry_canonical : Result.Canonical (execFmBackoffExpiry s) :=
  h.resend

theorem fmBindBody_canonical {o} : (fmBindBody o s).Canonical :=
  .ite trivial (Check.canonical_andThen fun _ => (Check.canonical_andThen fun _ => (.ite trivial h.modJob)))

theorem execFmrecvBind_canonical {o} : Result.Canonical (execFmrecvBind o s) :=
  command_canonical h (fmBindBody_canonical h)

theorem fmPopBody_canonical {o} : (fmPopBody o s).Canonical := by
  unfold fmPopBody
  dsimp only
  split
  · exact trivial
  · split
    · exact h.modJob.sput
    · exact h

theorem execFmrecvPop_canonical {o} : Result.Canonical (execFmrecvPop o s) :=
  command_canonical h (fmPopBody_canonical h)

theorem fmFltBody_canonical {o} : (fmFltBody o s).Canonical :=
  h.modJob.sput

theorem execFmrecvFlt_canonical {o} : Result.Canonical (execFmrecvFlt o s) :=
  command_canonical h (fmFltBody_canonical h)

theorem State.Canonical.modQueue {q f} : (s.modQueue q f).Canonical :=
  h.of_mem rfl

theorem State.Canonical.wake {q v} : (s.wake q v).Canonical :=
  h.modQueue.ensure

theorem State.Canonical.queueError {vf} : (s.queueError vf).Canonical :=
  h.of_mem rfl

theorem State.Canonical.wakeReply {k ok} : (s.wakeReply k ok).Canonical :=
  .ite h.finish h.flightError

theorem execWakeRegisterStore_canonical : Result.Canonical (execWakeRegisterStore s) := by
  unfold execWakeRegisterStore
  show State.Canonical _
  split
  · exact .ite h.queueError h.wake
  · exact .ite h.wake h.queueError
  · split
    · split
      · exact h.of_mem rfl
      · refine .draw (.wakeReply ?_)
        exact h.of_mem rfl
    · exact .ite (.ite h.wake h.wake.wakeReply) (.ite (.ite h.modQueue h) h.wakeReply)

theorem wakeBody_canonical {o u} : (wakeBody o u s).Canonical :=
  .ite Act.canonical_code (.ite h.fenceStart (.ite h.fly.later (.ite h.fly.post h.fly.later)))

theorem execWake_canonical {o} : Result.Canonical (execWake o s) :=
  command_canonical h (wakeBody_canonical h)

end

end Sys2Proof.Machine

namespace Sys2Proof.Machine

/-! ### The matrix array and the power budget keep the form -/

section
variable {s : State} (h : s.Canonical)
include h

theorem State.Canonical.pay {t : State} {core k b} (e : s.pay core k b = some t) : t.Canonical := by
  obtain ⟨_, e⟩ := Option.ite_none_right_eq_some.mp e
  cases e
  exact h.modCore

theorem State.Canonical.modArray {core f} : (s.modArray core f).Canonical :=
  h.modCore

theorem State.Canonical.askArray {core} : (s.askArray core).Canonical := by
  unfold State.askArray
  split
  · exact .ite h.modArray h.modArray.ensure
  · exact h.modArray.ensure

theorem State.Canonical.lookPass {core} : (s.lookPass core).Canonical :=
  .ite h h.ensure

theorem State.Canonical.freeAcs {core bs} : (s.freeAcs core bs).Canonical :=
  .ite h h.modCore.ensure.lookPass

theorem State.Canonical.wantAcs {core who n} : (s.wantAcs core who n).Canonical :=
  .ite h h.modCore.ensure

theorem State.Canonical.dropAcsWait {core who} : (s.dropAcsWait core who).Canonical :=
  h.modCore

theorem State.Canonical.releaseAcs {k} : (s.releaseAcs k).Canonical :=
  h.modJob.dropAcsWait.freeAcs

theorem State.Canonical.cutRows {core} : (s.cutRows core).Canonical := by
  unfold State.cutRows
  dsimp only
  refine .foldl (fun _ _ g => ?_) h.modArray
  split
  · exact g.modJob
  · exact g.modCore
  · exact g

theorem State.Canonical.endTerm {core} : (s.endTerm core).Canonical :=
  .ite h.cutRows.modArray.modArray h.cutRows.modArray.modArray.ensure

theorem State.Canonical.releaseLease {k} : (s.releaseLease k).Canonical :=
  .ite h.modJob.endTerm h.modJob.modArray

theorem State.Canonical.enterRows {core rs} : (s.enterRows core rs).Canonical := by
  unfold State.enterRows
  split
  · exact h
  · dsimp only
    split
    · exact h.modArray.ensure
    · exact h.modArray

theorem State.Canonical.beginLoad {core start k who w item} : (s.beginLoad core start k who w item).Canonical :=
  h.modArray.enterRows

theorem State.Canonical.loadDone {core n bytes bad} : (s.loadDone core n bytes bad).Canonical :=
  h.modArray

theorem State.Canonical.arrayDone {core flight} : (s.arrayDone core flight).Canonical :=
  .ite h.finish.modArray.ensure h.finish

theorem State.Canonical.jobRow {core load k f tile cfg src dest set last m} : (s.jobRow core load k f tile cfg src dest set last m).Canonical := by
  unfold State.jobRow
  split
  · split
    · exact h
    · dsimp only
      exact .ite h.modCore.modFlight.arrayDone h.modCore.modFlight
  · exact h

theorem State.Canonical.purge {p} : (s.purge p).Canonical :=
  .ite h (h.of_mem rfl)

theorem State.Canonical.leaveCore {k} : (s.leaveCore k).Canonical :=
  h.releaseLease.releaseAcs.unpost

theorem State.Canonical.freeSave {k} : (s.freeSave k).Canonical := by
  unfold State.freeSave
  dsimp only
  split
  · exact h
  · exact h.modCtx.modJob

theorem State.Canonical.noteIdle {die} : (s.noteIdle die).Canonical :=
  .ite h h.modDie.ensure

theorem State.Canonical.dropJob {k} : (s.dropJob k).Canonical := by
  unfold State.dropJob
  dsimp only
  refine .noteIdle ?_
  exact h.freeSave.leaveCore.purge.of_mem rfl

theorem State.Canonical.dropWatch {n} : (s.dropWatch n).Canonical :=
  h.of_mem rfl

theorem State.Canonical.askPlace {die} : (s.askPlace die).Canonical :=
  h.ensure

theorem State.Canonical.discard {n idx} : (s.discard n idx).Canonical := by
  unfold State.discard
  dsimp only
  split
  · exact h
  next x _ =>
    have h1 : ((s.jobsOfLaunch x.launch).foldl (fun s e => s.dropJob e.1) s).Canonical := .foldl (fun _ _ g => g.dropJob) h
    refine .askPlace (.ucCount ?_)
    exact (h1.dropWatch (n := n)).of_mem rfl

theorem State.Canonical.discardJob {k idx} : (s.discardJob k idx).Canonical := by
  unfold State.discardJob
  split
  · exact h
  · exact h.discard

theorem State.Canonical.cutHistory {q seq} : (s.cutHistory q seq).Canonical :=
  h.of_mem rfl

end

end Sys2Proof.Machine

namespace Sys2Proof.Machine

/-! ### Code, sections and traps keep the form -/

section
variable {s : State} (h : s.Canonical)
include h

theorem execCodeFetch_canonical : Result.Canonical (execCodeFetch s) := by
  unfold execCodeFetch
  dsimp only
  show State.Canonical _
  split
  · exact h
  · exact h.markAcc.modJob.modRef.draw

theorem State.Canonical.enterSection {r e} : (s.enterSection r e).Canonical := by
  unfold State.enterSection
  dsimp only
  split
  · exact h.raise
  · exact .ite (State.Canonical.raise (.ite h h.modRef)) (.ite (State.Canonical.raise (.ite h h.modRef)) h.modRef)

theorem execSectionEnter_canonical : Result.Canonical (execSectionEnter s) := by
  unfold execSectionEnter
  dsimp only
  show State.Canonical _
  split
  · exact h
  · exact h.enterSection

theorem State.Canonical.retireLeft {r fuel} : (s.retireLeft r fuel).Canonical := by
  induction fuel generalizing s with
  | zero => exact h
  | succ n ih =>
    unfold State.retireLeft
    split
    · exact h
    · exact .ite h (ih h.modRef)

theorem execSectionRetire_canonical : Result.Canonical (execSectionRetire s) :=
  h.retireLeft

theorem execUnassignedOpcode_canonical : Result.Canonical (execUnassignedOpcode s) :=
  h.raise

theorem execExt_canonical {v} : Result.Canonical (execExt v s) :=
  h.modSt

theorem State.Canonical.takeTrap {r} : (s.takeTrap r).Canonical := by
  unfold State.takeTrap
  dsimp only
  split
  · exact h
  · exact .ite h.modRef (.ite h.raise (.ite h.modRef h.modRef))

theorem execTrapEntry_canonical : Result.Canonical (execTrapEntry s) :=
  h.takeTrap

theorem vecBody_canonical {f out} : (vecBody f out s).Canonical := by
  unfold vecBody
  dsimp only
  split
  · exact h
  · split
    · exact trivial
    · exact h

theorem vecCommand_canonical {c opc f} : Result.Canonical (vecCommand c opc f s) :=
  command_canonical h (vecBody_canonical h)

end

end Sys2Proof.Machine

namespace Sys2Proof.Machine

/-! ### Vector commands, tasks and passes keep the form -/

section
variable {s : State} (h : s.Canonical)
include h

theorem execVadd_canonical {o} : Result.Canonical (execVadd o s) :=
  vecCommand_canonical h

theorem execVsub_canonical {o} : Result.Canonical (execVsub o s) :=
  vecCommand_canonical h

theorem execVmul_canonical {o} : Result.Canonical (execVmul o s) :=
  vecCommand_canonical h

theorem execVfma_canonical {o} : Result.Canonical (execVfma o s) :=
  vecCommand_canonical h

theorem execVmin_canonical {o} : Result.Canonical (execVmin o s) :=
  vecCommand_canonical h

theorem execVmax_canonical {o} : Result.Canonical (execVmax o s) :=
  vecCommand_canonical h

theorem execVabs_canonical {o} : Result.Canonical (execVabs o s) :=
  vecCommand_canonical h

theorem execVneg_canonical {o} : Result.Canonical (execVneg o s) :=
  vecCommand_canonical h

theorem execVexp_canonical {o} : Result.Canonical (execVexp o s) :=
  vecCommand_canonical h

theorem execVlog_canonical {o} : Result.Canonical (execVlog o s) :=
  vecCommand_canonical h

theorem execVrcp_canonical {o} : Result.Canonical (execVrcp o s) :=
  vecCommand_canonical h

theorem execVrsq_canonical {o} : Result.Canonical (execVrsq o s) :=
  vecCommand_canonical h

theorem execVtanh_canonical {o} : Result.Canonical (execVtanh o s) :=
  vecCommand_canonical h

theorem execVsigm_canonical {o} : Result.Canonical (execVsigm o s) :=
  vecCommand_canonical h

theorem execVgelu_canonical {o} : Result.Canonical (execVgelu o s) :=
  vecCommand_canonical h

theorem execVsilu_canonical {o} : Result.Canonical (execVsilu o s) :=
  vecCommand_canonical h

theorem execVcvt_canonical {o} : Result.Canonical (execVcvt o s) :=
  vecCommand_canonical h

theorem execVcmp_canonical {o} : Result.Canonical (execVcmp o s) :=
  vecCommand_canonical h

theorem execVsel_canonical {o} : Result.Canonical (execVsel o s) :=
  vecCommand_canonical h

theorem execVand_canonical {o} : Result.Canonical (execVand o s) :=
  vecCommand_canonical h

theorem execVor_canonical {o} : Result.Canonical (execVor o s) :=
  vecCommand_canonical h

theorem execVxor_canonical {o} : Result.Canonical (execVxor o s) :=
  vecCommand_canonical h

theorem execVshl_canonical {o} : Result.Canonical (execVshl o s) :=
  vecCommand_canonical h

theorem execVshr_canonical {o} : Result.Canonical (execVshr o s) :=
  vecCommand_canonical h

theorem execVshrA_canonical {o} : Result.Canonical (execVshrA o s) :=
  vecCommand_canonical h

theorem execVclamp_canonical {o} : Result.Canonical (execVclamp o s) :=
  vecCommand_canonical h

theorem execVmov_canonical {o} : Result.Canonical (execVmov o s) :=
  vecCommand_canonical h

theorem execVfill_canonical {o} : Result.Canonical (execVfill o s) :=
  vecCommand_canonical h

theorem execVchain_canonical {o} : Result.Canonical (execVchain o s) :=
  command_canonical h (vecBody_canonical h)

theorem execVrsum_canonical {o} : Result.Canonical (execVrsum o s) :=
  vecCommand_canonical h

theorem execVrmax_canonical {o} : Result.Canonical (execVrmax o s) :=
  vecCommand_canonical h

theorem execVrmin_canonical {o} : Result.Canonical (execVrmin o s) :=
  vecCommand_canonical h

theorem execVargmax_canonical {o} : Result.Canonical (execVargmax o s) :=
  vecCommand_canonical h

theorem execVscan_canonical {o} : Result.Canonical (execVscan o s) :=
  vecCommand_canonical h

theorem execVtopk_canonical {o} : Result.Canonical (execVtopk o s) :=
  vecCommand_canonical h

theorem execVlse_canonical {o} : Result.Canonical (execVlse o s) :=
  vecCommand_canonical h

theorem execVzip_canonical {o} : Result.Canonical (execVzip o s) :=
  vecCommand_canonical h

theorem execVunzip_canonical {o} : Result.Canonical (execVunzip o s) :=
  vecCommand_canonical h

theorem execVperm_canonical {o} : Result.Canonical (execVperm o s) :=
  vecCommand_canonical h

theorem execVtrans_canonical {o} : Result.Canonical (execVtrans o s) :=
  vecCommand_canonical h

theorem execVbcast_canonical {o} : Result.Canonical (execVbcast o s) :=
  vecCommand_canonical h

theorem execVcompact_canonical {o} : Result.Canonical (execVcompact o s) :=
  command_canonical h (vecBody_canonical h)

theorem execVexpand_canonical {o} : Result.Canonical (execVexpand o s) :=
  vecCommand_canonical h

theorem State.Canonical.countWid {i n} : (s.countWid i n).Canonical := by
  unfold State.countWid
  split
  · exact h
  · exact h.of_mem rfl

theorem State.Canonical.modTrow {core f} : (s.modTrow core f).Canonical :=
  h.modCore

theorem State.Canonical.modEntry {core e f} : (s.modEntry core e f).Canonical :=
  h.modTrow

theorem State.Canonical.setSlot {k n x} : (s.setSlot k n x).Canonical :=
  h.modJob

theorem State.Canonical.settleEpilogues {core} : (s.settleEpilogues core).Canonical :=
  .ite h h.modCore

theorem State.Canonical.nameEpilogue {core x2} : (s.nameEpilogue core x2).Canonical :=
  h.modCore

theorem State.Canonical.enterPool {o u e a d} : (s.enterPool o u e a d).Canonical :=
  h.fly.nameEpilogue.setSlot.modTrow.post.ensure

theorem taskBody_canonical {o u} : (taskBody o u s).Canonical := by
  unfold taskBody
  dsimp only
  split
  · exact h.settleEpilogues
  · split
    · exact h.settleEpilogues
    · split
      · exact .ite h.settleEpilogues (Check.canonical_andThen fun _ => h.settleEpilogues.modSt)
      · exact Check.canonical_andThen fun _ => h.settleEpilogues.enterPool.modSt

theorem execTask_canonical {o} : Result.Canonical (execTask o s) :=
  command_canonical h (taskBody_canonical h)

theorem State.Canonical.acquireRows : (s.acquireRows).Canonical :=
  h.dropCopies

theorem execTaskwait_canonical {o} : Result.Canonical (execTaskwait o s) :=
  command_canonical h (.ite h h.acquireRows)

theorem execTaskst_canonical {o} : Result.Canonical (execTaskst o s) :=
  command_canonical h (State.Canonical.sput (.ite h.acquireRows h))

theorem State.Canonical.freeParked {core} : (s.freeParked core).Canonical :=
  h.modCore.freeAcs

theorem State.Canonical.parkTask {core t cause no bytes blocks base} : (s.parkTask core t cause no bytes blocks base).Canonical := by
  unfold State.parkTask
  split
  · exact h
  · split
    · exact h
    · dsimp only
      refine State.Canonical.send ?_
      exact .ite h.modEntry.modTrow.setSlot.wantAcs h.modEntry.modTrow.setSlot

theorem State.Canonical.holdParked {core e blocks} : (s.holdParked core e blocks).Canonical :=
  h.modTrow

theorem State.Canonical.freeEntry {core e} : (s.freeEntry core e).Canonical :=
  h.modTrow.dropAcsWait.freeParked.ensure.ensure

theorem State.Canonical.decideParked {core e flight} : (s.decideParked core e flight).Canonical := by
  unfold State.decideParked
  split
  · exact h
  · exact .ite h (.ite h.freeEntry.dropFlight.freezeFor h.freeEntry.setSlot.modFlight.finish)

theorem execMsgTaskParked_canonical : Result.Canonical (execMsgTaskParked s) :=
  h.receiveMail fun _ _ g => g.decideParked

theorem State.Canonical.formPass {core ts x} : (s.formPass core ts x).Canonical :=
  .ite (.sched (.modTrow (.foldl (fun _ _ g => g.modEntry.setSlot) h))) (.later (.sched (.modTrow (.foldl (fun _ _ g => g.modEntry.setSlot) h))))

theorem execPassForm_canonical : Result.Canonical (execPassForm s) := by
  unfold execPassForm
  dsimp only
  show State.Canonical _
  split
  · exact h
  · split
    · exact h
    · exact h.formPass

theorem execTaskDeadline_canonical : Result.Canonical (execTaskDeadline s) := by
  unfold execTaskDeadline
  show State.Canonical _
  split
  · exact h
  · exact .ite h.ensure h

theorem State.Canonical.dropFront {core} : (s.dropFront core).Canonical := by
  unfold State.dropFront
  split
  · exact h
  · exact h.modCore.freeAcs.dropAcsWait.ensure

theorem execWeightBufferRead_canonical : Result.Canonical (execWeightBufferRead s) := by
  unfold execWeightBufferRead
  show State.Canonical _
  split
  · exact h
  · split
    · exact h
    · exact .ite (.dropFront (.foldl (fun _ _ g => g.parkTask) h.modTrow)) h.modTrow.askArray

theorem State.Canonical.modFront {core f} : (s.modFront core f).Canonical :=
  h.modTrow

theorem execPassArrayTerm_canonical : Result.Canonical (execPassArrayTerm s) := by
  unfold execPassArrayTerm
  dsimp only
  show State.Canonical _
  split
  · refine .ite h.ensure (.ite ?_ (.ite ?_ h.modFront.endTerm))
    · split
      · exact h
      next e => exact (h.pay e).beginLoad.modFront.ensure
    · split
      · exact h
      next e => exact (h.pay e).enterRows.sched.modArray.modFront.ensure
  · exact h.endTerm
  · exact h

theorem State.Canonical.passEntry {core no i} : (s.passEntry core no i).Canonical := by
  unfold State.passEntry
  split
  · exact h
  · exact .ite h h.modFront.sched

theorem State.Canonical.passBlocks {core no} : (s.passBlocks core no).Canonical := by
  unfold State.passBlocks
  split
  · exact h
  · exact .ite h h.wantAcs

theorem State.Canonical.passRow {core load i} : (s.passRow core load i).Canonical := by
  unfold State.passRow
  split
  · dsimp only
    split
    · refine State.Canonical.ensure ?_
      refine State.Canonical.modFront ?_
      exact .ite h.countWid.modCore.modEntry.parkTask h.countWid.modCore.modEntry
    · exact h.modFront.ensure
  · exact h

theorem State.Canonical.epiFlags {core p c f} : (s.epiFlags core p c f).Canonical :=
  .foldl (fun _ _ g => g.modEntry) h

theorem State.Canonical.parkAll {core p ts cause} : (s.parkAll core p ts cause).Canonical := by
  unfold State.parkAll
  refine .foldl (fun _ _ g => ?_) h
  split
  · exact g
  · exact g.parkTask

theorem State.Canonical.modPass {core no f} : (s.modPass core no f).Canonical :=
  h.modTrow

theorem State.Canonical.moveTasks {core p n old new} : (s.moveTasks core p n old new).Canonical :=
  .foldl (fun _ _ g => g.modEntry) h

theorem State.Canonical.releasePass {core p} : (s.releasePass core p).Canonical :=
  h.modCore.freeAcs

theorem State.Canonical.copyChunk {core p} : (s.copyChunk core p).Canonical :=
  .ite h (.ite (State.Canonical.ensure (State.Canonical.modTrow (State.Canonical.releasePass (State.Canonical.moveTasks (.ite h.modTrow.sched
      h.modTrow))))) (State.Canonical.ensure (State.Canonical.modFront (State.Canonical.moveTasks (.ite h.modTrow.sched h.modTrow)))))

theorem execEpilogueChunk_canonical : Result.Canonical (execEpilogueChunk s) := by
  unfold execEpilogueChunk
  show State.Canonical _
  split
  · exact h
  · exact h.copyChunk

theorem execPassBackPosition_canonical : Result.Canonical (execPassBackPosition s) := by
  unfold execPassBackPosition
  show State.Canonical _
  split
  · exact h
  · exact .ite h.copyChunk h

theorem State.Canonical.chunkDone {core c rows} : (s.chunkDone core c rows).Canonical := by
  unfold State.chunkDone
  dsimp only
  split
  · exact .ite h.modPass.modTrow.ensure h.modPass.modTrow.ensure.sched
  · exact .ite h.modPass.moveTasks.modTrow.ensure h.modPass.moveTasks.modTrow.ensure.sched

theorem State.Canonical.chunkFails {core c p} : (s.chunkFails core c p).Canonical :=
  h.parkAll.chunkDone

theorem State.Canonical.epiBegin {core} : (s.epiBegin core).Canonical := by
  unfold State.epiBegin
  dsimp only
  split
  · exact h
  · split
    · exact h.chunkDone
    · split
      · exact h.chunkDone
      · split
        · exact h.chunkFails
        · exact .ite h.sched h.joinVector

theorem State.Canonical.epiEnd {core} : (s.epiEnd core).Canonical := by
  unfold State.epiEnd
  dsimp only
  split
  · exact h
  · split
    · split
      · exact h.chunkFails
      · exact .sched (.foldl (fun _ _ g => g.parkAll) (.foldl (fun _ _ g => g.epiFlags) h.modTrow))
    · exact h.sched

theorem State.Canonical.trowelStep {core x} : (s.trowelStep core x).Canonical := by
  unfold State.trowelStep
  split
  · exact h.passBlocks
  · exact h.passEntry
  · exact h.epiBegin
  · exact h.epiEnd

theorem State.Canonical.rowWrites {e j i bytes} : (s.rowWrites e j i bytes).Canonical :=
  .foldl (fun _ _ g => g.request) h

theorem State.Canonical.freeBack {core} : (s.freeBack core).Canonical := by
  unfold State.freeBack
  dsimp only
  split
  · exact h
  · exact .ite h h.modTrow.ensure

theorem State.Canonical.scatterOn {core no through d} : (s.scatterOn core no through d).Canonical :=
  State.Canonical.freeBack (State.Canonical.ensure (State.Canonical.modTrow (.ite h.modPass h)))

theorem State.Canonical.scatterNext {core p} : (s.scatterNext core p).Canonical := by
  unfold State.scatterNext
  dsimp only
  refine .ite h.ensure ?_
  split
  · exact h
  · split
    · exact h.scatterOn
    · exact .ite h.scatterOn (.ite h (.ite h.parkTask.scatterOn h.rowWrites.modEntry.scatterOn))

theorem execScatterCheck_canonical : Result.Canonical (execScatterCheck s) := by
  unfold execScatterCheck
  show State.Canonical _
  split
  · exact h.freeBack
  · exact h.scatterNext

theorem execTaskRowPerformed_canonical : Result.Canonical (execTaskRowPerformed s) := by
  unfold execTaskRowPerformed
  show State.Canonical _
  split
  · exact h
  · exact .ite h h.freeEntry.setSlot.finish

end

end Sys2Proof.Machine

namespace Sys2Proof.Machine

/-! ### Leases, tiles and array commands keep the form -/

section
variable {s : State} (h : s.Canonical)
include h

theorem leaseBody_canonical {o} : (leaseBody o s).Canonical :=
  .ite (.ite trivial h.modJob.askArray) h.wantAcs

theorem execLease_canonical {o} : Result.Canonical (execLease o s) :=
  command_canonical h (leaseBody_canonical h)

theorem unleaseBody_canonical {acs} : (unleaseBody acs s).Canonical := by
  unfold unleaseBody
  split
  · exact h
  · dsimp only
    show State.Canonical _
    exact .ite h.releaseLease.releaseAcs h.releaseLease

theorem execUnlease_canonical {o} : Result.Canonical (execUnlease o s) :=
  command_canonical h (unleaseBody_canonical h)

theorem execUnleaseAcs_canonical {o} : Result.Canonical (execUnleaseAcs o s) :=
  command_canonical h (unleaseBody_canonical h)

theorem State.Canonical.giveAcs {core who bs} : (s.giveAcs core who bs).Canonical := by
  unfold State.giveAcs
  dsimp only
  split
  · exact h.modCore.lookPass.modJob
  · exact h.modCore.lookPass.modFront.askArray
  · exact h.modCore.lookPass.holdParked.ensure

theorem execAcsAllotmentGrant_canonical : Result.Canonical (execAcsAllotmentGrant s) := by
  unfold execAcsAllotmentGrant
  dsimp only
  show State.Canonical _
  split
  · exact h
  · split
    · exact h.dropAcsWait.giveAcs.ensure
    · split
      · exact h
      · split
        · exact h
        · exact h.discardJob

theorem tldBody_canonical {o} : (tldBody o s).Canonical :=
  .ite h (Check.canonical_andThen fun _ => (Check.canonical_andThen fun _ => (.ite trivial h.voidWeights)))

theorem execTld_canonical {o} : Result.Canonical (execTld o s) :=
  command_canonical h (tldBody_canonical h)

theorem tstBody_canonical {o} : (tstBody o s).Canonical :=
  Check.canonical_andThen fun _ => Check.canonical_andThen fun _ => h

theorem execTst_canonical {o} : Result.Canonical (execTst o s) :=
  command_canonical h (tstBody_canonical h)

theorem tzeroBody_canonical {o} : (tzeroBody o s).Canonical :=
  .ite h (Check.canonical_andThen fun _ => h.voidWeights)

theorem execTzero_canonical {o} : Result.Canonical (execTzero o s) :=
  command_canonical h (tzeroBody_canonical h)

theorem acszeroBody_canonical {o} : (acszeroBody o s).Canonical :=
  .ite trivial h

theorem execAcszero_canonical {o} : Result.Canonical (execAcszero o s) :=
  command_canonical h (acszeroBody_canonical h)

theorem State.Canonical.queueCmd {c u kind t set parts w} : (s.queueCmd c u kind t set parts w).Canonical :=
  h.fly.modJob.askArray

theorem withLease_canonical {a : Act} (ha : a.Canonical) : (withLease s a).Canonical :=
  .ite h (.ite Act.canonical_code ha)

theorem mloadwBody_canonical {o u} : (mloadwBody o u s).Canonical :=
  withLease_canonical h (Check.canonical_andThen fun _ => h.queueCmd)

theorem execMloadw_canonical {o} : Result.Canonical (execMloadw o s) :=
  command_canonical h (mloadwBody_canonical h)

theorem mrowsBody_canonical {o u} : (mrowsBody o u s).Canonical := by
  unfold mrowsBody
  dsimp only
  refine withLease_canonical h ?_
  refine Check.canonical_andThen fun _ => ?_
  split
  · exact trivial
  · exact Check.canonical_andThen fun _ => h.queueCmd

theorem execMrows_canonical {o} : Result.Canonical (execMrows o s) :=
  command_canonical h (mrowsBody_canonical h)

theorem mmaBody_canonical {o u} : (mmaBody o u s).Canonical :=
  withLease_canonical h (Check.canonical_andThen fun _ => Check.canonical_andThen fun _ => Check.canonical_andThen fun _ => h.queueCmd)

theorem execMma_canonical {o} : Result.Canonical (execMma o s) :=
  command_canonical h (mmaBody_canonical h)

theorem bsmmBody_canonical {o u} : (bsmmBody o u s).Canonical := by
  unfold bsmmBody
  dsimp only
  split
  · exact h
  · refine withLease_canonical h ?_
    refine Check.canonical_andThen fun _ => ?_
    split
    · exact trivial
    · refine Check.canonical_andThen fun _ => ?_
      refine Check.canonical_andThen fun _ => ?_
      split
      · exact h
      · exact h.queueCmd

theorem execBsmm_canonical {o} : Result.Canonical (execBsmm o s) :=
  command_canonical h (bsmmBody_canonical h)

theorem State.Canonical.modHead {k f} : (s.modHead k f).Canonical :=
  h.modJob

theorem State.Canonical.countCmd {core k c} : (s.countCmd core k c).Canonical :=
  .ite h h.modArray.modHead

theorem State.Canonical.startPart {core k j c p} : (s.startPart core k j c p).Canonical := by
  unfold State.startPart
  dsimp only
  split
  · split
    · exact .ite h.ensure h
    next e => exact (h.pay e).countCmd.modHead.modJob.beginLoad.ensure
  · split
    · exact h.modHead.modArray.modJob.beginLoad.ensure.ensure
    · split
      · exact .ite h.ensure h
      next t e =>
        have ht : t.Canonical := by
          split at e
          · exact Option.some.inj e ▸ h
          · exact h.pay e
        exact ht.countCmd.modHead.enterRows.modArray.ensure

theorem State.Canonical.boundary {core cc} : (s.boundary core cc).Canonical := by
  unfold State.boundary
  dsimp only
  refine .ite h.ensure ?_
  split
  · exact h.endTerm
  next k c _ =>
    have h1 : (if (s.coreOf core).array.free ≤ s.now then s.modJob k Job.popPart else s).Canonical := .ite h.modJob h
    refine .ite h1.endTerm (.ite h1.ensure ?_)
    split
    · exact h1
    · split
      · exact h1
      · exact h1.startPart

theorem execLeaseTermEnd_canonical : Result.Canonical (execLeaseTermEnd s) := by
  unfold execLeaseTermEnd
  dsimp only
  show State.Canonical _
  split
  · exact h.boundary
  · exact h

theorem State.Canonical.itemEffect {core r} : (s.itemEffect core r).Canonical := by
  unfold State.itemEffect
  split
  · split
    · exact h
    · split
      · exact h
      · dsimp only
        split
        · exact h.loadDone
        · exact h.loadDone.arrayDone
  · exact h.jobRow
  · exact h.loadDone
  · exact h.passRow

theorem execArrayRowUpdate_canonical : Result.Canonical (execArrayRowUpdate s) := by
  unfold execArrayRowUpdate
  dsimp only
  show State.Canonical _
  split
  · exact h
  · split
    · exact h.ensure
    · split
      · exact h.modArray.itemEffect
      · exact h.modArray.itemEffect.ensure

theorem execArrayArbitration_canonical : Result.Canonical (execArrayArbitration s) := by
  unfold execArrayArbitration
  dsimp only
  show State.Canonical _
  split
  · exact h
  · split
    · exact h.modArray
    · split
      · exact h.modArray.ensure
      · exact h.modArray.ensure.post

theorem execBudgetRefill_canonical : Result.Canonical (execBudgetRefill s) := by
  unfold execBudgetRefill
  dsimp only
  show State.Canonical _
  refine State.Canonical.post ?_
  refine .foldl (fun _ _ g => ?_) (h.of_mem rfl)
  split
  · exact g
  · exact g.ensure

end

end Sys2Proof.Machine

namespace Sys2Proof.Machine

/-! ### Launches and pools keep the form -/

section
variable {s : State} (h : s.Canonical)
include h

theorem State.Canonical.enterHistory {q ctx seq r} : (s.enterHistory q ctx seq r).Canonical := by
  unfold State.enterHistory
  dsimp only
  split
  · exact h.of_mem rfl
  · refine .post ?_
    exact h.of_mem rfl

theorem State.Canonical.tryStart {q} : (s.tryStart q).Canonical := by
  unfold State.tryStart
  split
  · exact h
  · exact h.ensure

theorem State.Canonical.freePool {k} : (s.freePool k).Canonical := by
  unfold State.freePool
  split
  · exact h
  · exact .ite h.modLaunch.ensure h

theorem State.Canonical.grantPool {die} : (s.grantPool die).Canonical := by
  unfold State.grantPool
  dsimp only
  split
  · exact h.modDie.modDie.modJob.ensure.ensure
  · exact .ite h.modDie.modDie.post.ensure (.ite h.modDie.modDie.post.ensure h)

theorem execPoolGrant_canonical : Result.Canonical (execPoolGrant s) :=
  State.Canonical.ite h (.ite h.ensure h.grantPool)

theorem execRingRead_canonical : Result.Canonical (execRingRead s) := by
  unfold execRingRead
  dsimp only
  show State.Canonical _
  split
  · exact h
  · refine .later (.enterHistory ?_)
    exact .of_mem (State.Canonical.ite h.countWid h) rfl

theorem execRecordLanded_canonical : Result.Canonical (execRecordLanded s) := by
  unfold execRecordLanded
  show State.Canonical _
  split
  · exact h
  · exact .ite h.modLaunch.tryStart h

theorem State.Canonical.insertLaunch {k b} : (s.insertLaunch k b).1.Canonical := by
  refine .tryStart (.enterHistory ?_)
  exact h.of_mem rfl

theorem State.Canonical.toPool {k die home} : (s.toPool k die home).Canonical :=
  h.draw.modDie.post

theorem poolBody_canonical {c u d p r q desc park} : (poolBody c u d p r q desc park s).Canonical :=
  .ite Act.canonical_code (Check.canonical_andThen fun _ => .ite Act.canonical_code (.ite h.fenceStart h.fly.toPool))

theorem execLaunch_canonical {o} : Result.Canonical (execLaunch o s) :=
  command_canonical h (poolBody_canonical h)

theorem execLaunchp_canonical {o} : Result.Canonical (execLaunchp o s) :=
  command_canonical h (poolBody_canonical h)

theorem State.Canonical.answerPool {die k} : (s.answerPool die k).Canonical := by
  unfold State.answerPool
  split
  · exact h
  · split
    · refine .ite (.post (.modFlight ?_)) (.later (.modFlight ?_))
      all_goals
        split
        · exact h
        · split
          · exact h
          · exact h.insertLaunch
    · exact h

theorem State.Canonical.poolReply {k} : (s.poolReply k).Canonical := by
  unfold State.poolReply
  split
  · exact h
  · split
    · dsimp only
      split
      · refine State.Canonical.finish ?_
        split
        · exact h.modRef
        · exact h.modRef.pput
      · exact h.flightError
      · split
        · exact h.modJob.ensure
        · refine State.Canonical.finish ?_
          split
          · exact h.modRef
          · exact h.modRef.pput
    · exact h

theorem execPoolRequestHandled_canonical : Result.Canonical (execPoolRequestHandled s) := by
  unfold execPoolRequestHandled
  dsimp only
  show State.Canonical _
  split
  · exact h.poolReply
  · split
    · exact h
    · exact h.modDie.answerPool

theorem State.Canonical.startWalk {core slot ctx vf va spec} : (s.startWalk core slot ctx vf va spec).Canonical :=
  h.modCore.later

theorem State.Canonical.translate {j a} : (s.translate j a).2.Canonical := by
  unfold State.translate
  dsimp only
  split
  · exact h
  · split
    · exact h
    · split
      · split
        · exact h
        · exact h
      · split
        · exact h
        · exact h.startWalk

theorem xlatBody_canonical {o u} : (xlatBody o u s).Canonical :=
  h.translate.fly.post

theorem execXlat_canonical {o} : Result.Canonical (execXlat o s) :=
  command_canonical h (xlatBody_canonical h)

theorem execXlatHandleWrite_canonical : Result.Canonical (execXlatHandleWrite s) := by
  unfold execXlatHandleWrite
  show State.Canonical _
  split
  · exact h
  · split
    · exact h.hput.finish
    · exact h

theorem execWalkComplete_canonical : Result.Canonical (execWalkComplete s) := by
  unfold execWalkComplete
  dsimp only
  show State.Canonical _
  split
  · exact h
  · split
    · exact h
    · refine .post (.modCore (.markAcc ?_))
      exact h.of_mem rfl

theorem execWalkResultExpiry_canonical : Result.Canonical (execWalkResultExpiry s) := by
  unfold execWalkResultExpiry
  show State.Canonical _
  split
  · exact h
  · split
    · exact h
    · exact .ite h.modCore h

theorem execHtestS_canonical {o} : Result.Canonical (execHtestS o s) :=
  command_canonical h h.sput

theorem execHtestP_canonical {o} : Result.Canonical (execHtestP o s) :=
  command_canonical h h.pput

theorem execHrel_canonical {o} : Result.Canonical (execHrel o s) :=
  command_canonical h h.hput

end

end Sys2Proof.Machine

namespace Sys2Proof.Machine

/-! ### Probes, saving and resumption keep the form -/

section
variable {s : State} (h : s.Canonical)
include h

theorem State.Canonical.setProbing {p} : (s.setProbing p).Canonical :=
  h.modSt

theorem State.Canonical.faultPage {j va miss} : (s.faultPage j va miss).Canonical := by
  unfold State.faultPage
  dsimp only
  refine State.Canonical.post ?_
  refine State.Canonical.send ?_
  exact h.newId.of_mem rfl

theorem State.Canonical.probed {x1 v} : (s.probed x1 v).Canonical :=
  h.hput.setProbing.modJob

theorem probeStep_canonical {o p} : (probeStep o p s).Canonical := by
  unfold probeStep
  dsimp only
  split
  · exact h.setProbing
  · split
    · split
      · exact h.setProbing
      · split
        · exact trivial
        · split
          · show State.Canonical _
            refine .setProbing ?_
            exact h.of_mem rfl
          · exact h
    · split
      · exact .ite h.probed h.setProbing
      · split
        · exact h.translate.setProbing
        · split
          · exact h
          · exact .ite h.modCore.setProbing (.ite trivial (.ite h.setProbing.modSt h.faultPage.modCore.setProbing))

theorem probeBody_canonical {o} : (probeBody o s).Canonical := by
  unfold probeBody
  split
  · exact probeStep_canonical h
  · exact .ite trivial h.setProbing

theorem execProbe_canonical {o} : Result.Canonical (execProbe o s) :=
  command_canonical h (probeBody_canonical h)

theorem State.Canonical.reserveSave {t : State} {k} (e : s.reserveSave k = some t) : t.Canonical := by
  unfold State.reserveSave at e
  dsimp only at e
  split at e
  · cases e
    exact h
  · split at e
    · cases e
    · cases e
      exact h.modCtx.modJob

theorem State.Canonical.saveLines {ctx va ls} : (s.saveLines ctx va ls).1.Canonical := by
  induction ls generalizing s with
  | nil => exact h
  | cons l r ih =>
    obtain ⟨o, b, bad⟩ := l
    unfold State.saveLines
    split
    · exact h
    · exact ih h.writeParts

theorem State.Canonical.saveRun {k} : (s.saveRun k).Canonical := by
  unfold State.saveRun
  dsimp only
  split
  · split
    · exact h.saveLines.modJob.later
    · exact h.saveLines.modJob.later
  · exact h

theorem State.Canonical.beginSave {k reason} : (s.beginSave k reason).Canonical := by
  unfold State.beginSave
  dsimp only
  exact .saveRun (.modJob h.markVa)

theorem execSaveLineFault_canonical : Result.Canonical (execSaveLineFault s) := by
  unfold execSaveLineFault
  dsimp only
  show State.Canonical _
  split
  · exact h
  · exact h.modJob.modCtx.send.post

theorem execSaveBlockTimeout_canonical : Result.Canonical (execSaveBlockTimeout s) := by
  unfold execSaveBlockTimeout
  show State.Canonical _
  split
  · exact h
  · exact .ite h.freeze h

theorem State.Canonical.settleCtx {ctx} : (s.settleCtx ctx).Canonical :=
  h.modCtx

theorem State.Canonical.vacate {k} : (s.vacate k).Canonical :=
  State.Canonical.unpost (State.Canonical.freeAcs (State.Canonical.dropAcsWait (State.Canonical.modJob (.ite h.endTerm h))))

theorem execSaveComplete_canonical : Result.Canonical (execSaveComplete s) := by
  unfold execSaveComplete
  dsimp only
  show State.Canonical _
  split
  · split
    · exact h.post
    next t e =>
      have ht : t.Canonical := h.vaWrite e
      split
      · exact ht.vacate.modJob.settleCtx.askPlace.noteIdle
      · exact ht.vacate.modJob.settleCtx.askPlace.noteIdle.ensure
  · exact h

theorem execJobPark_canonical : Result.Canonical (execJobPark s) :=
  State.Canonical.ite h (.ite (State.Canonical.post (.ite h h.drainCtx)) h.beginSave)

theorem State.Canonical.requestPreempt {k b} : (s.requestPreempt k b).Canonical :=
  .ite h (.ite (State.Canonical.ensure (.ite h.post h)) (State.Canonical.ensure (State.Canonical.modJob (.ite h.post h))))

theorem execPreemptRequest_canonical : Result.Canonical (execPreemptRequest s) :=
  h.requestPreempt

theorem execJobPreempted_canonical : Result.Canonical (execJobPreempted s) :=
  State.Canonical.ite h (.ite h.ensure (.ite h.beginSave (State.Canonical.ensure (State.Canonical.drainCtx (.ite h.endTerm h)))))

theorem execPreemptOverrun_canonical : Result.Canonical (execPreemptOverrun s) :=
  h.raise

theorem execPreemptStall_canonical : Result.Canonical (execPreemptStall s) :=
  State.Canonical.ite h.freezeFor h

theorem State.Canonical.restoreUnits {k b bad} : (s.restoreUnits k b bad).Canonical :=
  .foldl (fun _ _ g => g.scrWrite) (.foldl (fun _ _ g => g.tileWrite) h)

theorem State.Canonical.restoreAcs {k b bad} : (s.restoreAcs k b bad).Canonical :=
  .foldl (fun _ _ g => g.modCore) h

theorem State.Canonical.askPools {k} : (s.askPools k).Canonical := by
  unfold State.askPools
  refine .foldl (fun _ _ g => ?_) h
  split
  · exact g.modFlight.toPool
  · exact g

theorem State.Canonical.resumePool {k} : (s.resumePool k).Canonical := by
  unfold State.resumePool
  split
  · exact h
  · dsimp only
    exact .ite h.modDie.flightError.ensure h.modDie.insertLaunch.modRef.finish.askPools

theorem execJobResume_canonical : Result.Canonical (execJobResume s) := by
  unfold execJobResume
  extract_lets k j n
  -- the length of the save area stays a variable: the kernel would count it down from 49,152 · 32
  obtain ⟨m, hm⟩ : ∃ m, m = n := ⟨n, rfl⟩
  rw [← hm]
  refine State.Canonical.ite h (.ite h.wantAcs.post ?_)
  split
  · exact h
  · split
    · exact h.post
    · refine .ite h.post ?_
      split
      · exact h.post
      next t e =>
        have ht : t.Canonical := h.markVa.vaWrite e
        extract_lets bad s1 s2 s3
        have h3 : s3.Canonical := .foldl (fun _ _ g => .ite g g.poll) (.resumePool ht.restoreUnits.restoreAcs.modJob)
        exact .ite h3.askArray h3

theorem State.Canonical.stopHolders {c} : (s.stopHolders c).Canonical :=
  .foldl (fun _ _ g => g.requestPreempt) h

theorem State.Canonical.revokeSaved {c j} : (s.revokeSaved c j).Canonical := by
  unfold State.revokeSaved
  split
  · exact h
  · refine .foldl (fun t i g => ?_) h
    split
    · exact g
    · exact .ite (.getD (fun _ => g.vaWrite) g) g

theorem State.Canonical.revoke {c} : (s.revoke c).Canonical := by
  unfold State.revoke
  dsimp only
  refine .foldl (fun _ _ g => ?_) ?_
  · split
    · exact g.discardJob
    · exact g
  · refine .foldl (fun _ _ g => ?_) (.foldl (fun _ _ g => g.revokeSaved) h)
    split
    · exact g
    · exact g.modJob

theorem State.Canonical.dropXlat {c} : (s.dropXlat c).Canonical :=
  h.of_mem rfl

end

end Sys2Proof.Machine

namespace Sys2Proof.Machine

/-! ### Launches, jobs and their placement keep the form -/

section
variable {s : State} (h : s.Canonical)
include h

theorem State.Canonical.drainLaunch {k} : (s.drainLaunch k).Canonical :=
  .foldl (fun _ _ g => .foldl (fun _ _ g => g.drainLine) g) h

theorem State.Canonical.writeCompl {l status detail} : (s.writeCompl l status detail).Canonical := by
  unfold State.writeCompl
  dsimp only
  split
  · exact h
  · split
    next e => exact h.vaWrite e
    · exact h.of_mem rfl

theorem State.Canonical.clearHold {l} : (s.clearHold l).Canonical :=
  .ite h.modQueue.ensure h

theorem State.Canonical.finishLaunch {k status detail} : (s.finishLaunch k status detail).Canonical := by
  unfold State.finishLaunch
  split
  · exact h
  · split
    · exact h
    · dsimp only
      exact .ite h.drainLaunch h.drainLaunch.freePool.modLaunch.clearHold.tryStart.sched

theorem State.Canonical.complWord {k} : (s.complWord k).Canonical := by
  unfold State.complWord
  split
  · exact h
  · split
    · exact h
    · exact h.writeCompl.later

theorem State.Canonical.launchDone {k} : (s.launchDone k).Canonical := by
  unfold State.launchDone
  split
  · exact h
  · exact .ite h (.ite h.freePool.post h.finishLaunch)

theorem execWakeTargetStore_canonical : Result.Canonical (execWakeTargetStore s) := by
  unfold execWakeTargetStore
  dsimp only
  show State.Canonical _
  split
  · exact h
  next l _ =>
    have h1 : (State.restCtx { s with launches := s.launches.erase s.args.a } l.ctx).Canonical := by
      refine .restCtx ?_
      exact h.of_mem rfl
    exact .ite h (.ite (.ite h1.later h1.later) (.ite (h1.of_mem rfl) h1))

theorem State.Canonical.addJob {j} : (s.addJob j).Canonical :=
  h.newId.of_mem rfl

theorem State.Canonical.expand {k} : (s.expand k).Canonical := by
  unfold State.expand
  split
  · exact h
  · split
    · exact h
    · refine .ite h (.ite h.modLaunch.launchDone ?_)
      refine .foldl (fun _ _ g => g.askPlace) (.modLaunch ?_)
      exact .foldl (fun _ _ g => g.addJob) h

theorem State.Canonical.proceed {k} : (s.proceed k).Canonical := by
  unfold State.proceed
  split
  · exact h
  · dsimp only
    split
    · exact h.finishLaunch
    · split
      · exact h.modLaunch.modLaunch.post
      · exact h.modLaunch.modLaunch.expand

theorem execLaunchStart_canonical : Result.Canonical (execLaunchStart s) := by
  unfold execLaunchStart
  show State.Canonical _
  split
  · exact h
  · split
    · exact h.markVa.markVa.modCtx.modLaunch.later
    · split
      · split
        · exact h.finishLaunch
        · exact .ite h.modLaunch.proceed h.modLaunch.modLaunch.modDie.post
      · exact h

theorem State.Canonical.startPrologue {k l} : (s.startPrologue k l).Canonical :=
  h.addJob.modCore.scrWrite.modDie.poll

theorem State.Canonical.endPrologue {die n} : (s.endPrologue die n).Canonical := by
  unfold State.endPrologue
  dsimp only
  split
  · exact h.dropJob.modDie
  · exact h.dropJob.modDie.post

theorem State.Canonical.prologueExit {k l j} : (s.prologueExit k l j).Canonical :=
  .ite h.clearHold.modLaunch.modLaunch.proceed (.ite h.modQueue.modLaunch.modLaunch.proceed (.ite h.finishLaunch h.finishLaunch))

theorem execPrologueRun_canonical : Result.Canonical (execPrologueRun s) := by
  unfold execPrologueRun
  show State.Canonical _
  split
  · exact h
  · split
    · exact .ite h.startPrologue h
    · split
      · exact h
      · split
        · exact h
        · exact .ite h.endPrologue.finishLaunch (.ite h.prologueExit.endPrologue h)

theorem execPrologueRepeat_canonical : Result.Canonical (execPrologueRepeat s) := by
  unfold execPrologueRepeat
  show State.Canonical _
  split
  · exact h
  · exact .ite h (.ite h.post h.modLaunch.modDie.post)

theorem State.Canonical.loadEpilogues {k d} : (s.loadEpilogues k d).Canonical := by
  unfold State.loadEpilogues
  dsimp only
  refine .foldl (fun _ _ g => ?_) h.settleEpilogues
  split
  · exact g
  · split
    · exact g.modCore
    · split
      · exact g
      · exact g.modCore.draw

theorem State.Canonical.beginJob {k} : (s.beginJob k).Canonical := by
  unfold State.beginJob
  split
  · exact h
  · exact .foldl (fun _ _ g => g.poll) h.scrWrite

theorem State.Canonical.startJob {k l} : (s.startJob k l).Canonical := by
  unfold State.startJob
  dsimp only
  split
  · refine State.Canonical.modLaunch ?_
    split
    · exact h.modJob.sched
    · exact h.modJob.sched.loadEpilogues
  · refine State.Canonical.tryStart ?_
    split
    · refine State.Canonical.modLaunch ?_
      split
      · exact h.modJob.sched
      · exact h.modJob.sched.loadEpilogues
    · refine State.Canonical.modQueue ?_
      refine State.Canonical.freePool ?_
      refine State.Canonical.modLaunch ?_
      split
      · exact h.modJob.sched
      · exact h.modJob.sched.loadEpilogues

theorem State.Canonical.placeAt {k p} : (s.placeAt k p).Canonical := by
  unfold State.placeAt
  dsimp only
  split
  · split
    · exact .modDie (.modCore (.dropCopies (.modJob (.foldl (fun _ _ g => g.discard) h))))
    · exact .startJob (.modDie (.modCore (.dropCopies (.modJob (.foldl (fun _ _ g => g.discard) h)))))
  · exact .later (.modCtx (.modDie (.modCore (.dropCopies (.modJob (.foldl (fun _ _ g => g.discard) h))))))

theorem State.Canonical.tryPlace {die k} : (s.tryPlace die k).1.Canonical := by
  unfold State.tryPlace
  dsimp only
  split
  · exact h
  · split
    · split
      · exact h
      · exact h.modJob.post
    · split
      · exact h.placeAt
      · split
        · exact h
        next e => exact (h.reserveSave e).placeAt

theorem State.Canonical.placeAll {die ks} : (s.placeAll die ks).Canonical := by
  induction ks generalizing s with
  | nil => exact h
  | cons k r ih => exact .ite h.tryPlace (ih h.tryPlace)

theorem State.Canonical.sweepDone : (s.sweepDone).Canonical :=
  h.of_mem rfl

theorem execJobPlacement_canonical : Result.Canonical (execJobPlacement s) :=
  State.Canonical.ite h (.placeAll (.foldl (fun _ _ g => g.expand) h.sweepDone))

theorem execPlacementWaitLimit_canonical : Result.Canonical (execPlacementWaitLimit s) := by
  unfold execPlacementWaitLimit
  show State.Canonical _
  split
  · exact h
  · exact .ite h.modDie h

theorem execJobComplete_canonical : Result.Canonical (execJobComplete s) := by
  unfold execJobComplete
  dsimp only
  show State.Canonical _
  split
  · exact h
  · split
    · exact h
    · split
      · exact h.freeSave.leaveCore.modJob.askPlace.noteIdle.modLaunch
      · exact .ite h.freeSave.leaveCore.modJob.askPlace.noteIdle.modLaunch.launchDone h.freeSave.leaveCore.modJob.askPlace.noteIdle.modLaunch

theorem State.Canonical.modSctx {die ctx f} : (s.modSctx die ctx f).Canonical :=
  h.modDie

theorem State.Canonical.readyCheck {die ctx} : (s.readyCheck die ctx).Canonical :=
  .ite h.modSctx.ensure h

theorem State.Canonical.freeLane {die ctx} : (s.freeLane die ctx).Canonical :=
  h.modDie.unpost.ensure

theorem State.Canonical.toDetok {e l} : (s.toDetok e l).Canonical :=
  .ite h (.foldl (fun _ _ g => g.later) (h.of_mem rfl))

theorem State.Canonical.stopCtx {die ctx code} : (s.stopCtx die ctx code).Canonical := by
  unfold State.stopCtx
  dsimp only
  split
  · exact h.modSctx.freeLane
  · exact h.modSctx.freeLane.toDetok

end

end Sys2Proof.Machine

namespace Sys2Proof.Machine

/-! ### The sampler keeps the form -/

section
variable {s : State} (h : s.Canonical)
include h

theorem State.Canonical.laneAt {die ctx n} : (s.laneAt die ctx n).Canonical :=
  h.of_mem rfl

theorem execSamplerLaneGrant_canonical : Result.Canonical (execSamplerLaneGrant s) := by
  unfold execSamplerLaneGrant
  dsimp only
  show State.Canonical _
  split
  · exact h
  · split
    · exact h
    · exact h.modSctx.modDie.laneAt.post

theorem State.Canonical.laneNext {n} : (s.laneNext n).Canonical :=
  h.laneAt

theorem State.Canonical.sword {f} : (s.sword f).Canonical := by
  unfold State.sword
  dsimp only
  split
  · exact h
  · split
    · exact h.stopCtx
    · split
      · exact h.stopCtx
      · exact h.modSctx.laneNext

theorem sampler_canonical {f} : Result.Canonical (sampler f s) :=
  h.sword

theorem execSadd_canonical {d a b} : Result.Canonical (execSadd d a b s) :=
  sampler_canonical h

theorem execSsub_canonical {d a b} : Result.Canonical (execSsub d a b s) :=
  sampler_canonical h

theorem execSmul_canonical {d a b} : Result.Canonical (execSmul d a b s) :=
  sampler_canonical h

theorem execSaddF_canonical {d a b} : Result.Canonical (execSaddF d a b s) :=
  sampler_canonical h

theorem execSsubF_canonical {d a b} : Result.Canonical (execSsubF d a b s) :=
  sampler_canonical h

theorem execSmulF_canonical {d a b} : Result.Canonical (execSmulF d a b s) :=
  sampler_canonical h

theorem execScmp_canonical {cc d a b} : Result.Canonical (execScmp cc d a b s) :=
  sampler_canonical h

theorem execSjmp_canonical {off} : Result.Canonical (execSjmp off s) :=
  sampler_canonical h

theorem execSjz_canonical {a off} : Result.Canonical (execSjz a off s) :=
  sampler_canonical h

theorem execSjnz_canonical {a off} : Result.Canonical (execSjnz a off s) :=
  sampler_canonical h

theorem execSmovi_canonical {d imm} : Result.Canonical (execSmovi d imm s) :=
  sampler_canonical h

theorem execSmoviH_canonical {d imm} : Result.Canonical (execSmoviH d imm s) :=
  sampler_canonical h

theorem execSrngSeed_canonical {d} : Result.Canonical (execSrngSeed d s) :=
  sampler_canonical h

theorem execSrngSetseed_canonical {a} : Result.Canonical (execSrngSetseed a s) :=
  sampler_canonical h

theorem execSrngCtr_canonical {d} : Result.Canonical (execSrngCtr d s) :=
  sampler_canonical h

theorem execSrngSetctr_canonical {a} : Result.Canonical (execSrngSetctr a s) :=
  sampler_canonical h

theorem execSroll_canonical {a} : Result.Canonical (execSroll a s) :=
  sampler_canonical h

theorem execSdraw_canonical {d} : Result.Canonical (execSdraw d s) :=
  sampler_canonical h

theorem execSld_canonical {d a} : Result.Canonical (execSld d a s) :=
  sampler_canonical h

theorem execSpen_canonical {a} : Result.Canonical (execSpen a s) :=
  sampler_canonical h

theorem execSscale_canonical {a} : Result.Canonical (execSscale a s) :=
  sampler_canonical h

theorem execSmask_canonical : Result.Canonical (execSmask s) :=
  sampler_canonical h

theorem execStopk_canonical {a} : Result.Canonical (execStopk a s) :=
  sampler_canonical h

theorem execSsoft_canonical : Result.Canonical (execSsoft s) :=
  sampler_canonical h

theorem execStopp_canonical {a} : Result.Canonical (execStopp a s) :=
  sampler_canonical h

theorem execSminp_canonical {a} : Result.Canonical (execSminp a s) :=
  sampler_canonical h

theorem execSnorm_canonical : Result.Canonical (execSnorm s) :=
  sampler_canonical h

theorem execSpick_canonical {d a} : Result.Canonical (execSpick d a s) :=
  sampler_canonical h

theorem execSldm_canonical {d a} : Result.Canonical (execSldm d a s) :=
  sampler_canonical h

theorem State.Canonical.waitMask {d a b} : (s.waitMask d a b).Canonical := by
  unfold State.waitMask
  dsimp only
  split
  · exact h
  · split
    · exact h.sword
    · split
      · exact h.sword
      · exact h.sword
      · exact .ite h.sword h.modSctx.post.post

theorem execSwait_canonical {d a b} : Result.Canonical (execSwait d a b s) :=
  h.waitMask

theorem State.Canonical.endWait {die ctx d v} : (s.endWait die ctx d v).Canonical :=
  h.modSctx.unpost.laneAt

theorem execMaskHeaderPoll_canonical : Result.Canonical (execMaskHeaderPoll s) := by
  unfold execMaskHeaderPoll
  dsimp only
  show State.Canonical _
  split
  · split
    · exact h.stopCtx
    · exact h.endWait
    · exact h.post
  · exact h

theorem execSwaitTimeout_canonical : Result.Canonical (execSwaitTimeout s) := by
  unfold execSwaitTimeout
  show State.Canonical _
  split
  · exact .ite h.endWait h
  · exact h

theorem execSemit_canonical {a} : Result.Canonical (execSemit a s) :=
  sampler_canonical h

theorem execSemitD_canonical {a b} : Result.Canonical (execSemitD a b s) :=
  sampler_canonical h

theorem execSratio_canonical {d a} : Result.Canonical (execSratio d a s) :=
  sampler_canonical h

theorem execSresid_canonical {a} : Result.Canonical (execSresid a s) :=
  sampler_canonical h

theorem execSaccept_canonical {d a} : Result.Canonical (execSaccept d a s) :=
  sampler_canonical h

theorem State.Canonical.sendToken {die ctx port t} : (s.sendToken die ctx port t).Canonical :=
  .ite h h.modDie.transmit

theorem State.Canonical.toReshard {die ctx k} : (s.toReshard die ctx k).Canonical :=
  h.modSctx.later

theorem State.Canonical.endStep : (s.endStep).Canonical := by
  unfold State.endStep
  split
  · dsimp only
    split
    · exact h
    · split
      · exact h.stopCtx
      · split
        · refine State.Canonical.toReshard ?_
          refine State.Canonical.freeLane ?_
          refine State.Canonical.modSctx ?_
          split
          · split
            · exact .foldl (fun _ _ g => g.sendToken) h.perform
            · exact .toDetok (.foldl (fun _ _ g => g.sendToken) h.perform)
          · exact .foldl (fun _ _ g => g.sendToken) h.perform
        · refine State.Canonical.readyCheck ?_
          refine State.Canonical.freeLane ?_
          refine State.Canonical.modSctx ?_
          split
          · split
            · exact .foldl (fun _ _ g => g.sendToken) h.perform
            · exact .toDetok (.foldl (fun _ _ g => g.sendToken) h.perform)
          · exact .foldl (fun _ _ g => g.sendToken) h.perform

theorem execSend_canonical : Result.Canonical (execSend s) :=
  h.endStep

theorem State.Canonical.deliver {die ctx p es} : (s.deliver die ctx p es).Canonical :=
  h.modSctx.readyCheck

theorem State.Canonical.shortDelivery {die ctx key shard} : (s.shortDelivery die ctx key shard).Canonical := by
  unfold State.shortDelivery
  dsimp only
  split
  · exact h.toReshard
  · exact h.toReshard
  · exact h.modSctx
  · exact h.modSctx
  · exact h.modSctx
  · exact h

theorem State.Canonical.remapShard {die ctx key shard next} : (s.remapShard die ctx key shard next).Canonical := by
  unfold State.remapShard
  dsimp only
  cases s.colls.find? key with
  | none =>
    dsimp only
    split
    · exact h
    · split
      · exact h
      · exact h.of_mem rfl
  | some c =>
    dsimp only
    split
    · exact h.of_mem rfl
    · split
      · exact h.of_mem rfl
      · exact h.of_mem rfl

theorem execReshardDone_canonical : Result.Canonical (execReshardDone s) :=
  State.Canonical.ite h (.ite h.remapShard.modSctx.draw h.stopCtx)

theorem State.Canonical.again {r} : (s.again r).Canonical :=
  h.of_mem rfl

end

end Sys2Proof.Machine

namespace Sys2Proof.Machine

/-! ### Collectives, barriers and the start keep the form -/

section
variable {s : State} (h : s.Canonical)
include h

theorem State.Canonical.prepare {b v} : (s.prepare b v).Canonical :=
  h.modSt

theorem execPtb_canonical {o} : Result.Canonical (execPtb o s) :=
  command_canonical h h.prepare

theorem execPtbr_canonical {o} : Result.Canonical (execPtbr o s) :=
  command_canonical h h.prepare

theorem execBr_canonical {o} : Result.Canonical (execBr o s) :=
  command_canonical h h

theorem execCall_canonical {o} : Result.Canonical (execCall o s) :=
  command_canonical h (.ite trivial h.sput)

theorem execRet_canonical {o} : Result.Canonical (execRet o s) :=
  command_canonical h h

theorem loopBody_canonical {n stop} : (loopBody n stop s).Canonical :=
  .ite trivial (.ite h (.ite trivial h.modSt))

theorem execLoop_canonical {o} : Result.Canonical (execLoop o s) :=
  command_canonical h (loopBody_canonical h)

theorem execLoopr_canonical {o} : Result.Canonical (execLoopr o s) :=
  command_canonical h (.ite trivial (loopBody_canonical h))

theorem execLexit_canonical {o} : Result.Canonical (execLexit o s) := by
  unfold execLexit
  refine command_canonical h ?_
  split
  · exact trivial
  · show State.Canonical _
    exact .ite h.modSt h

theorem State.Canonical.join {key p} : (s.join key p).Canonical := by
  unfold State.join
  dsimp only
  split
  · split
    · refine .later ?_
      exact h.of_mem rfl
    · exact h.of_mem rfl
  · refine State.Canonical.post ?_
    split
    · refine .later ?_
      exact h.of_mem rfl
    · exact h.of_mem rfl

theorem State.Canonical.readSource {k x2 pa n} : (s.readSource k x2 pa n).Canonical :=
  .foldl (fun _ _ g => g.request) h

theorem collBody_canonical {o u} : (collBody o u s).Canonical := by
  refine Check.canonical_andThen fun a => ?_
  extract_lets d key c
  clear_value d c
  refine .ite Act.canonical_code (.ite Act.canonical_code (.ite h (.ite Act.canonical_code (.ite Act.canonical_code ?_))))
  refine Check.canonical_andThen fun src => Check.canonical_andThen fun dst => .ite h ?_
  exact State.Canonical.join (.readSource h.fly)

theorem execColl_canonical {o} : Result.Canonical (execColl o s) :=
  command_canonical h (collBody_canonical h)

theorem collstBody_canonical {o} : (collstBody o s).Canonical :=
  Check.canonical_andThen fun _ => (.ite trivial (State.Canonical.sput (.ite h h.dropCopies)))

theorem execCollst_canonical {o} : Result.Canonical (execCollst o s) :=
  command_canonical h (collstBody_canonical h)

theorem State.Canonical.collWrite {p ps} : (s.collWrite p ps).Canonical :=
  .foldl (fun _ _ g => .foldl (fun _ _ g => g.request) g) h

theorem State.Canonical.collEnd {p status} : (s.collEnd p status).Canonical :=
  h.scrWrite.finish

theorem State.Canonical.collOrder {p} : (s.collOrder p).Canonical :=
  h.drainRange.dropCopies

theorem State.Canonical.collFinish {key status} : (s.collFinish key status).Canonical := by
  have h1 : ((s.collOf key).parts.foldl State.collOrder s).Canonical := .foldl (fun _ _ g => g.collOrder) h
  have h2 : ((s.collOf key).parts.foldl (fun s p => s.collEnd p status) ((s.collOf key).parts.foldl State.collOrder s)).Canonical :=
    .foldl (fun _ _ g => g.collEnd) h1
  refine .checkFences ?_
  exact h2.of_mem rfl

theorem State.Canonical.collResult {key c all status} : (s.collResult key c all status).Canonical := by
  unfold State.collResult
  dsimp only
  split
  · refine .foldl (fun _ _ g => g.collWrite) ?_
    exact h.of_mem rfl
  · refine .collFinish (.foldl (fun _ _ g => g.collWrite) ?_)
    exact h.of_mem rfl

theorem State.Canonical.candDeliver {key p} : (s.candDeliver key p).Canonical :=
  .ite h.collFinish (.ite h.collFinish h.collFinish.deliver)

theorem State.Canonical.collLoad {key} : (s.collLoad key).Canonical :=
  h.of_mem rfl

theorem State.Canonical.collShort {key} : (s.collShort key).Canonical := by
  unfold State.collShort
  dsimp only
  split
  · exact h
  · split
    · exact h.collFinish
    · split
      · exact h.collFinish.shortDelivery
      · split
        · refine .foldl (fun _ _ g => g.collWrite) ?_
          exact h.of_mem rfl
        · refine .collFinish (.foldl (fun _ _ g => g.collWrite) ?_)
          exact h.of_mem rfl

theorem State.Canonical.collTry {key} : (s.collTry key).Canonical := by
  unfold State.collTry
  dsimp only
  split
  · exact .ite h.collLoad h.collLoad.collFinish
  · exact h.collLoad
  · exact .ite (.ite h.collLoad.collFinish (.ite h.collLoad.candDeliver h.collLoad.collResult)) (.ite h.collLoad.collShort h.collLoad)

theorem execCollectiveComplete_canonical : Result.Canonical (execCollectiveComplete s) :=
  h.collTry

theorem execCollectiveDeadline_canonical : Result.Canonical (execCollectiveDeadline s) := by
  unfold execCollectiveDeadline
  show State.Canonical _
  split
  · exact h
  · exact .ite h (.ite h.collShort h.ensure)

theorem execNop_canonical {o} : Result.Canonical (execNop o s) :=
  command_canonical h h

theorem State.Canonical.endStream : (s.endStream).Canonical :=
  .ite (.ite h.modSt.post h.modSt.post) h.modSt

theorem execNotify_canonical {o} : Result.Canonical (execNotify o s) :=
  command_canonical h (.ite h h.endStream)

theorem rdvBody_canonical {n} : (rdvBody n s).Canonical := by
  unfold rdvBody
  dsimp only
  split
  · exact .ite h.modSt h
  · split
    · exact h
    · show State.Canonical _
      exact .ite h.modSt.modJob h.modSt

theorem execRdv_canonical {o} : Result.Canonical (execRdv o s) :=
  command_canonical h (rdvBody_canonical h)

theorem execSemadd_canonical {o} : Result.Canonical (execSemadd o s) :=
  command_canonical h (Check.canonical_andThen fun _ => h.signal)

theorem execSemwait_canonical {o} : Result.Canonical (execSemwait o s) :=
  command_canonical h (Check.canonical_andThen fun _ => (.ite h h))

theorem State.Canonical.setBase {k i v} : (s.setBase k i v).Canonical :=
  h.modJob

theorem execSembase_canonical {o} : Result.Canonical (execSembase o s) :=
  command_canonical h (Check.canonical_andThen fun _ => h.setBase)

theorem execSembaseSnap_canonical {o} : Result.Canonical (execSembaseSnap o s) :=
  command_canonical h (Check.canonical_andThen fun _ => h.setBase)

theorem execSemrd_canonical {o} : Result.Canonical (execSemrd o s) :=
  command_canonical h (Check.canonical_andThen fun _ => h.sput)

theorem execSemrdRel_canonical {o} : Result.Canonical (execSemrdRel o s) :=
  command_canonical h (Check.canonical_andThen fun _ => h.sput)

theorem barBody_canonical {k} : (barBody k s).Canonical := by
  unfold barBody
  split
  · split
    · exact h
    · split
      · show State.Canonical _
        refine .fenceStart ?_
        exact h.of_mem rfl
      · exact h
  · split
    · split
      · exact trivial
      · split
        · exact h.fenceStart
        · show State.Canonical _
          exact h.of_mem rfl
    · split
      · exact h.fenceStart
      · show State.Canonical _
        exact h.of_mem rfl

theorem execBar_canonical {o} : Result.Canonical (execBar o s) :=
  command_canonical h (.ite trivial (barBody_canonical h))

theorem execBarLaunch_canonical {o} : Result.Canonical (execBarLaunch o s) :=
  command_canonical h (barBody_canonical h)

theorem safeptBody_canonical {c} : (safeptBody c s).Canonical :=
  .ite h.modSt.modSt (.ite h.modSt h.modSt)

theorem execSafept_canonical {o} : Result.Canonical (execSafept o s) :=
  command_canonical h (safeptBody_canonical h)

theorem execIrrev_canonical {o} : Result.Canonical (execIrrev o s) :=
  command_canonical h h

theorem execTrap_canonical {o} : Result.Canonical (execTrap o s) :=
  command_canonical h h.modSt

theorem execBkpt_canonical {o} : Result.Canonical (execBkpt o s) :=
  command_canonical h h.modSt

theorem State.Canonical.startSpec {die q i seq l} : (s.startSpec die q i seq l).Canonical := by
  unfold State.startSpec
  dsimp only
  refine State.Canonical.post ?_
  refine State.Canonical.expand ?_
  refine State.Canonical.ucCount ?_
  refine State.Canonical.modDie ?_
  exact h.newId.of_mem rfl

theorem execSpeculationStart_canonical : Result.Canonical (execSpeculationStart s) := by
  unfold execSpeculationStart
  dsimp only
  show State.Canonical _
  split
  · exact h
  · split
    · split
      · exact h
      · exact h.startSpec
    · exact h

end

end Sys2Proof.Machine

namespace Sys2Proof.Machine

/-! ### Claims, functions and resets keep the form -/

section
variable {s : State} (h : s.Canonical)
include h

theorem execSpoilArrival_canonical : Result.Canonical (execSpoilArrival s) := by
  unfold execSpoilArrival
  show State.Canonical _
  split
  · exact h.post
  · split
    · exact h
    · exact .ite h h.discard

theorem execSpeculationHorizon_canonical : Result.Canonical (execSpeculationHorizon s) := by
  unfold execSpeculationHorizon
  show State.Canonical _
  split
  · exact h
  · exact .ite h.discard h

theorem State.Canonical.reserveAll {t : State} {ks} (e : s.reserveAll ks = some t) : t.Canonical := by
  induction ks generalizing s with
  | nil => exact Option.some.inj e ▸ h
  | cons k r ih =>
    unfold State.reserveAll at e
    split at e
    · cases e
    next he => exact ih (h.reserveSave he) e

theorem State.Canonical.reserveClaim {t : State} {k l} (e : s.reserveClaim k l = some t) : t.Canonical := by
  unfold State.reserveClaim at e
  dsimp only at e
  split at e
  · cases e
  next he =>
    split at e
    · cases e
      exact h.reserveAll he
    · cases e

theorem execClaimAttempt_canonical : Result.Canonical (execClaimAttempt s) := by
  unfold execClaimAttempt
  dsimp only
  show State.Canonical _
  split
  · exact h
  · split
    · split
      · exact h
      · split
        · exact h
        · refine .ite h.cutHistory.discard ?_
          split
          · exact h.discard
          next e => exact .foldl (fun _ _ g => g.later) (h.reserveClaim e).modSpec
    · exact h

theorem execWatchFenceArrival_canonical : Result.Canonical (execWatchFenceArrival s) :=
  State.Canonical.ite h h.modSlice.later

theorem State.Canonical.putFree {j d b} : (s.putFree j d b).Canonical :=
  .foldl (fun _ _ g => (.ite g.scrWrite g)) h

theorem State.Canonical.claim {n x} : (s.claim n x).Canonical := by
  unfold State.claim
  split
  next k l p _ _ =>
    split
    · exact h
    next d _ =>
      have h1 : (((s.jobsOfLaunch x.launch).filter (fun e => e.2.status = .running)).foldl (fun s e => s.putFree e.2 d l.args) s).Canonical :=
        .foldl (fun _ _ g => g.putFree) h
      have h2 := State.Canonical.foldl (f := fun s e => s.modJob e.1 fun j => j.claimed l.record) (l := s.jobsOfLaunch x.launch)
        (fun _ _ g => g.modJob) h1
      refine .later (.foldl (fun _ _ g => g.askPlace) (.modSpec (.ucCount (.ucCount (.ucCount ?_)))))
      refine .foldl (fun _ _ g => g.performLine) (.tryStart (.modQueue (.freePool ?_)))
      exact h2.of_mem rfl
  · exact h

theorem execWatchFenceAck_canonical : Result.Canonical (execWatchFenceAck s) := by
  unfold execWatchFenceAck
  show State.Canonical _
  split
  · exact h.post
  · split
    · exact h
    · exact .ite h (.ite h.modSpec h.modSpec.claim)

theorem execShadowLinesPerformed_canonical : Result.Canonical (execShadowLinesPerformed s) := by
  unfold execShadowLinesPerformed
  dsimp only
  show State.Canonical _
  split
  · exact h
  · split
    · exact h
    · split
      · exact .unpost (.modDie (.dropWatch (.foldl (fun _ _ g => g.modJob) h)))
      · exact .ite (.launchDone (.unpost (.modDie (.dropWatch (.foldl (fun _ _ g => g.modJob) h))))) (.unpost (.modDie (.dropWatch (.foldl (fun _ _
          g => g.modJob) h))))

theorem State.Canonical.modKlota {fn f} : (s.modKlota fn f).Canonical :=
  h.of_mem rfl

theorem State.Canonical.answer {r status payload} : (s.answer r status payload).Canonical :=
  h.modKlota.ensure

theorem State.Canonical.respond {r status payload} : (s.respond r status payload).Canonical := by
  unfold State.respond
  split
  · exact h.answer
  · exact .ite h.answer h.send

theorem State.Canonical.takeRequest {fn b bulk} : (s.takeRequest fn b bulk).Canonical := by
  unfold State.takeRequest
  dsimp only
  split
  · exact h.modKlota.answer
  · exact .ite h.modKlota.answer (.ite h.modKlota.answer (.ite h.modKlota.post h.modKlota.send))

theorem execReqtailWrite_canonical : Result.Canonical (execReqtailWrite s) :=
  State.Canonical.ite h (.ite (.ite h.modKlota (h.of_mem rfl)) (.foldl (fun _ _ g => g.takeRequest) h.modKlota))

theorem execKlotaResponse_canonical : Result.Canonical (execKlotaResponse s) := by
  unfold execKlotaResponse
  dsimp only
  show State.Canonical _
  split
  · exact h
  · refine .ite h (.ite (h.of_mem rfl) (.ensure ?_))
    exact h.of_mem rfl

theorem execRspheadWrite_canonical : Result.Canonical (execRspheadWrite s) :=
  h.modKlota.ensure

theorem execMsgKlotaForward_canonical : Result.Canonical (execMsgKlotaForward s) := by
  unfold execMsgKlotaForward
  dsimp only
  show State.Canonical _
  refine h.receiveMail fun _ _ g => ?_
  split
  · exact g
  · split
    · exact h.post
    · split
      · exact g.respond
      · exact g.post

theorem execMsgKlotaResponse_canonical : Result.Canonical (execMsgKlotaResponse s) := by
  unfold execMsgKlotaResponse
  dsimp only
  show State.Canonical _
  refine h.receiveMail fun _ _ g => ?_
  split
  · exact g
  · exact g.answer

theorem execVersion_canonical : Result.Canonical (execVersion s) :=
  h.answer

theorem execApertureAccess_canonical : Result.Canonical (execApertureAccess s) := by
  unfold execApertureAccess
  dsimp only
  refine State.Canonical.ite (.ite (h.of_mem rfl) (h.of_mem rfl)) (.ite (.getD (fun _ => h.vaWrite) (h.of_mem rfl)) ?_)
  split
  · exact .of_mem h.markVa rfl
  · exact h.of_mem rfl

theorem execPeerWrite_canonical : Result.Canonical (execPeerWrite s) := by
  unfold execPeerWrite
  dsimp only
  split
  · exact trivial
  · exact h.writeParts

theorem execMsgContextError_canonical : Result.Canonical (execMsgContextError s) := by
  unfold execMsgContextError
  show State.Canonical _
  refine h.receiveMail fun _ _ g => ?_
  split
  · exact g
  · exact g.addError.freeze

theorem execContextFrozenDrained_canonical : Result.Canonical (execContextFrozenDrained s) :=
  State.Canonical.ite h (.ite h.post h.modCtx.post)

theorem State.Canonical.discardWhere {p} : (s.discardWhere p).Canonical :=
  .foldl (fun _ _ g => g.discard) h

theorem State.Canonical.dropTasks {ctx} : (s.dropTasks ctx).Canonical :=
  .foldl (fun _ _ g => .foldl (fun _ _ g => g.freeEntry) g) h

theorem State.Canonical.dropPrologues {ctx} : (s.dropPrologues ctx).Canonical := by
  unfold State.dropPrologues
  dsimp only
  refine .foldl (fun _ _ g => ?_) h
  split
  · exact g.modDie
  · split
    · exact g.modDie
    · split
      · exact g.modDie
      · exact g.modDie.endPrologue

theorem State.Canonical.clearCtx {ctx} : (s.clearCtx ctx).Canonical := by
  have h1 : (((s.discardWhere (fun l => l.ctx = ctx)).dropTasks ctx).dropPrologues ctx).Canonical := h.discardWhere.dropTasks.dropPrologues
  refine .modCtx ?_
  exact .of_mem (s := List.foldl _ _ _) (.foldl (fun _ k (g : State.Canonical _) => g.dropJob (k := k)) h1) rfl

theorem execCaptureBeforeReset_canonical : Result.Canonical (execCaptureBeforeReset s) :=
  State.Canonical.ite h (.send (.clearCtx (.getD (fun _ => h.vaWrite) h)))

theorem State.Canonical.resetLaunch {k cause l} : (s.resetLaunch k cause l).Canonical :=
  .ite h.finishLaunch h.finishLaunch

theorem State.Canonical.resetQueue {q e} : (s.resetQueue q e).Canonical := by
  unfold State.resetQueue
  dsimp only
  refine State.Canonical.modQueue ?_
  refine .foldl (fun _ _ g => ?_) h
  refine State.Canonical.finishLaunch ?_
  exact g.newId.of_mem rfl

theorem State.Canonical.resetLaunches {ctx cause} : (s.resetLaunches ctx cause).Canonical :=
  .foldl (fun _ _ g => g.resetQueue) (.foldl (fun _ _ g => g.resetLaunch) h)

theorem execMsgDecision_canonical : Result.Canonical (execMsgDecision s) := by
  unfold execMsgDecision
  show State.Canonical _
  refine h.receiveMail fun _ _ g => ?_
  dsimp only
  exact .foldl (fun _ _ g => g.respond) g.resetLaunches.modCtx

theorem execCtxReset_canonical : Result.Canonical (execCtxReset s) :=
  State.Canonical.ite h.respond h.modCtx.freeze

theorem execVfFlr_canonical : Result.Canonical (execVfFlr s) := by
  unfold execVfFlr
  show State.Canonical _
  exact .foldl (fun _ _ g => g.freeze) h

theorem execSaveresume_canonical : Result.Canonical (execSaveresume s) :=
  State.Canonical.ite h.respond (.respond (.settleCtx (.foldl (fun _ _ g => g.modJob.saveRun) h)))

theorem execMsgSaveBlocked_canonical : Result.Canonical (execMsgSaveBlocked s) := by
  refine h.receiveMail fun t m g => ?_
  dsimp only
  split
  · exact g.of_mem rfl
  · exact g.of_mem rfl

theorem State.Canonical.lostRequests {die} : (s.lostRequests die).Canonical :=
  .foldl (fun _ _ g => g.toDetok) h

theorem execDieLost_canonical : Result.Canonical (execDieLost s) := by
  refine State.Canonical.ite h (.lostRequests (.foldl (fun _ _ g => g.stopCtx) (.foldl (fun _ _ g => g.collTry) ?_)))
  exact .foldl (fun _ _ g => g.freezeFor) h.modDie

end

end Sys2Proof.Machine

namespace Sys2Proof.Machine

/-! ### Mapping, page faults and migration keep the form -/

section
variable {s : State} (h : s.Canonical)
include h

theorem State.Canonical.shelfAgain {vf} : (s.shelfAgain vf).Canonical :=
  h.of_mem rfl

theorem State.Canonical.ensureCtx {ctx} : (s.ensureCtx ctx).Canonical := by
  unfold State.ensureCtx
  split
  · exact h
  · exact h.of_mem rfl

theorem State.Canonical.change {i r c replaced} {done : State → State} (hd : ∀ t, t.Canonical → (done t).Canonical) : (s.change i r c replaced
    done).Canonical :=
  .ite h.dropXlat.stopHolders.post (hd _ h.dropXlat)

theorem State.Canonical.changeOn {i g c} {done : State → State} (hd : ∀ t, t.Canonical → (done t).Canonical) : (s.changeOn i g c done).Canonical :=
  .ite (hd _ h.revoke) h.stopHolders.post

theorem State.Canonical.mapDone {r} : (State.mapDone r s).Canonical :=
  h.respond

theorem State.Canonical.mapOne {g} : (s.mapOne g).Canonical := by
  unfold State.mapOne
  dsimp only
  split
  · exact h.changeOn (fun _ g => g.mapDone)
  · split
    · exact h.respond
    · split
      · exact h.respond
      · split
        · exact h.respond
        · refine .change ?_ (fun _ g => g.mapDone)
          exact h.ensureCtx.of_mem rfl

theorem execMapStage1_canonical : Result.Canonical (execMapStage1 s) :=
  h.mapOne

theorem State.Canonical.lookAgain {vf} : (s.lookAgain vf).Canonical :=
  .foldl (fun _ _ g => g.ensure) h

theorem State.Canonical.mapTwo {g} : (s.mapTwo g).Canonical := by
  unfold State.mapTwo
  dsimp only
  split
  · exact h.changeOn (fun _ g => g.lookAgain.respond)
  · split
    · exact h.respond
    · split
      · exact h.respond
      · split
        · exact h.respond
        · refine .change (.shelfAgain ?_) (fun _ g => g.lookAgain.respond)
          exact h.of_mem rfl

theorem execMapStage2_canonical : Result.Canonical (execMapStage2 s) :=
  h.mapTwo

theorem State.Canonical.unmapOne {g} : (s.unmapOne g).Canonical := by
  unfold State.unmapOne
  dsimp only
  split
  · exact h.changeOn (fun _ g => g.mapDone)
  · split
    · exact h.respond
    · split
      · exact h.respond
      · refine .change ?_ (fun _ g => g.mapDone)
        exact h.of_mem rfl

theorem execUnmapStage1_canonical : Result.Canonical (execUnmapStage1 s) :=
  h.unmapOne

theorem State.Canonical.unmapTwo {g} : (s.unmapTwo g).Canonical := by
  unfold State.unmapTwo
  dsimp only
  split
  · exact h.changeOn (fun _ g => g.mapDone)
  · split
    · exact h.respond
    · split
      · exact h.respond
      · refine .change (.shelfAgain ?_) (fun _ g => g.mapDone)
        exact h.of_mem rfl

theorem execUnmapStage2_canonical : Result.Canonical (execUnmapStage2 s) :=
  h.unmapTwo

theorem State.Canonical.describe {ctx b} : (s.describe ctx b).Canonical :=
  h.ensureCtx.modCtx

theorem execMapContextDesc_canonical : Result.Canonical (execMapContextDesc s) :=
  State.Canonical.ite h.respond (.ite h.respond (.ite h.respond h.describe.respond))

theorem execMapS2Root_canonical : Result.Canonical (execMapS2Root s) := by
  unfold execMapS2Root
  dsimp only
  show State.Canonical _
  split
  · exact h.respond
  · refine .respond ?_
    exact h.of_mem rfl

theorem State.Canonical.pin {r p} : (s.pin r p).Canonical := by
  unfold State.pin
  dsimp only
  split
  · exact h.respond
  · refine .respond ?_
    exact h.of_mem rfl

theorem execPinUnpin_canonical : Result.Canonical (execPinUnpin s) :=
  h.pin

theorem execPinPin_canonical : Result.Canonical (execPinPin s) :=
  h.pin

theorem execPinBacking_canonical : Result.Canonical (execPinBacking s) := by
  unfold execPinBacking
  dsimp only
  show State.Canonical _
  split
  · exact h.respond
  · refine .respond ?_
    exact h.of_mem rfl

theorem State.Canonical.evict {e} : (s.evict e).Canonical :=
  h.of_mem rfl

theorem State.Canonical.takeFrame {t : State} {a b c pa} (e : s.takeFrame a b c = some (pa, t)) : t.Canonical := by
  induction c generalizing s with
  | zero => cases e
  | succ c ih =>
    unfold State.takeFrame at e
    split at e
    · cases e
      exact h.draw
    · split at e
      · cases e
      · exact ih h.evict e

theorem State.Canonical.revokeStopped : (s.revokeStopped).Canonical :=
  .foldl (fun _ _ g => g.revoke) h

theorem State.Canonical.findFrame {t : State} {a b pa} (e : s.findFrame a b = some (pa, t)) : t.Canonical := by
  unfold State.findFrame at e
  split at e
  next r he =>
    cases e
    exact h.takeFrame he
  · exact h.revokeStopped.takeFrame e

theorem State.Canonical.endFault {id ok} : (s.endFault id ok).Canonical :=
  h.send

theorem State.Canonical.bringIn {t : State} {a b ls} (e : s.bringIn a b ls = some t) : t.Canonical := by
  induction ls generalizing s with
  | nil => exact Option.some.inj e ▸ h
  | cons l r ih =>
    obtain ⟨vf, n, ipa, w⟩ := l
    unfold State.bringIn at e
    split at e
    · cases e
    next pa t he =>
      have ht : t.Canonical := h.findFrame he
      refine ih ?_ e
      exact State.Canonical.memWrite (bad := false) (ht.of_mem rfl)

theorem State.Canonical.markPresent {vf lo n} : (s.markPresent vf lo n).Canonical :=
  h.of_mem rfl

theorem State.Canonical.fetchPage {id f l w data} : (s.fetchPage id f l w data).Canonical := by
  unfold State.fetchPage
  dsimp only
  refine .ite (h.of_mem rfl) ?_
  split
  · exact h.post
  next e => exact .ite (h.bringIn e).markPresent.endFault h.endFault

theorem State.Canonical.reportStage2 {f} : (s.reportStage2 f).Canonical :=
  h.of_mem rfl

theorem State.Canonical.serve {id data first} : (s.serve id data first).Canonical := by
  unfold State.serve
  split
  · exact h
  · split
    · exact h
    · dsimp only
      split
      · exact h.endFault
      · split
        · split
          · refine .reportStage2 ?_
            exact h.of_mem rfl
          · exact h.of_mem rfl
        · split
          · split
            · refine .endFault ?_
              exact h.of_mem rfl
            · refine .fetchPage ?_
              exact h.of_mem rfl
          · refine .endFault ?_
            exact h.of_mem rfl

theorem execMsgProbeFault_canonical : Result.Canonical (execMsgProbeFault s) :=
  h.receiveMail fun _ _ g => g.serve

theorem execFaultService_canonical : Result.Canonical (execFaultService s) :=
  h.serve

theorem execMsgFaultServed_canonical : Result.Canonical (execMsgFaultServed s) := by
  unfold execMsgFaultServed
  show State.Canonical _
  refine h.receiveMail fun _ _ g => ?_
  dsimp only
  split
  · exact g
  · exact .ite (g.of_mem rfl) g

theorem execProbeFaultTimeout_canonical : Result.Canonical (execProbeFaultTimeout s) := by
  unfold execProbeFaultTimeout
  show State.Canonical _
  split
  · exact h
  · exact .ite (h.of_mem rfl) h

theorem execAccSample_canonical : Result.Canonical (execAccSample s) := by
  unfold execAccSample
  dsimp only
  show State.Canonical _
  refine .post ?_
  exact h.of_mem rfl

theorem State.Canonical.migrate {e} : (s.migrate e).Canonical := by
  unfold State.migrate
  dsimp only
  split
  · exact h
  · split
    · exact h
    · refine State.Canonical.later ?_
      refine State.Canonical.draw ?_
      exact h.newId.of_mem rfl

theorem execMigrationLineCopy_canonical : Result.Canonical (execMigrationLineCopy s) := by
  unfold execMigrationLineCopy
  dsimp only
  show State.Canonical _
  split
  · exact h
  · have hw : ∀ {a v bad}, (s.memWrite a v bad).Canonical := h.memWrite
    refine .ite h (.ite (.later ?_) (.later ?_))
    · exact hw.of_mem (by dsimp only)
    · exact hw.of_mem (by dsimp only)

theorem execMigrationSwitch_canonical : Result.Canonical (execMigrationSwitch s) := by
  unfold execMigrationSwitch
  show State.Canonical _
  split
  · exact h
  · split
    · refine .post (.stopHolders (.dropXlat ?_))
      exact h.of_mem rfl
    · exact .ite h.stopHolders.post (.ite h.revoke.post (h.revoke.of_mem rfl))

theorem execHbmUncorrectable_canonical : Result.Canonical (execHbmUncorrectable s) := by
  unfold execHbmUncorrectable
  dsimp only
  split
  · exact trivial
  · show State.Canonical _
    split
    · exact h.of_mem rfl
    · refine .migrate ?_
      exact h.of_mem rfl

theorem execLinkCrcReplay_canonical : Result.Canonical (execLinkCrcReplay s) := by
  unfold execLinkCrcReplay
  dsimp only
  show State.Canonical _
  exact .draw (h.of_mem rfl)

end

end Sys2Proof.Machine

namespace Sys2Proof.Machine

/-! ### The firmware's commands keep the form -/

section
variable {s : State} (h : s.Canonical)
include h

theorem execQueueCreate_canonical : Result.Canonical (execQueueCreate s) := by
  unfold execQueueCreate
  dsimp only
  show State.Canonical _
  split
  · exact h.respond
  · refine .respond ?_
    exact h.of_mem rfl

theorem execQueueDestroy_canonical : Result.Canonical (execQueueDestroy s) :=
  State.Canonical.ite h.respond (.ite h.respond h.discardWhere.modQueue.respond)

theorem execQueueQuery_canonical : Result.Canonical (execQueueQuery s) :=
  State.Canonical.ite h.respond h.respond

theorem execPoolCap_canonical : Result.Canonical (execPoolCap s) :=
  State.Canonical.ite h.respond h.modDie.ensure.respond

theorem execUccfgSet_canonical : Result.Canonical (execUccfgSet s) :=
  State.Canonical.ite h.respond (.ite h.respond h.modDie.respond)

theorem execShapeSet_canonical : Result.Canonical (execShapeSet s) := by
  unfold execShapeSet
  dsimp only
  show State.Canonical _
  split
  · exact h.respond
  · split
    · exact h.respond
    · refine .respond ?_
      exact h.of_mem rfl

theorem execPkgSet_canonical : Result.Canonical (execPkgSet s) := by
  unfold execPkgSet
  dsimp only
  show State.Canonical _
  split
  · exact h.respond
  · split
    · exact h.respond
    · refine .respond ?_
      exact h.of_mem rfl

theorem execPartSet_canonical : Result.Canonical (execPartSet s) := by
  unfold execPartSet
  dsimp only
  show State.Canonical _
  split
  · exact h.respond
  · split
    · exact h.respond
    · refine .send (.post ?_)
      exact h.of_mem rfl

theorem execPartEntryInForce_canonical : Result.Canonical (execPartEntryInForce s) := by
  unfold execPartEntryInForce
  dsimp only
  show State.Canonical _
  split
  · exact h
  · refine .respond (.foldl (fun _ _ g => g.lookPass) ?_)
    exact h.of_mem rfl

theorem execMsgPartitionChanged_canonical : Result.Canonical (execMsgPartitionChanged s) :=
  h.receiveMail fun _ _ g => g.discardWhere

theorem execVfAssign_canonical : Result.Canonical (execVfAssign s) := by
  unfold execVfAssign
  dsimp only
  show State.Canonical _
  split
  · exact h.respond
  · split
    · split
      · exact h.respond
      · split
        · exact h.respond
        · refine .respond ?_
          exact h.of_mem rfl
    · split
      · exact h.respond
      · refine .respond ?_
        exact h.of_mem rfl

theorem State.Canonical.beaconSoon : (s.beaconSoon).Canonical :=
  h.post.draw

theorem State.Canonical.clearWid {i} : (s.clearWid i).Canonical :=
  .ite (.beaconSoon (h.of_mem rfl)) (h.of_mem rfl)

theorem execShelfLoad_canonical : Result.Canonical (execShelfLoad s) := by
  unfold execShelfLoad
  dsimp only
  refine State.Canonical.ite h.respond (.ite h.respond (.ite h.clearWid.respond ?_))
  split
  · exact h.clearWid.respond
  next e =>
    have ht := h.clearWid.findFrame e
    split
    · exact ht.respond
    · refine .respond (.beaconSoon ?_)
      exact .of_mem ht.writeParts rfl

theorem execAttest_canonical : Result.Canonical (execAttest s) := by
  unfold execAttest
  dsimp only
  show State.Canonical _
  split
  · exact h.respond
  · refine .respond (.draw ?_)
    exact h.of_mem rfl

theorem execTelemetry_canonical : Result.Canonical (execTelemetry s) :=
  State.Canonical.ite h.respond h.draw.respond

theorem execBudgetSet_canonical : Result.Canonical (execBudgetSet s) :=
  State.Canonical.ite h.respond h.send

theorem execResync_canonical : Result.Canonical (execResync s) := by
  unfold execResync
  dsimp only
  show State.Canonical _
  split
  · exact h.respond
  · refine .respond ?_
    exact h.of_mem rfl

end

end Sys2Proof.Machine

namespace Sys2Proof.Machine

/-! ### The services keep the form -/

section
variable {s : State} (h : s.Canonical)
include h

theorem State.Canonical.bindCtx {die ctx c} : (s.bindCtx die ctx c).Canonical :=
  h.modSctx

theorem State.Canonical.unbindCtx {die ctx} : (s.unbindCtx die ctx).Canonical :=
  h.freeLane.unpost.modSctx

theorem execSamplerProg_canonical : Result.Canonical (execSamplerProg s) :=
  State.Canonical.ite h.respond (.ite (.ite h.respond h.modDie.respond) (.ite h.respond h.modDie.respond))

theorem execSamplerBind_canonical : Result.Canonical (execSamplerBind s) :=
  State.Canonical.ite h.respond (.ite h.respond (.ite h.respond h.bindCtx.respond))

theorem execSamplerUnbind_canonical : Result.Canonical (execSamplerUnbind s) := by
  unfold execSamplerUnbind
  dsimp only
  show State.Canonical _
  split
  · exact h.respond
  · refine State.Canonical.respond ?_
    exact h.unbindCtx.of_mem rfl

theorem execVocabLoadImage_canonical : Result.Canonical (execVocabLoadImage s) := by
  unfold execVocabLoadImage
  dsimp only
  show State.Canonical _
  split
  · exact h.respond
  · split
    · exact h.respond
    · refine .respond ?_
      exact h.of_mem rfl

theorem execVocabLoadService_canonical : Result.Canonical (execVocabLoadService s) := by
  unfold execVocabLoadService
  dsimp only
  show State.Canonical _
  split
  · exact h.respond
  · split
    · exact h.respond
    · refine .respond ?_
      exact h.of_mem rfl

theorem execVocabLoadRing_canonical : Result.Canonical (execVocabLoadRing s) := by
  unfold execVocabLoadRing
  dsimp only
  show State.Canonical _
  split
  · exact h.respond
  · split
    · exact h.respond
    · refine .respond ?_
      exact h.of_mem rfl

theorem execVocabLoadGrammar_canonical : Result.Canonical (execVocabLoadGrammar s) := by
  unfold execVocabLoadGrammar
  dsimp only
  show State.Canonical _
  split
  · exact h.respond
  · split
    · exact h.respond
    · refine .respond ?_
      exact h.of_mem rfl

theorem execSessionOpen_canonical : Result.Canonical (execSessionOpen s) := by
  unfold execSessionOpen
  dsimp only
  show State.Canonical _
  split
  · exact h
  · split
    · exact h
    · exact .draw (h.of_mem rfl)

theorem State.Canonical.endRequest {k r} : (s.endRequest k r).Canonical := by
  unfold State.endRequest
  refine .later ?_
  exact h.of_mem rfl

theorem execSessionClose_canonical : Result.Canonical (execSessionClose s) := by
  unfold execSessionClose
  dsimp only
  show State.Canonical _
  exact .foldl (fun _ _ g => g.endRequest) (h.of_mem rfl)

theorem execPacketAuthFail_canonical : Result.Canonical (execPacketAuthFail s) := by
  unfold execPacketAuthFail
  dsimp only
  show State.Canonical _
  split
  · exact h
  · exact h.of_mem rfl

theorem State.Canonical.sendText {k r trailer} : (s.sendText k r trailer).Canonical :=
  h.of_mem rfl

theorem State.Canonical.finishRequest {k r fin detail} : (s.finishRequest k r fin detail).Canonical := by
  unfold State.finishRequest
  dsimp only
  split
  · exact h.sendText
  · exact h.sendText.endRequest

theorem State.Canonical.refuse {session msg fin prompt} : (s.refuse session msg fin prompt).Canonical :=
  h.of_mem rfl

theorem State.Canonical.clearSlots {base} : (s.clearSlots base).Canonical :=
  .foldl (fun _ _ g => g.perform) h

theorem State.Canonical.grammarLaunch {t : State} {b die ctx c n} (e : s.grammarLaunch b die ctx c n = some t) : t.Canonical := by
  unfold State.grammarLaunch at e
  dsimp only at e
  split at e
  · cases e
  · cases e
    exact h.perform.wake

theorem State.Canonical.toTokeniser {k} : (s.toTokeniser k).Canonical := by
  unfold State.toTokeniser
  dsimp only
  refine .draw (.post ?_)
  exact h.of_mem rfl

theorem State.Canonical.bindRequest {session m service ring parts prompt die ctx g} :
    (s.bindRequest session m service ring parts prompt die ctx g).Canonical := by
  have hb : ∀ {t : State} {c}, t.Canonical → (t.newId.bindCtx die ctx c).Canonical := fun g => g.newId.bindCtx
  refine .ite h.refuse ?_
  split
  · refine .toTokeniser ?_
    exact (hb h).of_mem (by dsimp only)
  · split
    · exact h.clearSlots.refuse
    next e =>
      refine State.Canonical.toTokeniser (State.Canonical.grammarLaunch ?_ e)
      exact (hb h.clearSlots).of_mem (by dsimp only)

theorem State.Canonical.seat {session m service ring parts prompt} : (s.seat session m service ring parts prompt).Canonical := by
  unfold State.seat
  dsimp only
  split
  · exact h.refuse
  · split
    · exact h.bindRequest
    · split
      · exact h.refuse
      · split
        · exact h.refuse
        · exact h.bindRequest

theorem State.Canonical.envelope {session m} : (s.envelope session m).Canonical := by
  unfold State.envelope
  split
  · split
    · dsimp only
      exact .ite h.refuse h.seat
    · exact h.refuse
  · exact h.refuse

theorem execEnvelopeArrival_canonical : Result.Canonical (execEnvelopeArrival s) :=
  State.Canonical.ite h.envelope h

theorem State.Canonical.sendPrompt {k r} : (s.sendPrompt k r).Canonical :=
  .foldl (fun _ _ g => g.transmit) h

theorem execTokenise_canonical : Result.Canonical (execTokenise s) := by
  unfold execTokenise
  dsimp only
  show State.Canonical _
  split
  · exact h
  · split
    · exact h.of_mem rfl
    · split
      · exact h.of_mem rfl
      · refine .sendPrompt ?_
        exact h.of_mem rfl

theorem State.Canonical.detokToken {k r t last} : (s.detokToken k r t last).Canonical := by
  unfold State.detokToken
  dsimp only
  split
  · exact h.finishRequest
  · split
    · exact h.finishRequest
    · exact .ite h.finishRequest (.ite h.sendText (h.of_mem rfl))

theorem execDetokeniseToken_canonical : Result.Canonical (execDetokeniseToken s) := by
  unfold execDetokeniseToken
  dsimp only
  show State.Canonical _
  split
  · exact h
  · split
    · split
      · exact h.of_mem rfl
      · split
        · exact h.of_mem rfl
        · refine .detokToken ?_
          exact h.of_mem rfl
    · split
      · exact h.of_mem rfl
      · split
        · exact h.of_mem rfl
        · refine .finishRequest ?_
          exact h.of_mem rfl

theorem execFinalFrameAccepted_canonical : Result.Canonical (execFinalFrameAccepted s) := by
  unfold execFinalFrameAccepted
  show State.Canonical _
  split
  · exact h
  · exact .ite h (.ite h.post (h.unbindCtx.of_mem rfl))

theorem execWeightBeacon_canonical : Result.Canonical (execWeightBeacon s) := by
  unfold execWeightBeacon
  dsimp only
  show State.Canonical _
  split
  · refine .draw ?_
    exact h.of_mem rfl
  · refine .post (.draw ?_)
    exact h.of_mem rfl

end

end Sys2Proof.Machine

namespace Sys2Proof.Machine

/-! ### Boot, budgets and scalar accumulation keep the form -/

section
variable {s : State} (h : s.Canonical)
include h

theorem execPtptDiscipline_canonical : Result.Canonical (execPtptDiscipline s) :=
  State.Canonical.foldl (fun _ _ g => g.ensure) (.ite (.ite (h.of_mem rfl) (h.of_mem rfl)) h)

omit h in
theorem State.restart_canonical : s.restart.Canonical :=
  State.reset_canonical.of_mem rfl

theorem State.Canonical.startClocks : (s.startClocks).Canonical :=
  .post (.post (.post (.post (.foldl (fun _ _ g => g.modDie.post.post) h))))

theorem State.Canonical.stageWork {n} : (s.stageWork n).Canonical := by
  refine .ite ?_ (.ite ?_ (.ite (.startClocks ?_) h))
  · rfl
  · exact h.of_mem rfl
  · exact h.of_mem rfl

theorem execBootStage_canonical : Result.Canonical (execBootStage s) := by
  have h1 : State.Canonical { s with boot := s.boot + 1 } := h.of_mem rfl
  exact State.Canonical.ite h (.ite (h.of_mem rfl) (.ite h1.stageWork h1.stageWork.later))

theorem execMsgBudgetChange_canonical : Result.Canonical (execMsgBudgetChange s) := by
  unfold execMsgBudgetChange
  show State.Canonical _
  refine h.receiveMail fun _ _ g => ?_
  dsimp only
  split
  · exact g.modCore
  · exact g.modCore.respond

theorem State.Canonical.budgets {die f} : (s.budgets die f).Canonical :=
  .foldl (fun _ _ g => g.draw.send) h

theorem execThermalThrottle_canonical : Result.Canonical (execThermalThrottle s) := by
  unfold execThermalThrottle
  show State.Canonical _
  split
  · exact h
  · exact .ite h (.foldl (fun _ _ g => g.budgets) (h.of_mem rfl))

theorem execThrottleRelease_canonical : Result.Canonical (execThrottleRelease s) :=
  State.Canonical.ite h (.foldl (fun _ _ g => g.budgets) (h.of_mem rfl))

theorem execThermalShutdown_canonical : Result.Canonical (execThermalShutdown s) :=
  State.Canonical.ite (h.of_mem rfl) h

theorem execIdleDieGate_canonical : Result.Canonical (execIdleDieGate s) :=
  State.Canonical.ite h (.ite h.modDie h.post)

theorem State.Canonical.qpush {q v} : (s.qpush q v).Canonical :=
  h.modJob

theorem State.Canonical.qpop {q} : (s.qpop q).Canonical :=
  h.modJob

theorem State.Canonical.withHead {q} {f : Word → Act} (hf : ∀ v, (f v).Canonical) : (s.withHead q f).Canonical := by
  unfold State.withHead
  split
  · exact h
  · exact .ite Act.canonical_code (hf _)

theorem execQpush_canonical {o} : Result.Canonical (execQpush o s) :=
  command_canonical h (.ite h h.qpush)

theorem execQpop_canonical {o} : Result.Canonical (execQpop o s) :=
  command_canonical h (h.withHead fun _ => h.qpop.sput)

theorem execQpeek_canonical {o} : Result.Canonical (execQpeek o s) :=
  command_canonical h (h.withHead fun _ => h.sput)

theorem execQpushp_canonical {o} : Result.Canonical (execQpushp o s) :=
  command_canonical h (.ite h h.qpush)

theorem execQpopp_canonical {o} : Result.Canonical (execQpopp o s) :=
  command_canonical h (h.withHead fun _ => h.qpop.pput)

theorem execQlen_canonical {o} : Result.Canonical (execQlen o s) :=
  command_canonical h h.sput

theorem int3_canonical {opc f o lat} : Result.Canonical (int3 opc f o s lat) :=
  command_canonical h h.sput

theorem int2_canonical {opc f o} : Result.Canonical (int2 opc f o s) :=
  command_canonical h h.sput

theorem intI_canonical {opc f o} : Result.Canonical (intI opc f o s) :=
  command_canonical h h.sput

theorem intSh_canonical {opc f o} : Result.Canonical (intSh opc f o s) :=
  command_canonical h h.sput

theorem execAdd_canonical {o} : Result.Canonical (execAdd o s) :=
  int3_canonical h

theorem execAddi_canonical {o} : Result.Canonical (execAddi o s) :=
  intI_canonical h

theorem execSub_canonical {o} : Result.Canonical (execSub o s) :=
  int3_canonical h

theorem execMul_canonical {o} : Result.Canonical (execMul o s) :=
  int3_canonical h

theorem execMulh_canonical {o} : Result.Canonical (execMulh o s) :=
  int3_canonical h

theorem execMulhu_canonical {o} : Result.Canonical (execMulhu o s) :=
  int3_canonical h

theorem execDiv_canonical {o} : Result.Canonical (execDiv o s) :=
  int3_canonical h

theorem execDivu_canonical {o} : Result.Canonical (execDivu o s) :=
  int3_canonical h

theorem execRem_canonical {o} : Result.Canonical (execRem o s) :=
  int3_canonical h

theorem execRemu_canonical {o} : Result.Canonical (execRemu o s) :=
  int3_canonical h

theorem execAnd_canonical {o} : Result.Canonical (execAnd o s) :=
  int3_canonical h

theorem execAndi_canonical {o} : Result.Canonical (execAndi o s) :=
  intI_canonical h

theorem execOr_canonical {o} : Result.Canonical (execOr o s) :=
  int3_canonical h

theorem execOri_canonical {o} : Result.Canonical (execOri o s) :=
  intI_canonical h

theorem execXor_canonical {o} : Result.Canonical (execXor o s) :=
  int3_canonical h

theorem execXori_canonical {o} : Result.Canonical (execXori o s) :=
  intI_canonical h

theorem execShl_canonical {o} : Result.Canonical (execShl o s) :=
  int3_canonical h

theorem execShli_canonical {o} : Result.Canonical (execShli o s) :=
  intSh_canonical h

theorem execShr_canonical {o} : Result.Canonical (execShr o s) :=
  int3_canonical h

theorem execShri_canonical {o} : Result.Canonical (execShri o s) :=
  intSh_canonical h

theorem execSra_canonical {o} : Result.Canonical (execSra o s) :=
  int3_canonical h

theorem execSrai_canonical {o} : Result.Canonical (execSrai o s) :=
  intSh_canonical h

theorem execMin_canonical {o} : Result.Canonical (execMin o s) :=
  int3_canonical h

theorem execMax_canonical {o} : Result.Canonical (execMax o s) :=
  int3_canonical h

theorem execMinu_canonical {o} : Result.Canonical (execMinu o s) :=
  int3_canonical h

theorem execMaxu_canonical {o} : Result.Canonical (execMaxu o s) :=
  int3_canonical h

theorem execClz_canonical {o} : Result.Canonical (execClz o s) :=
  int2_canonical h

theorem execCtz_canonical {o} : Result.Canonical (execCtz o s) :=
  int2_canonical h

theorem execPopc_canonical {o} : Result.Canonical (execPopc o s) :=
  int2_canonical h

theorem execSel_canonical {o} : Result.Canonical (execSel o s) :=
  command_canonical h h.sput

theorem execMovi_canonical {o} : Result.Canonical (execMovi o s) :=
  command_canonical h h.sput

theorem execMovhi_canonical {o} : Result.Canonical (execMovhi o s) :=
  command_canonical h h.sput

theorem execMov_canonical {o} : Result.Canonical (execMov o s) :=
  int2_canonical h

theorem execAbs_canonical {o} : Result.Canonical (execAbs o s) :=
  int2_canonical h

theorem execBfx_canonical {o} : Result.Canonical (execBfx o s) :=
  command_canonical h h.sput

theorem execBfxS_canonical {o} : Result.Canonical (execBfxS o s) :=
  command_canonical h h.sput

theorem execBfi_canonical {o} : Result.Canonical (execBfi o s) :=
  command_canonical h h.sput

theorem execLea_canonical {o} : Result.Canonical (execLea o s) :=
  command_canonical h h.sput

theorem saccBody_canonical {o} : (saccBody o s).Canonical :=
  Check.canonical_andThen fun _ => Check.canonical_andThen fun _ => h

theorem execSacc_canonical {o} : Result.Canonical (execSacc o s) :=
  command_canonical h (saccBody_canonical h)

theorem saccgBody_canonical {o u} : (saccgBody o u s).Canonical :=
  Check.canonical_andThen fun _ => (.ite h (withEngine_canonical h fun _ => (.foldl (fun _ _ g => g.request) h.engineTaken.fly)))

theorem execSaccg_canonical {o} : Result.Canonical (execSaccg o s) :=
  command_canonical h (saccgBody_canonical h)

theorem execSaccgUpdate_canonical : Result.Canonical (execSaccgUpdate s) := by
  unfold execSaccgUpdate
  show State.Canonical _
  split
  · exact h
  · exact h.ackWrite

end

end Sys2Proof.Machine

namespace Sys2Proof.Machine

/-! ### Every instruction keeps the form -/

section
variable {s : State} (h : s.Canonical)
include h

theorem exec_canonical {i} : Result.Canonical (exec i s) := by
  cases i with
  | nop _ => exact execNop_canonical h
  | ext _ => exact execExt_canonical h
  | notify _ => exact execNotify_canonical h
  | rdv _ => exact execRdv_canonical h
  | semadd _ => exact execSemadd_canonical h
  | semwait _ => exact execSemwait_canonical h
  | sembase _ => exact execSembase_canonical h
  | sembaseSnap _ => exact execSembaseSnap_canonical h
  | semrd _ => exact execSemrd_canonical h
  | semrdRel _ => exact execSemrdRel_canonical h
  | bar _ => exact execBar_canonical h
  | barLaunch _ => exact execBarLaunch_canonical h
  | safept _ => exact execSafept_canonical h
  | irrev _ => exact execIrrev_canonical h
  | trap _ => exact execTrap_canonical h
  | bkpt _ => exact execBkpt_canonical h
  | pseti _ => exact execPseti_canonical h
  | pmovPp _ => exact execPmovPp_canonical h
  | pmovPs _ => exact execPmovPs_canonical h
  | pmovSp _ => exact execPmovSp_canonical h
  | pand _ => exact execPand_canonical h
  | por _ => exact execPor_canonical h
  | pxor _ => exact execPxor_canonical h
  | pnot _ => exact execPnot_canonical h
  | punres _ => exact execPunres_canonical h
  | cmp _ => exact execCmp_canonical h
  | cmpImm _ => exact execCmpImm_canonical h
  | fcmp _ => exact execFcmp_canonical h
  | vany _ => exact execVany_canonical h
  | vall _ => exact execVall_canonical h
  | ptb _ => exact execPtb_canonical h
  | ptbr _ => exact execPtbr_canonical h
  | br _ => exact execBr_canonical h
  | call _ => exact execCall_canonical h
  | ret _ => exact execRet_canonical h
  | loop _ => exact execLoop_canonical h
  | loopr _ => exact execLoopr_canonical h
  | lexit _ => exact execLexit_canonical h
  | qpush _ => exact execQpush_canonical h
  | qpop _ => exact execQpop_canonical h
  | qpeek _ => exact execQpeek_canonical h
  | qpushp _ => exact execQpushp_canonical h
  | qpopp _ => exact execQpopp_canonical h
  | qlen _ => exact execQlen_canonical h
  | add _ => exact execAdd_canonical h
  | addi _ => exact execAddi_canonical h
  | sub _ => exact execSub_canonical h
  | mul _ => exact execMul_canonical h
  | mulh _ => exact execMulh_canonical h
  | mulhu _ => exact execMulhu_canonical h
  | div _ => exact execDiv_canonical h
  | divu _ => exact execDivu_canonical h
  | rem _ => exact execRem_canonical h
  | remu _ => exact execRemu_canonical h
  | and _ => exact execAnd_canonical h
  | andi _ => exact execAndi_canonical h
  | or _ => exact execOr_canonical h
  | ori _ => exact execOri_canonical h
  | xor _ => exact execXor_canonical h
  | xori _ => exact execXori_canonical h
  | shl _ => exact execShl_canonical h
  | shli _ => exact execShli_canonical h
  | shr _ => exact execShr_canonical h
  | shri _ => exact execShri_canonical h
  | sra _ => exact execSra_canonical h
  | srai _ => exact execSrai_canonical h
  | min _ => exact execMin_canonical h
  | max _ => exact execMax_canonical h
  | minu _ => exact execMinu_canonical h
  | maxu _ => exact execMaxu_canonical h
  | clz _ => exact execClz_canonical h
  | ctz _ => exact execCtz_canonical h
  | popc _ => exact execPopc_canonical h
  | sel _ => exact execSel_canonical h
  | movi _ => exact execMovi_canonical h
  | movhi _ => exact execMovhi_canonical h
  | mov _ => exact execMov_canonical h
  | abs _ => exact execAbs_canonical h
  | bfx _ => exact execBfx_canonical h
  | bfxS _ => exact execBfxS_canonical h
  | bfi _ => exact execBfi_canonical h
  | lea _ => exact execLea_canonical h
  | fadd _ => exact execFadd_canonical h
  | fsub _ => exact execFsub_canonical h
  | fmul _ => exact execFmul_canonical h
  | ffma _ => exact execFfma_canonical h
  | fdiv _ => exact execFdiv_canonical h
  | fsqrt _ => exact execFsqrt_canonical h
  | fmin _ => exact execFmin_canonical h
  | fmax _ => exact execFmax_canonical h
  | fabs _ => exact execFabs_canonical h
  | fneg _ => exact execFneg_canonical h
  | fcvt _ => exact execFcvt_canonical h
  | fclass _ => exact execFclass_canonical h
  | csrr _ => exact execCsrr_canonical h
  | csrw _ => exact execCsrw_canonical h
  | csrs _ => exact execCsrs_canonical h
  | csrc _ => exact execCsrc_canonical h
  | rdcyc _ => exact execRdcyc_canonical h
  | rdptp _ => exact execRdptp_canonical h
  | specdepthWrite _ => exact execSpecdepthWrite_canonical h
  | tcfgWrite _ => exact execTcfgWrite_canonical h
  | lds _ => exact execLds_canonical h
  | sts _ => exact execSts_canonical h
  | ldg _ => exact execLdg_canonical h
  | stg _ => exact execStg_canonical h
  | xlat _ => exact execXlat_canonical h
  | htestS _ => exact execHtestS_canonical h
  | htestP _ => exact execHtestP_canonical h
  | hrel _ => exact execHrel_canonical h
  | probe _ => exact execProbe_canonical h
  | copyG2s _ => exact execCopyG2s_canonical h
  | copyS2g _ => exact execCopyS2g_canonical h
  | copyS2s _ => exact execCopyS2s_canonical h
  | copy2G2s _ => exact execCopy2G2s_canonical h
  | copy2S2g _ => exact execCopy2S2g_canonical h
  | copyx _ => exact execCopyx_canonical h
  | copyc _ => exact execCopyc_canonical h
  | gather _ => exact execGather_canonical h
  | scatter _ => exact execScatter_canonical h
  | acscpOut _ => exact execAcscpOut_canonical h
  | acscpIn _ => exact execAcscpIn_canonical h
  | awinit _ => exact execAwinit_canonical h
  | awwait _ => exact execAwwait_canonical h
  | awrd _ => exact execAwrd_canonical h
  | awrdClr _ => exact execAwrdClr_canonical h
  | fenceRel _ => exact execFenceRel_canonical h
  | fenceAcq _ => exact execFenceAcq_canonical h
  | sacc _ => exact execSacc_canonical h
  | saccg _ => exact execSaccg_canonical h
  | coll _ => exact execColl_canonical h
  | collst _ => exact execCollst_canonical h
  | fmsend _ => exact execFmsend_canonical h
  | fmrecvBind _ => exact execFmrecvBind_canonical h
  | fmrecvPop _ => exact execFmrecvPop_canonical h
  | fmrecvFlt _ => exact execFmrecvFlt_canonical h
  | wake _ => exact execWake_canonical h
  | mtopk _ => exact execMtopk_canonical h
  | gcfgLd _ => exact execGcfgLd_canonical h
  | gcfgSt _ => exact execGcfgSt_canonical h
  | gcfgMov _ => exact execGcfgMov_canonical h
  | gbase _ => exact execGbase_canonical h
  | gcount _ => exact execGcount_canonical h
  | gcountRow _ => exact execGcountRow_canonical h
  | gstride _ => exact execGstride_canonical h
  | gfmt _ => exact execGfmt_canonical h
  | vadd _ => exact execVadd_canonical h
  | vsub _ => exact execVsub_canonical h
  | vmul _ => exact execVmul_canonical h
  | vfma _ => exact execVfma_canonical h
  | vmin _ => exact execVmin_canonical h
  | vmax _ => exact execVmax_canonical h
  | vabs _ => exact execVabs_canonical h
  | vneg _ => exact execVneg_canonical h
  | vexp _ => exact execVexp_canonical h
  | vlog _ => exact execVlog_canonical h
  | vrcp _ => exact execVrcp_canonical h
  | vrsq _ => exact execVrsq_canonical h
  | vtanh _ => exact execVtanh_canonical h
  | vsigm _ => exact execVsigm_canonical h
  | vgelu _ => exact execVgelu_canonical h
  | vsilu _ => exact execVsilu_canonical h
  | vcvt _ => exact execVcvt_canonical h
  | vcmp _ => exact execVcmp_canonical h
  | vsel _ => exact execVsel_canonical h
  | vand _ => exact execVand_canonical h
  | vor _ => exact execVor_canonical h
  | vxor _ => exact execVxor_canonical h
  | vshl _ => exact execVshl_canonical h
  | vshr _ => exact execVshr_canonical h
  | vshrA _ => exact execVshrA_canonical h
  | vclamp _ => exact execVclamp_canonical h
  | vmov _ => exact execVmov_canonical h
  | vfill _ => exact execVfill_canonical h
  | vchain _ => exact execVchain_canonical h
  | vrsum _ => exact execVrsum_canonical h
  | vrmax _ => exact execVrmax_canonical h
  | vrmin _ => exact execVrmin_canonical h
  | vargmax _ => exact execVargmax_canonical h
  | vscan _ => exact execVscan_canonical h
  | vtopk _ => exact execVtopk_canonical h
  | vlse _ => exact execVlse_canonical h
  | vzip _ => exact execVzip_canonical h
  | vunzip _ => exact execVunzip_canonical h
  | vperm _ => exact execVperm_canonical h
  | vtrans _ => exact execVtrans_canonical h
  | vbcast _ => exact execVbcast_canonical h
  | vcompact _ => exact execVcompact_canonical h
  | vexpand _ => exact execVexpand_canonical h
  | lease _ => exact execLease_canonical h
  | unlease _ => exact execUnlease_canonical h
  | unleaseAcs _ => exact execUnleaseAcs_canonical h
  | tld _ => exact execTld_canonical h
  | tst _ => exact execTst_canonical h
  | tzero _ => exact execTzero_canonical h
  | mloadw _ => exact execMloadw_canonical h
  | mrows _ => exact execMrows_canonical h
  | mma _ => exact execMma_canonical h
  | acszero _ => exact execAcszero_canonical h
  | bsmm _ => exact execBsmm_canonical h
  | task _ => exact execTask_canonical h
  | taskwait _ => exact execTaskwait_canonical h
  | taskst _ => exact execTaskst_canonical h
  | launch _ => exact execLaunch_canonical h
  | launchp _ => exact execLaunchp_canonical h
  | sld _ _ => exact execSld_canonical h
  | sldm _ _ => exact execSldm_canonical h
  | sscale _ => exact execSscale_canonical h
  | spen _ => exact execSpen_canonical h
  | smask => exact execSmask_canonical h
  | stopk _ => exact execStopk_canonical h
  | stopp _ => exact execStopp_canonical h
  | sminp _ => exact execSminp_canonical h
  | ssoft => exact execSsoft_canonical h
  | sdraw _ => exact execSdraw_canonical h
  | spick _ _ => exact execSpick_canonical h
  | sratio _ _ => exact execSratio_canonical h
  | sresid _ => exact execSresid_canonical h
  | snorm => exact execSnorm_canonical h
  | semit _ => exact execSemit_canonical h
  | semitD _ _ => exact execSemitD_canonical h
  | saccept _ _ => exact execSaccept_canonical h
  | sroll _ => exact execSroll_canonical h
  | sadd _ _ _ => exact execSadd_canonical h
  | saddF _ _ _ => exact execSaddF_canonical h
  | ssub _ _ _ => exact execSsub_canonical h
  | ssubF _ _ _ => exact execSsubF_canonical h
  | smul _ _ _ => exact execSmul_canonical h
  | smulF _ _ _ => exact execSmulF_canonical h
  | scmp _ _ _ _ => exact execScmp_canonical h
  | sjmp _ => exact execSjmp_canonical h
  | sjz _ _ => exact execSjz_canonical h
  | sjnz _ _ => exact execSjnz_canonical h
  | smovi _ _ => exact execSmovi_canonical h
  | smoviH _ _ => exact execSmoviH_canonical h
  | srngSeed _ => exact execSrngSeed_canonical h
  | srngSetseed _ => exact execSrngSetseed_canonical h
  | srngCtr _ => exact execSrngCtr_canonical h
  | srngSetctr _ => exact execSrngSetctr_canonical h
  | swait _ _ _ => exact execSwait_canonical h
  | send => exact execSend_canonical h
  | trapEntry => exact execTrapEntry_canonical h
  | xlatHandleWrite => exact execXlatHandleWrite_canonical h
  | walkComplete => exact execWalkComplete_canonical h
  | walkResultExpiry => exact execWalkResultExpiry_canonical h
  | copyPieceLanding => exact execCopyPieceLanding_canonical h
  | collectiveComplete => exact execCollectiveComplete_canonical h
  | collectiveDeadline => exact execCollectiveDeadline_canonical h
  | fabricMessageArrival => exact execFabricMessageArrival_canonical h
  | fabricAckReceived => exact execFabricAckReceived_canonical h
  | fabricNackReceived => exact execFabricNackReceived_canonical h
  | fmBackoffExpiry => exact execFmBackoffExpiry_canonical h
  | arrayRowUpdate => exact execArrayRowUpdate_canonical h
  | acsAllotmentGrant => exact execAcsAllotmentGrant_canonical h
  | arrayArbitration => exact execArrayArbitration_canonical h
  | leaseTermEnd => exact execLeaseTermEnd_canonical h
  | budgetRefill => exact execBudgetRefill_canonical h
  | poolRequestHandled => exact execPoolRequestHandled_canonical h
  | unassignedOpcode => exact execUnassignedOpcode_canonical h
  | sectionEnter => exact execSectionEnter_canonical h
  | sectionRetire => exact execSectionRetire_canonical h
  | codeFetch => exact execCodeFetch_canonical h
  | jobPlacement => exact execJobPlacement_canonical h
  | placementWaitLimit => exact execPlacementWaitLimit_canonical h
  | jobComplete => exact execJobComplete_canonical h
  | wakeTargetStore => exact execWakeTargetStore_canonical h
  | jobPark => exact execJobPark_canonical h
  | preemptRequest => exact execPreemptRequest_canonical h
  | jobPreempted => exact execJobPreempted_canonical h
  | jobResume => exact execJobResume_canonical h
  | preemptOverrun => exact execPreemptOverrun_canonical h
  | globalAccessPerformed => exact execGlobalAccessPerformed_canonical h
  | globalReadReply => exact execGlobalReadReply_canonical h
  | combineLineDrain => exact execCombineLineDrain_canonical h
  | saccgUpdate => exact execSaccgUpdate_canonical h
  | taskDeadline => exact execTaskDeadline_canonical h
  | passForm => exact execPassForm_canonical h
  | weightBufferRead => exact execWeightBufferRead_canonical h
  | passArrayTerm => exact execPassArrayTerm_canonical h
  | epilogueChunk => exact execEpilogueChunk_canonical h
  | scatterCheck => exact execScatterCheck_canonical h
  | taskRowPerformed => exact execTaskRowPerformed_canonical h
  | passBackPosition => exact execPassBackPosition_canonical h
  | speculationStart => exact execSpeculationStart_canonical h
  | spoilArrival => exact execSpoilArrival_canonical h
  | claimAttempt => exact execClaimAttempt_canonical h
  | watchFenceArrival => exact execWatchFenceArrival_canonical h
  | watchFenceAck => exact execWatchFenceAck_canonical h
  | shadowLinesPerformed => exact execShadowLinesPerformed_canonical h
  | speculationHorizon => exact execSpeculationHorizon_canonical h
  | samplerLaneGrant => exact execSamplerLaneGrant_canonical h
  | maskHeaderPoll => exact execMaskHeaderPoll_canonical h
  | swaitTimeout => exact execSwaitTimeout_canonical h
  | reshardDone => exact execReshardDone_canonical h
  | wakeRegisterStore => exact execWakeRegisterStore_canonical h
  | apertureAccess => exact execApertureAccess_canonical h
  | reqtailWrite => exact execReqtailWrite_canonical h
  | rspheadWrite => exact execRspheadWrite_canonical h
  | klotaResponse => exact execKlotaResponse_canonical h
  | vfFlr => exact execVfFlr_canonical h
  | pfFlr => exact State.restart_canonical
  | powerOn => exact State.restart_canonical
  | bootStage => exact execBootStage_canonical h
  | ringRead => exact execRingRead_canonical h
  | poolGrant => exact execPoolGrant_canonical h
  | recordLanded => exact execRecordLanded_canonical h
  | launchStart => exact execLaunchStart_canonical h
  | prologueRun => exact execPrologueRun_canonical h
  | prologueRepeat => exact execPrologueRepeat_canonical h
  | version => exact execVersion_canonical h
  | resync => exact execResync_canonical h
  | partSet => exact execPartSet_canonical h
  | partEntryInForce => exact execPartEntryInForce_canonical h
  | vfAssign => exact execVfAssign_canonical h
  | uccfgSet => exact execUccfgSet_canonical h
  | shapeSet => exact execShapeSet_canonical h
  | pkgSet => exact execPkgSet_canonical h
  | queueCreate => exact execQueueCreate_canonical h
  | queueDestroy => exact execQueueDestroy_canonical h
  | queueQuery => exact execQueueQuery_canonical h
  | poolCap => exact execPoolCap_canonical h
  | mapStage1 => exact execMapStage1_canonical h
  | mapStage2 => exact execMapStage2_canonical h
  | mapContextDesc => exact execMapContextDesc_canonical h
  | mapS2Root => exact execMapS2Root_canonical h
  | unmapStage1 => exact execUnmapStage1_canonical h
  | unmapStage2 => exact execUnmapStage2_canonical h
  | pinUnpin => exact execPinUnpin_canonical h
  | pinPin => exact execPinPin_canonical h
  | pinBacking => exact execPinBacking_canonical h
  | saveresume => exact execSaveresume_canonical h
  | ctxReset => exact execCtxReset_canonical h
  | shelfLoad => exact execShelfLoad_canonical h
  | attest => exact execAttest_canonical h
  | samplerProg => exact execSamplerProg_canonical h
  | samplerBind => exact execSamplerBind_canonical h
  | samplerUnbind => exact execSamplerUnbind_canonical h
  | vocabLoadImage => exact execVocabLoadImage_canonical h
  | vocabLoadService => exact execVocabLoadService_canonical h
  | vocabLoadRing => exact execVocabLoadRing_canonical h
  | vocabLoadGrammar => exact execVocabLoadGrammar_canonical h
  | telemetry => exact execTelemetry_canonical h
  | budgetSet => exact execBudgetSet_canonical h
  | msgKlotaForward => exact execMsgKlotaForward_canonical h
  | msgKlotaResponse => exact execMsgKlotaResponse_canonical h
  | msgContextError => exact execMsgContextError_canonical h
  | msgDecision => exact execMsgDecision_canonical h
  | msgProbeFault => exact execMsgProbeFault_canonical h
  | msgFaultServed => exact execMsgFaultServed_canonical h
  | msgTaskParked => exact execMsgTaskParked_canonical h
  | msgSaveBlocked => exact execMsgSaveBlocked_canonical h
  | msgBudgetChange => exact execMsgBudgetChange_canonical h
  | msgPartitionChanged => exact execMsgPartitionChanged_canonical h
  | faultService => exact execFaultService_canonical h
  | probeFaultTimeout => exact execProbeFaultTimeout_canonical h
  | accSample => exact execAccSample_canonical h
  | migrationLineCopy => exact execMigrationLineCopy_canonical h
  | migrationSwitch => exact execMigrationSwitch_canonical h
  | migrationForward => exact execMigrationForward_canonical h
  | saveLineFault => exact execSaveLineFault_canonical h
  | saveComplete => exact execSaveComplete_canonical h
  | saveBlockTimeout => exact execSaveBlockTimeout_canonical h
  | preemptStall => exact execPreemptStall_canonical h
  | contextFrozenDrained => exact execContextFrozenDrained_canonical h
  | captureBeforeReset => exact execCaptureBeforeReset_canonical h
  | dieLost => exact execDieLost_canonical h
  | hbmUncorrectable => exact execHbmUncorrectable_canonical h
  | linkCrcReplay => exact execLinkCrcReplay_canonical h
  | thermalThrottle => exact execThermalThrottle_canonical h
  | thermalShutdown => exact execThermalShutdown_canonical h
  | idleDieGate => exact execIdleDieGate_canonical h
  | cacheWindowClear => exact execCacheWindowClear_canonical h
  | sliceRequestAccept => exact execSliceRequestAccept_canonical h
  | hbmRequestArrival => exact execHbmRequestArrival_canonical h
  | hbmServiceStart => exact execHbmServiceStart_canonical h
  | routerGrant => exact execRouterGrant_canonical h
  | injectionRefill => exact execInjectionRefill_canonical h
  | portInjection => exact execPortInjection_canonical h
  | envelopeArrival => exact execEnvelopeArrival_canonical h
  | tokenise => exact execTokenise_canonical h
  | detokeniseToken => exact execDetokeniseToken_canonical h
  | finalFrameAccepted => exact execFinalFrameAccepted_canonical h
  | sessionClose => exact execSessionClose_canonical h
  | packetAuthFail => exact execPacketAuthFail_canonical h
  | weightBeacon => exact execWeightBeacon_canonical h
  | throttleRelease => exact execThrottleRelease_canonical h
  | sessionOpen => exact execSessionOpen_canonical h
  | ptptDiscipline => exact execPtptDiscipline_canonical h
  | peerWrite => exact execPeerWrite_canonical h

end

end Sys2Proof.Machine

namespace Sys2Proof.Machine

/-! ### Every step keeps the form (O59) -/

/-- A state that a stream's next move sets is in canonical form. -/
def Todo.Canonical (x : Todo) : Prop :=
  match x with
  | .set t | .land t => t.Canonical
  | .idle | .run _ _ => True

/-- The state that a plan goes to, or runs an instruction in, is in canonical form. -/
def Plan.Canonical (p : Plan) : Prop :=
  match p with
  | .go t | .run _ t => t.Canonical

theorem Todo.Canonical.ite {p : Prop} [Decidable p] {x y : Todo} (hx : x.Canonical) (hy : y.Canonical) : (if p then x else y).Canonical := by
  split
  · exact hx
  · exact hy

theorem State.headerTodo_canonical {s : State} {r j e} : (s.headerTodo r j e).Canonical := by
  unfold State.headerTodo
  split
  · trivial
  · trivial

section
variable {s : State} (h : s.Canonical)
include h

theorem State.Canonical.enterTodo {r j t e} : (s.enterTodo r j t e).Canonical := by
  unfold State.enterTodo
  split
  · exact .ite (.ite h.modRef h.raise) s.headerTodo_canonical
  · exact s.headerTodo_canonical

theorem State.Canonical.headTodo {r j t x} : (s.headTodo r j t x).Canonical := by
  unfold State.headTodo
  extract_lets a start
  split
  · exact h.raise
  · extract_lets two w2
    refine .ite h.raise ?_
    split
    · trivial
    · refine .ite trivial ?_
      split
      · exact h.raise
      · exact .ite h.raise (.ite h.raise (.ite h.raise trivial))

theorem State.Canonical.todo {r} : (s.todo r).Canonical := by
  unfold State.todo
  extract_lets j t count
  have hc : count.Canonical := h.modRef
  refine .ite trivial (.ite trivial (.ite (.ite hc trivial) (.ite trivial (.ite hc ?_))))
  split
  · exact h.enterTodo
  · split
    · trivial
    · exact .ite h.modRef h.headTodo

theorem State.Canonical.laneTodo {die ctx} : (s.laneTodo die ctx).Canonical := by
  unfold State.laneTodo
  refine .ite trivial (.ite h.stopCtx ?_)
  split
  · exact h.stopCtx
  · trivial

theorem State.Canonical.turn {r} : (s.turn r).Canonical := by
  unfold State.turn
  dsimp only
  split
  · exact h
  · have h1 : State.Canonical { s with cur := r, args := {} } := h.of_mem rfl
    have ht := h1.todo (r := r)
    split
    · exact h1.poll
    next t e =>
      rw [e] at ht
      exact State.Canonical.poll ht
    next t e =>
      rw [e] at ht
      exact State.Canonical.again ht
    next i g _ =>
      have h2 : State.Canonical { s with cur := r, args := g } := h.of_mem rfl
      exact State.Canonical.ite h2.again h2.poll

theorem State.Canonical.laneTurn {die ctx} : (s.laneTurn die ctx).Canonical := by
  have ht := h.laneTodo (die := die) (ctx := ctx)
  unfold State.laneTurn
  split
  · exact h
  next t e =>
    rw [e] at ht
    exact ht
  next t e =>
    rw [e] at ht
    exact ht
  · exact h.of_mem rfl

theorem State.Canonical.planOf {m} : (s.planOf m).Canonical := by
  cases m with
  | stream r => exact h.turn
  | lane die ctx => exact h.laneTurn
  | event i g => exact h.of_mem rfl
  | finish k => exact h.finishMove
  | effect k => exact h.effect
  | vecStep core => exact h.vecCycle
  | trowel core x => exact h.trowelStep
  | begin k => exact h.beginJob
  | word k => exact h.complWord

theorem State.Canonical.plan : s.plan.Canonical := by
  unfold State.plan
  split
  · exact h.tick
  · refine State.Canonical.planOf ?_
    exact h.of_mem rfl

theorem step_canonical : Result.Canonical (step s) := by
  have hp := h.plan
  unfold step
  split
  next t e =>
    rw [e] at hp
    exact hp
  next i t e =>
    rw [e] at hp
    exact exec_canonical hp

end

/-- Settles O59: every function of the model that gives a new state keeps the memory's canonical form, and a step is made of them. -/
theorem stepKeepsMemory : Obligations.StepKeepsMemory := by
  intro s t h e
  have hs := step_canonical h
  rw [e] at hs
  exact hs

end Sys2Proof.Machine

namespace Sys2Proof.Machine

/-! ### What a line's way home and the fences leave (03 R93, R95) -/

/-- A completion point changes jobs and streams alone. -/
theorem State.Frame.complete (r : Ref) (s : State) (g : Option (BitVec 8 × BitVec 3)) (fl : BitVec 5) : State.Frame r s (s.complete r g fl) := by
  unfold State.complete
  dsimp only
  split
  · exact .setFlags r s fl
  · exact (State.Frame.signal r s _ _).trans (.setFlags r _ fl)

theorem State.finish_frame {s : State} {k : Nat} {f : Flight} (fl : Flags) (hf : s.flights.find? k = some f) : State.Frame f.ref s (s.finish k fl) := by
  have he : State.Frame f.ref s { s with flights := s.flights.erase k } := .of_jobs rfl rfl
  simp only [State.finish, hf]
  exact (he.trans (.complete _ _ _ _)).trans (State.Moved.checkRetire f.ref f.ref _).frame

/-- What stands outside jobs, flights and agenda, a completion point leaves. -/
theorem State.finish_keeps {α : Type} (g : State → α) (hg : ∀ s : State, g s.aside = g s) (s : State) (k : Nat) (fl : Flags) :
    g (s.finish k fl) = g s := by
  cases hf : s.flights.find? k with
  | none => rw [State.finish_of_gone fl hf]
  | some f => exact (State.finish_frame fl hf).field g hg

/-- What completion points leave, and the end of read copies, the fences that complete leave. -/
theorem State.checkFences_keeps {α : Type} (g : State → α) (hg : ∀ s : State, g s.aside = g s) (hd : ∀ (s : State) c x, g (s.dropCopies c x) = g s)
    (s : State) : g s.checkFences = g s := by
  have hacq (t : State) (r : Ref) (x : Scope) : g (t.fenceStart r true x) = g t := by
    unfold State.fenceStart
    dsimp only
    split
    · rfl
    · exact hd _ _ _
  rw [State.checkFences_eq]
  refine State.foldl_keeps g (fun t e => ?_) _ s
  unfold State.checkFence
  split
  next acq x n _ =>
    split
    · rw [State.finish_keeps g hg]
      split
      · exact hacq _ _ _
      · rfl
    · rfl
  · rfl

@[simp] theorem State.checkFences_mem (s : State) : s.checkFences.mem = s.mem := s.checkFences_keeps State.mem (fun _ => rfl) (fun _ _ _ => rfl)
@[simp] theorem State.checkFences_accesses (s : State) : s.checkFences.accesses = s.accesses :=
  s.checkFences_keeps State.accesses (fun _ => rfl) (fun _ _ _ => rfl)

/-- Read copies that go leave the combine buffers. -/
theorem State.dropCopies_combine (s : State) (c x k : Nat) : ((s.dropCopies c x).coreOf k).combine = (s.coreOf k).combine := by
  unfold State.dropCopies
  by_cases h : k = c
  · rw [h, State.coreOf_modCore_self]
  · rw [State.coreOf_modCore_ne _ _ h]

@[simp] theorem State.checkFences_combine (s : State) (c : Nat) : (s.checkFences.coreOf c).combine = (s.coreOf c).combine :=
  s.checkFences_keeps (fun t => (t.coreOf c).combine) (fun _ => rfl) (fun t d x => t.dropCopies_combine d x c)

/-- What changes of contexts, marks on jobs and new events leave, the freeze of a context leaves. -/
theorem State.freeze_keeps {α : Type} (g : State → α) (hg : ∀ s : State, g s.still = g s) (hc : ∀ (s : State) k f, g (s.modCtx k f) = g s)
    (hh : ∀ (s : State) x, g (s.haltJobs x) = g s) (s : State) (ctx cause : Nat) : g (s.freeze ctx cause) = g s := by
  by_cases h : (s.ctxOf ctx).state = .frozen ∨ (s.ctxOf ctx).state = .dumping
  · rw [State.freeze, if_pos (by simpa using h)]
  · rw [not_or] at h
    rw [State.freeze_running cause h.1 h.2, (State.Beside.ensure _ _ _ _).field g hg, hh, hc]

@[simp] theorem State.freezeFor_accesses (s : State) (k ctx code : Nat) : (s.freezeFor k ctx code).accesses = s.accesses :=
  (State.freeze_keeps State.accesses (fun _ => rfl) (by simp) (fun _ _ => rfl) _ ctx code).trans (State.modCtx_accesses _ _ _)
@[simp] theorem State.freezeFor_migrations (s : State) (k ctx code : Nat) : (s.freezeFor k ctx code).migrations = s.migrations :=
  (State.freeze_keeps State.migrations (fun _ => rfl) (by simp) (fun _ _ => rfl) _ ctx code).trans (State.modCtx_migrations _ _ _)

/-- What stores, memory and a freeze leave, a line that drains leaves. -/
theorem State.drainLine_keeps {α : Type} (g : State → α) (hg : ∀ s : State, g s.still = g s) (hz : ∀ (s : State) k x c, g (s.freezeFor k x c) = g s)
    (s : State) (core line ctx : Nat) : g (s.drainLine core line ctx) = g s := by
  unfold State.drainLine
  split
  · rfl
  · refine ((State.Beside.modCore _ _ _).field g hg).trans ?_
    split
    · exact hz _ _ _ _
    · exact (State.Beside.performLine _ _ _ _ _ _).field g hg

theorem State.clearWay_keeps {α : Type} (g : State → α) (hg : ∀ s : State, g s.still = g s) (hz : ∀ (s : State) k x c, g (s.freezeFor k x c) = g s)
    (s : State) (core ctx line : Nat) : g (s.clearWay core ctx line) = g s :=
  ((State.Beside.modCore _ _ _).field g hg).trans (s.drainLine_keeps g hg hz core line ctx)

@[simp] theorem State.clearWay_accesses (s : State) (core ctx line : Nat) : (s.clearWay core ctx line).accesses = s.accesses :=
  s.clearWay_keeps State.accesses (fun _ => rfl) (by simp) core ctx line
@[simp] theorem State.clearWay_fwd (s : State) (core ctx line pa : Nat) : (s.clearWay core ctx line).fwd pa = s.fwd pa :=
  s.clearWay_keeps (State.fwd · pa) (fun _ => rfl) (fun _ _ _ _ => by simp [State.fwd]) core ctx line

/-- A line that the buffer does not hold has no way to clear. -/
theorem State.clearWay_mem_of_none {s : State} {core ctx line : Nat} (h : ∀ l ∈ (s.coreOf core).combine, ¬(l.line = line ∧ l.ctx = ctx)) :
    (s.clearWay core ctx line).mem = s.mem := by
  have hn : (s.coreOf core).combine.find? (fun c => c.line = line && c.ctx = ctx) = none :=
    List.find?_eq_none.mpr fun l hl => by simpa using h l hl
  rw [State.clearWay, State.modCore_mem, State.drainLine, hn]

/-! ### Bytes written at one line's home (03 R83) -/

/-- Bytes within one line touch that line alone. -/
theorem linesOf_within {a n : Nat} (hn : 0 < n) (hl : a % 128 + n ≤ 128) : linesOf a n = [(a, n)] := by
  have hu : unitsOf 128 a n = [a / 128] := by
    have h0 : (a + n - 1) / 128 - a / 128 + 1 = 1 := by omega
    rw [unitsOf, if_neg (by omega), h0]
    rfl
  have hmax : max a (a / 128 * 128) = a := by omega
  have hmin : min (a + n) ((a / 128 + 1) * 128) - a = n := by omega
  simp only [linesOf, hu, List.map_cons, List.map_nil, hmax, hmin]

/-- A write within a line that is not forwarded goes to the address that it names. -/
theorem State.homeWrite_within {s : State} {a : Nat} {v : List Byte} (bad : Bool) (hv : 0 < v.length) (hl : a % 128 + v.length ≤ 128)
    (hf : s.fwd a = a) : s.homeWrite a v bad = s.memWrite a v bad := by
  unfold State.homeWrite
  split
  · rfl
  · simp only [linesOf_within hv hl, State.homeWriteLines, hf, List.take_length]

@[simp] theorem State.spoil_mem (s : State) (k pa n : Nat) : (s.spoil k pa n).mem = s.mem := by
  unfold State.spoil
  exact State.foldl_keeps State.mem (fun _ _ => by simp) _ s

theorem State.perform_mem {s : State} {pa : Nat} {v : List Byte} (die : Nat) (bad : Bool) (hv : 0 < v.length) (hl : pa % 128 + v.length ≤ 128)
    (hf : s.fwd pa = pa) : (s.perform die pa v bad).mem = Memory.write s.mem pa v := by
  rw [State.perform, State.spoil_mem, State.homeWrite_within bad hv hl hf, State.memWrite]

@[simp] theorem State.perform_accesses (s : State) (die pa : Nat) (v : List Byte) (bad : Bool) : (s.perform die pa v bad).accesses = s.accesses :=
  (State.Beside.perform s die pa v bad).field State.accesses fun _ => rfl

theorem State.performLine_mem (s : State) (die line : Nat) (mask : BitVec 128) (data : Vector Byte 128) (bad : Bool) :
    (s.performLine die line mask data bad).mem =
      Memory.write s.mem (s.fwd (line * 128)) (mergeBytes mask data (s.memRead (s.fwd (line * 128)) 128)) := by
  simp only [State.performLine, State.homeAt, State.spoil_mem]

@[simp] theorem length_mergeBytes (mask : BitVec 128) (data : Vector Byte 128) (old : List Byte) : (mergeBytes mask data old).length = 128 := by
  simp [mergeBytes]

theorem getD_mergeBytes (mask : BitVec 128) (data : Vector Byte 128) (old : List Byte) {i : Nat} (hi : i < 128) :
    (mergeBytes mask data old).getD i 0 = if mask.getLsbD i = true then data.toList.getD i 0 else old.getD i 0 := by
  rw [List.getD_eq_getElem _ _ (by simpa using hi)]
  simp [mergeBytes]

/-- A line's masked bytes, and no others, change at its home (03 R93). -/
theorem State.get_performLine {s : State} (hm : MemOk s) (die line : Nat) (mask : BitVec 128) (data : Vector Byte 128) (bad : Bool) (x : Nat) :
    Memory.get (s.performLine die line mask data bad).mem x =
      if s.fwd (line * 128) ≤ x ∧ x < s.fwd (line * 128) + 128 ∧ mask.getLsbD (x - s.fwd (line * 128)) = true then
        data.toList.getD (x - s.fwd (line * 128)) 0 else Memory.get s.mem x := by
  rw [State.performLine_mem]
  generalize s.fwd (line * 128) = a
  rw [Memory.get_write hm, length_mergeBytes]
  by_cases hx : a ≤ x ∧ x < a + 128
  · have hold : (s.memRead a 128).getD (x - a) 0 = Memory.get s.mem x := by
      rw [State.memRead, Memory.getD_read _ _ _ _ (by omega)]
      congr 1
      omega
    rw [if_pos hx, getD_mergeBytes _ _ _ (by omega), hold]
    simp only [hx, true_and]
  · rw [if_neg hx, if_neg fun h => hx ⟨h.1, h.2.1⟩]

/-! ### An access takes effect (03 R83, R84, R92) -/

@[simp] theorem State.keepCopy_mem (s : State) (a : Access) : (s.keepCopy a).mem = s.mem := by unfold State.keepCopy; split <;> rfl
@[simp] theorem State.keepCopy_accesses (s : State) (a : Access) : (s.keepCopy a).accesses = s.accesses := by unfold State.keepCopy; split <;> rfl
@[simp] theorem State.modSlice_accesses (s : State) (k : Nat) (f : Slice → Slice) : (s.modSlice k f).accesses = s.accesses := rfl

/-- An access that takes effect is listed as performed, with what it asked for; every other one is as before. -/
theorem State.takeEffect_lists (s : State) (i : Nat) (a : Access) :
    ∃ b, (s.takeEffect i a).accesses = s.accesses.set i b ∧ b.stage = .performed ∧ b.op = a.op := by
  cases ho : a.op with
  | read =>
    refine ⟨{ a with
      stage := .performed
      value := if (s.dieOf a.die).lost then (List.range a.len).map (fun n => Config.lostByte s.ticket (a.pa + n)) else (s.readValue a).1
      vpoison := if (s.dieOf a.die).lost then true else (s.readValue a).2 }, ?_, rfl, ho⟩
    simp only [State.takeEffect, ho, State.later_accesses]
    cases a.spec <;> cases (s.dieOf a.die).lost <;> simp [State.setAccess]
  | write v =>
    refine ⟨{ a with stage := .performed }, ?_, rfl, ho⟩
    simp only [State.takeEffect, ho, State.later_accesses, State.setAccess]
    split <;> simp [State.lostWrite]
  | add fmt m u =>
    refine ⟨{ a with stage := .performed }, ?_, rfl, ho⟩
    simp only [State.takeEffect, ho, State.later_accesses, State.setAccess]
    split <;> simp [State.lostWrite]

section
variable {s : State} {i : Nat} {a : Access}

/-- The bytes of a read are those of its home under those that its core's buffer holds for its context. -/
theorem State.takeEffect_read (ho : a.op = .read) (hs : a.spec = none) (hl : (s.dieOf a.die).lost = false) :
    (s.takeEffect i a).mem = s.mem ∧ (s.takeEffect i a).accesses = s.accesses.set i { a with
      stage := .performed, value := s.overlay a.core a.ctx a.own (s.memRead a.pa a.len), vpoison := s.memBad a.pa a.len || s.ownBad a } := by
  simp [State.takeEffect, ho, hs, hl, State.readValue, State.setAccess]

/-- A write changes its own bytes behind those of its line that its core's buffer held. -/
theorem State.get_takeEffect_write {v : List Byte} (hm : MemOk s) (ho : a.op = .write v) (hl : (s.dieOf a.die).lost = false) (hf : s.fwd a.pa = a.pa)
    (hv : 0 < v.length) (hp : a.pa % 128 + v.length ≤ 128) (x : Nat) :
    Memory.get (s.takeEffect i a).mem x =
      if a.pa ≤ x ∧ x < a.pa + v.length then v.getD (x - a.pa) 0 else Memory.get (s.clearWay a.core a.ctx a.line).mem x := by
  have hc : MemOk (s.clearWay a.core a.ctx a.line) := State.Canonical.clearWay hm
  have he : (s.takeEffect i a).mem = Memory.write (s.clearWay a.core a.ctx a.line).mem a.pa v := by
    simp only [State.takeEffect, ho, hl, Bool.false_eq_true, if_false, State.later_mem, State.setAccess]
    exact State.perform_mem _ _ hv hp (by simpa using hf)
  rw [he, Memory.get_write hc]

@[simp] theorem length_bytesOf (n w : Nat) : (bytesOf n w).length = n := by
  induction n generalizing w with
  | zero => rfl
  | succ n ih => simp [bytesOf, ih]

theorem saccBytes_cases (fmt : Fin 3) : saccBytes fmt = 2 ∨ saccBytes fmt = 4 := by
  unfold saccBytes
  split
  · exact .inl rfl
  · exact .inr rfl

/-- An update changes its element to the sum of the bytes that stand there and its own. -/
theorem State.get_takeEffect_add {fmt : Fin 3} {m : Fmode} {w : BitVec 32} (hm : MemOk s) (ho : a.op = .add fmt m w)
    (hl : (s.dieOf a.die).lost = false) (hf : s.fwd a.pa = a.pa) (hp : a.pa % saccBytes fmt = 0) (x : Nat) :
    let u := s.clearWay a.core a.ctx a.line
    let r := saccAdd fmt m (natOf (u.memRead a.pa (saccBytes fmt))) w.toNat
    Memory.get (s.takeEffect i a).mem x =
      if a.pa ≤ x ∧ x < a.pa + saccBytes fmt then (bytesOf (saccBytes fmt) r.1).getD (x - a.pa) 0 else Memory.get u.mem x := by
  intro u r
  have hc : MemOk u := State.Canonical.clearWay hm
  have hn := saccBytes_cases fmt
  have he : (s.takeEffect i a).mem = Memory.write u.mem a.pa (bytesOf (saccBytes fmt) r.1) := by
    simp only [State.takeEffect, ho, hl, Bool.false_eq_true, if_false, State.later_mem, State.setAccess, State.modFlight_mem]
    refine State.perform_mem _ _ ?_ ?_ ?_
    · rw [length_bytesOf]; omega
    · rw [length_bytesOf]
      rcases hn with h | h <;> rw [h] at hp ⊢ <;> omega
    · simpa using hf
  rw [he, Memory.get_write hc, length_bytesOf]

end

/-! ### The turn of an access at its home (03 R92, R94) -/

/-- What `State.performSo` does at one listed access. -/
def State.performOne (flight : Nat) (t : State) (e : Nat × Access) : State :=
  match t.accesses.find? e.1 with
  | none => t
  | some a => if a.flight = flight && a.stage != .performed then t.takeEffect e.1 (t.rehome a) else t

theorem State.performSo_eq (s : State) (flight : Nat) : s.performSo flight = s.accesses.foldl (State.performOne flight) s := rfl

/-- An access of another command, or one that is performed, is passed over. -/
theorem State.performOne_other {t : State} {flight : Nat} {e : Nat × Access}
    (h : ∀ b, t.accesses.find? e.1 = some b → b.flight = flight → b.stage = .performed) : t.performOne flight e = t := by
  unfold State.performOne
  split
  · rfl
  next b hb => exact if_neg (by simpa using h b hb)

/-- A fold whose first step of a kind leads to what every step leaves. -/
theorem foldl_once {α β : Type} {f : α → β → α} {s t : α} {p : β → Prop} (hp : ∀ b, p b → f s b = t) (hn : ∀ b, ¬p b → f s b = s)
    (ht : ∀ b, f t b = t) {l : List β} (h : ∃ b ∈ l, p b) : l.foldl f s = t := by
  induction l with
  | nil => simp at h
  | cons b l ih =>
    rw [List.foldl_cons]
    by_cases hb : p b
    · rw [hp b hb]
      exact List.foldl_fixed' ht l
    · rw [hn b hb]
      exact ih (by simpa [hb] using h)

/-- The one access of an `SO` command takes effect when the command has its place. -/
theorem State.performSo_single {s : State} {i : Nat} {a : Access} (h : s.accesses.find? i = some a) (hs : a.stage ≠ .performed)
    (hu : ∀ e ∈ s.accesses, e.2.flight = a.flight → e.1 = i) : s.performSo a.flight = s.takeEffect i (s.rehome a) := by
  obtain ⟨b, hb, hperf, -⟩ := s.takeEffect_lists i (s.rehome a)
  have hother {k : Nat} {c : Access} (hk : k ≠ i) (hc : s.accesses.find? k = some c) : c.flight ≠ a.flight := fun hfl =>
    hk (hu (k, c) (Map.mem_of_find? hc) hfl)
  rw [State.performSo_eq]
  refine foldl_once (p := fun e => e.1 = i) (fun e he => ?_) (fun e he => ?_) (fun e => ?_) ⟨(i, a), Map.mem_of_find? h, rfl⟩
  · simp only [State.performOne, he, h]
    exact if_pos (by simpa using hs)
  · exact State.performOne_other fun c hc hfl => absurd hfl (hother he hc)
  · refine State.performOne_other fun c hc hfl => ?_
    rw [hb] at hc
    by_cases he : e.1 = i
    · rw [he, Map.find?_set_self] at hc
      cases hc
      exact hperf
    · rw [Map.find?_set_ne _ _ he] at hc
      exact absurd hfl (hother he hc)

/-- An access that nothing forwards is performed at the home that it names. -/
theorem State.rehome_still {s : State} {a : Access} (hf : s.fwd a.pa = a.pa) : s.rehome a = { a with slice := homeSlice a.pa } := by
  simp [State.rehome, State.homeAt, hf]

/-- An access without a place in the order of its stream takes effect where no older one of its line stands before it. -/
theorem State.access_plain {s : State} {i : Nat} {a : Access} (h : s.accesses.find? i = some a) (hs : a.stage ≠ .performed)
    (hb : s.lineBehind i a true = false) (hk : a.kind ≠ .so) (hf : s.fwd a.pa = a.pa) : s.access i = (s.takeEffect i a).checkFences := by
  simp [State.access, h, hs, hb, hk, hf]

/-- An access that has its turn takes effect at its home, a single `SO` one in its place of the order. -/
theorem State.access_turn {s : State} {i : Nat} {a : Access} (h : s.accesses.find? i = some a) (hs : a.stage ≠ .performed)
    (hb : s.lineBehind i a true = false) (hso : a.kind = .so → s.soReady a = true ∧ ∀ e ∈ s.accesses, e.2.flight = a.flight → e.1 = i)
    (hf : s.fwd a.pa = a.pa) : ∃ k, s.access i = (s.takeEffect i { a with slice := k }).checkFences := by
  by_cases hk : a.kind = .so
  · obtain ⟨hr, hu⟩ := hso hk
    refine ⟨homeSlice a.pa, ?_⟩
    rw [← State.rehome_still hf, ← State.performSo_single h hs hu]
    simp [State.access, h, hs, hb, hk, hr]
  · exact ⟨a.slice, State.access_plain h hs hb hk hf⟩

/-- An access behind an older one of its line, or an `SO` one before its place, is tried again in the next cycle. -/
theorem State.access_waits {s : State} {i : Nat} {a : Access} (h : s.accesses.find? i = some a) (hs : a.stage ≠ .performed)
    (hw : s.lineBehind i a true = true ∨ a.kind = .so ∧ s.soReady a = false) : s.access i = s.post 1 .globalAccessPerformed { a := i } := by
  rcases hw with hb | ⟨hk, hr⟩
  · simp [State.access, h, hs, hb]
  · simp [State.access, h, hs, hk, hr]

/-! ### Forwarding (20 R465) -/

theorem Map.mem_set {α : Type} {m : Map α} {k : Nat} {v : α} {e : Nat × α} (h : e ∈ m.set k v) : e = (k, v) ∨ e ∈ m := by
  induction m with
  | nil => simpa [Map.set] using h
  | cons y r ih =>
    obtain ⟨j, w⟩ := y
    unfold Map.set at h
    split at h
    · simpa using h
    · split at h
      · exact (List.mem_cons.mp h).imp_right (List.mem_cons_of_mem _)
      · rcases List.mem_cons.mp h with rfl | h
        · exact .inr List.mem_cons_self
        · exact (ih h).imp_right (List.mem_cons_of_mem _)

/-- An access before which its core has none stands behind none. -/
theorem State.lineBehind_of_first {s : State} {i : Nat} {a : Access} (own : Bool) (h : ∀ e ∈ s.accesses, e.1 < i → e.2.core ≠ a.core) :
    s.lineBehind i a own = false := by
  refine List.any_eq_false.mpr fun e he => ?_
  by_cases hi : e.1 < i
  · simp [h e he hi]
  · simp [hi]

/-- A forwarded read is performed at its page's new home. -/
theorem execMigrationForward_read {s : State} {i : Nat} {a : Access} (hi : s.args.a = i) (h : s.accesses.find? i = some a) (hs : a.stage ≠ .performed)
    (hk : a.kind ≠ .so) (ho : a.op = .read) (hn : a.spec = none) (hff : s.fwd (s.fwd a.pa) = s.fwd a.pa)
    (hl : (s.dieOf (s.rehome a).die).lost = false) (hc : ∀ e ∈ s.accesses, e.1 < i → e.2.core ≠ a.core) :
    ∃ t b, execMigrationForward s = .next t ∧ t.mem = s.mem ∧ t.accesses.find? i = some b ∧ b.stage = .performed ∧ b.pa = s.fwd a.pa ∧
      b.slice = homeSlice (s.fwd a.pa) ∧ b.value = s.overlay a.core a.ctx b.own (s.memRead (s.fwd a.pa) a.len) := by
  let u := s.setAccess i (s.rehome a)
  have hu : u.accesses.find? i = some (s.rehome a) := Map.find?_set_self _ _ _
  have hb : u.lineBehind i (s.rehome a) true = false := by
    refine State.lineBehind_of_first true fun e he hlt => ?_
    rcases Map.mem_set he with rfl | he
    · exact absurd hlt (Nat.lt_irrefl _)
    · exact hc e he hlt
  have hx : u.access i = (u.takeEffect i (s.rehome a)).checkFences := State.access_plain hu hs hb hk hff
  obtain ⟨hmem, hacc⟩ := State.takeEffect_read (s := u) (i := i) (a := s.rehome a) ho hn hl
  refine ⟨u.access i, { s.rehome a with
    stage := .performed, value := u.overlay a.core a.ctx (s.rehome a).own (u.memRead (s.rehome a).pa a.len)
    vpoison := u.memBad (s.rehome a).pa a.len || u.ownBad (s.rehome a) }, ?_, ?_, ?_, rfl, rfl, rfl, rfl⟩
  · subst hi
    simp [execMigrationForward, h, hs, u]
  · rw [hx, State.checkFences_mem, hmem]; rfl
  · rw [hx, State.checkFences_accesses, hacc, Map.find?_set_self]; rfl

/-! ### Replies (08 R240) -/

/-- A completion counts from any state whose job has sent the same signals and set the same flags. -/
theorem State.Completes.of_late {s t u : State} {k : Nat} {f : Flight} {fl : Flags} (h : t.Completes k f fl u)
    (hj : (t.jobOf f.ref.job).late = (s.jobOf f.ref.job).late) : s.Completes k f fl u := ⟨h.gone, hj ▸ h.signal, hj ▸ h.flags⟩

/-- The state in which the reply to access `i` has come and its value stands in the registers that its load owes. -/
def State.loadReturns (s : State) (i : Nat) (a : Access) (d : SReg) (sz : Fin 5) (sx : Bool) : State :=
  ({ s with accesses := s.accesses.erase i } : State).modRef a.ref (fun t => t.writeData d sz sx (natOf a.value))

theorem State.reply_load {s : State} {i : Nat} {a : Access} {f : Flight} {d : SReg} {sz : Fin 5} {sx : Bool} {h : HReg} {va : Word}
    (ha : s.accesses.find? i = some a) (hf : s.flights.find? a.flight = some f) (hw : f.work = .load d sz sx h va) (hv : a.vpoison = false) :
    s.reply i = (s.loadReturns i a d sz sx).finish a.flight 0 := by
  have hwork : s.workOf a.flight = some (.load d sz sx h va) := by simp only [State.workOf, hf, hw]
  simp only [State.reply, ha, hwork, hv, Bool.false_eq_true, if_false, State.loadReturns]

section
variable {s : State} {i : Nat} {a : Access} {d : SReg} {sz : Fin 5} {sx : Bool}

@[simp] theorem State.loadReturns_flights : (s.loadReturns i a d sz sx).flights = s.flights := by simp [State.loadReturns]
@[simp] theorem State.loadReturns_mem : (s.loadReturns i a d sz sx).mem = s.mem := by simp [State.loadReturns]
@[simp] theorem State.loadReturns_accesses : (s.loadReturns i a d sz sx).accesses = s.accesses.erase i := by simp [State.loadReturns]
@[simp] theorem State.loadReturns_isSome (k : Nat) : ((s.loadReturns i a d sz sx).jobs.find? k).isSome = (s.jobs.find? k).isSome := by
  simp [State.loadReturns]

theorem State.loadReturns_strOf (h : (s.jobs.find? a.ref.job).isSome = true) :
    (s.loadReturns i a d sz sx).strOf a.ref = (s.strOf a.ref).writeData d sz sx (natOf a.value) :=
  State.strOf_modRef_self { s with accesses := s.accesses.erase i } _ h

theorem State.loadReturns_late (h : (s.jobs.find? a.ref.job).isSome = true) :
    ((s.loadReturns i a d sz sx).jobOf a.ref.job).late = (s.jobOf a.ref.job).late :=
  (congrArg Job.late (State.jobOf_modRef_self { s with accesses := s.accesses.erase i } _ h)).trans (Job.late_setStream _ _ _)

end

/-- The value of a load that returns is written where the load owes it, and the load completes. -/
theorem execGlobalReadReply_load {s : State} {i : Nat} {a : Access} {f : Flight} {d : SReg} {sz : Fin 5} {sx : Bool} {h : HReg} {va : Word}
    (hi : s.args.a = i) (ha : s.accesses.find? i = some a) (hf : s.flights.find? a.flight = some f) (hw : f.work = .load d sz sx h va)
    (hv : a.vpoison = false) (hr : f.ref = a.ref) (hj : (s.jobs.find? a.ref.job).isSome = true) :
    ∃ t, execGlobalReadReply s = .next t ∧ t.accesses.find? i = none ∧ s.Completes a.flight f f.flags t ∧ t.mem = s.mem ∧
      (t.strOf a.ref).s = ((s.strOf a.ref).writeData d sz sx (natOf a.value)).s := by
  have hfu : (s.loadReturns i a d sz sx).flights.find? a.flight = some f := by rw [State.loadReturns_flights, hf]
  have hframe := State.finish_frame 0 hfu
  have hdone := (State.finish_completes 0 hfu (by simpa [hr] using hj)).of_late (hr ▸ State.loadReturns_late hj)
  have hregs := congrArg Stream.s hframe.stream
  rw [hr] at hregs
  refine ⟨(s.loadReturns i a d sz sx).finish a.flight 0, ?_, ?_, by simpa using hdone, ?_, ?_⟩
  · rw [execGlobalReadReply, hi, State.reply_load ha hf hw hv]
  · rw [hframe.field State.accesses fun _ => rfl, State.loadReturns_accesses]
    exact Map.find?_erase_self _ _
  · rw [hframe.mem, State.loadReturns_mem]
  · rw [← State.loadReturns_strOf (i := i) hj]
    exact hregs

/-! ### Lines that drain (03 R93) -/

/-- A line whose drain is due leaves its buffer, and its masked bytes are performed at its home. -/
theorem execCombineLineDrain_due {s : State} {l : CombLine} (hm : MemOk s)
    (hl : (s.coreOf s.args.a).combine.find? (fun x => x.line = s.args.b && x.ctx = s.args.c) = some l)
    (hd : l.draining = true ∨ l.since + 4096 ≤ s.now) (hlost : (s.dieOf l.die).lost = false) :
    ∃ t, execCombineLineDrain s = .next t ∧ (∀ x ∈ (t.coreOf s.args.a).combine, ¬(x.line = s.args.b ∧ x.ctx = s.args.c)) ∧
      ∀ x, Memory.get t.mem x =
        if s.fwd (s.args.b * 128) ≤ x ∧ x < s.fwd (s.args.b * 128) + 128 ∧ l.mask.getLsbD (x - s.fwd (s.args.b * 128)) = true then
          l.data.toList.getD (x - s.fwd (s.args.b * 128)) 0 else Memory.get s.mem x := by
  have hdue : (s.coreOf s.args.a).combine.any (fun c => c.line = s.args.b && c.ctx = s.args.c && (c.draining || c.since + 4096 ≤ s.now)) = true := by
    refine List.any_eq_true.mpr ⟨l, List.mem_of_find?_eq_some hl, ?_⟩
    have hx := List.find?_some hl
    simpa [hd] using hx
  have hdrain : s.drainLine s.args.a s.args.b s.args.c = (s.performLine l.die s.args.b l.mask l.data l.poison).modCore s.args.a
      (fun x => { x with combine := x.combine.filter (fun d => !(d.line = s.args.b && d.ctx = s.args.c)) }) := by
    simp only [State.drainLine, hl, hlost, Bool.false_eq_true, if_false]
  refine ⟨(s.drainLine s.args.a s.args.b s.args.c).checkFences, ?_, fun x hx => ?_, fun x => ?_⟩
  · simp only [execCombineLineDrain, hdue, if_true]
  · rw [State.checkFences_combine, hdrain, State.coreOf_modCore_self] at hx
    simpa [-not_and, not_and_or] using (List.mem_filter.mp hx).2
  · rw [State.checkFences_mem, hdrain, State.modCore_mem, State.get_performLine hm]

/-- Settles O39: an access that has its turn takes effect once, by what its operation does at the home; the other clauses are the lemmas above about
their events. -/
theorem accessesPerformed : Obligations.AccessesPerformed := by
  refine ⟨fun s i a hi h hs hb hso hf hl hm => ?turn, fun s c x line h => State.clearWay_mem_of_none h, fun s i a hi h hs hw => ?wait,
    fun s i a hi h hs hk ho hn hff hl hne hc => ?forward, fun s i a f d sz sx h va hi ha hf hw hv hr hj => execGlobalReadReply_load hi ha hf hw hv hr hj,
    fun s c line ctx l hc hline hctx hm hl hd hlost => ?drain⟩
  case turn =>
    obtain ⟨k, ht⟩ := State.access_turn h hs hb hso hf
    have he : exec .globalAccessPerformed s = .next (s.takeEffect i { a with slice := k }).checkFences := by
      rw [← ht, ← hi]; rfl
    obtain ⟨b, hacc, hperf, hop⟩ := s.takeEffect_lists i { a with slice := k }
    have hfind : (s.takeEffect i { a with slice := k }).checkFences.accesses.find? i = some b := by
      rw [State.checkFences_accesses, hacc, Map.find?_set_self]
    refine ⟨fun v ho hv hp => ⟨_, b, he, hfind, hperf, hop, fun x => ?_⟩, fun fmt m w ho hp => ⟨_, b, he, hfind, hperf, hop, fun x => ?_⟩, fun ho hn => ?_⟩
    · rw [State.checkFences_mem]
      exact State.get_takeEffect_write (a := { a with slice := k }) hm ho hl hf (List.length_pos_of_ne_nil hv) hp x
    · rw [State.checkFences_mem]
      exact State.get_takeEffect_add (a := { a with slice := k }) hm ho hl hf hp x
    · obtain ⟨hmem, hread⟩ := State.takeEffect_read (i := i) (a := { a with slice := k }) ho hn hl
      have hr := congrArg (Map.find? · i) ((State.checkFences_accesses _).trans hread)
      exact ⟨_, _, he, (State.checkFences_mem _).trans hmem, hr.trans (Map.find?_set_self _ _ _), rfl, ho, rfl, rfl⟩
  case wait =>
    rw [← hi] at h hw ⊢
    exact congrArg Host.Outcome.next (State.access_waits h hs hw)
  case forward =>
    refine execMigrationForward_read hi h hs hk ho hn hff ?_ hc
    simpa [State.rehome, State.homeAt, hne] using hl
  case drain =>
    subst hc hline hctx
    exact execCombineLineDrain_due hm hl hd hlost

end Sys2Proof.Machine

namespace Sys2Proof.Machine

/-! ### A code comes back from its exact value (04 R119 to R125) -/

/-- The sign bit and the bits under it are the whole code. -/
theorem signBit_add_mod {n c : Nat} (h : c < 2 ^ (n + 1)) : signBit (n + 1) (c.testBit n) + c % 2 ^ n = c := by
  have hc : c % 2 ^ n + 2 ^ n * (c.testBit n).toNat = c := by rw [Nat.toNat_testBit, ← Nat.mod_pow_succ, Nat.mod_eq_of_lt h]
  have hs : signBit (n + 1) (c.testBit n) = 2 ^ n * (c.testBit n).toNat := by cases c.testBit n <;> simp [signBit]
  rw [hs, Nat.add_comm, hc]

theorem alignTo_self (a : Nat) (e : Int) : alignTo a e e = a := by
  simp [alignTo]

theorem cmpMag_self (a : Nat) (e : Int) : cmpMag a e a e = .eq := by
  simp [cmpMag]

/-! #### IEEE-style formats -/

theorem floatFmt_width (fmt : Nat) : (floatFmt fmt).width = (floatFmt fmt).ebits + (floatFmt fmt).fbits + 1 := by
  unfold floatFmt
  split <;> rfl

/-- The infinity is the code of the greatest exponent with fraction 0. -/
theorem infCode_eq {fmt : Nat} (h : (floatFmt fmt).hasInf = true) : fmt ≠ 1 ∧ infCode fmt = (2 ^ (floatFmt fmt).ebits - 1) * 2 ^ (floatFmt fmt).fbits := by
  revert h
  unfold floatFmt infCode
  split <;> simp_all

/-- The fields of a code give it back. -/
theorem code_eq_fields {fmt c : Nat} (h : c < 2 ^ (floatFmt fmt).width) :
    let f := floatFmt fmt
    signBit f.width (c.testBit (f.width - 1)) + (c / 2 ^ f.fbits % 2 ^ f.ebits * 2 ^ f.fbits + c % 2 ^ f.fbits) = c := by
  intro f
  have hlow : c % 2 ^ (f.ebits + f.fbits) = c / 2 ^ f.fbits % 2 ^ f.ebits * 2 ^ f.fbits + c % 2 ^ f.fbits := by
    rw [Nat.add_comm, pow_add, Nat.mod_mul]
    ring
  rw [← hlow, floatFmt_width]
  exact signBit_add_mod (floatFmt_width fmt ▸ h)

/-- Rounding leaves a significand alone that fits its place. -/
theorem roundMag_of_fits {mant p : Nat} {exp emin : Int} (h : mant ≠ 0 → max ((Nat.log2 mant : Int) + exp) emin - p + 1 = exp) :
    roundMag mant exp p emin = (mant, exp) := by
  unfold roundMag
  split
  · next h0 => rw [h0]
  · next h0 => simp only [h h0, le_refl, if_true, alignTo_self]

/-- A value that the rounding leaves alone is converted to its packed code, with no flag. -/
theorem convertFin_of_packed {m : Fmode} {fmt mant code : Nat} {exp : Int} {neg : Bool} (hm : m.flushes fmt = false)
    (hr : roundMag mant exp ((floatFmt fmt).fbits + 1) (1 - (floatFmt fmt).bias) = (mant, exp))
    (hp : packMag (floatFmt fmt) mant exp = some code) :
    convertFin m fmt neg mant exp = (signBit (floatFmt fmt).width neg + code, 0) := by
  simp [convertFin, hr, hp, hm, cmpMag_self]

theorem log2_two_pow_add {n r : Nat} (h : r < 2 ^ n) : Nat.log2 (2 ^ n + r) = n := by
  rw [Nat.log2_eq_iff (by positivity), pow_succ]
  omega

/-- A subnormal value or a zero is packed as its fraction. -/
theorem convertFin_subnormal {m : Fmode} {fmt fr : Nat} {neg : Bool} (hm : m.flushes fmt = false) (hfr : fr < 2 ^ (floatFmt fmt).fbits) :
    convertFin m fmt neg fr (1 - (floatFmt fmt).bias - (floatFmt fmt).fbits) = (signBit (floatFmt fmt).width neg + fr, 0) := by
  have hlog (h0 : fr ≠ 0) : Nat.log2 fr < (floatFmt fmt).fbits := (Nat.log2_lt h0).mpr hfr
  refine convertFin_of_packed hm (roundMag_of_fits fun h0 => ?_) ?_
  · have := hlog h0
    omega
  · unfold packMag
    split
    · next h0 => rw [h0]
    · next h0 =>
      have := hlog h0
      rw [if_pos (by omega), alignTo_self]

/-- A normal value under the format's limit is packed as its biased exponent over its fraction. -/
theorem convertFin_normal {m : Fmode} {fmt ex fr : Nat} {neg : Bool} (hm : m.flushes fmt = false) (hfr : fr < 2 ^ (floatFmt fmt).fbits) (hex : ex ≠ 0)
    (hlim : ex * 2 ^ (floatFmt fmt).fbits + fr < if (floatFmt fmt).hasInf then (2 ^ (floatFmt fmt).ebits - 1) * 2 ^ (floatFmt fmt).fbits
      else 2 ^ ((floatFmt fmt).ebits + (floatFmt fmt).fbits) - 1) :
    convertFin m fmt neg (2 ^ (floatFmt fmt).fbits + fr) ((ex : Int) - (floatFmt fmt).bias - (floatFmt fmt).fbits) =
      (signBit (floatFmt fmt).width neg + (ex * 2 ^ (floatFmt fmt).fbits + fr), 0) := by
  have hlog := log2_two_pow_add hfr
  have h0 : 2 ^ (floatFmt fmt).fbits + fr ≠ 0 := by positivity
  refine convertFin_of_packed hm (roundMag_of_fits fun _ => ?_) ?_
  · rw [hlog]
    omega
  · have hbiased : ((floatFmt fmt).fbits + ((ex : Int) - (floatFmt fmt).bias - (floatFmt fmt).fbits) + (floatFmt fmt).bias).toNat = ex := by omega
    simp only [packMag, hlog, hbiased, le_refl, Nat.sub_self, pow_zero, mul_one, if_true, Nat.add_sub_cancel_left]
    rw [if_neg h0, if_neg (by omega), if_pos hlim]

/-- The fields of a code that is neither an infinity nor a NaN stand under the limit of `packMag`. -/
theorem fields_lt_limit {f : FloatFmt} {ex fr : Nat} (hex : ex < 2 ^ f.ebits) (hfr : fr < 2 ^ f.fbits) (hinf : ¬(ex = 2 ^ f.ebits - 1 ∧ f.hasInf = true))
    (hnan : ¬(ex = 2 ^ f.ebits - 1 ∧ fr = 2 ^ f.fbits - 1)) :
    ex * 2 ^ f.fbits + fr < if f.hasInf then (2 ^ f.ebits - 1) * 2 ^ f.fbits else 2 ^ (f.ebits + f.fbits) - 1 := by
  have htop : (2 ^ f.ebits - 1) * 2 ^ f.fbits + 2 ^ f.fbits = 2 ^ (f.ebits + f.fbits) := by
    rw [← Nat.succ_mul, Nat.succ_eq_add_one, Nat.sub_add_cancel Nat.one_le_two_pow, pow_add]
  have hbelow (h : ex ≠ 2 ^ f.ebits - 1) : ex * 2 ^ f.fbits + 2 ^ f.fbits ≤ (2 ^ f.ebits - 1) * 2 ^ f.fbits := by
    rw [← Nat.succ_mul]
    exact Nat.mul_le_mul_right _ (by omega)
  by_cases hmax : ex = 2 ^ f.ebits - 1
  · subst hmax
    rw [if_neg (by simpa using hinf)]
    omega
  · have := hbelow hmax
    split <;> omega

section
variable {m : Fmode} {fmt : Nat} (hint : isIntFmt fmt = false) (h3 : fmt ≠ 3) (h4 : fmt ≠ 4)
include hint h3 h4

theorem convertNum_fin (neg : Bool) (mant : Nat) (exp : Int) : convertNum m (.fin neg mant exp) fmt = convertFin m fmt neg mant exp := by
  simp [convertNum, hint, h3, h4]

theorem convertNum_inf (hinf : (floatFmt fmt).hasInf = true) (neg : Bool) :
    convertNum m (.inf neg) fmt = (signBit (floatFmt fmt).width neg + (2 ^ (floatFmt fmt).ebits - 1) * 2 ^ (floatFmt fmt).fbits, 0) := by
  obtain ⟨h1, hcode⟩ := infCode_eq hinf
  simp [convertNum, hint, h3, h4, h1, hcode]

/-- Every code of an IEEE-style format that is no NaN comes back from its exact value, unless `FMODE` flushes that format (04 R119, R125). -/
theorem convertNum_decodeF {c : Nat} (hm : m.flushes fmt = false) (hc : c < 2 ^ (floatFmt fmt).width) (hnan : (decodeF fmt c).isNan = false) :
    convertNum m (decodeF fmt c) fmt = (c, 0) := by
  have hfields := code_eq_fields hc
  have hfr : c % 2 ^ (floatFmt fmt).fbits < 2 ^ (floatFmt fmt).fbits := Nat.mod_lt _ (by positivity)
  have hex : c / 2 ^ (floatFmt fmt).fbits % 2 ^ (floatFmt fmt).ebits < 2 ^ (floatFmt fmt).ebits := Nat.mod_lt _ (by positivity)
  revert hnan
  unfold decodeF
  dsimp only at hfields ⊢
  split_ifs with hinf hzero hall hsub <;> intro hnan
  · rw [hzero, Nat.add_zero] at hfields
    rw [convertNum_inf hint h3 h4 hinf.2, ← hinf.1, hfields]
  · cases hnan
  · cases hnan
  · rw [hsub, Nat.zero_mul, Nat.zero_add] at hfields
    rw [convertNum_fin hint h3 h4, convertFin_subnormal hm hfr, hfields]
  · rw [convertNum_fin hint h3 h4, convertFin_normal hm hfr hsub (fields_lt_limit hex hfr hinf hall), hfields]

theorem codeNum_eq_decodeF (c : Nat) : codeNum fmt c = decodeF fmt c := by
  simp [codeNum, fetchNum, Fmode.flushes, hint, h3, h4]

theorem convertNum_codeNum {c : Nat} (hc : c < 2 ^ (floatFmt fmt).width) (hnan : (codeNum fmt c).isNan = false) :
    convertNum 0 (codeNum fmt c) fmt = (c, 0) := by
  rw [codeNum_eq_decodeF hint h3 h4] at hnan ⊢
  exact convertNum_decodeF hint h3 h4 (by simp [Fmode.flushes]) hc hnan

end

/-! #### The order of values -/

/-- The rational number `a · 2^e`. -/
def magVal (a : Nat) (e : Int) : ℚ := a * 2 ^ e

theorem magVal_alignTo {a : Nat} {x e : Int} (h : e ≤ x) : magVal (alignTo a x e) e = magVal a x := by
  have hx : ((x - e).toNat : Int) + e = x := by omega
  rw [magVal, magVal, alignTo, Nat.cast_mul, Nat.cast_pow, Nat.cast_ofNat, mul_assoc, ← zpow_natCast, ← zpow_add₀ two_ne_zero, hx]

/-- Aligned significands stand in the order of the values. -/
theorem alignTo_lt_alignTo {a b : Nat} {x y e : Int} (hx : e ≤ x) (hy : e ≤ y) :
    alignTo a x e < alignTo b y e ↔ magVal a x < magVal b y := by
  rw [← magVal_alignTo hx, ← magVal_alignTo hy, magVal, magVal, mul_lt_mul_iff_left₀ (by positivity), Nat.cast_lt]

theorem cmpMag_eq_lt {a b : Nat} {x y : Int} : cmpMag a x b y = .lt ↔ magVal a x < magVal b y := by
  rw [cmpMag, Nat.compare_eq_lt, alignTo_lt_alignTo (min_le_left x y) (min_le_right x y)]

theorem cmpMag_isLE {a b : Nat} {x y : Int} : (cmpMag a x b y).isLE = true ↔ magVal a x ≤ magVal b y := by
  rw [cmpMag, Nat.isLE_compare, ← not_lt, alignTo_lt_alignTo (min_le_right x y) (min_le_left x y), not_lt]

/-! #### Tapered formats -/

/-- The significand and exponent of a tapered code; zero has significand 0. -/
def taperMag (w m : Nat) : Nat × Int :=
  match decodeT w m with
  | .fin _ a e => (a, e)
  | _ => (0, 0)

theorem taperMag_zero (w : Nat) : taperMag w 0 = (0, 0) := by
  simp [taperMag, decodeT]

/-- The rational value of a magnitude field. -/
def taperVal (w m : Nat) : ℚ := magVal (taperMag w m).1 (taperMag w m).2

/-- A code with a magnitude is its sign on the value of its magnitude field. -/
theorem decodeT_eq_fin {w c : Nat} (h : c % 2 ^ (w - 1) ≠ 0) :
    decodeT w c = .fin (c.testBit (w - 1)) (taperMag w (c % 2 ^ (w - 1))).1 (taperMag w (c % 2 ^ (w - 1))).2 := by
  simp [taperMag, decodeT, h]

/-- Values rise strictly with the magnitude field (04 R121, R122): each is below its successor. -/
def TaperRises (w : Nat) : Prop :=
  ∀ m < 2 ^ (w - 1) - 1, cmpMag (taperMag w m).1 (taperMag w m).2 (taperMag w (m + 1)).1 (taperMag w (m + 1)).2 = .lt

theorem taperRises_T8 : TaperRises 8 := by
  unfold TaperRises
  decide +kernel

theorem taperRises_T6 : TaperRises 6 := by
  unfold TaperRises
  decide +kernel

theorem TaperRises.strictMonoOn {w : Nat} (h : TaperRises w) : StrictMonoOn (taperVal w) (Set.Iic (2 ^ (w - 1) - 1)) :=
  strictMonoOn_Iic_of_lt_succ fun m hm => cmpMag_eq_lt.mp (h m hm)

section
variable {w : Nat} (h : TaperRises w)
include h

/-- As many magnitude fields as stand up to `n` have a value up to that of `n`. -/
theorem TaperRises.count_le {n : Nat} (hn : n < 2 ^ (w - 1) - 1) :
    ((List.range (2 ^ (w - 1) - 1)).filter
      (fun m => (cmpMag (taperMag w m).1 (taperMag w m).2 (taperMag w n).1 (taperMag w n).2).isLE)).length = n + 1 := by
  have hle : ∀ m ∈ List.range (2 ^ (w - 1) - 1),
      (cmpMag (taperMag w m).1 (taperMag w m).2 (taperMag w n).1 (taperMag w n).2).isLE = decide (m < n + 1) := by
    intro m hm
    rw [Bool.eq_iff_iff, cmpMag_isLE, decide_eq_true_iff, Nat.lt_succ_iff]
    exact h.strictMonoOn.le_iff_le (List.mem_range.mp hm).le hn.le
  rw [List.filter_congr hle, ← List.Ico.zero_bot, List.Ico.filter_lt, List.Ico.length]
  omega

theorem TaperRises.mant_ne_zero {n : Nat} (h0 : 0 < n) (hn : n ≤ 2 ^ (w - 1) - 1) : (taperMag w n).1 ≠ 0 := by
  have hlt : taperVal w 0 < taperVal w n := h.strictMonoOn (Nat.zero_le _) hn h0
  intro hz
  simp only [taperVal, taperMag_zero, hz, magVal, Nat.cast_zero, zero_mul, lt_self_iff_false] at hlt

/-- The value of a magnitude field is encoded as the field (04 R123): it is the greatest, or the one below the value and nearer to it than the next. -/
theorem TaperRises.encodeT_fin (neg : Bool) {n : Nat} (h0 : 0 < n) (hn : n ≤ 2 ^ (w - 1) - 1) :
    encodeT w (.fin neg (taperMag w n).1 (taperMag w n).2) = (signBit w neg + n, 0) := by
  unfold encodeT
  dsimp -zeta only
  rw [if_neg (h.mant_ne_zero h0 hn)]
  extract_lets top val t lo hi l r e m
  have hval : val = taperMag w := rfl
  clear_value val
  subst hval
  rcases hn.eq_or_lt with rfl | hlt
  · simp only [t, top, cmpMag_self]
  · have htop : cmpMag (taperMag w n).1 (taperMag w n).2 t.1 t.2 = .lt := cmpMag_eq_lt.mpr (h.strictMonoOn hn (le_refl top) hlt)
    have hlo : lo = n := by rw [← Nat.add_sub_cancel (n := n) (m := 1), ← h.count_le hlt]
    have hnext : alignTo l.1 l.2 e < alignTo r.1 r.2 e :=
      (alignTo_lt_alignTo ((min_le_left _ _).trans (min_le_left _ _)) ((min_le_left _ _).trans (min_le_right _ _))).mpr
        (h.strictMonoOn (hlo ▸ hn) (show lo + 1 ≤ _ by omega) (Nat.lt_succ_self lo))
    have hnear : compare (2 * alignTo (taperMag w n).1 (taperMag w n).2 e) (alignTo l.1 l.2 e + alignTo r.1 r.2 e) = .lt := by
      rw [Nat.compare_eq_lt, show taperMag w n = l from congrArg (taperMag w) hlo.symm]
      omega
    have hm : m = n := by simp only [m, hnear, hlo]
    simp only [htop, hm, h0.ne', if_false]

end

/-- Every tapered code that is not `NV` comes back from its exact value (04 R120, R123). -/
theorem TaperRises.encodeT_decodeT {n c : Nat} (h : TaperRises (n + 1)) (hc : c < 2 ^ (n + 1)) (hnv : (decodeT (n + 1) c).isNan = false) :
    encodeT (n + 1) (decodeT (n + 1) c) = (c, 0) := by
  have hcode := signBit_add_mod hc
  by_cases hmag : c % 2 ^ n = 0
  · rw [hmag] at hcode
    cases hs : c.testBit n
    · have h0 : c = 0 := by simpa [signBit, hs] using hcode.symm
      simp [h0, decodeT, encodeT]
    · simp [decodeT, hmag, hs, Num.isNan] at hnv
  · have hlt : c % 2 ^ n < 2 ^ n := Nat.mod_lt _ (by positivity)
    rw [decodeT_eq_fin hmag]
    simp only [Nat.add_sub_cancel]
    rw [h.encodeT_fin _ (Nat.pos_of_ne_zero hmag) (Nat.le_sub_one_of_lt hlt), hcode]

theorem convertNum_T8 (m : Fmode) (x : Num) : convertNum m x 3 = encodeT 8 x := rfl

theorem convertNum_T6 (m : Fmode) (x : Num) : convertNum m x 4 = encodeT 6 x := rfl

theorem convertNum_codeNum_T8 {c : Nat} (hc : c < 256) (hnv : (codeNum 3 c).isNan = false) : convertNum 0 (codeNum 3 c) 3 = (c, 0) := by
  have hfetch : codeNum 3 c = decodeT 8 c := rfl
  rw [hfetch] at hnv ⊢
  rw [convertNum_T8]
  exact taperRises_T8.encodeT_decodeT hc hnv

theorem convertNum_codeNum_T6 {c : Nat} (hc : c < 64) (hnv : (codeNum 4 c).isNan = false) : convertNum 0 (codeNum 4 c) 4 = (c, 0) := by
  have hfetch : codeNum 4 c = decodeT 6 c := congrArg (decodeT 6) (Nat.mod_eq_of_lt hc)
  rw [hfetch] at hnv ⊢
  rw [convertNum_T6]
  exact taperRises_T6.encodeT_decodeT hc hnv

/-- Settles O16: E4M3 and E5M2 by `convertNum_codeNum` for every IEEE-style format, T8 and T6 by the order of their magnitude fields. -/
theorem narrowFormatsRoundTrip : Obligations.NarrowFormatsRoundTrip := by
  refine List.forall_mem_cons.mpr ⟨?e4m3, List.forall_mem_cons.mpr ⟨?e5m2, List.forall_mem_cons.mpr ⟨?t8, List.forall_mem_singleton.mpr ?t6⟩⟩⟩
  case e4m3 => exact fun c hc hnan => convertNum_codeNum rfl (by decide) (by decide) hc hnan
  case e5m2 => exact fun c hc hnan => convertNum_codeNum rfl (by decide) (by decide) hc hnan
  case t8 => exact fun c hc hnv => convertNum_codeNum_T8 hc hnv
  case t6 => exact fun c hc hnv => convertNum_codeNum_T6 hc hnv

end Sys2Proof.Machine

/-! ### Every instruction's words give it back (O57) -/

namespace Sys2Proof.Laws.RoundTrip

/-- The words of every instruction give it back: a case for each constructor, in the order of the declaration. -/
theorem statement (i : Instr) : Statement i := by
  cases i
  exacts [
    nop _, ext _, notify _, rdv _, semadd _, semwait _, sembase _, sembaseSnap _, semrd _, semrdRel _, bar _, barLaunch _, safept _,
    irrev _, trap _, bkpt _, pseti _, pmovPp _, pmovPs _, pmovSp _, pand _, por _, pxor _, pnot _, punres _, cmp _, cmpImm _, fcmp _,
    vany _, vall _, ptb _, ptbr _, br _, call _, ret _, loop _, loopr _, lexit _, qpush _, qpop _, qpeek _, qpushp _, qpopp _, qlen _,
    add _, addi _, sub _, mul _, mulh _, mulhu _, div _, divu _, rem _, remu _, and _, andi _, or _, ori _, xor _, xori _, shl _, shli _,
    shr _, shri _, sra _, srai _, min _, max _, minu _, maxu _, clz _, ctz _, popc _, sel _, movi _, movhi _, mov _, abs _, bfx _, bfxS _,
    bfi _, lea _, fadd _, fsub _, fmul _, ffma _, fdiv _, fsqrt _, fmin _, fmax _, fabs _, fneg _, fcvt _, fclass _, csrr _, csrw _,
    csrs _, csrc _, rdcyc _, rdptp _, specdepthWrite _, tcfgWrite _, lds _, sts _, ldg _, stg _, xlat _, htestS _, htestP _, hrel _,
    probe _, copyG2s _, copyS2g _, copyS2s _, copy2G2s _, copy2S2g _, copyx _, copyc _, gather _, scatter _, acscpOut _, acscpIn _,
    awinit _, awwait _, awrd _, awrdClr _, fenceRel _, fenceAcq _, sacc _, saccg _, coll _, collst _, fmsend _, fmrecvBind _, fmrecvPop _,
    fmrecvFlt _, wake _, mtopk _, gcfgLd _, gcfgSt _, gcfgMov _, gbase _, gcount _, gcountRow _, gstride _, gfmt _, vadd _, vsub _, vmul _,
    vfma _, vmin _, vmax _, vabs _, vneg _, vexp _, vlog _, vrcp _, vrsq _, vtanh _, vsigm _, vgelu _, vsilu _, vcvt _, vcmp _, vsel _,
    vand _, vor _, vxor _, vshl _, vshr _, vshrA _, vclamp _, vmov _, vfill _, vchain _, vrsum _, vrmax _, vrmin _, vargmax _, vscan _,
    vtopk _, vlse _, vzip _, vunzip _, vperm _, vtrans _, vbcast _, vcompact _, vexpand _, lease _, unlease _, unleaseAcs _, tld _, tst _,
    tzero _, mloadw _, mrows _, mma _, acszero _, bsmm _, task _, taskwait _, taskst _, launch _, launchp _, sld _ _, sldm _ _, sscale _,
    spen _, smask, stopk _, stopp _, sminp _, ssoft, sdraw _, spick _ _, sratio _ _, sresid _, snorm, semit _, semitD _ _, saccept _ _,
    sroll _, sadd _ _ _, saddF _ _ _, ssub _ _ _, ssubF _ _ _, smul _ _ _, smulF _ _ _, scmp _ _ _ _, sjmp _, sjz _ _, sjnz _ _, smovi _ _,
    smoviH _ _, srngSeed _, srngSetseed _, srngCtr _, srngSetctr _, swait _ _ _, send, trapEntry, xlatHandleWrite, walkComplete,
    walkResultExpiry, copyPieceLanding, collectiveComplete, collectiveDeadline, fabricMessageArrival, fabricAckReceived,
    fabricNackReceived, fmBackoffExpiry, arrayRowUpdate, acsAllotmentGrant, arrayArbitration, leaseTermEnd, budgetRefill,
    poolRequestHandled, unassignedOpcode, sectionEnter, sectionRetire, codeFetch, jobPlacement, placementWaitLimit, jobComplete,
    wakeTargetStore, jobPark, preemptRequest, jobPreempted, jobResume, preemptOverrun, globalAccessPerformed, globalReadReply,
    combineLineDrain, saccgUpdate, taskDeadline, passForm, weightBufferRead, passArrayTerm, epilogueChunk, scatterCheck, taskRowPerformed,
    passBackPosition, speculationStart, spoilArrival, claimAttempt, watchFenceArrival, watchFenceAck, shadowLinesPerformed,
    speculationHorizon, samplerLaneGrant, maskHeaderPoll, swaitTimeout, reshardDone, wakeRegisterStore, apertureAccess, reqtailWrite,
    rspheadWrite, klotaResponse, vfFlr, pfFlr, powerOn, bootStage, ringRead, poolGrant, recordLanded, launchStart, prologueRun,
    prologueRepeat, version, resync, partSet, partEntryInForce, vfAssign, uccfgSet, shapeSet, pkgSet, queueCreate, queueDestroy,
    queueQuery, poolCap, mapStage1, mapStage2, mapContextDesc, mapS2Root, unmapStage1, unmapStage2, pinUnpin, pinPin, pinBacking,
    saveresume, ctxReset, shelfLoad, attest, samplerProg, samplerBind, samplerUnbind, vocabLoadImage, vocabLoadService, vocabLoadRing,
    vocabLoadGrammar, telemetry, budgetSet, msgKlotaForward, msgKlotaResponse, msgContextError, msgDecision, msgProbeFault, msgFaultServed,
    msgTaskParked, msgSaveBlocked, msgBudgetChange, msgPartitionChanged, faultService, probeFaultTimeout, accSample, migrationLineCopy,
    migrationSwitch, migrationForward, saveLineFault, saveComplete, saveBlockTimeout, preemptStall, contextFrozenDrained,
    captureBeforeReset, dieLost, hbmUncorrectable, linkCrcReplay, thermalThrottle, thermalShutdown, idleDieGate, cacheWindowClear,
    sliceRequestAccept, hbmRequestArrival, hbmServiceStart, routerGrant, injectionRefill, portInjection, envelopeArrival, tokenise,
    detokeniseToken, finalFrameAccepted, sessionClose, packetAuthFail, weightBeacon, throttleRelease, sessionOpen, ptptDiscipline,
    peerWrite]

end Sys2Proof.Laws.RoundTrip

namespace Sys2Proof.Machine

/-- Settles O57: each instruction's own lemma of `Laws.RoundTrip`. -/
theorem encodeDecode : Obligations.EncodeDecode := Laws.RoundTrip.statement

/-! ### Words written out, and unassigned opcodes (06 R185) -/

/-- A word of an unassigned opcode decodes as illegal with reason 1, whatever stands in the rest of it (06 R185). -/
theorem decodeCommand_unassigned {w : Nat} (hrow : opRow (bitsAt w 86 10) = none) (hext : bitsAt w 86 10 ≠ opcExt) (l : Letter) (w2 : Option Nat) :
    decodeCommand l none w w2 = .error 1 := by
  simp only [decodeCommand, if_neg hext, decodeWord, hrow]

theorem unassigned_length : ((List.range 1024).filter (fun n => (opRow n).isNone && decide (n ≠ opcExt))).length = 842 := by
  decide +kernel

/-- Settles O56: the decoder is run on each word that is written out; for the unassigned opcodes it stops at the opcode map. -/
theorem decodeWords : Obligations.DecodeWords := by
  refine ⟨?add, ?addi, ?cmp, ?loop, ?qpush, ?ffma, ?csrr, ?lds, ?xlat, ?awwait, ?gbase, ?vadd, ?vaddScalar, ?mma, ?taskwait, ?sadd, ?sjmp,
    fun l w w2 hrow hext => decodeCommand_unassigned hrow hext l w2, unassigned_length, ?zero⟩
  all_goals rfl

end Sys2Proof.Machine

namespace Sys2Proof.Machine

/-! ### What the opcode map builds -/

/-- The command that a row builds, if any, ends its stream's cycle: it is no `EXT`, and none of the two events that bring a stream to its command. -/
def EndsCycle (x : Option Instr) : Prop := ∀ i, x = some i → goesOn i = false

theorem endsCycle_none : EndsCycle none := fun _ h => by cases h

theorem endsCycle_some {i : Instr} (h : goesOn i = false) : EndsCycle (some i) := fun _ e => Option.some.inj e ▸ h

theorem endsCycle_map {α : Type} {g : α → Instr} (h : ∀ a, goesOn (g a) = false) (x : Option α) : EndsCycle (x.map g) := by
  cases x with
  | none => exact endsCycle_none
  | some a => exact endsCycle_some (h a)

/-- A line of the opcode map, if there is one, builds only such commands. -/
def RowEndsCycle (x : Option Row) : Prop := ∀ r, x = some r → ∀ c f, EndsCycle (r.build c f)

theorem rowEndsCycle_ite {p : Prop} [Decidable p] {x y : Option Row} (hx : RowEndsCycle x) (hy : RowEndsCycle y) :
    RowEndsCycle (if p then x else y) := by
  split
  · exact hx
  · exact hy

theorem rowEndsCycle_none : RowEndsCycle none := fun _ h => by cases h

theorem rowEndsCycle_some {r : Row} (h : ∀ c f, EndsCycle (r.build c f)) : RowEndsCycle (some r) := fun _ e => Option.some.inj e ▸ h

/-- Each row builds the commands of its own constructors. -/
theorem opRow_endsCycle (k : Nat) : RowEndsCycle (opRow k) := by
  unfold opRow
  repeat' apply rowEndsCycle_ite
  all_goals try exact rowEndsCycle_none
  all_goals refine rowEndsCycle_some fun c f => ?_
  all_goals
    dsimp only [rowN, row3, row2, row1, rowI, rowSh, rowTrap, rowSem, rowSembase, rowSemrd, rowRdv, rowBar, rowPset, rowPmov, rowPPP, rowCmp, rowFcmp,
      rowVote, rowCsr, csrwOf, rowAw, rowV1, rowV2, rowV3, rowVcmp, rowVsel, rowVshr, rowVfill, rowVchain, rowRed, rowVtopk, rowZip, rowG3, rowG2, rowTld]
    repeat' split
  all_goals first | exact endsCycle_none | exact endsCycle_some rfl | exact endsCycle_map (fun _ => rfl) _

theorem goesOn_of_decodeWord {l : Letter} {ext w2 : Option Nat} {w : Nat} {i : Instr} (h : decodeWord l ext w w2 = .ok i) : goesOn i = false := by
  unfold decodeWord at h
  split at h
  · cases h
  next r hr =>
    have hends := opRow_endsCycle _ _ hr
    extract_lets second f c at h
    iterate 4 replace h := (ite_eq_iff.mp h).resolve_left (fun h => by cases h.2) |>.2
    split at h
    · cases h
    next j hj =>
      cases h
      exact hends _ _ _ hj

/-- Of the words of a stream only an `EXT` leaves the cycle to the command after it (06 R180). -/
theorem decodeCommand_ext_or {l : Letter} {ext : Option Word} {w : Nat} {w2 : Option Nat} {i : Instr} (h : decodeCommand l ext w w2 = .ok i) :
    (∃ v, i = .ext v) ∨ goesOn i = false := by
  unfold decodeCommand at h
  split at h
  · exact .inr (goesOn_of_decodeWord h)
  · split at h
    · unfold decodeExt at h
      extract_lets bad at h
      repeat' split at h
      all_goals cases h
      exact .inl ⟨_, rfl⟩
    · exact .inr (goesOn_of_decodeWord h)

/-! ### A stream at its command -/

theorem State.startsAt_congr {s t : State} (h : s.codeAt = t.codeAt) (j : Job) (fuel a b : Nat) : s.startsAt j fuel a b = t.startsAt j fuel a b := by
  induction fuel generalizing a with
  | zero => rfl
  | succ n ih => simp only [State.startsAt, h, ih]

theorem State.commandsFrom_congr {s t : State} (h : s.codeAt = t.codeAt) (j : Job) (x : Section) (fuel a : Nat) :
    s.commandsFrom j x fuel a = t.commandsFrom j x fuel a := by
  induction fuel generalizing a with
  | zero => rfl
  | succ n ih => simp only [State.commandsFrom, h, ih]

theorem State.placeBad_congr {s t : State} (h : s.codeAt = t.codeAt) (j : Job) (u : Stream) (x : Section) (i : Instr) (a n : Nat) :
    s.placeBad j u x i a n = t.placeBad j u x i a n := by
  simp only [State.placeBad, State.isStart, State.startsAt_congr h, State.commandsFrom_congr h]

/-- Where a stream stands does not depend on which stream runs. -/
theorem State.AtCommand.withCur {s : State} {r : Ref} {x : Section} {w : Nat} {w2 : Option Nat} (h : s.AtCommand r x w w2) (q : Ref) (g : Args) :
    State.AtCommand { s with cur := q, args := g } r x w w2 := { h with }

theorem State.MayStand.withCur {s : State} {r : Ref} {x : Section} {w : Nat} {w2 : Option Nat} {i : Instr} (h : s.MayStand r x w w2 i) (q : Ref)
    (g : Args) : State.MayStand { s with cur := q, args := g } r x w w2 i where
  place hw := (State.placeBad_congr (s := { s with cur := q, args := g }) (t := s) rfl _ _ _ _ _ _).trans (h.place hw)
  last := h.last
  prologue := h.prologue

theorem wordsOf_eq (w : Nat) : wordsOf w = 1 ∨ wordsOf w = 2 := by
  unfold wordsOf
  split
  · exact .inr rfl
  · exact .inl rfl

/-- A word that decodes as a command has an assigned opcode. -/
theorem assigned_of_decodeCommand {l : Letter} {ext : Option Word} {w : Nat} {w2 : Option Nat} {i : Instr} (h : decodeCommand l ext w w2 = .ok i) :
    ((opRow (opcOf w)).isNone && decide (opcOf w ≠ opcExt)) = false := by
  have hrow : ∀ e w2, decodeWord l e w w2 = .ok i → (opRow (opcOf w)).isNone = false := fun e w2 h => by
    unfold opcOf
    cases hr : opRow (bitsAt w 86 10) with
    | some r => rfl
    | none => simp only [decodeWord, hr] at h; cases h
  rw [Bool.and_eq_false_iff]
  cases ext with
  | some v => exact .inl (hrow _ _ h)
  | none =>
    by_cases hw : opcOf w = opcExt
    · exact .inr (by simp [hw])
    · exact .inl (hrow _ _ (by simpa only [decodeCommand, if_neg (show bitsAt w 86 10 ≠ opcExt from hw)] using h))

/-- A stream holds a second word exactly of a command of two words that no `EXT` precedes (06 R180). -/
theorem State.AtCommand.two_words {s : State} {r : Ref} {x : Section} {w : Nat} {w2 : Option Nat} (h : s.AtCommand r x w w2) :
    ((s.strOf r).ext.isNone && decide (wordsOf w = 2)) = w2.isSome := by
  cases hx : (s.strOf r).ext with
  | some v => rw [h.one (.inl (by rw [hx]; rfl))]; rfl
  | none =>
    rcases wordsOf_eq w with hw | hw
    · rw [h.one (.inr hw), hw]; rfl
    · rw [(h.two hx hw).2.1, hw]; rfl

theorem State.AtCommand.second {s : State} {r : Ref} {x : Section} {w v : Nat} (h : s.AtCommand r x w (some v)) :
    (s.strOf r).pc.toNat + 24 ≤ x.stop ∧ s.codeAt (s.jobOf r.job) ((s.strOf r).pc.toNat + 12) 12 = some v := by
  have htwo := h.two_words
  simp only [Option.isSome_some, Bool.and_eq_true, Option.isNone_iff_eq_none, decide_eq_true_eq] at htwo
  obtain ⟨hfits, -, hv⟩ := h.two htwo.1 htwo.2
  exact ⟨hfits, hv⟩

/-- At its queue head a stream runs the command that its words decode to (06 R177, R181). -/
theorem State.AtCommand.headTodo {s : State} {r : Ref} {x : Section} {w : Nat} {w2 : Option Nat} {i : Instr} (h : s.AtCommand r x w w2)
    (hd : decodeCommand r.letter (s.strOf r).ext w w2 = .ok i) (hm : s.MayStand r x w w2 i) :
    s.headTodo r (s.jobOf r.job) (s.strOf r) x = .run i {} := by
  have hassigned := assigned_of_decodeCommand hd
  have htwo := h.two_words
  have hplace : (decide (opcOf w ≠ opcExt) && s.placeBad (s.jobOf r.job) (s.strOf r) x i (s.strOf r).cmdStart.toNat
      ((s.strOf r).pc.toNat + if (w2.isSome && decide (opcOf w ≠ opcExt)) = true then 24 else 12)) = false := by
    by_cases hw : opcOf w = opcExt
    · simp [hw]
    · simpa [hw] using hm.place hw
  have hlast : (decide (opcOf w ≠ opcExt) && endBad x i
      ((s.strOf r).pc.toNat + if (w2.isSome && decide (opcOf w ≠ opcExt)) = true then 24 else 12)) = false := by
    by_cases hw : opcOf w = opcExt
    · simp [hw]
    · simpa [hw] using hm.last hw
  have hpro : ((s.jobOf r.job).prologue && (!prologueOk i || decide (4096 ≤ (s.jobOf r.job).executed))) = false := by
    by_cases hp : (s.jobOf r.job).prologue = true
    · simp [hm.prologue hp]
    · simp [hp]
  have hheld := h.held
  cases w2 with
  | none =>
    simp only [Option.isSome_none, Bool.false_and, Bool.false_eq_true, if_false] at hheld hplace hlast
    simp only [State.headTodo, h.word, htwo, hheld, hassigned, hd, hplace, hlast, hpro, Option.isSome_none, Bool.false_and, Bool.false_eq_true, if_false]
  | some v =>
    obtain ⟨hfits, hv⟩ := h.second
    simp only [Option.isSome_some, Bool.true_and, if_true] at hheld hplace hlast
    simp only [State.headTodo, h.word, htwo, hfits, hv, hheld, hassigned, hd, hplace, hlast, hpro, Option.isSome_some, Option.isNone_some, Bool.true_and,
      decide_true, Bool.and_false, Bool.false_eq_true, if_true, if_false]

/-- A stream that stands at a command does nothing before it: no pre-emption, trap, wait or entry comes first. -/
theorem State.AtCommand.todo {s : State} {r : Ref} {x : Section} {w : Nat} {w2 : Option Nat} {i : Instr} (h : s.AtCommand r x w w2)
    (hd : decodeCommand r.letter (s.strOf r).ext w w2 = .ok i) (hm : s.MayStand r x w w2 i) : s.todo r = .run i {} := by
  have hgap : ((s.jobOf r.job).preempt.isSome && (s.jobOf r.job).spec.isNone && decide ((s.jobOf r.job).gapMax + 4096 < (s.strOf r).gap)) = false := by
    rcases h.overrun with h | h | h
    · simp [h]
    · simp [Option.isNone_iff_eq_none, Option.isSome_iff_ne_none.mp h]
    · simp [Nat.not_lt.mpr h]
  have htrap : (!(s.strOf r).traps.isEmpty && (s.strOf r).slot.isNone) = false := by
    rcases h.traps with h | h <;> simp [h]
  have hpoint : ((s.jobOf r.job).preempt.isSome && hdrPrept x.hdr && decide ((s.strOf r).issued = (s.strOf r).entered)) = false := by
    rcases h.point with h | h | h <;> simp [h]
  have hhead := h.headTodo hd hm
  obtain ⟨honCore, hfrozen, hparking, herror, hended, hstopped, hpaused, hready, hentering, -, -, -, hsect, -⟩ := h
  unfold State.strOf at hgap htrap hpoint hhead hended hstopped hpaused hready hentering hsect
  simp only [State.todo, honCore, hfrozen, hparking, herror, hended, hstopped, hpaused, hentering, hsect, hgap, htrap, hpoint, Nat.not_lt.mpr hready,
    hhead, Bool.not_true, Option.isNone_none, Bool.true_or, Bool.or_self, Bool.and_true, Bool.false_eq_true, if_false]

/-- The turn of a stream that stands at a command runs it; the stream's next turn is in the next cycle, an `EXT`'s still in this one. -/
theorem State.AtCommand.turn {s : State} {r : Ref} {x : Section} {w : Nat} {w2 : Option Nat} {i : Instr} (h : s.AtCommand r x w w2)
    (hd : decodeCommand r.letter (s.strOf r).ext w w2 = .ok i) (hm : s.MayStand r x w w2 i) : s.turn r = .run i (s.onTurn r i) := by
  have htodo : State.todo { s with cur := r, args := {} } r = .run i {} := (h.withCur r {}).todo hd (hm.withCur r {})
  have hgo : (if goesOn i then State.again { s with cur := r, args := {} } r else State.poll { s with cur := r, args := {} } r) = s.onTurn r i := by
    rcases decodeCommand_ext_or hd with ⟨v, rfl⟩ | hi
    · rfl
    · rw [hi]
      cases i with
      | ext v => cases hi
      | _ => rfl
  have hended : ((s.jobOf r.job).stream r.letter).ended = false := h.ended
  have hstopped : ((s.jobOf r.job).stream r.letter).stopped = false := h.stopped
  simp only [State.turn, h.onCore, hended, hstopped, htodo, hgo, Bool.not_true, Bool.or_self, Bool.false_eq_true, if_false]

/-- A lane that runs, with words left, runs the word at its PC (12 R343). -/
theorem State.laneTurn_eq {s : State} {d c : Nat} {i : Instr} (hr : (s.sctxOf d c).state = .running) (hpc : (s.sctxOf d c).pc < 16384)
    (hd : decodeSampler ((s.dieOf d).sampler.words.getD (s.sctxOf d c).pc 0).toNat = some i) :
    s.laneTurn d c = .run i { s with lane := (d, c), args := {} } := by
  have htodo : s.laneTodo d c = .run i {} := by
    simp only [State.laneTodo, hr, hd, Nat.not_le.mpr hpc, ne_eq, not_true, if_false]
  simp only [State.laneTurn, htodo]

/-- A step does what is planned of the move that comes first. -/
theorem step_of_choose {s : State} {e : Entry} (h : s.choose = some e) : step s = match (s.taken e).planOf e.move with
    | .go t => .next t
    | .run i t => exec i t := by
  simp only [step, State.plan, h]
  rfl

/-- Settles O55: a stream that stands at a command plans to run it, by `State.AtCommand.turn`; every other move is planned as it stands. -/
theorem stepRunsDecoded : Obligations.StepRunsDecoded := by
  refine ⟨?stream, ?lane, ?event, ?finish, ?own, ?clock⟩
  case stream =>
    intro s e r x w w2 i he hm h hd hs
    rw [step_of_choose he, hm, State.planOf, h.turn hd hs]
  case lane =>
    intro s e d c i he hm hr hpc hd
    rw [step_of_choose he, hm, State.planOf, State.laneTurn_eq (s := s.taken e) hr hpc hd]
  case event =>
    intro s e i g he hm
    rw [step_of_choose he, hm, State.planOf]
  case finish =>
    intro s e k he hm
    rw [step_of_choose he, hm, State.planOf]
  case own =>
    intro s e he
    refine ⟨fun k hm => ?_, fun c hm => ?_, fun c x hm => ?_, fun k hm => ?_, fun k hm => ?_⟩
    all_goals rw [step_of_choose he, hm, State.planOf]
  case clock =>
    intro s he
    simp only [step, State.plan, he]

end Sys2Proof.Machine

namespace Sys2Proof.Machine

/-! ### Every instruction has a meaning in every state (O58) -/

/-- A bus master's write is performed at its home, or reaches past the package (00, Physical address). -/
theorem execPeerWrite_cases (s : State) : (∃ t, execPeerWrite s = .next t) ∨
    2 ^ 40 < s.args.b + s.args.data.length ∧ execPeerWrite s = .fault (.noSuchAddress s.args.b) := by
  unfold execPeerWrite
  dsimp only
  split
  next h => exact .inr ⟨h, rfl⟩
  next => exact .inl ⟨_, rfl⟩

/-- An uncorrectable error poisons its line, or is reported past the package (00, Physical address). -/
theorem execHbmUncorrectable_cases (s : State) : (∃ t, execHbmUncorrectable s = .next t) ∨
    2 ^ 40 ≤ s.args.a ∧ execHbmUncorrectable s = .fault (.noSuchAddress s.args.a) := by
  unfold execHbmUncorrectable
  dsimp only
  split
  next h => exact .inr ⟨h, rfl⟩
  next => exact .inl ⟨_, rfl⟩

/-- Settles O58: but for the two events that check an address, the meaning of an instruction is by its definition a next state. -/
theorem everyInstructionCompletes : Obligations.EveryInstructionCompletes := by
  intro i s
  cases i with
  | peerWrite => exact (execPeerWrite_cases s).imp_right fun h => .inl ⟨rfl, h⟩
  | hbmUncorrectable => exact (execHbmUncorrectable_cases s).imp_right fun h => .inr ⟨rfl, h⟩
  | _ => exact .inl ⟨_, rfl⟩

end Sys2Proof.Machine

namespace Sys2Proof.Machine

/-! ### The end of a cycle (06 R177, 07 R199) -/

/-- Each stream's letter, with those before it and those after it (07 R199: A, M, V, X). -/
theorem letters_split (l : Letter) : ∃ before after, letters = before ++ l :: after ∧ ∀ k ∈ after, letterNum l < letterNum k := by
  cases l with
  | a => exact ⟨[], [.m, .v, .x], rfl, by decide⟩
  | m => exact ⟨[.a], [.v, .x], rfl, by decide⟩
  | v => exact ⟨[.a, .m], [.x], rfl, by decide⟩
  | x => exact ⟨[.a, .m, .v], [], rfl, by decide⟩

/-- The last entry that satisfies `p`, with what stands before and after it. -/
theorem split_of_getLast?_filter {α : Type} {p : α → Bool} {l : List α} {x : α} (h : (l.filter p).getLast? = some x) :
    ∃ a b, l = a ++ x :: b ∧ ∀ y ∈ b, ¬ p y = true := by
  obtain ⟨ys, hys⟩ := List.getLast?_eq_some_iff.mp h
  obtain ⟨a, r, rfl, -, hr⟩ := List.filter_eq_append_iff.mp hys
  obtain ⟨m, b, rfl, -, -, hb⟩ := List.filter_eq_cons_iff.mp hr
  exact ⟨a ++ m, b, by simp, List.filter_eq_nil_iff.mp hb⟩

/-- A stream's predicate writes of a cycle, in time order. -/
def Late.writesOf (t : Late) (k : Letter) : List (PReg × Option Bool) := (t.preds.filter (fun e => e.1 = k)).map (·.2)

theorem Late.predsInOrder_eq (t : Late) : t.predsInOrder = (letters.map t.writesOf).flatten := rfl

theorem Late.mem_writesOf {t : Late} {k : Letter} {e : PReg × Option Bool} : e ∈ t.writesOf k ↔ (k, e) ∈ t.preds := by
  simp [Late.writesOf]

theorem Late.mem_of_mem_predsInOrder {t : Late} {e : PReg × Option Bool} (h : e ∈ t.predsInOrder) : ∃ k, (k, e) ∈ t.preds := by
  obtain ⟨_, hw, he⟩ := List.mem_flatten.mp (t.predsInOrder_eq ▸ h)
  obtain ⟨k, -, rfl⟩ := List.mem_map.mp hw
  exact ⟨k, Late.mem_writesOf.mp he⟩

/-- The last write of a predicate by one stream comes after that stream's other writes of it. -/
theorem Late.writesOf_last {t : Late} {p : PReg} {l : Letter} {v : Option Bool}
    (h : (t.preds.filter (fun e => e.1 = l && e.2.1 = p)).getLast? = some (l, p, v)) :
    ∃ a b, t.writesOf l = a ++ (p, v) :: b ∧ ∀ e ∈ b, e.1 ≠ p := by
  obtain ⟨a, b, hpreds, hb⟩ := split_of_getLast?_filter h
  refine ⟨(a.filter (fun e => e.1 = l)).map (·.2), (b.filter (fun e => e.1 = l)).map (·.2), by simp [Late.writesOf, hpreds], fun e he hp => ?_⟩
  obtain ⟨x, hx, rfl⟩ := List.mem_map.mp he
  obtain ⟨hmem, hl⟩ := List.mem_filter.mp hx
  exact hb x hmem (by simpa [hp] using hl)

/-- The last write of a predicate by the last stream that writes it comes after every other write of it. -/
theorem Late.predsInOrder_last {t : Late} {p : PReg} {l : Letter} {v : Option Bool} (hle : ∀ e ∈ t.preds, e.2.1 = p → letterNum e.1 ≤ letterNum l)
    (hlast : (t.preds.filter (fun e => e.1 = l && e.2.1 = p)).getLast? = some (l, p, v)) :
    ∃ a b, t.predsInOrder = a ++ (p, v) :: b ∧ ∀ e ∈ b, e.1 ≠ p := by
  obtain ⟨before, after, hletters, hafter⟩ := letters_split l
  obtain ⟨a, b, hl, hb⟩ := Late.writesOf_last hlast
  refine ⟨(before.map t.writesOf).flatten ++ a, b ++ (after.map t.writesOf).flatten, by simp [Late.predsInOrder_eq, hletters, hl], fun e he hp => ?_⟩
  rcases List.mem_append.mp he with he | he
  · exact hb e he hp
  · obtain ⟨_, hw, he⟩ := List.mem_flatten.mp he
    obtain ⟨k, hk, rfl⟩ := List.mem_map.mp hw
    exact absurd (hle _ (Late.mem_writesOf.mp he) hp) (Nat.not_le.mpr (hafter k hk))

theorem Job.settle_fstat (j : Job) : j.settle.fstat = j.fstat ||| j.late.flags := by
  unfold Job.settle
  simp only
  rw [Job.foldl_keep (fun j => j.fstat) (fun j (e : QReg × Word) => j.applyPush e.1 e.2) (fun _ _ => rfl),
    Job.foldl_keep (fun j => j.fstat) (fun j (e : PReg × Option Bool) => j.applyPred e.1 e.2)
      (fun j e => Job.applyPred_keep (fun j => j.fstat) (fun _ _ _ => rfl) j e.1 e.2),
    Job.foldl_keep (fun j => j.fstat) (fun j (e : BitVec 8 × BitVec 32) => j.applyWb e.1 e.2) (fun _ _ => rfl),
    Job.foldl_keep (fun j => j.fstat) (fun j (e : BitVec 8 × BitVec 32) => j.applySig e.1 e.2) (fun _ _ => rfl)]

theorem State.tick_now (s : State) : s.tick.now = s.now + 1 := by
  unfold State.tick State.upset
  dsimp only
  repeat' split
  all_goals rfl

/-- Settles O6: each part is the lemma on what settling a cycle does to that field; the predicate's last write is found by `Late.predsInOrder_last`. -/
theorem cycleEnd : Obligations.CycleEnd := by
  intro s k j hj
  have hlate : (j.noteTrap s.now).late = j.late := Job.noteTrap_keep (·.late) (fun _ _ => rfl) j s.now
  have hsems : (j.noteTrap s.now).sems = j.sems := Job.noteTrap_keep (·.sems) (fun _ _ => rfl) j s.now
  have hfstat : (j.noteTrap s.now).fstat = j.fstat := Job.noteTrap_keep (·.fstat) (fun _ _ => rfl) j s.now
  have hqueues : (j.noteTrap s.now).queues = j.queues := Job.noteTrap_keep (·.queues) (fun _ _ => rfl) j s.now
  have hpred : (j.noteTrap s.now).pred = j.pred := Job.noteTrap_keep (·.pred) (fun _ _ => rfl) j s.now
  have hresolved : (j.noteTrap s.now).resolved = j.resolved := Job.noteTrap_keep (·.resolved) (fun _ _ => rfl) j s.now
  rw [State.jobOf_tick hj, ← hlate, ← hsems, ← hfstat, ← hqueues, ← hpred, ← hresolved]
  refine ⟨s.tick_now, fun i hw => Job.settle_sems _ i hw, Job.settle_fstat _, fun p l v hp hle hlast => ?_, fun p hno => Job.settle_pred_ne fun e he => ?_,
    fun q => Job.settle_queues _ q, rfl⟩
  · obtain ⟨a, b, hsplit, hb⟩ := Late.predsInOrder_last hle hlast
    obtain ⟨hval, hres⟩ := Job.settle_pred hsplit hb hp
    exact ⟨fun x hx => ⟨hval x hx, by rw [hres, hx]; rfl⟩, fun hx => by rw [hres, hx]; rfl⟩
  · obtain ⟨k, hk⟩ := Late.mem_of_mem_predsInOrder he
    exact hno _ hk

/-! ### A false guard (06 R177) -/

theorem State.Live.issues {s : State} (h : s.Live) : s.job.issues s.cur.letter s.now = true := by
  obtain ⟨honCore, hfrozen, hparking, herror, hended, hstopped, hpaused, hentering, -, -⟩ := h
  unfold State.st State.strOf at hended hstopped hpaused hentering
  simp only [State.job] at *
  simp [Job.issues, honCore, hfrozen, hparking, herror, hended, hstopped, hpaused, hentering]

/-- A command whose guard is false, and whose signal no pending fence holds back, is discarded whatever it reads or writes. -/
theorem State.gate_off {s : State} {c : Ctl} (h : s.Live) (hd : s.st.issued ≠ s.st.entered ∨ s.job.depsMet s.cur.letter = true)
    (hw : s.job.ctlWait c = true) (hk : s.guardKnown c = true) (hg : s.job.guardTrue c = false) (hb : s.st.begun = false)
    (hf : s.fenced s.cur c.sig.isSome false = false) (u : Use) : s.gate c u = .off := by
  have hdeps : (decide (s.st.issued = s.st.entered) && !s.job.depsMet s.cur.letter) = false := by
    rcases hd with h | h <;> simp [h]
  simp only [State.gate, h.issues, h.probed, Nat.not_lt.mpr h.ready, hb, hw, hk, hg, hf, hdeps, Bool.not_true, Bool.not_false, Bool.true_and, Bool.and_false,
    Bool.or_self, decide_false, Bool.false_eq_true, if_false, if_true]

/-- Settles O12: the gate answers `off`, which sends the signal and moves on. -/
theorem guardFalse : Obligations.GuardFalse := by
  intro c u f s h hd hw hk hg hb hf hs
  have hp : s.pausesAt (.done s 0) = false := by
    cases hq : s.job.spec.isSome with
    | false => simp [State.pausesAt, hq]
    | true => simp [State.pausesAt, hs hq]
  refine ⟨_, by simp only [command, State.run, State.gate_off h hd hw hk hg hb hf, hp]; rfl, ?_⟩
  exact State.done_of_complete rfl h.listed

end Sys2Proof.Machine

namespace Sys2Proof.Machine

/-! ### How a stream comes to its commands (06 R174, R185, R526; 07 R197; 09 R246) -/

/-- An `EXT` keeps its value for the command after it. -/
theorem execExt_keeps {v : Word} {s : State} (h : (s.jobs.find? s.cur.job).isSome = true) :
    ∃ t, exec (.ext v) s = .next t ∧ t.st.ext = some v ∧ t.st.pc = s.st.pc + 12 ∧ t.st.aside = s.st.aside ∧ t.mem = s.mem := by
  have hst : (s.modSt (fun t => { t with ext := some v, pc := t.pc + 12 })).st = { s.st with ext := some v, pc := s.st.pc + 12 } := by
    unfold State.st
    rw [State.modSt_cur]
    exact State.strOf_modRef_self s _ h
  exact ⟨_, rfl, by rw [hst], by rw [hst], by rw [hst]; rfl, State.modSt_mem _ _⟩

theorem Job.code_setStream (j : Job) (l : Letter) (t : Stream) : (j.setStream l t).code = j.code := by cases l <;> rfl

/-- A fetched line is in the code buffer, and the stream goes on no earlier (06 R526). -/
theorem execCodeFetch_fetches {s : State} {b : List Byte} (hk : (s.jobs.find? s.args.ref.job).isSome = true)
    (hb : s.codeLine (s.jobOf s.args.ref.job).ctx s.args.a = some b) :
    ∃ t, exec .codeFetch s = .next t ∧ (t.jobOf s.args.ref.job).code = (s.jobOf s.args.ref.job).code ++ [⟨s.args.a, b⟩] ∧
      s.now ≤ (t.strOf s.args.ref).readyAt ∧ t.mem = s.mem := by
  refine ⟨_, rfl, ?_⟩
  simp only [hb]
  generalize (s.walk (s.jobOf s.args.ref.job).ctx (s.jobOf s.args.ref.job).vf (s.args.a * 128)).2 = ks
  generalize (s.jobOf s.args.ref.job).spec.isSome = spec
  have hk1 : ((s.markAcc ks spec).jobs.find? s.args.ref.job).isSome = true := by simpa using hk
  refine ⟨?_, ?_, by simp⟩
  · rw [State.draw_jobOf, State.jobOf_modRef_self _ _ (by simpa using hk), Job.code_setStream, State.jobOf_modJob_self _ _ hk1, State.markAcc_jobOf]
  · rw [State.draw_strOf, State.strOf_modRef_self _ _ (by simpa using hk)]
    exact (Nat.le_add_right _ _).trans (Nat.le_max_right _ _)

/-- The stream in the section that it enters, whose header is `h`: `before` says that its job has a pre-emption pending. A stream that resumes goes on
in its section (01 R40). -/
def Stream.intoSection (t : Stream) (now : Nat) (before : Bool) (e : Entering) (h : BitVec 64) : Stream :=
  { t with
    pc := e.first, entering := none, sect := some ⟨e.base, h⟩
    entered := if e.start && t.sect.isSome then t.entered else t.issued
    visit := if e.start && t.sect.isSome then t.visit else t.visit + 1
    gap := if hdrPrept h && !(e.start && t.sect.isSome) then 0 else t.gap
    readyAt := if e.start then now + 4 else t.readyAt
    stopped := hdrPrept h && before && (!(e.start && t.sect.isSome) || t.issued = t.entered) }

/-- A good header makes the section the stream's own (06 R174). -/
theorem State.enterSection_good {s : State} {r : Ref} {e : Entering} {w : Nat} (hw : s.codeAt (s.jobOf r.job) e.base.toNat 8 = some w)
    (hbad : hdrBad (BitVec.ofNat 64 w) e.fall = false) (ha : e.base.toNat % 16 = 0) :
    s.enterSection r e = s.modRef r (fun t => t.intoSection s.now (s.jobOf r.job).preempt.isSome e (BitVec.ofNat 64 w)) := by
  simp only [State.enterSection, hw, hbad, ha, ne_eq, not_true, Bool.false_eq_true, if_false]
  rfl

theorem execSectionEnter_enters {s : State} {e : Entering} {w : Nat} (he : (s.strOf s.args.ref).entering = some e)
    (hw : s.codeAt (s.jobOf s.args.ref.job) e.base.toNat 8 = some w) (hbad : hdrBad (BitVec.ofNat 64 w) e.fall = false) (ha : e.base.toNat % 16 = 0) :
    exec .sectionEnter s = .next (s.modRef s.args.ref
      (fun t => t.intoSection s.now (s.jobOf s.args.ref.job).preempt.isSome e (BitVec.ofNat 64 w))) := by
  have h : exec .sectionEnter s = .next (match (s.strOf s.args.ref).entering with
    | none => s
    | some e => s.enterSection s.args.ref e) := rfl
  rw [h, he]
  exact congrArg _ (State.enterSection_good hw hbad ha)

/-! Retirement (06 R174) -/

theorem State.retireLeft_waits {s : State} {r : Ref} {v : Nat} {n : BitVec 12} {rest : List (Nat × BitVec 12)} {f : Nat × Flight} (hl : (s.strOf r).left = (v, n) :: rest)
    (hf : f ∈ s.flights) (hr : f.2.ref = r) (hv : f.2.visit = v) (fuel : Nat) : s.retireLeft r fuel = s := by
  have hany : s.flights.any (fun f => f.2.ref = r && f.2.visit = v) = true := List.any_eq_true.mpr ⟨f, hf, by simp [hr, hv]⟩
  cases fuel with
  | zero => rfl
  | succ k => simp only [State.retireLeft, hl, hany, if_true]

/-- With none of its commands in flight, a stream's sections that it has left all retire, the one left last being the last to do so. -/
theorem State.retireLeft_all {r : Ref} {v : Nat} {n : BitVec 12} : ∀ (pre : List (Nat × BitVec 12)) (s : State), (s.jobs.find? r.job).isSome = true →
    (∀ f ∈ s.flights, f.2.ref ≠ r) → (s.strOf r).left = pre ++ [(v, n)] →
    (s.retireLeft r (pre.length + 1)).strOf r = { s.strOf r with left := [], retired := some n }
  | [], s, hk, hf, hl => by
    have hany : s.flights.any (fun f => f.2.ref = r && f.2.visit = v) = false := by simpa using fun a f h hr => absurd hr (hf (a, f) h)
    simp only [State.retireLeft, hl, List.nil_append, hany, Bool.false_eq_true, if_false]
    exact State.strOf_modRef_self s _ hk
  | (v', n') :: pre, s, hk, hf, hl => by
    have hany : s.flights.any (fun f => f.2.ref = r && f.2.visit = v') = false := by simpa using fun a f h hr => absurd hr (hf (a, f) h)
    have hst := State.strOf_modRef_self s (fun t => { t with left := pre ++ [(v, n)], retired := some n' }) hk
    have ih := State.retireLeft_all pre (s.modRef r (fun t => { t with left := pre ++ [(v, n)], retired := some n' })) (by simpa using hk)
      (by simpa using hf) (by rw [hst])
    rw [hst] at ih
    simp only [State.retireLeft, hl, List.cons_append, hany, Bool.false_eq_true, if_false]
    exact ih

/-! Trap entry (07 R197) -/

/-- Where a stream lands is its pc and the section that it enters next. -/
theorem Stream.land_eq (t : Stream) (g : Word) : ∃ e l x, t.land g = { t with pc := g, entering := e, left := l, sect := x } := by
  unfold Stream.land Stream.leaveSection
  repeat' split
  all_goals exact ⟨_, _, _, rfl⟩

/-- `TCAUSE` of a handler that runs (07 R195): ACTIVE, the cause and its information. -/
theorem tcause_eq (c : Cause) (i : BitVec 32) :
    (1#64 <<< 63) ||| (BitVec.ofNat 64 c.code <<< 32) ||| i.setWidth 64 = BitVec.ofNat 64 (2 ^ 63 + c.code * 2 ^ 32 + i.toNat) := by
  have hi := i.isLt
  have hc : c.code < 8 := by cases c <;> decide
  have hhigh : (1#64 <<< 63 ||| BitVec.ofNat 64 c.code <<< 32).toNat = 2 ^ 32 * (2 ^ 31 + c.code) := by cases c <;> rfl
  refine BitVec.eq_of_toNat_eq ?_
  rw [BitVec.toNat_or, hhigh, BitVec.toNat_setWidth_of_le (by decide), ← Nat.two_pow_add_eq_or_of_lt hi, BitVec.toNat_ofNat, Nat.mod_eq_of_lt (by omega)]
  ring

theorem Cause.code_ne_zero (c : Cause) : c.code ≠ 0 := by cases c <;> decide

theorem Stream.enterTrap_eq (t : Stream) (now : Nat) (p : PendingTrap) (rest : List PendingTrap) :
    ∃ e l x, t.enterTrap now p rest = { t with
      traps := rest, ext := none, begun := false, awaits := none, tret := (t.cmdStart.setWidth 48).setWidth 64
      tcause := BitVec.ofNat 64 (2 ^ 63 + p.cause.code * 2 ^ 32 + p.info.toNat), pc := t.tvec, entering := e, left := l, sect := x
      readyAt := now + 8, gap := t.gap + 1 } := by
  obtain ⟨e, l, x, h⟩ := Stream.land_eq { t with
      traps := rest, ext := none, begun := false, awaits := none, tret := (t.cmdStart.setWidth 48).setWidth 64
      tcause := (1#64 <<< 63) ||| (BitVec.ofNat 64 p.cause.code <<< 32) ||| p.info.setWidth 64 } t.tvec
  refine ⟨e, l, x, ?_⟩
  rw [← tcause_eq]
  simp only [Stream.enterTrap, h]

/-- A stream with a handler that does not run, and no command in flight, enters it at its oldest trap. -/
theorem State.takeTrap_enters {s : State} {r : Ref} {p : PendingTrap} {rest : List PendingTrap} (ht : (s.strOf r).traps = p :: rest)
    (hs : (s.jobOf r.job).spec = none) (ha : (s.strOf r).tcause.getLsbD 63 = false) (hv : (s.strOf r).tvec ≠ 0) (hf : ∀ f ∈ s.flights, f.2.ref ≠ r) :
    s.takeTrap r = s.modRef r (fun t => t.enterTrap s.now p rest) := by
  have hbusy : s.busy r = false := by simpa [State.busy] using fun a f h => hf (a, f) h
  simp only [State.takeTrap, ht, hs, Stream.inTrap, ha, hv, hbusy, Option.isSome_none, decide_false, Bool.or_self, Bool.false_eq_true, if_false]

/-- In a handler that runs, or without one, a trap is a context error. -/
theorem State.takeTrap_unhandled {s : State} {r : Ref} {p : PendingTrap} {rest : List PendingTrap} (ht : (s.strOf r).traps = p :: rest)
    (hs : (s.jobOf r.job).spec = none) (h : (s.strOf r).tcause.getLsbD 63 = true ∨ (s.strOf r).tvec = 0) :
    s.takeTrap r = s.raise r { code := 15, trap := p.cause.code } (s.strOf r).cmdStart 0 := by
  have hno : ((s.strOf r).inTrap || decide ((s.strOf r).tvec = 0)) = true := by
    rcases h with h | h <;> simp [Stream.inTrap, h]
  simp only [State.takeTrap, ht, hs, hno, Option.isSome_none, Bool.false_eq_true, if_false, if_true]

/-! Background walks (09 R246) -/

/-- A walk that reads a poisoned table line finds no mapping (20 R461). -/
theorem State.walk_badTable {s : State} {ctx vf va : Nat} (h : (s.badTable ctx vf va).isSome = true) : (s.walk ctx vf va).1.miss = missNoMapping := by
  unfold State.walk
  rw [if_pos h]
  split <;> rfl

theorem execWalkComplete_keeps {s : State} {w : Walk} (hw : (s.coreOf s.args.a).walks.find? s.args.b = some w) (hr : w.result = none) :
    let h := (s.walk w.ctx w.vf (w.vpn * 65536)).1
    ∃ t, exec .walkComplete s = .next t ∧ (t.coreOf s.args.a).walks.find? s.args.b = some { w with result := some (h, s.now) } ∧
      (t.coreOf s.args.a).xlat = (s.coreOf s.args.a).xlat ++ (if h.valid then [(w.ctx, w.vpn, h)] else []) ∧
      ⟨s.now + 65536, .event .walkResultExpiry { a := s.args.a, b := s.args.b }⟩ ∈ t.agenda ∧ t.mem = s.mem ∧
      t.errors = s.errors ++ s.tableErrs w.ctx w.vf (w.vpn * 65536) ∧ (w.spec = true → t.s1 = s.s1 ∧ t.s2 = s.s2) := by
  refine ⟨_, rfl, ?_⟩
  simp only [hw, hr, Option.isSome_none, Bool.false_eq_true, if_false]
  generalize s.walk w.ctx w.vf (w.vpn * 65536) = p
  generalize s.tableErrs w.ctx w.vf (w.vpn * 65536) = errs
  have hb := State.Beside.markAcc { s with errors := s.errors ++ errs } p.2 w.spec
  refine ⟨?_, ?_, ?_, ?_, ?_, ?_⟩
  · simp
  · rw [State.post_coreOf, State.coreOf_modCore_self, State.markAcc_coreOf]
    cases p.1.valid
    · exact (List.append_nil _).symm
    · rfl
  · simp [State.post]
  · simp
  · exact hb.field State.errors fun _ => rfl
  · intro hspec
    rw [hspec, State.markAcc_true]
    exact ⟨rfl, rfl⟩

theorem execWalkResultExpiry_frees {s : State} {w : Walk} {h : Handle} {d : Nat} (hw : (s.coreOf s.args.a).walks.find? s.args.b = some w)
    (hr : w.result = some (h, d)) (hd : d + 65536 ≤ s.now) :
    ∃ t, exec .walkResultExpiry s = .next t ∧ (t.coreOf s.args.a).walks.find? s.args.b = none ∧ (t.coreOf s.args.a).xlat = (s.coreOf s.args.a).xlat := by
  refine ⟨s.modCore s.args.a (fun x => { x with walks := x.walks.erase s.args.b }), ?_, by simp, by simp⟩
  have h : exec .walkResultExpiry s = .next (match (s.coreOf s.args.a).walks.find? s.args.b with
    | none => s
    | some w =>
      match w.result with
      | none => s
      | some (_, t) => if t + 65536 ≤ s.now then s.modCore s.args.a (fun x => { x with walks := x.walks.erase s.args.b }) else s) := rfl
  simp only [h, hw, hr, hd, if_true]

/-- Settles O34: what each event does is the lemma above named after it, read off the stream or the core that it changes. -/
theorem streamEvents : Obligations.StreamEvents := by
  refine ⟨?ext, ?fetch, ?enter, ?retire, ?waits, ?unassigned, ?trap, ?unhandled, ?walk, ?expiry⟩
  case ext => exact fun v s h => execExt_keeps h
  case fetch =>
    rintro s r l b rfl rfl hk hb
    exact execCodeFetch_fetches hk hb
  case enter =>
    rintro s r e w rfl hk he hw hbad ha
    refine ⟨_, execSectionEnter_enters he hw hbad ha, ?_⟩
    rw [State.strOf_modRef_self _ _ hk]
    refine ⟨rfl, rfl, rfl, by simp, rfl, fun hnew => ?_, fun hs hx => ?_⟩
    · have hagain : (e.start && (s.strOf s.args.ref).sect.isSome) = false := by rcases hnew with h | h <;> simp [h]
      simp [Stream.intoSection, hagain, hdrPrept]
    · simp [Stream.intoSection, hs, hx]
  case retire =>
    rintro s r pre v n rfl hk hl hf
    refine ⟨_, rfl, ?_⟩
    rw [hl, List.length_append, List.length_singleton, State.retireLeft_all pre s hk hf hl]
    exact ⟨rfl, rfl, rfl⟩
  case waits =>
    rintro s r rest v n f rfl hl hf hr hv
    exact congrArg _ (State.retireLeft_waits hl hf hr hv _)
  case unassigned =>
    rintro s r rfl hk hs hp he
    refine ⟨_, _, rfl, State.raise_error _ _ _ hk hs hp he, rfl, rfl, rfl, rfl, rfl, ?_, ?_, (State.Moved.raise _ _ _ _ _).frame.mem⟩
    · rw [State.strOf_raise _ _ _ _ _ hk]
    · rw [State.strOf_raise _ _ _ _ _ hk]
  case trap =>
    rintro s r p rest rfl hk ht hs ha hv hf
    refine ⟨_, congrArg Host.Outcome.next (State.takeTrap_enters ht hs ha hv hf), ?_⟩
    obtain ⟨e, l, x, h⟩ := Stream.enterTrap_eq (s.strOf s.args.ref) s.now p rest
    rw [State.strOf_modRef_self _ _ hk, h]
    exact ⟨rfl, rfl, rfl, rfl, rfl, rfl, rfl, State.modRef_mem _ _ _⟩
  case unhandled =>
    rintro s r p rest rfl hk ht hs hp he h
    refine ⟨_, _, congrArg Host.Outcome.next (State.takeTrap_unhandled ht hs h), State.raise_error _ _ _ hk hs hp he, rfl, ?_, ?_⟩
    · exact if_neg p.cause.code_ne_zero
    · rw [State.strOf_raise _ _ _ _ _ hk, ← ht]
  case walk =>
    rintro s c n w rfl rfl hw hr
    obtain ⟨t, ht, hres, hx, ha, hm, he, hs⟩ := execWalkComplete_keeps hw hr
    exact ⟨t, ht, hres, hx, ha, hm, he, State.walk_badTable, hs⟩
  case expiry =>
    rintro s c n w h d rfl rfl hw hr hd
    exact execWalkResultExpiry_frees hw hr hd

end Sys2Proof.Machine

namespace Sys2Proof.Machine

/-! ### Predicate results (07 R199, R202 to R204) -/

section
variable {s : State} {c : Ctl} {u : Use} {f : State → Act}

/-- A command whose result is a predicate, which is seen from the next cycle on. -/
theorem command_pput {p : PReg} {v : Option Bool} (h : s.Issues c u.regs u.preds u.gw u.ga u.irrev) (hl : u.lat = 0)
    (hf : f s = .done (s.pput s.cur p v) 0) : ∃ t, command c u f s = .next t ∧ s.Done (s.pput s.cur p v) c 0 t :=
  command_modJob h hl hf

/-- One whose predicate is owed for a latency of its own. -/
theorem command_slow_pput {p : PReg} {v : Option Bool} {n : Nat} (h : s.Issues c u.regs u.preds u.gw u.ga u.irrev) (hn : n ≠ 0)
    (hd : u.dst = [.p p]) (hf : f s = .slow (s.pput s.cur p v) 0 n [] none) :
    ∃ t, command c u f s = .next t ∧ s.Pends s c [.p p] [.p p v] 0 n t :=
  ⟨_, command_next h, by rw [hf]; exact State.act_slow_pput hn hd h.listed⟩

end

/-- The machine's conditions are those that the rule states of signed and unsigned values. -/
theorem ccHolds_eq_saysCc (cc : Cc) (a b : Word) : ccHolds cc a b = saysCc cc a b := by
  cases cc with
  | eq => exact beq_eq_decide a b
  | ne => simp [ccHolds, saysCc, bne, beq_eq_decide]
  | lt | le | gt | ge | ltu | leu | gtu | geu => rfl

/-! #### Votes -/

/-- What a vote's command needs. -/
def voteUse (o : OpVote) (opc : Nat) : Use := { opc := opc, regs := [.p o.d, .s o.a, .s o.n], dst := [.p o.d] }

/-- A vote over no lane is decided by its instruction. -/
theorem voteBody_empty {o : OpVote} {s : State} (all : Bool) (h0 : s.sget o.n = 0) :
    voteBody o all s = .slow (s.pput s.cur o.d (some all)) 0 2 [] none := by simp [voteBody, h0]

/-- Another vote reads its bits up to its completion point. -/
theorem voteBody_reads {o : OpVote} {s : State} {n a : Nat} (all : Bool) (hn : (s.sget o.n).toNat = n) (h0 : 0 < n) (h1 : n ≤ 65535)
    (ha : s.scrOperand o.a (o.off.signExtend 64) ((n + 7) / 8) 1 = .ok a) :
    voteBody o all s = .data s (.vote o.d (s.job.scrAddr a) n all) (.after (2 + (n + 2047) / 2048)) [] none := by
  simp only [voteBody, hn, if_neg (Nat.not_lt.mpr h1), if_neg h0.ne', ha, Check.andThen]

theorem vote_empty {o : OpVote} {s : State} (all : Bool) (opc : Nat) (h : s.Issues o.c [.p o.d, .s o.a, .s o.n]) (h0 : s.sget o.n = 0) :
    ∃ t, command o.c (voteUse o opc) (voteBody o all) s = .next t ∧ s.Pends s o.c [.p o.d] [.p o.d (some all)] 0 2 t :=
  command_slow_pput h (by decide) rfl (voteBody_empty all h0)

theorem vote_works {o : OpVote} {s : State} {n a : Nat} (all : Bool) (opc : Nat) (h : s.Issues o.c [.p o.d, .s o.a, .s o.n])
    (hn : (s.sget o.n).toNat = n) (h0 : 0 < n) (h1 : n ≤ 65535) (ha : s.scrOperand o.a (o.off.signExtend 64) ((n + 7) / 8) 1 = .ok a) :
    ∃ t, command o.c (voteUse o opc) (voteBody o all) s = .next t ∧
      s.WorksFor s o.c [.p o.d] (.vote o.d (s.job.scrAddr a) n all) none (2 + (n + 2047) / 2048) t :=
  command_data (u := voteUse o opc) h (voteBody_reads all hn h0 h1 ha) rfl rfl rfl

theorem voteOf_any_iff {v : List Byte} {n : Nat} : voteOf v n false = true ↔ ∃ i, i < n ∧ laneBit v i = true := by
  simp [voteOf]

theorem voteOf_all_iff {v : List Byte} {n : Nat} : voteOf v n true = true ↔ ∀ i, i < n → laneBit v i = true := by
  simp [voteOf]

/-- What a vote makes of the bytes that it has read, where none of them is poisoned. -/
theorem DataOp.made_vote {v : View} {d : PReg} {a n : Nat} {all b : Bool} (h : v.foul a ((n + 7) / 8) = false)
    (hb : voteOf (v.bytes a ((n + 7) / 8)) n all = b) : (DataOp.vote d a n all).made v = .ok ⟨[], [.p d (some b)], 0⟩ := by
  simp [DataOp.made, h, hb]

/-- Settles O5: each command's result is a predicate or a register written at issue; a vote's is made by `voteOf`. -/
theorem predicates : Obligations.Predicates := by
  unfold Obligations.Predicates
  refine ⟨fun o s h => command_pput (u := { opc := 0x020, regs := [.p o.p] }) h rfl rfl, ?moves, ?fromWord, ?toWord, ?logic,
    fun o s h => command_pput (u := { opc := 0x026, regs := [.p o.d] }) h rfl rfl, ?compare, ?compareImm,
    fun o s h => command_pput (u := { opc := 0x028, regs := [.p o.d, .s o.a, .s o.b] }) h rfl rfl, ?empty, ?works, ?made⟩
  case moves =>
    exact fun o s h => ⟨command_pput (u := { opc := 0x021, regs := [.p o.d], preds := [o.a] }) h rfl rfl,
      command_pput (u := { opc := 0x025, regs := [.p o.d], preds := [o.a] }) h rfl rfl⟩
  case fromWord =>
    intro o s h
    have hv : (s.sget o.a != 0) = decide (s.sget o.a ≠ 0) := by simp [bne, beq_eq_decide]
    rw [← hv]
    exact command_pput (u := { opc := 0x021, regs := [.p o.d, .s o.a] }) h rfl rfl
  case toWord => exact fun o s h => command_sput (u := { opc := 0x021, regs := [.s o.d], preds := [o.a] }) h rfl rfl
  case logic =>
    simp only [List.forall_mem_cons, List.not_mem_nil, false_implies, implies_true, and_true]
    exact ⟨fun o s h => command_pput (u := { opc := 0x022, regs := [.p o.d], preds := [o.a, o.b] }) h rfl rfl,
      fun o s h => command_pput (u := { opc := 0x023, regs := [.p o.d], preds := [o.a, o.b] }) h rfl rfl,
      fun o s h => command_pput (u := { opc := 0x024, regs := [.p o.d], preds := [o.a, o.b] }) h rfl rfl⟩
  case compare =>
    intro o s h
    rw [← ccHolds_eq_saysCc]
    exact command_pput (u := { opc := 0x027, regs := [.p o.d, .s o.a, .s o.b] }) h rfl rfl
  case compareImm =>
    intro o s h
    rw [← ccHolds_eq_saysCc]
    exact command_pput (u := { opc := 0x027, regs := [.p o.d, .s o.a] }) h rfl rfl
  case empty => exact fun o s h h0 => ⟨vote_empty false 0x029 h h0, vote_empty true 0x02A h h0⟩
  case works => exact fun o s n a h hn h0 h1 ha => ⟨vote_works false 0x029 h hn h0 h1 ha, vote_works true 0x02A h hn h0 h1 ha⟩
  case made =>
    exact fun d a n v h => ⟨DataOp.made_vote h (Bool.eq_iff_iff.mpr (voteOf_any_iff.trans decide_eq_true_iff.symm)),
      DataOp.made_vote h (Bool.eq_iff_iff.mpr (voteOf_all_iff.trans decide_eq_true_iff.symm))⟩

end Sys2Proof.Machine

namespace Sys2Proof.Machine

/-! ### Queues (07 R212, R213) -/

/-- A command that answers a context error raises it at its own first word (06 R182). -/
theorem command_err {s : State} {c : Ctl} {u : Use} {f : State → Act} {e : Err} (h : s.Issues c u.regs u.preds u.gw u.ga u.irrev) (hf : f s = .err e) :
    command c u f s = .next (s.raise s.cur e s.st.cmdStart u.opc) := by
  rw [command_next h, hf]; rfl

section
variable {s : State} {q : QReg}

theorem Job.qfull_eq_false {j : Job} (h : j.qlen q + (j.late.pushes.filter (fun e => e.1 = q)).length < 64) : j.qfull q = false := by
  simpa [Job.qfull] using h

theorem State.withHead_good {f : Word → Act} {v : Word} {l : List Word} (hq : s.job.queues[q] = v :: l) (hb : s.queueBad q = false) :
    s.withHead q f = f v := by simp only [State.withHead, hq, hb, Bool.false_eq_true, if_false]

theorem State.withHead_bad {f : Word → Act} (hq : s.job.queues[q] ≠ []) (hb : s.queueBad q = true) : s.withHead q f = Act.code 11 := by
  obtain ⟨v, l, hv⟩ := List.exists_cons_of_ne_nil hq
  simp only [State.withHead, hv, hb, if_true]

@[simp] theorem State.qpop_cur (s : State) (q : QReg) : (s.qpop q).cur = s.cur := State.modJob_cur _ _ _
@[simp] theorem State.qpop_isSome (s : State) (q : QReg) (k : Nat) : ((s.qpop q).jobs.find? k).isSome = (s.jobs.find? k).isSome :=
  State.isSome_modJob _ _ _ _

/-- A pop takes the head of its queue, and nothing of another. -/
theorem State.qpop_queues (h : (s.jobs.find? s.cur.job).isSome = true) : ((s.qpop q).jobOf s.cur.job).queues = s.job.queues.set q s.job.queues[q].tail := by
  rw [State.qpop, State.jobOf_modJob_self _ _ h]; rfl

end

section
variable {s e : State} {c : Ctl} {u : Use} {q : QReg} {f : State → Word → Act}

/-- A push to a queue with room: the entry can be popped from the next cycle on. -/
theorem command_qpush {g : State → Word} (h : s.Issues c u.regs u.preds u.gw u.ga u.irrev) (hl : u.lat = 0)
    (hr : s.job.qlen q + (s.job.late.pushes.filter (fun e => e.1 = q)).length < 64) :
    ∃ t, command c u (fun s => if s.job.qfull q then .wait s else .done (s.qpush q (g s)) 0) s = .next t ∧ s.Done (s.qpush q (g s)) c 0 t :=
  command_modJob h hl (by simp only [Job.qfull_eq_false hr, Bool.false_eq_true, if_false]; rfl)

/-- A command that takes what it needs from the head of a queue. -/
theorem command_head {v : Word} {l : List Word} (h : s.Issues c u.regs u.preds u.gw u.ga u.irrev) (hl : u.lat = 0) (hq : s.job.queues[q] = v :: l)
    (hb : s.queueBad q = false) (hf : f s v = .done e 0) (hc : e.cur = s.cur) (hj : (e.jobs.find? s.cur.job).isSome = true) :
    ∃ t, command c u (fun s => s.withHead q (f s)) s = .next t ∧ s.Done e c 0 t :=
  command_done h hl ((State.withHead_good hq hb).trans hf) hc hj

/-- A head that fails its parity twice is a context error (20 R479). -/
theorem command_head_bad (h : s.Issues c u.regs u.preds u.gw u.ga u.irrev) (hq : s.job.queues[q] ≠ []) (hb : s.queueBad q = true) :
    command c u (fun s => s.withHead q (f s)) s = .next (s.raise s.cur { code := 11 } s.st.cmdStart u.opc) :=
  command_err h (State.withHead_bad hq hb)

end

/-- Settles O7: a push by its room, a pop or a peek by the head that it finds. -/
theorem queues : Obligations.Queues := by
  unfold Obligations.Queues
  refine ⟨fun o s h hr => command_qpush (u := { opc := 0x040, regs := [.s o.a] }) h rfl hr,
    fun o s h hr => command_qpush (u := { opc := 0x043, preds := [o.p] }) h rfl hr, ?pop, ?popPredicate, ?popBad, ?popPredicateBad,
    fun o s h => command_sput (u := { opc := 0x045, regs := [.s o.d] }) h rfl rfl, ?popLeaves⟩
  case pop =>
    exact fun o s v l h hq hb =>
      ⟨command_head (u := { opc := 0x041, regs := [.s o.d] }) h rfl hq hb rfl (by simp) (by simpa using h.listed),
        command_head (u := { opc := 0x042, regs := [.s o.d] }) h rfl hq hb rfl (by simp) (by simpa using h.listed)⟩
  case popPredicate =>
    intro o s v l h hq hb
    have hv : (v != 0) = decide (v ≠ 0) := by simp [bne, beq_eq_decide]
    rw [← hv]
    exact command_head (u := { opc := 0x044, regs := [.p o.p] }) h rfl hq hb rfl (by simp) (by simpa using h.listed)
  case popBad =>
    exact fun o s h hq hb _ => ⟨command_head_bad (u := { opc := 0x041, regs := [.s o.d] }) h hq hb,
      command_head_bad (u := { opc := 0x042, regs := [.s o.d] }) h hq hb⟩
  case popPredicateBad => exact fun o s h hq hb _ => command_head_bad (u := { opc := 0x044, regs := [.p o.p] }) h hq hb
  case popLeaves =>
    intro s q h
    rw [State.qpop_queues h]
    refine ⟨by simp, fun r hr => ?_⟩
    have : q.val ≠ r.val := fun e => hr (Fin.ext e.symm)
    simp [this]

end Sys2Proof.Machine

namespace Sys2Proof.Machine

/-! ### Where a stream stands after a command (07 R211) -/

namespace Stream

/-- The stream behind the command that it stands at, in address order. -/
def past (t : Stream) (u : Use) : Stream := { t with pc := t.cmdStart + BitVec.ofNat 64 (t.cmdLen u.two), ext := none }

variable {t : Stream} {now n : Nat} {a : Word} {u : Use} {x : Section} {l : LoopEntry}

/-! #### The loop part -/

theorem mem_loops_of_top (h : t.top = some l) : l ∈ t.loops := by
  unfold top at h
  split at h
  · cases h
  next e r he =>
    split at h
    · cases h; rw [he]; exact List.mem_cons_self
    · cases h

/-- The stream at the start of its innermost loop's next pass. -/
def again (t : Stream) (l : LoopEntry) : Stream := { t with pc := l.start, loops := { l with count := l.count - 1 } :: t.loops.tail }

/-- A loop's start is the next command while its count is above 1. -/
theorem loopBack_again (ht : t.top = some l) (hs : l.stop = a) (hc : l.count ≠ 1) (n : Nat) : t.loopBack a (n + 1) = t.again l := by
  have hne : l.count - 1 ≠ 0 := fun h => hc (sub_eq_zero.mp h)
  simp only [loopBack, ht, hs, if_true, if_pos hne, again]

theorem loopBack_of_not_end (h : ∀ l, t.top = some l → l.stop ≠ a) (n : Nat) : t.loopBack a n = t := by
  cases n with
  | zero => rfl
  | succ n =>
    unfold loopBack
    split
    · rfl
    next e he => rw [if_neg (fun ha => h e he ha.symm)]

/-- Behind a command at which no loop ends, the stream goes on in address order. -/
theorem fallOn_straight (h : t.frozen = false → ∀ l, t.top = some l → l.stop ≠ a) : t.fallOn now a = t.settlePc now (t.issued + 1 - t.entered) := by
  unfold fallOn
  split
  · rfl
  next hf => rw [loopBack_of_not_end (h (by simpa using hf))]

theorem fallOn_again (hf : t.frozen = false) (ht : t.top = some l) (hs : l.stop = a) (hc : l.count ≠ 1) :
    t.fallOn now a = (t.again l).settlePc now (t.issued + 1 - t.entered) := by
  simp only [fallOn, hf, Bool.false_eq_true, if_false, loopBack_again ht hs hc]

/-! #### Sections (06 R174) -/

theorem settlePc_inside (hx : t.sect = some x) (h : t.pc.toNat < x.stop) : t.settlePc now n = t := by
  simp only [settlePc, hx, if_pos h]

/-- Past the end of its section the stream enters the next one, and the old one is left for its retirement. -/
theorem settlePc_past (hx : t.sect = some x) (h : x.stop ≤ t.pc.toNat) : t.settlePc now n =
    { t with pc := BitVec.ofNat 64 (x.after + 8), sect := none, left := t.left ++ [(t.visit, x.num)], readyAt := now + 1 + (4 - n)
             entering := some ⟨BitVec.ofNat 64 x.after, BitVec.ofNat 64 (x.after + 8), some x.num, false⟩ } := by
  simp only [settlePc, leaveSection, hx, if_neg (Nat.not_lt.mpr h)]

@[simp] theorem settlePc_loops (t : Stream) (now n : Nat) : (t.settlePc now n).loops = t.loops := by
  cases hx : t.sect with
  | none => simp only [settlePc, hx]
  | some x =>
    by_cases h : t.pc.toNat < x.stop
    · rw [settlePc_inside hx h]
    · rw [settlePc_past hx (Nat.not_lt.mp h)]

/-! #### Transfers (07 R206, R208) -/

theorem leave_keeps (t : Stream) (a : Word) (n : Nat) : (t.leave a n).sect = t.sect ∧ (t.leave a n).slot = t.slot := by
  induction n generalizing t with
  | zero => exact ⟨rfl, rfl⟩
  | succ n ih =>
    unfold leave
    split
    · exact ⟨rfl, rfl⟩
    · split
      · exact ⟨rfl, rfl⟩
      · exact ih t.pop

/-- What a transfer does to loops and call level at its transfer point. -/
def transferred (t : Stream) (k : TransferKind) (g : Word) : Stream :=
  match k with
  | .br => if t.frozen then t else t.leave g 5
  | .call => { t with callLevel := t.callLevel + 1 }
  | .ret => t.return

theorem transferred_keeps (t : Stream) (k : TransferKind) (g : Word) : (t.transferred k g).sect = t.sect ∧ (t.transferred k g).slot = t.slot := by
  cases k with
  | br =>
    unfold transferred
    dsimp only
    split
    · exact ⟨rfl, rfl⟩
    · exact t.leave_keeps g 5
  | call | ret => exact ⟨rfl, rfl⟩

theorem takeTransfer_eq (t : Stream) (y : Transfer) (g : Word) (now : Nat) :
    t.takeTransfer y g now = { (t.transferred y.kind g).land g with readyAt := now + 1 + y.bubble } := by
  obtain ⟨w, k, m, b⟩ := y
  cases k <;> rfl

/-- A transfer within its section: the target is the next command, once the cost has passed. -/
theorem takeTransfer_within {k : TransferKind} {g : Word} {m b : Nat} {w : Option Word} (hx : t.sect = some x) (hg : x.holds g.toNat = true) :
    t.takeTransfer ⟨w, k, m, b⟩ g now = { t.transferred k g with pc := g, entering := some ⟨x.base, g, none, false⟩, readyAt := now + 1 + b } := by
  have hs : (t.transferred k g).sect = some x := (t.transferred_keeps k g).1.trans hx
  rw [takeTransfer_eq]
  simp only [land, hs, hg, if_true]

/-! #### The stream after a command -/

/-- `t'` as the stream after a command that `t` has issued. -/
def counted (t' t : Stream) : Stream := { t' with issued := t.issued + 1, gap := t.gap + 1, awaits := none, begun := false, thaw := false }

/-- Without a transfer under way the stream goes on in address order, but for its loops. -/
theorem after_plain (hs : t.slot = none) (now : Nat) (u : Use) : t.after now u none = ((t.past u).fallOn now t.cmdStart).counted t := by
  have h : t.advance now t.cmdStart (t.cmdLen u.two) none = ((t.past u).fallOn now t.cmdStart, false) := by
    unfold advance
    dsimp only
    split
    next hx => exact nomatch hs.symm.trans hx
    · rfl
  simp only [after, h, Bool.or_false]
  rfl

/-- Before a transfer's last slot the next address follows. -/
theorem after_slots {w : Option Word} {k : TransferKind} {m b : Nat} (hs : t.slot = some ⟨w, k, m, b⟩) (hm : 1 < m) (now : Nat) (u : Use) :
    (t.after now u none).pc = (t.past u).pc ∧ (t.after now u none).slot = some ⟨w, k, m - 1, b⟩ := by
  simp only [after, advance, hs, if_pos hm]
  exact ⟨rfl, trivial⟩

/-- The stream with no transfer under way. -/
def landed (t : Stream) : Stream := { t with slot := none }

/-- After a taken transfer's last slot the stream is at the transfer point. -/
theorem after_last {g : Word} {k : TransferKind} {b : Nat} (hs : t.slot = some ⟨some g, k, 1, b⟩) (now : Nat) (u : Use) :
    t.after now u none = ((t.past u).landed.takeTransfer ⟨some g, k, 1, b⟩ g now).counted t := by
  have h : t.advance now t.cmdStart (t.cmdLen u.two) none = ((t.past u).landed.takeTransfer ⟨some g, k, 1, b⟩ g now, false) := by
    unfold advance
    dsimp only
    split
    next hx =>
      cases hs.symm.trans hx
      rfl
    next hx => exact nomatch hs.symm.trans hx
  simp only [after, h, Bool.or_false]
  rfl

/-- A command at which no loop ends leaves the loops. -/
theorem after_loops (hs : t.slot = none) (h : ∀ l, t.top = some l → l.stop ≠ t.cmdStart) (now : Nat) (u : Use) :
    (t.after now u none).loops = t.loops := by
  rw [after_plain hs, fallOn_straight (t := t.past u) (fun _ => h)]
  exact settlePc_loops _ _ _

end Stream

/-- Settles O11: the stream after the command is `Stream.after`, whose cases are the lemmas above. -/
theorem nextCommand : Obligations.NextCommand := by
  intro c u f s e x h hl hf hc hj hx hen
  obtain ⟨t, ht, -, hst⟩ := command_done_stream h hl hf hc hj
  have he : e.strOf s.cur = e.st := by rw [State.st, hc]
  rw [he] at hst
  refine ⟨t, ht, ?_⟩
  rw [hst]
  refine ⟨rfl, ?inside, ?past, ?again, ?taken, ?slots⟩
  case inside =>
    intro hs hno hn
    rw [Stream.after_plain hs, Stream.fallOn_straight (t := e.st.past u) (fun hz l ht hl => hno ⟨hz, l, ht, hl⟩), Stream.settlePc_inside (t := e.st.past u) hx hn]
    exact ⟨rfl, hx⟩
  case past =>
    intro hs hno hn
    rw [Stream.after_plain hs, Stream.fallOn_straight (t := e.st.past u) (fun hz l ht hl => hno ⟨hz, l, ht, hl⟩), Stream.settlePc_past (t := e.st.past u) hx hn]
    exact ⟨rfl, rfl, rfl⟩
  case again =>
    intro l hs hz htop hstop hcount hin
    rw [Stream.after_plain hs, Stream.fallOn_again (t := e.st.past u) hz htop hstop hcount, Stream.settlePc_inside (t := (e.st.past u).again l) hx hin]
    exact ⟨rfl, rfl⟩
  case taken =>
    intro g k b hs hg
    rw [Stream.after_last hs, Stream.takeTransfer_within (t := (e.st.past u).landed) hx hg]
    refine ⟨rfl, (Stream.transferred_keeps _ _ _).2, rfl, ?_⟩
    rintro rfl
    rfl
  case slots => exact fun g k m b hs hm => Stream.after_slots hs hm _ _

end Sys2Proof.Machine

namespace Sys2Proof.Machine

/-! ### Branches, calls and loops (07 R205 to R210) -/

section
variable {s e t : State} {c : Ctl} {u : Use} {f : State → Act} {fl : Flags}

/-- The running stream of the state after a command that completes. -/
theorem State.Done.st_eq (h : s.Done e c fl t) (hc : e.cur = s.cur) : t.st = t.strOf s.cur := by rw [State.st, h.frame.cur, hc]

/-- A transfer completes at issue, and waits for its two slots. -/
theorem command_jump {x : Transfer} (h : s.Issues c u.regs u.preds u.gw u.ga u.irrev) (hf : f s = .jump e x) (hc : e.cur = s.cur)
    (hj : (e.jobs.find? s.cur.job).isSome = true) : ∃ t, command c u f s = .next t ∧ s.Done e c 0 t ∧ t.st.slot = some x := by
  have hd : s.Done e c 0 (s.act c u (.jump e x)) := State.act_jump hc hj
  refine ⟨_, command_next h, by rw [hf]; exact hd, ?_⟩
  rw [hf, hd.st_eq hc, State.strOf_act_jump hc hj]
  exact Stream.after_slot _ _ _ _

/-- A command that changes nothing of its stream but the sequencing, with the stream after it. -/
theorem command_sequencing {g : Stream → Stream} (h : s.Issues c u.regs u.preds u.gw u.ga u.irrev) (hl : u.lat = 0) (hf : f s = .done (s.modSt g) 0)
    (hg : ∀ x, (g x).aside = x.aside) :
    ∃ t, command c u f s = .next t ∧ s.Done s c 0 t ∧ t.strOf s.cur = (g s.st).after s.now u none := by
  obtain ⟨t, ht, hd, hs⟩ := command_done_stream h hl hf (by simp [State.modSt]) (by simpa using h.listed)
  refine ⟨t, ht, hd.of_modSt g hg, ?_⟩
  rw [hs, State.modSt, State.strOf_modRef_self _ _ h.listed, State.modRef_now, State.st]

end

/-! #### Loops -/

/-- A loop's last command is none that the stream stands at: END16 counts forward. -/
theorem loopEnd_ne_cmdStart (t : Stream) {stop : BitVec 16} (h : stop ≠ 0) : t.pc + 4 * stop.setWidth 64 ≠ t.cmdStart := by
  have h0 : stop.toNat ≠ 0 := fun e => h (BitVec.eq_of_toNat_eq e)
  have hlt := stop.isLt
  intro e
  unfold Stream.cmdStart at e
  split at e
  · bv_omega
  · bv_omega

/-- The stream with the entry pushed of a loop of count `n` whose last command is at `stop`. -/
def Stream.enterLoop (t : Stream) (n : BitVec 32) (stop : Word) : Stream := { t with loops := ⟨t.pc + 12, stop, n, t.callLevel⟩ :: t.loops }

/-- A loop whose count is not 0 pushes its entry. -/
theorem loopBody_pushes {n : BitVec 32} {stop : BitVec 16} {s : State} (ht : s.st.inTrap = false) (hl : s.st.loops.length < 4) (hn : n ≠ 0) :
    loopBody n stop s = .done (s.modSt (fun t => t.enterLoop n (s.st.pc + 4 * stop.setWidth 64))) 0 := by
  simp only [loopBody, ht, Bool.false_eq_true, if_false, if_neg hn, if_neg (Nat.not_le.mpr hl)]
  rfl

/-- A loop of count 0 goes on behind the command at its end. -/
theorem loopBody_skips {stop : BitVec 16} {s : State} (ht : s.st.inTrap = false) :
    loopBody 0 stop s = .skip s (BitVec.ofNat 64 (s.skipCommands s.job 1 (s.st.pc + 4 * stop.setWidth 64).toNat)) := by
  simp only [loopBody, ht, Bool.false_eq_true, if_false, if_true]

section
variable {s : State} {c : Ctl} {u : Use} {f : State → Act}

/-- A loop whose count is not 0 leaves its entry on the stream: its body does not end at the command itself. -/
theorem command_loop {n : BitVec 32} {stop : BitVec 16} (h : s.Issues c u.regs u.preds u.gw u.ga u.irrev) (hl : u.lat = 0)
    (hf : f s = loopBody n stop s) (hslot : s.st.slot = none) (ht : s.st.inTrap = false) (hlen : s.st.loops.length < 4) (hn : n ≠ 0) (hstop : stop ≠ 0) :
    ∃ t, command c u f s = .next t ∧ s.Done s c 0 t ∧ (t.strOf s.cur).loops = (s.st.enterLoop n (s.st.pc + 4 * stop.setWidth 64)).loops := by
  obtain ⟨t, hnext, hd, hs⟩ := command_sequencing h hl (hf.trans (loopBody_pushes ht hlen hn)) (fun _ => rfl)
  refine ⟨t, hnext, hd, ?_⟩
  rw [hs]
  refine Stream.after_loops (t := s.st.enterLoop n _) hslot (fun l htop => ?_) _ _
  have hl : l = ⟨s.st.pc + 12, s.st.pc + 4 * stop.setWidth 64, n, s.st.callLevel⟩ := by simpa [Stream.top, Stream.enterLoop] using htop.symm
  rw [hl]
  exact loopEnd_ne_cmdStart s.st hstop

/-- A command that goes on elsewhere without a transfer changes nothing else. -/
theorem command_skip {pc : Word} (h : s.Issues c u.regs u.preds u.gw u.ga u.irrev) (hf : f s = .skip s pc) :
    ∃ t, command c u f s = .next t ∧ s.Done s c 0 t :=
  ⟨_, command_next h, by rw [hf]; exact State.act_skip rfl h.listed⟩

end

/-- The stream without its innermost entry of the current call level. -/
def Stream.exitLoop (t : Stream) : Stream := if t.top.isSome then t.pop else t

theorem Stream.exitLoop_loops (t : Stream) : t.exitLoop.loops = match t.loops with
    | [] => []
    | l :: r => if l.level = t.callLevel then r else l :: r := by
  unfold Stream.exitLoop Stream.top
  split
  next he => simp [he]
  next l r he =>
    by_cases hl : l.level = t.callLevel
    · simp [hl, Stream.pop, he]
    · simp [hl, he]

/-- What `LEXIT` leaves of its stream. -/
theorem Stream.exitLoop_keeps (t : Stream) : t.exitLoop.slot = t.slot ∧ t.exitLoop.cmdStart = t.cmdStart ∧
    ∀ l ∈ t.exitLoop.loops, l ∈ t.loops := by
  unfold Stream.exitLoop
  split
  · exact ⟨rfl, rfl, fun _ => List.mem_of_mem_tail⟩
  · exact ⟨rfl, rfl, fun _ => id⟩

/-- `LEXIT` pops the entry, and a loop that ends at it loses no other. -/
theorem execLexit_exits {o : Op0} {s : State} (h : s.Issues o.c []) (hslot : s.st.slot = none) (ht : s.st.inTrap = false) :
    ∃ t, execLexit o s = .next t ∧ s.Done s o.c 0 t ∧ ((∀ l ∈ s.st.loops, l.stop ≠ s.st.cmdStart) → (t.strOf s.cur).loops = s.st.exitLoop.loops) := by
  obtain ⟨t, hnext, hd, hs⟩ : ∃ t, execLexit o s = .next t ∧ s.Done s o.c 0 t ∧ t.strOf s.cur = s.st.exitLoop.after s.now { opc := 0x032 } none := by
    by_cases htop : s.st.top.isSome = true
    · rw [Stream.exitLoop, if_pos htop]
      exact command_sequencing (u := { opc := 0x032 }) h rfl (by simp [ht, htop]) (fun _ => rfl)
    · rw [Stream.exitLoop, if_neg htop]
      exact command_done_stream (u := { opc := 0x032 }) h rfl (by simp [ht, htop]) rfl h.listed
  obtain ⟨hkeep, hstart, hmem⟩ := s.st.exitLoop_keeps
  refine ⟨t, hnext, hd, fun hno => ?_⟩
  rw [hs]
  exact Stream.after_loops (hkeep.trans hslot) (fun l hl => hstart ▸ hno l (hmem l (Stream.mem_loops_of_top hl))) _ _

/-- A `BR` is taken where the predicate says so, at the cost of its branch register (07 R207). -/
theorem execBr_jumps {o : OpBr} {s : State} (h : s.Issues o.c [.b o.b] [o.p]) :
    ∃ t, execBr o s = .next t ∧ s.Done s o.c 0 t ∧
      t.st.slot = some ⟨if s.job.pred o.p = o.neg then none else some (s.bget o.b), .br, 2, s.st.cost o.b⟩ := by
  have hx : (if s.job.pred o.p = o.neg then none else some (s.bget o.b)) = if s.job.pred o.p != o.neg then some (s.bget o.b) else none := by
    by_cases hp : s.job.pred o.p = o.neg <;> simp [hp]
  rw [hx]
  exact command_jump (u := { opc := 0x02D, regs := [.b o.b], preds := [o.p] }) h rfl rfl h.listed

theorem execCall_jumps {o : OpB} {s : State} (h : s.Issues o.c [.b o.b, .s 31]) (hl : s.st.callLevel ≠ 255) :
    ∃ t, execCall o s = .next t ∧ s.Done (s.sput 31 (BitVec.ofNat 64 (s.skipCommands s.job 2 (s.st.pc.toNat + 12)))) o.c 0 t ∧
      t.st.slot = some ⟨some (s.bget o.b), .call, 2, s.st.cost o.b⟩ :=
  command_jump (u := { opc := 0x02E, regs := [.b o.b, .s 31] }) h (if_neg hl) (by simp) (by simpa using h.listed)

/-- Settles O8: a transfer's slot by `command_jump`, a loop's entry by `command_loop`. -/
theorem controlFlowCommands : Obligations.ControlFlowCommands := by
  unfold Obligations.ControlFlowCommands
  refine ⟨fun o s h => command_modSt (u := { opc := 0x02B, regs := [.b o.b] }) h rfl rfl,
    fun o s h => command_modSt (u := { opc := 0x02C, regs := [.b o.b, .s o.a] }) h rfl rfl,
    fun o s h => execBr_jumps h, fun o s h hl => execCall_jumps h hl,
    fun o s h => command_jump (u := { opc := 0x02F, regs := [.s 31] }) h rfl rfl h.listed, ?loop, ?loopr, ?skip, ?exit⟩
  case loop =>
    intro o s h hslot ht hlen hc hstop
    have hn : o.cnt.setWidth 32 ≠ 0 := by bv_omega
    exact command_loop (u := { opc := 0x030 }) h rfl rfl hslot ht hlen hn hstop
  case loopr =>
    intro o s h hslot ht hlen hstop h0 h1
    have hn : (s.sget o.a).setWidth 32 ≠ 0 := by bv_omega
    refine command_loop (u := { opc := 0x031, regs := [.s o.a] }) h rfl ?_ hslot ht hlen hn hstop
    rw [if_neg (by simp; omega)]
  case skip =>
    intro o s h ht hc
    have hn : o.cnt.setWidth 32 = 0 := by rw [hc]; rfl
    exact command_skip (u := { opc := 0x030 }) (f := loopBody (o.cnt.setWidth 32) o.stop) h (hn ▸ loopBody_skips ht)
  case exit =>
    intro o s h hslot ht
    obtain ⟨t, hnext, hd, hl⟩ := execLexit_exits h hslot ht
    exact ⟨t, hnext, hd, fun hno => (hl hno).trans (Stream.exitLoop_loops _)⟩

end Sys2Proof.Machine

namespace Sys2Proof.Machine

/-! ### Traps under sequencing (07 R197) -/

namespace Stream

/-- A stream without its place and its loops: all that sequencing changes (06 R174, 07 R206 to R211). -/
def unplaced (t : Stream) : Stream :=
  { t with pc := 0, entering := none, sect := none, left := [], ext := none, loops := [], callLevel := 0, slot := none, readyAt := 0 }

theorem unplaced_loopBack (t : Stream) (a : Word) (n : Nat) : (t.loopBack a n).unplaced = t.unplaced := by
  induction n generalizing t with
  | zero => rfl
  | succ n ih =>
    unfold loopBack
    split
    · rfl
    · split
      · split
        · rfl
        · exact ih t.pop
      · rfl

theorem unplaced_leave (t : Stream) (a : Word) (n : Nat) : (t.leave a n).unplaced = t.unplaced := by
  induction n generalizing t with
  | zero => rfl
  | succ n ih =>
    unfold leave
    split
    · rfl
    · split
      · rfl
      · exact ih t.pop

theorem unplaced_land (t : Stream) (g : Word) : (t.land g).unplaced = t.unplaced := by
  obtain ⟨e, l, x, h⟩ := t.land_eq g
  rw [h]; rfl

theorem unplaced_settlePc (t : Stream) (now n : Nat) : (t.settlePc now n).unplaced = t.unplaced := by
  cases hx : t.sect with
  | none => simp only [settlePc, hx]
  | some x =>
    by_cases h : t.pc.toNat < x.stop
    · rw [settlePc_inside hx h]
    · rw [settlePc_past hx (Nat.not_lt.mp h)]; rfl

theorem unplaced_fallOn (t : Stream) (now : Nat) (a : Word) : (t.fallOn now a).unplaced = t.unplaced := by
  unfold fallOn
  rw [unplaced_settlePc]
  split
  · rfl
  · exact t.unplaced_loopBack a 5

theorem unplaced_transferred (t : Stream) (k : TransferKind) (g : Word) : (t.transferred k g).unplaced = t.unplaced := by
  cases k with
  | br =>
    unfold transferred
    dsimp only
    split
    · rfl
    · exact t.unplaced_leave g 5
  | call | ret => rfl

theorem unplaced_takeTransfer (t : Stream) (x : Transfer) (g : Word) (now : Nat) : (t.takeTransfer x g now).unplaced = t.unplaced := by
  rw [takeTransfer_eq]
  exact (unplaced_land _ _).trans (t.unplaced_transferred x.kind g)

theorem unplaced_advance (t : Stream) (now : Nat) (a : Word) (len : Nat) (new : Option Transfer) : (t.advance now a len new).1.unplaced = t.unplaced := by
  unfold advance
  dsimp only
  split
  · rfl
  · split
    · split
      · rfl
      · split
        · exact unplaced_takeTransfer _ _ _ _
        · exact unplaced_fallOn _ _ _
    · exact unplaced_fallOn _ _ _

/-- Sequencing leaves the traps that have been raised. -/
theorem after_traps (t : Stream) (now : Nat) (u : Use) (x : Option Transfer) : (t.after now u x).traps = t.traps := by
  have h := congrArg Stream.traps (t.unplaced_advance now t.cmdStart (t.cmdLen u.two) x)
  exact h

theorem raise_traps {t : Stream} {now : Nat} {cause : Cause} {info : BitVec 32} (h : cause ≠ .arith) :
    t.raise now cause info = { t with traps := t.traps ++ [⟨cause, info, now⟩] } := by
  simp [raise, h]

end Stream

/-! ### Synchronisation (07 R188 to R191, R198) -/

/-- A trap that a command raises stands behind those raised before it. -/
theorem command_raises {s : State} {c : Ctl} {u : Use} {f : State → Act} {cause : Cause} {info : BitVec 32}
    (h : s.Issues c u.regs u.preds u.gw u.ga u.irrev) (hl : u.lat = 0) (hf : f s = .done (s.modSt (fun t => t.raise s.now cause info)) 0)
    (hc : cause ≠ .arith) :
    ∃ t, command c u f s = .next t ∧ s.Done s c 0 t ∧ (t.strOf s.cur).traps = s.st.traps ++ [⟨cause, info, s.now⟩] := by
  obtain ⟨t, ht, hd, hs⟩ := command_sequencing h hl hf (fun x => by rw [Stream.raise_traps hc]; rfl)
  refine ⟨t, ht, hd, ?_⟩
  rw [hs, Stream.after_traps, Stream.raise_traps hc]

/-! #### Semaphores -/

section
variable {s e : State} {c : Ctl} {u : Use} {f : State → BitVec 8 → Act} {x : SemIdx} {i : BitVec 8}

theorem semIdx_andThen {g : BitVec 8 → Act} (hi : s.semIdx x = .ok i) : (s.semIdx x).andThen g = g i := by rw [hi]; rfl

/-- A command on the semaphore that its operand names. -/
theorem command_sem {g : Job → Job} (h : s.Issues c u.regs u.preds u.gw u.ga u.irrev) (hl : u.lat = 0) (hi : s.semIdx x = .ok i)
    (hf : f s i = .done (s.modJob s.cur.job g) 0) :
    ∃ t, command c u (fun s => (s.semIdx x).andThen (f s)) s = .next t ∧ s.Done (s.modJob s.cur.job g) c 0 t :=
  command_modJob h hl ((semIdx_andThen hi).trans hf)

/-- One that reads it. -/
theorem command_sem_sput {d : SReg} {v : Word} (h : s.Issues c u.regs u.preds u.gw u.ga u.irrev) (hl : u.lat = 0) (hi : s.semIdx x = .ok i)
    (hf : f s i = .done (s.sput d v) 0) :
    ∃ t, command c u (fun s => (s.semIdx x).andThen (f s)) s = .next t ∧ s.Done (s.sput d v) c 0 t :=
  command_sput h hl ((semIdx_andThen hi).trans hf)

end

theorem semIdx_eq (s : State) (i : SemIdx) : s.semIdx i = match i with
    | .imm n => .ok n
    | .reg r => if (s.sget r).toNat ≤ 255 then .ok (BitVec.ofNat 8 (s.sget r).toNat) else .error (.err { code := 21 }) := by
  cases i with
  | imm n => rfl
  | reg r =>
    by_cases h : (s.sget r).toNat ≤ 255
    · simp [State.semIdx, h, Nat.not_lt.mpr h]
    · simp [State.semIdx, h, Nat.not_le.mp h]

/-- `SEMWAIT` goes on once its wait is met; before that it only stands past its guard. -/
theorem execSemwait_cases {o : OpSem} {s : State} {i : BitVec 8} (h : s.Issues o.c (SemIdx_regs o.i ++ SemAmt_regs o.v)) (hi : s.semIdx o.i = .ok i) :
    (s.job.waitMet i (s.semAmt o.v) = true → ∃ t, execSemwait o s = .next t ∧ s.Done s o.c 0 t) ∧
    (s.job.waitMet i (s.semAmt o.v) = false → execSemwait o s = .next s.begin) := by
  constructor
  · intro hw
    exact command_done (u := { opc := 0x006, regs := SemIdx_regs o.i ++ SemAmt_regs o.v }) h rfl ((semIdx_andThen hi).trans (if_pos hw)) rfl h.listed
  · intro hw
    exact command_wait (u := { opc := 0x006, regs := SemIdx_regs o.i ++ SemAmt_regs o.v }) h
      ((semIdx_andThen hi).trans (if_neg (Bool.eq_false_iff.mp hw)))

/-! #### Pre-emption points (07 R190) -/

/-- The state in which the running stream counts from a pre-emption point again (01 R38). -/
def State.atPoint (s : State) : State := s.modSt (fun t => { t with gap := 0 })

/-- A `SAFEPT` with its guard true comes to its body whatever its wait and its section's dependences. -/
theorem State.gate_safept {s : State} {c : Ctl} {u : Use} (h : s.Live) (hu : u.safept = true) (hk : s.guardKnown c = true)
    (hg : s.job.guardTrue c = true) : s.gate c u = .go := by
  simp [State.gate, h.issues, h.probed, Nat.not_lt.mpr h.ready, hu, hk, hg]

/-- A `SAFEPT` that stops leaves what its body answers. -/
theorem execSafept_stops {o : Op0} {s t : State} (h : s.Live) (hk : s.guardKnown o.c = true) (hg : s.job.guardTrue o.c = true)
    (hf : safeptBody o.c s = .stop t) : execSafept o s = .next t := by
  have hgate := State.gate_safept (u := { opc := 0x00A, safept := true }) h rfl hk hg
  simp [execSafept, command, State.run, hgate, State.pauses, hf, State.pausesAt, State.act]

theorem safeptBody_preempted {c : Ctl} {s : State} (hp : s.job.preempt.isSome = true) (hs : s.job.spec = none) :
    safeptBody c s = .stop (s.atPoint.modSt (fun t => { t with stopped := true })) := by
  simp [safeptBody, hp, hs, State.atPoint]

theorem safeptBody_shut {c : Ctl} {s : State} (hp : s.job.preempt = none) (ho : s.opens c = false) : safeptBody c s = .stop s.atPoint := by
  simp [safeptBody, hp, ho, State.atPoint]

theorem safeptBody_open {c : Ctl} {s : State} (hp : s.job.preempt = none) (ho : s.opens c = true) : safeptBody c s = .done s.atPoint 0 := by
  simp [safeptBody, hp, ho, State.atPoint]

theorem State.opens_of_issues {s : State} {c : Ctl} (h : s.Issues c []) : s.opens c = true := by
  have hd : (decide (s.st.issued ≠ s.st.entered) || s.job.depsMet s.cur.letter) = true := by
    rcases h.deps with hd | hd <;> simp [hd]
  have hf : s.fenced s.cur c.sig.isSome false = false := by simpa using h.fence
  simp [State.opens, h.wait, hf] at hd ⊢
  exact hd

theorem execSafept_passes {o : Op0} {s : State} (h : s.Issues o.c []) (hp : s.job.preempt = none) :
    ∃ t, execSafept o s = .next t ∧ s.Done s o.c 0 t ∧ (t.strOf s.cur).gap = 1 := by
  obtain ⟨t, ht, hd, hs⟩ := command_sequencing (u := { opc := 0x00A, safept := true }) (g := fun t => { t with gap := 0 }) h rfl
    (safeptBody_open hp (State.opens_of_issues h)) (fun _ => rfl)
  exact ⟨t, ht, hd, congrArg Stream.gap hs⟩

/-- Settles O9: each command's body, with the state it leaves. -/
theorem synchronisationCommands : Obligations.SynchronisationCommands := by
  unfold Obligations.SynchronisationCommands
  refine ⟨fun o s h => command_done (u := { opc := 0x001 }) h rfl rfl rfl h.listed,
    fun o s h => command_done (u := { opc := 0x00B, irrev := true }) h rfl rfl rfl h.listed, ?add, ?wait, ?snap, ?read, semIdx_eq,
    fun o s h hp => execSafept_passes h hp, fun o s h hk hg hp ho => execSafept_stops h hk hg (safeptBody_shut hp ho),
    fun o s h hk hg hp hs => execSafept_stops h hk hg (safeptBody_preempted hp hs), ?trap⟩
  case add =>
    exact fun o s i h hi => command_sem (u := { opc := 0x005, regs := SemIdx_regs o.i ++ SemAmt_regs o.v, gw := true }) h rfl hi rfl
  case wait =>
    intro o s i h hi
    obtain ⟨hmet, hunmet⟩ := execSemwait_cases h hi
    exact ⟨hmet, hunmet, command_sem (u := { opc := 0x007, regs := SemIdx_regs o.i ++ SemAmt_regs o.v }) h rfl hi rfl⟩
  case snap => exact fun o s i h hi => command_sem (u := { opc := 0x007, regs := SemIdx_regs o.i }) h rfl hi rfl
  case read =>
    intro o s i h hi
    rw [BitVec.ofNat_toNat]
    exact ⟨command_sem_sput (u := { opc := 0x008, regs := .s o.d :: SemIdx_regs o.i }) h rfl hi rfl,
      command_sem_sput (u := { opc := 0x008, regs := .s o.d :: SemIdx_regs o.i }) h rfl hi rfl⟩
  case trap =>
    exact fun o s h => ⟨command_raises (u := { opc := 0x00C, irrev := true }) h rfl rfl (by decide),
      command_raises (u := { opc := 0x00D, irrev := true }) h rfl rfl (by decide)⟩

end Sys2Proof.Machine

namespace Sys2Proof.Machine

/-! ### Commands in flight (03 R83) -/

@[simp] theorem State.fly_jobs (s : State) (c : Ctl) (u : Use) (w : Work) (l : List Reg) (ts : List Nat) (e : Option Nat) :
    (s.fly c u w l ts e).jobs = s.jobs := rfl
@[simp] theorem State.fly_jobOf (s : State) (c : Ctl) (u : Use) (w : Work) (l : List Reg) (ts : List Nat) (e : Option Nat) (k : Nat) :
    (s.fly c u w l ts e).jobOf k = s.jobOf k := rfl
@[simp] theorem State.fly_cores (s : State) (c : Ctl) (u : Use) (w : Work) (l : List Reg) (ts : List Nat) (e : Option Nat) :
    (s.fly c u w l ts e).cores = s.cores := rfl
@[simp] theorem State.fly_mem (s : State) (c : Ctl) (u : Use) (w : Work) (l : List Reg) (ts : List Nat) (e : Option Nat) :
    (s.fly c u w l ts e).mem = s.mem := rfl
@[simp] theorem State.fly_cur (s : State) (c : Ctl) (u : Use) (w : Work) (l : List Reg) (ts : List Nat) (e : Option Nat) :
    (s.fly c u w l ts e).cur = s.cur := rfl

/-- A command whose flight is all that its body adds to what `Launched` speaks of. -/
theorem State.Launched.of_moved {s e t : State} {c : Ctl} {u : Use} {w : Work} {dst : List Reg} (hm : State.Moved s.cur e t)
    (hf : e.flights = (s.fly c u w dst).flights) (hst : (e.strOf s.cur).aside = s.st.aside) (hj : ∀ k, k ≠ s.cur.job → e.jobOf k = s.jobOf k)
    (hc : e.cores = s.cores) (hmem : e.mem = s.mem) : s.Launched c dst (fun v => v = w) t := by
  refine ⟨⟨s.cur, s.st.visit, c.sig, dst, [], none, 0, s.st.cmdStart, u.opc, s.st.num, w⟩, ?_, rfl, rfl, rfl, rfl, hm.frame.stream.trans hst,
    fun k hk => (hm.frame.others k hk).trans (hj k hk), fun k => ?_, hm.frame.mem.trans hmem⟩
  · rw [hm.flights, hf]
    exact Map.find?_set_self _ _ _
  · simp only [State.coreOf, hm.frame.cores, hc]

/-- A command that is in flight once it has issued, with what its body has put on the agenda. -/
theorem command_fly_agenda {s e : State} {c : Ctl} {u : Use} {f : State → Act} (h : s.Issues c u.regs u.preds u.gw u.ga u.irrev) (hf : f s = .fly e)
    (hc : e.cur = s.cur) : ∃ t, command c u f s = .next t ∧ State.Moved s.cur e t ∧ ∀ x ∈ e.agenda, x ∈ t.agenda :=
  ⟨_, command_next h, by rw [hf]; exact ⟨State.act_fly hc, fun x hx => State.mem_agenda_onward hx⟩⟩

/-! ### The sending side of a destination (07 R215) -/

section
variable {j : Job} {d : Word} {y : Sender}

theorem Job.sender_dest (j : Job) (d : Word) : (j.sender d).dest = d := by
  unfold Job.sender
  cases h : j.senders.find? (fun x => x.dest = d) with
  | none => rfl
  | some y => simpa using List.find?_some h

/-- The record that was put in for its destination is the one found there. -/
theorem Job.sender_setSender (j : Job) (y : Sender) : (j.setSender y).sender y.dest = y := by
  unfold Job.setSender Job.sender
  by_cases hany : j.senders.any (fun z => z.dest = y.dest) = true
  · have hfind (l : List Sender) (hl : l.any (fun z => z.dest = y.dest) = true) :
        (l.map (fun z => if z.dest = y.dest then y else z)).find? (fun z => z.dest = y.dest) = some y := by
      induction l with
      | nil => cases hl
      | cons z l ih =>
        by_cases hz : z.dest = y.dest
        · simp [hz]
        · have hl' : l.any (fun z => z.dest = y.dest) = true := by simpa [hz] using hl
          simpa [hz] using ih hl'
    simp only [if_pos hany, hfind _ hany, Option.getD_some]
  · have hnone : j.senders.find? (fun z => z.dest = y.dest) = none := by
      simpa [List.find?_eq_none] using hany
    simp [hany, List.find?_append, hnone]

/-- A change of the senders is nothing else of a job. -/
theorem Job.setSender_keep {α : Type} (g : Job → α) (hg : ∀ (j : Job) (l : List Sender), g { j with senders := l } = g j) (j : Job) (y : Sender) :
    g (j.setSender y) = g j := by
  unfold Job.setSender
  split
  · exact hg _ _
  · exact hg _ _

theorem Job.sender_congr {i j : Job} (h : i.senders = j.senders) (d : Word) : i.sender d = j.sender d := by unfold Job.sender; rw [h]

end

/-- The state in which job `k` has the record `y` for its destination. -/
def State.putSender (s : State) (k : Nat) (y : Sender) : State := s.modJob k (fun j => j.setSender y)

section
variable {s : State} {k : Nat} {y : Sender}

theorem State.putSender_jobOf (h : (s.jobs.find? k).isSome = true) : (s.putSender k y).jobOf k = (s.jobOf k).setSender y :=
  s.jobOf_modJob_self _ h

theorem State.putSender_sender (h : (s.jobs.find? k).isSome = true) : ((s.putSender k y).jobOf k).sender y.dest = y := by
  rw [State.putSender_jobOf h, Job.sender_setSender]

/-- What a record of a sender leaves of every job. -/
theorem State.putSender_keep {α : Type} (g : Job → α) (hg : ∀ (j : Job) (l : List Sender), g { j with senders := l } = g j) (s : State) (k i : Nat)
    (y : Sender) : g ((s.putSender k y).jobOf i) = g (s.jobOf i) := by
  by_cases hi : i = k
  · subst hi
    by_cases h : (s.jobs.find? i).isSome = true
    · rw [State.putSender_jobOf h, Job.setSender_keep g hg]
    · have hn : s.jobs.find? i = none := by simpa using h
      simp [State.putSender, State.jobOf, Map.getD, State.jobs_modJob, hn]
  · rw [State.putSender, State.jobOf_modJob_ne _ _ hi]

end

/-! ### Messages that enter the fabric (09 R274) -/

/-- Message `m` of job `k` to `d` as it is sent now: its payload is read in the cycle of its sending. -/
def State.message (s : State) (k : Nat) (d : Word) (m : SentMsg) : Fmsg :=
  ⟨jobKey k, d, m.num, m.slot, s.scrRead (s.jobOf k) m.src m.len, s.scrBad (s.jobOf k) m.src m.len⟩

theorem State.sendNow_eq (s : State) (k : Nat) (d : Word) (m : SentMsg) : s.sendNow k d m = s.transmit (s.message k d m) := rfl

/-- A message depends on its job's window and core alone. -/
theorem State.message_congr {s t : State} {k : Nat} {d : Word} {m : SentMsg} (hc : t.cores = s.cores) (hk : (t.jobOf k).coreKey = (s.jobOf k).coreKey)
    (hb : (t.jobOf k).scrBase = (s.jobOf k).scrBase) : t.message k d m = s.message k d m := by
  simp only [State.message, State.scrRead, State.scrBad, State.coreOf, Job.scrAddr, hc, hk, hb]

theorem State.message_putSender (s : State) (k i : Nat) (y : Sender) (d : Word) (m : SentMsg) : (s.putSender k y).message i d m = s.message i d m :=
  State.message_congr (State.modJob_cores _ _ _) (s.putSender_keep Job.coreKey (fun _ _ => rfl) k i y) (s.putSender_keep Job.scrBase (fun _ _ => rfl) k i y)

/-- A state without what a message that enters the fabric changes. -/
def State.offFabric (s : State) : State := { s with nextId := 0, fmsgs := [], agenda := [], ticket := 0, outbox := [] }

theorem State.transmit_offFabric (s : State) (m : Fmsg) : (s.transmit m).offFabric = s.offFabric := by
  unfold State.transmit
  split
  · rfl
  · rfl

/-- What a message that enters the fabric leaves. -/
theorem State.transmit_keep {α : Type} (g : State → α) (hg : ∀ s : State, g s.offFabric = g s) (s : State) (m : Fmsg) : g (s.transmit m) = g s := by
  rw [← hg (s.transmit m), ← hg s, State.transmit_offFabric]

@[simp] theorem State.transmit_jobs (s : State) (m : Fmsg) : (s.transmit m).jobs = s.jobs := s.transmit_keep State.jobs (fun _ => rfl) m
@[simp] theorem State.transmit_cores (s : State) (m : Fmsg) : (s.transmit m).cores = s.cores := s.transmit_keep State.cores (fun _ => rfl) m
@[simp] theorem State.transmit_pkg (s : State) (m : Fmsg) : (s.transmit m).pkg = s.pkg := s.transmit_keep State.pkg (fun _ => rfl) m
@[simp] theorem State.transmit_jobOf (s : State) (m : Fmsg) (k : Nat) : (s.transmit m).jobOf k = s.jobOf k :=
  s.transmit_keep (State.jobOf · k) (fun _ => rfl) m

/-- A message to this package is under way under a fresh number. -/
theorem State.transmit_local {s : State} {m : Fmsg} (h : faPkg m.dest = s.pkg) :
    (s.transmit m).fmsgs = s.fmsgs.set s.nextId m ∧ (s.transmit m).nextId = s.nextId + 1 := by
  unfold State.transmit
  rw [if_pos h]
  exact ⟨rfl, rfl⟩

/-! ### `FMSEND` (07 R215, 09 R274) -/

/-- The record once message `m` has taken its place in the replay window. -/
def Sender.sent (x : Sender) (m : SentMsg) : Sender := { x with next := x.next + 1, window := x.window ++ [m] }

/-- The state in which message `m` is in flight and in its window. -/
def State.queued (s : State) (c : Ctl) (u : Use) (d : Word) (m : SentMsg) : State :=
  (s.fly c u (.message d m.num) []).putSender s.cur.job ((s.job.sender d).sent m)

/-- The state in which it is sent as well, where no back-off holds it. -/
def State.sends (s : State) (c : Ctl) (u : Use) (d : Word) (m : SentMsg) : State :=
  if (s.job.sender d).backoff.isSome then s.queued c u d m else (s.queued c u d m).transmit (s.message s.cur.job d m)

section
variable {s : State} {c : Ctl} {u : Use} {d : Word} {m : SentMsg}

theorem State.queued_message : (s.queued c u d m).message s.cur.job d m = s.message s.cur.job d m := State.message_putSender _ _ _ _ _ _

theorem State.sends_offFabric : (s.sends c u d m).offFabric = (s.queued c u d m).offFabric := by
  unfold State.sends
  split
  · rfl
  · exact State.transmit_offFabric _ _

theorem State.sends_keep {α : Type} (g : State → α) (hg : ∀ s : State, g s.offFabric = g s) : g (s.sends c u d m) = g (s.queued c u d m) := by
  rw [← hg (s.sends c u d m), ← hg (s.queued c u d m), State.sends_offFabric]

/-- A message is in flight; beside its record nothing of a job or a store has changed. -/
theorem State.sends_launched {t : State} (hm : State.Moved s.cur (s.sends c u d m) t) :
    s.Launched c [] (fun w => w = .message d m.num) t := by
  have hst : ((s.sends c u d m).strOf s.cur) = s.st :=
    (State.sends_keep (State.strOf · s.cur) fun _ => rfl).trans
      (State.putSender_keep (Job.stream · s.cur.letter) (fun _ _ => by cases s.cur.letter <;> rfl) _ _ _ _)
  refine .of_moved (u := u) hm ((State.sends_keep State.flights fun _ => rfl).trans (State.modJob_flights _ _ _)) (congrArg Stream.aside hst)
    (fun k hk => (State.sends_keep (State.jobOf · k) fun _ => rfl).trans (State.jobOf_modJob_ne _ _ hk))
    ((State.sends_keep State.cores fun _ => rfl).trans (State.modJob_cores _ _ _))
    ((State.sends_keep State.mem fun _ => rfl).trans (State.modJob_mem _ _ _))

theorem State.sends_sender (h : (s.jobs.find? s.cur.job).isSome = true) :
    ((s.sends c u d m).jobOf s.cur.job).sender d = (s.job.sender d).sent m := by
  have hd : ((s.job.sender d).sent m).dest = d := s.job.sender_dest d
  have hs := State.putSender_sender (s := s.fly c u (.message d m.num) []) (k := s.cur.job) (y := (s.job.sender d).sent m) h
  rw [hd] at hs
  rw [State.sends_keep (State.jobOf · s.cur.job) fun _ => rfl]
  exact hs

end

section
variable {o : OpFmsend} {s : State} {n a : Nat} {d : Word}

/-- The message that an `FMSEND` puts in its window. -/
def fmsendMsg (o : OpFmsend) (s : State) (d : Word) (a n : Nat) : SentMsg := ⟨(s.job.sender d).next, a, n, (s.sget o.slot).toNat % 256, s.nextId⟩

theorem fmsendBody_sends (hn : (s.sget o.n).toNat = n) (h0 : 0 < n) (h1 : n ≤ 4096) (hd : s.sget o.p &&& ~~~0xF8#64 = d)
    (ha : s.scrOperand o.b 0 n 1 = .ok a) (hb : s.destBad s.job d = false) (hw : (s.job.sender d).window.length < 32)
    (hs : (s.job.senders.filter (fun y => !y.window.isEmpty)).length < 64) :
    fmsendBody o (fmsendUse o) s = .fly (s.sends o.c (fmsendUse o) d (fmsendMsg o s d a n)) := by
  have hlen : (decide (n = 0) || decide (4096 < n)) = false := by simp; omega
  have hroom : (decide (32 ≤ (s.job.sender d).window.length) || ((s.job.sender d).window.isEmpty &&
      decide (64 ≤ (s.job.senders.filter (fun y => !y.window.isEmpty)).length))) = false := by simp; omega
  have hslot : natBits (s.sget o.slot).toNat 0 8 = (s.sget o.slot).toNat % 256 := by simp [natBits]
  simp only [fmsendBody, hn, hd, hlen, ha, Check.andThen, hb, hroom, hslot, Bool.false_eq_true, if_false]
  unfold State.sends
  split
  · rfl
  · rw [← State.queued_message]; rfl

theorem execFmsend_sends (h : s.Issues o.c [.s o.p, .s o.b, .s o.n, .s o.slot] (irrev := true)) (hn : (s.sget o.n).toNat = n) (h0 : 0 < n)
    (h1 : n ≤ 4096) (hd : s.sget o.p &&& ~~~0xF8#64 = d) (ha : s.scrOperand o.b 0 n 1 = .ok a) (hb : s.destBad s.job d = false)
    (hw : (s.job.sender d).window.length < 32) (hs : (s.job.senders.filter (fun y => !y.window.isEmpty)).length < 64) :
    ∃ t, execFmsend o s = .next t ∧ State.Moved s.cur (s.sends o.c (fmsendUse o) d (fmsendMsg o s d a n)) t :=
  command_fly (u := fmsendUse o) h (fmsendBody_sends hn h0 h1 hd ha hb hw hs) (State.sends_keep State.cur (fun _ => rfl) |>.trans (State.modJob_cur _ _ _))

end

/-- Where no back-off runs, a message to this package is under way. -/
theorem State.sends_fmsgs {s : State} {c : Ctl} {u : Use} {d : Word} {m : SentMsg} (hb : (s.job.sender d).backoff = none) (hp : faPkg d = s.pkg) :
    ∃ i, (s.sends c u d m).fmsgs.find? i = some (s.message s.cur.job d m) := by
  have hq : (s.queued c u d m).pkg = s.pkg := State.modJob_pkg _ _ _
  have he : s.sends c u d m = (s.queued c u d m).transmit (s.message s.cur.job d m) := by simp [State.sends, hb]
  rw [he, (State.transmit_local (hp.trans hq.symm)).1]
  exact ⟨_, Map.find?_set_self _ _ _⟩

end Sys2Proof.Machine

namespace Sys2Proof.Machine

/-! ### `FMRECV` (09 R272, R275) -/

/-- A descriptor whose slots and slot size have defined values. -/
theorem portDescOk_of {p : Port} (h0 : p.slots ≤ 64) (h1 : p.slots = 0 ∨ 16 ≤ p.slotBytes ∧ p.slotBytes ≤ 4096) : portDescOk p.desc = true := by
  unfold Port.slots Port.slotBytes at *
  simp only [portDescOk, Bool.and_eq_true, Bool.or_eq_true, decide_eq_true_eq]
  omega

section
variable {s : State}

/-- The port that an `FMRECV.BIND` binds: its descriptor without the reserved bits. -/
def State.newPort (s : State) (o : OpFmBind) : Port := { Port.unbound with desc := s.sget o.d &&& portMask }

theorem fmBindBody_binds {o : OpFmBind} {a b : Nat} (h0 : (s.newPort o).slots ≤ 64)
    (h1 : (s.newPort o).slots = 0 ∨ 16 ≤ (s.newPort o).slotBytes ∧ (s.newPort o).slotBytes ≤ 4096)
    (ha : s.scrOperand o.a 0 ((s.newPort o).slots * (s.newPort o).slotBytes) 16 = .ok a) (hb : s.awCheck (s.newPort o) = .ok b)
    (hh : s.job.ports[o.f].held = []) :
    fmBindBody o s = .done (s.modJob s.cur.job (fun j => j.setPort o.f { s.newPort o with ring := a, expect := s.job.ports[o.f].expect })) 0 := by
  have hok := portDescOk_of h0 h1
  unfold State.newPort at hok ha hb
  simp only [fmBindBody, hok, ha, hb, hh, Check.andThen, Bool.not_true, Bool.false_eq_true, if_false, List.isEmpty_nil]
  rfl

/-- A queue port that holds a message gives up its oldest one. -/
theorem fmPopBody_pops {o : OpFmPop} {m : PortMsg} {r : List PortMsg} (hs : s.job.ports[o.f].slots ≠ 0) (hb : s.job.ports[o.f].buffer = false)
    (hh : s.job.ports[o.f].held = m :: r) :
    fmPopBody o s = .done ((s.modJob s.cur.job (fun j => j.setPort o.f { s.job.ports[o.f] with held := r, popped := some m.slot })).sput o.d
      (BitVec.ofNat 64 (m.len * 2 ^ 32 + (s.job.ports[o.f].ring + m.slot * s.job.ports[o.f].slotBytes)))) 0 := by
  have hbound : s.job.ports[o.f].bound = true := decide_eq_true hs
  simp only [fmPopBody, hbound, hb, Bool.and_false, Bool.false_eq_true, if_false]
  split
  next hm =>
    cases hh.symm.trans hm
    rfl
  next hno => exact absurd hh (hno m r rfl)

theorem fmFltBody_eq {o : OpFmPop} {w : Word} (hw : s.job.ports[o.f].faults.headD 0 = w) :
    fmFltBody o s = .done ((s.modJob s.cur.job (fun j => j.setPort o.f { s.job.ports[o.f] with faults := s.job.ports[o.f].faults.tail })).sput o.d w) 0 := by
  rw [← hw]; rfl

/-- A command that changes its job and writes an s-register. -/
theorem command_modJob_sput {c : Ctl} {u : Use} {f : State → Act} {g : Job → Job} {d : SReg} {v : Word}
    (h : s.Issues c u.regs u.preds u.gw u.ga u.irrev) (hl : u.lat = 0) (hf : f s = .done ((s.modJob s.cur.job g).sput d v) 0) :
    ∃ t, command c u f s = .next t ∧ s.Done ((s.modJob s.cur.job g).sput d v) c 0 t :=
  command_done h hl hf (by simp) (by simpa using h.listed)

end

/-! ### `WAKE` (09 R276) -/

section
variable {o : OpWake} {s : State} {q : Nat}

/-- The store to a wake register that a `WAKE` of the own package sends. -/
def State.wakeArgs (s : State) (o : OpWake) (q : Nat) : Args :=
  { a := q, b := s.job.part + 1, c := s.nextId + 1, word := (s.sget o.v).setWidth 32 |>.setWidth 64 }

/-- The state in which a `WAKE` of the own package is in flight, and its store on its way. -/
def State.wakes (s : State) (o : OpWake) (q : Nat) : State :=
  let t := s.fly o.c (wakeUse o) (.wake q ((s.sget o.v).setWidth 32) true) []
  if (s.queueOf q).die = s.job.die then t.post 12 .wakeRegisterStore (s.wakeArgs o q) else t.later .wakeRegisterStore (s.wakeArgs o q)

/-- A register address of the own package, once the fence's conditions hold. -/
theorem wakeBody_wakes (ha : (s.sget o.a).toNat = s.job.pkg * 2 ^ 44 + q) (hq : q < 4096) (hp : s.job.pkg < 4096)
    (hr : s.released s.cur .package s.nextId s.now = true) : wakeBody o (wakeUse o) s = .fly (s.wakes o q) := by
  have hno : natBits (s.job.pkg * 2 ^ 44 + q) 0 12 = q := by simp only [natBits]; omega
  have hpkg : natBits (s.job.pkg * 2 ^ 44 + q) 44 12 = s.job.pkg := by simp only [natBits]; omega
  simp only [wakeBody, ha, hno, hpkg, if_true, hr, Bool.not_true, Bool.false_eq_true, if_false, ne_eq, not_true]
  unfold State.wakes
  dsimp only
  split
  · rfl
  · rfl

theorem execWake_wakes (h : s.Issues o.c [.s o.a, .s o.v] (irrev := true)) (ha : (s.sget o.a).toNat = s.job.pkg * 2 ^ 44 + q) (hq : q < 4096)
    (hp : s.job.pkg < 4096) (hr : s.released s.cur .package s.nextId s.now = true) :
    ∃ t, execWake o s = .next t ∧ s.Launched o.c [] (fun w => w = .wake q ((s.sget o.v).setWidth 32) true) t ∧
      ((s.queueOf q).die = s.job.die → ⟨s.now + 12, .event .wakeRegisterStore (s.wakeArgs o q)⟩ ∈ t.agenda) := by
  have hb : (s.fly o.c (wakeUse o) (.wake q ((s.sget o.v).setWidth 32) true) []).Beside (s.wakes o q) := by
    unfold State.wakes
    dsimp only
    split
    · exact .post _ _ _ _
    · exact .later _ _ _
  obtain ⟨t, ht, hm, hag⟩ := command_fly_agenda (u := wakeUse o) h (wakeBody_wakes ha hq hp hr) hb.cur
  refine ⟨t, ht, .of_moved (u := wakeUse o) hm hb.flights (congrArg Stream.aside (hb.strOf s.cur)) (fun k _ => hb.jobOf k) ?_ ?_, fun hd => hag _ ?_⟩
  · unfold State.wakes; dsimp only; split <;> rfl
  · unfold State.wakes; dsimp only; split <;> rfl
  · simp [State.wakes, hd, State.post, State.fly, State.newId]

end

end Sys2Proof.Machine

namespace Sys2Proof.Machine

/-! ### Receiving (07 R214, 09 R273) -/

section
variable {s : State} {sender k : Nat} {dest : Word} {num : BitVec 16} {slot : Nat} {data : List Byte} {bad : Bool}

/-- What a bound port of a job on a core answers: the expected number is taken unless a queue has no slot, one that has been taken is acknowledged
again, one too far ahead is not answered. -/
theorem State.receive_bound (hk : s.portJob dest = some k) (hs : ((s.jobOf k).port (faPort dest)).slots ≠ 0) (hr : (s.jobOf k).status = .running) :
    s.receive sender dest num slot data bad =
      let p := (s.jobOf k).port (faPort dest)
      let e := p.expect.getD sender 0
      if num = e then
        if !p.buffer && p.freeSlot.isNone then (s, .nack)
        else
          ((s.modJob k (fun j => j.setPort (faPort dest) { p with expect := p.expect.set sender (num + 1) })).acceptMsg k (faPort dest) num slot data bad,
            .ack)
      else if (e - num).toNat ≤ 32 then (s, .ack)
      else (s, .silent) := by
  have hb : ((s.jobOf k).port (faPort dest)).bound = true := decide_eq_true hs
  have hc : (s.jobOf k).onCore = true := by simp [Job.onCore, hr]
  simp only [State.receive, hk, hb, hc, Bool.not_true, Bool.or_self, Bool.false_eq_true, if_false]

end

/-! ### Arrival (07 R214) -/

@[simp] theorem State.replyTo_jobs (s : State) (sender : Nat) (dest : Word) (num : BitVec 16) (r : Reply) : (s.replyTo sender dest num r).jobs = s.jobs := by
  cases r <;> rfl

@[simp] theorem State.replyTo_fmsgs (s : State) (sender : Nat) (dest : Word) (num : BitVec 16) (r : Reply) :
    (s.replyTo sender dest num r).fmsgs = s.fmsgs := by
  cases r <;> rfl

/-- A job's message that no older one of it precedes is received, and leaves the fabric. -/
theorem State.arrive_job {s : State} {k : Nat} {m : Fmsg} (hm : s.fmsgs.find? k = some m) (hj : m.sender % 4 = 0)
    (hfirst : ∀ e ∈ s.fmsgs, e.1 = k ∨ e.2.sender ≠ m.sender) :
    (s.arrive k).fmsgs.find? k = none ∧ ∀ i, (s.arrive k).jobOf i = (s.receive m.sender m.dest m.num m.slot m.data m.poison).1.jobOf i := by
  have hno : s.fmsgs.any (fun e => e.1 < k && e.2.sender = m.sender && e.2.dest = m.dest) = false := by
    refine List.any_eq_false.mpr fun e he => ?_
    rcases hfirst e he with h | h <;> simp [h]
  simp only [State.arrive, hm, hno, hj, Bool.false_eq_true, if_false, if_true]
  exact ⟨by simp, fun i => by simp [State.jobOf]⟩

/-! ### What a completion point leaves of the senders -/

theorem State.Frame.senders {r : Ref} {e t : State} (h : State.Frame r e t) (k : Nat) : (t.jobOf k).senders = (e.jobOf k).senders := by
  by_cases hk : k = r.job
  · have hj := congrArg Job.senders h.job
    rw [hk]
    exact hj
  · rw [h.others k hk]

theorem State.finish_senders (s : State) (f : Nat) (fl : Flags) (k : Nat) : ((s.finish f fl).jobOf k).senders = (s.jobOf k).senders := by
  cases hf : s.flights.find? f with
  | none => rw [State.finish_of_gone fl hf]
  | some x => exact (State.finish_frame fl hf).senders k

@[simp] theorem State.complete_flights (s : State) (r : Ref) (g : Option (BitVec 8 × BitVec 3)) (fl : BitVec 5) :
    (s.complete r g fl).flights = s.flights := by
  unfold State.complete
  dsimp only
  split <;> simp [State.signal]

theorem State.finish_flights {s : State} {k : Nat} {f : Flight} (fl : Flags) (hf : s.flights.find? k = some f) :
    (s.finish k fl).flights = s.flights.erase k := by
  simp only [State.finish, hf]
  exact (State.Moved.checkRetire f.ref f.ref _).flights.trans (by simp)

/-- No flight is left of a command that has completed. -/
theorem State.finish_gone (s : State) (k : Nat) (fl : Flags) : (s.finish k fl).flights.find? k = none := by
  cases hf : s.flights.find? k with
  | none => rw [State.finish_of_gone fl hf, hf]
  | some f => rw [State.finish_flights fl hf, Map.find?_erase_self]

theorem Map.mem_of_mem_erase {α : Type} {m : Map α} {k : Nat} {e : Nat × α} (h : e ∈ m.erase k) : e ∈ m := by
  induction m with
  | nil => exact h
  | cons x m ih =>
    unfold Map.erase at h
    split at h
    · exact List.mem_cons_of_mem _ (ih h)
    · rcases List.mem_cons.mp h with h | h
      · exact h ▸ List.mem_cons_self
      · exact List.mem_cons_of_mem _ (ih h)

/-- A completion point adds no flight. -/
theorem State.finish_adds_none {s : State} {i : Nat} (k : Nat) (fl : Flags) (h : s.flights.find? i = none) : (s.finish k fl).flights.find? i = none := by
  by_cases hi : i = k
  · rw [hi, State.finish_gone]
  · cases hf : s.flights.find? k with
    | none => rw [State.finish_of_gone fl hf, h]
    | some f => rw [State.finish_flights fl hf, Map.find?_erase_ne _ hi, h]

theorem State.checkFence_adds_none {s : State} {i : Nat} (e : Nat × Flight) (h : s.flights.find? i = none) : (s.checkFence e).flights.find? i = none := by
  unfold State.checkFence
  split
  next acq y n _ =>
    split
    · exact State.finish_adds_none _ _ (by rw [(s.fenceStart_same acq e.2.ref y).2, h])
    · exact h
  · exact h

theorem State.checkFences_adds_none {s : State} {i : Nat} (h : s.flights.find? i = none) : s.checkFences.flights.find? i = none := by
  rw [State.checkFences_eq]
  exact List.foldlRecOn (motive := fun t : State => t.flights.find? i = none) s.flights State.checkFence h (fun t ht e _ => State.checkFence_adds_none e ht)

theorem State.checkFences_senders (s : State) (k : Nat) : (s.checkFences.jobOf k).senders = (s.jobOf k).senders := by
  rw [State.checkFences_eq]
  refine State.foldl_keeps (fun t : State => (t.jobOf k).senders) (fun t e => ?_) _ s
  unfold State.checkFence
  split
  next acq y n _ =>
    split
    · rw [State.finish_senders, State.jobOf, (t.fenceStart_same acq e.2.ref y).1]; rfl
    · rfl
  · rfl

/-! ### Acknowledgements (07 R215) -/

section
variable {s : State} {k : Nat} {d : Word} {num : BitVec 16}

/-- The state in which the commands of messages `l` have completed, one after the other, and the fences that waited for them with them. -/
def State.ackAll (s : State) (l : List SentMsg) : State := (l.foldl (fun s m => s.finish m.flight 0) s).checkFences

theorem State.ackAll_senders (s : State) (l : List SentMsg) (k : Nat) : ((s.ackAll l).jobOf k).senders = (s.jobOf k).senders := by
  rw [State.ackAll, State.checkFences_senders]
  exact State.foldl_keeps (fun t : State => (t.jobOf k).senders) (fun t m => t.finish_senders m.flight 0 k) l s

theorem State.ackAll_last_gone (s : State) (pre : List SentMsg) (m : SentMsg) : (s.ackAll (pre ++ [m])).flights.find? m.flight = none := by
  refine State.checkFences_adds_none ?_
  rw [List.foldl_append]
  exact State.finish_gone _ _ _

/-- The one command that an acknowledgement completes, where no fence waits. -/
theorem State.ackAll_completes {m : SentMsg} {f : Flight} (hf : s.flights.find? m.flight = some f) (hj : (s.jobs.find? f.ref.job).isSome = true)
    (hno : ∀ e ∈ s.flights, ∀ b y n, e.2.work ≠ .fence b y n) : s.Completes m.flight f f.flags (s.ackAll [m]) := by
  have hc : s.Completes m.flight f f.flags (s.finish m.flight 0) := by simpa using State.finish_completes 0 hf hj
  have hfl := State.finish_flights 0 hf
  have he : s.ackAll [m] = (s.finish m.flight 0).flights.foldl State.checkFence (s.finish m.flight 0) := rfl
  rw [he]
  refine State.Completes.checkRest (fun e he => .inr (hno e ?_)) hc
  rw [hfl] at he
  exact Map.mem_of_mem_erase he

/-- The messages that an acknowledgement frees: its own and every earlier one. -/
theorem acked_messages {pre post : List SentMsg} {m : SentMsg} (hm : m.num = num) (hne : ∀ x ∈ pre ++ post, x.num ≠ num) :
    (pre ++ m :: post).takeWhile (fun x => x.num ≠ num) ++ (pre ++ m :: post).filter (fun x => x.num = num) = pre ++ [m] := by
  have hpre : ∀ x ∈ pre, x.num ≠ num := fun x hx => hne x (List.mem_append_left _ hx)
  have hpost : ∀ x ∈ post, x.num ≠ num := fun x hx => hne x (List.mem_append_right _ hx)
  rw [List.takeWhile_append_of_pos (by simpa using hpre), List.filter_append, List.filter_eq_nil_iff.mpr (by simpa using hpre)]
  simp [hm, List.filter_eq_nil_iff.mpr (show ∀ x ∈ post, ¬decide (x.num = num) = true by simpa using hpost)]

theorem State.acked_frees {pre post : List SentMsg} {m : SentMsg} (hw : ((s.jobOf k).sender d).window = pre ++ m :: post) (hm : m.num = num)
    (hne : ∀ x ∈ pre ++ post, x.num ≠ num) :
    s.acked k d num = (s.putSender k { (s.jobOf k).sender d with window := post, nacks := 0 }).ackAll (pre ++ [m]) := by
  have hany : ((s.jobOf k).sender d).window.any (fun x => x.num = num) = true := by simp [hw, hm]
  have hdrop : (pre ++ m :: post).drop (pre ++ [m]).length = post := by
    rw [List.append_cons pre m post, List.drop_left]
  simp only [State.acked, hany, Bool.not_true, Bool.false_eq_true, if_false]
  rw [hw, acked_messages hm hne, hdrop]
  rfl

/-- An acknowledgement of a message that has left the window. -/
theorem State.acked_resets (hj : (s.jobs.find? k).isSome = true) (hno : ∀ m ∈ ((s.jobOf k).sender d).window, m.num ≠ num) :
    ((s.acked k d num).jobOf k).sender d = { (s.jobOf k).sender d with nacks := 0 } ∧ (s.acked k d num).flights = s.flights := by
  have hany : ((s.jobOf k).sender d).window.any (fun x => x.num = num) = false := List.any_eq_false.mpr (by simpa using hno)
  simp only [State.acked, hany, Bool.not_false, if_true]
  split
  next h0 => exact ⟨by rw [← h0], rfl⟩
  next =>
    have hs := State.putSender_sender (y := { (s.jobOf k).sender d with nacks := 0 }) hj
    rw [show ({ (s.jobOf k).sender d with nacks := 0 } : Sender).dest = d from Job.sender_dest _ _] at hs
    exact ⟨hs, State.modJob_flights _ _ _⟩

end

end Sys2Proof.Machine

namespace Sys2Proof.Machine

/-! ### Negative acknowledgements and the end of a back-off (07 R215, R216) -/

theorem backoffTime_eq (w : Word) (n : Nat) :
    backoffTime w n = min (w.toNat % 65536 * 2 ^ (n - 1)) (max (w.toNat % 65536) (w.toNat / 65536 % 65536)) := by
  simp [backoffTime, natBits]

section
variable {s : State} {k : Nat} {d : Word} {num : BitVec 16}

/-- A negative acknowledgement stops sending for the back-off time of the number of them in a row. -/
theorem State.nacked_stops (hj : (s.jobs.find? k).isSome = true) (hin : ∃ m ∈ ((s.jobOf k).sender d).window, m.num = num)
    (hb : ((s.jobOf k).sender d).backoff = none) :
    (((s.nacked k d num).jobOf k).sender d).nacks = ((s.jobOf k).sender d).nacks + 1 ∧
    (((s.nacked k d num).jobOf k).sender d).backoff =
      some (s.now + backoffTime (s.jobOf k).fmbackoff (((s.jobOf k).sender d).nacks + 1)) := by
  have hany : ((s.jobOf k).sender d).window.any (fun x => x.num = num) = true := by simpa using hin
  simp only [State.nacked, hany, Bool.not_true, Bool.false_eq_true, if_false, hb, Option.getD_none, Nat.max_zero, State.post_jobOf]
  generalize hy : ({ (s.jobOf k).sender d with
    nacks := _, backoff := some (s.now + _), resend := some _ } : Sender) = y
  have hd : y.dest = d := by rw [← hy]; exact Job.sender_dest _ _
  have hs : ((s.putSender k y).jobOf k).sender d = y := hd ▸ State.putSender_sender hj
  rw [show (s.modJob k fun j => j.setSender y) = s.putSender k y from rfl, hs, ← hy]
  exact ⟨rfl, rfl⟩

/-! Sending again -/

/-- The state in which messages `l` of job `k` have been sent again, in order. -/
def State.sendAll (s : State) (k : Nat) (d : Word) (l : List SentMsg) : State := l.foldl (fun s m => s.sendNow k d m) s

theorem State.sendAll_jobs (s : State) (k : Nat) (d : Word) (l : List SentMsg) : (s.sendAll k d l).jobs = s.jobs :=
  State.foldl_keeps State.jobs (fun t m => t.transmit_jobs (t.message k d m)) l s

/-- A message that enters the fabric takes a new number. -/
theorem State.transmit_older {i : Nat} (m : Fmsg) (h : i < s.nextId) : (s.transmit m).fmsgs.find? i = s.fmsgs.find? i ∧ i < (s.transmit m).nextId := by
  by_cases hp : faPkg m.dest = s.pkg
  · obtain ⟨hf, hn⟩ := State.transmit_local hp
    rw [hf, hn, Map.find?_set_ne _ _ h.ne]
    exact ⟨rfl, by omega⟩
  · simp only [State.transmit, if_neg hp]
    exact ⟨trivial, h⟩

theorem State.sendAll_older {i : Nat} (l : List SentMsg) (h : i < s.nextId) : (s.sendAll k d l).fmsgs.find? i = s.fmsgs.find? i := by
  induction l generalizing s with
  | nil => rfl
  | cons m l ih =>
    obtain ⟨hf, hn⟩ := State.transmit_older (s.message k d m) h
    exact (ih (s := s.sendNow k d m) hn).trans hf

/-- Each of them is under way, with its payload as it stands now. -/
theorem State.sendAll_sends {l : List SentMsg} {m : SentMsg} (hp : faPkg d = s.pkg) (hm : m ∈ l) :
    ∃ i, (s.sendAll k d l).fmsgs.find? i = some (s.message k d m) := by
  induction l generalizing s with
  | nil => cases hm
  | cons x l ih =>
    obtain ⟨hf, hn⟩ := State.transmit_local (s := s) (m := s.message k d x) hp
    rcases List.mem_cons.mp hm with rfl | hm
    · refine ⟨s.nextId, (State.sendAll_older (s := s.sendNow k d m) l ?_).trans ?_⟩
      · rw [State.sendNow_eq, hn]; omega
      · rw [State.sendNow_eq, hf]; exact Map.find?_set_self _ _ _
    · obtain ⟨i, hi⟩ := ih (s := s.sendNow k d x) (hp.trans (State.transmit_pkg _ _).symm) hm
      have hmsg : (s.sendNow k d x).message k d m = s.message k d m :=
        State.message_congr (State.transmit_cores _ _) (by rw [State.sendNow_eq, State.transmit_jobOf]) (by rw [State.sendNow_eq, State.transmit_jobOf])
      exact ⟨i, hmsg ▸ hi⟩

/-- The state at the end of a back-off: it is over, and the number that it kept and every later one are sent again. -/
theorem State.resend_due {b : Nat} {n : BitVec 16} (hb : ((s.jobOf k).sender d).backoff = some b) (hr : ((s.jobOf k).sender d).resend = some n)
    (hdue : b ≤ s.now) : s.resend k d = (s.putSender k { (s.jobOf k).sender d with backoff := none, resend := none }).sendAll k d
      (((s.jobOf k).sender d).window.filter (fun m => decide ((m.num - n).toNat < 2 ^ 15))) := by
  simp only [State.resend, hb, hr, if_neg (Nat.not_lt.mpr hdue)]
  rfl

theorem State.resend_sends {b : Nat} {n : BitVec 16} (hb : ((s.jobOf k).sender d).backoff = some b) (hr : ((s.jobOf k).sender d).resend = some n)
    (hdue : b ≤ s.now) (hj : (s.jobs.find? k).isSome = true) :
    (((s.resend k d).jobOf k).sender d).backoff = none ∧ (((s.resend k d).jobOf k).sender d).resend = none ∧
      (faPkg d = s.pkg → ∀ m ∈ ((s.jobOf k).sender d).window, (m.num - n).toNat < 2 ^ 15 →
        ∃ i, (s.resend k d).fmsgs.find? i = some (s.message k d m)) := by
  rw [State.resend_due hb hr hdue]
  generalize hy : ({ (s.jobOf k).sender d with backoff := none, resend := none } : Sender) = y
  have hd : y.dest = d := by rw [← hy]; exact Job.sender_dest _ _
  have hs : (((s.putSender k y).sendAll k d
      (((s.jobOf k).sender d).window.filter (fun m => decide ((m.num - n).toNat < 2 ^ 15)))).jobOf k).sender d = y := by
    rw [State.jobOf, State.sendAll_jobs]
    exact hd ▸ State.putSender_sender hj
  rw [hs, ← hy]
  refine ⟨rfl, rfl, fun hp m hm hn => ?_⟩
  rw [hy, ← State.message_putSender s k k y]
  exact State.sendAll_sends (hp.trans (State.modJob_pkg _ _ _).symm) (List.mem_filter.mpr ⟨hm, decide_eq_true hn⟩)

end

/-! ### Wake stores (09 R276, 19 R433) -/

section
variable {s : State} {q : Nat}

theorem State.wake_queueOf (s : State) (q : Nat) (v : BitVec 32) : (s.wake q v).queueOf q = (s.queueOf q).wake v := by
  simp [State.wake, State.queueOf, State.modQueue]

/-- A sequence that moves forward within the ring is taken. -/
theorem Queue.wake_forward {e : Queue} {v : BitVec 32} (hv : e.valid = true) (hd : e.direct = false) (h0 : 0 < (v - e.wseq).toInt)
    (h1 : (v - e.rseq).toNat ≤ e.size) : e.wake v = { e with wseq := v, pending := true } := by
  have hmoves : (!e.valid || e.direct || decide ((v - e.wseq).toInt ≤ 0)) = false := by
    rw [hv, hd, decide_eq_false (Int.not_le.mpr h0)]; rfl
  simp only [Queue.wake, hmoves, if_neg (Nat.not_lt.mpr h1), Bool.false_eq_true, if_false]

/-- A queue record is none of a job's, and a completion point leaves it. -/
theorem State.finish_queueOf (s : State) (k : Nat) (fl : Flags) (q : Nat) : (s.finish k fl).queueOf q = s.queueOf q :=
  State.finish_keeps (State.queueOf · q) (fun _ => rfl) s k fl

theorem execWakeRegisterStore_host {vf width : Nat} (hsrc : s.args.src = .host vf width) (hw : width = 8) (hv : (s.queueOf s.args.a).valid = true)
    (hf : (s.queueOf s.args.a).vf = vf) : execWakeRegisterStore s = .next (s.wake s.args.a (s.args.word.setWidth 32)) := by
  simp [execWakeRegisterStore, hsrc, hw, hv, hf]

/-- A `WAKE` that may ring the queue stores its sequence, and completes. -/
theorem execWakeRegisterStore_rings {k : Nat} {part : Nat} (hsrc : s.args.src = .inside) (hfl : s.args.flag = false) (hb : s.args.b = part + 1)
    (hc : s.args.c = k + 1) (hr : (s.queueOf s.args.a).rings part = true) :
    execWakeRegisterStore s = .next ((s.wake s.args.a (s.args.word.setWidth 32)).finish k 0) := by
  simp [execWakeRegisterStore, hsrc, hfl, hb, hc, hr, State.wakeReply]

/-- One that may not is the context error `WAKE_DEST`. -/
theorem execWakeRegisterStore_refused {k : Nat} {part : Nat} (hsrc : s.args.src = .inside) (hfl : s.args.flag = false) (hb : s.args.b = part + 1)
    (hc : s.args.c = k + 1) (hr : (s.queueOf s.args.a).rings part = false) :
    execWakeRegisterStore s = .next (s.flightError k { code := 36 }) := by
  simp [execWakeRegisterStore, hsrc, hfl, hb, hc, hr, State.wakeReply]

theorem State.Beside.wake (s : State) (q : Nat) (v : BitVec 32) : s.Beside (s.wake q v) := (State.Beside.modQueue s _ _).trans (.ensure _ _ _ _)

theorem State.putError_frame (r : Ref) (s : State) (e : ErrRec) : State.Frame r s (s.putError r.job e) ∧ (s.putError r.job e).flights = s.flights :=
  ⟨(State.Moved.putError r s e).frame, (State.Moved.putError r s e).flights⟩

/-- A flight that takes a context error is in flight no more, and its stream pauses. -/
theorem State.flightError_pauses {k : Nat} {f : Flight} (e : Err) (hf : s.flights.find? k = some f) (hj : (s.jobs.find? f.ref.job).isSome = true)
    (hs : (s.jobOf f.ref.job).spec = none) :
    (s.flightError k e).flights.find? k = none ∧ (s.flightError k e).queues = s.queues ∧ ((s.flightError k e).strOf f.ref).paused = true := by
  simp only [State.flightError, hf, hs, Option.isSome_none, Bool.false_eq_true, if_false]
  obtain ⟨hframe, hflights⟩ := State.putError_frame f.ref ((s.dropFlight k).modRef f.ref (fun t => { t with paused := true }))
    { s.errRec f.ref e f.word f.opc with num := f.num }
  refine ⟨?_, ?_, ?_⟩
  · rw [hflights, State.modRef_flights]; exact Map.find?_erase_self _ _
  · rw [hframe.field State.queues fun _ => rfl, State.modRef_queues]; rfl
  · rw [State.strOf_putError, State.strOf_modRef_self _ _ (by simpa [State.dropFlight] using hj)]

end

end Sys2Proof.Machine

namespace Sys2Proof.Machine

/-! ### The fabric's events, by their arguments -/

section
variable {s : State} {k : Nat} {d : Word} {num : BitVec 16}

theorem execFabricAckReceived_acked (ha : s.args.a = k) (hw : s.args.word = d) (hb : s.args.b = num.toNat) (hno : s.ackBehind s.args = false) :
    execFabricAckReceived s = .next (s.acked k d num) := by
  simp [execFabricAckReceived, ha, hw, hb, hno]

theorem execFabricNackReceived_nacked (ha : s.args.a = k) (hw : s.args.word = d) (hb : s.args.b = num.toNat) (hflag : s.args.flag = false)
    (hno : s.ackBehind s.args = false) : execFabricNackReceived s = .next (s.nacked k d num) := by
  simp [execFabricNackReceived, ha, hw, hb, hflag, hno]

theorem execFmBackoffExpiry_resend (ha : s.args.a = k) (hw : s.args.word = d) : execFmBackoffExpiry s = .next (s.resend k d) := by
  rw [execFmBackoffExpiry, ha, hw]

/-- What an acknowledgement leaves of its destination's record, and that its command is in flight no more. -/
theorem State.acked_window {pre post : List SentMsg} {m : SentMsg} (hw : ((s.jobOf k).sender d).window = pre ++ m :: post) (hm : m.num = num)
    (hne : ∀ x ∈ pre ++ post, x.num ≠ num) (hj : (s.jobs.find? k).isSome = true) :
    ((s.acked k d num).jobOf k).sender d = { (s.jobOf k).sender d with window := post, nacks := 0 } ∧
      (s.acked k d num).flights.find? m.flight = none := by
  rw [State.acked_frees hw hm hne]
  generalize hy : ({ (s.jobOf k).sender d with window := post, nacks := 0 } : Sender) = y
  have hd : y.dest = d := by rw [← hy]; exact Job.sender_dest _ _
  exact ⟨(Job.sender_congr (State.ackAll_senders _ _ k) d).trans (hd ▸ State.putSender_sender hj), State.ackAll_last_gone _ _ _⟩

/-- An acknowledgement of the oldest message completes its command. -/
theorem State.acked_completes {post : List SentMsg} {m : SentMsg} {f : Flight} (hw : ((s.jobOf k).sender d).window = m :: post) (hm : m.num = num)
    (hne : ∀ x ∈ post, x.num ≠ num) (hf : s.flights.find? m.flight = some f) (hj : (s.jobs.find? f.ref.job).isSome = true)
    (hno : ∀ e ∈ s.flights, ∀ b x n, e.2.work ≠ .fence b x n) : s.Completes m.flight f f.flags (s.acked k d num) := by
  rw [State.acked_frees (pre := []) hw hm hne]
  generalize ({ (s.jobOf k).sender d with window := post, nacks := 0 } : Sender) = y
  have hfl : (s.putSender k y).flights = s.flights := State.modJob_flights _ _ _
  refine State.Completes.of_late (t := s.putSender k y)
    (State.ackAll_completes (by rw [hfl, hf]) (by simpa [State.putSender] using hj) (by rwa [hfl])) ?_
  exact s.putSender_keep Job.late (fun _ _ => rfl) k _ y

/-- A `WAKE` whose register replies: its command completes, and the queue has taken its sequence. -/
theorem State.wake_finish {f : Flight} {q : Nat} {v : BitVec 32} (hf : s.flights.find? k = some f) (hj : (s.jobs.find? f.ref.job).isSome = true) :
    s.Completes k f f.flags ((s.wake q v).finish k 0) ∧ ((s.wake q v).finish k 0).queueOf q = (s.queueOf q).wake v := by
  have hb := State.Beside.wake s q v
  have hc := State.finish_completes (s := s.wake q v) 0 (by rw [hb.flights, hf]) (by rw [hb.jobs]; exact hj)
  exact ⟨(by simpa using hc : State.Completes _ k f f.flags _).of_start hb.jobs, (State.finish_queueOf _ _ _ _).trans (s.wake_queueOf q v)⟩

end

/-! ### The obligation -/

/-- Settles O33: the commands by the messages, ports and stores that their bodies make, the events by what they change of a sender, a port or a queue. -/
theorem fabric : Obligations.Fabric := by
  unfold Obligations.Fabric
  refine ⟨?send, ?bind, ?pop, ?flt, ?wake, ?receive, ?arrival, ?acked, ?ackedLate, ?nacked, ?backoff, ?hostWake, ?insideWake⟩
  case send =>
    intro o s n a d h hn h0 h1 hd ha hb hw hs
    obtain ⟨t, ht, hm⟩ := execFmsend_sends h hn h0 h1 hd ha hb hw hs
    have hsent : (t.jobOf s.cur.job).sender d = (s.job.sender d).sent (fmsendMsg o s d a n) :=
      (Job.sender_congr (hm.frame.senders _) d).trans (State.sends_sender h.listed)
    refine ⟨t, ht, State.sends_launched hm, by rw [hsent]; rfl, by rw [hsent]; rfl, fun hback hpkg => ?_⟩
    rw [hm.frame.field State.fmsgs fun _ => rfl]
    exact State.sends_fmsgs hback hpkg
  case bind =>
    intro o s a b h p h0 h1 ha hb hh
    exact command_modJob (u := { opc := 0x0E3, regs := [.s o.a, .s o.d], irrev := true }) h rfl (fmBindBody_binds h0 h1 ha hb hh)
  case pop =>
    intro o s m r h p hs hb hh
    exact command_modJob_sput (u := { opc := 0x0E3, regs := [.s o.d] }) h rfl (fmPopBody_pops hs hb hh)
  case flt =>
    intro o s h p
    refine command_modJob_sput (u := { opc := 0x0E3, regs := [.s o.d] }) h rfl (fmFltBody_eq ?_)
    cases s.job.ports[o.f].faults with
    | nil => rfl
    | cons w l => rfl
  case wake =>
    intro o s q h ha hq hp hr
    exact execWake_wakes h ha hq hp hr
  case receive =>
    intro s sender k dest num slot data bad hk
    dsimp only
    intro hs hr
    rw [State.receive_bound hk hs hr]
    dsimp only
    refine ⟨fun he hb => ?_, fun he hb hfree => ?_, fun he hnear => ?_⟩
    · rw [if_pos he.symm, if_neg (by simp [hb])]
    · rw [if_pos he.symm, if_pos (by simp [hb, hfree])]
    · rw [if_neg (Ne.symm he), if_pos hnear]
  case arrival =>
    intro s k m hsrc ha hm hj hfirst
    exact ⟨s.arrive k, by simp [exec, execFabricMessageArrival, hsrc, ha], State.arrive_job hm hj hfirst⟩
  case acked =>
    intro s k d num pre post m ha hw hb hno hwin hm hne _ hj
    obtain ⟨hsender, hgone⟩ := State.acked_window hwin hm hne hj
    refine ⟨_, execFabricAckReceived_acked ha hw hb hno, by rw [hsender], by rw [hsender], hgone, ?_⟩
    rintro f rfl hf hjob hfence
    exact State.acked_completes hwin hm hne hf hjob hfence
  case ackedLate =>
    intro s k d num ha hw hb hno hnone _ hj
    exact ⟨_, execFabricAckReceived_acked ha hw hb hno, State.acked_resets hj hnone⟩
  case nacked =>
    intro s k d num ha hw hb hflag hno hin _ hback hj
    obtain ⟨hn, hstop⟩ := State.nacked_stops hj hin hback
    exact ⟨_, execFabricNackReceived_nacked ha hw hb hflag hno, hn, by rw [hstop, backoffTime_eq]⟩
  case backoff =>
    intro s k d b n ha hw hb hr hdue _ hj
    exact ⟨_, execFmBackoffExpiry_resend ha hw, State.resend_sends hb hr hdue hj⟩
  case hostWake =>
    intro s vf width q hsrc ha hw hv hf hd v h0 h1
    subst ha
    refine ⟨_, execWakeRegisterStore_host hsrc hw hv hf, ?_⟩
    rw [State.wake_queueOf, Queue.wake_forward hv hd h0 h1]
    exact ⟨rfl, rfl, rfl⟩
  case insideWake =>
    intro s q part k f hsrc hfl ha hb hc hf hj
    subst ha
    refine ⟨fun hr => ⟨_, execWakeRegisterStore_rings hsrc hfl hb hc hr, State.wake_finish hf hj⟩, fun hr hs => ?_⟩
    obtain ⟨hgone, hqueues, hpaused⟩ := State.flightError_pauses { code := 36 } hf hj hs
    exact ⟨_, execWakeRegisterStore_refused hsrc hfl hb hc hr, hgone, by rw [State.queueOf, hqueues]; rfl, hpaused⟩

end Sys2Proof.Machine

namespace Sys2Proof.Machine

/-! ### Scalar integer results (08 R219 to R221) -/

section
variable {s : State}

/-- A command of two s-register sources completes at issue with its value. -/
theorem int3_done (opc : Nat) (f : Word → Word → Word) {o : Op3} {v : Word} (hv : f (s.sget o.a) (s.sget o.b) = v)
    (h : s.Issues o.c [.s o.d, .s o.a, .s o.b]) : ∃ t, int3 opc f o s = .next t ∧ s.Done (s.sput o.d v) o.c 0 t :=
  hv ▸ command_sput (u := { opc := opc, regs := [.s o.d, .s o.a, .s o.b], dst := [.s o.d] }) h rfl rfl

/-- One of a latency owes its value. -/
theorem int3_pends (opc : Nat) (f : Word → Word → Word) {lat : Nat} (hl : lat ≠ 0) {o : Op3} {v : Word} (hv : f (s.sget o.a) (s.sget o.b) = v)
    (h : s.Issues o.c [.s o.d, .s o.a, .s o.b]) :
    ∃ t, int3 opc f o s lat = .next t ∧ s.Pends s o.c [.s o.d] [.s o.d (if o.d = 0 then 0 else v)] 0 lat t :=
  hv ▸ command_sput_late (u := { opc := opc, regs := [.s o.d, .s o.a, .s o.b], lat := lat, dst := [.s o.d] }) h hl rfl rfl

theorem int2_done (opc : Nat) (f : Word → Word) {o : Op2} {v : Word} (hv : f (s.sget o.a) = v) (h : s.Issues o.c [.s o.d, .s o.a]) :
    ∃ t, int2 opc f o s = .next t ∧ s.Done (s.sput o.d v) o.c 0 t :=
  hv ▸ command_sput (u := { opc := opc, regs := [.s o.d, .s o.a] }) h rfl rfl

theorem intI_done (opc : Nat) (f : Word → Word → Word) {o : OpI} (h : s.Issues o.c [.s o.d, .s o.a]) :
    ∃ t, intI opc f o s = .next t ∧ s.Done (s.sput o.d (f (s.sget o.a) o.imm)) o.c 0 t :=
  command_sput (u := { opc := opc, regs := [.s o.d, .s o.a] }) h rfl rfl

theorem intSh_done (opc : Nat) (f : Word → Nat → Word) {o : OpSh} (h : s.Issues o.c [.s o.d, .s o.a]) :
    ∃ t, intSh opc f o s = .next t ∧ s.Done (s.sput o.d (f (s.sget o.a) o.n)) o.c 0 t :=
  command_sput (u := { opc := opc, regs := [.s o.d, .s o.a] }) h rfl rfl

end

/-- Settles O1: every one is `int3` with its function; the comparisons of `MIN` to `MAXU` are those of the signed and unsigned values. -/
theorem scalarThreeRegisters : Obligations.ScalarThreeRegisters := by
  unfold Obligations.ScalarThreeRegisters
  simp only [List.forall_mem_cons, List.not_mem_nil, false_implies, implies_true, and_true]
  refine ⟨?add, ?sub, ?and, ?or, ?xor, ?shl, ?shr, ?sra, ?min, ?max, ?minu, ?maxu⟩
  case add => exact fun o s h => int3_done 0x050 (· + ·) rfl h
  case sub => exact fun o s h => int3_done 0x052 (· - ·) rfl h
  case and => exact fun o s h => int3_done 0x05A (· &&& ·) rfl h
  case or => exact fun o s h => int3_done 0x05C (· ||| ·) rfl h
  case xor => exact fun o s h => int3_done 0x05E (· ^^^ ·) rfl h
  case shl => exact fun o s h => int3_done 0x060 (fun b c => shlBy b (shAmt c)) rfl h
  case shr => exact fun o s h => int3_done 0x062 (fun b c => shrBy b (shAmt c)) rfl h
  case sra => exact fun o s h => int3_done 0x064 (fun b c => sraBy b (shAmt c)) rfl h
  case min => exact fun o s h => int3_done 0x066 (fun b c => if b.slt c then b else c) (if_congr BitVec.slt_iff_toInt_lt rfl rfl) h
  case max => exact fun o s h => int3_done 0x067 (fun b c => if b.slt c then c else b) (if_congr BitVec.slt_iff_toInt_lt rfl rfl) h
  case minu => exact fun o s h => int3_done 0x068 (fun b c => if b.ult c then b else c) (if_congr BitVec.ult_iff_toNat_lt rfl rfl) h
  case maxu => exact fun o s h => int3_done 0x069 (fun b c => if b.ult c then c else b) (if_congr BitVec.ult_iff_toNat_lt rfl rfl) h

/-- Settles O2: `intI` and `intSh` with the same functions. -/
theorem scalarImmediate : Obligations.ScalarImmediate := by
  unfold Obligations.ScalarImmediate
  simp only [List.forall_mem_cons, List.not_mem_nil, false_implies, implies_true, and_true]
  exact ⟨⟨fun o s h => intI_done 0x051 (· + ·) h, fun o s h => intI_done 0x05B (· &&& ·) h, fun o s h => intI_done 0x05D (· ||| ·) h,
      fun o s h => intI_done 0x05F (· ^^^ ·) h⟩,
    fun o s h => intSh_done 0x061 shlBy h, fun o s h => intSh_done 0x063 shrBy h, fun o s h => intSh_done 0x065 sraBy h⟩

/-! ### Products and quotients (08 R219, R220) -/

/-- The high half of a 128-bit value. -/
theorem extractLsb'_ofInt_high (p : Int) : (BitVec.ofInt 128 p).extractLsb' 64 64 = BitVec.ofInt 64 (p / 2 ^ 64) := by
  apply BitVec.eq_of_toNat_eq
  simp only [BitVec.extractLsb'_toNat, BitVec.toNat_ofInt, Nat.shiftRight_eq_div_pow]
  omega

theorem mulHigh_eq (b c : Word) : mulHigh b c = BitVec.ofInt 64 (b.toInt * c.toInt / 2 ^ 64) := by
  rw [← extractLsb'_ofInt_high, BitVec.ofInt_mul]; rfl

theorem mulHighU_eq (b c : Word) : mulHighU b c = BitVec.ofNat 64 (b.toNat * c.toNat / 2 ^ 64) := by
  have hlt : b.toNat * c.toNat < 2 ^ 128 := (Nat.mul_lt_mul'' b.isLt c.isLt).trans_eq (by norm_num)
  apply BitVec.eq_of_toNat_eq
  simp only [mulHighU, BitVec.extractLsb'_toNat, BitVec.toNat_mul, BitVec.toNat_setWidth_of_le (show 64 ≤ 128 by decide), BitVec.toNat_ofNat,
    Nat.shiftRight_eq_div_pow, Nat.mod_eq_of_lt hlt]

theorem sdiv_eq_ofInt (b c : Word) : b.sdiv c = BitVec.ofInt 64 (b.toInt.tdiv c.toInt) :=
  BitVec.eq_of_toInt_eq (by rw [BitVec.toInt_sdiv, BitVec.toInt_ofInt])

theorem srem_eq_ofInt (b c : Word) : b.srem c = BitVec.ofInt 64 (b.toInt.tmod c.toInt) := by
  rw [← BitVec.toInt_srem, BitVec.ofInt_toInt]

/-- Settles O3: `int3` with a latency; by zero the model's quotients are the constants of the rule, else the library's. -/
theorem scalarMultiplyDivide : Obligations.ScalarMultiplyDivide := by
  unfold Obligations.ScalarMultiplyDivide
  simp only [List.forall_mem_cons, List.not_mem_nil, false_implies, implies_true, and_true]
  refine ⟨?mul, ?mulh, ?mulhu, ?div, ?divu, ?rem, ?remu⟩
  case mul => exact fun o s h => int3_pends 0x053 (· * ·) (by decide) (by rw [BitVec.ofInt_mul, BitVec.ofInt_toInt, BitVec.ofInt_toInt]) h
  case mulh => exact fun o s h => int3_pends 0x054 mulHigh (by decide) (mulHigh_eq _ _) h
  case mulhu => exact fun o s h => int3_pends 0x055 mulHighU (by decide) (mulHighU_eq _ _) h
  case div => exact fun o s h => int3_pends 0x056 divS (by decide) (if_congr Iff.rfl rfl (sdiv_eq_ofInt _ _)) h
  case divu => exact fun o s h => int3_pends 0x057 divU (by decide) (if_congr Iff.rfl rfl BitVec.udiv_def) h
  case rem => exact fun o s h => int3_pends 0x058 remS (by decide) (if_congr Iff.rfl rfl (srem_eq_ofInt _ _)) h
  case remu => exact fun o s h => int3_pends 0x059 remU (by decide) (if_congr Iff.rfl rfl BitVec.umod_def) h

end Sys2Proof.Machine

namespace Sys2Proof.Machine

/-! ### Counts of bits (08 R219) -/

/-- The leading zeros of a word: no bit above the first that is set. -/
theorem leadZeros_spec (b : Word) : leadZeros b ≤ 64 ∧ (∀ i, i < leadZeros b → b.getLsbD (63 - i) = false) ∧
    (leadZeros b < 64 → b.getLsbD (63 - leadZeros b) = true) := by
  by_cases hb : b = 0
  · simp [leadZeros, hb]
  have hn : b.toNat ≠ 0 := fun h => hb (BitVec.eq_of_toNat_eq h)
  have hlog : b.toNat.log2 < 64 := (Nat.log2_lt hn).mpr b.isLt
  have hl : leadZeros b = 63 - b.toNat.log2 := if_neg hb
  rw [hl]
  refine ⟨by omega, fun i hi => ?_, fun _ => ?_⟩
  · exact Nat.testBit_lt_two_pow ((Nat.log2_lt hn).mp (by omega))
  · rw [show 63 - (63 - b.toNat.log2) = b.toNat.log2 by omega]
    exact Nat.testBit_log2 hn

/-- The trailing zeros within the low `n` bits: no bit below the first that is set. -/
theorem trailZeros_spec (n : Nat) : ∀ b : Word, trailZeros b n ≤ n ∧ (∀ i, i < trailZeros b n → b.getLsbD i = false) ∧
    (trailZeros b n < n → b.getLsbD (trailZeros b n) = true) := by
  induction n with
  | zero => simp [trailZeros]
  | succ n ih =>
    intro b
    by_cases h0 : b.getLsbD 0 = true
    · simp [trailZeros, h0]
    obtain ⟨hle, hlow, hset⟩ := ih (b >>> 1)
    have ht : trailZeros b (n + 1) = trailZeros (b >>> 1) n + 1 := by rw [trailZeros, if_neg h0, Nat.add_comm]
    have hs : ∀ i, b.getLsbD (i + 1) = (b >>> 1).getLsbD i := fun i => by rw [BitVec.getLsbD_ushiftRight, Nat.add_comm]
    rw [ht]
    refine ⟨by omega, fun i hi => ?_, fun h => ?_⟩
    · cases i with
      | zero => simpa using h0
      | succ i => rw [hs]; exact hlow i (by omega)
    · rw [hs]; exact hset (by omega)

/-- The model's magnitude is that of the signed value, modulo 2^64. -/
theorem neg_if_msb_eq_ofInt_natAbs (b : Word) : (if b.msb then 0 - b else b) = BitVec.ofInt 64 b.toInt.natAbs := by
  cases h : b.msb with
  | true =>
    have hn : b.toInt < 0 := BitVec.toInt_neg_iff.mpr (BitVec.msb_eq_true_iff_two_mul_ge.mp h)
    rw [Int.ofNat_natAbs_of_nonpos hn.le, BitVec.ofInt_neg, BitVec.ofInt_toInt]
    simp
  | false =>
    have hn : 0 ≤ b.toInt := BitVec.toInt_nonneg_of_msb_false h
    rw [Int.natAbs_of_nonneg hn, BitVec.ofInt_toInt]
    rfl

/-! ### Fields of a word (08 R219, R222) -/

theorem append_low_eq_ofNat (i : BitVec 32) (b : Word) : i ++ b.setWidth 32 = BitVec.ofNat 64 (i.toNat * 2 ^ 32 + b.toNat % 2 ^ 32) := by
  have hlow : (b.setWidth 32).toNat < 2 ^ 32 := (b.setWidth 32).isLt
  apply BitVec.eq_of_toNat_eq
  rw [BitVec.toNat_append, ← Nat.shiftLeft_add_eq_or_of_lt hlow, Nat.shiftLeft_eq, BitVec.toNat_setWidth, BitVec.toNat_ofNat]
  have := i.isLt
  omega

theorem lowMask_toNat {len : Nat} (h : len ≤ 64) : (lowMask len).toNat = 2 ^ len - 1 := by
  have hle : 2 ^ len ≤ 2 ^ 64 := Nat.pow_le_pow_right (by decide) h
  have hpos : 0 < 2 ^ len := Nat.two_pow_pos len
  rw [lowMask, BitVec.toNat_ofNat, Nat.mod_eq_of_lt (by omega)]

theorem lowMask_getLsbD {len : Nat} (h : len ≤ 64) (i : Nat) : (lowMask len).getLsbD i = decide (i < len) := by
  rw [BitVec.getLsbD, lowMask_toNat h, Nat.testBit_two_pow_sub_one]

theorem bfxU_toNat (b : Word) (pos : Nat) {len : Nat} (h : len ≤ 64) : (bfxU b pos len).toNat = b.toNat / 2 ^ pos % 2 ^ len := by
  rw [bfxU, BitVec.toNat_and, lowMask_toNat h, Nat.and_two_pow_sub_one_eq_mod, BitVec.toNat_ushiftRight, Nat.shiftRight_eq_div_pow]

/-- A field as a signed number: its top bit weighs negative. -/
theorem bfxSigned_toInt (b : Word) (pos : Nat) {len : Nat} (h1 : 1 ≤ len) (h : len ≤ 64) :
    (bfxSigned b pos len).toInt =
      if b.toNat / 2 ^ pos % 2 ^ len < 2 ^ (len - 1) then ((b.toNat / 2 ^ pos % 2 ^ len : Nat) : Int) else (b.toNat / 2 ^ pos % 2 ^ len : Nat) - 2 ^ len := by
  generalize hf : b.toNat / 2 ^ pos % 2 ^ len = f
  have hlt : f < 2 ^ len := hf ▸ Nat.mod_lt _ (Nat.two_pow_pos len)
  obtain ⟨n, rfl⟩ : ∃ n, len = n + 1 := ⟨len - 1, by omega⟩
  have hp : 2 ^ (n + 1) = 2 * 2 ^ n := by rw [Nat.pow_succ, Nat.mul_comm]
  have hk : 2 ^ (n + 1) * 2 ^ (64 - (n + 1)) = 2 ^ 64 := by rw [← Nat.pow_add]; congr 1; omega
  have hpos : 0 < 2 ^ (64 - (n + 1)) := Nat.two_pow_pos _
  rw [bfxSigned, BitVec.toInt_sshiftRight, Int.shiftRight_eq_div_pow, BitVec.toInt_eq_toNat_cond, BitVec.toNat_shiftLeft, bfxU_toNat b pos h, hf,
    Nat.shiftLeft_eq, Nat.add_sub_cancel, ← hk]
  generalize 2 ^ (64 - (n + 1)) = k at *
  have hfk : f * k < 2 ^ (n + 1) * k := (Nat.mul_lt_mul_right hpos).mpr hlt
  have hiff : 2 * (f * k) < 2 ^ (n + 1) * k ↔ f < 2 ^ n := by
    rw [← Nat.mul_assoc, Nat.mul_lt_mul_right hpos, hp, Nat.mul_lt_mul_left (by decide)]
  have hk0 : (k : Int) ≠ 0 := by omega
  rw [Nat.mod_eq_of_lt hfk]
  simp only [hiff]
  split
  · push_cast
    exact Int.mul_ediv_cancel _ hk0
  · push_cast
    rw [← Int.sub_mul, Int.mul_ediv_cancel _ hk0]

theorem bfiInto_getLsbD (a b : Word) {pos len i : Nat} (h : len ≤ 64) (hi : i < 64) :
    (bfiInto a b pos len).getLsbD i = if pos ≤ i ∧ i < pos + len then b.getLsbD (i - pos) else a.getLsbD i := by
  have hfield : (pos ≤ i ∧ i < pos + len) ↔ ¬i < pos ∧ i - pos < len := by omega
  simp only [bfiInto, BitVec.getLsbD_or, BitVec.getLsbD_and, BitVec.getLsbD_not, BitVec.getLsbD_shiftLeft, lowMask_getLsbD h, hi, hfield]
  by_cases hp : i < pos <;> by_cases hl : i - pos < len <;> simp [hp, hl]

/-- Settles O4: `int2` for the counts and `ABS`, the other commands one by one; the bit fields by their values and bits. -/
theorem scalarUnaryAndMoves : Obligations.ScalarUnaryAndMoves := by
  unfold Obligations.ScalarUnaryAndMoves
  refine ⟨?unary, fun o s h => command_sput (u := { opc := 0x06D, regs := [.s o.d, .s o.a, .s o.b], preds := [o.p] }) h rfl rfl,
    fun o s h => command_sput (u := { opc := 0x06E, regs := [.s o.d] }) h rfl rfl, ?movhi, ?fields,
    fun o s h => command_sput (u := { opc := 0x074, regs := [.s o.d, .s o.a, .s o.b] }) h rfl rfl⟩
  case unary =>
    intro o s h
    refine ⟨?clz, ?ctz, int2_done 0x06C (fun b => BitVec.ofNat 64 (onesOf b)) ?ones h, int2_done 0x070 id rfl h,
      int2_done 0x071 (fun b => if b.msb then 0 - b else b) (neg_if_msb_eq_ofInt_natAbs _) h⟩
    case clz =>
      obtain ⟨t, ht, hd⟩ := int2_done 0x06A (fun b => BitVec.ofNat 64 (leadZeros b)) rfl h
      exact ⟨_, t, ht, hd, leadZeros_spec _⟩
    case ctz =>
      obtain ⟨t, ht, hd⟩ := int2_done 0x06B (fun b => BitVec.ofNat 64 (trailZeros b 64)) rfl h
      exact ⟨_, t, ht, hd, trailZeros_spec 64 _⟩
    case ones => exact congrArg (BitVec.ofNat 64) List.countP_eq_length_filter.symm
  case movhi =>
    intro o s h
    rw [← append_low_eq_ofNat]
    exact command_sput (u := { opc := 0x06F, regs := [.s o.d] }) h rfl rfl
  case fields =>
    intro o s h h1 h64
    have hlen : o.len.toNat ≤ 64 := by omega
    refine ⟨?bfx, ?bfxS, ?bfi⟩
    case bfx =>
      rw [← bfxU_toNat _ _ hlen, BitVec.ofNat_toNat, BitVec.setWidth_eq]
      exact command_sput (u := { opc := 0x072, regs := [.s o.d, .s o.a] }) h rfl rfl
    case bfxS =>
      rw [← bfxSigned_toInt _ _ h1 hlen, BitVec.ofInt_toInt]
      exact command_sput (u := { opc := 0x072, regs := [.s o.d, .s o.a] }) h rfl rfl
    case bfi =>
      obtain ⟨t, ht, hd⟩ := command_sput (u := { opc := 0x073, regs := [.s o.d, .s o.a] })
        (f := fun s => .done (s.sput o.d (bfiInto (s.sget o.d) (s.sget o.a) o.pos.toNat o.len.toNat)) 0) h rfl rfl
      exact ⟨_, t, ht, hd, fun i hi => bfiInto_getLsbD _ _ hlen hi⟩

end Sys2Proof.Machine

namespace Sys2Proof.Machine

/-! ### Scalar floating point (08 R223 to R227) -/

section
variable {s : State}

/-- An operation of two FP32 sources owes its rounded result for its latency. -/
theorem fp3_pends (opc : Nat) {lat : Nat} (hl : lat ≠ 0) (f : Nat → Nat → Nat × Flags) {o : Op3} {r : Nat × Flags}
    (hr : f (lowF32 (s.sget o.a)) (lowF32 (s.sget o.b)) = r) (h : s.Issues o.c [.s o.d, .s o.a, .s o.b]) :
    ∃ t, fp3 opc lat f o s = .next t ∧ s.Pends s o.c [.s o.d] [.s o.d (if o.d = 0 then 0 else codeWord r.1)] r.2 lat t :=
  hr ▸ command_sput_late (u := { opc := opc, regs := [.s o.d, .s o.a, .s o.b], lat := lat, dst := [.s o.d] }) h hl rfl rfl

/-- One without a latency or flags completes at issue. -/
theorem fp3_done (opc : Nat) (f : Nat → Nat → Nat) {o : Op3} (h : s.Issues o.c [.s o.d, .s o.a, .s o.b]) :
    ∃ t, fp3 opc 0 (fun b c => (f b c, 0)) o s = .next t ∧
      s.Done (s.sput o.d (codeWord (f (lowF32 (s.sget o.a)) (lowF32 (s.sget o.b))))) o.c 0 t :=
  command_sput (u := { opc := opc, regs := [.s o.d, .s o.a, .s o.b], dst := [.s o.d] }) h rfl rfl

theorem fp2_done (opc : Nat) (f : Nat → Nat) {o : Op2} {v : Word} (hv : codeWord (f (lowF32 (s.sget o.a))) = v) (h : s.Issues o.c [.s o.d, .s o.a]) :
    ∃ t, fp2 opc 0 (fun b => (f b, 0)) o s = .next t ∧ s.Done (s.sput o.d v) o.c 0 t :=
  hv ▸ command_sput (u := { opc := opc, regs := [.s o.d, .s o.a], dst := [.s o.d] }) h rfl rfl

end

/-! #### Division by zero (04 R125, 08 R224) -/

/-- The FP32 value of a word whose low half is finite and not zero. -/
theorem f32_finite {n : Nat} (h0 : n % 2 ^ 31 ≠ 0) (hf : n / 2 ^ 23 % 256 ≠ 255) :
    ∃ m e, m ≠ 0 ∧ f32 (n % 2 ^ 32) = .fin (n.testBit 31) m e := by
  have hs : (n % 2 ^ 32).testBit 31 = n.testBit 31 := by rw [Nat.testBit_mod_two_pow]; rfl
  have hx : ¬n % 2 ^ 32 / 2 ^ 23 % 2 ^ 8 = 2 ^ 8 - 1 := by omega
  by_cases hz : n % 2 ^ 32 / 2 ^ 23 % 2 ^ 8 = 0
  · refine ⟨n % 2 ^ 32 % 2 ^ 23, 1 - 127 - 23, by omega, ?_⟩
    simp only [f32, decodeF, floatFmt, hs, hz]
    rfl
  · refine ⟨2 ^ 23 + n % 2 ^ 32 % 2 ^ 23, (n % 2 ^ 32 / 2 ^ 23 % 2 ^ 8 : Nat) - 127 - 23, by omega, ?_⟩
    simp only [f32, decodeF, floatFmt, hs, hx, hz, false_and, if_false]
    rfl

/-- That of one whose low half is a zero. -/
theorem f32_zero {n : Nat} (h0 : n % 2 ^ 31 = 0) : ∃ e, f32 (n % 2 ^ 32) = .fin (n.testBit 31) 0 e := by
  have hs : (n % 2 ^ 32).testBit 31 = n.testBit 31 := by rw [Nat.testBit_mod_two_pow]; rfl
  have hz : n % 2 ^ 32 / 2 ^ 23 % 2 ^ 8 = 0 := by omega
  have hm : n % 2 ^ 32 % 2 ^ 23 = 0 := by omega
  refine ⟨1 - 127 - 23, ?_⟩
  simp only [f32, decodeF, floatFmt, hs, hz, hm]
  rfl

/-- A finite value over zero is an infinity of the product's sign, with `DZ`. -/
theorem f32Div_zero {a b : Nat} (h0 : a % 2 ^ 31 ≠ 0) (hf : a / 2 ^ 23 % 256 ≠ 255) (hb : b % 2 ^ 31 = 0) :
    f32Div (a % 2 ^ 32) (b % 2 ^ 32) = (if a.testBit 31 = b.testBit 31 then 0x7F800000 else 0xFF800000, Flags.dz) := by
  obtain ⟨m, e, hm, ha⟩ := f32_finite h0 hf
  obtain ⟨e', hb⟩ := f32_zero hb
  have hd : Num.div (.fin (a.testBit 31) m e) (.fin (b.testBit 31) 0 e') = (.inf (a.testBit 31 != b.testBit 31), Flags.dz) := by
    simp [Num.div, Num.isNan, hm]
  rw [f32Div, ha, hb, hd]
  cases a.testBit 31 <;> cases b.testBit 31 <;> rfl

/-- Settles O14: the exact operations with one rounding are the model's own; the quotient by zero by `f32Div_zero`. -/
theorem floatArithmetic : Obligations.FloatArithmetic := by
  unfold Obligations.FloatArithmetic
  simp only [List.forall_mem_cons, List.not_mem_nil, false_implies, implies_true, and_true]
  refine ⟨⟨?add, ?sub, ?mul, ?div⟩, ?fma, ?sqrt, ?zero⟩
  case add => exact fun o s h => fp3_pends 0x090 (by decide) f32Add rfl h
  case sub => exact fun o s h => fp3_pends 0x091 (by decide) f32Sub rfl h
  case mul => exact fun o s h => fp3_pends 0x092 (by decide) f32Mul rfl h
  case div => exact fun o s h => fp3_pends 0x094 (by decide) f32Div rfl h
  case fma =>
    exact fun o s h => command_sput_late (u := { opc := 0x093, regs := [.s o.d, .s o.a, .s o.b, .s o.e], lat := 3, dst := [.s o.d] }) h (Nat.succ_ne_zero _) rfl rfl
  case sqrt =>
    exact fun o s h => command_sput_late (u := { opc := 0x095, regs := [.s o.d, .s o.a], lat := 14, dst := [.s o.d] }) h (Nat.succ_ne_zero _) rfl rfl
  case zero =>
    intro o s h h0 hf hb
    have hp := fp3_pends (s := s) 0x094 (by decide : 12 ≠ 0) f32Div (f32Div_zero h0 hf hb) h
    simp only [apply_ite codeWord] at hp
    exact hp

/-! #### Moves and conversions (08 R225 to R227) -/

theorem codeWord_mod_two_pow_31 (w : Word) : codeWord (lowF32 w % 2 ^ 31) = w &&& 0x7FFFFFFF := by
  apply BitVec.eq_of_toNat_eq
  have h : (0x7FFFFFFF : Word).toNat = 2 ^ 31 - 1 := rfl
  rw [BitVec.toNat_and, h, Nat.and_two_pow_sub_one_eq_mod, codeWord, BitVec.toNat_ofNat, lowF32]
  omega

theorem codeWord_xor_two_pow_31 (w : Word) : codeWord (lowF32 w ^^^ 2 ^ 31) = (w &&& 0xFFFFFFFF) ^^^ 0x80000000 := by
  have hl : codeWord (lowF32 w) = w &&& 0xFFFFFFFF := by
    apply BitVec.eq_of_toNat_eq
    have h : (0xFFFFFFFF : Word).toNat = 2 ^ 32 - 1 := rfl
    rw [BitVec.toNat_and, h, Nat.and_two_pow_sub_one_eq_mod, codeWord, BitVec.toNat_ofNat, lowF32]
    omega
  rw [← hl, codeWord, codeWord, BitVec.ofNat_xor]
  rfl

theorem isIntFmt_iff (f : Fin 10) : isIntFmt f = true ↔ f = 0 ∨ f = 8 ∨ f = 9 := by decide +revert

/-- A class is one of the ten (08 R227). -/
theorem classOf_le (fmt bits : Nat) : classOf fmt bits ≤ 9 := by
  unfold classOf
  split
  · decide
  · decide
  · decide
  · decide
  · split
    · split <;> decide
    · split <;> split <;> decide

/-- The source of a conversion, by the kind of its format. -/
theorem cvtSource_eq (m : Fmode) (f : Fin 10) (n : Nat) : cvtSource m f n =
    if f = 0 ∨ f = 8 ∨ f = 9 then .ofInt (toSigned (fmtBits f) (n % 2 ^ fmtBits f)) else fetchNum m f (n % 2 ^ fmtBits f) :=
  if_congr (isIntFmt_iff f) rfl rfl

/-- Settles O15: `FMIN` to `FCLASS` by the values they write; a conversion by the kinds of its two formats. -/
theorem floatMovesAndConversions : Obligations.FloatMovesAndConversions := by
  unfold Obligations.FloatMovesAndConversions
  simp only [List.forall_mem_cons, List.not_mem_nil, false_implies, implies_true, and_true]
  refine ⟨⟨?min, ?max⟩, ?signs, ?cvt, ?cls⟩
  case min => exact fun o s h => fp3_done 0x096 (fun b c => (toF32 (Num.min (f32 b) (f32 c), 0)).1) h
  case max => exact fun o s h => fp3_done 0x097 (fun b c => (toF32 (Num.max (f32 b) (f32 c), 0)).1) h
  case signs =>
    exact fun o s h => ⟨fp2_done 0x098 (fun b => b % 2 ^ 31) (codeWord_mod_two_pow_31 _) h,
      fp2_done 0x099 (fun b => b ^^^ 2 ^ 31) (codeWord_xor_two_pow_31 _) h⟩
  case cvt =>
    intro o s h
    rw [← cvtSource_eq]
    obtain ⟨t, ht, hp⟩ := command_sput_late (u := { opc := 0x09A, regs := [.s o.d, .s o.a], lat := 1, dst := [.s o.d] })
      (f := fun s => .done (s.sput o.d (codeToReg o.dst (cvtCode s.job.fmode o.src o.dst (s.sget o.a).toNat).1))
        (cvtCode s.job.fmode o.src o.dst (s.sget o.a).toNat).2) h (Nat.succ_ne_zero _) rfl rfl
    refine ⟨t, ht, ?_⟩
    simp only [cvtCode, codeToReg, isIntFmt_iff] at hp
    split
    next hd => simpa only [if_pos hd] using hp
    next hd => simpa only [if_neg hd] using hp
  case cls =>
    intro o s h
    obtain ⟨t, ht, hd⟩ := command_sput (u := { opc := 0x09B, regs := [.s o.d, .s o.a] })
      (f := fun s => .done (s.sput o.d (BitVec.ofNat 64 (2 ^ classOf o.fmt ((s.sget o.a).toNat % 2 ^ fmtBits o.fmt)))) 0) h rfl rfl
    exact ⟨_, t, ht, hd, rfl, classOf_le _ _⟩

end Sys2Proof.Machine

namespace Sys2Proof.Machine

/-! ### Reads of control registers (08 R229, R234 to R236) -/

section
variable {s : State}

/-- Where no stream has written a control register in this cycle, its value at the start of the cycle is that of now. -/
theorem State.csrOld_eq_csrNow (h : s.job.late.csrs = []) (n : Nat) : s.csrOld n = s.csrNow n := by
  rw [State.csrOld, h]
  rfl

/-- The registers below 0x040 lie in no tile window. -/
theorem State.csrBeyond_of_lt {n : Nat} (h : n < 0x040) : s.csrBeyond n = false := by
  simp [State.csrBeyond, h]

theorem State.csrNow_tcfg (n : Tile) : s.csrNow (0x040 + n) = s.job.tcfg[n] := by
  have hne : ∀ k, k < 0x040 → 0x040 + n.val ≠ k := by omega
  simp [State.csrNow, hne, Job.tcfgOf]

theorem execCsrr_reads {o : OpCsrr} (h : s.Issues o.c [.s o.d]) (hn : o.n ≠ 0x025) (hb : s.csrBeyond o.n.toNat = false) :
    ∃ t, execCsrr o s = .next t ∧ s.Done (s.sput o.d (s.csrOld o.n.toNat)) o.c 0 t := by
  rw [execCsrr, decide_eq_false hn, if_neg hn]
  exact command_sput (u := { opc := 0x0A0, regs := [.s o.d], dst := [.s o.d] }) h rfl (by rw [hb]; rfl)

/-- `PTPT` is owed for 4 cycles. -/
theorem execCsrr_ptpt {o : OpCsrr} (h : s.Issues o.c [.s o.d] (irrev := true)) (hn : o.n = 0x025) (hl : s.job.late.csrs = []) :
    ∃ t, execCsrr o s = .next t ∧ s.Pends s o.c [.s o.d] [.s o.d (if o.d = 0 then 0 else s.ptpt)] 0 4 t := by
  have hv : s.csrOld 0x025 = s.ptpt := s.csrOld_eq_csrNow hl 0x025
  rw [execCsrr, decide_eq_true hn, if_pos hn, ← hv]
  refine command_sput_late (u := { opc := 0x0A0, regs := [.s o.d], irrev := true, lat := 4, dst := [.s o.d] }) h (Nat.succ_ne_zero _) rfl ?_
  rw [hn, State.csrBeyond_of_lt (by decide)]
  rfl

/-- A job that stands on a core counts the cycles since it came there. -/
theorem Job.cyc_running {j : Job} (h : j.status = .running) (now : Nat) : j.cyc now = BitVec.ofNat 64 (j.cycBase + (now - j.cycSince)) := by
  simp [Job.cyc, Job.onCore, h]

end

/-! ### Writes of control registers (08 R229 to R231) -/

section
variable {s : State} {n : Nat} {src : CsrSrc} {d : SReg} {f : Word → Word → Word}

/-- A write of a register that is no `TCFG` needs no check. -/
theorem csrBody_plain (h : n < 0x040) : csrBody n src d f s = .done ((s.csrSet n (f (s.csrNow n) (s.csrSrc src))).sput d (s.csrOld n)) 0 := by
  simp [csrBody, State.csrBeyond_of_lt h, Nat.not_le.mpr h]

theorem Stream.aside_sput (t : Stream) (d : SReg) (v : Word) : (t.sput d v).aside = t.aside.sput d v := by
  unfold Stream.sput
  split <;> rfl

theorem State.jobOf_modSt_sput (h : (s.jobs.find? s.cur.job).isSome = true) (g : Stream → Stream) (d : SReg) (v : Word) :
    ((s.modSt g).sput d v).jobOf s.cur.job = s.job.setStream s.cur.letter ((g s.st).sput d v) := by
  have h1 := (s.modSt g).jobOf_modSt_self (fun t => t.sput d v) (by simpa using h)
  have hst : (s.modSt g).st = g s.st := by rw [State.st, State.modSt_cur]; exact s.strOf_modRef_self g h
  simp only [hst, State.job, State.modSt_cur, s.jobOf_modSt_self g h, Job.setStream_setStream] at h1
  exact h1

theorem State.jobOf_modSt_sput_ne {k : Nat} (hk : k ≠ s.cur.job) (g : Stream → Stream) (d : SReg) (v : Word) :
    ((s.modSt g).sput d v).jobOf k = s.jobOf k :=
  (State.jobOf_modJob_ne (s.modSt g) _ (by simpa using hk)).trans (State.jobOf_modJob_ne s _ hk)

/-- Changes of the running stream that agree but for the sequencing leave states that do, whatever register is then written. -/
theorem State.Moved.sput_modSt {g g' : Stream → Stream} (h : (s.jobs.find? s.cur.job).isSome = true) (hg : (g' s.st).aside = (g s.st).aside)
    (d : SReg) (v : Word) : State.Moved s.cur ((s.modSt g).sput d v) ((s.modSt g').sput d v) := by
  have hj := State.jobOf_modSt_sput h g d v
  have hj' := State.jobOf_modSt_sput h g' d v
  refine ⟨⟨by simp [State.aside, State.sput], fun k hk => ?_, ?_, fun l hl => ?_, ?_⟩, ?_, ?_, by simp [State.sput], by simp⟩
  · rw [State.jobOf_modSt_sput_ne hk, State.jobOf_modSt_sput_ne hk]
  · rw [hj, hj', Job.aside_setStream, Job.aside_setStream]
  · rw [hj, hj', Job.stream_setStream_ne _ _ hl, Job.stream_setStream_ne _ _ hl]
  · rw [State.strOf, State.strOf, hj, hj', Job.stream_setStream, Job.stream_setStream, Stream.aside_sput, Stream.aside_sput, hg]
  · rw [hj, hj', Job.late_setStream, Job.late_setStream]
  · rw [hj, hj', Job.late_setStream, Job.late_setStream]

/-- A command that writes a control register of its stream: sA takes the old value, and the stream changes as `g` says but for the sequencing. -/
theorem command_csr_stream {o : OpCsrw} {opc : Nat} {g g' : Stream → Stream} (h : s.Issues o.c (.s o.d :: CsrSrc_regs o.src)) (hn : o.n.toNat < 0x040)
    (hset : s.csrSet o.n.toNat (f (s.csrNow o.n.toNat) (s.csrSrc o.src)) = s.modSt g') (hg : (g' s.st).aside = (g s.st).aside) :
    ∃ t, command o.c { opc := opc, regs := .s o.d :: CsrSrc_regs o.src } (csrBody o.n.toNat o.src o.d f) s = .next t ∧
      s.Done ((s.modSt g).sput o.d (s.csrOld o.n.toNat)) o.c 0 t := by
  obtain ⟨t, ht, hd⟩ := command_done (u := { opc := opc, regs := .s o.d :: CsrSrc_regs o.src }) h rfl (csrBody_plain (src := o.src) (d := o.d) (f := f) hn)
    (by rw [hset]; simp) (by rw [hset]; simpa using h.listed)
  rw [hset] at hd
  exact ⟨t, ht, hd.of_frame (.sput_modSt h.listed hg _ _)⟩

end

/-- Control register `n` is one of the streams, read by `get` and written by `set`, with the bits `mask`. -/
structure StreamCsr (n : BitVec 12) (mask : Word) (get : Stream → Word) (set : Word → Stream → Stream) : Prop where
  plain : n.toNat < 0x040
  read : ∀ s : State, s.csrNow n.toNat = get s.st
  write : ∀ (s : State) (v : Word), ∃ g, s.csrSet n.toNat v = s.modSt g ∧ (g s.st).aside = (set (v &&& mask) s.st).aside

theorem StreamCsr.of_write {n : BitVec 12} {mask : Word} {get : Stream → Word} {set : Word → Stream → Stream} (hn : n.toNat < 0x040)
    (hr : ∀ s : State, s.csrNow n.toNat = get s.st) (hw : ∀ (s : State) (v : Word), s.csrSet n.toNat v = s.modSt (set (v &&& mask))) :
    StreamCsr n mask get set :=
  ⟨hn, hr, fun s v => ⟨_, hw s v, rfl⟩⟩

/-- A write of `TCAUSE` that clears ACTIVE keeps the loops frozen for its cycle (07 R197). -/
theorem State.csrSet_tcause (s : State) (v : Word) : s.csrSet 0x012 v =
    s.modSt (fun t => { t with tcause := v &&& csrMask 0x012, thaw := t.thaw || (t.inTrap && !(v &&& csrMask 0x012).getLsbD 63) }) := rfl

/-- The three writes of such a register. -/
theorem csrWrites_stream {n : BitVec 12} {mask : Word} {get : Stream → Word} {set : Word → Stream → Stream} (hr : StreamCsr n mask get set)
    (o : OpCsrw) (s : State) (h : s.Issues o.c (.s o.d :: CsrSrc_regs o.src)) (ho : o.n = n) (hl : s.job.late.csrs = []) :
    let old := get s.st
    (∃ t, execCsrw o s = .next t ∧ s.Done ((s.modSt (set (s.csrSrc o.src &&& mask))).sput o.d old) o.c 0 t) ∧
    (∃ t, execCsrs o s = .next t ∧ s.Done ((s.modSt (set ((old ||| s.csrSrc o.src) &&& mask))).sput o.d old) o.c 0 t) ∧
    (∃ t, execCsrc o s = .next t ∧ s.Done ((s.modSt (set ((old &&& ~~~(s.csrSrc o.src)) &&& mask))).sput o.d old) o.c 0 t) := by
  subst ho
  have hold : s.csrOld o.n.toNat = get s.st := (s.csrOld_eq_csrNow hl _).trans (hr.read s)
  have key (opc : Nat) (f : Word → Word → Word) :
      ∃ t, command o.c { opc := opc, regs := .s o.d :: CsrSrc_regs o.src } (csrBody o.n.toNat o.src o.d f) s = .next t ∧
        s.Done ((s.modSt (set (f (get s.st) (s.csrSrc o.src) &&& mask))).sput o.d (get s.st)) o.c 0 t := by
    obtain ⟨g, hg, ha⟩ := hr.write s (f (s.csrNow o.n.toNat) (s.csrSrc o.src))
    rw [← hold]
    exact command_csr_stream h hr.plain hg (by rw [ha, hr.read, hold])
  exact ⟨key 0x0A1 csrNew, key 0x0A2 csrOr, key 0x0A3 csrClear⟩

/-- The job after a write of `FEN`, `FMODE` or `FMBACKOFF`: this cycle's readers still find the old value. -/
def State.setJobCsr (s : State) (n : Nat) (w : Word) : State := s.modJob s.cur.job (fun j => { j with
  fen := if n = 0x001 then w.setWidth 5 else j.fen
  fmode := if n = 0x002 then w.setWidth 3 else j.fmode
  fmbackoff := if n = 0x018 then w &&& 0xFFFFFFFF else j.fmbackoff
  late := { j.late with csrs := j.late.csrs.set n (s.csrOld n) } })

theorem setWidth_and_low (w : Word) {k : Nat} {m : Word} (hm : m.setWidth k = BitVec.allOnes k) : (w &&& m).setWidth k = w.setWidth k := by
  rw [BitVec.setWidth_and, hm, BitVec.and_allOnes]

theorem State.csrSet_job (s : State) {n : Nat} (hn : n = 0x001 ∨ n = 0x002 ∨ n = 0x018) (v : Word) : s.csrSet n v = s.setJobCsr n v := by
  obtain rfl | rfl | rfl := hn
  · rw [State.setJobCsr, ← setWidth_and_low v (k := 5) (m := 0x1F) rfl]; rfl
  · rw [State.setJobCsr, ← setWidth_and_low v (k := 3) (m := 0x7) rfl]; rfl
  · rfl

/-- A write of such a register by any of the three commands. -/
theorem command_csr_job {o : OpCsrw} {s : State} (h : s.Issues o.c (.s o.d :: CsrSrc_regs o.src)) (ho : o.n = 0x001 ∨ o.n = 0x002 ∨ o.n = 0x018)
    (hl : s.job.late.csrs = []) (opc : Nat) (f : Word → Word → Word) :
    ∃ t, command o.c { opc := opc, regs := .s o.d :: CsrSrc_regs o.src } (csrBody o.n.toNat o.src o.d f) s = .next t ∧
      s.Done ((s.setJobCsr o.n.toNat (f (s.csrOld o.n.toNat) (s.csrSrc o.src))).sput o.d (s.csrOld o.n.toNat)) o.c 0 t := by
  have hn : o.n.toNat = 0x001 ∨ o.n.toNat = 0x002 ∨ o.n.toNat = 0x018 := ho.imp (congrArg _) (Or.imp (congrArg _) (congrArg _))
  rw [s.csrOld_eq_csrNow hl, ← s.csrSet_job hn, ← s.csrOld_eq_csrNow hl]
  refine command_done (u := { opc := opc, regs := .s o.d :: CsrSrc_regs o.src }) h rfl ?_ ?_ ?_
  · rw [csrBody_plain (by omega), s.csrOld_eq_csrNow hl]
  · rw [s.csrSet_job hn]; simp [State.setJobCsr]
  · rw [s.csrSet_job hn]; simpa [State.setJobCsr] using h.listed

/-! #### What a change of the job leaves -/

/-- What a change of a job keeps, it keeps of all. -/
theorem State.jobOf_modJob_keep {α : Type} (g : Job → α) (s : State) {i : Nat} {f : Job → Job} (hf : ∀ j, g (f j) = g j) (k : Nat) :
    g ((s.modJob i f).jobOf k) = g (s.jobOf k) := by
  by_cases hk : k = i
  · subst hk
    unfold State.jobOf Map.getD
    rw [State.jobs_modJob, if_pos rfl]
    cases s.jobs.find? k with
    | none => rfl
    | some j => exact hf j
  · rw [State.jobOf_modJob_ne _ _ hk]

theorem State.sput_jobOf_keep {α : Type} (g : Job → α) (hg : ∀ (j : Job) (l : Letter) (t : Stream), g (j.setStream l t) = g j) (s : State) (d : SReg)
    (v : Word) (k : Nat) : g ((s.sput d v).jobOf k) = g (s.jobOf k) :=
  State.jobOf_modJob_keep g s (fun j => hg j _ _) k

theorem State.Frame.job_field {r : Ref} {e t : State} (h : State.Frame r e t) {α : Type} (g : Job → α) (hg : ∀ j : Job, g j.aside = g j) :
    g (t.jobOf r.job) = g (e.jobOf r.job) := by
  rw [← hg, h.job, hg]

/-! #### `FSTAT` -/

theorem execCsrw_fstat {o : OpCsrw} {s : State} (h : s.Issues o.c (.s o.d :: CsrSrc_regs o.src)) (hn : o.n = 0x000) :
    ∃ t, execCsrw o s = .next t ∧ (t.jobOf s.cur.job).fstat = (s.csrSrc o.src).setWidth 5 := by
  have hset : s.csrSet 0 (s.csrSrc o.src) = s.modJob s.cur.job (fun j => { j with
      fstat := (s.csrSrc o.src &&& 0x1F).setWidth 5, late := { j.late with csrs := j.late.csrs.set 0 (s.csrOld 0) } }) := rfl
  obtain ⟨t, ht, hd⟩ := command_done (u := { opc := 0x0A1, regs := .s o.d :: CsrSrc_regs o.src }) h rfl
    (csrBody_plain (n := 0) (src := o.src) (d := o.d) (f := csrNew) (by decide)) (by simp [csrNew, hset]) (by simpa [csrNew, hset] using h.listed)
  refine ⟨t, by rw [execCsrw, hn]; exact ht, ?_⟩
  rw [hd.frame.job_field Job.fstat fun _ => rfl, State.sput_jobOf_keep Job.fstat fun j l t => by simp, csrNew, hset, State.jobOf_modJob_self _ _ h.listed]
  exact setWidth_and_low _ rfl

/-! #### `TCFG` (02 R59, R62) -/

theorem natBits_and {m lo n : Nat} (h : m / 2 ^ lo % 2 ^ n = 2 ^ n - 1) (a : Nat) : natBits (a &&& m) lo n = natBits a lo n := by
  rw [natBits, natBits, Nat.and_div_two_pow, Nat.and_mod_two_pow, h, Nat.and_two_pow_sub_one_eq_mod, Nat.mod_mod]

/-- The reserved bits of a `TCFG` value say nothing of its tile. -/
theorem tcfgOk_masked (v : Word) : tcfgOk (v &&& 0xFFFF0F) = tcfgOk v := by
  have hm : (v &&& 0xFFFF0F).toNat = v.toNat &&& 0xFFFF0F := BitVec.toNat_and _ _
  have hf : tcfgFmt (v &&& 0xFFFF0F) = tcfgFmt v := by rw [tcfgFmt, hm]; exact natBits_and rfl _
  have hr : tcfgRows (v &&& 0xFFFF0F) = tcfgRows v := by rw [tcfgRows, hm]; exact congrArg (· + 1) (natBits_and rfl _)
  have hc : tcfgCols (v &&& 0xFFFF0F) = tcfgCols v := by rw [tcfgCols, hm]; exact congrArg (· + 1) (natBits_and rfl _)
  rw [tcfgOk, tcfgOk, hf, hr, hc]

theorem csrMask_tcfg (n : Nat) (h : 0x040 ≤ n) : csrMask n = 0xFFFF0F := by
  have hne : ∀ k, k < 0x040 → n ≠ k := by omega
  simp [csrMask, hne]

/-- The state in which `TCFG`n holds `w`. -/
def State.setTcfg (s : State) (n : Nat) (w : Word) : State := s.modJob s.cur.job (fun j => { j with
  tcfg := j.tcfg.setIfInBounds n w, late := { j.late with csrs := j.late.csrs.set (0x040 + n) (s.csrOld (0x040 + n)) } })

theorem State.csrSet_tcfg (s : State) (n : Nat) (v : Word) : s.csrSet (0x040 + n) v = s.setTcfg n (v &&& 0xFFFF0F) := by
  have hne : ∀ k, k < 0x040 → 0x040 + n ≠ k := by omega
  simp [State.csrSet, csrMask_tcfg, hne, State.setTcfg]

/-- A `TCFG` is written where its tile stands in the window, holds no weights, and no command in flight names it. -/
theorem csrBody_tcfg {s : State} {n : Nat} {src : CsrSrc} (d : SReg) (hw : n < s.job.tileCount) (hb : s.tileBusy n = false)
    (hh : s.job.weights.map (·.tile) ≠ some n) (hok : tcfgOk (s.csrSrc src) = true) :
    csrBody (0x040 + n) src d csrNew s =
      .done (((s.setTcfg n (s.csrSrc src &&& 0xFFFF0F)).voidWeights n).sput d (s.csrOld (0x040 + n))) 0 := by
  have hin : s.csrBeyond (0x040 + n) = false := by simp [State.csrBeyond]; omega
  have hheld : s.weightsHeld n = false := by simp [State.weightsHeld, hh]
  have hge : 0x040 ≤ 0x040 + n := by omega
  simp only [csrBody, hin, hheld, hb, csrNew, csrMask_tcfg _ hge, tcfgOk_masked, hok, State.csrSet_tcfg, hge, Nat.add_sub_cancel_left, decide_true,
    Bool.and_false, Bool.not_true, Bool.false_eq_true, if_false, if_true]

theorem Stream.sget_sput (t : Stream) (d : SReg) (v : Word) : (t.sput d v).sget d = if d = 0 then 0 else v := by
  unfold Stream.sget Stream.sput
  split
  · rfl
  · simp

theorem State.sget_sput {s : State} (h : (s.jobs.find? s.cur.job).isSome = true) (d : SReg) (v : Word) :
    ((s.sput d v).strOf s.cur).sget d = if d = 0 then 0 else v := by
  rw [State.sput, State.modSt, State.strOf_modRef_self _ _ h, Stream.sget_sput]

/-- What a register write and a void load of the weights leave of the tiles' configurations. -/
theorem State.setTcfg_tcfg {s : State} (h : (s.jobs.find? s.cur.job).isSome = true) (n : Nat) (w : Word) (d : SReg) (v : Word) :
    ((((s.setTcfg n w).voidWeights n).sput d v).jobOf s.cur.job).tcfg = s.job.tcfg.setIfInBounds n w := by
  rw [State.sput_jobOf_keep Job.tcfg (fun j l t => by cases l <;> rfl), State.voidWeights,
    State.jobOf_modJob_keep Job.tcfg _ (fun j => by split <;> rfl), State.setTcfg, State.jobOf_modJob_self _ _ h]
  rfl

theorem execTcfgWrite_writes {o : OpTcfg} {s : State} (h : s.Issues o.c (.s o.d :: CsrSrc_regs o.src)) (hw : o.n.val < s.job.tileCount)
    (hb : s.tileBusy o.n = false) (hh : s.job.weights.map (·.tile) ≠ some o.n.val) (hok : tcfgOk (s.csrSrc o.src) = true) :
    ∃ t, execTcfgWrite o s = .next t ∧ (t.jobOf s.cur.job).tcfg = s.job.tcfg.setIfInBounds o.n (s.csrSrc o.src &&& 0xFFFF0F) ∧
      (t.strOf s.cur).sget o.d = if o.d = 0 then 0 else s.csrOld (0x040 + o.n) := by
  have hcur : ((s.setTcfg o.n (s.csrSrc o.src &&& 0xFFFF0F)).voidWeights o.n).cur = s.cur := by simp [State.voidWeights, State.setTcfg]
  have hjob : ((((s.setTcfg o.n (s.csrSrc o.src &&& 0xFFFF0F)).voidWeights o.n)).jobs.find? s.cur.job).isSome = true := by
    simpa [State.voidWeights, State.setTcfg] using h.listed
  obtain ⟨t, ht, hd⟩ := command_done (u := { opc := 0x0A1, regs := .s o.d :: CsrSrc_regs o.src }) h rfl (csrBody_tcfg o.d hw hb hh hok)
    (by simpa using hcur) (by simpa using hjob)
  refine ⟨t, ht, ?_, ?_⟩
  · rw [hd.frame.job_field Job.tcfg fun _ => rfl]
    exact State.setTcfg_tcfg h.listed _ _ _ _
  · have hs : (t.strOf s.cur).aside.sget o.d = _ := congrArg (Stream.sget · o.d) hd.frame.stream
    have hg := State.sget_sput (s := (s.setTcfg o.n (s.csrSrc o.src &&& 0xFFFF0F)).voidWeights o.n) (by rw [hcur]; exact hjob) o.d (s.csrOld (0x040 + o.n))
    rw [hcur] at hg
    exact hs.trans hg

/-! #### `SPECDEPTH` (08 R237, 12 R353) -/

/-- The depth goes to the context that the value names; the job keeps the selection. -/
theorem specdepthBody_pends {o : OpCsrS} {s : State} {c : SCtx} {v : Nat} (hv : (s.csrSrc o.src).toNat = v)
    (hc : (s.dieOf s.job.die).sampler.ctxs.find? (v / 65536 % 1024) = some c) (h8 : v % 16 ≤ 8) (hs : c.state ≠ .idle) (hvf : c.cfg.vf = s.job.vf)
    (hd : v % 16 ≤ c.cfg.dmax) :
    specdepthBody o s = .done (((s.pendDepth s.job.die (v / 65536 % 1024) (v % 16)).modJob s.cur.job (fun j =>
      { j with specSel := BitVec.ofNat 10 (v / 65536 % 1024), late := { j.late with csrs := j.late.csrs.set 0x028 (s.csrOld 0x028) } })).sput o.d
        (s.csrOld 0x028)) 0 := by
  have hseq : natBits v 16 10 = v / 65536 % 1024 := rfl
  have hdep : natBits v 0 4 = v % 16 := by simp [natBits]
  simp only [specdepthBody, hv, hseq, hdep, hc, if_neg (Nat.not_lt.mpr h8), if_neg hs, hvf, ne_eq, not_true_eq_false, if_false, if_neg (Nat.not_lt.mpr hd)]

theorem State.pendDepth_ctx {s : State} {die q d : Nat} {c : SCtx} (hc : (s.dieOf die).sampler.ctxs.find? q = some c) :
    ((s.pendDepth die q d).dieOf die).sampler.ctxs.find? q = some { c.keepDepths s.now with pend := c.pend ++ [(d, s.now)] } := by
  rw [State.pendDepth, State.dieOf_modDie_self, hc]
  exact Map.find?_set_self _ _ _

theorem execSpecdepthWrite_pends {o : OpCsrS} {s : State} {c : SCtx} {v : Nat} (h : s.Issues o.c (.s o.d :: CsrSrc_regs o.src) (irrev := true))
    (hv : (s.csrSrc o.src).toNat = v) (hc : (s.dieOf s.job.die).sampler.ctxs.find? (v / 65536 % 1024) = some c) (h8 : v % 16 ≤ 8)
    (hs : c.state ≠ .idle) (hvf : c.cfg.vf = s.job.vf) (hd : v % 16 ≤ c.cfg.dmax) :
    ∃ t, execSpecdepthWrite o s = .next t ∧ (t.jobOf s.cur.job).specSel.toNat = v / 65536 % 1024 ∧
      (t.dieOf s.job.die).sampler.ctxs.find? (v / 65536 % 1024) = some { c.keepDepths s.now with pend := c.pend ++ [(v % 16, s.now)] } := by
  obtain ⟨t, ht, hdone⟩ := command_done (u := { opc := 0x0A1, regs := .s o.d :: CsrSrc_regs o.src, irrev := true }) h rfl
    (specdepthBody_pends hv hc h8 hs hvf hd) (by simp [State.pendDepth]) (by simpa [State.pendDepth] using h.listed)
  refine ⟨t, ht, ?_, ?_⟩
  · have hsel : v / 65536 % 1024 < 2 ^ 10 := Nat.mod_lt _ (by decide)
    rw [hdone.frame.job_field Job.specSel fun _ => rfl, State.sput_jobOf_keep Job.specSel (fun j l t => by cases l <;> rfl),
      State.jobOf_modJob_self (s.pendDepth _ _ _) _ h.listed, BitVec.toNat_ofNat, Nat.mod_eq_of_lt hsel]
  · rw [hdone.frame.field (State.dieOf · s.job.die) fun _ => rfl]
    simp only [State.sput, State.modSt_dieOf, State.modJob_dieOf]
    exact State.pendDepth_ctx hc

/-- Settles O17: reads by `csrOld_eq_csrNow`; writes by the state that `csrSet` leaves for each kind of register. -/
theorem controlRegisters : Obligations.ControlRegisters := by
  unfold Obligations.ControlRegisters
  refine ⟨fun o s h hn hb => execCsrr_reads h hn hb, fun o s h hn hl => execCsrr_ptpt h hn hl, ?rdptp, ?rdcyc, ?values, ?streams, ?jobs,
    fun o s h hn => execCsrw_fstat h hn, ?tcfg, fun o s c h hc h8 hs hvf hd => execSpecdepthWrite_pends h rfl hc h8 hs hvf hd⟩
  case rdptp =>
    exact fun o s h => command_sput_late (u := { opc := 0x0A5, regs := [.s o.d], irrev := true, lat := 4, dst := [.s o.d] }) h (Nat.succ_ne_zero _) rfl rfl
  case rdcyc =>
    intro o s h hr
    rw [← Job.cyc_running hr]
    exact command_sput (u := { opc := 0x0A4, regs := [.s o.d] }) h rfl rfl
  case values =>
    intro s hl
    simp only [State.csrOld_eq_csrNow hl]
    exact ⟨rfl, rfl, rfl, rfl, rfl, rfl, rfl, rfl, rfl, rfl, rfl, State.csrNow_tcfg⟩
  case streams =>
    intro p hp
    refine csrWrites_stream (n := p.1) (mask := p.2.1) (get := p.2.2.1) (set := p.2.2.2) ?_
    revert p
    simp only [List.forall_mem_cons, List.not_mem_nil, false_implies, implies_true, and_true]
    exact ⟨.of_write (by decide) (fun _ => rfl) (fun _ _ => rfl), .of_write (by decide) (fun _ => rfl) (fun _ _ => rfl),
      .of_write (by decide) (fun _ => rfl) (fun _ _ => rfl), .of_write (by decide) (fun _ => rfl) (fun _ _ => rfl),
      ⟨by decide, fun _ => rfl, fun s v => ⟨_, s.csrSet_tcause v, rfl⟩⟩⟩
  case jobs =>
    exact fun o s h ho hl => ⟨command_csr_job h ho hl 0x0A1 csrNew, command_csr_job h ho hl 0x0A2 csrOr, command_csr_job h ho hl 0x0A3 csrClear⟩
  case tcfg =>
    intro o s h hw hb hh hf hsize
    have hok : tcfgOk (s.csrSrc o.src) = true := by simp [tcfgOk, hf, hsize]
    obtain ⟨t, ht, hcfg, hget⟩ := execTcfgWrite_writes h hw hb hh hok
    refine ⟨t, ht, ?_, fun m hm => ?_, hget⟩
    · rw [hcfg]; simp
    · have hne : o.n.val ≠ m.val := fun e => hm (Fin.ext e.symm)
      rw [hcfg]; simp [hne]

end Sys2Proof.Machine

namespace Sys2Proof.Machine

/-! ### Scratchpad operands and poison marks (06 R186, 20 R477) -/

section
variable {s : State}

/-- An operand that is not on the stack passes where it is aligned and lies in the job's window. -/
theorem State.scrOperand_ok_iff {b : SReg} {off : Word} {n e a : Nat} (hp : s.job.prologue = false) (hb : b ≠ 30) :
    s.scrOperand b off n e = .ok a ↔ a = (s.sget b + off).toNat ∧ a % e = 0 ∧ a + n ≤ s.job.scrSize * 65536 := by
  generalize hw : (s.sget b + off).toNat = w
  simp only [State.scrOperand, hw, State.chkScr, hp, hb, decide_false, Bool.false_and, Bool.false_eq_true, if_false]
  split
  next he =>
    refine ⟨nofun, ?_⟩
    rintro ⟨rfl, ha, -⟩
    exact absurd ha he
  next he =>
    split
    next hlt =>
      refine ⟨nofun, ?_⟩
      rintro ⟨rfl, -, ha⟩
      omega
    next hle =>
      constructor
      · intro h
        cases h
        exact ⟨rfl, not_not.mp he, Nat.le_of_not_lt hle⟩
      · rintro ⟨rfl, -, -⟩
        rfl

theorem NatSet.mem_foldl_insert {k : Nat} (l : List Nat) : ∀ {p : List Nat}, k ∈ p ∨ k ∈ l → k ∈ l.foldl NatSet.insert p := by
  induction l with
  | nil => simp
  | cons x l ih =>
    intro p h
    refine ih ?_
    rw [NatSet.mem_insert]
    rcases h with h | h
    · exact .inl (.inr h)
    · rcases List.mem_cons.mp h with h | h
      · exact .inl (.inl h)
      · exact .inr h

theorem first_mem_unitsOf {u a n : Nat} (h : n ≠ 0) : a / u ∈ unitsOf u a n := by
  rw [unitsOf, if_neg h]
  exact List.mem_map.mpr ⟨0, List.mem_range.mpr (Nat.succ_pos _), rfl⟩

/-- A range of whole granules covers each granule that it touches. -/
theorem covers_of_mem_unitsOf {a n k : Nat} (ha : a % granule = 0) (hn : n % granule = 0) (hk : k ∈ unitsOf granule a n) : covers granule a n k = true := by
  unfold granule at *
  unfold unitsOf at hk
  split at hk
  · cases hk
  · obtain ⟨i, hi, rfl⟩ := List.mem_map.mp hk
    have hi := List.mem_range.mp hi
    simp only [covers, Bool.and_eq_true, decide_eq_true_eq]
    omega

/-- A poisoned write marks what it touches. -/
theorem Store.foul_write_bad (x : Store) (a : Nat) {v : List Byte} (hv : v ≠ []) : Store.foul granule (Store.write granule x a v true) a v.length = true := by
  have hk := first_mem_unitsOf (u := granule) (a := a) (List.length_pos_iff.mpr hv).ne'
  have hp : a / granule ∈ (Store.write granule x a v true).poison := NatSet.mem_foldl_insert _ (.inr hk)
  exact List.any_eq_true.mpr ⟨_, hk, by simp [hp]⟩

/-- A clean write of whole granules leaves no mark on them. -/
theorem Store.foul_write_clean (x : Store) {a : Nat} {v : List Byte} (ha : a % granule = 0) (hn : v.length % granule = 0) :
    Store.foul granule (Store.write granule x a v false) a v.length = false := by
  refine List.any_eq_false.mpr fun k hk => ?_
  simp [Store.write, marksAfter, covers_of_mem_unitsOf ha hn hk]

/-- A write of the scratchpad is one of its core's store. -/
theorem State.scrWrite_scratch (s : State) (j : Job) (a : Nat) (v : List Byte) (bad : Bool) :
    ((s.scrWrite j a v bad).coreOf j.coreKey).scratch = Store.write granule (s.coreOf j.coreKey).scratch (j.scrAddr a) v bad := by
  rw [State.scrWrite, State.coreOf_modCore_self]

end

/-- Settles O18: a load and a store work for their latency; bytes and marks are those of the core's store after a write. -/
theorem scratchAccesses : Obligations.ScratchAccesses := by
  unfold Obligations.ScratchAccesses
  refine ⟨?load, ?store, fun s b off n e a hp hb => State.scrOperand_ok_iff hp hb, ?bytes⟩
  case load =>
    exact fun o s a h ha => command_data (u := { opc := 0x0B0, regs := .s o.a :: dataRegs o.d o.sz, dst := dataRegs o.d o.sz }) h
      (by rw [ldsBody, szBytes, ha]; rfl) rfl rfl rfl
  case store =>
    exact fun o s a h ha => command_data (u := { opc := 0x0B1, regs := .s o.a :: dataRegs o.d o.sz }) h (by rw [stsBody, szBytes, ha]; rfl) rfl rfl rfl
  case bytes =>
    intro s j a v bad hwf
    simp only [State.scrRead, State.scrBad, State.scrWrite_scratch]
    have haddr : a % 64 = 0 → j.scrAddr a % granule = 0 := by unfold Job.scrAddr granule; omega
    refine ⟨Store.read_write_self (by decide) hwf _ _ _, ?_, ?_, fun b n hb => Store.read_write_other (by decide) hwf _ _ _ ?_, rfl⟩
    · rintro hv rfl
      exact Store.foul_write_bad _ _ hv
    · rintro rfl ha hn
      exact Store.foul_write_clean _ (haddr ha) hn
    · unfold Job.scrAddr
      omega

end Sys2Proof.Machine

namespace Sys2Proof.Machine

/-! ### Global loads and stores (08 R240 to R242) -/

section
variable {s : State} {c : Ctl} {u : Use} {f : State → Act}

/-- A command with a latency of its own that writes one s-register. -/
theorem command_slow_sput {d : SReg} {v : Word} {fl : BitVec 5} {n : Nat} (h : s.Issues c u.regs u.preds u.gw u.ga u.irrev) (hn : n ≠ 0)
    (hd : u.dst = [.s d]) (hf : f s = .slow (s.sput d v) fl n [] none) :
    ∃ t, command c u f s = .next t ∧ s.Pends s c [.s d] [.s d (if d = 0 then 0 else v)] fl n t :=
  ⟨_, command_next h, by rw [hf]; exact State.act_done_sput (u := { u with lat := n }) hn hd h.listed⟩

/-- A command that is in flight with one access at its core's port. -/
theorem command_fly_access {w : Work} {owes : List Reg} {op : AccOp} {kind : PageKind} {die pa len engine : Nat} {src : Option Nat} {bad : Bool}
    (h : s.Issues c u.regs u.preds u.gw u.ga u.irrev)
    (hf : f s = .fly ((s.fly c u w owes).request s.nextId 0 s.job s.cur op kind die pa len src bad engine)) :
    ∃ t x a, command c u f s = .next t ∧ t.flights.find? s.nextId = some x ∧ x.ref = s.cur ∧ x.sig = c.sig ∧ x.owes = owes ∧ x.work = w ∧
      t.accesses.find? (s.nextId + 1) = some a ∧ a.flight = s.nextId ∧ a.op = op ∧ a.pa = pa ∧ a.len = len ∧ (t.strOf s.cur).aside = s.st.aside := by
  obtain ⟨t, ht, hm⟩ := command_fly h hf (by simp [State.request])
  have hflights : t.flights = (s.fly c u w owes).flights := by rw [hm.flights]; simp [State.request]
  have hacc : t.accesses = _ := hm.frame.field State.accesses fun _ => rfl
  rw [State.request, State.ensure_accesses] at hacc
  refine ⟨t, _, _, ht, by rw [hflights]; exact Map.find?_set_self _ _ _, rfl, rfl, rfl, rfl, by rw [hacc]; exact Map.find?_set_self _ _ _,
    rfl, rfl, rfl, rfl, ?_⟩
  rw [hm.frame.stream, State.request, State.ensure_strOf]
  rfl

end

section
variable {o : OpLdg} {s : State} {pa : Nat}

/-- Bytes at hand are owed to the register. -/
theorem ldgBody_quick {v : List Byte} (hsz : o.sz ≠ 4) (hpa : s.globElement o.h (s.sget o.o).toNat (2 ^ o.sz.val) false = .ok pa)
    (hq : s.quickRead s.job (s.hget o.h).pkind pa (2 ^ o.sz.val) = some (v, false)) :
    ldgBody o (ldgUse o) s = .slow (s.sput o.d (extend o.sx (szBytes o.sz) (natOf v))) 0 6 [] none := by
  have hw : ∀ t : Stream, t.writeData o.d o.sz o.sx (natOf v) = t.sput o.d (extend o.sx (szBytes o.sz) (natOf v)) := fun t => if_neg hsz
  simp only [ldgBody, szBytes, hpa, Check.andThen, hq, Bool.false_eq_true, if_false, hw]
  rfl

/-- Other bytes of a real job are read at their home. -/
theorem ldgBody_flies (hs : s.job.spec = none) (hpa : s.globElement o.h (s.sget o.o).toNat (2 ^ o.sz.val) false = .ok pa)
    (hq : s.quickRead s.job (s.hget o.h).pkind pa (2 ^ o.sz.val) = none) :
    ldgBody o (ldgUse o) s =
      .fly ((s.fly o.c (ldgUse o) (.load o.d o.sz o.sx o.h ((s.hget o.h).vaddr (s.sget o.o).toNat)) (dataRegs o.d o.sz)).request s.nextId 0 s.job s.cur
        .read (s.hget o.h).pkind ((s.hget o.h).home pa) pa (2 ^ o.sz.val) none false 6) := by
  simp only [ldgBody, szBytes, hpa, Check.andThen, hq, State.recordReads, hs]

end

section
variable {o : OpStg} {s : State} {pa : Nat}

/-- `UN` bytes of a real job go to the combine buffer. -/
theorem stgBody_accepted (hs : s.job.spec = none) (hpa : s.globElement o.h (s.sget o.o).toNat (2 ^ o.sz.val) true = .ok pa)
    (hk : (s.hget o.h).pkind = .un) :
    stgBody o (stgUse o) s = .data s (.accept [((s.hget o.h).home pa, pa, s.storeData o.d o.sz, false)]) (.after 6) [] none := by
  simp only [stgBody, szBytes, hpa, Check.andThen, State.writeOut, hs, hk]
  rfl

/-- Those of another kind are written at their home. -/
theorem stgBody_flies (hs : s.job.spec = none) (hpa : s.globElement o.h (s.sget o.o).toNat (2 ^ o.sz.val) true = .ok pa)
    (hk : (s.hget o.h).pkind ≠ .un) :
    stgBody o (stgUse o) s = .fly ((s.fly o.c (stgUse o) (.writes 1) []).request s.nextId 0 s.job s.cur (.write (s.storeData o.d o.sz))
      (s.hget o.h).pkind ((s.hget o.h).home pa) pa (2 ^ o.sz.val) none false 6) := by
  simp only [stgBody, szBytes, hpa, Check.andThen, State.writeOut, hs, hk]
  rfl

end

/-- Settles O19: each access by what its body answers: a value owed, work of the combine buffer, or a flight with its access. -/
theorem globalLoadsAndStores : Obligations.GlobalLoadsAndStores := by
  unfold Obligations.GlobalLoadsAndStores
  refine ⟨?quick, ?load, ?store⟩
  case quick =>
    exact fun o s pa v h hsz hpa hq => command_slow_sput (u := ldgUse o) h (Nat.succ_ne_zero _) (if_neg hsz) (ldgBody_quick hsz hpa hq)
  case load => exact fun o s pa h hs hpa hq => command_fly_access (u := ldgUse o) h (ldgBody_flies hs hpa hq)
  case store =>
    intro o s pa h hs hpa
    dsimp only
    split
    next hk => exact command_data (u := stgUse o) h (stgBody_accepted hs hpa hk) rfl rfl rfl
    next hk =>
      obtain ⟨t, f, a, ht, hf, href, hsig, -, hwork, ha, hfl, hop, hpa, -, hst⟩ := command_fly_access (u := stgUse o) h (stgBody_flies hs hpa hk)
      exact ⟨t, f, a, ht, hf, href, hsig, hwork, ha, hfl, hop, hpa, hst⟩

end Sys2Proof.Machine

namespace Sys2Proof.Machine

/-! ### Handles (09 R246 to R248) -/

/-- A translation may start a walk, and does no more. -/
theorem State.Beside.translate (s : State) (j : Job) (va : Nat) : s.Beside (s.translate j va).2 := by
  unfold State.translate
  dsimp only
  split
  · exact .refl s
  · split
    · exact .refl s
    · split
      · split <;> exact .refl s
      · split
        · exact .refl s
        · exact (State.Beside.modCore s _ _).trans (.later _ _ _)

/-- An address that the core's cache translates starts no walk. -/
theorem State.translate_cached {s : State} {j : Job} {va : Nat} {h : Handle} (hva : va < 2 ^ 48) (hc : (s.coreOf j.coreKey).cached j.ctx va = some h) :
    s.translate j va = (h, s) := by
  simp only [State.translate, if_neg (Nat.not_le.mpr hva), hc]

theorem execXlat_flies {o : OpXlat} {s : State} (h : s.Issues o.c [.h o.h, .s o.a]) :
    ∃ t f k, execXlat o s = .next t ∧ t.flights.find? k = some f ∧ f.ref = s.cur ∧ f.sig = o.c.sig ∧ f.owes = [.h o.h] ∧
      f.work = .handle o.h (s.translate s.job (s.sget o.a).toNat).1 ∧ ⟨s.now + 64, .event .xlatHandleWrite { a := k }⟩ ∈ t.agenda := by
  have hb := State.Beside.translate s s.job (s.sget o.a).toNat
  obtain ⟨t, ht, hm, hag⟩ := command_fly_agenda (u := xlatUse o) (f := xlatBody o (xlatUse o)) h rfl hb.cur
  refine ⟨t, _, (s.translate s.job (s.sget o.a).toNat).2.nextId, ht, (congrArg (Map.find? · _) hm.flights).trans (Map.find?_set_self _ _ _),
    hb.cur, rfl, rfl, rfl, hag _ ?_⟩
  rw [← hb.now]
  exact List.mem_append_right _ (List.mem_singleton_self _)

theorem execXlatHandleWrite_writes {s : State} {k : Nat} {f : Flight} {h : HReg} {v : Handle} (hk : s.args.a = k) (hf : s.flights.find? k = some f)
    (hw : f.work = .handle h v) (hj : (s.jobs.find? f.ref.job).isSome = true) :
    ∃ t, execXlatHandleWrite s = .next t ∧ (t.jobOf f.ref.job).handles = (s.jobOf f.ref.job).handles.set h v ∧ t.flights.find? k = none := by
  have hfu : (s.hput f.ref.job h v).flights.find? k = some f := by rw [State.hput, State.modJob_flights, hf]
  refine ⟨(s.hput f.ref.job h v).finish k 0, ?_, ?_, State.finish_gone _ _ _⟩
  · simp only [execXlatHandleWrite, hk, hf, hw]
  · rw [(State.finish_frame 0 hfu).job_field Job.handles fun _ => rfl, State.hput, State.jobOf_modJob_self _ _ hj]

/-! ### `PROBE` (09 R249) -/

theorem le_pageBytes (sz : Nat) : 65536 ≤ pageBytes sz ∧ pageBytes sz % 65536 = 0 := by
  unfold pageBytes
  split <;> decide

theorem Core.covers_of_cached {x : Core} {ctx va : Nat} {h : Handle} (hc : x.cached ctx va = some h) : h.covers va = true := by
  obtain ⟨e, he, rfl⟩ := Option.map_eq_some_iff.mp hc
  have hp := List.find?_some he
  rw [Bool.and_eq_true] at hp
  exact hp.2

/-- The page behind that of an address begins in a later 64 KiB. -/
theorem Handle.next_page {h : Handle} {va : Nat} (hc : h.covers va = true) : va / 65536 + 1 ≤ (h.vpn.toNat * 65536 + pageBytes h.size.toNat) / 65536 := by
  simp only [Handle.covers, Bool.and_eq_true, decide_eq_true_eq] at hc
  obtain ⟨⟨-, -⟩, hlt⟩ := hc
  obtain ⟨-, hm⟩ := le_pageBytes h.size.toNat
  omega

/-- A range of which every address is translated has no first miss. -/
theorem Core.lt_firstMiss {x : Core} {ctx last fuel : Nat} : ∀ {va : Nat}, (∀ a, va ≤ a → a ≤ last → (x.cached ctx a).isSome = true) →
    last < (va / 65536 + fuel) * 65536 → last < x.firstMiss ctx last fuel va := by
  induction fuel with
  | zero =>
    intro va _ hf
    rw [Core.firstMiss]
    omega
  | succ fuel ih =>
    intro va hc hf
    rw [Core.firstMiss]
    split
    next hl => exact hl
    next hl =>
      obtain ⟨h, hh⟩ := Option.isSome_iff_exists.mp (hc va (Nat.le_refl _) (Nat.le_of_not_lt hl))
      have hn := Handle.next_page (Core.covers_of_cached hh)
      simp only [hh]
      exact ih (fun a h1 h2 => hc a (by omega) h2) (hf.trans_le (Nat.mul_le_mul_right _ (by omega)))

/-- A `PROBE` whose range is translated, 64 cycles after its turn, takes the handle of its first address. -/
theorem probeBody_done {o : OpProbe} {s : State} {p : Probing} {h : Handle} (hp : s.st.probing = some p) (hn : p.fault = none)
    (hf : ∀ f ∈ s.flights, f.2.ref.job = s.cur.job → f.2.ref.letter = s.cur.letter) (ht : p.since + 64 ≤ s.now)
    (hc : ∀ va, p.next ≤ va → va ≤ p.last → (s.core.cached s.job.ctx va).isSome = true) (hh : s.core.cached s.job.ctx (s.sget o.a).toNat = some h)
    (ha : (s.sget o.a).toNat < 2 ^ 48) : probeBody o s = .done (s.probed o.h h) 0 := by
  have hany : s.flights.any (fun f => f.2.ref.job = s.cur.job && f.2.ref.letter ≠ s.cur.letter) = false :=
    List.any_eq_false.mpr fun f hmem => by simpa using hf f hmem
  have hmiss : p.last < (s.coreOf s.job.coreKey).firstMiss s.job.ctx p.last ((p.last - p.next) / 65536 + 2) p.next :=
    Core.lt_firstMiss hc (by omega)
  have htr := State.translate_cached ha hh
  simp only [probeBody, hp, probeStep, hany, Bool.false_eq_true, if_false, hn, if_pos hmiss, if_pos ht, htr]

/-- Settles O20: the completions at issue by their bodies, `XLAT` and its handle by their flight, `PROBE` by `Core.lt_firstMiss`. -/
theorem handleCommands : Obligations.HandleCommands := by
  unfold Obligations.HandleCommands
  refine ⟨?test, ?testP, ?release, fun o s h => execXlat_flies h, ?write, ?probe⟩
  case test => exact fun o s h => command_sput (u := { opc := 0x0B9, regs := [.s o.d, .h o.h] }) h rfl rfl
  case testP => exact fun o s h => command_pput (u := { opc := 0x0B9, regs := [.p o.d, .h o.h] }) h rfl rfl
  case release => exact fun o s h => command_modJob (u := { opc := 0x0BA, regs := [.h o.h] }) h rfl rfl
  case write =>
    intro s k f h v hk hf hw hj
    obtain ⟨t, ht, hh, hg⟩ := execXlatHandleWrite_writes hk hf hw hj
    refine ⟨t, ht, ?_, hg, fun g hgh => ?_⟩
    · rw [hh]; simp
    · have hne : h.val ≠ g.val := fun e => hgh (Fin.ext e.symm)
      rw [hh]; simp [hne]
  case probe =>
    intro o s p h hp hn hf ht _ _ hc hh ha
    obtain ⟨v, hv⟩ := Option.isSome_iff_exists.mp hh
    obtain ⟨t, ht, hd⟩ := command_done (u := { opc := 0x0BB, regs := [.h o.h, .s o.a, .s o.n] }) h rfl (probeBody_done hp hn hf ht hc hv ha)
      (by simp [State.probed, State.setProbing, State.hput]) (by simpa [State.probed, State.setProbing, State.hput] using h.listed)
    exact ⟨t, v, ht, hv, by simpa [State.probed, State.setProbing, State.hput] using hd⟩

end Sys2Proof.Machine

namespace Sys2Proof.Machine

/-! ### Accesses at their core's port (03 R83) -/

/-- `t` is `s` with more accesses at ports and more on its agenda. -/
structure State.Sends (s t : State) : Prop where
  rest : { t with accesses := [], agenda := [], nextId := 0 } = { s with accesses := [], agenda := [], nextId := 0 }
  agenda : ∀ e ∈ s.agenda, e ∈ t.agenda
  older : ∀ i, i < s.nextId → t.accesses.find? i = s.accesses.find? i
  ids : s.nextId ≤ t.nextId

/-- The accesses that a flight asks for are those that are listed. -/
theorem State.Asks.of_accesses {s t : State} {k i pa n : Nat} {op : AccOp} {kind : PageKind} {src : Option Nat}
    (h : s.Asks k i op kind pa n src) (ha : t.accesses = s.accesses) : t.Asks k i op kind pa n src := by
  unfold State.Asks
  rw [ha]
  exact h

namespace State.Sends

variable {s t u : State}

theorem refl (s : State) : s.Sends s := ⟨rfl, fun _ h => h, fun _ _ => rfl, Nat.le_refl _⟩

theorem trans (h : s.Sends t) (g : t.Sends u) : s.Sends u :=
  ⟨g.rest.trans h.rest, fun e he => g.agenda e (h.agenda e he), fun i hi => (g.older i (hi.trans_le h.ids)).trans (h.older i hi), h.ids.trans g.ids⟩

/-- What such accesses leave. -/
theorem field (h : s.Sends t) {α : Type} (f : State → α)
    (hf : ∀ s : State, f { s with accesses := [], agenda := [], nextId := 0 } = f s) : f t = f s := by rw [← hf t, ← hf s, h.rest]

theorem foldl {α : Type} {f : State → α → State} (hf : ∀ (s : State) a, s.Sends (f s a)) (l : List α) (s : State) : s.Sends (l.foldl f s) := by
  induction l generalizing s with
  | nil => exact refl s
  | cons a l ih => exact (hf s a).trans (ih _)

theorem post (s : State) (d : Nat) (i : Instr) (g : Args) : s.Sends (s.post d i g) :=
  ⟨rfl, fun _ h => List.mem_append_left _ h, fun _ _ => rfl, Nat.le_refl _⟩

theorem ensure (s : State) (d : Nat) (i : Instr) (g : Args) : s.Sends (s.ensure d i g) := by
  rcases s.ensure_cases d i g with h | h <;> rw [h]
  · exact refl s
  · exact post s d i g

theorem request (s : State) (k i : Nat) (j : Job) (r : Ref) (op : AccOp) (kind : PageKind) (die pa n : Nat) (src : Option Nat) (bad : Bool) (e : Nat) :
    s.Sends (s.request k i j r op kind die pa n src bad e) := by
  unfold State.request
  refine trans ?_ (ensure _ _ _ _)
  exact ⟨rfl, fun _ h => h, fun i hi => Map.find?_set_ne _ _ hi.ne, Nat.le_succ _⟩

/-- An access that is asked for stands at the port, whatever is asked for after it. -/
theorem asks {k i die pa n e : Nat} {j : Job} {r : Ref} {op : AccOp} {kind : PageKind} {src : Option Nat} {bad : Bool}
    (h : (s.request k i j r op kind die pa n src bad e).Sends t) : t.Asks k i op kind pa n src := by
  have hlt : s.nextId < (s.request k i j r op kind die pa n src bad e).nextId := by simp [State.request, State.newId]
  have hfind := h.older _ hlt
  rw [State.request, State.ensure_accesses, Map.find?_set_self] at hfind
  exact ⟨_, _, hfind, rfl, rfl, rfl, rfl, rfl, rfl, rfl, rfl⟩

/-- An access that one work of a list asks for is at the port once all of them, and more, are done. -/
theorem asks_of_foldl {α : Type} {f : State → α → State} {k i pa n : Nat} {op : AccOp} {kind : PageKind} {src : Option Nat} {l : List α} {x : α}
    (hf : ∀ (s : State) a, s.Sends (f s a)) (hx : ∀ s t : State, (f s x).Sends t → t.Asks k i op kind pa n src) (hl : x ∈ l)
    (ht : (l.foldl f s).Sends t) : t.Asks k i op kind pa n src := by
  obtain ⟨a, b, rfl⟩ := List.append_of_mem hl
  rw [List.foldl_append, List.foldl_cons] at ht
  exact hx _ _ ((foldl hf b _).trans ht)

theorem asks_foldl {α : Type} {f : State → α → State} {k i pa n : Nat} {op : AccOp} {kind : PageKind} {src : Option Nat} {l : List α} {x : α}
    (hf : ∀ (s : State) a, s.Sends (f s a)) (hx : ∀ s t : State, (f s x).Sends t → t.Asks k i op kind pa n src) (hl : x ∈ l) :
    (l.foldl f s).Asks k i op kind pa n src := asks_of_foldl hf hx hl (refl _)

theorem flights (h : s.Sends t) : t.flights = s.flights := h.field State.flights fun _ => rfl
theorem jobs (h : s.Sends t) : t.jobs = s.jobs := h.field State.jobs fun _ => rfl
theorem cores (h : s.Sends t) : t.cores = s.cores := h.field State.cores fun _ => rfl
theorem mem (h : s.Sends t) : t.mem = s.mem := h.field State.mem fun _ => rfl
theorem now (h : s.Sends t) : t.now = s.now := h.field State.now fun _ => rfl
theorem cur (h : s.Sends t) : t.cur = s.cur := h.field State.cur fun _ => rfl

end State.Sends

/-! ### Pieces of a read (09 R251) -/

/-- The bytes at hand of a real job are those of its core's combine buffer and copies over those of memory (03 R93). -/
theorem State.quickRead_congr {s t : State} {j : Job} (hj : j.spec = none) (hmem : t.mem = s.mem) (ht : t.ticket = s.ticket)
    (hb : (t.coreOf j.coreKey).combine = (s.coreOf j.coreKey).combine) (hc : (t.coreOf j.coreKey).copies = (s.coreOf j.coreKey).copies)
    (kind : PageKind) (pa n : Nat) : t.quickRead j kind pa n = s.quickRead j kind pa n := by
  unfold State.quickRead State.buffered State.overlay State.bufferBad State.memRead
  rw [hj, hmem, ht, hb, hc]

theorem State.Sends.quickRead {s t : State} (h : s.Sends t) {j : Job} (hj : j.spec = none) (kind : PageKind) (pa n : Nat) :
    t.quickRead j kind pa n = s.quickRead j kind pa n :=
  State.quickRead_congr hj h.mem (h.field State.ticket fun _ => rfl) (h.field (fun t => (t.coreOf j.coreKey).combine) fun _ => rfl)
    (h.field (fun t => (t.coreOf j.coreKey).copies) fun _ => rfl) kind pa n

/-- What `State.startReads` does with one part: its landing where its bytes are at hand, else an access. -/
def State.startRead (s : State) (k : Nat) (j : Job) (kind : PageKind) (die : Nat → Nat) (engine i : Nat) (p : ReadPart) : State :=
  if (s.quickRead j kind p.pa p.len).isSome then s.post (8 + i) .copyPieceLanding { a := k, b := i }
  else s.request k i j s.cur .read kind (die p.pa) p.pa p.len none false engine

section
variable {s : State} {k : Nat} {j : Job} {kind : PageKind} {die : Nat → Nat} {engine : Nat}

theorem State.Sends.startRead (s : State) (k : Nat) (j : Job) (kind : PageKind) (die : Nat → Nat) (engine i : Nat) (p : ReadPart) :
    s.Sends (s.startRead k j kind die engine i p) := by
  unfold State.startRead
  split
  · exact .post _ _ _ _
  · exact .request _ _ _ _ _ _ _ _ _ _ _ _ _

theorem State.startReads_cons (i : Nat) (p : ReadPart) (r : List ReadPart) :
    s.startReads k j kind die engine i (p :: r) =
      let t := (s.startRead k j kind die engine i p).startReads k j kind die engine (i + 1) r
      ((i, ⟨p.dst, 0, p.len, s.quickRead j kind p.pa p.len⟩) :: t.1, t.2) := by
  unfold State.startRead
  rw [State.startReads]
  split
  next b hb => simp [hb]
  next hb => simp [hb]

theorem State.Sends.startReads (ps : List ReadPart) : ∀ (s : State) (i : Nat), s.Sends (s.startReads k j kind die engine i ps).2 := by
  induction ps with
  | nil => exact fun s _ => .refl s
  | cons p r ih =>
    intro s i
    rw [State.startReads_cons]
    exact (State.Sends.startRead _ _ _ _ _ _ _ _).trans (ih _ _)

theorem State.length_startReads (ps : List ReadPart) : ∀ (s : State) (i : Nat), (s.startReads k j kind die engine i ps).1.length = ps.length := by
  induction ps with
  | nil => exact fun _ _ => rfl
  | cons p r ih =>
    intro s i
    rw [State.startReads_cons]
    exact congrArg (· + 1) (ih _ _)

/-- Each part of a read is a piece of its own: with its bytes, and landing, where they are at hand; else with an access. -/
theorem State.startReads_get (hj : j.spec = none) (ps : List ReadPart) : ∀ (s : State) (i n : Nat) (p : ReadPart), ps[n]? = some p →
    let r := s.startReads k j kind die engine i ps
    let b := s.quickRead j kind p.pa p.len
    r.1[n]? = some (i + n, ⟨p.dst, 0, p.len, b⟩) ∧
      (b.isSome = true → ⟨s.now + (8 + (i + n)), .event .copyPieceLanding { a := k, b := i + n }⟩ ∈ r.2.agenda) ∧
      (b = none → r.2.Asks k (i + n) .read kind p.pa p.len none) := by
  induction ps with
  | nil => exact fun _ _ _ _ h => by simp at h
  | cons q r ih =>
    intro s i n p hp
    have hs := State.Sends.startRead s k j kind die engine i q
    have hr := State.Sends.startReads (k := k) (j := j) (kind := kind) (die := die) (engine := engine) r (s.startRead k j kind die engine i q) (i + 1)
    rw [State.startReads_cons]
    cases n with
    | zero =>
      cases hp
      refine ⟨rfl, fun hb => hr.agenda _ ?_, fun hb => ?_⟩
      · rw [State.startRead, if_pos hb]
        exact List.mem_append_right _ (List.mem_singleton_self _)
      · refine (State.Sends.asks (s := s) (j := j) (r := s.cur) (die := die q.pa) (bad := false) (e := engine) ?_)
        simpa [State.startRead, hb] using hr
    | succ n =>
      have h := ih (s.startRead k j kind die engine i q) (i + 1) n p hp
      rw [hs.quickRead hj, hs.now, Nat.add_right_comm i 1 n] at h
      exact h

end

/-! ### Copy engines (01 R8, 09 R251) -/

/-- `e` is `s` but for the requests at the copy engines of its cores. -/
structure State.Served (s e : State) : Prop where
  rest : { e with cores := [] } = { s with cores := [] }
  core : ∀ k, { e.coreOf k with engineWait := [], engineLast := 0 } = { s.coreOf k with engineWait := [], engineLast := 0 }

theorem State.Served.refl (s : State) : s.Served s := ⟨rfl, fun _ => rfl⟩

theorem State.Served.engineTaken (s : State) : s.Served s.engineTaken := by
  refine ⟨rfl, fun k => ?_⟩
  unfold State.engineTaken
  by_cases hk : k = s.job.coreKey
  · rw [hk, State.coreOf_modCore_self]
  · rw [State.coreOf_modCore_ne _ _ hk]

namespace State.Served

variable {s e : State}

theorem field (h : s.Served e) {α : Type} (f : State → α) (hf : ∀ s : State, f { s with cores := [] } = f s) : f e = f s := by
  rw [← hf e, ← hf s, h.rest]

theorem ofCore (h : s.Served e) {α : Type} (f : Core → α) (hf : ∀ x : Core, f { x with engineWait := [], engineLast := 0 } = f x) (k : Nat) :
    f (e.coreOf k) = f (s.coreOf k) := by rw [← hf (e.coreOf k), ← hf (s.coreOf k), h.core]

theorem job (h : s.Served e) : e.job = s.job := h.field State.job fun _ => rfl

theorem quickRead (h : s.Served e) {j : Job} (hj : j.spec = none) (kind : PageKind) (pa n : Nat) :
    e.quickRead j kind pa n = s.quickRead j kind pa n :=
  State.quickRead_congr hj (h.field State.mem fun _ => rfl) (h.field State.ticket fun _ => rfl) (h.ofCore Core.combine (fun _ => rfl) _)
    (h.ofCore Core.copies (fun _ => rfl) _) kind pa n

end State.Served

/-! ### Commands in flight with accesses -/

/-- A command in flight, whose body leaves the jobs, the scratchpads and memory. -/
theorem State.Launched.of_flight {s e t : State} {c : Ctl} {dst : List Reg} {p : Work → Prop} {f : Flight} (hm : State.Moved s.cur e t)
    (hf : e.flights.find? s.nextId = some f) (hf' : f.ref = s.cur ∧ f.sig = c.sig ∧ f.owes = dst ∧ p f.work) (hj : e.jobs = s.jobs)
    (hc : ∀ k, (e.coreOf k).scratch = (s.coreOf k).scratch) (hmem : e.mem = s.mem) : s.Launched c dst p t := by
  obtain ⟨href, hsig, howes, hw⟩ := hf'
  refine ⟨f, by rw [hm.flights, hf], href, hsig, howes, hw, ?_, fun k hk => ?_, fun k => ?_, hm.frame.mem.trans hmem⟩
  · rw [hm.frame.stream]
    simp only [State.st, State.strOf, State.jobOf, hj]
  · rw [hm.frame.others k hk]
    simp only [State.jobOf, hj]
  · rw [← hc k]
    simp only [State.coreOf, hm.frame.cores]

/-- A command in flight by a copy engine. -/
theorem State.Launched.of_fly {s e e' t : State} {c : Ctl} {u : Use} {w : Work} {dst : List Reg} {tiles : List Nat} {engine : Option Nat}
    (he : s.Served e) (hm : State.Moved s.cur e' t) (hf : e'.flights = (e.fly c u w dst tiles engine).flights) (hj : e'.jobs = e.jobs)
    (hc : e'.cores = e.cores) (hmem : e'.mem = e.mem) : s.Launched c dst (fun v => v = w) t := by
  have hnext : e.nextId = s.nextId := he.field State.nextId fun _ => rfl
  refine .of_flight hm (f := ⟨e.cur, e.st.visit, c.sig, dst, tiles, engine, 0, e.st.cmdStart, u.opc, e.st.num, w⟩) ?_
    ⟨he.field State.cur fun _ => rfl, rfl, rfl, rfl⟩ (hj.trans (he.field State.jobs fun _ => rfl)) (fun k => ?_)
    (hmem.trans (he.field State.mem fun _ => rfl))
  · rw [hf, ← hnext]
    exact Map.find?_set_self _ _ _
  · rw [← he.ofCore Core.scratch (fun _ => rfl) k]
    simp only [State.coreOf, hc]

/-- One whose body besides asks for accesses. -/
theorem State.Launched.of_sends {s e e' t : State} {c : Ctl} {u : Use} {w : Work} {dst : List Reg} {tiles : List Nat} {engine : Option Nat}
    (he : s.Served e) (hs : (e.fly c u w dst tiles engine).Sends e') (hm : State.Moved s.cur e' t) : s.Launched c dst (fun v => v = w) t :=
  .of_fly he hm hs.flights hs.jobs hs.cores hs.mem

theorem State.fly_quickRead {s : State} {j : Job} (hj : j.spec = none) (c : Ctl) (u : Use) (w : Work) (l : List Reg) (ts : List Nat) (e : Option Nat)
    (kind : PageKind) (pa n : Nat) : (s.fly c u w l ts e).quickRead j kind pa n = s.quickRead j kind pa n :=
  State.quickRead_congr hj rfl rfl rfl rfl kind pa n

/-- The reads of a real job's command are in flight as soon as it has issued: nothing is recorded of them. -/
theorem State.readIn_real {s : State} (hs : s.job.spec = none) (c : Ctl) (u : Use) (kind : PageKind) (die : Nat → Nat) (engine : Option Nat)
    (ps : List ReadPart) (w : Map Piece → Work) :
    s.readIn c u kind die engine ps w =
      let r := (s.fly c u (w []) [] [] engine).startReads s.nextId s.job kind die (engine.getD 6) 0 ps
      .fly (r.2.modFlight s.nextId (fun f => { f with work := w r.1 })) := by
  simp only [State.readIn, State.recordReads, hs]

/-- A command of a real job that reads global pieces: its work stands over exactly those pieces. -/
theorem command_readIn {s e : State} {c : Ctl} {u : Use} {f : State → Act} {kind : PageKind} {die : Nat → Nat} {engine : Option Nat}
    {ps : List ReadPart} {w : Map Piece → Work} (h : s.Issues c u.regs u.preds u.gw u.ga u.irrev) (hs : s.job.spec = none) (he : s.Served e)
    (hf : f s = e.readIn c u kind die engine ps w) :
    ∃ t m, command c u f s = .next t ∧ s.Launched c [] (fun x => x = w m) t ∧ s.ReadsIn t kind ps m := by
  have hj : e.job.spec = none := by rw [he.job, hs]
  have hnext : e.nextId = s.nextId := he.field State.nextId fun _ => rfl
  have hnow : e.now = s.now := he.field State.now fun _ => rfl
  have hcur : e.cur = s.cur := he.field State.cur fun _ => rfl
  rw [State.readIn_real hj] at hf
  have hsends := State.Sends.startReads (k := e.nextId) (j := e.job) (kind := kind) (die := die) (engine := engine.getD 6) ps
    (e.fly c u (w []) [] [] engine) 0
  have hlen := State.length_startReads (k := e.nextId) (j := e.job) (kind := kind) (die := die) (engine := engine.getD 6) ps
    (e.fly c u (w []) [] [] engine) 0
  have hget := State.startReads_get (k := e.nextId) (kind := kind) (die := die) (engine := engine.getD 6) hj ps (e.fly c u (w []) [] [] engine) 0
  generalize (e.fly c u (w []) [] [] engine).startReads e.nextId e.job kind die (engine.getD 6) 0 ps = r at hf hsends hlen hget
  have hflight : r.2.flights.find? e.nextId =
      some ⟨e.cur, e.st.visit, c.sig, [], [], engine, 0, e.st.cmdStart, u.opc, e.st.num, w []⟩ := by
    rw [hsends.flights]
    exact Map.find?_set_self _ _ _
  obtain ⟨t, ht, hm, hag⟩ := command_fly_agenda h hf (by rw [State.modFlight_cur, hsends.cur, State.fly_cur, hcur])
  have hacc : t.accesses = r.2.accesses := (hm.frame.field State.accesses fun _ => rfl).trans (State.modFlight_accesses _ _ _)
  refine ⟨t, r.1, ht, ?_, hlen, fun i p hp => ?_⟩
  · refine .of_flight hm (f := ⟨e.cur, e.st.visit, c.sig, [], [], engine, 0, e.st.cmdStart, u.opc, e.st.num, w r.1⟩) ?_ ⟨hcur, rfl, rfl, rfl⟩ ?_
      (fun k => ?_) ?_
    · rw [← hnext, State.modFlight, hflight]
      exact Map.find?_set_self _ _ _
    · rw [State.modFlight_jobs, hsends.jobs]
      exact he.field State.jobs fun _ => rfl
    · rw [← he.ofCore Core.scratch (fun _ => rfl) k]
      simp only [State.coreOf, State.modFlight_cores, hsends.cores, State.fly_cores]
    · rw [State.modFlight_mem, hsends.mem]
      exact he.field State.mem fun _ => rfl
  · have hi := hget i p hp
    rw [State.fly_quickRead hj, he.job, he.quickRead hs, Nat.zero_add] at hi
    obtain ⟨hpiece, hland, hask⟩ := hi
    refine ⟨hpiece, fun hb => ?_, fun hb => ?_⟩
    · rw [← hnext, ← hnow]
      exact hag _ (by rw [State.modFlight_agenda]; exact hland hb)
    · rw [← hnext]
      exact (hask hb).of_accesses hacc

end Sys2Proof.Machine

namespace Sys2Proof.Machine

/-! ### Copies into scratchpad (09 R250 to R255, R277) -/

theorem withEngine_granted {s : State} {f : State → Nat → Act} {e : Nat} (h : s.engineGrant = some e) : withEngine s f = f s.engineTaken e := by
  simp only [withEngine, h]

theorem withEngine_refused {s : State} {f : State → Nat → Act} (h : s.engineGrant = none) : withEngine s f = .busy s.engineAsked := by
  simp only [withEngine, h]

/-- A command whose body is busy stands past its guard, one cycle further from its last pre-emption point. -/
theorem command_busy {s e : State} {c : Ctl} {u : Use} {f : State → Act} (h : s.Issues c u.regs u.preds u.gw u.ga u.irrev) (hf : f s = .busy e) :
    command c u f s = .next e.begin.count := by
  rw [command_next h, hf]; rfl

theorem copyLen_zero {s : State} {f : Act} : copyLen 0 s f = .done s 0 := rfl

theorem copyLen_pos {n : Nat} {s : State} {f : Act} (h0 : 0 < n) (h1 : n ≤ 16777216) : copyLen n s f = f := by
  rw [copyLen, if_neg (Nat.not_lt.mpr h1), if_neg h0.ne']

/-- A copy of no bytes. -/
theorem command_copy_none {s : State} {c : Ctl} {u : Use} {f : State → Act} {n : SReg} {g : Act} (h : s.Issues c u.regs u.preds u.gw u.ga u.irrev)
    (hl : u.lat = 0) (hn : s.sget n = 0) (hf : f s = copyLen (s.sget n).toNat s g) : ∃ t, command c u f s = .next t ∧ s.Done s c 0 t :=
  command_done h hl (by rw [hf, hn]; exact copyLen_zero) rfl h.listed

section
variable {s : State} {n d pa e : Nat} {aw : Option Nat}

theorem copyG2sBody_asks {o : OpCopy} (u : Use) (hn : (s.sget o.n).toNat = n) (h0 : 0 < n) (h1 : n ≤ 16777216) (hd : s.scrOperand o.s 0 n 1 = .ok d)
    (hpa : s.globOperand o.h (s.sget o.o).toNat n false = .ok pa) (haw : s.copyAw o.aw d n = .ok aw) :
    copyG2sBody o u s = withEngine s fun s' e =>
      s'.readIn o.c u (s.hget o.h).pkind (s.hget o.h).home (some e) (readParts d pa n) (.land aw) := by
  simp only [copyG2sBody, hn, copyLen_pos h0 h1, hd, hpa, haw, Check.andThen]

theorem copy2G2sBody_asks {o : OpCopy2} (u : Use) {p1 l p2 : Nat} (hn : (s.sget o.n).toNat = n) (h0 : 0 < n) (h1 : n ≤ 16777216)
    (hd : s.scrOperand o.s 0 n 1 = .ok d) (hp : s.twoPages o.h o.h2 (s.sget o.o).toNat n false = .ok (p1, l, p2)) (haw : s.copyAw o.aw d n = .ok aw) :
    copy2G2sBody o u s = withEngine s fun s' e =>
      s'.readIn o.c u ((s.hget o.h).pkind.stronger (s.hget o.h2).pkind) (twoHome (s.hget o.h) (s.hget o.h2) p1 l) (some e)
        (readParts d p1 l ++ readParts (d + l) p2 (n - l)) (.land aw) := by
  simp only [copy2G2sBody, hn, copyLen_pos h0 h1, hd, hp, haw, Check.andThen]

/-! #### `COPY.S2S` (03 R97, 17 R405) -/

/-- The landings of a copy within scratchpad stand on the agenda, and change nothing else. -/
theorem State.s2sLandings_eq (k n : Nat) (is : List Nat) : ∀ s : State, ∃ l m, s.s2sLandings k n is = { s with agenda := s.agenda ++ l, ticket := m } := by
  induction is with
  | nil => exact fun s => ⟨[], s.ticket, by rw [List.append_nil]; rfl⟩
  | cons i r ih =>
    intro s
    cases r with
    | nil => exact ⟨_, s.ticket, rfl⟩
    | cons j r =>
      obtain ⟨l, m, h⟩ := ih (s.post (1 + Config.delay s.ticket % s2sLat n) .copyPieceLanding { a := k, b := i }).draw
      exact ⟨⟨s.now + (1 + Config.delay s.ticket % s2sLat n), .event .copyPieceLanding { a := k, b := i }⟩ :: l, m,
        h.trans (congrArg (fun a => { s with agenda := a, ticket := m }) (List.append_assoc _ [_] l))⟩

/-- Each of them lies within the copy's latency. -/
theorem State.s2sLandings_due (k n : Nat) {i : Nat} (is : List Nat) : ∀ s : State, i ∈ is →
    ∃ m, 1 ≤ m ∧ m ≤ s2sLat n ∧ ⟨s.now + m, .event .copyPieceLanding { a := k, b := i }⟩ ∈ (s.s2sLandings k n is).agenda := by
  have hpos : 0 < s2sLat n := by unfold s2sLat; omega
  induction is with
  | nil => exact fun _ h => nomatch h
  | cons a r ih =>
    intro s hi
    cases r with
    | nil =>
      obtain rfl := List.mem_singleton.mp hi
      exact ⟨s2sLat n, hpos, Nat.le_refl _, List.mem_append_right _ (List.mem_singleton_self _)⟩
    | cons b r =>
      rcases List.mem_cons.mp hi with rfl | hi
      · have hlt := Nat.mod_lt (Config.delay s.ticket) hpos
        obtain ⟨l, m, h⟩ := State.s2sLandings_eq k n (b :: r)
          (s.post (1 + Config.delay s.ticket % s2sLat n) .copyPieceLanding { a := k, b := i }).draw
        refine ⟨1 + Config.delay s.ticket % s2sLat n, Nat.le_add_right _ _, by omega, ?_⟩
        change _ ∈ ((s.post (1 + Config.delay s.ticket % s2sLat n) .copyPieceLanding { a := k, b := i }).draw.s2sLandings k n (b :: r)).agenda
        rw [h]
        exact List.mem_append_left _ (List.mem_append_right _ (List.mem_singleton_self _))
      · exact ih _ hi

theorem overlap_eq_false {a n b m : Nat} (h : a + n ≤ b ∨ b + m ≤ a) : overlap a n b m = false := by
  simp only [overlap, Bool.and_eq_false_iff, decide_eq_false_iff_not]
  omega

theorem copyS2sBody_asks {o : OpCopyS} (u : Use) {a : Nat} (hn : (s.sget o.n).toNat = n) (h0 : 0 < n) (h1 : n ≤ 16777216)
    (hd : s.scrOperand o.d 0 n 1 = .ok d) (ha : s.scrOperand o.s 0 n 1 = .ok a) (hda : d + n ≤ a ∨ a + n ≤ d) (haw : s.copyAw o.aw d n = .ok aw) :
    copyS2sBody o u s = withEngine s fun s' e =>
      .fly ((s'.fly o.c u (.land aw (granuleParts d a n)) [] [] (some e)).s2sLandings s'.nextId n (granuleParts d a n).keys) := by
  simp only [copyS2sBody, hn, copyLen_pos h0 h1, hd, ha, overlap_eq_false hda, haw, Check.andThen, Bool.false_eq_true, if_false]

theorem execCopyS2s_lands {o : OpCopyS} {a : Nat} (h : s.Issues o.c [.s o.d, .s o.s, .s o.n]) (hn : (s.sget o.n).toNat = n) (h0 : 0 < n)
    (h1 : n ≤ 16777216) (hd : s.scrOperand o.d 0 n 1 = .ok d) (ha : s.scrOperand o.s 0 n 1 = .ok a) (hda : d + n ≤ a ∨ a + n ≤ d)
    (haw : s.copyAw o.aw d n = .ok aw) (hg : s.engineGrant = some e) :
    ∃ t, execCopyS2s o s = .next t ∧ s.Launched o.c [] (fun w => w = .land aw (granuleParts d a n)) t ∧
      (∀ i p, (granuleParts d a n).find? i = some p → ∃ k, 1 ≤ k ∧ k ≤ 2 + (n + 127) / 128 ∧
        ⟨s.now + k, .event .copyPieceLanding { a := s.nextId, b := i }⟩ ∈ t.agenda) := by
  have heq := State.s2sLandings_eq s.nextId n (granuleParts d a n).keys
    (s.engineTaken.fly o.c (copyS2sUse o) (.land aw (granuleParts d a n)) [] [] (some e))
  have hdue := fun i p (hp : (granuleParts d a n).find? i = some p) => State.s2sLandings_due s.nextId n (granuleParts d a n).keys
    (s.engineTaken.fly o.c (copyS2sUse o) (.land aw (granuleParts d a n)) [] [] (some e)) (List.mem_map_of_mem (Map.mem_of_find? hp))
  have hbody := (copyS2sBody_asks (copyS2sUse o) hn h0 h1 hd ha hda haw).trans (withEngine_granted hg)
  rw [show s.engineTaken.nextId = s.nextId from rfl] at hbody
  generalize (s.engineTaken.fly o.c (copyS2sUse o) (.land aw (granuleParts d a n)) [] [] (some e)).s2sLandings s.nextId n
    (granuleParts d a n).keys = e' at heq hdue hbody
  obtain ⟨l, m, rfl⟩ := heq
  obtain ⟨t, ht, hm, hag⟩ := command_fly_agenda (u := copyS2sUse o) h hbody rfl
  refine ⟨t, ht, .of_fly (e := s.engineTaken) (u := copyS2sUse o) (engine := some e) (.engineTaken s) hm rfl rfl rfl rfl, fun i p hp => ?_⟩
  obtain ⟨k, hk1, hk2, hk3⟩ := hdue i p hp
  exact ⟨k, hk1, hk2, hag _ hk3⟩

end

/-! #### Gathers, scaled blocks and `MTOPK` (09 R254, R255) -/

theorem gatherBody_asks {s : State} {o : OpGather} (u : Use) {d : Nat} {rows : List (Nat × Nat)} (hx : s.gatherOperands o false = .ok (d, rows)) :
    gatherBody o u s = withEngine s fun s' e =>
      if rows.isEmpty then .done s' 0
      else s'.readIn o.c u (s.hget o.h).pkind (s.hget o.h).home (some e)
        ((rows.map (fun r => readParts (d + r.1 * (o.rb.toNat + 1)) ((s.hget o.h).pbase.toNat + r.2) (o.rb.toNat + 1))).flatten) (.land none) := by
  simp only [gatherBody, hx, Check.andThen]

theorem fmtBytes_copyxFmt (f : Fin 3) : fmtBytes (copyxFmt f) = if f = 0 then 2 else 1 := by
  fin_cases f <;> rfl

theorem copyxBody_none {s : State} {o : OpCopyx} (u : Use) (h0 : genCount (s.gget o.g) = 0) : copyxBody o u s = .done s 0 := by
  simp only [copyxBody, h0, if_true]

theorem copyxBody_asks {s : State} {o : OpCopyx} (u : Use) {x : Scaled} (h0 : genCount (s.gget o.g) ≠ 0) (h4 : genFmt (s.gget o.g) ≤ 4)
    (hx : s.scaledOperands o.s o.h o.o (s.gget o.g) o.hs o.so (if o.fmt = 0 then 2 else 1) true false = .ok x) :
    copyxBody o u s = withEngine s fun s' e =>
      s'.readIn o.c u ((s.hget o.h).pkind.stronger (s.hget o.hs).pkind)
        (fun pa => if x.pa ≤ pa && pa < x.pa + x.n then (s.hget o.h).home pa else (s.hget o.hs).home pa) (some e)
        (readParts 0 x.pa x.n ++ (x.scales.zipIdx.map (fun p => readParts (x.n + 2 * p.2) p.1 2)).flatten)
        (fun ps => .convert (.copyx x.a o.fmt x.n (genRow (s.gget o.g)) (genFmt (s.gget o.g)) (genGeom (s.gget o.g)) s'.job.fmode.toNat) ps x.n
          (2 * x.blocks)) := by
  simp only [copyxBody, if_neg h0, h4, decide_true, fmtBytes_copyxFmt, hx, Check.andThen]

theorem natBits_zero (d n : Nat) : natBits d 0 n = d % 2 ^ n := by
  rw [natBits, pow_zero, Nat.div_one]

theorem mtopkBody_asks {s : State} {o : OpMtopk} (u : Use) {pa a : Nat}
    (hd : (s.sget o.d).toNat < 2 ^ 44) (hl : (s.sget o.d).toNat % 65536 ≠ 0) (hr : (s.sget o.d).toNat / 65536 % 65536 ≠ 0)
    (hm : (s.sget o.d).toNat / 2 ^ 38 % 4 ≠ 3) (h5 : 5 ≤ (s.sget o.d).toNat / 2 ^ 40 % 16) (h7 : (s.sget o.d).toNat / 2 ^ 40 % 16 ≤ 7)
    (hpa : s.globOperand o.h (s.sget o.o).toNat
      ((s.sget o.d).toNat / 65536 % 65536 * ((s.sget o.d).toNat % 65536) * fmtBytes ((s.sget o.d).toNat / 2 ^ 40 % 16)) false = .ok pa)
    (hv : (s.hget o.h).hovr = true)
    (ha : s.scrOperand o.s 0 (((s.sget o.d).toNat / 65536 % 65536 - 1) * topStride ((s.sget o.d).toNat / 2 ^ 32 % 64 + 1) + 8 +
      8 * ((s.sget o.d).toNat / 2 ^ 32 % 64 + 1)) 1 = .ok a) :
    mtopkBody o u s =
      let d := (s.sget o.d).toNat
      let n := d / 65536 % 65536 * (d % 65536) * fmtBytes (d / 2 ^ 40 % 16)
      s.readIn o.c u (s.hget o.h).pkind (s.hget o.h).home none (readParts 0 pa n)
        (fun ps => .convert (.mtopk a (d / 2 ^ 40 % 16) (d / 2 ^ 38 % 4) (d / 2 ^ 32 % 64 + 1) (d / 65536 % 65536) (d % 65536) s.job.fmode.toNat) ps n 0) := by
  have h44 := Nat.not_le.mpr hd
  have h5' := Nat.not_lt.mpr h5
  have h7' := Nat.not_lt.mpr h7
  rw [mtopkBody, natBits_zero]
  generalize (s.sget o.d).toNat = d at *
  change (s.scrOperand o.s 0 ((d / 65536 % 65536 - 1) * topStride (d / 2 ^ 32 % 64 + 1) + 8 + 8 * (d / 2 ^ 32 % 64 + 1)) 1).andThen
    (fun a => (s.globOperand o.h (s.sget o.o).toNat (d / 65536 % 65536 * (d % 65536) * fmtBytes (d / 2 ^ 40 % 16)) false).andThen _) = _
  have hok : ¬ (2 ^ 44 ≤ d || d % 2 ^ 16 = 0 || d / 65536 % 65536 = 0 || d / 2 ^ 38 % 4 = 3 || d / 2 ^ 40 % 16 < 5 || 7 < d / 2 ^ 40 % 16) = true := by
    simp only [Bool.or_eq_true, decide_eq_true_eq, not_or]
    exact ⟨⟨⟨⟨⟨h44, hl⟩, hr⟩, hm⟩, h5'⟩, h7'⟩
  rw [ha, Check.andThen, hpa, Check.andThen, hv, if_neg (by decide)]
  exact if_neg hok

/-- Settles O27: a body whose operands stand is a read of exactly its parts under an engine (`command_readIn`), or waits for one. -/
theorem copiesIn : Obligations.CopiesIn := by
  unfold Obligations.CopiesIn
  refine ⟨?g2s, ?s2s, ?two, ?gather, ?copyx, ?mtopk⟩
  case g2s =>
    intro o s h hs
    refine ⟨fun hn => command_copy_none h rfl hn rfl, fun n d pa aw hn h0 h1 hd hpa haw => ?_⟩
    have hbody := copyG2sBody_asks (copyG2sUse o) hn h0 h1 hd hpa haw
    refine ⟨fun hg => ?_, fun hg => command_busy h (hbody.trans (withEngine_refused hg))⟩
    obtain ⟨e, hg⟩ := Option.isSome_iff_exists.mp hg
    obtain ⟨t, ps, ht, hl, hr⟩ := command_readIn (u := copyG2sUse o) h hs (.engineTaken s) (hbody.trans (withEngine_granted hg))
    exact ⟨t, ps, ht, hl, hr⟩
  case s2s =>
    intro o s h
    refine ⟨fun hn => command_copy_none h rfl hn rfl, fun n d a aw hn h0 h1 hd ha hda haw hg => ?_⟩
    obtain ⟨e, hg⟩ := Option.isSome_iff_exists.mp hg
    exact execCopyS2s_lands h hn h0 h1 hd ha hda haw hg
  case two =>
    intro o s h hs
    refine ⟨fun hn => command_copy_none h rfl hn rfl, fun n d p1 l p2 aw hn h0 h1 hd hp haw hg => ?_⟩
    obtain ⟨e, hg⟩ := Option.isSome_iff_exists.mp hg
    obtain ⟨t, ps, ht, hl, hr⟩ := command_readIn (u := copy2G2sUse o) h hs (.engineTaken s)
      ((copy2G2sBody_asks _ hn h0 h1 hd hp haw).trans (withEngine_granted hg))
    exact ⟨t, ps, ht, hl, hr⟩
  case gather =>
    intro o s d rows h hs hx hg
    obtain ⟨e, hg⟩ := Option.isSome_iff_exists.mp hg
    have hbody := (gatherBody_asks (gatherUse 0x0C4 o false) hx).trans (withEngine_granted hg)
    refine ⟨fun hrows => ?_, fun hrows => ?_⟩
    · rw [hrows] at hbody
      exact command_done (u := gatherUse 0x0C4 o false) h rfl hbody rfl h.listed
    · rw [if_neg (by simpa using hrows)] at hbody
      obtain ⟨t, ps, ht, hl, hr⟩ := command_readIn (u := gatherUse 0x0C4 o false) h hs (.engineTaken s) hbody
      exact ⟨t, ps, ht, hl, hr⟩
  case copyx =>
    intro o s x h hs
    refine ⟨fun h0 => command_done (u := copyxUse o) h rfl (copyxBody_none _ h0) rfl h.listed, fun h0 h4 hx hg => ?_⟩
    obtain ⟨e, hg⟩ := Option.isSome_iff_exists.mp hg
    obtain ⟨t, ps, ht, hl, hr⟩ := command_readIn (u := copyxUse o) h hs (.engineTaken s) ((copyxBody_asks _ h0 h4 hx).trans (withEngine_granted hg))
    exact ⟨t, ps, ht, hl, hr⟩
  case mtopk =>
    intro o s pa a h hs d k n hd hl hr hm h5 h7 hpa hv ha
    obtain ⟨t, ps, ht, hl', hr'⟩ := command_readIn (u := mtopkUse o) h hs (.refl s) (mtopkBody_asks _ hd hl hr hm h5 h7 hpa hv ha)
    exact ⟨t, ps, ht, hl', hr'⟩

end Sys2Proof.Machine

namespace Sys2Proof.Machine

/-! ### Copies out of scratchpad (09 R250, R254 to R256, R277) -/

theorem linesOf_ne_nil {a n : Nat} (hn : n ≠ 0) : linesOf a n ≠ [] :=
  List.ne_nil_of_mem (List.mem_map_of_mem (first_mem_unitsOf hn))

theorem State.outParts_ne_nil {s : State} {a pa n : Nat} (hn : n ≠ 0) : s.outParts a pa n ≠ [] :=
  fun h => linesOf_ne_nil hn (List.map_eq_nil_iff.mp h)

theorem State.outParts_src {s : State} {a pa n : Nat} {x : OutPart} (hx : x ∈ s.outParts a pa n) : x.src.isSome = true := by
  obtain ⟨l, -, rfl⟩ := List.mem_map.mp hx
  rfl

theorem State.length_outParts (s : State) (a pa n : Nat) : (s.outParts a pa n).length = (linesOf pa n).length := List.length_map _

/-- The bytes to be copied out are those of the scratchpad, which a request at a copy engine leaves. -/
theorem State.outParts_engineTaken (s : State) (a pa n : Nat) : s.engineTaken.outParts a pa n = s.outParts a pa n := by
  unfold State.outParts State.scrRead State.scrBad
  rw [(State.Served.engineTaken s).job, (State.Served.engineTaken s).ofCore Core.scratch fun _ => rfl]

theorem outWork_of_src {die : Nat → Nat} {ls : List OutPart} (h : ∀ x ∈ ls, x.src.isSome = true) :
    outWork die ls = .out (ls.map (fun x => (die x.pa, x.pa, x.n, x.src.getD 0))) :=
  if_pos (List.all_eq_true.mpr h)

theorem acceptLat_engine {n : Nat} (e : Nat) (hn : n ≠ 0) : acceptLat n (some e) = n + 7 := by
  rw [acceptLat, if_neg hn]
  rfl

section
variable {s e : State} {c : Ctl} {u : Use} {f : State → Act} {kind : PageKind} {die : Nat → Nat} {ls : List OutPart} {g : Nat}

/-- Lines of scratchpad bytes to a `UN` page: a real job's combine buffer takes them one by one. -/
theorem command_writeOut_accepts (h : s.Issues c u.regs u.preds u.gw u.ga u.irrev) (hd : u.dst = []) (hs : s.job.spec = none) (he : s.Served e)
    (hne : ls ≠ []) (hsrc : ∀ x ∈ ls, x.src.isSome = true) (hf : f s = e.writeOut c u .un die ls (some g)) :
    ∃ t, command c u f s = .next t ∧
      s.WorksFor e c [] (.out (ls.map (fun x => (die x.pa, x.pa, x.n, x.src.getD 0)))) (some g) (ls.length + 7) t := by
  have hout : e.writeOut c u .un die ls (some g) = .data e (outWork die ls) (.after (acceptLat ls.length (some g))) [] (some g) := by
    simp only [State.writeOut, List.isEmpty_eq_false_iff.mpr hne, he.job, hs, Bool.false_eq_true, if_false, if_true]
  rw [outWork_of_src hsrc, acceptLat_engine g (mt List.length_eq_zero_iff.mp hne)] at hout
  rw [← hd]
  exact command_data h (hf.trans hout) (he.field State.cur fun _ => rfl) (he.field State.nextId fun _ => rfl) (he.field State.now fun _ => rfl)

/-- Lines to a page of another kind: each is an access at the port. -/
theorem command_writeOut_asks (h : s.Issues c u.regs u.preds u.gw u.ga u.irrev) (hs : s.job.spec = none) (he : s.Served e) (hk : kind ≠ .un)
    (hne : ls ≠ []) (hf : f s = e.writeOut c u kind die ls (some g)) :
    ∃ t, command c u f s = .next t ∧ s.Launched c [] (fun w => w = .writes ls.length) t ∧
      ∀ x ∈ ls, t.Asks s.nextId 0 (.write x.v) kind x.pa x.n x.src := by
  have hsends : ∀ (s : State) (l : OutPart),
      s.Sends (s.request e.nextId 0 e.job s.cur (.write l.v) kind (die l.pa) l.pa l.n l.src l.bad ((some g).getD 6)) :=
    fun _ _ => .request _ _ _ _ _ _ _ _ _ _ _ _ _
  have hall := State.Sends.foldl hsends ls (e.fly c u (.writes ls.length) [] [] (some g))
  have hout : e.writeOut c u kind die ls (some g) = .fly (ls.foldl (fun s l =>
      s.request e.nextId 0 e.job s.cur (.write l.v) kind (die l.pa) l.pa l.n l.src l.bad ((some g).getD 6))
      (e.fly c u (.writes ls.length) [] [] (some g))) := by
    simp only [State.writeOut, List.isEmpty_eq_false_iff.mpr hne, he.job, hs, hk, Bool.false_eq_true, if_false]
  obtain ⟨t, ht, hm⟩ := command_fly h (hf.trans hout) (hall.cur.trans (he.field State.cur fun _ => rfl))
  refine ⟨t, ht, .of_sends he hall hm, fun x hx => ?_⟩
  rw [← he.field State.nextId fun _ => rfl]
  exact (State.Sends.asks_foldl hsends (fun _ _ hu => hu.asks) hx).of_accesses (hm.frame.field State.accesses fun _ => rfl)

end

section
variable {s : State} {n a : Nat}

theorem copyS2gBody_asks {o : OpCopyOut} (u : Use) {pa : Nat} (hn : (s.sget o.n).toNat = n) (h0 : 0 < n) (h1 : n ≤ 16777216)
    (ha : s.scrOperand o.s 0 n 1 = .ok a) (hpa : s.globOperand o.h (s.sget o.o).toNat n true = .ok pa) :
    copyS2gBody o u s = withEngine s fun s' e =>
      s'.writeOut o.c u (s.hget o.h).pkind (s.hget o.h).home (s'.outParts a pa n) (some e) := by
  simp only [copyS2gBody, hn, copyLen_pos h0 h1, ha, hpa, Check.andThen]

theorem copy2S2gBody_asks {o : OpCopy2Out} (u : Use) {p1 l p2 : Nat} (hn : (s.sget o.n).toNat = n) (h0 : 0 < n) (h1 : n ≤ 16777216)
    (ha : s.scrOperand o.s 0 n 1 = .ok a) (hp : s.twoPages o.h o.h2 (s.sget o.o).toNat n true = .ok (p1, l, p2)) :
    copy2S2gBody o u s = withEngine s fun s' e =>
      s'.writeOut o.c u ((s.hget o.h).pkind.stronger (s.hget o.h2).pkind) (twoHome (s.hget o.h) (s.hget o.h2) p1 l)
        (s'.outParts a p1 l ++ s'.outParts (a + l) p2 (n - l)) (some e) := by
  simp only [copy2S2gBody, hn, copyLen_pos h0 h1, ha, hp, Check.andThen]

/-- Two parts of a range that is not empty have a line. -/
theorem State.outParts_append_ne_nil (s : State) (b pa pb l : Nat) (h0 : 0 < n) : s.outParts a pa l ++ s.outParts b pb (n - l) ≠ [] := by
  by_cases hl : l = 0
  · exact List.append_ne_nil_of_right_ne_nil _ (State.outParts_ne_nil (by omega))
  · exact List.append_ne_nil_of_left_ne_nil (State.outParts_ne_nil hl) _

theorem scatterBody_asks {o : OpGather} (u : Use) {d : Nat} {rows : List (Nat × Nat)} (hx : s.gatherOperands o true = .ok (d, rows)) :
    scatterBody o u s = withEngine s fun s' e =>
      s'.writeOut o.c u (s.hget o.h).pkind (s.hget o.h).home
        ((rows.map (fun r => s'.outParts (d + r.1 * (o.rb.toNat + 1)) ((s.hget o.h).pbase.toNat + r.2) (o.rb.toNat + 1))).flatten) (some e) := by
  simp only [scatterBody, hx, Check.andThen]

theorem State.outParts_rows_ne_nil {α : Type} (s : State) (a pa : α → Nat) {rows : List α} (hr : rows ≠ []) :
    (rows.map (fun r => s.outParts (a r) (pa r) (n + 1))).flatten ≠ [] := by
  obtain ⟨r, rest, rfl⟩ := List.exists_cons_of_ne_nil hr
  exact List.append_ne_nil_of_left_ne_nil (State.outParts_ne_nil n.succ_ne_zero) _

/-- The scaled operands of a command are as many elements as its generator word counts. -/
theorem State.scaledOperands_count {sreg o so : SReg} {h hs : HReg} {w : GenWord} {width : Nat} {ok write : Bool} {x : Scaled}
    (hx : s.scaledOperands sreg h o w hs so width ok write = .ok x) : x.n = genCount w := by
  simp only [State.scaledOperands] at hx
  split at hx
  · cases hx
  split at hx
  · cases hx
  split at hx
  · cases hx
  split at hx
  · cases hx
  split at hx
  · cases hx
  split at hx
  · cases hx
  split at hx
  all_goals
    split at hx
    · cases hx
    · cases hx
      rfl

theorem copycBody_none {o : OpCopyc} (h0 : genCount (s.gget o.g) = 0) : copycBody o s = .done s 0 := by
  simp only [copycBody, h0, if_true]

/-- What a `COPYC` of the running stream compresses. -/
def State.compressOf (s : State) (o : OpCopyc) (x : Scaled) : Compress :=
  ⟨o.fmt, genFmt (s.gget o.g), x.n, genRow (s.gget o.g), genGeom (s.gget o.g), s.job.scrAddr x.a, x.pa, x.scales, (s.hget o.h).override,
    (s.hget o.hs).override, ((s.hget o.h).pkind.stronger (s.hget o.hs).pkind).num, s.job.fmode⟩

theorem copycBody_granted {o : OpCopyc} {x : Scaled} {e : Nat} (hs : s.job.spec = none) (h0 : genCount (s.gget o.g) ≠ 0)
    (h5 : 5 ≤ genFmt (s.gget o.g)) (h7 : genFmt (s.gget o.g) ≤ 7)
    (hx : s.scaledOperands o.s o.h o.o (s.gget o.g) o.hs o.so (fmtBytes (genFmt (s.gget o.g))) true true = .ok x) (hg : s.engineGrant = some e) :
    copycBody o s = .data s.engineTaken (.compress (s.compressOf o x)) (.after ((linesOf x.pa x.n).length + x.scales.length + 7)) [] (some e) := by
  have hlat : (s.compressOf o x).lat = (linesOf x.pa x.n).length + x.scales.length + 7 := by
    have hne : linesOf x.pa x.n ≠ [] := linesOf_ne_nil (by rw [State.scaledOperands_count hx]; exact h0)
    exact acceptLat_engine 0 fun h => hne (List.length_eq_zero_iff.mp (Nat.eq_zero_of_add_eq_zero_right h))
  have hjob : s.engineTaken.job = s.job := (State.Served.engineTaken s).job
  rw [← hlat]
  simp only [copycBody, if_neg h0, h5, h7, decide_true, Bool.and_self, hx, Check.andThen, withEngine_granted hg, hjob, hs]
  rfl

theorem acscpOutBody_none {o : OpAcsOut} (h0 : (s.sget o.n).toNat = 0) : acscpOutBody o s = .done s 0 := by
  simp only [acscpOutBody, h0, if_true]

theorem acscpInBody_none {o : OpAcsIn} (h0 : (s.sget o.n).toNat = 0) : acscpInBody o s = .done s 0 := by
  simp only [acscpInBody, h0, if_true]

theorem acscpOutBody_granted {o : OpAcsOut} {rows e : Nat} (hn : (s.sget o.n).toNat = rows) (h0 : 0 < rows)
    (ha : s.acscpOperands o.a (s.sget o.row).toNat rows (o.ncol.toNat + 1) (fmtBytes o.fmt) = .ok a) (hg : s.engineGrant = some e) :
    acscpOutBody o s = .data s.engineTaken (.acsOut s.job.fmode o.fmt (o.ncol.toNat + 1)
      (s.job.acsFirst (s.sget o.row).toNat rows o.col.toNat) (s.job.scrAddr a)) (.after (acscpLat rows (o.ncol.toNat + 1))) [] (some e) := by
  have hjob : s.engineTaken.job = s.job := (State.Served.engineTaken s).job
  simp only [acscpOutBody, hn, if_neg h0.ne', ha, Check.andThen, withEngine_granted hg, hjob]

theorem acscpInBody_granted {o : OpAcsIn} {rows e : Nat} (hn : (s.sget o.n).toNat = rows) (h0 : 0 < rows)
    (ha : s.acscpOperands o.a (s.sget o.row).toNat rows (o.ncol.toNat + 1) 4 = .ok a) (hg : s.engineGrant = some e) :
    acscpInBody o s = .data s.engineTaken (.acsIn (o.ncol.toNat + 1)
      (s.job.acsFirst (s.sget o.row).toNat rows o.col.toNat) (s.job.scrAddr a)) (.after (acscpLat rows (o.ncol.toNat + 1))) [] (some e) := by
  have hjob : s.engineTaken.job = s.job := (State.Served.engineTaken s).job
  simp only [acscpInBody, hn, if_neg h0.ne', ha, Check.andThen, withEngine_granted hg, hjob]

end

/-- Settles O28: a body whose operands stand is a write of its lines, of the kind of the page (`command_writeOut_accepts`, `command_writeOut_asks`), or
work up to its completion point (`command_data`). -/
theorem copiesOut : Obligations.CopiesOut := by
  unfold Obligations.CopiesOut
  refine ⟨?s2g, ?two, ?scatter, fun _ _ _ _ => rfl, ?copyc, ?acsOut, ?acsIn⟩
  case s2g =>
    intro o s h hs
    refine ⟨fun hn => command_copy_none h rfl hn rfl, ?_⟩
    intro n a pa e hn h0 h1 ha hpa hg ls
    have hbody := (copyS2gBody_asks (copyS2gUse o) hn h0 h1 ha hpa).trans (withEngine_granted hg)
    have hne : s.outParts a pa n ≠ [] := State.outParts_ne_nil h0.ne'
    rw [State.outParts_engineTaken] at hbody
    rw [show ls.length = (s.outParts a pa n).length from (State.length_outParts s a pa n).symm]
    split
    next hk =>
      rw [hk] at hbody
      obtain ⟨t, ht, hw⟩ := command_writeOut_accepts (u := copyS2gUse o) h rfl hs (.engineTaken s) hne (fun _ => State.outParts_src) hbody
      rw [State.outParts, List.map_map] at hw
      exact ⟨t, ht, hw⟩
    next hk =>
      obtain ⟨t, ht, hl, hx⟩ := command_writeOut_asks (u := copyS2gUse o) h hs (.engineTaken s) hk hne hbody
      exact ⟨t, ht, hl, fun l hl => ⟨_, hx _ (List.mem_map_of_mem hl)⟩⟩
  case two =>
    intro o s h hs
    refine ⟨fun hn => command_copy_none h rfl hn rfl, ?_⟩
    intro n a p1 l p2 e hn h0 h1 ha hp hg kind ls
    have hbody := (copy2S2gBody_asks (copy2S2gUse o) hn h0 h1 ha hp).trans (withEngine_granted hg)
    have hne : ls ≠ [] := State.outParts_append_ne_nil s (a + l) p1 p2 l h0
    rw [State.outParts_engineTaken, State.outParts_engineTaken] at hbody
    split
    next hk =>
      rw [show (s.hget o.h).pkind.stronger (s.hget o.h2).pkind = .un from hk] at hbody
      exact command_writeOut_accepts (u := copy2S2gUse o) h rfl hs (.engineTaken s) hne
        (fun x hx => (List.mem_append.mp hx).elim State.outParts_src State.outParts_src) hbody
    next hk => exact command_writeOut_asks (u := copy2S2gUse o) h hs (.engineTaken s) hk hne hbody
  case scatter =>
    intro o s d e rows h hs hx hg rb ls
    have hbody := (scatterBody_asks (gatherUse 0x0C5 o true) hx).trans (withEngine_granted hg)
    simp only [State.outParts_engineTaken] at hbody
    have hne (hr : rows ≠ []) : ls ≠ [] := s.outParts_rows_ne_nil _ _ hr
    refine ⟨fun hr => ?_, fun hr hk => ?_, fun hr hk => ?_⟩
    · subst hr
      exact command_done (u := gatherUse 0x0C5 o true) h rfl hbody rfl h.listed
    · rw [hk] at hbody
      refine command_writeOut_accepts (u := gatherUse 0x0C5 o true) h rfl hs (.engineTaken s) (hne hr) (fun x hx => ?_) hbody
      obtain ⟨_, hl, hx⟩ := List.mem_flatten.mp hx
      obtain ⟨r, -, rfl⟩ := List.mem_map.mp hl
      exact State.outParts_src hx
    · exact command_writeOut_asks (u := gatherUse 0x0C5 o true) h hs (.engineTaken s) hk (hne hr) hbody
  case copyc =>
    intro o s x e h hs w
    refine ⟨fun h0 => command_done (u := copycUse o) h rfl (copycBody_none h0) rfl h.listed, fun h0 h5 h7 hx hg => ?_⟩
    exact command_data (u := copycUse o) h (copycBody_granted hs h0 h5 h7 hx hg) rfl rfl rfl
  case acsOut =>
    intro o s h
    refine ⟨fun hn => command_done (u := acscpUse o.a o.row o.n) h rfl (acscpOutBody_none (by rw [hn]; rfl)) rfl h.listed, ?_⟩
    rintro rows _ a e hn h0 rfl ha hg
    exact command_data (u := acscpUse o.a o.row o.n) h (acscpOutBody_granted hn h0 ha hg) rfl rfl rfl
  case acsIn =>
    intro o s h
    refine ⟨fun hn => command_done (u := acscpUse o.a o.row o.n) h rfl (acscpInBody_none (by rw [hn]; rfl)) rfl h.listed, ?_⟩
    rintro rows _ a e hn h0 rfl ha hg
    exact command_data (u := acscpUse o.a o.row o.n) h (acscpInBody_granted hn h0 ha hg) rfl rfl rfl

end Sys2Proof.Machine

namespace Sys2Proof.Machine

/-! ### Landings of a copy's pieces (09 R251, R257) -/

theorem State.find?_modFlight_self {s : State} {k : Nat} {f : Flight} (g : Flight → Flight) (h : s.flights.find? k = some f) :
    (s.modFlight k g).flights.find? k = some (g f) := by
  simp only [State.modFlight, h]
  exact Map.find?_set_self _ _ _

/-- A flight that completes without further flags, once its work has left the late writes of its job. -/
theorem State.finish_completes_of_late {s t : State} {k : Nat} {f : Flight} (hf : t.flights.find? k = some f)
    (hj : (t.jobs.find? f.ref.job).isSome = true) (hl : (t.jobOf f.ref.job).late = (s.jobOf f.ref.job).late) :
    s.Completes k f f.flags (t.finish k 0) := by
  have h := (State.finish_completes 0 hf hj).of_late hl
  rwa [show f.flags ||| 0 = f.flags from BitVec.or_zero] at h

/-- A completion point writes no memory. -/
@[simp] theorem State.finish_mem (s : State) (k : Nat) (fl : Flags) : (s.finish k fl).mem = s.mem := State.finish_keeps State.mem (fun _ => rfl) s k fl

/-- The late writes of a job are not those that an arrival word makes. -/
theorem State.awSeen_late (s : State) (n a m k : Nat) : ((s.awSeen n a m).jobOf k).late = (s.jobOf k).late := by
  refine State.jobOf_modJob_keep Job.late s ?_ k
  exact fun _ => rfl

theorem State.landOn_late (s : State) (n a m : Nat) (b : Bool) (k : Nat) : ((s.landOn n a m b).jobOf k).late = (s.jobOf k).late := by
  refine (State.awSeen_late _ _ _ _ _).trans (State.jobOf_modJob_keep Job.late _ ?_ k)
  exact fun _ => rfl

/-- What the landing of a piece of flight `f` does to the scratchpad and to its arrival word. -/
def State.putPiece (s : State) (f : Flight) (aw : Option Nat) (p : Piece) : State :=
  let j := s.jobOf f.ref.job
  let b := p.bytes.getD (s.scrRead j p.src p.len, s.scrBad j p.src p.len)
  let s1 := s.scrWrite j p.dst b.1 b.2
  match aw with
  | none => s1
  | some a => s1.landOn f.ref.job a p.len false

section
variable {s : State} {k : Nat} {f : Flight}

theorem State.putPiece_mem (s : State) (f : Flight) (aw : Option Nat) (p : Piece) : (s.putPiece f aw p).mem = s.mem := by
  cases aw with
  | none => rfl
  | some a => exact ((State.modJob_mem _ _ _).trans (State.modJob_mem _ _ _)).trans rfl

theorem State.putPiece_flights (s : State) (f : Flight) (aw : Option Nat) (p : Piece) : (s.putPiece f aw p).flights = s.flights := by
  cases aw with
  | none => rfl
  | some a => exact ((State.modJob_flights _ _ _).trans (State.modJob_flights _ _ _)).trans rfl

theorem State.putPiece_isSome (s : State) (f : Flight) (aw : Option Nat) (p : Piece) (n : Nat) :
    ((s.putPiece f aw p).jobs.find? n).isSome = (s.jobs.find? n).isSome := by
  cases aw with
  | none => rfl
  | some a => exact ((State.isSome_modJob _ _ _ _).trans (State.isSome_modJob _ _ _ _)).trans rfl

theorem State.putPiece_late (s : State) (f : Flight) (aw : Option Nat) (p : Piece) (n : Nat) :
    ((s.putPiece f aw p).jobOf n).late = (s.jobOf n).late := by
  cases aw with
  | none => rfl
  | some a => exact State.landOn_late _ _ _ _ _ _

theorem State.landPiece_land {i : Nat} {aw : Option Nat} {ps : Map Piece} {p : Piece} (hf : s.flights.find? k = some f) (hw : f.work = .land aw ps)
    (hp : ps.find? i = some p) :
    s.landPiece k i = if (ps.erase i).isEmpty then (s.putPiece f aw p).finish k 0
      else (s.putPiece f aw p).modFlight k (fun f => { f with work := .land aw (ps.erase i) }) := by
  simp only [State.landPiece, hf, hw, hp]
  rfl

theorem State.landPiece_convert {i : Nat} {c : Convert} {ps : Map Piece} {els scales : Nat} (hf : s.flights.find? k = some f)
    (hw : f.work = .convert c ps els scales) (hp : ∀ p ∈ ps, p.2.bytes.isSome = true) :
    s.landPiece k i = (s.convertLand (s.jobOf f.ref.job) c ps els scales).1.finish k (s.convertLand (s.jobOf f.ref.job) c ps els scales).2 := by
  have hall : ps.vals.all (·.bytes.isSome) = true := by
    refine List.all_eq_true.mpr fun p hp' => ?_
    obtain ⟨e, he, rfl⟩ := List.mem_map.mp hp'
    exact hp e he
  simp only [State.landPiece, hf, hw, hall, if_true]

/-- A converted read writes its core's scratchpad alone. -/
theorem State.convertLand_keeps {α : Type} (g : State → α) (hg : ∀ (s : State) (j : Job) a v bad, g (s.scrWrite j a v bad) = g s) (s : State) (j : Job)
    (c : Convert) (ps : Map Piece) (els scales : Nat) : g (s.convertLand j c ps els scales).1 = g s := by
  cases c with
  | copyx dst fmt n row efmt geom fm =>
    simp only [State.convertLand]
    split
    · rfl
    · unfold State.putElems
      exact State.foldl_keeps g (fun _ _ => hg _ _ _ _ _) _ s
  | mtopk dst fmt mode k rows len fm =>
    unfold State.convertLand
    exact State.foldl_keeps g (fun _ _ => hg _ _ _ _ _) _ s

/-! ### The lines of a `COPYC` (04 R136, 09 R254) -/

theorem State.dataStep_makes {d : DataWork} (hf : s.flights.find? k = some f) (hw : f.work = .data d) (hn : d.need = some []) (ho : d.outs = none) :
    s.dataStep k = s.makeData k f d := by
  have hd : s.dataOf k = some (f, d) := by simp only [State.dataOf, hf, hw]
  simp only [State.dataStep, hd, hn, ho]

theorem State.makeData_compress {d : DataWork} {c : Compress} {m : Made} (hop : d.op = .compress c) (hm : d.op.made d.seen = .ok m)
    (hs : (s.jobOf f.ref.job).spec = none) :
    s.makeData k f d = if c.kind = 0 then
        (s.setData k { d with outs := some (m.puts.map (fun p => [p])) }).modFlight k (fun f => { f with flags := m.flags })
      else s.sendLines k f c m := by
  have hsingle : d.op.single = false := by rw [hop]; rfl
  have hg : d.op.groups m.puts = m.puts.map (fun p => [p]) := by rw [hop]; rfl
  rw [State.makeData, if_neg (by rw [hsingle]; decide), hm]
  dsimp only
  rw [hg, hop, hs]
  by_cases hk : c.kind = 0 <;> simp [hk]

/-- Every write of a `COPYC` is a line that a buffer or a home takes. -/
theorem DataOp.made_compress {op : DataOp} {c : Compress} {v : View} {m : Made} (hop : op = .compress c) (hm : op.made v = .ok m) :
    ∀ p ∈ m.puts, ∃ die pa v bad, p = .accept die pa v bad := by
  subst hop
  cases hm
  intro p hp
  obtain ⟨l, -, rfl⟩ := List.mem_map.mp hp
  exact ⟨_, _, _, _, rfl⟩

/-- The line that a write is, if it is one. -/
def Put.line? (p : Put) : Option (Nat × Nat × List Byte × Bool) :=
  match p with
  | .accept die pa v bad => some (die, pa, v, bad)
  | _ => none

theorem length_filterMap_line? {l : List Put} (h : ∀ p ∈ l, ∃ die pa v bad, p = .accept die pa v bad) : (l.filterMap Put.line?).length = l.length := by
  induction l with
  | nil => rfl
  | cons p l ih =>
    obtain ⟨die, pa, v, bad, rfl⟩ := h p List.mem_cons_self
    exact congrArg (· + 1) (ih fun q hq => h q (List.mem_cons_of_mem _ hq))

/-- One line of a `COPYC` of stream `r` on its way to its home. -/
def State.sendLine (s : State) (k : Nat) (r : Ref) (kind : PageKind) (e : Nat) (l : Nat × Nat × List Byte × Bool) : State :=
  s.request k 0 (s.jobOf r.job) r (.write l.2.2.1) kind l.1 l.2.1 l.2.2.1.length none l.2.2.2 e

theorem State.sendLines_eq (s : State) (k : Nat) (f : Flight) (c : Compress) (m : Made) :
    s.sendLines k f c m = (m.puts.filterMap Put.line?).foldl
      (fun t l => t.sendLine k f.ref (pageKindOf c.kind) (f.engine.getD 6) l)
      (s.modFlight k (fun f => { f with work := .writes (m.puts.filterMap Put.line?).length, flags := m.flags })) := rfl

/-- The lines of a `COPYC` sent to their homes: the command waits for as many acknowledgements. -/
theorem State.sendLines_asks {c : Compress} {m : Made} (hf : s.flights.find? k = some f) (hm : ∀ p ∈ m.puts, ∃ die pa v bad, p = .accept die pa v bad) :
    (s.sendLines k f c m).flights.find? k = some { f with flags := m.flags, work := .writes m.puts.length } ∧
      ∀ die pa v bad, .accept die pa v bad ∈ m.puts → (s.sendLines k f c m).Asks k 0 (.write v) (pageKindOf c.kind) pa v.length none := by
  have hsends : ∀ (s : State) (l : Nat × Nat × List Byte × Bool), s.Sends (s.sendLine k f.ref (pageKindOf c.kind) (f.engine.getD 6) l) :=
    fun _ _ => .request _ _ _ _ _ _ _ _ _ _ _ _ _
  rw [State.sendLines_eq, length_filterMap_line? hm]
  refine ⟨?_, fun die pa v bad hp => ?_⟩
  · rw [(State.Sends.foldl hsends _ _).flights]
    exact State.find?_modFlight_self _ hf
  · exact State.Sends.asks_foldl hsends (x := (die, pa, v, bad)) (fun _ _ h => h.asks) (List.mem_filterMap.mpr ⟨_, hp, rfl⟩)

/-! ### Acknowledgements -/

theorem State.ackWrite_writes {a : Access} {i n : Nat} (hf : s.flights.find? a.flight = some f) (hw : f.work = .writes n) :
    s.ackWrite i a = if n ≤ 1 then ({ s with accesses := s.accesses.erase i } : State).finish a.flight 0
      else ({ s with accesses := s.accesses.erase i } : State).modFlight a.flight (fun f => { f with work := .writes (n - 1) }) := by
  have hwork : s.workOf a.flight = some (.writes n) := by simp only [State.workOf, hf, hw]
  simp only [State.ackWrite, hwork]

end

/-- Settles O29: what each landing and each acknowledgement does to its flight, by the equation of its case; the last one is `State.finish`. -/
theorem pieceLandings : Obligations.PieceLandings := by
  unfold Obligations.PieceLandings
  refine ⟨?land, ?convert, ?compress, ?ack⟩
  case land =>
    intro s k i f aw ps p hk hi hf hw hp hj j b s1
    have hfu : (s.putPiece f aw p).flights.find? k = some f := by rw [State.putPiece_flights, hf]
    refine ⟨s.landPiece k i, by rw [← hk, ← hi]; rfl, ?_, ?_, fun hr => ?_, fun hr => ?_⟩
    all_goals rw [State.landPiece_land hf hw hp]
    · split
      · rw [State.finish_mem, State.putPiece_mem]
      · rw [State.modFlight_mem, State.putPiece_mem]
    · have hcores : (if (ps.erase i).isEmpty then (s.putPiece f aw p).finish k 0
          else (s.putPiece f aw p).modFlight k (fun f => { f with work := .land aw (ps.erase i) })).cores = (s.putPiece f aw p).cores := by
        split
        · exact State.finish_cores _ _ _
        · exact State.modFlight_cores _ _ _
      rw [hcores]
      simp only [State.putPiece, s1, b]
      cases p.bytes <;> rfl
    · rw [if_pos (List.isEmpty_iff.mpr hr)]
      exact State.finish_completes_of_late hfu (by rw [State.putPiece_isSome]; exact hj) (State.putPiece_late _ _ _ _ _)
    · rw [if_neg (by simpa using hr)]
      exact State.find?_modFlight_self _ hfu
  case convert =>
    intro s k f c ps els scales hk hf hw hp hj r
    have hjobs : r.1.jobs = s.jobs := State.convertLand_keeps State.jobs (fun _ _ _ _ _ => rfl) _ _ _ _ _ _
    have hflights : r.1.flights = s.flights := State.convertLand_keeps State.flights (fun _ _ _ _ _ => rfl) _ _ _ _ _ _
    refine ⟨r.1.finish k r.2, ?_, ?_, State.finish_cores _ _ _,
      (State.finish_completes _ (by rw [hflights, hf]) (by rw [hjobs]; exact hj)).of_start hjobs⟩
    · rw [← State.landPiece_convert (i := s.args.b) hf hw hp, ← hk]
      rfl
    · rw [State.finish_mem]
      exact State.convertLand_keeps State.mem (fun _ _ _ _ _ => rfl) _ _ _ _ _ _
  case compress =>
    intro s k f d c m hf hw hop hn ho hm hs
    rw [State.dataStep_makes hf hw hn ho, State.makeData_compress hop hm hs]
    refine ⟨fun h0 => ?_, fun h0 => ?_⟩
    · rw [if_pos h0]
      exact State.find?_modFlight_self _ (State.find?_modFlight_self _ hf)
    · rw [if_neg h0]
      obtain ⟨hfl, hask⟩ := State.sendLines_asks (c := c) hf (DataOp.made_compress hop hm)
      exact ⟨_, hfl, rfl, hask⟩
  case ack =>
    intro s k a f n ha hf hw hj
    rw [State.ackWrite_writes hf hw]
    refine ⟨fun h1 => ?_, fun h1 => ?_⟩
    · rw [if_pos h1]
      exact State.finish_completes_of_late (t := { s with accesses := s.accesses.erase k }) hf hj rfl
    · rw [if_neg (Nat.not_le.mpr h1)]
      exact State.find?_modFlight_self (s := { s with accesses := s.accesses.erase k }) _ hf

end Sys2Proof.Machine

namespace Sys2Proof.Machine

/-! ### Scatter-accumulate (09 R261 to R264) -/

/-- A command in line for the scatter unit of a core, which starts with one that finds it idle. -/
theorem State.joinScatter_eq (s : State) (core k n : Nat) : ∃ l,
    s.joinScatter core k n = { s.modCore core (fun x => { x with scatter := x.scatter ++ [(k, n)] }) with agenda := s.agenda ++ l } ∧
      ((s.coreOf core).scatter = [] → ⟨s.now + n, .finish k⟩ ∈ l) := by
  unfold State.joinScatter
  dsimp only
  split
  · exact ⟨_, rfl, fun _ => List.mem_singleton_self _⟩
  next h =>
    refine ⟨[], ?_, fun h' => absurd (List.isEmpty_iff.mpr h') h⟩
    rw [List.append_nil]
    rfl

/-- A command that issues and answers work for its core's scatter unit. -/
theorem command_scatter {s : State} {c : Ctl} {u : Use} {f : State → Act} {op : DataOp} {n : Nat}
    (h : s.Issues c u.regs u.preds u.gw u.ga u.irrev) (hf : f s = .data s op (.scatter n) [] none) :
    ∃ t, command c u f s = .next t ∧
      s.Works (s.modCore s.job.coreKey (fun x => { x with scatter := x.scatter ++ [(s.nextId, n)] })) c u.dst op none t ∧
      (s.core.scatter = [] → ⟨s.now + n, .finish s.nextId⟩ ∈ t.agenda) := by
  have hact : s.act c u (f s) =
      (((s.fly c u op.fresh u.dst [] none).effectLater s.nextId).joinScatter s.job.coreKey s.nextId n).onward u none := by
    rw [hf]
    rfl
  obtain ⟨l, heq, hl⟩ := State.joinScatter_eq ((s.fly c u op.fresh u.dst [] none).effectLater s.nextId) s.job.coreKey s.nextId n
  refine ⟨_, command_next h, ?_⟩
  rw [hact, heq]
  generalize hq : ({ ((s.fly c u op.fresh u.dst [] none).effectLater s.nextId).modCore s.job.coreKey
    (fun x => { x with scatter := x.scatter ++ [(s.nextId, n)] }) with
      agenda := ((s.fly c u op.fresh u.dst [] none).effectLater s.nextId).agenda ++ l } : State) = e'
  have hag : ∀ x, x ∈ ((s.fly c u op.fresh u.dst [] none).effectLater s.nextId).agenda ++ l → x ∈ (e'.onward u none).agenda := by
    rw [← hq]
    exact fun x hx => State.mem_agenda_onward hx
  have hcur : e'.cur = s.cur := by rw [← hq]; rfl
  have hflights : e'.flights = s.flights.set s.nextId ⟨s.cur, s.st.visit, c.sig, u.dst, [], none, 0, s.st.cmdStart, u.opc, s.st.num, op.fresh⟩ := by
    rw [← hq]
    rfl
  have hx : State.Frame s.cur (s.modCore s.job.coreKey (fun x => { x with scatter := x.scatter ++ [(s.nextId, n)] })) e' := by
    rw [← hq]
    exact .of_jobs rfl rfl
  have hjobs : e'.jobs = s.jobs := by rw [← hq]; rfl
  have g := State.Moved.onward e' u none
  rw [hcur] at g
  have hlate : (e'.jobOf s.cur.job).late = (s.jobOf s.cur.job).late := by simp only [State.jobOf, hjobs]
  have hfind := g.flights.trans hflights
  refine ⟨⟨hx.trans g.frame, g.signal.trans (congrArg Late.sigs hlate), g.flags.trans (congrArg Late.flags hlate), ?_, fun k hk => ?_, ?_⟩,
    fun hs => ?_⟩
  · rw [hfind]
    exact ⟨_, Map.find?_set_self _ _ _, rfl, rfl, rfl, rfl, rfl, rfl⟩
  · rw [hfind]
    exact Map.find?_set_ne _ _ hk
  · exact ⟨_, Nat.le_add_right _ _, hag _ (List.mem_append_left _ (List.mem_append_right _ (List.mem_singleton_self _)))⟩
  · exact hag _ (List.mem_append_right _ (hl hs))

theorem saccBody_ok {s : State} {o : OpSacc} {x y b : Nat}
    (hx : s.saccOperands o.ix o.v (o.cnt.toNat + 1) (o.rl.toNat + 1) (saccBytes o.fmt) = .ok (x, y))
    (hb : s.saccDest o.d ((o.rl.toNat + 1) * saccBytes o.fmt) (saccBytes o.fmt) (saccRows (s.indexList x (o.cnt.toNat + 1))) = .ok b) :
    saccBody o s = .data s (.sacc o.fmt s.job.fmode
      ((saccPairs (s.sget o.d).toNat y (o.rl.toNat + 1) (saccBytes o.fmt) (saccRows (s.indexList x (o.cnt.toNat + 1)))).map
        (fun u => (s.job.scrAddr u.1, s.job.scrAddr u.2)))) (.scatter (4 + ((o.cnt.toNat + 1) * (o.rl.toNat + 1) + 15) / 16)) [] none := by
  simp only [saccBody, hx, hb, Check.andThen]

theorem length_saccPairs (base v rl w : Nat) (rows : List (Nat × Nat)) : (saccPairs base v rl w rows).length = rows.length * rl := by
  unfold saccPairs
  induction rows with
  | nil => exact (Nat.zero_mul _).symm
  | cons r rows ih => rw [List.map_cons, List.flatten_cons, List.length_append, ih, List.length_map, List.length_range, List.length_cons,
      Nat.succ_mul, Nat.add_comm]

theorem State.saccgOperands_ok {s : State} {o : OpSaccg} {x y b : Nat} (hv : (s.hget o.h).valid = true)
    (hx : s.saccOperands o.ix o.v (o.cnt.toNat + 1) (o.rl.toNat + 1) (saccBytes o.fmt) = .ok (x, y))
    (hb : (s.hget o.h).checkRows o.h ((saccRows (s.indexList x (o.cnt.toNat + 1))).map
      (fun r => (s.sget o.o).toNat + r.2 * (o.rl.toNat + 1) * saccBytes o.fmt)) ((o.rl.toNat + 1) * saccBytes o.fmt) true = .ok b)
    (ha : ((s.hget o.h).pbase.toNat + (s.sget o.o).toNat) % saccBytes o.fmt = 0) :
    s.saccgOperands o = .ok (saccPairs ((s.hget o.h).pbase.toNat + (s.sget o.o).toNat) y (o.rl.toNat + 1) (saccBytes o.fmt)
      (saccRows (s.indexList x (o.cnt.toNat + 1)))) := by
  simp only [State.saccgOperands, Handle.checkValid, hv, if_true, hx, hb, ha, ne_eq, not_true_eq_false, if_false]

/-- The updates of a `SACCG`, each an access of its own. -/
theorem execSaccg_asks {s : State} {o : OpSaccg} {us : List (Nat × Nat)}
    (h : s.Issues o.c [.h o.h, .s o.o, .s o.ix, .s o.v] (gw := true) (ga := true) (irrev := true))
    (hu : s.saccgOperands o = .ok us) (hne : us ≠ []) (hg : s.engineGrant.isSome = true) :
    ∃ t, execSaccg o s = .next t ∧ s.Launched o.c [] (fun k => k = .writes us.length) t ∧
      ∀ u ∈ us, t.Asks s.nextId 0 (.add o.fmt s.job.fmode 0) (s.hget o.h).pkind u.1 (saccBytes o.fmt) (some (s.job.scrAddr u.2)) := by
  obtain ⟨e, hg⟩ := Option.isSome_iff_exists.mp hg
  have hsends : ∀ (t : State) (x : Nat × Nat), t.Sends (t.request s.nextId 0 s.job s.cur (.add o.fmt s.job.fmode 0) (s.hget o.h).pkind
      ((s.hget o.h).home x.1) x.1 (saccBytes o.fmt) (some (s.job.scrAddr x.2)) false e) := fun _ _ => .request _ _ _ _ _ _ _ _ _ _ _ _ _
  have hall := State.Sends.foldl hsends us (s.engineTaken.fly o.c (saccgUse o) (.writes us.length) [] [] (some e))
  have hbody : saccgBody o (saccgUse o) s = .fly (us.foldl (fun t x => t.request s.nextId 0 s.job s.cur (.add o.fmt s.job.fmode 0) (s.hget o.h).pkind
      ((s.hget o.h).home x.1) x.1 (saccBytes o.fmt) (some (s.job.scrAddr x.2)) false e)
      (s.engineTaken.fly o.c (saccgUse o) (.writes us.length) [] [] (some e))) := by
    simp only [saccgBody, hu, Check.andThen, List.isEmpty_eq_false_iff.mpr hne, Bool.false_eq_true, if_false, withEngine_granted hg]
    rw [(State.Served.engineTaken s).job]
    rfl
  obtain ⟨t, ht, hm⟩ := command_fly (u := saccgUse o) h hbody hall.cur
  exact ⟨t, ht, .of_sends (.engineTaken s) hall hm, fun x hx =>
    (State.Sends.asks_foldl hsends (fun _ _ hu => hu.asks) hx).of_accesses (hm.frame.field State.accesses fun _ => rfl)⟩

end Sys2Proof.Machine

namespace Sys2Proof.Machine

/-! ### `COLL` and `COLLST` (09 R265 to R269) -/

/-- A participant stands in its group's current round: nothing else changes but what is to come. -/
theorem State.join_eq (s : State) (key : Nat) (p : Part) :
    { s.join key p with agenda := [], ticket := 0 } =
      { s with colls := s.colls.set key { s.collOf key with parts := (s.collOf key).parts ++ [p] }, agenda := [], ticket := 0 } := by
  unfold State.join
  dsimp only
  split
  all_goals
    split
    · rfl
    · rfl

/-- The participant that the running stream's `COLL` becomes, with its descriptor `d` at window offset `a`. -/
def State.partOf (s : State) (a : Nat) (d : CollDesc) (src : Option (Nat × Nat)) (dst : Nat) : Part :=
  let r := src.getD (0, 0)
  let h := s.handleNo d.dsth
  { rank := d.rank, flight := s.nextId, job := s.cur.job, op := d.op, count := d.count, root := d.root, dst := dst
    hdie := if h.hovr then some h.hdie.toNat else none, dstoff := d.dstoff, deadline := d.deadline, status := a + 56
    mode := s.job.fmode, src := r.1, len := r.2, loaded := r.2 = 0, kind := h.pkind, data := [], bad := false, flags := 0 }

/-- Whether it reads its source, or writes its result, strongly ordered. -/
def State.partOrdered (s : State) (d : CollDesc) (src : Option (Nat × Nat)) : Bool :=
  ((src.getD (0, 0)).2 ≠ 0 && (s.handleNo d.srch).pkind == .so) || (d.op ≠ 6 && (s.handleNo d.dsth).pkind == .so)

section
variable {s : State} {o : OpColl} {a dst : Nat} {d : CollDesc} {src : Option (Nat × Nat)}

theorem collBody_joins (u : Use) (ha : s.scrOperand o.a (o.off.signExtend 64) 64 64 = .ok a) (hbad : s.scrBad s.job a 56 = false)
    (hd : d = CollDesc.ofBytes (s.scrRead s.job a 64)) {c : Coll} (hc : c = s.collOf (groupKey s.job.ctx d.group)) (hok : d.ok c.size = true)
    (hseq : d.seq = c.inst) (hrank : ∀ p ∈ c.parts, p.rank ≠ d.rank) (hcand : d.op = 6 → s.candOk d c.size s.job.vf = true)
    (hsrc : s.collSource d = .ok src) (hdst : s.collDest d c.size = .ok dst) (hfew : s.collsInFlight s.cur.job < 8) :
    collBody o u s = .fly (((s.fly o.c u (.collective (groupKey s.job.ctx d.group) (s.partOrdered d src)
      (sourcePieces (src.getD (0, 0)).1 (src.getD (0, 0)).2)) []).readSource s.nextId (s.handleNo d.srch) (src.getD (0, 0)).1 (src.getD (0, 0)).2).join
        (groupKey s.job.ctx d.group) (s.partOf a d src dst)) := by
  have hnone : c.parts.any (fun p => p.rank = d.rank) = false := by
    simpa using hrank
  have hcand' : (decide (d.op = 6) && !s.candOk d c.size s.job.vf) = false := by
    by_cases h6 : d.op = 6
    · rw [hcand h6]; exact Bool.and_false _
    · rw [decide_eq_false h6]; exact Bool.false_and _
  subst hc
  subst hd
  simp only [collBody, ha, Check.andThen, hbad, hok, hseq, hnone, hcand', hsrc, hdst, Nat.lt_irrefl, Nat.not_le.mpr hfew, Bool.false_eq_true, if_false,
    decide_false, Bool.or_false, Bool.not_true]
  rfl

theorem State.collOf_of_colls {s t : State} {key : Nat} {c : Coll} (h : t.colls = s.colls.set key c) : t.collOf key = c := by
  rw [State.collOf, h, Map.getD, Map.find?_set_self]
  rfl

/-- A `COLL` whose checks hold: its participant joins, and its source is read line by line. -/
theorem execColl_joins (h : s.Issues o.c [.s o.a] (gw := true) (ga := true) (irrev := true)) {key : Nat} {so : Bool} {p : Part}
    (hbody : collBody o (collUse o) s = .fly (((s.fly o.c (collUse o) (.collective key so (sourcePieces (src.getD (0, 0)).1 (src.getD (0, 0)).2)) []).readSource
      s.nextId (s.handleNo d.srch) (src.getD (0, 0)).1 (src.getD (0, 0)).2).join key p)) :
    ∃ t, execColl o s = .next t ∧
      s.Launched o.c [] (fun w => w = .collective key so (sourcePieces (src.getD (0, 0)).1 (src.getD (0, 0)).2)) t ∧
      (t.collOf key).parts = (s.collOf key).parts ++ [p] ∧
      ∀ i l, (linesOf (src.getD (0, 0)).1 (src.getD (0, 0)).2)[i]? = some l →
        t.Asks s.nextId i .read (s.handleNo d.srch).pkind l.1 l.2 none := by
  generalize src.getD (0, 0) = r at *
  have hsends : ∀ (t : State) (l : (Nat × Nat) × Nat), t.Sends (t.request s.nextId l.2 t.job t.cur .read (s.handleNo d.srch).pkind
      ((s.handleNo d.srch).home l.1.1) l.1.1 l.1.2 none false 6) := fun _ _ => .request _ _ _ _ _ _ _ _ _ _ _ _ _
  have hall := State.Sends.foldl hsends (linesOf r.1 r.2).zipIdx (s.fly o.c (collUse o) (.collective key so (sourcePieces r.1 r.2)) [])
  have hask := fun x (hx : x ∈ (linesOf r.1 r.2).zipIdx) => State.Sends.asks_foldl hsends
    (s := s.fly o.c (collUse o) (.collective key so (sourcePieces r.1 r.2)) []) (fun _ _ hu => hu.asks) hx
  rw [State.readSource] at hbody
  generalize (linesOf r.1 r.2).zipIdx.foldl _ _ = e at hbody hall hask
  have hjoin := State.join_eq e key p
  have hcolls : (e.join key p).colls = e.colls.set key { s.collOf key with parts := (s.collOf key).parts ++ [p] } := by
    rw [show s.collOf key = e.collOf key from ((hall.field (State.collOf · key) fun _ => rfl).trans rfl).symm]
    exact congrArg State.colls hjoin
  have hacc : (e.join key p).accesses = e.accesses := (congrArg State.accesses hjoin :)
  obtain ⟨t, ht, hm⟩ := command_fly (u := collUse o) h hbody ((congrArg State.cur hjoin).trans hall.cur)
  refine ⟨t, ht, .of_fly (.refl s) hm ((congrArg State.flights hjoin).trans hall.flights) ((congrArg State.jobs hjoin).trans hall.jobs)
    ((congrArg State.cores hjoin).trans hall.cores) ((congrArg State.mem hjoin).trans hall.mem), ?_, fun i l hl => ?_⟩
  · rw [State.collOf_of_colls ((hm.frame.field State.colls fun _ => rfl).trans hcolls)]
  · exact (hask (l, i) (List.mem_zipIdx_iff_getElem?.mpr hl)).of_accesses
      ((hm.frame.field State.accesses fun _ => rfl).trans hacc)

theorem collstBody_ok {o : OpCollst} (ha : s.scrOperand o.a (o.off.signExtend 64) 64 64 = .ok a) (hbad : s.scrBad s.job (a + 56) 8 = false) :
    collstBody o s = .done ((if s.scrNat s.job (a + 56) 8 % 256 = 0 then s else s.dropCopies s.job.coreKey s.job.ctx).sput o.d
      (BitVec.ofNat 64 (s.scrNat s.job (a + 56) 8))) 0 := by
  simp only [collstBody, ha, Check.andThen, hbad, Bool.false_eq_true, if_false]

end

/-- Settles O31: each command by what its body answers once its operands stand; the last reply of a `SACCG` by the acknowledgement of a write. -/
theorem scatterAndCollectiveCommands : Obligations.ScatterAndCollectiveCommands := by
  unfold Obligations.ScatterAndCollectiveCommands
  refine ⟨?sacc, ?saccg, ?reply, ?coll, ?collst⟩
  case sacc =>
    intro o s x y b h n rl w rows hx hb us m
    exact command_scatter (u := { opc := 0x0D8, regs := [.s o.d, .s o.ix, .s o.v] }) h (saccBody_ok hx hb)
  case saccg =>
    intro o s x y b h n rl w rows base hv hx hb ha
    have hu := State.saccgOperands_ok hv hx hb ha
    refine ⟨fun hr => ?_, fun hr hg => ?_⟩
    · refine command_done (u := saccgUse o) h rfl (e := s) (fl := 0) ?_ rfl h.listed
      rw [show saccRows (s.indexList x (o.cnt.toNat + 1)) = [] from hr] at hu
      rw [saccgBody, hu]
      rfl
    · have hlen := length_saccPairs base y rl w rows
      have hne : saccPairs base y rl w rows ≠ [] := by
        intro h0
        rw [h0] at hlen
        exact (Nat.mul_pos (List.length_pos_iff.mpr hr) (Nat.succ_pos _)).ne hlen
      rw [← hlen]
      exact execSaccg_asks h hu hne hg
  case reply =>
    intro s k a f hk ha hf hw hj
    refine ⟨s.ackWrite k a, ?_, ?_⟩
    · rw [show exec .saccgUpdate s = execSaccgUpdate s from rfl, execSaccgUpdate, hk, ha]
    · rw [State.ackWrite_writes hf hw, if_pos (Nat.le_refl 1)]
      exact State.finish_completes_of_late (t := { s with accesses := s.accesses.erase k }) hf hj rfl
  case coll =>
    intro o s a dst src h ha hbad d key r hs hok hseq hrank hcand hsrc hdst hfew
    obtain ⟨t, ht, hl, hp, hask⟩ := execColl_joins h (collBody_joins (collUse o) ha hbad rfl rfl hok hseq hrank hcand hsrc hdst hfew)
    exact ⟨t, s.partOf a d src dst, s.partOrdered d src, ht, hl, hp, rfl, rfl, rfl, rfl, rfl, rfl, rfl, hask⟩
  case collst =>
    intro o s a h ha hbad v
    refine command_done (u := { opc := 0x0E1, regs := [.s o.d, .s o.a] }) h rfl (collstBody_ok ha hbad) ?_ ?_
    · rw [State.sput_cur]
      split
      · rfl
      · rfl
    · have hl : ∀ t : State, t.jobs = s.jobs → ((t.sput o.d (BitVec.ofNat 64 v)).jobs.find? s.cur.job).isSome = true := fun t ht => by
        simpa [ht] using h.listed
      refine hl _ ?_
      split
      · rfl
      · rfl

end Sys2Proof.Machine

namespace Sys2Proof.Machine

/-! ### Sums of a collective (04 R144, 09 R266) -/

theorem toSigned_emod (w n : Nat) : toSigned w n % ((2 ^ w : Nat) : Int) = (n : Int) % ((2 ^ w : Nat) : Int) := by
  unfold toSigned
  dsimp only
  split
  · rw [Int.natCast_mod, Int.emod_emod_of_dvd _ (dvd_refl _)]
  · rw [Int.natCast_mod, Int.sub_emod_right, Int.emod_emod_of_dvd _ (dvd_refl _)]

theorem ofSigned_cast (w : Nat) (i : Int) : ((ofSigned w i : Nat) : Int) = i % ((2 ^ w : Nat) : Int) :=
  Int.toNat_of_nonneg (Int.emod_nonneg _ (by positivity))

/-- One addition of two INT32 elements, modulo 2^32. -/
theorem collFold_int (m : Fmode) (a b : Nat) :
    (((collFold 3 m a b).1 : Nat) : Int) % ((2 ^ 32 : Nat) : Int) = ((a : Int) + toSigned 32 b) % ((2 ^ 32 : Nat) : Int) := by
  have h : (collFold 3 m a b).1 = ofSigned 32 (toSigned 32 a + toSigned 32 b) := rfl
  rw [h, ofSigned_cast, Int.emod_emod_of_dvd _ (dvd_refl _), Int.add_emod, toSigned_emod, ← Int.add_emod]

theorem foldl_collFold_int (m : Fmode) (xs : List Nat) : ∀ acc : Nat × Flags,
    (((xs.foldl (fun acc y => let t := collFold 3 m acc.1 y; (t.1, acc.2 ||| t.2)) acc).1 : Nat) : Int) % ((2 ^ 32 : Nat) : Int) =
      ((acc.1 : Int) + (xs.map (toSigned 32)).sum) % ((2 ^ 32 : Nat) : Int) := by
  induction xs with
  | nil => exact fun acc => by rw [List.map_nil, List.sum_nil, Int.add_zero]; rfl
  | cons x xs ih =>
    intro acc
    rw [List.foldl_cons, ih, List.map_cons, List.sum_cons, ← Int.add_assoc, Int.add_emod, collFold_int, ← Int.add_emod]

/-- A sum of INT32 elements is exact modulo 2^32. -/
theorem collReduce_int (m : Fmode) {xs : List Nat} (h : xs ≠ []) :
    (((collReduce 3 m xs).1 : Nat) : Int) % ((2 ^ 32 : Nat) : Int) = (xs.map (toSigned 32)).sum % ((2 ^ 32 : Nat) : Int) := by
  obtain ⟨x, xs, rfl⟩ := List.exists_cons_of_ne_nil h
  rw [collReduce, foldl_collFold_int, List.map_cons, List.sum_cons, Int.add_emod, ← toSigned_emod, ← Int.add_emod]

/-! ### A look at a group's round (09 R267) -/

/-- A participant once the reads of its contribution have all returned. -/
def State.loadPart (s : State) (p : Part) : Part :=
  match s.workOf p.flight with
  | some (.collective _ _ ps) =>
    if !p.loaded && ps.vals.all (·.bytes.isSome) then
      { p with loaded := true, data := (bufferOf ps p.len).map Prod.fst, bad := (bufferOf ps p.len).any Prod.snd }
    else p
  | _ => p

theorem State.collOf_collLoad (s : State) (key : Nat) :
    (s.collLoad key).collOf key = { s.collOf key with parts := (s.collOf key).parts.map s.loadPart } := State.collOf_of_colls rfl

theorem State.loadPart_of_loaded {s : State} {p : Part} (h : p.loaded = true) : s.loadPart p = p := by
  unfold State.loadPart
  split
  · rw [h]; rfl
  · rfl

/-- `q` is participant `p` but for its contribution. -/
structure Part.Like (q p : Part) : Prop where
  flight : q.flight = p.flight
  job : q.job = p.job
  status : q.status = p.status
  flags : q.flags = p.flags

theorem State.loadPart_like (s : State) (p : Part) : (s.loadPart p).Like p := by
  unfold State.loadPart
  split
  · split
    · exact ⟨rfl, rfl, rfl, rfl⟩
    · exact ⟨rfl, rfl, rfl, rfl⟩
  · exact ⟨rfl, rfl, rfl, rfl⟩

section
variable {s : State} {key st : Nat} {c : Coll}

/-- A round whose members have all contributed. -/
theorem State.collGiven_all (hc : s.collOf key = c) (hp : ∀ p ∈ c.parts, p.loaded = true ∧ s.rankLost key c p.rank = false) : s.collGiven key = c := by
  have hall : c.parts.filter (fun p => p.loaded && !s.rankLost key c p.rank) = c.parts := by
    refine List.filter_eq_self.mpr fun p h => ?_
    obtain ⟨hl, hr⟩ := hp p h
    rw [hl, hr]
    rfl
  rw [State.collGiven, hc, hall]

theorem Coll.missing_of_all (hr : ∀ r, r < c.size → ∃ p ∈ c.parts, p.rank = r) : c.missing = [] := by
  refine List.filter_eq_nil_iff.mpr fun r h => ?_
  obtain ⟨p, hp, hrank⟩ := hr r (List.mem_range.mp h)
  simpa using ⟨p, hp, hrank⟩

/-- Once every member has contributed, the results are on their way. -/
theorem State.collTry_complete (hc : s.collOf key = c) (hne : c.parts ≠ []) (hend : c.ending = none) (ha : c.agree = true)
    (hp : ∀ p ∈ c.parts, p.op ≠ 6 ∧ p.loaded = true ∧ s.rankLost key c p.rank = false) (hr : ∀ r, r < c.size → ∃ p ∈ c.parts, p.rank = r) :
    s.collTry key = (s.collLoad key).collResult key c true (collStatus 0xFFFF 0 1) := by
  have hload : c.parts.map s.loadPart = c.parts := by
    refine (List.map_congr_left fun p h => ?_).trans (List.map_id _)
    exact State.loadPart_of_loaded (hp p h).2.1
  have hcu : (s.collLoad key).collOf key = c := by rw [State.collOf_collLoad, hc, hload]
  have hgiven : (s.collLoad key).collGiven key = c := State.collGiven_all hcu fun p h => (hp p h).2
  obtain ⟨p, r, hparts⟩ := List.exists_cons_of_ne_nil hne
  have h6 : p.op ≠ 6 := (hp p (hparts ▸ List.mem_cons_self)).1
  simp only [State.collTry, hcu, hend, hparts, hgiven, Coll.missing_of_all hr, List.isEmpty_nil, if_true, ha, Bool.not_true, Bool.false_eq_true, if_false, h6]

/-- A round whose results are performed ends. -/
theorem State.collTry_ends (hc : s.collOf key = c) (hend : c.ending = some st) (ho : s.collOpen c = false) :
    s.collTry key = (s.collLoad key).collFinish key st := by
  have hopen : (s.collLoad key).collOpen { c with parts := c.parts.map s.loadPart } = false := by
    rw [← ho]
    simp only [State.collOpen, List.any_map, Function.comp_def, (s.loadPart_like _).flight]
    rfl
  rw [hend] at hopen
  simp only [State.collTry, State.collOf_collLoad, hc, hend, hopen, Bool.false_eq_true, if_false]

end

end Sys2Proof.Machine

namespace Sys2Proof.Machine

/-! ### Results on their way (09 R266, R267) -/

/-- One line of a result on its way to its home. -/
def State.collLine (s : State) (p : Part) (j : Job) (bad : Bool) (l : Nat × List Byte) : State :=
  s.request p.flight 0 j ⟨p.job, .a⟩ (.write l.2) p.kind (p.hdie.getD (homeDie l.1)) l.1 l.2.length none bad 6

/-- What `State.collWrite` does with one piece of a result. -/
def State.collPiece (s : State) (p : Part) (j : Job) (x : Nat × List Byte × Bool) : State :=
  (splitBytes (linesOf (p.dst + x.1) x.2.1.length) x.2.1).foldl (fun s l => s.collLine p j x.2.2 l) s

theorem State.Sends.collLine (s : State) (p : Part) (j : Job) (bad : Bool) (l : Nat × List Byte) : s.Sends (s.collLine p j bad l) :=
  .request _ _ _ _ _ _ _ _ _ _ _ _ _

theorem State.Sends.collPiece (s : State) (p : Part) (j : Job) (x : Nat × List Byte × Bool) : s.Sends (s.collPiece p j x) :=
  .foldl (fun s l => .collLine s p j x.2.2 l) _ s

theorem State.Sends.collWrite (s : State) (p : Part) (ps : List (Nat × List Byte × Bool)) : s.Sends (s.collWrite p ps) :=
  .foldl (fun t x => .collPiece t p (s.jobOf p.job) x) _ s

/-- Each line of a participant's result is a write at its core's port. -/
theorem State.Sends.collWrite_asks {s t : State} {p : Part} {ps : List (Nat × List Byte × Bool)} {x : Nat × List Byte × Bool} {l : Nat × List Byte}
    (hx : x ∈ ps) (hl : l ∈ splitBytes (linesOf (p.dst + x.1) x.2.1.length) x.2.1) (ht : (s.collWrite p ps).Sends t) :
    t.Asks p.flight 0 (.write l.2) p.kind l.1 l.2.length none := by
  have hline (j : Job) (s t : State) (h : (s.collLine p j x.2.2 l).Sends t) : t.Asks p.flight 0 (.write l.2) p.kind l.1 l.2.length none := h.asks
  have hpiece (j : Job) (s t : State) (h : (s.collPiece p j x).Sends t) : t.Asks p.flight 0 (.write l.2) p.kind l.1 l.2.length none :=
    State.Sends.asks_of_foldl (f := fun s l => s.collLine p j x.2.2 l) (fun s l => .collLine s p j x.2.2 l) (hline j) hl h
  exact State.Sends.asks_of_foldl (f := fun t x => t.collPiece p (s.jobOf p.job) x) (fun t x => .collPiece t p (s.jobOf p.job) x) (hpiece _) hx ht

/-- A round one of whose writes is asked for is open. -/
theorem State.Asks.collOpen {t : State} {c : Coll} {p : Part} {i pa n : Nat} {v : List Byte} {kind : PageKind} {src : Option Nat}
    (h : t.Asks p.flight i (.write v) kind pa n src) (hp : p ∈ c.parts) : t.collOpen c = true := by
  obtain ⟨id, a, ha, hflight, -, hop, -⟩ := h
  refine List.any_eq_true.mpr ⟨_, Map.mem_of_find? ha, ?_⟩
  rw [hop]
  exact List.any_eq_true.mpr ⟨p, hp, by simpa using hflight.symm⟩

/-- The participants with what each of them receives of a reduction. -/
def Coll.results (c : Coll) (all : Bool) : List (Part × List Byte × Flags) := c.parts.map (fun p => (p, if all && p.op < 4 then c.reduced p else ([], 0)))

/-- The state in which the round's results are fixed. -/
def State.collEnding (s : State) (key : Nat) (c : Coll) (all : Bool) (status : Nat) : State :=
  { s with colls := s.colls.set key { c with parts := (c.results all).map (fun r => { r.1 with flags := r.2.2 }), ending := some status } }

/-- The state in which they are on their way. -/
def State.sendResults (s : State) (key : Nat) (c : Coll) (all : Bool) (status : Nat) : State :=
  (c.results all).foldl (fun s r => s.collWrite r.1 (c.pieces r.1 all r.2.1)) (s.collEnding key c all status)

theorem State.collResult_eq (s : State) (key : Nat) (c : Coll) (all : Bool) (status : Nat) :
    s.collResult key c all status =
      if (s.sendResults key c all status).collOpen c then s.sendResults key c all status else (s.sendResults key c all status).collFinish key status := rfl

section
variable {s : State} {key st : Nat} {c : Coll} {all : Bool} {p : Part} {x : Nat × List Byte × Bool} {l : Nat × List Byte}

theorem State.sendResults_asks (hp : p ∈ c.parts) (hx : x ∈ c.pieces p all (if all && p.op < 4 then c.reduced p else ([], 0)).1)
    (hl : l ∈ splitBytes (linesOf (p.dst + x.1) x.2.1.length) x.2.1) :
    (s.sendResults key c all st).Asks p.flight 0 (.write l.2) p.kind l.1 l.2.length none := by
  have hr : (p, if all && p.op < 4 then c.reduced p else ([], 0)) ∈ c.results all := List.mem_map.mpr ⟨p, hp, rfl⟩
  generalize (if all && p.op < 4 then c.reduced p else ([], 0)) = q at hx hr
  have hone (s t : State) (h : (s.collWrite p (c.pieces p all q.1)).Sends t) : t.Asks p.flight 0 (.write l.2) p.kind l.1 l.2.length none :=
    h.collWrite_asks hx hl
  have hstep (s : State) (r : Part × List Byte × Flags) : s.Sends (s.collWrite r.1 (c.pieces r.1 all r.2.1)) := .collWrite _ _ _
  have hall : ((c.results all).foldl (fun s r => s.collWrite r.1 (c.pieces r.1 all r.2.1)) (s.collEnding key c all st)).Sends
      (s.sendResults key c all st) := .refl _
  exact State.Sends.asks_of_foldl (x := (p, q)) hstep hone hr hall

/-- The results of a complete round are on their way: where there is none the round ends at once. -/
theorem State.collResult_asks (hp : p ∈ c.parts) (hx : x ∈ c.pieces p all (if all && p.op < 4 then c.reduced p else ([], 0)).1)
    (hl : l ∈ splitBytes (linesOf (p.dst + x.1) x.2.1.length) x.2.1) :
    (s.collResult key c all st).Asks p.flight 0 (.write l.2) p.kind l.1 l.2.length none := by
  have hask := State.sendResults_asks (s := s) (key := key) (st := st) hp hx hl
  rw [State.collResult_eq, if_pos (hask.collOpen hp)]
  exact hask

end

end Sys2Proof.Machine

namespace Sys2Proof.Machine

/-! ### The end of a group's round (09 R267, R268) -/

/-- `t` is `s` but for read copies that its cores have dropped. -/
structure State.Acquired (s t : State) : Prop where
  rest : { t with cores := [] } = { s with cores := [] }
  core : ∀ k, { t.coreOf k with copies := [] } = { s.coreOf k with copies := [] }

namespace State.Acquired

variable {s t u : State}

theorem refl (s : State) : s.Acquired s := ⟨rfl, fun _ => rfl⟩

theorem trans (h : s.Acquired t) (g : t.Acquired u) : s.Acquired u := ⟨g.rest.trans h.rest, fun k => (g.core k).trans (h.core k)⟩

theorem field (h : s.Acquired t) {α : Type} (f : State → α) (hf : ∀ s : State, f { s with cores := [] } = f s) : f t = f s := by
  rw [← hf t, ← hf s, h.rest]

theorem ofCore (h : s.Acquired t) {α : Type} (f : Core → α) (hf : ∀ x : Core, f { x with copies := [] } = f x) (k : Nat) :
    f (t.coreOf k) = f (s.coreOf k) := by rw [← hf (t.coreOf k), ← hf (s.coreOf k), h.core]

theorem dropCopies (s : State) (core ctx : Nat) : s.Acquired (s.dropCopies core ctx) := by
  refine ⟨rfl, fun k => ?_⟩
  unfold State.dropCopies
  by_cases hk : k = core
  · rw [hk, State.coreOf_modCore_self]
  · rw [State.coreOf_modCore_ne _ _ hk]

end State.Acquired

/-- Where a core's combine buffer is empty nothing drains. -/
theorem State.drainRange_of_empty {s : State} {core : Nat} (ctx a n : Nat) (h : (s.coreOf core).combine = []) : s.drainRange core ctx a n = s := by
  refine List.foldl_fixed' (fun l => ?_) _
  rw [State.drainLine, h]
  rfl

/-- The release and acquire of participants whose cores' combine buffers are empty. -/
theorem State.Acquired.collOrders {l : List Part} : ∀ {s : State}, (∀ q ∈ l, (s.coreOf (s.jobOf q.job).coreKey).combine = []) →
    s.Acquired (l.foldl State.collOrder s) := by
  induction l with
  | nil => exact fun _ => .refl _
  | cons q l ih =>
    intro s h
    have hq : s.Acquired (s.collOrder q) := by
      rw [State.collOrder, State.drainRange_of_empty _ _ _ (h q List.mem_cons_self)]
      exact .dropCopies _ _ _
    refine hq.trans (ih fun x hx => ?_)
    rw [hq.field (State.jobOf · x.job) fun _ => rfl, hq.ofCore Core.combine fun _ => rfl]
    exact h x (List.mem_cons_of_mem _ hx)

/-- `t` is `s` after completion points and writes of scratchpads. -/
structure State.Ending (s t : State) : Prop where
  rest : { t.aside with cores := [] } = { s.aside with cores := [] }
  jobs : ∀ k, (t.jobOf k).aside = (s.jobOf k).aside
  listed : ∀ k, (t.jobs.find? k).isSome = (s.jobs.find? k).isSome
  flights : ∀ e ∈ t.flights, e ∈ s.flights
  found : ∀ k f, t.flights.find? k = some f → s.flights.find? k = some f

namespace State.Ending

variable {s t u : State}

theorem refl (s : State) : s.Ending s := ⟨rfl, fun _ => rfl, fun _ => rfl, fun _ h => h, fun _ _ h => h⟩

theorem trans (h : s.Ending t) (g : t.Ending u) : s.Ending u :=
  ⟨g.rest.trans h.rest, fun k => (g.jobs k).trans (h.jobs k), fun k => (g.listed k).trans (h.listed k), fun e he => h.flights e (g.flights e he),
    fun k f hf => h.found k f (g.found k f hf)⟩

theorem field (h : s.Ending t) {α : Type} (f : State → α) (hf : ∀ s : State, f { s.aside with cores := [] } = f s) : f t = f s := by
  rw [← hf t, ← hf s, h.rest]

theorem jobField (h : s.Ending t) {α : Type} (f : Job → α) (hf : ∀ j : Job, f j.aside = f j) (k : Nat) : f (t.jobOf k) = f (s.jobOf k) := by
  rw [← hf (t.jobOf k), ← hf (s.jobOf k), h.jobs]

theorem scrWrite (s : State) (j : Job) (a : Nat) (v : List Byte) (bad : Bool) : s.Ending (s.scrWrite j a v bad) :=
  ⟨rfl, fun _ => rfl, fun _ => rfl, fun _ h => h, fun _ _ h => h⟩

theorem finish (s : State) (k : Nat) (fl : Flags) : s.Ending (s.finish k fl) := by
  cases hf : s.flights.find? k with
  | none =>
    rw [State.finish_of_gone fl hf]
    exact refl s
  | some f =>
    have hframe := State.finish_frame fl hf
    have hflights := State.finish_flights fl hf
    refine ⟨congrArg (fun x : State => { x with cores := [] }) hframe.outside, fun n => ?_, fun n => ?_, fun e he => ?_, fun n g hg => ?_⟩
    · by_cases hn : n = f.ref.job
      · rw [hn]; exact hframe.job
      · rw [hframe.others n hn]
    · simp only [State.finish, hf, State.isSome_checkRetire, State.isSome_complete]
    · exact Map.mem_of_mem_erase (hflights ▸ he)
    · rw [hflights] at hg
      by_cases hn : n = k
      · rw [hn, Map.find?_erase_self] at hg
        cases hg
      · rwa [Map.find?_erase_ne _ hn] at hg

theorem collEnd (s : State) (p : Part) (st : Nat) : s.Ending (s.collEnd p st) := (scrWrite _ _ _ _ _).trans (finish _ _ _)

theorem collEnds (l : List Part) (st : Nat) : ∀ s : State, s.Ending (l.foldl (fun t q => t.collEnd q st) s) := by
  induction l with
  | nil => exact refl
  | cons q l ih => exact fun s => (collEnd s q st).trans (ih _)

end State.Ending

/-- Participant `p` has completed in `t`, with its flight `f`, and its STATUS stands in its descriptor. -/
structure State.Ended (s : State) (p : Part) (f : Flight) (st : Nat) (t : State) : Prop where
  completes : s.Completes p.flight f (f.flags ||| p.flags) t
  status : Store.read granule (t.coreOf (s.jobOf p.job).coreKey).scratch ((s.jobOf p.job).scrAddr p.status) 8 = bytesOf 8 st
  wf : Memory.wf (t.coreOf (s.jobOf p.job).coreKey).scratch.cells = true

section
variable {s t : State} {p q : Part} {f : Flight} {st : Nat}

/-- STATUS is written to the participant's descriptor, in the window of its job. -/
theorem State.collEnd_like (he : s.Ending t) (hq : q.Like p) :
    t.collEnd q st = (t.scrWrite (s.jobOf p.job) p.status (bytesOf 8 st) false).finish p.flight p.flags := by
  have hcore : (t.jobOf p.job).coreKey = (s.jobOf p.job).coreKey := he.jobField Job.coreKey (fun _ => rfl) _
  have haddr : (t.jobOf p.job).scrAddr p.status = (s.jobOf p.job).scrAddr p.status := he.jobField (Job.scrAddr · p.status) (fun _ => rfl) _
  rw [State.collEnd, hq.job, hq.status, hq.flight, hq.flags, State.scrWrite, hcore, haddr]
  rfl

theorem State.collEnd_scratch (he : s.Ending t) (hq : q.Like p) :
    ((t.collEnd q st).coreOf (s.jobOf p.job).coreKey).scratch =
      Store.write granule (t.coreOf (s.jobOf p.job).coreKey).scratch ((s.jobOf p.job).scrAddr p.status) (bytesOf 8 st) false := by
  rw [State.collEnd_like he hq, State.coreOf, State.finish_cores]
  exact State.scrWrite_scratch _ _ _ _ _

theorem State.Ended.of_completes (he : s.Ending t) (hq : q.Like p) (hwf : Memory.wf (t.coreOf (s.jobOf p.job).coreKey).scratch.cells = true)
    (hc : s.Completes p.flight f (f.flags ||| p.flags) (t.collEnd q st)) : s.Ended p f st (t.collEnd q st) := by
  refine ⟨hc, ?_, ?_⟩
  · rw [State.collEnd_scratch he hq]
    have h := Store.read_write_self (u := granule) (by decide) hwf ((s.jobOf p.job).scrAddr p.status) (bytesOf 8 st) false
    rwa [length_bytesOf] at h
  · rw [State.collEnd_scratch he hq]
    exact Store.wf_write hwf _ _ _

/-- The participant's own end. -/
theorem State.Ended.of_like (he : s.Ending t) (hq : q.Like p) (hf : t.flights.find? p.flight = some f) (hr : f.ref.job = p.job)
    (hl : (s.jobs.find? p.job).isSome = true) (hlate : (t.jobOf p.job).late = (s.jobOf p.job).late)
    (hwf : Memory.wf (t.coreOf (s.jobOf p.job).coreKey).scratch.cells = true) : s.Ended p f st (t.collEnd q st) := by
  refine .of_completes he hq hwf ?_
  rw [State.collEnd_like he hq]
  exact (State.finish_completes (s := t.scrWrite (s.jobOf p.job) p.status (bytesOf 8 st) false) p.flags hf
    (by rw [hr]; exact (he.listed _).trans hl)).of_late (by rw [hr]; exact hlate)

/-- Once more it changes nothing but STATUS. -/
theorem State.Ended.again (h : s.Ended p f st t) (he : s.Ending t) (hq : q.Like p) : s.Ended p f st (t.collEnd q st) := by
  refine .of_completes he hq h.wf ?_
  rw [State.collEnd_like he hq, State.finish_of_gone (s := t.scrWrite (s.jobOf p.job) p.status (bytesOf 8 st) false) _ h.completes.gone]
  exact h.completes.of_same rfl rfl

/-- A participant on another core, with another command. -/
structure State.Apart (s : State) (q p : Part) : Prop where
  flight : q.flight ≠ p.flight
  core : (s.jobOf q.job).coreKey ≠ (s.jobOf p.job).coreKey
  ref : ∀ g, s.flights.find? q.flight = some g → g.ref.job = q.job

/-- Its end leaves participant `p`. -/
theorem State.collEnd_apart (he : s.Ending t) (hq : s.Apart q p) :
    (t.collEnd q st).flights.find? p.flight = t.flights.find? p.flight ∧ (t.collEnd q st).jobOf p.job = t.jobOf p.job ∧
      (t.collEnd q st).coreOf (s.jobOf p.job).coreKey = t.coreOf (s.jobOf p.job).coreKey := by
  have hjob : p.job ≠ q.job := fun h => hq.core (by rw [h])
  have hcore : (s.jobOf p.job).coreKey ≠ (t.jobOf q.job).coreKey := by
    rw [he.jobField Job.coreKey fun _ => rfl]
    exact hq.core.symm
  have hkeep : ((t.scrWrite (t.jobOf q.job) q.status (bytesOf 8 st) false).coreOf (s.jobOf p.job).coreKey) = t.coreOf (s.jobOf p.job).coreKey :=
    State.coreOf_modCore_ne _ _ hcore
  refine ⟨?_, ?_, ?_⟩
  · rw [State.collEnd]
    cases hf : t.flights.find? q.flight with
    | none => rw [State.finish_of_gone _ (by exact hf)]; rfl
    | some g => rw [State.finish_flights _ (by exact hf), Map.find?_erase_ne _ hq.flight.symm]; rfl
  · rw [State.collEnd]
    cases hf : t.flights.find? q.flight with
    | none => rw [State.finish_of_gone _ (by exact hf)]; rfl
    | some g =>
      have hg : g.ref.job = q.job := hq.ref g (he.found _ _ hf)
      exact (State.finish_frame (s := t.scrWrite (t.jobOf q.job) q.status (bytesOf 8 st) false) q.flags hf).others p.job (by rw [hg]; exact hjob)
  · rw [State.collEnd, State.coreOf, State.finish_cores]
    exact hkeep

theorem State.Ended.apart (h : s.Ended p f st t) (hr : f.ref.job = p.job) (he : s.Ending t) (hq : s.Apart q p) : s.Ended p f st (t.collEnd q st) := by
  obtain ⟨hflight, hjob, hcore⟩ := State.collEnd_apart (st := st) he hq
  obtain ⟨⟨hgone, hsig, hfl⟩, hstatus, hwf⟩ := h
  refine ⟨⟨hflight.trans hgone, ?_, ?_⟩, by rw [hcore]; exact hstatus, by rw [hcore]; exact hwf⟩
  · rw [hr] at hsig ⊢
    rw [hjob]
    exact hsig
  · rw [hr] at hfl ⊢
    rw [hjob]
    exact hfl

/-- A participant that has completed stays so while the others complete. -/
theorem State.Ended.collEnds (hr : f.ref.job = p.job) {l : List Part} (hl : ∀ q ∈ l, q.Like p ∨ s.Apart q p) : ∀ {t : State}, s.Ending t →
    s.Ended p f st t → s.Ended p f st (l.foldl (fun t q => t.collEnd q st) t) := by
  induction l with
  | nil => exact fun _ h => h
  | cons q l ih =>
    intro t he h
    refine ih (fun x hx => hl x (List.mem_cons_of_mem _ hx)) (he.trans (.collEnd t q st)) ?_
    rcases hl q List.mem_cons_self with hq | hq
    · exact h.again he hq
    · exact h.apart hr he hq

/-- Every participant of a list completes, wherever it stands in it. -/
theorem State.Ended.of_mem (hr : f.ref.job = p.job) (hs : (s.jobs.find? p.job).isSome = true) {l : List Part} (hl : ∀ q ∈ l, q.Like p ∨ s.Apart q p)
    (hp : ∃ q ∈ l, q.Like p) : ∀ {t : State}, s.Ending t → t.flights.find? p.flight = some f → (t.jobOf p.job).late = (s.jobOf p.job).late →
    Memory.wf (t.coreOf (s.jobOf p.job).coreKey).scratch.cells = true → s.Ended p f st (l.foldl (fun t q => t.collEnd q st) t) := by
  induction l with
  | nil => simp at hp
  | cons q l ih =>
    intro t he hf hlate hwf
    have hrest : ∀ x ∈ l, x.Like p ∨ s.Apart x p := fun x hx => hl x (List.mem_cons_of_mem _ hx)
    rcases hl q List.mem_cons_self with hq | hq
    · exact State.Ended.collEnds hr hrest (he.trans (.collEnd t q st)) (.of_like he hq hf hr hs hlate hwf)
    · obtain ⟨hflight, hjob, hcore⟩ := State.collEnd_apart (st := st) he hq
      have hp' : ∃ x ∈ l, x.Like p := by
        obtain ⟨x, hx, hxp⟩ := hp
        rcases List.mem_cons.mp hx with rfl | hx
        · exact absurd hxp.flight hq.flight
        · exact ⟨x, hx, hxp⟩
      exact ih hrest hp' (he.trans (.collEnd t q st)) (hflight.trans hf) (by rw [hjob]; exact hlate) (by rw [hcore]; exact hwf)

end

/-! #### The round -/

section
variable {s : State} {key st : Nat} {c : Coll}

/-- The state in which every participant has completed. -/
def State.collEnded (s : State) (c : Coll) (st : Nat) : State := c.parts.foldl (fun t q => t.collEnd q st) (c.parts.foldl State.collOrder s)

theorem State.collFinish_eq (hc : s.collOf key = c) :
    s.collFinish key st = ({ s.collEnded c st with
      colls := (s.collEnded c st).colls.set key { c with inst := c.inst + 1, parts := [], ending := none } } : State).checkFences := by
  subst hc
  rfl

/-- The next round is current, and nobody has joined it. -/
theorem State.collFinish_collOf (hc : s.collOf key = c) : (s.collFinish key st).collOf key = { c with inst := c.inst + 1, parts := [], ending := none } := by
  rw [State.collFinish_eq hc]
  exact (State.checkFences_keeps (State.collOf · key) (fun _ => rfl) (fun _ _ _ => rfl) _).trans (State.collOf_of_colls rfl)

/-- Where the participants' combine buffers are empty no memory changes. -/
theorem State.collFinish_mem (hc : s.collOf key = c) (hb : ∀ q ∈ c.parts, (s.coreOf (s.jobOf q.job).coreKey).combine = []) :
    (s.collFinish key st).mem = s.mem := by
  rw [State.collFinish_eq hc, State.checkFences_mem]
  exact ((State.Ending.collEnds c.parts st _).field State.mem fun _ => rfl).trans ((State.Acquired.collOrders hb).field State.mem fun _ => rfl)

theorem State.checkFences_of_none (h : ∀ e ∈ s.flights, ∀ b x n, e.2.work ≠ .fence b x n) : s.checkFences = s := by
  rw [State.checkFences_eq]
  generalize s.flights = l at h
  induction l with
  | nil => rfl
  | cons e l ih =>
    rw [List.foldl_cons, State.checkFence_other (h e List.mem_cons_self)]
    exact ih fun x hx => h x (List.mem_cons_of_mem _ hx)

/-- Its participants have completed. -/
theorem State.collFinish_ended (hc : s.collOf key = c) (hb : ∀ q ∈ c.parts, (s.coreOf (s.jobOf q.job).coreKey).combine = [])
    (hn : ∀ e ∈ s.flights, ∀ b x n, e.2.work ≠ .fence b x n) {p : Part} {f : Flight} (hf : s.flights.find? p.flight = some f) (hr : f.ref.job = p.job)
    (hs : (s.jobs.find? p.job).isSome = true) (hwf : Memory.wf (s.coreOf (s.jobOf p.job).coreKey).scratch.cells = true)
    (hl : ∀ q ∈ c.parts, q.Like p ∨ s.Apart q p) (hp : ∃ q ∈ c.parts, q.Like p) : s.Ended p f st (s.collFinish key st) := by
  have ha := State.Acquired.collOrders hb
  have hends := State.Ending.collEnds c.parts st (c.parts.foldl State.collOrder s)
  rw [State.collFinish_eq hc, State.checkFences_of_none]
  · have hjobs : (c.parts.foldl State.collOrder s).jobs = s.jobs := ha.field State.jobs fun _ => rfl
    have hflights : (c.parts.foldl State.collOrder s).flights = s.flights := ha.field State.flights fun _ => rfl
    have hjob (k : Nat) : (c.parts.foldl State.collOrder s).jobOf k = s.jobOf k := ha.field (State.jobOf · k) fun _ => rfl
    have hscr : ((c.parts.foldl State.collOrder s).coreOf (s.jobOf p.job).coreKey).scratch = (s.coreOf (s.jobOf p.job).coreKey).scratch :=
      ha.ofCore Core.scratch (fun _ => rfl) _
    obtain ⟨hdone, hstatus, hcells⟩ := State.Ended.of_mem (s := c.parts.foldl State.collOrder s) (st := st) hr (by rw [hjobs]; exact hs)
      (fun q hq => (hl q hq).imp_right fun h => ⟨h.flight, by rw [hjob, hjob]; exact h.core, by rw [hflights]; exact h.ref⟩) hp (.refl _)
      (by rw [hflights]; exact hf) rfl (by rw [hjob, hscr]; exact hwf)
    rw [hjob] at hstatus hcells
    exact ⟨(hdone.of_start hjobs).of_same rfl rfl, hstatus, hcells⟩
  · intro e he
    exact hn e (ha.field State.flights (fun _ => rfl) ▸ hends.flights e he)

/-- Participants that agree have one OP. -/
theorem Coll.op_of_agree {p : Part} {r : List Part} (hp : c.parts = p :: r) (ha : c.agree = true) {q : Part} (hq : q ∈ c.parts) : q.op = p.op := by
  rw [Coll.agree, hp] at ha
  rcases List.mem_cons.mp (hp ▸ hq) with rfl | hq
  · rfl
  · have h := List.all_eq_true.mp ha q hq
    simp only [Bool.and_eq_true, decide_eq_true_eq] at h
    exact h.1

/-- Of a reduction that is not complete nobody receives anything. -/
theorem Coll.pieces_short {p : Part} (h4 : p.op < 4) : c.pieces p false [] = [] := by
  rw [Coll.pieces, if_neg (by omega), if_neg (by omega)]
  rfl

theorem State.foldl_collWrite_nil (l : List Part) (s : State) : (l.map (fun p => (p, ([] : List (Nat × List Byte × Bool))))).foldl
    (fun s r => s.collWrite r.1 r.2) s = s := by
  induction l with
  | nil => rfl
  | cons p l ih => exact ih

/-- Past its earliest deadline a reduction ends with nothing written. -/
theorem State.collShort_reduction (hc : s.collOf key = c) {p : Part} {r : List Part} (hp : c.parts = p :: r) (ha : c.agree = true) (h4 : p.op < 4)
    (ho : s.collOpen c = false) :
    ∃ st, s.collShort key = ({ s with colls := s.colls.set key { c with ending := some st } } : State).collFinish key st := by
  have hnil : c.parts.map (fun p => (p, (s.collGiven key).pieces p false [])) = c.parts.map (fun p => (p, [])) := by
    refine List.map_congr_left fun q hq => ?_
    rw [Coll.pieces_short (by rw [Coll.op_of_agree hp ha hq]; exact h4)]
  refine ⟨collStatus ((s.collGiven key).missing.headD 0xFFFF) (s.collGiven key).missing.length 2, ?_⟩
  have hopen : ({ s with colls := s.colls.set key { c with ending := some (collStatus ((s.collGiven key).missing.headD 0xFFFF)
      (s.collGiven key).missing.length 2) } } : State).collOpen c = false := ho
  unfold State.collShort
  dsimp only
  rw [hc]
  split
  next h => exact absurd (hp.symm.trans h) (List.cons_ne_nil _ _)
  next p' r' h =>
    obtain ⟨rfl, -⟩ := List.cons.inj (hp.symm.trans h)
    rw [hnil, State.foldl_collWrite_nil, ha, if_neg (by decide), if_neg (by omega), if_neg (by rw [hopen]; decide)]

end

/-- Settles O32: a complete round sends its results (`State.collTry_complete`), one that is not open ends (`State.collFinish_ended`), a short reduction
has none (`State.collShort_reduction`), and a sum is taken modulo 2^32 (`collReduce_int`). -/
theorem collectiveEvents : Obligations.CollectiveEvents := by
  unfold Obligations.CollectiveEvents
  refine ⟨?complete, ?ends, ?short, ?sum⟩
  case complete =>
    intro s key hk c hne hend ha hp hr
    refine ⟨s.collTry key, by rw [← hk]; rfl, fun p h x hx l hl => ?_⟩
    rw [State.collTry_complete rfl hne hend ha hp hr]
    refine State.collResult_asks h ?_ hl
    have hop : (if (true && decide (p.op < 4)) = true then c.reduced p else ([], 0)).1 = if p.op < 4 then (c.reduced p).1 else [] := by
      by_cases h4 : p.op < 4
      · simp only [h4, decide_true, Bool.and_self, if_true]
      · simp only [h4, decide_false, Bool.and_false, Bool.false_eq_true, if_false]
    rw [hop]
    exact hx
  case ends =>
    intro s key st p f hk c j hend ho hp hf hr hs hwf hothers hq hn
    have hcu := s.collOf_collLoad key
    have hlike : ∀ q ∈ (c.parts.map s.loadPart), q.Like p ∨ (s.collLoad key).Apart q p := by
      intro x hx
      obtain ⟨q, hq', rfl⟩ := List.mem_map.mp hx
      have hload := s.loadPart_like q
      rcases hothers q hq' with rfl | ⟨hflight, hcore⟩
      · exact .inl hload
      · exact .inr ⟨by rw [hload.flight]; exact hflight, by rw [hload.job]; exact hcore, by rw [hload.flight, hload.job]; exact (hq q hq').2⟩
    have hempty : ∀ q ∈ (c.parts.map s.loadPart), ((s.collLoad key).coreOf ((s.collLoad key).jobOf q.job).coreKey).combine = [] := by
      intro x hx
      obtain ⟨q, hq', rfl⟩ := List.mem_map.mp hx
      rw [(s.loadPart_like q).job]
      exact (hq q hq').1
    obtain ⟨hdone, hstatus, -⟩ := State.collFinish_ended (st := st) hcu hempty hn hf hr hs hwf hlike ⟨_, List.mem_map_of_mem hp, s.loadPart_like p⟩
    refine ⟨s.collTry key, by rw [← hk]; rfl, ?_⟩
    rw [State.collTry_ends rfl hend ho, State.collFinish_collOf hcu]
    exact ⟨rfl, rfl, rfl, hdone.of_start rfl, hstatus⟩
  case short =>
    intro s key p r n hk c hp hend hm hd hlt ha h4 ho hb
    obtain ⟨st, hst⟩ := State.collShort_reduction rfl hp ha h4 ho
    have hcu : ({ s with colls := s.colls.set key { c with ending := some st } } : State).collOf key = { c with ending := some st } :=
      State.collOf_of_colls rfl
    refine ⟨s.collShort key, ?_, ?_⟩
    · have hgo : (c.ending.isSome || (s.collGiven key).missing.isEmpty) = false := by
        rw [hend, List.isEmpty_eq_false_iff.mpr hm]
        rfl
      rw [show exec .collectiveDeadline s = execCollectiveDeadline s from rfl, execCollectiveDeadline, hk]
      simp only [c] at hd hgo
      simp only [hd, hgo, Bool.false_eq_true, if_false, hlt, if_true]
    · rw [hst, State.collFinish_collOf hcu]
      exact ⟨rfl, rfl, State.collFinish_mem hcu hb⟩
  case sum =>
    intro m xs hne _
    have h := congrArg Int.toNat (collReduce_int m hne)
    rwa [← Int.natCast_mod, Int.toNat_natCast] at h

end Sys2Proof.Machine

namespace Sys2Proof.Machine

/-! ### Fields of a generator (10 R280 to R283) -/

section
variable {s : State} {g : GenWord} {lo n v : Nat}

theorem setField_getLsbD (hn : lo + n ≤ 128) {i : Nat} (hi : i < 128) :
    (setField g lo n v).getLsbD i = if lo ≤ i ∧ i < lo + n then v.testBit (i - lo) else g.getLsbD i := by
  simp only [setField, BitVec.getLsbD_or, BitVec.getLsbD_and, BitVec.getLsbD_not, BitVec.getLsbD_shiftLeft, BitVec.getLsbD_ofNat,
    Nat.testBit_two_pow_sub_one, Nat.testBit_mod_two_pow, hi, decide_true, Bool.true_and]
  split
  next h =>
    have h1 : ¬i < lo := by omega
    have h2 : i - lo < 128 := by omega
    have h3 : i - lo < n := by omega
    simp [h1, h2, h3]
  next h =>
    by_cases h1 : i < lo
    · simp [h1]
    · have h3 : ¬i - lo < n := by omega
      simp [h3]

/-- The field set holds the low bits of its value. -/
theorem extractLsb'_setField_same (hn : lo + n ≤ 128) : (setField g lo n v).extractLsb' lo n = BitVec.ofNat n v := by
  ext i hi
  rw [← BitVec.getLsbD_eq_getElem, ← BitVec.getLsbD_eq_getElem, BitVec.getLsbD_extractLsb', setField_getLsbD hn (by omega),
    if_pos (by omega), BitVec.getLsbD_ofNat, Nat.add_sub_cancel_left]

/-- A field apart from the one set keeps its value. -/
theorem extractLsb'_setField_of_disjoint (hn : lo + n ≤ 128) {lo' n' : Nat} (hn' : lo' + n' ≤ 128) (h : lo' + n' ≤ lo ∨ lo + n ≤ lo') :
    (setField g lo n v).extractLsb' lo' n' = g.extractLsb' lo' n' := by
  ext i hi
  rw [← BitVec.getLsbD_eq_getElem, ← BitVec.getLsbD_eq_getElem, BitVec.getLsbD_extractLsb', BitVec.getLsbD_extractLsb',
    setField_getLsbD hn (by omega), if_neg (by omega)]

/-- A generator instruction whose operand is in range completes with its generator. -/
theorem genSet_done {opc : Nat} {f : State → GenWord → Option GenWord} {o : OpG} (h : s.Issues o.c [.g o.g, .s o.a])
    (hf : f s (s.gget o.g) = some g) : ∃ t, genSet opc f o s = .next t ∧ s.Done (s.gput o.g g) o.c 0 t :=
  command_done (u := useG opc o) h rfl (by simp only [hf]) (by simp) (by simpa using h.listed)

/-- A field of `n` bits takes a value below 2^n, and the other bits stay. -/
theorem genSet_field {opc : Nat} {f : State → Nat} {o : OpG} (h : s.Issues o.c [.g o.g, .s o.a]) (hn : lo + n ≤ 128) (hv : f s < 2 ^ n) :
    ∃ g t, genSet opc (fun s => genField lo n (f s)) o s = .next t ∧ s.Done (s.gput o.g g) o.c 0 t ∧
      (g.toNat / 2 ^ lo) % 2 ^ n = f s ∧ ∀ i, i < 128 → (i < lo ∨ lo + n ≤ i) → g.getLsbD i = (s.gget o.g).getLsbD i := by
  obtain ⟨t, ht, hd⟩ := genSet_done (opc := opc) (f := fun s => genField lo n (f s)) (g := setField (s.gget o.g) lo n (f s)) h
    (if_neg (Nat.not_le.mpr hv))
  refine ⟨_, t, ht, hd, ?_, fun i hi hout => by rw [setField_getLsbD hn hi, if_neg (by omega)]⟩
  have hx := congrArg BitVec.toNat (extractLsb'_setField_same (g := s.gget o.g) (v := f s) hn)
  rwa [BitVec.extractLsb'_toNat, Nat.shiftRight_eq_div_pow, BitVec.toNat_ofNat, Nat.mod_eq_of_lt hv] at hx

/-- A signed value of 24 bits is the stride that it sets. -/
theorem genRstr_setField {w : Word} (h1 : -(2 ^ 23) ≤ w.toInt) (h2 : w.toInt < 2 ^ 23) : genRstr (setField g 32 24 w.toNat) = w.toInt := by
  rw [genRstr, extractLsb'_setField_same (by decide), BitVec.ofNat_toNat, BitVec.toInt_setWidth, Int.bmod]
  rw [BitVec.toInt_eq_toNat_cond] at h1 h2 ⊢
  have := w.isLt
  split at h1 <;> split <;> omega

theorem genStride_eq {w : Word} (h1 : -(2 ^ 23) ≤ w.toInt) (h2 : w.toInt < 2 ^ 23) : genStride w g = some (setField g 32 24 w.toNat) := by
  simp only [genStride, not_lt.mpr h1, not_le.mpr h2, decide_false, Bool.or_self, Bool.false_eq_true, if_false]

theorem gstride_done {o : OpG} (h : s.Issues o.c [.g o.g, .s o.a]) (h1 : -(2 ^ 23) ≤ (s.sget o.a + o.imm).toInt)
    (h2 : (s.sget o.a + o.imm).toInt < 2 ^ 23) :
    ∃ g t, exec (.gstride o) s = .next t ∧ s.Done (s.gput o.g g) o.c 0 t ∧ genRstr g = (s.sget o.a + o.imm).toInt ∧
      ∀ i, i < 128 → (i < 32 ∨ 56 ≤ i) → g.getLsbD i = (s.gget o.g).getLsbD i := by
  obtain ⟨t, ht, hd⟩ := genSet_done (opc := 0x0F3) (f := fun s => genStride (s.sget o.a + o.imm)) h (genStride_eq h1 h2)
  exact ⟨_, t, ht, hd, genRstr_setField h1 h2, fun i hi hout => by rw [setField_getLsbD (by decide) hi, if_neg (by omega)]⟩

/-- A format word in range sets FMT, GEOM and SSTR. -/
theorem genFormat_eq {w : Word} (h32 : w.toNat < 2 ^ 32) (hf : w.toNat % 16 ≤ 9) (hg : w.toNat / 16 % 8 ≤ 5) (hz : w.toNat / 128 % 512 = 0)
    (hs : w.toNat / 65536 % 2 = 0) : genFormat w g =
      some (setField (setField (setField g 100 4 w.toNat) 104 3 (natBits w.toNat 4 3)) 112 16 (natBits w.toNat 16 16)) := by
  rw [genFormat]
  generalize w.toNat = v at *
  have hbad : (2 ^ 32 ≤ v || natBits v 7 9 ≠ 0 || 9 < natBits v 0 4 || 5 < natBits v 4 3 || natBits v 16 1 = 1) = false := by
    simp only [Bool.or_eq_false_iff, decide_eq_false_iff_not]
    unfold natBits
    omega
  simp only [hbad, Bool.false_eq_true, if_false]

theorem gfmt_done {o : OpG} (h : s.Issues o.c [.g o.g, .s o.a]) :
    let v := (s.sget o.a ||| o.imm).toNat
    v < 2 ^ 32 → v % 16 ≤ 9 → v / 16 % 8 ≤ 5 → v / 128 % 512 = 0 → v / 65536 % 2 = 0 →
    ∃ g t, exec (.gfmt o) s = .next t ∧ s.Done (s.gput o.g g) o.c 0 t ∧ genFmt g = v % 16 ∧ genGeom g = v / 16 % 8 ∧ genSstr g = v / 65536 ∧
      ∀ i, i < 100 → g.getLsbD i = (s.gget o.g).getLsbD i := by
  intro v h32 hf hg hz hs
  obtain ⟨t, ht, hd⟩ := genSet_done (opc := 0x0F4) (f := fun s => genFormat (s.sget o.a ||| o.imm)) h (genFormat_eq h32 hf hg hz hs)
  refine ⟨_, t, ht, hd, ?fmt, ?geom, ?sstr, fun i hi => ?_⟩
  case fmt =>
    rw [genFmt, extractLsb'_setField_of_disjoint (by decide) (by decide) (by decide),
      extractLsb'_setField_of_disjoint (by decide) (by decide) (by decide), extractLsb'_setField_same (by decide)]
    rfl
  case geom =>
    rw [genGeom, extractLsb'_setField_of_disjoint (by decide) (by decide) (by decide), extractLsb'_setField_same (by decide),
      BitVec.toNat_ofNat, natBits, Nat.mod_mod]
    rfl
  case sstr =>
    rw [genSstr, extractLsb'_setField_same (by decide), BitVec.toNat_ofNat, natBits, Nat.mod_mod]
    omega
  · rw [setField_getLsbD (by decide) (by omega), if_neg (by omega), setField_getLsbD (by decide) (by omega), if_neg (by omega),
      setField_getLsbD (by decide) (by omega), if_neg (by omega)]

/-! #### Values read from scratchpad (10 R283) -/

/-- The bits that 10 R280 reserves. -/
theorem genReserved_getLsbD : ∀ i < 128, genReserved.getLsbD i =
    decide ((24 ≤ i ∧ i < 32) ∨ (56 ≤ i ∧ i < 64) ∨ (96 ≤ i ∧ i < 100) ∨ (107 ≤ i ∧ i < 112)) := by decide

/-- A generator whose reserved bits are 0 has none of them. -/
theorem and_genReserved_eq_zero
    (h : ∀ i, i < 128 → (24 ≤ i ∧ i < 32) ∨ (56 ≤ i ∧ i < 64) ∨ (96 ≤ i ∧ i < 100) ∨ (107 ≤ i ∧ i < 112) → g.getLsbD i = false) :
    g &&& genReserved = 0 := by
  refine BitVec.eq_of_getLsbD_eq fun i hi => ?_
  rw [BitVec.getLsbD_and, genReserved_getLsbD i hi, BitVec.ofNat_eq_ofNat, BitVec.getLsbD_zero, Bool.and_eq_false_iff, decide_eq_false_iff_not]
  exact or_iff_not_imp_right.mpr fun hr => h i hi (not_not.mp hr)

/-- 16 bytes that no poison marks are taken as a generator, or refused for a reserved bit or a field out of range. -/
theorem loadGen_made (d : GReg) {v : View} {a : Nat} (hv : v.foul a 16 = false) : (DataOp.loadGen d a).made v =
    if genOk (BitVec.ofNat 128 (natOf (v.bytes a 16))) then .ok ⟨[], [.g d (BitVec.ofNat 128 (natOf (v.bytes a 16)))], 0⟩ else .error 31 := by
  simp only [DataOp.made, hv, Bool.false_eq_true, if_false]

end

/-- Settles O21: a field set by the bits that `setField` changes; the two scratch accesses work for their latency. -/
theorem generators : Obligations.Generators := by
  unfold Obligations.Generators
  simp only [List.forall_mem_cons, List.not_mem_nil, false_implies, implies_true, and_true]
  refine ⟨⟨?base, ?count, ?row⟩, ?stride, ?fmt, ?mov, ?scratch, ?made⟩
  case base => exact fun o s h hv => genSet_field (opc := 0x0F1) (f := fun s => (s.sget o.a + o.imm).toNat) h (by decide) hv
  case count => exact fun o s h hv => genSet_field (opc := 0x0F2) (f := fun s => (s.sget o.a + o.imm).toNat) h (by decide) hv
  case row => exact fun o s h hv => genSet_field (opc := 0x0F2) (f := fun s => (s.sget o.a + o.imm).toNat) h (by decide) hv
  case stride => exact fun o s h h1 h2 => gstride_done h h1 h2
  case fmt => exact fun o s h => gfmt_done h
  case mov =>
    exact fun o s h => command_done (u := { opc := 0x0F0, regs := [.g o.g, .g o.a] }) h rfl rfl (by simp) (by simpa using h.listed)
  case scratch =>
    exact fun o s a h ha => ⟨command_data (u := { useG 0x0F0 o with dst := [.g o.g] }) h (by rw [ha]; rfl) rfl rfl rfl,
      command_data (u := useG 0x0F0 o) h (by rw [ha]; rfl) rfl rfl rfl⟩
  case made =>
    intro d a v hv
    rw [loadGen_made d hv]
    generalize BitVec.ofNat 128 (natOf (v.bytes a 16)) = g
    refine ⟨fun hr hf hg hs => if_pos ?_, fun hbad => if_neg ?_⟩
    · simp only [genOk, and_genReserved_eq_zero hr, hf, hg, hs, decide_true, Bool.and_self]
    · simp only [genOk, Bool.and_eq_true, decide_eq_true_eq]
      omega

end Sys2Proof.Machine

namespace Sys2Proof.Machine

/-! ### Vector commands (10 R285 to R287) -/

section
variable {s : State}

/-- A command that joins the line of a vector unit changes that line, and may schedule the unit's next cycle. -/
theorem State.joinVector_eq (s : State) (core : Nat) (q : VecReq) : ∃ l, s.joinVector core q =
    { s.modCore core (fun x => { x with vec := { x.vec with reqs := x.vec.reqs ++ [q] } }) with agenda := s.agenda ++ l } := by
  unfold State.joinVector
  dsimp only
  split
  · exact ⟨_, rfl⟩
  · exact ⟨[], by rw [List.append_nil]; rfl⟩

/-- A command that joins the vector unit's line is in flight once it has issued. -/
theorem State.dataOut_inLine (s : State) (c : Ctl) (u : Use) (op : DataOp) (n : Nat) :
    s.Works (s.inLine n) c u.dst op none (s.dataOut c u op (.vector n) [] none) := by
  obtain ⟨l, hl⟩ := ((s.fly c u op.fresh u.dst [] none).effectLater s.nextId).joinVector_eq s.job.coreKey ⟨some s.nextId, s.job.cc, n, s.job.spec.isSome⟩
  have ht : s.dataOut c u op (.vector n) [] none =
      (((s.fly c u op.fresh u.dst [] none).effectLater s.nextId).joinVector s.job.coreKey ⟨some s.nextId, s.job.cc, n, s.job.spec.isSome⟩).onward u none := rfl
  rw [hl] at ht
  rw [ht]
  generalize hj : ({ ((s.fly c u op.fresh u.dst [] none).effectLater s.nextId).modCore s.job.coreKey _ with agenda := _ } : State) = j
  have hcur : j.cur = s.cur := by rw [← hj]; rfl
  have hf : j.flights = s.flights.set s.nextId ⟨s.cur, s.st.visit, c.sig, u.dst, [], none, 0, s.st.cmdStart, u.opc, s.st.num, op.fresh⟩ := by rw [← hj]; rfl
  have hx : State.Frame s.cur (s.inLine n) j := .of_jobs (by rw [← hj]; rfl) (by rw [← hj]; rfl)
  have hk : j.jobOf s.cur.job = (s.inLine n).jobOf s.cur.job := by rw [← hj]; rfl
  have g := State.Moved.onward j u none
  rw [hcur] at g
  refine ⟨hx.trans g.frame, g.signal.trans (by rw [hk]), g.flags.trans (by rw [hk]), ?flight, ?others, ?again⟩
  case flight =>
    rw [g.flights, hf]
    exact ⟨_, Map.find?_set_self _ _ _, rfl, rfl, rfl, rfl, rfl, rfl⟩
  case others =>
    intro k hk
    rw [g.flights, hf, Map.find?_set_ne _ _ hk]
    rfl
  case again =>
    refine ⟨s.now + Config.delay s.ticket, Nat.le_add_right _ _, State.mem_agenda_onward ?_⟩
    rw [← hj]
    exact List.mem_append_left _ (List.mem_append_right _ (List.mem_singleton_self _))

variable {f : VecForm} {out : Option SReg}

/-- One that writes no element completes at issue. -/
theorem vecBody_empty (h : ∀ d ∈ f.dests.map s.gget, genCount d = 0) : vecBody f out s = .done s 0 :=
  if_pos (List.all_eq_true.mpr fun d hd => decide_eq_true (h d hd))

/-- One that writes an element and passes its checks works at the vector unit. -/
theorem vecBody_works (h : ∃ d ∈ f.dests.map s.gget, genCount d ≠ 0) (hc : s.vecEnv.check f.kind (f.dests.map s.gget) (f.srcs.map s.vin) = none) :
    vecBody f out s = .data s (.vec f.kind (f.dests.map s.gget) (f.srcs.map s.vin) (s.job.scrAddr 0) (s.job.scrSize * 65536) s.job.fmode out)
      (.vector (vecSteps f.kind (f.dests.map s.gget) (f.srcs.map s.vin))) [] none := by
  obtain ⟨d, hd, hn⟩ := h
  have he : vecEmpty (f.dests.map s.gget) = false := List.all_eq_false.mpr ⟨d, hd, by simpa using hn⟩
  simp only [vecBody, he, hc, Bool.false_eq_true, if_false]
  rfl

/-- An instruction whose meaning is the body of a vector form runs as the form says. -/
theorem vecRuns_of_exec {i : Instr} {c : Ctl} (opc : Nat) (two : Bool) (hi : ∀ s, exec i s = command c (f.use opc two out) (vecBody f out) s) :
    VecRuns i c f out := by
  intro s h
  refine ⟨fun hz => ?_, fun hnz hc => ?_⟩
  · rw [hi]
    exact command_done (u := f.use opc two out) h rfl (vecBody_empty hz) rfl h.listed
  · refine ⟨_, (hi s).trans (command_next (u := f.use opc two out) h), ?_⟩
    rw [vecBody_works hnz hc]
    exact s.dataOut_inLine c (f.use opc two out) _ _

/-- The last step of a command at the vector unit: it leaves the line, and its completion point comes 5 cycles later. -/
theorem State.vecCycle_last {core k : Nat} {q : VecReq} (hp : (s.coreOf core).vec.pick = some q) (hf : q.flight = some k) (hn : q.steps ≤ 1) :
    ⟨s.now + 5, .finish k⟩ ∈ (s.vecCycle core).agenda ∧ ((s.vecCycle core).coreOf core).vec = ⟨(s.coreOf core).vec.reqs.erase q, q.cc⟩ := by
  have hv : ((s.modCore core (fun x => { x with vec := x.vec.step q })).coreOf core).vec = ⟨(s.coreOf core).vec.reqs.erase q, q.cc⟩ := by
    rw [State.coreOf_modCore_self, VecUnit.step, if_pos hn]
  simp only [State.vecCycle, hp, hf, hn, if_true]
  split
  · exact ⟨List.mem_append_right _ (List.mem_singleton_self _), hv⟩
  · exact ⟨List.mem_append_left _ (List.mem_append_right _ (List.mem_singleton_self _)), hv⟩

end

/-- Settles O22: each command by its form; the last clause is `State.vecCycle_last`. -/
theorem vectorCommands : Obligations.VectorCommands := by
  unfold Obligations.VectorCommands
  simp only [List.forall_mem_cons, List.not_mem_nil, false_implies, implies_true, and_true]
  refine ⟨?one, ?two, ?three, ?cmp, ?sel, ?fill, ?chain, ?red, ?topk, ?zip, ?unzip, ?g2, ?g3, ?compact, ?last⟩
  case one =>
    exact fun o => ⟨vecRuns_of_exec 0x106 false fun _ => rfl, vecRuns_of_exec 0x107 false fun _ => rfl, vecRuns_of_exec 0x108 false fun _ => rfl,
      vecRuns_of_exec 0x109 false fun _ => rfl, vecRuns_of_exec 0x10A false fun _ => rfl, vecRuns_of_exec 0x10B false fun _ => rfl,
      vecRuns_of_exec 0x10C false fun _ => rfl, vecRuns_of_exec 0x10D false fun _ => rfl, vecRuns_of_exec 0x10E false fun _ => rfl,
      vecRuns_of_exec 0x10F false fun _ => rfl, vecRuns_of_exec 0x110 false fun _ => rfl, vecRuns_of_exec 0x119 false fun _ => rfl⟩
  case two =>
    exact fun o => ⟨vecRuns_of_exec 0x100 false fun _ => rfl, vecRuns_of_exec 0x101 false fun _ => rfl, vecRuns_of_exec 0x102 false fun _ => rfl,
      vecRuns_of_exec 0x104 false fun _ => rfl, vecRuns_of_exec 0x105 false fun _ => rfl, vecRuns_of_exec 0x113 false fun _ => rfl,
      vecRuns_of_exec 0x114 false fun _ => rfl, vecRuns_of_exec 0x115 false fun _ => rfl, vecRuns_of_exec 0x116 false fun _ => rfl,
      vecRuns_of_exec 0x117 false fun _ => rfl, vecRuns_of_exec 0x117 false fun _ => rfl⟩
  case three => exact fun o => ⟨vecRuns_of_exec 0x103 false fun _ => rfl, vecRuns_of_exec 0x118 false fun _ => rfl⟩
  case cmp => exact fun o => vecRuns_of_exec 0x111 false fun _ => rfl
  case sel => exact fun o => vecRuns_of_exec 0x112 false fun _ => rfl
  case fill => exact fun o => vecRuns_of_exec 0x11A false fun _ => rfl
  case chain => exact fun o => vecRuns_of_exec 0x140 true fun _ => rfl
  case red =>
    exact fun o => ⟨vecRuns_of_exec 0x148 false fun _ => rfl, vecRuns_of_exec 0x149 false fun _ => rfl, vecRuns_of_exec 0x14A false fun _ => rfl,
      vecRuns_of_exec 0x14B false fun _ => rfl, vecRuns_of_exec 0x14C false fun _ => rfl, vecRuns_of_exec 0x14E false fun _ => rfl⟩
  case topk => exact fun o => vecRuns_of_exec 0x14D false fun _ => rfl
  case zip => exact fun o => vecRuns_of_exec 0x150 false fun _ => rfl
  case unzip => exact fun o => vecRuns_of_exec 0x151 false fun _ => rfl
  case g2 => exact fun o => ⟨vecRuns_of_exec 0x153 false fun _ => rfl, vecRuns_of_exec 0x154 false fun _ => rfl⟩
  case g3 => exact fun o => ⟨vecRuns_of_exec 0x152 false fun _ => rfl, vecRuns_of_exec 0x156 false fun _ => rfl⟩
  case compact => exact fun o => vecRuns_of_exec 0x155 false fun _ => rfl
  case last =>
    intro s core q k hp hf hn
    obtain ⟨hdue, hvec⟩ := State.vecCycle_last hp hf hn
    exact ⟨hdue, by rw [hvec], by rw [hvec]⟩

end Sys2Proof.Machine

namespace Sys2Proof.Machine

/-! ### What a vector command computes (10 R290 to R301) -/

/-! #### Codes and the bytes that they write -/

section
variable {e : VecEnv} {k : VecKind} {d : GenWord} {xs : List VIn} {r : VecOut}

/-- A command with an element to write that runs has passed its checks, and answers what it makes of its sources. -/
theorem VecEnv.make_of_run (h : e.run k [d] xs = .ok r) (hd : genCount d ≠ 0) : e.make k [d] xs = .ok r := by
  have he : vecEmpty [d] = false := by simp [vecEmpty, hd]
  simp only [VecEnv.run, he, Bool.false_eq_true, if_false] at h
  split at h
  · cases h
  · exact h

/-- What a command of one destination answers. -/
theorem VecEnv.eq_of_make {l : Codes} (h : e.make k [d] xs = .ok r) (hl : e.codes k [d] xs = [l]) :
    r.writes = codeWrites d (e.spoiled k [d] (VIn.gens xs) 0) l ∧ r.count = e.countOf k (VIn.gens xs) := by
  rw [VecEnv.make] at h
  dsimp only at h
  split at h
  · cases h
  · cases h
    rw [hl]
    exact ⟨List.append_nil _, rfl⟩

theorem zipIdx_map_range {α : Type} (n : Nat) (f : Nat → α) : ((List.range n).map f).zipIdx = (List.range n).map (fun i => (f i, i)) :=
  List.ext_getElem (by simp) fun i _ _ => by simp

/-- A code for each element of a destination that is no mask is written where its walk puts it. -/
theorem codeWrites_range (h : genFmt d ≠ fmtMask) (bad : Nat → Bool) (n : Nat) (c : Nat → Nat × Flags) :
    (codeWrites d bad ((List.range n).map (fun j => some (c j)))).map (fun w => (w.1, w.2.1)) =
      (List.range n).map (fun j => (genAt d j, bytesOf (genBytes d) (c j).1)) := by
  rw [codeWrites, if_neg h, zipIdx_map_range, List.filterMap_map, List.map_filterMap]
  exact congrFun List.filterMap_eq_map' _

/-- A command whose codes are given element by element writes each to its place. -/
theorem VecEnv.run_writes {c : Nat → Nat × Flags} (h : e.run k [d] xs = .ok r) (hd : genCount d ≠ 0) (hf : genFmt d ≠ 9)
    (hl : e.codes k [d] xs = [(List.range (genCount d)).map (fun j => some (c j))]) :
    r.writes.map (fun w => (w.1, w.2.1)) = (List.range (genCount d)).map (fun j => (genAt d j, bytesOf (genBytes d) (c j).1)) := by
  rw [(VecEnv.eq_of_make (VecEnv.make_of_run h hd) hl).1]
  exact codeWrites_range hf _ _ _

theorem VIn.gens_map_gen (gs : List GenWord) : VIn.gens (gs.map .gen) = gs := by
  rw [VIn.gens, List.filterMap_map]
  exact List.filterMap_some

end

/-! #### Sums of integers (04 R142) -/

theorem Num.fin_eq_ofInt {n : Bool} {m : Nat} {i : Int} (hn : n = decide (i < 0)) (hm : m = i.natAbs) : Num.fin n m 0 = .ofInt i := by
  rw [hn, hm, Num.ofInt]

theorem Num.add_ofInt (a b : Int) : Num.add (.ofInt a) (.ofInt b) = (.ofInt (a + b), 0) := by
  have h : Num.add (.ofInt a) (.ofInt b) = (addFin (decide (a < 0)) a.natAbs 0 (decide (b < 0)) b.natAbs 0, 0) := rfl
  rw [h, addFin, min_self]
  simp only [alignTo_self, decide_eq_decide]
  split
  next hs => exact congrArg (·, 0) (Num.fin_eq_ofInt (by simp only [decide_eq_decide]; omega) (by omega))
  next hs =>
    split
    next he => exact congrArg (·, 0) (Num.fin_eq_ofInt (by simp only [false_eq_decide_iff]; omega) (by omega))
    next he =>
      split
      · exact congrArg (·, 0) (Num.fin_eq_ofInt (by simp only [decide_eq_decide]; omega) (by omega))
      · exact congrArg (·, 0) (Num.fin_eq_ofInt (by simp only [decide_eq_decide]; omega) (by omega))

theorem foldl_add_ofInt (l : List Int) : ∀ a : Int, (l.map Num.ofInt).foldl (fun a x => (Num.add a x).1) (.ofInt a) = .ofInt (a + l.sum) := by
  induction l with
  | nil => exact fun a => by rw [List.sum_nil, Int.add_zero]; rfl
  | cons x l ih => exact fun a => by rw [List.map_cons, List.foldl_cons, Num.add_ofInt, ih, List.sum_cons, Int.add_assoc]

/-- The sum of a walk of integers is exact. -/
theorem RedOp.sum_results {l : List Int} (h : l ≠ []) : RedOp.sum.results 8 (l.map Num.ofInt) = [(.ofInt l.sum, 0)] := by
  obtain ⟨x, l, rfl⟩ := List.exists_cons_of_ne_nil h
  rw [List.sum_cons, ← foldl_add_ofInt]
  rfl

/-- Settles O23: a run writes its codes in their places (`VecEnv.run_writes`); each code is the model's own, and sums are exact. -/
theorem vectorResults : Obligations.VectorResults := by
  unfold Obligations.VectorResults
  simp only [List.forall_mem_cons, List.not_mem_nil, false_implies, implies_true, and_true]
  refine ⟨?elem, ?exact, ?raw, ?zip, ?bcast, ?compact, ?sum⟩
  case elem => exact fun e op d xs r h hd hf => VecEnv.run_writes h hd hf rfl
  case exact => exact ⟨fun _ _ _ _ _ => rfl, fun _ _ _ _ _ => rfl, fun _ _ _ _ _ => rfl, fun _ _ _ _ _ => rfl, fun _ _ _ _ _ => rfl⟩
  case raw => exact ⟨fun _ _ _ _ _ => rfl, fun _ _ _ _ _ => rfl, fun _ _ _ _ _ => rfl⟩
  case zip =>
    intro e d gs r h hd hf
    refine VecEnv.run_writes (c := fun j => (e.bits (gs.getD (j % gs.length) 0) (j / gs.length), 0)) h hd hf ?_
    rw [VecEnv.codes, VIn.gens_map_gen]
    rfl
  case bcast => exact fun e d g r h hd hf => VecEnv.run_writes (c := fun j => (e.bits g (j % genCount g), 0)) h hd hf rfl
  case compact =>
    intro e d g m r h hd
    rw [(VecEnv.eq_of_make (VecEnv.make_of_run h hd) rfl).2]
    exact congrArg some List.countP_eq_length_filter.symm
  case sum => exact fun l h => by rw [RedOp.sum_results h]; rfl

end Sys2Proof.Machine

namespace Sys2Proof.Machine

/-! ### Tiles and the accumulator store (11 R305, R313, 17 R405) -/

section
variable {s : State} {t row n : Nat} {w : Word}

theorem State.chkTile_ok (ht : t < s.job.tileCount) : s.chkTile t = .ok t := if_neg (Nat.not_le.mpr ht)

/-- Rows that lie in a tile of the window pass their check. -/
theorem State.tileSpan_ok (ht : t < s.job.tileCount) (hw : s.job.tcfgOf t = w) (hr : row + n ≤ tcfgRows w) : s.tileSpan t row n = .ok w := by
  simp only [State.tileSpan, State.chkTile_ok ht, hw, if_neg (Nat.not_lt.mpr hr)]

@[simp] theorem State.voidWeights_cur (s : State) (t : Nat) : (s.voidWeights t).cur = s.cur := State.modJob_cur _ _ _
@[simp] theorem State.voidWeights_nextId (s : State) (t : Nat) : (s.voidWeights t).nextId = s.nextId := State.modJob_nextId _ _ _
@[simp] theorem State.voidWeights_now (s : State) (t : Nat) : (s.voidWeights t).now = s.now := State.modJob_now _ _ _

end

section
variable {s : State} {o : OpTld} {w : Word} {xs : List Nat}

/-- A `TLD` of rows that lie in its tile and in the window: poison at issue stops it. -/
theorem tldBody_eq (ht : o.t.val < s.job.tileCount) (hw : s.job.tcfgOf o.t = w) (hr : o.row.toNat + (o.n.toNat + 1) ≤ tcfgRows w)
    (hx : s.strideRows o.a (tldStride (rowBytes w) (s.sget o.st)) (rowBytes w) (fmtBytes (tcfgFmt w)) (List.range (o.n.toNat + 1)) = .ok xs)
    (hh : s.weightsHeld o.t = false) : tldBody o s =
      if xs.any (fun x => s.scrBad s.job x (rowBytes w)) then Act.code 11
      else .data (s.voidWeights o.t) (.tileLoad (tcfgFmt w) (rowBytes w) (s.tileRowsAt o xs (rowBytes w)))
        (.after (tldLat (o.n.toNat + 1) (rowBytes w))) [o.t.toNat] none := by
  simp only [tldBody, hh, Bool.false_eq_true, if_false, State.tileSpan_ok ht hw hr, Check.andThen, hx]

theorem tstBody_eq (ht : o.t.val < s.job.tileCount) (hw : s.job.tcfgOf o.t = w) (hr : o.row.toNat + (o.n.toNat + 1) ≤ tcfgRows w)
    (hx : s.strideRows o.a (tldStride (rowBytes w) (s.sget o.st)) (rowBytes w) (fmtBytes (tcfgFmt w)) (List.range (o.n.toNat + 1)) = .ok xs) :
    tstBody o s = .data s (.tileStore (rowBytes w) (s.tileRowsAt o xs (rowBytes w))) (.after (tldLat (o.n.toNat + 1) (rowBytes w))) [o.t.toNat] none := by
  simp only [tstBody, State.tileSpan_ok ht hw hr, Check.andThen, hx]

theorem tzeroBody_eq {o : OpTzero} (ht : o.t.val < s.job.tileCount) (hw : s.job.tcfgOf o.t = w) (hr : o.row.toNat + (o.n.toNat + 1) ≤ tcfgRows w)
    (hh : s.weightsHeld o.t = false) : tzeroBody o s =
      .data (s.voidWeights o.t) (.tileZero (s.job.tileAddr o.t + o.row.toNat * rowBytes w) ((o.n.toNat + 1) * rowBytes w))
        (.after (tldLat (o.n.toNat + 1) (rowBytes w))) [o.t.toNat] none := by
  simp only [tzeroBody, hh, Bool.false_eq_true, if_false, State.tileSpan_ok ht hw hr, Check.andThen]

end

/-- Settles O24: each body answers work on the on-core stores for the latency of its rows (`command_data`), a poisoned source the error 11. -/
theorem tileCommands : Obligations.TileCommands := by
  unfold Obligations.TileCommands
  refine ⟨?rows, ?zero, ?acs, ?made⟩
  case rows =>
    intro o s w xs h n len rows ht hw hr hx
    refine ⟨fun hh hc => ?_, fun hh hp _ => ?_, ?_⟩
    · refine command_data (u := tldUse 0x162 o) h ((tldBody_eq ht hw hr hx hh).trans (if_neg ?_)) (by simp) (by simp) (by simp)
      rw [List.any_eq_true]
      rintro ⟨x, hx, hb⟩
      exact Bool.false_ne_true ((hc x hx).symm.trans hb)
    · refine command_err (u := tldUse 0x162 o) h ((tldBody_eq ht hw hr hx hh).trans (if_pos (List.any_eq_true.mpr hp)))
    · exact command_data (u := tldUse 0x163 o) h (tstBody_eq ht hw hr hx) rfl rfl rfl
  case zero =>
    intro o s w h hh n len ht hw hr
    exact command_data (u := { opc := 0x164 }) h (tzeroBody_eq ht hw hr hh) (by simp) (by simp) (by simp)
  case acs =>
    intro o s h ha hr
    refine command_data (u := { opc := 0x168 }) (tiles := []) h ?_ rfl rfl rfl
    have hin : s.job.acsIn o.row.toNat (o.n.toNat + 1) = true := by simp [Job.acsIn, ha, Job.acsRows, hr]
    simp only [acszeroBody, hin, Bool.not_true, Bool.false_eq_true, if_false]
    rfl
  case made =>
    intro v fmt len rows hc
    refine if_neg ?_
    simpa using hc

end Sys2Proof.Machine

namespace Sys2Proof.Machine

/-! ### Leases (11 R306) -/

section
variable {s : State} {core k : Nat}

/-- The items that a boundary sends back are counted back in their commands' queues; all else of a job stays (11 R304). -/
theorem State.cutRows_job {α : Type} (g : Job → α) (hg : ∀ (j : Job) (q : List ArrCmd), g { j with arrayQ := q } = g j) (s : State) (core k : Nat) :
    g ((s.cutRows core).jobOf k) = g (s.jobOf k) := by
  refine (State.foldl_keeps (fun t : State => g (t.jobOf k)) (fun t r => ?_) _ _).trans rfl
  dsimp only
  split
  · exact State.jobOf_modJob_keep g t (fun j => hg j _) k
  · rfl
  · rfl

theorem State.endTerm_beside (s : State) (core : Nat) : (s.cutRows core).Beside (s.endTerm core) := by
  have hm (t : State) (f : ArrayState → ArrayState) : t.Beside (t.modArray core f) := .modCore t _ _
  unfold State.endTerm
  dsimp only
  split
  · exact (hm _ _).trans (hm _ _)
  · exact ((hm _ _).trans (hm _ _)).trans (.ensure _ _ _ _)

theorem State.endTerm_job {α : Type} (g : Job → α) (hg : ∀ (j : Job) (q : List ArrCmd), g { j with arrayQ := q } = g j) (s : State) (core k : Nat) :
    g ((s.endTerm core).jobOf k) = g (s.jobOf k) := by rw [(s.endTerm_beside core).jobOf, State.cutRows_job g hg]

/-- The job without its lease. -/
def Job.unleased (j : Job) : Job := { j with lease := false, weights := none, ran := none }

/-- A job that gives up its lease keeps all but that, and the rows that a boundary counts back. -/
theorem State.releaseLease_job {α : Type} (g : Job → α) (hg : ∀ (j : Job) (q : List ArrCmd), g { j with arrayQ := q } = g j)
    (hk : (s.jobs.find? k).isSome = true) : g ((s.releaseLease k).jobOf k) = g (s.jobOf k).unleased := by
  have hj : (s.modJob k Job.unleased).jobOf k = (s.jobOf k).unleased := State.jobOf_modJob_self _ _ hk
  rw [← hj]
  unfold State.releaseLease
  dsimp only
  split
  · exact State.endTerm_job g hg _ _ _
  · rfl

theorem State.releaseLease_cur (s : State) (k : Nat) : (s.releaseLease k).cur = s.cur := by
  unfold State.releaseLease
  dsimp only
  split
  · exact (State.endTerm_keeps State.cur (by simp) (by simp) (by simp) _ _).trans (State.modJob_cur _ _ _)
  · exact State.modJob_cur _ _ _

theorem State.releaseAcs_beside (s : State) (k : Nat) : (s.modJob k (fun j => { j with acs := [], acsHeld := false })).Beside (s.releaseAcs k) :=
  (State.Beside.modCore _ _ _).trans (State.freeAcs_beside _ _ _)

end

section
variable {s : State} {o : Op0} {ol : OpLease}

/-- A `LEASE` under its allotment takes effect, and asks for the array. -/
theorem execLease_leases (h : s.Issues ol.c []) (ha : s.job.acsHeld = true) (hn : s.job.acs.length = ol.blocks.toNat) :
    ∃ t, execLease ol s = .next t ∧ (t.jobOf s.cur.job).lease = true ∧ (t.jobOf s.cur.job).acs = s.job.acs ∧ (t.strOf s.cur).aside = s.st.aside := by
  have hb := State.askArray_beside (s.modJob s.cur.job (fun j => { j with lease := true })) s.job.coreKey
  have hj : ((s.modJob s.cur.job (fun j => { j with lease := true })).askArray s.job.coreKey).jobOf s.cur.job = { s.job with lease := true } := by
    rw [hb.jobOf, State.jobOf_modJob_self _ _ h.listed]; rfl
  obtain ⟨t, ht, hd⟩ := command_done (u := { opc := 0x160 }) (f := leaseBody ol) (fl := 0) h rfl
    (by simp only [leaseBody, ha, hn, if_true, ne_eq, not_true_eq_false, if_false]) (hb.cur.trans (State.modJob_cur _ _ _))
    (by rw [hb.jobs, State.isSome_modJob]; exact h.listed)
  refine ⟨t, ht, ?_, ?_, ?_⟩
  · rw [hd.frame.job_field Job.lease fun _ => rfl, hj]
  · rw [hd.frame.job_field Job.acs fun _ => rfl, hj]
  · rw [hd.frame.stream, State.strOf, hj]
    cases hl : s.cur.letter <;> simp only [State.st, State.strOf, State.job, hl] <;> rfl

/-- An `UNLEASE` without array commands under way. -/
theorem unleaseBody_eq (acs : Bool) (hp : s.arrayPending s.cur.job = false) :
    unleaseBody acs s = .done (if acs then (s.releaseLease s.cur.job).releaseAcs s.cur.job else s.releaseLease s.cur.job) 0 := by
  simp only [unleaseBody, hp, Bool.false_eq_true, if_false]

theorem execUnlease_unleases (h : s.Issues o.c []) (hp : s.arrayPending s.cur.job = false) :
    ∃ t, execUnlease o s = .next t ∧ (t.jobOf s.cur.job).lease = false ∧ (t.jobOf s.cur.job).weights = none ∧ (t.jobOf s.cur.job).acs = s.job.acs := by
  obtain ⟨t, ht, hd⟩ := command_done (u := { opc := 0x161 }) h rfl (unleaseBody_eq false hp) (State.releaseLease_cur s _)
    (by rw [if_neg (by decide), State.releaseLease_isSome]; exact h.listed)
  refine ⟨t, ht, ?_, ?_, ?_⟩
  · exact (hd.frame.job_field Job.lease fun _ => rfl).trans (State.releaseLease_job Job.lease (fun _ _ => rfl) h.listed)
  · exact (hd.frame.job_field Job.weights fun _ => rfl).trans (State.releaseLease_job Job.weights (fun _ _ => rfl) h.listed)
  · exact (hd.frame.job_field Job.acs fun _ => rfl).trans (State.releaseLease_job Job.acs (fun _ _ => rfl) h.listed)

/-- `UNLEASE.ACS` gives the allotment back too. -/
theorem execUnleaseAcs_unleases (h : s.Issues o.c []) (hp : s.arrayPending s.cur.job = false) :
    ∃ t, execUnleaseAcs o s = .next t ∧ (t.jobOf s.cur.job).lease = false ∧ (t.jobOf s.cur.job).acs = [] ∧ (t.jobOf s.cur.job).acsHeld = false := by
  have hb := (s.releaseLease s.cur.job).releaseAcs_beside s.cur.job
  have hl : (((s.releaseLease s.cur.job)).jobs.find? s.cur.job).isSome = true := (State.releaseLease_isSome s _ _).trans h.listed
  have hj : ((s.releaseLease s.cur.job).releaseAcs s.cur.job).jobOf s.cur.job =
      { (s.releaseLease s.cur.job).jobOf s.cur.job with acs := [], acsHeld := false } := by
    rw [hb.jobOf, State.jobOf_modJob_self _ _ hl]
  obtain ⟨t, ht, hd⟩ := command_done (u := { opc := 0x161 }) h rfl (unleaseBody_eq true hp)
    (hb.cur.trans ((State.modJob_cur _ _ _).trans (State.releaseLease_cur s _))) (by rw [if_pos rfl, hb.jobs, State.isSome_modJob]; exact hl)
  rw [if_pos rfl] at hd
  refine ⟨t, ht, ?_, ?_, ?_⟩
  · rw [hd.frame.job_field Job.lease fun _ => rfl, hj]
    exact State.releaseLease_job Job.lease (fun _ _ => rfl) h.listed
  · rw [hd.frame.job_field Job.acs fun _ => rfl, hj]
  · rw [hd.frame.job_field Job.acsHeld fun _ => rfl, hj]

end

/-! ### Array commands (11 R314 to R321) -/

section
variable {s : State} {c : Ctl} {u : Use} {f : State → Act} {kind : ArrKind} {t n first row : Nat} {set : Bool} {parts : List ArrPart} {w : Weights}

/-- The entry that a command takes in its job's array queue (11 R303). -/
def State.arrCmd (s : State) (kind : ArrKind) (t : Nat) (set : Bool) (parts : List ArrPart) : ArrCmd :=
  ⟨s.nextId, kind, t, s.job.tcfgOf t, set, s.job.fmode, parts, false, false, false, 0, false⟩

/-- An array command enters its job's queue, and is in flight. -/
theorem command_queues (h : s.Issues c u.regs u.preds u.gw u.ga u.irrev) (hf : f s = .fly (s.queueCmd c u kind t set parts w)) :
    ∃ x, command c u f s = .next x ∧ (x.jobOf s.cur.job).arrayQ = s.job.arrayQ ++ [s.arrCmd kind t set parts] ∧
      (x.jobOf s.cur.job).weights = some w ∧ (x.flights.find? s.nextId).isSome = true := by
  have hb : State.Beside _ (s.queueCmd c u kind t set parts w) := State.askArray_beside _ _
  have hj : (s.queueCmd c u kind t set parts w).jobOf s.cur.job =
      { s.job with arrayQ := s.job.arrayQ ++ [s.arrCmd kind t set parts], weights := some w } :=
    (hb.jobOf _).trans (State.jobOf_modJob_self (s.fly c u .array [] _) _ h.listed)
  obtain ⟨x, hx, hm⟩ := command_fly h hf (hb.cur.trans (State.modJob_cur _ _ _))
  refine ⟨x, hx, ?_, ?_, ?_⟩
  · rw [hm.frame.job_field Job.arrayQ fun _ => rfl, hj]
  · rw [hm.frame.job_field Job.weights fun _ => rfl, hj]
  · rw [hm.flights, hb.flights, State.modJob_flights]
    simp [State.fly]

theorem withLease_eq (hl : s.job.lease = true) (hq : s.job.arrayQ.length < 4) (a : Act) : withLease s a = a := by
  simp only [withLease, if_neg (Nat.not_le.mpr hq), hl, Bool.not_true, Bool.false_eq_true, if_false]

/-- A weight tile of the window with a format and a width that the array takes (11 R316). -/
theorem State.weightTile_ok {cfg : Word} (ht : t < s.job.tileCount) (hw : s.job.tcfgOf t = cfg) (hf : tcfgFmt cfg ≤ 6) (hc : tcfgCols cfg ≤ 192) :
    s.weightTile t = .ok ⟨t, cfg⟩ := by
  simp only [State.weightTile, State.chkTile_ok ht, hw, if_neg (Nat.not_lt.mpr hf), if_neg (Nat.not_lt.mpr hc)]

/-- Activation rows that match their weights and lie in their tile, with their results in the allotment (11 R317). -/
theorem State.rowCheck_ok (hp : (macPath (tcfgFmt w.cfg) (tcfgFmt (s.job.tcfgOf t))).isSome = true) (hc : tcfgCols (s.job.tcfgOf t) = tcfgRows w.cfg)
    (hr : first + n ≤ tcfgRows (s.job.tcfgOf t)) (ha : s.job.acsHeld = true) (hd : row + n ≤ 64 * s.job.acs.length) :
    s.rowCheck t w first n row = .ok row := by
  have hin : s.job.acsIn row n = true := by simp [Job.acsIn, ha, Job.acsRows, hd]
  simp [State.rowCheck, Option.isNone_eq_false_iff.mpr hp, hc, Nat.not_lt.mpr hr, hin]

end

/-- Settles O25: leases by what they leave of the job; an array command that passes its checks by `command_queues`. -/
theorem arrayCommands : Obligations.ArrayCommands := by
  unfold Obligations.ArrayCommands
  refine ⟨fun o s h ha hn => execLease_leases h ha hn, fun o s h hp => ⟨execUnlease_unleases h hp, execUnleaseAcs_unleases h hp⟩,
    ?load, ?rows, ?both, ?none, ?sparse⟩
  case load =>
    intro o s w h hl hq ht hw hf hc
    obtain ⟨t, hx, harr, hwt, hfl⟩ := command_queues (u := { opc := 0x165 }) (f := mloadwBody o { opc := 0x165 }) h
      (by rw [mloadwBody, withLease_eq hl hq, State.weightTile_ok ht hw hf hc]; rfl)
    exact ⟨t, _, hx, harr, rfl, rfl, rfl, hwt, hfl⟩
  case rows =>
    rintro o s w _ _ h hl hq ht hw rfl rfl hp hc hr ha hd
    obtain ⟨t, hx, harr, hwt, -⟩ := command_queues (u := mrowsUse o) (f := mrowsBody o (mrowsUse o)) h
      (by simp only [mrowsBody, withLease_eq hl hq, State.chkTile_ok ht, Check.andThen, hw, State.rowCheck_ok hp hc hr ha hd]; rfl)
    exact ⟨t, _, hx, harr, rfl, rfl, rfl, rfl, hwt⟩
  case both =>
    rintro o s w _ h hl hq hw ht hcfg hf hcol rfl hp hc hr ha hd
    have hrow := State.rowCheck_ok (s := s) (t := o.t) (w := ⟨o.w, w⟩) (first := 0) hp hc (by rw [Nat.zero_add]; exact hr) ha hd
    obtain ⟨t, hx, harr, hwt, -⟩ := command_queues (u := { opc := 0x167 }) (f := mmaBody o { opc := 0x167 }) h
      (by simp only [mmaBody, withLease_eq hl hq, State.weightTile_ok hw hcfg hf hcol, State.chkTile_ok ht, Check.andThen, hrow]; rfl)
    exact ⟨t, _, hx, harr, rfl, rfl, rfl, rfl, hwt⟩
  case none =>
    exact fun o s h hm => command_done (u := bsmmUse o) h rfl (by rw [bsmmBody, hm]; rfl) rfl h.listed
  case sparse =>
    intro o s a ps p h hl hq ht hm ha hps
    have h0 : (s.sget o.m).toNat ≠ 0 := by
      intro h0
      rw [h0] at hps
      cases ps <;> cases hps
    obtain ⟨t, hx, harr, hwt, -⟩ := command_queues (u := bsmmUse o) (f := bsmmBody o (bsmmUse o)) h
      (by simp only [bsmmBody, h0, if_false, withLease_eq hl hq, State.chkTile_ok ht, Check.andThen, if_neg (Nat.not_lt.mpr hm), ha, hps,
        List.getLast?_concat]
          rfl)
    exact ⟨t, _, hx, harr, rfl, rfl, hwt⟩

end Sys2Proof.Machine

namespace Sys2Proof.Machine

/-! ### Requests to a pool (11 R328) -/

/-- The launch record of a `LAUNCH`: the one at a window offset, with the descriptor that the command names (11 R328). -/
def State.launchRecord (s : State) (desc a : Nat) : List Byte :=
  if desc = 0 then s.scrRead s.job a 128 else bytesOf 8 desc ++ (s.scrRead s.job a 128).drop 8

/-- The queue number of a queue address of the package. -/
theorem natBits_queue {p n : Nat} (hn : n < 4096) : natBits (p * 2 ^ 44 + n) 0 12 = n := by
  unfold natBits
  omega

section
variable {s : State} {c : Ctl} {u : Use} {d r q : SReg} {p : Option PReg} {desc a n : Nat} {park : Bool}

/-- A request that passes the checks, with every earlier write of its job performed, is on its way to the pool of its queue's die. -/
theorem poolBody_eq (hq : (s.sget q).toNat = s.job.pkg * 2 ^ 44 + n) (hn : n < 4096) (ha : s.scrOperand r 0 128 64 = .ok a)
    (hr : s.released s.cur .package s.nextId s.now = true) (hp : recPart (s.launchRecord desc a) = s.job.part) :
    poolBody c u d p r q desc park s =
      .fly ((s.fly c u (.pool ⟨n, s.launchRecord desc a, a, park⟩ d p none) [.s d]).toPool s.nextId (s.poolDie s.job n) s.job.die) := by
  unfold State.launchRecord at hp ⊢
  simp only [poolBody, hq, natBits_queue hn, ha, hr, hp, Check.andThen, ne_eq, not_true_eq_false, if_false, Bool.not_true, Bool.false_eq_true]

/-- A request comes to its pool in a later cycle (11 R331). -/
theorem State.toPool_requests (s : State) (k die home : Nat) :
    ∃ d, s.now < d ∧ ((s.toPool k die home).dieOf die).requests = (s.dieOf die).requests ++ [(d, k)] := by
  refine ⟨s.now + if die = home then 1 else 1 + Config.delay s.ticket, by split <;> omega, ?_⟩
  simp only [State.toPool, State.post_dieOf, State.dieOf_modDie_self, State.draw_dieOf]

/-- A command whose request goes to a pool. -/
theorem command_toPool {f : State → Act} {w : Work} {dst : List Reg} {die home : Nat} (h : s.Issues c u.regs u.preds u.gw u.ga u.irrev)
    (hf : f s = .fly ((s.fly c u w dst).toPool s.nextId die home)) :
    ∃ t d, command c u f s = .next t ∧ s.Launched c dst (fun v => v = w) t ∧ s.now < d ∧
      (t.dieOf die).requests = (s.dieOf die).requests ++ [(d, s.nextId)] := by
  obtain ⟨t, ht, hm⟩ := command_fly h hf rfl
  obtain ⟨d, hd, hreq⟩ := (s.fly c u w dst).toPool_requests s.nextId die home
  refine ⟨t, d, ht, .of_moved (u := u) hm rfl rfl (fun _ _ => rfl) rfl rfl, hd, ?_⟩
  rw [hm.frame.field (State.dieOf · die) fun _ => rfl]
  exact hreq

end

/-! ### What a new launch leaves (14 R380, 19 R445) -/

/-- History and predictions concern the history and the agenda alone. -/
theorem State.enterHistory_keeps {α : Type} (g : State → α) (hg : ∀ s : State, g { s with history := [], agenda := [] } = g s) (s : State) (q ctx : Nat)
    (seq : BitVec 32) (r : List Byte) : g (s.enterHistory q ctx seq r) = g s := by
  have h : ({ s.enterHistory q ctx seq r with history := [], agenda := [] } : State) = { s with history := [], agenda := [] } := by
    unfold State.enterHistory
    dsimp only
    split <;> rfl
  rw [← hg, h, hg]

theorem State.tryStart_keeps {α : Type} (g : State → α) (hg : ∀ s : State, g { s with agenda := [] } = g s) (s : State) (q : Nat) :
    g (s.tryStart q) = g s := by
  unfold State.tryStart
  split
  · rfl
  next k _ =>
    rcases s.ensure_cases 0 .launchStart { a := k } with h | h
    · rw [h]
    · rw [h, ← hg, ← hg s]
      rfl

/-- The state in which a launch of a direct queue has its sequence number and its pool entry (19 R445). -/
def State.entryTaken (s : State) (q : Nat) (r : List Byte) : State :=
  { (s.modQueue q (fun e => { e with wseq := e.wseq + 1, rseq := e.wseq + 1 })).newId with
    launches := s.launches.set s.nextId (s.newLaunch q (s.queueOf q).wseq r .pending) }

theorem State.entryTaken_queueOf (s : State) (q : Nat) (r : List Byte) :
    (s.entryTaken q r).queueOf q = { s.queueOf q with wseq := (s.queueOf q).wseq + 1, rseq := (s.queueOf q).wseq + 1 } := by
  simp [State.entryTaken, State.queueOf, State.modQueue]

/-- A launch into a direct queue takes the queue's next sequence number and a pool entry; no flight changes. -/
theorem State.insertLaunch_fields (s : State) (q : Nat) (r : List Byte) :
    ((s.insertLaunch q r).1.queueOf q).wseq = (s.queueOf q).wseq + 1 ∧
    (s.insertLaunch q r).1.launches.find? s.nextId = some (s.newLaunch q (s.queueOf q).wseq r .pending) ∧
    (s.insertLaunch q r).1.flights = s.flights := by
  have hkeep {α : Type} (g : State → α) (hg : ∀ s : State, g { s with history := [], agenda := [] } = g s)
      (hg' : ∀ s : State, g { s with agenda := [] } = g s) : g (s.insertLaunch q r).1 = g (s.entryTaken q r) :=
    (State.tryStart_keeps g hg' _ q).trans (State.enterHistory_keeps g hg (s.entryTaken q r) q (s.queueOf q).ctx (s.queueOf q).wseq r)
  refine ⟨?_, ?_, hkeep State.flights (fun _ => rfl) fun _ => rfl⟩
  · rw [hkeep (State.queueOf · q) (fun _ => rfl) fun _ => rfl, State.entryTaken_queueOf]
  · rw [hkeep State.launches (fun _ => rfl) fun _ => rfl]
    exact Map.find?_set_self _ _ _

/-! ### Answers of a pool (11 R328, R331) -/

/-- The state in which answer `a` to request `k` of a die's pool stands in its flight and is on its way to the job's die. -/
def State.sendAnswer (s : State) (die home k : Nat) (q : PoolReq) (x : SReg) (p : Option PReg) (a : PoolAnswer) : State :=
  let t := s.modFlight k (fun f => { f with work := .pool q x p (some a) })
  if die = home then t.post 11 .poolRequestHandled { a := die, b := k + 1 } else t.later .poolRequestHandled { a := die, b := k + 1 }

/-- The state in which a die has taken request `r` out of its line. -/
def State.dropRequest (s : State) (die : Nat) (r : Nat × Nat) : State :=
  s.modDie die (fun d => { d with requests := d.requests.filter (fun x => x ≠ r) })

section
variable {s : State} {die home k : Nat} {q : PoolReq} {x : SReg} {p : Option PReg} {a : PoolAnswer} {f : Flight}

theorem State.sendAnswer_queueOf (s : State) (die home k : Nat) (q : PoolReq) (x : SReg) (p : Option PReg) (a : PoolAnswer) (n : Nat) :
    (s.sendAnswer die home k q x p a).queueOf n = s.queueOf n := by
  unfold State.sendAnswer State.queueOf
  dsimp only
  split <;> simp

theorem State.sendAnswer_launches (s : State) (die home k : Nat) (q : PoolReq) (x : SReg) (p : Option PReg) (a : PoolAnswer) :
    (s.sendAnswer die home k q x p a).launches = s.launches := by
  unfold State.sendAnswer
  dsimp only
  split <;> simp

theorem State.sendAnswer_flight (hf : s.flights.find? k = some f) :
    (s.sendAnswer die home k q x p a).flights.find? k = some { f with work := .pool q x p (some a) } := by
  have h := State.find?_modFlight_self (fun f => { f with work := .pool q x p (some a) }) hf
  unfold State.sendAnswer
  dsimp only
  split
  · exact h
  · exact h

/-- The three answers: `LAUNCH_PERM` where the queue does not permit the launch, `FULL` where the pool has no room, else a launch (19 R445). -/
theorem State.answerPool_eq (hf : s.flights.find? k = some f) (hw : f.work = .pool q x p none) :
    s.answerPool die k =
      let part := (s.jobOf f.ref.job).part
      let home := (s.jobOf f.ref.job).die
      if (s.queueOf q.queue).launches part = false then s.sendAnswer die home k q x p .perm
      else if s.poolRoom die part = false then s.sendAnswer die home k q x p .full
      else (s.insertLaunch q.queue q.record).1.sendAnswer die home k q x p (.accepted (launchId q.queue (s.queueOf q.queue).wseq)) := by
  cases hl : (s.queueOf q.queue).launches (s.jobOf f.ref.job).part
  · simp [State.answerPool, hf, hw, State.sendAnswer, hl]
  · cases hroom : s.poolRoom die (s.jobOf f.ref.job).part
    · simp [State.answerPool, hf, hw, State.sendAnswer, hl, hroom]
    · simp [State.answerPool, hf, hw, State.sendAnswer, hl, hroom, State.insertLaunch]

/-- The oldest request is taken out of its line and answered. -/
theorem execPoolRequestHandled_answers {r : Nat × Nat} {rest : List (Nat × Nat)} (ha : s.args.a = die) (hb : s.args.b = 0)
    (hr : s.arrivedRequests die = r :: rest) : execPoolRequestHandled s = .next ((s.dropRequest die r).answerPool die r.2) := by
  subst ha
  simp only [execPoolRequestHandled, hb, ne_eq, not_true_eq_false, if_false, hr]
  rfl

/-- Requests in line take no entry. -/
theorem State.dropRequest_poolRoom (s : State) (die : Nat) (r : Nat × Nat) (part : Nat) :
    (s.dropRequest die r).poolRoom die part = s.poolRoom die part := by
  simp only [State.poolRoom, State.poolUsed, State.poolPart, State.poolCap, State.dropRequest, State.dieOf_modDie_self, State.modDie_jobOf]
  rfl

end

/-! ### Replies (11 R328, R329) -/

/-- The state in which an answer stands in its command's registers. -/
def State.putAnswer (s : State) (r : Ref) (x : SReg) (p : Option PReg) (v : Word) (b : Bool) : State :=
  let t := s.modRef r (fun t => t.sput x v)
  match p with
  | none => t
  | some p => t.pput r p (some b)

section
variable {s : State} {k : Nat} {q : PoolReq} {x : SReg} {p : Option PReg} {f : Flight} {v : Word} {b : Bool}

theorem State.putAnswer_flights (s : State) (r : Ref) (x : SReg) (p : Option PReg) (v : Word) (b : Bool) :
    (s.putAnswer r x p v b).flights = s.flights := by
  cases p with
  | none => exact State.modJob_flights _ _ _
  | some p => exact (State.modJob_flights _ _ _).trans (State.modJob_flights _ _ _)

theorem State.putAnswer_listed (s : State) (r : Ref) (x : SReg) (p : Option PReg) (v : Word) (b : Bool) (n : Nat) :
    ((s.putAnswer r x p v b).jobs.find? n).isSome = (s.jobs.find? n).isSome := by
  cases p with
  | none => exact State.isSome_modJob _ _ _ _
  | some p => exact (State.isSome_modJob _ _ _ _).trans (State.isSome_modJob _ _ _ _)

/-- The job once the answer stands: its stream with the result, and a predicate that takes effect at the end of the cycle. -/
theorem State.putAnswer_job {r : Ref} (h : (s.jobs.find? r.job).isSome = true) (x : SReg) (p : Option PReg) (v : Word) (b : Bool) :
    (s.putAnswer r x p v b).jobOf r.job =
      let j := (s.jobOf r.job).setStream r.letter ((s.strOf r).sput x v)
      { j with late := { j.late with preds := j.late.preds ++ (p.map (fun n => (r.letter, n, some b))).toList } } := by
  cases p with
  | none =>
    rw [State.putAnswer, State.jobOf_modRef_self _ _ h]
    simp only [Option.map_none, Option.toList_none, List.append_nil]
  | some p =>
    simp only [State.putAnswer, State.pput]
    rw [State.jobOf_modJob_self _ _ (by simpa using h), State.jobOf_modRef_self _ _ h]
    rfl

/-- An answer that a job takes completes its command, with its result register and its predicate written. -/
theorem State.putAnswer_completes (hf : s.flights.find? k = some f) (hj : (s.jobs.find? f.ref.job).isSome = true) :
    let t := (s.putAnswer f.ref x p v b).finish k 0
    s.Completes k f f.flags t ∧ (t.strOf f.ref).sget x = (if x = 0 then 0 else v) ∧
      ∀ n, p = some n → (f.ref.letter, n, some b) ∈ (t.jobOf f.ref.job).late.preds := by
  intro t
  have hf' : (s.putAnswer f.ref x p v b).flights.find? k = some f := by rw [State.putAnswer_flights, hf]
  obtain ⟨hgone, hsig, hfl⟩ := State.finish_completes 0 hf' (by rw [State.putAnswer_listed, hj])
  have hframe := State.finish_frame (0 : Flags) hf'
  have hjob := State.putAnswer_job hj x p v b
  have hsigs : ((s.putAnswer f.ref x p v b).jobOf f.ref.job).late.sigs = (s.jobOf f.ref.job).late.sigs := by rw [hjob]; simp
  have hflags : ((s.putAnswer f.ref x p v b).jobOf f.ref.job).late.flags = (s.jobOf f.ref.job).late.flags := by rw [hjob]; simp
  rw [hsigs] at hsig
  rw [hflags] at hfl
  refine ⟨⟨hgone, hsig, hfl.trans (by simp)⟩, ?_, fun n hn => ?_⟩
  · have hst : ((s.putAnswer f.ref x p v b).strOf f.ref) = (s.strOf f.ref).sput x v := by
      rw [State.strOf, hjob]
      cases f.ref.letter <;> rfl
    have hget := congrArg (Stream.sget · x) hframe.stream
    rw [← Stream.sget_sput (s.strOf f.ref) x v, ← hst]
    exact hget
  · rw [hframe.job_field (fun j => j.late.preds) fun _ => rfl, hjob, hn]
    simp

theorem execPoolRequestHandled_replies (hb : s.args.b = k + 1) : execPoolRequestHandled s = .next (s.poolReply k) := by
  simp only [execPoolRequestHandled, hb, ne_eq, Nat.add_one_ne_zero, not_false_eq_true, if_true, Nat.add_sub_cancel]

theorem State.poolReply_accepted (hf : s.flights.find? k = some f) {w : Word} (hw : f.work = .pool q x p (some (.accepted w))) :
    s.poolReply k = (s.putAnswer f.ref x p w false).finish k 0 := by
  simp only [State.poolReply, hf, hw]
  rfl

theorem State.poolReply_full (hf : s.flights.find? k = some f) (hw : f.work = .pool q x p (some .full)) :
    s.poolReply k = if q.park then (s.modJob f.ref.job (fun j => { j with parking := true })).ensure 1 .jobPark { a := f.ref.job }
      else (s.putAnswer f.ref x p (BitVec.ofNat 64 (2 ^ 63)) true).finish k 0 := by
  simp only [State.poolReply, hf, hw]
  rfl

end

/-! ### Grants and ring reads (19 R435, R443) -/

section
variable {s : State} {d k : Nat}

/-- The die's next grant comes in the next cycle at the earliest (19 R443). -/
def State.granted (s : State) (d : Nat) : State := s.modDie d (fun x => { x with poolNext := s.now + 1 })

theorem execPoolGrant_grants (ha : s.args.a = d) (hl : (s.dieOf d).lost = false) (hn : (s.dieOf d).poolNext ≤ s.now) :
    execPoolGrant s = .next (s.grantPool d) := by
  subst ha
  simp only [execPoolGrant, hl, Bool.false_eq_true, if_false, if_neg (Nat.not_lt.mpr hn)]

theorem State.grantPool_reserves (hu : s.poolUsed d < 1024) (hk : s.reserveFor d = some k) : s.grantPool d =
    ((((s.granted d).modDie d (fun x => { x with reserved := x.reserved ++ [k] })).modJob k (fun j => { j with ready := true })).ensure 1 .jobPlacement
      { a := (s.jobOf k).die }).ensure 1 .poolGrant { a := d } := by
  simp only [State.grantPool, hu, decide_true, if_true, hk]
  rfl

theorem State.grantPool_reads (hu : s.poolUsed d < 1024) (hk : s.reserveFor d = none) (hs : (s.scan d).isSome = true)
    (hr : s.arrivedRequests d = [] ∨ (s.dieOf d).turn = true) : s.grantPool d =
    (((s.granted d).modDie d (fun x => { x with turn := false })).post 0 .ringRead { a := d }).ensure 1 .poolGrant { a := d } := by
  have hc : (!(s.arrivedRequests d).isEmpty && !(s.dieOf d).turn) = false := by
    rcases hr with h | h <;> simp [h]
  simp only [State.grantPool, hu, decide_true, if_true, hk, hs, Bool.true_and, hc, Bool.false_eq_true, if_false]
  rfl

theorem State.grantPool_handles (hu : s.poolUsed d < 1024) (hk : s.reserveFor d = none) (hr : s.arrivedRequests d ≠ [])
    (hs : s.scan d = none ∨ (s.dieOf d).turn = false) : s.grantPool d =
    (((s.granted d).modDie d (fun x => { x with turn := true })).post 0 .poolRequestHandled { a := d }).ensure 1 .poolGrant { a := d } := by
  have hc : (!(s.arrivedRequests d).isEmpty && !((s.scan d).isSome && (s.dieOf d).turn)) = true := by
    rw [List.isEmpty_eq_false_iff.mpr hr]
    rcases hs with h | h <;> simp [h]
  simp only [State.grantPool, hu, decide_true, if_true, hk, Bool.true_and, hc]
  rfl

/-- The load of a weight identity is all that a count of it changes. -/
theorem State.countWid_eq (s : State) (i n : Nat) : ∃ w, s.countWid i n = { s with wids := w } := by
  unfold State.countWid
  split
  · exact ⟨s.wids, rfl⟩
  · exact ⟨_, rfl⟩

/-- The state in which record `r` of queue `q` is on its way into a pool entry, and the scanner goes on behind the queue (19 R435). -/
def State.ringTaken (s : State) (d q : Nat) (r : List Byte) : State :=
  let t := (s.modQueue q (fun e => { e with rseq := e.rseq + 1, pending := decide (e.rseq + 1 ≠ e.wseq) })).modDie d
    (fun x => { x with start := (q + 1) % 4096 })
  { t.newId with launches := t.launches.set s.nextId (s.newLaunch q (s.queueOf q).rseq r .reading) }

theorem State.ringTaken_queueOf (s : State) (d q : Nat) (r : List Byte) : (s.ringTaken d q r).queueOf q =
    { s.queueOf q with rseq := (s.queueOf q).rseq + 1, pending := decide ((s.queueOf q).rseq + 1 ≠ (s.queueOf q).wseq) } := by
  simp [State.ringTaken, State.queueOf, State.modQueue]

theorem State.ringTaken_start (s : State) (d q : Nat) (r : List Byte) : ((s.ringTaken d q r).dieOf d).start = (q + 1) % 4096 := by
  simp [State.ringTaken, State.dieOf, State.modDie]

theorem execRingRead_eq {q : Nat} (ha : s.args.a = d) (hq : s.scan d = some q) :
    let e := s.queueOf q
    let r := s.homeRead (e.base + 128 * (e.rseq.toNat % e.size)) 128
    ∃ w, execRingRead s = .next (((({ s with wids := w } : State).ringTaken d q r).enterHistory q e.ctx e.rseq r).later .recordLanded
      { a := s.nextId }) := by
  subst ha
  intro e r
  obtain ⟨w, hw⟩ : ∃ w, (if (fieldOf r 56 4).testBit 31 then s.countWid (fieldOf r 56 4 % 2 ^ 24) 1 else s) = ({ s with wids := w } : State) := by
    split
    · exact s.countWid_eq _ _
    · exact ⟨s.wids, rfl⟩
  refine ⟨w, ?_⟩
  simp only [execRingRead, hq]
  rw [hw]
  rfl

/-- The scanner reads the next record of the queue that it selects into a pool entry. -/
theorem execRingRead_reads {q : Nat} (ha : s.args.a = d) (hq : s.scan d = some q) :
    let e := s.queueOf q
    ∃ t, execRingRead s = .next t ∧ (t.queueOf q).rseq = e.rseq + 1 ∧ ((t.queueOf q).pending = true ↔ e.rseq + 1 ≠ e.wseq) ∧
      t.launches.find? s.nextId = some (s.newLaunch q e.rseq (s.homeRead (e.base + 128 * (e.rseq.toNat % e.size)) 128) .reading) ∧
      (t.dieOf d).start = (q + 1) % 4096 ∧ t.mem = s.mem := by
  intro e
  obtain ⟨w, ht⟩ := execRingRead_eq ha hq
  refine ⟨_, ht, ?_⟩
  generalize s.homeRead (e.base + 128 * (e.rseq.toNat % e.size)) 128 = r
  have hkeep {α : Type} (g : State → α) (hg : ∀ s : State, g { s with history := [], agenda := [] } = g s) :=
    State.enterHistory_keeps g hg (({ s with wids := w } : State).ringTaken d q r) q e.ctx e.rseq r
  have hq' := (hkeep (State.queueOf · q) fun _ => rfl).trans (State.ringTaken_queueOf _ d q r)
  refine ⟨congrArg Queue.rseq hq', ?_, ?_, ?_, hkeep State.mem fun _ => rfl⟩
  · exact (Bool.eq_iff_iff.mp (congrArg Queue.pending hq')).trans decide_eq_true_iff
  · exact (congrArg (Map.find? · s.nextId) (hkeep State.launches fun _ => rfl)).trans (Map.find?_set_self _ _ _)
  · exact (congrArg Die.start (hkeep (State.dieOf · d) fun _ => rfl)).trans (State.ringTaken_start _ d q r)

end

/-- A record that has landed may start when its turn comes. -/
theorem execRecordLanded_lands {s : State} {k : Nat} {l : Launch} (ha : s.args.a = k) (hl : s.launches.find? k = some l) (hs : l.state = .reading) :
    ∃ t, execRecordLanded s = .next t ∧ t.launches.find? k = some { l with state := .pending } := by
  subst ha
  refine ⟨_, by simp only [execRecordLanded, hl, hs, if_true]; rfl, ?_⟩
  rw [State.tryStart_keeps State.launches fun _ => rfl, State.launches_modLaunch, if_pos rfl, hl]
  rfl

/-- Settles O35: a request by `command_toPool`, its answer by `State.answerPool_eq`, the reply by `State.putAnswer_completes`, grants and reads by what
each leaves of its die. -/
theorem launchPool : Obligations.LaunchPool := by
  unfold Obligations.LaunchPool
  refine ⟨?launch, ?launchp, ?answer, ?reply, ?grant, fun s d q ha hq => execRingRead_reads ha hq,
    fun s k l ha hl hs => execRecordLanded_lands ha hl hs⟩
  case launch =>
    intro o s a n h hq hn ha hr r hp
    have hrec : s.launchRecord o.desc.toNat a = r := if_congr (by rw [BitVec.toNat_eq]; rfl) rfl rfl
    exact command_toPool (u := launchUse o) h (by rw [poolBody_eq hq hn ha hr (by rw [hrec]; exact hp), hrec])
  case launchp =>
    intro o s a n h hq hn ha hr hp
    exact command_toPool (u := launchpUse o) h (poolBody_eq (desc := 0) hq hn ha hr hp)
  case answer =>
    intro s d k q x p f u rest ha hb hr hf hw e part
    have hrun : exec .poolRequestHandled s = .next ((s.dropRequest d (u, k)).answerPool d k) := execPoolRequestHandled_answers ha hb hr
    have heq := State.answerPool_eq (s := s.dropRequest d (u, k)) (die := d) hf hw
    dsimp only at heq
    rw [State.dropRequest_poolRoom] at heq
    refine ⟨fun hl hroom => ⟨_, hrun, ?_⟩, fun hl => ⟨_, hrun, ?_⟩, fun hl hroom => ⟨_, hrun, ?_⟩⟩
    · obtain ⟨hseq, hlaunch, hflights⟩ := (s.dropRequest d (u, k)).insertLaunch_fields q.queue q.record
      rw [heq, if_neg (by exact ne_false_of_eq_true hl), if_neg (by exact ne_false_of_eq_true hroom), State.sendAnswer_queueOf,
        State.sendAnswer_launches]
      exact ⟨hseq, hlaunch, State.sendAnswer_flight (by rw [hflights]; exact hf)⟩
    · rw [heq, if_pos (by exact hl), State.sendAnswer_launches]
      exact ⟨rfl, State.sendAnswer_flight hf⟩
    · rw [heq, if_neg (by exact ne_false_of_eq_true hl), if_pos (by exact hroom), State.sendAnswer_launches]
      exact ⟨rfl, State.sendAnswer_flight hf⟩
  case reply =>
    intro s k q x p f hb hf hj
    have hrun : exec .poolRequestHandled s = .next (s.poolReply k) := execPoolRequestHandled_replies hb
    refine ⟨fun w hw => ⟨_, hrun, ?_⟩, fun hw hp => ⟨_, hrun, ?_⟩, fun hw hp => ⟨_, hrun, ?_⟩⟩
    · rw [State.poolReply_accepted hf hw]
      exact State.putAnswer_completes hf hj
    · rw [State.poolReply_full hf hw, if_neg (by rw [hp]; decide)]
      exact State.putAnswer_completes hf hj
    · rw [State.poolReply_full hf hw, if_pos hp, State.ensure_flights, State.modJob_flights, State.ensure_jobOf, State.jobOf_modJob_self _ _ hj]
      exact ⟨hf, rfl⟩
  case grant =>
    intro s d ha hl hn hu
    have hrun : exec .poolGrant s = .next (s.grantPool d) := execPoolGrant_grants ha hl hn
    refine ⟨fun k hk hj => ⟨_, hrun, ?_⟩, fun hk hs hr => ⟨_, hrun, ?_⟩, fun hk hr hs => ⟨_, hrun, ?_⟩⟩
    · rw [State.grantPool_reserves hu hk]
      simp only [State.ensure_dieOf, State.ensure_jobOf, State.modJob_dieOf, State.granted, State.dieOf_modDie_self]
      refine ⟨trivial, ?_, trivial⟩
      rw [State.jobOf_modJob_self _ _ (by simpa using hj)]
    · rw [State.grantPool_reads hu hk hs hr]
      simp only [State.ensure_dieOf, State.post_dieOf, State.granted, State.dieOf_modDie_self, and_self, and_true]
      exact (State.Beside.ensure _ _ _ _).agenda _ (List.mem_append_right _ List.mem_cons_self)
    · rw [State.grantPool_handles hu hk hr hs]
      simp only [State.ensure_dieOf, State.post_dieOf, State.granted, State.dieOf_modDie_self, and_self, and_true]
      exact (State.Beside.ensure _ _ _ _).agenda _ (List.mem_append_right _ List.mem_cons_self)

end Sys2Proof.Machine

namespace Sys2Proof.Machine

/-! ### What leaves a core's Trowel (13 R356) -/

section
variable {s : State} {c e : Nat}

/-- A change of cores that leaves their Trowels. -/
theorem State.modCore_trow (s : State) (k c : Nat) {f : Core → Core} (hf : ∀ x, (f x).trowel = x.trowel) : (s.modCore k f).trow c = s.trow c := by
  unfold State.trow
  by_cases h : c = k
  · rw [h, State.coreOf_modCore_self, hf]
  · rw [State.coreOf_modCore_ne _ _ h]

@[simp] theorem State.modTrow_trow (s : State) (c : Nat) (f : Trowel → Trowel) : (s.modTrow c f).trow c = f (s.trow c) := by
  simp [State.trow, State.modTrow]

@[simp] theorem State.modFront_trow (s : State) (c : Nat) (f : Pass → Pass) :
    (s.modFront c f).trow c = { s.trow c with front := (s.trow c).front.map f } := State.modTrow_trow _ _ _

@[simp] theorem State.ensure_trow (s : State) (d : Nat) (i : Instr) (g : Args) (c : Nat) : (s.ensure d i g).trow c = s.trow c := by simp [State.trow]
@[simp] theorem State.post_trow (s : State) (d : Nat) (i : Instr) (g : Args) (c : Nat) : (s.post d i g).trow c = s.trow c := rfl
@[simp] theorem State.later_trow (s : State) (i : Instr) (g : Args) (c : Nat) : (s.later i g).trow c = s.trow c := rfl
@[simp] theorem State.sched_trow (s : State) (d : Nat) (m : Move) (c : Nat) : (s.sched d m).trow c = s.trow c := rfl
@[simp] theorem State.send_trow (s : State) (m : Msg) (i : Instr) (g : Args) (c : Nat) : (s.send m i g).trow c = s.trow c := rfl
@[simp] theorem State.modJob_trow (s : State) (k : Nat) (f : Job → Job) (c : Nat) : (s.modJob k f).trow c = s.trow c := by simp [State.trow]
@[simp] theorem State.setSlot_trow (s : State) (k : Nat) (n : Fin 8) (x : TaskSlot) (c : Nat) : (s.setSlot k n x).trow c = s.trow c := s.modJob_trow _ _ c
@[simp] theorem State.modArray_trow (s : State) (k : Nat) (f : ArrayState → ArrayState) (c : Nat) : (s.modArray k f).trow c = s.trow c :=
  s.modCore_trow k c fun _ => rfl
@[simp] theorem State.dropAcsWait_trow (s : State) (k : Nat) (w : AcsWho) (c : Nat) : (s.dropAcsWait k w).trow c = s.trow c :=
  s.modCore_trow k c fun _ => rfl

/-- What keeps the cores keeps their Trowels. -/
theorem State.trow_congr {s t : State} (h : t.cores = s.cores) (c : Nat) : t.trow c = s.trow c := by simp only [State.trow, State.coreOf, h]

@[simp] theorem State.finish_trow (s : State) (k : Nat) (fl : Flags) (c : Nat) : (s.finish k fl).trow c = s.trow c :=
  State.trow_congr (State.finish_cores s k fl) c

@[simp] theorem State.askArray_trow (s : State) (k c : Nat) : (s.askArray k).trow c = s.trow c := by
  unfold State.askArray
  dsimp only
  split
  · split <;> simp
  · simp

@[simp] theorem State.askArray_mem (s : State) (k : Nat) : (s.askArray k).mem = s.mem := by
  unfold State.askArray
  dsimp only
  split
  · split <;> simp [State.modArray]
  · simp [State.modArray]

@[simp] theorem State.wantAcs_accesses (s : State) (k : Nat) (w : AcsWho) (n : Nat) : (s.wantAcs k w n).accesses = s.accesses := by
  unfold State.wantAcs
  split <;> simp

@[simp] theorem State.wantAcs_trow (s : State) (k : Nat) (w : AcsWho) (n c : Nat) : (s.wantAcs k w n).trow c = s.trow c := by
  unfold State.wantAcs
  split
  · rfl
  · exact (State.ensure_trow _ _ _ _ _).trans (s.modCore_trow k c fun _ => rfl)

@[simp] theorem State.freeAcs_trow (s : State) (k : Nat) (bs : List Nat) (c : Nat) : (s.freeAcs k bs).trow c = s.trow c := by
  unfold State.freeAcs
  split
  · rfl
  · unfold State.lookPass
    have h := s.modCore_trow k c (f := fun x => { x with acsOwner := bs.foldl (fun m b => m.erase b) x.acsOwner }) fun _ => rfl
    split
    · exact (State.ensure_trow _ _ _ _ _).trans h
    · exact (State.ensure_trow _ _ _ _ _).trans ((State.ensure_trow _ _ _ _ _).trans h)

/-- A list of changes of a core, each of which leaves its Trowel. -/
theorem Core.foldl_trowel {α : Type} {f : Core → α → Core} (hf : ∀ x a, (f x a).trowel = x.trowel) (l : List α) (x : Core) :
    (l.foldl f x).trowel = x.trowel := by
  induction l generalizing x with
  | nil => rfl
  | cons a l ih => exact (ih _).trans (hf x a)

@[simp] theorem State.freeParked_trow (s : State) (k c : Nat) : (s.freeParked k).trow c = s.trow c :=
  (State.freeAcs_trow _ _ _ _).trans (s.modCore_trow k c fun x => Core.foldl_trowel (f := fun x b => { x.acsRefresh b with acsLast := x.acsLast.erase b }) (fun _ _ => rfl) _ x)

@[simp] theorem State.releasePass_trow (s : State) (k : Nat) (p : Pass) (c : Nat) : (s.releasePass k p).trow c = s.trow c := by
  refine (State.freeAcs_trow _ _ _ _).trans (s.modCore_trow k c fun x => Core.foldl_trowel (fun x b => ?_) _ x)
  dsimp only
  split <;> rfl

/-! #### Pool entries -/

/-- The pool after a change of one entry. -/
theorem State.modEntry_trow (s : State) (c e : Nat) (f : PoolEntry → PoolEntry) :
    ∃ p, (s.modEntry c e f).trow c = { s.trow c with pool := p } ∧
      ∀ k, p.find? k = if k = e then ((s.trow c).pool.find? e).map f else (s.trow c).pool.find? k := by
  rw [State.modEntry, State.modTrow_trow]
  cases he : (s.trow c).pool.find? e with
  | none =>
    refine ⟨(s.trow c).pool, rfl, fun k => ?_⟩
    by_cases hk : k = e
    · rw [if_pos hk, hk, he]; rfl
    · rw [if_neg hk]
  | some x => exact ⟨_, rfl, fun k => Map.find?_set _ _ _ _⟩

/-- What a change of an entry leaves of the Trowel. -/
theorem State.modEntry_keeps {α : Type} (g : Trowel → α) (hg : ∀ (t : Trowel) (p : Map PoolEntry), g { t with pool := p } = g t) (s : State) (c e : Nat)
    (f : PoolEntry → PoolEntry) : g ((s.modEntry c e f).trow c) = g (s.trow c) := by
  obtain ⟨p, hp, -⟩ := s.modEntry_trow c e f
  rw [hp, hg]

theorem State.modEntry_pool (s : State) (c e : Nat) (f : PoolEntry → PoolEntry) (k : Nat) :
    ((s.modEntry c e f).trow c).pool.find? k = if k = e then ((s.trow c).pool.find? e).map f else (s.trow c).pool.find? k := by
  obtain ⟨p, hp, hk⟩ := s.modEntry_trow c e f
  rw [hp]
  exact hk k

@[simp] theorem State.modEntry_mem (s : State) (c e : Nat) (f : PoolEntry → PoolEntry) : (s.modEntry c e f).mem = s.mem := rfl
@[simp] theorem State.modEntry_now (s : State) (c e : Nat) (f : PoolEntry → PoolEntry) : (s.modEntry c e f).now = s.now := rfl

/-- Tasks that go from one state to another change the pool alone. -/
theorem State.moveTasks_keeps {α : Type} (g : Trowel → α) (hg : ∀ (t : Trowel) (p : Map PoolEntry), g { t with pool := p } = g t) (s : State) (c : Nat)
    (p : Pass) (n : Nat) (old new : Fin 6) : g ((s.moveTasks c p n old new).trow c) = g (s.trow c) :=
  State.foldl_keeps (fun t : State => g (t.trow c)) (fun t _ => t.modEntry_keeps g hg c _ _) _ s

theorem State.moveTasks_mem (s : State) (c : Nat) (p : Pass) (n : Nat) (old new : Fin 6) : (s.moveTasks c p n old new).mem = s.mem := by
  refine State.foldl_keeps State.mem (fun _ _ => ?_) _ s
  exact State.modEntry_mem _ _ _ _

/-! #### Passes -/

/-- A change of one pass is found under its number. -/
theorem State.modPass_passOf (s : State) (c : Nat) (no : BitVec 32) {f : Pass → Pass} (hf : ∀ p, (f p).no = p.no) :
    ((s.modPass c no f).trow c).passOf no = ((s.trow c).passOf no).map f := by
  have hno (p : Pass) : (if p.no = no then f p else p).no = p.no := by split <;> simp [hf]
  have hcomp : ((fun p : Pass => decide (p.no = no)) ∘ fun p => if p.no = no then f p else p) = fun p => decide (p.no = no) :=
    funext fun p => by simp only [Function.comp, hno]
  simp only [State.modPass, State.modTrow_trow, Trowel.passOf, Option.toList_map, ← List.map_append, List.find?_map, hcomp]
  refine Option.map_congr fun p hp => ?_
  have h := List.find?_some hp
  rw [if_pos (by simpa using h)]

end

/-! ### `TASK`, `TASKWAIT`, `TASKST` (11 R322 to R325) -/

section
variable {o : OpTask} {s : State} {e a d : Nat}

/-- The pool entry that a `TASK` takes (13 R357). -/
def State.taskEntry (s : State) (o : OpTask) (a d : Nat) : PoolEntry :=
  let j := s.job
  let p := s.sget o.p
  { state := 1, job := s.cur.job, vf := j.vf, part := j.part, ctx := j.ctx, cc := j.cc, slot := o.slot, mdom := s.mdomOf j.part
    jobNo := j.jobNo, flight := s.nextId, rows := paramRows p, shape := paramShape p, wid := paramWid p, hash := o.hash, addr := a, dests := d
    issue := s.now, deadline := s.now + paramPat p, fmode := 0, flags := 0, cause := 0, performed := 0, issued := 0 }

/-- A slot that holds no task, or one that has ended, is not busy. -/
theorem slotBusy_eq_false {n : Nat} (h : n = 0 ∨ 4 ≤ n) : (decide (1 ≤ n) && decide (n ≤ 3)) = false := by
  simp only [Bool.and_eq_false_iff, decide_eq_false_iff_not]
  omega

/-- A `TASK` that passes its checks, with its slot and a pool entry free, takes both. -/
theorem taskBody_eq (u : Use) (hs : s.settleEpilogues s.job.coreKey = s) (hx : (s.job.slots[o.slot]).state.val = 0 ∨ 4 ≤ (s.job.slots[o.slot]).state.val)
    (hl : s.core.isLoading s.cur.job o.hash = false) (he : s.core.trowel.freeEntry = some e) (hc : s.taskCheck o = .ok (a, d)) :
    taskBody o u s = .fly ((s.enterPool o u e a d).modSt (fun t => { t with checked := false })) := by
  simp only [taskBody, hs, slotBusy_eq_false hx, hl, he, hc, Check.andThen, Bool.false_eq_true, if_false]

/-- The state with a task in its slot and in the pool. -/
theorem State.enterPool_fields (h : (s.jobs.find? s.cur.job).isSome = true) (o : OpTask) (u : Use) (e a d : Nat) :
    let t := s.enterPool o u e a d
    t.cur = s.cur ∧ t.flights = (s.fly o.c u (.task o.slot e) []).flights ∧ (t.jobs.find? s.cur.job).isSome = true ∧
      (t.jobOf s.cur.job).slots = s.job.slots.set o.slot ⟨1, 0, 0⟩ ∧ (t.trow s.job.coreKey).pool.find? e = some (s.taskEntry o a d) ∧
      ⟨s.now + paramPat (s.sget o.p), .event .taskDeadline { a := s.job.coreKey, b := e }⟩ ∈ t.agenda := by
  refine ⟨?_, ?_, ?_, ?_, ?_, ?_⟩
  · simp [State.enterPool, State.modTrow, State.setSlot, State.nameEpilogue]
  · simp [State.enterPool, State.modTrow, State.setSlot, State.nameEpilogue]
  · simpa [State.enterPool, State.modTrow, State.setSlot, State.nameEpilogue] using h
  · simp only [State.enterPool, State.ensure_jobOf, State.post_jobOf, State.modTrow, State.modCore_jobOf, State.setSlot]
    rw [State.jobOf_modJob_self _ _ (by simpa [State.nameEpilogue] using h)]
    simp [State.nameEpilogue, State.job]
  · simp only [State.enterPool, State.ensure_trow, State.post_trow, State.modTrow_trow]
    exact Map.find?_set_self _ _ _
  · have hb : State.Beside _ (s.enterPool o u e a d) := .ensure _ 1 .passForm { a := s.job.coreKey }
    refine hb.agenda _ ?_
    simp [State.post, State.modTrow, State.setSlot, State.nameEpilogue, State.fly, State.newId]

theorem execTask_enters (h : s.Issues o.c [.s o.a, .s o.b, .s o.p] (irrev := true)) (hs : s.settleEpilogues s.job.coreKey = s)
    (hx : (s.job.slots[o.slot]).state.val = 0 ∨ 4 ≤ (s.job.slots[o.slot]).state.val) (hl : s.core.isLoading s.cur.job o.hash = false)
    (he : s.core.trowel.freeEntry = some e) (hc : s.taskCheck o = .ok (a, d)) :
    ∃ t f, execTask o s = .next t ∧ t.flights.find? s.nextId = some f ∧ f.ref = s.cur ∧ f.sig = o.c.sig ∧ f.work = .task o.slot e ∧
      (t.jobOf s.cur.job).slots[o.slot] = ⟨1, 0, 0⟩ ∧ (t.trow s.job.coreKey).pool.find? e = some (s.taskEntry o a d) ∧
      ⟨s.now + paramPat (s.sget o.p), .event .taskDeadline { a := s.job.coreKey, b := e }⟩ ∈ t.agenda := by
  obtain ⟨hcur, hfl, hlist, hslots, hpool, hag⟩ := State.enterPool_fields h.listed o (taskUse o) e a d
  obtain ⟨t, ht, hm, hagenda⟩ := command_fly_agenda (u := taskUse o) h (taskBody_eq (taskUse o) hs hx hl he hc)
    ((State.modJob_cur _ _ _).trans hcur)
  refine ⟨t, ⟨s.cur, s.st.visit, o.c.sig, [], [], none, 0, s.st.cmdStart, 0x170, s.st.num, .task o.slot e⟩, ht, ?_, rfl, rfl, rfl, ?_, ?_, ?_⟩
  · rw [hm.flights, State.modSt_flights, hfl]
    exact Map.find?_set_self _ _ _
  · have hj : (t.jobOf s.cur.job).slots = s.job.slots.set o.slot ⟨1, 0, 0⟩ := by
      rw [hm.frame.job_field Job.slots fun _ => rfl, ← hslots]
      exact State.jobOf_modJob_keep Job.slots _ (fun j => by cases (s.enterPool o (taskUse o) e a d).cur.letter <;> rfl) _
    rw [hj]
    simp
  · rw [State.trow_congr hm.frame.cores]
    exact (congrArg (fun t : Trowel => t.pool.find? e) (State.modJob_trow _ _ _ _)).trans hpool
  · exact hagenda _ (by simpa using hag)

end

/-- The copies of the job's context are gone from its core (03 R105). -/
theorem State.acquireRows_copies (s : State) : ∀ c ∈ (s.acquireRows.coreOf s.job.coreKey).copies, c.ctx ≠ s.job.ctx := by
  intro c hc
  rw [State.acquireRows, State.dropCopies, State.coreOf_modCore_self] at hc
  simpa using (List.mem_filter.mp hc).2

/-! ### Passes that form (13 R360, R361) -/

section
variable {s : State} {c : Nat}

theorem Map.isSome_find?_of_mem {α : Type} {m : Map α} {e : Nat × α} (h : e ∈ m) : (Map.find? m e.1).isSome = true := by
  induction m with
  | nil => cases h
  | cons x m ih =>
    unfold Map.find?
    split
    · rfl
    next hne =>
      rcases List.mem_cons.mp h with rfl | h
      · exact absurd rfl hne
      · exact ih h

theorem mem_insertTask {l : List (Nat × PoolEntry)} {x y : Nat × PoolEntry} (h : y ∈ insertTask l x) : y = x ∨ y ∈ l := by
  induction l with
  | nil => exact .inl (List.mem_singleton.mp h)
  | cons z l ih =>
    unfold insertTask at h
    split at h
    · exact List.mem_cons.mp h
    · rcases List.mem_cons.mp h with rfl | h
      · exact .inr List.mem_cons_self
      · exact (ih h).imp_right (List.mem_cons_of_mem _)

theorem mem_takeTasks {lim : Nat} {l : List (Nat × PoolEntry)} {y : Nat × PoolEntry} : ∀ {n : Nat}, y ∈ takeTasks lim n l → y ∈ l := by
  induction l with
  | nil => exact fun h => h
  | cons z l ih =>
    intro n h
    unfold takeTasks at h
    split at h
    · rcases List.mem_cons.mp h with rfl | h
      · exact List.mem_cons_self
      · exact List.mem_cons_of_mem _ (ih h)
    · exact List.mem_cons_of_mem _ (ih h)

/-- The tasks of a group are pooled. -/
theorem Trowel.mem_pool_of_group {t : Trowel} {x : PoolEntry} {y : Nat × PoolEntry} (h : y ∈ t.group x) : y ∈ t.pool := by
  have hsub : ∀ (l r : List (Nat × PoolEntry)), y ∈ l.foldl insertTask r → y ∈ l ∨ y ∈ r := by
    intro l
    induction l with
    | nil => exact fun _ h => .inr h
    | cons z l ih =>
      intro r h
      rcases ih _ h with h | h
      · exact .inl (List.mem_cons_of_mem _ h)
      · exact (mem_insertTask h).imp_left fun h => List.mem_cons.mpr (.inl h)
  have h := (hsub _ _ h).resolve_right List.not_mem_nil
  exact (List.mem_filter.mp (List.mem_filter.mp h).1).1

/-- The state in which a pass has taken task `y` (13 R361). -/
def State.takeTask (s : State) (c : Nat) (y : Nat × PoolEntry) : State :=
  (s.modEntry c y.1 (fun z => { z with state := 2, fmode := (s.jobOf z.job).fmode })).setSlot y.2.job y.2.slot ⟨2, 0, 0⟩

theorem State.takeTask_pool (s : State) (c : Nat) (y : Nat × PoolEntry) (k : Nat) : ((s.takeTask c y).trow c).pool.find? k =
    if k = y.1 then ((s.trow c).pool.find? y.1).map (fun z => { z with state := 2, fmode := (s.jobOf z.job).fmode }) else (s.trow c).pool.find? k :=
  (congrArg (fun t : Trowel => t.pool.find? k) (State.setSlot_trow _ _ _ _ _)).trans (s.modEntry_pool c y.1 _ k)

/-- Whether the pool's entry `k` is of a task that runs. -/
def State.taskRuns (s : State) (c k : Nat) : Prop := ∃ z, (s.trow c).pool.find? k = some z ∧ z.state = 2

theorem State.taskRuns_takeTask (s : State) {c k : Nat} (y : Nat × PoolEntry) (h : s.taskRuns c k ∨ k = y.1 ∧ ((s.trow c).pool.find? k).isSome = true) :
    (s.takeTask c y).taskRuns c k := by
  unfold State.taskRuns
  rw [State.takeTask_pool]
  by_cases hk : k = y.1
  · subst hk
    have hsome : ((s.trow c).pool.find? y.1).isSome = true := by
      rcases h with ⟨z, hz, -⟩ | ⟨-, h⟩
      · rw [hz]; rfl
      · exact h
    obtain ⟨z, hz⟩ := Option.isSome_iff_exists.mp hsome
    rw [if_pos rfl, hz]
    exact ⟨_, rfl, rfl⟩
  · rw [if_neg hk]
    exact h.resolve_right fun h => hk h.1

theorem State.isSome_takeTask (s : State) (c : Nat) (y : Nat × PoolEntry) (k : Nat) :
    (((s.takeTask c y).trow c).pool.find? k).isSome = ((s.trow c).pool.find? k).isSome := by
  rw [State.takeTask_pool]
  by_cases hk : k = y.1
  · rw [if_pos hk, Option.isSome_map, hk]
  · rw [if_neg hk]

/-- Every task that a pass takes runs. -/
theorem State.taskRuns_foldl (ts : List (Nat × PoolEntry)) : ∀ {s : State} {k : Nat},
    s.taskRuns c k ∨ (∃ y ∈ ts, k = y.1) ∧ ((s.trow c).pool.find? k).isSome = true → (ts.foldl (fun s y => s.takeTask c y) s).taskRuns c k := by
  induction ts with
  | nil =>
    rintro s k (h | ⟨⟨y, hy, -⟩, -⟩)
    · exact h
    · cases hy
  | cons x ts ih =>
    intro s k h
    refine ih ?_
    by_cases hx : k = x.1
    · exact .inl (s.taskRuns_takeTask x (h.imp_right fun h => ⟨hx, h.2⟩))
    · rcases h with h | ⟨⟨y, hy, hk⟩, hsome⟩
      · exact .inl (s.taskRuns_takeTask x (.inl h))
      · rcases List.mem_cons.mp hy with rfl | hy
        · exact absurd hk hx
        · exact .inr ⟨⟨y, hy, hk⟩, by rw [State.isSome_takeTask]; exact hsome⟩

/-- The pass of tasks `ts`, led by `x`, as it is formed. -/
def State.newPass (s : State) (c : Nat) (ts : List (Nat × PoolEntry)) (x : PoolEntry) : Pass :=
  { no := (s.trow c).passNo, tasks := ts.map (fun e => ⟨e.1, e.2.rows, e.2.flight⟩), shape := s.shapes.getD x.shape 0, wid := x.wid, hash := x.hash
    blocks := [], weights := (s.trow c).buffer.map Prod.fst = some x.wid, loaded := false, paid := false, row := 0, written := 0, inputs := []
    ran := false, copied := 0, chunks := 0, outs := [], scattered := 0 }

/-- The state in which pass `p` stands at the front and has asked for its blocks. -/
def State.passFormed (s : State) (c : Nat) (p : Pass) : State :=
  (s.modTrow c (fun t => { t with front := some p, passNo := t.passNo + 1, passes := t.passes + 1 })).sched 1 (.trowel c (.blocks p.no))

theorem State.passFormed_trow (s : State) (c : Nat) (p : Pass) :
    (s.passFormed c p).trow c = { s.trow c with front := some p, passNo := (s.trow c).passNo + 1, passes := (s.trow c).passes + 1 } := by
  rw [State.passFormed, State.sched_trow, State.modTrow_trow]

/-- A pass takes the front position, and asks for its blocks in the next cycle (13 R361, R362). -/
theorem State.formPass_forms (s : State) (c : Nat) (ts : List (Nat × PoolEntry)) (x : PoolEntry) :
    ((s.formPass c ts x).trow c).front = some (s.newPass c ts x) ∧ ((s.formPass c ts x).trow c).passNo = (s.trow c).passNo + 1 ∧
      ⟨s.now + 1, .trowel c (.blocks (s.trow c).passNo)⟩ ∈ (s.formPass c ts x).agenda ∧
      ((s.formPass c ts x).trow c).pool = ((ts.foldl (fun s y => s.takeTask c y) s).trow c).pool := by
  have htrow (g : Trowel → BitVec 32) (hg : ∀ (t : Trowel) (p : Map PoolEntry), g { t with pool := p } = g t) :
      g ((ts.foldl (fun s y => s.takeTask c y) s).trow c) = g (s.trow c) :=
    State.foldl_keeps (fun t : State => g (t.trow c))
      (fun t y => (congrArg g (State.setSlot_trow _ _ _ _ _)).trans (t.modEntry_keeps g hg c _ _)) _ _
  have hnow : (ts.foldl (fun s y => s.takeTask c y) s).now = s.now := State.foldl_keeps State.now (fun t y => by simp [State.takeTask, State.setSlot]) _ _
  have hno := htrow Trowel.passNo fun _ _ => rfl
  generalize hu : ts.foldl (fun s y => s.takeTask c y) s = u at hnow hno
  have hform : s.formPass c ts x = if (s.trow c).buffer.map Prod.fst = some x.wid then u.passFormed c (s.newPass c ts x)
      else (u.passFormed c (s.newPass c ts x)).later .weightBufferRead { a := c } := by
    rw [← hu]
    simp only [State.formPass]
    rfl
  have htrow := u.passFormed_trow c (s.newPass c ts x)
  have hmem : ⟨s.now + 1, .trowel c (.blocks (s.trow c).passNo)⟩ ∈ (u.passFormed c (s.newPass c ts x)).agenda := by
    rw [← hnow]
    exact List.mem_append_right _ List.mem_cons_self
  rw [hform, ← hno]
  split
  · rw [htrow]
    exact ⟨rfl, rfl, by rw [hno]; exact hmem, rfl⟩
  · rw [State.later_trow, htrow]
    exact ⟨rfl, rfl, by rw [hno]; exact List.mem_append_left _ hmem, rfl⟩

end

end Sys2Proof.Machine

namespace Sys2Proof.Machine

/-! ### The pass in the array (13 R363, R364) -/

section
variable {s u : State} {c n : Nat} {p : Pass}

/-- A charge is taken from the units of its core, not from its Trowel. -/
theorem State.pay_trow {charge : Nat} {spec : Bool} (h : s.pay c charge spec = some u) : u.trow n = s.trow n := by
  have hu := (Option.ite_none_right_eq_some.mp h).2
  rw [← Option.some.inj hu]
  exact s.modCore_trow c n fun _ => rfl

/-- What items that enter the array leave of its core. -/
theorem State.enterRows_keeps {α : Type} (g : Core → α) (hg : ∀ (x : Core) (l : List ArrRow), g { x with array := { x.array with rows := l } } = g x)
    (s : State) (c : Nat) (rs : List ArrRow) : g ((s.enterRows c rs).coreOf c) = g (s.coreOf c) := by
  unfold State.enterRows
  split
  · rfl
  next r rest =>
    have h : g ((s.modArray c (fun x => { x with rows := x.rows ++ r :: rest })).coreOf c) = g (s.coreOf c) := by
      rw [State.modArray_self]
      exact hg _ _
    dsimp only
    split
    · rw [State.ensure_coreOf]; exact h
    · exact h

theorem State.enterRows_trow (s : State) (c : Nat) (rs : List ArrRow) : (s.enterRows c rs).trow c = s.trow c :=
  State.enterRows_keeps Core.trowel (fun _ _ => rfl) s c rs

theorem State.beginLoad_front (s : State) (c start k : Nat) (who : Option Nat) (w : Weights) (i : ArrItem) :
    (s.beginLoad c start k who w i).trow c = s.trow c ∧ ((s.beginLoad c start k who w i).coreOf c).array.free = start + k := by
  unfold State.beginLoad
  refine ⟨(State.enterRows_trow _ _ _).trans (State.modArray_trow _ _ _ _), ?_⟩
  refine (State.enterRows_keeps (fun x => x.array.free) (fun _ _ => rfl) _ _ _).trans ?_
  rw [State.modArray_self]

/-- At the end of a term rows may be sent back, and nothing else of the front pass changes (11 R304). -/
theorem State.endTerm_front {α : Type} (g : Pass → α) (hg : ∀ (p : Pass) (n : Nat), g { p with row := n } = g p) (s : State) (c : Nat) :
    ((s.endTerm c).trow c).front.map g = (s.trow c).front.map g := by
  have hcut : ((s.cutRows c).trow c).front.map g = (s.trow c).front.map g := by
    refine (State.foldl_keeps (fun t : State => (t.trow c).front.map g) (fun t r => ?_) _ _).trans
      (congrArg (fun t : Trowel => t.front.map g) (State.modArray_trow _ _ _ _))
    dsimp only
    split
    · exact congrArg (fun t : Trowel => t.front.map g) (State.modJob_trow _ _ _ _)
    · simp only [State.trow, State.coreOf_modCore_self, Option.map_map]
      exact congrArg (Option.map · _) (funext fun p => hg p _)
    · rfl
  rw [← hcut]
  unfold State.endTerm
  dsimp only
  split <;> simp

/-- The weights of a pass begin to load once its charge is paid. -/
theorem execPassArrayTerm_loads (ha : s.args.a = c) (hh : (s.coreOf c).array.holder = some .trowel) (hp : (s.trow c).front = some p)
    (hf : (s.coreOf c).array.free ≤ s.now) (hl : p.loaded = false)
    (hu : s.pay c (shapeK p.shape * (s.trow c).weightEstimate p) false = some u) :
    ∃ t, execPassArrayTerm s = .next t ∧ (t.trow c).front = some { p with loaded := true } ∧ (t.coreOf c).array.free = s.now + shapeK p.shape := by
  subst ha
  refine ⟨_, by simp only [execPassArrayTerm, hh, hp, if_neg (Nat.not_lt.mpr hf), hl, Bool.not_false, if_true, hu]; rfl, ?_, ?_⟩
  · rw [State.ensure_trow, State.modFront_trow, (State.beginLoad_front _ _ _ _ _ _ _).1, State.pay_trow hu, hp]
    rfl
  · have hb := (State.beginLoad_front u s.args.a s.now (shapeK p.shape) none ⟨0, shapeCfg p.shape⟩ .passLoad).2
    rw [State.ensure_coreOf, State.modFront, State.modTrow, State.coreOf_modCore_self]
    exact hb

/-- Its rows enter once their charge is paid. -/
theorem execPassArrayTerm_enters (ha : s.args.a = c) (hh : (s.coreOf c).array.holder = some .trowel) (hp : (s.trow c).front = some p)
    (hf : (s.coreOf c).array.free ≤ s.now) (hl : p.loaded = true) (hd : p.paid = false)
    (hu : s.pay c (p.rows * s.passEstimate c p) false = some u) :
    ∃ t, execPassArrayTerm s = .next t ∧ (t.trow c).front = some { p with paid := true, row := p.rows } ∧
      (t.coreOf c).array.free = s.now + p.rows * passRate p.shape := by
  subst ha
  refine ⟨_, by simp only [execPassArrayTerm, hh, hp, if_neg (Nat.not_lt.mpr hf), hl, hd, Bool.not_true, Bool.not_false, Bool.false_eq_true, if_false,
    if_true, hu]; rfl, ?_, ?_⟩
  · rw [State.ensure_trow, State.modFront_trow, State.modArray_trow, State.sched_trow, State.enterRows_trow, State.pay_trow hu, hp]
    rfl
  · rw [State.ensure_coreOf, State.modFront, State.modTrow, State.coreOf_modCore_self, State.modArray_self]

/-- Once all its rows have entered the pass's term ends. -/
theorem execPassArrayTerm_ends (ha : s.args.a = c) (hh : (s.coreOf c).array.holder = some .trowel) (hp : (s.trow c).front = some p)
    (hf : (s.coreOf c).array.free ≤ s.now) (hl : p.loaded = true) (hd : p.paid = true) :
    ∃ t q, execPassArrayTerm s = .next t ∧ (t.trow c).front = some q ∧ q.ran = true ∧ (t.coreOf c).array.holder = none := by
  subst ha
  have hran := (s.modFront s.args.a (fun p => { p with ran := true })).endTerm_front Pass.ran (fun _ _ => rfl) s.args.a
  rw [State.modFront_trow, hp] at hran
  obtain ⟨q, hq, hr⟩ := Option.map_eq_some_iff.mp hran
  exact ⟨_, q, by simp only [execPassArrayTerm, hh, hp, if_neg (Nat.not_lt.mpr hf), hl, hd, Bool.not_true, Bool.false_eq_true, if_false], hq, hr,
    (State.endTerm_array _ _).1⟩

/-- A pass's weights are read into the buffer (13 R363). -/
theorem execWeightBufferRead_reads {w : Wid} (ha : s.args.a = c) (hp : (s.trow c).front = some p) (hw : s.wids.find? p.wid = some w)
    (hb : s.homeBad w.paddr (shapeK p.shape * shapeN p.shape * fmtBytes (shapeWfmt p.shape)) = false) :
    ∃ t, execWeightBufferRead s = .next t ∧
      (t.trow c).buffer = some (p.wid, s.homeRead w.paddr (shapeK p.shape * shapeN p.shape * fmtBytes (shapeWfmt p.shape))) ∧
      (t.trow c).front = some { p with weights := true } ∧ t.mem = s.mem := by
  subst ha
  refine ⟨_, by simp only [execWeightBufferRead, hp, hw, hb, Bool.false_eq_true, if_false]; rfl, ?_, ?_, ?_⟩
  · rw [State.askArray_trow, State.modTrow_trow]
  · rw [State.askArray_trow, State.modTrow_trow, hp]
    rfl
  · exact State.askArray_mem _ _

/-- A row's activations are read as it enters (13 R364). -/
theorem State.passEntry_reads {i : Nat} (hp : (s.trow c).front = some p) (hi : i < p.rows) :
    let t := s.trowelStep c (.entry p.no i)
    (t.trow c).front = some { p with inputs := p.inputs.set i (s.passInput c p i) } ∧ t.mem = s.mem ∧
      ⟨s.now + passRate p.shape, .trowel c (.entry p.no (i + 1))⟩ ∈ t.agenda := by
  intro t
  have ht : t = (s.modFront c (fun q => { q with inputs := q.inputs.set i (s.passInput c p i) })).sched (passRate p.shape)
      (.trowel c (.entry p.no (i + 1))) := by
    simp only [t, State.trowelStep, State.passEntry, hp]
    simp [Nat.not_le.mpr hi]
  rw [ht, State.sched_trow, State.modFront_trow, hp]
  exact ⟨rfl, rfl, List.mem_append_right _ List.mem_cons_self⟩

end

/-! ### Chunks (13 R368, R376) -/

section
variable {s : State} {c : Nat} {p : Pass}

/-- The state in which the next chunk of pass `p` stands in line for its epilogue, and its tasks with it. -/
def State.chunkCopied (s : State) (c : Nat) (p : Pass) (stop : Nat) : State :=
  let t := s.modTrow c (fun t => { t with chunks := t.chunks ++ [(s.coreOf c).chunkStart p p.copied] })
  State.moveTasks (if (s.trow c).chunks.isEmpty then t.sched 0 (.trowel c .next) else t) c p stop 2 3

theorem State.chunkCopied_keeps {α : Type} (g : Trowel → α) (hg : ∀ (t : Trowel) (q : Map PoolEntry), g { t with pool := q } = g t) (s : State) (c : Nat)
    (p : Pass) (stop : Nat) : g ((s.chunkCopied c p stop).trow c) =
      g { s.trow c with chunks := (s.trow c).chunks ++ [(s.coreOf c).chunkStart p p.copied] } := by
  unfold State.chunkCopied
  dsimp only
  rw [State.moveTasks_keeps g hg]
  split
  · rw [State.sched_trow, State.modTrow_trow]
  · rw [State.modTrow_trow]

/-- A chunk that is not the last. -/
theorem State.copyChunk_next (h1 : 256 * p.copied + 256 < p.rows) (h2 : 256 * p.copied + 256 ≤ p.written) : s.copyChunk c p =
    ((s.chunkCopied c p (256 * p.copied + 256)).modFront c (fun _ => { p with copied := p.copied + 1 })).ensure 1 .epilogueChunk { a := c } := by
  have hstop : Pass.chunkFirst p.copied + p.chunkRows p.copied = 256 * p.copied + 256 := by simp only [Pass.chunkFirst, Pass.chunkRows]; omega
  have hfirst : ¬p.rows ≤ Pass.chunkFirst p.copied := by simp only [Pass.chunkFirst]; omega
  simp only [State.copyChunk, hstop, hfirst, Nat.not_le.mpr h1, Nat.not_lt.mpr h2, decide_false, Bool.false_and, Bool.or_self, Bool.false_eq_true, if_false]
  rfl

/-- The last one, with the back position free. -/
theorem State.copyChunk_last (hb : (s.trow c).back = none) (h1 : 256 * p.copied < p.rows) (h2 : p.rows ≤ 256 * p.copied + 256) (h3 : p.rows ≤ p.written)
    (hr : p.ran = true) : s.copyChunk c p =
    ((((s.chunkCopied c p p.rows).releasePass c p).modTrow c (fun t => { t with
      front := none, back := some { p with copied := p.copied + 1, blocks := [] } })).ensure 1 .passForm { a := c }) := by
  have hstop : Pass.chunkFirst p.copied + p.chunkRows p.copied = p.rows := by simp only [Pass.chunkFirst, Pass.chunkRows]; omega
  have hfirst : ¬p.rows ≤ Pass.chunkFirst p.copied := by simp only [Pass.chunkFirst]; omega
  simp only [State.copyChunk, hstop, hfirst, hb, hr, Nat.not_lt.mpr h3, Nat.le_refl, decide_false, decide_true, Bool.not_true, Option.isSome_none,
    Bool.or_self, Bool.and_false, Bool.false_eq_true, if_false, if_true]
  rfl

theorem execEpilogueChunk_copies (ha : s.args.a = c) (hp : (s.trow c).front = some p) (h1 : 256 * p.copied + 256 < p.rows)
    (h2 : 256 * p.copied + 256 ≤ p.written) : ∃ t, execEpilogueChunk s = .next t ∧ (t.trow c).front = some { p with copied := p.copied + 1 } ∧
      (t.trow c).chunks = (s.trow c).chunks ++ [(s.coreOf c).chunkStart p p.copied] := by
  subst ha
  refine ⟨_, by simp only [execEpilogueChunk, hp, State.copyChunk_next h1 h2]; rfl, ?_, ?_⟩
  · rw [State.ensure_trow, State.modFront_trow]
    have hf := s.chunkCopied_keeps Trowel.front (fun _ _ => rfl) s.args.a p (256 * p.copied + 256)
    rw [hf, hp]
    rfl
  · rw [State.ensure_trow, State.modFront_trow]
    exact s.chunkCopied_keeps Trowel.chunks (fun _ _ => rfl) _ p _

theorem execPassBackPosition_moves (ha : s.args.a = c) (hp : (s.trow c).front = some p) (hb : (s.trow c).back = none) (h1 : 256 * p.copied < p.rows)
    (h2 : p.rows ≤ 256 * p.copied + 256) (h3 : p.rows ≤ p.written) (hr : p.ran = true) :
    ∃ t, execPassBackPosition s = .next t ∧ (t.trow c).front = none ∧ (t.trow c).back = some { p with copied := p.copied + 1, blocks := [] } ∧
      (t.trow c).chunks = (s.trow c).chunks ++ [(s.coreOf c).chunkStart p p.copied] := by
  subst ha
  refine ⟨_, by simp only [execPassBackPosition, hp, hb, Option.isNone_none, if_true, State.copyChunk_last hb h1 h2 h3 hr]; rfl, ?_⟩
  rw [State.ensure_trow, State.modTrow_trow, State.releasePass_trow]
  exact ⟨rfl, rfl, s.chunkCopied_keeps Trowel.chunks (fun _ _ => rfl) _ p _⟩

/-- The state in which the first chunk in line has left it. -/
def State.dropChunk (s : State) (c : Nat) : State :=
  (s.modTrow c (fun t => { t with chunks := t.chunks.tail })).ensure 0 .scatterCheck { a := c }

/-- The pass with the rows of one chunk more. -/
def Pass.withChunk (p : Pass) (rows : List (List Byte)) : Pass := { p with chunks := p.chunks + 1, outs := p.outs ++ rows }

/-- The end of a chunk: its rows are its pass's, tasks of the pass go on, and the chunk leaves the line. -/
theorem State.chunkDone_eq {k : Chunk} (hp : (s.trow c).passOf k.pass = some p) (rows : List (List Byte)) : s.chunkDone c k rows =
    let t := ((s.modPass c k.pass (·.withChunk rows)).moveTasks c (p.withChunk rows) (k.first + k.rows) 3 4).dropChunk c
    if (t.trow c).chunks.isEmpty then t else t.sched 0 (.trowel c .next) := by
  have hpass := s.modPass_passOf c k.pass (f := (·.withChunk rows)) fun _ => rfl
  rw [hp, Option.map_some] at hpass
  unfold Pass.withChunk at hpass ⊢
  simp only [State.chunkDone, hpass]
  rfl

theorem State.chunkDone_fields {k : Chunk} {r : List Chunk} (hk : (s.trow c).chunks = k :: r) (hp : (s.trow c).passOf k.pass = some p)
    (rows : List (List Byte)) : ((s.chunkDone c k rows).trow c).chunks = r ∧ (s.chunkDone c k rows).mem = s.mem ∧
      ((s.chunkDone c k rows).trow c).passOf k.pass = some (p.withChunk rows) := by
  generalize ht : ((s.modPass c k.pass (·.withChunk rows)).moveTasks c (p.withChunk rows) (k.first + k.rows) 3 4).dropChunk c = t
  have htrow : t.trow c = { (((s.modPass c k.pass (·.withChunk rows)).moveTasks c (p.withChunk rows) (k.first + k.rows) 3 4).trow c) with chunks := r } := by
    have hchunks : ((s.modPass c k.pass (·.withChunk rows)).trow c).chunks = k :: r := by
      rw [State.modPass, State.modTrow_trow]
      exact hk
    rw [← ht, State.dropChunk, State.ensure_trow, State.modTrow_trow, State.moveTasks_keeps Trowel.chunks fun _ _ => rfl, hchunks, List.tail_cons]
  have hmem : t.mem = s.mem := by
    rw [← ht, State.dropChunk, State.ensure_mem]
    exact State.moveTasks_mem _ _ _ _ _ _
  have hpass : (t.trow c).passOf k.pass = some (p.withChunk rows) := by
    rw [htrow]
    refine (State.moveTasks_keeps (Trowel.passOf · k.pass) (fun _ _ => rfl) _ _ _ _ _ _).trans ?_
    rw [State.modPass_passOf (f := (·.withChunk rows)) _ _ _ fun _ => rfl, hp]
    rfl
  have hline : (t.trow c).chunks = r := by rw [htrow]
  rw [State.chunkDone_eq hp rows, ht]
  dsimp only
  split
  · exact ⟨hline, hmem, hpass⟩
  · exact ⟨hline, hmem, hpass⟩

theorem State.trowelStep_next {k : Chunk} {r : List Chunk} (hk : (s.trow c).chunks = k :: r) (hp : (s.trow c).passOf k.pass = some p)
    (hw : k.words = []) : s.trowelStep c .next = s.chunkDone c k (k.outRows p) := by
  simp only [State.trowelStep, State.epiBegin, hk, hp, hw, List.isEmpty_nil, if_true]

end

/-! ### The scatter (13 R370, R371) -/

section
variable {s : State} {c b : Nat} {p : Pass} {k : PassTask} {e : PoolEntry}

/-- What the scatter's next cycle leaves of the Trowel. -/
theorem State.scatterOn_keeps {α : Type} (g : Trowel → α) (hg : ∀ (t : Trowel) (x y : Option Pass), g { t with front := x, back := y } = g t) (s : State)
    (c : Nat) (no : BitVec 32) (through : Bool) (d : Nat) :
    g ((s.scatterOn c no through d).trow c) = g { s.trow c with scatterAt := s.now + d } := by
  have hfree (t : State) : g ((t.freeBack c).trow c) = g (t.trow c) := by
    unfold State.freeBack
    dsimp only
    split
    · rfl
    · split
      · rfl
      · rw [State.ensure_trow, State.modTrow_trow]
        exact hg _ _ none
  rw [State.scatterOn, hfree, State.ensure_trow, State.modTrow_trow]
  split
  · rw [State.modPass, State.modTrow_trow]
    exact hg { s.trow c with scatterAt := s.now + d } _ _
  · rfl

theorem State.scatterOn_accesses (s : State) (c : Nat) (no : BitVec 32) (through : Bool) (d : Nat) : (s.scatterOn c no through d).accesses = s.accesses := by
  have hfree (t : State) : (t.freeBack c).accesses = t.accesses := by
    unfold State.freeBack
    dsimp only
    split
    · rfl
    · split
      · rfl
      · exact State.ensure_accesses _ _ _ _
  rw [State.scatterOn, hfree, State.ensure_accesses]
  split <;> rfl

/-- A task's row is asked for line by line. -/
theorem State.Sends.rowWrites (s : State) (e : PoolEntry) (j : Job) (i : Nat) (v : List Byte) : s.Sends (s.rowWrites e j i v) :=
  .foldl (fun _ _ => .request _ _ _ _ _ _ _ _ _ _ _ _ _) _ s

/-- The entry of a task of a pass. -/
theorem Trowel.find?_of_entryOf {t : Trowel} (h : t.entryOf k = some e) : t.pool.find? k.entry = some e := by
  unfold Trowel.entryOf at h
  split at h
  · cases h
  next x hx =>
    split at h
    · cases h
      exact hx
    · cases h

/-- A task of the pass parks: its entry and its slot say so (13 R371). -/
theorem State.parkTask_parks (cause : Nat) (no : BitVec 32) (bytes : List (List Byte)) (blocks : List Nat) (base : Nat)
    (hk : (s.trow c).entryOf k = some e) (he : e.state ≠ 5) :
    ((s.parkTask c k cause no bytes blocks base).trow c).pool.find? k.entry = some { e with state := 5, cause := cause } ∧
      (s.parkTask c k cause no bytes blocks base).accesses = s.accesses := by
  have hpool : ((s.modEntry c k.entry (fun e => { e with state := 5, cause := cause })).trow c).pool.find? k.entry = some { e with state := 5, cause := cause } := by
    rw [State.modEntry_pool, if_pos rfl, Trowel.find?_of_entryOf hk]
    rfl
  simp only [State.parkTask, hk, if_neg he]
  refine ⟨?_, ?_⟩
  · rw [State.send_trow]
    split
    · rw [State.wantAcs_trow, State.setSlot_trow, State.modTrow_trow]
      exact hpool
    · rw [State.setSlot_trow, State.modTrow_trow]
      exact hpool
  · rw [State.send_accesses]
    split
    · rw [State.wantAcs_accesses]
      exact State.modJob_accesses _ _ _
    · exact State.modJob_accesses _ _ _

/-- The scatter's cycle at a task whose last chunk is done: a row, or the task parks (13 R370). -/
theorem execScatterCheck_eq (ha : s.args.a = c) (hp : (s.trow c).scattering = some p) (ht : (s.trow c).scatterAt ≤ s.now)
    (hs : p.starts[p.scattered]? = some (k, b)) (hk : (s.trow c).entryOf k = some e) (he : e.state = 4) :
    execScatterCheck s = .next (
      let rows := (p.outs.drop b).take k.rows
      let cause := if e.issued = 0 then s.taskCause e (s.jobOf e.job) p.shape else 0
      if cause ≠ 0 then (s.parkTask c k cause p.no rows p.blocks b).scatterOn c p.no true 1
      else ((s.rowWrites e (s.jobOf e.job) e.issued (rows.getD e.issued [])).modEntry c k.entry (fun e => { e with issued := e.issued + 1 })).scatterOn
        c p.no (decide (k.rows ≤ e.issued + 1)) 1) := by
  subst ha
  have h5 : e.state ≠ 5 := by rw [he]; decide
  have h4 : ¬e.state ≠ 4 := not_not.mpr he
  simp only [execScatterCheck, hp, State.scatterNext, if_neg (Nat.not_lt.mpr ht), hs, hk, if_neg h5, if_neg h4]

theorem execScatterCheck_issues (ha : s.args.a = c) (hp : (s.trow c).scattering = some p) (ht : (s.trow c).scatterAt ≤ s.now)
    (hs : p.starts[p.scattered]? = some (k, b)) (hk : (s.trow c).entryOf k = some e) (he : e.state = 4)
    (hc : 0 < e.issued ∨ s.taskCause e (s.jobOf e.job) p.shape = 0) :
    ∃ t x, execScatterCheck s = .next t ∧ (t.trow c).pool.find? k.entry = some x ∧ x.issued = e.issued + 1 ∧ x.state = 4 ∧
      (t.trow c).scatterAt = s.now + 1 := by
  have hcause : (if e.issued = 0 then s.taskCause e (s.jobOf e.job) p.shape else 0) = 0 := by
    split
    next h0 => exact hc.resolve_left (by omega)
    next => rfl
  have hsend := State.Sends.rowWrites s e (s.jobOf e.job) e.issued (((p.outs.drop b).take k.rows).getD e.issued [])
  refine ⟨_, { e with issued := e.issued + 1 }, execScatterCheck_eq ha hp ht hs hk he, ?_⟩
  dsimp only
  rw [hcause, if_neg (not_not.mpr rfl)]
  generalize s.rowWrites e (s.jobOf e.job) e.issued (((p.outs.drop b).take k.rows).getD e.issued []) = u at hsend
  refine ⟨?_, rfl, he, ?_⟩
  · rw [State.scatterOn_keeps (fun t => t.pool.find? k.entry) fun _ _ _ => rfl]
    show ((u.modEntry c k.entry _).trow c).pool.find? k.entry = _
    rw [State.modEntry_pool, if_pos rfl, State.trow_congr hsend.cores, Trowel.find?_of_entryOf hk]
    rfl
  · rw [State.scatterOn_keeps Trowel.scatterAt fun _ _ _ => rfl]
    exact congrArg (· + 1) hsend.now

theorem execScatterCheck_parks (ha : s.args.a = c) (hp : (s.trow c).scattering = some p) (ht : (s.trow c).scatterAt ≤ s.now)
    (hs : p.starts[p.scattered]? = some (k, b)) (hk : (s.trow c).entryOf k = some e) (he : e.state = 4) (h0 : e.issued = 0)
    (hc : s.taskCause e (s.jobOf e.job) p.shape ≠ 0) :
    ∃ t x, execScatterCheck s = .next t ∧ (t.trow c).pool.find? k.entry = some x ∧ x.issued = 0 ∧ x.state = 5 ∧
      x.cause = s.taskCause e (s.jobOf e.job) p.shape ∧ t.accesses = s.accesses := by
  have h5 : e.state ≠ 5 := by rw [he]; decide
  obtain ⟨hpool, hacc⟩ := State.parkTask_parks (s.taskCause e (s.jobOf e.job) p.shape) p.no ((p.outs.drop b).take k.rows) p.blocks b hk h5
  refine ⟨_, { e with state := 5, cause := s.taskCause e (s.jobOf e.job) p.shape }, execScatterCheck_eq ha hp ht hs hk he, ?_, h0, rfl, rfl, ?_⟩
  · dsimp only
    rw [if_pos h0, if_pos hc, State.scatterOn_keeps (fun t => t.pool.find? k.entry) fun _ _ _ => rfl]
    exact hpool
  · dsimp only
    rw [if_pos h0, if_pos hc, State.scatterOn_accesses]
    exact hacc

end

/-! ### The end of a task (11 R324, 13 R366) -/

section
variable {s : State} {c n : Nat} {e : PoolEntry} {f : Flight}

/-- An entry that is freed is in the pool no more; jobs and flights stay. -/
theorem State.freeEntry_fields (s : State) (c n : Nat) : ((s.freeEntry c n).trow c).pool.find? n = none ∧ s.Beside (s.freeEntry c n) := by
  refine ⟨?_, ?_⟩
  · simp only [State.freeEntry, State.ensure_trow, State.freeParked_trow, State.dropAcsWait_trow, State.modTrow_trow]
    exact Map.find?_erase_self _ _
  · have hp (t : State) : t.Beside (t.freeParked c) := (State.Beside.modCore t _ _).trans (State.freeAcs_beside _ _ _)
    exact (((State.Beside.modCore s _ _).trans (.modCore _ _ _)).trans (hp _)).trans ((State.Beside.ensure _ _ _ _).trans (.ensure _ _ _ _))

/-- A task whose rows have all been performed is `DONE`: its slot says so, and its command completes. -/
theorem execTaskRowPerformed_done (ha : s.args.a = c) (hb : s.args.b = n) (hp : (s.trow c).pool.find? n = some e) (he : e.state = 4)
    (hi : e.issued = e.rows) (hacc : ∀ a ∈ s.accesses, a.2.flight ≠ e.flight) (hj : (s.jobs.find? e.job).isSome = true)
    (hf : s.flights.find? e.flight = some f) (hr : f.ref.job = e.job) :
    ∃ t, execTaskRowPerformed s = .next t ∧ (t.trow c).pool.find? n = none ∧ (t.jobOf e.job).slots[e.slot] = ⟨4, e.rows, 0⟩ ∧
      s.Completes e.flight f (f.flags ||| e.flags) t := by
  subst ha hb
  obtain ⟨hpool, hbeside⟩ := s.freeEntry_fields s.args.a s.args.b
  have hgo : (decide (e.state ≠ 4) || decide (e.issued ≠ e.rows) || s.accesses.any (fun a => decide (a.2.flight = e.flight))) = false := by
    have hany : s.accesses.any (fun a => decide (a.2.flight = e.flight)) = false := List.any_eq_false.mpr fun a h => by simpa using hacc a h
    rw [hany, he, hi]
    simp
  refine ⟨_, by simp only [execTaskRowPerformed, hp, hgo, Bool.false_eq_true, if_false]; rfl, ?_⟩
  have hu : ((s.freeEntry s.args.a s.args.b).setSlot e.job e.slot ⟨4, e.rows, 0⟩).flights.find? e.flight = some f := by
    rw [State.setSlot, State.modJob_flights, hbeside.flights, hf]
  have hul : (((s.freeEntry s.args.a s.args.b).setSlot e.job e.slot ⟨4, e.rows, 0⟩).jobs.find? f.ref.job).isSome = true := by
    rw [State.setSlot, State.isSome_modJob, hbeside.jobs, hr, hj]
  have huj : ((s.freeEntry s.args.a s.args.b).setSlot e.job e.slot ⟨4, e.rows, 0⟩).jobOf e.job =
      { s.jobOf e.job with slots := (s.jobOf e.job).slots.set e.slot ⟨4, e.rows, 0⟩ } := by
    rw [State.setSlot, State.jobOf_modJob_self _ _ (by rw [hbeside.jobs, hj]), hbeside.jobOf]
  refine ⟨?_, ?_, ?_⟩
  · rw [State.finish_trow, State.setSlot_trow, hpool]
  · have hs := (State.finish_frame e.flags hu).job_field Job.slots fun _ => rfl
    rw [hr, huj] at hs
    rw [hs]
    simp
  · exact (State.finish_completes e.flags hu hul).of_late (by rw [hr, huj])

end

/-- Settles O43: each clause is the lemma above it about its command or event. -/
theorem sharedPasses : Obligations.SharedPasses := by
  unfold Obligations.SharedPasses
  refine ⟨?task, ?wait, fun s => ⟨s.acquireRows_copies, rfl, rfl⟩, ?status, ?deadline, ?form, fun s c p w ha hp hw hb => execWeightBufferRead_reads ha hp hw hb,
    ?term, fun s c i p hp hi => State.passEntry_reads hp hi, fun s c p ha hp h1 h2 => execEpilogueChunk_copies ha hp h1 h2,
    fun s c p ha hp hb h1 h2 h3 hr => execPassBackPosition_moves ha hp hb h1 h2 h3 hr, ?done, ?scatter,
    fun s c n e f ha hb hp he hi hacc hj hf hr => execTaskRowPerformed_done ha hb hp he hi hacc hj hf hr⟩
  case task =>
    intro o s e a d h hs hx hl he hc p
    obtain ⟨t, f, ht, hf, href, hsig, hw, hslot, hpool, hag⟩ := execTask_enters h hs hx hl he hc
    exact ⟨t, f, _, ht, hf, href, hsig, hw, hslot, hpool, rfl, rfl, rfl, rfl, congrArg (· % 2 ^ 24) (Nat.div_one _), rfl, rfl, rfl, rfl, rfl, hag⟩
  case wait =>
    intro o s h
    refine ⟨fun hx => ?_, fun h1 h3 => ?_⟩
    · exact command_done (u := { opc := 0x171 }) h rfl (by simp only [slotBusy_eq_false hx, Bool.false_eq_true, if_false]) rfl h.listed
    · rw [show exec (.taskwait o) s = execTaskwait o s from rfl, execTaskwait, command_next (u := { opc := 0x171 }) h]
      simp only [h1, h3, decide_true, Bool.and_self, if_true]
      rfl
  case status =>
    intro o s h x e
    have he : e.cur = s.cur ∧ e.jobs = s.jobs := by
      simp only [e]
      split <;> exact ⟨rfl, rfl⟩
    exact command_done (u := { opc := 0x172, regs := [.s o.d] }) h rfl rfl ((State.sput_cur _ _ _).trans he.1)
      (by rw [State.sput_isSome, he.2]; exact h.listed)
  case deadline =>
    intro s c e x ha hb hx h1 hd
    subst ha hb
    obtain ⟨n, hn, hmem⟩ := s.mem_ensure 0 .passForm { a := s.args.a }
    refine ⟨s.ensure 0 .passForm { a := s.args.a }, n, ?_, hn, hmem, State.ensure_cores _ _ _ _⟩
    show execTaskDeadline s = _
    simp only [execTaskDeadline, hx, h1, hd, decide_true, Bool.and_self, if_true]
  case form =>
    intro s c e ha hf hl g ts
    subst ha
    obtain ⟨hfront, hno, hag, hpool⟩ := s.formPass_forms s.args.a ts e.2
    refine ⟨s.formPass s.args.a ts e.2, _, ?_, hfront, rfl, hno, rfl, rfl, rfl, hag, fun y hy => ?_⟩
    · show execPassForm s = _
      simp only [execPassForm, hf, hl, Option.isSome_none, Bool.false_eq_true, if_false]
      rfl
    · rw [hpool]
      exact State.taskRuns_foldl ts (.inr ⟨⟨y, hy, rfl⟩, Map.isSome_find?_of_mem (Trowel.mem_pool_of_group (mem_takeTasks hy))⟩)
  case term =>
    intro s c p ha hh hp hf
    exact ⟨fun u hl hu => execPassArrayTerm_loads ha hh hp hf hl hu, fun u hl hd hu => execPassArrayTerm_enters ha hh hp hf hl hd hu,
      fun hl hd => execPassArrayTerm_ends ha hh hp hf hl hd⟩
  case done =>
    intro s c p k r hk hp hw t
    obtain ⟨hchunks, hmem, hpass⟩ := State.chunkDone_fields hk hp (k.outRows p)
    rw [← State.trowelStep_next hk hp hw] at hchunks hmem hpass
    exact ⟨hchunks, hmem, _, hpass, rfl⟩
  case scatter =>
    intro s c b p k e ha hp ht hs hk he cause
    exact ⟨execScatterCheck_issues ha hp ht hs hk he, execScatterCheck_parks ha hp ht hs hk he⟩

end Sys2Proof.Machine

namespace Sys2Proof.Machine

/-! ### Sampler contexts (12 R335) -/

section
variable (s : State) (d x : Nat) (f : SCtx → SCtx)

@[simp] theorem State.sctxOf_modSctx_self : (s.modSctx d x f).sctxOf d x = f (s.sctxOf d x) := by
  simp [State.sctxOf, State.modSctx]

theorem State.sctxOf_modSctx_ne {e y : Nat} (h : ¬(e = d ∧ y = x)) : (s.modSctx d x f).sctxOf e y = s.sctxOf e y := by
  unfold State.sctxOf State.modSctx
  by_cases he : e = d
  · subst he
    rw [State.dieOf_modDie_self]
    exact Map.getD_set_ne _ _ _ fun hy => h ⟨rfl, hy⟩
  · rw [State.dieOf_modDie_ne _ _ he]

theorem State.sctxOf_congr {s t : State} (h : t.dies = s.dies) (d x : Nat) : t.sctxOf d x = s.sctxOf d x := by
  rw [State.sctxOf, State.dieOf, h, State.sctxOf, State.dieOf]

/-- A change of a die that leaves its contexts. -/
theorem State.sctxOf_modDie {g : Die → Die} (hg : ∀ y, (g y).sampler.ctxs = y.sampler.ctxs) (e y : Nat) : (s.modDie d g).sctxOf e y = s.sctxOf e y := by
  unfold State.sctxOf
  by_cases he : e = d
  · subst he
    rw [State.dieOf_modDie_self, hg]
  · rw [State.dieOf_modDie_ne _ _ he]

@[simp] theorem State.modSctx_mem : (s.modSctx d x f).mem = s.mem := rfl
@[simp] theorem State.modSctx_migrations : (s.modSctx d x f).migrations = s.migrations := rfl

@[simp] theorem State.modSctx_lanes (e : Nat) : ((s.modSctx d x f).dieOf e).sampler.lanes = (s.dieOf e).sampler.lanes := by
  unfold State.modSctx
  by_cases he : e = d
  · subst he
    rw [State.dieOf_modDie_self]
  · rw [State.dieOf_modDie_ne _ _ he]

theorem State.SameButContexts.modSctx : s.SameButContexts (s.modSctx d x f) := by
  refine ⟨fun e => ?_, rfl⟩
  rw [State.modSctx]
  by_cases he : e = d
  · subst he
    rw [State.dieOf_modDie_self]
  · rw [State.dieOf_modDie_ne _ _ he]

/-! #### The agenda and lanes -/

theorem State.SameButContexts.post {s t : State} (h : s.SameButContexts t) (n : Nat) (i : Instr) (g : Args) : s.SameButContexts (t.post n i g) := ⟨h.dies, h.rest⟩
theorem State.SameButContexts.laneAt {s t : State} (h : s.SameButContexts t) (d x n : Nat) : s.SameButContexts (t.laneAt d x n) := ⟨h.dies, h.rest⟩

@[simp] theorem State.post_sctxOf (n : Nat) (i : Instr) (g : Args) (e y : Nat) : (s.post n i g).sctxOf e y = s.sctxOf e y := rfl
@[simp] theorem State.unpost_sctxOf (p : Move → Bool) (e y : Nat) : (s.unpost p).sctxOf e y = s.sctxOf e y := rfl
@[simp] theorem State.laneAt_sctxOf (n e y : Nat) : (s.laneAt d x n).sctxOf e y = s.sctxOf e y := rfl
@[simp] theorem State.laneAt_dieOf (n e : Nat) : (s.laneAt d x n).dieOf e = s.dieOf e := rfl

@[simp] theorem State.ensure_sctxOf (n : Nat) (i : Instr) (g : Args) (e y : Nat) : (s.ensure n i g).sctxOf e y = s.sctxOf e y :=
  (State.Beside.ensure s n i g).field (State.sctxOf · e y) fun _ => rfl

@[simp] theorem State.freeLane_sctxOf (e y : Nat) : (s.freeLane d x).sctxOf e y = s.sctxOf e y := by
  rw [State.freeLane, State.ensure_sctxOf, State.unpost_sctxOf]
  exact State.sctxOf_modDie s d (fun _ => by rfl) e y

theorem State.not_mem_freeLane : x ∉ ((s.freeLane d x).dieOf d).sampler.lanes := by
  unfold State.freeLane
  rw [State.dieOf, State.ensure_dies, ← State.dieOf, State.unpost_dieOf, State.dieOf_modDie_self]
  simp

@[simp] theorem State.freeLane_mem : (s.freeLane d x).mem = s.mem := by
  simp [State.freeLane]

@[simp] theorem State.freeLane_migrations : (s.freeLane d x).migrations = s.migrations :=
  (State.Beside.ensure _ _ _ _).field State.migrations fun _ => rfl

/-! #### Stops (12 R354) -/

/-- What tokens on their way to a detokeniser engine leave: all but its queue, the agenda and the count of free values. -/
theorem State.toDetok_keeps {α : Type} (g : State → α) (hq : ∀ (s : State) q, g { s with detokQ := q } = g s) (hl : ∀ (s : State) i a, g (s.later i a) = g s)
    (s : State) (e : Nat) (l : List DetokItem) : g (s.toDetok e l) = g s := by
  unfold State.toDetok
  split
  · rfl
  · exact (State.foldl_keeps g (fun t _ => hl t _ _) l _).trans (hq _ _)

@[simp] theorem State.toDetok_dies (e : Nat) (l : List DetokItem) : (s.toDetok e l).dies = s.dies :=
  State.toDetok_keeps State.dies (fun _ _ => rfl) (fun _ _ _ => rfl) s e l
@[simp] theorem State.toDetok_mem (e : Nat) (l : List DetokItem) : (s.toDetok e l).mem = s.mem :=
  State.toDetok_keeps State.mem (fun _ _ => rfl) (fun _ _ _ => rfl) s e l
@[simp] theorem State.toDetok_migrations (e : Nat) (l : List DetokItem) : (s.toDetok e l).migrations = s.migrations :=
  State.toDetok_keeps State.migrations (fun _ _ => rfl) (fun _ _ _ => rfl) s e l

/-- A context as its stop leaves it. -/
def SCtx.stopped (c : SCtx) (code : Nat) : SCtx := { c with state := .stopped, stop := some (code, c.pc, c.step), wait := none }

/-- A stopped context keeps its code, word index and STEP; its lane is free. -/
theorem State.stopCtx_fields (code : Nat) :
    (s.stopCtx d x code).sctxOf d x = (s.sctxOf d x).stopped code ∧ x ∉ ((s.stopCtx d x code).dieOf d).sampler.lanes ∧ (s.stopCtx d x code).mem = s.mem := by
  let u := (s.modSctx d x (SCtx.stopped · code)).freeLane d x
  have hu : u.sctxOf d x = (s.sctxOf d x).stopped code ∧ x ∉ (u.dieOf d).sampler.lanes ∧ u.mem = s.mem := by
    refine ⟨?_, State.not_mem_freeLane _ _ _, ?_⟩
    · rw [State.freeLane_sctxOf, State.sctxOf_modSctx_self]
    · rw [State.freeLane_mem, State.modSctx_mem]
  unfold State.stopCtx
  dsimp only
  split
  · exact hu
  next k r _ =>
    have hd (e : Nat) : (u.toDetok r.detok [.stop k code]).dieOf e = u.dieOf e := by rw [State.dieOf, State.toDetok_dies, State.dieOf]
    have hm := u.toDetok_mem r.detok [.stop k code]
    rw [State.sctxOf, ← hd d, ← State.sctxOf, ← hm] at hu
    exact hu

end

/-! ### The words of a lane (12 R344, R345) -/

section
variable {s : State} {f : SCtx → SAct} {c : SCtx} {n code : Nat}

theorem State.LaneStops.stopCtx (s : State) (code : Nat) : s.LaneStops (s.stopCtx s.lane.1 s.lane.2 code) code := by
  obtain ⟨hc, hl, hm⟩ := s.stopCtx_fields s.lane.1 s.lane.2 code
  exact ⟨by rw [hc]; rfl, by rw [hc]; rfl, hl, hm⟩

/-- A word that goes well leaves the context that it answers, and the lane's next word is due after its cycles. -/
theorem State.LaneRuns.sword_does (h : s.LaneRuns) (hf : f s.word = .ok c n) : s.LaneDoes (s.sword f) c n := by
  unfold State.sword
  dsimp only
  rw [if_neg (not_not.mpr h.running), if_neg (Nat.not_le.mpr h.left)]
  split
  next hw => cases hf.symm.trans hw
  next hw =>
    cases hf.symm.trans hw
    exact ⟨s.sctxOf_modSctx_self s.lane.1 s.lane.2 fun _ => c, fun d x hx => s.sctxOf_modSctx_ne s.lane.1 s.lane.2 (fun _ => c) hx, rfl,
      .laneAt (.modSctx s s.lane.1 s.lane.2 fun _ => c) s.lane.1 s.lane.2 n⟩

theorem State.LaneRuns.sword_stops (h : s.LaneRuns) (hf : f s.word = .stop code) : s.LaneStops (s.sword f) code := by
  unfold State.sword
  dsimp only
  rw [if_neg (not_not.mpr h.running), if_neg (Nat.not_le.mpr h.left)]
  split
  next hw =>
    cases hf.symm.trans hw
    exact .stopCtx s code
  next hw => cases hf.symm.trans hw

theorem State.LaneRuns.does (h : s.LaneRuns) (hf : f s.word = .ok c n) : ∃ t, sampler f s = .next t ∧ s.LaneDoes t c n :=
  ⟨_, rfl, h.sword_does hf⟩

theorem State.LaneRuns.stops (h : s.LaneRuns) (hf : f s.word = .stop code) : ∃ t, sampler f s = .next t ∧ s.LaneStops t code :=
  ⟨_, rfl, h.sword_stops hf⟩

/-- A step has at most 65,536 words (12 R345). -/
theorem sampler_stops_at_limit (hr : s.sctx.state = .running) (hc : 65536 ≤ s.sctx.count) : ∃ t, sampler f s = .next t ∧ s.LaneStops t 67 := by
  refine ⟨_, rfl, ?_⟩
  have hs : s.sword f = s.stopCtx s.lane.1 s.lane.2 67 := by
    rw [State.sword, if_neg (not_not.mpr hr), if_pos hc, codeSteps]
  rw [hs]
  exact .stopCtx s 67

end

/-! ### Registers, conditions and jumps (12 R343, R345) -/

theorem SCtx.kget_zero (c : SCtx) : c.kget 0 = 0 := if_pos rfl

theorem SCtx.kput_zero (c : SCtx) (v : Word) : c.kput 0 v = c := if_pos rfl

theorem SCtx.kget_kput_self (c : SCtx) {n : KReg} (v : Word) (h : n ≠ 0) : (c.kput n v).kget n = v := by
  rw [SCtx.kget, if_neg h, SCtx.kput, if_neg h]
  exact Vector.getElem_set_self ..

theorem SCtx.scmpHolds_iff (c : SCtx) (cc : Fin 8) (a b : KReg) : c.scmpHolds cc a b = true ↔ scmpSays cc (c.kget a) (c.kget b) := by
  unfold SCtx.scmpHolds scmpSays
  split
  · exact beq_iff_eq
  · exact bne_iff_ne
  · exact BitVec.slt_iff_toInt_lt
  · exact BitVec.sle_iff_toInt_le
  · exact BitVec.ult_iff_toNat_lt
  · exact Iff.rfl
  · exact Iff.rfl
  · exact Iff.rfl

theorem SCtx.jump_false (c : SCtx) (off : BitVec 22) : c.jump false off = .ok c 1 := rfl

theorem SCtx.jump_within {c : SCtx} {off : BitVec 22} (h0 : 0 ≤ (c.pc : Int) - 1 + off.toInt) (h1 : (c.pc : Int) - 1 + off.toInt < 16384) :
    c.jump true off = .ok { c with pc := ((c.pc : Int) - 1 + off.toInt).toNat } 1 := by
  have hg : (decide ((c.pc : Int) - 1 + off.toInt < 0) || decide ((16384 : Int) ≤ (c.pc : Int) - 1 + off.toInt)) = false := by
    simp only [Bool.or_eq_false_iff, decide_eq_false_iff_not]
    omega
  simp only [SCtx.jump, Bool.not_true, Bool.false_eq_true, if_false, hg]

theorem SCtx.jump_outside {c : SCtx} {off : BitVec 22} (h : (c.pc : Int) - 1 + off.toInt < 0 ∨ 16384 ≤ (c.pc : Int) - 1 + off.toInt) :
    c.jump true off = .stop 65 := by
  have hg : (decide ((c.pc : Int) - 1 + off.toInt < 0) || decide ((16384 : Int) ≤ (c.pc : Int) - 1 + off.toInt)) = true := by
    simpa only [Bool.or_eq_true, decide_eq_true_eq] using h
  simp only [SCtx.jump, Bool.not_true, Bool.false_eq_true, if_false, hg, if_true]
  rfl

/-- The place of the word itself, from which a jump counts. -/
theorem State.word_pc (s : State) : (s.word.pc : Int) - 1 = s.sctx.pc := Int.add_sub_cancel (s.sctx.pc : Int) 1

/-! ### Uniform draws (12 R342) -/

theorem cmpMag_alignTo (a : Nat) {e q : Int} (h : q ≤ e) : cmpMag (alignTo a e q) q a e = .eq := by
  unfold cmpMag
  rw [min_eq_left h]
  simp [alignTo]

/-- A significand of 24 bits has a code in FP32 wherever its exponent is that of a normal value. -/
theorem packMag_f32 {m : Nat} {e : Int} (hlo : 2 ^ 23 ≤ m) (hhi : m < 2 ^ 24) (h1 : -149 ≤ e) (h2 : e ≤ 104) :
    ∃ code, packMag (floatFmt 7) m e = some code := by
  have hlog : Nat.log2 m = 23 := (Nat.log2_eq_iff (by omega)).mpr ⟨hlo, hhi⟩
  have hcode : (((23 : Nat) : Int) + e + (127 : Nat)).toNat * 2 ^ 23 + (m - 2 ^ 23) < (2 ^ 8 - 1) * 2 ^ 23 := by omega
  unfold packMag
  simp only [floatFmt, hlog, le_refl, if_true, Nat.sub_self, pow_zero, mul_one]
  rw [if_neg (by omega), if_neg (by omega), if_pos hcode]
  exact ⟨_, rfl⟩

section
variable {a : Nat} (h0 : a ≠ 0) (hl : Nat.log2 a ≤ 23)
include h0 hl

/-- A number of at most 24 bits, shifted so that it has 24. -/
theorem shifted_bounds : 2 ^ 23 ≤ a * 2 ^ (23 - Nat.log2 a) ∧ a * 2 ^ (23 - Nat.log2 a) < 2 ^ 24 := by
  have hpow : 2 ^ Nat.log2 a * 2 ^ (23 - Nat.log2 a) = 2 ^ 23 := by rw [← pow_add, Nat.add_sub_cancel' hl]
  have hlt : a * 2 ^ (23 - Nat.log2 a) < 2 ^ (Nat.log2 a + 1) * 2 ^ (23 - Nat.log2 a) := Nat.mul_lt_mul_of_pos_right Nat.lt_log2_self (by positivity)
  rw [pow_succ, Nat.mul_right_comm, hpow] at hlt
  exact ⟨hpow ▸ Nat.mul_le_mul_right _ (Nat.log2_self_le h0), hlt⟩

/-- FP32 rounds no multiple of 2^-24 under 1: it only shifts the significand. -/
theorem roundMag_fraction : roundMag a (-24) ((floatFmt 7).fbits + 1) (1 - ((floatFmt 7).bias : Int)) =
    (alignTo a (-24) ((Nat.log2 a : Int) - 47), (Nat.log2 a : Int) - 47) := by
  have he : max ((Nat.log2 a : Int) + -24) (1 - (127 : Nat)) - ((23 + 1 : Nat) : Int) + 1 = (Nat.log2 a : Int) - 47 := by omega
  simp only [roundMag, floatFmt, if_neg h0, he]
  exact if_pos (by omega)

end

/-- A multiple of 2^-24 under 1 is exact in FP32. -/
theorem convertNum_fraction {a : Nat} (h : a < 2 ^ 24) : (convertNum 0 (.fin false a (-24)) 7).2 = 0 := by
  rw [convertNum_fin (by decide) (by decide) (by decide)]
  by_cases h0 : a = 0
  · subst h0
    rfl
  have hl : Nat.log2 a ≤ 23 := Nat.le_of_lt_succ ((Nat.log2_lt h0).mpr h)
  have hm : alignTo a (-24) ((Nat.log2 a : Int) - 47) = a * 2 ^ (23 - Nat.log2 a) := by
    rw [alignTo, show ((-24 : Int) - ((Nat.log2 a : Int) - 47)).toNat = 23 - Nat.log2 a by omega]
  obtain ⟨hlo, hhi⟩ := shifted_bounds h0 hl
  obtain ⟨code, hcode⟩ := packMag_f32 (hm ▸ hlo) (hm ▸ hhi) (e := (Nat.log2 a : Int) - 47) (by omega) (by omega)
  simp [convertFin, roundMag_fraction h0 hl, hcode, Fmode.flushes, cmpMag_alignTo a (show (Nat.log2 a : Int) - 47 ≤ -24 by omega)]

/-- The bits of a draw. An equation of functions: the kernel would run the conversion of an applied one. -/
theorem drawBits_eq : drawBits = fun seed ctr => (convertNum 0 (.fin false (mix (seed + ctr * 0x9E3779B97F4A7C15) >>> 40).toNat (-24)) 7).1 := rfl

theorem drawBits_mix {seed ctr x : Word} (h : mix (seed + ctr * 0x9E3779B97F4A7C15) = x) :
    drawBits seed ctr = (convertNum 0 (.fin false (x.toNat / 2 ^ 40) (-24)) 7).1 := by
  rw [drawBits_eq, ← h]
  dsimp only
  rw [BitVec.toNat_ushiftRight, Nat.shiftRight_eq_div_pow]

/-! ### The obligation -/

/-- Settles O44: a draw is exact by `convertNum_fraction`; each word by what it answers to its context. -/
theorem samplerRegisterWords : Obligations.SamplerRegisterWords := by
  unfold Obligations.SamplerRegisterWords
  refine ⟨?draw, ?arith, ?regs, ?jumps, fun s d a b hr hc => sampler_stops_at_limit hr hc, fun c n v => ⟨c.kget_zero, c.kput_zero v, c.kget_kput_self v⟩⟩
  case draw =>
    intro seed ctr z y x
    exact ⟨drawBits_mix rfl, convertNum_fraction (by omega)⟩
  case arith =>
    intro s d a b h c
    refine ⟨h.does rfl, h.does rfl, h.does rfl, h.does rfl, h.does rfl, h.does rfl, fun cc => ?_⟩
    obtain ⟨t, ht, hd⟩ : ∃ t, exec (.scmp cc d a b) s = .next t ∧ s.LaneDoes t (c.kput d (if c.scmpHolds cc a b then 1 else 0)) 1 := h.does rfl
    refine ⟨t, _, ht, hd, ?_⟩
    rw [← c.scmpHolds_iff]
    cases c.scmpHolds cc a b <;> decide
  case regs =>
    intro s d h c
    refine ⟨fun imm => h.does rfl, fun imm => ?_, h.does rfl, h.does rfl, h.does rfl, h.does rfl, h.does rfl, fun hr => ?_, fun hr => h.stops (if_pos hr)⟩
    · have hv : BitVec.ofNat 64 (imm.toNat * 2 ^ 11) = imm.setWidth 64 <<< 11 := by
        apply BitVec.eq_of_toNat_eq
        rw [BitVec.toNat_shiftLeft, BitVec.toNat_setWidth, BitVec.toNat_ofNat, Nat.shiftLeft_eq, Nat.mod_eq_of_lt (by omega : imm.toNat < 2 ^ 64)]
      rw [hv]
      exact h.does rfl
    · exact h.does (if_neg (Nat.not_lt.mpr hr))
  case jumps =>
    intro s a off h c g
    have hg : (c.pc : Int) - 1 + off.toInt = g := by rw [s.word_pc]
    refine ⟨fun h0 h1 => ?_, fun hout => h.stops (SCtx.jump_outside (hg ▸ hout)), fun ha => ?_, fun ha => ?_⟩
    · have hin : c.jump true off = .ok { c with pc := g.toNat } 1 := by
        rw [SCtx.jump_within (hg ▸ h0) (hg ▸ h1), hg]
      refine ⟨h.does hin, fun ha => h.does ?_, fun ha => h.does ?_⟩
      · rw [show (s.word.kget a == 0) = true from beq_iff_eq.mpr ha, hin]
      · rw [show (s.word.kget a != 0) = true from bne_iff_ne.mpr ha, hin]
    · refine h.does ?_
      rw [show (s.word.kget a == 0) = false from beq_eq_false_iff_ne.mpr ha, SCtx.jump_false]
    · refine h.does ?_
      rw [show (s.word.kget a != 0) = false from bne_eq_false_iff_eq.mpr ha, SCtx.jump_false]

end Sys2Proof.Machine

namespace Sys2Proof.Machine

/-! ### What the list words keep (12 R346) -/

theorem needs_pos {c : SCtx} {p : Bool} {a : SAct} (h : c.prob = p) : needs c p a = a := if_pos h

theorem needs_neg {c : SCtx} {p : Bool} {a : SAct} (h : c.prob = !p) : needs c p a = .stop 66 := if_neg (by cases p <;> simp [h])

section
variable {e x : BitVec 32 × BitVec 32} {l : List (BitVec 32 × BitVec 32)}

theorem mem_rankIn : x ∈ rankIn l e ↔ x = e ∨ x ∈ l := by
  induction l with
  | nil => simp [rankIn]
  | cons y l ih =>
    unfold rankIn
    split
    · simp only [List.mem_cons, ih, or_left_comm]
    · rw [List.mem_cons]

/-- Rank order changes places alone. -/
theorem mem_rankSort : x ∈ rankSort l ↔ x ∈ l := by
  suffices h : ∀ b, x ∈ l.foldl rankIn b ↔ x ∈ l ∨ x ∈ b by simpa [rankSort] using h []
  induction l with
  | nil => simp
  | cons y l ih =>
    intro b
    rw [List.foldl_cons, ih, mem_rankIn, List.mem_cons, or_assoc, or_left_comm]

theorem keepTo_prefix (bound acc : Nat) (l : List (BitVec 32 × BitVec 32)) : keepTo bound acc l <+: l := by
  induction l generalizing acc with
  | nil => exact List.prefix_rfl
  | cons y l ih =>
    unfold keepTo
    dsimp only
    split
    · exact ⟨l, rfl⟩
    · exact List.cons_prefix_cons.mpr ⟨rfl, ih _⟩

/-- A pick from an entry on is a token of the list. -/
theorem pickFrom_cons (t acc : Nat) (y : BitVec 32 × BitVec 32) (l : List (BitVec 32 × BitVec 32)) : ∃ e ∈ y :: l, pickFrom t acc (y :: l) = some e.1 := by
  induction l generalizing acc y with
  | nil => exact ⟨y, List.mem_singleton_self y, by unfold pickFrom; dsimp only; split <;> rfl⟩
  | cons z l ih =>
    obtain ⟨e, he, hp⟩ := ih (f32Add acc (valueOf y)).1 z
    unfold pickFrom
    dsimp only
    split
    · exact ⟨y, List.mem_cons_self, rfl⟩
    · exact ⟨e, List.mem_cons_of_mem _ he, by rw [hp]⟩

end

namespace SCtx

variable (c : SCtx)

theorem pick_eq (u : Nat) : c.pick u = BitVec.allOnes 64 ∧ c.w = [] ∨ ∃ e ∈ c.w, c.pick u = e.1.setWidth 64 := by
  unfold pick
  cases c.w with
  | nil => exact .inl ⟨rfl, rfl⟩
  | cons y l =>
    obtain ⟨e, he, hp⟩ := pickFrom_cons (f32Mul u c.sum).1 0 y l
    exact .inr ⟨e, he, by rw [hp]⟩

/-- `SSOFT` changes the list and PROB alone. -/
theorem softmax_eq : c.softmax = { c with w := c.softmax.w, prob := true } := by
  unfold softmax
  dsimp only
  split <;> rfl

theorem mem_softmax {e : BitVec 32 × BitVec 32} (h : e ∈ c.softmax.w) : e.1 ∈ c.w.map Prod.fst := by
  unfold softmax at h
  dsimp only at h
  split at h
  · cases h
  · simp only [mem_rankSort, List.mem_map] at h
    obtain ⟨_, ⟨z, hz, rfl⟩, rfl⟩ := h
    exact List.mem_map.mpr ⟨z, List.mem_of_mem_filter hz, rfl⟩

theorem normalise_eq : c.normalise = { c with w := rankSort (c.w.map fun e => (e.1, BitVec.ofNat 32 (if isNormalF32 c.sum then (f32Div e.2.toNat c.sum).1
    else (toF32 (Num.div (.fin false 1 0) (.fin false c.w.length 0))).1))) } := by
  unfold normalise
  dsimp only
  split <;> rfl

/-- The entries that `SMINP` keeps: the first one, and those whose value is not under the first one's times `k`. -/
def atLeast (k : Nat) : List (BitVec 32 × BitVec 32) → List (BitVec 32 × BitVec 32)
  | [] => []
  | h :: r => h :: r.filter (fun e => !ltF e.2.toNat (f32Mul k h.2.toNat).1)

theorem atLeast_head (k : Nat) (l : List (BitVec 32 × BitVec 32)) : (atLeast k l).head? = l.head? := by
  cases l <;> rfl

end SCtx

theorem execSminp_eq (a : KReg) (s : State) :
    execSminp a s = sampler (fun c => needs c true (.ok { c with w := SCtx.atLeast (c.kf a) c.w } c.cost4)) s := by
  unfold execSminp
  congr 1
  funext c
  congr 2
  obtain ⟨_, _, _, _, _, _, _, _, _, _, _, _, w⟩ := c
  cases w <;> rfl

theorem SCtx.filtered_eq (c : SCtx) : (if c.marked then { c with w := c.w.filter (fun e => !c.excl.contains e.1) } else c) =
    { c with w := if c.marked then c.w.filter (fun e => !c.excl.contains e.1) else c.w } := by
  split <;> rfl

theorem SCtx.topk_eq (c : SCtx) (v : Word) : (if v = 0 then c else { c with w := c.w.take v.toNat }) =
    { c with w := if v.toNat = 0 then c.w else c.w.take v.toNat } := by
  by_cases h : v = 0
  · subst h
    rfl
  · have hn : v.toNat ≠ 0 := fun h0 => h (BitVec.eq_of_toNat_eq h0)
    rw [if_neg h, if_neg hn]

/-! ### The obligation -/

/-- Settles O45: each word by what it answers to its context. -/
theorem samplerListWords : Obligations.SamplerListWords := by
  unfold Obligations.SamplerListWords
  intro s d a h c p k four eight
  refine ⟨fun hd hn => ?ld, fun hd => ?ldStop, fun hp => ⟨_, _, rfl, h.sword_does (needs_pos hp), rfl, rfl⟩, fun hp => h.stops (needs_neg hp),
    fun hp h1 h2 h3 => ?scale, fun hp hk => ?scaleStop, ?mask, ?topk, fun hp => ?soft, fun hp => h.stops (needs_neg hp),
    fun hp => ⟨_, _, rfl, h.sword_does (needs_pos hp), rfl, keepTo_prefix _ _ _⟩, fun hp => ?minp, fun hp => ?norm,
    fun hp => ⟨_, _, rfl, h.sword_does (needs_pos hp), c.pick_eq _⟩, fun hp => ?stops⟩
  case ld =>
    have hgo : ¬(decide (c.depth < p) || !c.needed.contains p) = true := by simp [hd, hn]
    exact h.does (if_neg hgo)
  case ldStop =>
    have hgo : (decide (c.depth < p) || !c.needed.contains p) = true := by simpa using hd
    exact h.stops (if_pos hgo)
  case scale =>
    have hgo : ¬(k.isNan || k.isZero || k.isNeg) = true := by simp [h1, h2, h3]
    exact h.does ((needs_pos hp).trans (if_neg hgo))
  case scaleStop =>
    have hgo : (k.isNan || k.isZero || k.isNeg) = true := by simpa [or_assoc] using hk
    exact h.stops ((needs_pos hp).trans (if_pos hgo))
  case mask => exact h.does (congrArg (SAct.ok · _) c.filtered_eq)
  case topk => exact h.does (congrArg (SAct.ok · _) (c.topk_eq _))
  case soft => exact ⟨_, _, rfl, h.sword_does ((needs_pos hp).trans (congrArg (SAct.ok · _) c.softmax_eq)), rfl, fun e he => c.mem_softmax he⟩
  case minp =>
    refine ⟨_, SCtx.atLeast (c.kf a) c.w, execSminp_eq a s, h.sword_does (needs_pos hp), SCtx.atLeast_head _ _, fun x r hw => ?_⟩
    rw [hw]
    rfl
  case norm => exact h.does ((needs_pos hp).trans (congrArg (SAct.ok · _) c.normalise_eq))
  case stops =>
    exact ⟨h.stops (needs_neg hp), h.stops (needs_neg hp), h.stops (needs_neg hp), h.stops (needs_neg hp)⟩

end Sys2Proof.Machine

namespace Sys2Proof.Machine

/-! ### Masks (12 R347, R348) -/

section
variable {s : State} {c : SCtx} {d a b : KReg}

theorem State.loadMask_outside (h : c.depth < (c.kget a).toNat) : s.loadMask c d a = .stop 65 := if_pos h

/-- An unmasked configuration excludes nothing. -/
theorem State.loadMask_unmasked (h : (c.kget a).toNat ≤ c.depth) (hg : c.cfg.grammar = false) :
    s.loadMask c d a = .ok ({ c with marked := true, excl := [] }.kput d 1) 1 := by
  simp only [State.loadMask, if_neg (Nat.not_lt.mpr h), hg, Bool.not_false, if_true]

theorem State.loadMask_poisoned (h : (c.kget a).toNat ≤ c.depth) (hg : c.cfg.grammar = true) (hv : s.maskValid c (c.kget a).toNat = none) :
    s.loadMask c d a = .stop 68 := by
  simp only [State.loadMask, if_neg (Nat.not_lt.mpr h), hg, Bool.not_true, Bool.false_eq_true, if_false, hv, codeMem]

/-- A stale mask excludes everything. -/
theorem State.loadMask_stale (h : (c.kget a).toNat ≤ c.depth) (hg : c.cfg.grammar = true) (hv : s.maskValid c (c.kget a).toNat = some false) :
    s.loadMask c d a = .ok ({ c with marked := true, excl := c.w.map Prod.fst }.kput d 0) (1 + Config.delay s.ticket) := by
  simp only [State.loadMask, if_neg (Nat.not_lt.mpr h), hg, Bool.not_true, Bool.false_eq_true, if_false, hv, tokensOf]

/-- A valid mask excludes the tokens whose bits are clear. -/
theorem State.loadMask_valid (h : (c.kget a).toNat ≤ c.depth) (hg : c.cfg.grammar = true) (hv : s.maskValid c (c.kget a).toNat = some true)
    (hw : ∀ e ∈ c.w, s.homeBad (c.maskSlot (c.kget a).toNat + 128 + e.1.toNat / 8) 1 = false) :
    s.loadMask c d a = .ok ({ c with marked := true, excl := (c.w.map Prod.fst).filter (fun x => !s.maskAllows c (c.kget a).toNat x) }.kput d 1)
      (1 + Config.delay s.ticket) := by
  have hany : c.w.any (fun e => s.homeBad (c.maskSlot (c.kget a).toNat + 128 + e.1.toNat / 8) 1) = false :=
    List.any_eq_false.mpr fun e he => by simp [hw e he]
  simp only [State.loadMask, if_neg (Nat.not_lt.mpr h), hg, Bool.not_true, Bool.false_eq_true, if_false, hv, hany, tokensOf]

/-! #### `SWAIT` -/

/-- A context that waits from its word on for the mask of position `p`, until cycle `n`. -/
def SCtx.waits (c : SCtx) (d : KReg) (p n : Nat) : SCtx := { c with count := c.count + 1, state := .maskwait, wait := some (d, p, n) }

theorem State.LaneRuns.waitMask_outside (h : s.LaneRuns) (hr : s.sctx.depth < (s.sctx.kget a).toNat ∨ 2 ^ 20 < (s.sctx.kget b).toNat) :
    s.LaneStops (s.waitMask d a b) 65 := by
  unfold State.waitMask
  dsimp only
  rw [if_neg (not_not.mpr h.running), if_pos (by simpa using hr)]
  exact h.sword_stops rfl

section
variable (h : s.LaneRuns) (hp : (s.sctx.kget a).toNat ≤ s.sctx.depth) (hn : (s.sctx.kget b).toNat ≤ 2 ^ 20)
include h hp hn

theorem State.LaneRuns.waitMask_valid (hv : s.sctx.cfg.grammar = false ∨ s.maskValid s.sctx (s.sctx.kget a).toNat = some true) :
    s.LaneDoes (s.waitMask d a b) (s.word.kput d 1) 1 := by
  have hm : (if s.sctx.cfg.grammar = true then s.maskValid s.sctx (s.sctx.kget a).toNat else some true) = some true := by
    rcases hv with hg | hv
    · rw [hg]
      rfl
    · rw [hv, ite_self]
  unfold State.waitMask
  dsimp only
  rw [if_neg (not_not.mpr h.running), if_neg (by simpa using ⟨hp, hn⟩), hm]
  exact h.sword_does rfl

/-- With a stale mask the context waits on its lane for the mask or its time. -/
theorem State.LaneRuns.waitMask_stale (hg : s.sctx.cfg.grammar = true) (hv : s.maskValid s.sctx (s.sctx.kget a).toNat = some false) :
    s.waitMask d a b = ((s.modSctx s.lane.1 s.lane.2 (·.waits d (s.sctx.kget a).toNat (s.now + (s.sctx.kget b).toNat))).post
      (1 + Config.delay s.ticket % 256) .maskHeaderPoll { a := s.lane.1, b := s.lane.2 }).post (s.sctx.kget b).toNat .swaitTimeout
        { a := s.lane.1, b := s.lane.2 } := by
  unfold State.waitMask
  dsimp only
  rw [if_neg (not_not.mpr h.running), if_neg (by simpa using ⟨hp, hn⟩), if_pos hg, hv]
  exact if_neg (Nat.not_le.mpr h.left)

end

end

/-! ### Drafts and acceptance (12 R349) -/

theorem SCtx.draft_setIfInBounds {c c' : SCtx} {j : Nat} {v : Draft} (hj : j < 8) (h : c'.drafts = c.drafts.setIfInBounds j v) (i : Nat) :
    c'.draft i = if i = j then v else c.draft i := by
  rw [SCtx.draft, h, SCtx.draft, List.getD_eq_getElem?_getD, List.getD_eq_getElem?_getD]
  simp only [Vector.toList_setIfInBounds, List.getElem?_set, Vector.length_toList, hj, if_true]
  by_cases hi : i = j
  · rw [if_pos hi, if_pos hi.symm]
    rfl
  · rw [if_neg hi, if_neg (Ne.symm hi)]

/-- `SRESID` changes the list alone. -/
theorem SCtx.residual_eq (c : SCtx) (j : Nat) : c.residual j = { c with w := (c.residual j).w } := by
  unfold SCtx.residual
  dsimp only
  split <;> rfl

/-! ### The obligation -/

/-- Settles O46: each word by what it answers to its context; `SWAIT` with a stale mask by `State.LaneRuns.waitMask_stale`. -/
theorem samplerMasksAndDrafts : Obligations.SamplerMasksAndDrafts := by
  unfold Obligations.SamplerMasksAndDrafts
  intro s d a b h c p j
  refine ⟨fun hp => h.stops (State.loadMask_outside hp), fun hp hg => h.does (State.loadMask_unmasked hp hg),
    fun hp hg hv => ⟨_, _, rfl, Nat.le_add_right _ _, h.sword_does (State.loadMask_stale hp hg hv)⟩,
    fun hp hg hv hw => ⟨_, _, rfl, Nat.le_add_right _ _, h.sword_does (State.loadMask_valid hp hg hv hw)⟩,
    fun hp hg hv => h.stops (State.loadMask_poisoned hp hg hv),
    fun hr => ⟨_, rfl, h.waitMask_outside hr⟩, fun hp hj hv => ⟨_, rfl, h.waitMask_valid hp hj hv⟩,
    fun hp hj hg hv => ?wait, fun hb => h.does (if_pos hb), fun hb ho => ?emit, fun hb ho => ?emitStop, fun hv hp hd hj => ?draft, fun hv => ?draftStop,
    fun hp hd => h.does ((needs_pos hp).trans (if_neg (Nat.not_le.mpr hd))),
    fun hp hd => ⟨_, _, rfl, h.sword_does ((needs_pos hp).trans ((if_neg (Nat.not_le.mpr hd)).trans (congrArg (SAct.ok · _) (c.residual_eq p)))), rfl⟩,
    fun hp hd => ⟨h.stops ((needs_pos hp).trans (if_pos hd)), h.stops ((needs_pos hp).trans (if_pos hd))⟩,
    fun hp => ⟨h.stops (needs_neg hp), h.stops (needs_neg hp)⟩, ?accept⟩
  case wait =>
    refine ⟨_, _, congrArg Host.Outcome.next (h.waitMask_stale hp hj hg hv), ?_, .post (.post (.modSctx s s.lane.1 s.lane.2 _) _ _ _) _ _ _,
      Nat.lt_add_of_pos_right (Nat.add_pos_left Nat.one_pos _), List.append_assoc s.agenda _ _⟩
    rw [State.post_sctxOf, State.post_sctxOf, State.sctxOf_modSctx_self]
    rfl
  case emit =>
    have hb' : ¬(s.word.kget a).getLsbD 63 = true := by simpa using hb
    rw [BitVec.ofNat_toNat]
    exact h.does ((if_neg hb').trans (if_neg (Nat.not_le.mpr ho)))
  case emitStop =>
    have hb' : ¬(s.word.kget a).getLsbD 63 = true := by simpa using hb
    exact h.stops ((if_neg hb').trans (if_pos ho))
  case draft =>
    have hgo : ¬(c.verify || !c.prob) = true := by simp [hv, hp]
    rw [BitVec.ofNat_toNat]
    exact ⟨_, _, rfl, h.sword_does ((if_neg hgo).trans (if_neg (Nat.not_le.mpr hd))), rfl, (SCtx.draft_setIfInBounds hj rfl j).trans (if_pos rfl),
      fun i hi => (SCtx.draft_setIfInBounds hj rfl i).trans (if_neg hi)⟩
  case draftStop =>
    have hgo : (c.verify || !c.prob) = true := by rcases hv with hv | hv <;> simp [hv]
    exact h.stops (if_pos hgo)
  case accept =>
    intro m n
    have hlen : ((List.range n).map (fun j => (c.draft j).tok) ++ c.out).length = n + c.out.length := by simp
    refine ⟨fun hv ha hn => ?_, fun hv ha hn => ?_, fun hv => ?_⟩
    · have hgo : ¬(!c.verify || c.accDone) = true := by simp [hv, ha]
      exact h.does ((if_neg hgo).trans (if_neg (Nat.not_lt.mpr (hlen.trans_le hn))))
    · have hgo : ¬(!c.verify || c.accDone) = true := by simp [hv, ha]
      exact h.stops ((if_neg hgo).trans (if_pos (hn.trans_eq hlen.symm)))
    · have hgo : (!c.verify || c.accDone) = true := by simpa using hv
      exact h.stops (if_pos hgo)

end Sys2Proof.Machine

namespace Sys2Proof.Machine

/-! ### Lanes and waits (12 R335, R337, R348) -/

section
variable {s : State} {d x : Nat} {k : KReg} {p n : Nat}

/-- The state in which a free lane of die `d` is given to context `x`, which starts its step at word `e`. -/
def State.laneGranted (s : State) (d x e : Nat) : State :=
  (((s.modSctx d x (·.startStep e)).modDie d fun y => { y with sampler := { y.sampler with lanes := y.sampler.lanes ++ [x] } }).laneAt d x 1).post 0
    .samplerLaneGrant { a := d }

theorem State.laneGranted_fields (s : State) (d x e : Nat) : (s.laneGranted d x e).sctxOf d x = (s.sctxOf d x).startStep e ∧
    ((s.laneGranted d x e).dieOf d).sampler.lanes = (s.dieOf d).sampler.lanes ++ [x] ∧ ⟨s.now + 1, .lane d x⟩ ∈ (s.laneGranted d x e).agenda := by
  unfold State.laneGranted
  refine ⟨?_, ?_, List.mem_append_left _ (List.mem_append_right _ (List.mem_singleton_self _))⟩
  · rw [State.post_sctxOf, State.laneAt_sctxOf, ← s.sctxOf_modSctx_self d x (·.startStep e)]
    exact State.sctxOf_modDie _ d (fun _ => by rfl) d x
  · rw [State.post_dieOf, State.laneAt_dieOf, State.dieOf_modDie_self]
    exact congrArg (· ++ [x]) (s.modSctx_lanes d x _ d)

/-- A free lane goes to the oldest ready context, which starts its step. -/
theorem execSamplerLaneGrant_grants (ha : s.args.a = d) (hl : (s.dieOf d).sampler.lanes.length < 8) (ho : (s.dieOf d).sampler.oldest s.now = some x) :
    execSamplerLaneGrant s = .next (s.laneGranted d x ((s.dieOf d).sampler.table.getD (s.sctxOf d x).cfg.prog 0)) := by
  subst ha
  simp only [execSamplerLaneGrant, if_neg (Nat.not_le.mpr hl), ho]
  rfl

/-- A context that waits for a mask goes on behind its `SWAIT`. -/
theorem State.endWait_fields (s : State) (d x : Nat) (k : KReg) (v : Word) :
    (s.endWait d x k v).sctxOf d x = { (s.sctxOf d x).kput k v with state := .running, pc := (s.sctxOf d x).pc + 1, wait := none } ∧
      ⟨s.now + 1, .lane d x⟩ ∈ (s.endWait d x k v).agenda := by
  refine ⟨?_, List.mem_append_right _ (List.mem_singleton_self _)⟩
  rw [State.endWait, State.laneAt_sctxOf, State.unpost_sctxOf, State.sctxOf_modSctx_self]

variable (ha : s.args.a = d) (hb : s.args.b = x) (hs : (s.sctxOf d x).state = .maskwait) (hw : (s.sctxOf d x).wait = some (k, p, n))
include ha hb hs hw

theorem execMaskHeaderPoll_valid (hv : s.maskValid (s.sctxOf d x) p = some true) : execMaskHeaderPoll s = .next (s.endWait d x k 1) := by
  subst ha hb
  simp only [execMaskHeaderPoll, hs, hw, hv]

theorem execMaskHeaderPoll_stale (hv : s.maskValid (s.sctxOf d x) p = some false) :
    execMaskHeaderPoll s = .next (s.post (1 + Config.delay s.ticket % 256) .maskHeaderPoll { a := d, b := x }) := by
  subst ha hb
  simp only [execMaskHeaderPoll, hs, hw, hv]

theorem execMaskHeaderPoll_poisoned (hv : s.maskValid (s.sctxOf d x) p = none) : execMaskHeaderPoll s = .next (s.stopCtx d x 68) := by
  subst ha hb
  simp only [execMaskHeaderPoll, hs, hw, hv, codeMem]

theorem execSwaitTimeout_over (hn : n ≤ s.now) : execSwaitTimeout s = .next (s.endWait d x k 0) := by
  subst ha hb
  simp only [execSwaitTimeout, hs, hw, if_pos hn]

end

/-! ### The end of a step (12 R352, R353) -/

namespace SCtx

variable (c : SCtx) (now : Nat)

/-- What `SPECDEPTH` has read is all that is kept. -/
theorem keepDepths_eq : c.keepDepths now = { c with was := (c.keepDepths now).was } := by
  unfold keepDepths
  split <;> rfl

theorem nextStep_fields : (c.nextStep now).step = c.step + 1 ∧ (c.nextStep now).state = .waiting ∧ (c.nextStep now).k = c.k ∧
    (c.nextStep now).seed = c.seed ∧ (c.nextStep now).drafts = c.drafts := by
  unfold nextStep
  rw [keepDepths_eq]
  dsimp only
  split
  · exact ⟨rfl, rfl, rfl, rfl, rfl⟩
  · exact ⟨rfl, rfl, rfl, rfl, rfl⟩

/-- A verify step ends its iteration. -/
theorem nextStep_verify (h : c.verify = true) :
    (c.nextStep now).phase = 0 ∧ (c.nextStep now).iter = c.iter + 1 ∧ (c.nextStep now).depth = (c.nextDepth now).1 := by
  unfold nextStep
  dsimp only
  rw [if_pos h]
  exact ⟨rfl, rfl, rfl⟩

theorem nextStep_draft (h : c.verify = false) :
    (c.nextStep now).phase = c.phase + 1 ∧ (c.nextStep now).iter = c.iter ∧ (c.nextStep now).depth = c.depth := by
  unfold nextStep
  rw [keepDepths_eq]
  dsimp only
  rw [if_neg (by simp [h])]
  exact ⟨rfl, rfl, rfl⟩

/-- A verdict record is 64 bytes long (12 R351). -/
theorem length_verdict (masked : Bool) : (c.verdict masked).length = 64 := by
  simp [verdict, List.length_flatten, Function.comp_def]

end SCtx

/-! #### Memory while no page migrates -/

theorem State.homeRead_settled {s : State} (h : s.migrations = []) (a n : Nat) : s.homeRead a n = Memory.read s.mem a n := by
  rw [State.homeRead, h]
  rfl

theorem State.perform_mem_settled {s : State} (h : s.migrations = []) (die pa : Nat) (v : List Byte) (bad : Bool) :
    (s.perform die pa v bad).mem = Memory.write s.mem pa v := by
  rw [State.perform, State.spoil_mem, State.homeWrite, h]
  rfl

@[simp] theorem State.perform_migrations (s : State) (die pa : Nat) (v : List Byte) (bad : Bool) : (s.perform die pa v bad).migrations = s.migrations :=
  (State.Beside.perform s die pa v bad).field State.migrations fun _ => rfl

@[simp] theorem State.perform_sctxOf (s : State) (die pa : Nat) (v : List Byte) (bad : Bool) (d x : Nat) :
    (s.perform die pa v bad).sctxOf d x = s.sctxOf d x :=
  (State.Beside.perform s die pa v bad).field (State.sctxOf · d x) fun _ => rfl

/-! #### Tokens on their way -/

/-- What a die's message numbers and a message that enters the fabric leave, a token sent leaves. -/
theorem State.sendToken_keeps {α : Type} (g : State → α) (hg : ∀ s : State, g s.offFabric = g s)
    (hd : ∀ (s : State) d (m : Map (BitVec 16)), g (s.modDie d fun y => { y with sampler := { y.sampler with msgNo := m } }) = g s)
    (s : State) (die ctx : Nat) (port : Word) (t : BitVec 32) : g (s.sendToken die ctx port t) = g s := by
  unfold State.sendToken
  split
  · rfl
  · exact (State.transmit_keep g hg _ _).trans (hd s die _)

@[simp] theorem State.sendToken_sctxOf (s : State) (die ctx : Nat) (port : Word) (t : BitVec 32) (d x : Nat) :
    (s.sendToken die ctx port t).sctxOf d x = s.sctxOf d x :=
  State.sendToken_keeps (State.sctxOf · d x) (fun _ => rfl) (fun s e _ => State.sctxOf_modDie s e (fun _ => by rfl) d x) s die ctx port t
@[simp] theorem State.sendToken_mem (s : State) (die ctx : Nat) (port : Word) (t : BitVec 32) : (s.sendToken die ctx port t).mem = s.mem :=
  State.sendToken_keeps State.mem (fun _ => rfl) (fun _ _ _ => rfl) s die ctx port t
@[simp] theorem State.sendToken_migrations (s : State) (die ctx : Nat) (port : Word) (t : BitVec 32) : (s.sendToken die ctx port t).migrations = s.migrations :=
  State.sendToken_keeps State.migrations (fun _ => rfl) (fun _ _ _ => rfl) s die ctx port t
@[simp] theorem State.toDetok_sctxOf (s : State) (e : Nat) (l : List DetokItem) (d x : Nat) : (s.toDetok e l).sctxOf d x = s.sctxOf d x :=
  State.toDetok_keeps (State.sctxOf · d x) (fun _ _ => rfl) (fun _ _ _ => rfl) s e l

/-- The state in which the running lane's verdict record is written and its tokens are on their way. -/
def State.verdictSent (s : State) : State :=
  let c := s.sctx
  let pa := c.cfg.vaddr.toNat % 2 ^ 40
  let s1 := s.perform (homeDie pa) pa (c.verdict (s.masked c c.depth)) false
  let s2 := c.sends.foldl (fun u t => u.sendToken s.lane.1 s.lane.2 (if c.verify then c.cfg.tport else c.cfg.dport) t) s1
  if c.verify then
    match s.requestAt s.lane.1 s.lane.2 with
    | none => s2
    | some (k, _) => s2.toDetok c.cfg.detok ((withLast c.out).map fun t => .tok k t.1 t.2)
  else s2

theorem State.verdictSent_keeps {α : Type} (g : State → α) (hs : ∀ (s : State) d x p t, g (s.sendToken d x p t) = g s)
    (hq : ∀ (s : State) e l, g (s.toDetok e l) = g s) (s : State) :
    g s.verdictSent = g (s.perform (homeDie (s.sctx.cfg.vaddr.toNat % 2 ^ 40)) (s.sctx.cfg.vaddr.toNat % 2 ^ 40)
      (s.sctx.verdict (s.masked s.sctx s.sctx.depth)) false) := by
  have hsent (l : List (BitVec 32)) (p : Word) (u : State) : g (l.foldl (fun u t => u.sendToken s.lane.1 s.lane.2 p t) u) = g u :=
    State.foldl_keeps g (fun u t => hs u _ _ _ t) l u
  unfold State.verdictSent
  dsimp only
  split
  · split
    · exact hsent _ _ _
    · exact (hq _ _ _).trans (hsent _ _ _)
  · exact hsent _ _ _

/-- The state in which the running lane is free and its context stands at its next step. -/
def State.stepEnded (s : State) : State := (s.verdictSent.modSctx s.lane.1 s.lane.2 (·.nextStep s.now)).freeLane s.lane.1 s.lane.2

/-- The running lane's step has ended: its context is `n`, its lane is free, and the verdict stands at its home. -/
structure State.StepEnds (s t : State) (n : SCtx) : Prop where
  context : t.sctxOf s.lane.1 s.lane.2 = n
  lane : s.lane.2 ∉ (t.dieOf s.lane.1).sampler.lanes
  settled : t.migrations = s.migrations
  record : s.migrations = [] → t.mem = Memory.write s.mem (s.sctx.cfg.vaddr.toNat % 2 ^ 40) (s.sctx.verdict (s.masked s.sctx s.sctx.depth))

theorem State.stepEnded_ends (s : State) : s.StepEnds s.stepEnded (s.sctx.nextStep s.now) := by
  unfold State.stepEnded
  refine ⟨?_, State.not_mem_freeLane _ _ _, ?_, fun hm => ?_⟩
  · rw [State.freeLane_sctxOf, State.sctxOf_modSctx_self, State.verdictSent_keeps (State.sctxOf · s.lane.1 s.lane.2) (by simp) (by simp), State.perform_sctxOf]
    rfl
  · rw [State.freeLane_migrations, State.modSctx_migrations, State.verdictSent_keeps State.migrations (by simp) (by simp), State.perform_migrations]
  · rw [State.freeLane_mem, State.modSctx_mem, State.verdictSent_keeps State.mem (by simp) (by simp), State.perform_mem_settled hm]

namespace State.StepEnds

variable {s t u : State} {n : SCtx}

/-- What a later change of the context keeps of a step's end. -/
theorem modSctx (h : s.StepEnds t n) (f : SCtx → SCtx) (hc : u.sctxOf s.lane.1 s.lane.2 = f (t.sctxOf s.lane.1 s.lane.2))
    (hl : (u.dieOf s.lane.1).sampler.lanes = (t.dieOf s.lane.1).sampler.lanes) (hg : u.migrations = t.migrations) (hm : u.mem = t.mem) : s.StepEnds u (f n) :=
  ⟨by rw [hc, h.context], by rw [hl]; exact h.lane, by rw [hg, h.settled], fun h0 => by rw [hm, h.record h0]⟩

theorem readyCheck (h : s.StepEnds t n) : s.StepEnds (t.readyCheck s.lane.1 s.lane.2) n ∨
    s.StepEnds (t.readyCheck s.lane.1 s.lane.2) { n with state := .ready, readyAt := t.now } := by
  unfold State.readyCheck
  dsimp only
  split
  · refine .inr (h.modSctx (fun c => { c with state := .ready, readyAt := t.now }) ?_ ?_ ?_ ?_)
    · rw [State.ensure_sctxOf, State.sctxOf_modSctx_self]
    · rw [State.dieOf, State.ensure_dies, ← State.dieOf, State.modSctx_lanes]
    · exact (State.Beside.ensure _ _ _ _).field State.migrations fun _ => rfl
    · rw [State.ensure_mem, State.modSctx_mem]
  · exact .inl h

theorem toReshard (h : s.StepEnds t n) (k : Nat × Nat) : s.StepEnds (t.toReshard s.lane.1 s.lane.2 k) n.toReshard :=
  h.modSctx SCtx.toReshard (t.sctxOf_modSctx_self s.lane.1 s.lane.2 _) (t.modSctx_lanes s.lane.1 s.lane.2 _ _) rfl rfl

/-- The verdict record stands at its home while no page migrates. -/
theorem homeRead (h : s.StepEnds t n) (hk : MemOk s) (hm : s.migrations = []) :
    t.homeRead (s.sctx.cfg.vaddr.toNat % 2 ^ 40) 64 = s.sctx.verdict (s.masked s.sctx s.sctx.depth) := by
  have hread := Memory.read_write_self hk (s.sctx.verdict (s.masked s.sctx s.sctx.depth)) (s.sctx.cfg.vaddr.toNat % 2 ^ 40)
  rwa [SCtx.length_verdict, ← h.record hm, ← State.homeRead_settled (h.settled.trans hm)] at hread

end State.StepEnds

theorem State.LaneRuns.endStep_eq {s : State} (h : s.LaneRuns) :
    s.endStep = s.sctx.short.elim (s.stepEnded.readyCheck s.lane.1 s.lane.2) (s.stepEnded.toReshard s.lane.1 s.lane.2) := by
  unfold State.endStep
  dsimp only
  rw [if_neg (not_not.mpr h.running), if_neg (Nat.not_le.mpr h.left)]
  cases s.sctx.short <;> rfl

/-- `SEND`: the context stands at its next step, waits for a shard where one was missing, and is ready where its positions are there. -/
theorem State.LaneRuns.endStep_ends {s : State} (h : s.LaneRuns) : ∃ n, s.StepEnds s.endStep n ∧
    n = { s.sctx.nextStep s.now with state := n.state, readyAt := n.readyAt, delivered := n.delivered, short := n.short } ∧
    (s.sctx.short = none → n.state = .waiting ∨ n.state = .ready) ∧ (s.sctx.short.isSome = true → n.state = .awaitReshard ∧ n.delivered = []) := by
  rw [h.endStep_eq]
  cases s.sctx.short with
  | none =>
    obtain ⟨-, hstate, -, -, -⟩ := s.sctx.nextStep_fields s.now
    rcases s.stepEnded_ends.readyCheck with hr | hr
    · exact ⟨_, hr, rfl, fun _ => .inl hstate, fun h => nomatch h⟩
    · exact ⟨_, hr, rfl, fun _ => .inr rfl, fun h => nomatch h⟩
  | some k => exact ⟨_, s.stepEnded_ends.toReshard k, rfl, (fun h => nomatch h), fun _ => ⟨rfl, rfl⟩⟩

/-! ### Resharding (12 R340, 22 R513) -/

section
variable (s : State) (die ctx key shard next : Nat)

/-- F3's remapping changes collective groups and rings alone; the group's member stands on its new die. -/
theorem State.remapShard_fields : (s.remapShard die ctx key shard next).dies = s.dies ∧
    ∀ c, s.colls.find? key = some c → (s.remapShard die ctx key shard next).colls.find? key = some { c with moved := c.moved.set shard next } := by
  unfold State.remapShard
  cases hk : s.colls.find? key with
  | none =>
    dsimp only
    refine ⟨?_, fun c hc => nomatch hc⟩
    split
    · rfl
    · split <;> rfl
  | some c =>
    dsimp only
    refine ⟨?_, fun c' hc => ?_⟩
    · split
      · rfl
      · split <;> rfl
    · cases hc
      split
      · exact Map.find?_set_self _ _ _
      · split
        · exact Map.find?_set_self _ _ _
        · exact Map.find?_set_self _ _ _

end

/-- The dies that are not lost. -/
def State.liveDies (s : State) : List Nat := (List.range 8).filter fun d => !(s.dieOf d).lost

theorem State.mem_liveDies {s : State} {e : Nat} : e ∈ s.liveDies ↔ e < 8 ∧ (s.dieOf e).lost = false := by
  simp [State.liveDies]

section
variable {s : State} {d x : Nat} (ha : s.args.a = d) (hb : s.args.b = x) (hs : (s.sctxOf d x).state = .awaitReshard)
include ha hb hs

theorem execReshardDone_moves (hf : s.args.flag = true) (hl : ∃ e < 8, (s.dieOf e).lost = false) : ∃ e, e ∈ s.liveDies ∧
    execReshardDone s = .next (((s.remapShard d x s.args.word.toNat s.args.c e).modSctx d x fun c => { c with state := .waiting }).draw) := by
  subst ha hb
  have hne : s.liveDies ≠ [] := by
    obtain ⟨e, he⟩ := hl
    exact List.ne_nil_of_mem (State.mem_liveDies.mpr he)
  have hlt : Config.order s.ticket % s.liveDies.length < s.liveDies.length := Nat.mod_lt _ (List.length_pos_iff.mpr hne)
  refine ⟨s.liveDies.getD (Config.order s.ticket % s.liveDies.length) 0, ?_, ?_⟩
  · rw [List.getD_eq_getElem _ _ hlt]
    exact List.getElem_mem hlt
  · have hgo : (s.args.flag && !s.liveDies.isEmpty) = true := by simp [hf, hne]
    exact congrArg Host.Outcome.next ((if_neg (not_not.mpr hs)).trans (if_pos hgo))

theorem execReshardDone_stops (hf : s.args.flag = false ∨ ∀ e < 8, (s.dieOf e).lost = true) : execReshardDone s = .next (s.stopCtx d x 53) := by
  subst ha hb
  have hgo : ¬(s.args.flag && !s.liveDies.isEmpty) = true := by
    rcases hf with hf | hf
    · simp [hf]
    · have hnil : s.liveDies = [] := List.eq_nil_iff_forall_not_mem.mpr fun e he => by
        obtain ⟨h8, hlost⟩ := State.mem_liveDies.mp he
        simp [hf e h8] at hlost
      simp [hnil]
  exact congrArg Host.Outcome.next ((if_neg (not_not.mpr hs)).trans (if_neg hgo))

end

/-! ### The obligation -/

/-- Settles O47: each event by its own lemma above; the step that `SEND` begins by the fields of `SCtx.nextStep`. -/
theorem samplerEvents : Obligations.SamplerEvents := by
  unfold Obligations.SamplerEvents
  refine ⟨fun s d x ha hl ho => ?grant, fun s d x k p n ha hb hs hw => ⟨fun hv => ?valid, fun hv => ?stale, fun hv => ?poisoned, fun hn => ?past⟩,
    fun s hm h => ?send, fun s d x ha hb hs => ⟨fun hf hl => ?moved, fun hf => ?lost⟩⟩
  case grant =>
    intro e
    obtain ⟨hctx, hlanes, hag⟩ := s.laneGranted_fields d x e
    exact ⟨_, execSamplerLaneGrant_grants ha hl ho, hctx, by rw [hctx]; rfl, by rw [hctx]; rfl, hlanes, hag, rfl⟩
  case valid =>
    exact ⟨_, execMaskHeaderPoll_valid ha hb hs hw hv, s.endWait_fields d x k 1⟩
  case stale =>
    exact ⟨_, _, execMaskHeaderPoll_stale ha hb hs hw hv, rfl, Nat.lt_add_of_pos_right (Nat.add_pos_left Nat.one_pos _), List.mem_append_right _ (List.mem_singleton_self _)⟩
  case poisoned =>
    obtain ⟨hc, -, -⟩ := s.stopCtx_fields d x 68
    exact ⟨_, execMaskHeaderPoll_poisoned ha hb hs hw hv, by rw [hc]; rfl, by rw [hc]; rfl⟩
  case past =>
    exact ⟨_, execSwaitTimeout_over ha hb hs hw hn, s.endWait_fields d x k 0⟩
  case send =>
    intro c
    obtain ⟨n, hends, hn, hwait, hshort⟩ := h.endStep_ends
    obtain ⟨hstep, -, hk, hseed, hdrafts⟩ := c.nextStep_fields s.now
    refine ⟨_, n, rfl, hends.context, ?_, hwait, hshort, fun hv => ?_, fun hv => ?_, ?_, ?_, ?_, hends.lane, hends.homeRead hm⟩
    · rw [hn]; exact hstep
    · rw [hn]; exact c.nextStep_verify s.now hv
    · rw [hn]; exact c.nextStep_draft s.now hv
    · rw [hn]; exact hk
    · rw [hn]; exact hseed
    · rw [hn]; exact hdrafts
  case moved =>
    obtain ⟨e, he, ht⟩ := execReshardDone_moves ha hb hs hf hl
    obtain ⟨he8, hlost⟩ := State.mem_liveDies.mp he
    obtain ⟨hdies, hcolls⟩ := s.remapShard_fields d x s.args.word.toNat s.args.c e
    refine ⟨_, e, ht, ?_, he8, hlost, hcolls⟩
    rw [← State.sctxOf_congr hdies]
    exact (s.remapShard d x s.args.word.toNat s.args.c e).sctxOf_modSctx_self d x fun c => { c with state := .waiting }
  case lost =>
    obtain ⟨hc, -, -⟩ := s.stopCtx_fields d x 53
    exact ⟨_, execReshardDone_stops ha hb hs hf, by rw [hc]; rfl, by rw [hc]; rfl⟩

end Sys2Proof.Machine

namespace Sys2Proof.Machine

/-! ### Responses of F4 (19 R449, R451) -/

section
variable {r : KReq} (hr : cmdCore r.cmd = some 4)
include hr

theorem State.respond_eq_send (s : State) (st : Nat) (p : List Byte) :
    s.respond r st p = s.send ⟨0x0102, 4, 0, st :: p.map (·.toNat), none, some r⟩ .msgKlotaResponse { a := 4 } := by
  unfold State.respond
  rw [hr]
  exact if_neg (by decide)

/-- A response changes the mail, the agenda and the count of free values alone. -/
theorem State.respond_keeps {α : Type} (g : State → α) (hg : ∀ (s : State) m i a, g (s.send m i a) = g s) (s : State) (st : Nat) (p : List Byte) :
    g (s.respond r st p) = g s := by
  rw [State.respond_eq_send hr, hg]

theorem State.respond_answers (s : State) (st : Nat) (p : List Byte) : (s.respond r st p).Answered 4 r st p := by
  rw [State.respond_eq_send hr]
  exact List.mem_append_right _ (List.mem_singleton_self _)

theorem State.respond_dies (s : State) (st : Nat) (p : List Byte) : (s.respond r st p).dies = s.dies :=
  State.respond_keeps hr State.dies (fun _ _ _ _ => rfl) s st p

theorem State.respond_sctxOf (s : State) (st : Nat) (p : List Byte) (d x : Nat) : (s.respond r st p).sctxOf d x = s.sctxOf d x :=
  State.sctxOf_congr (State.respond_dies hr s st p) d x

theorem State.respond_dieOf (s : State) (st : Nat) (p : List Byte) (d : Nat) : (s.respond r st p).dieOf d = s.dieOf d :=
  State.respond_keeps hr (State.dieOf · d) (fun _ _ _ _ => rfl) s st p

end

/-! ### Programs and bindings (12 R334, 19 R453) -/

/-- Values set at rising keys are all there. -/
theorem Map.find?_foldl_set {α : Type} (f : Nat → α) (first n : Nat) (m : Map α) {i : Nat} (hi : i < n) :
    ((List.range n).foldl (fun m k => Map.set m (first + k) (f k)) m).find? (first + i) = some (f i) := by
  induction n with
  | zero => omega
  | succ n ih =>
    rw [List.range_succ, List.foldl_append, List.foldl_cons, List.foldl_nil]
    by_cases h : i = n
    · rw [h, Map.find?_set_self]
    · rw [Map.find?_set_ne _ _ (by omega), ih (by omega)]

section
variable {s : State} {r : KReq} (hr : s.args.req = r) (hc : cmdCore r.cmd = some 4)
include hr hc

/-- Words of the program memory are loaded. -/
theorem execSamplerProg_words (hd : reqField r 0 1 ≤ 7) (hk : reqField r 1 1 = 0) (hl : 6 + 4 * reqField r 4 2 ≤ r.payload.length)
    (hn : reqField r 2 2 + reqField r 4 2 ≤ 16384) : ∃ t, execSamplerProg s = .next t ∧ t.Answered 4 r 0 [] ∧
      ∀ i < reqField r 4 2, (t.dieOf (reqField r 0 1)).sampler.words.find? (reqField r 2 2 + i) = some (BitVec.ofNat 32 (reqField r (6 + 4 * i) 4)) := by
  subst hr
  unfold execSamplerProg
  dsimp only
  rw [if_neg (Nat.not_lt.mpr hd), if_pos hk, if_neg (by simpa using ⟨hl, hn⟩)]
  refine ⟨_, rfl, State.respond_answers hc _ _ _, fun i hi => ?_⟩
  rw [State.respond_dieOf hc, State.dieOf_modDie_self]
  exact Map.find?_foldl_set (fun k => BitVec.ofNat 32 (reqField s.args.req (6 + 4 * k) 4)) _ _ _ hi

/-- An entry of the program table is loaded. -/
theorem execSamplerProg_entry (hd : reqField r 0 1 ≤ 7) (hk : reqField r 1 1 = 1) (hl : 8 ≤ r.payload.length) (he : reqField r 4 4 < 16384) :
    ∃ t, execSamplerProg s = .next t ∧ t.Answered 4 r 0 [] ∧
      (t.dieOf (reqField r 0 1)).sampler.table.find? (reqField r 2 1) = some (reqField r 4 4) := by
  subst hr
  unfold execSamplerProg
  dsimp only
  rw [if_neg (Nat.not_lt.mpr hd), if_neg (by omega), if_neg (by simpa using ⟨⟨hk, hl⟩, he⟩)]
  refine ⟨_, rfl, State.respond_answers hc _ _ _, ?_⟩
  rw [State.respond_dieOf hc, State.dieOf_modDie_self]
  exact Map.find?_set_self _ _ _

/-! #### Contexts -/

section
variable (hl : 131 ≤ r.payload.length) (hd : reqField r 0 1 ≤ 7) (hx : reqField r 1 2 ≤ 1023)
include hl hd hx

theorem execSamplerBind_binds (hs : (s.sctxOf (reqField r 0 1) (reqField r 1 2)).state = .idle) (ho : (cfgOf (sliceOf r.payload 3 128)).ok = true) :
    ∃ t, execSamplerBind s = .next t ∧ t.Answered 4 r 0 [] ∧ t.sctxOf (reqField r 0 1) (reqField r 1 2) =
      { SCtx.blank with state := .waiting, cfg := cfgOf (sliceOf r.payload 3 128), seed := (cfgOf (sliceOf r.payload 3 128)).seed } := by
  subst hr
  unfold execSamplerBind
  dsimp only
  rw [if_neg (by simpa using ⟨⟨hl, hd⟩, hx⟩), if_neg (not_not.mpr hs), if_neg (by simp [ho])]
  refine ⟨_, rfl, State.respond_answers hc _ _ _, ?_⟩
  rw [State.respond_sctxOf hc, State.bindCtx, State.sctxOf_modSctx_self]

/-- A context that serves a request is not bound again. -/
theorem execSamplerBind_busy (hs : (s.sctxOf (reqField r 0 1) (reqField r 1 2)).state ≠ .idle) : execSamplerBind s = .next (s.respond r 4 []) := by
  subst hr
  unfold execSamplerBind
  dsimp only
  rw [if_neg (by simpa using ⟨⟨hl, hd⟩, hx⟩), if_pos hs, stBusy]

theorem execSamplerBind_invalid (hs : (s.sctxOf (reqField r 0 1) (reqField r 1 2)).state = .idle) (ho : (cfgOf (sliceOf r.payload 3 128)).ok = false) :
    execSamplerBind s = .next (s.respond r 3 []) := by
  subst hr
  unfold execSamplerBind
  dsimp only
  rw [if_neg (by simpa using ⟨⟨hl, hd⟩, hx⟩), if_neg (not_not.mpr hs), if_pos (by simp [ho]), stInvalid]

end

/-- An unbound context is idle, and holds no lane. -/
theorem execSamplerUnbind_idle (hl : 3 ≤ r.payload.length) (hd : reqField r 0 1 ≤ 7) (hx : reqField r 1 2 ≤ 1023) :
    ∃ t, execSamplerUnbind s = .next t ∧ t.Answered 4 r 0 [] ∧ (t.sctxOf (reqField r 0 1) (reqField r 1 2)).state = .idle ∧
      reqField r 1 2 ∉ (t.dieOf (reqField r 0 1)).sampler.lanes := by
  subst hr
  unfold execSamplerUnbind
  dsimp only
  rw [if_neg (by simpa using ⟨⟨hl, hd⟩, hx⟩)]
  refine ⟨_, rfl, State.respond_answers hc _ _ _, ?_, ?_⟩
  · rw [State.respond_sctxOf hc]
    exact congrArg SCtx.state (State.sctxOf_modSctx_self _ (reqField s.args.req 0 1) (reqField s.args.req 1 2) fun _ => SCtx.blank)
  · rw [State.respond_dieOf hc]
    show _ ∉ ((s.unbindCtx _ _).dieOf _).sampler.lanes
    rw [State.unbindCtx, State.modSctx_lanes, State.unpost_dieOf]
    exact State.not_mem_freeLane _ _ _

/-! ### Tables (22 R498) -/

section
variable (hop : reqField r 1 3 = 0)
include hop

theorem execVocabLoadImage_loads (hl : 28 ≤ r.payload.length) (hi : reqField r 4 1 ≤ 15) (h0 : reqField r 5 7 = 0)
    (hv : vocOk (sliceOf r.bulk 0 (reqField r 20 8)) = true) :
    (s.inUse (fun q => q.vocab = reqField r 4 1) = false → ∃ t, execVocabLoadImage s = .next t ∧
      t.vocabs.find? (reqField r 4 1) = some (sliceOf r.bulk 0 (reqField r 20 8)) ∧ t.Answered 4 r 0 []) ∧
    (s.inUse (fun q => q.vocab = reqField r 4 1) = true → ∃ t, execVocabLoadImage s = .next t ∧ t.vocabs = s.vocabs ∧ t.Answered 4 r 4 []) := by
  subst hr
  unfold execVocabLoadImage
  dsimp only
  rw [if_neg (by simp [hl, hi, hop, h0, hv])]
  refine ⟨fun hu => ?_, fun hu => ?_⟩
  · rw [if_neg (by simp [hu])]
    refine ⟨_, rfl, ?_, State.respond_answers hc _ _ _⟩
    rw [State.respond_keeps hc State.vocabs fun _ _ _ _ => rfl]
    exact Map.find?_set_self _ _ _
  · rw [if_pos hu]
    exact ⟨_, rfl, State.respond_keeps hc State.vocabs (fun _ _ _ _ => rfl) _ _ _, State.respond_answers hc _ _ _⟩

theorem execVocabLoadService_installs (hl : 20 ≤ r.payload.length) (ho : serviceOk (sliceOf r.payload 4 16) = true)
    (hu : s.inUse (fun q => q.service = fieldOf (sliceOf r.payload 4 16) 0 4) = false) : ∃ t, execVocabLoadService s = .next t ∧
      t.services.find? (fieldOf (sliceOf r.payload 4 16) 0 4) = some (sliceOf r.payload 4 16) ∧ t.Answered 4 r 0 [] := by
  subst hr
  unfold execVocabLoadService
  dsimp only
  rw [if_neg (by simp [hl, hop, ho]), if_neg (by simp [hu])]
  refine ⟨_, rfl, ?_, State.respond_answers hc _ _ _⟩
  rw [State.respond_keeps hc State.services fun _ _ _ _ => rfl]
  exact Map.find?_set_self _ _ _

theorem execVocabLoadRing_installs (hl : 204 ≤ r.payload.length) (ho : ringOk (sliceOf r.payload 4 200) = true)
    (hp : s.pinnedFrames (fieldOf (sliceOf r.payload 4 200) 152 8) 65536 = true)
    (hu : s.inUse (fun q => q.ring = fieldOf (sliceOf r.payload 4 200) 0 1) = false) : ∃ t, execVocabLoadRing s = .next t ∧
      t.rings.find? (fieldOf (sliceOf r.payload 4 200) 0 1) = some (sliceOf r.payload 4 200) ∧ t.Answered 4 r 0 [] := by
  subst hr
  unfold execVocabLoadRing
  dsimp only
  rw [if_neg (by simp [hl, hop, ho, hp]), if_neg (by simp [hu])]
  refine ⟨_, rfl, ?_, State.respond_answers hc _ _ _⟩
  rw [State.respond_keeps hc State.rings fun _ _ _ _ => rfl]
  exact Map.find?_set_self _ _ _

/-- A grammar entry takes the place of the one for the same GRAMMAR and VF. -/
theorem execVocabLoadGrammar_installs (hl : 36 ≤ r.payload.length) {b : List Byte} (hb : sliceOf r.payload 4 32 = b) (h0 : fieldOf b 0 4 ≠ 0)
    (hvf : fieldOf b 4 2 ≤ 191) (h28 : fieldOf b 28 4 = 0) (hv : (s.queueOf (fieldOf b 6 2)).valid = true)
    (hd : (s.queueOf (fieldOf b 6 2)).direct = false) (hq : (s.queueOf (fieldOf b 6 2)).vf = fieldOf b 4 2) (hal : fieldOf b 16 8 % 128 = 0)
    (h1 : 1 ≤ fieldOf b 24 4) (hn : fieldOf b 24 4 ≤ 1024) (hlim : fieldOf b 16 8 + fieldOf b 24 4 * maskRegionBytes ≤ 2 ^ 40)
    (hp : s.pinnedFrames (fieldOf b 16 8) (fieldOf b 24 4 * maskRegionBytes) = true)
    (hu : s.inUse (fun q => (q.region.map (fun g => (g.1, g.2.1))) = some (fieldOf b 0 4, fieldOf b 4 2)) = false) :
    ∃ t, execVocabLoadGrammar s = .next t ∧ b ∈ t.grammars ∧ (∀ g ∈ t.grammars, sameGrammar g b = true → g = b) ∧ t.Answered 4 r 0 [] := by
  subst hr hb
  unfold execVocabLoadGrammar
  dsimp only
  rw [if_neg (by simpa [hl, hop, h0, hvf, h28, hv, hd, hq, hal, Nat.one_le_iff_ne_zero.mp h1, hn, hp] using hlim), if_neg (by simp [hu])]
  refine ⟨_, rfl, ?_, ?_, State.respond_answers hc _ _ _⟩
  · rw [State.respond_keeps hc State.grammars fun _ _ _ _ => rfl]
    exact List.mem_append_right _ (List.mem_singleton_self _)
  · rw [State.respond_keeps hc State.grammars fun _ _ _ _ => rfl]
    intro g hg hsame
    rcases List.mem_append.mp hg with hg | hg
    · have := (List.mem_filter.mp hg).2
      simp [hsame] at this
    · exact List.mem_singleton.mp hg

end

end

/-! ### The obligation -/

/-- Settles O53: each command by its own lemma above, with F4's response. -/
theorem servingRequests : Obligations.ServingRequests := by
  unfold Obligations.ServingRequests
  refine ⟨fun s r hr hcmd hd => ⟨fun n hk hn hl hf => ?words, fun hk hl he => ?entry⟩, fun s r hr hcmd hl hd hx => ?bind, fun s r hr hcmd hl hd hx => ?unbind,
    fun s r hr hcmd hop => ?tables⟩
  all_goals have hc : cmdCore r.cmd = some 4 := by rw [hcmd]; rfl
  case words =>
    subst hn
    exact execSamplerProg_words hr hc hd hk hl hf
  case entry => exact execSamplerProg_entry hr hc hd hk hl he
  case bind =>
    intro d x c
    refine ⟨fun hs ho => ?_, fun hs => ?_, fun hs ho => ?_⟩
    · obtain ⟨t, ht, ha, hctx⟩ := execSamplerBind_binds hr hc hl hd hx hs ho
      refine ⟨t, ht, ?_⟩
      rw [hctx]
      exact ⟨rfl, rfl, rfl, rfl, ha⟩
    · exact ⟨_, execSamplerBind_busy hr hc hl hd hx hs, State.respond_sctxOf hc _ _ _ _ _, State.respond_answers hc _ _ _⟩
    · exact ⟨_, execSamplerBind_invalid hr hc hl hd hx hs ho, State.respond_sctxOf hc _ _ _ _ _, State.respond_answers hc _ _ _⟩
  case unbind =>
    obtain ⟨t, ht, ha, hidle, hlane⟩ := execSamplerUnbind_idle hr hc hl hd hx
    exact ⟨t, ht, hidle, hlane, ha⟩
  case tables =>
    exact ⟨fun hl hi h0 hv => execVocabLoadImage_loads hr hc hop hl hi h0 hv, fun hl ho hu => execVocabLoadService_installs hr hc hop hl ho hu,
      fun hl ho hp hu => execVocabLoadRing_installs hr hc hop hl ho hp hu,
      fun hl h0 hvf h28 hv hd hq hal h1 hn hlim hp hu => execVocabLoadGrammar_installs hr hc hop hl rfl h0 hvf h28 hv hd hq hal h1 hn hlim hp hu⟩

end Sys2Proof.Machine
